-- ==== Sys2Proof/Word.lean ====
section
/-! DEFINITION. The word types of the register space, the Warp frame and the scratch banks (spec/00 Notation, R27, R65, R117, R362). -/
namespace Sys2Proof

/-- A 32-bit register. -/
abbrev Word := BitVec 32

/-- A byte of a frame, a message or a scratch bank. -/
abbrev Byte := BitVec 8

/-- A Shed master ID (R362). -/
abbrev Mid := BitVec 8

/-- A local skein reference (R65): port code, lane and skein. -/
abbrev Lsr := BitVec 20

/-- A thread reference (R117): Fine loom position and thread. -/
abbrev Tref := BitVec 18

end Sys2Proof
end

