-- ==== Sys2Proof/Syntax.lean ====
section
/-! DEFINITION. The commands of the block: one constructor of `Instr` per row of spec/opcode_table.json, in its order.
An access row carries the Shed master that makes it and the value it writes; a receive row carries the bytes received;
a row that stands for an event of the hardware names the object it happens to; MODULE_BOLT_BOUNDARY carries what was
measured in the bolt just ended (BoltObs). -/
namespace Sys2Proof

/-- Consecutive cells received on the Bamry or the management channel of a lane: the channel's cell of the bolt that the first of them
is, and each cell's 64 bytes as they stand on the line (R31, R40). -/
structure CellRun where
  first : Nat
  cells : List (List Byte)
deriving DecidableEq, Repr

/-- What a receive lane measured in the bolt just ended (R46, R53, R59, R165). -/
structure LaneObs where
  lane : Nat
  /-- corrected FEC symbols of the bolt -/
  fecCor : Nat
  /-- uncorrectable codewords of the bolt -/
  fecUnc : Nat
  /-- the module pick in which pick 0 of the lane's bolt arrives at the alignment buffer, before the lane delay of R452 -/
  arr : Nat
  /-- bit errors the pattern checker counted -/
  patErr : Nat
  /-- received APS slots (slot number, its eight bytes as they stand on the line) -/
  aps : List (Nat × BitVec 64)
  /-- received reserved picks: pick number (185 to 383), its 64 bytes as they stand on the line; one not listed came as zeros before
  scrambling (R42) -/
  rsv : List (Nat × List Byte) := []
deriving DecidableEq, Repr

/-- What the Beat measured at the boundary (R225, R229). -/
structure BeatObs where
  /-- phase error against the target of R229, ps -/
  phErr : Int
  /-- frequency error, ppb -/
  freqErr : Int
  /-- DCO value the loop steers to while it tracks, ppt -/
  dco : Int
  /-- output phase, ps -/
  phiOut : Int
  /-- phase of each candidate measured, ps -/
  phi : List (Nat × Int)
deriving DecidableEq, Repr

/-- What is measured at a module bolt boundary. -/
structure BoltObs where
  lanes : List LaneObs
  beat : BeatObs
  /-- input voltage (10 mV), current (10 mA), power (0.1 W) (R422) -/
  vin : BitVec 16
  iin : BitVec 16
  pin : BitVec 16
  /-- the twelve sensors, 1/16 degree C (R428) -/
  temps : List (BitVec 16)
  /-- bank words (direct-window offset / 8) hit by an upset in the bolt; true: uncorrectable (R343) -/
  upsets : List (Nat × Bool)
  /-- trail accumulators, by skein number 160 l + k, that a parity error struck after the last pick that a row brought (R198) -/
  accErrs : List Nat := []
  /-- single-bit errors that the Selvage store corrected in the bolt (R179) -/
  storeCor : Nat := 0
deriving DecidableEq, Repr

/-- A lane defect (bit of R62) or a skein defect (0 S-AIS, 1 S-OCI, 2 S-LCK, 3 S-MIS, 4 S-TIM). -/
inductive DefectRef where
  | lane (l : Fin 512) (d : Fin 10)
  | skein (k : Fin 81920) (d : Fin 5)
deriving DecidableEq, Repr

/-- A payload pick that leaves an alignment buffer, or a rewoven pick of a Fine loom output (R73). -/
structure PickIn where
  /-- source LSR (R65) -/
  src : Lsr
  /-- module round in which it leaves the alignment buffer, 0-624; of a lost pick, the lane round in which it came -/
  round : Nat
  /-- a slip or a recentre discards it: it came, and no module round carries it (R55, R56) -/
  lost : Bool := false
  /-- the 64 bytes as they stand on the line, scrambled (R26) -/
  payload : List Byte
  /-- it came from an uncorrectable codeword (R174) -/
  fecUnc : Bool
  /-- it lies in the two rounds before the onset of raw LOS, LOL or OOF (R174) -/
  onset : Bool
  /-- a parity error struck its skein's trail accumulator as it took the pick (R198) -/
  accErr : Bool := false
  /-- 1.5625 GHz clock count within its bolt at stamp 0 (R393), and whether that is the bolt before the present one -/
  clk : Nat
  prevBolt : Bool := false
  /-- single-bit errors corrected in the Heddle entries that steer it (R88) -/
  sbe : Nat
deriving DecidableEq, Repr

/-- An entry of a Heddle map: map 0 ingress, 1 Reed, 2 egress; the Reed port and slot, or the destination LSR index (R69). -/
structure HeddleRef where
  map : Fin 3
  port : Fin 9
  idx : BitVec 14
deriving DecidableEq, Repr

/-- An entry of a thread map (0 output, 1 input tag) or a pick of the thread buffer (2) (R133). -/
structure FineRef where
  map : Fin 3
  tref : Tref
  /-- of the buffer's two picks of the thread, the newer one -/
  newer : Bool
deriving DecidableEq, Repr

/-- Causes of WEAVER_FAULT other than the watchdog (R286). -/
inductive WeaverCause where
  | memory | trap
deriving DecidableEq, Repr

/-- Wake events of R303. -/
inductive WakeCause where
  | post | bolt | timer
deriving DecidableEq, Repr

/-- What the boot ROM finds in flash (R317). -/
structure BootImage where
  activeOk : Bool
  otherOk : Bool
  version : BitVec 16
deriving DecidableEq, Repr

/-- A change that the tenant service reports (R301): declared defects of skein position `k` or lane `l`, protection group `g`, a tenant
violation at destination LSR `d` or output thread `t`. -/
inductive TenEvent where
  | skeinDefect (k : Nat)
  | laneDefect (l : Nat)
  | group (g : Nat)
  | violation (d : Nat)
  | threadViolation (t : Nat)
deriving DecidableEq, Repr

/-- The data of a write (R365): one word, and in a burst the beats after the first; the bytes of it that a host request does not enable (R401);
the beats that meet a write of the owner to their word in the same bank cycle (R340). -/
structure BusData where
  v : BitVec 64
  more : List (BitVec 64)
  off : List Nat
  clash : List Nat
deriving DecidableEq, Repr

/-- What host memory gives a DMA channel (R416); the groups of 8 bytes of the device side, by BAR0 address / 8, whose word the owner writes in the
same bank cycle (R340). -/
structure DmaData where
  bytes : List Byte
  clash : List Nat
deriving DecidableEq, Repr

/-- What a write through an alias brings (R340, R342): its data, and whether in the same bank cycle the owner wrote the word. -/
structure AliasData where
  v : BitVec 64
  sameCycle : Bool
deriving DecidableEq, Repr

/-- What the start-up of a cold reset finds (R352, R429, R437): the failing rows of its memory test (bank, row), and, after a thermal trip,
whether a sensor that has power still reads above 105 degree C. -/
structure StartTest where
  /-- in the order in which they fail -/
  rows : List (Nat × Nat)
  /-- repaired banks that fail March C− again -/
  again : List Nat
  hot : Bool
deriving DecidableEq, Repr

/-- The commands: one constructor per row of spec/opcode_table.json. -/
inductive Instr where
  /-- REGISTER_WRITE (R6). -/
  | registerWrite (m : Mid) (addr : BitVec 27) (size : Nat) (v : BusData)
  /-- IRQ_RAW_CLEAR (R405). -/
  | irqRawClear (m : Mid) (page : BitVec 26) (v : Word) (same : Word)
  /-- IRQ_FORCE (R405). -/
  | irqForce (m : Mid) (page : BitVec 26) (v : Word)
  /-- ERRLOG_READ (R405). -/
  | errlogRead (m : Mid) (page : BitVec 26)
  /-- MODULE_BOLT_BOUNDARY (R45). -/
  | moduleBoltBoundary (o : BoltObs)
  /-- SIGNAL_DETECT_LOST (R46). -/
  | signalDetectLost (l : Fin 512) (openMsg : Bool)
  /-- SIGNAL_DETECT_RESTORED (R46). -/
  | signalDetectRestored (l : Fin 512)
  /-- CLOCK_RECOVERY_LOST (R46). -/
  | clockRecoveryLost (l : Fin 512) (openMsg : Bool)
  /-- CLOCK_RECOVERY_LOCKED (R25). -/
  | clockRecoveryLocked (l : Fin 512)
  /-- CODEWORD_LOCK_ACQUIRED (R25). -/
  | codewordLockAcquired (l : Fin 512)
  /-- CODEWORD_LOCK_LOST (R25). -/
  | codewordLockLost (l : Fin 512) (openMsg : Bool)
  /-- FAW_HUNT_MATCH (R44). -/
  | fawHuntMatch (l : Fin 512) (faw : BitVec 64) (bolt : Word)
  /-- FAW_EXPECTED (R44). -/
  | fawExpected (l : Fin 512) (faw : BitVec 64)
  /-- FRAMER_SYNC (R44). -/
  | framerSync (l : Fin 512) (bolt : Word)
  /-- FRAMER_OUT_OF_SYNC (R44). -/
  | framerOutOfSync (l : Fin 512) (openMsg : Bool)
  /-- LANE_HEADER_RX (R34). -/
  | laneHeaderRx (l : Fin 512) (hdr : List Byte) (bip : Word)
  /-- SKEIN_HEADER_RX (R47). -/
  | skeinHeaderRx (k : Fin 81920) (hdr : List Byte)
  /-- DEFECT_DECLARED (R45). -/
  | defectDeclared (d : DefectRef)
  /-- DEFECT_CLEARED (R45). -/
  | defectCleared (d : DefectRef)
  /-- RECENTRE (R56). -/
  | recentre (l : Fin 512) (fill : Nat) (off : Fin 625)
  /-- RECENTRE_COMMAND (R56). -/
  | recentreCommand (m : Mid) (l : Fin 512)
  /-- LN_MODE_WRITE (R61). -/
  | lnModeWrite (m : Mid) (l : Fin 512) (v : Word)
  /-- LN_INTG_WRITE (R63). -/
  | lnIntgWrite (m : Mid) (l : Fin 512) (d : Fin 15) (v : Word)
  /-- LN_PAT_ERR_CNT_READ (R60). -/
  | lnPatErrCntRead (m : Mid) (l : Fin 512)
  /-- PICK_SWITCH (R73). -/
  | pickSwitch (p : PickIn)
  /-- HEDDLE_ECC_UNCORRECTABLE (R88). -/
  | heddleEccUncorrectable (e : HeddleRef)
  /-- HEDDLE_ENTRY_RELOAD (R88). -/
  | heddleEntryReload (e : HeddleRef) (copyUnc : Bool)
  /-- D2D_LINK_LOST (R20). -/
  | d2dLinkLost (p : Fin 8) (outstanding : List (Mid × BitVec 26 × Bool))
  /-- LINK_DOWN_DECLARED (R20). -/
  | linkDownDeclared (p : Fin 8)
  /-- TRD_ENQUEUE (R89). -/
  | trdEnqueue (m : Mid) (win : Fin 4) (v : Word)
  /-- CONNECT (R97). -/
  | connect
  /-- DISCONNECT (R91). -/
  | disconnect
  /-- CONNECT_P (R180). -/
  | connectP
  /-- RECONNECT (R97). -/
  | reconnect
  /-- LOCK (R91). -/
  | lock
  /-- FORCE_AIS (R91). -/
  | forceAis
  /-- RELEASE (R91). -/
  | release
  /-- COMMIT (R92). -/
  | commit
  /-- ABORT (R91). -/
  | abort
  /-- DEFRAG (R102). -/
  | defrag
  /-- RETAG (R80). -/
  | retag
  /-- QUERY (R91). -/
  | query
  /-- FENCE (R91). -/
  | fence
  /-- FENCE_DONE (R85). -/
  | fenceDone
  /-- TRD_ARM (R83). -/
  | trdArm
  /-- TILE_ARM_ACK (R83). -/
  | tileArmAck (t : Fin 9)
  /-- ARM_DEADLINE (R84). -/
  | armDeadline
  /-- HEDDLE_COMMIT (R81). -/
  | heddleCommit
  /-- STANDBY_COPY_DONE (R83). -/
  | standbyCopyDone
  /-- TRD_COMPLETIONS_POST (R95). -/
  | trdCompletionsPost
  /-- TRD_BATCH_TIMEOUT (R92). -/
  | trdBatchTimeout
  /-- PWAIT_EXPIRE (R86). -/
  | pwaitExpire
  /-- TRD_ABORT_OPEN (R105). -/
  | trdAbortOpen (m : Mid)
  /-- TRD_FLUSH_Q (R105). -/
  | trdFlushQ (m : Mid)
  /-- HDL_READ (R104). -/
  | hdlRead (m : Mid)
  /-- HDL_READ_DONE (R104). -/
  | hdlReadDone
  /-- FINE_ENQUEUE (R125). -/
  | fineEnqueue (m : Mid) (win : Fin 4) (v : Word)
  /-- TCONNECT (R122). -/
  | tconnect
  /-- TDISCONNECT (R126). -/
  | tdisconnect
  /-- TRECONNECT (R123). -/
  | treconnect
  /-- TLOCK (R126). -/
  | tlock
  /-- TFORCE_AIS (R126). -/
  | tforceAis
  /-- TRELEASE (R126). -/
  | trelease
  /-- FINE_COMMIT (R127). -/
  | fineCommit
  /-- FINE_ABORT (R127). -/
  | fineAbort
  /-- TRETAG_IN (R123). -/
  | tretagIn
  /-- TRETAG_OUT (R123). -/
  | tretagOut
  /-- TQUERY (R126). -/
  | tquery
  /-- FINE_FENCE (R127). -/
  | fineFence
  /-- FINE_FENCE_DONE (R127). -/
  | fineFenceDone
  /-- FINE_LOOM_COMMIT (R129). -/
  | fineLoomCommit
  /-- FINE_COMPLETIONS_POST (R130). -/
  | fineCompletionsPost
  /-- FINE_BATCH_TIMEOUT (R127). -/
  | fineBatchTimeout
  /-- FINE_ABORT_OPEN (R140). -/
  | fineAbortOpen (m : Mid)
  /-- FINE_FLUSH_Q (R140). -/
  | fineFlushQ (m : Mid)
  /-- FINE_ASG_WRITE (R110). -/
  | fineAsgWrite (m : Mid) (f : Fin 1280) (v : Word)
  /-- FINE_MAP_READ (R140). -/
  | fineMapRead (m : Mid)
  /-- FINE_MAP_READ_DONE (R140). -/
  | fineMapReadDone
  /-- THREAD_PICK_READ (R124). -/
  | threadPickRead (out : BitVec 18) (round : Nat) (sbe : Nat)
  /-- FINE_ECC_UNCORRECTABLE (R133). -/
  | fineEccUncorrectable (e : FineRef)
  /-- FINE_ENTRY_RELOAD (R133). -/
  | fineEntryReload (e : FineRef) (copyUnc : Bool)
  /-- PROT_GCFG_WRITE (R150). -/
  | protGcfgWrite (m : Mid) (g : Fin 8192) (v : Word)
  /-- PROT_CLEAR (R154). -/
  | protClear (m : Mid) (g : Fin 8192)
  /-- PROT_LOCKOUT (R154). -/
  | protLockout (m : Mid) (g : Fin 8192)
  /-- PROT_FORCE (R154). -/
  | protForce (m : Mid) (g : Fin 8192) (member : BitVec 4)
  /-- PROT_MANUAL_P (R154). -/
  | protManualP (m : Mid) (g : Fin 8192) (member : BitVec 4)
  /-- PROT_MANUAL_W (R154). -/
  | protManualW (m : Mid) (g : Fin 8192)
  /-- PROT_EXERCISE (R154). -/
  | protExercise (m : Mid) (g : Fin 8192)
  /-- PROT_RETIME (R176). -/
  | protRetime (m : Mid) (g : Fin 8192)
  /-- HOLDOFF_EXPIRE (R152). -/
  | holdoffExpire (g : Fin 8192) (leg : Fin 16) (sd : Bool)
  /-- WTR_EXPIRE (R159). -/
  | wtrExpire (g : Fin 8192)
  /-- PROT_APS_CHGQ_READ (R165). -/
  | protApsChgqRead (m : Mid)
  /-- APS_MESSAGE_ACCEPT (R165). -/
  | apsMessageAccept (g : Fin 8192)
  /-- FOP_PM_SET (R166). -/
  | fopPmSet (g : Fin 8192)
  /-- FOP_NR_SET (R166). -/
  | fopNrSet (g : Fin 8192)
  /-- FOP_TO_SET (R166). -/
  | fopToSet (g : Fin 8192)
  /-- PROT_AGENT_HB_WRITE (R167). -/
  | protAgentHbWrite (m : Mid) (v : Word)
  /-- APS_AGENT_LOST (R167). -/
  | apsAgentLost
  /-- PROT_EVQ_READ (R184). -/
  | protEvqRead (m : Mid)
  /-- LEG_ACQUIRED (R171). -/
  | legAcquired (g : Fin 8192) (protect : Bool)
  /-- ACQ_TIMEOUT (R172). -/
  | acqTimeout (g : Fin 8192)
  /-- STORE_FILL_COMPLETE (R172). -/
  | storeFillComplete (g : Fin 8192)
  /-- AUTO_RETIME (R172). -/
  | autoRetime (g : Fin 8192)
  /-- HBM_NOT_READY (R179). -/
  | hbmNotReady (h : Fin 2)
  /-- SELV_ECC_UNCORRECTABLE (R179). -/
  | selvEccUncorrectable (g : Fin 8192) (ob : Word) (rho : Nat)
  /-- SELV_CFG_WRITE (R192). -/
  | selvCfgWrite (m : Mid) (v : Word)
  /-- BLZ_CLAIM (R203). -/
  | blzClaim (m : Mid) (u : Fin 8)
  /-- BLZ_RELEASE (R203). -/
  | blzRelease (m : Mid) (u : Fin 8)
  /-- BLZ_UDATA32_WRITE (R204). -/
  | blzUdata32Write (m : Mid) (u : Fin 72) (v : Word)
  /-- BLZ_UDATA8_WRITE (R204). -/
  | blzUdata8Write (m : Mid) (u : Fin 72) (v : Word)
  /-- BLZ_INIT (R210). -/
  | blzInit (m : Mid) (u : Fin 72)
  /-- BLZ_RUN_BLOCK (R205). -/
  | blzRunBlock (m : Mid) (u : Fin 72) (init : Bool)
  /-- BLZ_ABORT (R205). -/
  | blzAbort (m : Mid) (u : Fin 72)
  /-- BLZ_RUN_DONE (R205). -/
  | blzRunDone (u : Fin 72)
  /-- BLZ_URUN_WRITE (R206). -/
  | blzUrunWrite (m : Mid) (u : Fin 72) (hi : Bool) (v : Word)
  /-- BEAT_DCO_LO_READ (R213). -/
  | beatDcoLoRead (m : Mid)
  /-- BEAT_DCO_LO_WRITE (R213). -/
  | beatDcoLoWrite (m : Mid) (v : Word)
  /-- BEAT_DCO_HI_WRITE (R213). -/
  | beatDcoHiWrite (m : Mid) (v : Word)
  /-- FREQ_MONITOR_WINDOW (R215). -/
  | freqMonitorWindow (c : Fin 24) (ppb : Int)
  /-- REF_ACTIVITY_GAP (R217). -/
  | refActivityGap (c : Fin 8)
  /-- REF_ACTIVE_RESTORED (R217). -/
  | refActiveRestored (c : Fin 8)
  /-- CANDIDATE_QUALIFIED (R219). -/
  | candidateQualified (c : Fin 24)
  /-- LR_QL_CHANGE (R221). -/
  | lrQlChange (c : Fin 24)
  /-- FREF_PIN_CHANGE (R224). -/
  | frefPinChange (en_n : Bool) (sel : BitVec 5)
  /-- LOOP_STAGE_ADVANCE (R225). -/
  | loopStageAdvance
  /-- BEAT_LOCKED (R225). -/
  | beatLocked
  /-- BEAT_LOCK_LOST (R226). -/
  | beatLockLost
  /-- BEAT_ACQ_TIMEOUT (R226). -/
  | beatAcqTimeout
  /-- HOLDOVER_MAX_EXPIRE (R226). -/
  | holdoverMaxExpire
  /-- HO_VALID_SET (R227). -/
  | hoValidSet
  /-- SELECTED_REF_LOST (R228). -/
  | selectedRefLost
  /-- PULL_COMPLETE (R230). -/
  | pullComplete
  /-- BEAT_CLR_HO (R227). -/
  | beatClrHo (m : Mid)
  /-- BEAT_ALIGN_GO (R235). -/
  | beatAlignGo (m : Mid)
  /-- ALIGN_START (R235). -/
  | alignStart (markerPs : Int)
  /-- ALIGN_COMPLETE (R235). -/
  | alignComplete
  /-- BEAT_ALIGN_CANCEL (R237). -/
  | beatAlignCancel (m : Mid)
  /-- PPS_OUT_EDGE (R233). -/
  | ppsOutEdge
  /-- HELLO_RX (R253). -/
  | helloRx (l : Fin 512) (c : CellRun)
  /-- ID_REQ_RX (R257). -/
  | idReqRx (l : Fin 512) (c : CellRun)
  /-- ID_OFFER_RX (R256). -/
  | idOfferRx (l : Fin 512) (c : CellRun)
  /-- ID_ACK_RX (R257). -/
  | idAckRx (l : Fin 512) (c : CellRun)
  /-- SETUP_RX (R261). -/
  | setupRx (l : Fin 512) (c : CellRun)
  /-- CONFIRM_RX (R262). -/
  | confirmRx (l : Fin 512) (c : CellRun)
  /-- REFUSE_RX (R263). -/
  | refuseRx (l : Fin 512) (c : CellRun)
  /-- TEARDOWN_RX (R267). -/
  | teardownRx (l : Fin 512) (c : CellRun)
  /-- TD_ACK_RX (R267). -/
  | tdAckRx (l : Fin 512) (c : CellRun)
  /-- MGMT_MESSAGE_RX (R41). -/
  | mgmtMessageRx (l : Fin 512) (c : CellRun)
  /-- HELLO_INTERVAL (R251). -/
  | helloInterval
  /-- HELLO_LOSS_TIMEOUT (R253). -/
  | helloLossTimeout (p : Fin 8)
  /-- ID_OFFER_TIMEOUT (R257). -/
  | idOfferTimeout
  /-- BMY_REQ_SETUP (R271). -/
  | bmyReqSetup
  /-- BMY_REQ_TEARDOWN (R271). -/
  | bmyReqTeardown
  /-- AGENT_COMPLETION (R262). -/
  | agentCompletion
  /-- SETUP_TMO (R272). -/
  | setupTmo (rno : BitVec 16)
  /-- RSV_TMO (R272). -/
  | rsvTmo (orig : BitVec 18) (rno : BitVec 16)
  /-- RETRY_BACKOFF (R272). -/
  | retryBackoff (rno : BitVec 16)
  /-- TEARDOWN_RESEND (R267). -/
  | teardownResend (p : Fin 8)
  /-- BAMRY_AUDIT (R268). -/
  | bamryAudit
  /-- BMY_DEVID_WRITE (R275). -/
  | bmyDevidWrite (m : Mid) (v : Word)
  /-- BAMRY_AGENT_LOST (R273). -/
  | bamryAgentLost
  /-- BAMRY_AGENT_RESTART (R274). -/
  | bamryAgentRestart
  /-- WVR_ROLE_REQ_WRITE (R284). -/
  | wvrRoleReqWrite (m : Mid) (w : Fin 64) (v : Word)
  /-- ROLE_REQUEST_SERVE (R284). -/
  | roleRequestServe (w : Fin 64) (imageOk : Bool)
  /-- WVR_CMD_DRAINED (R285). -/
  | wvrCmdDrained (m : Mid) (w : Fin 64)
  /-- DRAIN_TIMEOUT (R285). -/
  | drainTimeout (w : Fin 64)
  /-- ROLE_IMAGE_LOADED (R285). -/
  | roleImageLoaded (w : Fin 64)
  /-- WVR_CMD_HALT (R278). -/
  | wvrCmdHalt (m : Mid) (w : Fin 64)
  /-- WVR_CMD_RESUME (R305). -/
  | wvrCmdResume (m : Mid) (w : Fin 64)
  /-- WVR_CMD_RESTART (R286). -/
  | wvrCmdRestart (m : Mid) (w : Fin 64)
  /-- WEAVER_FAULT (R286). -/
  | weaverFault (w : Fin 64) (cause : WeaverCause)
  /-- WEAVER_WATCHDOG (R286). -/
  | weaverWatchdog (w : Fin 64)
  /-- WEAVER_AUTO_RESTART (R286). -/
  | weaverAutoRestart (w : Fin 64)
  /-- WVR_POST (R289). -/
  | wvrPost (m : Mid) (w : Fin 64) (v : Word)
  /-- WVR_INBOX_POP (R292). -/
  | wvrInboxPop (m : Mid) (w : Fin 64)
  /-- WEAVER_SLEEP (R303). -/
  | weaverSleep (w : Fin 64)
  /-- WEAVER_WAKE (R303). -/
  | weaverWake (w : Fin 64) (cause : WakeCause)
  /-- POLICY_INTERVAL (R293). -/
  | policyInterval (w : Fin 64) (meas : List (Nat × Nat))
  /-- GUARDED_WRITE (R296). -/
  | guardedWrite (w : Fin 64) (addr : BitVec 26) (v : Word)
  /-- PERF_COLLECT (R279). -/
  | perfCollect (p : Fin 8)
  /-- TEN_LIST (R300). -/
  | tenList
  /-- TEN_STATE (R300). -/
  | tenState
  /-- TEN_COUNT (R300). -/
  | tenCount
  /-- TEN_PROT (R300). -/
  | tenProt
  /-- TEN_HANDOFF (R302). -/
  | tenHandoff
  /-- HANDOFF_RETAG_DONE (R302). -/
  | handoffRetagDone
  /-- TENANT_EVENT_WRITE (R301). -/
  | tenantEventWrite (e : TenEvent)
  /-- TEN_AGENT_LOST (R307). -/
  | tenAgentLost
  /-- LEASE_TICK (R310). -/
  | leaseTick
  /-- LEASE_EXPIRE (R312). -/
  | leaseExpire
  /-- FMN_LEASE_CLAIM (R311). -/
  | fmnLeaseClaim (m : Mid) (v : Word)
  /-- FMN_LEASE_RENEW (R311). -/
  | fmnLeaseRenew (m : Mid) (v : Word)
  /-- FMN_LEASE_REL (R311). -/
  | fmnLeaseRel (m : Mid) (v : Word)
  /-- HEARTBEAT_WIRE_EDGE (R315). -/
  | heartbeatWireEdge (b : Bool)
  /-- WIRE_TIMEOUT (R315). -/
  | wireTimeout
  /-- ISLAND_FAULT (R486). -/
  | islandFault (b : Bool)
  /-- HELD_RELEASE (R486). -/
  | heldRelease (b : Bool)
  /-- FOREMAN_BOOT (R317). -/
  | foremanBoot (b : Bool) (img : BootImage)
  /-- BOOT_TIMEOUT (R319). -/
  | bootTimeout (b : Bool)
  /-- FOREMAN_REVERT_WTR (R320). -/
  | foremanRevertWtr
  /-- FORMER_HOLDER_POWER_OFF (R320). -/
  | formerHolderPowerOff
  /-- FMN_START_A (R331). -/
  | fmnStartA (m : Mid)
  /-- FMN_START_B (R331). -/
  | fmnStartB (m : Mid)
  /-- FMN_STOP_A (R312). -/
  | fmnStopA (m : Mid)
  /-- FMN_STOP_B (R312). -/
  | fmnStopB (m : Mid)
  /-- FMN_CLR_FAIL (R319). -/
  | fmnClrFail (m : Mid)
  /-- FMN_POST (R329). -/
  | fmnPost (m : Mid) (b : Bool) (v : Word)
  /-- FMN_INBOX_POP (R329). -/
  | fmnInboxPop (m : Mid)
  /-- FMN_SELF_WRITE (R331). -/
  | fmnSelfWrite (m : Mid) (b : Bool) (v : Word)
  /-- CHECKPOINT_INTERVAL (R323). -/
  | checkpointInterval
  /-- CHECKPOINT_FLASH_INTERVAL (R323). -/
  | checkpointFlashInterval
  /-- MBX_CQ_TAIL_WRITE (R415). -/
  | mbxCqTailWrite (m : Mid) (r : Fin 4) (v : Word)
  /-- MBX_COMMAND_TAKE (R415). -/
  | mbxCommandTake (r : Fin 4)
  /-- PING (R326). -/
  | ping (r : Fin 4)
  /-- STATUS (R326). -/
  | status (r : Fin 4)
  /-- MBX_TREADLE (R326). -/
  | mbxTreadle (r : Fin 4)
  /-- MBX_TREADLE_REPLY (R326). -/
  | mbxTreadleReply
  /-- MBX_FINE (R326). -/
  | mbxFine (r : Fin 4)
  /-- MBX_FINE_REPLY (R326). -/
  | mbxFineReply
  /-- CKPT_NOW (R326). -/
  | ckptNow (r : Fin 4)
  /-- CKPT_FLASH (R326). -/
  | ckptFlash (r : Fin 4)
  /-- FW_WRITE (R326). -/
  | fwWrite (r : Fin 4) (data : List Byte) (flashOk : Bool)
  /-- FW_ACTIVATE (R326). -/
  | fwActivate (r : Fin 4) (sigOk : Bool)
  /-- HANDOVER (R320). -/
  | handover (r : Fin 4)
  /-- MGMT_SEND (R326). -/
  | mgmtSend (r : Fin 4)
  /-- MGMT_CFG (R326). -/
  | mgmtCfg (r : Fin 4)
  /-- MAILBOX_REPLAY (R324). -/
  | mailboxReplay
  /-- BANK_OWN_WRITE (R337). -/
  | bankOwnWrite (m : Mid) (b : Fin 64) (v : Word)
  /-- BANK_HANDOVER_DONE (R337). -/
  | bankHandoverDone (b : Fin 64)
  /-- BANK_WRITE (R336). -/
  | bankWrite (m : Mid) (off : BitVec 23) (size : Nat) (v : BitVec 64) (sameCycle : Bool)
  /-- BANK_READ (R343). -/
  | bankRead (m : Mid) (off : BitVec 23) (size : Nat)
  /-- BANK_ALIAS_SET (R342). -/
  | bankAliasSet (m : Mid) (off : BitVec 23) (size : Nat) (v : AliasData)
  /-- BANK_ALIAS_CLEAR (R342). -/
  | bankAliasClear (m : Mid) (off : BitVec 23) (size : Nat) (v : AliasData)
  /-- MARCH_START (R346). -/
  | marchStart (m : Mid) (v : Word)
  /-- MARCH_ROW_LOCK (R348). -/
  | marchRowLock
  /-- MARCH_ROW_DONE (R348). -/
  | marchRowDone (fails : List (Fin 64))
  /-- MARCH_TEST_DONE (R347). -/
  | marchTestDone (fails : List (Fin 64))
  /-- MARCH_ABORT (R350). -/
  | marchAbort (m : Mid)
  /-- BANK_FUSE_KEY (R351). -/
  | bankFuseKey (m : Mid) (v : Word)
  /-- BANK_FUSE_CMD (R351). -/
  | bankFuseCmd (m : Mid) (v : Word)
  /-- FUSE_BURN_DONE (R351). -/
  | fuseBurnDone
  /-- SKID_ALLOC (R353). -/
  | skidAlloc (m : Mid)
  /-- SKID_FREE (R355). -/
  | skidFree (m : Mid) (v : Word)
  /-- SKID_BUFFER_WRITE (R354). -/
  | skidBufferWrite (m : Mid) (i : Fin 8192) (off : Fin 256) (size : Nat) (v : BitVec 64)
  /-- SKID_LOWMARK_READ (R358). -/
  | skidLowmarkRead (m : Mid)
  /-- TALLY_FOLD (R380). -/
  | tallyFold
  /-- TLY_READ (R384). -/
  | tlyRead (m : Mid)
  /-- TLY_READ_DONE (R384). -/
  | tlyReadDone
  /-- TLY_CLEAR (R385). -/
  | tlyClear (m : Mid)
  /-- TLY_SNAP_NOW (R388). -/
  | tlySnapNow (m : Mid)
  /-- TLY_SNAP_AT (R388). -/
  | tlySnapAt (m : Mid)
  /-- SNAPSHOT (R388). -/
  | snapshot
  /-- BOLT_RECORD_WRITE (R389). -/
  | boltRecordWrite (p : Fin 8)
  /-- TLY_HCLR (R396). -/
  | tlyHclr (m : Mid)
  /-- PCIE_LINK_DOWN (R400). -/
  | pcieLinkDown
  /-- PCIE_HOT_RESET (R400). -/
  | pcieHotReset
  /-- PCIE_D3HOT_ENTRY (R400). -/
  | pcieD3hotEntry
  /-- PCIE_REQUESTS_RESUME (R411). -/
  | pcieRequestsResume (bme : Bool) (msixEn : Bool) (fmask : Bool)
  /-- MSIX_VECTOR_UNMASK (R411). -/
  | msixVectorUnmask (v : Fin 64)
  /-- GVEC_EOI (R411). -/
  | gvecEoi (m : Mid) (v : Word)
  /-- DMA_GO (R416). -/
  | dmaGo (c : Fin 3) (dir : Bool)
  /-- DMA_ABORT (R416). -/
  | dmaAbort (c : Fin 3)
  /-- DMA_DONE (R416). -/
  | dmaDone (c : Fin 3) (data : DmaData)
  /-- SMB_SET_POINTER (R417). -/
  | smbSetPointer (v : Word)
  /-- SMB_READ_REGISTER (R417). -/
  | smbReadRegister
  /-- SMB_WRITE_REGISTER (R418). -/
  | smbWriteRegister (v : Word)
  /-- SMB_READ_IDENTITY (R417). -/
  | smbReadIdentity
  /-- SMB_READ_POWER (R417). -/
  | smbReadPower
  /-- SMB_READ_TEMPERATURES (R417). -/
  | smbReadTemperatures
  /-- POWER_ON (R437). -/
  | powerOn (straps : BitVec 12)
  /-- POWER_OFF (R420). -/
  | powerOff
  /-- PWR_DOM_CTRL_WRITE (R423). -/
  | pwrDomCtrlWrite (m : Mid) (v : Word)
  /-- PORT_TILE_SLEEP (R424). -/
  | portTileSleep (p : Fin 8)
  /-- PORT_TILE_WAKE (R424). -/
  | portTileWake (p : Fin 8)
  /-- PORT_TILE_UP (R424). -/
  | portTileUp (p : Fin 8)
  /-- CLUSTER_POWER_OFF (R304). -/
  | clusterPowerOff (c : Fin 8)
  /-- CLUSTER_POWER_ON (R304). -/
  | clusterPowerOn (c : Fin 8)
  /-- CLUSTER_IDLE (R304). -/
  | clusterIdle (c : Fin 8)
  /-- HBM_POWER_ON (R425). -/
  | hbmPowerOn (h : Fin 2)
  /-- HBM_POWER_OFF (R423). -/
  | hbmPowerOff (h : Fin 2)
  /-- HBM_READY (R425). -/
  | hbmReady (h : Fin 2)
  /-- THERMAL_TRIP (R429). -/
  | thermalTrip
  /-- RESET_N_ASSERT (R431). -/
  | resetNAssert (ns : Nat)
  /-- GLB_RST_KEY_WRITE (R432). -/
  | glbRstKeyWrite (m : Mid) (v : Word)
  /-- GLB_RST_CMD_COLD (R432). -/
  | glbRstCmdCold (m : Mid)
  /-- GLB_RST_CMD_WARM (R432). -/
  | glbRstCmdWarm (m : Mid)
  /-- GLB_RST_CMD_CP (R432). -/
  | glbRstCmdCp (m : Mid)
  /-- COLD_RESET (R433). -/
  | coldReset (straps : BitVec 12) (test : StartTest)
  /-- WARM_RESET (R434). -/
  | warmReset
  /-- WARM_FINE_ASG_RESTORE (R434). -/
  | warmFineAsgRestore
  /-- CP_RESET (R436). -/
  | cpReset
  /-- TWIURI_LINE (R444). -/
  | twiuriLine (text : List Byte)
  /-- TW_HELP (R445). -/
  | twHelp
  /-- TW_ID (R445). -/
  | twId
  /-- TW_RD (R445). -/
  | twRd (addr : BitVec 26) (n : Nat)
  /-- TW_WR (R445). -/
  | twWr (addr : BitVec 26) (v : Word)
  /-- TW_SET (R445). -/
  | twSet (addr : BitVec 26) (mask : Word) (v : Word)
  /-- TW_LANE (R445). -/
  | twLane (p : Nat) (n : Nat)
  /-- TW_SKEIN (R445). -/
  | twSkein (p : Nat) (n : Nat) (k : Nat)
  /-- TW_HDL (R445). -/
  | twHdl (map : Nat) (page : Nat) (port : Nat) (index : Nat)
  /-- TW_TCMD (R446). -/
  | twTcmd (ws : List Word)
  /-- TW_FCMD (R446). -/
  | twFcmd (ws : List Word)
  /-- TW_CMD_TIMEOUT (R446). -/
  | twCmdTimeout
  /-- TW_PROT (R445). -/
  | twProt (g : Nat)
  /-- TW_BEAT (R445). -/
  | twBeat
  /-- TW_FMN (R445). -/
  | twFmn
  /-- TW_WVR (R445). -/
  | twWvr (w : Nat)
  /-- TW_TALLY (R445). -/
  | twTally (c : Nat) (i : Nat) (t : Nat) (shadow : Bool)
  /-- TW_TRACE_START (R445). -/
  | twTraceStart
  /-- TW_TRACE_STOP (R445). -/
  | twTraceStop
  /-- TW_TRACE_TRIG (R445). -/
  | twTraceTrig
  /-- TW_TRACE_DUMP (R445). -/
  | twTraceDump (n : Nat)
  /-- TW_RESET_COLD (R445). -/
  | twResetCold
  /-- TW_RESET_WARM (R445). -/
  | twResetWarm
  /-- TW_RESET_CP (R445). -/
  | twResetCp
  /-- TW_BAUD (R445). -/
  | twBaud (code : Nat)
  /-- TW_LOCK (R445). -/
  | twLock
  /-- TST_CFG_WRITE (R445). -/
  | tstCfgWrite (m : Mid) (v : Word)
  /-- JTAG_TAP_RESET (R448). -/
  | jtagTapReset
  /-- JTAG_EXTEST (R449). -/
  | jtagExtest
  /-- JTAG_IDCODE (R448). -/
  | jtagIdcode
  /-- JTAG_SAMPLE_PRELOAD (R448). -/
  | jtagSamplePreload (cells : BitVec 412)
  /-- JTAG_CLAMP (R448). -/
  | jtagClamp
  /-- JTAG_HIGHZ (R448). -/
  | jtagHighz
  /-- JTAG_BYPASS (R448). -/
  | jtagBypass (code : Byte)
  /-- JTAG_DBG_ACC (R450). -/
  | jtagDbgAcc (v : BitVec 64)
  /-- DBG_ACC_DONE (R450). -/
  | dbgAccDone
  /-- TST_PERT_EN_WRITE (R451). -/
  | tstPertEnWrite (m : Mid) (v : Word)
  /-- LN_PERTURB_WRITE (R452). -/
  | lnPerturbWrite (m : Mid) (l : Fin 512) (i : Fin 4) (v : Word)
  /-- SHED_PERTURB_WRITE (R453). -/
  | shedPerturbWrite (m : Mid) (i : Fin 4) (v : Word)
  /-- BEAT_PERTURB_WRITE (R454). -/
  | beatPerturbWrite (m : Mid) (i : Fin 4) (v : Word)
  /-- TST_TR_EMIT (R456). -/
  | tstTrEmit (m : Mid) (v : Word) (clk : Nat)
  /-- TST_TR_START (R459). -/
  | tstTrStart (m : Mid)
  /-- TST_TR_STOP (R459). -/
  | tstTrStop (m : Mid)
  /-- TST_TR_TRIG (R458). -/
  | tstTrTrig (m : Mid)
  /-- TRACE_POST_COMPLETE (R458). -/
  | tracePostComplete
  /-- TST_TR_RD3_READ (R459). -/
  | tstTrRd3Read (m : Mid)
  /-- D2D_LINK_REGAINED (R198). -/
  | d2dLinkRegained (p : Fin 8)
  /-- CDP_UNCORRECTABLE_FAULT (R21). -/
  | cdpUncorrectableFault
  /-- PCIE_LINK_UP (R400). -/
  | pcieLinkUp (gen : Nat) (width : Nat)
  /-- TRD_BAD_OPCODE (R91). -/
  | trdBadOpcode
  /-- FINE_BAD_OPCODE (R126). -/
  | fineBadOpcode
  /-- BMY_REQ_BAD_OP (R271). -/
  | bmyReqBadOp
deriving DecidableEq, Repr

end Sys2Proof
end

