-- ==== Sys2Proof/Config.lean ====
section
/-! DEFINITION. The free values of the model: constants without a body, applied to a counter of the state (`State.free`)
or to the operands they depend on. No proof can see a value of theirs; notes/assumptions/6.md (DESIGN CHOICE) names each. -/
namespace Sys2Proof

/-- The rearrangement the Treadle chooses under step 3 of R97, fixed by the pages (ingress, Reed and egress entries), the
source and the destination LSR: a list of moves (Reed port, old slot, new slot). The model uses it only where R67, R68 and
R98 allow every move. -/
opaque Config.rearrange : List (Nat × BitVec 32) → List (Nat × BitVec 32) → List (Nat × BitVec 64) → Nat → Nat →
  List (Nat × Nat × Nat)

/-- The random part of the Bamry retry backoff (R272), taken modulo 16. -/
opaque Config.backoff : Nat → Nat

/-- The core 0 busy percentage that FMN_LOAD shows (R331). -/
opaque Config.coreLoad : Nat → BitVec 8

/-- The body of a checkpoint, whose contents R321 lists and whose layout the spec leaves open, of which at most 524,224 bytes are taken. -/
opaque Config.ckptBody : Nat → List (BitVec 8)

/-- A 32-bit value that the spec leaves open. -/
opaque Config.freeWord : Nat → BitVec 32

end Sys2Proof
end

