-- ==== Sys2Proof/Machine/Bits.lean ====
section
/-! DEFINITION. Bit fields, byte orders and check values (R27, R94, R193, R195). -/
namespace Sys2Proof.Machine

/-- Field of `len` bits from bit `lo`. -/
def fld {n : Nat} (w : BitVec n) (lo len : Nat) : Nat := (w.toNat >>> lo) % 2 ^ len

/-- `w` with the field of `len` bits from bit `lo` set to `v` (taken modulo its width). -/
def setFld {n : Nat} (w : BitVec n) (lo len v : Nat) : BitVec n :=
  BitVec.ofNat n (w.toNat - (fld w lo len) * 2 ^ lo + (v % 2 ^ len) * 2 ^ lo)

/-- One bit. -/
def bit {n : Nat} (w : BitVec n) (i : Nat) : Bool := w.toNat.testBit i

/-- `w` with bit `i` set to `b`. -/
def setBit {n : Nat} (w : BitVec n) (i : Nat) (b : Bool) : BitVec n := setFld w i 1 b.toNat

/-- A 32-bit value. -/
def w32 (n : Nat) : Word := BitVec.ofNat 32 n

/-- Two's complement value of an `n`-bit field. -/
def signed (n v : Nat) : Int := if v < 2 ^ (n - 1) then (v : Int) else (v : Int) - (2 ^ n : Nat)

/-- An integer as an `n`-bit two's complement field. -/
def unsigned (n : Nat) (i : Int) : Nat := (i % ((2 ^ n : Nat) : Int)).toNat

/-- `now - since` on a wrapping 32-bit bolt count. -/
def since (now t : Word) : Nat := (now - t).toNat

/-- Big-endian value of a byte list (R27). -/
def beVal (bs : List Byte) : Nat := bs.foldl (fun a b => a * 256 + b.toNat) 0

/-- Little-endian value of a byte list (R94, R325). -/
def leVal : List Byte → Nat
  | [] => 0
  | b :: t => b.toNat + 256 * leVal t

/-- Big-endian bytes of a value. -/
def beBytes : Nat → Nat → List Byte
  | 0, _ => []
  | n + 1, v => BitVec.ofNat 8 (v >>> (8 * n)) :: beBytes n v

/-- Little-endian bytes of a value. -/
def leBytes : Nat → Nat → List Byte
  | 0, _ => []
  | n + 1, v => BitVec.ofNat 8 v :: leBytes n (v / 256)

/-- `n` bytes of a list from index `i`. -/
def bytesAt (bs : List Byte) (i n : Nat) : List Byte := (bs.drop i).take n

/-- The big-endian field of `n` bytes at byte `i` of a message or header. -/
def beAt (bs : List Byte) (i n : Nat) : Nat := beVal (bytesAt bs i n)

/-- The list padded with zero bytes, or cut, to `n` bytes. -/
def padTo (n : Nat) (bs : List Byte) : List Byte := (bs ++ List.replicate n 0).take n

/-- A reflected CRC over one byte. -/
def crcReflByte (poly c : Nat) (b : Byte) : Nat :=
  (List.range 8).foldl (fun c _ => if c.testBit 0 then (c >>> 1) ^^^ poly else c >>> 1) (c ^^^ b.toNat)

/-- A forward CRC of `w` bits over one byte. -/
def crcFwdByte (w poly c : Nat) (b : Byte) : Nat :=
  (List.range 8).foldl
    (fun c _ => if c.testBit (w - 1) then ((c <<< 1) % 2 ^ w) ^^^ poly else (c <<< 1) % 2 ^ w)
    (c ^^^ (b.toNat <<< (w - 8)))

/-- The reflected form of the CRC-32C polynomial 0x1EDC_6F41 (R193 code 1). -/
def polyC : Nat := 0x82F63B78
/-- The reflected form of the CRC-32 polynomial 0x04C1_1DB7 (R193 code 0). -/
def poly32 : Nat := 0xEDB88320

/-- CRC-32C (R193 code 1), as the lane and skein header checks use it. -/
def crc32c (bs : List Byte) : Nat := (bs.foldl (crcReflByte polyC) 0xFFFFFFFF) ^^^ 0xFFFFFFFF

/-- CRC-16/CCITT (R193 code 2), as cells, APS slots and Bamry messages use it. -/
def crc16 (bs : List Byte) : Nat := bs.foldl (crcFwdByte 16 0x1021) 0xFFFF

/-- CRC-64/ECMA-182 (R193 code 3), as checkpoints use it. -/
def crc64 (bs : List Byte) : Nat := bs.foldl (crcFwdByte 64 0x42F0E1EBA9EA3693) 0

/-- The running register of the check of POLY code `p` after one more byte (R193, R206). -/
def polyStep (p : Nat) (c : Nat) (b : Byte) : Nat :=
  match p with
  | 0 => crcReflByte poly32 c b
  | 1 => crcReflByte polyC c b
  | 2 => crcFwdByte 16 0x1021 c b
  | _ => crcFwdByte 64 0x42F0E1EBA9EA3693 c b

/-- The preset initial value of POLY code `p` (R193). -/
def polyInit (p : Nat) : Nat :=
  match p with
  | 0 => 0xFFFFFFFF
  | 1 => 0xFFFFFFFF
  | 2 => 0xFFFF
  | _ => 0

/-- The final XOR of POLY code `p` (R193). -/
def polyXor (p : Nat) : Nat :=
  match p with
  | 0 => 0xFFFFFFFF
  | 1 => 0xFFFFFFFF
  | _ => 0

/-- 32-bit rotate left. -/
def rotl32 (v n : Nat) : Nat := ((v <<< n) % 2 ^ 32) ||| ((v % 2 ^ 32) >>> (32 - n))

/-- The key of R195 from a 35-bit origin and a SEQ. -/
def trailKey (origin seq : Nat) : Nat :=
  rotl32 (origin % 2 ^ 32) 7 ^^^ ((((origin >>> 32) % 8) <<< 29) % 2 ^ 32) ^^^ (seq % 2 ^ 32)

/-- Count of set bits in the low `n` bits. -/
def popCount (n v : Nat) : Nat := ((List.range n).filter (fun i => v.testBit i)).length

/-- The larger of 1 and `n`: "0 acts as 1". -/
def atLeast1 (n : Nat) : Nat := if n = 0 then 1 else n

/-- A list of numbers `lo` to `lo + n - 1`. -/
def span (lo n : Nat) : List Nat := (List.range n).map (· + lo)

end Sys2Proof.Machine
end

