-- ==== Sys2Proof/Machine/Store.lean ====
section
/-! DEFINITION. Sparse maps in one canonical form: keys strictly rising, and no entry equal to what an unlisted key reads as. -/
namespace Sys2Proof.Machine

/-- A sparse map from numbers to values. -/
abbrev SMap (α : Type) := List (Nat × α)

/-- The value at key `a`; `d` where it is not listed. -/
def smGet {α : Type} (d : α) : SMap α → Nat → α
  | [], _ => d
  | (k, v) :: t, a => if k = a then v else smGet d t a

/-- Puts an entry at its place among rising keys, over one with its key. -/
def smInsert {α : Type} (a : Nat) (v : α) : SMap α → SMap α
  | [] => [(a, v)]
  | (k, x) :: t => if a < k then (a, v) :: (k, x) :: t else if a = k then (a, v) :: t else (k, x) :: smInsert a v t

/-- Writes `v` at key `a`, keeping the canonical form: a value equal to the unlisted value `d` is not listed. -/
def smPut {α : Type} [DecidableEq α] (d : α) (m : SMap α) (a : Nat) (v : α) : SMap α :=
  if v = d then m.filter (fun e => decide (e.1 ≠ a)) else smInsert a v m

/-- Keys strictly rising from `lo`, and no entry equal to the unlisted value of its key. -/
def smWfFrom {α : Type} [DecidableEq α] (d : Nat → α) : Nat → SMap α → Bool
  | _, [] => true
  | lo, (k, v) :: t => decide (lo ≤ k) && decide (v ≠ d k) && smWfFrom d (k + 1) t

/-- The canonical form. -/
def smWf {α : Type} [DecidableEq α] (d : Nat → α) (m : SMap α) : Bool := smWfFrom d 0 m

/-- Changes the value at one key. -/
def smMod {α : Type} [DecidableEq α] (d : α) (m : SMap α) (a : Nat) (f : α → α) : SMap α := smPut d m a (f (smGet d m a))

/-- Keeps the listed keys that satisfy `p`; the others read as unlisted again. -/
def smKeep {α : Type} (p : Nat → Bool) (m : SMap α) : SMap α := m.filter (fun e => p e.1)

end Sys2Proof.Machine
end

