-- ==== Sys2Proof/Machine/RegMap.lean ====
section
/-! DEFINITION. The register map (R403): pages and tables, and for each register its offset, access code (R6), reset value
and the bits a write reaches. Addresses are BAR0 offsets; BAR2 offset x is held at 0x0400_0000 + x (R413). -/
namespace Sys2Proof.Machine

/-- Access codes of R6. `keep` is RW that R105, R140 and R414 keep across warm reset. -/
inductive Acc where
  | rw | ro | w1c | wo | rws | rc | keep
deriving DecidableEq, Repr

/-- A register, or a run of `n` registers `stride` bytes apart. -/
structure RegRow where
  off : Nat
  n : Nat
  stride : Nat
  acc : Acc
  reset : Nat
  wm : Nat
deriving DecidableEq, Repr

/-- The pages of R403, then the tables within their ranges. -/
inductive Blk where
  | glb | girq | gvec | pwr | beat | fmn | shed | tly | tst | mbx | blz | prt | ln | ils | els | loom | hdl | trd | fine | prot | selv | ten | bmy | wvr | bank | skid | dma
  | blzUnit | fineAsg | fineTen | protRec | protAps | protMem | grant | tenTab
deriving DecidableEq, Repr

/-- Registers of the GLB page after the header (R406, R441). -/
def rowsGlb : List RegRow :=
  [⟨0x8, 1, 0, .ro, 0x0, 0x0⟩, ⟨0x40, 1, 0, .ro, 0x0, 0x0⟩, ⟨0x44, 1, 0, .ro, 0x0, 0x0⟩,
   ⟨0x48, 1, 4, .rws, 0x0, 0x1⟩, ⟨0x4C, 1, 0, .ro, 0x0, 0x0⟩, ⟨0x50, 1, 0, .ro, 0x0, 0x0⟩,
   ⟨0x54, 1, 0, .ro, 0x0, 0x0⟩, ⟨0x58, 1, 0, .ro, 0x0, 0x0⟩, ⟨0x5C, 1, 0, .ro, 0x0, 0x0⟩,
   ⟨0x80, 1, 0, .wo, 0x0, 0x0⟩, ⟨0x84, 1, 0, .wo, 0x0, 0x0⟩, ⟨0x88, 1, 0, .ro, 0x5, 0x0⟩,
   ⟨0x8C, 1, 0, .ro, 0x0, 0x0⟩, ⟨0x90, 1, 0, .ro, 0x0, 0x0⟩, ⟨0x94, 1, 0, .ro, 0x0, 0x0⟩]
/-- Registers of the GIRQ page after the header (R409). -/
def rowsGirq : List RegRow :=
  [⟨0x40, 1, 0, .ro, 0x0, 0x0⟩, ⟨0x44, 1, 0, .ro, 0x0, 0x0⟩, ⟨0x48, 1, 0, .ro, 0x0, 0x0⟩,
   ⟨0x4C, 1, 0, .ro, 0x0, 0x0⟩, ⟨0x50, 1, 0, .ro, 0x0, 0x0⟩, ⟨0x54, 1, 0, .ro, 0x0, 0x0⟩,
   ⟨0x58, 1, 0, .ro, 0x0, 0x0⟩, ⟨0x5C, 1, 0, .ro, 0x0, 0x0⟩, ⟨0x60, 1, 0, .ro, 0x0, 0x0⟩,
   ⟨0x64, 1, 0, .ro, 0x0, 0x0⟩, ⟨0x68, 1, 0, .ro, 0x0, 0x0⟩, ⟨0x6C, 1, 0, .ro, 0x0, 0x0⟩,
   ⟨0x70, 1, 0, .ro, 0x0, 0x0⟩, ⟨0x74, 1, 0, .ro, 0x0, 0x0⟩, ⟨0x78, 1, 0, .ro, 0x0, 0x0⟩,
   ⟨0x7C, 1, 0, .ro, 0x0, 0x0⟩, ⟨0x80, 1, 0, .ro, 0x0, 0x0⟩, ⟨0x84, 1, 0, .ro, 0x0, 0x0⟩,
   ⟨0x88, 1, 0, .ro, 0x0, 0x0⟩, ⟨0x8C, 1, 0, .ro, 0x0, 0x0⟩, ⟨0x90, 1, 0, .ro, 0x0, 0x0⟩,
   ⟨0x94, 1, 0, .ro, 0x0, 0x0⟩]
/-- Registers of the GVEC page after the header (R410). -/
def rowsGvec : List RegRow :=
  [⟨0x40, 1, 0, .wo, 0x0, 0x0⟩, ⟨0x44, 1, 0, .ro, 0x0, 0x0⟩, ⟨0x48, 1, 0, .ro, 0x0, 0x0⟩,
   ⟨0x50, 1, 4, .rws, 0x8, 0xFFFFFFFF⟩, ⟨0x54, 1, 4, .rws, 0x0, 0xFFFFFFFF⟩, ⟨0x100, 64, 4, .rws, 0x100, 0x13F⟩]
/-- Registers of the PWR page after the header (R438). -/
def rowsPwr : List RegRow :=
  [⟨0x40, 1, 4, .rws, 0xF00, 0x3FFFF⟩, ⟨0x44, 1, 0, .ro, 0x0, 0x0⟩, ⟨0x48, 1, 0, .ro, 0x0, 0x0⟩,
   ⟨0x4C, 1, 0, .ro, 0x0, 0x0⟩, ⟨0x50, 1, 4, .rws, 0x3B6, 0xFFFF⟩, ⟨0x54, 1, 0, .ro, 0x0, 0x0⟩,
   ⟨0x58, 1, 0, .ro, 0x0, 0x0⟩, ⟨0x60, 12, 4, .ro, 0x8000, 0x0⟩, ⟨0x90, 12, 4, .rws, 0x690, 0xFFFF⟩]
/-- Registers of the BEAT page after the header (R240). -/
def rowsBeat : List RegRow :=
  [⟨0x40, 1, 4, .rws, 0x4, 0x7⟩, ⟨0x44, 1, 0, .ro, 0x0, 0x0⟩, ⟨0x48, 1, 4, .rws, 0x400, 0xFF3⟩,
   ⟨0x4C, 1, 0, .ro, 0x0, 0x0⟩, ⟨0x50, 1, 4, .rws, 0xF0A03, 0xFFFF07⟩, ⟨0x54, 1, 4, .rws, 0xE0F, 0xFFFFFFFF⟩,
   ⟨0x58, 1, 4, .rws, 0x641F400, 0xFFFFFF03⟩, ⟨0x5C, 1, 4, .rws, 0x99, 0xFFF⟩,
   ⟨0x60, 1, 4, .rws, 0x4B00398, 0xFFFFFFFF⟩, ⟨0x64, 1, 0, .wo, 0x0, 0x0⟩, ⟨0x68, 1, 4, .rws, 0x0, 0xFFFFFFFF⟩,
   ⟨0x6C, 1, 4, .rws, 0x0, 0xFF⟩, ⟨0x70, 1, 0, .ro, 0x0, 0x0⟩, ⟨0x74, 1, 0, .ro, 0x0, 0x0⟩,
   ⟨0x78, 1, 0, .ro, 0x0, 0x0⟩, ⟨0x7C, 1, 0, .ro, 0x0, 0x0⟩, ⟨0x80, 1, 0, .ro, 0x0, 0x0⟩,
   ⟨0x84, 1, 0, .ro, 0x0, 0x0⟩, ⟨0x88, 1, 0, .ro, 0x0, 0x0⟩, ⟨0x8C, 1, 4, .ro, 0xB, 0x0⟩,
   ⟨0x90, 1, 4, .rws, 0x3200, 0xFF07⟩, ⟨0x94, 1, 4, .rws, 0x0, 0xFFFFFFFF⟩, ⟨0x98, 1, 0, .wo, 0x0, 0x0⟩,
   ⟨0x9C, 1, 0, .ro, 0x0, 0x0⟩, ⟨0xA0, 1, 0, .ro, 0x0, 0x0⟩, ⟨0xA4, 1, 0, .ro, 0x0, 0x0⟩,
   ⟨0xA8, 1, 4, .rws, 0x0, 0xFFFFFFFF⟩, ⟨0xB0, 4, 4, .rws, 0x17, 0x37⟩, ⟨0x100, 8, 4, .rws, 0xF07, 0xFFFF3FF7⟩,
   ⟨0x140, 16, 4, .rws, 0x0, 0x7FFF⟩, ⟨0x200, 24, 4, .ro, 0x0, 0x0⟩, ⟨0x300, 24, 4, .ro, 0x80000000, 0x0⟩]
/-- Registers of the FMN page after the header (R331). -/
def rowsFmn : List RegRow :=
  [⟨0x40, 1, 4, .rws, 0x4004B3D, 0xFFFFF3F⟩, ⟨0x44, 1, 4, .ro, 0x40, 0x0⟩, ⟨0x48, 1, 0, .ro, 0x0, 0x0⟩,
   ⟨0x4C, 1, 0, .ro, 0x0, 0x0⟩, ⟨0x50, 1, 0, .wo, 0x0, 0x0⟩, ⟨0x54, 1, 0, .wo, 0x0, 0x0⟩,
   ⟨0x58, 1, 0, .wo, 0x0, 0x0⟩, ⟨0x5C, 1, 4, .rws, 0x4E30E, 0xFFFFFF⟩, ⟨0x60, 1, 0, .wo, 0x0, 0x0⟩,
   ⟨0x64, 1, 0, .ro, 0x0, 0x0⟩, ⟨0x68, 1, 0, .ro, 0x0, 0x0⟩, ⟨0x6C, 1, 0, .ro, 0x0, 0x0⟩,
   ⟨0x70, 1, 0, .ro, 0x0, 0x0⟩, ⟨0x74, 1, 0, .ro, 0x0, 0x0⟩, ⟨0x78, 1, 4, .rws, 0xC0804020, 0xFFFFFFFF⟩,
   ⟨0x7C, 1, 4, .rws, 0xE10F43, 0xFFFFFF⟩, ⟨0x80, 1, 0, .wo, 0x0, 0x0⟩, ⟨0x84, 1, 0, .wo, 0x0, 0x0⟩,
   ⟨0x88, 1, 0, .rc, 0x0, 0x0⟩, ⟨0x8C, 1, 0, .ro, 0x0, 0x0⟩, ⟨0x90, 1, 0, .ro, 0x0, 0x0⟩,
   ⟨0x94, 1, 0, .ro, 0x0, 0x0⟩, ⟨0x98, 1, 0, .ro, 0x0, 0x0⟩, ⟨0xA0, 1, 4, .rw, 0x0, 0x1FFFF⟩,
   ⟨0xA4, 1, 4, .rw, 0x0, 0x1FFFF⟩]
/-- Registers of the SHED page after the header (R376). -/
def rowsShed : List RegRow :=
  [⟨0x40, 1, 4, .rws, 0x10100, 0x103FF⟩, ⟨0x44, 1, 0, .ro, 0x0, 0x0⟩, ⟨0x48, 1, 0, .ro, 0x0, 0x0⟩,
   ⟨0x4C, 1, 0, .ro, 0x0, 0x0⟩, ⟨0x50, 1, 4, .rw, 0x0, 0x3F⟩, ⟨0x54, 4, 4, .rws, 0x55555555, 0xFFFFFFFF⟩,
   ⟨0x64, 1, 4, .rws, 0xFC2A, 0xFFFFFFFF⟩, ⟨0x68, 1, 0, .ro, 0x0, 0x0⟩, ⟨0x6C, 1, 0, .ro, 0x0, 0x0⟩]
/-- Registers of the TLY page after the header (R397). -/
def rowsTly : List RegRow :=
  [⟨0x40, 1, 4, .rws, 0x800, 0x3F01⟩, ⟨0x44, 1, 4, .rw, 0x0, 0x3FFFFFF⟩, ⟨0x48, 1, 0, .wo, 0x0, 0x0⟩,
   ⟨0x4C, 1, 0, .ro, 0x0, 0x0⟩, ⟨0x50, 1, 0, .ro, 0x0, 0x0⟩, ⟨0x54, 1, 0, .ro, 0x0, 0x0⟩,
   ⟨0x58, 1, 0, .ro, 0x0, 0x0⟩, ⟨0x5C, 1, 0, .ro, 0x0, 0x0⟩, ⟨0x60, 1, 0, .wo, 0x0, 0x0⟩,
   ⟨0x64, 1, 4, .rw, 0x0, 0xFFFFFFFF⟩, ⟨0x68, 1, 0, .ro, 0x0, 0x0⟩, ⟨0x6C, 1, 4, .rws, 0x35A4E9, 0xFFFFFF⟩,
   ⟨0x70, 1, 4, .rws, 0x0, 0x780000⟩, ⟨0x74, 1, 0, .ro, 0x0, 0x0⟩, ⟨0x78, 1, 0, .ro, 0x0, 0x0⟩,
   ⟨0x80, 1, 4, .rws, 0x1400000, 0x1FFFFFF⟩, ⟨0x84, 1, 4, .rws, 0x7FFFFFFF, 0x7FFFFFFF⟩,
   ⟨0x88, 1, 4, .rws, 0xD740, 0xFFFF⟩, ⟨0x8C, 1, 0, .wo, 0x0, 0x0⟩, ⟨0x90, 1, 4, .rws, 0x0, 0x7FFFE0⟩,
   ⟨0x94, 1, 4, .rws, 0x6, 0xF⟩, ⟨0x98, 1, 0, .ro, 0x0, 0x0⟩, ⟨0x9C, 1, 4, .rws, 0x0, 0xFFFFFFFF⟩,
   ⟨0xA0, 1, 0, .ro, 0x0, 0x0⟩, ⟨0xA4, 1, 0, .ro, 0x0, 0x0⟩, ⟨0xA8, 1, 0, .ro, 0x0, 0x0⟩,
   ⟨0x100, 32, 4, .ro, 0x0, 0x0⟩, ⟨0x180, 32, 4, .ro, 0x0, 0x0⟩]
/-- Registers of the TST page after the header (R459). -/
def rowsTst : List RegRow :=
  [⟨0x40, 1, 4, .rws, 0x1, 0x71⟩, ⟨0x44, 1, 4, .rw, 0x0, 0x1⟩, ⟨0x48, 1, 0, .ro, 0x0, 0x0⟩,
   ⟨0x4C, 1, 0, .ro, 0x0, 0x0⟩, ⟨0x60, 1, 4, .rws, 0x0, 0x1FFFF7⟩, ⟨0x64, 1, 4, .rws, 0x3FF, 0x3FF⟩,
   ⟨0x68, 1, 0, .wo, 0x0, 0x0⟩, ⟨0x6C, 1, 0, .wo, 0x0, 0x0⟩, ⟨0x70, 1, 0, .ro, 0x0, 0x0⟩,
   ⟨0x74, 1, 4, .rw, 0x0, 0xFFF⟩, ⟨0x78, 4, 4, .ro, 0x0, 0x0⟩, ⟨0x88, 1, 0, .ro, 0x0, 0x0⟩]
/-- Registers of the MBX page after the header (R414). -/
def rowsMbx : List RegRow :=
  [⟨0x40, 1, 4, .rws, 0x1, 0xF⟩, ⟨0x44, 1, 0, .ro, 0x0, 0x0⟩, ⟨0x48, 1, 0, .ro, 0x0, 0x0⟩,
   ⟨0x100, 1, 4, .rws, 0x6, 0xF⟩, ⟨0x104, 1, 4, .keep, 0x0, 0x3FF⟩, ⟨0x108, 1, 0, .ro, 0x0, 0x0⟩,
   ⟨0x110, 1, 4, .rws, 0x0, 0xFFFFFFC0⟩, ⟨0x114, 1, 4, .rws, 0x0, 0xFFFFFFFF⟩, ⟨0x118, 1, 4, .rws, 0x6, 0x1F⟩,
   ⟨0x11C, 1, 0, .ro, 0x0, 0x0⟩, ⟨0x120, 1, 4, .keep, 0x0, 0xFFFF⟩, ⟨0x140, 1, 4, .rws, 0x6, 0xF⟩,
   ⟨0x144, 1, 4, .keep, 0x0, 0x3FF⟩, ⟨0x148, 1, 0, .ro, 0x0, 0x0⟩, ⟨0x150, 1, 4, .rws, 0x0, 0xFFFFFFC0⟩,
   ⟨0x154, 1, 4, .rws, 0x0, 0xFFFFFFFF⟩, ⟨0x158, 1, 4, .rws, 0x6, 0x1F⟩, ⟨0x15C, 1, 0, .ro, 0x0, 0x0⟩,
   ⟨0x160, 1, 4, .keep, 0x0, 0xFFFF⟩, ⟨0x180, 1, 4, .rws, 0x6, 0xF⟩, ⟨0x184, 1, 4, .keep, 0x0, 0x3FF⟩,
   ⟨0x188, 1, 0, .ro, 0x0, 0x0⟩, ⟨0x190, 1, 4, .rws, 0x0, 0xFFFFFFC0⟩, ⟨0x194, 1, 4, .rws, 0x0, 0xFFFFFFFF⟩,
   ⟨0x198, 1, 4, .rws, 0x6, 0x1F⟩, ⟨0x19C, 1, 0, .ro, 0x0, 0x0⟩, ⟨0x1A0, 1, 4, .keep, 0x0, 0xFFFF⟩,
   ⟨0x1C0, 1, 4, .rws, 0x6, 0xF⟩, ⟨0x1C4, 1, 4, .keep, 0x0, 0x3FF⟩, ⟨0x1C8, 1, 0, .ro, 0x0, 0x0⟩,
   ⟨0x1D0, 1, 4, .rws, 0x0, 0xFFFFFFC0⟩, ⟨0x1D4, 1, 4, .rws, 0x0, 0xFFFFFFFF⟩, ⟨0x1D8, 1, 4, .rws, 0x6, 0x1F⟩,
   ⟨0x1DC, 1, 0, .ro, 0x0, 0x0⟩, ⟨0x1E0, 1, 4, .keep, 0x0, 0xFFFF⟩]
/-- Registers of the BLZ page after the header (R208). -/
def rowsBlz : List RegRow :=
  [⟨0x40, 1, 4, .rw, 0x0, 0x1FFFF⟩, ⟨0x44, 1, 0, .ro, 0x0, 0x0⟩, ⟨0x48, 1, 0, .ro, 0x0, 0x0⟩,
   ⟨0x4C, 1, 0, .ro, 0x0, 0x0⟩, ⟨0x50, 1, 0, .ro, 0x0, 0x0⟩, ⟨0x54, 1, 0, .ro, 0x0, 0x0⟩,
   ⟨0x58, 1, 0, .ro, 0x0, 0x0⟩, ⟨0x5C, 1, 0, .ro, 0x0, 0x0⟩, ⟨0x60, 1, 0, .ro, 0x0, 0x0⟩,
   ⟨0x64, 1, 0, .ro, 0x0, 0x0⟩, ⟨0x68, 1, 0, .ro, 0x0, 0x0⟩]
/-- Registers of the PRT page after the header (R403 (header only)). -/
def rowsPrt : List RegRow :=
  []
/-- Registers of the LN page after the header (R60). -/
def rowsLn : List RegRow :=
  [⟨0x40, 1, 4, .rw, 0x2000, 0x7FFF⟩, ⟨0x44, 1, 0, .ro, 0x0, 0x0⟩, ⟨0x48, 1, 0, .ro, 0x0, 0x0⟩,
   ⟨0x4C, 1, 0, .ro, 0x0, 0x0⟩, ⟨0x50, 1, 0, .wo, 0x0, 0x0⟩, ⟨0x54, 1, 4, .rw, 0x1000, 0xFFFFFFFF⟩,
   ⟨0x58, 1, 0, .ro, 0x0, 0x0⟩, ⟨0x5C, 1, 0, .ro, 0x0, 0x0⟩, ⟨0x60, 1, 0, .ro, 0x0, 0x0⟩,
   ⟨0x64, 1, 4, .rw, 0x0, 0x1F⟩, ⟨0x68, 1, 0, .ro, 0x0, 0x0⟩, ⟨0x6C, 1, 0, .ro, 0x0, 0x0⟩,
   ⟨0x70, 1, 0, .ro, 0x0, 0x0⟩, ⟨0x74, 1, 0, .rc, 0x0, 0x0⟩, ⟨0x80, 1, 4, .rw, 0x10004, 0xFFF0FFF⟩,
   ⟨0x84, 1, 4, .rw, 0x10004, 0xFFF0FFF⟩, ⟨0x88, 1, 4, .rw, 0x40002, 0xFFF0FFF⟩,
   ⟨0x8C, 1, 4, .rw, 0x30008, 0xFFF0FFF⟩, ⟨0x90, 1, 4, .rw, 0x80008, 0xFFF0FFF⟩,
   ⟨0x94, 1, 4, .rw, 0x10008, 0xFFF0FFF⟩, ⟨0x98, 1, 4, .rw, 0x180018, 0xFFF0FFF⟩,
   ⟨0x9C, 1, 4, .rw, 0x50005, 0xFFF0FFF⟩, ⟨0xA0, 1, 4, .rw, 0x30003, 0xFFF0FFF⟩,
   ⟨0xA4, 1, 4, .rw, 0x10010, 0xFFF0FFF⟩, ⟨0xA8, 1, 4, .rw, 0x20002, 0xFFF0FFF⟩,
   ⟨0xAC, 1, 4, .rw, 0x30003, 0xFFF0FFF⟩, ⟨0xB0, 1, 4, .rw, 0x30003, 0xFFF0FFF⟩,
   ⟨0xB4, 1, 4, .rw, 0x30003, 0xFFF0FFF⟩, ⟨0xB8, 1, 4, .rw, 0x30003, 0xFFF0FFF⟩, ⟨0xC0, 1, 4, .rw, 0x0, 0xFF⟩,
   ⟨0xC4, 1, 4, .rw, 0x0, 0xFFFFFFFF⟩, ⟨0xC8, 1, 4, .rw, 0x0, 0xF⟩, ⟨0xCC, 1, 0, .ro, 0x0, 0x0⟩,
   ⟨0xD0, 1, 0, .ro, 0x0, 0x0⟩, ⟨0x100, 5, 4, .ro, 0x0, 0x0⟩, ⟨0x120, 5, 4, .ro, 0x0, 0x0⟩,
   ⟨0x140, 5, 4, .ro, 0x0, 0x0⟩, ⟨0x160, 5, 4, .ro, 0x0, 0x0⟩, ⟨0x180, 5, 4, .ro, 0x0, 0x0⟩,
   ⟨0x200, 16, 4, .rw, 0x0, 0xFFFFFFFF⟩, ⟨0x240, 16, 4, .rw, 0x0, 0xFFFFFFFF⟩, ⟨0x280, 16, 4, .ro, 0x0, 0x0⟩]
/-- Registers of the ILS page after the header (R108). -/
def rowsIls : List RegRow :=
  [⟨0x40, 1, 0, .ro, 0x0, 0x0⟩, ⟨0x44, 1, 0, .ro, 0x0, 0x0⟩]
/-- Registers of the ELS page after the header (R108). -/
def rowsEls : List RegRow :=
  [⟨0x40, 1, 0, .ro, 0x0, 0x0⟩, ⟨0x44, 1, 0, .ro, 0x0, 0x0⟩, ⟨0x48, 1, 0, .ro, 0x0, 0x0⟩]
/-- Registers of the LOOM page after the header (R103). -/
def rowsLoom : List RegRow :=
  [⟨0x40, 1, 0, .ro, 0x0, 0x0⟩, ⟨0x44, 1, 0, .ro, 0x0, 0x0⟩]
/-- Registers of the HDL page after the header (R103). -/
def rowsHdl : List RegRow :=
  [⟨0x40, 1, 4, .rw, 0x0, 0x3FFFF7⟩, ⟨0x44, 1, 0, .wo, 0x0, 0x0⟩, ⟨0x48, 1, 0, .ro, 0x0, 0x0⟩,
   ⟨0x4C, 1, 0, .ro, 0x0, 0x0⟩, ⟨0x50, 1, 0, .ro, 0x0, 0x0⟩, ⟨0x54, 1, 0, .ro, 0x0, 0x0⟩,
   ⟨0x58, 1, 0, .ro, 0x0, 0x0⟩, ⟨0x5C, 1, 0, .ro, 0x0, 0x0⟩]
/-- Registers of the TRD page after the header (R105). -/
def rowsTrd : List RegRow :=
  [⟨0x40, 1, 4, .keep, 0x40080210, 0xFFFF0F7F⟩, ⟨0x44, 1, 0, .ro, 0x0, 0x0⟩, ⟨0x48, 1, 0, .ro, 0x0, 0x0⟩,
   ⟨0x4C, 1, 0, .ro, 0x0, 0x0⟩, ⟨0x50, 1, 4, .ro, 0x400, 0x0⟩, ⟨0x54, 1, 0, .ro, 0x0, 0x0⟩,
   ⟨0x58, 1, 0, .wo, 0x0, 0x0⟩, ⟨0x60, 1, 4, .keep, 0x0, 0xFFFFFFF0⟩, ⟨0x64, 1, 4, .keep, 0x0, 0xFFFFFFFF⟩,
   ⟨0x68, 1, 4, .keep, 0x6, 0x1F⟩, ⟨0x6C, 1, 0, .ro, 0x0, 0x0⟩, ⟨0x70, 1, 4, .keep, 0x0, 0xFFFFFFFF⟩,
   ⟨0x74, 1, 0, .ro, 0x0, 0x0⟩, ⟨0x80, 1, 4, .keep, 0x0, 0xFFFFFFF0⟩, ⟨0x84, 1, 4, .keep, 0x6, 0x1F⟩,
   ⟨0x88, 1, 0, .ro, 0x0, 0x0⟩, ⟨0x8C, 1, 4, .keep, 0x0, 0xFFFFFFFF⟩, ⟨0x90, 1, 0, .ro, 0x0, 0x0⟩,
   ⟨0xA0, 1, 4, .keep, 0x0, 0xFFFFFFF0⟩, ⟨0xA4, 1, 4, .keep, 0x6, 0x1F⟩, ⟨0xA8, 1, 0, .ro, 0x0, 0x0⟩,
   ⟨0xAC, 1, 4, .keep, 0x0, 0xFFFFFFFF⟩, ⟨0xB0, 1, 0, .ro, 0x0, 0x0⟩, ⟨0x100, 32, 4, .rw, 0x0, 0xFFFFFFFF⟩]
/-- Registers of the FINE page after the header (R140). -/
def rowsFine : List RegRow :=
  [⟨0x40, 1, 4, .keep, 0x4001, 0xFF0F⟩, ⟨0x44, 1, 0, .ro, 0x0, 0x0⟩, ⟨0x48, 1, 0, .ro, 0x0, 0x0⟩,
   ⟨0x4C, 1, 0, .ro, 0x0, 0x0⟩, ⟨0x50, 1, 4, .ro, 0x200, 0x0⟩, ⟨0x54, 1, 0, .ro, 0x0, 0x0⟩,
   ⟨0x58, 1, 0, .wo, 0x0, 0x0⟩, ⟨0x5C, 1, 0, .ro, 0x0, 0x0⟩, ⟨0x60, 1, 4, .keep, 0x0, 0xFFFFFFF0⟩,
   ⟨0x64, 1, 4, .keep, 0x0, 0xFFFFFFFF⟩, ⟨0x68, 1, 4, .keep, 0x6, 0x1F⟩, ⟨0x6C, 1, 0, .ro, 0x0, 0x0⟩,
   ⟨0x70, 1, 4, .keep, 0x0, 0xFFFFFFFF⟩, ⟨0x74, 1, 0, .ro, 0x0, 0x0⟩, ⟨0x80, 1, 4, .keep, 0x0, 0xFFFFFFF0⟩,
   ⟨0x84, 1, 4, .keep, 0x6, 0x1F⟩, ⟨0x88, 1, 0, .ro, 0x0, 0x0⟩, ⟨0x8C, 1, 4, .keep, 0x0, 0xFFFFFFFF⟩,
   ⟨0x90, 1, 0, .ro, 0x0, 0x0⟩, ⟨0xA0, 1, 4, .rw, 0x0, 0x3FFFF7⟩, ⟨0xA4, 1, 0, .wo, 0x0, 0x0⟩,
   ⟨0xA8, 1, 0, .ro, 0x0, 0x0⟩, ⟨0xAC, 1, 0, .ro, 0x0, 0x0⟩, ⟨0xB0, 1, 0, .ro, 0x0, 0x0⟩,
   ⟨0xB4, 1, 0, .ro, 0x0, 0x0⟩, ⟨0xB8, 1, 0, .ro, 0x0, 0x0⟩, ⟨0xBC, 1, 0, .ro, 0x0, 0x0⟩,
   ⟨0xC0, 1, 0, .ro, 0x0, 0x0⟩, ⟨0xC4, 1, 0, .ro, 0x0, 0x0⟩, ⟨0xC8, 1, 0, .ro, 0x0, 0x0⟩,
   ⟨0xCC, 1, 0, .ro, 0x0, 0x0⟩, ⟨0xD0, 1, 4, .keep, 0x0, 0xFFFFFFF0⟩, ⟨0xD4, 1, 4, .keep, 0x6, 0x1F⟩,
   ⟨0xD8, 1, 0, .ro, 0x0, 0x0⟩, ⟨0xDC, 1, 4, .keep, 0x0, 0xFFFFFFFF⟩, ⟨0xE0, 1, 0, .ro, 0x0, 0x0⟩,
   ⟨0x100, 32, 4, .rw, 0x0, 0xFFFFFFFF⟩]
/-- Registers of the PROT page after the header (R184). -/
def rowsProt : List RegRow :=
  [⟨0x40, 1, 4, .rws, 0x10080008, 0xFFFF00FF⟩, ⟨0x44, 1, 4, .rw, 0x0, 0xFFFFFFFF⟩, ⟨0x48, 1, 0, .ro, 0x0, 0x0⟩,
   ⟨0x4C, 1, 0, .rc, 0x0, 0x0⟩, ⟨0x50, 1, 0, .rc, 0x0, 0x0⟩, ⟨0x54, 1, 0, .ro, 0x0, 0x0⟩,
   ⟨0x58, 1, 0, .ro, 0x0, 0x0⟩]
/-- Registers of the SELV page after the header (R192). -/
def rowsSelv : List RegRow :=
  [⟨0x40, 1, 4, .rws, 0x3, 0x3⟩, ⟨0x44, 1, 0, .ro, 0x0, 0x0⟩, ⟨0x48, 1, 0, .ro, 0x0, 0x0⟩,
   ⟨0x4C, 1, 0, .ro, 0x0, 0x0⟩, ⟨0x50, 1, 0, .ro, 0x0, 0x0⟩]
/-- Registers of the TEN page after the header (R307). -/
def rowsTen : List RegRow :=
  [⟨0x40, 1, 4, .rws, 0x1, 0x3⟩, ⟨0x44, 1, 0, .ro, 0x0, 0x0⟩, ⟨0x48, 1, 4, .rw, 0x0, 0xFFFFFFFF⟩,
   ⟨0x4C, 1, 0, .ro, 0x0, 0x0⟩, ⟨0x50, 1, 4, .rws, 0x0, 0x7FFFE0⟩, ⟨0x54, 1, 4, .rws, 0x6, 0xF⟩,
   ⟨0x58, 1, 4, .rws, 0x0, 0xFFFFFFFF⟩, ⟨0x5C, 1, 0, .ro, 0x0, 0x0⟩, ⟨0x60, 1, 4, .rws, 0x0, 0x7FFFE0⟩,
   ⟨0x64, 1, 4, .rws, 0x6, 0xF⟩, ⟨0x68, 1, 0, .ro, 0x0, 0x0⟩, ⟨0x6C, 1, 4, .rws, 0x0, 0xFFFFFFFF⟩,
   ⟨0x70, 1, 4, .rws, 0x0, 0x7FFFE0⟩, ⟨0x74, 1, 4, .rws, 0x6, 0xF⟩, ⟨0x78, 1, 0, .ro, 0x0, 0x0⟩,
   ⟨0x7C, 1, 4, .rws, 0x0, 0xFFFFFFFF⟩, ⟨0x80, 1, 0, .ro, 0x0, 0x0⟩, ⟨0x84, 1, 0, .ro, 0x0, 0x0⟩]
/-- Registers of the BMY page after the header (R274). -/
def rowsBmy : List RegRow :=
  [⟨0x40, 1, 4, .rws, 0x881024, 0xFFFFF7⟩, ⟨0x44, 1, 4, .rws, 0x0, 0x3FFFF⟩, ⟨0x48, 1, 4, .ro, 0x4, 0x0⟩,
   ⟨0x4C, 1, 4, .rws, 0x7, 0x7⟩, ⟨0x50, 1, 4, .rws, 0x4000200, 0xFFF0FFF⟩, ⟨0x54, 1, 4, .rws, 0x0, 0x3FFFF⟩,
   ⟨0x58, 1, 4, .rws, 0x0, 0x3FFFF⟩, ⟨0x5C, 1, 4, .rws, 0xFFFF, 0xFFFF⟩, ⟨0x60, 1, 4, .rw, 0x0, 0xFFFFFFFF⟩,
   ⟨0x64, 1, 0, .ro, 0x0, 0x0⟩, ⟨0x68, 1, 0, .ro, 0x0, 0x0⟩, ⟨0x6C, 1, 0, .ro, 0x0, 0x0⟩,
   ⟨0x70, 1, 0, .ro, 0x0, 0x0⟩, ⟨0x74, 1, 0, .ro, 0x0, 0x0⟩, ⟨0x78, 1, 0, .ro, 0x0, 0x0⟩,
   ⟨0x7C, 1, 0, .ro, 0x0, 0x0⟩, ⟨0x80, 1, 4, .rws, 0x0, 0x7FFFE0⟩, ⟨0x84, 1, 4, .rws, 0x6, 0xF⟩,
   ⟨0x88, 1, 4, .rws, 0x0, 0xFFFFFFFF⟩, ⟨0x8C, 1, 0, .ro, 0x0, 0x0⟩, ⟨0x90, 1, 4, .rws, 0x0, 0x7FFFE0⟩,
   ⟨0x94, 1, 4, .rws, 0x6, 0xF⟩, ⟨0x98, 1, 0, .ro, 0x0, 0x0⟩, ⟨0x9C, 1, 4, .rws, 0x0, 0xFFFFFFFF⟩,
   ⟨0xA0, 1, 0, .ro, 0x0, 0x0⟩, ⟨0x100, 8, 4, .ro, 0x0, 0x0⟩, ⟨0x140, 16, 4, .ro, 0x0, 0x0⟩,
   ⟨0x180, 8, 4, .ro, 0x0, 0x0⟩]
/-- Registers of the WVR page after the header (R305). -/
def rowsWvr : List RegRow :=
  [⟨0x40, 1, 4, .rws, 0x100401, 0x1FFFF01⟩, ⟨0x44, 1, 4, .ro, 0x10001, 0x0⟩, ⟨0x48, 1, 4, .rws, 0x0, 0x7FF⟩,
   ⟨0x4C, 1, 0, .wo, 0x0, 0x0⟩, ⟨0x50, 1, 0, .wo, 0x0, 0x0⟩, ⟨0x54, 1, 0, .rc, 0x0, 0x0⟩,
   ⟨0x58, 1, 0, .ro, 0x0, 0x0⟩, ⟨0x5C, 1, 4, .rw, 0x0, 0xFFFFFFFF⟩, ⟨0x60, 1, 0, .ro, 0x0, 0x0⟩,
   ⟨0x64, 1, 0, .ro, 0x0, 0x0⟩, ⟨0x68, 1, 0, .ro, 0x0, 0x0⟩, ⟨0x6C, 1, 0, .ro, 0x0, 0x0⟩,
   ⟨0x70, 1, 0, .ro, 0x0, 0x0⟩]
/-- Registers of the BANK page after the header (R359). -/
def rowsBank : List RegRow :=
  [⟨0x40, 1, 4, .rws, 0x1, 0x1⟩, ⟨0x44, 1, 0, .ro, 0x0, 0x0⟩, ⟨0x48, 1, 0, .ro, 0x0, 0x0⟩,
   ⟨0x4C, 1, 0, .ro, 0x0, 0x0⟩, ⟨0x50, 1, 0, .ro, 0x0, 0x0⟩, ⟨0x54, 1, 0, .ro, 0x0, 0x0⟩,
   ⟨0x58, 1, 0, .ro, 0x0, 0x0⟩, ⟨0x5C, 1, 0, .ro, 0x0, 0x0⟩, ⟨0x60, 1, 0, .wo, 0x0, 0x0⟩,
   ⟨0x64, 1, 0, .ro, 0x0, 0x0⟩, ⟨0x68, 1, 4, .rws, 0x400, 0x3FFFF⟩, ⟨0x6C, 1, 0, .ro, 0x0, 0x0⟩,
   ⟨0x70, 1, 0, .ro, 0x0, 0x0⟩, ⟨0x74, 1, 0, .ro, 0x0, 0x0⟩, ⟨0x78, 1, 0, .ro, 0x0, 0x0⟩,
   ⟨0x80, 1, 0, .wo, 0x0, 0x0⟩, ⟨0x84, 1, 0, .wo, 0x0, 0x0⟩, ⟨0x88, 1, 0, .ro, 0x0, 0x0⟩,
   ⟨0x100, 64, 4, .rw, 0x0, 0x1FF7FF⟩, ⟨0x200, 64, 4, .ro, 0x0, 0x0⟩]
/-- Registers of the SKID page after the header (R361). -/
def rowsSkid : List RegRow :=
  [⟨0x40, 1, 4, .rws, 0x40001, 0x7FFF01⟩, ⟨0x44, 1, 4, .rws, 0x800, 0x7FFF⟩, ⟨0x48, 1, 0, .rc, 0x0, 0x0⟩,
   ⟨0x4C, 1, 0, .wo, 0x0, 0x0⟩, ⟨0x50, 1, 4, .ro, 0x20002000, 0x0⟩, ⟨0x54, 1, 0, .ro, 0x0, 0x0⟩,
   ⟨0x58, 1, 0, .ro, 0x0, 0x0⟩, ⟨0x5C, 1, 0, .ro, 0x0, 0x0⟩, ⟨0x60, 1, 0, .ro, 0x0, 0x0⟩,
   ⟨0x64, 1, 0, .rc, 0x2000, 0x0⟩, ⟨0x68, 1, 0, .ro, 0x0, 0x0⟩, ⟨0x70, 1, 4, .rw, 0x0, 0x3FFF⟩,
   ⟨0x74, 1, 0, .ro, 0x0, 0x0⟩]
/-- Registers of the DMA page after the header (R416). -/
def rowsDma : List RegRow :=
  [⟨0x100, 1, 4, .rw, 0x0, 0xFFFFFFFC⟩, ⟨0x104, 1, 4, .rw, 0x0, 0xFFFFFFFF⟩, ⟨0x108, 1, 4, .rw, 0x0, 0x3FFFFFC⟩,
   ⟨0x10C, 1, 4, .rw, 0x0, 0x1FFFFF⟩, ⟨0x110, 1, 0, .wo, 0x0, 0x0⟩, ⟨0x114, 1, 0, .ro, 0x0, 0x0⟩,
   ⟨0x118, 1, 0, .ro, 0x0, 0x0⟩, ⟨0x120, 1, 4, .rw, 0x0, 0xFFFFFFFC⟩, ⟨0x124, 1, 4, .rw, 0x0, 0xFFFFFFFF⟩,
   ⟨0x128, 1, 4, .rw, 0x0, 0x3FFFFFC⟩, ⟨0x12C, 1, 4, .rw, 0x0, 0x1FFFFF⟩, ⟨0x130, 1, 0, .wo, 0x0, 0x0⟩,
   ⟨0x134, 1, 0, .ro, 0x0, 0x0⟩, ⟨0x138, 1, 0, .ro, 0x0, 0x0⟩, ⟨0x140, 1, 4, .rw, 0x0, 0xFFFFFFFC⟩,
   ⟨0x144, 1, 4, .rw, 0x0, 0xFFFFFFFF⟩, ⟨0x148, 1, 4, .rw, 0x0, 0x3FFFFFC⟩, ⟨0x14C, 1, 4, .rw, 0x0, 0x1FFFFF⟩,
   ⟨0x150, 1, 0, .wo, 0x0, 0x0⟩, ⟨0x154, 1, 0, .ro, 0x0, 0x0⟩, ⟨0x158, 1, 0, .ro, 0x0, 0x0⟩]
/-- Registers that only the WVR pages of W60-W63 hold (R305). -/
def rowsHead : List RegRow :=
  [⟨0x100, 8, 32, .rws, 0x0, 0xFFFFFF⟩, ⟨0x104, 8, 32, .rws, 0x0, 0xFFFFFF⟩,
   ⟨0x108, 8, 32, .rws, 0x0, 0xFFFFFFFF⟩, ⟨0x10C, 8, 32, .rws, 0x0, 0xFFFFFFFF⟩,
   ⟨0x110, 8, 32, .rws, 0x0, 0xFFFFFFFF⟩, ⟨0x114, 8, 32, .rws, 0x0, 0x1⟩, ⟨0x200, 1, 4, .rws, 0xE11000, 0xFFFF03⟩,
   ⟨0x204, 1, 0, .ro, 0x0, 0x0⟩, ⟨0x208, 1, 0, .ro, 0x0, 0x0⟩, ⟨0x20C, 1, 0, .ro, 0x0, 0x0⟩,
   ⟨0x210, 1, 4, .rws, 0x0, 0x7FFFE0⟩, ⟨0x214, 1, 4, .rws, 0x6, 0xF⟩, ⟨0x218, 1, 0, .ro, 0x0, 0x0⟩,
   ⟨0x21C, 1, 4, .rws, 0x0, 0xFFFFFFFF⟩]
/-- Registers of a blzUnit entry (R209). -/
def rowsBlzUnit : List RegRow :=
  [⟨0x0, 1, 4, .rw, 0x1, 0x3⟩, ⟨0x4, 1, 0, .wo, 0x0, 0x0⟩, ⟨0x8, 1, 0, .ro, 0x0, 0x0⟩, ⟨0xC, 1, 4, .rw, 0x0, 0x0⟩,
   ⟨0x10, 1, 4, .rw, 0xFFFFFFFF, 0xFFFFFFFF⟩, ⟨0x14, 1, 4, .rw, 0x0, 0xFFFFFFFF⟩, ⟨0x18, 1, 0, .ro, 0x0, 0x0⟩,
   ⟨0x1C, 1, 0, .ro, 0x0, 0x0⟩, ⟨0x20, 1, 0, .wo, 0x0, 0x0⟩, ⟨0x24, 1, 0, .wo, 0x0, 0x0⟩,
   ⟨0x28, 1, 4, .rw, 0x0, 0x7FFFFF⟩, ⟨0x2C, 1, 4, .rw, 0x0, 0xFFFFFF⟩, ⟨0x30, 1, 0, .ro, 0x0, 0x0⟩,
   ⟨0x34, 1, 4, .rw, 0x0, 0xFFFFFFFF⟩, ⟨0x38, 1, 4, .rw, 0x0, 0xFFFFFFFF⟩, ⟨0x3C, 1, 4, .rw, 0x0, 0x7⟩,
   ⟨0x40, 1, 0, .ro, 0x0, 0x0⟩]
/-- Registers of a fineAsg entry (R142). -/
def rowsFineAsg : List RegRow :=
  [⟨0x0, 1, 4, .rw, 0x0, 0xFFF3⟩]
/-- Registers of a fineTen entry (R121). -/
def rowsFineTen : List RegRow :=
  [⟨0x0, 1, 4, .rws, 0x0, 0xFFF0FFF⟩]
/-- Registers of a protRec entry (R186). -/
def rowsProtRec : List RegRow :=
  [⟨0x0, 1, 4, .rws, 0x10000000, 0x1FFFFFFF⟩, ⟨0x4, 1, 4, .rws, 0x11E2, 0xFFFFFFFF⟩,
   ⟨0x8, 1, 4, .rws, 0x0, 0xFFFFF⟩, ⟨0xC, 1, 4, .rws, 0x0, 0xFFFFF⟩, ⟨0x10, 1, 4, .rws, 0x0, 0xFFFFF⟩,
   ⟨0x14, 1, 0, .wo, 0x0, 0x0⟩, ⟨0x18, 1, 0, .ro, 0x0, 0x0⟩, ⟨0x1C, 1, 4, .rws, 0x0, 0x1FFF⟩]
/-- Registers of a protAps entry (R190). -/
def rowsProtAps : List RegRow :=
  [⟨0x0, 1, 0, .ro, 0x0, 0x0⟩, ⟨0x4, 1, 0, .ro, 0x0, 0x0⟩, ⟨0x8, 1, 4, .rw, 0x0, 0xF1FFF⟩,
   ⟨0xC, 1, 0, .ro, 0x0, 0x0⟩]
/-- Registers of a protMem entry (R191). -/
def rowsProtMem : List RegRow :=
  [⟨0x0, 1, 4, .rws, 0x0, 0xFFFFF⟩, ⟨0x8, 30, 4, .rws, 0x0, 0xFFFFF⟩]
/-- Registers of a grant entry (R78). -/
def rowsGrant : List RegRow :=
  [⟨0x0, 1, 4, .rws, 0x0, 0x7FFFFFF⟩, ⟨0x4, 1, 4, .rws, 0x0, 0x1FFFF⟩]
/-- Registers of a tenTab entry (R297). -/
def rowsTenTab : List RegRow :=
  [⟨0x0, 1, 4, .rws, 0x0, 0xFFF0FFF⟩]

/-- The registers of a page (after its header) or table entry. -/
def rowsOf : Blk → List RegRow
  | .glb => rowsGlb
  | .girq => rowsGirq
  | .gvec => rowsGvec
  | .pwr => rowsPwr
  | .beat => rowsBeat
  | .fmn => rowsFmn
  | .shed => rowsShed
  | .tly => rowsTly
  | .tst => rowsTst
  | .mbx => rowsMbx
  | .blz => rowsBlz
  | .prt => rowsPrt
  | .ln => rowsLn
  | .ils => rowsIls
  | .els => rowsEls
  | .loom => rowsLoom
  | .hdl => rowsHdl
  | .trd => rowsTrd
  | .fine => rowsFine
  | .prot => rowsProt
  | .selv => rowsSelv
  | .ten => rowsTen
  | .bmy => rowsBmy
  | .wvr => rowsWvr
  | .bank => rowsBank
  | .skid => rowsSkid
  | .dma => rowsDma
  | .blzUnit => rowsBlzUnit
  | .fineAsg => rowsFineAsg
  | .fineTen => rowsFineTen
  | .protRec => rowsProtRec
  | .protAps => rowsProtAps
  | .protMem => rowsProtMem
  | .grant => rowsGrant
  | .tenTab => rowsTenTab

/-- The causes a page's chapter defines in IRQ_RAW (R62, R104, R107, R143, R185, R192, R246, R276, R308, R332, R360, R361,
R379, R398, R407, R414, R416, R440, R459). -/
def irqMask : Blk → Nat
  | .glb => 0x7
  | .girq => 0x0
  | .gvec => 0x0
  | .pwr => 0xF
  | .beat => 0x7F
  | .fmn => 0x1FF
  | .shed => 0x3
  | .tly => 0xF
  | .tst => 0x7
  | .mbx => 0x3F
  | .blz => 0x0
  | .prt => 0x0
  | .ln => 0x103FF
  | .ils => 0x0
  | .els => 0x0
  | .loom => 0x3
  | .hdl => 0x0
  | .trd => 0xFF
  | .fine => 0x1FF
  | .prot => 0x3F
  | .selv => 0x1
  | .ten => 0xF
  | .bmy => 0x3F
  | .wvr => 0x0
  | .bank => 0x3F
  | .skid => 0x3
  | .dma => 0x3F
  | .blzUnit => 0
  | .fineAsg => 0
  | .fineTen => 0
  | .protRec => 0
  | .protAps => 0
  | .protMem => 0
  | .grant => 0
  | .tenTab => 0

/-- The type field of a page's ID (R403). -/
def idType : Blk → Nat
  | .glb => 0x9140
  | .girq => 0x2
  | .gvec => 0x3
  | .pwr => 0x100
  | .beat => 0x600
  | .fmn => 0xA00
  | .shed => 0xC00
  | .tly => 0xD00
  | .tst => 0xE00
  | .mbx => 0xF00
  | .blz => 0x500
  | .prt => 0x200
  | .ln => 0x201
  | .ils => 0x203
  | .els => 0x204
  | .loom => 0x300
  | .hdl => 0x301
  | .trd => 0x302
  | .fine => 0x310
  | .prot => 0x400
  | .selv => 0x401
  | .ten => 0x900
  | .bmy => 0x700
  | .wvr => 0x800
  | .bank => 0xB00
  | .skid => 0xB01
  | .dma => 0xF01
  | .blzUnit => 0
  | .fineAsg => 0
  | .fineTen => 0
  | .protRec => 0
  | .protAps => 0
  | .protMem => 0
  | .grant => 0
  | .tenTab => 0

/-- True for a page with the header of R404. -/
def isPage : Blk → Bool
  | .blzUnit | .fineAsg | .fineTen | .protRec | .protAps | .protMem | .grant | .tenTab => false
  | _ => true

/-- Where an address lies: page or table, instance, offset (R403, R413). -/
def locate (a : Nat) : Option (Blk × Nat × Nat) :=
  let pg := a / 0x1000
  let o := a % 0x1000
  if a < 0x80000 then
    if pg = 0 then some (.glb, 0, o) else if pg = 1 then some (.girq, 0, o) else if pg = 2 then some (.gvec, 0, o)
    else if pg = 0x10 then some (.pwr, 0, o) else if pg = 0x20 then some (.beat, 0, o)
    else if pg = 0x30 then some (.fmn, 0, o) else if pg = 0x40 then some (.shed, 0, o)
    else if pg = 0x50 then some (.tly, 0, o) else if pg = 0x60 then some (.tst, 0, o)
    else if pg = 0x70 then some (.mbx, 0, o) else none
  else if a < 0x400000 then
    if pg = 0x80 then some (.blz, 0, o)
    else if a < 0x85800 ∧ 0x81000 ≤ a then some (.blzUnit, (a - 0x81000) / 0x100, a % 0x100) else none
  else if a < 0x800000 then
    let p := (a - 0x400000) / 0x80000
    let x := (a - 0x400000) % 0x80000
    if x < 0x1000 then some (.prt, p, o)
    else if 0x10000 ≤ x ∧ x < 0x50000 then some (.ln, p * 64 + (x - 0x10000) / 0x1000, o)
    else if 0x50000 ≤ x ∧ x < 0x51000 then some (.ils, p, o)
    else if 0x60000 ≤ x ∧ x < 0x61000 then some (.els, p, o) else none
  else if a < 0x1000000 then
    if pg = 0x800 then some (.loom, 0, o) else if pg = 0x801 then some (.hdl, 0, o)
    else if pg = 0x810 then some (.trd, 0, o) else if pg = 0x900 then some (.fine, 0, o)
    else if 0x902000 ≤ a ∧ a < 0x903400 then some (.fineAsg, (a - 0x902000) / 4, a % 4)
    else if 0x920000 ≤ a ∧ a < 0x9C0000 then some (.fineTen, (a - 0x920000) / 4, a % 4)
    else if pg = 0xA00 then some (.prot, 0, o)
    else if 0xA10000 ≤ a ∧ a < 0xA50000 then some (.protRec, (a - 0xA10000) / 32, a % 32)
    else if 0xA50000 ≤ a ∧ a < 0xA70000 then some (.protAps, (a - 0xA50000) / 16, a % 16)
    else if 0xA70000 ≤ a ∧ a < 0xA80000 then some (.protMem, (a - 0xA70000) / 128, a % 128)
    else if pg = 0xA80 then some (.selv, 0, o) else if pg = 0xB00 then some (.ten, 0, o)
    else if 0xB10000 ≤ a ∧ a < 0xB12000 then some (.grant, (a - 0xB10000) / 8, a % 8)
    else if 0xB20000 ≤ a ∧ a < 0xB48000 then some (.tenTab, (a - 0xB20000) / 4, a % 4)
    else if pg = 0xB80 then some (.bmy, 0, o)
    else if 0xC00 ≤ pg ∧ pg < 0xC40 then some (.wvr, pg - 0xC00, o)
    else if pg = 0xD00 then some (.bank, 0, o) else if pg = 0xD80 then some (.skid, 0, o) else none
  else if pg = 0x4040 then some (.dma, 0, o) else none

/-- The row that holds offset `o`. -/
def findRow : List RegRow → Nat → Option RegRow
  | [], _ => none
  | r :: t, o =>
    if r.n = 1 ∧ r.off = o then some r
    else if 1 < r.n ∧ r.off ≤ o ∧ (o - r.off) % r.stride = 0 ∧ (o - r.off) / r.stride < r.n then some r
    else findRow t o

/-- Bits of PERTURB hook `i` of a page (R404, R452, R453, R454). -/
def perturbMask (b : Blk) (i : Nat) : Nat :=
  match b, i with
  | .ln, 0 => 0x000FF7FF
  | .ln, 1 => 0x000103FF
  | .ln, 2 => 0x00000FFF
  | .ln, _ => 0x00003FFF
  | .shed, 0 => 0xFFFFFF3F
  | .shed, 1 => 0x0000FF7F
  | .beat, 1 => 0x001FFFFF
  | _, _ => 0xFFFFFFFF

/-- The common page header (R404). -/
def headerRow (b : Blk) (o : Nat) : Option RegRow :=
  if o = 0 then some ⟨0, 1, 0, .ro, 0, 0⟩
  else if o = 0x10 then some ⟨0x10, 1, 0, .w1c, 0, irqMask b⟩
  else if o = 0x14 then some ⟨0x14, 1, 0, .rw, 0, irqMask b⟩
  else if o = 0x18 then some ⟨0x18, 1, 0, .wo, 0, 0⟩
  else if o = 0x1C then some ⟨0x1C, 1, 0, .ro, 0, 0⟩
  else if o = 0x20 then some ⟨0x20, 1, 0, .rc, 0, 0⟩
  else if o = 0x24 then some ⟨0x24, 1, 0, .rw, 0, 0xFFFFFFFF⟩
  else if 0x30 ≤ o ∧ o < 0x40 ∧ o % 4 = 0 then some ⟨o, 1, 0, .rw, 0, perturbMask b ((o - 0x30) / 4)⟩
  else none

/-- The register at an offset of a page or table entry, if it names one. -/
def regRow (b : Blk) (inst o : Nat) : Option RegRow :=
  match (if isPage b then headerRow b o else none) with
  | some r => some r
  | none =>
    match findRow (rowsOf b) o with
    | some r => some r
    | none => if b = .wvr ∧ 60 ≤ inst then findRow rowsHead o else none

/-- The reset value of a register, with those that differ by instance (R335, R406, R410). SHED_PRIOWi of target `t` (R378)
is kept at 0x800_0000 + 32 t + 4 i. -/
def resetOf (a : Nat) : Word :=
  if 0x8000000 ≤ a then (if a % 0x20 = 0x10 then 0xFC2A else 0x55555555) else
  match locate a with
  | none => 0
  | some (b, inst, o) =>
    match regRow b inst o with
    | none => 0
    | some r =>
      match b with
      | .gvec => if 0x100 ≤ o then BitVec.ofNat 32 (0x100 + (o - 0x100) / 4) else BitVec.ofNat 32 r.reset
      | .bank =>
        if 0x100 ≤ o ∧ o < 0x200 then
          (let k := (o - 0x100) / 4
           if 48 ≤ k then 0x300 else if 40 ≤ k then 0x200 else 0)
        else BitVec.ofNat 32 r.reset
      | _ => BitVec.ofNat 32 r.reset

/-- Access code of a register address. -/
def accOf (a : Nat) : Option Acc :=
  match locate a with
  | none => none
  | some (b, inst, o) => (regRow b inst o).map (·.acc)

/-- Bits that a write reaches. -/
def writeMask (a : Nat) : Nat :=
  match locate a with
  | none => 0
  | some (b, inst, o) => match regRow b inst o with
    | some r =>
      -- no thread 125 to 127 (R121): the upper half of word 62 and word 63 of a position
      if b = .fineTen ∧ inst % 64 = 62 then 0xFFF else if b = .fineTen ∧ inst % 64 = 63 then 0 else r.wm
    | none => 0

/-- A register that a warm reset returns to its reset value (R6, R434): RW, W1C and RC, and nothing kept. -/
def warmClears (a : Nat) : Bool :=
  match accOf a with
  | some .rw => true
  | some .w1c => true
  | some .rc => true
  | _ => false

end Sys2Proof.Machine
end

