-- ==== Sys2Proof/Machine/State.lean ====
section
/-! DEFINITION. The state of the block: plain data. Every register of the register map is in `regs` (or, where it reflects
other state, computed from it by `readReg`); each engine's own state is in its block. Reset values are the spec's; the ones
the spec does not give are named in notes/assumptions/2.md to 6.md (DESIGN CHOICE). -/
namespace Sys2Proof.Machine

/-- Framer states (R44). -/
inductive Framer where
  | hunt | presync | sync
deriving DecidableEq, Repr

/-- Kinds of pick (R50, R72). -/
inductive PickKind where
  | data | ais | oci | lck | idle | pattern
deriving DecidableEq, Repr

/-- Status of a Shed response (R366). -/
inductive Status where
  | ok | dec | err
deriving DecidableEq, Repr

/-- Kinds of decode error (R377). -/
inductive DecKind where
  | unmapped | nopath | size | asleep | link
deriving DecidableEq, Repr

/-- What the block sends (R26, R31, R32, R163, R250, R400, R411, R443). Overhead of a lane is given as it stands on the line: a lane
header, a skein header, an APS slot, cell `j` of the Bamry (0-31) or management (32-95) channel, `count` picks from pick `pick` on
(payload picks at the end of their bolt) as one number whose bit 0 goes first; an unframed pattern (TXPAT 2, 3); the symbol errors put into every codeword of the bolt (R452).
A message is given too, when it starts into its cells. Of CLKOUTn, the rising edges of a bolt: `count` from edge `first` of the PPS cycle,
edge j falling j / hz seconds after its start (R234). Of a bolt that an align lengthened or shortened, its length (R236). The answer to
an access that a held target kept waiting (R455). -/
inductive Output where
  | msix (v : Nat)
  | hostWrite (addr : Nat) (bytes : List Byte)
  | laneHeader (l : Nat) (hdr : List Byte)
  | skeinHeader (k : Nat) (hdr : List Byte)
  | apsSlot (l slot : Nat) (bytes : List Byte)
  | bamry (p : Nat) (msg : List Byte)
  | mgmt (p : Nat) (msg : List Byte)
  | cell (l j : Nat) (bytes : List Byte)
  | bits (l pick count : Nat) (v : Nat)
  | unframed (l code : Nat)
  | symErrors (l n : Nat)
  | uart (text : List Byte)
  | uartWords (ws : List Word)
  | intN (asserted : Bool)
  | pps (pick : Nat) (ns : Int)
  | boltOut (bolt : Word)
  | clkout (n hz first count : Nat)
  | boltLength (picks : Nat)
  | armMsg (tile : Nat)
  | smbus (bytes : List Byte)
  | nack
  | jtag (v : BitVec 64)
  | lateAnswer (m : Mid) (a : Nat) (data : List (BitVec 64)) (status : Status)
  | flash (slot : Nat) (bytes : List Byte)
deriving DecidableEq, Repr

/-- The tag of a sampled pick (R392-R394): SID, stamp 0, bolt of stamp 0, source LSR, rho, input thread (127: none); copies of it were made. -/
structure Sample where
  sid : Word
  s0 : Word
  bolt : Word
  src : Nat
  rho : Nat
  sthr : Nat
  mc : Bool := false
deriving DecidableEq, Repr

/-- A pick inside the fabric: payload, kind, the tag of R75, the AIS state, validity (R174), skein round index (R29), whether it is the pick
of that index (neither inserted by a slip or a recentre, nor in the slot of a sleeping tile), whether this device put a pattern in its
place, sample tag (R392). -/
structure Pick where
  payload : List Byte := []
  kind : PickKind := .oci
  tag : BitVec 12 := 0
  valid : Bool := true
  rho : Nat := 0
  own : Bool := true
  repl : Bool := false
  samp : Option Sample := none
deriving DecidableEq, Repr

/-- A defect integrator (R45): bad and good counts, the integrated state as the last boundary left it, which consequent actions
and protection use, and the declared state that DEFECT_DECLARED and DEFECT_CLEARED report (R49). -/
structure Integ where
  bad : Nat := 0
  good : Nat := 0
  eff : Bool := false
  decl : Bool := false
deriving DecidableEq, Repr

/-- A receive lane of an awake port tile, and its paired transmitter (R32-R56). -/
structure Lane where
  /-- signal detect present, clock recovery locked, codeword lock (R25, R46) -/
  sig : Bool := false
  clk : Bool := false
  cw : Bool := false
  framer : Framer := .hunt
  /-- good and errored FAW counts of R44 -/
  good : Nat := 0
  err : Nat := 0
  rawOof : Bool := true
  /-- raw LOS, LOL or OOF occurred in the bolt -/
  losSeen : Bool := true
  lolSeen : Bool := true
  oofSeen : Bool := true
  /-- the framer was in SYNC throughout, out of frame throughout, in SYNC at the bolt's FAW -/
  inAll : Bool := false
  outAll : Bool := true
  fawSync : Bool := false
  /-- lane header accepted, HCRC failed, L-AIS bytes received in the bolt (R34, R46) -/
  hdrOk : Bool := false
  hdrBad : Bool := false
  laisRx : Bool := false
  /-- BIP violations of the last evaluated bolt (R33), and those of the bolt ended -/
  beiOut : Nat := 0
  bipNow : Nat := 0
  /-- bytes of the TTI multiframe in progress, the complete one before it, and whether a TTI is accepted (R35) -/
  ttiCur : List Byte := []
  ttiPrev : List Byte := []
  ttiOk : Bool := false
  /-- sampled fill F and offset D (R53); the module pick in which pick 0 of the lane arrives (R54) -/
  fill : Nat := 0
  off : Nat := 0
  arr : Nat := 0
  /-- rounds of AIS inserted at round 0 of this bolt; input rounds discarded (R55, R56) -/
  aisRounds : Nat := 0
  slipIn : Bool := false
  recIn : Bool := false
  recCmd : Bool := false
  /-- a recentre falls at the boundary that started the present bolt -/
  recDue : Bool := false
  /-- LOS, LOL or LOF was declared since the last recentre (R56) -/
  lostIn : Bool := false
  jump : Int := 0
  /-- lane delay in force (R452), hooks PERTURB0-3 in force (R451) -/
  dly : Nat := 0
  hook : List Word := [0, 0, 0, 0]
  /-- corrected symbols and uncorrectable codewords of the bolt ended; codeword lock held at some time in it (R46) -/
  fecCor : Nat := 0
  fecUnc : Nat := 0
  cwSeen : Bool := false
  /-- LN_INTG registers written in the bolt, with the word in force until the boundary (R63) -/
  intgOld : List (Nat × Word) := []
  /-- lane conditions of R48 so far; the last bolts with FEC-UNC -/
  evt : Nat := 0
  fecAt : List Word := []
  /-- picks that came from an uncorrectable codeword -/
  unc : Nat := 0
  /-- what the last looped header changed in the parity of its bolt (R58) -/
  loopFix : Word := 0
  /-- parity of the overhead that the transmitter sent in the present bolt, before scrambling, and at its end of the whole bolt; none where
  its bolt is not framed by this device, or the model did not see every pick (R33); what fills its payload (R59), where that is framed -/
  bipTx : Option Word := none
  txPat : Option Nat := none
  /-- what a looped lane is to send back, by its byte, counted on over lane bolts; the lane bolt under way (R58) -/
  loopQ : SMap Output := []
  loopN : Nat := 0
  /-- its framer holds the position of the paired egress stream (R58) -/
  own : Bool := false
  /-- messages in progress on the received Bamry and management channels (R40) -/
  bmyPart : Option (List Byte) := none
  mgmtPart : Option (List Byte) := none
deriving DecidableEq, Repr

/-- A comparison that waits for the rho 624 pick of its skein bolt, still in the alignment buffer (R198): what makes it
unevaluated so far, the header's ORIGIN, SEQ and TRAIL, the lane's counts of R48 conditions and of FEC-UNC picks then, and what the lane
showed since the header before (bit 11 of BLZ_CAP_STAT). -/
structure TrailWait where
  why : Nat
  origin : Nat
  seq : Nat
  trail : Nat
  evt : Nat
  unc : Nat
  cond : Nat
deriving DecidableEq, Repr

/-- An ingress skein (R29, R36, R47, R48, R197, R198). -/
structure SkRx where
  origin : BitVec 35 := 0
  tenant : BitVec 12 := 0
  p : Nat := 0
  flags : BitVec 3 := 0
  seq : Word := 0
  trail : Word := 0
  /-- a header was received since the lane came up; its SCRC was good -/
  seen : Bool := false
  lastOk : Bool := false
  /-- trail accumulator: running register, picks folded since rho 0, held check C (R197) -/
  acc : Word := 0xFFFFFFFF
  cnt : Nat := 0
  held : Option Word := none
  /-- ORIGIN, P and FLAGS of the header before the last one, where its SCRC was good -/
  old : Option (BitVec 35 × Nat × BitVec 3) := none
  /-- the lane's count of R48 conditions at rho 0; the bolts of rho 0 and rho 624; a condition of R48 fell in the skein bolt -/
  evt0 : Nat := 0
  b0 : Word := 0
  b1 : Word := 0
  cause : Bool := false
  /-- P of the header before the last one; picks of its lane bolt are still leaving the buffer; the lane round of the last pick -/
  pPrev : Nat := 0
  late : Bool := false
  lastLr : Nat := 624
  wait : Option TrailWait := none
  /-- 1 + the absolute module round in which the last rho 624 pick left the buffer, and the one whose header has come, with its SEQ and
  TRAIL (R170, R199) -/
  fin : Nat := 0
  finHdr : Nat := 0
  finSeq : Word := 0
  finTrail : Word := 0
  /-- the lane's count of R48 conditions, and the bolt, at the last header; picks that left the buffer since the framer left SYNC -/
  evtH : Nat := 0
  bH : Word := 0
  tail : Nat := 0
  /-- expected origin and S-TIM enable (R60) -/
  exp : BitVec 35 := 0
  expEn : Bool := false
deriving DecidableEq, Repr

/-- An egress skein: the last pick it transmitted and 1 + its absolute round, the trail generator (R201), replacements under R77
of its working and protect legs in this bolt and the one before (R151), a forced pattern sent in this bolt (R381). Where nothing is
switched to it, it transmits the pattern that `out` holds (R50). -/
structure SkTx where
  out : Pick := { payload := List.replicate 64 0x66, repl := true }
  round : Nat := 0
  /-- picks transmitted in the bolt, by module round; a pattern fills the bolt (R33) -/
  line : SMap (List Byte) := []
  pat : Bool := true
  /-- its last picks with their absolute rounds, newest first, where its lane is in terminal loopback (R58) -/
  sent : List (Nat × List Byte) := []
  /-- source skein whose rho 624 pick it transmitted in this bolt, in the one before (R37, R199) -/
  src624 : Option Nat := none
  prev624 : Option Nat := none
  /-- the last pick was substituted (R174) -/
  sub : Bool := false
  gen : Word := 0xFFFFFFFF
  genN : Nat := 0
  violW : Bool := false
  violP : Bool := false
  prevW : Bool := false
  prevP : Bool := false
  fx : Bool := false
deriving DecidableEq, Repr

/-- A port tile and its die-to-die link (R20, R424). -/
structure PortSt where
  awake : Bool := false
  waking : Bool := false
  linkUp : Bool := false
  downDecl : Bool := false
  /-- bolt in which the link was lost; the link was lost in the present bolt -/
  lostAt : Word := 0
  lostIn : Bool := false
deriving DecidableEq, Repr

/-- The three Heddle maps of one page (R69). -/
structure HMaps where
  ing : SMap Word := []
  reed : SMap Word := []
  eg : SMap (BitVec 64) := []
deriving DecidableEq, Repr

/-- An ECC error standing in a map entry: map, key, page (true standby), uncorrectable. -/
structure EccMark where
  map : Nat
  key : Nat
  standby : Bool
  unc : Bool
  /-- it has acted: its destinations carry AIS until the reload -/
  active : Bool
  /-- the reload falls at the boundary that started the present bolt -/
  due : Bool := false
deriving DecidableEq, Repr

/-- The Heddle (R69-R72, R81, R88). -/
structure Loom where
  act : HMaps := {}
  stb : HMaps := {}
  phys : Bool := false
  ecc : List EccMark := []
deriving DecidableEq, Repr

/-- States of a command engine (R105, R140). -/
inductive EngSt where
  | idle | build | armed | sync | waitProt
deriving DecidableEq, Repr

/-- A command as enqueued from a window (R89). -/
structure QCmd where
  win : Nat
  ws : List Word
deriving DecidableEq, Repr

/-- A completion before its PHASE is set (R94, R128). -/
structure Done where
  ring : Nat
  tag : BitVec 16
  status : Byte
  split : Bool := false
  forced : Bool := false
  cbolt : Word := 0
  w2 : Word := 0
  w3 : Word := 0
deriving DecidableEq, Repr

/-- A command engine: the Treadle, or the Fine loom's thread command engine (R83-R95, R125-R130). -/
structure Engine where
  q : List QCmd := []
  st : EngSt := .idle
  owner : Nat := 0
  /-- completions of the open or armed batch, in command order; commands it counts; moves it made -/
  batch : List Done := []
  count : Nat := 0
  moves : Nat := 0
  lastAdd : Word := 0
  /-- bolt in which building ended; target; failed tries; arm messages sent; acknowledged and touched tiles -/
  armBolt : Word := 0
  tries : Nat := 0
  armSent : Bool := false
  acks : List Nat := []
  need : List Nat := []
  /-- FENCEs taken and waiting, with the batch number each waits for -/
  fences : List (Nat × Done) := []
  batchNo : Nat := 0
  /-- completions of the committed batch, not yet posted -/
  post : List Done := []
  copied : Bool := false
  /-- ONCE grant entries the batch uses -/
  once : List Nat := []
  /-- bolt at which the head began to wait on a busy group -/
  waitAt : Option Word := none
  /-- PHASE of the pass in progress per ring: host, internal, agent -/
  phH : Bool := true
  phI : Bool := true
  phA : Bool := true
  /-- the command to run in the new batch carries SPLIT (R92) -/
  splitNext : Bool := false
  /-- the CFG register as it stood when the last command reached the queue head (R106, R141) -/
  cfg : Option Word := none
  /-- map entries (map, key) that the open or armed batch writes (R88, R133) -/
  wrote : List (Nat × Nat) := []
deriving DecidableEq, Repr

/-- The two thread maps of one page (R118). -/
structure FMaps where
  out : SMap (BitVec 64) := []
  tag : SMap Word := []
deriving DecidableEq, Repr

/-- A pick in the thread buffer with the absolute module round in which it left the alignment buffer (R115). -/
structure BufPick where
  pick : Pick
  round : Nat
deriving DecidableEq, Repr

/-- The Fine loom (R109-R143). -/
structure Fine where
  act : FMaps := {}
  stb : FMaps := {}
  prev : FMaps := {}
  phys : Bool := false
  eng : Engine := {}
  ecc : List EccMark := []
  /-- the last two picks of each input thread, and one in the pipeline behind them (R114, R115) -/
  buf : SMap (List BufPick) := []
  /-- per input, the pattern that stands in for its picks and the absolute round from which it does, newest first; OCI before all of
  them (R72, R131) -/
  inPat : SMap (List (Nat × Option PickKind)) := []
  /-- rewoven pick of each output position -/
  outp : SMap Pick := []
  /-- output threads that read a pick without AIS in MODE 1 in this bolt / in the bolt before (R135) -/
  live : SMap Bool := []
  livePrev : SMap Bool := []
  /-- per output, 1 + the thread round (5 x bolt + round / 125) of the last AIS pick a MODE 1 thread read (R136) -/
  tsf : SMap Nat := []
deriving DecidableEq, Repr

/-- A leg's conditions (R151, R152): the boundary at which it went into SF of any cause; the boundary at which SF that is held off appeared,
past its hold-off; SF without hold-off (no connection, SF-A); the same of SD. -/
structure LegCond where
  sfOn : Option Word := none
  sfAt : Option Word := none
  sfIn : Bool := false
  imm : Bool := false
  sdAt : Option Word := none
  sdIn : Bool := false
deriving DecidableEq, Repr

/-- What a leg of an errorless pair has shown (R170, R171). -/
structure LegMeas where
  /-- A(s) - 625 s, in rounds; it has been measured -/
  base : Int := 0
  known : Bool := false
  origin : BitVec 35 := 0
  lastSeq : Word := 0
  lastP : Nat := 0
  lastOk : Bool := false
  /-- two consecutive headers agreed; acquired -/
  two : Bool := false
  acq : Bool := false
  /-- SEQ and TRAIL of the last skein bolts, newest first -/
  hist : List (Word × Word) := []
deriving DecidableEq, Repr

/-- Alignment states (R172, R188). -/
inductive AlignSt where
  | acq | single | aligned | unprot
deriving DecidableEq, Repr

/-- A protection group's own state (R144-R178); its registers are in `regs`. -/
structure Grp where
  /-- type, PROT_GCFG and PROT_GWTR in force -/
  ty : Nat := 0
  cfg : Word := 0x10000000
  gwtr : Word := 0x000011E2
  /-- a write of PROT_GCFG waits for the boundary, one of them with TYPE 0; writes of PROT_GCMD wait, oldest first (code, member) -/
  cfgPend : Bool := false
  off : Bool := false
  cmds : List (Nat × Nat) := []
  /-- standing command code of STAND and its member -/
  stand : Nat := 0
  standMem : Nat := 0
  rej : Bool := false
  /-- conditions of the protect leg (0) and of member i's leg (i) -/
  legs : SMap LegCond := []
  wtr : Option (Nat × Word) := none
  /-- the WTR time will be over at the next boundary -/
  wtrOver : Bool := false
  /-- top request; local request and its signal; requested, bridged and selected signals (R155) -/
  req : Nat := 0
  lreq : Nat := 0
  lsig : Nat := 0
  reqsig : Nat := 0
  brsig : Nat := 0
  selsig : Nat := 0
  /-- counts of R166 -/
  pmCnt : Nat := 0
  nrCnt : Nat := 0
  toCnt : Nat := 0
  /-- errorless pair: what the legs showed, alignment, store leg (true: protect), Tout - 625 s -/
  mw : LegMeas := {}
  mp : LegMeas := {}
  align : AlignSt := .acq
  fill : Bool := false
  fillAt : Word := 0
  lead : Bool := false
  /-- a leg is stored (in ALIGNED and UNPROT) or being filled -/
  stored : Bool := false
  dmax : Bool := false
  tout : Int := 0
  acqAt : Option Word := none
  unprotAt : Word := 0
  retime : Bool := false
  /-- a re-time was made at the last boundary: whether it changed the store leg (R176) -/
  retimed : Option Bool := none
  sfaW : Bool := false
  sfaP : Bool := false
  /-- absolute round up to which a re-time fills the output with AIS (R176) -/
  gapTo : Nat := 0
deriving DecidableEq, Repr

/-- A pick held for an errorless output, in the Selvage store or the pipeline: group, leg, origin bolt, rho (R169). -/
structure StorePick where
  g : Nat
  protect : Bool
  ob : Word
  rho : Nat
  pick : Pick
deriving DecidableEq, Repr

/-- Protection (R144-R192). -/
structure Prot where
  grp : SMap Grp := []
  evq : List Nat := []
  chgq : List Nat := []
  hbAt : Word := 0
  hbNew : Bool := false
  lost : Bool := false
  store : List StorePick := []
  hbmOn : BitVec 2 := 0
  hbmReady : BitVec 2 := 0
deriving DecidableEq, Repr

/-- A Blaze unit (R202-R210): running register, length folded, run in progress. -/
structure BlzUnit where
  run : BitVec 64 := 0xFFFFFFFF
  busy : Bool := false
  refused : Bool := false
  err : Bool := false
  held : Bool := false
  owner : Mid := 0
deriving DecidableEq, Repr

/-- States of the Beat (R226, R241). -/
inductive BeatMode where
  | freeRun | acquiring | locked | holdover | lost
deriving DecidableEq, Repr

/-- A reference candidate (R214-R221). -/
structure Cand where
  active : Bool := false
  freqOk : Bool := false
  qual : Bool := false
  acqFail : Bool := false
  /-- bolt from which the three conditions have held -/
  goodFrom : Option Word := none
  /-- received QL in force, the last code received and how often in a row -/
  ql : Nat := 0xF
  qlNew : Nat := 0xF
  qlRep : Nat := 0
  /-- an activity gap of the present bolt; bolts from which edges came without a gap, and from which its monitor runs -/
  gapNow : Bool := false
  gapAt : Word := 0
  monAt : Word := 0
deriving DecidableEq, Repr

/-- Results of an align (R245). -/
inductive AlignRes where
  | none | done | nophase | noref | cancelled | range
deriving DecidableEq, Repr

/-- The Beat (R211-R246). -/
structure Beat where
  /-- bolts since the reset, not wrapping; what falls at the boundary that started the present bolt may still be taken (R16) -/
  bolts : Nat := 0
  edge : Bool := false
  mode : BeatMode := .freeRun
  stage : Nat := 0
  sel : Option Nat := none
  forced : Bool := false
  forcedBad : Bool := false
  /-- theta (fs), DCO value in force (ppt), LO held for a write, HI latched by a read -/
  theta : Int := 0
  dco : Int := 0
  loHeld : Word := 0
  hiLatch : Byte := 0
  dcoPend : Option Int := none
  /-- holdover value and validity; DCO values of the LOCKED period, newest first -/
  hov : Int := 0
  hoValid : Bool := false
  hist : List Int := []
  lockedAt : Word := 0
  acqAt : Word := 0
  hoAt : Word := 0
  /-- consecutive bolts within the stage's phase limit, meeting the lock condition, beyond 4 x LOCK_WIN -/
  stageCnt : Nat := 0
  lockCnt : Nat := 0
  badCnt : Nat := 0
  phErr : Int := 0
  freqErr : Int := 0
  /-- pull still to make (fs), PULLING; the phase detector is held (R228) -/
  pull : Int := 0
  pulling : Bool := false
  hold : Bool := false
  /-- phases measured at the last boundary (ps): the output's, each candidate's -/
  phiOut : Int := 0
  phi : List (Nat × Int) := []
  /-- the PPS_OUT edge of the present bolt was made -/
  ppsDone : Bool := false
  /-- pins taken (FREF_EN_N high is true) -/
  enN : Bool := true
  fsel : BitVec 5 := 0
  /-- align: requested, taken at the boundary that started the present bolt, in progress, what is left to slew (fs), its SOURCE and
  TARGET, result; the whole picks by which the present bolt is lengthened or shortened; the bolts, modulo the PPS cycle, whose boundary
  follows the marker of a 1 PPS align; the PPS cycle restarts at the next of them (R235, R236) -/
  alGo : Bool := false
  alDue : Bool := false
  alBusy : Bool := false
  alLeft : Int := 0
  alSrc : Bool := false
  alRes : AlignRes := .none
  alTgt : Bool := false
  alStep : Int := 0
  alMark : Option Nat := none
  ppsRst : Option Nat := none
  /-- settings in force, taken at the boundary: LOOP, HOCFG, SWCFG (R242) -/
  loop : Word := 0x000F0A03
  hocfg : Word := 0x00000E0F
  swcfg : Word := 0x0641F400
  cand : SMap Cand := []
  hook : List Word := [0, 0, 0, 0]
deriving DecidableEq, Repr

/-- A neighbour of a port (R252-R254): STATE (0 DOWN, 1 UP, 2 DUP), the last HELLO and how many agreed, what an UP link has in
force (VL, FEAT_L), the Bamry lane, the cells of messages still to send on the Bamry and management channels, and those that go into the
present bolt (R40, R247, R248). -/
structure Nbr where
  st : Nat := 0
  from_ : Nat := 0
  serial : Nat := 0
  port : Nat := 0
  helloAt : Word := 0
  helloCnt : Nat := 0
  vmin : Nat := 0
  vmax : Nat := 0
  feat : Nat := 0
  reneg : Bool := false
  headless : Bool := false
  assigner : Bool := false
  vl : Nat := 0
  featL : Nat := 0
  lane : Option Nat := none
  cells : List (List Byte) := []
  mcells : List (List Byte) := []
  now : List (List Byte) := []
  mnow : List (List Byte) := []
deriving DecidableEq, Repr

/-- A path table record: a reservation or a committed segment (R261-R268): the SETUP as resolved here, the ports toward the head
and the tail, the connections (source, destination; LSRs or TREFs), the age at `at_`, the TAGs of commands posted and not
completed, and a failing STATUS. -/
structure PathRec where
  orig : Nat
  rno : Nat
  att : Nat
  thr : Bool
  conns : List (Nat × Nat)
  inPort : Option Nat
  outPort : Option Nat
  hidx : Nat
  age : Nat
  at_ : Word
  msg : List Byte
  committed : Bool := false
  posting : Bool := false
  tags : List Nat := []
  bad : Nat := 0
deriving DecidableEq, Repr

/-- A request that this device heads (R271, R272): its attempt's SETUP has left, or was lost, at bolt `sentAt`. -/
structure HeadReq where
  req : List Byte
  rno : Nat
  att : Nat := 0
  first : Word
  sent : Bool := false
  sentAt : Word
  waiting : Option Word := none
  done : Bool := false
deriving DecidableEq, Repr

/-- A TEARDOWN not yet acknowledged: sent `sends` times (1 to 8), queued (0), or queued after 8 sends until the link next comes up (9)
(R267, R272). -/
structure TdOut where
  port : Nat
  msg : List Byte
  sends : Nat
  at_ : Word
deriving DecidableEq, Repr

/-- Bamry (R247-R276). -/
structure Bamry where
  nbr : SMap Nbr := []
  recs : List PathRec := []
  heads : List HeadReq := []
  /-- IDs offered and not acknowledged, with the bolt of the offer -/
  offers : List (Nat × Word) := []
  tds : List TdOut := []
  /-- results held while the ring is full -/
  held : List (List Byte) := []
  rno : Nat := 0
  tag : Nat := 0
  helloAt : Word := 0
  hbAt : Option Word := none
  auditAt : Word := 0
  /-- messages received in the bolt, with their ports, in order of arrival (R249) -/
  rxq : List (Nat × List Byte) := []
  /-- messages queued: port, bolt, message -/
  txq : List (Nat × Word × List Byte) := []
  /-- ports toward head and tail of paths whose record was released (ORIG, RNO) -/
  routes : List (Nat × Nat × Option Nat × Option Nat) := []
  restart : Bool := false
deriving DecidableEq, Repr

/-- States of a weaver (R278). -/
inductive WvrSt where
  | off | idle | loading | run | drain | sleep | fault | halt
deriving DecidableEq, Repr

/-- A weaver (R277-R296): state, role and instance, epoch, inbox; the bolts DRAIN and SLEEP began, the inbox count then, the bolt of its last
heartbeat; the role and instance it is changing to, and whether a request asked for it; the guard's window and the writes accepted in it; its cluster comes
on; policy memory: HOLDOFF of a group when first raised, intervals a locked-out slot was qualified (R293). -/
structure Weaver where
  st : WvrSt := .off
  role : Nat := 0
  inst : Nat := 0
  epoch : Nat := 1
  inbox : List Nat := []
  drainAt : Word := 0
  sleepAt : Word := 0
  sleepN : Nat := 0
  hbAt : Word := 0
  next : Option (Nat × Nat) := none
  byReq : Bool := false
  powering : Bool := false
  win : Word := 0
  acts : Nat := 0
  polAt : Word := 0
  polMem : SMap Nat := []
  /-- what its policy has measured in the interval (R293): bolts, the sum or count of each lane, group or slot, the bolts in which it
  was in SYNC or qualified, the slots qualified at the last boundary -/
  polN : Nat := 0
  polSum : SMap Nat := []
  polOk : SMap Nat := []
  polSeen : List Nat := []
  /-- its clock ran in only a part of the present bolt -/
  mixed : Bool := false
  /-- it halted at the end of DRAIN and waits for a Foreman (R22, R285) -/
  halted : Bool := false
  /-- its 64 KiB of instruction memory and 64 KiB of data memory: the free values from this number on, once an image was loaded (R277,
  R285); an uncorrectable error stands in them (R286) -/
  imem : Option Nat := none
  dmem : Option Nat := none
  memBad : Bool := false
deriving DecidableEq, Repr

/-- A tenant HANDOFF in progress (R302): its request, the skein, the tenant before, the grants it wrote, the TAG of its RETAG, and
the completion's STATUS and CBOLT once the Foreman has read it. -/
structure Handoff where
  req : List Byte
  k : Nat
  oldTen : Nat
  grants : List Nat
  tag : Nat
  done : Option (Nat × Word) := none
deriving DecidableEq, Repr

/-- The tenant service (R299-R308). -/
structure Ten where
  ho : Option Handoff := none
  /-- changes whose event records are still to be written, oldest first, with their bolts -/
  chg : List (TenEvent × Word) := []
  heldRs : List (List Byte) := []
  heldEv : List (List Byte) := []
  hbAt : Option Word := none
deriving DecidableEq, Repr

/-- States of a Foreman (R316). -/
inductive FmSt where
  | off | boot | standby | active | held | fail
deriving DecidableEq, Repr

/-- A Foreman island (R309-R332, R486): its state, power, inbox, whether it was revoked since its last reset, failed boot attempts;
the tick it left reset, its boot ROM stopped for want of an image, the attempt already counted as failed; the tick from which it
stays in STANDBY with READY; ticks at which it is released, powered off; its pending lease writes; ticks of its last wire edge and
its last accepted renewal; an island fault to act on at the next tick; the SEQ of the checkpoint it restored. -/
structure Foreman where
  st : FmSt := .off
  powered : Bool := false
  inbox : List Nat := []
  revoked : Bool := false
  fails : Nat := 0
  bootAt : Word := 0
  stuck : Bool := false
  failed : Bool := false
  stdbyAt : Word := 0
  relAt : Option Word := none
  offAt : Option Word := none
  claim : Bool := false
  renew : Option Word := none
  rel : Option Word := none
  wireAt : Word := 0
  renewAt : Word := 0
  fault : Bool := false
  restored : Nat := 0
deriving DecidableEq, Repr

/-- A checkpoint copy (R321): SEQ, GEN and BOLT of its header, and its body: the role map, the ring positions, the commands in
progress (ring, slot), the management channel enables. -/
structure Ckpt where
  valid : Bool := false
  seq : Nat := 0
  gen : Word := 0
  bolt : Word := 0
  roles : List (Nat × Nat × Nat) := []
  heads : List Nat := []
  icq : Nat := 0
  fcq : Nat := 0
  inprog : List (Nat × Nat) := []
  mgmt : BitVec 8 := 0
deriving DecidableEq, Repr

/-- A handover in progress (R320): its mailbox command (ring, slot), none for a revertive return; the tick it began, or at which the standby was
told; its checkpoint is written and the standby told; FMN_LEASE_REL is written; it is over and only its reply is to be written. -/
structure Handover where
  cmd : Option (Nat × Nat) := none
  at_ : Word := 0
  told : Bool := false
  sent : Bool := false
  ended : Bool := false
deriving DecidableEq, Repr

/-- Coppice and both Foremen (R309-R332). -/
structure Fmn where
  /-- 0 none, 1 A, 2 B -/
  holder : Nat := 0
  gen : Word := 0
  remain : Nat := 0
  /-- lease ticks so far; the bolt of the last tick -/
  tick : Word := 0
  tickAt : Word := 0
  a : Foreman := {}
  b : Foreman := {}
  wireLost : Bool := false
  /-- revocation causes 3, 5 and 6 standing at the next tick -/
  causes : List Nat := []
  /-- a takeover in progress: the Foreman started (true B) and the tick it began -/
  take : Option (Bool × Word) := none
  ck0 : Ckpt := {}
  ck1 : Ckpt := {}
  ckFlash : Ckpt := {}
  ckAt : Word := 0
  flashAt : Word := 0
  shed : Nat := 0
  ho : Option Handover := none
  /-- the Foreman of the start-up is still to leave reset (R437 step 9); START_A or START_B was written since the cold reset (R430) -/
  startUp : Bool := false
  startSeen : Bool := false
  /-- roles of the start-up whose weavers are still being powered (R282, R437 step 12) -/
  rolesLeft : List (Nat × Nat × Nat) := []
  /-- the lease came to the holder by a transfer -/
  byTransfer : Bool := false
  /-- banks that the Foreman took back, with the role and instance that they follow (R281) -/
  roleBanks : List (Nat × Nat × Nat) := []
deriving DecidableEq, Repr

/-- A mailbox command in progress (R324-R326): ring, slot, its 64 bytes; replayed; posted to an engine; its completion. -/
structure MbxCmd where
  ring : Nat
  slot : Nat
  bytes : List Byte
  replay : Bool := false
  posted : Bool := false
  done : Option (List Byte) := none
deriving DecidableEq, Repr

/-- The mailbox and the Foreman's services (R324-R328, R413-R415). -/
structure Mbx where
  mem : List Host.Cell := []
  taken : List MbxCmd := []
  /-- events held while reply ring 0 is full -/
  held : List (List Byte) := []
  mgmtEn : BitVec 8 := 0
  stopTake : Bool := false
  /-- firmware slots: bytes written and the slot activated -/
  slot0 : List Host.Cell := []
  slot1 : List Host.Cell := []
  bootSlot : Nat := 0
  nextSlot : Option Nat := none
  /-- a replay is to be made; the TAGs of its FENCEs once posted -/
  replaying : Bool := false
  fences : Option (Nat × Nat) := none
  ownTag : Nat := 0x1000
  /-- next round-robin ring -/
  rr : Nat := 0
  /-- position of the mailbox reader in the internal rings -/
  icqPos : Nat := 0
  fcqPos : Nat := 0
deriving DecidableEq, Repr

/-- A march test in progress (R345-R350). -/
structure March where
  busy : Bool := false
  bank : Nat := 0
  all : Bool := false
  alg : Nat := 0
  preserve : Bool := false
  result : Nat := 0
  row : Nat := 0
  locked : Bool := false
  anyFail : Bool := false
deriving DecidableEq, Repr

/-- The scratch banks (R333-R352). -/
structure Banks where
  /-- 8 MiB of bytes by direct-window offset; Skid buffers at 0x60_0000 -/
  mem : List Host.Cell := []
  /-- uncorrectable and single-bit-error words, by offset / 8 -/
  unc : List Nat := []
  sbe : List Nat := []
  /-- BANK_OWN in force at the bank while a handover is pending -/
  owner : SMap Word := []
  march : March := {}
  fuseKey : Option Word := none
  fuseBusy : Option (Nat × Nat) := none
  /-- rows repaired by fuse (burnt), and softly -/
  fused : List (Nat × Nat) := []
  soft : List (Nat × Nat) := []
  scrubPos : Nat := 0
deriving DecidableEq, Repr

/-- State of a Skid buffer (R353). -/
inductive BufSt where
  | free | owned | posted | withdrawn
deriving DecidableEq, Repr

/-- The Skid pool (R353-R361). -/
structure Skid where
  own : SMap (BufSt × Nat) := []
  /-- buffers freed since the reset, tail last; buffers never yet allocated start at `fresh` -/
  freed : List Nat := []
  fresh : Nat := 0
deriving DecidableEq, Repr

/-- A Tally counter: 48 bits and OVF (R383). -/
structure Ctr where
  v : Nat := 0
  ovf : Bool := false
deriving DecidableEq, Repr

/-- A sample in flight or recorded (R392-R394). -/
structure Sampler where
  /-- LFSR of each port tile -/
  lfsr : SMap Nat := []
  tags : Nat := 0
deriving DecidableEq, Repr

/-- A PERF bin in progress (R391): its first bolt; per lane ES, SES, UAB, FEC_UNC, FEC_COR, BIP; per skein 160 n + k the bolts with
TRAIL_BAD, TRAIL_UNEV, AIS_B, FX_B; lost bolts; thread counters of the snapshot at its start. -/
structure PerfBin where
  start : Word := 0
  lanes : SMap (List Nat) := []
  sk : SMap (List Nat) := []
  lost : Nat := 0
  th0 : Option (SMap Nat) := none
deriving DecidableEq, Repr

/-- A PERF role's bins: 15 minutes and 24 hours, and the last bolt collected. -/
structure Perf where
  q : PerfBin := {}
  d : PerfBin := {}
  last : Option Word := none
deriving DecidableEq, Repr

/-- Tally (R380-R398). Counter keys: CLASS x 2^22 + INDEX x 16 + CTR. -/
structure Tally where
  live : SMap Ctr := []
  snap : SMap Ctr := []
  /-- increments of the bolt in progress, and of the bolt ended that awaits its fold -/
  inc : SMap Nat := []
  fold : SMap Nat := []
  foldDue : Bool := false
  /-- counters to clear at the next fold; a snapshot requested (NOW, AT), one due after the fold; a read in progress -/
  clr : List Nat := []
  snapNow : Bool := false
  snapAt : Bool := false
  snapDue : Option Word := none
  rd : Option Word := none
  smp : Sampler := {}
  /-- tenant table words written in the bolt, with their words at round 0 (R386) -/
  tenOld : List (Nat × Word) := []
  /-- of the bolt ended, for its records (R390): lane entries, skein nibbles, port FLAGS, ports not yet written -/
  recLane : SMap (List Byte) := []
  recSk : SMap Nat := []
  recPort : SMap Nat := []
  recBolt : Word := 0
  recLeft : List Nat := []
  perf : SMap Perf := []
deriving DecidableEq, Repr

/-- The PCIe endpoint and interrupts (R399-R416). -/
structure Pcie where
  linkUp : Bool := false
  gen : Nat := 0
  width : Nat := 0
  bme : Bool := false
  d3 : Bool := false
  msixEn : Bool := false
  fmask : Bool := false
  vmask : BitVec 64 := 0xFFFFFFFFFFFFFFFF
  pba : BitVec 64 := 0
  level : BitVec 64 := 0
  intN : Bool := false
  /-- writes to host memory that a held HOSTMEM keeps waiting, oldest first (R363, R455) -/
  hostQ : List (Nat × List Byte) := []
  dmaDir : BitVec 3 := 0
deriving DecidableEq, Repr

/-- Reset, power and start-up (R420-R442, R417). -/
structure Pwr where
  inRange : Bool := true
  tripped : Bool := false
  cdpOn : Bool := true
  straps : BitVec 16 := 0
  serial : BitVec 64 := 0
  /-- masters that wrote the reset key, with the bolt (R432) -/
  keys : List (Nat × Word) := []
  /-- a reset requested: kind, source, master; it starts now; the kind of the reset in progress -/
  req : Option (Nat × Nat × Mid) := none
  due : Bool := false
  inProg : Nat := 0
  /-- W of the last warm reset; the FINE_ASG restore of W + 2 is due -/
  warmAt : Option Word := none
  asgDue : Bool := false
  bootDone : Bool := false
  rolesDone : Bool := false
  /-- per sensor, consecutive bolts above 125 degree C -/
  hot : SMap Nat := []
  /-- measurements of SMBus command 0x11 -/
  vin : BitVec 16 := 0
  iin : BitVec 16 := 0
  pin : BitVec 16 := 0
  /-- domain requests in force (bits of PWR_DOM_CTRL), the master that wrote them last, the bolt in which a domain last
  started, 1 + the bolt in which a domain that is still starting began, PWR_DOM_STAT as last noted -/
  domOn : BitVec 18 := 0x00F00
  domBy : Mid := 0
  domAt : Option Word := none
  onAt : SMap Nat := []
  domSeen : Word := 0
  smbPtr : BitVec 26 := 0
deriving DecidableEq, Repr

/-- JTAG instructions (R448). -/
inductive JtagIr where
  | extest | idcode | sample | clamp | highz | dbgAcc | bypass
deriving DecidableEq, Repr

/-- The JTAG port (R448-R450). -/
structure Jtag where
  ir : JtagIr := .idcode
  boundary : BitVec 412 := 0
  frozen : Bool := false
  busy : Option (BitVec 64) := none
  status : Nat := 0
  data : Word := 0
deriving DecidableEq, Repr

/-- A trace record (R456). -/
structure TraceRec where
  w0 : Word
  w1 : Word
  d0 : Word
  d1 : Word
deriving DecidableEq, Repr

/-- An access that waits in front of a target whose input queue is held full (R453, R455). -/
structure ShedReq where
  m : Mid
  a : Nat
  size : Nat
  wr : Bool
  v : BitVec 64
  more : List (BitVec 64) := []
  clash : List Nat := []
  beats : Nat := 1
deriving DecidableEq, Repr

/-- What an engine writes once its target is no longer held (R371): a completion, a sample record, a checkpoint. -/
inductive Stalled where
  | done (fe : Bool) (d : Done)
  | sample (bytes : List Byte)
  | ckpt
deriving DecidableEq, Repr

/-- A command of the monitor, with its arguments (R444, R445). -/
inductive MonCmd where
  | line (t : List Byte)
  | help
  | ident
  | rd (a n : Nat)
  | wr (a v : Nat)
  | put (a mask v : Nat)
  | lane (p n : Nat)
  | skein (p n k : Nat)
  | hdl (map page port index : Nat)
  | cmd (fe : Bool) (ws : List Word)
  | prot (g : Nat)
  | beat
  | fmn
  | wvr (w : Nat)
  | tally (c i t : Nat) (shadow : Bool)
  | trace (v : Word)
  | dump (n : Nat)
  | reset (kind : Nat)
  | baud (code : Nat)
  | lock
deriving DecidableEq, Repr

/-- The monitor and the trace unit (R443-R447, R456-R459). -/
structure Test where
  n : Nat := 0
  /-- a tcmd (true) or fcmd (false) that waits for its completion: TAG and bolt -/
  wait : Option (Bool × BitVec 16 × Word) := none
  trace : List TraceRec := []
  running : Bool := false
  triggered : Bool := false
  stopped : Bool := false
  postLeft : Option Nat := none
  lost : Nat := 0
  /-- EN of TST_PERT_EN in force -/
  pert : Bool := false
  shedHook : List Word := [0, 0, 0, 0]
  /-- what a held target keeps waiting: accesses, oldest first, and a command of the monitor (R455) -/
  shedQ : List ShedReq := []
  /-- engines' writes that wait in front of held targets, oldest first -/
  waitQ : List Stalled := []
  mon : Option MonCmd := none
deriving DecidableEq, Repr

/-- The response of the last access (R366): data and status. -/
structure Resp where
  data : BitVec 64 := 0
  /-- of a burst read: the beats after the first (R365) -/
  more : List (BitVec 64) := []
  status : Status := .ok
  /-- the completion of a host read is marked poisoned (R402) -/
  poisoned : Bool := false
deriving DecidableEq, Repr

/-- The block's state. -/
structure State where
  /-- the commands that wait, oldest first -/
  pending : List Instr := []
  /-- every register word that differs from its reset value, by BAR0 address (BAR2 at 0x0400_0000) -/
  regs : SMap Word := []
  /-- receive lanes of awake tiles, 64 p + n -/
  lanes : SMap Lane := []
  /-- defect integrators: 16 x lane + defect; 0x1_0000 + 8 x skein + defect -/
  integ : SMap Integ := []
  skrx : SMap SkRx := []
  sktx : SMap SkTx := []
  ports : SMap PortSt := []
  loom : Loom := {}
  trd : Engine := {}
  fine : Fine := {}
  prot : Prot := {}
  blz : SMap BlzUnit := []
  beat : Beat := {}
  bmy : Bamry := {}
  wvr : SMap Weaver := []
  ten : Ten := {}
  fmn : Fmn := {}
  mbx : Mbx := {}
  bank : Banks := {}
  skid : Skid := {}
  tly : Tally := {}
  pcie : Pcie := {}
  pwr : Pwr := {}
  jtag : Jtag := {}
  tst : Test := {}
  /-- what was sent, oldest first; the last response; the free-value counter -/
  out : List Output := []
  resp : Resp := {}
  free : Nat := 0
deriving DecidableEq, Repr

/-- Why a step stops. -/
inductive Fault where
  /-- Raised by no meaning: a command whose operand is no thing the spec has changes nothing. Safe: the hardware never receives such a command. -/
  | badOperand
deriving DecidableEq, Repr

/-- Why a command has no meaning. -/
inductive Refusal where
  /-- A row not modelled: raised by its arm of `exec` alone. Safe. -/
  | notModelled (mnemonic : String)
deriving DecidableEq, Repr

/-- The state right after a cold reset with every strap low (R433, R475), steps 1 to 5 of R437 done: no register differs from its reset value,
every port tile sleeps, clusters 0-3 are to start (step 7), and so is Foreman A, which PREFER names (step 9; DESIGN CHOICE,
notes/assumptions/7.md). -/
def State.reset : State := { fmn := { startUp := true } }

end Sys2Proof.Machine
end

