-- ==== Sys2Proof/Machine/Ops.lean ====
section
/-! DEFINITION. The named operations over registers, maps, bytes and rings that every meaning is built from. -/
namespace Sys2Proof.Machine

/-- What a meaning answers. -/
abbrev Out := Host.Outcome State Fault Refusal

/-- The stored word of a register: its reset value where it is not listed. -/
def State.reg (s : State) (a : Nat) : Word := smGet (resetOf a) s.regs a

/-- Stores a word in a register. -/
def State.setReg (s : State) (a : Nat) (v : Word) : State := { s with regs := smPut (resetOf a) s.regs a v }

/-- A field of a register. -/
def State.rf (s : State) (a lo n : Nat) : Nat := fld (s.reg a) lo n

/-- A bit of a register. -/
def State.rb (s : State) (a i : Nat) : Bool := bit (s.reg a) i

/-- Sets a field of a register. -/
def State.setRf (s : State) (a lo n v : Nat) : State := s.setReg a (setFld (s.reg a) lo n v)

/-- Adds to a counter register, wrapping. -/
def State.incReg (s : State) (a : Nat) (k : Nat := 1) : State := s.setReg a (s.reg a + w32 k)

/-- Adds to a counter register, saturating at all ones. -/
def State.satReg (s : State) (a : Nat) (k : Nat) : State := s.setReg a (w32 (min 0xFFFFFFFF ((s.reg a).toNat + k)))

/-- The module bolt number, BEAT_BOLT (R16, R240). -/
def State.bolt (s : State) : Word := s.reg 0x20080

/-- Leaves by a land of the boundary register (R449): UART, SMBus, BOLT_OUT, PPS_OUT, CLKOUT, INT_N, off-module flash. -/
def State.covered (s : State) : Output → Bool
  | .uart _ => true
  | .uartWords _ => true
  | .intN _ => true
  | .pps _ _ => true
  | .boltOut _ => true
  | .clkout _ _ _ _ => true
  | .smbus _ => true
  | .nack => true
  | .flash _ _ => bit s.pwr.straps 5
  | _ => false

/-- A target of R363 whose input queue is held full throughout (R453). -/
def State.tgtHeld (s : State) (t : Nat) : Bool :=
  let h := s.tst.shedHook.getD 0 0
  s.tst.pert && decide (fld h 0 6 = t ∧ fld h 8 12 ≠ 0 ∧ fld h 20 12 ≤ fld h 8 12)

/-- Something leaves the block; covered outputs do not follow the core under EXTEST, CLAMP and HIGHZ (R449). -/
def State.emit (s : State) (o : Output) : State := if s.jtag.frozen && s.covered o then s else { s with out := s.out ++ [o] }

/-- Sends outputs that no boundary-scan land covers. -/
def State.send (s : State) (l : List Output) : State := { s with out := s.out ++ l }

/-- A fresh free value, and the state with the counter advanced (DESIGN CHOICE, notes/assumptions/6.md). -/
def State.freeVal (s : State) : Word × State := (Config.freeWord s.free, { s with free := s.free + 1 })

/-- Records an ignored or refused write in a page's ERRLOG in the layout of R405. -/
def State.errlog (s : State) (page off : Nat) (m : Mid) : State :=
  s.setReg (page + 0x20) (w32 (0x80000000 + m.toNat * 0x1000 + off % 0x1000))

/-- Gives a list of state changes in order. -/
def seqAll {α : Type} (f : α → State → State) : List α → State → State
  | [], s => s
  | x :: t, s => seqAll f t (f x s)

/-- Applies a change where a condition holds. -/
def State.when (s : State) (c : Bool) (f : State → State) : State := if c then f s else s

/-! ### Page addresses (R403) -/

/-- LN page of lane `l` = 64 p + n. -/
def lnA (l o : Nat) : Nat := 0x400000 + l / 64 * 0x80000 + 0x10000 + l % 64 * 0x1000 + o
def ilsA (p o : Nat) : Nat := 0x400000 + p * 0x80000 + 0x50000 + o
def elsA (p o : Nat) : Nat := 0x400000 + p * 0x80000 + 0x60000 + o
def trdA (o : Nat) : Nat := 0x810000 + o
def fineA (o : Nat) : Nat := 0x900000 + o
def protA (o : Nat) : Nat := 0xA00000 + o
def recA (g o : Nat) : Nat := 0xA10000 + 32 * g + o
def apsA (g o : Nat) : Nat := 0xA50000 + 16 * g + o
def memA (t o : Nat) : Nat := 0xA70000 + 128 * t + o
def beatA (o : Nat) : Nat := 0x20000 + o
def fmnA (o : Nat) : Nat := 0x30000 + o
def shedA (o : Nat) : Nat := 0x40000 + o
def tlyA (o : Nat) : Nat := 0x50000 + o
def tstA (o : Nat) : Nat := 0x60000 + o
def mbxA (o : Nat) : Nat := 0x70000 + o
def mbxR (r o : Nat) : Nat := 0x70100 + 0x40 * r + o
def blzU (u o : Nat) : Nat := 0x81000 + 0x100 * u + o
def pwrA (o : Nat) : Nat := 0x10000 + o
def tenA (o : Nat) : Nat := 0xB00000 + o
def bmyA (o : Nat) : Nat := 0xB80000 + o
def wvrA (w o : Nat) : Nat := 0xC00000 + 0x1000 * w + o
def bankA (o : Nat) : Nat := 0xD00000 + o
def skidA (o : Nat) : Nat := 0xD80000 + o
def dmaA (c o : Nat) : Nat := 0x4040100 + 0x20 * c + o
/-- The home of SHED_PRIOWi of target `t` (R378). -/
def prioA (t i : Nat) : Nat := 0x8000000 + 0x20 * t + 4 * i

/-! ### Keyed blocks -/

def State.lane (s : State) (l : Nat) : Lane := smGet {} s.lanes l
def State.modLane (s : State) (l : Nat) (f : Lane → Lane) : State := { s with lanes := smMod {} s.lanes l f }
def State.port (s : State) (p : Nat) : PortSt := smGet {} s.ports p
def State.modPort (s : State) (p : Nat) (f : PortSt → PortSt) : State := { s with ports := smMod {} s.ports p f }
def State.rx (s : State) (k : Nat) : SkRx := smGet {} s.skrx k
def State.modRx (s : State) (k : Nat) (f : SkRx → SkRx) : State := { s with skrx := smMod {} s.skrx k f }
def State.tx (s : State) (k : Nat) : SkTx := smGet {} s.sktx k
def State.modTx (s : State) (k : Nat) (f : SkTx → SkTx) : State := { s with sktx := smMod {} s.sktx k f }
def State.integ1 (s : State) (k : Nat) : Integ := smGet {} s.integ k
def State.modInteg (s : State) (k : Nat) (f : Integ → Integ) : State := { s with integ := smMod {} s.integ k f }
def State.grp (s : State) (g : Nat) : Grp := smGet {} s.prot.grp g
def State.modGrp (s : State) (g : Nat) (f : Grp → Grp) : State :=
  { s with prot := { s.prot with grp := smMod {} s.prot.grp g f } }
def State.unit (s : State) (u : Nat) : BlzUnit := smGet {} s.blz u
def State.modUnit (s : State) (u : Nat) (f : BlzUnit → BlzUnit) : State := { s with blz := smMod {} s.blz u f }
def State.cand (s : State) (c : Nat) : Cand := smGet {} s.beat.cand c
def State.modCand (s : State) (c : Nat) (f : Cand → Cand) : State :=
  { s with beat := { s.beat with cand := smMod {} s.beat.cand c f } }
def State.nbr (s : State) (p : Nat) : Nbr := smGet {} s.bmy.nbr p
def State.modNbr (s : State) (p : Nat) (f : Nbr → Nbr) : State :=
  { s with bmy := { s.bmy with nbr := smMod {} s.bmy.nbr p f } }
def State.weaver (s : State) (w : Nat) : Weaver := smGet {} s.wvr w
def State.modWeaver (s : State) (w : Nat) (f : Weaver → Weaver) : State := { s with wvr := smMod {} s.wvr w f }
def State.modTrd (s : State) (f : Engine → Engine) : State := { s with trd := f s.trd }
def State.modFe (s : State) (f : Engine → Engine) : State := { s with fine := { s.fine with eng := f s.fine.eng } }
def State.modLoom (s : State) (f : Loom → Loom) : State := { s with loom := f s.loom }
def State.modFine (s : State) (f : Fine → Fine) : State := { s with fine := f s.fine }
def State.modProt (s : State) (f : Prot → Prot) : State := { s with prot := f s.prot }
def State.modBeat (s : State) (f : Beat → Beat) : State := { s with beat := f s.beat }
def State.modBmy (s : State) (f : Bamry → Bamry) : State := { s with bmy := f s.bmy }
def State.modTen (s : State) (f : Ten → Ten) : State := { s with ten := f s.ten }
def State.modFmn (s : State) (f : Fmn → Fmn) : State := { s with fmn := f s.fmn }
def State.modMbx (s : State) (f : Mbx → Mbx) : State := { s with mbx := f s.mbx }
def State.modBank (s : State) (f : Banks → Banks) : State := { s with bank := f s.bank }
def State.modSkid (s : State) (f : Skid → Skid) : State := { s with skid := f s.skid }
def State.modTly (s : State) (f : Tally → Tally) : State := { s with tly := f s.tly }
def State.modPcie (s : State) (f : Pcie → Pcie) : State := { s with pcie := f s.pcie }
def State.modPwr (s : State) (f : Pwr → Pwr) : State := { s with pwr := f s.pwr }
def State.modJtag (s : State) (f : Jtag → Jtag) : State := { s with jtag := f s.jtag }
def State.modTst (s : State) (f : Test → Test) : State := { s with tst := f s.tst }

/-- The weaver that serves a role and instance: in RUN or SLEEP (R278, R279). -/
def State.holder (s : State) (role inst : Nat) : Option Nat :=
  (s.wvr.find? (fun e => decide ((e.2.st = .run ∨ e.2.st = .sleep) ∧ e.2.role = role ∧ e.2.inst = inst))).map (·.1)

/-- The tenant service notes a change that it is to report: once while it is still to be written, where `once` (R301; DESIGN CHOICE,
notes/assumptions/27.md). -/
def State.noteTen (s : State) (e : TenEvent) (once : Bool) : State :=
  if s.rb 0xB00040 0 && (s.holder 4 0).isSome && !(once && s.ten.chg.any (fun c => decide (c.1 = e))) then
    s.modTen (fun t => { t with chg := t.chg ++ [(e, s.bolt)] })
  else s

/-! ### Bytes of the banks and of ring memory (R333, R413) -/

/-- The canonical form of a byte memory: addresses strictly rising, no zero byte listed. -/
def Memory.wf (m : List Host.Cell) : Bool := smWf (fun _ => (0 : Byte)) m

/-- One byte; an address not listed reads 0 (R347, R352). -/
def Memory.read (m : List Host.Cell) (a : Nat) : Byte := smGet 0 m a

/-- Writes one byte. -/
def Memory.write (m : List Host.Cell) (a : Nat) (b : Byte) : List Host.Cell := smPut 0 m a b

/-- `n` bytes from `a`. -/
def Memory.readN (m : List Host.Cell) (a n : Nat) : List Byte := (span a n).map (Memory.read m)

/-- Writes bytes from `a` up. -/
def Memory.writeN : List Host.Cell → Nat → List Byte → List Host.Cell
  | m, _, [] => m
  | m, a, b :: t => Memory.writeN (Memory.write m a b) (a + 1) t

/-- A byte of the banks, by direct-window offset. -/
def State.byteAt (s : State) (a : Nat) : Byte := Memory.read s.bank.mem a

/-- `n` bytes of the banks. -/
def State.bytes (s : State) (a n : Nat) : List Byte := Memory.readN s.bank.mem a n

/-- Puts bytes into the banks with fresh check bits: each 64-bit word touched becomes good (R343). -/
def State.putBytes (s : State) (a : Nat) (bs : List Byte) : State :=
  let hit := fun (w : Nat) => a / 8 ≤ w ∧ w * 8 < a + bs.length
  { s with bank := { s.bank with mem := Memory.writeN s.bank.mem a bs
                                 unc := s.bank.unc.filter (fun w => !decide (hit w))
                                 sbe := s.bank.sbe.filter (fun w => !decide (hit w)) } }

/-! ### Sources of skeins -/

/-- Lane `64 p + n` and skein of the ingress or egress skein number `160 l + k`. -/
def laneOf (k : Nat) : Nat := k / 160

/-- The 35-bit address of this device's skein `k` = 160 l + i (R10): device, port, lane, skein. -/
def skeinAddr (dev k : Nat) : Nat := dev * 2 ^ 17 + (k / 160 / 64) * 2 ^ 14 + (k / 160 % 64) * 2 ^ 8 + k % 160

/-- The device ID in force, BMY_DEVID (R255). -/
def State.devId (s : State) : Nat := s.rf (bmyA 0x44) 0 18

/-- The unit serial number (R406). -/
def State.serialNo (s : State) : Nat := s.pwr.serial.toNat

/-- A weaver cluster has power (R304). -/
def State.clusterOn (s : State) (c : Nat) : Bool := decide ((s.weaver (8 * c)).st ≠ .off) || (s.weaver (8 * c)).powering

/-- The port tile is awake (R424). -/
def State.awake (s : State) (p : Nat) : Bool := (s.port p).awake

/-- The port can be reached over the Shed and carries picks: awake, its link up (R20, R374). -/
def State.reach (s : State) (p : Nat) : Bool := (s.port p).awake && (s.port p).linkUp

/-- The host link can carry requests (R400). -/
def State.canIssue (s : State) : Bool := s.pcie.linkUp && s.pcie.bme && !s.pcie.d3

end Sys2Proof.Machine
end

