-- ==== Sys2Proof/Machine/Flags.lean ====
section
/-! DEFINITION. Words that registers compute (R189, R213); the interrupt tree (R405, R408-R411), what INT_N shows, and writes to host
memory (R400, R412). -/
namespace Sys2Proof.Machine

/-! ### Register words that show computed state: PROT_GALIGN, BEAT_DCO -/

/-- A difference of rounds where SEQ and the bolt number wrap at 2^32 (R170). -/
def wrapRounds (x : Int) : Int := (x + 625 * 2 ^ 31) % (625 * 2 ^ 32) - 625 * 2 ^ 31

/-- Where the present origin bolt starts on a leg (R170). -/
def Grp.base (q : Grp) (protect : Bool) : Int := if protect then q.mp.base else q.mw.base
/-- Delay d of a leg (R173, R189). -/
def Grp.delay (q : Grp) (protect : Bool) : Int := wrapRounds (q.tout - q.base protect)
/-- What a leg's headers showed. -/
def Grp.meas (q : Grp) (protect : Bool) : LegMeas := if protect then q.mp else q.mw

/-- The Selvage store holds or takes picks of the store leg: not in ACQ, in SINGLE only to fill it, and in UNPROT only where a leg was stored
before (R172, R177). -/
def Grp.storing (q : Grp) : Bool := q.stored && q.align != .acq

/-- PROT_GALIGN (R189): DELTA is 0 where no leg is stored. -/
def State.galign (s : State) (g : Nat) : Word :=
  let q := s.grp g
  let d := if q.ty = 4 ∧ q.storing then min 32767 (q.delay q.lead).toNat else 0
  w32 (s.rf (recA g 0x1C) 0 13 + d * 2 ^ 15 + q.fill.toNat * 2 ^ 30)

/-- The DCO value in force, with what a slewing align adds (R212, R235). -/
def State.dcoNow (s : State) : Int :=
  let b := s.beat
  let x : Int := if b.alBusy ∧ ¬ b.alTgt ∧ b.alLeft ≠ 0 then -(10000 * (atLeast1 (s.rf (beatA 0x90) 8 8) : Nat) : Int) * b.alLeft.sign else 0
  max (-500000000) (min 500000000 (b.dco + x))

/-! ### Interrupts -/

/-- The source that a page's IRQ_OUT belongs to; of MBX, bits [31:4] (R408). -/
def srcOf : Blk → Nat → Option Nat
  | .glb, _ => some 0 | .pwr, _ => some 1 | .beat, _ => some 2 | .fmn, _ => some 3 | .shed, _ => some 4
  | .tly, _ => some 5 | .tst, _ => some 6 | .mbx, _ => some 7 | .blz, _ => some 8 | .loom, _ => some 9
  | .hdl, _ => some 9 | .trd, _ => some 10 | .fine, _ => some 11 | .prot, _ => some 12 | .selv, _ => some 13
  | .ten, _ => some 14 | .bmy, _ => some 15 | .bank, _ => some 16 | .skid, _ => some 17 | .dma, _ => some 18
  | .prt, p => some (32 + p) | .ils, p => some (32 + p) | .els, p => some (32 + p)
  | .ln, l => some (32 + l / 64) | .wvr, w => some (40 + w / 8)
  | .girq, _ => none | .gvec, _ => none | .blzUnit, _ => none | .fineAsg, _ => none | .fineTen, _ => none
  | .protRec, _ => none | .protAps, _ => none | .protMem, _ => none | .grant, _ => none | .tenTab, _ => none

/-- IRQ_OUT of the page at `p`: IRQ_RAW and IRQ_EN (R404). -/
def State.irqOut (s : State) (p : Nat) : Word := s.reg (p + 0x10) &&& s.reg (p + 0x14)

/-- The 64 sources that an IRQ_RAW register at address `a` makes pending (R408). -/
def srcBits (s : State) (a : Nat) : BitVec 64 :=
  match locate a with
  | some (b, inst, o) =>
    if o = 0x10 then
      let out := s.irqOut (a - 0x10)
      match b with
      | .mbx => BitVec.ofNat 64 ((if (out >>> 4) = 0 then 0 else 2 ^ 7) + (fld out 0 4) * 2 ^ 48)
      | _ => match srcOf b inst with
        | some k => if out = 0 then 0 else BitVec.ofNat 64 (2 ^ k)
        | none => 0
    else 0
  | none => 0

/-- The pending sources. Only a listed IRQ_RAW register can be nonzero. -/
def State.sources (s : State) : BitVec 64 :=
  s.regs.foldl (fun acc e => if e.1 % 0x1000 = 0x10 then acc ||| srcBits s e.1 else acc) 0

/-- The vector levels that pending sources give (R411). -/
def State.vecLevels (s : State) (src : BitVec 64) : BitVec 64 :=
  (List.range 64).foldl (fun acc k =>
    if bit src k then
      (let m := s.reg (0x2100 + 4 * k)
       if bit m 8 then acc ||| BitVec.ofNat 64 (2 ^ fld m 0 6) else acc)
    else acc) 0

/-- A message of vector `v` may go out now (R411). -/
def State.canMsix (s : State) (v : Nat) : Bool :=
  s.canIssue && s.pcie.msixEn && !s.pcie.fmask && !bit s.pcie.vmask v

/-- A message of vector `v` falls due: sent, or its PBA bit is set (R411). -/
def State.raiseVec (s : State) (v : Nat) : State :=
  if s.canMsix v then s.emit (.msix v) else s.modPcie (fun c => { c with pba := setBit c.pba v true })

/-- Sends the message of each vector whose PBA bit is set and that may go out (R411). -/
def State.drainPba (s : State) : State :=
  seqAll (fun v s =>
    if bit s.pcie.pba v && s.canMsix v then
      (s.emit (.msix v)).modPcie (fun c => { c with pba := setBit c.pba v false })
    else s) (List.range 64) s

/-- INT_N is asserted (R411): an enabled source, CDP_FAULT, or FMN_IRQ_RAW.REVOKE or TAKE_FAIL. -/
def State.intNow (s : State) (src : BitVec 64) : Bool :=
  decide (src &&& ((s.reg 0x2054).setWidth 64 <<< 32 ||| (s.reg 0x2050).setWidth 64) ≠ 0)
    || s.rb 0x8 0 || s.rb 0x30010 0 || s.rb 0x30010 5

/-- Lets the tree settle: new vector levels, the messages of those that rise, INT_N. It has no power in a thermal trip (R429). -/
def State.settle (s : State) : State :=
  if ¬ s.pwr.cdpOn then s else
  let src := s.sources
  let lvl := s.vecLevels src
  let rise := lvl &&& ~~~s.pcie.level
  let s1 := s.modPcie (fun c => { c with level := lvl })
  let s2 := seqAll (fun v s => if bit rise v then s.raiseVec v else s) (List.range 64) s1
  let i := s.intNow src
  if i = s2.pcie.intN then s2 else (s2.modPcie (fun c => { c with intN := i })).emit (.intN i)

/-- An event sets bits of the IRQ_RAW register of the page at `p` (R405). -/
def State.irq (s : State) (p bits : Nat) : State :=
  (s.setReg (p + 0x10) (s.reg (p + 0x10) ||| w32 bits)).settle

/-- A write to host memory: sent, or discarded and counted (R400). -/
def State.hostWrite (s : State) (addr : Nat) (bs : List Byte) : State :=
  if s.canIssue then
    (if s.tgtHeld 59 || !s.pcie.hostQ.isEmpty then s.modPcie (fun p => { p with hostQ := p.hostQ ++ [(addr, bs)] })
     else s.emit (.hostWrite addr bs))
  else (s.incReg 0x54).irq 0 2

/-! ### Rings (R485) -/

/-- A ring of 2^sz entries with this TAIL and HEAD is full. -/
def ringFull (sz tail head : Nat) : Bool := decide ((tail + 1) % 2 ^ sz = head % 2 ^ sz)

/-- A ring is empty when HEAD equals TAIL. -/
def ringEmpty (sz tail head : Nat) : Bool := decide (tail % 2 ^ sz = head % 2 ^ sz)

/-- The next pointer of a ring. -/
def ringNext (sz p : Nat) : Nat := (p + 1) % 2 ^ sz

/-- A size field with the values outside a range acting as 6. -/
def ringSize (lo hi v : Nat) : Nat := if lo ≤ v ∧ v ≤ hi then v else 6

end Sys2Proof.Machine
end

