-- ==== Sys2Proof/Machine/Shed.lean ====
section
/-! DEFINITION. The Shed's front end (R362-R374): which target an address names, which master reaches it, the fence, decode
errors, and the answer a master gets. -/
namespace Sys2Proof.Machine

/-- Targets of R363. -/
inductive Target where
  | regc | regp (p : Nat) | blz | bank (b : Nat) | skid | hostmem
deriving DecidableEq, Repr

/-- Windows of the scratch banks (R333, R334). -/
inductive Window where
  | direct | set | clear | buffer
deriving DecidableEq, Repr

/-- The window and direct-window offset of an address; Skid buffers at offset 0x60_0000 up (R334). -/
def windowOf (a : Nat) : Option (Window × Nat) :=
  if 0x1000000 ≤ a ∧ a < 0x1800000 then some (.direct, a - 0x1000000)
  else if 0x1800000 ≤ a ∧ a < 0x1A00000 then some (.buffer, a - 0x1800000 + 0x600000)
  else if 0x2000000 ≤ a ∧ a < 0x2800000 then some (.set, a - 0x2000000)
  else if 0x3000000 ≤ a ∧ a < 0x3800000 then some (.clear, a - 0x3000000)
  else none

/-- The target that an address decodes to (R363); outside BAR0 lies host memory. -/
def targetOf (a : Nat) : Option Target :=
  if 0x4000000 ≤ a then some .hostmem
  else if a < 0x80000 then some .regc
  else if a < 0x85800 then some .blz
  else if 0x400000 ≤ a ∧ a < 0x800000 then some (.regp ((a - 0x400000) / 0x80000))
  else if 0x800000 ≤ a ∧ a < 0x1000000 then some .regc
  else match windowOf a with
    | some (.buffer, _) => some .skid
    | some (_, o) => if o < 0x600000 then some (.bank (o / 0x20000)) else some .skid
    | none => none

/-- The number of a target (R363). -/
def Target.no : Target → Nat
  | .regc => 0 | .regp p => 1 + p | .blz => 9 | .bank b => 10 + b | .skid => 58 | .hostmem => 59

/-- A target of registers. -/
def Target.isReg : Target → Bool
  | .regc => true | .regp _ => true | .blz => true | _ => false

/-- Transactions that a port may have outstanding (R362). -/
def portLimit (m : Nat) : Nat := if m < 64 then 8 else if m < 66 then 16 else if m = 66 then 32 else if m < 69 then 1 else if m < 71 then 16 else 8

/-- The ID that a port presents: its own number, but the owner's for the port of a shared Blaze unit (R362). -/
def State.idOf (s : State) (m : Mid) : Mid := if 72 ≤ m.toNat ∧ m.toNat ≤ 79 then (s.unit (m.toNat - 8)).owner else m

/-- Requests of port `m` to a target wait: it is held full, earlier ones of the port to it wait, or as many as the port may have outstanding do
(R362, R367, R371, R455). -/
def State.shedWaits (s : State) (m : Mid) (t : Target) : Bool :=
  s.tgtHeld t.no || s.tst.shedQ.any (fun e => decide (e.m = m ∧ targetOf e.a = some t))
    || decide (portLimit m.toNat ≤ (s.tst.shedQ.filter (fun e => decide (e.m = m))).length)

/-- An access of port `m` to the `n` bytes at `off` of the direct window would wait. -/
def State.winWaits (s : State) (m : Mid) (off n : Nat) : Bool :=
  [off, off + n - 1].any (fun o => match targetOf (0x1000000 + o) with | some t => s.shedWaits m t | none => false)

/-- A write to host memory would wait on the link's side of the Shed. -/
def State.hostWaits (s : State) : Bool := s.canIssue && (s.tgtHeld 59 || !s.pcie.hostQ.isEmpty)

/-- Nothing that port `w` of a weaver issued is outstanding, and its local Blaze unit does not run (R362, R375). -/
def State.portIdle (s : State) (w : Nat) : Bool := !s.tst.shedQ.any (fun e => decide (e.m.toNat = w)) && !(s.unit w).busy

/-- A reset of a Foreman's island abandons what its port has outstanding (R373). -/
def State.abandon (s : State) (b : Bool) : State :=
  s.modTst (fun t => { t with shedQ := t.shedQ.filter (fun e => !decide (e.m.toNat = if b then 65 else 64)) })

/-- The connection table of R364. -/
def connected (m : Nat) (t : Target) : Bool :=
  match t with
  | .hostmem => decide (m = 64 ∨ m = 65 ∨ m = 69 ∨ m = 70)
  | .regc => decide (m ≤ 71)
  | .regp _ => decide (m ≤ 68)
  | .bank _ => decide (m ≤ 79 ∧ m ≠ 67)
  | _ => decide (m ≤ 68 ∧ m ≠ 67)

/-- The master ID of the Foreman that holds the lease, if one does (R310, R362). -/
def State.holderId (s : State) : Option Nat :=
  if s.fmn.holder = 1 then some 64 else if s.fmn.holder = 2 then some 65 else none

/-- No Foreman holds the lease (R314). -/
def State.headless (s : State) : Bool := decide (s.fmn.holder = 0)

/-- "Host software" in a binding statement (spec/00): PCIe, or the SMBus target. The Twiuri monitor's accesses carry the
holder's ID and are taken with it. -/
def isHost (m : Mid) : Bool := m == 66 || m == 67

/-- Host software or the lease holder. -/
def State.hostOrHolder (s : State) (m : Mid) : Bool := isHost m || decide (s.holderId = some m.toNat)

/-- A write of a fenced Foreman that R313 drops. -/
def State.fenced (s : State) (m : Mid) (a : Nat) : Bool :=
  (m == 64 && decide (s.holderId ≠ some 64) && !decide (a = fmnA 0x50 ∨ a = fmnA 0xA0))
  || (m == 65 && decide (s.holderId ≠ some 65) && !decide (a = fmnA 0x50 ∨ a = fmnA 0xA4))

/-- What the front end does with an access. -/
inductive Gate where
  /-- it reaches its target -/
  | go
  /-- a fenced write, dropped with status OK (R373) -/
  | drop
  /-- host access in the window of a warm reset, or any with the CDP domain off: zero, discarded, not recorded (R434, R429) -/
  | quiet
  /-- a decode error (R366) -/
  | err (k : DecKind)
  /-- it waits in front of a target that is held full (R455) -/
  | wait
deriving DecidableEq, Repr

/-- The window of R434: bolts W and W + 1 of a warm reset. -/
def State.inWarmWindow (s : State) : Bool :=
  match s.pwr.warmAt with
  | some w => decide (since s.bolt w ≤ 1)
  | none => false

/-- Host pages that the window of R434 leaves open. -/
def warmOpen (a : Nat) : Bool := decide (a < 0x3000 ∨ (0x70000 ≤ a ∧ a < 0x71000))

/-- The checks of one access: fence, target, connection, size, tile, page, hold (R313, R363-R366, R374, R403, R455). -/
def State.gate (s : State) (m : Mid) (a size : Nat) (wr : Bool) : Gate :=
  if ¬ s.pwr.cdpOn then .quiet
  else if wr && s.fenced m a then .drop
  else if m = 66 ∧ s.inWarmWindow ∧ ¬ warmOpen a then .quiet
  else match targetOf a with
    | none => .err (if m = 67 then .nopath else .unmapped)
    | some t =>
      if ¬ connected m.toNat t then .err .nopath
      else
        if ¬ (size = 1 ∨ size = 2 ∨ size = 4 ∨ size = 8) ∨ a % size ≠ 0 then .err .size
        else if t.isReg ∧ wr ∧ size < 4 then .err .size
        else
          let pass := if s.shedWaits m t then Gate.wait else .go
          match t with
          | .regp p => if ¬ s.reach p then .err .asleep else if (locate (a - a % 4)).isNone then .err .unmapped else pass
          | .regc => if (locate (a - a % 4)).isNone then .err .unmapped else pass
          | _ => pass

/-- KIND of SHED_DECERR_SRC (R377). -/
def decCode : DecKind → Nat
  | .unmapped => 0 | .nopath => 1 | .size => 2 | .asleep => 3 | .link => 4

/-- The answer of an access. -/
def State.answer (s : State) (d : BitVec 64) (st : Status := .ok) (p : Bool := false) : State :=
  { s with resp := { data := d, status := st, poisoned := p } }

/-- Records a decode error (R366, R376, R377): port `port`, presenting ID `id`. -/
def State.decErr (s : State) (port id : Nat) (a : Nat) (wr : Bool) (k : DecKind) : State :=
  (((s.incReg (shedA 0x4C)).setReg (shedA 0x44) (w32 (a % 2 ^ 26 + wr.toNat * 2 ^ 26))).setReg (shedA 0x48)
    (w32 (port + id * 2 ^ 8 + decCode k * 2 ^ 16))).irq (shedA 0) 1

/-- Records a dropped write of a fenced Foreman (R313): FMN_FENCE_CNT, FMN_FENCE_LAST, the FENCE cause. -/
def State.fenceDrop (s : State) (m : Mid) (a : Nat) : State :=
  ((s.incReg (fmnA 0x6C)).setReg (fmnA 0x70) (w32 (a % 2 ^ 26 + (if m = 65 then 2 ^ 26 else 0)))).irq (fmnA 0) 0x40

/-- A decode error of port `m`, answered. -/
def State.decAns (s : State) (m : Mid) (a : Nat) (wr : Bool) (k : DecKind) : State := (s.decErr m.toNat (s.idOf m).toNat a wr k).answer 0 .dec

/-- An access joins those that wait. -/
def State.queue (s : State) (e : ShedReq) : State := s.modTst (fun t => { t with shedQ := t.shedQ ++ [e] })

/-- An access that does not reach its target is answered, or waits. -/
def State.refuse (s : State) (m : Mid) (a size : Nat) (wr : Bool) (v : BitVec 64) (clash : Bool) : Gate → State
  | .go => s
  | .drop => (s.fenceDrop m a).answer 0
  | .quiet => s.answer 0
  | .err k => s.decAns m a wr k
  | .wait => s.queue { m := m, a := a, size := size, wr := wr, v := v, clash := if clash then [0] else [] }

/-- Performs an access where the front end lets it through; `v` is what it writes, `clash` whether the owner writes its word in the same bank
cycle. -/
def State.access (s : State) (m : Mid) (a size : Nat) (wr : Bool) (f : State → State) (v : BitVec 64 := 0) (clash : Bool := false) : State :=
  match s.gate m a size wr with
  | .go => f s
  | g => s.refuse m a size wr v clash g

/-- A burst of `n` beats is well formed (R365): 2-64 of them, from an 8-byte boundary, none in another target than the first. -/
def burstOk (a n : Nat) : Bool :=
  decide (2 ≤ n ∧ n ≤ 64 ∧ a % 8 = 0) && (List.range n).all (fun i => decide (targetOf (a + 8 * i) = targetOf a))

/-- A beat answered after beats whose status so far is `st`: the first status that is not OK stays (R366). -/
def State.beatStatus (s : State) (st : Status) : State :=
  if st = .ok then s else { s with resp := { s.resp with status := st } }

/-- A beat read after those that `r` answers: its data follow theirs (R365). -/
def State.moreData (s : State) (r : Resp) : State :=
  { s with resp := { s.resp with data := r.data, more := r.more ++ [s.resp.data] } }

/-- A burst as `q` tells of it, beat `i` of which does `f i`. One that is not well formed is a decode error as a whole, and one to a held target
waits as a whole; to registers each beat is an access of its own, to any other target one access. The beats are taken in address order, and the
status is that of the first that fails (R365, R366). -/
def State.burst (s : State) (q : ShedReq) (f : Nat → State → State) : State :=
  if burstOk q.a q.beats then
    match s.gate q.m q.a 8 q.wr with
    | .wait => s.queue q
    | g =>
      if g = .go ∨ (targetOf q.a).any Target.isReg then
        seqAll (fun i s => (f i s).beatStatus s.resp.status) (List.range q.beats) (s.answer 0)
      else s.refuse q.m q.a 8 q.wr 0 false g
  else s.decAns q.m q.a q.wr .size

/-- The answer to a read; a host read with ERR is counted and recorded, and its completion poisoned where POISON_EN says so (R402). -/
def State.answerRead (s : State) (m : Mid) (a : Nat) (d : BitVec 64) (st : Status) : State :=
  if st = .err ∧ m = 66 then
    (((s.incReg 0x50).setReg 0x4C (w32 (a % 2 ^ 26))).irq 0 1).answer d .err (s.rb 0x48 0)
  else s.answer d st

/-! ### The guard of the head weavers (R295, R296) -/

/-- The skein that LN_SKN_SEL of a lane selects; 160-255 select nothing (R60). -/
def State.sknSel (s : State) (l : Nat) : Option Nat :=
  let k := s.rf (lnA l 0xC0) 0 8
  if k < 160 then some (160 * l + k) else none

/-- The receive side of the selected skein; all zero where none is selected. -/
def State.sknRx (s : State) (l : Nat) : SkRx := match s.sknSel l with | some k => s.rx k | none => {}

/-- A bank is marked BAD (R352). -/
def State.bankBad (s : State) (b : Nat) : Bool := s.rb (bankA (if b < 32 then 0x74 else 0x78)) (b % 32)

/-- BANK_OWNb as it reads: a bank of B0 to B47 that is BAD has KIND 5 (R335); the KIND of B48 up is fixed. -/
def State.ownShown (s : State) (b : Nat) : Word :=
  let r := s.reg (bankA (0x100 + 4 * b))
  if b < 48 ∧ s.bankBad b then setFld r 8 3 5 else r

/-- What a read of a register word that a write can change gives: the stored word, or the state the register stands for. -/
def State.curWord (s : State) (a : Nat) : Word :=
  match locate a with
  | some (.beat, _, 0x68) => w32 (unsigned 40 s.dcoNow % 2 ^ 32)
  | some (.beat, _, 0x6C) => s.beat.hiLatch.setWidth 32
  | some (.protRec, g, 0x1C) => s.galign g
  | some (.ln, l, 0xC4) => (s.sknRx l).exp.setWidth 32
  | some (.ln, l, 0xC8) => w32 ((s.sknRx l).exp.toNat / 2 ^ 32 + 8 * (s.sknRx l).expEn.toNat)
  | some (.bank, _, o) => if 0x100 ≤ o ∧ o < 0x200 then s.ownShown ((o - 0x100) / 4) else s.reg a
  | some (.blzUnit, u, 0x10) => (s.unit u).run.setWidth 32
  | some (.blzUnit, u, 0x14) => ((s.unit u).run >>> 32).setWidth 32
  | some (.shed, _, o) => if 0x54 ≤ o ∧ o ≤ 0x64 then (if s.rf (shedA 0x50) 0 6 < 60 then s.reg (prioA (s.rf (shedA 0x50) 0 6) ((o - 0x54) / 4)) else 0) else s.reg a
  | _ => s.reg a

/-- Writes that pass without the guard: the weaver's own WVR_HB, its own WVR_CMD with only DRAINED, WVR_POST of any page, its own
Blaze unit, and everything from 0x0100_0000. -/
def unguarded (w a : Nat) (v : Word) : Bool :=
  decide (0x1000000 ≤ a ∨ a = wvrA w 0x5C ∨ (a = wvrA w 0x4C ∧ v = 8) ∨ (0xC00000 ≤ a ∧ a < 0xC40000 ∧ a % 0x1000 = 0x50)
    ∨ (blzU w 0 ≤ a ∧ a < blzU w 0x100))

/-- Registers of a WVR page that no head weaver may write. -/
def guardBarred (a : Nat) : Bool :=
  decide (0xC00000 ≤ a ∧ a < 0xC40000) &&
    (let o := a % 0x1000
     decide (o = 0x40 ∨ o = 0x48 ∨ o = 0x4C ∨ (0x100 ≤ o ∧ o < 0x200) ∨ o = 0x200 ∨ o = 0x210 ∨ o = 0x214))

/-- The first enabled guard entry of weaver `w` that covers an address. -/
def State.guardEntry (s : State) (w a : Nat) : Option Nat :=
  (List.range 8).find? (fun i => let e := fun o => s.reg (wvrA w (0x100 + 0x20 * i + o))
                                 bit (e 0x14) 0 && decide (fld (e 0) 0 24 ≤ a ∧ a ≤ fld (e 4) 0 24))

/-- Writes accepted from a head weaver in the present window of 256 bolts. -/
def State.guardActs (s : State) (w : Nat) : Nat :=
  if (s.weaver w).win = w32 (s.bolt.toNat / 256) then (s.weaver w).acts else 0

/-- The reason of R296 for which the guard refuses a write; none where it accepts. -/
def State.guardRefusal (s : State) (w a : Nat) (v : Word) : Option Nat :=
  if s.headless then some 5
  else if guardBarred a then some 1
  else match s.guardEntry w a with
    | none => some 1
    | some i =>
      let e := fun o => s.reg (wvrA w (0x100 + 0x20 * i + o))
      let m := e 8
      if ¬ (e 0xC ≤ v &&& m ∧ v &&& m ≤ e 0x10) then some 2
      else if (v ^^^ s.curWord a) &&& ~~~m ≠ 0 then some 3
      else if s.rf (wvrA w 0x200) 0 2 ≠ 2 then some 6
      else if s.rf (wvrA w 0x200) 8 8 ≤ s.guardActs w then some 4
      else none

/-- A guarded write: refused and recorded, or counted and passed on. -/
def State.guardWrite (s : State) (m : Mid) (a : Nat) (v : Word) (f : State → State) : State :=
  let w := m.toNat
  if w < 60 ∨ 64 ≤ w ∨ unguarded w a v then f s
  else match s.guardRefusal w a v with
    | some r => (((s.incReg (wvrA w 0x208)).setReg (wvrA w 0x20C) (w32 (a % 2 ^ 24 + r * 2 ^ 24)))).answer 0
    | none =>
      let n := s.guardActs w
      f ((s.modWeaver w (fun x => { x with win := w32 (s.bolt.toNat / 256), acts := n + 1 })).incReg (wvrA w 0x204))

/-- A 4-byte write of a register: the guard, the front end, its effect, the answer. One that waits is guarded once its target serves it: the guard
reads and writes there as one pair (R296, R372). -/
def State.write4 (s : State) (m : Mid) (a : Nat) (v : Word) (f : State → State) : State :=
  if s.gate m a 4 true = .wait then s.refuse m a 4 true (v.setWidth 64) false .wait
  else s.guardWrite m a v (fun s => s.access m a 4 true (fun s => (f s).answer 0) (v.setWidth 64))

/-- What waited in front of tile `p` completes with a decode error (R374). -/
def State.endWaits (s : State) (p : Nat) (k : DecKind) : State :=
  let mine := fun (e : ShedReq) => decide (targetOf e.a = some (.regp p))
  seqAll (fun e s => (s.decAns e.m e.a e.wr k).send [.lateAnswer e.m e.a [0] .dec]) (s.tst.shedQ.filter mine)
    (s.modTst (fun t => { t with shedQ := t.shedQ.filter (fun e => !mine e) }))

end Sys2Proof.Machine
end

