-- ==== Sys2Proof/Machine/Banks.lean ====
section
/-! DEFINITION. Scratch banks, the march test engine, repair and the Skid pool (R333-R361). -/
namespace Sys2Proof.Machine

/-- BANK_OWNb in force at the bank: the value before the write while a handover is pending (R337). -/
def State.bankOwn (s : State) (b : Nat) : Word :=
  let r := s.ownShown b
  if bit r 21 then smGet 0 s.bank.owner b else r

/-- KIND in force; 6 and 7 act as 0 (R360). -/
def State.bankKind (s : State) (b : Nat) : Nat :=
  let k := fld (s.bankOwn b) 8 3
  if 6 ≤ k then 0 else k

/-- The guest of a bank (R335). -/
def State.isGuest (s : State) (b : Nat) (m : Mid) : Bool := bit (s.bankOwn b) 20 && decide (fld (s.bankOwn b) 12 8 = (s.idOf m).toNat)

/-- The owner of a bank (R335, R339). -/
def State.isOwner (s : State) (b : Nat) (m : Mid) : Bool :=
  match s.bankKind b with
  | 1 => decide (fld (s.bankOwn b) 0 8 = (s.idOf m).toNat)
  | 2 => decide (s.holderId = some (s.idOf m).toNat)
  | _ => false

/-- The table of R335: who may write. -/
def State.mayWrite (s : State) (b : Nat) (m : Mid) : Bool :=
  if s.bankKind b ≤ 2 then s.isOwner b m || s.isGuest b m else false

/-- A refused bank write: counted, recorded, DENY (R336). -/
def State.bankDeny (s : State) (m : Mid) (off : Nat) : State :=
  ((s.incReg (bankA 0x50)).setReg (bankA 0x54) (w32 (off + (s.idOf m).toNat * 2 ^ 23))).irq (bankA 0) 2

/-- Stores bytes in a word with new check bits; a narrow merge into an uncorrectable word stays uncorrectable (R341). -/
def State.storeBytes (s : State) (off : Nat) (bs : List Byte) : State :=
  let w := off / 8
  let bad := decide (w ∈ s.bank.unc) && decide (bs.length < 8)
  { s with bank := { s.bank with mem := Memory.writeN s.bank.mem off bs
                                 unc := if bad then s.bank.unc else s.bank.unc.filter (· ≠ w)
                                 sbe := s.bank.sbe.filter (· ≠ w) } }

/-- A write through port S that met the owner's in the same bank cycle is discarded (R340). -/
def State.bankColl (s : State) (m : Mid) (off : Nat) : State :=
  (((s.incReg (bankA 0x58)).setReg (bankA 0x5C) (w32 (off + (s.idOf m).toNat * 2 ^ 23))).irq (bankA 0) 4).answer 0

/-- A write by the direct window to a bank (R334, R336, R340). `clash`: in the same bank cycle the owner writes the word
through port D. -/
def State.bankWrite (s : State) (m : Mid) (off : Nat) (bs : List Byte) (clash : Bool) : State :=
  let b := off / 0x20000
  if 48 ≤ b then (s.incReg (bankA 0x50)).answer 0
  else if ¬ s.mayWrite b m then (s.bankDeny m off).answer 0
  else if clash ∧ ¬ s.isOwner b m then s.bankColl m off
  else (s.storeBytes off bs).answer 0

/-- An alias write (R342): `set` ORs, otherwise AND NOT, on the bytes written; it is an S write, and `clash` is as for `bankWrite`. -/
def State.bankAlias (s : State) (m : Mid) (off : Nat) (bs : List Byte) (set clash : Bool) : State :=
  let b := off / 0x20000
  if 48 ≤ b then (s.incReg (bankA 0x50)).answer 0
  else if ¬ s.mayWrite b m then (s.bankDeny m off).answer 0
  else if clash then s.bankColl m off
  else if off / 8 ∈ s.bank.unc then (s.incReg (bankA 0x48)).answer 0
  else
    let old := s.bytes off bs.length
    (s.storeBytes off (List.zipWith (fun o v => if set then o ||| v else o &&& ~~~v) old bs)).answer 0

/-- A data error of a bank read: counted, recorded, ECC_UNC (R343). -/
def State.eccUnc (s : State) (off : Nat) : State :=
  ((s.incReg (bankA 0x48)).setReg (bankA 0x4C) (w32 off)).irq (bankA 0) 1

/-- A read of the word at `off`: the state with its error counted or corrected, and the response status (R336, R343, R347). -/
def State.readWord (s : State) (off : Nat) : State × Status :=
  if off < 0x600000 ∧ s.bankKind (off / 0x20000) = 4 then (s, .err)
  else if off / 8 ∈ s.bank.unc then (s.eccUnc off, .err)
  else if off / 8 ∈ s.bank.sbe then
    ((s.incReg (bankA 0x44)).modBank (fun k => { k with sbe := k.sbe.filter (· ≠ off / 8) }), .ok)
  else (s, .ok)

/-- A read of bytes within one word through any window: B48-B63 read zero outside the buffer window (R334), a bank in TEST
reads zero with ERR (R347). -/
def State.bankRead (s : State) (m : Mid) (a : Nat) (win : Window) (off size : Nat) : State :=
  if 0x600000 ≤ off ∧ win ≠ .buffer then s.answer 0
  else
    let (t, st) := s.readWord off
    if off < 0x600000 ∧ s.bankKind (off / 0x20000) = 4 then t.answerRead m a 0 st
    else t.answerRead m a (BitVec.ofNat 64 (leVal (s.bytes off size))) st

/-- The words of a run of bytes are read (R343): each is corrected and counted, or counted and recorded. -/
def State.readRun (s : State) (off n : Nat) : State :=
  if n = 0 then s else seqAll (fun w s => (s.readWord (8 * w)).1) (span (off / 8) ((off + n - 1) / 8 + 1 - off / 8)) s

/-- A write of one word by a hardware agent to the banks at `off`: owner rules unless `exempt` (R336, R347). -/
def State.agentWord (s : State) (m : Mid) (off : Nat) (bs : List Byte) (exempt : Bool) : State :=
  let b := off / 0x20000
  if 48 ≤ b then s.incReg (bankA 0x50)
  else if s.bankKind b = 4 then s.bankDeny m off
  else if exempt || s.mayWrite b m then s.putBytes off bs
  else s.bankDeny m off

/-- A write by a hardware agent, word by word: where it crosses from one bank to the next, each bank's rules take its part. -/
def State.agentWrite (s : State) (m : Mid) (off : Nat) (bs : List Byte) (exempt : Bool) : State :=
  seqAll (fun i s => s.agentWord m (off + 8 * i) ((bs.drop (8 * i)).take 8) exempt) (List.range ((bs.length + 7) / 8)) s

/-- BANK_WRITE: a write through the direct window (R336). -/
def execBankWrite (m : Mid) (off : BitVec 23) (size : Nat) (v : BitVec 64) (sameCycle : Bool) (s : State) : Out :=
  .next (s.access m (0x1000000 + off.toNat) size true
    (fun s => s.bankWrite m off.toNat (leBytes size v.toNat) sameCycle) v sameCycle)

/-- A read of one word or less through the direct window. -/
def State.bankRead1 (s : State) (m : Mid) (off size : Nat) : State :=
  s.access m (0x1000000 + off) size false (fun s => s.bankRead m (0x1000000 + off) .direct off size)

/-- Offsets within its 8-byte block `b` of the bytes of a host request of `n` bytes from `a`, `off` not enabled (R401). -/
def hostOffs (a n : Nat) (off : List Nat) (b : Nat) : List Nat :=
  (List.range 8).filter (fun o => decide (a ≤ 8 * b + o ∧ 8 * b + o < a + n ∧ 8 * b + o - a ∉ off))

/-- The blocks of a host request. -/
def hostBlocks (a n : Nat) : List Nat := span (a / 8) ((a + n + 7) / 8 - a / 8)

/-- The one naturally aligned group that those bytes form, as offset and size; a size of 3 where they form none, so that the front end answers
SIZE for the block (R401). -/
def hostGroup (l : List Nat) : Nat × Nat :=
  let o := l.headD 0
  let n := l.length
  if l = span o n ∧ (n = 1 ∨ n = 2 ∨ n = 4 ∨ n = 8) ∧ o % n = 0 then (o, n) else (o, 3)

/-- Reads the blocks of a host request of `n` bytes at `a`, in order: the bytes so far, and their answer, whose status is that of the first block
that fails (R401). -/
def State.hostBlocksRead (a n : Nat) : List Nat → State → List Byte → Resp → State × List Byte × Resp
  | [], s, bs, r => (s, bs, r)
  | b :: l, s, bs, r =>
    let x := hostOffs a n [] b
    let g := hostGroup x
    let t := s.bankRead1 66 (8 * b + g.1 - 0x1000000) g.2
    State.hostBlocksRead a n l t (bs ++ leBytes x.length t.resp.data.toNat)
      { r with status := if r.status = .ok then t.resp.status else r.status, poisoned := r.poisoned || t.resp.poisoned }

/-- Sets the answer. -/
def State.setResp (s : State) (r : Resp) : State := { s with resp := r }

/-- A host read of `size` bytes of the direct window, divided block by block (R401); it waits as a whole. -/
def State.hostRead (s : State) (off size : Nat) : State :=
  let a := 0x1000000 + off
  if (hostBlocks a size).any (fun b => s.gate 66 (8 * b) 8 false == .wait) then s.queue { m := 66, a := a, size := size, wr := false, v := 0 }
  else
    let r := State.hostBlocksRead a size (hostBlocks a size) s [] {}
    let word := fun (i : Nat) => BitVec.ofNat 64 (leVal (bytesAt r.2.1 (8 * i) 8))
    r.1.setResp { r.2.2 with data := word 0, more := (span 1 ((size + 7) / 8 - 1)).map word }

/-- A burst read of the direct window, as `q` tells of it. -/
def State.bankBurst (s : State) (q : ShedReq) : State :=
  s.burst q (fun i s =>
    let u := s.bankRead1 q.m (q.a - 0x1000000 + 8 * i) 8
    if i = 0 then u else u.moreData s.resp)

/-- A read of the direct window: of 1, 2, 4 or 8 bytes, or a burst of whole beats (R365). The host's stays within one 64-byte block where it is
longer than 8 bytes, and is divided where it is no such access (R401). -/
def State.bankLoad (s : State) (m : Mid) (off size : Nat) : State :=
  if m = 66 ∧ 8 < size ∧ (64 < size ∨ off / 64 ≠ (off + size - 1) / 64) then s.decAns 66 (0x1000000 + off) false .size
  else if 8 < size ∧ size % 8 = 0 ∧ (m ≠ 66 ∨ off % 8 = 0) then
    s.bankBurst { m := m, a := 0x1000000 + off, size := size, wr := false, v := 0, beats := size / 8 }
  else if m = 66 ∧ ¬ ((size = 1 ∨ size = 2 ∨ size = 4 ∨ size = 8) ∧ off % size = 0) then s.hostRead off size
  else s.bankRead1 m off size

/-- BANK_READ: a read through the direct window (R343, R365, R401). -/
def execBankRead (m : Mid) (off : BitVec 23) (size : Nat) (s : State) : Out := .next (s.bankLoad m off.toNat size)

/-- BANK_ALIAS_SET: a write through the bit-set alias (R342). -/
def execBankAliasSet (m : Mid) (off : BitVec 23) (size : Nat) (v : AliasData) (s : State) : Out :=
  .next (s.access m (0x2000000 + off.toNat) size true (fun s => s.bankAlias m off.toNat (leBytes size v.v.toNat) true v.sameCycle) v.v v.sameCycle)

/-- BANK_ALIAS_CLEAR: a write through the bit-clear alias (R342). -/
def execBankAliasClear (m : Mid) (off : BitVec 23) (size : Nat) (v : AliasData) (s : State) : Out :=
  .next (s.access m (0x3000000 + off.toNat) size true (fun s => s.bankAlias m off.toNat (leBytes size v.v.toNat) false v.sameCycle) v.v v.sameCycle)

/-! ### Ownership -/

/-- An accepted or refused write of BANK_OWNb (R335, R337, R347, R360). -/
def State.ownWrite (s : State) (m : Mid) (b : Nat) (v : Word) : State :=
  let a := bankA (0x100 + 4 * b)
  let old := s.ownShown b
  let k := fld v 8 3
  let cur := fld old 8 3
  let allowed := s.hostOrHolder m || (s.isOwner b m && decide (k = 0 ∨ 6 ≤ k))
  if ¬ allowed ∨ (3 ≤ k ∧ k ≤ 5) ∨ cur = 4 ∨ cur = 5 then s.errlog (bankA 0) (0x100 + 4 * b) m
  else
    let new := setBit (setFld (v &&& 0x1FF7FF) 8 3 (if 40 ≤ b then cur else k)) 21 true
    let s1 := s.modBank (fun q => { q with owner := smPut 0 q.owner b (s.bankOwn b) })
    s1.setReg a new

/-- BANK_OWN_WRITE (R337). -/
def execBankOwnWrite (m : Mid) (b : Fin 64) (v : Word) (s : State) : Out :=
  .next (s.write4 m (bankA (0x100 + 4 * b.val)) v (fun s => (s.ownWrite m b.val v)))

/-- A pending owner takes effect at the bank and HANDOVER reads 0 (R337). -/
def State.handoverDone (s : State) (b : Nat) : State :=
  (s.modBank (fun q => { q with owner := smPut 0 q.owner b 0 })).setRf (bankA (0x100 + 4 * b)) 21 1 0

/-- BANK_HANDOVER_DONE (R337): due while BANK_OWNb.HANDOVER is 1. -/
def execBankHandoverDone (b : Fin 64) (s : State) : Out :=
  .next (s.when (s.rb (bankA (0x100 + 4 * b.val)) 21) (·.handoverDone b.val))

/-- Handovers are over within 41 ns. -/
def State.handoversLeft (s : State) : State :=
  seqAll (fun b s => s.when (s.rb (bankA (0x100 + 4 * b)) 21) (·.handoverDone b)) (List.range 64) s

/-! ### March test (R345-R350) -/

/-- The banks a test runs on: the one named, or every bank that is not BAD (destructive: B0-B47 only, R346). -/
def State.testBanks (s : State) : List Nat :=
  let t := s.bank.march
  if t.all then (List.range (if t.preserve then 64 else 48)).filter (fun b => !s.bankBad b) else [t.bank]

/-- Sets the KIND of a bank, with no handover pending. -/
def State.setKind (s : State) (k b : Nat) : State :=
  ((s.modBank (fun q => { q with owner := smPut 0 q.owner b 0 })).setRf (bankA (0x100 + 4 * b)) 8 3 k).setRf
    (bankA (0x100 + 4 * b)) 21 1 0

/-- Writes zero with valid check bits to every word of a bank (R347). -/
def State.zeroBank (s : State) (b : Nat) : State :=
  let inB := fun (a : Nat) => decide (0x20000 * b ≤ a ∧ a < 0x20000 * (b + 1))
  s.modBank (fun q => { q with mem := smKeep (fun a => !inB a) q.mem
                               unc := q.unc.filter (fun w => !inB (8 * w))
                               sbe := q.sbe.filter (fun w => !inB (8 * w)) })

/-- Marks a bank in BANK_TFAIL. -/
def State.tfail (s : State) (b : Nat) : State :=
  s.setRf (bankA (if b < 32 then 0x6C else 0x70)) (b % 32) 1 1

/-- A test ends with a result: BUSY clears, TEST_DONE is set; a destructive one zeroes its banks and sets KIND 0 (R347). -/
def State.endTest (s : State) (r : Nat) : State :=
  let s1 := if s.bank.march.preserve then s else seqAll (fun b s => (s.zeroBank b).setKind 0 b) s.testBanks s
  (s1.modBank (fun q => { q with march := { q.march with busy := false, result := r, locked := false } })).irq (bankA 0) 8

/-- BANK_TCMD with START (R345, R346). -/
def State.startTest (s : State) (v : Word) : State :=
  let b := fld v 0 6
  let all := bit v 6
  let alg := fld v 8 2
  let pres := bit v 10
  let refused := s.bank.march.busy || (!all && s.bankBad b) || decide (alg = 3) || (decide (alg = 2) && pres)
    || (!pres && (if all then (List.range 48).any (fun b => decide (s.bankKind b ≠ 0)) else decide (48 ≤ b ∨ s.bankKind b ≠ 0)))
  if refused then s.modBank (fun q => { q with march := { q.march with result := 4 } })
  else
    let s1 := ((s.setReg (bankA 0x6C) 0).setReg (bankA 0x70) 0).modBank (fun q =>
      { q with march := { busy := true, bank := b, all := all, alg := alg, preserve := pres } })
    if pres then s1 else seqAll (fun b s => s.setKind 4 b) s1.testBanks s1

/-- A write of BANK_TCMD: ABORT, then START (R346, R350). -/
def State.tcmd (s : State) (v : Word) : State :=
  let s1 := if bit v 12 ∧ s.bank.march.busy then s.endTest 3 else s
  if bit v 11 then s1.startTest v else s1

/-- MARCH_START: a write of BANK_TCMD that starts a test (R345). -/
def execMarchStart (m : Mid) (v : Word) (s : State) : Out :=
  .next (s.write4 m (bankA 0x60) (setBit v 11 true) (fun s => (s.tcmd (setBit v 11 true))))

/-- MARCH_ROW_LOCK (R348): due between rows of a preserving test. -/
def execMarchRowLock (s : State) : Out :=
  let t := s.bank.march
  .next (s.when (t.busy && t.preserve && !t.locked && decide (t.row < 512))
    (·.modBank (fun q => { q with march := { q.march with locked := true } })))

/-- Spare rows of a bank in use, BANK_REPb (R351, R360). -/
def State.sparesUsed (s : State) (b : Nat) : Nat := s.rf (bankA (0x200 + 4 * b)) 0 3 + s.rf (bankA (0x200 + 4 * b)) 3 3

/-- A row whose signature mismatched (R349): recorded, and repaired where LIVE_REPAIR is 1 and a spare row is free. The copy
is corrected by ECC; an uncorrectable word stays so. -/
def State.rowFail (s : State) (b : Nat) : State :=
  let row := s.bank.march.row
  let rep := bankA (0x200 + 4 * b)
  let s1 := ((s.setRf rep 6 9 row).tfail b).irq (bankA 0) 0x10
  if s1.rb (bankA 0x68) 16 then
    if s1.sparesUsed b < 4 then
      (s1.setRf rep 3 3 (s1.rf rep 3 3 + 1)).modBank (fun q =>
        { q with soft := q.soft ++ [(b, row)]
                 sbe := q.sbe.filter (fun w => !decide (8 * w / 0x20000 = b ∧ 8 * w % 0x20000 / 256 = row)) })
    else (s1.setRf rep 15 1 1).irq (bankA 0) 0x20
  else s1

/-- MARCH_ROW_DONE (R348, R349): due while a row is locked; `fails` are the tested banks whose signature mismatched. The row
is restored, so no byte changes. -/
def execMarchRowDone (fails : List (Fin 64)) (s : State) : Out :=
  let t := s.bank.march
  .next (s.when (t.busy && t.locked) (fun s =>
    let hit := (fails.map Fin.val).filter (fun b => decide (b ∈ s.testBanks))
    (seqAll (fun b s => s.rowFail b) hit s).modBank (fun q =>
      { q with march := { q.march with locked := false, row := q.march.row + 1, anyFail := q.march.anyFail || !hit.isEmpty } })))

/-- MARCH_TEST_DONE (R346, R347, R349): due at the end of a test; `fails` are the banks in which a destructive test failed. -/
def execMarchTestDone (fails : List (Fin 64)) (s : State) : Out :=
  let t := s.bank.march
  .next (s.when (t.busy && !t.locked && (!t.preserve || decide (512 ≤ t.row))) (fun s =>
    if t.preserve then s.endTest (if t.anyFail then 2 else 1)
    else
      let hit := (fails.map Fin.val).filter (fun b => decide (b ∈ s.testBanks))
      (seqAll (fun b s => s.tfail b) hit s).endTest (if hit.isEmpty then 1 else 2)))

/-- MARCH_ABORT: a write of BANK_TCMD.ABORT (R350). -/
def execMarchAbort (m : Mid) (s : State) : Out :=
  .next (s.write4 m (bankA 0x60) 0x1000 (fun s => (s.tcmd 0x1000)))

/-! ### Repair fuses (R351) -/

/-- BANK_FUSE_STAT.ERR. -/
def State.fuseErr (s : State) : State := (s.setRf (bankA 0x88) 2 1 1).modBank (fun q => { q with fuseKey := none })

/-- A write of BANK_FUSE_KEY: 0x5EED opens 64 bolts; any other is a wrong sequence. No master is told apart here (R419). -/
def State.fuseKeyWrite (s : State) (v : Word) : State :=
  if fld v 0 16 = 0x5EED then s.modBank (fun q => { q with fuseKey := some s.bolt }) else s.fuseErr

/-- A write of BANK_FUSE_CMD: with GO and within 64 bolts of the key it starts the burn. -/
def State.fuseCmdWrite (s : State) (v : Word) : State :=
  match s.bank.fuseKey with
  | some t =>
    if bit v 15 ∧ since s.bolt t ≤ 64 ∧ s.bank.fuseBusy = none then
      (s.setReg (bankA 0x88) 1).modBank (fun q => { q with fuseKey := none, fuseBusy := some (fld v 0 6, fld v 6 9) })
    else s.fuseErr
  | none => s.fuseErr

/-- BANK_FUSE_KEY (R351). -/
def execBankFuseKey (m : Mid) (v : Word) (s : State) : Out :=
  .next (s.write4 m (bankA 0x80) v (fun s => (s.fuseKeyWrite v)))

/-- BANK_FUSE_CMD (R351). -/
def execBankFuseCmd (m : Mid) (v : Word) (s : State) : Out :=
  .next (s.write4 m (bankA 0x84) v (fun s => (s.fuseCmdWrite v)))

/-- A burn in progress ends; the repair takes effect at the next reset. -/
def State.burnDone (s : State) : State :=
  match s.bank.fuseBusy with
  | some f => ((s.setRf (bankA 0x88) 0 1 0).setRf (bankA 0x88) 1 1 1).modBank (fun q => { q with fuseBusy := none, fused := q.fused ++ [f] })
  | none => s

/-- FUSE_BURN_DONE (R351): due while a burn runs. -/
def execFuseBurnDone (s : State) : Out := .next s.burnDone

/-- Applies the fuses burnt so far, at every reset: FUSED counts the spares that each bank's fuses assign, and soft repairs have what they leave
of the four, the oldest first; a row that a fuse repairs needs none (R351). Which soft repair gives way is the model's (DESIGN CHOICE,
notes/assumptions/20.md). -/
def State.applyFuses (s : State) : State :=
  seqAll (fun b s =>
    let rep := bankA (0x200 + 4 * b)
    let f := (s.bank.fused.filter (fun f => decide (f.1 = b))).take 4
    let soft := (s.bank.soft.filter (fun e => decide (e.1 = b ∧ e ∉ f))).take (4 - f.length)
    ((s.setRf rep 0 3 f.length).setRf rep 3 3 soft.length).modBank (fun q =>
      { q with soft := q.soft.filter (fun e => decide (e.1 ≠ b)) ++ soft })) (List.range 64) s

/-! ### Skid pool (R353-R358) -/

/-- Withdrawn: the buffer's bank is BAD (R352). -/
def State.withdrawn (s : State) (i : Nat) : Bool := s.bankBad (48 + i / 512)

/-- State and owner of a buffer. -/
def State.buf (s : State) (i : Nat) : BufSt × Nat := if s.withdrawn i then (.withdrawn, 0) else smGet (.free, 0) s.skid.own i

/-- Sets state and owner of a buffer. -/
def State.setBuf (s : State) (i : Nat) (st : BufSt) (o : Nat) : State :=
  s.modSkid (fun q => { q with own := smPut (.free, 0) q.own i (st, o) })

/-- Buffers of BAD pool banks. -/
def State.capLost (s : State) : Nat := 512 * ((List.range 16).filter (fun b => s.bankBad (48 + b))).length

/-- First never-allocated buffer at or after `f` that is not withdrawn; 8,192 where there is none. -/
def State.skipBad (s : State) (f : Nat) : Nat :=
  (List.range 16).foldl (fun f _ => if f < 8192 ∧ s.withdrawn f then (f / 512 + 1) * 512 else f) f

/-- SKID_AVAIL.FREE (R358). -/
def State.skidFree (s : State) : Nat :=
  let bad := ((List.range 16).map (fun b => if s.bankBad (48 + b) then 512 * (b + 1) - max (512 * b) (min s.skid.fresh (512 * (b + 1))) else 0)).sum
  8192 - s.skid.fresh - bad + s.skid.freed.length

/-- SKID_AVAIL.CAP. -/
def State.skidCap (s : State) : Nat := 8192 - s.capLost

/-- After a change from a free count of `was`: the low mark, and LOW when the count falls below LOWAT (R358). -/
def State.skidNote (s : State) (was : Nat) : State :=
  let n := s.skidFree
  let s1 := if n < s.rf (skidA 0x64) 0 15 then s.setReg (skidA 0x64) (w32 n) else s
  let lw := s.rf (skidA 0x40) 8 15
  if lw ≤ was ∧ n < lw then s1.irq (skidA 0) 2 else s1

/-- A buffer joins the tail of the free list. -/
def State.freeBuf (s : State) (i : Nat) : State :=
  (s.setBuf i .free 0).modSkid (fun q => { q with freed := q.freed ++ [i] })

/-- Takes the head of the free list: never-allocated buffers in index order, then freed ones (R353). -/
def State.takeHead (s : State) : Option (Nat × State) :=
  let f := s.skipBad s.skid.fresh
  if f < 8192 then some (f, s.modSkid (fun q => { q with fresh := f + 1 }))
  else match s.skid.freed with
    | i :: t => some (i, s.modSkid (fun q => { q with freed := t, fresh := f }))
    | [] => none

/-- Buffers a master owns. -/
def State.ownedBy (s : State) (m : Nat) : List Nat :=
  (s.skid.own.filter (fun e => decide (e.2 = (.owned, m)))).map (·.1)

/-- Allocation by master `m` (R353): the SKID_ALLOC value and the state. -/
def State.skidAlloc (s : State) (m : Nat) : Word × State :=
  let lim := s.rf (skidA 0x44) 0 15
  if lim ≠ 0 ∧ lim ≤ (s.ownedBy m).length then (0, s.incReg (skidA 0x60))
  else match s.takeHead with
    | some (i, s1) => (w32 (0x80000000 + i), (s1.setBuf i .owned m).skidNote s.skidFree)
    | none => (0, s.incReg (skidA 0x60))

/-- A refused pool operation: kind 0 double free, 1 non-owner free, 2 non-owner post, 3 non-owner write (R361). -/
def State.skidMisuse (s : State) (m : Mid) (i kind : Nat) : State :=
  let s1 := (s.incReg (skidA (if kind = 0 then 0x54 else 0x58))).setReg (skidA 0x5C) (w32 (i + m.toNat * 2 ^ 14 + kind * 2 ^ 22))
  if kind = 3 then s1 else s1.irq (skidA 0) 1

/-- A write of SKID_FREE (R334, R355). -/
def State.skidFreeWrite (s : State) (m : Mid) (v : Word) : State :=
  let i := fld v 0 14
  if 8192 ≤ i then s.skidMisuse m i 1
  else match s.buf i with
    | (.free, _) => s.skidMisuse m i 0
    | (.owned, o) =>
      if o = m.toNat then
        (if s.rb (skidA 0x40) 0 then s.putBytes (0x600000 + 256 * i) (List.replicate 256 0) else s).freeBuf i
      else s.skidMisuse m i 1
    | _ => s.skidMisuse m i 1

/-- The pool reclaims every buffer OWNED by a master (R357). -/
def State.reclaim (s : State) (m : Nat) : State :=
  let l := s.ownedBy m
  (seqAll (fun i s => s.freeBuf i) l s).incReg (skidA 0x68) l.length

/-- SKID_ALLOC: a read of SKID_ALLOC (R353). -/
def execSkidAlloc (m : Mid) (s : State) : Out :=
  .next (s.access m (skidA 0x48) 4 false (fun s =>
    let (v, t) := s.skidAlloc m.toNat
    t.answer (v.setWidth 64)))

/-- SKID_FREE: a write of SKID_FREE (R355). -/
def execSkidFree (m : Mid) (v : Word) (s : State) : Out :=
  .next (s.write4 m (skidA 0x4C) v (fun s => (s.skidFreeWrite m v)))

/-- A write within a buffer (R354). -/
def State.skidWrite (s : State) (m : Mid) (i off : Nat) (bs : List Byte) : State :=
  if s.buf i = (.owned, m.toNat) then (s.storeBytes (0x600000 + 256 * i + off) bs).answer 0
  else (s.skidMisuse m i 3).answer 0

/-- SKID_BUFFER_WRITE (R354). -/
def execSkidBufferWrite (m : Mid) (i : Fin 8192) (off : Fin 256) (size : Nat) (v : BitVec 64) (s : State) : Out :=
  .next (s.access m (0x1800000 + 256 * i.val + off.val) size true
    (fun s => s.skidWrite m i.val off.val (leBytes size v.toNat)) v)

/-- A read of SKID_LOWMARK: the lowest count since the last read, which then starts again from the present count (R358). -/
def State.lowmarkRead (s : State) : Word × State :=
  (s.reg (skidA 0x64), s.setReg (skidA 0x64) (w32 s.skidFree))

/-- SKID_LOWMARK_READ (R358). -/
def execSkidLowmarkRead (m : Mid) (s : State) : Out :=
  .next (s.access m (skidA 0x64) 4 false (fun s =>
    let (v, t) := s.lowmarkRead
    t.answer (v.setWidth 64)))

end Sys2Proof.Machine
end

