-- ==== Sys2Proof/WellFormed.lean ====
section
/-! DEFINITION. What a command's operands must be to name something the spec has. Any other command
changes nothing (notes/assumptions/10.md). Everything else an operand can hold is well formed: the spec says what a bad access or a bad message does. -/
namespace Sys2Proof

/-- A lane header is the 64 bytes of pick 0 (R32). -/
def laneHdrOk (hdr : List Byte) : Bool := hdr.length == 64

/-- A skein header is 32 bytes (R36). -/
def skeinHdrOk (hdr : List Byte) : Bool := hdr.length == 32

/-- The number of the skein or Fine loom position that an LSR names (R65): 160 l + k for lane l = 64 p + n and skein k, or
81,920 + f; none for an invalid LSR. -/
def lsrNo (x : Nat) : Option Nat :=
  let p := x / 2 ^ 16 % 16
  let i := x % 2 ^ 16
  if p < 8 then (if i < 2 ^ 14 ∧ i % 256 < 160 then some ((p * 64 + i / 256) * 160 + i % 256) else none)
  else if p = 8 then (if i < 1280 then some (81920 + i) else none)
  else none

/-- A pick that can be switched (R10, R29). -/
def pickOk (p : PickIn) : Bool :=
  (lsrNo p.src.toNat).isSome && p.payload.length == 64 && decide (p.round < 625)

/-- A lane bolt begins at one of the 100,384 picks of a module bolt (R10); an APS slot number is below 64 and comes once, and
reserved picks are 185 to 383 (R31). -/
def laneObsOk (o : LaneObs) : Bool :=
  decide (o.lane < 512) && decide (o.arr < 100384) && o.aps.all (fun a => decide (a.1 < 64)) && decide ((o.aps.map (·.1)).Nodup)
    && o.rsv.all (fun a => decide (185 ≤ a.1 ∧ a.1 < 384) && a.2.length == 64)

/-- Each lane is measured once, and there are twelve sensors (R428). -/
def boltObsOk (o : BoltObs) : Bool :=
  o.lanes.all laneObsOk && decide ((o.lanes.map (·.lane)).Nodup) && o.temps.length == 12
    && o.beat.phi.all (fun c => decide (c.1 < 24)) && o.upsets.all (fun u => decide (u.1 < 0x100000))
    && o.accErrs.all (fun k => decide (k < 81920))

/-- Cells of 64 bytes that all lie within one bolt of a channel of `n` cells (R31, R40). -/
def cellRunOk (n : Nat) (c : CellRun) : Bool := decide (c.first + c.cells.length ≤ n) && c.cells.all (fun b => b.length == 64)

/-- An output thread: position below 1,280, thread below 125 (R117). -/
def trefOk (t : BitVec 18) : Bool := decide (t.toNat / 128 < 1280 ∧ t.toNat % 128 < 125)

/-- An entry of a Heddle map: a slot of a Reed port, or a valid destination (R65, R69). -/
def heddleOk (e : HeddleRef) : Bool :=
  if e.map.val < 2 then decide (e.idx.toNat < 12800) else (lsrNo (e.port.val * 2 ^ 16 + e.idx.toNat)).isSome

/-- Failing rows of the start-up test: bank below 64, row below 512, each once (R352). -/
def testOk (t : StartTest) : Bool :=
  t.rows.all (fun x => decide (x.1 < 64 ∧ x.2 < 512)) && decide t.rows.Nodup && t.again.all (fun b => decide (b < 64))

/-- A link speed and width (R399). -/
def linkOk (gen width : Nat) : Bool := decide ((1 ≤ gen ∧ gen ≤ 5) ∧ (width = 1 ∨ width = 2 ∨ width = 4))

/-- An instruction code that acts as BYPASS (R448). -/
def bypassOk (c : Byte) : Bool := c ∉ [0x00, 0x01, 0x02, 0x04, 0x05, 0x10]

/-- The form of a command. -/
def Instr.wellFormed : Instr → Bool
  | .moduleBoltBoundary o => boltObsOk o
  | .laneHeaderRx _ hdr _ => laneHdrOk hdr
  | .skeinHeaderRx _ hdr => skeinHdrOk hdr
  | .pickSwitch p => pickOk p
  | .helloRx _ c => cellRunOk 32 c
  | .idReqRx _ c => cellRunOk 32 c
  | .idOfferRx _ c => cellRunOk 32 c
  | .idAckRx _ c => cellRunOk 32 c
  | .setupRx _ c => cellRunOk 32 c
  | .confirmRx _ c => cellRunOk 32 c
  | .refuseRx _ c => cellRunOk 32 c
  | .teardownRx _ c => cellRunOk 32 c
  | .tdAckRx _ c => cellRunOk 32 c
  | .mgmtMessageRx _ c => cellRunOk 64 c
  | .threadPickRead t r _ => trefOk t && decide (r < 625)
  | .coldReset _ t => testOk t
  | .heddleEccUncorrectable e => heddleOk e
  | .heddleEntryReload e _ => heddleOk e
  | .fineEccUncorrectable e => trefOk e.tref
  | .fineEntryReload e _ => trefOk e.tref
  | .selvEccUncorrectable _ _ rho => decide (rho < 625)
  | .pcieLinkUp g w => linkOk g w
  | .jtagBypass c => bypassOk c
  | _ => true

end Sys2Proof
end

