-- ==== Sys2Proof/Machine/Operands.lean ====
section
/-! DEFINITION. Operand forms: LSRs and TREFs (R65, R117), Heddle entries (R70-R72), thread map entries (R119, R120),
tenants and grants (R76, R78, R111, R121, R297), Treadle and Fine loom command words (R90, R126), and protection group
fields (R186-R191). -/
namespace Sys2Proof.Machine

/-! ### LSRs -/

/-- Reed port code of an LSR. -/
def lsrPort (x : Nat) : Nat := x / 2 ^ 16 % 16
/-- Index part of an LSR. -/
def lsrIdx (x : Nat) : Nat := x % 2 ^ 16
/-- The LSR of port code `p` and index `i`. -/
def lsrOf (p i : Nat) : Nat := p * 2 ^ 16 + i
/-- A trunk LSR that is valid (R65). -/
def trunkOk (x : Nat) : Bool := (lsrNo x).isSome && decide (lsrPort x < 8)
/-- Skein number of a valid LSR; 0 for one that is not (never used for such a one). -/
def skNo (x : Nat) : Nat := (lsrNo x).getD 0
/-- The LSR of skein number `k` < 81,920. -/
def lsrOfNo (k : Nat) : Nat := if k < 81920 then lsrOf (k / 10240) (k / 160 % 64 * 256 + k % 160) else lsrOf 8 (k - 81920)
/-- Lane 64 p + n of a trunk LSR. -/
def lsrLane (x : Nat) : Nat := lsrPort x * 64 + lsrIdx x / 256 % 64

/-! ### Tenants -/

/-- Tenant of trunk skein number `k` in the tenant table (R297). -/
def State.tenTab (s : State) (k : Nat) : Nat :=
  s.rf (0xB20000 + 0x5000 * (k / 10240) + 0x140 * (k / 160 % 64) + 4 * (k % 160 / 2)) (k % 2 * 16) 12

/-- FINE_ASG[f] (R142). -/
def State.asg (s : State) (f : Nat) : Word := s.reg (0x902000 + 4 * f)

/-- The tenant that a Treadle command takes for an endpoint: the table's, or CTEN on port 8 (R76, R111). -/
def State.lsrTen (s : State) (x : Nat) : Nat :=
  if lsrPort x = 8 then fld (s.asg (lsrIdx x)) 4 12 else s.tenTab (skNo x)

/-- Word address of thread `t` of position `f` in one half of the thread tenant table (spec/04, FINE registers). -/
def threadTenA (out : Bool) (f t : Nat) : Nat := (if out then 0x970000 else 0x920000) + 256 * f + 4 * (t / 2)

/-- Tenant of an input or output thread (R121). -/
def State.threadTen (s : State) (out : Bool) (tref : Nat) : Nat :=
  s.rf (threadTenA out (tref / 128) (tref % 128)) (tref % 128 % 2 * 16) 12

/-! ### Grants (R78) -/

/-- The valid grants, by number: only a listed word 0 can hold VALID. -/
def State.validGrants (s : State) : List (Nat × Word) :=
  (s.regs.filter (fun e => decide (0xB10000 ≤ e.1 ∧ e.1 < 0xB12000 ∧ e.1 % 8 = 0) && bit e.2 24)).map
    (fun e => ((e.1 - 0xB10000) / 8, e.2))

/-- The grant that covers trunk skein `src` (where it has one) for a pair of tenants: a standing one before a ONCE one, then
the lowest-numbered (R76). -/
def State.grantFor (s : State) (srcTen dstTen : Nat) (src : Option Nat) : Option (Nat × Bool) :=
  let covers := fun (e : Nat × Word) =>
    decide (fld e.2 0 12 = srcTen ∧ fld e.2 12 12 = dstTen) &&
      (bit e.2 25 || (match src with
        | some k =>
          (let w := s.reg (0xB10004 + 8 * e.1)
           decide (fld w 0 3 = k / 10240 ∧ fld w 3 6 = k / 160 % 64 ∧ fld w 9 8 = k % 160))
        | none => false))
  match s.validGrants.find? (fun e => covers e && !bit e.2 26) with
  | some e => some (e.1, false)
  | none => match s.validGrants.find? (fun e => covers e) with
    | some e => some (e.1, true)
    | none => none

/-- The outcome of an admission check: refused, or admitted with XG and the ONCE grant it uses. -/
inductive Admit where
  | refused
  | ok (xg : Bool) (xsrc : Nat) (once : List Nat)
deriving DecidableEq, Repr

/-- Admits a source tenant to a destination tenant (R76, R122). -/
def State.admits (s : State) (srcTen dstTen : Nat) (src : Option Nat) : Admit :=
  if srcTen = dstTen then .ok false 0 []
  else match s.grantFor srcTen dstTen src with
    | some (i, true) => .ok true srcTen [i]
    | some (_, false) => .ok true srcTen []
    | none => .refused

/-- Clears VALID of the ONCE grants a batch used, where the entry still holds ONCE and VALID (R79). -/
def State.clearOnce (s : State) (l : List Nat) : State :=
  seqAll (fun i s => let a := 0xB10000 + 8 * i
                     if s.rb a 24 && s.rb a 26 then s.setRf a 24 1 0 else s) l s

/-! ### Heddle entries -/

/-- Ingress entry of port `p`, slot `x` (R70). -/
def HMaps.ingE (h : HMaps) (p x : Nat) : Word := smGet 0 h.ing (p * 12800 + x)
/-- Reed entry of output port `q`, slot `x` (R71). -/
def HMaps.reedE (h : HMaps) (q x : Nat) : Word := smGet 0 h.reed (q * 12800 + x)
/-- Egress entry of a destination LSR (R72): word 0 in the low half. -/
def HMaps.egE (h : HMaps) (d : Nat) : BitVec 64 := smGet 0 h.eg d
def HMaps.setIng (h : HMaps) (p x : Nat) (v : Word) : HMaps := { h with ing := smPut 0 h.ing (p * 12800 + x) v }
def HMaps.setReed (h : HMaps) (q x : Nat) (v : Word) : HMaps := { h with reed := smPut 0 h.reed (q * 12800 + x) v }
def HMaps.setEg (h : HMaps) (d : Nat) (v : BitVec 64) : HMaps := { h with eg := smPut 0 h.eg d v }

/-- An ingress entry sends a pick. -/
def ingValid (w : Word) : Bool := bit w 26
/-- A Reed entry receives from source port `fld w 0 4`. -/
def reedValid (w : Word) : Bool := bit w 4
def mkIng (src ten : Nat) : Word := w32 (src + ten * 2 ^ 14 + 2 ^ 26)
def mkReed (p : Nat) : Word := w32 (p + 16)
/-- Fields of an egress entry. -/
def egSlot (e : BitVec 64) : Nat := fld e 0 14
def egMode (e : BitVec 64) : Nat := fld e 14 2
def egTen (e : BitVec 64) : Nat := fld e 16 12
def egPslot (e : BitVec 64) : Nat := fld e 32 14
def egPvalid (e : BitVec 64) : Bool := bit e 46
def egXg (e : BitVec 64) : Bool := bit e 47
def egXsrc (e : BitVec 64) : Nat := fld e 48 12
/-- An egress entry. -/
def mkEg (slot mode ten pslot : Nat) (pv xg : Bool) (xsrc : Nat) : BitVec 64 :=
  BitVec.ofNat 64 (slot + mode * 2 ^ 14 + ten * 2 ^ 16 + pslot * 2 ^ 32 + pv.toNat * 2 ^ 46 + xg.toNat * 2 ^ 47 + xsrc * 2 ^ 48)

/-- The source LSR that port `q` receives in slot `x` (R71, R73). -/
def HMaps.source (h : HMaps) (q x : Nat) : Option Nat :=
  let r := h.reedE q x
  if reedValid r then
    (let p := fld r 0 4
     let i := h.ingE p x
     if ingValid i then some (lsrOf p (fld i 0 14)) else none)
  else none

/-- Sources of a destination in MODE 1-3: the working leg and, where PVALID (trunk egress only, R72), the protect leg. -/
def HMaps.legs (h : HMaps) (d : Nat) : List Nat :=
  let e := h.egE d
  if egMode e = 0 then []
  else (h.source (lsrPort d) (egSlot e)).toList ++
    (if egPvalid e && decide (lsrPort d < 8) then (h.source (lsrPort d) (egPslot e)).toList else [])

/-- Destinations that a source feeds. -/
def HMaps.fed (h : HMaps) (src : Nat) : List Nat := (h.eg.map (·.1)).filter (fun d => decide (src ∈ h.legs d))

/-- Slots a source holds on its port, lowest first. -/
def HMaps.slotsOf (h : HMaps) (p idx : Nat) : List Nat :=
  (h.ing.filter (fun e => decide (e.1 / 12800 = p ∧ fld e.2 0 14 = idx) && ingValid e.2)).map (fun e => e.1 % 12800)

/-! ### Commands -/

/-- Word `i` of a command. -/
def QCmd.w (c : QCmd) (i : Nat) : Word := c.ws.getD i 0
def QCmd.op (c : QCmd) : Nat := fld (c.w 0) 0 8
def QCmd.cmt (c : QCmd) : Bool := bit (c.w 0) 8
def QCmd.dry (c : QCmd) : Bool := bit (c.w 0) 9
def QCmd.ring (c : QCmd) : Nat := fld (c.w 0) 10 2
def QCmd.force (c : QCmd) : Bool := bit (c.w 0) 12
def QCmd.tag (c : QCmd) : BitVec 16 := BitVec.ofNat 16 (fld (c.w 0) 16 16)
def QCmd.src (c : QCmd) : Nat := fld (c.w 1) 0 20
def QCmd.dst (c : QCmd) : Nat := fld (c.w 2) 0 20
def QCmd.src2 (c : QCmd) : Nat := fld (c.w 3) 0 20
def QCmd.group (c : QCmd) : Nat := fld (c.w 4) 0 13
def QCmd.movesOp (c : QCmd) : Nat := fld (c.w 5) 0 7
def QCmd.srcT (c : QCmd) : Nat := fld (c.w 1) 0 18
def QCmd.dstT (c : QCmd) : Nat := fld (c.w 2) 0 18

/-- A valid TREF (R117). -/
def trefValid (t : Nat) : Bool := decide (t / 128 < 1280 ∧ t % 128 < 125)

/-! ### Thread map entries -/

def FMaps.outE (f : FMaps) (t : Nat) : BitVec 64 := smGet 0 f.out t
def FMaps.tagE (f : FMaps) (t : Nat) : Nat := fld (smGet 0 f.tag t) 0 12
def FMaps.setOut (f : FMaps) (t : Nat) (v : BitVec 64) : FMaps := { f with out := smPut 0 f.out t v }
def FMaps.setTag (f : FMaps) (t ten : Nat) : FMaps := { f with tag := smPut 0 f.tag t (w32 ten) }
def outSrc (e : BitVec 64) : Nat := fld e 0 18
def outMode (e : BitVec 64) : Nat := fld e 18 2
def outXg (e : BitVec 64) : Bool := bit e 20
def outTen (e : BitVec 64) : Nat := fld e 32 12
def outXsrc (e : BitVec 64) : Nat := fld e 44 12
def mkOut (src mode : Nat) (xg : Bool) (ten xsrc : Nat) : BitVec 64 :=
  BitVec.ofNat 64 (src + mode * 2 ^ 18 + xg.toNat * 2 ^ 20 + ten * 2 ^ 32 + xsrc * 2 ^ 44)

/-- Output threads in MODE 1-3 fed by input thread `t`. -/
def FMaps.fed (f : FMaps) (t : Nat) : List Nat :=
  (f.out.filter (fun e => decide (outMode e.2 ≠ 0 ∧ outSrc e.2 = t))).map (·.1)

/-! ### Protection groups -/

/-- Working leg, protect leg and destination of a group of type 1, 2 or 4. -/
def State.gWork (s : State) (g : Nat) : Nat := s.rf (recA g 8) 0 20
def State.gProt (s : State) (g : Nat) : Nat := s.rf (recA g 0xC) 0 20
def State.gDst (s : State) (g : Nat) : Nat := s.rf (recA g 0x10) 0 20
/-- Type 3: the protect position, member `i`'s position and its destination (R191). -/
def State.memProt (s : State) (g : Nat) : Nat := s.rf (memA g 0) 0 20
def State.memPos (s : State) (g i : Nat) : Nat := s.rf (memA g (8 * i)) 0 20
def State.memDst (s : State) (g i : Nat) : Nat := s.rf (memA g (8 * i + 4)) 0 20
/-- N of PROT_GCFG in force. -/
def grpN (c : Word) : Nat := fld c 6 4

/-- Members of a group in force: (signal, working leg, destination). -/
def State.members (s : State) (g : Nat) : List (Nat × Nat × Nat) :=
  let q := s.grp g
  if q.ty = 0 then []
  else if q.ty = 3 then (span 1 (grpN q.cfg)).map (fun i => (i, s.memPos g i, s.memDst g i))
  else [(1, s.gWork g, s.gDst g)]

/-- The protect leg of a group in force. -/
def State.protLeg (s : State) (g : Nat) : Nat := if (s.grp g).ty = 3 then s.memProt g else s.gProt g

/-- The enabled group that lists a destination, with its signal (R145). -/
def State.dstGroup (s : State) (d : Nat) : Option (Nat × Nat) :=
  s.prot.grp.findSome? (fun e =>
    match (s.members e.1).find? (fun m => decide (m.2.2 = d)) with
    | some m => some (e.1, m.1)
    | none => none)

/-- A group has a host command in progress (R86, R181). -/
def State.grpBusy (s : State) (g : Nat) : Bool := (s.grp g).cfgPend || !(s.grp g).cmds.isEmpty

end Sys2Proof.Machine
end

