-- ==== Sys2Proof/Machine/Trace.lean ====
section
/-! DEFINITION. The trace unit (R456-R459), and the place where Tally increments of the bolt in progress gather (R380, R381). -/
namespace Sys2Proof.Machine

/-! ### Tally increments -/

/-- Key of a counter: CLASS, INDEX, CTR (R381). -/
def ctrKey (cls idx ctr : Nat) : Nat := cls * 2 ^ 22 + idx * 16 + ctr

/-- Adds to an increment of the bolt in progress. -/
def State.count (s : State) (cls idx ctr : Nat) (n : Nat := 1) : State :=
  s.modTly (fun t => { t with inc := smMod 0 t.inc (ctrKey cls idx ctr) (· + n) })

/-! ### Records -/

/-- Records held at most. -/
def traceCap : Nat := 4096

/-- A record at the present bolt (R456). -/
def State.traceRec (s : State) (kind src clk : Nat) (d0 d1 : Word) : TraceRec :=
  { w0 := s.bolt, w1 := w32 (clk % 400000 + src % 128 * 2 ^ 20 + kind * 2 ^ 27), d0 := d0, d1 := d1 }

/-- Writes a record, over the oldest one where the buffer is full (R458). -/
def State.pushTrace (s : State) (r : TraceRec) : State :=
  s.modTst (fun t => { t with trace := (if traceCap ≤ t.trace.length then t.trace.drop 1 else t.trace) ++ [r] })

/-- One LOST record stands for the records dropped before it (R458). Its SRC is a free value (DESIGN CHOICE, notes/assumptions/6.md). -/
def State.pushLost (s : State) : State :=
  if s.tst.lost = 0 then s
  else
    let (v, s1) := s.freeVal
    (s1.pushTrace (s.traceRec 1 (fld v 0 7) 0 (w32 s.tst.lost) 0)).modTst (fun t => { t with lost := 0 })

/-- A trigger is taken (R458). -/
def State.triggerTrace (s : State) : State :=
  if s.rf (tstA 0x60) 1 2 = 2 ∧ s.tst.running ∧ ¬ s.tst.triggered then
    s.modTst (fun t => { t with triggered := true, postLeft := some (s.rf (tstA 0x60) 4 12) })
  else s

/-- A record arrives at the unit (R458, R459). -/
def State.record (s : State) (kind src clk : Nat) (d0 d1 : Word) : State :=
  if ¬ (s.tst.running ∧ s.rb (tstA 0x60) 0) then s
  else
    let r := s.traceRec kind src clk d0 d1
    match s.rf (tstA 0x60) 1 2 with
    | 1 =>
      if traceCap ≤ s.tst.trace.length then
        ((s.incReg (tstA 0x88)).modTst (fun t => { t with lost := t.lost + 1 })).irq (tstA 0) 4
      else
        let s1 := s.pushLost.pushTrace r
        if traceCap ≤ s1.tst.trace.length then (s1.modTst (fun t => { t with stopped := true })).irq (tstA 0) 2 else s1
    | 2 =>
      match s.tst.postLeft with
      | some 0 => s
      | some (n + 1) => (s.pushLost.pushTrace r).modTst (fun t => { t with postLeft := some n })
      | none =>
        let s1 := s.pushLost.pushTrace r
        if kind = s.rf (tstA 0x60) 16 5 then s1.triggerTrace else s1
    | _ => s.pushLost.pushTrace r

/-- A hardware event of class bit `c` that falls on a boundary, where the clock count is 0. -/
def State.trace (s : State) (c kind src : Nat) (d0 d1 : Word) : State :=
  if s.rb (tstA 0x64) c then s.record kind src 0 d0 d1 else s

/-- A hardware event of class bit `c` within a bolt: its clock count is a free value (DESIGN CHOICE, notes/assumptions/6.md). -/
def State.traceIn (s : State) (c kind src : Nat) (d0 d1 : Word) : State :=
  if s.rb (tstA 0x64) c && s.tst.running then
    let (v, s1) := s.freeVal
    s1.record kind src v.toNat d0 d1
  else s

/-- Class bit of a writer of TST_TR_EMIT. -/
def emitClass (m : Mid) : Nat := if m.toNat < 64 then 0 else if m = 64 ∨ m = 65 then 1 else 2

/-- TST_TR_EMIT: one SW record with SRC the writer's ID (R456). -/
def State.emitTrace (s : State) (m : Mid) (v : Word) (clk : Nat) : State :=
  if s.rb (tstA 0x64) (emitClass m) then s.record 0 m.toNat clk v 0 else s

/-- TST_TR_CMD.START: empties the buffer and records if EN is 1 (R459). -/
def State.startTrace (s : State) : State :=
  (s.modTst (fun t => { t with trace := [], running := s.rb (tstA 0x60) 0, triggered := false, stopped := false,
                               postLeft := none })).when (s.rb (tstA 0x60) 0) (·.pushLost)

/-- TST_TR_CMD.STOP: recording stops. -/
def State.stopTrace (s : State) : State :=
  if s.tst.running then (s.modTst (fun t => { t with running := false, stopped := true })).irq (tstA 0) 2 else s

/-- A write of TST_TR_CMD: START, then STOP, then TRIG. -/
def State.traceCmd (s : State) (v : Word) : State :=
  ((s.when (bit v 0) (·.startTrace)).when (bit v 1) (·.stopTrace)).when (bit v 2) (·.triggerTrace)

/-- TST_TR_EMIT (R456). -/
def execTstTrEmit (m : Mid) (v : Word) (clk : Nat) (s : State) : Out :=
  .next (s.write4 m (tstA 0x68) v (fun s => (s.emitTrace m v clk)))
/-- TST_TR_START: a write of TST_TR_CMD.START (R459). -/
def execTstTrStart (m : Mid) (s : State) : Out :=
  .next (s.write4 m (tstA 0x6C) 1 (fun s => (s.traceCmd 1)))
/-- TST_TR_STOP: a write of TST_TR_CMD.STOP (R459). -/
def execTstTrStop (m : Mid) (s : State) : Out :=
  .next (s.write4 m (tstA 0x6C) 2 (fun s => (s.traceCmd 2)))
/-- TST_TR_TRIG: a write of TST_TR_CMD.TRIG (R458). -/
def execTstTrTrig (m : Mid) (s : State) : Out :=
  .next (s.write4 m (tstA 0x6C) 4 (fun s => (s.traceCmd 4)))
/-- The POST records after the trigger are taken: recording stops (R458). -/
def State.tracePost (s : State) : State :=
  if s.tst.running ∧ s.tst.postLeft = some 0 then
    (s.modTst (fun t => { t with running := false, stopped := true, postLeft := none })).irq (tstA 0) 3
  else s

/-- TRACE_POST_COMPLETE (R458). -/
def execTracePostComplete (s : State) : Out := .next s.tracePost

/-- Word `i` of the record that TST_TR_RIDX selects; zero beyond COUNT (R459). -/
def State.traceWord (s : State) (i : Nat) : Word :=
  match s.tst.trace[s.rf (tstA 0x74) 0 12]? with
  | none => 0
  | some r => match i with | 0 => r.w0 | 1 => r.w1 | 2 => r.d0 | _ => r.d1

/-- A read of TST_TR_RD3: word 3, and RIDX advances (R459). -/
def State.readRd3 (s : State) : Word × State :=
  (s.traceWord 3, s.setRf (tstA 0x74) 0 12 (s.rf (tstA 0x74) 0 12 + 1))

/-- TST_TR_RD3_READ (R459). -/
def execTstTrRd3Read (m : Mid) (s : State) : Out :=
  .next (s.access m (tstA 0x84) 4 false (fun s => let r := s.readRd3
                                                  r.2.answer (r.1.setWidth 64)))

end Sys2Proof.Machine
end

