-- ==== Sys2Proof/Machine/Engine.lean ====
section
/-! DEFINITION. What the Treadle and the Fine loom's thread command engine share: the queue, batches, completions and fences
(R85, R89, R92-R95, R125, R127, R128). `fe` is true for the Fine loom's engine. -/
namespace Sys2Proof.Machine

def State.eng (s : State) (fe : Bool) : Engine := if fe then s.fine.eng else s.trd
def State.modEng (s : State) (fe : Bool) (f : Engine → Engine) : State := if fe then s.modFe f else s.modTrd f
/-- A register of the engine's page (R105, R140). -/
def engA (fe : Bool) (o : Nat) : Nat := (if fe then 0x900000 else 0x810000) + o
/-- Queue entries: 1,024 or 512. -/
def engCap (fe : Bool) : Nat := if fe then 512 else 1024
/-- The engine's Shed master ID (R362). -/
def engId (fe : Bool) : Mid := if fe then 70 else 69
/-- CQ_AGT of the engine's IRQ_RAW (R107, R143). -/
def agtBit (fe : Bool) : Nat := if fe then 0x100 else 0x80
/-- BATCH_TMO of the engine's IRQ_RAW. -/
def tmoBit (fe : Bool) : Nat := if fe then 0x80 else 0x40

/-- A batch is open (BUILD, or WAIT_PROT with commands in it). -/
def Engine.isOpen (e : Engine) : Bool := e.st == .build || (e.st == .waitProt && decide (0 < e.count))
/-- A commit is armed or syncing (R85). -/
def Engine.committing (e : Engine) : Bool := e.st == .armed || e.st == .sync
/-- The state the engine returns to once the head no longer waits. -/
def Engine.base (e : Engine) : EngSt := if 0 < e.count then .build else .idle

/-- The CFG register as the command at the queue head, or the last one that was there, found it (R106, R141). -/
def State.engCfg (s : State) (fe : Bool) : Word := ((s.eng fe).cfg).getD (s.reg (engA fe 0x40))
/-- A command reaches the queue head: it finds CFG as it stands. -/
def State.latchCfg (s : State) (fe : Bool) : State := s.modEng fe (fun e => { e with cfg := some (s.reg (engA fe 0x40)) })

/-- COMMIT_LEAD as it acts (R106, R141). -/
def State.lead (s : State) (fe : Bool) : Nat :=
  if fe then atLeast1 (fld (s.engCfg fe) 0 4) else max 2 (fld (s.engCfg fe) 8 4)
/-- BATCH_TMO as it acts (R106, R141). -/
def State.batchTmo (s : State) (fe : Bool) : Nat := atLeast1 (fld (s.engCfg fe) (if fe then 8 else 24) 8)

/-- The 16 bytes of a completion entry (R94). -/
def doneBytes (d : Done) (phase : Bool) : List Byte :=
  leBytes 4 (d.tag.toNat + d.status.toNat * 2 ^ 16 + d.split.toNat * 2 ^ 24 + d.forced.toNat * 2 ^ 25 + phase.toNat * 2 ^ 31)
    ++ leBytes 4 d.cbolt.toNat ++ leBytes 4 d.w2.toNat ++ leBytes 4 d.w3.toNat

/-- Registers of ring 0 to 2: base, size, tail, head, lost (R105, R140). -/
def ringRegs (fe : Bool) (r : Nat) : Nat × Nat × Nat × Nat × Nat :=
  let a := engA fe
  match r with
  | 0 => (a 0x60, a 0x68, a 0x6C, a 0x70, a 0x74)
  | 1 => (a 0x80, a 0x84, a 0x88, a 0x8C, a 0x90)
  | _ => if fe then (a 0xD0, a 0xD4, a 0xD8, a 0xDC, a 0xE0) else (a 0xA0, a 0xA4, a 0xA8, a 0xAC, a 0xB0)

/-- PHASE of the pass in progress. -/
def Engine.phase (e : Engine) (r : Nat) : Bool := match r with | 0 => e.phH | 1 => e.phI | _ => e.phA
/-- A pass round ring `r` ends: its PHASE inverts (R94). -/
def Engine.flip (e : Engine) (r : Nat) : Engine :=
  match r with | 0 => { e with phH := !e.phH } | 1 => { e with phI := !e.phI } | _ => { e with phA := !e.phA }

/-- Posts a completion to its ring: the entry, then TAIL, then the cause; dropped where the ring is full (R95, R412). It waits while the ring's
target is held (R371), and behind those that wait for the ring. Ring 3 is no completion. -/
def State.postDone (fe : Bool) (d : Done) (s : State) : State :=
  if 3 ≤ d.ring then s
  else
    let (base, size, tail, head, lost) := ringRegs fe d.ring
    let sz := ringSize 6 16 (s.rf size 0 5)
    let t := (s.reg tail).toNat % 2 ^ sz
    let behind := s.tst.waitQ.any (fun x => match x with | .done g e => g == fe && e.ring == d.ring | _ => false)
    if behind || (if d.ring = 0 then s.hostWaits else s.winWaits (engId fe) ((s.reg base).toNat + 16 * t) 16) then
      s.modTst (fun t => { t with waitQ := t.waitQ ++ [.done fe d] })
    else if ringFull sz t (s.reg head).toNat then
      (s.setReg lost (w32 ((s.rf lost 0 16 + 1) % 2 ^ 16 + d.tag.toNat * 2 ^ 16))).irq (engA fe 0) 0x10
    else
      let bs := doneBytes d ((s.eng fe).phase d.ring)
      let s1 := if d.ring = 0 then s.hostWrite ((s.reg base).toNat + (s.reg (base + 4)).toNat * 2 ^ 32 + 16 * t) bs
                else s.agentWrite (engId fe) ((s.reg base).toNat + 16 * t) bs true
      let s2 := s1.setReg tail (w32 (ringNext sz t))
      let s3 := if ringNext sz t = 0 then s2.modEng fe (·.flip d.ring) else s2
      s3.irq (engA fe 0) (match d.ring with | 0 => 2 | 1 => 4 | _ => agtBit fe)

/-- A completion of a command. -/
def mkDone (c : QCmd) (status : Byte) (w2 w3 : Nat) : Done :=
  { ring := c.ring, tag := c.tag, status := status, w2 := w32 w2, w3 := w32 w3 }

/-- The head leaves the queue; the command behind it reaches the head. -/
def State.popQ (s : State) (fe : Bool) : State :=
  let s1 := s.modEng fe (fun e => { e with q := e.q.drop 1 })
  s1.when (!(s1.eng fe).q.isEmpty) (·.latchCfg fe)

/-- Sets FORCED in the last completion of a batch. -/
def forceLast : List Done → List Done
  | [] => []
  | [d] => [{ d with forced := true }]
  | d :: t => d :: forceLast t

/-- Building ends: STATE goes to ARMED and the target is set (R83, R130). `need`: the tiles to arm. -/
def State.closeBatch (s : State) (fe : Bool) (forced : Bool) (need : List Nat) : State :=
  (s.modEng fe (fun e =>
    { e with st := .armed, batch := if forced then forceLast e.batch else e.batch, armBolt := s.bolt, tries := 0,
             acks := [], armSent := false, need := need, waitAt := none })).setReg (engA fe 0x48) (s.bolt + w32 (s.lead fe))

/-- The fences whose earlier commands have all completed are posted (R85). -/
def State.postFences (s : State) (fe : Bool) : State :=
  let e := s.eng fe
  let due := e.fences.filter (fun f => decide (f.1 ≤ e.batchNo))
  let s1 := s.modEng fe (fun e => { e with fences := e.fences.filter (fun f => !decide (f.1 ≤ e.batchNo)) })
  seqAll (fun f s => s.postDone fe f.2) due s1

/-- The open or armed batch ends without a commit: the standby pages return to the active ones and its commands complete with
`status` (R84, R91, R92, R95); a head that waits for a group keeps waiting, and its wait is not begun again (R86). DETAIL of an aborted
batch's completions is 0, as no endpoint conflicts (DESIGN CHOICE, notes/assumptions/14.md); word 2 of a thread command's completion holds its DST or SRC whatever its status (R128). -/
def State.dropBatch (s : State) (fe : Bool) (status : Byte) : State :=
  let l := (s.eng fe).batch
  let s0 := if fe then s.modFine (fun f => { f with stb := f.act }) else s.modLoom (fun l => { l with stb := l.act })
  let s1 := s0.modEng fe (fun e =>
    { e with st := if e.st = .waitProt then .waitProt else .idle, batch := [], count := 0, moves := 0, once := [], acks := [],
             need := [], armSent := false, tries := 0, batchNo := e.batchNo + 1, wrote := [] })
  seqAll (fun d s =>
    s.postDone fe { d with status := status, split := d.split, forced := false, cbolt := 0, w2 := if fe then d.w2 else 0, w3 := 0 }) l s1

/-- Aborts the open batch, if there is one. -/
def State.abortOpen (s : State) (fe : Bool) : State := if (s.eng fe).isOpen then s.dropBatch fe 0x1C else s

/-- What running a command gives: a failure, or new standby pages with SLOT, MOVED and the ONCE grants it uses. -/
inductive RunRes (μ : Type) where
  | fail (status : Byte) (detail : Nat)
  | ok (pages : μ) (slot moved : Nat) (once : List Nat)

/-- The command at the head has been counted into the open batch (R92, R93): CMT, or the 2,048th command, closes it. Where the 2,048th
command failed, whose own completion is posted at once, FORCED goes to the last completion posted at the commit, as R92 item 1 says of
the other forced close; a 2,048th command with CMT = 1 closes the batch itself, and no completion carries FORCED (DESIGN CHOICE,
notes/assumptions/46.md). -/
def State.counted (s : State) (fe : Bool) (c : QCmd) (need : List Nat) : State :=
  let s1 := s.modEng fe (fun e => { e with count := e.count + 1, lastAdd := s.bolt })
  if c.cmt then s1.closeBatch fe false need
  else if 2048 ≤ (s1.eng fe).count then s1.closeBatch fe true need else s1

/-- A failed command completes at once; in an open batch it counts (R93). -/
def State.failCmd (s : State) (fe : Bool) (c : QCmd) (status : Byte) (w2 detail : Nat) (need : List Nat) : State :=
  let s1 := s.modEng fe (fun e =>
    { e with st := if e.st = .waitProt then e.base else e.st, waitAt := none, splitNext := false })
  let s2 := s1.postDone fe { (mkDone c status w2 detail) with split := (s.eng fe).splitNext }
  (if (s2.eng fe).isOpen && !c.dry then s2.counted fe c need else s2).popQ fe

/-- A command from another window than the open batch's owner closes the batch, FORCED (R92 item 1). -/
def State.foreignClose (s : State) (fe : Bool) (c : QCmd) (need : List Nat) : State :=
  let e := s.eng fe
  if e.isOpen ∧ e.owner ≠ c.win then s.closeBatch fe true need else s

/-- A successful command enters the batch, opening one where none is open (R92); its completion waits for the commit. -/
def State.addBatch (s : State) (fe : Bool) (c : QCmd) (d : Done) (moved : Nat) (once : List Nat) (need : List Nat) : State :=
  let s1 := s.modEng fe (fun e =>
    let fresh := !e.isOpen
    { e with st := .build, owner := if fresh then c.win else e.owner, batch := e.batch ++ [{ d with split := e.splitNext }],
             moves := e.moves + moved, once := e.once ++ once, waitAt := none, splitNext := false })
  s1.counted fe c need

/-- The command at the head enters the batch and leaves the queue. -/
def State.joinBatch (s : State) (fe : Bool) (c : QCmd) (d : Done) (moved : Nat) (once : List Nat) (need : List Nat) : State :=
  (s.addBatch fe c d moved once need).popQ fe

/-- How many unfinished batches a fence taken now waits for: one committed but not posted, one open or committing (R85). -/
def Engine.fenceNo (e : Engine) : Nat :=
  e.batchNo + (if e.post ≠ [] then 1 else 0) + (if e.isOpen || (e.committing && !e.batch.isEmpty) then 1 else 0)

/-- CMT of a command that itself joins no batch closes the window's open batch after it (R90). -/
def State.cmtClose (s : State) (fe : Bool) (c : QCmd) (need : List Nat) : State :=
  if c.cmt ∧ ¬ c.dry ∧ (s.eng fe).isOpen then s.closeBatch fe false need else s

/-- FENCE is taken: it completes once every earlier command has (R85, R91). -/
def State.takeFence (s : State) (fe : Bool) (c : QCmd) (need : List Nat) : State :=
  if c.dry then (s.popQ fe).postDone fe (mkDone c 1 0 0)
  else
    let n := (s.eng fe).fenceNo
    (((s.modEng fe (fun e => { e with fences := e.fences ++ [(n, mkDone c 0 0 0)] })).postFences fe).cmtClose fe c need).popQ fe

/-- COMMIT: joins and closes the window's open batch; with none it completes OK at once (R91). -/
def State.takeCommit (s : State) (fe : Bool) (c : QCmd) (need : List Nat) : State :=
  if c.dry then (s.popQ fe).postDone fe (mkDone c 1 0 0)
  else if (s.eng fe).isOpen then
    let s1 := s.addBatch fe c (mkDone c 0 0 0) 0 [] need
    (if (s1.eng fe).isOpen then s1.closeBatch fe false need else s1).popQ fe
  else (s.popQ fe).postDone fe (mkDone c 0 0 0)

/-- ABORT: discards the open batch; completes OK (R91, R95). -/
def State.takeAbort (s : State) (fe : Bool) (c : QCmd) : State :=
  if c.dry then (s.popQ fe).postDone fe (mkDone c 1 0 0)
  else (((s.popQ fe).abortOpen fe).postFences fe).postDone fe (mkDone c 0 0 0)

/-- A write to word 7 of a window enqueues its eight words, or drops them with the queue full (R89, R125). -/
def State.enqueue (s : State) (fe : Bool) (win : Nat) : State :=
  let e := s.eng fe
  if engCap fe ≤ e.q.length then (s.incReg (engA fe 0x54)).irq (engA fe 0) 8
  else
    let s1 := s.modEng fe (fun e =>
      { e with q := e.q ++ [{ win := win, ws := (span 0 8).map (fun i => s.reg (engA fe (0x100 + 0x20 * win + 4 * i))) }] })
    s1.when e.q.isEmpty (·.latchCfg fe)

/-- A write to a word of a staging window. -/
def State.windowWrite (s : State) (fe : Bool) (win i : Nat) (v : Word) : State :=
  let s1 := s.setReg (engA fe (0x100 + 0x20 * win + 4 * i)) v
  if i = 7 then s1.enqueue fe win else s1

/-- Word 2 of a thread command's completion: DST, or SRC of TRETAG_IN; 0 in the Treadle's (R94, R128). -/
def QCmd.w2 (fe : Bool) (c : QCmd) : Nat := if ¬ fe then 0 else if c.op = 0x0B then c.srcT else c.dstT

/-- FLUSH_Q: queued commands complete with ABORTED (R105). -/
def State.flushQ (s : State) (fe : Bool) : State :=
  let l := (s.eng fe).q
  let s1 := s.modEng fe (fun e =>
    { e with q := [], st := if e.st = .waitProt then e.base else e.st, waitAt := none, splitNext := false })
  seqAll (fun c s => s.postDone fe (mkDone c 0x1C (c.w2 fe) 0)) l s1

/-- The completions of the committed batch are posted in command order (R83, R95, R130). -/
def State.postBatch (s : State) (fe : Bool) : State :=
  let l := (s.eng fe).post
  if l = [] then s
  else
    let s1 := s.modEng fe (fun e => { e with post := [], batchNo := e.batchNo + 1 })
    seqAll (fun d s => s.postDone fe d) l s1

/-- The engine's side of a commit at the present bolt: SYNC, LAST_BOLT, the COMMIT cause, completions with CBOLT, and the
COMMIT record of the trace (R456). -/
def State.engCommit (s : State) (fe : Bool) : State :=
  let s0 := s.postBatch fe
  let b := s.bolt
  (((s0.modEng fe (fun e =>
    { e with st := .sync, post := e.batch.map (fun d => { d with cbolt := b }), batch := [], count := 0, moves := 0,
             copied := false, once := [], wrote := [] })).setReg (engA fe 0x4C) b).irq (engA fe 0) 1).trace 6 7 (engId fe).toNat b
    (w32 (s.eng fe).count)

/-- A batch that has gone BATCH_TMO bolts without a command is aborted (R92 item 4). -/
def State.batchTimeout (s : State) (fe : Bool) : State :=
  let e := s.eng fe
  if e.isOpen ∧ s.batchTmo fe ≤ since s.bolt e.lastAdd then
    ((s.dropBatch fe 0x1C).postFences fe).irq (engA fe 0) (tmoBit fe)
  else s

end Sys2Proof.Machine
end

