-- ==== Sys2Proof/Machine/Loom.lean ====
section
/-! DEFINITION. Path finding, rearrangement and the Heddle pages (R65-R73, R81, R88, R97-R104). -/
namespace Sys2Proof.Machine

/-! ### Slots -/

/-- The per-group limit of a Reed port (R68). -/
def grpLimit (p : Nat) : Nat := if p = 8 then 2 else 16

/-- Occupied entries of port `p` in the group of slot `x`, in one of the slot maps. -/
def grpCount (m : SMap Word) (p x : Nat) : Nat :=
  (m.filter (fun e => decide (e.1 / 12800 = p ∧ e.1 % 12800 / 20 = x / 20))).length

/-- The ingress side of port `p` can take slot `x` (R67, R68). -/
def HMaps.ingFree (h : HMaps) (p x : Nat) : Bool := !ingValid (h.ingE p x) && decide (grpCount h.ing p x < grpLimit p)
/-- The egress side of port `q` can take slot `x`. -/
def HMaps.reedFree (h : HMaps) (q x : Nat) : Bool := !reedValid (h.reedE q x) && decide (grpCount h.reed q x < grpLimit q)

/-- The lowest slot from `x` up that satisfies `p`, of the next `fuel`. -/
def findSlot (p : Nat → Bool) : Nat → Nat → Option Nat
  | 0, _ => none
  | fuel + 1, x => if p x then some x else findSlot p fuel (x + 1)

/-- Steps 1 and 2 of R97: port `p` source `idx` with tag `ten` to port `q`; the pages and the slot. -/
def HMaps.direct (h : HMaps) (p idx ten q : Nat) : Option (HMaps × Nat) :=
  let sl := h.slotsOf p idx
  match sl.find? (fun x => decide (h.source q x = some (lsrOf p idx))) with
  | some x => some (h, x)
  | none =>
    match sl.find? (fun x => h.reedFree q x) with
    | some x => some (h.setReed q x (mkReed p), x)
    | none =>
      if 4 ≤ sl.length then none
      else match findSlot (fun x => h.ingFree p x && h.reedFree q x) 12800 0 with
        | some x => some ((h.setIng p x (mkIng idx ten)).setReed q x (mkReed p), x)
        | none => none

/-- Where a list of moves takes slot `x` of source port `p`. -/
def movedTo (mv : List (Nat × Nat × Nat)) (p x : Nat) : Nat :=
  match mv.find? (fun m => decide (m.1 = p ∧ m.2.1 = x)) with
  | some m => m.2.2
  | none => x

/-- An entry list after moves: slots replaced, none may meet another. -/
def remap (f : Nat × Word → Nat) (m : SMap Word) : Option (SMap Word) :=
  m.foldl (fun acc e => match acc with
    | none => none
    | some r => if smGet 0 r (f e) = 0 then some (smPut 0 r (f e) e.2) else none) (some [])

/-- Every group of every port is within R68. -/
def withinLimits (m : SMap Word) : Bool := m.all (fun e => decide (grpCount m (e.1 / 12800) (e.1 % 12800) ≤ grpLimit (e.1 / 12800)))

/-- All moves at once (R98): ingress entries, Reed entries and the egress entries that read them, an entry in MODE 0 reading none; none
where R67 or R68 would be broken, or where a move names an empty or absent slot. -/
def HMaps.moveAll (h : HMaps) (mv : List (Nat × Nat × Nat)) : Option HMaps :=
  if ¬ mv.all (fun m => ingValid (h.ingE m.1 m.2.1) && decide (m.1 < 9 ∧ m.2.1 < 12800 ∧ m.2.2 < 12800)) then none
  else
    match remap (fun e => e.1 / 12800 * 12800 + movedTo mv (e.1 / 12800) (e.1 % 12800)) h.ing,
          remap (fun e => e.1 / 12800 * 12800 + movedTo mv (fld e.2 0 4) (e.1 % 12800)) h.reed with
    | some i, some r =>
      if withinLimits i && withinLimits r then
        (let slot := fun (q x : Nat) => let w := h.reedE q x
                                        if reedValid w then movedTo mv (fld w 0 4) x else x
         some { ing := i, reed := r
                eg := h.eg.map (fun e =>
                  let q := lsrPort e.1
                  if egMode e.2 = 0 then e else (e.1, setFld (setFld e.2 0 14 (slot q (egSlot e.2))) 32 14
                    (if egPvalid e.2 then slot q (egPslot e.2) else egPslot e.2))) })
      else none
    | _, _ => none

/-- The ports whose slots `a` and `b` must change places together, from source port `r` in slot `x` (a chain of conflicts). -/
def HMaps.chain (h : HMaps) (a b : Nat) : Nat → List (Nat × Nat) → List (Nat × Nat) → List (Nat × Nat)
  | 0, _, acc => acc
  | _ + 1, [], acc => acc
  | fuel + 1, (r, x) :: t, acc =>
    if (r, x) ∈ acc then h.chain a b fuel t acc
    else
      let y := if x = a then b else a
      let own := if ingValid (h.ingE r y) then [(r, y)] else []
      let outs := (List.range 9).filter (fun q => reedValid (h.reedE q x) && decide (fld (h.reedE q x) 0 4 = r))
      let hit := (outs.filter (fun q => reedValid (h.reedE q y))).map (fun q => (fld (h.reedE q y) 0 4, y))
      h.chain a b fuel (own ++ hit ++ t) ((r, x) :: acc)

/-- The exchange of slots `a` and `b` along the chain that starts at (`r`, `a`). -/
def HMaps.swapMoves (h : HMaps) (a b r : Nat) : List (Nat × Nat × Nat) :=
  (h.chain a b 200 [(r, a)] []).map (fun c => (c.1, c.2, if c.2 = a then b else a))

/-- Each entry of a list is a move: it takes one source on one port to another slot than its own, and no other entry names it (R98). -/
def properMoves (mv : List (Nat × Nat × Nat)) : Bool :=
  mv.all (fun m => decide (m.2.1 ≠ m.2.2)) && decide ((mv.map (fun m => (m.1, m.2.1))).Nodup)

/-- Moves that make steps 1 or 2 succeed within the limit, with the pages and the slot; MOVED is their number (R97). -/
def HMaps.tryMoves (h : HMaps) (mv : List (Nat × Nat × Nat)) (lim p idx ten q : Nat) : Option (HMaps × Nat × Nat) :=
  if mv.isEmpty ∨ lim < mv.length ∨ ¬ properMoves mv then none
  else match h.moveAll mv with
    | none => none
    | some h' => match h'.direct p idx ten q with
      | some (h2, x) => some (h2, x, mv.length)
      | none => none

/-- A search through every list of at most `n` further moves, shortest first at each step: `try_` says whether a list serves. It finds a
list wherever one does. -/
def searchMoves {α : Type} (cands : List (Nat × Nat × Nat)) (try_ : List (Nat × Nat × Nat) → Option α) :
    Nat → List (Nat × Nat × Nat) → Option α
  | 0, mv => try_ mv
  | n + 1, mv => match try_ mv with
    | some r => some r
    | none => cands.findSome? (fun m => searchMoves cands try_ n (mv ++ [m]))

/-- Every move of one source on one port to another slot. -/
def HMaps.moveCands (h : HMaps) : List (Nat × Nat × Nat) :=
  (h.ing.map (fun e => (List.range 12800).map (fun y => (e.1 / 12800, e.1 % 12800, y)))).flatten

/-- A first, quick search: the first pair of slots whose exchange opens the way (step 3 of R97). -/
def HMaps.search (h : HMaps) (lim p idx ten q : Nat) : Option (HMaps × Nat × Nat) :=
  let starts := fun (a : Nat) =>
    (if reedValid (h.reedE q a) then [fld (h.reedE q a) 0 4] else []) ++ (if ingValid (h.ingE p a) then [p] else [])
  let go := fun (a b : Nat) => (starts a).findSome? (fun r => h.tryMoves (h.swapMoves a b r) lim p idx ten q)
  match findSlot (fun a => !(starts a).isEmpty && (findSlot (fun b => decide (b ≠ a) && (go a b).isSome) 12800 0).isSome) 12800 0 with
  | none => none
  | some a => match findSlot (fun b => decide (b ≠ a) && (go a b).isSome) 12800 0 with
    | none => none
    | some b => go a b

/-- The search that R99 promises of a CONNECT: every rearrangement of at most `lim` moves. -/
def HMaps.searchAll (h : HMaps) (lim p idx ten q : Nat) : Option (HMaps × Nat × Nat) :=
  match h.search lim p idx ten q with
  | some r => some r
  | none => searchMoves h.moveCands (fun mv => h.tryMoves mv lim p idx ten q) lim []

/-- R99 covers a connection from source `idx` of port `p`: a unicast one, whose source holds no slot, on a port that uses fewer than
10,240, with MAX_MOVES at least 16. The destination is unconnected where a path is sought. -/
def HMaps.promised (h : HMaps) (lim p idx : Nat) : Bool :=
  decide (16 ≤ lim) && (h.slotsOf p idx).isEmpty && decide ((h.ing.filter (fun e => decide (e.1 / 12800 = p))).length < 10240)

/-- R97 for one leg: pages, slot and connections moved. Step 3 takes the Treadle's own choice where it is a legal one, and else the
model's: at most 16 moves, and any rearrangement that serves, where R99 promises a path. -/
def HMaps.path (h : HMaps) (lim p idx ten q : Nat) (key : Nat × Nat) : Option (HMaps × Nat × Nat) :=
  match h.direct p idx ten q with
  | some (h', x) => some (h', x, 0)
  | none =>
    let sure := h.promised lim p idx
    let m := if sure then 16 else lim
    match h.tryMoves (Config.rearrange h.ing h.reed h.eg key.1 key.2) m p idx ten q with
    | some r => some r
    | none => if sure then h.searchAll m p idx ten q else h.search m p idx ten q

/-- A slot that port `q` no longer reads leaves its Reed entry; one that no port receives leaves its ingress entry (R91, R100). -/
def HMaps.freeSlot (h : HMaps) (q x : Nat) : HMaps :=
  let read := h.eg.any (fun e => decide (lsrPort e.1 = q ∧ egMode e.2 ≠ 0) &&
    (decide (egSlot e.2 = x) || (egPvalid e.2 && decide (egPslot e.2 = x))))
  if read ∨ ¬ reedValid (h.reedE q x) then h
  else
    let p := fld (h.reedE q x) 0 4
    let h1 := h.setReed q x 0
    if (List.range 9).any (fun r => reedValid (h1.reedE r x) && decide (fld (h1.reedE r x) 0 4 = p)) then h1 else h1.setIng p x 0

/-- A destination returns to MODE 0 and the slots it read are freed where nothing else reads them (R91). -/
def HMaps.disconnect (h : HMaps) (d : Nat) : HMaps :=
  let e := h.egE d
  let q := lsrPort d
  let h1 := (h.setEg d 0).freeSlot q (egSlot e)
  if egPvalid e then h1.freeSlot q (egPslot e) else h1

/-! ### Pages -/

/-- The pages that a command runs against: the standby pages, or in SYNC the ones just made active (R85). -/
def State.workPages (s : State) : HMaps := if s.trd.st = .sync then s.loom.act else s.loom.stb

/-- Keys whose values differ between two pages. -/
def diffKeys {α : Type} [DecidableEq α] (d : α) (a b : SMap α) : List Nat :=
  ((a.filter (fun e => decide (smGet d b e.1 ≠ e.2))) ++ (b.filter (fun e => decide (smGet d a e.1 ≠ e.2)))).map (·.1)

/-- The tiles whose maps differ between the pages: 0-7 port tiles, 8 the centre tile (R83). -/
def State.changedTiles (s : State) : List Nat :=
  let a := s.loom.act
  let b := s.loom.stb
  let i := (diffKeys 0 a.ing b.ing).map (fun k => k / 12800)
  let r := if diffKeys 0 a.reed b.reed = [] then [] else [8]
  let e := (diffKeys 0 a.eg b.eg).map lsrPort
  (List.range 9).filter (fun t => decide (t ∈ i ++ r ++ e))

/-- Slots used on a port, and the highest per-group count (R108). -/
def occupancy (m : SMap Word) (p : Nat) : Nat := (m.filter (fun e => decide (e.1 / 12800 = p))).length
def groupMax (m : SMap Word) (p : Nat) : Nat :=
  (m.filter (fun e => decide (e.1 / 12800 = p))).foldl (fun a e => max a (grpCount m p (e.1 % 12800))) 0

/-! ### ECC (R88) -/

/-- Key of the entry that a HeddleRef names, where it is in range (R69). -/
def heddleKey (e : HeddleRef) : Option Nat :=
  if e.map.val < 2 then (if e.idx.toNat < 12800 then some (e.port.val * 12800 + e.idx.toNat) else none)
  else (lsrNo (lsrOf e.port.val e.idx.toNat)).map (fun _ => lsrOf e.port.val e.idx.toNat)

/-- Destinations that an active entry steers: an egress entry its own, a Reed entry those of its port that read its slot, an ingress
entry those that read it through the Reed. PSLOT counts where PVALID is 1. -/
def State.steered (s : State) (map key : Nat) : List Nat :=
  let h := s.loom.act
  let slots := fun (e : BitVec 64) => egSlot e :: (if egPvalid e then [egPslot e] else [])
  match map with
  | 2 => [key]
  | 1 => (h.eg.filter (fun e => decide (lsrPort e.1 = key / 12800 ∧ egMode e.2 ≠ 0 ∧ key % 12800 ∈ slots e.2))).map (·.1)
  | _ => (h.eg.filter (fun e => decide (egMode e.2 ≠ 0) && (slots e.2).any (fun x =>
      decide (x = key % 12800) && decide (fld (h.reedE (lsrPort e.1) x) 0 4 = key / 12800) && reedValid (h.reedE (lsrPort e.1) x)))).map (·.1)

/-- An uncorrectable mark stands on an entry of a page. -/
def State.heddleUnc (s : State) (map key : Nat) (standby : Bool) : Bool :=
  s.loom.ecc.any (fun e => decide (e.map = map ∧ e.key = key) && e.unc && (e.standby == standby))

/-- HEDDLE_ECC_UNCORRECTABLE (R88): the entry is marked, its destinations carry AIS until the reload, and it is counted. -/
def execHeddleEccUncorrectable (e : HeddleRef) (s : State) : Out :=
  match heddleKey e with
  | none => .next s
  | some k =>
    .next (((s.modLoom (fun l =>
      { l with ecc := (l.ecc.filter (fun m => !decide (m.map = e.map.val ∧ m.key = k ∧ m.standby = false))) ++
          [{ map := e.map.val, key := k, standby := false, unc := true, active := true }] })).incReg 0x80105C).irq 0x800000 2)

/-- The reload of a marked entry at its boundary (R88, R133): the mark ends; where the copy used is uncorrectable too, it stays until a
command rewrites the entry. -/
def reload (l : List EccMark) (map key : Nat) (copyUnc : Bool) : List EccMark :=
  if ¬ l.any (fun m => decide (m.map = map ∧ m.key = key) && m.due) then l
  else
    let keep := l.filter (fun m => !decide (m.map = map ∧ m.key = key ∧ m.standby = false))
    let bad := fun (stb : Bool) => ({ map := map, key := key, standby := stb, unc := true, active := true } : EccMark)
    if copyUnc then keep ++ [bad false, bad true] else keep

/-- At a boundary, the marks of the bolt ended fall due, but for those whose copy is bad too. -/
def reloadDue (l : List EccMark) : List EccMark :=
  l.map (fun m => { m with due := m.unc && !m.standby && !l.any (fun n => decide (n.map = m.map ∧ n.key = m.key) && n.standby) })

/-- Every reload that is due. -/
def reloadAll (l : List EccMark) : List EccMark := l.filter (fun m => !m.due)

/-- Marks on the entries that a batch wrote end with its commit. -/
def unmark (l : List EccMark) (wrote : List (Nat × Nat)) : List EccMark := l.filter (fun m => decide ((m.map, m.key) ∉ wrote))

/-- HEDDLE_ENTRY_RELOAD (R88): due at the boundary after the error, where the entry returns to the value last committed for it. -/
def execHeddleEntryReload (e : HeddleRef) (copyUnc : Bool) (s : State) : Out :=
  match heddleKey e with
  | none => .next s
  | some k => .next (s.modLoom (fun l => { l with ecc := reload l.ecc e.map.val k copyUnc }))

/-- Marks on entries that the batch's commands wrote end with the write, whatever value they wrote (R88). -/
def State.clearRewritten (s : State) : State := s.modLoom (fun l => { l with ecc := unmark l.ecc s.trd.wrote })

/-! ### Reading a page (R103, R104) -/

/-- HDL_CMD.READ: BUSY is set until the read is taken. -/
def State.hdlRead (s : State) : State := s.setRf 0x801048 0 1 1

/-- The entry that HDL_SEL names: words 0 and 1 and the uncorrectable mark; none for a bad index. -/
def State.hdlEntry (s : State) : Option (Word × Word × Bool) :=
  let v := s.reg 0x801040
  let map := fld v 0 2
  let stb := bit v 2
  let p := fld v 4 4
  let i := fld v 8 14
  let h := if stb then s.loom.stb else s.loom.act
  match map with
  | 0 => if p < 9 ∧ i < 12800 then some (h.ingE p i, 0, s.heddleUnc 0 (p * 12800 + i) stb) else none
  | 1 => if p < 9 ∧ i < 12800 then some (h.reedE p i, 0, s.heddleUnc 1 (p * 12800 + i) stb) else none
  | 2 => match lsrNo (lsrOf p i) with
    | some _ => let e := h.egE (lsrOf p i)
                some (e.setWidth 32, (e >>> 32).setWidth 32, s.heddleUnc 2 (lsrOf p i) stb)
    | none => none
  | _ => none

/-- A read is taken: data, BADIDX or UNC, and the bolt (R104). -/
def State.hdlReadDone (s : State) : State :=
  let s0 := s.setReg 0x801054 s.bolt
  match s0.hdlEntry with
  | some (a, b, u) => ((s0.setReg 0x801048 (if u then 4 else 0)).setReg 0x80104C a).setReg 0x801050 b
  | none => ((s0.setReg 0x801048 2).setReg 0x80104C 0).setReg 0x801050 0

/-- HDL_READ: a write of HDL_CMD.READ (R104). -/
def execHdlRead (m : Mid) (s : State) : Out :=
  .next (s.write4 m 0x801044 1 (fun s => s.hdlRead))

/-- HDL_READ_DONE (R104): due while HDL_STAT.BUSY is 1. -/
def execHdlReadDone (s : State) : Out := .next (s.when (s.rb 0x801048 0) (·.hdlReadDone))

end Sys2Proof.Machine
end

