-- ==== Sys2Proof/Machine/Treadle.lean ====
section
/-! DEFINITION. The Treadle's commands, batches and armed commit (R76, R80, R83-R86, R89-R102, R105, R109, R111, R180). The
commit itself is in Machine/Commit.lean. -/
namespace Sys2Proof.Machine

/-! ### Checks -/

/-- The status that an endpoint alone gives a command: BAD_ADDR, FINE_UNASSIGNED, PORT_DOWN (R96, R109, R424). -/
def State.epFail (s : State) (x : Nat) (dst : Bool) : Option Byte :=
  match lsrNo x with
  | none => some 0x11
  | some _ =>
    if lsrPort x = 8 then (if bit (s.asg (lsrIdx x)) (if dst then 0 else 1) then none else some 0x19)
    else if s.reach (lsrPort x) then none else some 0x1B

/-- A source that holds a slot, or a connected destination, whose tag is stale (R80, R111). -/
def State.stale (s : State) (h : HMaps) (x : Nat) (dst : Bool) : Bool :=
  if dst then decide (egMode (h.egE x) ≠ 0 ∧ egTen (h.egE x) ≠ s.lsrTen x)
  else (h.slotsOf (lsrPort x) (lsrIdx x)).any (fun k => decide (fld (h.ingE (lsrPort x) k) 14 12 ≠ s.lsrTen x))

/-- R101: the connection would make a skein both skein-switched and thread-switched. -/
def HMaps.threadMode (h : HMaps) (src dst : Nat) : Bool :=
  if lsrPort src = 8 then false
  else
    let fed := (h.fed src).filter (· ≠ dst)
    if lsrPort dst = 8 then !fed.isEmpty else fed.any (fun d => decide (lsrPort d = 8))

/-- Admission of one leg: no tenant check with a Fine loom end (R76). -/
def State.admitLeg (s : State) (src dst : Nat) : Admit :=
  if lsrPort src = 8 ∨ lsrPort dst = 8 then .ok false 0 []
  else s.admits (s.lsrTen src) (s.lsrTen dst) (some (skNo src))

/-- MAX_MOVES as it acts (R106). -/
def State.maxMoves (s : State) : Nat := min 64 (fld (s.engCfg false) 0 7)

/-- A path for one leg into port `q`, or the status that says why not (R97). -/
def State.legPath (s : State) (h : HMaps) (lim src q dst : Nat) : Except Byte (HMaps × Nat × Nat) :=
  match h.path lim (lsrPort src) (lsrIdx src) (s.lsrTen src) q (src, dst) with
  | some r => .ok r
  | none => .error (if 4 ≤ (h.slotsOf (lsrPort src) (lsrIdx src)).length then 0x1A else 0x14)

/-- CONNECT of `src` to `dst`, which is unconnected in `h`, giving it MODE `mode` (R91, R97); `h0`: the pages that the command found,
whose tags R80 checks. The endpoint named as conflicting, which the spec does not fix: SRC for THREAD_MODE, RETAG_NEEDED and TENANT, DST
for NO_PATH and FANOUT (DESIGN CHOICE, notes/assumptions/14.md). -/
def State.runConnect (s : State) (h0 h : HMaps) (src dst mode : Nat) : RunRes HMaps :=
  if h.threadMode src dst then .fail 0x1E src
  else if s.stale h0 src false then .fail 0x1D src
  else match s.admitLeg src dst with
    | .refused => .fail 0x16 src
    | .ok xg xs once =>
      match s.legPath h s.maxMoves src (lsrPort dst) dst with
      | .error e => .fail e dst
      | .ok (h', x, n) => .ok (h'.setEg dst (mkEg x mode (s.lsrTen dst) 0 false xg xs)) x n once

/-- CONNECT (R91). -/
def State.doConnect (s : State) (h : HMaps) (c : QCmd) : RunRes HMaps :=
  match s.epFail c.src false with
  | some e => .fail e c.src
  | none => match s.epFail c.dst true with
    | some e => .fail e c.dst
    | none => if egMode (h.egE c.dst) ≠ 0 then .fail 0x12 c.dst else s.runConnect h h c.src c.dst 1

/-- A destination operand that must be connected. -/
def State.onDst (s : State) (h : HMaps) (c : QCmd) (f : BitVec 64 → RunRes HMaps) : RunRes HMaps :=
  match s.epFail c.dst true with
  | some e => .fail e c.dst
  | none => if egMode (h.egE c.dst) = 0 then .fail 0x13 c.dst else f (h.egE c.dst)

/-- DISCONNECT (R91). -/
def State.doDisconnect (s : State) (h : HMaps) (c : QCmd) : RunRes HMaps :=
  s.onDst h c (fun e => .ok (h.disconnect c.dst) (egSlot e) 0 [])

/-- LOCK, FORCE_AIS, RELEASE: a new MODE, everything else kept (R72, R91). A destination already in that MODE completes OK: the spec gives
such a command no status of its own (DESIGN CHOICE, notes/assumptions/14.md). -/
def State.doMode (s : State) (h : HMaps) (c : QCmd) (mode : Nat) : RunRes HMaps :=
  s.onDst h c (fun e => .ok (h.setEg c.dst (setFld e 14 2 mode)) (egSlot e) 0 [])

/-- RECONNECT: run as a CONNECT onto the same destination (R91, R97, R180). -/
def State.doReconnect (s : State) (h : HMaps) (c : QCmd) : RunRes HMaps :=
  match s.epFail c.src false with
  | some e => .fail e c.src
  | none => s.onDst h c (fun e =>
      if egPvalid e && decide (lsrPort c.dst < 8) then .fail 0x18 c.dst
      else if s.stale h c.dst true then .fail 0x1D c.dst
      else s.runConnect h (h.disconnect c.dst) c.src c.dst (egMode e))

/-- CONNECT_P fits its group (R138, R180). -/
def State.groupFits (s : State) (c : QCmd) : Bool :=
  let q := s.grp c.group
  decide (q.ty ≠ 0 ∧ lsrPort c.dst < 8) && !(q.ty == 4 && decide (lsrPort c.src = 8 ∨ lsrPort c.src2 = 8)) &&
    (s.members c.group).any (fun m => decide (m.2.2 = c.dst ∧ m.2.1 = c.src)) && decide (s.protLeg c.group = c.src2)

/-- CONNECT_P (R76, R91, R97, R180). -/
def State.doConnectP (s : State) (h : HMaps) (c : QCmd) : RunRes HMaps :=
  match s.epFail c.src false, s.epFail c.src2 false, s.epFail c.dst true with
  | some e, _, _ => .fail e c.src
  | none, some e, _ => .fail e c.src2
  | none, none, some e => .fail e c.dst
  | none, none, none =>
    if egMode (h.egE c.dst) ≠ 0 then .fail 0x12 c.dst
    else if ¬ s.groupFits c then .fail 0x18 c.dst
    else if h.threadMode c.src c.dst ∨ (lsrPort c.src = 8) ≠ (lsrPort c.src2 = 8) then .fail 0x1E c.src
    else if h.threadMode c.src2 c.dst then .fail 0x1E c.src2
    else if s.stale h c.src false then .fail 0x1D c.src
    else if s.stale h c.src2 false then .fail 0x1D c.src2
    else match s.admitLeg c.src c.dst, s.admitLeg c.src2 c.dst with
      | .refused, _ => .fail 0x16 c.src
      | _, .refused => .fail 0x16 c.src2
      | .ok x1 t1 o1, .ok x2 t2 o2 =>
        if x1 ∧ x2 ∧ t1 ≠ t2 then .fail 0x16 c.src2
        else match s.legPath h s.maxMoves c.src (lsrPort c.dst) c.dst with
          | .error e => .fail e c.dst
          | .ok (h1, a, n) =>
            let h2 := h1.setEg c.dst (mkEg a 1 (s.lsrTen c.dst) 0 false (x1 || x2) (if x1 then t1 else t2))
            match s.legPath h2 (s.maxMoves - n) c.src2 (lsrPort c.dst) c.dst with
            | .error e => .fail e c.dst
            | .ok (h3, b, k) =>
              let a' := egSlot (h3.egE c.dst)
              .ok (h3.setEg c.dst (mkEg a' 1 (s.lsrTen c.dst) b true (x1 || x2) (if x1 then t1 else t2))) a' (n + k) (o1 ++ o2)

/-- A destination's admission after a RETAG of `x` (R80): its entry with XG and XSRC_TEN, or none where a leg fails R76. -/
def State.recheck (s : State) (h : HMaps) (d : Nat) : Option (BitVec 64 × List Nat) :=
  let e := h.egE d
  let r := (h.legs d).map (fun x => s.admitLeg x d)
  let xs := r.filterMap (fun a => match a with | .ok true t _ => some t | _ => none)
  if r.any (· == .refused) ∨ xs.any (fun t => decide (some t ≠ xs.head?)) then none
  else
    let once := (r.map (fun a => match a with | .ok _ _ o => o | .refused => [])).flatten
    match xs with
    | t :: _ => some (setFld (setBit e 47 true) 48 12 t, once)
    | [] => some (e, once)

/-- Destinations whose connections a RETAG of `x` touches: those it feeds, and its own. -/
def HMaps.touched (h : HMaps) (x : Nat) : List Nat :=
  (h.fed x).filter (· ≠ x) ++ (if egMode (h.egE x) ≠ 0 then [x] else [])

/-- The tags of skein or position `x` rewritten from the table: TEN, TENANT, and XSRC_TEN of entries it feeds under a grant. -/
def State.retagged (s : State) (h : HMaps) (x : Nat) : HMaps :=
  let t := s.lsrTen x
  let p := lsrPort x
  let h1 : HMaps := { h with ing := h.ing.map (fun (e : Nat × Word) =>
    if e.1 / 12800 = p ∧ fld e.2 0 14 = lsrIdx x ∧ ingValid e.2 then (e.1, setFld e.2 14 12 t) else e) }
  let h2 := h1.setEg x (setFld (h1.egE x) 16 12 t)
  (h2.fed x).foldl (fun h d => if egXg (h.egE d) then h.setEg d (setFld (h.egE d) 48 12 t) else h) h2

/-- Connections that a RETAG of `x` finds failing R76 (R80). -/
def State.retagBad (s : State) (h : HMaps) (x : Nat) : List Nat :=
  if lsrPort x = 8 then []
  else
    let h1 := s.retagged h x
    (h1.touched x).filter (fun d => (s.recheck h1 d).isNone)

/-- RETAG (R80, R111). Of several failing connections, DETAIL names the first (DESIGN CHOICE, notes/assumptions/14.md). -/
def State.doRetag (s : State) (h : HMaps) (c : QCmd) : RunRes HMaps :=
  let x := c.src
  match (match s.epFail x false with
    | some 0x19 => if lsrPort x = 8 ∧ bit (s.asg (lsrIdx x)) 0 then none else some 0x19
    | r => r) with
  | some e => .fail e x
  | none =>
    let h1 := s.retagged h x
    if lsrPort x = 8 then .ok h1 0 0 []
    else
      let bad := s.retagBad h x
      if bad ≠ [] ∧ ¬ c.force then .fail 0x16 (bad.headD 0)
      else
        let h2 := bad.foldl (fun h d => h.disconnect d) h1
        let r := (h2.touched x).foldl (fun (a : HMaps × List Nat) d =>
          match s.recheck a.1 d with
          | some (e, o) => (a.1.setEg d e, a.2 ++ o)
          | none => a) (h2, [])
        .ok r.1 0 0 r.2

/-- Port `q` takes slot `a` of a source in place of that source's slot `x`: the Reed entry moves, and the egress entries that read it (R98,
R100), an entry in MODE 0 reading none; none where R67 or R68 would be broken. -/
def HMaps.backTo (h : HMaps) (p x a q : Nat) : Option HMaps :=
  let src := lsrOf p (fld (h.ingE p x) 0 14)
  let own := decide (h.source q a = some src)
  let room := !reedValid (h.reedE q a) && (decide (x / 20 = a / 20) || decide (grpCount h.reed q a < grpLimit q))
  if decide (h.source q x = some src) && (own || room) then
    let h1 := (if own then h else h.setReed q a (mkReed p)).setReed q x 0
    let move := fun (e : BitVec 64) =>
      if egMode e = 0 then e
      else setFld (if egSlot e = x then setFld e 0 14 a else e) 32 14 (if egPvalid e ∧ egPslot e = x then a else egPslot e)
    let h2 : HMaps := { h1 with eg := h1.eg.map (fun (g : Nat × BitVec 64) => if lsrPort g.1 = q then (g.1, move g.2) else g) }
    some (if (List.range 9).any (fun r => decide (h2.source r x = some src)) then h2 else h2.setIng p x 0)
  else none

/-- One step of DEFRAG: of the first slot, by port and slot, for which there is one: a port that receives it as a source's second or
later slot takes the first one instead (R100), or the slot moves to the lowest-numbered one that R67 and R68 allow (R102). A source's
first slot is its lowest-numbered one, which the spec does not say (DESIGN CHOICE, notes/assumptions/14.md). -/
def HMaps.defragOne (h : HMaps) : Option HMaps :=
  h.ing.findSome? (fun e =>
    let p := e.1 / 12800
    let x := e.1 % 12800
    let first := (h.slotsOf p (fld e.2 0 14)).headD x
    let lower := match findSlot (fun b => (h.moveAll [(p, x, b)]).isSome) x 0 with
      | some b => h.moveAll [(p, x, b)]
      | none => none
    if first ≠ x then ((List.range 9).findSome? (fun q => h.backTo p x first q)).or lower else lower)

/-- DEFRAG up to a number of moves: the pages and how many were made (R102). A port that goes back to a source's first slot counts as one
move, however many of its destinations read the slot (DESIGN CHOICE, notes/assumptions/14.md). -/
def HMaps.defrag : Nat → HMaps → HMaps × Nat
  | 0, h => (h, 0)
  | n + 1, h => match h.defragOne with
    | some h' => let r := HMaps.defrag n h'
                 (r.1, r.2 + 1)
    | none => (h, 0)

/-- DEFRAG (R91, R102). -/
def State.doDefrag (s : State) (h : HMaps) (c : QCmd) : RunRes HMaps :=
  let r := HMaps.defrag (if c.movesOp = 0 then s.maxMoves else c.movesOp) h
  .ok r.1 0 r.2 []

/-- Groups whose legs a command adds, removes or replaces, with the protected destination (R86): of a RETAG, those whose connections it
disconnects. -/
def State.cmdGroups (s : State) (h : HMaps) (c : QCmd) : List (Nat × Nat) :=
  let prot := fun (d : Nat) =>
    if egPvalid (h.egE d) ∧ egMode (h.egE d) ≠ 0 then ((s.dstGroup d).map (fun x => (x.1, d))).toList else []
  match c.op with
  | 0x02 => prot c.dst
  | 0x03 => [(c.group, c.dst)]
  | 0x04 => prot c.dst
  | 0x0B => if c.force then ((s.retagBad h c.src).map prot).flatten else []
  | _ => []

/-- The destination whose group the command at the head waits for, if it waits. -/
def State.waitsFor (s : State) (h : HMaps) (c : QCmd) : Option Nat :=
  ((s.cmdGroups h c).find? (fun x => s.grpBusy x.1)).map (·.2)

/-- Entries that a command wrote: its destination's, those of a RETAG, and every other one whose value changed. -/
def cmdWrote (h h' : HMaps) (c : QCmd) : List (Nat × Nat) :=
  (diffKeys 0 h.ing h'.ing).map (fun k => (0, k)) ++ (diffKeys 0 h.reed h'.reed).map (fun k => (1, k)) ++
    (diffKeys 0 h.eg h'.eg).map (fun k => (2, k)) ++
    (if c.op ≤ 0x07 then [(2, c.dst)] else []) ++
    (if c.op = 0x0B then
      (h'.slotsOf (lsrPort c.src) (lsrIdx c.src)).map (fun x => (0, lsrPort c.src * 12800 + x)) ++
        (c.src :: (h'.fed c.src).filter (fun d => egXg (h'.egE d))).map (fun d => (2, d)) else [])

/-- Runs the command at the queue head where its opcode is `op` (R85, R86, R92, R93): a foreign window's open batch is closed
first; while a commit is armed or syncing only a DRY command runs; a busy group makes it wait. Its completion keeps the SLOT it found,
also where a later command of the batch moves the connection (DESIGN CHOICE, notes/assumptions/46.md). -/
def State.trdCmd (s : State) (op : Nat) (run : State → HMaps → QCmd → RunRes HMaps) : State :=
  match s.trd.q with
  | [] => s
  | c :: _ =>
    if c.op ≠ op then s
    else
      let s1 := s.foreignClose false c s.changedTiles
      if s1.trd.committing ∧ ¬ c.dry then s1
      else if ¬ c.dry ∧ (s1.waitsFor s1.workPages c).isSome then
        s1.modTrd (fun e => { e with st := .waitProt, waitAt := match e.waitAt with | some b => some b | none => some s.bolt })
      else match run s1 s1.workPages c with
        | .fail st d => s1.failCmd false c st 0 d s1.changedTiles
        | .ok h x n once =>
          if c.dry then (s1.popQ false).postDone false (mkDone c 1 (x + n * 2 ^ 14) 0)
          else if s1.trd.isOpen ∧ 4096 < s1.trd.moves + n then
            (s1.closeBatch false false s1.changedTiles).modTrd (fun e => { e with splitNext := true })
          else
            let s2 := (s1.modLoom (fun l => { l with stb := h })).modTrd (fun e =>
              { e with wrote := e.wrote ++ cmdWrote s1.workPages h c })
            s2.joinBatch false c (mkDone c 0 (x + n * 2 ^ 14) 0) n once s2.changedTiles

/-- Runs a command that changes no page (R85): taken in every state. -/
def State.trdFree (s : State) (ok : Nat → Bool) (take : State → QCmd → State) : State :=
  match s.trd.q with
  | [] => s
  | c :: _ => if ok c.op then take (s.foreignClose false c s.changedTiles) c else s

/-! ### Meanings -/

/-- TRD_ENQUEUE: a write to word 7 of a window (R89). -/
def execTrdEnqueue (m : Mid) (win : Fin 4) (v : Word) (s : State) : Out :=
  .next (s.write4 m (trdA (0x11C + 0x20 * win.val)) v (fun s => (s.windowWrite false win.val 7 v)))

/-- CONNECT (R97). -/
def execConnect (s : State) : Out := .next (s.trdCmd 0x01 State.doConnect)
/-- DISCONNECT (R91). -/
def execDisconnect (s : State) : Out := .next (s.trdCmd 0x02 State.doDisconnect)
/-- CONNECT_P (R180). -/
def execConnectP (s : State) : Out := .next (s.trdCmd 0x03 State.doConnectP)
/-- RECONNECT (R91, R97). -/
def execReconnect (s : State) : Out := .next (s.trdCmd 0x04 State.doReconnect)
/-- LOCK: MODE 2 (R91). -/
def execLock (s : State) : Out := .next (s.trdCmd 0x05 (fun s h c => s.doMode h c 2))
/-- FORCE_AIS: MODE 3 (R91). -/
def execForceAis (s : State) : Out := .next (s.trdCmd 0x06 (fun s h c => s.doMode h c 3))
/-- RELEASE: back to MODE 1 (R91). -/
def execRelease (s : State) : Out := .next (s.trdCmd 0x07 (fun s h c => s.doMode h c 1))
/-- COMMIT (R91). -/
def execCommit (s : State) : Out :=
  .next (s.trdFree (· == 0x08) (fun s c => s.takeCommit false c s.changedTiles))
/-- ABORT (R91). -/
def execAbort (s : State) : Out := .next (s.trdFree (· == 0x09) (fun s c => s.takeAbort false c))
/-- DEFRAG (R102). -/
def execDefrag (s : State) : Out := .next (s.trdCmd 0x0A State.doDefrag)
/-- RETAG (R80). -/
def execRetag (s : State) : Out := .next (s.trdCmd 0x0B State.doRetag)

/-- QUERY: completes at once with the active entry (R91, R92, R94). -/
def State.doQuery (s : State) (c : QCmd) : State :=
  match s.epFail c.dst true with
  | some e => s.failCmd false c e 0 c.dst s.changedTiles
  | none =>
    let e := s.loom.act.egE c.dst
    ((s.postDone false (mkDone c (if c.dry then 1 else 0) (egSlot e) (e.setWidth 32).toNat)).cmtClose false c s.changedTiles).popQ false

/-- QUERY (R91). -/
def execQuery (s : State) : Out := .next (s.trdFree (· == 0x0C) State.doQuery)
/-- FENCE (R91). -/
def execFence (s : State) : Out := .next (s.trdFree (· == 0x0D) (fun s c => s.takeFence false c s.changedTiles))
/-- FENCE_DONE (R85): the fences whose earlier commands have completed. -/
def execFenceDone (s : State) : Out := .next (s.postFences false)

/-- TRD_BAD_OPCODE: any opcode outside the table fails (R91); DETAIL is 0 (notes/assumptions/14.md). -/
def execTrdBadOpcode (s : State) : Out :=
  .next (match s.trd.q with
    | [] => s
    | c :: _ => if 1 ≤ c.op ∧ c.op ≤ 0x0D then s else s.trdCmd c.op (fun _ _ _ => .fail 0x10 0))

/-- TRD_ARM (R83): in a bolt after the one building ended in, an arm message goes to every tile whose maps change. -/
def execTrdArm (s : State) : Out :=
  .next (if s.trd.st = .armed ∧ ¬ s.trd.armSent ∧ 1 ≤ since s.bolt s.trd.armBolt then
    (seqAll (fun t s => s.emit (.armMsg t)) s.trd.need s).modTrd (fun e => { e with armSent := true })
  else s)

/-- TILE_ARM_ACK (R83): a tile acknowledges. -/
def execTileArmAck (t : Fin 9) (s : State) : Out :=
  .next (if s.trd.st = .armed ∧ s.trd.armSent ∧ t.val ∈ s.trd.need ∧ t.val ∉ s.trd.acks then
    s.modTrd (fun e => { e with acks := e.acks ++ [t.val] })
  else s)

/-- Every tile the batch touches has acknowledged. -/
def Engine.allAcked (e : Engine) : Bool := e.armSent && e.need.all (fun t => decide (t ∈ e.acks))

/-- A commit falls at the present boundary: armed for it, every touched tile acknowledged (R83, R84). -/
def State.commitDue (s : State) : Bool := s.trd.st == .armed && decide (s.bolt = s.reg (trdA 0x48)) && s.trd.allAcked

/-- Round 600 of the bolt before the target: an unacknowledged commit moves on by a bolt; the third failure aborts the batch with
TILE_FAIL (R84). A tile that has acknowledged keeps its acknowledgement through the next tries: the spec does not say whether it must
acknowledge again (DESIGN CHOICE, notes/assumptions/14.md). -/
def State.armDeadline (s : State) : State :=
  if s.trd.st = .armed ∧ s.bolt + 1 = s.reg (trdA 0x48) ∧ ¬ s.trd.allAcked then
    (if 2 ≤ s.trd.tries then ((s.dropBatch false 0x1F).postFences false).irq (trdA 0) 0x20
     else (s.modTrd (fun e => { e with tries := e.tries + 1, armSent := false })).setReg (trdA 0x48) (s.reg (trdA 0x48) + 1))
  else s

/-- ARM_DEADLINE (R84). -/
def execArmDeadline (s : State) : Out := .next s.armDeadline

/-- The batch's changes are in the new standby page and STATE goes to IDLE (R83). -/
def State.copyDone (s : State) : State :=
  if s.trd.st = .sync then (s.modLoom (fun l => { l with stb := l.act })).modTrd (fun e => { e with st := .idle, copied := true }) else s

/-- STANDBY_COPY_DONE (R83). -/
def execStandbyCopyDone (s : State) : Out := .next s.copyDone

/-- TRD_COMPLETIONS_POST (R95). -/
def execTrdCompletionsPost (s : State) : Out := .next (s.postBatch false)

/-- TRD_BATCH_TIMEOUT (R92 item 4). -/
def execTrdBatchTimeout (s : State) : Out := .next (s.batchTimeout false)

/-- PWAIT_EXPIRE (R86): the head fails with PROT_BUSY after PWAIT bolts on a busy group. DETAIL is the protected destination (R94). -/
def execPwaitExpire (s : State) : Out :=
  .next (match s.trd.q, s.trd.waitAt with
    | c :: _, some b =>
      (match s.waitsFor s.workPages c with
        | some d => if s.trd.st = .waitProt ∧ atLeast1 (fld (s.engCfg false) 16 8) ≤ since s.bolt b then
            s.failCmd false c 0x17 0 d s.changedTiles else s
        | none => s)
    | _, _ => s)

/-- A write of TRD_CMD_CTRL or FINE_CMD_CTRL (R105, R140). -/
def State.cmdCtrl (s : State) (fe : Bool) (v : Word) : State :=
  let s1 := if bit v 0 then (s.abortOpen fe).postFences fe else s
  if bit v 1 then s1.flushQ fe else s1

/-- TRD_ABORT_OPEN: a write of TRD_CMD_CTRL.ABORT_OPEN (R105). -/
def execTrdAbortOpen (m : Mid) (s : State) : Out :=
  .next (s.write4 m (trdA 0x58) 1 (fun s => (s.cmdCtrl false 1)))

/-- TRD_FLUSH_Q: a write of TRD_CMD_CTRL.FLUSH_Q (R105). -/
def execTrdFlushQ (m : Mid) (s : State) : Out :=
  .next (s.write4 m (trdA 0x58) 2 (fun s => (s.cmdCtrl false 2)))

end Sys2Proof.Machine
end

