-- ==== Sys2Proof/Machine/FineLoom.lean ====
section
/-! DEFINITION. The Fine loom: its thread command engine, maps, assignment table and interchange (R109-R143). -/
namespace Sys2Proof.Machine

/-! ### Commands -/

/-- The pages a thread command runs against (R85). -/
def State.fineWork (s : State) : FMaps := if s.fine.eng.st = .sync then s.fine.act else s.fine.stb

/-- BAD_ADDR or FINE_UNASSIGNED of a thread endpoint (R109, R128). -/
def State.tFail (s : State) (t : Nat) (out : Bool) : Option Byte :=
  if ¬ trefValid t then some 0x11
  else if bit (s.asg (t / 128)) (if out then 1 else 0) then none else some 0x19

/-- The trunk skein that feeds input `f` through the active Heddle (R122). -/
def State.inputSkein (s : State) (f : Nat) : Option Nat :=
  match s.loom.act.legs (lsrOf 8 f) with
  | x :: _ => if lsrPort x < 8 then some (skNo x) else none
  | [] => none

/-- Admission of input thread `a` to output thread `d` by the table (R122). -/
def State.admitT (s : State) (a d : Nat) : Admit :=
  s.admits (s.threadTen false a) (s.threadTen true d) (s.inputSkein (a / 128))

/-- Input thread `a` onto output thread `d` with MODE `mode` (R122, R123). Word 3 names SRC where the tag is stale or the tenants differ:
R128 does not say which TREF is the conflicting one (DESIGN CHOICE, notes/assumptions/14.md). -/
def State.runT (s : State) (f : FMaps) (a d mode : Nat) : RunRes FMaps :=
  if f.tagE a ≠ s.threadTen false a then .fail 0x1D a
  else match s.admitT a d with
    | .refused => .fail 0x16 a
    | .ok xg xs once => .ok (f.setOut d (mkOut a mode xg (s.threadTen true d) xs)) 0 0 once

/-- TCONNECT. SRC is checked before DST, then MODE, the tag and the tenants: the spec gives several failing checks no order (DESIGN CHOICE,
notes/assumptions/14.md, of every thread command). -/
def State.doTconnect (s : State) (f : FMaps) (c : QCmd) : RunRes FMaps :=
  match s.tFail c.srcT false with
  | some e => .fail e c.srcT
  | none => match s.tFail c.dstT true with
    | some e => .fail e c.dstT
    | none => if outMode (f.outE c.dstT) ≠ 0 then .fail 0x12 c.dstT else s.runT f c.srcT c.dstT 1

/-- A DST that must be connected. -/
def State.onOut (s : State) (f : FMaps) (c : QCmd) (k : BitVec 64 → RunRes FMaps) : RunRes FMaps :=
  match s.tFail c.dstT true with
  | some e => .fail e c.dstT
  | none => if outMode (f.outE c.dstT) = 0 then .fail 0x13 c.dstT else k (f.outE c.dstT)

/-- TDISCONNECT: the whole entry returns to zero, where R126 gives only MODE 0 (DESIGN CHOICE, notes/assumptions/46.md). -/
def State.doTdisconnect (s : State) (f : FMaps) (c : QCmd) : RunRes FMaps := s.onOut f c (fun _ => .ok (f.setOut c.dstT 0) 0 0 [])

/-- TRECONNECT (R123): a thread in MODE 2 or 3 keeps its MODE (DESIGN CHOICE, notes/assumptions/46.md). -/
def State.doTreconnect (s : State) (f : FMaps) (c : QCmd) : RunRes FMaps :=
  match s.tFail c.srcT false with
  | some e => .fail e c.srcT
  | none => s.onOut f c (fun e =>
      if outTen e ≠ s.threadTen true c.dstT then .fail 0x1D c.dstT else s.runT f c.srcT c.dstT (outMode e))

/-- TLOCK, TFORCE_AIS, TRELEASE: a new MODE, SRC kept (R119). -/
def State.doTmode (s : State) (f : FMaps) (c : QCmd) (mode : Nat) : RunRes FMaps :=
  s.onOut f c (fun e => .ok (f.setOut c.dstT (setFld e 18 2 mode)) 0 0 [])

/-- The entry of output `d` after a fresh admission, or none where it fails (R123). -/
def State.recheckT (s : State) (f : FMaps) (d : Nat) : Option (BitVec 64 × List Nat) :=
  let e := f.outE d
  match s.admitT (outSrc e) d with
  | .refused => none
  | .ok true t o => some (setFld (setBit e 20 true) 44 12 t, o)
  | .ok false _ o => some (e, o)

/-- Re-checks a list of outputs: with FORCE each failing one is disconnected, without it the command fails (R123), and word 3 names the
first failing one, as R128 does not say which (DESIGN CHOICE, notes/assumptions/14.md). -/
def State.recheckAll (s : State) (f : FMaps) (c : QCmd) (l : List Nat) : RunRes FMaps :=
  let bad := l.filter (fun d => (s.recheckT f d).isNone)
  if bad ≠ [] ∧ ¬ c.force then .fail 0x16 (bad.headD 0)
  else
    let r := l.foldl (fun (a : FMaps × List Nat) d => match s.recheckT a.1 d with
      | some (e, o) => (a.1.setOut d e, a.2 ++ o)
      | none => (a.1.setOut d 0, a.2)) (f, [])
    .ok r.1 0 0 r.2

/-- TRETAG_IN (R123). -/
def State.doTretagIn (s : State) (f : FMaps) (c : QCmd) : RunRes FMaps :=
  match s.tFail c.srcT false with
  | some e => .fail e c.srcT
  | none =>
    let t := s.threadTen false c.srcT
    let f1 := f.setTag c.srcT t
    let f2 := (f1.fed c.srcT).foldl (fun f d => if outXg (f.outE d) then f.setOut d (setFld (f.outE d) 44 12 t) else f) f1
    s.recheckAll f2 c (f2.fed c.srcT)

/-- TRETAG_OUT (R123). -/
def State.doTretagOut (s : State) (f : FMaps) (c : QCmd) : RunRes FMaps :=
  match s.tFail c.dstT true with
  | some e => .fail e c.dstT
  | none =>
    let f1 := f.setOut c.dstT (setFld (f.outE c.dstT) 32 12 (s.threadTen true c.dstT))
    s.recheckAll f1 c (if outMode (f1.outE c.dstT) ≠ 0 then [c.dstT] else [])

/-- Entries that a thread command wrote: its output's or its input tag, and every other one whose value changed (R133). -/
def threadWrote (f f' : FMaps) (c : QCmd) : List (Nat × Nat) :=
  (diffKeys 0 f.out f'.out).map (fun k => (0, k)) ++ (diffKeys 0 f.tag f'.tag).map (fun k => (1, k)) ++
    (if c.op = 0x0B then (1, c.srcT) :: ((f'.fed c.srcT).filter (fun d => outXg (f'.outE d))).map (fun d => (0, d)) else [(0, c.dstT)])

/-- Runs the thread command at the queue head where its opcode is `op` (R126, R127). `w2`: what word 2 of the completion holds. -/
def State.fineCmd (s : State) (op : Nat) (w2 : QCmd → Nat) (run : State → FMaps → QCmd → RunRes FMaps) : State :=
  match s.fine.eng.q with
  | [] => s
  | c :: _ =>
    if c.op ≠ op then s
    else
      let s1 := s.foreignClose true c []
      if s1.fine.eng.committing ∧ ¬ c.dry then s1
      else match run s1 s1.fineWork c with
        | .fail st d => s1.failCmd true c st (w2 c) d []
        | .ok f _ _ once =>
          if c.dry then (s1.popQ true).postDone true (mkDone c 1 (w2 c) 0)
          else ((s1.modFine (fun x => { x with stb := f })).modFe (fun e =>
            { e with wrote := e.wrote ++ threadWrote s1.fineWork f c })).joinBatch true c (mkDone c 0 (w2 c) 0) 0 once []

/-- Runs a thread command that changes no page. -/
def State.fineFree (s : State) (op : Nat) (take : State → QCmd → State) : State :=
  match s.fine.eng.q with
  | [] => s
  | c :: _ => if c.op = op then take (s.foreignClose true c []) c else s

/-- FINE_ENQUEUE: a write to word 7 of a window (R125). -/
def execFineEnqueue (m : Mid) (win : Fin 4) (v : Word) (s : State) : Out :=
  .next (s.write4 m (fineA (0x11C + 0x20 * win.val)) v (fun s => (s.windowWrite true win.val 7 v)))

/-- TCONNECT (R126). -/
def execTconnect (s : State) : Out := .next (s.fineCmd 0x01 QCmd.dstT State.doTconnect)
/-- TDISCONNECT (R126). -/
def execTdisconnect (s : State) : Out := .next (s.fineCmd 0x02 QCmd.dstT State.doTdisconnect)
/-- TRECONNECT (R126). -/
def execTreconnect (s : State) : Out := .next (s.fineCmd 0x04 QCmd.dstT State.doTreconnect)
/-- TLOCK (R126). -/
def execTlock (s : State) : Out := .next (s.fineCmd 0x05 QCmd.dstT (fun s f c => s.doTmode f c 2))
/-- TFORCE_AIS (R126). -/
def execTforceAis (s : State) : Out := .next (s.fineCmd 0x06 QCmd.dstT (fun s f c => s.doTmode f c 3))
/-- TRELEASE (R126). -/
def execTrelease (s : State) : Out := .next (s.fineCmd 0x07 QCmd.dstT (fun s f c => s.doTmode f c 1))
/-- COMMIT of the Fine loom's queue (R126). -/
def execFineCommit (s : State) : Out := .next (s.fineFree 0x08 (fun s c => s.takeCommit true c []))
/-- ABORT of the Fine loom's queue (R126). -/
def execFineAbort (s : State) : Out := .next (s.fineFree 0x09 (fun s c => s.takeAbort true c))
/-- TRETAG_IN (R123). -/
def execTretagIn (s : State) : Out := .next (s.fineCmd 0x0B QCmd.srcT State.doTretagIn)
/-- TRETAG_OUT (R123). -/
def execTretagOut (s : State) : Out := .next (s.fineCmd 0x0E QCmd.dstT State.doTretagOut)

/-- TQUERY: completes at once with the active entry's word 0 (R126, R128). -/
def State.doTquery (s : State) (c : QCmd) : State :=
  match s.tFail c.dstT true with
  | some e => s.failCmd true c e c.dstT c.dstT []
  | none =>
    ((s.postDone true (mkDone c (if c.dry then 1 else 0) c.dstT ((s.fine.act.outE c.dstT).setWidth 32).toNat)).cmtClose true c []).popQ
      true

/-- TQUERY (R126). -/
def execTquery (s : State) : Out := .next (s.fineFree 0x0C State.doTquery)
/-- FENCE of the Fine loom's queue (R126). -/
def execFineFence (s : State) : Out := .next (s.fineFree 0x0D (fun s c => s.takeFence true c []))
/-- FINE_FENCE_DONE (R127). -/
def execFineFenceDone (s : State) : Out := .next (s.postFences true)

/-- FINE_BAD_OPCODE: any opcode outside the table of R126 fails; word 3 is 0, as no endpoint conflicts (DESIGN CHOICE,
notes/assumptions/14.md). -/
def execFineBadOpcode (s : State) : Out :=
  .next (match s.fine.eng.q with
    | [] => s
    | c :: _ =>
      if c.op ∈ [1, 2, 4, 5, 6, 7, 8, 9, 0xB, 0xC, 0xD, 0xE] then s
      else s.fineCmd c.op QCmd.dstT (fun _ _ _ => .fail 0x10 0))

/-- A commit of the thread maps falls at the present boundary. -/
def State.fineDue (s : State) : Bool := s.fine.eng.st == .armed && decide (s.bolt = s.reg (fineA 0x48))

/-- The commit of the thread maps (R129, R130): both swap; ONCE grants it used are cleared (R122). -/
def State.fineCommit (s : State) : State :=
  let a := s.fine.act
  let b := s.fine.stb
  let s1 := s.clearOnce s.fine.eng.once
  (s1.modFine (fun f =>
    { f with act := b, stb := a, prev := a, phys := !f.phys, ecc := unmark f.ecc f.eng.wrote })).engCommit true

/-- FINE_LOOM_COMMIT (R129): due at the target boundary. -/
def execFineLoomCommit (s : State) : Out := .next (s.when s.fineDue (·.fineCommit))

/-- The changes are in the new standby page, completions are posted, STATE goes to IDLE (R130). -/
def State.finePost (s : State) : State :=
  if s.fine.eng.st = .sync then
    ((s.modFine (fun f => { f with stb := f.act })).postBatch true).modFe (fun e => { e with st := .idle, copied := true })
  else s

/-- FINE_COMPLETIONS_POST (R130). -/
def execFineCompletionsPost (s : State) : Out := .next s.finePost

/-- FINE_BATCH_TIMEOUT (R127). -/
def execFineBatchTimeout (s : State) : Out := .next (s.batchTimeout true)

/-- FINE_ABORT_OPEN: a write of FINE_CMD_CTRL.ABORT_OPEN (R140). -/
def execFineAbortOpen (m : Mid) (s : State) : Out :=
  .next (s.write4 m (fineA 0x58) 1 (fun s => (s.cmdCtrl true 1)))

/-- FINE_FLUSH_Q: a write of FINE_CMD_CTRL.FLUSH_Q (R140). -/
def execFineFlushQ (m : Mid) (s : State) : Out :=
  .next (s.write4 m (fineA 0x58) 2 (fun s => (s.cmdCtrl true 2)))

/-! ### Assignment (R109, R110, R142) -/

/-- Input `f` is still named by a Heddle or thread map entry of a page. -/
def inUse (h : HMaps) (t : FMaps) (f : Nat) : Bool :=
  decide (egMode (h.egE (lsrOf 8 f)) ≠ 0) || t.out.any (fun e => decide (outMode e.2 ≠ 0 ∧ outSrc e.2 / 128 = f))

/-- Output `f` is still named by a Heddle entry, or a thread of it is not MODE 0. -/
def outUse (h : HMaps) (t : FMaps) (f : Nat) : Bool :=
  !(h.slotsOf 8 f).isEmpty || t.out.any (fun e => decide (e.1 / 128 = f ∧ outMode e.2 ≠ 0))

/-- A write of FINE_ASG[f]: one that clears an enable in use is ignored and logged (R110). -/
def State.asgWrite (s : State) (f : Nat) (v : Word) : State :=
  let o := s.asg f
  let badIn := bit o 0 && !bit v 0 && (inUse s.loom.act s.fine.act f || inUse s.loom.stb s.fine.stb f)
  let badOut := bit o 1 && !bit v 1 && (outUse s.loom.act s.fine.act f || outUse s.loom.stb s.fine.stb f)
  if badIn || badOut then s.setReg (fineA 0x20) (w32 (f + 2 ^ 31)) else s.setReg (0x902000 + 4 * f) (v &&& 0xFFF3)

/-- FINE_ASG_WRITE (R110, R142). -/
def execFineAsgWrite (m : Mid) (f : Fin 1280) (v : Word) (s : State) : Out :=
  .next (s.write4 m (0x902000 + 4 * f.val) v (fun s => (s.asgWrite f.val v)))

/-! ### Map reads (R104, R140) -/

/-- An uncorrectable mark on a thread map entry. -/
def State.fineUnc (s : State) (map key : Nat) (stb : Bool) : Bool :=
  s.fine.ecc.any (fun e => decide (e.map = map ∧ e.key = key) && e.unc && (e.standby == stb))

/-- The entry that FINE_MSEL names; none for a bad index. -/
def State.fineEntry (s : State) : Option (Word × Word × Bool) :=
  let v := s.reg (fineA 0xA0)
  let stb := bit v 2
  let t := fld v 4 18
  let f := if stb then s.fine.stb else s.fine.act
  if ¬ trefValid t then none
  else match fld v 0 2 with
    | 0 => let e := f.outE t
           some (e.setWidth 32, (e >>> 32).setWidth 32, s.fineUnc 0 t stb)
    | 1 => some (smGet 0 f.tag t, 0, s.fineUnc 1 t stb)
    | _ => none

/-- FINE_MCMD.READ: BUSY is set. -/
def State.fineRead (s : State) : State := s.setRf (fineA 0xA8) 0 1 1

/-- A map read is taken. -/
def State.fineReadDone (s : State) : State :=
  let s0 := s.setReg (fineA 0xB4) s.bolt
  match s0.fineEntry with
  | some (a, b, u) => ((s0.setReg (fineA 0xA8) (if u then 4 else 0)).setReg (fineA 0xAC) a).setReg (fineA 0xB0) b
  | none => ((s0.setReg (fineA 0xA8) 2).setReg (fineA 0xAC) 0).setReg (fineA 0xB0) 0

/-- FINE_MAP_READ: a write of FINE_MCMD.READ (R140). -/
def execFineMapRead (m : Mid) (s : State) : Out :=
  .next (s.write4 m (fineA 0xA4) 1 (fun s => s.fineRead))

/-- FINE_MAP_READ_DONE (R104): due while FINE_MSTAT.BUSY is 1. -/
def execFineMapReadDone (s : State) : Out := .next (s.when (s.rb (fineA 0xA8) 0) (·.fineReadDone))

/-! ### Interchange -/

/-- The pick of a forced pattern (R50). -/
def forcedPick (k : PickKind) : Pick :=
  let b : Byte := match k with | .ais => 0xFF | .oci => 0x66 | .lck => 0x55 | _ => 0
  { payload := List.replicate 64 b, kind := k, repl := true }

/-- A round of the present bolt, counted on from the reset without a wrap (R114). -/
def State.absRound (s : State) (r : Nat) : Nat := 625 * s.beat.bolts + r

/-- The source pick that leaves in absolute egress round `r`: it left the alignment buffer 127 to 251 rounds before (R114); the newest such
one. -/
def State.bufPick (s : State) (t r : Nat) : Option BufPick :=
  ((smGet [] s.fine.buf t).filter (fun p => decide (p.round + 127 ≤ r ∧ r ≤ p.round + 251))).getLast?

/-- The pattern that stood in for the picks of input `f` in absolute round `r` (R72, R131). -/
def State.inputPat (s : State) (f r : Nat) : Option PickKind :=
  match (smGet [] s.fine.inPat f).find? (fun e => decide (e.1 ≤ r)) with
  | some e => e.2
  | none => some .oci

/-- Entry `e` passes a pick of tag `tag` (R124). -/
def outPasses (e : BitVec 64) (tag : Nat) : Bool := decide (tag = outTen e) || (outXg e && decide (tag = outXsrc e))

/-- The tag of a pattern that stands in for the pick of input thread `t` due in absolute round `r`, as the tag page gave it in the round of
its write (R124, R129): the newest round of the thread that is 127 or more before. -/
def State.patTag (s : State) (t r : Nat) : BitVec 12 :=
  let w := r - 127
  let old := decide (s.reg (fineA 0x4C) = s.bolt ∧ w - (w + 125 - t % 128) % 125 < s.absRound 0)
  BitVec.ofNat 12 ((if old then s.fine.prev else s.fine.act).tagE t)

/-- The pick of input thread `t` that is due: from the buffer, or of the pattern that stood in for it in the rounds from which its pick comes
(R72, R82, R131). -/
def State.srcPick (s : State) (t round : Nat) : Option Pick :=
  let r := s.absRound round
  match s.bufPick t r with
  | some b => some b.pick
  | none =>
    (((if 251 ≤ r then s.inputPat (t / 128) (r - 251) else some .oci).or (s.inputPat (t / 128) (r - 127))).map (fun k =>
      { forcedPick k with tag := s.patTag t r }))

/-- What an output thread carries in a round (R124, R129, R133, R134), and whether the tenant check replaced it. A pattern put in the
place of a tagged pick keeps its tag (R393, R394). -/
def State.threadPick (s : State) (t round : Nat) : Pick × Bool :=
  let e := s.fine.act.outE t
  let b := s.srcPick (outSrc e) round
  let pat := fun (k : PickKind) => ({ forcedPick k with samp := b.bind (·.samp) } : Pick)
  if s.fineUnc 0 t false then (pat .ais, false)
  else match outMode e with
    | 0 => (forcedPick .oci, false)
    | 2 => (pat .lck, false)
    | 3 => (pat .ais, false)
    | _ =>
      match b with
      | none => (forcedPick .ais, false)
      | some b =>
        let p := s.fine.prev.outE t
        let old := decide (s.reg (fineA 0x4C) = s.bolt ∧ round < 250) && decide (outMode p = 1) && outPasses p b.tag.toNat
        if outPasses e b.tag.toNat || old then (b, false) else (pat .oci, true)

/-- The interchange reads the pick of output thread `t` in a round of the present bolt, with `sbe` single-bit errors corrected (R124,
R133-R136). -/
def State.threadRead (s : State) (t round sbe : Nat) : State :=
  let e := s.fine.act.outE t
  let (p0, viol) := s.threadPick t round
  let many := decide (1 < (s.fine.act.out.filter (fun x => decide (outMode x.2 ≠ 0 ∧ outSrc x.2 = outSrc e))).length)
  let p : Pick := { p0 with samp := p0.samp.map (fun x => { x with mc := x.mc || many }) }
  let tag := ((s.srcPick (outSrc e) round).map (fun b => b.tag.toNat)).getD 0
  let s00 := s.incReg (fineA 0xB8) sbe
  let s0 := if decide (outMode e = 1) && p.kind == .ais then s00.count 3 t 1 else s00
  let s1 := if viol then
    ((((s0.noteTen (.threadViolation t) true).count 3 t 0).incReg (fineA 0xC0)).setReg (fineA 0xC4) (w32 (t + tag * 2 ^ 18))).irq (fineA 0) 0x20 else s0
  let m1 := decide (outMode e = 1)
  s1.modFine (fun x =>
    { x with outp := smPut {} x.outp (t / 128) p
             live := if m1 && p.kind != .ais then smPut false x.live t true else x.live
             tsf := if m1 && p.kind == .ais then smPut 0 x.tsf (t / 128) (1 + (5 * s.beat.bolts + round / 125)) else x.tsf })

/-- T-SF of output `f` at a boundary: an AIS pick was read in the thread round just ended (R136). -/
def State.tsfNow (s : State) (f : Nat) : Bool := decide (smGet 0 s.fine.tsf f ≠ 0 ∧ smGet 0 s.fine.tsf f = 5 * s.beat.bolts)

/-- The header flag of a trunk skein fed by output `f` (R135): AIS where every thread in MODE 1 was so throughout the bolt before and read AIS
picks alone, OCI where none is in MODE 1, or none. -/
def State.fineFlag (s : State) (f : Nat) : BitVec 3 :=
  let ts := (s.fine.act.out.filter (fun e => decide (e.1 / 128 = f ∧ outMode e.2 = 1))).map (·.1)
  let was := if s.reg (fineA 0x4C) = s.bolt then s.fine.prev else s.fine.act
  if ts = [] then 2 else if ts.all (fun t => decide (outMode (was.outE t) = 1) && !smGet false s.fine.livePrev t) then 1 else 0

/-- FINE_ECC_UNCORRECTABLE (R133): a map entry is marked until its reload; a buffer pick is replaced with AIS. Counted. -/
def execFineEccUncorrectable (e : FineRef) (s : State) : Out :=
  if ¬ trefOk e.tref then .next s
  else
    let t := e.tref.toNat
    let s1 := (s.incReg (fineA 0xBC)).irq (fineA 0) 0x40
    .next (if e.map.val = 2 then
      s1.modFine (fun f =>
        let l := smGet [] f.buf t
        let i := l.length - (if e.newer then 1 else 2)
        { f with buf := smPut [] f.buf t (l.mapIdx (fun j b => if j = i then
            { b with pick := { b.pick with payload := List.replicate 64 0xFF, kind := .ais, repl := true } } else b)) })
    else
      s1.modFine (fun f => { f with ecc := (f.ecc.filter (fun m => !decide (m.map = e.map.val ∧ m.key = t ∧ m.standby = false))) ++
        [{ map := e.map.val, key := t, standby := false, unc := true, active := true }] }))

/-- FINE_ENTRY_RELOAD (R133): due at the boundary after the error, where the entry returns to the value last committed for it. -/
def execFineEntryReload (e : FineRef) (copyUnc : Bool) (s : State) : Out :=
  if ¬ trefOk e.tref then .next s
  else .next (s.modFine (fun f => { f with ecc := reload f.ecc e.map.val e.tref.toNat copyUnc }))

end Sys2Proof.Machine
end

