-- ==== Sys2Proof/Machine/Domain.lean ====
section
/-! DEFINITION. The state of the power domains, PWR_DOM_STAT (R423, R439, R440). -/
namespace Sys2Proof.Machine

/-- PWR_DOM_STAT (R439). -/
def State.domStat (s : State) : Word :=
  w32 (((List.range 8).map (fun p => (s.reach p).toNat * 2 ^ p)).sum
    + ((List.range 8).map (fun c => (s.clusterOn c).toNat * 2 ^ (8 + c))).sum
    + s.prot.hbmOn.toNat * 2 ^ 16 + s.fmn.a.powered.toNat * 2 ^ 18 + s.fmn.b.powered.toNat * 2 ^ 19)

/-- A bit of PWR_DOM_STAT that changed sets DOM_CHG (R440). -/
def State.noteDom (s : State) : State :=
  if s.domStat = s.pwr.domSeen then s else (s.modPwr (fun p => { p with domSeen := s.domStat })).irq (pwrA 0) 8

end Sys2Proof.Machine
end

