-- ==== Sys2Proof/Machine/Line.lean ====
section
/-! DEFINITION. The line side of a lane: the scrambler and the PRBS31 test pattern (R26, R59), line positions (R27, R28, R31),
BIP-32 (R33), and the cells of the Bamry and management channels (R40, R41). -/
namespace Sys2Proof.Machine

/-! ### PRBS x^31 + x^28 + 1 (R26, R59) -/

/-- From the first `n` bits of the sequence (bit i of the number is the i-th bit), the first `want` or more. The sequence meets
b(i) = b(i - 28 * 2^j) xor b(i - 31 * 2^j) for every j, so each round adds 28 * 2^j bits at once; `j` grows with `n`. -/
def prbsGrow (want : Nat) : Nat → Nat → Nat → Nat → Nat
  | 0, x, _, _ => x
  | fuel + 1, x, n, j =>
    if want ≤ n then x
    else
      let c := 28 * 2 ^ j
      let m := n + c
      prbsGrow want fuel (x + (((x >>> (n - c)) ^^^ (x >>> (n - 31 * 2 ^ j))) % 2 ^ c) * 2 ^ n) m (if 62 * 2 ^ j ≤ m then j + 1 else j)

/-- The first `n` bits from a generator state of all ones, the first in bit 0. The 31 bits of the state come out first, as in
every frame-synchronous scrambler (PRESUMED, notes/assumptions/42.md). -/
def prbs31 (n : Nat) : Nat := prbsGrow n 64 (2 ^ 31 - 1) 31 0 % 2 ^ n

/-- The scrambler's bits over the overhead picks, from pick 0 byte 8 on (R26). -/
def overheadKey : Nat := prbs31 (8 * (384 * 64 - 8))

/-- `n` scrambler bits from byte `b` of the bolt, for b ≥ 8. -/
def lineKey (b n : Nat) : Nat :=
  if 8 * b + n ≤ 8 * 24576 then (overheadKey >>> (8 * b - 64)) % 2 ^ n else (prbs31 (8 * b - 64 + n) >>> (8 * b - 64)) % 2 ^ n

/-- A byte with its bits in the other order: bit 7 goes first on the line (R27). -/
def rev8 (v : Nat) : Byte := BitVec.ofNat 8 ((List.range 8).foldl (fun a i => 2 * a + (v >>> i) % 2) 0)

/-- Bytes xor a bit sequence, each byte's bit 7 first. -/
def xorKey : Nat → List Byte → List Byte
  | _, [] => []
  | k, b :: t => (b ^^^ rev8 (k % 256)) :: xorKey (k / 256) t

/-- Bytes from byte `b` of the bolt on, scrambled; the descrambler is the same operation (R26). Bytes 0 to 7 of pick 0, the FAW,
are not scrambled. -/
def scramble (b : Nat) (bs : List Byte) : List Byte :=
  if b < 8 then bs.take (8 - b) ++ xorKey (lineKey 8 (8 * (bs.length - (8 - b)))) (bs.drop (8 - b))
  else xorKey (lineKey b (8 * bs.length)) bs

/-! ### Positions in a bolt (R28, R31), in bytes -/

/-- A skein header's place: 32 bytes from pick 1 on. -/
def hdrPos (k : Nat) : Nat := 64 + 32 * (k % 160)
/-- An APS slot's place: 8 bytes from pick 81 on. -/
def slotPos (j : Nat) : Nat := 64 * 81 + 8 * j
/-- A cell's place: 32 cells of the Bamry channel from pick 89 on, then 64 of the management channel. -/
def cellPos (j : Nat) : Nat := 64 * (89 + j)

/-! ### BIP-32 (R33) -/

/-- The xor of the 32-bit words of a byte list, whole words only. -/
def wordParity : List Byte → Word
  | a :: b :: c :: d :: t => (a ++ b ++ c ++ d : BitVec 32) ^^^ wordParity t
  | _ => 0

/-- The xor of the 32-bit groups of a bit sequence of at most 2^21 of them, as a word with the first bit highest. -/
def bitsParity (x : Nat) : Word :=
  let y := ((List.range 21).reverse).foldl (fun x i => (x ^^^ (x >>> (32 * 2 ^ i))) % 2 ^ (32 * 2 ^ i)) x
  w32 ((List.range 32).foldl (fun a i => 2 * a + (y >>> i) % 2) 0)

/-! ### The framed test pattern (R59) -/

/-- Bits of the payload of a bolt: 625 rounds of 160 picks. -/
def payloadBits : Nat := 625 * 160 * 512

/-- The payload that TXPAT code 1 sends, before scrambling: PRBS31 from all ones at pick 384. -/
def patPayload : Nat := prbs31 payloadBits

/-- Pick `i` of that payload. -/
def patPick (i : Nat) : List Byte := (List.range 64).map (fun j => rev8 (patPayload >>> (512 * i + 8 * j) % 256))

/-- Where a payload pick of a skein stands: its round of the bolt, in picks (R28). -/
def pickPos (k round : Nat) : Nat := 384 + 160 * round + k % 160

/-- Bytes of the line as a number whose bit 0 goes first. -/
def lineNum : List Byte → Nat
  | [] => 0
  | b :: t => (rev8 b.toNat).toNat + 256 * lineNum t

/-- A payload as it stands on the line. -/
def scrambleBits (b n x : Nat) : Nat := x ^^^ lineKey b n

/-! ### Cells (R40, R41) -/

/-- A cell with its CCRC. -/
def mkCell (start fin : Bool) (data : List Byte) : List Byte :=
  let b := [BitVec.ofNat 8 (start.toNat * 0x80 + fin.toNat * 0x40 + data.length)] ++ padTo 61 data
  b ++ beBytes 2 (crc16 b)

/-- The idle cell. -/
def idleCell : List Byte := mkCell false false []

/-- The cells of what is left of a message; `start` before the first of them. -/
def cellsFrom (start : Bool) : Nat → List Byte → List (List Byte)
  | 0, _ => []
  | fuel + 1, bs =>
    if bs.length ≤ 61 then [mkCell start true bs] else mkCell start false (bs.take 61) :: cellsFrom false fuel (bs.drop 61)

/-- The run of cells that carries a message. -/
def cellsOf (msg : List Byte) : List (List Byte) := cellsFrom true (msg.length + 1) msg

/-- What the receiver of a channel does with a cell: the message in progress after it, the message that it completes, and whether it
discards one (R41). -/
structure CellStep where
  part : Option (List Byte) := none
  msg : Option (List Byte) := none
  drop : Bool := false
deriving DecidableEq, Repr

/-- One received cell, with the message in progress before it. A cell that continues no message carries nothing (DEDUCED,
notes/assumptions/42.md). -/
def cellRx (part : Option (List Byte)) (c : List Byte) : CellStep :=
  let ctl := beAt c 0 1
  let len := ctl % 64
  if beAt c 62 2 ≠ crc16 (c.take 62) then { drop := true }
  else if ctl = 0 then { part := part }
  else if 61 < len then { drop := part.isSome }
  else
    let start := decide (0x80 ≤ ctl)
    let data := bytesAt c 1 len
    match (if start then some [] else part) with
    | none => {}
    | some b =>
      let drop := start && part.isSome
      if ctl / 64 % 2 = 1 then { msg := some (b ++ data), drop := drop } else { part := some (b ++ data), drop := drop }

/-- A run of cells: the message left open, the messages completed in order, and the number of discards. -/
def cellsRx : Option (List Byte) → List (List Byte) → Option (List Byte) × List (List Byte) × Nat
  | part, [] => (part, [], 0)
  | part, c :: t =>
    let r := cellRx part c
    let x := cellsRx r.part t
    (x.1, r.msg.toList ++ x.2.1, r.drop.toNat + x.2.2)

end Sys2Proof.Machine
end

