-- ==== Sys2Proof/Machine/Lane.lean ====
section
/-! DEFINITION. Receive lanes: framer, lane and skein headers, defects, masking, consequent actions, the alignment buffer
(R25, R33-R37, R43-R64), the trail check (R195-R198) and the die-to-die link (R20). -/
namespace Sys2Proof.Machine

/-! ### Settings -/

/-- Fields of LN_MODE (R61): codes above the listed ones act as 0. -/
def State.lnLoop (s : State) (l : Nat) : Nat := let v := s.rf (lnA l 0x40) 0 2
                                               if v = 3 then 0 else v
def State.lnTxpat (s : State) (l : Nat) : Nat := let v := s.rf (lnA l 0x40) 2 3
                                                if 5 ≤ v then 0 else v
def State.lnRxchk (s : State) (l : Nat) : Nat := let v := s.rf (lnA l 0x40) 5 3
                                                if 5 ≤ v then 0 else v

/-- The LN_INTG word in force of defect `d` in R46 order (R63). -/
def State.intgWord (s : State) (l d : Nat) : Word :=
  match (s.lane l).intgOld.find? (fun e => decide (e.1 = d)) with
  | some e => e.2
  | none => s.reg (lnA l (0x80 + 4 * d))
/-- Set count S and clear count C; 0 acts as 1. -/
def State.setCnt (s : State) (l d : Nat) : Nat := atLeast1 (fld (s.intgWord l d) 16 12)
def State.clrCnt (s : State) (l d : Nat) : Nat := atLeast1 (fld (s.intgWord l d) 0 12)

/-- Hook `i` of lane `l` in force (R451). -/
def State.lnHook (s : State) (l i : Nat) : Word := if s.tst.pert then (s.lane l).hook.getD i 0 else 0
/-- PERTURB1 forces the raw condition of bit `i` (R452). -/
def State.lnForce (s : State) (l i : Nat) : Bool := bit (s.lnHook l 1) i

/-! ### Defect states -/

/-- Keys of the integrators. -/
def laneKey (l d : Nat) : Nat := 16 * l + d
def skKey (k d : Nat) : Nat := 0x10000 + 8 * k + d

/-- One bolt's evaluation (R45): none leaves both counts; a bad bolt ends the run of good ones and the other way round. -/
def Integ.step (i : Integ) : Option Bool → Integ
  | none => i
  | some true => { i with bad := min 4095 (i.bad + 1), good := 0 }
  | some false => { i with good := min 4095 (i.good + 1), bad := 0 }

/-- The integrated state with S and C at a boundary (R45). -/
def Integ.latch (i : Integ) (s c : Nat) : Integ :=
  { i with eff := if i.eff then !decide (c ≤ i.good) else decide (s ≤ i.bad) }

/-- Raw OOF, which OOF follows directly (R45), or OOF held by a hook (R452). -/
def State.oof (s : State) (l : Nat) : Bool := (s.lane l).rawOof || s.lnForce l 2
/-- The integrated state of lane defect `d` (R49). -/
def State.effL (s : State) (l d : Nat) : Bool := if d = 2 then s.oof l else (s.integ1 (laneKey l d)).eff
/-- The reported state of lane defect `d`. -/
def State.declL (s : State) (l d : Nat) : Bool := if d = 2 then s.oof l else (s.integ1 (laneKey l d)).decl
def State.effS (s : State) (k d : Nat) : Bool := (s.integ1 (skKey k d)).eff
def State.declS (s : State) (k d : Nat) : Bool := (s.integ1 (skKey k d)).decl

/-- Lane defects that a declared defect of higher rank hides (R49). -/
def State.maskedL (s : State) (l d : Nat) : Bool :=
  let los := s.declL l 0
  let lol := los || s.declL l 1
  let lof := lol || s.declL l 3 || s.declL l 2
  match d with
  | 1 => los
  | 2 => lol
  | 3 => lol
  | 8 => lof
  | 6 => lof || s.declL l 8
  | 7 => lof || s.declL l 8
  | _ => false

/-- Lane AIS from the integrated state: LOS, LOL or LOF, OOF, L-AIS, TIM with TIM_AIS (R51). -/
def State.laneForces (s : State) (l : Nat) : Bool :=
  s.effL l 0 || s.effL l 1 || s.effL l 3 || s.oof l || s.effL l 8 || (s.effL l 6 && s.rb (lnA l 0x40) 8)

/-- Skein defects hidden by S-AIS, S-LCK or a lane defect that forces AIS (R49). -/
def State.maskedS (s : State) (k d : Nat) : Bool :=
  s.laneForces (laneOf k) || (decide (d ≠ 0) && s.declS k 0) || (decide (d = 1) && s.declS k 2)

/-- Any skein defect of lane `l` declared and shown: only listed integrators can be. -/
def State.anySkein (s : State) (l : Nat) : Bool :=
  s.integ.any (fun e => decide (0x10000 + 1280 * l ≤ e.1 ∧ e.1 < 0x10000 + 1280 * (l + 1)) && e.2.decl &&
    !s.maskedS ((e.1 - 0x10000) / 8) ((e.1 - 0x10000) % 8))

/-- LN_DEF: declared defects after masking (R62). -/
def State.lnDef (s : State) (l : Nat) : Word :=
  w32 (((List.range 10).foldl (fun a d => if s.declL l d && !s.maskedL l d then a + 2 ^ d else a) 0)
    + (if s.anySkein l then 2 ^ 16 else 0))

/-- A bitmap word of skein defect `d` (R60). A defect that R49 hides shows 0 here, as it does in LN_DEF (DESIGN CHOICE,
notes/assumptions/46.md). -/
def State.lnBitmap (s : State) (l d i : Nat) : Word :=
  w32 ((List.range 32).foldl (fun a j =>
    if s.declS (160 * l + 32 * i + j) d && !s.maskedS (160 * l + 32 * i + j) d then a + 2 ^ j else a) 0)

/-- Lane AIS at the output of the alignment buffer: a raw condition of the bolt, or an integrated one (R51, R52). -/
def State.laneAis (s : State) (l : Nat) : Bool :=
  let n := s.lane l
  n.losSeen || n.lolSeen || n.oofSeen || s.lnForce l 0 || s.lnForce l 1 || s.laneForces l

/-- Skein AIS from skein defects (R51). -/
def State.skeinAis (s : State) (k : Nat) : Bool :=
  let m := lnA (laneOf k) 0x40
  s.effS k 1 || s.effS k 2 || (s.effS k 3 && s.rb m 13) || (s.effS k 4 && s.rb m 12)

/-- Port of a trunk skein number. -/
def portOf (k : Nat) : Nat := k / 10240

/-- The picks of trunk skein `k` are replaced by AIS at its alignment buffer, or by the centre tile (R20, R51). -/
def State.srcAis (s : State) (k : Nat) : Bool := !s.reach (portOf k) || s.laneAis (laneOf k) || s.skeinAis k
/-- Trunk skein `k` carries the AIS state to the egress headers it feeds (R51, R52). -/
def State.srcFlag (s : State) (k : Nat) : Bool := s.srcAis k || s.effS k 0

/-- BDI that the paired egress lane sends (R51, R452). -/
def State.bdiTx (s : State) (l : Nat) : Bool :=
  s.effL l 0 || s.effL l 1 || s.effL l 3 || s.effL l 8 || (s.effL l 6 && s.rb (lnA l 0x40) 9) || bit (s.lnHook l 1) 16

/-! ### Framer (R43, R44) -/

/-- The FAW of R32. -/
def faw : BitVec 64 := 0xF6F6F6282828E38D
/-- A FAW is good with at most 2 bits wrong (R43). -/
def fawGood (v : BitVec 64) : Bool := decide (popCount 64 (v ^^^ faw).toNat ≤ 2)
/-- The framer finds no FAW where the checker expects an unframed pattern (R462). -/
def State.blind (s : State) (l : Nat) : Bool := decide (s.lnRxchk l = 2 ∨ s.lnRxchk l = 3)

/-- OOF begins or ends: its bit of LN_IRQ_RAW, where LOS and LOL do not hide it (R49, R62), and an event of tenants (R301). -/
def State.oofIrq (s : State) (l : Nat) : State :=
  let s1 := s.noteTen (.laneDefect l) false
  if s1.maskedL l 2 then s1 else s1.irq (lnA l 0) 4

/-- A skein's accumulator holds nothing: its skein bolt under way is not compared (R198). -/
def SkRx.void (r : SkRx) : SkRx := { r with acc := 0xFFFFFFFF, cnt := 0, held := none, late := false, wait := none }

/-- Makes a change to every ingress skein listed of those that `p` names. -/
def State.modSkeins (s : State) (p : Nat → Bool) (f : SkRx → SkRx) : State :=
  { s with skrx := s.skrx.filterMap (fun e =>
      if p e.1 then
        (let r := f e.2
         if r = {} then none else some (e.1, r))
      else some e) }

/-- The framer goes to HUNT; leaving SYNC sets raw OOF, and a Bamry message open on the lane is discarded (R44, R464): one
of whose cells some came, or (`openMsg`) one of which no row has brought a cell. What errored FAWs
end (`faws`) was out of frame at the bolt's FAW (R46). The skein bolts under way are not compared; a comparison that waits for picks
still in the buffer stays (R48). -/
def State.toHunt (s : State) (l : Nat) (faws openMsg : Bool) : State :=
  let was := (s.lane l).rawOof
  let isOpen := (s.lane l).bmyPart.isSome || openMsg
  let s1 := (s.modLane l (fun n =>
    { n with framer := .hunt, good := 0, err := 0, rawOof := true, oofSeen := true, inAll := false, fawSync := n.fawSync && !faws,
             ttiCur := [], ttiPrev := [], evt := if was then n.evt else n.evt + 1, bmyPart := none, mgmtPart := none })).modSkeins
    (fun k => decide (laneOf k = l)) (fun r => if r.wait.isSome then { r with held := none } else r.void)
  let s2 := if isOpen then s1.count 6 (l / 64) 2 else s1
  if was then s2 else s2.oofIrq l

/-- The framer goes to SYNC: raw OOF clears and BOLT is latched (R44). -/
def State.toSync (s : State) (l : Nat) (bolt : Word) : State :=
  let was := (s.lane l).rawOof
  let s1 := (s.modLane l (fun n =>
    { n with framer := .sync, good := 0, err := 0, rawOof := false, outAll := false, fawSync := true })).setReg (lnA l 0x58) bolt
  if was then s1.oofIrq l else s1

/-- A due transition of the framer: G good FAWs in PRESYNC, or E errored ones in SYNC. -/
def State.syncDue (s : State) (l : Nat) : Bool :=
  decide ((s.lane l).framer = .presync ∧ s.clrCnt l 2 ≤ (s.lane l).good)
def State.lossDue (s : State) (l : Nat) : Bool :=
  decide ((s.lane l).framer = .sync ∧ s.setCnt l 2 ≤ (s.lane l).err)

/-- Acts on a lane whose port tile is awake; a sleeping one has none (R424). -/
def State.onLane (s : State) (l : Nat) (f : State → State) : State := if s.awake (l / 64) then f s else s

/-- The framer of lane `l` receives the paired egress stream, ahead of the SerDes (R58). -/
def State.ownStream (s : State) (l : Nat) : Bool := decide (s.lnLoop l = 2)

/-- Acts on what the line brings to lane `l`: nothing in terminal loopback, where the received line signal is ignored (R58). -/
def State.onLine (s : State) (l : Nat) (f : State → State) : State := if s.awake (l / 64) && !s.ownStream l then f s else s

/-- A state of the line changes; in terminal loopback it has no other effect (R58). -/
def State.lineState (s : State) (l : Nat) (f : Lane → Lane) (more : State → State) : State :=
  s.onLane l (fun s => (s.modLane l f).onLine l more)

/-- SIGNAL_DETECT_LOST (R46): raw LOS; the framer to HUNT (R44). -/
def execSignalDetectLost (l : Fin 512) (openMsg : Bool) (s : State) : Out :=
  .next (s.lineState l.val (fun n => { n with sig := false }) (fun s =>
    (s.modLane l.val (fun n => { n with losSeen := true })).toHunt l.val false openMsg))
/-- SIGNAL_DETECT_RESTORED (R46). -/
def execSignalDetectRestored (l : Fin 512) (s : State) : Out := .next (s.lineState l.val (fun n => { n with sig := true }) id)
/-- CLOCK_RECOVERY_LOST (R46): raw LOL; the framer to HUNT (R44). -/
def execClockRecoveryLost (l : Fin 512) (openMsg : Bool) (s : State) : Out :=
  .next (s.lineState l.val (fun n => { n with clk := false }) (fun s =>
    (s.modLane l.val (fun n => { n with lolSeen := true })).toHunt l.val false openMsg))
/-- CLOCK_RECOVERY_LOCKED (R25). -/
def execClockRecoveryLocked (l : Fin 512) (s : State) : Out := .next (s.lineState l.val (fun n => { n with clk := true }) id)
/-- CODEWORD_LOCK_ACQUIRED (R25). -/
def execCodewordLockAcquired (l : Fin 512) (s : State) : Out :=
  .next (s.lineState l.val (fun n => { n with cw := true, cwSeen := true }) id)
/-- CODEWORD_LOCK_LOST (R25): raw LOL, since lock takes at least 160 pick times to return (R46); the framer to HUNT (R44). -/
def execCodewordLockLost (l : Fin 512) (openMsg : Bool) (s : State) : Out :=
  .next (s.lineState l.val (fun n => { n with cw := false }) (fun s =>
    (s.modLane l.val (fun n => { n with lolSeen := true })).toHunt l.val false openMsg))

/-- An exact FAW in HUNT gives PRESYNC, or SYNC with G = 1 (R44). -/
def State.fawMatch (s : State) (l : Nat) (bolt : Word) : State :=
  if s.clrCnt l 2 = 1 then s.toSync l bolt else s.modLane l (fun n => { n with framer := .presync, good := 1 })

/-- A good or errored FAW at the expected position (R43, R44). -/
def State.fawSeen (s : State) (l : Nat) (ok : Bool) : State :=
  match (s.lane l).framer with
  | .hunt => s
  | .presync => s.modLane l (fun n => if ok then { n with good := n.good + 1 } else { n with framer := .hunt, good := 0 })
  | .sync => s.modLane l (fun n => { n with err := if ok then 0 else n.err + 1, fawSync := true })

/-- A transition of the framer that is due: the last FAW called for it. -/
def State.framerDue (s : State) (l : Nat) (bolt : Word) : State :=
  if s.lossDue l then s.toHunt l true false else if s.syncDue l then s.toSync l bolt else s

/-- FAW_HUNT_MATCH (R44): an exact FAW in HUNT. -/
def execFawHuntMatch (l : Fin 512) (w : BitVec 64) (bolt : Word) (s : State) : Out :=
  .next (s.onLine l.val (fun s =>
    let n := s.lane l.val
    if n.framer = .hunt ∧ w = faw ∧ n.cw ∧ ¬ s.blind l.val then s.fawMatch l.val bolt else s))

/-- FAW_EXPECTED (R43, R44). A transition still due is taken first. -/
def execFawExpected (l : Fin 512) (w : BitVec 64) (s : State) : Out :=
  .next (s.onLine l.val (fun s =>
    (s.framerDue l.val (s.reg (lnA l.val 0x58))).fawSeen l.val (fawGood w && !s.blind l.val)))

/-- FRAMER_SYNC (R44): due once G good FAWs have come. -/
def execFramerSync (l : Fin 512) (bolt : Word) (s : State) : Out :=
  .next (s.onLane l.val (fun s => if s.syncDue l.val then s.toSync l.val bolt else s))
/-- FRAMER_OUT_OF_SYNC (R44): due once E errored FAWs have come. -/
def execFramerOutOfSync (l : Fin 512) (openMsg : Bool) (s : State) : Out :=
  .next (s.onLane l.val (fun s => if s.lossDue l.val then s.toHunt l.val true openMsg else s))

/-! ### Lane header (R32-R35) -/

/-- HCRC is good: CRC-32C over bytes 8-59 (R32). -/
def hcrcOk (hdr : List Byte) : Bool := decide (beAt hdr 60 4 = crc32c (bytesAt hdr 8 52))
/-- An L-AIS header (R46): bytes 8-63 all 0xFF. -/
def laisHdr (hdr : List Byte) : Bool := (bytesAt hdr 8 56).all (· == 0xFF)

/-- The accepted TTI is stored (R35, R60). -/
def State.putTti (s : State) (l : Nat) (b : List Byte) : State :=
  seqAll (fun i s => s.setReg (lnA l (0x280 + 4 * i)) (w32 (beAt b (4 * i) 4))) (List.range 16) s

/-- Eight TTI bytes of a header with BOLT `b` (R32, R35). -/
def State.ttiRx (s : State) (l b : Nat) (t : List Byte) : State :=
  let n := s.lane l
  let i := b % 8
  if i = 0 then
    s.modLane l (fun n => { n with ttiCur := t, ttiPrev := if n.ttiCur = [] then n.ttiPrev else [] })
  else if n.ttiCur.length ≠ 8 * i ∨ n.ttiCur = [] then s.modLane l (fun n => { n with ttiCur := [], ttiPrev := [] })
  else
    let c := n.ttiCur ++ t
    if i < 7 then s.modLane l (fun n => { n with ttiCur := c })
    else
      let s1 := s.modLane l (fun n => { n with ttiCur := [], ttiPrev := c, ttiOk := n.ttiOk || decide (n.ttiPrev = c) })
      if n.ttiPrev = c then s1.putTti l c else s1

/-- An accepted header's QL code counts for each line-recovered slot that names the lane (R221). -/
def State.lrQl (s : State) (l q : Nat) : State :=
  seqAll (fun j s =>
    let v := s.reg (beatA (0x140 + 4 * j))
    if bit v 0 ∧ fld v 1 3 * 64 + fld v 4 6 = l then
      s.modCand (8 + j) (fun c => if c.qlNew = q then { c with qlRep := c.qlRep + 1 } else { c with qlNew := q, qlRep := 1 })
    else s) (List.range 16) s

/-- A received lane header (R34). -/
def State.laneHdr (s : State) (l : Nat) (hdr : List Byte) (bip : Word) : State :=
  let s0 := s.modLane l (fun n => { n with laisRx := laisHdr hdr })
  if hcrcOk hdr then
    let bei := (let v := beAt hdr 31 1 % 64
                if 33 ≤ v then 0 else v)
    let v := popCount 32 (beAt hdr 24 4 ^^^ bip.toNat)
    let b29 := beAt hdr 29 1
    let b30 := beAt hdr 30 1
    let b32 := beAt hdr 32 1
    let oh := beAt hdr 28 1 % 16 + b29 / 128 * 2 ^ 4 + b30 / 128 * 2 ^ 5 + bei * 2 ^ 6 + b32 / 16 * 2 ^ 12 + b32 % 16 * 2 ^ 16
    let s1 := ((s0.setReg (lnA l 0x58) (w32 (beAt hdr 8 4))).setReg (lnA l 0x5C) (w32 (beAt hdr 12 4))).setReg (lnA l 0x60) (w32 oh)
    let s2 := s1.modLane l (fun n => { n with hdrOk := true, bipNow := v, beiOut := v })
    (((s2.count 0 l 0 v).count 0 l 1 bei).ttiRx l (beAt hdr 8 4) (bytesAt hdr 16 8)).lrQl l (beAt hdr 28 1 % 16)
  else
    (s0.modLane l (fun n => { n with hdrBad := true, ttiCur := [], ttiPrev := [] })).incReg (lnA l 0x70)

/-- A looped header: BIP corrected for what the header before it had changed, VER[3:0] = 1 and HCRC new where it was good. -/
def loopHdr (hdr : List Byte) (fix : Word) : List Byte :=
  let b := bytesAt hdr 8 16 ++ beBytes 4 (beAt hdr 24 4 ^^^ fix.toNat) ++ bytesAt hdr 28 4
    ++ [BitVec.ofNat 8 (beAt hdr 32 1 / 16 * 16 + 1)] ++ bytesAt hdr 33 27
  bytesAt hdr 0 8 ++ b ++ beBytes 4 (crc32c b)

/-- Lane `l` sends its receive stream back. -/
def State.loops (s : State) (l : Nat) : Bool :=
  decide (s.lnLoop l = 1 ∧ s.lnTxpat l = 0) && !s.rb (lnA l 0x40) 14

/-- Bytes of a bolt (R28). -/
def boltBytes : Nat := 64 * 100384

/-- A looped lane is to send back what it received at byte `pos` of its lane bolt, or of the one before it (`late`); the outputs of one lane
bolt go out in pick order (R27, R58). -/
def State.loopPut (s : State) (l pos : Nat) (o : Output) (late : Bool := false) : State :=
  s.when (s.loops l) (·.modLane l (fun n =>
    { n with loopQ := smInsert (boltBytes * (n.loopN - late.toNat) + pos) o n.loopQ }))

/-- A received lane header goes out again on a looped lane. Where the receiver is out of SYNC the stream goes back as it comes. -/
def State.loopLane (s : State) (l : Nat) (hdr : List Byte) (sync : Bool) : State :=
  if ¬ s.loops l then s.modLane l (fun n => { n with loopFix := 0 })
  else
    let out := if sync ∧ hcrcOk hdr then loopHdr hdr (s.lane l).loopFix else hdr
    (s.modLane l (fun n => { n with loopFix := wordParity out ^^^ wordParity hdr, loopN := n.loopN + 1 })).loopPut l 0
      (.laneHeader l (scramble 0 out))

/-- LANE_HEADER_RX (R26, R34, R58): `line` is pick 0 as it stands on the line, descrambled here; `bip` is the parity the receiver formed
over the previous bolt (R33). A receiver out of SYNC takes no header; a looped lane sends back what it decodes all the same. -/
def execLaneHeaderRx (l : Fin 512) (line : List Byte) (bip : Word) (s : State) : Out :=
    let hdr := scramble 0 line
    .next (if ¬ laneHdrOk line then s else s.onLine l.val (fun s =>
      let sync := decide ((s.lane l.val).framer = .sync)
      (s.when sync (·.laneHdr l.val hdr bip)).loopLane l.val hdr sync))

/-- Lane `l` sends bolts of its own framing (R15, R461): it is awake, not in electrical idle, on no unframed pattern and not looped. -/
def State.framed (s : State) (l : Nat) : Bool :=
  s.awake (l / 64) && !s.rb (lnA l 0x40) 14 && decide (s.lnTxpat l ≠ 2 ∧ s.lnTxpat l ≠ 3 ∧ ¬ (s.lnTxpat l = 0 ∧ s.lnLoop l = 1))

/-- Lane `l` transmits switched picks in framed bolts (R461 rows 1 to 3 do not apply). -/
def State.carries (s : State) (l : Nat) : Bool := s.framed l && decide (s.lnTxpat l = 0)

/-! ### Skein header and trail check (R36, R37, R47, R48, R195-R198) -/

/-- SCRC is good: CRC-32C over bytes 0-27 (R36). -/
def scrcOk (hdr : List Byte) : Bool := decide (beAt hdr 28 4 = crc32c (bytesAt hdr 0 28))

/-- What received FLAGS resolve to (R37): 0 none, 1 AIS, 2 OCI, 3 LCK. -/
def flagOf (f : BitVec 3) : Nat :=
  if bit f 0 then 1 else if f = 0 then 0 else if f = 2 then 2 else 3

/-- What the spanning headers and the arriving one, with FLAGS `fl`, say against the comparison, as bits [10:8] of BLZ_CAP_STAT (R48,
R196, R208): a flag set, P or ORIGIN changed between the spanning headers, one that failed SCRC. `r` is the skein before the arriving
header. -/
def SkRx.hdrWhy (r : SkRx) (fl : BitVec 3) : Nat :=
  let two := decide (r.p ≠ 0)
  let flag := decide (r.flags ≠ 0) || (two && r.old.any (fun x => decide (x.2.2 ≠ 0))) || decide (fl ≠ 0)
  let moved := two && r.old.any (fun x => decide (x.1 ≠ r.origin ∨ x.2.1 ≠ r.p))
  let scrc := (r.seen && !r.lastOk) || (two && r.old.isNone)
  flag.toNat * 2 ^ 8 + moved.toNat * 2 ^ 9 + scrc.toNat * 2 ^ 10

/-- A condition of R48 of the lane fell in the skein bolt that is held, or, where none is, since the header before, as bit 11. -/
def State.condWhy (s : State) (k : Nat) (r : SkRx) : Nat :=
  let n := s.lane (laneOf k)
  let fec := fun (a b : Word) => n.fecAt.any (fun x => decide (since x a ≤ since b a))
  (if r.held.isSome then r.cause || fec r.b0 r.b1 else decide (n.evt ≠ r.evtH) || fec r.bH s.bolt).toNat * 2 ^ 11

/-- No C of a whole skein bolt is held, as bit 12 (R198). -/
def SkRx.heldWhy (r : SkRx) : Nat := (!r.seen || r.held.isNone).toNat * 2 ^ 12

/-- The comparison of R198, where nothing is against it: true for a mismatch. -/
def SkRx.compare (r : SkRx) (why origin seq trail : Nat) : Option Bool :=
  match r.held with
  | none => none
  | some c => if why ≠ 0 then none else some (decide (trail ≠ c.toNat ^^^ trailKey origin seq))

/-- Picks of the lane bolt before the arriving header are still in the buffer, the rho 624 one of them among them: at most 20 rounds,
the buffer's 1,024 picks and the delay line's 2,047 (R53, R452). -/
def SkRx.waits (r : SkRx) : Bool :=
  let q := (r.p + 624) % 625
  r.held.isNone && decide (r.lastLr < q ∧ 605 ≤ q ∧ r.cnt ≠ 0)

/-- BLZ_CAP_SEL names skein `k` (R208). -/
def State.capSel (s : State) (k : Nat) : Bool :=
  decide (k = (s.rf 0x80040 0 3 * 64 + s.rf 0x80040 3 6) * 160 + s.rf 0x80040 9 8 ∧ s.rf 0x80040 9 8 < 160)

/-- The capture registers take an evaluation of the selected skein (R208); C reads 0 where none is held. -/
def State.capture (s : State) (k why origin seq trail : Nat) (c : Option Word) (cmp : Option Bool) : State :=
  if ¬ s.capSel k then s
  else
    seqAll (fun e s => s.setReg e.1 (w32 e.2))
      [(0x80044, 1 + cmp.isSome.toNat * 2 + (decide (cmp = some false)).toNat * 4 + why),
       (0x80048, match c with | some c => c.toNat | none => 0), (0x8004C, trail), (0x80050, seq),
       (0x80054, origin % 2 ^ 32), (0x80058, origin / 2 ^ 32), (0x8005C, s.bolt.toNat)] s

/-- SFORCE of PERTURB3 for skein `k` (R452). -/
def State.skForce (s : State) (k d : Nat) : Bool :=
  let h := s.lnHook (laneOf k) 3
  decide (fld h 0 8 = k % 160) && bit h (8 + d)

/-- Advances a skein integrator by one header (R47). -/
def State.skStep (s : State) (k d : Nat) (raw : Option Bool) : State :=
  s.modInteg (skKey k d) (fun i => i.step (if s.skForce k d then some true else raw))

/-- The S-MIS evaluation of a header of skein `k`: the comparison with the C that `r` holds, its counts and its capture (R47, R198, R208,
R381). -/
def State.trailEval (s : State) (k : Nat) (r : SkRx) (why origin seq trail : Nat) : State :=
  let cmp := r.compare why origin seq trail
  let s1 := s.skStep k 3 cmp
  let s2 := match cmp with
    | some true => s1.count 1 k 0
    | some false => s1
    | none => s1.count 1 k 1
  s2.capture k why origin seq trail r.held cmp

/-- A comparison that still waits when nothing more can complete it is not evaluated. -/
def State.trailGiveUp (s : State) (k : Nat) : State :=
  match (s.rx k).wait with
  | none => s
  | some w =>
    let r := { s.rx k with held := none }
    (s.trailEval k r (w.why ||| w.cond ||| r.heldWhy) w.origin w.seq w.trail).modRx k (fun r => { r with wait := none })

/-- The defect counts that a received skein header moves, but S-MIS (R47, R381). -/
def State.hdrDefects (s : State) (k : Nat) (fl : BitVec 3) (origin : Nat) : State :=
  let f := flagOf fl
  let r := s.rx k
  let s1 := ((s.skStep k 0 (some (decide (f = 1)))).skStep k 1 (some (decide (f = 2)))).skStep k 2 (some (decide (f = 3)))
  let s2 := s1.skStep k 4 (if r.expEn then some (decide (BitVec.ofNat 35 origin ≠ r.exp)) else none)
  if f = 1 then s2.count 1 k 2 else s2

/-- A received skein header (R37, R47, R198); one that fails SCRC gives nothing, and leaves its skein bolt unevaluated. The comparison waits
where the rho 624 pick is still in the alignment buffer. PHASE 625 to 1,023, which the spec gives no meaning, acts modulo 625 (DESIGN CHOICE,
notes/assumptions/46.md). -/
def State.skeinHdr (s0 : State) (k : Nat) (hdr : List Byte) : State :=
  let s := s0.trailGiveUp k
  let r := s.rx k
  let n := s.lane (laneOf k)
  let ok := scrcOk hdr
  let origin := beAt hdr 8 5 % 2 ^ 35
  let seq := beAt hdr 4 4
  let trail := beAt hdr 0 4
  let fl : BitVec 3 := BitVec.ofNat 3 (beAt hdr 15 1)
  let why := r.hdrWhy (if ok then fl else 0) ||| (if ok then 0 else 2 ^ 10)
  let s1 := if ok then s.hdrDefects k fl origin else s.count 1 k 3
  let s2 := if r.waits then s1 else s1.trailEval k r (why ||| s.condWhy k r ||| r.heldWhy) origin seq trail
  s2.modRx k (fun v =>
    let v1 := { v with lastOk := ok, old := if r.seen && r.lastOk then some (r.origin, r.p, r.flags) else none, held := none, pPrev := r.p,
                       late := decide (605 ≤ r.lastLr ∧ r.lastLr < 624), evtH := n.evt, bH := s.bolt,
                       wait := if r.waits then
                         some { why := why, origin := origin, seq := seq, trail := trail, evt := n.evt, unc := n.unc,
                                cond := s.condWhy k { r with held := none } } else none }
    if ok then
      { v1 with origin := BitVec.ofNat 35 origin, tenant := BitVec.ofNat 12 (beAt hdr 13 2 % 4096), p := beAt hdr 16 2 % 1024 % 625,
                flags := fl, seq := w32 seq, trail := w32 trail, seen := true, finHdr := r.fin,
                finSeq := if r.finHdr = r.fin then r.finSeq else w32 seq, finTrail := if r.finHdr = r.fin then r.finTrail else w32 trail }
    else v1)

/-- SKEIN_HEADER_RX (R26, R47, R58): `line` is the header as it stands on the line; it is taken in SYNC only. -/
def execSkeinHeaderRx (k : Fin 81920) (line : List Byte) (s : State) : Out :=
  .next (if ¬ skeinHdrOk line then s
  else s.onLine (laneOf k.val) (fun s =>
    (s.when (decide ((s.lane (laneOf k.val)).framer = .sync)) (·.skeinHdr k.val (scramble (hdrPos k.val) line))).loopPut (laneOf k.val)
      (hdrPos k.val) (.skeinHeader k.val line)))

/-- The P that a pick of lane round `lr` counts from, and whether it belongs to the lane bolt before the last header. -/
def SkRx.isLate (r : SkRx) (lr : Nat) : Bool := r.late && decide (r.lastLr < lr ∧ 605 ≤ lr)
/-- rho of a pick of lane round `lr` (R29). -/
def SkRx.rhoOf (r : SkRx) (lr : Nat) : Nat := (lr + 625 - (if r.isLate lr then r.pPrev else r.p)) % 625

/-- C is complete: held for the next header, or compared with the one that waits for it. -/
def State.trailDone (s : State) (k : Nat) (c : Word) (n : Lane) : State :=
  match (s.rx k).wait with
  | none => s.modRx k (fun r => { r with acc := 0xFFFFFFFF, cnt := 0, held := some c, b1 := s.bolt, cause := decide (n.evt ≠ r.evt0) })
  | some w =>
    let s1 := s.modRx k (fun r =>
      { r with acc := 0xFFFFFFFF, cnt := 0, b1 := s.bolt, cause := decide (w.evt ≠ r.evt0 ∨ w.unc ≠ n.unc), wait := none })
    let r := { s1.rx k with held := some c }
    s1.trailEval k r (w.why ||| s1.condWhy k r) w.origin w.seq w.trail

/-- The ingress trail accumulator takes a payload pick of lane round `lr` (R29, R197). What came before the last header does so in any
state of the framer. -/
def State.trailFold (s0 : State) (k lr : Nat) (payload : List Byte) : State :=
  let isLate := (s0.rx k).isLate lr
  let s := if isLate then s0 else (s0.trailGiveUp k).modRx k (fun r => { r with late := false })
  let r := s.rx k
  let rho := r.rhoOf lr
  let n := s.lane (laneOf k)
  let fold := fun (c : Word) => w32 (payload.foldl (crcReflByte polyC) c.toNat)
  let s1 :=
    if ¬ r.seen ∨ ¬ (isLate ∨ n.framer = .sync) then s
    else if rho = 0 then s.modRx k (fun r => { r with acc := fold 0xFFFFFFFF, cnt := 1, evt0 := n.evt, b0 := s.bolt })
    else if r.cnt = rho then
      (if rho = 624 then s.trailDone k (fold r.acc ^^^ 0xFFFFFFFF) n else s.modRx k (fun r => { r with acc := fold r.acc, cnt := r.cnt + 1 }))
    else s.modRx k (fun r => { r with acc := 0xFFFFFFFF, cnt := 0 })
  s1.modRx k (fun r => { r with lastLr := lr, tail := if n.framer = .sync then 0 else r.tail + 1 })

/-! ### Received cells (R40, R41) -/

/-- Cells `first` on of channel cells `j0` on, as they stand on the line, descrambled (R26, R31). -/
def rxCells (j0 : Nat) (c : CellRun) : List (List Byte) := c.cells.mapIdx (fun i b => scramble (cellPos (j0 + c.first + i)) b)

/-- Cells reach lane `l`: a looped lane sends them back (R58), and in SYNC `f` takes them. In terminal loopback the line brings nothing (R58,
R462). -/
def State.cellsIn (s : State) (l j0 : Nat) (c : CellRun) (f : State → List (List Byte) → State) : State :=
  s.onLine l (fun s =>
    let s1 := seqAll (fun (e : Nat × List Byte) s => s.loopPut l (cellPos (j0 + e.1)) (.cell l (j0 + e.1) e.2))
      (c.cells.mapIdx (fun i b => (c.first + i, b))) s
    if (s.lane l).framer = .sync then f s1 (rxCells j0 c) else s1)

/-! ### Declarations (R45, R49) -/

/-- Reports a lane defect: LN_DEF follows, and LN_IRQ_RAW where it is not masked (R49, R62). -/
def State.reportL (s : State) (l d : Nat) (b : Bool) : State :=
  let s1 := (s.modInteg (laneKey l d) (fun i => { i with decl := b })).noteTen (.laneDefect l) false
  if s.maskedL l d then s1 else s1.irq (lnA l 0) (2 ^ d)

/-- Reports a skein defect. -/
def State.reportS (s : State) (k d : Nat) (b : Bool) : State :=
  let s1 := (s.modInteg (skKey k d) (fun i => { i with decl := b })).noteTen (.skeinDefect k) false
  if s.maskedS k d then s1 else s1.irq (lnA (laneOf k) 0) 0x10000

/-- Declares or clears where the integrated state, as the boundary left it, calls for it. -/
def State.report (s : State) (b : Bool) : DefectRef → State
  | .lane l d =>
    let i := s.integ1 (laneKey l.val d.val)
    if d.val ≠ 2 ∧ i.eff = b ∧ i.decl = !b then s.reportL l.val d.val b else s
  | .skein k d =>
    let i := s.integ1 (skKey k.val d.val)
    if i.eff = b ∧ i.decl = !b then s.reportS k.val d.val b else s

/-- DEFECT_DECLARED (R45). -/
def execDefectDeclared (d : DefectRef) (s : State) : Out := .next (s.report true d)
/-- DEFECT_CLEARED (R45). -/
def execDefectCleared (d : DefectRef) (s : State) : Out := .next (s.report false d)

/-! ### Alignment buffer (R53-R56) -/

/-- The signed value in -312 to 312 congruent to `b - a` modulo 625 (R56). -/
def jumpOf (a b : Nat) : Int := (((b : Int) - a + 312) % 625) - 312

/-- A recentre falls at the boundary: commanded, by a STEP align (R236), or LOS, LOL and LOF have all cleared after any of them (R56). -/
def State.recentreDue (s : State) (l : Nat) : Bool :=
  let n := s.lane l
  n.recCmd || decide (s.beat.alStep ≠ 0) || (n.lostIn && !s.effL l 0 && !s.effL l 1 && !s.effL l 3)

/-- F at module pick 384: payload picks written and not yet read, `d` rounds after they came, with pick 0 arriving in module pick
`arr` and `dly` picks in the delay line (R53, R452). The 100,000 payload picks of a lane bolt count as evenly spread over its 100,384
picks, since the swing of the overhead windows does not count (DEDUCED, notes/assumptions/12.md). -/
def fillAt (arr d dly : Nat) : Nat :=
  let v := (160 * d * 100384 + 2 * 100000 * 100384 - 100000 * arr - dly * 100384) / 100384 % 100000
  if 50000 ≤ v then 0 else min 1024 v

/-- The D that puts F nearest 512, at 432 to 591 (R54). -/
def centreD (arr dly : Nat) : Nat := (432 * 100384 + 100000 * arr + dly * 100384 + 160 * 100384 - 1) / (160 * 100384) % 625

/-- The recentre: a new D and F, counted; AIS rounds where D grows (R54, R56). -/
def State.recentre (s : State) (l : Nat) : State :=
  (s.modLane l (fun n =>
    let d := centreD n.arr n.dly
    { n with fill := fillAt n.arr d n.dly, off := d, jump := jumpOf n.off d, aisRounds := (jumpOf n.off d).toNat, recIn := true,
             recDue := false, lostIn := false, evt := n.evt + 1 })).incReg (lnA l 0x6C)

/-- RECENTRE (R56): due at a boundary, where `recDue` marks it. The row tells the F and D that the lane takes; with other values than those of
R54 it tells of no recentre of this lane. -/
def execRecentre (l : Fin 512) (fill : Nat) (off : Fin 625) (s : State) : Out :=
  .next (s.onLane l.val (fun s =>
    let n := s.lane l.val
    s.when (n.recDue && decide (off.val = centreD n.arr n.dly ∧ fill = fillAt n.arr off.val n.dly)) (·.recentre l.val)))

/-- LN_ALIGN (R64). A full buffer, F = 1,024, does not fit the 10 bits of FILL and shows 1,023 (DESIGN CHOICE,
notes/assumptions/46.md). -/
def State.lnAlign (s : State) (l : Nat) : Word :=
  let n := s.lane l
  let f := match n.framer with | .hunt => 0 | .presync => 1 | .sync => 2
  let j := if n.jump < -127 then -127 else if 127 < n.jump then 127 else n.jump
  w32 (min 1023 n.fill + n.off * 2 ^ 10 + f * 2 ^ 20 + n.cw.toNat * 2 ^ 22 + unsigned 8 j * 2 ^ 24)

/-! ### Register rows -/

/-- A write to an RW register of an LN page, within its writable bits. -/
def State.putMasked (s : State) (a : Nat) (v : Word) : State := s.setReg a (v &&& w32 (writeMask a))

/-- RECENTRE_COMMAND: a write of LN_ALIGN_CMD.RECENTRE (R56). -/
def execRecentreCommand (m : Mid) (l : Fin 512) (s : State) : Out :=
  .next (s.write4 m (lnA l.val 0x50) 1 (fun s => (s.modLane l.val (fun n => { n with recCmd := true }))))

/-- Terminal loopback ends: what the line lacks acts from here on (R46, R58). -/
def State.lineBack (s : State) (l : Nat) : State :=
  let n := s.lane l
  if s.ownStream l || (n.sig && n.clk && n.cw) then s
  else
    let s1 := s.modLane l (fun n => { n with losSeen := n.losSeen || !n.sig, lolSeen := n.lolSeen || !(n.clk && n.cw) })
    if n.framer = .hunt then s1 else s1.toHunt l false false

/-- A write of LN_MODE: where it changes what the transmitter sends, and not only lane mode 2 in the headers to come, the parity and the
pattern of the bolt under way are not known (R33, R61). -/
def State.modeWrite (s : State) (l : Nat) (v : Word) : State :=
  let t := s.putMasked (lnA l 0x40) v
  let sends := fun (s : State) => (s.rb (lnA l 0x40) 14, s.lnTxpat l, s.loops l)
  (if sends t = sends s then t else t.modLane l (fun n => { n with bipTx := none, txPat := none })).onLane l (·.lineBack l)

/-- LN_MODE_WRITE (R61). -/
def execLnModeWrite (m : Mid) (l : Fin 512) (v : Word) (s : State) : Out :=
  .next (s.write4 m (lnA l.val 0x40) v (fun s => s.modeWrite l.val v))

/-- A write of an LN_INTG register: the word in force lasts to the boundary, where both counts restart (R63). -/
def State.intgWrite (s : State) (l d : Nat) (v : Word) : State :=
  let old := s.intgWord l d
  (s.modLane l (fun n =>
    { n with intgOld := if n.intgOld.any (fun e => decide (e.1 = d)) then n.intgOld else n.intgOld ++ [(d, old)] })).putMasked
      (lnA l (0x80 + 4 * d)) v

/-- LN_INTG_WRITE (R63). -/
def execLnIntgWrite (m : Mid) (l : Fin 512) (d : Fin 15) (v : Word) (s : State) : Out :=
  .next (s.write4 m (lnA l.val (0x80 + 4 * d.val)) v (fun s => (s.intgWrite l.val d.val v)))

/-- A read of a register that the read clears (R6). -/
def State.readClear (s : State) (a : Nat) : State := (s.setReg a 0).answer ((s.reg a).setWidth 64)

/-- LN_PAT_ERR_CNT_READ (R60). -/
def execLnPatErrCntRead (m : Mid) (l : Fin 512) (s : State) : Out :=
  .next (s.access m (lnA l.val 0x74) 4 false (fun s => s.readClear (lnA l.val 0x74)))

/-! ### Die-to-die link (R20, R374) -/

/-- The skein bolt under way is not compared; nor is one whose header waits for it (R198). -/
def State.voidTrail (s : State) (k : Nat) : State := (s.trailGiveUp k).modRx k SkRx.void

/-- The skein bolts under way on every skein of a port are not compared (R198). -/
def State.voidTrails (s : State) (p : Nat) : State :=
  seqAll (fun (e : Nat × SkRx) s => s.when (decide (portOf e.1 = p)) (·.voidTrail e.1)) s.skrx s

/-- A parity error strikes a trail accumulator (R198). -/
def State.accErr (s : State) (k : Nat) : State := (s.voidTrail k).incReg 0x80060

/-- A debug access outstanding to tile `p` completes with LINK (R374, R450). -/
def State.dbgLink (s : State) (p : Nat) : State :=
  match s.jtag.busy with
  | some v =>
    if targetOf (fld v 34 24 * 4) = some (.regp p) then
      (s.decErr 68 68 (fld v 34 24 * 4) (decide (fld v 62 2 = 2)) .link).modJtag (fun j =>
        { j with busy := none, status := 1, data := if fld v 62 2 = 1 then 0 else v.setWidth 32 })
    else s
  | none => s

/-- The link of a port is lost: the accesses outstanding to its tile complete with LINK, those that waited in front of it too (R374, R379). -/
def State.linkLost (s : State) (p : Nat) (outstanding : List (Mid × BitVec 26 × Bool)) : State :=
  let l := outstanding.filter (fun e => decide (targetOf e.2.1.toNat = some (.regp p)))
  let any := !l.isEmpty || s.tst.shedQ.any (fun e => decide (targetOf e.a = some (.regp p)))
    || (match s.jtag.busy with | some v => decide (targetOf (fld v 34 24 * 4) = some (.regp p)) | none => false)
  let s1 := s.modPort p (fun q => { q with linkUp := false, downDecl := false, lostAt := s.bolt, lostIn := true })
  let s2 := seqAll (fun (e : Mid × BitVec 26 × Bool) s => s.decAns e.1 e.2.1.toNat e.2.2 .link) l s1
  (((s2.endWaits p .link).dbgLink p).when any (·.irq (shedA 0) 2)).noteDom

/-- D2D_LINK_LOST (R20, R374). -/
def execD2dLinkLost (p : Fin 8) (outstanding : List (Mid × BitVec 26 × Bool)) (s : State) : Out :=
  .next (s.when (s.reach p.val) (·.linkLost p.val outstanding))

/-- The centre tile declares the link of a port down (R20). -/
def State.declareDown (s : State) (p : Nat) : State :=
  if s.awake p ∧ ¬ (s.port p).linkUp then s.modPort p (fun q => { q with downDecl := true }) else s

/-- LINK_DOWN_DECLARED (R20). -/
def execLinkDownDeclared (p : Fin 8) (s : State) : Out := .next (s.declareDown p.val)

/-- Within 2 bolts of its loss a link is declared down, whether or not LINK_DOWN_DECLARED came (R20). -/
def State.linksLeft (s : State) : State :=
  seqAll (fun p s => s.when (!(s.port p).linkUp && decide (1 ≤ since s.bolt (s.port p).lostAt)) (·.declareDown p)) (List.range 8) s

/-- Transitions of the framers that are due and no row has taken (R44). -/
def State.framersLeft (s : State) : State :=
  seqAll (fun (e : Nat × Lane) s => s.onLane e.1 (fun s => s.framerDue e.1 (s.reg (lnA e.1 0x58)))) s.lanes s

/-- D2D_LINK_REGAINED (R198): the forcing ends; skein bolts under way are not compared. -/
def execD2dLinkRegained (p : Fin 8) (s : State) : Out :=
  .next (if s.awake p.val ∧ ¬ (s.port p.val).linkUp ∧ ¬ (s.port p.val).waking then
    (s.modPort p.val (fun q => { q with linkUp := true, downDecl := false })).voidTrails p.val |>.noteDom
  else s)

end Sys2Proof.Machine
end

