-- ==== Sys2Proof/Machine/Service.lean ====
section
/-! DEFINITION. What the weavers' services share: the state of a weaver as the trace records it (R278, R456), and rings of records in the scratch bank direct window
(R271, R485). -/
namespace Sys2Proof.Machine

/-- Code of WVR_STAT.STATE (R278). -/
def wvrCode : WvrSt → Nat
  | .off => 0 | .idle => 1 | .loading => 2 | .run => 3 | .drain => 4 | .sleep => 5 | .fault => 6 | .halt => 7

/-- The core clock runs: outside SLEEP, HALT and OFF (R381). -/
def wvrBusy : WvrSt → Bool
  | .off => false | .sleep => false | .halt => false | _ => true

/-- A weaver changes state; `cause` is the wake cause of the record (R456). -/
def State.setWvr (s : State) (w : Nat) (st : WvrSt) (cause : Nat := 0) : State :=
  let old := (s.weaver w).st
  let s1 := s.modWeaver w (fun x => { x with st := st, mixed := x.mixed || (wvrBusy old != wvrBusy st) })
  let x := s1.weaver w
  if old = st then s1
  else (s1.when (decide (old = .sleep ∧ (st = .run ∨ st = .drain))) (·.count 7 w 4)).traceIn 3 2 w (w32 (wvrCode st + x.role * 2 ^ 8 + x.epoch * 2 ^ 16)) (w32 cause)

/-- A weaver whose service has something to do is woken for it by its firmware's timer: none issues anything while asleep (R303, R375; DESIGN CHOICE,
notes/assumptions/25.md). -/
def State.wakeFor (s : State) (w : Nat) : State := s.when (decide ((s.weaver w).st = .sleep)) (·.setWvr w .run 2)

/-- The banks of weaver `w`, ascending: those of its role (R281, DEDUCED, notes/assumptions/26.md). -/
def State.banksOf (s : State) (w : Nat) : List Nat :=
  (List.range 40).filter (fun b => decide (s.bankKind b = 1 ∧ fld (s.bankOwn b) 0 8 = w))

/-- Bytes of the direct window as a master reads them: B48 up, and beyond the window, read zero (R334), and so does a bank in TEST (R336). -/
def State.winBytes (s : State) (a n : Nat) : List Byte :=
  (span a n).map (fun i => if i < 0x600000 ∧ s.bankKind (i / 0x20000) ≠ 4 then s.byteAt i else 0)

/-- What a master's read of those bytes does: each word of B0 to B47 is read (R343). -/
def State.winTouch (s : State) (a n : Nat) : State := s.readRun a (min n (0x600000 - a))

/-- Weaver `w` writes bytes to the direct window, word by word (R336). -/
def State.serviceWrite (s : State) (w off : Nat) (bs : List Byte) : State :=
  (s.wakeFor w).agentWrite (BitVec.ofNat 8 w) off bs false

/-- Size of a service ring (R274): log2 of records, 4-12, other values act as 6. -/
def State.svcSize (s : State) (size : Nat) : Nat := ringSize 4 12 (s.rf size 0 4)

/-- Where the record at HEAD of a ring of `n`-byte records stands. -/
def State.ringAt (s : State) (base size head n : Nat) : Nat := (s.reg base).toNat + n * ((s.reg head).toNat % 2 ^ s.svcSize size)

/-- The next record of a request ring of `n`-byte records that weaver `w` reads; none where it is empty, or its bank is held (R371). -/
def State.ringPeek (s : State) (w base size tail head n : Nat) : Option (List Byte) :=
  if ringEmpty (s.svcSize size) (s.reg tail).toNat (s.reg head).toNat ∨ s.winWaits (BitVec.ofNat 8 w) (s.ringAt base size head n) n then none
  else some (s.winBytes (s.ringAt base size head n) n)

/-- Weaver `w` reads the record at HEAD and advances HEAD past it. -/
def State.ringTake (s : State) (w base size head n : Nat) : State :=
  let s1 := s.wakeFor w
  (s1.winTouch (s1.ringAt base size head n) n).setReg head (w32 (ringNext (s1.svcSize size) (s1.reg head).toNat))

/-- A service ring is full. -/
def State.svcFull (s : State) (size tail head : Nat) : Bool := ringFull (s.svcSize size) (s.reg tail).toNat (s.reg head).toNat

/-- Weaver `w` cannot write the next record of `n` bytes: the ring is full, or its bank is held (R371). -/
def State.svcStuck (s : State) (w base size tail head n : Nat) : Bool :=
  s.svcFull size tail head || s.winWaits (BitVec.ofNat 8 w) (s.ringAt base size tail n) n

/-- Weaver `w` writes a record, then TAIL. -/
def State.ringWrite (s : State) (w base size tail : Nat) (r : List Byte) : State :=
  let t := (s.reg tail).toNat % 2 ^ s.svcSize size
  (s.serviceWrite w ((s.reg base).toNat + r.length * t) r).setReg tail (w32 (ringNext (s.svcSize size) t))

/-- `m` with the bytes from index `i` replaced. -/
def putAt (i : Nat) (bs m : List Byte) : List Byte := m.take i ++ bs ++ m.drop (i + bs.length)

end Sys2Proof.Machine
end

