-- ==== Sys2Proof/Machine/Bamry.lean ====
section
/-! DEFINITION. Bamry (R247-R276): the agent's messages, neighbours, device IDs, path setup and teardown, requests and timers.
A message is processed at the end of the bolt in which its last cell arrives; what the agent sends is queued and goes out at the next
boundary (R248, R249). -/
namespace Sys2Proof.Machine

/-- A hop entry (R259), as its eight bytes. -/
abbrev Hop := List Byte

/-! ### Messages (R250, R251) -/

def mType (m : List Byte) : Nat := beAt m 1 1
def mVer (m : List Byte) : Nat := beAt m 0 1 / 16
def mFrom (m : List Byte) : Nat := beAt m 4 3 % 2 ^ 18
def mOrig (m : List Byte) : Nat := beAt m 8 3 % 2 ^ 18
def mRno (m : List Byte) : Nat := beAt m 11 2
def mFlags (m : List Byte) : Nat := beAt m 16 1 % 4
def mNhop (m : List Byte) : Nat := beAt m 17 1
def mHidx (m : List Byte) : Nat := beAt m 18 1
def mAtt (m : List Byte) : Nat := beAt m 19 1 % 16
def mAge (m : List Byte) : Nat := beAt m 20 3
def mPver (m : List Byte) : Nat := beAt m 23 1 % 16
def mTenant (m : List Byte) : Nat := beAt m 24 2 % 4096
def mPfeat (m : List Byte) : Nat := beAt m 26 1 % 8
/-- Hop entry `i` of a SETUP or CONFIRM. -/
def mHop (m : List Byte) (i : Nat) : Hop := bytesAt m (40 + 8 * i) 8

/-- A message with LEN and MCRC set. -/
def sealMsg (m : List Byte) : List Byte :=
  let z := putAt 14 [0, 0] (putAt 2 (beBytes 2 m.length) m)
  putAt 14 (beBytes 2 (crc16 z)) z

/-- A message: type, ORIG, RNO and body; VER and FROM are set when it is sent. -/
def mkMsg (ty orig rno : Nat) (body : List Byte) : List Byte :=
  [0x10, BitVec.ofNat 8 ty, 0, 0, 0, 0, 0, 0] ++ beBytes 3 orig ++ beBytes 2 rno ++ [0, 0, 0] ++ body

/-- The types of R251. -/
def knownType (t : Nat) : Bool := decide (t ∈ [1, 2, 3, 4, 0x10, 0x11, 0x12, 0x13, 0x14])

/-- A message that a device accepts (R251): this stepping's highest version is 2. -/
def msgOk (m : List Byte) : Bool :=
  decide (beAt m 2 2 = m.length ∧ 16 ≤ m.length ∧ m.length ≤ 256 ∧ beAt m 14 2 = crc16 (putAt 14 [0, 0] m)) &&
    decide (1 ≤ mVer m ∧ mVer m ≤ 2) && knownType (mType m)

/-- Order of type of R248. -/
def msgPrio (m : List Byte) : Nat :=
  match mType m with
  | 0x13 => 0 | 0x14 => 0 | 0x12 => 1 | 0x11 => 2 | 0x10 => 3 | 1 => 5 | _ => 4

/-- The agent runs: a weaver serves the role (R273). -/
def State.bmyAgent (s : State) : Bool := (s.holder 2 0).isSome

/-- BMY_CFG.EN. -/
def State.bmyEn (s : State) : Bool := s.rb (bmyA 0x40) 0

/-- Own VMAX and FEAT as advertised (R252). -/
def State.ownVmax (s : State) : Nat := let v := s.rf (bmyA 0x40) 4 4
                                       if v = 1 then 1 else 2
def State.ownFeat (s : State) : Nat := if s.ownVmax = 1 then 0 else s.rf (bmyA 0x4C) 0 3
def State.helloInt (s : State) : Nat := atLeast1 (s.rf (bmyA 0x40) 8 8)
def State.helloLoss (s : State) : Nat := atLeast1 (s.rf (bmyA 0x40) 16 4)

/-- Queues a message for a port. -/
def State.bmySend (s : State) (p : Nat) (m : List Byte) : State :=
  s.modBmy (fun b => { b with txq := b.txq ++ [(p, s.bolt, m)] })

/-- A link on which path messages go: UP, VL at least 1 (R254). -/
def State.linkOk (s : State) (p : Nat) : Bool := decide ((s.nbr p).st = 1 ∧ 1 ≤ (s.nbr p).vl)

/-- A message as it leaves: FROM, the link's version, AGE counted on (R254, R264). -/
def State.dress (s : State) (p : Nat) (q : Word) (m : List Byte) : List Byte :=
  let v := if mType m < 0x10 then 1 else (s.nbr p).vl
  let m1 := putAt 4 (beBytes 3 s.devId) (putAt 0 [BitVec.ofNat 8 (16 * v)] m)
  sealMsg (if mType m = 0x10 then putAt 20 (beBytes 3 (min 16777215 (mAge m + since s.bolt q))) m1 else m1)

/-- Messages that start in 32 cells of the Bamry lane, less those a message under way takes: sent, kept, cells over (R248). -/
def takeCells : Nat → List (Word × List Byte) → List (Word × List Byte) × List (Word × List Byte) × Nat
  | n, [] => ([], [], n - 32)
  | n, m :: t =>
    if 32 ≤ n then ([], m :: t, n - 32)
    else let r := takeCells (n + (m.2.length + 60) / 61) t
         (m :: r.1, r.2.1, r.2.2)

/-- SETUPs of this device's own attempts leave, or are lost with their channel: SETUP_TMO runs from here (R272). -/
def State.markSent (s : State) (l : List (List Byte)) : State :=
  s.modBmy (fun b => { b with heads := b.heads.map (fun h =>
    if !h.sent && l.any (fun m => decide (mType m = 0x10 ∧ mOrig m = s.devId ∧ mRno m = h.rno ∧ mAtt m = h.att)) then
      { h with sent := true, sentAt := s.bolt } else h) })

/-- One port's channels of the new bolt: 32 cells of Bamry messages, those under way first, and 64 of management messages (R31, R40, R248).
Without a Bamry lane, messages are lost; without an agent that runs, the Bamry channel sends idle cells (R273). -/
def State.bmyFlushPort (s : State) (p : Nat) : State :=
  let mine := s.bmy.txq.filter (fun e => decide (e.1 = p))
  let s0 := s.modBmy (fun b => { b with txq := b.txq.filter (fun e => !decide (e.1 = p)) })
  let lost := mine.map (fun e => e.2.2)
  if (s.nbr p).lane.isNone then (s0.markSent lost).modNbr p (fun n => { n with cells := [], mcells := [], now := [], mnow := [] })
  else
    let s1 := s0.modNbr p (fun n => { n with mnow := n.mcells.take 64, mcells := n.mcells.drop 64 })
    if ¬ (s.bmyAgent ∧ s.bmyEn) then (s1.markSent lost).modNbr p (fun n => { n with cells := [], now := [] })
    else
      let go := (mine.filter (fun e => decide (mType e.2.2 < 0x10) || s.linkOk p)).map (fun e => e.2)
      let sorted := (List.range 6).flatMap (fun r => go.filter (fun e => decide (msgPrio e.2 = r)))
      let (out, kept, _) := takeCells (s.nbr p).cells.length sorted
      let msgs := out.map (fun e => s.dress p e.1 e.2)
      let all := (s.nbr p).cells ++ msgs.flatMap cellsOf
      let s2 := (s1.modBmy (fun b => { b with txq := b.txq ++ kept.map (fun e => (p, e.1, e.2)) })).modNbr p
        (fun n => { n with now := all.take 32, cells := all.drop 32 })
      let s3 := s2.markSent (lost.filter (fun m => !kept.any (fun e => decide (e.2 = m))))
      seqAll (fun m s => (s.emit (.bamry p m)).count 6 p 1) msgs s3

/-- The Bamry lane of a port, from the defects as the last boundary left them (R45, R247). -/
def State.bmyLane (s : State) (p : Nat) : Option Nat :=
  if s.reach p then
    (List.range 64).find? (fun n =>
      let l := 64 * p + n
      (s.lane l).framer == .sync && !s.effL l 0 && !s.effL l 1 && !s.effL l 3 && !s.effL l 8 && !s.effL l 7
        && decide (s.lnLoop l = 0) && decide (s.lnTxpat l = 0))
  else none

/-- The lane is chosen between messages: one that still sends the cells of a message stays (R247). Where the lane of a message under way can
no longer carry it, the cells left of a Bamry message are dropped, and those of a management message go on in the channel of the new lane
(DESIGN CHOICE, notes/assumptions/33.md). -/
def State.chooseLane (s : State) (p : Nat) : State :=
  let n := s.nbr p
  let stays := !n.cells.isEmpty && s.reach p && n.lane.any (fun i => s.carries (64 * p + i))
  let l := if stays then n.lane else s.bmyLane p
  s.modNbr p (fun n => { n with lane := l, cells := if l = n.lane then n.cells else [] })

/-! ### Neighbours (R252-R254) -/

/-- NBR, DUP causes. -/
def State.nbrIrq (s : State) (bits : Nat) : State := s.irq (bmyA 0) bits

/-- VL and FEAT_L of a link with this neighbour (R254, R269). -/
def State.negotiate (s : State) (n : Nbr) : Nat × Nat :=
  let v := min s.ownVmax n.vmax
  let vl := if v < 1 ∨ v < n.vmin then 0 else v
  (vl, if 2 ≤ vl then s.ownFeat &&& n.feat &&& 7 else 0)

/-- A link goes DOWN. -/
def Nbr.down (n : Nbr) : Nbr := { n with st := 0, helloCnt := 0, vl := 0, featL := 0, reneg := false }

/-- A HELLO of another device (R253). -/
def State.helloFrom (s : State) (p : Nat) (m : List Byte) : State :=
  let n := s.nbr p
  let ser := beAt m 16 8
  let vmin := beAt m 25 1 % 16
  let vmax := beAt m 26 1 % 16
  let feat := beAt m 28 4 % 8
  let fresh := decide (since s.bolt n.helloAt ≤ s.helloLoss * s.helloInt)
  let cnt := if n.helloCnt ≠ 0 ∧ (n.st = 2 ∨ (fresh ∧ n.from_ = mFrom m ∧ n.serial = ser)) then n.helloCnt + 1 else 1
  let n1 := { n with from_ := mFrom m, serial := ser, port := beAt m 24 1 % 8, helloAt := s.bolt, helloCnt := cnt, vmin := vmin,
                     vmax := vmax, feat := feat, headless := bit (BitVec.ofNat 32 (beAt m 32 4)) 0,
                     assigner := bit (BitVec.ofNat 32 (beAt m 32 4)) 1 }
  if n.st = 1 then
    if n.serial ≠ ser then (s.modNbr p (fun _ => { n1.down with helloCnt := 1 })).nbrIrq 2
    else s.modNbr p (fun _ => { n1 with reneg := n.reneg || decide (vmax ≠ n.vmax ∨ feat ≠ n.feat) })
  else if 2 ≤ cnt then
    let (vl, f) := s.negotiate n1
    (s.modNbr p (fun _ => { n1 with st := 1, vl := vl, featL := f, reneg := false })).nbrIrq 2
  else s.modNbr p (fun _ => n1)

/-- HELLO (R253). In DUP one whose FROM is this device's ID, be it 0, does not count toward UP. -/
def State.hello (s : State) (p : Nat) (m : List Byte) : State :=
  let own := decide (mFrom m = s.devId)
  if own ∧ (s.devId ≠ 0 ∨ (s.nbr p).st = 2) then
    (s.modNbr p (fun n => { n.down with st := 2, from_ := mFrom m, serial := beAt m 16 8, port := beAt m 24 1 % 8,
                                        headless := bit (BitVec.ofNat 32 (beAt m 32 4)) 0, helloAt := s.bolt })).when
      (decide ((s.nbr p).st ≠ 2)) (·.nbrIrq 4)
  else s.helloFrom p m

/-- The renegotiation that falls at the boundary (R254). -/
def State.renegotiate (s : State) (p : Nat) : State :=
  let n := s.nbr p
  if n.reneg then
    let (vl, f) := s.negotiate n
    (s.modNbr p (fun n => { n with vl := if n.st = 1 then vl else 0, featL := if n.st = 1 then f else 0, reneg := false })).when
      (decide (n.st = 1 ∧ vl ≠ n.vl)) (·.nbrIrq 2)
  else s

/-- The UP link's HELLOs have stopped, or its port has no lane for them (R253). -/
def State.helloLossDue (s : State) (p : Nat) : State :=
  let n := s.nbr p
  if n.st = 1 ∧ (s.helloLoss * s.helloInt ≤ since s.bolt n.helloAt ∨ s.bmyLane p = none) then
    (s.modNbr p (·.down)).nbrIrq 2
  else s

/-- The body of a HELLO (R252). -/
def State.helloMsg (s : State) (p : Nat) : List Byte :=
  mkMsg 1 0 0 (beBytes 8 s.serialNo ++ [BitVec.ofNat 8 p, 1, BitVec.ofNat 8 s.ownVmax, 0] ++ beBytes 4 s.ownFeat ++
    beBytes 4 (s.headless.toNat + 2 * (s.rb (bmyA 0x40) 1 && decide (s.rf (bmyA 0x58) 0 18 ≠ 0)).toNat + 4 * (decide (s.devId = 0)).toNat)
    ++ [0, 0, 0, 0])

/-- HELLO on every port, and ID_REQ where an ID is wanted (R251, R256). -/
def State.helloSend (s : State) : State :=
  if s.bmyAgent ∧ s.bmyEn ∧ s.helloInt ≤ since s.bolt s.bmy.helloAt then
    let s1 := seqAll (fun p s => s.bmySend p (s.helloMsg p)) (List.range 8) (s.modBmy (fun b => { b with helloAt := s.bolt }))
    if s.rb (bmyA 0x40) 2 ∧ s.devId = 0 then
      seqAll (fun p s => if (s.nbr p).st = 1 ∧ (s.nbr p).assigner then s.bmySend p (mkMsg 2 0 0 (beBytes 8 s.serialNo)) else s)
        (List.range 8) s1
    else s1
  else s

/-! ### Device IDs (R255-R257) -/

/-- The body of ID_OFFER and ID_ACK. -/
def idBody (serial id : Nat) : List Byte := beBytes 8 serial ++ beBytes 3 id ++ [0, 0, 0, 0, 0]

/-- ID_REQ: an assigner offers its next ID. -/
def State.idReq (s : State) (p : Nat) (m : List Byte) : State :=
  let base := s.rf (bmyA 0x54) 0 18
  let n := s.rf (bmyA 0x58) 0 18
  if s.rb (bmyA 0x40) 1 ∧ n ≠ 0 then
    ((((s.setReg (bmyA 0x54) (w32 ((base + 1) % 2 ^ 18))).setReg (bmyA 0x58) (w32 (if 250000 < base + 1 then 0 else n - 1))).modBmy
      (fun b => { b with offers := b.offers ++ [(base, s.bolt)] }))).bmySend p (mkMsg 3 0 0 (idBody (beAt m 16 8) base))
  else s

/-- ID_OFFER: an unassigned device takes the first offer to its own SERIAL. The write of a reserved ID to BMY_DEVID is ignored and logged
(R275), with the agent's weaver as its master, and the offer is not taken. -/
def State.idOffer (s : State) (p : Nat) (m : List Byte) : State :=
  let id := beAt m 24 3 % 2 ^ 18
  if s.rb (bmyA 0x40) 2 ∧ s.devId = 0 ∧ beAt m 16 8 = s.serialNo then
    if 250000 < id then s.errlog (bmyA 0) 0x44 (BitVec.ofNat 8 ((s.holder 2 0).getD 0))
    else ((s.setReg (bmyA 0x44) (w32 (id + 2 ^ 18))).nbrIrq 8).bmySend p (mkMsg 4 0 0 (idBody s.serialNo id))
  else s

/-- ID_ACK: the offer is taken. -/
def State.idAck (s : State) (m : List Byte) : State :=
  s.modBmy (fun b => { b with offers := b.offers.filter (fun o => !decide (o.1 = beAt m 24 3 % 2 ^ 18)) })

/-- Offers unacknowledged for 64 bolts. -/
def State.offerTimeout (s : State) : State :=
  let old := fun (o : Nat × Word) => decide (64 ≤ since s.bolt o.2)
  (s.modBmy (fun b => { b with offers := b.offers.filter (fun o => !old o) })).incReg (bmyA 0x74) (s.bmy.offers.filter old).length

/-! ### Addresses and resources (R258, R259, R261) -/

def hDev (h : Hop) : Nat := beAt h 0 3 % 2 ^ 18
def hCtl (h : Hop) : BitVec 8 := h.getD 3 0
def hAny (h : Hop) : Bool := bit (hCtl h) 7
def hThr (h : Hop) : Bool := bit (hCtl h) 6
def hRport (h : Hop) : Nat := fld (hCtl h) 3 3
def hPort (h : Hop) : Nat := fld (hCtl h) 0 3
def hLane (h : Hop) : Nat := beAt h 4 1 % 64
def hSkein (h : Hop) : Nat := beAt h 5 1
def hThread (h : Hop) : Nat := beAt h 6 1 % 128
def hRvalid (h : Hop) : Bool := bit (h.getD 7 0) 7
def hRlane (h : Hop) : Nat := beAt h 7 1 % 64

/-- A resolved hop entry (R259). -/
def mkHop (dev : Nat) (thr : Bool) (rport port lane skein thread : Nat) (rlane : Option Nat) : Hop :=
  beBytes 3 dev ++ [BitVec.ofNat 8 (64 * thr.toNat + 8 * rport + port), BitVec.ofNat 8 lane, BitVec.ofNat 8 skein,
    BitVec.ofNat 8 thread, match rlane with | some r => BitVec.ofNat 8 (128 + r) | none => 0]

/-- The LADDR last accepted on a lane: device, port, lane (R32, R60). -/
def State.laddr (s : State) (l : Nat) : Nat × Nat × Nat :=
  let w := s.reg (lnA l 0x5C)
  (fld w 9 18, fld w 6 3, fld w 0 6)

/-- The lane whose accepted LADDR names a device's port and lane. -/
def State.laneNaming (s : State) (dev port lane : Nat) : Option Nat :=
  (s.lanes.map (·.1)).find? (fun l => decide (s.laddr l = (dev, port, lane)))

/-- Fine loom input that trunk skein `k` feeds in the active Heddle. -/
def State.fineIn (s : State) (k : Nat) : Option Nat :=
  ((s.loom.act.fed (lsrOfNo k)).find? (fun d => decide (lsrPort d = 8))).map lsrIdx

/-- Fine loom output that feeds the egress of trunk skein `k`. -/
def State.fineOut (s : State) (k : Nat) : Option Nat :=
  let d := lsrOfNo k
  let e := s.loom.act.egE d
  if egMode e = 0 then none
  else match s.loom.act.source (lsrPort d) (egSlot e) with
    | some x => if lsrPort x = 8 then some (lsrIdx x) else none
    | none => none

/-- Records at this level that use a source or a destination of these connections. -/
def State.clashes (s : State) (thr : Bool) (conns : List (Nat × Nat)) : List PathRec :=
  s.bmy.recs.filter (fun r => r.thr == thr && r.conns.any (fun c => conns.any (fun d => decide (c.1 = d.1 ∨ c.2 = d.2))))

/-- Age of a reservation now (R264). -/
def State.recAge (s : State) (r : PathRec) : Nat := min 16777215 (r.age + since s.bolt r.at_)

/-- The requester is older than the holder (R265). -/
def State.older (s : State) (age orig rno : Nat) (r : PathRec) : Bool :=
  let a := s.recAge r
  decide (a < age ∨ (a = age ∧ (orig < r.orig ∨ (orig = r.orig ∧ rno < r.rno))))

/-- A refusal of a step: reason and DETAIL (R263). -/
abbrev Steps (α : Type) := Except (Nat × Nat) α

def stepFail {α : Type} (reason : Nat) (detail : Nat := 0) : Steps α := .error (reason, detail)

/-- Passes where the condition holds. -/
def check (c : Bool) (reason : Nat) (detail : Nat := 0) : Steps Unit := if c then .ok () else .error (reason, detail)

/-- FLAGS of a SETUP; zero in format version 1 (R270). -/
def setupFlags (m : List Byte) : Nat := if mVer m = 1 then 0 else mFlags m

/-- Step 1: the route (R261): DEV of entry HIDX, where there is one, then the rest. -/
def State.stepHops (s : State) (m : List Byte) (head : Bool) : Steps Unit := do
  let n := mNhop m
  let i := mHidx m
  let thr := bit (BitVec.ofNat 8 (setupFlags m)) 1
  check (decide (48 + 8 * i ≤ m.length ∧ hDev (mHop m i) = s.devId) || decide (m.length < 48 + 8 * i)) 0xF
  check (decide (1 ≤ n ∧ n ≤ 16 ∧ i < n ∧ m.length = 40 + 8 * n ∧ (head = true ∨ 1 ≤ i))) 5
  check ((List.range n).all (fun j => hThr (mHop m j) == thr)) 5
  check (!(decide (mVer m = 1 ∧ 8 < n) && !head)) 5
  let h := mHop m i
  check (decide (hSkein h < 160) || (hAny h && !thr)) 5
  check (!thr || hAny h || decide (hThread h < 125 ∨ hThread h = 127)) 5

/-- Step 3: the ingress skein and thread (R261). -/
def State.stepArrival (s : State) (m : List Byte) (head : Bool) : Steps (Nat × Nat) :=
  let f := setupFlags m
  let thr := bit (BitVec.ofNat 8 f) 1
  if head then
    let a := beAt m 28 6 % 2 ^ 42
    let t := a % 128
    if a / 2 ^ 24 = s.devId ∧ a / 2 ^ 7 % 256 < 160 ∧ (if thr then t < 125 else t = 127) then
      .ok ((a / 2 ^ 21 % 8 * 64 + a / 2 ^ 15 % 64) * 160 + a / 2 ^ 7 % 256, t)
    else stepFail 5
  else
    let h := mHop m (mHidx m - 1)
    match s.laneNaming (hDev h) (hPort h) (hLane h) with
    | none => stepFail 0x10
    | some l =>
      if bit (BitVec.ofNat 8 f) 0 ∧ ¬ (hRvalid h ∧ hRport h = l / 64 ∧ hRlane h = l % 64) then stepFail 0xB
      else if 160 ≤ hSkein h then stepFail 5
      else .ok (160 * l + hSkein h, hThread h)

/-- Step 4: the egress skein and thread. THREAD 127 leaves the choice of the thread open, as ANY does (R259). -/
def State.stepEgress (s : State) (m : List Byte) : Steps (Nat × Nat) :=
  let h := mHop m (mHidx m)
  let k := (hPort h * 64 + hLane h) * 160 + hSkein h
  if ¬ hThr h then
    if hAny h then
      match (List.range 10240).find? (fun i =>
          let k := hPort h * 10240 + i
          decide (egMode (s.loom.act.egE (lsrOfNo k)) = 0 ∧ s.tenTab k = mTenant m) &&
            !s.bmy.recs.any (fun r => !r.thr && r.conns.any (fun c => decide (c.2 = lsrOfNo k)))) with
      | some i => .ok (hPort h * 10240 + i, 127)
      | none => stepFail 1
    else .ok (k, 127)
  else if hAny h ∨ hThread h = 127 then
    match s.fineOut k with
    | none => stepFail 0xE
    | some f =>
      match (List.range 125).find? (fun t =>
          decide (outMode (s.fine.act.outE (128 * f + t)) = 0) &&
            !s.bmy.recs.any (fun r => r.thr && r.conns.any (fun c => decide (c.2 = 128 * f + t)))) with
      | some t => .ok (k, t)
      | none => stepFail 1
  else .ok (k, hThread h)

/-- The connections of a segment: forward, and for BIDIR the reverse pair (R261 step 5). -/
def State.stepConns (s : State) (thr bidir : Bool) (kin tin kout tout : Nat) : Steps (List (Nat × Nat)) :=
  if thr then
    match s.fineIn kin, s.fineOut kout with
    | some f, some g =>
      if bidir then
        (match s.fineIn kout, s.fineOut kin with
         | some f', some g' => .ok [(128 * f + tin, 128 * g + tout), (128 * f' + tout, 128 * g' + tin)]
         | _, _ => stepFail 0xE)
      else .ok [(128 * f + tin, 128 * g + tout)]
    | _, _ => stepFail 0xE
  else .ok ((lsrOfNo kin, lsrOfNo kout) :: (if bidir then [(lsrOfNo kout, lsrOfNo kin)] else []))

/-- Step 5: every destination unconnected, every resource free or won (R261, R265). -/
def State.stepFree (s : State) (thr : Bool) (conns : List (Nat × Nat)) (age orig rno : Nat) : Steps (List PathRec) := do
  check (conns.all (fun c => if thr then decide (outMode (s.fine.act.outE c.2) = 0)
                             else decide (egMode (s.loom.act.egE c.2) = 0))) 1
  let cl := s.clashes thr conns
  check (cl.all (fun r => !r.committed && !r.posting)) 1
  check (cl.all (fun r => s.older age orig rno r)) 2
  .ok cl

/-- Step 6: every table tenant is TENANT. -/
def State.stepTenant (s : State) (thr : Bool) (conns : List (Nat × Nat)) (ten : Nat) : Steps Unit :=
  check (conns.all (fun c =>
    if thr then decide (s.threadTen false c.1 = ten ∧ s.threadTen true c.2 = ten)
    else decide (s.tenTab (skNo c.1) = ten ∧ s.tenTab (skNo c.2) = ten))) 6

/-- FEAT bits that a path needs (R269). -/
def needs (flags nhop : Nat) : Nat := flags % 4 + (if 9 ≤ nhop then 4 else 0)

/-- Steps 8 and 9: the next link, and the neighbour named on the return lane. -/
def State.stepNext (s : State) (m : List Byte) (kout : Nat) : Steps (Option (Nat × Nat)) := do
  if mHidx m + 1 = mNhop m then .ok none
  else
    let p := kout / 10240
    check (s.linkOk p) 8
    check (s.rb (bmyA 0x5C) (8 + p)) 0xC
    let miss := needs (setupFlags m) (mNhop m) &&& (7 ^^^ (s.nbr p).featL)
    check (decide (miss = 0)) 4 miss
    if bit (BitVec.ofNat 8 (setupFlags m)) 0 then
      let a := s.laddr (kout / 160)
      check (decide (a.1 = hDev (mHop m (mHidx m + 1)))) 0xB
      .ok (some a.2)
    else .ok none

/-! ### Releasing and refusing (R263, R265, R267) -/

/-- A record leaves the table; its ports are remembered for messages that follow. -/
def State.release (s : State) (r : PathRec) : State :=
  s.modBmy (fun b =>
    { b with recs := b.recs.filter (fun x => !decide (x = r)),
             routes := (r.orig, r.rno, r.inPort, r.outPort) :: b.routes.filter (fun x => !decide (x.1 = r.orig ∧ x.2.1 = r.rno)) })

/-- REFUSE originated here (R263). -/
def State.sendRefuse (s : State) (p orig rno reason hidx att detail : Nat) : State :=
  (s.incReg (bmyA 0x6C)).bmySend p
    (mkMsg 0x12 orig rno ([BitVec.ofNat 8 reason, BitVec.ofNat 8 hidx, BitVec.ofNat 8 att, 0] ++ beBytes 4 detail))

/-- A TEARDOWN message (R267). -/
def tdMsg (orig rno hidx att cause dir : Nat) : List Byte :=
  mkMsg 0x13 orig rno ([BitVec.ofNat 8 hidx, BitVec.ofNat 8 att, BitVec.ofNat 8 cause, BitVec.ofNat 8 dir, 0, 0, 0, 0])

/-- A TEARDOWN can be sent on the port now. -/
def State.tdCan (s : State) (p : Nat) : Bool := s.linkOk p && (s.nbr p).lane.isSome

/-- A TEARDOWN that is queued for port `p`. -/
def TdOut.queued (p : Nat) (t : TdOut) : Bool := decide (t.port = p ∧ (t.sends = 0 ∨ t.sends = 9))

/-- Queues a TEARDOWN for a port, up to 1,024 with the `more` that stand elsewhere; beyond that it is dropped and counted (R267). `n` 9: it has
been sent 8 times. -/
def State.tdQueue (s : State) (p n : Nat) (m : List Byte) (more : Nat := 0) : State :=
  if 1024 ≤ (s.bmy.tds.filter (TdOut.queued p)).length + more then s.incReg (bmyA 0x7C)
  else s.modBmy (fun b => { b with tds := b.tds ++ [⟨p, m, n, s.bolt⟩] })

/-- Sends a TEARDOWN, or queues it while the link is DOWN. -/
def State.tdSend (s : State) (p : Nat) (m : List Byte) : State :=
  if s.tdCan p then (s.bmySend p m).modBmy (fun b => { b with tds := b.tds ++ [⟨p, m, 1, s.bolt⟩] }) else s.tdQueue p 0 m

/-- TEARDOWN toward the tail (`dir` 0) or the head (1) along a record. -/
def State.tdAlong (s : State) (r : PathRec) (att cause dir : Nat) : State :=
  match (if dir = 0 then r.outPort else r.inPort) with
  | some p => s.tdSend p (tdMsg r.orig r.rno r.hidx att cause dir)
  | none => s

/-- Resends of a port: every 8 bolts, 8 sends. Then, or where it cannot be sent, it is queued; after 8 sends it waits until the link next
comes up (R267, R272; DEDUCED, notes/assumptions/33.md). -/
def State.tdResend (s : State) (p : Nat) : State :=
  let up := s.tdCan p
  let l := s.bmy.tds
  seqAll (fun (e : TdOut × Nat) s =>
    let t := e.1
    let keep := fun (t : TdOut) (s : State) => s.modBmy (fun b => { b with tds := b.tds ++ [t] })
    if t.port ≠ p then keep t s
    else if t.sends = 0 then
      (if up ∧ t.at_ ≠ s.bolt then keep { t with sends := 1, at_ := s.bolt } (s.bmySend p t.msg) else keep t s)
    else if t.sends = 9 then keep (if up then t else { t with sends := 0 }) s
    else if since s.bolt t.at_ < 8 then keep t s
    else if 8 ≤ t.sends then s.tdQueue p (if up then 9 else 0) t.msg e.2
    else if ¬ up then s.tdQueue p 0 t.msg e.2
    else keep { t with sends := t.sends + 1, at_ := s.bolt } (s.bmySend p t.msg))
    (l.mapIdx (fun i t => (t, ((l.drop (i + 1)).filter (TdOut.queued p)).length))) (s.modBmy (fun b => { b with tds := [] }))

/-! ### Results (R271) -/

/-- Writes held results while the ring has room. -/
def State.bmyDrain : Nat → State → State
  | 0, s => s
  | n + 1, s =>
    match s.bmy.held, s.holder 2 0 with
    | r :: t, some w =>
      if s.svcStuck w (bmyA 0x90) (bmyA 0x94) (bmyA 0x98) (bmyA 0x9C) 128 then s
      else State.bmyDrain n (((s.ringWrite w (bmyA 0x90) (bmyA 0x94) (bmyA 0x98) r).modBmy (fun b => { b with held := t })).irq (bmyA 0) 1)
    | _, _ => s

/-- A result: written, held (up to 256), or dropped and counted. -/
def State.bmyResult (s : State) (r : List Byte) : State :=
  if 256 ≤ s.bmy.held.length then
    (s.setReg (bmyA 0xA0) (w32 ((s.rf (bmyA 0xA0) 0 16 + 1) % 2 ^ 16 + 2 ^ 16 * leAt r))).irq (bmyA 0) 0x20
  else State.bmyDrain 257 (s.modBmy (fun b => { b with held := b.held ++ [r] }))
where
  /-- TAG of a record. -/
  leAt (r : List Byte) : Nat := beAt r 0 2

/-- A result record (R271): the request with its hops resolved and the path's RNO. -/
def State.resultRec (s : State) (req : List Byte) (rno : Nat) (hops : List Byte) (result reason hidx att pver pfeat detail : Nat) : List Byte :=
  let r := putAt 24 (hops ++ (req.drop (24 + hops.length)).take (128 - hops.length)) (putAt 14 (beBytes 2 rno) (padTo 160 req))
  putAt 152 (beBytes 4 detail) (putAt 16 ([BitVec.ofNat 8 result, BitVec.ofNat 8 reason, BitVec.ofNat 8 hidx, BitVec.ofNat 8 att,
    BitVec.ofNat 8 pver, BitVec.ofNat 8 pfeat] ++ beBytes 2 s.bolt.toNat) r)

/-- A refusal result with the request's own hops. -/
def State.refusedRec (s : State) (req : List Byte) (rno reason hidx att detail : Nat) : List Byte :=
  s.resultRec req rno [] 2 reason hidx att 0 0 detail

/-! ### Heads (R271, R272) -/

/-- Reasons after which the head tries again (R263). -/
def retryReason (r : Nat) : Bool := decide (r = 2 ∨ r = 3 ∨ r = 0xD)

/-- Changes one head's entry. -/
def State.modHead (s : State) (rno : Nat) (f : HeadReq → HeadReq) : State :=
  s.modBmy (fun b => { b with heads := b.heads.map (fun h => if h.rno = rno then f h else h) })

/-- An attempt ended with a reason: a backoff, or the result (R272). -/
def State.headFail (s : State) (h : HeadReq) (reason hidx detail : Nat) : State :=
  if retryReason reason ∧ h.att + 1 < atLeast1 (s.rf (bmyA 0x40) 20 4) then
    let w := s.bolt + w32 (16 * (h.att + 1) + Config.backoff s.free % 16)
    { s.modHead h.rno (fun h => { h with waiting := some w }) with free := s.free + 1 }
  else
    (s.bmyResult (s.refusedRec h.req h.rno reason hidx h.att detail)).modBmy (fun b =>
      { b with heads := b.heads.filter (fun x => !decide (x.rno = h.rno)) })

/-- The live attempt of this device's own path. -/
def State.headOf (s : State) (orig rno att : Nat) : Option HeadReq :=
  if orig = s.devId then s.bmy.heads.find? (fun h => decide (h.rno = rno ∧ h.att = att ∧ h.waiting = none) && !h.done) else none

/-- A SETUP of the reservation still waits to be sent. -/
def PathRec.sends (r : PathRec) (e : Nat × Word × List Byte) : Bool :=
  decide (mType e.2.2 = 0x10 ∧ mOrig e.2.2 = r.orig ∧ mRno e.2.2 = r.rno ∧ mAtt e.2.2 = r.att)

/-- A holder loses its reservation to an older request (R265): a SETUP not yet forwarded is dropped, one that was is followed by
TEARDOWN. -/
def State.preempt (s : State) (r : PathRec) : State :=
  let s0 := (s.release r).incReg (bmyA 0x68)
  let s1 := if s.bmy.txq.any r.sends then s0.modBmy (fun b => { b with txq := b.txq.filter (fun e => !r.sends e) })
            else s0.tdAlong r r.att 2 0
  match r.inPort with
  | some p => s1.sendRefuse p r.orig r.rno 3 r.hidx r.att 0
  | none => match s1.headOf r.orig r.rno r.att with
    | some h => s1.headFail h 3 r.hidx 0
    | none => s1

/-! ### Commands and completions (R262) -/

/-- Writes the words of a command through window C of an engine. -/
def State.postWindowC (s : State) (fe : Bool) (op tag src dst : Nat) : State :=
  let w0 := w32 (op + 2 ^ 8 + 2 * 2 ^ 10 + tag * 2 ^ 16)
  seqAll (fun (e : Nat × Word) s => s.windowWrite fe 2 e.1 e.2)
    [(0, w0), (1, w32 src), (2, w32 dst), (3, 0), (4, 0), (5, 0), (6, 0), (7, 0)] s

/-- The next TAG of the agent. -/
def State.bmyTag (s : State) : Nat × State := (s.bmy.tag, s.modBmy (fun b => { b with tag := (b.tag + 1) % 2 ^ 16 }))

/-- Posts CONNECT or TCONNECT for each connection, CMT = 1; answers the TAGs. -/
def State.postConns (s : State) (thr : Bool) : List (Nat × Nat) → State × List Nat
  | [] => (s, [])
  | c :: t =>
    let (g, s1) := s.bmyTag
    let r := State.postConns (s1.postWindowC thr 0x01 g c.1 c.2) thr t
    (r.1, g :: r.2)

/-- Posts DISCONNECT or TDISCONNECT for each connection. -/
def State.postDisc (s : State) (r : PathRec) : State :=
  seqAll (fun c s => let (g, s1) := s.bmyTag
                     s1.postWindowC r.thr 0x02 g 0 c.2) r.conns s

/-- Replaces a record. -/
def State.modRec (s : State) (r : PathRec) (f : PathRec → PathRec) : State :=
  s.modBmy (fun b => { b with recs := b.recs.map (fun x => if x = r then f x else x) })

/-- A segment's connections are posted. -/
def State.postSegment (s : State) (r : PathRec) : State :=
  let (s1, tags) := s.postConns r.thr r.conns
  s1.modRec r (fun r => { r with posting := true, tags := tags })

/-- A failing completion (R262), or a CONFIRM while headless (R273). -/
def State.segmentFail (s : State) (r : PathRec) (reason detail : Nat) : State :=
  let s1 := (s.release r).tdAlong r r.att 1 0
  match r.inPort with
  | some p => s1.sendRefuse p r.orig r.rno reason r.hidx r.att detail
  | none => match s1.headOf r.orig r.rno r.att with
    | some h => s1.headFail h reason r.hidx detail
    | none => s1

/-- A segment is connected: CONFIRM upstream, or the head's result. -/
def State.segmentDone (s : State) (r : PathRec) : State :=
  let s1 := s.modRec r (fun r => { r with committed := true, posting := false, tags := [] })
  match r.inPort with
  | some p => s1.bmySend p (putAt 18 [BitVec.ofNat 8 (r.hidx - 1)] (putAt 1 [0x11] r.msg))
  | none => match s1.headOf r.orig r.rno r.att with
    | some h => (s1.modHead r.rno (fun h => { h with done := true })).bmyResult
        (s.resultRec h.req h.rno (r.msg.drop 40) 0 0 0 h.att (mPver r.msg) (mPfeat r.msg) 0)
    | none => s1

/-- All of a segment's commands have completed. -/
def State.segmentEnd (s : State) (r : PathRec) : State :=
  if r.bad = 0 then s.segmentDone r
  else if s.headless ∧ r.bad = 0x100 then s.segmentFail r 7 0
  else s.segmentFail r 0xA r.bad

/-- A completion with TAG and STATUS. -/
def State.completed (s : State) (tag status : Nat) : State :=
  match s.bmy.recs.find? (fun r => r.posting && decide (tag ∈ r.tags)) with
  | none => s
  | some r =>
    let r1 := { r with tags := r.tags.filter (fun t => !decide (t = tag)), bad := if r.bad = 0 then status else r.bad }
    let s1 := s.modRec r (fun _ => r1)
    if r1.tags = [] then s1.segmentEnd r1 else s1

/-- The next entry of an agent ring: TAG and STATUS, and HEAD advanced (R94, R95). -/
def State.agentEntry (s : State) (fe : Bool) : Option (Nat × Nat × State) :=
  let (base, size, tail, head, _) := ringRegs fe 2
  let sz := ringSize 6 16 (s.rf size 0 5)
  let a := (s.reg base).toNat + 16 * ((s.reg head).toNat % 2 ^ sz)
  if ringEmpty sz (s.reg tail).toNat (s.reg head).toNat ∨ s.winWaits (BitVec.ofNat 8 ((s.holder 2 0).getD 0)) a 16 then none
  else
    let bs := s.winBytes a 4
    some (leVal (bytesAt bs 0 2), leVal (bytesAt bs 2 1), (s.winTouch a 16).setReg head (w32 (ringNext sz (s.reg head).toNat)))

/-! ### SETUP (R261) -/

/-- The outcome of a SETUP here: refused, or a record and the message as this device passes it on. -/
def State.admitSetup (s : State) (inPort : Option Nat) (m : List Byte) : State × Steps PathRec :=
  let head := inPort.isNone
  let f := setupFlags m
  let thr := bit (BitVec.ofNat 8 f) 1
  let bidir := bit (BitVec.ofNat 8 f) 0
  let pre : Steps ((Nat × Nat) × (Nat × Nat) × List (Nat × Nat) × List PathRec) := do
    s.stepHops m head
    check (!s.headless) 7
    check (match inPort with | some p => s.rb (bmyA 0x5C) p | none => true) 0xC
    let a ← s.stepArrival m head
    let e ← s.stepEgress m
    let c ← s.stepConns thr bidir a.1 a.2 e.1 e.2
    let held ← s.stepFree thr c (mAge m) (mOrig m) (mRno m)
    .ok (a, e, c, held)
  match pre with
  | .error r => (s, .error r)
  | .ok (_, e, c, held) =>
    let t := seqAll (fun r s => s.preempt r) held s
    let post : Steps PathRec := do
      t.stepTenant thr c (mTenant m)
      check (decide (t.bmy.recs.length < 65536)) 9
      let ret ← t.stepNext m e.1
      let h := mkHop t.devId thr (match ret with | some (p, _) => p | none => 0) (e.1 / 10240) (e.1 / 160 % 64) (e.1 % 160)
        (if thr then e.2 else 127) (ret.map (·.2))
      let last := decide (mHidx m + 1 = mNhop m)
      let p := e.1 / 10240
      let pv := if mVer m = 1 ∧ !head then 1 else mPver m
      let pf := if mVer m = 1 ∧ !head then 0 else mPfeat m
      let m1 := putAt (40 + 8 * mHidx m) h (putAt 16 [BitVec.ofNat 8 f] m)
      let m2 := if last then putAt 26 [BitVec.ofNat 8 pf] (putAt 23 [BitVec.ofNat 8 pv] m1)
                else putAt 26 [BitVec.ofNat 8 (pf &&& (t.nbr p).featL)] (putAt 23 [BitVec.ofNat 8 (min pv (t.nbr p).vl)] m1)
      .ok { orig := mOrig m, rno := mRno m, att := mAtt m, thr := thr, conns := c, inPort := inPort,
            outPort := if last then none else some p, hidx := mHidx m, age := mAge m, at_ := t.bolt, msg := m2 }
    (t, post)

/-- A reservation is recorded; the SETUP goes on, or the tail connects. -/
def State.reserve (s : State) (r : PathRec) : State :=
  let s1 := s.modBmy (fun b => { b with recs := b.recs ++ [r] })
  match r.outPort with
  | some p => s1.bmySend p (putAt 18 [BitVec.ofNat 8 (r.hidx + 1)] r.msg)
  | none => s1.postSegment r

/-- SETUP from a neighbour (R261). Reservations of older attempts of the path are released first (R272); any other record of it holds what it
holds, and step 5 decides. -/
def State.setupRx (s : State) (p : Nat) (m : List Byte) : State :=
  let old := s.bmy.recs.filter (fun r => decide (r.orig = mOrig m ∧ r.rno = mRno m ∧ r.att < mAtt m) && !r.committed && !r.posting)
  match (seqAll (fun r s => s.release r) old s).admitSetup (some p) m with
  | (t, .ok r) => t.reserve r
  | (t, .error (reason, d)) => t.sendRefuse p (mOrig m) (mRno m) reason (mHidx m) (mAtt m) d

/-- The SETUP that the head makes from a request, for an attempt. -/
def State.headMsg (s : State) (h : HeadReq) (att : Nat) : List Byte :=
  let q := h.req
  let n := beAt q 4 1
  mkMsg 0x10 s.devId h.rno
    ([q.getD 3 0 &&& 3, q.getD 4 0, 0, BitVec.ofNat 8 att] ++ beBytes 3 (min 16777215 (since s.bolt h.first)) ++ [BitVec.ofNat 8 s.ownVmax]
      ++ bytesAt q 6 2 ++ [BitVec.ofNat 8 s.ownFeat, 0] ++ bytesAt q 8 6 ++ [0, 0, 0, 0, 0, 0] ++ bytesAt q 24 (8 * min 16 n))

/-- The head makes an attempt. -/
def State.headTry (s : State) (h : HeadReq) (att : Nat) : State :=
  let s0 := s.modHead h.rno (fun h => { h with att := att, sent := false, sentAt := s.bolt, waiting := none })
  let m := putAt 0 [0x20] (s.headMsg h att)
  match s0.admitSetup none m with
  | (t, .ok r) => t.reserve r
  | (t, .error (reason, d)) => t.headFail { h with att := att } reason 0 d

/-! ### CONFIRM, REFUSE, TEARDOWN, TD_ACK -/

/-- CONFIRM (R262, R272, R273). -/
def State.confirmRx (s : State) (p : Nat) (m : List Byte) : State :=
  match s.bmy.recs.find? (fun r => decide (r.orig = mOrig m ∧ r.rno = mRno m ∧ r.att = mAtt m) && !r.committed && !r.posting) with
  | some r =>
    let r1 := { r with msg := m }
    let s1 := s.modRec r (fun _ => r1)
    if s.headless then s1.segmentFail r1 7 0 else s1.postSegment r1
  | none =>
    let s1 := s.tdSend p (tdMsg (mOrig m) (mRno m) (mHidx m) (mAtt m) 3 0)
    if mOrig m = s.devId ∨ mHidx m = 0 then s1
    else
      let h := mHop m (mHidx m - 1)
      match s.laneNaming (hDev h) (hPort h) (hLane h) with
      | some l => s1.sendRefuse (l / 64) (mOrig m) (mRno m) 0xD (mHidx m) (mAtt m) 0
      | none => s1

/-- The port toward the head (true) or the tail of a path, as remembered of a record that is gone, or from one that stands. -/
def State.routeOf (s : State) (orig rno : Nat) (up : Bool) : Option Nat :=
  match s.bmy.routes.find? (fun x => decide (x.1 = orig ∧ x.2.1 = rno)) with
  | some x => if up then x.2.2.1 else x.2.2.2
  | none => match s.bmy.recs.find? (fun r => decide (r.orig = orig ∧ r.rno = rno)) with
    | some r => if up then r.inPort else r.outPort
    | none => none

/-- REFUSE (R263). -/
def State.refuseRx (s : State) (m : List Byte) : State :=
  let att := beAt m 18 1 % 16
  let rs := s.bmy.recs.filter (fun r => decide (r.orig = mOrig m ∧ r.rno = mRno m ∧ r.att = att) && !r.committed && !r.posting)
  let s1 := seqAll (fun r s => s.release r) rs s
  if mOrig m = s.devId then
    match s.headOf (mOrig m) (mRno m) att with
    | some h => s1.headFail h (beAt m 16 1) (beAt m 17 1) (beAt m 20 4)
    | none => s1
  else match s1.routeOf (mOrig m) (mRno m) true with
    | some p => s1.bmySend p m
    | none => s1

/-- A TEARDOWN that reached the head from elsewhere is an EVENT (R271). -/
def State.tdEvent (s : State) (m : List Byte) (r : PathRec) : State :=
  match s.bmy.heads.find? (fun h => decide (h.rno = r.rno)) with
  | some h => (s.bmyResult (s.resultRec (putAt 0 [0xFF, 0xFF] h.req) h.rno (r.msg.drop 40) 3 (beAt m 18 1) (beAt m 16 1) h.att (mPver r.msg)
      (mPfeat r.msg) 0)).modBmy
      (fun b => { b with heads := b.heads.filter (fun x => !decide (x.rno = r.rno)) })
  | none => s

/-- TEARDOWN (R267). -/
def State.teardownRx (s : State) (p : Nat) (m : List Byte) : State :=
  let att := beAt m 17 1 % 16
  let dir := beAt m 19 1
  let rs := s.bmy.recs.filter (fun r => decide (r.orig = mOrig m ∧ r.rno = mRno m ∧ (att = 15 ∨ r.att = att)))
  let s1 := seqAll (fun r s =>
    let s1 := ((s.when (r.committed || r.posting) (·.postDisc r)).release r)
    if dir = 1 ∧ r.inPort = none then s1.tdEvent m r else s1) rs s
  let s2 := s1.bmySend p (mkMsg 0x14 (mOrig m) (mRno m) (bytesAt m 16 4 ++ [0, 0, 0, 0]))
  match s2.routeOf (mOrig m) (mRno m) (decide (dir = 1)) with
  | some q => s2.tdSend q (sealMsg (putAt 1 [0x13] m))
  | none => s2

/-- TD_ACK (R267). -/
def State.tdAckRx (s : State) (p : Nat) (m : List Byte) : State :=
  s.modBmy (fun b => { b with tds := b.tds.filter (fun t =>
    !decide (t.port = p ∧ mOrig t.msg = mOrig m ∧ mRno t.msg = mRno m ∧ bytesAt t.msg 16 4 = bytesAt m 16 4)) })

/-- A message received on a port (R251): without an agent, or with EN = 0, it is lost. -/
def State.bmyReceive (s : State) (p : Nat) (m : List Byte) : State :=
  if ¬ (s.bmyAgent ∧ s.bmyEn ∧ s.reach p) then s
  else if ¬ msgOk m then s.incReg (bmyA 0x70)
  else
    let s1 := s.count 6 p 0
    match mType m with
    | 1 => s1.hello p m
    | 2 => s1.idReq p m
    | 3 => s1.idOffer p m
    | 4 => s1.idAck m
    | 0x10 => s1.setupRx p m
    | 0x11 => s1.confirmRx p m
    | 0x12 => s1.refuseRx m
    | 0x13 => s1.teardownRx p m
    | _ => s1.tdAckRx p m

/-- Received messages are processed: lowest port first, and in order of arrival on a port (R249, R256). -/
def State.bmyProcess (s : State) : State :=
  seqAll (fun p s => seqAll (fun (e : Nat × List Byte) s => s.bmyReceive p e.2) (s.bmy.rxq.filter (fun e => decide (e.1 = p))) s) (List.range 8) s
    |>.modBmy (fun b => { b with rxq := [] })

/-- A run of Bamry cells: discards are counted, and each message that it completes is received (R40, R41, R247). -/
def State.bmyCells (s : State) (l : Nat) (c : CellRun) : State :=
  s.cellsIn l 0 c (fun s cells =>
    let (part, msgs, drops) := cellsRx (s.lane l).bmyPart cells
    ((s.modLane l (fun n => { n with bmyPart := part })).count 6 (l / 64) 2 drops).modBmy (fun b =>
      { b with rxq := b.rxq ++ msgs.map (fun m => (l / 64, m)) }))

/-- A row whose cells bring Bamry messages. -/
def State.bmyRow (s : State) (l : Nat) (c : CellRun) : Out := .next (s.when (cellRunOk 32 c) (·.bmyCells l c))

/-- HELLO_RX (R253). -/
def execHelloRx (l : Fin 512) (c : CellRun) (s : State) : Out := s.bmyRow l.val c
/-- ID_REQ_RX (R257). -/
def execIdReqRx (l : Fin 512) (c : CellRun) (s : State) : Out := s.bmyRow l.val c
/-- ID_OFFER_RX (R256). -/
def execIdOfferRx (l : Fin 512) (c : CellRun) (s : State) : Out := s.bmyRow l.val c
/-- ID_ACK_RX (R257). -/
def execIdAckRx (l : Fin 512) (c : CellRun) (s : State) : Out := s.bmyRow l.val c
/-- SETUP_RX (R261). -/
def execSetupRx (l : Fin 512) (c : CellRun) (s : State) : Out := s.bmyRow l.val c
/-- CONFIRM_RX (R262). -/
def execConfirmRx (l : Fin 512) (c : CellRun) (s : State) : Out := s.bmyRow l.val c
/-- REFUSE_RX (R263). -/
def execRefuseRx (l : Fin 512) (c : CellRun) (s : State) : Out := s.bmyRow l.val c
/-- TEARDOWN_RX (R267). -/
def execTeardownRx (l : Fin 512) (c : CellRun) (s : State) : Out := s.bmyRow l.val c
/-- TD_ACK_RX (R267). -/
def execTdAckRx (l : Fin 512) (c : CellRun) (s : State) : Out := s.bmyRow l.val c

/-- HELLO_INTERVAL (R251): due every HELLO_INT bolts. -/
def execHelloInterval (s : State) : Out := .next s.helloSend
/-- HELLO_LOSS_TIMEOUT (R253). -/
def execHelloLossTimeout (p : Fin 8) (s : State) : Out := .next (s.helloLossDue p.val)
/-- ID_OFFER_TIMEOUT (R257). -/
def execIdOfferTimeout (s : State) : Out := .next s.offerTimeout

/-! ### Requests (R271) -/

/-- The record at the head of the request ring. -/
def State.bmyRequest (s : State) : Option (List Byte) := s.ringPeek ((s.holder 2 0).getD 0) (bmyA 0x80) (bmyA 0x84) (bmyA 0x88) (bmyA 0x8C) 160

/-- Takes the record at the head of the request ring where the agent serves it and its OP is of this kind. -/
def State.takeRequest (s : State) (op : Nat → Bool) (f : State → List Byte → State) : State :=
  match s.bmyRequest with
  | some q =>
    if s.bmyAgent ∧ op (beAt q 2 1) then
      let s1 := s.ringTake ((s.holder 2 0).getD 0) (bmyA 0x80) (bmyA 0x84) (bmyA 0x8C) 160
      if s.bmyEn then f s1 q else s1.bmyResult (s.refusedRec q (beAt q 14 2) 0xC 0 0 0)
    else s
  | none => s

/-- BMY_REQ_SETUP (R271): the agent assigns the next RNO and acts as head. -/
def execBmyReqSetup (s : State) : Out :=
  .next (s.takeRequest (fun o => decide (o = 1)) (fun s q =>
    let n := s.bmy.rno % 65535 + 1
    let h : HeadReq := { req := q, rno := n, first := s.bolt, sentAt := s.bolt }
    (s.modBmy (fun b => { b with rno := n, heads := b.heads.filter (fun x => !decide (x.rno = n)) ++ [h] })).headTry h 0))

/-- The head removes its own segment, then sends TEARDOWN toward the tail with ATT 15. -/
def State.headTeardown (s : State) (q : List Byte) : State :=
  let rno := beAt q 14 2
  let rs := s.bmy.recs.filter (fun r => decide (r.orig = s.devId ∧ r.rno = rno) && r.inPort.isNone)
  let (hops, att, pver, pfeat) := match rs with
    | r :: _ => (r.msg.drop 40, r.att, mPver r.msg, mPfeat r.msg)
    | [] => ([], 0, 0, 0)
  let s1 := seqAll (fun r s => (((s.when (r.committed || r.posting) (·.postDisc r)).release r)).tdAlong r 15 0 0) rs s
  (s1.modBmy (fun b => { b with heads := b.heads.filter (fun x => !decide (x.rno = rno)) })).bmyResult
    (s.resultRec q rno hops 1 0 0 att pver pfeat 0)

/-- BMY_REQ_TEARDOWN (R271). -/
def execBmyReqTeardown (s : State) : Out := .next (s.takeRequest (fun o => decide (o = 2)) (fun s q => s.headTeardown q))

/-- BMY_REQ_BAD_OP (R271): refused with HOPS. -/
def execBmyReqBadOp (s : State) : Out :=
  .next (s.takeRequest (fun o => !decide (o = 1 ∨ o = 2)) (fun s q => s.bmyResult (s.refusedRec q (beAt q 14 2) 5 0 0 0)))

/-- AGENT_COMPLETION (R262): due while an agent ring holds a completion. -/
def execAgentCompletion (s : State) : Out :=
  .next (if s.bmyAgent then
    (match s.agentEntry false with
     | some (tag, st, t) => t.completed tag st
     | none => match s.agentEntry true with
       | some (tag, st, t) => t.completed tag st
       | none => s)
  else s)

/-! ### Timers (R272, R268, R273, R274) -/

/-- An attempt outlasts SETUP_TMO: TEARDOWN goes after it, whether or not this device's own reservation still stands (R272). -/
def State.setupTmo (s : State) (h : HeadReq) : State :=
  let rs := s.bmy.recs.filter (fun r => decide (r.orig = s.devId ∧ r.rno = h.rno ∧ r.att = h.att) && r.inPort.isNone)
  let s1 := if rs = [] then
      (match s.routeOf s.devId h.rno false with
       | some p => s.tdSend p (tdMsg s.devId h.rno 0 h.att 3 0)
       | none => s)
    else seqAll (fun r s => (s.release r).tdAlong r r.att 3 0) rs s
  s1.headFail h 0xD 0 0

/-- SETUP_TMO (R272). -/
def execSetupTmo (rno : BitVec 16) (s : State) : Out :=
  .next (match s.bmy.heads.find? (fun h => decide (h.rno = rno.toNat)) with
    | some h =>
      if s.bmyAgent ∧ ¬ h.done ∧ h.sent ∧ h.waiting = none ∧ atLeast1 (s.rf (bmyA 0x50) 0 12) ≤ since s.bolt h.sentAt ∧
          ¬ s.bmy.recs.any (fun r => decide (r.orig = s.devId ∧ r.rno = h.rno) && r.inPort.isNone && r.posting) then s.setupTmo h
      else s
    | none => s)

/-- RSV_TMO (R272): a reservation is released silently. -/
def execRsvTmo (orig : BitVec 18) (rno : BitVec 16) (s : State) : Out :=
  .next (if s.bmyAgent then
    seqAll (fun r s => s.release r) (s.bmy.recs.filter (fun r => decide (r.orig = orig.toNat ∧ r.rno = rno.toNat ∧
      atLeast1 (s.rf (bmyA 0x50) 16 12) ≤ since s.bolt r.at_) && !r.committed && !r.posting)) s
  else s)

/-- RETRY_BACKOFF (R272): the next attempt, with the same RNO and AGE running. -/
def execRetryBackoff (rno : BitVec 16) (s : State) : Out :=
  .next (match s.bmy.heads.find? (fun h => decide (h.rno = rno.toNat)) with
    | some h => match h.waiting with
      | some w => if s.bmyAgent ∧ since s.bolt w < 2 ^ 31 then s.headTry h (h.att + 1) else s
      | none => s
    | none => s)

/-- TEARDOWN_RESEND (R267). -/
def execTeardownResend (p : Fin 8) (s : State) : Out := .next (s.when (s.bmyAgent && s.bmyEn) (·.tdResend p.val))

/-- A connection of a committed record is in the active maps. -/
def State.connHeld (s : State) (thr : Bool) (c : Nat × Nat) : Bool :=
  if thr then let e := s.fine.act.outE c.2
              decide (outMode e ≠ 0 ∧ outSrc e = c.1)
  else decide (c.1 ∈ s.loom.act.legs c.2)

/-- The audit of R268: committed records whose connection is gone. -/
def State.audit (s : State) : State :=
  seqAll (fun r s => (((s.release r).incReg (bmyA 0x78)).tdAlong r r.att 1 0).tdAlong r r.att 1 1)
    (s.bmy.recs.filter (fun r => r.committed && !r.conns.all (fun c => s.connHeld r.thr c)))
    (s.modBmy (fun b => { b with auditAt := s.bolt }))

/-- BAMRY_AUDIT (R268): due every 64 bolts. -/
def execBamryAudit (s : State) : Out := .next (if s.bmyAgent ∧ 64 ≤ since s.bolt s.bmy.auditAt then s.audit else s)

/-- A write of BMY_DEVID (R275). -/
def State.devidWrite (s : State) (m : Mid) (v : Word) : State :=
  let d := fld v 0 18
  if 250000 < d then s.errlog (bmyA 0) 0x44 m else s.setReg (bmyA 0x44) (w32 d)

/-- BMY_DEVID_WRITE (R275). -/
def execBmyDevidWrite (m : Mid) (v : Word) (s : State) : Out :=
  .next (s.write4 m (bmyA 0x44) v (fun s => (s.devidWrite m v)))

/-- RUNNING goes to 0: BMY_AGENT_HB not written for 8 bolts (R273). -/
def State.bmyLost (s : State) : State :=
  match s.bmy.hbAt with
  | some b => if 8 ≤ since s.bolt b then (s.modBmy (fun b => { b with hbAt := none })).nbrIrq 0x10 else s
  | none => s

/-- BAMRY_AGENT_LOST (R273). -/
def execBamryAgentLost (s : State) : Out := .next s.bmyLost

/-- BAMRY_AGENT_RESTART (R274): after a warm reset, reservations are released and the audit runs at once. -/
def execBamryAgentRestart (s : State) : Out :=
  .next (if s.bmy.restart ∧ s.bmyAgent then
    (seqAll (fun r s => s.release r) (s.bmy.recs.filter (fun r => !r.committed)) (s.modBmy (fun b => { b with restart := false }))).audit
  else s)

/-! ### Registers -/

/-- A write of a BMY register with an effect of its own; none for the others. -/
def State.bmyWrite (s : State) (m : Mid) (o : Nat) (v : Word) : Option State :=
  match o with
  | 0x44 => some (s.devidWrite m v)
  | 0x60 => some ((s.setReg (bmyA 0x60) v).modBmy (fun b => { b with hbAt := some s.bolt }))
  | 0x40 => some (seqAll (fun p s => s.modNbr p (fun n => { n with reneg := true })) (List.range 8)
      (s.setReg (bmyA 0x40) (v &&& w32 (writeMask (bmyA 0x40)))))
  | 0x4C => some (seqAll (fun p s => s.modNbr p (fun n => { n with reneg := true })) (List.range 8) (s.setReg (bmyA 0x4C) (v &&& 7)))
  | 0x9C => some (State.bmyDrain 257 (s.setReg (bmyA 0x9C) v))
  | _ => none

/-- BMY_NBRp (R276). -/
def Nbr.word (n : Nbr) : Word :=
  w32 (n.from_ + n.port * 2 ^ 18 + n.featL * 2 ^ 21 + n.vl * 2 ^ 24 + n.st * 2 ^ 28 + n.headless.toNat * 2 ^ 30)

/-- A BMY register that shows other state, by page offset. -/
def State.bmyShow (s : State) (o : Nat) : Option Word :=
  if o = 0x48 then
    some (w32 (s.bmy.hbAt.isSome.toNat + 2 * s.headless.toNat + 4 * (decide (s.devId = 0)).toNat
      + 2 ^ 16 * (s.bmy.recs.filter (fun r => !r.committed)).length))
  else if o = 0x64 then some (w32 s.bmy.recs.length)
  else if 0x100 ≤ o ∧ o < 0x120 ∧ o % 4 = 0 then some ((s.nbr ((o - 0x100) / 4)).word)
  else if 0x140 ≤ o ∧ o < 0x180 ∧ o % 4 = 0 then
    some (w32 ((s.nbr ((o - 0x140) / 8)).serial / (if o % 8 = 0 then 1 else 2 ^ 32)))
  else if 0x180 ≤ o ∧ o < 0x1A0 ∧ o % 4 = 0 then
    some (match (s.nbr ((o - 0x180) / 4)).lane with | some n => w32 (n + 64) | none => 0)
  else none

/-- Bamry's part of a boundary: what fell due and was not taken, lane choice (R247), renegotiation (R254), the cells of the new bolt (R248). -/
def State.bmyBoundary (s : State) : State :=
  let s1 := seqAll (fun p s => s.helloLossDue p) (List.range 8) s.bmyLost.offerTimeout
  let s2 := seqAll (fun p s => (s.chooseLane p).renegotiate p) (List.range 8) s1
  let s3 := seqAll (fun p s => s.bmyFlushPort p) (List.range 8) s2
  State.bmyDrain 257 (s3.when (!(s3.bmyAgent && s3.bmyEn)) (fun s =>
    (s.markSent (s.bmy.txq.map (fun e => e.2.2))).modBmy (fun b => { b with txq := [] })))

end Sys2Proof.Machine
end

