-- ==== Sys2Proof/Machine/Beat.lean ====
section
/-! DEFINITION. The Beat (R211-R246): candidates and their monitors, quality levels, selection, states, holdover, switch
behaviours, outputs and align. Phases are measured outside the model: they come with MODULE_BOLT_BOUNDARY (BeatObs). -/
namespace Sys2Proof.Machine

/-! ### Candidates (R214-R221) -/

/-- Configuration register of candidate `c`. -/
def candReg (c : Nat) : Nat := if c < 8 then beatA (0x100 + 4 * c) else beatA (0x140 + 4 * (c - 8))
/-- A candidate is enabled: FREQ is not 7, or the slot's EN is 1. -/
def State.candOn (s : State) (c : Nat) : Bool := if c < 8 then decide (s.rf (candReg c) 0 3 ≠ 7) else s.rb (candReg c) 0
/-- Lane of a line-recovered candidate. -/
def State.candLane (s : State) (c : Nat) : Nat := s.rf (candReg c) 1 3 * 64 + s.rf (candReg c) 4 6
/-- PRIO and LOCKOUT. -/
def State.candPrio (s : State) (c : Nat) : Nat := if c < 8 then s.rf (candReg c) 4 4 else s.rf (candReg c) 10 4
def State.candLockout (s : State) (c : Nat) : Bool := if c < 8 then s.rb (candReg c) 12 else s.rb (candReg c) 14
/-- A 1 PPS REF input. -/
def State.isPps (s : State) (c : Nat) : Bool := decide (c < 8 ∧ s.rf (candReg c) 0 3 = 6)
/-- Bolts of the monitor's window (R215). -/
def State.candWindow (s : State) (c : Nat) : Nat := if s.isPps c then 62500 else 64

/-- ACTIVE (R217, R218). -/
def State.candActive (s : State) (c : Nat) : Bool :=
  if c < 8 then (s.cand c).active
  else let l := s.candLane c
       s.reach (l / 64) && !s.effL l 0 && !s.effL l 1

/-- DEFECT (R218). -/
def State.candDefect (s : State) (c : Nat) : Bool :=
  if c < 8 then false
  else let l := s.candLane c
       !s.reach (l / 64) || s.effL l 0 || s.effL l 1 || s.effL l 3 || s.effL l 8
         || decide (s.lnLoop l ≠ 0) || decide (s.lnTxpat l ≠ 0)

/-- The three conditions of qualification hold (R219). -/
def State.candGood (s : State) (c : Nat) : Bool :=
  s.candOn c && s.candActive c && (s.cand c).freqOk && !s.candDefect c

/-- Rank of a QL code; none: not selectable (R220). -/
def qlRank (opt2 : Bool) (q : Nat) : Option Nat :=
  let l := if opt2 then [1, 0, 7, 4, 0xD, 0xA, 0xC, 0xE] else [2, 4, 8, 0xB]
  (l.findIdx? (· = q)).map (· + 1)

/-- Effective QL code (R214, R221): a code not listed for the option in force is DNU or DUS (R220). -/
def State.candQl (s : State) (c : Nat) : Nat :=
  let q := if c < 8 then s.rf (candReg c) 8 4 else if s.candDefect c then 0xF else (s.cand c).ql
  if (qlRank (s.rb (beatA 0x40) 0) q).isSome then q else 0xF

/-- Rank of a candidate: 0 where QL takes no part; none for DNU or DUS. -/
def State.candRank (s : State) (c : Nat) : Option Nat :=
  if s.rb (beatA 0x48) 9 then qlRank (s.rb (beatA 0x40) 0) (s.candQl c) else some 0

/-- selectable(c) of R223. -/
def State.selectable (s : State) (c : Nat) : Bool :=
  s.candOn c && decide (s.candPrio c ≠ 0) && !s.candLockout c && (s.cand c).qual && !(s.cand c).acqFail && (s.candRank c).isSome

/-- Bolts of qualification. -/
def State.qualBolts (s : State) : Nat := 256 * s.rf (beatA 0x5C) 0 12

/-- BEAT_MON_STATc (R244); a disabled candidate shows only its LOCKOUT. -/
def State.monStat (s : State) (c : Nat) : Word :=
  let lock := 2 ^ 4 * (s.candLockout c).toNat
  if ¬ s.candOn c then w32 lock
  else
    let k := s.cand c
    let q := if k.qual then 0
      else match k.goodFrom with
        | some b => (s.qualBolts - since s.bolt b + 255) / 256
        | none => s.rf (beatA 0x5C) 0 12
    w32 ((s.candActive c).toNat + 2 * k.freqOk.toNat + 4 * k.qual.toNat + 8 * (s.candDefect c).toNat + lock
      + 2 ^ 5 * (s.selectable c).toNat + 2 ^ 6 * k.acqFail.toNat + 2 ^ 8 * s.candQl c + 2 ^ 16 * q)

/-- A candidate whose input changed: its monitor starts again, and QUALIFIED ends (R219, R246). -/
def State.resetCand (s : State) (c : Nat) : State :=
  ((s.modCand c (fun _ => { gapAt := s.bolt, monAt := s.bolt })).setReg (beatA (0x300 + 4 * c)) 0x80000000).when (s.cand c).qual
    (·.irq (beatA 0) 4)

/-- ACC and REJ in ppb (R216). -/
def State.accPpb (s : State) : Nat := 10 * min 50000 (s.rf (beatA 0x60) 0 16)
def State.rejPpb (s : State) : Nat :=
  let r := 10 * min 50000 (s.rf (beatA 0x60) 16 16)
  if r ≤ s.accPpb then s.accPpb + 100 else r

/-- FOFS of PERTURB1 for candidate `c` (R454). -/
def State.fofs (s : State) (c : Nat) : Int :=
  let h := s.beat.hook.getD 1 0
  if s.tst.pert ∧ fld h 16 5 = c then signed 16 (fld h 0 16) else 0

/-- A monitor's window ends with this offset (R215, R216). -/
def State.monitor (s : State) (c : Nat) (ppb : Int) : State :=
  let f := ppb + s.fofs c
  (s.setReg (beatA (0x300 + 4 * c)) (w32 (unsigned 32 f))).modCand c (fun k =>
    { k with freqOk := if f.natAbs ≤ s.accPpb then true else if s.rejPpb < f.natAbs then false else k.freqOk })

/-! ### Status words -/

/-- Code of BEAT_STAT.STATE (R241). -/
def modeCode : BeatMode → Nat
  | .freeRun => 0 | .acquiring => 1 | .locked => 2 | .holdover => 3 | .lost => 4

/-- The behaviour in force: true for build-out (R229). -/
def State.buildOut (s : State) : Bool :=
  match fld s.beat.swcfg 0 2 with
  | 1 => false
  | 2 => true
  | _ => bit s.pwr.straps 0

/-- BEAT_STAT (R241). -/
def State.beatStat (s : State) : Word :=
  let b := s.beat
  w32 (modeCode b.mode + 2 ^ 4 * b.stage + 2 ^ 8 * b.sel.getD 31 + 2 ^ 13 * b.forced.toNat + 2 ^ 14 * (!b.enN).toNat
    + 2 ^ 15 * b.forcedBad.toNat + 2 ^ 16 * b.hoValid.toNat + 2 ^ 17 * s.buildOut.toNat + 2 ^ 18 * b.pulling.toNat
    + 2 ^ 19 * b.alBusy.toNat)

/-- The QL on all lanes, and the squelched lane (R222). -/
def State.qlTx (s : State) : Nat × Option Nat :=
  let free := if s.rb (beatA 0x40) 0 then 0xA else 0xB
  let b := s.beat
  if b.mode = .locked ∨ (b.mode = .acquiring ∧ b.stage = 2) then
    (match b.sel with
     | some c => (s.candQl c, if c < 8 then none else some (s.candLane c))
     | none => (free, none))
  else if b.mode = .lost ∧ s.rb (beatA 0x40) 2 then (0xF, none)
  else (free, none)

/-- BEAT_QL_TX (R240). -/
def State.qlTxWord (s : State) : Word :=
  let (q, l) := s.qlTx
  w32 (q + (match l with | some l => 2 ^ 4 + 2 ^ 8 * (l / 64) + 2 ^ 11 * (l % 64) | none => 0))

/-- SLEW in fs a bolt: units of 10 ppb over 256 us. -/
def State.slewFs (s : State) : Int := 2560 * atLeast1 (s.rf (beatA 0x90) 8 8)

/-- Code of BEAT_ALIGN_STAT.RESULT. -/
def alResCode : AlignRes → Nat
  | .none => 0 | .done => 1 | .nophase => 2 | .noref => 3 | .cancelled => 4 | .range => 5

/-- `k` whole picks, in fs. -/
def picksFs (k : Int) : Int := k * 256000000000 / 100384

/-- BEAT_ALIGN_STAT (R245): the move still to make is what is left to slew, and the whole picks of a step not yet made. -/
def State.alignStat (s : State) : Word :=
  let b := s.beat
  w32 (b.alBusy.toNat + 2 * alResCode b.alRes + 16 * unsigned 28 ((b.alLeft + picksFs b.alStep).tdiv 1000000))

/-! ### State changes (R226) -/

/-- An align ends; a step not yet made is not made (R237). -/
def State.endAlign (s : State) (r : AlignRes) : State :=
  (s.modBeat (fun b => { b with alBusy := false, alLeft := 0, alStep := 0, alRes := r })).irq (beatA 0) 0x20

/-- Makes a change to the Beat: STATE and SEL causes with their trace record, and the end of a marker align on a switch or an
exit from LOCKED (R237, R246, R456). -/
def State.beatNoted (s : State) (f : State → State) : State :=
  let t := f s
  let a := s.beat
  let b := t.beat
  let bits := (if a.mode = b.mode then 0 else 1) + (if a.sel = b.sel then 0 else 2)
  let t1 := if bits = 0 then t else (t.irq (beatA 0) bits).trace 8 9 82 t.beatStat (t.reg (beatA 0xA0))
  if b.alBusy ∧ ¬ b.alSrc ∧ (a.sel ≠ b.sel ∨ (a.mode = .locked ∧ b.mode ≠ .locked)) then t1.endAlign .cancelled else t1

/-- Phase of a candidate at the last boundary, DELAY_COMP included; a free value where none was measured. -/
def State.candPhase (s : State) (c : Nat) : Int × State :=
  match s.beat.phi.find? (fun e => decide (e.1 = c)) with
  | some (_, x) => (x + (if c < 8 then 1000 * signed 16 (s.rf (candReg c) 16 16) else 0), s)
  | none => let (v, t) := s.freeVal
            (signed 32 v.toNat, t)

/-- The period of a candidate's marker, as picoseconds over a divisor (R214). -/
def State.candPeriod (s : State) (c : Nat) : Int × Int :=
  if 8 ≤ c then (256000000, 1)
  else (1000000000000, match s.rf (candReg c) 0 3 with
    | 0 => 8000 | 1 => 1544000 | 2 => 2048000 | 3 => 10000000 | 4 => 25000000 | 5 => 156250000 | _ => 1)

/-- `x` ps wrapped into (-T/2, T/2], T being `num`/`den` ps, to whole ps (R229). -/
def wrapPhase (x num den : Int) : Int :=
  let k := -((num - 2 * x * den) / (2 * num))
  x - (2 * k * num + den) / (2 * den)

/-- Into ACQUIRING on a candidate. -/
def Beat.acquire (b : Beat) (bolt : Word) (c stage : Nat) : Beat :=
  { b with mode := .acquiring, stage := stage, sel := some c, acqAt := bolt, stageCnt := 0, lockCnt := 0, badCnt := 0 }

/-- theta set so that the output phase does not move; nothing added to BEAT_BO_ACC (R231). -/
def State.setTheta (s : State) (c : Nat) : State :=
  let (x, t) := s.candPhase c
  t.modBeat (fun b => { b with theta := 1000 * (b.phiOut - x), pull := 0, pulling := false })

/-- A switch at stage 2: pull or build-out (R229-R231). -/
def State.switchTo (s : State) (c : Nat) : State :=
  let (x, t) := s.candPhase c
  let (n, d) := t.candPeriod c
  let dphi := wrapPhase (x + t.beat.theta / 1000 - t.beat.phiOut) n d
  let lim := 10000 * fld t.beat.swcfg 20 12
  if ¬ t.buildOut ∧ dphi.natAbs ≤ lim then
    t.modBeat (fun b => { b with pull := 1000 * dphi, pulling := decide (dphi ≠ 0) })
  else
    let t1 := (t.modBeat (fun b => { b with theta := 1000 * (b.phiOut - x), pull := 0, pulling := false })).setReg (beatA 0x7C)
      (t.reg (beatA 0x7C) + w32 (unsigned 32 dphi))
    if t.buildOut then t1 else t1.irq (beatA 0) 0x10

/-- Enters ACQUIRING on `c`: at stage 2 with a switch where `keep`, else at stage 0, or 2 for a 1 PPS input, with theta set. -/
def State.acquireOn (s : State) (c : Nat) (keep : Bool) : State :=
  let s1 := if keep then s.switchTo c else s.setTheta c
  s1.modBeat (fun b => b.acquire s.bolt c (if keep || s.isPps c then 2 else 0))

/-- Results of selection (R223). -/
inductive SelRes where
  | cand (c : Nat) | none | free
deriving DecidableEq, Repr

/-- Leaves the selected candidate for holdover, loss or free run. -/
def Beat.leave (b : Beat) (m : BeatMode) (dco : Int) : Beat :=
  { b with mode := m, sel := none, stage := 0, dco := dco, pull := 0, pulling := false }

/-- The transition that a selection result makes (R226). -/
def State.beatMove (s : State) (r : SelRes) : State :=
  let b := s.beat
  match r with
  | .free =>
    if b.mode = .freeRun then s
    else s.modBeat (fun b => b.leave .freeRun (if s.rb (beatA 0x40) 1 then b.dco else 0))
  | .none =>
    match b.mode with
    | .freeRun => if b.hoValid then s.modBeat (fun b => { b.leave .holdover b.hov with hoAt := s.bolt }) else s
    | .acquiring | .locked =>
      if b.hoValid then (s.modBeat (fun b => { b.leave .holdover b.hov with hoAt := s.bolt })).incReg (beatA 0xA4)
      else s.modBeat (fun b => b.leave .lost b.dco)
    | _ => s
  | .cand c =>
    match b.mode with
    | .freeRun => s.acquireOn c false
    | .holdover => s.acquireOn c true
    | .lost => s.acquireOn c b.hoValid
    | _ => if b.sel = some c then s
           else (s.acquireOn c (decide (b.mode = .locked ∨ b.stage = 2))).incReg (beatA 0xA0)

/-- select() of R223: the result, whether it was forced, and FORCED_BAD. -/
def State.beatSelect (s : State) : SelRes × Bool × Bool :=
  let b := s.beat
  let sel := s.reg (beatA 0x48)
  let f := if b.enN then fld sel 4 5 else b.fsel.toNat
  let mode := if b.enN then (if fld sel 0 2 = 1 ∧ 24 ≤ f then 2 else fld sel 0 2)
              else if f ≤ 23 then 1 else if f = 30 then 3 else 2
  match mode with
  | 3 => (.free, true, false)
  | 2 => (.none, true, false)
  | 1 => if s.candGood f && ((s.cand f).qual || bit sel 11) && !(s.cand f).acqFail then (.cand f, true, false) else (.none, true, true)
  | _ =>
    let key := fun (c : Nat) => (s.candRank c).getD 0 * 1024 + s.candPrio c * 32 + c
    let best := (List.range 24).foldl (fun (a : Option Nat) c =>
      if s.selectable c then (match a with
        | some x => if key c < key x then some c else a
        | none => some c) else a) none
    match b.sel with
    | some cur =>
      if ¬ bit sel 10 ∧ s.selectable cur ∧ (¬ bit sel 9 ∨ best.map s.candRank = some (s.candRank cur)) then (.cand cur, false, false)
      else ((match best with | some c => .cand c | none => .none), false, false)
    | none => ((match best with | some c => .cand c | none => .none), false, false)

/-- Selection and the change it makes. -/
def State.selectAndMove (s : State) : State :=
  let (r, f, bad) := s.beatSelect
  s.beatNoted (fun s => (s.modBeat (fun b => { b with forced := f, forcedBad := bad })).beatMove r)

/-! ### Events at a boundary (R225-R227, R230, R233) -/

def State.phLim (s : State) : Nat := 10000 * atLeast1 (fld s.beat.loop 8 8)

/-- A stage ends (R225). -/
def State.stageAdvance (s : State) : State :=
  let b := s.beat
  if b.mode = .acquiring ∧ b.stage < 2 ∧ 64 ≤ b.stageCnt then
    s.modBeat (fun b => { b with stage := b.stage + 1, stageCnt := 0, lockCnt := 0 })
  else s

/-- The lock condition of R225 has held for 256 bolts. -/
def State.beatLocked (s : State) : State :=
  let b := s.beat
  if b.mode = .acquiring ∧ b.stage = 2 ∧ 256 ≤ b.lockCnt then
    s.beatNoted (fun s => s.modBeat (fun b => { b with mode := .locked, lockedAt := s.bolt, hist := [], badCnt := 0 }))
  else s

/-- The phase error has passed 4 x LOCK_WIN for 16 bolts. -/
def State.lockLost (s : State) : State :=
  let b := s.beat
  if b.mode = .locked ∧ 16 ≤ b.badCnt then
    s.beatNoted (fun s => s.modBeat (fun b =>
      { b with mode := .acquiring, stage := 1, acqAt := s.bolt, stageCnt := 0, lockCnt := 0, badCnt := 0 }))
  else s

/-- ACQ_TMO has passed: ACQ_FAIL, QUALIFIED clears, and selection decides again at the same boundary. -/
def State.acqTimeoutBeat (s : State) : State :=
  let b := s.beat
  match b.sel with
  | some c =>
    if b.mode = .acquiring ∧ 15625 * atLeast1 (fld b.loop 16 8) ≤ since s.bolt b.acqAt then
      let q := (s.cand c).qual
      let s1 := s.modCand c (fun k => { k with acqFail := true, qual := false, goodFrom := none })
      ((s1.when q (·.irq (beatA 0) 4))).selectAndMove
    else s
  | none => s

/-- HO_MAX has passed. -/
def State.holdoverMax (s : State) : State :=
  let b := s.beat
  if b.mode = .holdover ∧ fld b.hocfg 16 16 ≠ 0 ∧ 15625 * fld b.hocfg 16 16 ≤ since s.bolt b.hoAt then
    (s.beatNoted (fun s => s.modBeat (fun b => { b with mode := .lost }))).irq (beatA 0) 0x40
  else s

/-- A LOCKED period has lasted HO_MIN, and at least 65 bolts. -/
def State.lockedLong (s : State) : Bool :=
  s.beat.mode == .locked && decide (max 65 (15625 * fld s.beat.hocfg 0 8) ≤ since s.bolt s.beat.lockedAt)

/-- The average of the LOCKED period (R227), to the nearest ppt. -/
def Beat.average (b : Beat) : Int :=
  let w := 2 ^ (min 20 (max 8 (fld b.hocfg 8 8)))
  let l := (b.hist.drop 64).take w
  if l.length = 0 then b.dco else (2 * l.sum + l.length) / (2 * l.length)

/-- HO_VALID is set. -/
def State.hoValidSet (s : State) : State :=
  if s.lockedLong ∧ ¬ s.beat.hoValid then s.modBeat (fun b => { b with hoValid := true, hov := b.average }) else s

/-- The pull is complete. -/
def State.pullComplete (s : State) : State :=
  if s.beat.pulling ∧ s.beat.pull = 0 then s.modBeat (fun b => { b with pulling := false }) else s

/-- An input lost its activity, or raw LOS, LOL or OOF struck its lane at some time in the bolt (R228). -/
def State.inputLost (s : State) (c : Nat) : Bool :=
  if c < 8 then (s.cand c).gapNow
  else let l := s.candLane c
       let n := s.lane l
       !s.reach (l / 64) || n.losSeen || n.lolSeen || n.oofSeen || s.lnForce l 0 || s.lnForce l 1 || s.lnForce l 2

/-- The phase detector stops taking the selected input. -/
def State.refLost (s : State) : State :=
  match s.beat.sel with
  | some c => if (s.beat.mode = .acquiring ∨ s.beat.mode = .locked) ∧ s.inputLost c then s.modBeat (fun b => { b with hold := true })
              else s
  | none => s

/-- Pick of a PPS_OUT edge in the present bolt of the cycle (R233). -/
def State.ppsPick (s : State) : Option Nat :=
  match s.rf (beatA 0x84) 0 14 with
  | 0 => some 0 | 3906 => some 25096 | 7812 => some 50192 | 11718 => some 75288 | _ => none

/-- The edge, delayed by BEAT_PPS_SHIFT + BEAT_PPS_COMP ns. -/
def State.ppsEdge (s : State) : State :=
  match s.ppsPick with
  | some p =>
    if s.beat.ppsDone then s
    else (s.emit (.pps p ((s.rf (beatA 0x88) 0 30 : Nat) + signed 32 (s.reg (beatA 0xA8)).toNat))).modBeat (fun b =>
      { b with ppsDone := true })
  | none => s

/-- An align whose move is made ends (R235): for a 1 PPS marker, the PPS cycle restarts at the next boundary that follows it. -/
def State.alignDone (s : State) : State :=
  let b := s.beat
  if b.alBusy ∧ b.alLeft = 0 ∧ b.alStep = 0 then
    let s1 := if b.alTgt then s else s.setReg (beatA 0x7C) 0
    let s2 := if b.alTgt then s1 else s1.modBeat (fun b => { b with ppsRst := b.alMark, alMark := none })
    s2.endAlign .done
  else s

/-- A candidate qualifies (R219, R226). -/
def State.qualify (s : State) (c : Nat) : State :=
  let k := s.cand c
  if s.candGood c ∧ ¬ k.qual ∧ (k.goodFrom.map (fun b => decide (s.qualBolts ≤ since s.bolt b))).getD false then
    (s.modCand c (fun k => { k with qual := true, acqFail := false })).irq (beatA 0) 4
  else s

/-- A line-recovered candidate's QL changes (R221). -/
def State.lrChange (s : State) (c : Nat) : State :=
  let k := s.cand c
  if 8 ≤ c ∧ k.qlNew ≠ k.ql ∧ 3 ≤ k.qlRep then s.modCand c (fun k => { k with ql := k.qlNew }) else s

/-- The move of a BOLT align in fs: slewed, or stepped by whole picks, which lengthen or shorten the bolt now begun, with the rest slewed;
every alignment buffer recentres at the next boundary (R235, R236). -/
def State.boltAlign (s : State) (ps : Int) : State :=
  let k := (2 * ps * 100384 + 256000000) / (2 * 256000000)
  let step := s.rb (beatA 0x90) 1
  s.modBeat (fun b => { b with alBusy := true, alRes := .none, alTgt := false, alLeft := if step then 1000 * ps - picksFs k else 1000 * ps,
                               alStep := if step then k else 0 })

/-- An align is taken at its boundary (R235). `marker` is the marker's time after the bolt boundary, or after the start of the
PPS cycle, in ps. -/
def State.alignStart (s : State) (marker : Int) : State :=
  let cfg := s.reg (beatA 0x90)
  let src := bit cfg 2
  let ofs := signed 32 (s.reg (beatA 0x94)).toNat
  let s0 := s.modBeat (fun b => { b with alDue := false, alSrc := src, alMark := none })
  let pps := (s.beat.sel.map s.isPps).getD false
  let lr := (s.beat.sel.map (fun c => decide (8 ≤ c))).getD false
  let comp : Int := match s.beat.sel with
    | some c => if c < 8 then signed 16 (s.rf (candReg c) 16 16) else 0
    | none => 0
  let at_ := marker + 1000 * (ofs + comp)
  if ¬ src ∧ s.beat.mode ≠ .locked then s0.endAlign .noref
  else if bit cfg 0 then
    (if ¬ pps then s0.endAlign .nophase
     else
       let ns := (marker / 1000 + ofs + comp - signed 32 (s.reg (beatA 0xA8)).toNat) % 1000000000
       (s0.setReg (beatA 0x88) (w32 ns.toNat)).modBeat (fun b => { b with alBusy := true, alRes := .none, alTgt := true, alLeft := 0 }))
  else if src then (if 128000 < ofs.natAbs then s0.endAlign .range else s0.boltAlign (1000 * ofs))
  else if ¬ (pps || lr) then s0.endAlign .nophase
  else
    let move := wrapPhase at_ 256000000 1
    (s0.when pps (·.modBeat (fun b => { b with alMark := some (((b.bolts + (at_ - move) / 256000000) % 15625).toNat) }))).boltAlign move

/-- An align due that ALIGN_START has not taken: the marker's time is then a free value (R235). -/
def State.alignLeft (s : State) : State :=
  if ¬ s.beat.alDue then s
  else let (v, t) := s.freeVal
       t.alignStart (signed 32 v.toNat)

/-- Frequency of a CLKOUT code in Hz; 0: off (R214, R234). -/
def clkHz (c : Nat) : Nat := [8000, 1544000, 2048000, 10000000, 25000000, 156250000].getD c 0

/-- CLKOUTn runs: it is on, and the state of the Beat does not squelch it (R234, R240). -/
def State.clkRuns (s : State) (n : Nat) : Bool :=
  let v := s.reg (beatA (0xB0 + 4 * n))
  decide (clkHz (fld v 0 3) ≠ 0) && (match fld v 4 2 with
    | 1 => s.beat.mode != .freeRun && s.beat.mode != .lost
    | 2 => s.beat.mode == .locked
    | _ => true)

/-- The first edge of a clock of `hz`, counted from the start of the PPS cycle, at or after its bolt `p`. -/
def clkEdge (hz p : Nat) : Nat := (p * 256 * hz + 999999) / 1000000

/-- The rising edges of the CLKOUT lands in the bolt that begins: periods that start in it (R234). -/
def State.clkEdges (s : State) : State :=
  seqAll (fun n s =>
    if s.clkRuns n then
      (let hz := clkHz (s.rf (beatA (0xB0 + 4 * n)) 0 3)
       let p := s.rf (beatA 0x84) 0 14
       s.emit (.clkout n hz (clkEdge hz p) (clkEdge hz (p + 1) - clkEdge hz p)))
    else s) (List.range 4) s

/-- What falls at the boundary that started the present bolt and no row has taken (R219, R221, R225-R227, R235). -/
def State.beatDue (s : State) : State :=
  let s1 := seqAll (fun c s => (s.lrChange c).qualify c) (List.range 24) s
  s1.pullComplete.stageAdvance.beatLocked.lockLost.acqTimeoutBeat.holdoverMax.hoValidSet.alignLeft

/-- What fell due at the last boundary or in the bolt and has not been taken. -/
def State.beatLeft (s : State) : State := s.beatDue.alignDone.refLost.ppsEdge

/-! ### The boundary -/

/-- One bolt of a move of `x` fs at `v` fs a bolt. -/
def stepMove (x v : Int) : Int := if x.natAbs ≤ v.natAbs then x else x.sign * v

/-- A pull and a slew make a bolt's move (R230, R235). -/
def State.beatMoves (s : State) : State :=
  s.modBeat (fun b =>
    let p := stepMove b.pull (256 * (atLeast1 (fld b.swcfg 8 12) : Nat))
    let a := if b.alBusy ∧ ¬ b.alTgt then stepMove b.alLeft s.slewFs else 0
    { b with pull := b.pull - p, alLeft := b.alLeft - a, theta := b.theta + a })

/-- Takes in the measurements; PHASE of PERTURB0 steps the phase error once (R225, R228, R454). -/
def State.beatMeasure (s : State) (o : BeatObs) : State :=
  let en := s.rb (tstA 0x44) 0
  let step := if en ∧ s.beat.sel.isSome then signed 32 (s.reg (beatA 0x30)).toNat else 0
  let on := s.beat.mode = .acquiring ∨ s.beat.mode = .locked
  let f := match s.beat.sel with | some c => s.fofs c | none => 0
  let s1 := s.modBeat (fun b =>
    { b with phiOut := o.phiOut, phi := o.phi,
             phErr := (if on ∧ ¬ b.hold then o.phErr else b.phErr) + step,
             freqErr := if on ∧ ¬ b.hold then o.freqErr + f else b.freqErr,
             dco := if on ∧ ¬ b.hold then max (-500000000) (min 500000000 o.dco) else b.dco })
  if en then s1.setReg (beatA 0x30) 0 else s1

/-- The counts of R225 to R227 over the bolt ended. -/
def State.beatCount (s : State) : State :=
  let lim := match s.beat.stage with | 0 => 1000000 | _ => 200000
  s.modBeat (fun b =>
    let e := b.phErr.natAbs
    let acq := b.mode = .acquiring
    { b with stageCnt := if acq ∧ e < lim then b.stageCnt + 1 else 0,
             lockCnt := if acq ∧ b.stage = 2 ∧ b.pull = 0 ∧ e ≤ s.phLim ∧ b.freqErr.natAbs ≤ 10 then b.lockCnt + 1 else 0,
             badCnt := if b.mode = .locked ∧ 4 * s.phLim < e then b.badCnt + 1 else 0,
             hist := if b.mode = .locked then (b.dco :: b.hist).take 1048640 else b.hist })

/-- Activity gaps and failed conditions of the candidates (R217, R219). -/
def State.candBoundary (s : State) (c : Nat) : State :=
  let s1 := if (s.cand c).gapNow then s.modCand c (fun k => { k with active := false, gapNow := false, gapAt := s.bolt }) else s
  let k := s1.cand c
  if s1.candGood c then (if k.goodFrom.isNone then s1.modCand c (fun k => { k with goodFrom := some s.bolt }) else s1)
  else
    let s2 := if k.goodFrom.isNone ∧ ¬ k.qual then s1 else s1.modCand c (fun k => { k with goodFrom := none, qual := false })
    if k.qual then s2.irq (beatA 0) 4 else s2

/-- The bolt that an align lengthened or shortened has ended: every framed lane sent k zero picks more, scrambled, or |k| picks fewer
(R236). -/
def State.stepDone (s : State) : State :=
  let k := s.beat.alStep
  if k = 0 then s
  else
    let s1 := (s.modBeat (fun b => { b with alStep := 0, theta := b.theta + picksFs k })).emit (.boltLength (100384 + k).toNat)
    if k < 0 then s1
    else s1.send (((List.range 512).filter s.framed).map (fun l => .bits l 100384 k.toNat (lineKey (100384 * 64) (512 * k.toNat))))

/-- The Beat at the boundary of the bolt that `s.bolt` names. -/
def State.beatBoundary (s : State) (o : BeatObs) : State :=
  let p := s.rf (beatA 0x84) 0 14
  let rst := s.beat.ppsRst = some (s.beat.bolts % 15625)
  let s0 := if rst then (s.setReg (beatA 0x84) 0).setReg (beatA 0x88) 0 else s.setReg (beatA 0x84) (w32 ((p + 1) % 15625))
  let s1 := s0.stepDone.modBeat (fun b =>
    { b with ppsDone := false, ppsRst := if rst then none else b.ppsRst, alDue := b.alDue || b.alGo, alGo := false })
  let s2 := (s1.beatMeasure o).beatCount.beatMoves
  let s3 := if s2.lockedLong ∧ s2.beat.hoValid then s2.modBeat (fun b => { b with hov := b.average }) else s2
  let s4 := seqAll (fun c s => s.candBoundary c) (List.range 24) s3
  let s5 := s4.modBeat (fun b =>
    { b with loop := s4.reg (beatA 0x50), hocfg := s4.reg (beatA 0x54), swcfg := s4.reg (beatA 0x58), dcoPend := none,
             dco := match b.dcoPend with
               | some d => max (-500000000) (min 500000000 d)
               | none => b.dco })
  (s5.selectAndMove).modBeat (fun b => { b with hold := false })

/-! ### Register writes and reads -/

/-- A write of BEAT_DCO_LO or BEAT_DCO_HI (R213). -/
def State.dcoWrite (s : State) (m : Mid) (hi : Bool) (v : Word) : State :=
  if s.rb (beatA 0x40) 1 ∧ s.beat.mode = .freeRun then
    s.modBeat (fun b => if hi then { b with dcoPend := some (signed 40 (b.loHeld.toNat + fld v 0 8 * 2 ^ 32)) } else { b with loHeld := v })
  else s.errlog (beatA 0) (if hi then 0x6C else 0x68) m

/-- A read of BEAT_DCO_LO: bits [31:0], and bits [39:32] are latched (R213). -/
def State.dcoRead (s : State) : Word × State :=
  let v := unsigned 40 s.dcoNow
  (w32 v, s.modBeat (fun b => { b with hiLatch := BitVec.ofNat 8 (v >>> 32) }))

/-- A write of BEAT_ALIGN_CMD: CANCEL, then GO (R235, R237). -/
def State.alignCmd (s : State) (v : Word) : State :=
  let s1 := if bit v 1 ∧ s.beat.alBusy ∧ ¬ s.beat.alSrc then s.endAlign .cancelled else s
  if bit v 0 ∧ ¬ s1.beat.alBusy ∧ ¬ s1.beat.alDue then s1.modBeat (fun b => { b with alGo := true }) else s1

/-- A write of a candidate's configuration: a new input restarts its monitor. -/
def State.candWrite (s : State) (c : Nat) (v : Word) : State :=
  let a := candReg c
  let new := v &&& w32 (writeMask a)
  let m := if c < 8 then 0x2007 else 0x3FF
  let s1 := s.setReg a new
  if new &&& m = s.reg a &&& m then s1 else s1.resetCand c

/-- A write of a BEAT register with an effect of its own, by page offset; none for the others. -/
def State.beatWrite (s : State) (m : Mid) (o : Nat) (v : Word) : Option State :=
  if o = 0x64 then some (s.when (bit v 0) (·.modBeat (fun b => { b with hoValid := false })))
  else if o = 0x68 then some (s.dcoWrite m false v)
  else if o = 0x6C then some (s.dcoWrite m true v)
  else if o = 0x98 then some (s.alignCmd v)
  else if 0x100 ≤ o ∧ o < 0x120 ∧ o % 4 = 0 then some (s.candWrite ((o - 0x100) / 4) v)
  else if 0x140 ≤ o ∧ o < 0x180 ∧ o % 4 = 0 then some (s.candWrite (8 + (o - 0x140) / 4) v)
  else none

/-- A BEAT register that shows other state, by page offset; none for those stored. -/
def State.beatShow (s : State) (o : Nat) : Option Word :=
  let b := s.beat
  match o with
  | 0x44 => some s.beatStat
  | 0x4C => some (w32 (b.fsel.toNat + 2 ^ 5 * b.enN.toNat + 2 ^ 6 * (bit s.pwr.straps 0).toNat))
  | 0x6C => some (b.hiLatch.setWidth 32)
  | 0x70 => some (w32 (unsigned 40 b.hov % 2 ^ 32))
  | 0x74 => some (w32 (unsigned 40 b.hov / 2 ^ 32))
  | 0x78 => some (w32 (unsigned 32 b.phErr))
  | 0x8C => some s.qlTxWord
  | 0x9C => some s.alignStat
  | _ => if 0x200 ≤ o ∧ o < 0x260 ∧ o % 4 = 0 then some (s.monStat ((o - 0x200) / 4)) else none

/-- BEAT_DCO_LO_READ (R213). -/
def execBeatDcoLoRead (m : Mid) (s : State) : Out :=
  .next (s.access m (beatA 0x68) 4 false (fun s => let r := s.dcoRead
                                                   r.2.answer (r.1.setWidth 64)))
/-- BEAT_DCO_LO_WRITE (R213). -/
def execBeatDcoLoWrite (m : Mid) (v : Word) (s : State) : Out :=
  .next (s.write4 m (beatA 0x68) v (fun s => (s.dcoWrite m false v)))
/-- BEAT_DCO_HI_WRITE (R213). -/
def execBeatDcoHiWrite (m : Mid) (v : Word) (s : State) : Out :=
  .next (s.write4 m (beatA 0x6C) v (fun s => (s.dcoWrite m true v)))
/-- FREQ_MONITOR_WINDOW (R215): due for an enabled candidate once a window has passed since its monitor started. -/
def execFreqMonitorWindow (c : Fin 24) (ppb : Int) (s : State) : Out :=
  .next (s.when (s.candOn c.val && decide (s.candWindow c.val ≤ since s.bolt (s.cand c.val).monAt)) (·.monitor c.val ppb))
/-- REF_ACTIVITY_GAP (R217): an activity gap on a REF input; ACTIVE clears at the next boundary. -/
def execRefActivityGap (c : Fin 8) (s : State) : Out :=
  .next (s.when (s.candOn c.val && !s.jtag.frozen) (·.modCand c.val (fun k => { k with gapNow := true })))
/-- REF_ACTIVE_RESTORED (R217): due after one full window of edges without a gap. -/
def execRefActiveRestored (c : Fin 8) (s : State) : Out :=
  let k := s.cand c.val
  .next (s.when (s.candOn c.val && !k.active && !k.gapNow && decide (s.candWindow c.val ≤ since s.bolt k.gapAt))
    (·.modCand c.val (fun k => { k with active := true })))
/-- CANDIDATE_QUALIFIED (R219): due once the three conditions have held for the qualification time. -/
def execCandidateQualified (c : Fin 24) (s : State) : Out := .next (s.qualify c.val)
/-- LR_QL_CHANGE (R221): due once a new code has come in 3 consecutive accepted lane headers. -/
def execLrQlChange (c : Fin 24) (s : State) : Out := .next (s.lrChange c.val)
/-- FREF_PIN_CHANGE (R224): new levels, stable for 4 bolts, are taken. -/
def execFrefPinChange (en_n : Bool) (sel : BitVec 5) (s : State) : Out :=
  .next (if s.jtag.frozen ∨ (en_n = s.beat.enN ∧ sel = s.beat.fsel) then s
    else (s.modBeat (fun b => { b with enN := en_n, fsel := sel })).irq (beatA 0) 8)
/-- LOOP_STAGE_ADVANCE (R225). -/
def execLoopStageAdvance (s : State) : Out := .next s.stageAdvance
/-- BEAT_LOCKED (R225). -/
def execBeatLocked (s : State) : Out := .next s.beatLocked
/-- BEAT_LOCK_LOST (R226). -/
def execBeatLockLost (s : State) : Out := .next s.lockLost
/-- BEAT_ACQ_TIMEOUT (R226). -/
def execBeatAcqTimeout (s : State) : Out := .next s.acqTimeoutBeat
/-- HOLDOVER_MAX_EXPIRE (R226). -/
def execHoldoverMaxExpire (s : State) : Out := .next s.holdoverMax
/-- HO_VALID_SET (R227). -/
def execHoValidSet (s : State) : Out := .next s.hoValidSet
/-- SELECTED_REF_LOST (R228). -/
def execSelectedRefLost (s : State) : Out := .next s.refLost
/-- PULL_COMPLETE (R230). -/
def execPullComplete (s : State) : Out := .next s.pullComplete
/-- BEAT_CLR_HO: a write of BEAT_CMD.CLR_HO (R227). -/
def execBeatClrHo (m : Mid) (s : State) : Out :=
  .next (s.write4 m (beatA 0x64) 1 (fun s => (s.modBeat (fun b => { b with hoValid := false }))))
/-- BEAT_ALIGN_GO: a write of BEAT_ALIGN_CMD.GO (R235). -/
def execBeatAlignGo (m : Mid) (s : State) : Out := .next (s.write4 m (beatA 0x98) 1 (fun s => (s.alignCmd 1)))
/-- BEAT_ALIGN_CANCEL: a write of BEAT_ALIGN_CMD.CANCEL (R237). -/
def execBeatAlignCancel (m : Mid) (s : State) : Out := .next (s.write4 m (beatA 0x98) 2 (fun s => (s.alignCmd 2)))

/-- ALIGN_START (R235): due at the boundary after a write of GO. -/
def execAlignStart (markerPs : Int) (s : State) : Out := .next (s.when s.beat.alDue (·.alignStart markerPs))
/-- ALIGN_COMPLETE (R235). -/
def execAlignComplete (s : State) : Out := .next s.alignDone
/-- PPS_OUT_EDGE (R233): due at its positions of the PPS cycle. -/
def execPpsOutEdge (s : State) : Out := .next s.ppsEdge

end Sys2Proof.Machine
end

