-- ==== Sys2Proof/Machine/Blaze.lean ====
section
/-! DEFINITION. The programmable Blaze units (R202-R210). A block run is folded whole when it ends (DESIGN CHOICE, notes/assumptions/23.md). -/
namespace Sys2Proof.Machine

/-- Width in bits of the check of POLY code `p` (R193). -/
def polyWidth (p : Nat) : Nat := match p with | 0 => 32 | 1 => 32 | 2 => 16 | _ => 64

/-- POLY of a unit. -/
def State.uPoly (s : State) (u : Nat) : Nat := s.rf (blzU u 0) 0 2

/-- The running register after one more byte: only the bits that the check uses change (R206). -/
def runStep (p : Nat) (r : BitVec 64) (b : Byte) : BitVec 64 := setFld r 0 (polyWidth p) (polyStep p (fld r 0 (polyWidth p)) b)

/-- The result: the running register after the final XOR (R206). -/
def runResult (p : Nat) (r : BitVec 64) : BitVec 64 := BitVec.ofNat 64 (fld r 0 (polyWidth p) ^^^ polyXor p)

/-- BLZ_UTRAIL of a unit (R207). -/
def State.uTrail (s : State) (u : Nat) : Word :=
  if s.uPoly u = 1 then
    w32 (fld (runResult 1 (s.unit u).run) 0 32 ^^^
      trailKey ((s.reg (blzU u 0x38)).toNat + s.rf (blzU u 0x3C) 0 3 * 2 ^ 32) (s.reg (blzU u 0x34)).toNat)
  else 0

/-- The cluster of a local unit has power (R202). -/
def State.unitOn (s : State) (u : Nat) : Bool := decide (64 ≤ u) || s.clusterOn (u / 8)

/-- A shared unit that another master holds (R203). -/
def State.unitHeld (s : State) (m : Mid) (u : Nat) : Bool := decide (64 ≤ u) && (s.unit u).held && (s.unit u).owner != m

/-- A refused write: REFUSED, and counted where ownership refused it (R203, R204). -/
def State.unitRefuse (s : State) (u : Nat) (deny : Bool) : State :=
  (s.modUnit u (fun b => { b with refused := true })).when deny (·.incReg 0x80068)

/-- The port that a unit reads by: its weaver's, or its own (R362). -/
def unitPort (u : Nat) : Mid := BitVec.ofNat 8 (if u < 64 then u else u + 8)

/-- The word at `a` of the direct window is read by port `m`: a shared unit reaches the banks alone (R364). -/
def State.foldWord (s : State) (m : Mid) (a : Nat) : State × Status :=
  match targetOf (0x1000000 + a) with
  | some t =>
    if ¬ connected m.toNat t then (s.decErr m.toNat (s.idOf m).toNat (0x1000000 + a) false .nopath, .err)
    else if 0x600000 ≤ a then (s, .ok) else s.readWord a
  | none => (s, .ok)

/-- Folds up to `n` bytes of the direct window from `a`, read by port `m`; the word of `a` was read already where `got`. Answers the running
register, the bytes folded, and whether an error ended the run (R205). -/
def State.foldRun (p : Nat) (m : Mid) : Nat → Nat → Bool → State → BitVec 64 → Nat → State × BitVec 64 × Nat × Bool
  | 0, _, _, s, r, k => (s, r, k, false)
  | n + 1, a, got, s, r, k =>
    if 0x800000 ≤ a then (s, r, k, true)
    else
      let t := if got ∧ a % 8 ≠ 0 then (s, Status.ok) else s.foldWord m a
      if t.2 = .err then (t.1, r, k, true)
      else State.foldRun p m n (a + 1) true t.1 (runStep p r (if a < 0x600000 then s.byteAt a else 0)) (k + 1)

/-- Bytes of a run: BLZ_ULEN, 0 acting as 1 (R205). More than the window holds passes its end. -/
def State.runLen (s : State) (u : Nat) : Nat := atLeast1 (s.rf (blzU u 0x2C) 0 24)

/-- Bytes of a run not yet folded. -/
def State.runLeft (s : State) (u : Nat) : Nat := s.runLen u - s.rf (blzU u 0x30) 0 24

/-- A run goes on by up to `n` bytes; true where an error ends it. -/
def State.runOn (s : State) (u n : Nat) : State × Bool :=
  let k := s.rf (blzU u 0x30) 0 24
  let (t, r, m, e) := State.foldRun (s.uPoly u) (unitPort u) n (s.rf (blzU u 0x28) 0 23 + k) false s (s.unit u).run 0
  ((t.modUnit u (fun b => { b with run := r })).setReg (blzU u 0x30) (w32 (k + m)), e)

/-- Ends a run after at most `n` bytes more. -/
def State.endRun (s : State) (u n : Nat) : State :=
  let (t, e) := s.runOn u n
  t.modUnit u (fun b => { b with busy := false, err := e })

/-- A run goes on by a free number of its bytes: how far it has come when a command meets it (DESIGN CHOICE, notes/assumptions/23.md). -/
def State.runSome (s : State) (u : Nat) : State :=
  let (v, s1) := s.freeVal
  (s1.runOn u (v.toNat % (s.runLeft u + 1))).1

/-- ABORT: the run ends as if in an error, without ERR. -/
def State.abortRun (s : State) (u : Nat) : State :=
  if (s.unit u).busy then (s.runSome u).modUnit u (fun b => { b with busy := false }) else s

/-- INIT: the preset initial value; REFUSED and ERR clear. A run in progress goes on from it. -/
def State.initUnit (s : State) (u : Nat) : State :=
  (s.when (s.unit u).busy (·.runSome u)).modUnit u (fun b =>
    { b with run := BitVec.ofNat 64 (polyInit (s.uPoly u)), refused := false, err := false })

/-- RUN_BLOCK starts a run. -/
def State.startRun (s : State) (u : Nat) : State := (s.modUnit u (fun b => { b with busy := true, err := false })).setReg (blzU u 0x30) 0

/-- A write of BLZ_UCMD (R205, R210): ABORT, then INIT, then RUN_BLOCK, before which a run in progress ends as by ABORT. None of them is among
the writes that R204 refuses while BUSY is 1 (DEDUCED, notes/assumptions/23.md). -/
def State.ucmd (s : State) (u : Nat) (v : Word) : State :=
  ((s.when (bit v 2 || bit v 1) (·.abortRun u)).when (bit v 0) (·.initUnit u)).when (bit v 1) (·.startRun u)

/-- A write of BLZ_UOWN (R203). Local units have no owner. -/
def State.uown (s : State) (m : Mid) (u : Nat) (v : Word) : State :=
  let b := s.unit u
  if u < 64 then s
  else if b.held then
    if b.owner ≠ m then s.incReg 0x80068
    else if bit v 0 then s
    else ((s.abortRun u).modUnit u (fun b =>
      { b with held := false, owner := 0, run := BitVec.ofNat 64 (polyInit (s.uPoly u)) }))
  else if bit v 0 then s.modUnit u (fun b => { b with held := true, owner := m })
  else s

/-- Folds bytes written to the data registers. -/
def State.foldBytes (s : State) (u : Nat) (bs : List Byte) : State :=
  let p := s.uPoly u
  s.modUnit u (fun b => { b with run := bs.foldl (runStep p) b.run })

/-- A write of the register at offset `o` of unit `u` (R202-R210). Offsets not listed ignore writes. -/
def State.unitWrite (s : State) (m : Mid) (u o : Nat) (v : Word) : State :=
  if ¬ s.unitOn u then s.incReg 0x80064
  else if o = 0xC then s.uown m u v
  else if o ∉ [0, 4, 0x10, 0x14, 0x20, 0x24, 0x28, 0x2C, 0x34, 0x38, 0x3C] then s
  else if s.unitHeld m u then s.unitRefuse u true
  else if o = 4 then s.ucmd u v
  else if (s.unit u).busy ∧ o < 0x34 then s.unitRefuse u false
  else match o with
    | 0x10 => s.modUnit u (fun b => { b with run := setFld b.run 0 32 v.toNat })
    | 0x14 => s.modUnit u (fun b => { b with run := setFld b.run 32 32 v.toNat })
    | 0x20 => s.foldBytes u (beBytes 4 v.toNat)
    | 0x24 => s.foldBytes u [v.setWidth 8]
    | _ => s.setReg (blzU u o) (v &&& w32 (writeMask (blzU u o)))

/-- A read of unit `u`; zero and counted where its cluster is off (R202). -/
def State.unitRead (s : State) (u o : Nat) : Word × State :=
  if ¬ s.unitOn u then (0, s.incReg 0x80064)
  else
    let b := s.unit u
    let res := runResult (s.uPoly u) b.run
    (match o with
     | 8 => w32 (b.busy.toNat + 2 * b.refused.toNat + 4 * b.err.toNat)
     | 0xC => if b.held then b.owner.setWidth 32 ||| 0x100 else 0
     | 0x10 => b.run.setWidth 32
     | 0x14 => (b.run >>> 32).setWidth 32
     | 0x18 => res.setWidth 32
     | 0x1C => (res >>> 32).setWidth 32
     | 0x40 => s.uTrail u
     | _ => if (accOf (blzU u o)).isSome ∧ o ∉ [4, 0x20, 0x24] then s.reg (blzU u o) else 0, s)

/-- A unit whose cluster loses power: it starts again from its reset values (R202). -/
def State.resetUnit (s : State) (u : Nat) : State :=
  { s with blz := smPut {} s.blz u {}
           regs := smKeep (fun a => !decide (blzU u 0 ≤ a ∧ a < blzU u 0x100)) s.regs }

/-- A write access to a unit's register. -/
def State.unitAccess (s : State) (m : Mid) (u o : Nat) (v : Word) : State :=
  s.write4 m (blzU u o) v (fun s => (s.unitWrite m u o v))

/-- BLZ_CLAIM: shared unit 64 + `u` (R203). -/
def execBlzClaim (m : Mid) (u : Fin 8) (s : State) : Out := .next (s.unitAccess m (64 + u.val) 0xC 1)
/-- BLZ_RELEASE (R203). -/
def execBlzRelease (m : Mid) (u : Fin 8) (s : State) : Out := .next (s.unitAccess m (64 + u.val) 0xC 0)
/-- BLZ_UDATA32_WRITE: four bytes, bits [31:24] first (R204). -/
def execBlzUdata32Write (m : Mid) (u : Fin 72) (v : Word) (s : State) : Out := .next (s.unitAccess m u.val 0x20 v)
/-- BLZ_UDATA8_WRITE: one byte (R204). -/
def execBlzUdata8Write (m : Mid) (u : Fin 72) (v : Word) (s : State) : Out := .next (s.unitAccess m u.val 0x24 v)
/-- BLZ_INIT: a write of BLZ_UCMD.INIT (R210). -/
def execBlzInit (m : Mid) (u : Fin 72) (s : State) : Out := .next (s.unitAccess m u.val 4 1)
/-- BLZ_RUN_BLOCK: a write of BLZ_UCMD.RUN_BLOCK, with INIT or without (R205). -/
def execBlzRunBlock (m : Mid) (u : Fin 72) (init : Bool) (s : State) : Out :=
  .next (s.unitAccess m u.val 4 (w32 (2 + init.toNat)))
/-- BLZ_ABORT: a write of BLZ_UCMD.ABORT (R205). -/
def execBlzAbort (m : Mid) (u : Fin 72) (s : State) : Out := .next (s.unitAccess m u.val 4 4)
/-- A run has a bank before it that is held (R371). -/
def State.runHeld (s : State) (u : Nat) : Bool :=
  let a := s.rf (blzU u 0x28) 0 23 + s.rf (blzU u 0x30) 0 24
  (span (a / 0x20000) ((a + s.runLeft u + 0x1FFFF) / 0x20000 - a / 0x20000)).any (fun b => s.winWaits (unitPort u) (0x20000 * b) 1)

/-- BLZ_RUN_DONE (R205): due while BUSY is 1, and no bank it is to read is held. -/
def execBlzRunDone (u : Fin 72) (s : State) : Out :=
  .next (if (s.unit u.val).busy ∧ ¬ s.runHeld u.val then s.endRun u.val (s.runLeft u.val) else s)
/-- BLZ_URUN_WRITE: BLZ_URUN_LO or BLZ_URUN_HI (R206). -/
def execBlzUrunWrite (m : Mid) (u : Fin 72) (hi : Bool) (v : Word) (s : State) : Out :=
  .next (s.unitAccess m u.val (if hi then 0x14 else 0x10) v)

end Sys2Proof.Machine
end

