-- ==== Sys2Proof/Machine/Host.lean ====
section
/-! DEFINITION. The PCIe endpoint, MSI-X, host DMA (R399-R402, R410-R413, R416) and the report of R21. -/
namespace Sys2Proof.Machine

/-! ### Bank and Skid windows as any master reaches them -/

/-- A write of bytes within one aligned group of 8 that lands in a bank or Skid window. -/
def State.winWrite (s : State) (m : Mid) (a : Nat) (bs : List Byte) (clash : Bool) : State :=
  match windowOf a with
  | some (.direct, o) => s.bankWrite m o bs clash
  | some (.set, o) => s.bankAlias m o bs true clash
  | some (.clear, o) => s.bankAlias m o bs false clash
  | some (.buffer, o) => s.skidWrite m ((o - 0x600000) / 256) ((o - 0x600000) % 256) bs
  | none => s

/-- A read there. -/
def State.winRead (s : State) (m : Mid) (a size : Nat) : State :=
  match windowOf a with
  | some (w, o) => s.bankRead m a w o size
  | none => s.answer 0

/-! ### Configuration space (R399) -/

/-- What configuration space and its capabilities present. -/
structure PcieCaps where
  vendor : Nat
  device : Nat
  revision : Nat
  classCode : Nat
  /-- the BARs: config offset, size in bytes; both 64-bit and non-prefetchable -/
  bars : List (Nat × Nat)
  maxGen : Nat
  widths : List Nat
  maxPayload : Nat
  maxReadRequest : Nat
  outstanding : Nat
  vectors : Nat
  interruptPin : Nat
  noSoftReset : Bool
  flr : Bool
  /-- physical functions; BAR1, BAR3 to BAR5 and the expansion ROM read zero; tag bits; AER; ASPM L1 -/
  functions : Nat
  otherBars : Nat
  tagBits : Nat
  aer : Bool
  aspmL1 : Bool
  /-- Device Serial Number -/
  serial : Nat
deriving DecidableEq, Repr

/-- The endpoint's values; its serial number is the module's. No row reads them. -/
def State.pcieCaps (s : State) : PcieCaps :=
  { vendor := 0x1E9D, device := 0x9140, revision := 0xB1, classCode := 0x028000, bars := [(0x10, 0x4000000), (0x18, 0x100000)]
    maxGen := 5, widths := [1, 2, 4], maxPayload := 256, maxReadRequest := 512, outstanding := 32, vectors := 64, interruptPin := 0
    noSoftReset := true, flr := false, functions := 1, otherBars := 0, tagBits := 8, aer := true, aspmL1 := true, serial := s.serialNo }

/-- The payload size and the read request size in force: larger settings act as the most the endpoint has (R399). -/
def PcieCaps.payloadOf (c : PcieCaps) (set : Nat) : Nat := min set c.maxPayload
def PcieCaps.readOf (c : PcieCaps) (set : Nat) : Nat := min set c.maxReadRequest

/-! ### Link states (R400, R411) -/

/-- Configuration space, the MSI-X table and the DMA channels return to their reset values; the PBA bit of every vector whose
level is 1 is set again (R400, R411). The vectors are masked at reset (PRESUMED, notes/assumptions/28.md). -/
def State.hostReset (s : State) : State :=
  let s1 := { s with regs := smKeep (fun a => decide (a < 0x4040100 ∨ 0x4040160 ≤ a)) s.regs }
  (s1.modPcie (fun c => { c with bme := false, d3 := false, msixEn := false, fmask := false, vmask := BitVec.allOnes 64,
                                 pba := c.level, dmaDir := 0 })).modMbx (fun x =>
    { x with mem := smKeep (fun a => decide (a < 0x50000)) x.mem })

/-- PCIE_LINK_DOWN (R400). -/
def execPcieLinkDown (s : State) : Out :=
  .next (s.hostReset.modPcie (fun c => { c with linkUp := false, gen := 0, width := 0 }))

/-- PCIE_HOT_RESET (R400). The link itself is kept. -/
def execPcieHotReset (s : State) : Out := .next s.hostReset

/-- PCIE_D3HOT_ENTRY (R400). -/
def execPcieD3hotEntry (s : State) : Out := .next (s.when s.pcie.linkUp (·.modPcie (fun c => { c with d3 := true })))

/-- PCIE_LINK_UP (R399, R407): speed 1 to 5, width 1, 2 or 4; the endpoint has power with the CDP domain. -/
def execPcieLinkUp (gen width : Nat) (s : State) : Out :=
  .next (s.when (linkOk gen width && s.pwr.cdpOn) (fun s =>
    (s.modPcie (fun c => { c with linkUp := true, gen := gen, width := width })).drainPba))

/-- PCIE_REQUESTS_RESUME (R400, R411): the host leaves D3hot or sets configuration: Bus Master Enable, MSI-X enable, function
mask; messages held are sent where they may go. -/
def execPcieRequestsResume (bme msixEn fmask : Bool) (s : State) : Out :=
  .next (s.when s.pcie.linkUp (fun s =>
    (s.modPcie (fun c => { c with d3 := false, bme := bme, msixEn := msixEn, fmask := fmask })).drainPba))

/-- Sets the mask bit of vector `v`; one unmasked with its PBA bit set is sent (R411). -/
def State.vecMask (s : State) (v : Nat) (b : Bool) : State :=
  (s.modPcie (fun c => { c with vmask := setBit c.vmask v b })).drainPba

/-- MSIX_VECTOR_UNMASK (R411): a write of the vector control word of the MSI-X table with the mask bit 0 (R413). -/
def execMsixVectorUnmask (v : Fin 64) (s : State) : Out :=
  .next (s.when s.pwr.cdpOn (fun s =>
    (s.modMbx (fun x => { x with mem := Memory.writeN x.mem (0x5000C + 16 * v.val) (List.replicate 4 0) })).vecMask v.val false))

/-- A write of GVEC_EOI (R411). -/
def State.eoi (s : State) (v : Word) : State :=
  let i := fld v 0 6
  s.when (bit s.pcie.level i) (·.raiseVec i)

/-- GVEC_EOI (R410). -/
def execGvecEoi (m : Mid) (v : Word) (s : State) : Out := .next (s.write4 m 0x2040 v (fun s => s.eoi v))

/-! ### DMA (R416) -/

/-- Ends a channel: DMA_STAT, DMA_DONE, its cause. -/
def State.dmaEnd (s : State) (c n : Nat) (err : Bool) : State :=
  ((s.setReg (dmaA c 0x14) (if err then 4 else 2)).setReg (dmaA c 0x18) (w32 n)).irq 0x4040000 (2 ^ (c + (if err then 3 else 0)))

/-- Bytes of a channel's transfer. -/
def State.dmaLen (s : State) (c : Nat) : Nat := s.rf (dmaA c 0xC) 0 21

/-- A length that DMA_LEN allows. -/
def dmaLenOk (n : Nat) : Bool := decide (n % 4 = 0 ∧ 4 ≤ n ∧ n ≤ 1048576)

/-- A write of DMA_CTRL: ABORT, then GO; GO while BUSY is ignored, and a length out of range ends the channel with ERR. -/
def State.dmaCtrl (s : State) (c : Nat) (v : Word) : State :=
  let s1 := if bit v 2 ∧ s.rb (dmaA c 0x14) 0 then s.setReg (dmaA c 0x14) 0 else s
  if bit v 0 ∧ ¬ s1.rb (dmaA c 0x14) 0 then
    if dmaLenOk (s1.dmaLen c) then
      ((s1.setReg (dmaA c 0x14) 1).setReg (dmaA c 0x18) 0).modPcie (fun p => { p with dmaDir := setBit p.dmaDir c (bit v 1) })
    else s1.dmaEnd c 0 true
  else s1

/-- DMA_GO (R416). -/
def execDmaGo (c : Fin 3) (dir : Bool) (s : State) : Out := .next (s.when s.pwr.cdpOn (·.dmaCtrl c.val (if dir then 3 else 1)))
/-- DMA_ABORT (R416): the channel ends without DONE or ERR. -/
def execDmaAbort (c : Fin 3) (s : State) : Out := .next (s.when s.pwr.cdpOn (·.dmaCtrl c.val 4))

/-- Writes to the device, 8 bytes where the address allows it, else 4: the bytes left when an access fails. -/
def State.dmaIn (clash : List Nat) : Nat → Nat → List Byte → State → State × List Byte
  | 0, _, bs, s => (s, bs)
  | n + 1, a, bs, s =>
    if bs = [] then (s, [])
    else
      let k := if a % 8 = 0 ∧ 8 ≤ bs.length then 8 else 4
      if (windowOf a).isNone then (s, bs)
      else match s.gate 66 a k true with
        | .go => State.dmaIn clash n (a + k) (bs.drop k) (s.winWrite 66 a (bs.take k) (decide (a / 8 ∈ clash)))
        | .err e => (s.decAns 66 a true e, bs)
        | _ => State.dmaIn clash n (a + k) (bs.drop k) s

/-- Reads `left` bytes from the device: those read before an access fails. -/
def State.dmaOut : Nat → Nat → Nat → List Byte → State → State × List Byte
  | 0, _, _, acc, s => (s, acc)
  | n + 1, a, left, acc, s =>
    if left = 0 then (s, acc)
    else
      let k := if a % 8 = 0 ∧ 8 ≤ left then 8 else 4
      match windowOf a, s.gate 66 a k false with
      | some (w, o), .go =>
        if 0x600000 ≤ o ∧ w ≠ .buffer then State.dmaOut n (a + k) (left - k) (acc ++ List.replicate k 0) s
        else
          (match s.readWord o with
           | (t, .ok) => State.dmaOut n (a + k) (left - k) (acc ++ t.bytes o k) t
           | (t, _) => (t, acc))
      | some _, .quiet => State.dmaOut n (a + k) (left - k) (acc ++ List.replicate k 0) s
      | some _, .err e => (s.decAns 66 a false e, acc)
      | _, _ => (s, acc)

/-- The whole transfer of a channel; `data` is what host memory gave. Without requests on the link it ends with ERR. -/
def State.dmaRun (s : State) (c : Nat) (data : DmaData) : State :=
  let n := s.dmaLen c
  let a := s.rf (dmaA c 8) 0 26
  let host := (s.reg (dmaA c 0)).toNat + (s.reg (dmaA c 4)).toNat * 2 ^ 32
  if bit s.pcie.dmaDir c then
    let r := State.dmaOut 262144 a n [] s
    let s1 := r.1.hostWrite host r.2
    if ¬ s.canIssue then s1.dmaEnd c 0 true else s1.dmaEnd c r.2.length (decide (r.2.length ≠ n))
  else if ¬ s.canIssue then s.dmaEnd c 0 true
  else
    let r := State.dmaIn data.clash 262144 a (padTo n data.bytes) s
    r.1.dmaEnd c (n - r.2.length) (!r.2.isEmpty)

/-- A channel's transfer meets a target that is held full, host memory among them: it stays BUSY (R371, R412, R455). -/
def State.dmaHeld (s : State) (c : Nat) : Bool :=
  let n := s.dmaLen c
  let a := s.rf (dmaA c 8) 0 26
  (List.range 9).any (fun i => s.gate 66 (min (a + 0x20000 * i) (a + n - 4)) 4 (!bit s.pcie.dmaDir c) == .wait) || (bit s.pcie.dmaDir c && s.hostWaits)

/-- DMA_DONE (R416): due while the channel is BUSY, and no target that it needs is held. -/
def execDmaDone (c : Fin 3) (data : DmaData) (s : State) : Out :=
  .next (s.when (s.rb (dmaA c.val 0x14) 0 && !s.dmaHeld c.val) (·.dmaRun c.val data))

/-! ### R21 -/

/-- CDP_UNCORRECTABLE_FAULT (R21, R407): reported in GLB_STAT and on INT_N. -/
def execCdpUncorrectableFault (s : State) : Out := .next ((s.setRf 0x8 0 1 1).irq 0 4)

end Sys2Proof.Machine
end

