-- ==== Sys2Proof/Machine/Post.lean ====
section
/-! DEFINITION. Messages between weavers and Foremen in Skid pool buffers: posting, checks, NAKs, flushes, pops (R288-R292, R329,
R356, R357). -/
namespace Sys2Proof.Machine

/-- The next epoch (R283). -/
def nextEpoch (e : Nat) : Nat := if e = 65535 then 1 else e + 1

/-! ### Header words (R288) -/

/-- Byte address of a buffer in the bank memory. -/
def bufAt (i : Nat) : Nat := 0x600000 + 256 * i
/-- Word `j` of a buffer. -/
def State.bufWord (s : State) (i j : Nat) : Word := w32 (leVal (s.bytes (bufAt i + 4 * j) 4))
/-- The hardware writes word `j` of a buffer, half a word of the bank (R341). -/
def State.setBufWord (s : State) (i j : Nat) (v : Word) : State := s.storeBytes (bufAt i + 4 * j) (leBytes 4 v.toNat)

/-- A message's fields. -/
def State.msgDst (s : State) (i : Nat) : Nat := fld (s.bufWord i 0) 0 8
def State.msgSrc (s : State) (i : Nat) : Nat := fld (s.bufWord i 1) 0 8
def State.msgKind (s : State) (i : Nat) : Nat := fld (s.bufWord i 2) 0 2

/-- Role and epoch of a sender: a Foreman's epoch is the low half of GEN (R288). -/
def State.ident (s : State) (d : Nat) : Nat × Nat :=
  if d < 64 then ((s.weaver d).role, (s.weaver d).epoch) else (0, fld s.fmn.gen 0 16)

/-- Word 1 for a sender. -/
def State.srcWord (s : State) (d : Nat) : Word :=
  let (r, e) := s.ident d
  w32 (d + r * 2 ^ 8 + e * 2 ^ 16)

/-- The inbox of a destination. -/
def State.inbox (s : State) (d : Nat) : List Nat :=
  if d < 64 then (s.weaver d).inbox else if d = 64 then s.fmn.a.inbox else s.fmn.b.inbox

/-! ### Load shedding (R328) -/

/-- The backlog: commands taken and not replied to, and the holder's inbox. -/
def State.backlog (s : State) : Nat :=
  s.mbx.taken.length + (if s.fmn.holder = 1 then s.fmn.a.inbox.length else if s.fmn.holder = 2 then s.fmn.b.inbox.length else 0)

/-- Thresholds T1 to T4 of FMN_SHEDCFG. -/
def State.shedT (s : State) (i : Nat) : Nat := s.rf (fmnA 0x78) (8 * i) 8

/-- The level that a backlog gives after level `l`: the thresholds reached, and those not yet below half. -/
def State.shedLevel (s : State) (l n : Nat) : Nat :=
  ((List.range 4).filter (fun i => decide (s.shedT i ≤ n) || (decide (i < l) && decide (s.shedT i ≤ 2 * n)))).length

/-- Takes the shed level anew; a rise sets SHED (R332). -/
def State.noteShed (s : State) : State :=
  let l := s.shedLevel s.fmn.shed s.backlog
  let s1 := s.modFmn (fun f => { f with shed := l })
  if s.fmn.shed < l then s1.irq (fmnA 0) 0x80 else s1

/-- Sets an inbox. -/
def State.setInbox (s : State) (d : Nat) (l : List Nat) : State :=
  if d < 64 then s.modWeaver d (fun x => { x with inbox := l })
  else if d = 64 then (s.modFmn (fun f => { f with a := { f.a with inbox := l } })).noteShed
  else (s.modFmn (fun f => { f with b := { f.b with inbox := l } })).noteShed

/-! ### Checks (R289, R329) -/

/-- A destination takes messages: a weaver in RUN, DRAIN until it halts, SLEEP or HALT; the Foreman that holds the lease. -/
def State.accepts (s : State) (d : Nat) : Bool :=
  if d < 64 then (match (s.weaver d).st with
    | .run => true | .drain => !(s.weaver d).halted | .sleep => true | .halt => true | _ => false)
  else decide (s.holderId = some d)

/-- The first failing check for a message at destination `d`: its NAK reason. -/
def State.nakReason (s : State) (d i : Nat) : Option Nat :=
  let w0 := s.bufWord i 0
  let len := fld (s.bufWord i 2) 8 9
  let (r, e) := s.ident d
  if fld w0 0 8 ≠ d ∨ len < 32 ∨ 256 < len then some 4
  else if ¬ s.accepts d then some 3
  else if fld w0 8 8 ≠ r then some 2
  else if fld w0 16 16 ≠ 0 ∧ fld w0 16 16 ≠ e then some 1
  else if 256 ≤ (s.inbox d).length then some 6
  else none

/-- A message joins an inbox, POSTED, and is counted (R381); a sleeping weaver will wake (R303). -/
def State.enterInbox (s : State) (d i : Nat) : State :=
  let s1 := (s.setBuf i .posted d).setInbox d (s.inbox d ++ [i])
  if d < 64 then (s1.count 7 d 0).when (decide (s.msgKind i = 3)) (·.count 7 d 2) else s1

/-- A message that cannot be delivered: its buffer is freed, counted on the page that refused (R291). -/
def State.nakDrop (s : State) (page i : Nat) : State :=
  (s.freeBuf i).when (decide (page < 64)) (·.incReg (wvrA page 0x68))

/-- The hardware turns a message into a NAK of `page` and posts it to its sender (R291). -/
def State.nak (s : State) (page i reason : Nat) : State :=
  let s1 := if page < 64 then
      (s.incReg (wvrA page 0x60)).when (decide (reason = 1 ∨ reason = 2)) (·.incReg (wvrA page 0x64))
    else s
  let to_ := s.msgSrc i
  let s2 := (((s1.setBufWord i 0 (s.bufWord i 1)).setBufWord i 1 (s.srcWord page)).setBufWord i 2
    (setFld (setFld (s.bufWord i 2) 0 2 3) 24 8 reason)).setBufWord i 5 s.bolt
  match s2.nakReason to_ i with
  | none => s2.enterInbox to_ i
  | some _ => s2.nakDrop page i

/-- A message is refused: it becomes a NAK; a NAK is not answered, but freed and counted (R291). -/
def State.turnAway (s : State) (d i reason : Nat) : State := if s.msgKind i = 3 then s.nakDrop d i else s.nak d i reason

/-- A stamped message reaches destination `d`: its header is read, and it enters the inbox, or is refused (R289, R291, R343). -/
def State.deliver (s0 : State) (d i : Nat) : State :=
  let s := s0.readRun (bufAt i) 24
  match s.nakReason d i with
  | none => s.enterInbox d i
  | some r => s.turnAway d i r

/-- Master `m` posts buffer `i` to destination `d` (R289, R329, R356): only a buffer that it owns. -/
def State.post (s : State) (m d i : Nat) : State :=
  if i < 8192 ∧ s.buf i = (.owned, m) then
    let s1 := s.when (decide (m < 64)) (·.count 7 m 1)
    (((s1.setBuf i .posted d).setBufWord i 1 (s.srcWord m)).setBufWord i 5 s.bolt).deliver d i
  else s.skidMisuse (BitVec.ofNat 8 m) i 2

/-- Every message of an inbox is refused with a reason, in inbox order (R290, R291, R314). -/
def State.flush (s : State) (d reason : Nat) : State := seqAll (fun i s => s.turnAway d i reason) (s.inbox d) (s.setInbox d [])

/-- A pop of the inbox of `d` by its owner: the value, the buffer OWNED by the popper (R292, R356). -/
def State.popInbox (s : State) (d : Nat) : Word × State :=
  match s.inbox d with
  | i :: t => (w32 (2 ^ 31 + i), (s.setInbox d t).setBuf i .owned d)
  | [] => (0, s)

/-- A write of WVR_POST of page `w`: weavers and Foremen only (R289). -/
def State.wvrPost (s : State) (m : Mid) (w : Nat) (v : Word) : State :=
  if m.toNat < 66 then s.post m.toNat w (fld v 0 14) else s.errlog (wvrA w 0) 0x50 m

/-- WVR_POST (R289). -/
def execWvrPost (m : Mid) (w : Fin 64) (v : Word) (s : State) : Out :=
  .next (s.write4 m (wvrA w.val 0x50) v (fun s => s.wvrPost m w.val v))

/-- A read of WVR_INBOX_POP: zero to any other master (R292). -/
def State.wvrPop (s : State) (m : Mid) (w : Nat) : Word × State := if m.toNat = w then s.popInbox w else (0, s)

/-- WVR_INBOX_POP (R292). -/
def execWvrInboxPop (m : Mid) (w : Fin 64) (s : State) : Out :=
  .next (s.access m (wvrA w.val 0x54) 4 false (fun s => let r := s.wvrPop m w.val
                                                        r.2.answer (r.1.setWidth 64)))

/-- A write of FMN_POST_A or FMN_POST_B: weavers and Foremen only (R329). -/
def State.fmnPost (s : State) (m : Mid) (b : Bool) (v : Word) : State :=
  if m.toNat < 66 then s.post m.toNat (if b then 65 else 64) (fld v 0 14) else s.errlog (fmnA 0) (if b then 0x84 else 0x80) m

/-- FMN_POST (R329). -/
def execFmnPost (m : Mid) (b : Bool) (v : Word) (s : State) : Out :=
  .next (s.write4 m (fmnA (if b then 0x84 else 0x80)) v (fun s => s.fmnPost m b v))

/-- A read of FMN_INBOX_POP: the reading Foreman's own inbox (R329). -/
def State.fmnPop (s : State) (m : Mid) : Word × State := if m = 64 ∨ m = 65 then s.popInbox m.toNat else (0, s)

/-- FMN_INBOX_POP (R329). -/
def execFmnInboxPop (m : Mid) (s : State) : Out :=
  .next (s.access m (fmnA 0x88) 4 false (fun s => let r := s.fmnPop m
                                                  r.2.answer (r.1.setWidth 64)))

end Sys2Proof.Machine
end

