-- ==== Sys2Proof/Machine/Text.lean ====
section
/-! DEFINITION. Text of the Twiuri monitor: characters, numbers in the notation of spec/00, lines and prompts (R443-R447). -/
namespace Sys2Proof.Machine

/-- The ASCII bytes of a text. -/
def ascii (t : String) : List Byte := t.toList.map (fun c => BitVec.ofNat 8 c.toNat)

/-- One hexadecimal digit. -/
def hexDigit (n : Nat) : Byte := BitVec.ofNat 8 (if n < 10 then 48 + n else 55 + n)

/-- `n` hexadecimal digits, most significant first. -/
def hexDigits (n v : Nat) : List Byte := (List.range n).map (fun i => hexDigit (v / 16 ^ (n - 1 - i) % 16))

/-- A 32-bit value: 0x0000_0000. -/
def hexWord (v : Nat) : List Byte := ascii "0x" ++ hexDigits 4 (v / 65536) ++ ascii "_" ++ hexDigits 4 v

/-- A 16-bit value: 0x0000. -/
def hexHalf (v : Nat) : List Byte := ascii "0x" ++ hexDigits 4 v

/-- A line and its CR LF (R444). -/
def lineOf (bs : List Byte) : List Byte := bs ++ [13, 10]

/-- The prompt of a serving monitor (R444). -/
def prompt : List Byte := ascii "tw> "

/-- Sends text on the UART. -/
def State.say (s : State) (bs : List Byte) : State := s.emit (.uart bs)

/-- A command ends with a line and the prompt (R444). -/
def State.sayEnd (s : State) (line : String) : State := s.say (lineOf (ascii line) ++ prompt)

/-- The banner of a newly granted holder's monitor; a command that the former holder's monitor served has ended with no output (R447). -/
def State.banner (s : State) (b : Bool) : State :=
  let v := s.rf (fmnA (if b then 0xA4 else 0xA0)) 0 16
  (s.modTst (fun t => { t with mon := none, wait := none })).say (lineOf (ascii "tw ZX9140 B1 fw " ++ hexHalf v ++ ascii (if b then " B gen " else " A gen ") ++ hexWord s.fmn.gen.toNat) ++ prompt)

end Sys2Proof.Machine
end

