-- ==== Sys2Proof/Machine/Ckpt.lean ====
section
/-! DEFINITION. Checkpoints (R321-R323): the two bank copies and the flash copy, which of them are valid, writing one. The header
lies in the banks byte by byte; the body's layout is not given, and the model holds it as data (DESIGN CHOICE, notes/assumptions/24.md). -/
namespace Sys2Proof.Machine

/-- A copy: 0 and 1 in the banks. -/
def State.ckpt (s : State) (i : Nat) : Ckpt := if i = 0 then s.fmn.ck0 else s.fmn.ck1
/-- Direct-window offset of a bank copy: B40 or B44. -/
def ckptAt (i : Nat) : Nat := 0x500000 + 0x80000 * i
/-- COMMIT of a SEQ (R321). -/
def commitOf (seq : Nat) : Nat := seq % 2 ^ 32 ^^^ 0xA5A5A5A5
/-- The banks of a copy are all good (R352). -/
def State.ckptBanksOk (s : State) (i : Nat) : Bool := (span (40 + 4 * i) 4).all (fun b => !s.bankBad b)

/-- LEN of a bank copy, as its header stands. -/
def State.ckptLen (s : State) (i : Nat) : Nat := leVal (s.bytes (ckptAt i + 12) 4)

/-- A bank copy is valid (R322): COMMIT matches SEQ and BCRC the body, as their bytes stand, and no word of it is uncorrectable. -/
def State.ckptValid (s : State) (i : Nat) : Bool :=
  let h := s.bytes (ckptAt i) 64
  let seq := leVal (h.take 4)
  let n := s.ckptLen i
  (s.ckpt i).valid && decide ((s.ckpt i).seq = seq) && decide (leVal (bytesAt h 60 4) = commitOf seq) && s.ckptBanksOk i
    && decide (n ≤ 524224) && decide (leVal (bytesAt h 16 8) = crc64 (s.bytes (ckptAt i + 64) n))
    && (span (ckptAt i / 8) ((64 + n + 7) / 8)).all (fun w => !decide (w ∈ s.bank.unc))

/-- The copy that holds the newest valid checkpoint. -/
def State.ckptNewest (s : State) : Option Nat :=
  match s.ckptValid 0, s.ckptValid 1 with
  | true, true => some (if s.fmn.ck0.seq < s.fmn.ck1.seq then 1 else 0)
  | true, false => some 0
  | false, true => some 1
  | false, false => none

/-- The checkpoint that a restore takes (R322). -/
def State.ckptRestore (s : State) : Option Ckpt :=
  match s.ckptNewest with
  | some i => some (s.ckpt i)
  | none => if s.fmn.ckFlash.valid then some s.fmn.ckFlash else none

/-- FMN_CKPT_SEQ: SEQ of the newest valid checkpoint, 0 where there is none. -/
def State.ckptSeq (s : State) : Nat := match s.ckptRestore with | some c => c.seq | none => 0

/-- FMN_CKPT_STAT. -/
def State.ckptStat (s : State) : Word :=
  w32 ((s.ckptValid 0).toNat + (s.ckptValid 1).toNat * 2 + s.fmn.ckFlash.valid.toNat * 4)

/-- What a checkpoint holds now (R321): the role map lists each weaver that holds a role other than NONE. -/
def State.ckptNow (s : State) : Ckpt :=
  { valid := true
    seq := (s.ckptSeq + 1) % 2 ^ 32
    gen := s.fmn.gen
    bolt := s.bolt
    roles := ((List.range 64).map (fun w => (w, (s.weaver w).role, (s.weaver w).inst))).filter (fun e => e.2.1 ≠ 0)
    heads := (List.range 4).map (fun r => (s.reg (mbxR r 8)).toNat)
    icq := s.mbx.icqPos
    fcq := s.mbx.fcqPos
    inprog := s.mbx.taken.map (fun c => (c.ring, c.slot))
    mgmt := s.mbx.mgmtEn }

/-- The body differs from the newest checkpoint's (R323). -/
def State.ckptChanged (s : State) : Bool :=
  let n := s.ckptNow
  match s.ckptRestore with
  | some c => decide ({ c with seq := n.seq, gen := n.gen, bolt := n.bolt } ≠ n)
  | none => true

/-- A checkpoint's header over its body (R321). -/
def ckptHeader (c : Ckpt) (body : List Byte) : List Byte :=
  leBytes 4 c.seq ++ leBytes 4 c.gen.toNat ++ leBytes 4 c.bolt.toNat ++ leBytes 4 body.length ++ leBytes 8 (crc64 body)
    ++ List.replicate 36 0 ++ leBytes 4 (commitOf c.seq)

/-- The holder writes a checkpoint to the copy that does not hold the newest valid one (R322). The bytes of its body, which carry what `Ckpt`
holds and the Foreman's configuration and event log, are free values (DESIGN CHOICE, notes/assumptions/24.md). It waits while a bank of the copy
is held (R371). -/
def State.ckptWrite (s : State) : State :=
  match s.holderId with
  | none => s
  | some h =>
    let i := match s.ckptNewest with | some 0 => 1 | _ => 0
    let c := s.ckptNow
    if [0, 1, 2, 3].any (fun j => s.winWaits (BitVec.ofNat 8 h) (ckptAt i + 0x20000 * j) 1) then
      s.modTst (fun t => { t with waitQ := t.waitQ.filter (· ≠ .ckpt) ++ [.ckpt] })
    else
    let body := (Config.ckptBody s.free).take 524224
    (s.freeVal.2.agentWrite (BitVec.ofNat 8 h) (ckptAt i) (ckptHeader c body ++ body) false).modFmn (fun f =>
      let f1 := { f with ckAt := f.tick }
      if i = 0 then { f1 with ck0 := c } else { f1 with ck1 := c })

/-- A role changed: the holder writes a checkpoint (R323). -/
def State.roleCkpt (s : State) : State := if s.headless then s else s.ckptWrite

/-- Copies the newest valid checkpoint to flash (R323): the flash copy is its image. -/
def State.ckptToFlash (s : State) : State :=
  match s.ckptNewest with
  | some i =>
    let n := 64 + s.ckptLen i
    ((s.readRun (ckptAt i) n).emit (.flash 2 (s.bytes (ckptAt i) n))).modFmn (fun f => { f with ckFlash := s.ckpt i, flashAt := f.tick })
  | none => s.when s.fmn.ckFlash.valid (·.modFmn (fun f => { f with flashAt := f.tick }))

end Sys2Proof.Machine
end

