-- ==== Sys2Proof/Machine/Weaver.lean ====
section
/-! DEFINITION. Weavers: role requests, role changes and epochs, faults and restarts, sleep (R277-R287, R303). -/
namespace Sys2Proof.Machine

/-- WVR_ROLE_REQ.PENDING. -/
def State.pendingReq (s : State) (w : Nat) : Bool := s.rb (wvrA w 0x48) 16

/-- Reports a role request: PENDING clears, RESULT is set (R284). -/
def State.roleResult (s : State) (w r : Nat) : State := (s.setRf (wvrA w 0x48) 16 1 0).setRf (wvrA w 0x48) 17 3 r

/-- A role code and instance of R279. -/
def roleOk (role inst : Nat) : Bool :=
  if role = 3 then decide (inst < 8) else decide (inst = 0 ∧ (role ≤ 4 ∨ (0x10 ≤ role ∧ role ≤ 0x12)))

/-- A policy role. -/
def isPolicy (role : Nat) : Bool := decide (0x10 ≤ role ∧ role ≤ 0x12)

/-- Another weaver holds, or is loading, a role and instance. -/
def State.roleTaken (s : State) (w role inst : Nat) : Bool :=
  s.wvr.any (fun e => decide (e.1 ≠ w) &&
    (decide (e.2.role = role ∧ e.2.inst = inst ∧ e.2.st ≠ .off ∧ e.2.st ≠ .idle) || decide (e.2.next = some (role, inst))))

/-- The first refusal of R284 that applies, in the table's order. -/
def State.roleRefusal (s : State) (w role inst : Nat) (imageOk : Bool) : Option Nat :=
  if role ≠ 0 ∧ s.roleTaken w role inst then some 2
  else if (isPolicy role && decide (w < 60)) || (decide (role ≠ 0) && !isPolicy role && decide (60 ≤ w)) then some 3
  else if (s.weaver w).st = .off then some 4
  else if ¬ roleOk role inst then some 5
  else if role ≠ 0 ∧ ¬ imageOk then some 6
  else none

/-! ### Banks of a role (R281, R337) -/

/-- The Foreman that holds the lease writes BANK_OWNb of bank `b` and waits until HANDOVER reads 0. -/
def State.passBank (s : State) (b kind owner : Nat) : State :=
  match s.holderId with
  | some m => (s.ownWrite (BitVec.ofNat 8 m) b (setFld (setFld (s.bankOwn b) 0 8 owner) 8 3 kind)).handoverDone b
  | none => s

/-- The Foreman takes back the banks of the role that weaver `w` held: they are its own until the role starts again (R281, R285; DEDUCED,
notes/assumptions/26.md). -/
def State.takeBanks (s : State) (w : Nat) : State :=
  let x := s.weaver w
  if x.role = 0 then s
  else seqAll (fun b s => (s.passBank b 2 0).modFmn (fun f => { f with roleBanks := f.roleBanks ++ [(x.role, x.inst, b)] })) (s.banksOf w) s

/-- The Foreman hands the banks of role `y` to weaver `w`, those that are still with it. -/
def State.handBanks (s : State) (w : Nat) (y : Nat × Nat) : State :=
  let mine := fun (e : Nat × Nat × Nat) => decide (e.1 = y.1 ∧ e.2.1 = y.2)
  (seqAll (fun (e : Nat × Nat × Nat) s => s.when (mine e && decide (s.bankKind e.2.2 = 2)) (·.passBank e.2.2 1 w)) s.fmn.roleBanks s).modFmn
    (fun f => { f with roleBanks := f.roleBanks.filter (fun e => !mine e) })

/-- A weaver begins to load a role, or is IDLE with none; the request is reported where it is complete (R285 steps 6 and 7). -/
def State.startRole (s0 : State) (w : Nat) (y : Nat × Nat) (byReq : Bool) : State :=
  let s := s0.takeBanks w
  if y.1 = 0 then
    ((s.modWeaver w (fun x => { x with role := 0, inst := 0, next := none, byReq := false, halted := false })).setWvr w .idle).when
      (byReq && !s.pendingReq w) (fun s => s.roleResult w 1)
  else
    ((s.modWeaver w (fun x => { x with role := 0, inst := 0, next := some y, byReq := byReq, halted := false })).setWvr w .loading).handBanks w y

/-- A weaver halts: its epoch increments, its inbox is flushed, its buffers return to the pool (R283, R290, R357). -/
def State.haltWvr (s : State) (w reason : Nat) : State :=
  ((s.modWeaver w (fun x => { x with epoch := nextEpoch x.epoch })).flush w reason).reclaim w

/-- The end of DRAIN (R285 steps 3 to 7): the weaver halts; the rest is the active Foreman's, and waits for one (R22, DEDUCED,
notes/assumptions/25.md). -/
def State.endDrain (s : State) (w : Nat) : State :=
  let s1 := if (s.weaver w).halted then s else s.haltWvr w 1
  let x := s1.weaver w
  if s.headless then s1.modWeaver w (fun x => { x with halted := true }) else (s1.startRole w (x.next.getD (0, 0)) x.byReq).roleCkpt

/-- Drains that ended while no Foreman was active go on. -/
def State.drainsLeft (s : State) : State :=
  seqAll (fun w s => s.when (!s.headless && decide ((s.weaver w).st = .drain) && (s.weaver w).halted) (·.endDrain w)) (List.range 64) s

/-- A write of WVR_ROLE_REQ (R284). -/
def State.roleReqWrite (s : State) (w : Nat) (v : Word) : State := s.setReg (wvrA w 0x48) ((v &&& 0x7FF) ||| 0x10000)

/-- WVR_ROLE_REQ_WRITE (R284). -/
def execWvrRoleReqWrite (m : Mid) (w : Fin 64) (v : Word) (s : State) : Out :=
  .next (s.write4 m (wvrA w.val 0x48) v (fun s => s.roleReqWrite w.val v))

/-- The weaver whose request is served next (R284); a weaver that is still changing role keeps its request. -/
def State.nextReq (s : State) : Option Nat :=
  (List.range 64).find? (fun w => s.pendingReq w && decide ((s.weaver w).st ≠ .drain ∧ (s.weaver w).st ≠ .loading))

/-- The Foreman serves a request: refused, or the change starts (R284, R285). -/
def State.serveReq (s : State) (w : Nat) (imageOk : Bool) : State :=
  let role := s.rf (wvrA w 0x48) 0 8
  let inst := s.rf (wvrA w 0x48) 8 3
  match s.roleRefusal w role inst imageOk with
  | some r => s.roleResult w r
  | none =>
    let s1 := s.setRf (wvrA w 0x48) 16 1 0
    match (s.weaver w).st with
    | .idle => s1.startRole w (role, inst) true
    | .fault => (s1.startRole w (role, inst) true).roleCkpt
    | st =>
      (s1.modWeaver w (fun x => { x with next := some (role, inst), byReq := true, drainAt := s.bolt })).setWvr w .drain
        (if st = .sleep then 3 else 0)

/-- ROLE_REQUEST_SERVE (R284): due while a Foreman holds the lease and `w` is the lowest weaver whose request can be served. -/
def execRoleRequestServe (w : Fin 64) (imageOk : Bool) (s : State) : Out :=
  .next (s.when (!s.headless && decide (s.nextReq = some w.val)) (fun s => s.serveReq w.val imageOk))

/-- WVR_CMD.RESTART (R286): the role that the weaver holds, or is loading, is loaded again, with a new epoch and its banks kept; one without a
role becomes IDLE. A drain's request waits again (DEDUCED, notes/assumptions/25.md). -/
def State.restartWvr (s : State) (w : Nat) : State :=
  let x := s.weaver w
  match x.st with
  | .off => s
  | .idle => s
  | .loading => s.haltWvr w 1
  | _ =>
    let s1 := s.when (decide (x.st = .drain) && x.byReq) (fun s => s.setRf (wvrA w 0x48) 16 1 1)
    ((s1.haltWvr w 1).modWeaver w (fun y =>
      { y with next := if x.role = 0 then none else some (x.role, x.inst), byReq := false, halted := false })).setWvr w
        (if x.role = 0 then .idle else .loading)

/-- A write of WVR_CMD: HALT, RESUME, RESTART, DRAINED in this order (R278, R285, R286, R305). -/
def State.wvrCmd (s : State) (m : Mid) (w : Nat) (v : Word) : State :=
  let s1 := s.when (bit v 0 && decide ((s.weaver w).st = .run ∨ (s.weaver w).st = .sleep)) (·.setWvr w .halt)
  let s2 := s1.when (bit v 1 && decide ((s1.weaver w).st = .halt))
    (fun s => (s.modWeaver w (fun x => { x with hbAt := s.bolt })).setWvr w .run)
  let s3 := s2.when (bit v 2) (·.restartWvr w)
  if bit v 3 then
    (if m.toNat = w then s3.when (decide ((s3.weaver w).st = .drain)) (·.endDrain w) else s3.errlog (wvrA w 0) 0x4C m)
  else s3

/-- WVR_CMD_DRAINED (R285). -/
def execWvrCmdDrained (m : Mid) (w : Fin 64) (s : State) : Out :=
  .next (s.write4 m (wvrA w.val 0x4C) 8 (fun s => s.wvrCmd m w.val 8))
/-- WVR_CMD_HALT (R278). -/
def execWvrCmdHalt (m : Mid) (w : Fin 64) (s : State) : Out :=
  .next (s.write4 m (wvrA w.val 0x4C) 1 (fun s => s.wvrCmd m w.val 1))
/-- WVR_CMD_RESUME (R305). -/
def execWvrCmdResume (m : Mid) (w : Fin 64) (s : State) : Out :=
  .next (s.write4 m (wvrA w.val 0x4C) 2 (fun s => s.wvrCmd m w.val 2))
/-- WVR_CMD_RESTART (R286). -/
def execWvrCmdRestart (m : Mid) (w : Fin 64) (s : State) : Out :=
  .next (s.write4 m (wvrA w.val 0x4C) 4 (fun s => s.wvrCmd m w.val 4))

/-- WVR_CFG.DRAIN_TMO, 0 acts as 1. -/
def State.drainTmo (s : State) (w : Nat) : Nat := atLeast1 (s.rf (wvrA w 0x40) 8 8)
/-- DRAIN has lasted DRAIN_TMO bolts (R285). -/
def State.drainOver (s : State) (w : Nat) : Bool :=
  decide ((s.weaver w).st = .drain ∧ s.drainTmo w ≤ since s.bolt (s.weaver w).drainAt)

/-- DRAIN_TIMEOUT (R285). -/
def execDrainTimeout (w : Fin 64) (s : State) : Out := .next (s.when (s.drainOver w.val) (·.endDrain w.val))

/-- GLB_BOOT.DONE once the roles of the start-up are running (R437 step 12). -/
def State.noteBoot (s : State) : State :=
  if s.pwr.rolesDone && s.fmn.rolesLeft.isEmpty && s.wvr.all (fun e => decide (e.2.st ≠ .loading)) then s.modPwr (fun p => { p with bootDone := true }) else s

/-- The role image is loaded into weaver `w`: its local memories are written; what they hold then is no rule's, and so free values
(DESIGN CHOICE, notes/assumptions/48.md). -/
def State.loadImage (s : State) (w : Nat) : State :=
  { s.modWeaver w (fun x => { x with imem := some s.free, dmem := some (s.free + 65536), memBad := false }) with free := s.free + 131072 }

/-- The role image is loaded: RUN in the new role, reported and checkpointed (R285 step 7, R323). -/
def State.imageLoaded (s0 : State) (w : Nat) : State :=
  let s := s0.loadImage w
  let x := s.weaver w
  let y := x.next.getD (0, 0)
  (((s.modWeaver w (fun x => { x with role := y.1, inst := y.2, next := none, byReq := false, hbAt := s.bolt, polMem := [], polN := 0, polSum := [], polOk := [], polSeen := [] })).setWvr w .run).when
    (x.byReq && !s.pendingReq w) (fun s => s.roleResult w 1)).roleCkpt.noteBoot

/-- ROLE_IMAGE_LOADED (R285): due while the weaver loads and a Foreman holds the lease. -/
def execRoleImageLoaded (w : Fin 64) (s : State) : Out :=
  .next (s.when (!s.headless && decide ((s.weaver w.val).st = .loading)) (·.imageLoaded w.val))

/-! ### Faults (R286) -/

/-- A weaver enters FAULT: epoch, WVR_FAULT, the count, the flush, the reclaim. A drain's request waits again; a weaver that was
loading keeps the role it was loading, which is a role change (R323; DEDUCED, notes/assumptions/25.md). -/
def State.enterFault (s : State) (w cause : Nat) : State :=
  let x := s.weaver w
  let s1 := s.when (decide (x.st = .drain) && x.byReq) (fun s => s.setRf (wvrA w 0x48) 16 1 1)
  let s2 := s1.modWeaver w (fun x =>
    match x.st with
    | .loading => { x with role := (x.next.getD (0, 0)).1, inst := (x.next.getD (0, 0)).2, next := none }
    | .drain => { x with next := none, byReq := false, halted := false }
    | _ => x)
  let s3 := (s2.setReg (wvrA w 0x6C) (w32 (cause + fld s.bolt 0 24 * 2 ^ 8))).incReg (wvrA w 0x70)
  let s4 := ((s3.modWeaver w (fun x => { x with epoch := nextEpoch x.epoch })).setWvr w .fault |>.flush w 3).reclaim w
  s4.when (decide (x.st = .loading)) (·.roleCkpt)

/-- Code of WVR_FAULT for a cause that the weaver shows. -/
def faultCode : WeaverCause → Nat | .memory => 1 | .trap => 2

/-- WEAVER_FAULT (R286): a weaver that is powered and not yet in FAULT. -/
def execWeaverFault (w : Fin 64) (cause : WeaverCause) (s : State) : Out :=
  let st := (s.weaver w.val).st
  .next (s.when (decide (st ≠ .off ∧ st ≠ .fault)) (fun s =>
    (s.modWeaver w.val (fun x => { x with memBad := x.memBad || decide (cause = .memory) })).enterFault w.val (faultCode cause)))

/-- WVR_HB has not been written for WDOG bolts (R286). -/
def State.wdogOver (s : State) (w : Nat) : Bool :=
  let x := s.weaver w
  let n := s.rf (wvrA w 0x40) 16 8
  decide ((x.st = .run ∨ x.st = .sleep ∨ x.st = .drain) ∧ ¬ x.halted ∧ n ≠ 0 ∧ n ≤ since s.bolt x.hbAt)

/-- WEAVER_WATCHDOG (R286). -/
def execWeaverWatchdog (w : Fin 64) (s : State) : Out := .next (s.when (s.wdogOver w.val) (·.enterFault w.val 3))

/-- The Foreman reloads the role of a weaver in FAULT (R286); one without a role becomes IDLE. -/
def State.autoRestart (s0 : State) (w : Nat) : State :=
  let s := s0.when (decide ((s0.weaver w).role ≠ 0)) (·.loadImage w)
  let x := s.weaver w
  ((s.modWeaver w (fun x => { x with hbAt := s.bolt, byReq := false, polMem := [], polN := 0, polSum := [], polOk := [], polSeen := [] })).setWvr w (if x.role = 0 then .idle else .run)).when
    (x.byReq && !s.pendingReq w) (fun s => s.roleResult w 1)

/-- WEAVER_AUTO_RESTART (R286): AUTO_RESTART = 1, with a Foreman active. -/
def execWeaverAutoRestart (w : Fin 64) (s : State) : Out :=
  .next (s.when (!s.headless && s.rb (wvrA w.val 0x40) 0 && decide ((s.weaver w.val).st = .fault)) (·.autoRestart w.val))

/-! ### Sleep (R303) -/

/-- WEAVER_SLEEP (R303): a weaver in RUN stops its core clock, once its port is idle (R375). -/
def execWeaverSleep (w : Fin 64) (s : State) : Out :=
  .next (s.when (decide ((s.weaver w.val).st = .run) && s.portIdle w.val) (fun s =>
    (s.modWeaver w.val (fun x => { x with sleepAt := s.bolt, sleepN := x.inbox.length })).setWvr w.val .sleep))

/-- A wake event of a sleeping weaver has come: a message since it slept, a boundary with WAKE_BOLT = 1, its timer. -/
def State.wakeDue (s : State) (w : Nat) (c : WakeCause) : Bool :=
  let x := s.weaver w
  decide (x.st = .sleep) && (match c with
    | .post => decide (x.sleepN < x.inbox.length)
    | .bolt => s.rb (wvrA w 0x40) 24 && decide (s.bolt ≠ x.sleepAt)
    | .timer => true)

/-- Wake cause codes of R456. -/
def wakeCode : WakeCause → Nat | .post => 0 | .bolt => 1 | .timer => 2

/-- WEAVER_WAKE (R303). -/
def execWeaverWake (w : Fin 64) (cause : WakeCause) (s : State) : Out :=
  .next (s.when (s.wakeDue w.val cause) (·.setWvr w.val .run (wakeCode cause)))

/-- Weavers that a wake event reached and that no WEAVER_WAKE has woken yet: a wake takes 32 ns (R303). -/
def State.wakeLeft (s : State) : State :=
  seqAll (fun w s => if s.wakeDue w .post then s.setWvr w .run 0 else if s.wakeDue w .bolt then s.setWvr w .run 1 else s)
    (List.range 64) s

/-! ### Start-up (R282, R317) -/

/-- The default role map (R282). -/
def defaultRoles : List (Nat × Nat × Nat) :=
  [(0, 1, 0), (8, 2, 0)] ++ (List.range 8).map (fun i => (16 + i, 3, i)) ++ [(24, 4, 0)]

/-- Roles are assigned at start-up: each weaver of the map that is IDLE begins to load its role; one whose cluster is to be powered does so
once it is IDLE (R282, R437). -/
def State.assignRoles (s : State) (l : List (Nat × Nat × Nat)) : State :=
  (seqAll (fun e s => if (s.weaver e.1).st = .idle then s.startRole e.1 e.2 false else s) l s).modFmn (fun f =>
    { f with rolesLeft := l.filter (fun e => decide ((s.weaver e.1).st = .off) && bit s.pwr.domOn (8 + e.1 / 8)) })

/-- Roles of the start-up that waited for their weavers' power. -/
def State.rolesGoOn (s : State) : State := s.when (!s.headless && decide (s.fmn.rolesLeft ≠ [])) (fun s => s.assignRoles s.fmn.rolesLeft)

/-- Warm reset restarts every weaver in the role it held (R287): epochs increment and inboxes are emptied without NAKs. A drain's
request waits again, a weaver that was loading loads on, one without a role is IDLE (DEDUCED, notes/assumptions/25.md). One in OFF stays so:
its epoch increments with the others (R283). -/
def State.warmWeavers (s : State) : State :=
  seqAll (fun w s =>
    let x := s.weaver w
    if x.st = .off then s.modWeaver w (fun x => { x with epoch := nextEpoch x.epoch })
    else
      let y := if x.st = .loading then x.next.getD (0, 0) else (x.role, x.inst)
      let s1 := s.when (decide (x.st = .drain) && x.byReq) (fun s => s.setRf (wvrA w 0x48) 16 1 1)
      (s1.modWeaver w (fun x => { x with epoch := nextEpoch x.epoch, inbox := [], role := y.1, inst := y.2,
                                         next := if y.1 = 0 then none else some y, byReq := x.byReq && decide (x.st = .loading), halted := false })).setWvr w
        (if y.1 = 0 then .idle else .loading)) (List.range 64) s

end Sys2Proof.Machine
end

