-- ==== Sys2Proof/Machine/Coppice.lean ====
section
/-! DEFINITION. Coppice: the lease, heartbeats, takeover, the Foremen's states and boot (R309-R319, R330, R331, R486). -/
namespace Sys2Proof.Machine

/-! ### Foremen -/

/-- Foreman A (false) or B (true). -/
def State.fm (s : State) (b : Bool) : Foreman := if b then s.fmn.b else s.fmn.a
def State.modFm (s : State) (b : Bool) (f : Foreman → Foreman) : State :=
  s.modFmn (fun n => if b then { n with b := f n.b } else { n with a := f n.a })
/-- Code of HOLDER. -/
def fmCode (b : Bool) : Nat := if b then 2 else 1
/-- The Foreman holds the lease. -/
def State.holds (s : State) (b : Bool) : Bool := decide (s.fmn.holder = fmCode b)
/-- FMN_SELF of a Foreman. -/
def selfA (b : Bool) : Nat := fmnA (if b then 0xA4 else 0xA0)
/-- FMN_SELF.READY. -/
def State.ready (s : State) (b : Bool) : Bool := s.rb (selfA b) 16
/-- Code of FMN_STAT (R316). -/
def fmStCode : FmSt → Nat | .off => 0 | .boot => 1 | .standby => 2 | .active => 3 | .held => 4 | .fail => 5
/-- A bit of FMN_CFG (R332). -/
def State.fmnCfg (s : State) (i : Nat) : Bool := s.rb (fmnA 0x40) i
/-- The PREFER Foreman. -/
def State.prefer (s : State) : Bool := s.fmnCfg 1
/-- FMN_CFG.BOOT_TMO. -/
def State.bootTmo (s : State) : Nat := atLeast1 (s.rf (fmnA 0x40) 16 12)
/-- FMN_HBCFG.LEASE and WIRE_TMO; lower values act as the minimum. -/
def State.leaseLen (s : State) : Nat := max 16 (s.rf (fmnA 0x5C) 0 12)
def State.wireTmo (s : State) : Nat := max 4 (s.rf (fmnA 0x5C) 12 12)

/-- A Foreman changes state; the change is recorded with its own ID (R456). -/
def State.setFm (s : State) (b : Bool) (st : FmSt) : State :=
  let s1 := s.modFm b (fun f => { f with st := st })
  if (s.fm b).st = st then s1 else s1.trace 4 3 (if b then 65 else 64) (w32 (fmStCode st)) s.fmn.gen

/-- A LEASE record: FMN_CAUSE [3:0] and the new HOLDER (R456). -/
def State.traceLease (s : State) : State :=
  s.trace 4 5 80 (w32 (s.rf (fmnA 0x64) 0 4 + s.fmn.holder * 2 ^ 8)) s.fmn.gen

/-- A Foreman leaves reset: its boot ROM starts a boot attempt (R317). None has power in a thermal trip (R429). -/
def State.bootFm (s : State) (b : Bool) : State :=
  if s.pwr.tripped then s
  else
    (((s.abandon b).modFm b (fun f => { f with powered := true, revoked := false, bootAt := s.fmn.tick, stuck := false, failed := false,
                                                relAt := none, offAt := none, claim := false, fault := false })).setFm b .boot).noteDom

/-- A Foreman's island is powered off. -/
def State.offFm (s : State) (b : Bool) : State :=
  ((s.abandon b).modFm b (fun f => { f with powered := false, claim := false, fault := false, relAt := none, offAt := none })).setFm b .off |>.noteDom

/-- A takeover starts a Foreman (R319): powered if it is OFF, released from reset if it is held, reset where it was revoked, since it could
claim nothing before (R311); one in FAIL is not started. -/
def State.takeStart (s : State) (b : Bool) : State :=
  let s1 := s.modFmn (fun f => { f with take := some (b, f.tick) })
  match (s.fm b).st with
  | .off => s1.bootFm b
  | .held => s1.bootFm b
  | .fail => s1
  | _ => if (s.fm b).revoked then s1.bootFm b else s1

/-- The takeover passes to the other Foreman with AUTO_RESTART = 1, unless that one is in FAIL (R319). -/
def State.takeOther (s : State) (b : Bool) : State :=
  if s.fmnCfg 5 && decide ((s.fm !b).st ≠ .fail) then s.takeStart !b else s.modFmn (fun f => { f with take := none })

/-- A boot attempt fails (R319); the third one ends in FAIL, any other in `st`. -/
def State.failFm (s : State) (b : Bool) (st : FmSt) : State :=
  let f := s.fm b
  let live := !f.failed && decide (f.st = .boot ∨ f.st = .standby)
  let s1 := s.modFm b (fun f => { f with fails := f.fails + live.toNat, failed := true })
  if 3 ≤ (s1.fm b).fails then (s1.offFm b).setFm b .fail
  else if st = .off then s1.offFm b else s1.setFm b st

/-! ### The lease (R311, R312) -/

/-- The next generation: low 16 bits of zero are skipped. -/
def nextGen (g : Word) : Word := let n := g + 1; if fld n 0 16 = 0 then n + 1 else n

/-- The internal completion rings are read from their present TAIL where no checkpoint gives a position. -/
def State.ringPos (s : State) (fe : Bool) : Nat := (s.reg (ringRegs fe 1).2.2.1).toNat

/-- The new holder takes up its services: the checkpoint's settings, replay, and at the first lease after a cold reset the
roles (R282, R317, R323, R324). -/
def State.takeUp (s : State) : State :=
  let s1 := match s.ckptRestore with
    | some c => s.modMbx (fun x => { x with mgmtEn := c.mgmt, icqPos := c.icq, fcqPos := c.fcq, replaying := true, stopTake := false })
    | none => s.modMbx (fun x => { x with icqPos := s.ringPos false, fcqPos := s.ringPos true, replaying := true, stopTake := false })
  if s1.pwr.rolesDone then s1
  else
    ((s1.assignRoles (match s.ckptRestore with | some c => c.roles | none => defaultRoles)).modPwr (fun p =>
      { p with rolesDone := true })).noteBoot

/-- The lease goes to a Foreman (R311): GEN, REMAIN, ACTIVE; a HELD other one is due 16 ticks later; the banner. -/
def State.grant (s : State) (b : Bool) (transfer : Bool) : State :=
  let t := s.fmn.tick
  let s1 := s.modFmn (fun f => { f with holder := fmCode b, gen := nextGen f.gen, remain := s.leaseLen, take := none, wireLost := false,
                                        ho := none, byTransfer := transfer })
  let s2 := s1.modFm b (fun f => { f with wireAt := t, renewAt := t, relAt := none, offAt := none, claim := false })
  let s3 := if (s.fm !b).st = .held && s.fmnCfg 5 then s2.modFm (!b) (fun f => { f with relAt := some (t + 16) }) else s2
  (((((s3.setFm b .active).irq (fmnA 0) 2).traceLease).banner b).takeUp).modPwr (fun p =>
    { p with inProg := if p.inProg = 3 then 0 else p.inProg })

/-- FMN_CAUSE: cause, former holder, the tick's bolt (R331). -/
def State.setCause (s : State) (c : Nat) (b : Bool) : State :=
  s.setReg (fmnA 0x64) (w32 (c + b.toNat * 2 ^ 3 + fld s.bolt 0 28 * 2 ^ 4))

/-- The lease is revoked from its holder with a cause (R312, R314, R319, R357): window B's open batches abort, the former holder's
inbox is flushed, its buffers return, it is held in reset with FENCE_RESET = 1, and with AUTO = 1 the takeover starts. -/
def State.revoke (s : State) (c : Nat) : State :=
  if s.fmn.holder = 0 then s
  else
    let b : Bool := decide (s.fmn.holder = 2)
    let m := if b then 65 else 64
    let s1 := (s.setCause c b).modFmn (fun f => { f with holder := 0, remain := 0, wireLost := false, ho := none })
    let s2 := (s1.modFm b (fun f => { f with revoked := true, relAt := none, claim := false, fault := false })).modMbx (fun x =>
      { x with taken := [], replaying := false, fences := none, stopTake := false })
    let s3 := if (s.fm b).st = .active then (s2.when (s.fmnCfg 4) (·.abandon b)).setFm b (if s.fmnCfg 4 then .held else .standby) else s2
    let s4 := (((s3.incReg (fmnA 0x68)).irq (fmnA 0) 1).traceLease).modTst (fun t => { t with wait := none })
    let s5 := ((s4.flush m 3).reclaim m)
    let s6 := s5.when ((s5.eng false).isOpen && decide ((s5.eng false).owner = 1)) (fun s => (s.dropBatch false 0x1C).postFences false)
    let s7 := s6.when ((s6.eng true).isOpen && decide ((s6.eng true).owner = 1)) (fun s => (s.dropBatch true 0x1C).postFences true)
    s7.when (s.fmnCfg 0) (·.takeStart !b)

/-- A former holder stands by from now on (R320). -/
def State.standBy (s : State) (b : Bool) : State := (s.modFm b (fun f => { f with stdbyAt := s.fmn.tick })).setFm b .standby

/-- A release of Foreman `b` (R311): TO none, TO the other one where it is ready; TO itself or 3 is refused and logged. -/
def State.leaseRel (s : State) (b : Bool) (v : Word) : State :=
  if s.holds b ∧ fld v 16 16 = fld s.fmn.gen 0 16 then
    let to_ := fld v 0 2
    if to_ = 0 then
      ((((s.setCause 4 b).modFmn (fun f => { f with holder := 0, remain := 0, wireLost := false, ho := none })).modMbx (fun x =>
        { x with taken := [], replaying := false, fences := none, stopTake := false })).standBy b).traceLease
    else if to_ = fmCode !b then
      (if s.ready !b then
        (((((s.setCause 4 b).modMbx (fun x => { x with taken := [], fences := none })).standBy b).modFm b (fun f =>
          { f with offAt := if s.fmnCfg 3 then some (s.fmn.tick + 16) else none })).grant (!b) true)
       else s)
    else s.errlog (fmnA 0) 0x58 (if b then 65 else 64)
  else s

/-- A Foreman may be granted a claim (R311). -/
def State.mayClaim (s : State) (b : Bool) : Bool :=
  decide (s.fmn.holder = 0) && !(s.fm b).revoked && decide ((s.fm b).st = .boot ∨ (s.fm b).st = .standby)

/-- A pending claim is granted or refused. -/
def State.takeClaim (s : State) (b : Bool) : State :=
  if (s.fm b).claim then (if s.mayClaim b then s.grant b false else s.irq (fmnA 0) 4) else s

/-- A pending renewal of Foreman `b` (R311); an interval above LEASE / 3 raises LATE. -/
def State.takeRenew (s : State) (b : Bool) : State :=
  match (s.fm b).renew with
  | some v =>
    if s.holds b ∧ fld v 0 16 = fld s.fmn.gen 0 16 then
      ((s.modFmn (fun f => { f with remain := s.leaseLen })).modFm b (fun f => { f with renewAt := s.fmn.tick })).when
        (decide (s.leaseLen < 3 * since s.fmn.tick (s.fm b).renewAt)) (·.irq (fmnA 0) 0x10)
    else s
  | none => s

/-- A pending release is taken. -/
def State.takeRelease (s : State) (b : Bool) : State := match (s.fm b).rel with | some v => s.leaseRel b v | none => s

/-- A Foreman without the lease whose island faulted is held in reset (R486); in a takeover its attempt fails at once. -/
def State.holdFaulty (s : State) (b : Bool) : State :=
  if (s.fm b).fault ∧ ¬ s.holds b then
    let s1 := s.modFm b (fun f => { f with fault := false, claim := false,
                                           relAt := if s.fmnCfg 5 && s.holds !b then some (s.fmn.tick + 16) else none })
    let s2 := (s1.abandon b).irq (fmnA 0) 0x100
    if (s.fmn.take.map (·.1)) = some b then ((s2.failFm b .held).takeOther b) else s2.setFm b .held
  else s

/-! ### Lease ticks (R309, R310) -/

/-- The wire of the holder is silent; no renewal has come for as long (R312). -/
def State.wireSilent (s : State) : Bool := decide (s.wireTmo ≤ since s.fmn.tick (s.fm (decide (s.fmn.holder = 2))).wireAt)
def State.shedSilent (s : State) : Bool := decide (s.wireTmo ≤ since s.fmn.tick (s.fm (decide (s.fmn.holder = 2))).renewAt)

/-- A control-plane-only reset, or a warm reset with one in it, begins in this bolt (R312, R330). -/
def State.cpBegins (s : State) : Bool :=
  s.pwr.due && (match s.pwr.req with | some (k, _, _) => decide (k = 2 ∨ k = 3) | none => false)

/-- The causes that hold at this tick, after REMAIN has been decremented. -/
def State.tickCauses (s : State) : List Nat :=
  if s.fmn.holder = 0 then []
  else s.fmn.causes ++ (if s.cpBegins then [6] else []) ++
    (if s.wireSilent ∧ (s.fmn.remain = 0 ∨ s.shedSilent) then [2] else if s.fmn.remain = 0 then [1] else [])

/-- The tick begins: the count, REMAIN. -/
def State.tickCount (s : State) : State :=
  s.modFmn (fun f => { f with tick := f.tick + 1, tickAt := s.bolt, remain := f.remain - 1 })

/-- Expiry and revocation with the highest-numbered cause, or WIRE_LOST (R310 steps 1 and 2, R312, R315). -/
def State.tickRevoke (s : State) : State :=
  let l := s.tickCauses
  let s1 := s.modFmn (fun f => { f with causes := [] })
  if l ≠ [] then s1.revoke (l.foldl max 0)
  else if s.fmn.holder ≠ 0 ∧ s.wireSilent ∧ ¬ s.fmn.wireLost then (s1.modFmn (fun f => { f with wireLost := true })).irq (fmnA 0) 8
  else s1

/-- One lease tick: expiry, revocation, island faults, release, claims with PREFER first, renewal (R310, R486). Where a reset of the islands
begins, their claims end with it. -/
def State.leaseTick (s : State) : State :=
  let s1 := s.tickCount.tickRevoke
  let s2 := (s1.holdFaulty false).holdFaulty true
  let s3 := (s2.takeRelease false).takeRelease true
  let p := s3.prefer
  let s4 := if s.cpBegins then s3 else (s3.takeClaim p).takeClaim !p
  let s5 := (s4.takeRenew false).takeRenew true
  let clear := fun (f : Foreman) => { f with claim := false, renew := none, rel := none }
  ((s5.modFm false clear).modFm true clear).noteShed

/-- A tick is due: once a bolt while the CDP domain is on; from the Stump clock while it is off (R309); none without power
(R420). -/
def State.tickDue (s : State) : Bool := s.pwr.inRange && (!s.pwr.cdpOn || decide (s.fmn.tickAt ≠ s.bolt))

/-- LEASE_TICK (R310). -/
def execLeaseTick (s : State) : Out := .next (s.when s.tickDue (·.leaseTick))

/-- LEASE_EXPIRE (R312): the tick at which REMAIN reaches 0. -/
def execLeaseExpire (s : State) : Out :=
  .next (s.when (s.tickDue && decide (s.fmn.holder ≠ 0 ∧ s.fmn.remain ≤ 1)) (·.leaseTick))

/-- WIRE_TIMEOUT (R315): the tick at which the holder's wire has been silent for WIRE_TMO. -/
def execWireTimeout (s : State) : Out :=
  .next (s.when (s.tickDue && decide (s.fmn.holder ≠ 0) && s.tickCount.wireSilent) (·.leaseTick))

/-! ### Pending lease writes (R310, R311) -/

/-- A lease write: from a Foreman it is held for the next tick, from any other master it is ignored and logged. -/
def State.leaseWrite (s : State) (m : Mid) (off : Nat) (f : Foreman → Foreman) : State :=
  if m = 64 then s.modFm false f else if m = 65 then s.modFm true f else s.errlog (fmnA 0) off m

/-- A write of FMN_LEASE_CLAIM, FMN_LEASE_RENEW, FMN_LEASE_REL. -/
def State.claimWrite (s : State) (m : Mid) (v : Word) : State := s.leaseWrite m 0x50 (fun f => { f with claim := bit v 0 })
def State.renewWrite (s : State) (m : Mid) (v : Word) : State := s.leaseWrite m 0x54 (fun f => { f with renew := some v })
def State.relWrite (s : State) (m : Mid) (v : Word) : State := s.leaseWrite m 0x58 (fun f => { f with rel := some v })

/-- FMN_LEASE_CLAIM (R311). -/
def execFmnLeaseClaim (m : Mid) (v : Word) (s : State) : Out := .next (s.write4 m (fmnA 0x50) v (fun s => s.claimWrite m v))
/-- FMN_LEASE_RENEW (R311). -/
def execFmnLeaseRenew (m : Mid) (v : Word) (s : State) : Out := .next (s.write4 m (fmnA 0x54) v (fun s => s.renewWrite m v))
/-- FMN_LEASE_REL (R311). -/
def execFmnLeaseRel (m : Mid) (v : Word) (s : State) : Out := .next (s.write4 m (fmnA 0x58) v (fun s => s.relWrite m v))

/-- HEARTBEAT_WIRE_EDGE (R315): the holder's edge clears WIRE_LOST. -/
def execHeartbeatWireEdge (b : Bool) (s : State) : Out :=
  .next (((s.modFm b (fun f => { f with wireAt := s.fmn.tick })).when (s.holds b)
    (·.modFmn (fun f => { f with wireLost := false }))))

/-! ### Islands -/

/-- ISLAND_FAULT (R312, R486): a holder is revoked at the next tick; a Foreman without the lease loses its pending claim and is
held in reset from the next tick. -/
def execIslandFault (b : Bool) (s : State) : Out :=
  .next (if s.holds b then s.modFmn (fun f => { f with causes := f.causes ++ [5] })
    else s.when (s.fm b).powered (·.modFm b (fun f => { f with fault := true, claim := false })))

/-- A tick count has been reached. -/
def reached (now at_ : Word) : Bool := decide (since now at_ < 2 ^ 31)

/-- A Foreman held in reset is released where its time has come (R332, R486). -/
def State.releaseHeld (s : State) (b : Bool) : State :=
  let f := s.fm b
  s.when (decide (f.st = .held) && s.fmnCfg 5 && (match f.relAt with | some t => reached s.fmn.tick t | none => false)) (·.bootFm b)

/-- HELD_RELEASE (R332, R486). -/
def execHeldRelease (b : Bool) (s : State) : Out := .next (s.releaseHeld b)

/-- The boot ROM runs (R317): with a good image it restores a checkpoint, writes VERSION, and claims the lease or stays in STANDBY
with READY set; with none it stops in BOOT. -/
def State.bootRom (s : State) (b : Bool) (img : BootImage) : State :=
  if ¬ (img.activeOk ∨ img.otherOk) then s.modFm b (fun f => { f with stuck := true })
  else
    let s1 := (s.modFm b (fun f => { f with restored := s.ckptSeq })).setReg (selfA b) (img.version.setWidth 32)
    if s.fmn.holder = 0 then s1.modFm b (fun f => { f with claim := true })
    else
      ((s1.setRf (selfA b) 16 1 1).modFm b (fun f => { f with stdbyAt := s.fmn.tick })).setFm b .standby

/-- Both islands start as after a cold reset: the PREFER Foreman boots, the other one too with COLD = 0 (R318). One in FAIL stays there, and
where the PREFER one does, the other boots in its place (R319; DEDUCED, notes/assumptions/34.md). -/
def State.startIslands (s : State) : State :=
  let p := s.prefer
  let failed := fun (b : Bool) => decide ((s.fm b).st = .fail)
  let off := fun (b : Bool) (s : State) => if failed b then s else s.offFm b
  let boot := fun (b : Bool) (s : State) => if failed b then s else s.bootFm b
  (boot p (off true (off false s))).when (!s.fmnCfg 3 || failed p) (boot !p)

/-- Step 9 of R437, where it is still to come: the PREFER Foreman leaves reset, with COLD = 0 the other one too (R318). -/
def State.startUpNow (s : State) : State :=
  s.when s.fmn.startUp (fun s =>
    let p := s.prefer
    let boot := fun (b : Bool) (s : State) => s.when (decide ((s.fm b).st = .off)) (·.bootFm b)
    (boot p (s.modFmn (fun f => { f with startUp := false }))).when (!s.fmnCfg 3) (boot !p))

/-- FOREMAN_BOOT (R317, R437): due while a Foreman is in BOOT, or is to leave reset at the start-up. -/
def execForemanBoot (b : Bool) (img : BootImage) (s : State) : Out :=
  let s1 := s.when (decide (b = s.prefer) || !s.fmnCfg 3) (·.startUpNow)
  .next (s1.when (decide ((s1.fm b).st = .boot) && !(s1.fm b).stuck) (·.bootRom b img))

/-- BOOT_TMO has passed without the claim that a takeover waits for. -/
def State.takeOver (s : State) (b : Bool) : Bool :=
  match s.fmn.take with
  | some (c, t) => decide (c = b ∧ s.fmn.holder = 0 ∧ s.bootTmo ≤ since s.fmn.tick t)
  | none => false

/-- BOOT_TMO has passed since a Foreman left reset, and it is still in BOOT. -/
def State.bootOver (s : State) (b : Bool) : Bool :=
  decide ((s.fm b).st = .boot ∧ ¬ (s.fm b).failed ∧ s.bootTmo ≤ since s.fmn.tick (s.fm b).bootAt)

/-- A boot attempt that has run out of time (R319): in a takeover the Foreman is stopped, TAKE_FAIL is set and the other one started;
otherwise it stays in BOOT with its attempt counted. -/
def State.bootTimeout (s : State) (b : Bool) : State :=
  if s.takeOver b then ((s.failFm b .off).irq (fmnA 0) 0x20).takeOther b else s.when (s.bootOver b) (·.failFm b .boot)

/-- BOOT_TIMEOUT (R319). -/
def execBootTimeout (b : Bool) (s : State) : Out := .next (s.bootTimeout b)

/-- A former holder is powered off 16 ticks after a transfer, with COLD = 1 (R320). -/
def State.formerOff (s : State) (b : Bool) : State :=
  s.when (!s.holds b && s.fmnCfg 3 && (match (s.fm b).offAt with | some t => reached s.fmn.tick t | none => false)) (·.offFm b)

/-- FORMER_HOLDER_POWER_OFF (R320). -/
def execFormerHolderPowerOff (s : State) : Out := .next ((s.formerOff false).formerOff true)

/-- What fell due at the last tick for both Foremen, where no row has taken it; the start-up's Foreman leaves reset. -/
def State.foremenLeft (s : State) : State :=
  seqAll (fun b s => ((s.bootTimeout b).releaseHeld b).formerOff b) [false, true] s.startUpNow

/-! ### FMN_CTRL, FMN_SELF (R331) -/

/-- START of a Foreman that is OFF or HELD. -/
def State.startFm (s0 : State) (b : Bool) : State :=
  let s := s0.modFmn (fun f => { f with startSeen := true })
  if (s.fm b).st = .off ∨ (s.fm b).st = .held then s.bootFm b else s

/-- STOP powers an island off; a holder's lease is revoked at the next tick with cause 3. -/
def State.stopFm (s : State) (b : Bool) : State :=
  if (s.fm b).st = .off ∨ (s.fm b).st = .fail then s
  else (s.when (s.holds b) (·.modFmn (fun f => { f with causes := f.causes ++ [3] }))).offFm b

/-- CLR_FAIL: both counts return to 0 and FAIL to OFF; a headless module whose takeover had ended starts it again (R319). -/
def State.clrFail (s : State) : State :=
  let one := fun (b : Bool) (s : State) =>
    (s.modFm b (fun f => { f with fails := 0 })).when (decide ((s.fm b).st = .fail)) (·.setFm b .off)
  let s1 := one true (one false s)
  let c := s.rf (fmnA 0x64) 0 3
  s1.when (s.headless && s.fmnCfg 0 && decide (s.fmn.take = none) && decide (c ≠ 0 ∧ c ≠ 4)
    && decide ((s.fm false).st = .fail ∨ (s.fm true).st = .fail)) (·.takeStart !(s.rb (fmnA 0x64) 3))

/-- A write of FMN_CTRL: START_A, START_B, STOP_A, STOP_B, CLR_FAIL in this order. -/
def State.fmnCtrl (s : State) (v : Word) : State :=
  ((((s.when (bit v 0) (·.startFm false)).when (bit v 1) (·.startFm true)).when (bit v 2) (·.stopFm false)).when (bit v 3)
    (·.stopFm true)).when (bit v 4) (·.clrFail)

/-- FMN_START_A (R331). -/
def execFmnStartA (m : Mid) (s : State) : Out := .next (s.write4 m (fmnA 0x60) 1 (fun s => s.fmnCtrl 1))
/-- FMN_START_B (R331). -/
def execFmnStartB (m : Mid) (s : State) : Out := .next (s.write4 m (fmnA 0x60) 2 (fun s => s.fmnCtrl 2))
/-- FMN_STOP_A (R312). -/
def execFmnStopA (m : Mid) (s : State) : Out := .next (s.write4 m (fmnA 0x60) 4 (fun s => s.fmnCtrl 4))
/-- FMN_STOP_B (R312). -/
def execFmnStopB (m : Mid) (s : State) : Out := .next (s.write4 m (fmnA 0x60) 8 (fun s => s.fmnCtrl 8))
/-- FMN_CLR_FAIL (R319). -/
def execFmnClrFail (m : Mid) (s : State) : Out := .next (s.write4 m (fmnA 0x60) 16 (fun s => s.fmnCtrl 16))

/-- A write of FMN_SELF: its own Foreman only (R331). -/
def State.selfWrite (s : State) (m : Mid) (b : Bool) (v : Word) : State :=
  if m.toNat = (if b then 65 else 64) then
    (s.setReg (selfA b) (v &&& 0x1FFFF)).when (bit v 16 && !s.ready b) (·.modFm b (fun f => { f with stdbyAt := s.fmn.tick }))
  else s.errlog (fmnA 0) (if b then 0xA4 else 0xA0) m

/-- FMN_SELF_WRITE (R331). -/
def execFmnSelfWrite (m : Mid) (b : Bool) (v : Word) (s : State) : Out := .next (s.write4 m (selfA b) v (fun s => s.selfWrite m b v))

end Sys2Proof.Machine
end

