-- ==== Sys2Proof/Machine/Mailbox.lean ====
section
/-! DEFINITION. The host mailbox and the Foreman's services: commands, replies, events, replay, handover, checkpoints in time, the
management channel (R41, R320, R323-R328, R413-R415). -/
namespace Sys2Proof.Machine

/-! ### Rings (R414, R415) -/

/-- Sizes of command ring and reply ring `r`. -/
def State.cqSize (s : State) (r : Nat) : Nat := ringSize 4 10 (s.rf (mbxR r 0) 0 4)
def State.rqSize (s : State) (r : Nat) : Nat := ringSize 4 16 (s.rf (mbxR r 0x18) 0 5)
/-- A reply cannot be written: the ring has no free entry, or host memory is held, where the entry must go before TAIL and the cause (R412, R455). -/
def State.rqFull (s : State) (r : Nat) : Bool :=
  ringFull (s.rqSize r) (s.reg (mbxR r 0x1C)).toNat (s.reg (mbxR r 0x20)).toNat || s.hostWaits
/-- A ring is enabled. -/
def State.ringOn (s : State) (r : Nat) : Bool := s.rb (mbxA 0x40) r
/-- A ring holds untaken commands. -/
def State.cqWaits (s : State) (r : Nat) : Bool := !ringEmpty (s.cqSize r) (s.reg (mbxR r 4)).toNat (s.reg (mbxR r 8)).toNat
/-- The 64 bytes of a slot of command ring `r` (R413). -/
def State.slotBytes (s : State) (r i : Nat) : List Byte := Memory.readN s.mbx.mem (0x10000 * r + 64 * i) 64

/-- Writes a 64-byte entry to reply ring `r`: the entry, TAIL, REPLY r (R412); TAIL counts modulo 2^SIZE (R485). -/
def State.putReply (s : State) (r : Nat) (bs : List Byte) : State :=
  let t := (s.reg (mbxR r 0x1C)).toNat % 2 ^ s.rqSize r
  let base := (s.reg (mbxR r 0x10)).toNat + (s.reg (mbxR r 0x14)).toNat * 2 ^ 32
  (((s.hostWrite (base + 64 * t) (padTo 64 bs)).setReg (mbxR r 0x1C) (w32 (ringNext (s.rqSize r) t))).irq (mbxA 0) (2 ^ r))

/-! ### Commands (R325-R327) -/

def MbxCmd.op (c : MbxCmd) : Nat := leVal (bytesAt c.bytes 4 2)
def MbxCmd.noReply (c : MbxCmd) : Bool := ((bytesAt c.bytes 6 1).headD 0).toNat.testBit 0
/-- `n` bytes of a command from byte `i`, as a number. -/
def MbxCmd.arg (c : MbxCmd) (i n : Nat) : Nat := leVal (bytesAt c.bytes i n)

/-- A reply entry (R325). -/
def replyBytes (c : MbxCmd) (status retry : Nat) (data : List Byte) : List Byte :=
  bytesAt c.bytes 0 6 ++ [BitVec.ofNat 8 status, if c.replay then 1 else 0] ++ leBytes 4 retry ++ data

/-- A reply can be written now. -/
def State.canReply (s : State) (c : MbxCmd) : Bool := c.noReply || !s.rqFull c.ring

/-- Replies to a command, unless NOREPLY is set; it is no longer in progress. -/
def State.reply (s : State) (c : MbxCmd) (status : Nat) (data : List Byte) (retry : Nat := 0) : State :=
  ((s.when (!c.noReply) (·.putReply c.ring (replyBytes c status retry data))).modMbx (fun x =>
    { x with taken := x.taken.filter (fun e => !decide (e.ring = c.ring ∧ e.slot = c.slot)) })).noteShed

/-- Words of reply DATA. -/
def dataWords (l : List Nat) : List Byte := l.flatMap (fun v => leBytes 4 v)

/-- Classes P, I, C, X of R326 as the shed level from which BUSY answers them; none for an unknown OP. -/
def opLevel (op : Nat) : Option Nat :=
  if op = 0x01 ∨ op = 0x40 then some 5
  else if op = 0x02 then some 2
  else if op = 0x20 ∨ op = 0x21 ∨ op = 0x30 ∨ op = 0x31 ∨ op = 0x50 ∨ op = 0x51 then some 3
  else if op = 0x10 ∨ op = 0x11 then some 4
  else none

/-- RETRY at a shed level (R328). -/
def retryTicks (l : Nat) : Nat := if 3 ≤ l then 16 else 4

/-- The inbox of the holder holds messages. -/
def State.holderInbox (s : State) : Bool := match s.holderId with | some d => !(s.inbox d).isEmpty | none => false

/-- Ring `r` holds a HANDOVER that is not taken. -/
def State.handoverWaits (s : State) (r : Nat) : Bool :=
  let n := 2 ^ s.cqSize r
  let h := (s.reg (mbxR r 8)).toNat % n
  (List.range (((s.reg (mbxR r 4)).toNat % n + n - h) % n)).any (fun k => decide (leVal (bytesAt (s.slotBytes r ((h + k) % n)) 4 2) = 0x40))

/-- The Foreman may take a command of ring `r`: the inbox is served first at level 2 up, but no HANDOVER waits for that (R328). -/
def State.ringReady (s : State) (r : Nat) : Bool :=
  s.ringOn r && s.cqWaits r && !s.rqFull r && (!(decide (2 ≤ s.fmn.shed) && s.holderInbox) || s.handoverWaits r)

/-- The ring served next, round-robin. -/
def State.nextRing (s : State) : Option Nat := ((span s.mbx.rr 4).map (· % 4)).find? (fun r => s.ringReady r)

/-- The holder takes commands now: not in a handover or replay. -/
def State.takes (s : State) : Bool := !s.headless && !s.mbx.stopTake && !s.mbx.replaying

/-- Takes the entry at HEAD of ring `r`: answered BAD_OP or BUSY, or in progress (R327, R328, R415). -/
def State.takeCmd (s : State) (r : Nat) : State :=
  let i := (s.reg (mbxR r 8)).toNat % 2 ^ s.cqSize r
  let c : MbxCmd := { ring := r, slot := i, bytes := s.slotBytes r i }
  let s1 := (s.setReg (mbxR r 8) (w32 (ringNext (s.cqSize r) i))).modMbx (fun x => { x with rr := (r + 1) % 4 })
  match opLevel c.op with
  | none => s1.reply c 2 []
  | some l =>
    if l ≤ s.fmn.shed then s1.reply c 1 [] (retryTicks s.fmn.shed)
    else (s1.modMbx (fun x => { x with taken := x.taken ++ [c] })).noteShed

/-- MBX_COMMAND_TAKE (R415): due while the holder takes commands and ring `r` is next. -/
def execMbxCommandTake (r : Fin 4) (s : State) : Out :=
  .next (s.when (s.takes && decide (s.nextRing = some r.val)) (·.takeCmd r.val))

/-- A write of MBX_CQ_TAILr: a value of 2^SIZE or more is ignored (R415). -/
def State.cqTail (s : State) (r : Nat) (v : Word) : State :=
  if fld v 0 10 < 2 ^ s.cqSize r then s.setReg (mbxR r 4) (w32 (fld v 0 10)) else s.irq (mbxA 0) 0x20

/-- MBX_CQ_TAIL_WRITE (R415). -/
def execMbxCqTailWrite (m : Mid) (r : Fin 4) (v : Word) (s : State) : Out :=
  .next (s.write4 m (mbxR r.val 4) v (fun s => s.cqTail r.val v))

/-- The oldest command of ring `r` in progress that has not been posted to an engine. -/
def State.current (s : State) (r : Nat) : Option MbxCmd := s.mbx.taken.find? (fun c => decide (c.ring = r) && !c.posted)

/-- Serves the current command of ring `r` where its OP is `op` and its reply has room (R22: not while headless). -/
def State.serve (s : State) (r op : Nat) (f : MbxCmd → State → State) : State :=
  match s.current r with
  | some c => if c.op = op ∧ s.canReply c ∧ ¬ s.headless ∧ ¬ s.mbx.replaying then f c s else s
  | none => s

/-! ### FMN_STAT, FMN_LOAD (R331) -/

def State.fmnStat (s : State) : Word :=
  w32 (fmStCode s.fmn.a.st + fmStCode s.fmn.b.st * 2 ^ 3 + s.headless.toNat * 2 ^ 6 + s.fmn.wireLost.toNat * 2 ^ 7
    + s.fmn.holder * 2 ^ 8)
/-- FMN_LOAD: the busy percentage is a free value. -/
def State.fmnLoad (s : State) : Word :=
  w32 ((Config.coreLoad s.free).toNat + s.fmn.shed * 2 ^ 8 + min 65535 s.backlog * 2 ^ 16)

/-- PING (R326). -/
def execPing (r : Fin 4) (s : State) : Out :=
  .next (s.serve r.val 0x01 (fun c s => s.reply c 0
    (dataWords [s.fmn.gen.toNat, s.fmn.holder, (s.reg (selfA false)).toNat, (s.reg (selfA true)).toNat])))

/-- STATUS (R326). -/
def execStatus (r : Fin 4) (s : State) : Out :=
  .next (s.serve r.val 0x02 (fun c s =>
    (s.reply c 0 (dataWords [s.fmnStat.toNat, s.fmnLoad.toNat, s.ckptSeq])).freeVal.2))

/-! ### Engine commands through window B (R326) -/

/-- Posts a command through window B. -/
def State.postB (s : State) (fe : Bool) (ws : List Word) : State :=
  seqAll (fun i s => s.windowWrite fe 1 i (ws.getD i 0)) (List.range 8) s

/-- The engine's queue has room. -/
def State.qRoom (s : State) (fe : Bool) : Bool := decide ((s.eng fe).q.length < engCap fe)

/-- TREADLE and FINE: the command words with RING = 1 and the mailbox TAG. It waits while the queue is full. -/
def State.mbxPost (s : State) (fe : Bool) (c : MbxCmd) : State :=
  if s.qRoom fe then
    let w0 := setFld (setFld (w32 (c.arg 8 4)) 10 2 1) 16 16 (0x400 * c.ring + c.slot)
    (s.postB fe (w0 :: (List.range 7).map (fun i => w32 (c.arg (12 + 4 * i) 4)))).modMbx (fun x =>
      { x with taken := x.taken.map (fun e => if e.ring = c.ring ∧ e.slot = c.slot then { e with posted := true } else e) })
  else s

/-- MBX_TREADLE (R326). -/
def execMbxTreadle (r : Fin 4) (s : State) : Out := .next (s.serve r.val 0x10 (fun c s => s.mbxPost false c))
/-- MBX_FINE (R326). -/
def execMbxFine (r : Fin 4) (s : State) : Out := .next (s.serve r.val 0x11 (fun c s => s.mbxPost true c))

/-- The next TAG of the Foreman's own commands, 0x1000-0xEFFF. -/
def State.takeTag (s : State) : Nat × State :=
  (s.mbx.ownTag, s.modMbx (fun x => { x with ownTag := if x.ownTag = 0xEFFF then 0x1000 else x.ownTag + 1 }))

/-- Posts an own command of OP `op` through window B, RING = 1; answers its TAG. -/
def State.postOwn (s : State) (fe : Bool) (op : Nat) (w1 : Nat) (flags : Nat) : Nat × State :=
  let (t, s1) := s.takeTag
  (t, s1.postB fe [w32 (op + flags + 2 ^ 10 + t * 2 ^ 16), w32 w1])

/-! ### Completions on the internal rings (R94, R324, R446) -/

/-- Position at which the Foreman reads the internal ring, and the ring's TAIL. -/
def State.icPos (s : State) (fe : Bool) : Nat := if fe then s.mbx.fcqPos else s.mbx.icqPos
def State.icSize (s : State) (fe : Bool) : Nat := ringSize 6 16 (s.rf (ringRegs fe 1).2.1 0 5)
/-- Where entry `i` of the internal ring stands, and its 16 bytes. -/
def State.icAt (s : State) (fe : Bool) (i : Nat) : Nat := (s.reg (ringRegs fe 1).1).toNat + 16 * (i % 2 ^ s.icSize fe)
def State.icEntry (s : State) (fe : Bool) (i : Nat) : List Byte := s.winBytes (s.icAt fe i) 16

/-- The ring holds an entry that the Foreman can read: its bank is not held (R371). -/
def State.icMore (s : State) (fe : Bool) : Bool :=
  decide (s.icPos fe % 2 ^ s.icSize fe ≠ s.ringPos fe % 2 ^ s.icSize fe)
    && !s.winWaits (BitVec.ofNat 8 (s.holderId.getD 64)) (s.icAt fe (s.icPos fe)) 16

/-- The Foreman's position moves to `i`; it writes HEAD. -/
def State.icMove (s : State) (fe : Bool) (i : Nat) : State :=
  let j := i % 2 ^ s.icSize fe
  (s.modMbx (fun x => if fe then { x with fcqPos := j } else { x with icqPos := j })).setReg (ringRegs fe 1).2.2.2.1 (w32 j)

/-- A completion with PHASE 0. -/
def noPhase (bs : List Byte) : List Byte := leBytes 4 (leVal (bs.take 4) % 2 ^ 31) ++ bs.drop 4

/-- STATUS and CBOLT of a completion (R94). -/
def doneOf (e : List Byte) : Nat × Word := (leVal (bytesAt e 2 1), w32 (leVal (bytesAt e 4 4)))

/-- The command in progress that a completion answers: by TAG 0x0000-0x0FFF and engine. -/
def State.tagCmd (s : State) (fe : Bool) (tag : Nat) : Option MbxCmd :=
  if 0x1000 ≤ tag then none
  else s.mbx.taken.find? (fun c => decide (c.ring = tag / 0x400 ∧ c.slot = tag % 0x400 ∧ c.op = (if fe then 0x11 else 0x10)))

/-- The Foreman reads one completion: a mailbox command's becomes its reply, the monitor's is printed, that of a handoff's RETAG is
kept for the tenant service; any other is discarded. -/
def State.readDone (s : State) (fe : Bool) : State :=
  let e := s.icEntry fe (s.icPos fe)
  let tag := leVal (e.take 2)
  let s1 := (s.winTouch (s.icAt fe (s.icPos fe)) 16).icMove fe (s.icPos fe + 1)
  match s.tagCmd fe tag with
  | some c => s1.reply c 0 (noPhase e)
  | none =>
    if s.tst.wait.map (fun w => (w.1, w.2.1.toNat)) = some (!fe, tag) then
      ((s1.emit (.uartWords ((List.range 4).map (fun i => w32 (leVal (bytesAt e (4 * i) 4)))))).sayEnd "OK").modTst (fun t =>
        { t with wait := none })
    else if ¬ fe ∧ s.ten.ho.map (·.tag) = some tag then
      s1.modTen (fun t => { t with ho := t.ho.map (fun h => { h with done := some (doneOf e) }) })
    else s1

/-- A command whose completion a replay found, and whose reply ring now has room. -/
def State.doneCmd (s : State) (fe : Bool) : Option MbxCmd :=
  s.mbx.taken.find? (fun c => c.done.isSome && decide (c.op = (if fe then 0x11 else 0x10)) && s.canReply c)

/-- The next completion can be dealt with: it is no mailbox command's, or its reply has room. -/
def State.icReady (s : State) (fe : Bool) : Bool :=
  match s.tagCmd fe (leVal ((s.icEntry fe (s.icPos fe)).take 2)) with
  | some c => s.canReply c
  | none => true

/-- The Foreman deals with one completion of an engine. -/
def State.replyDone (s : State) (fe : Bool) : State :=
  if s.headless ∨ s.mbx.replaying then s
  else match s.doneCmd fe with
    | some c => s.reply c 0 (c.done.getD [])
    | none => if s.icMore fe ∧ s.icReady fe then s.readDone fe else s

/-- MBX_TREADLE_REPLY (R326): the next completion of the Treadle's internal ring. -/
def execMbxTreadleReply (s : State) : Out := .next (s.replyDone false)
/-- MBX_FINE_REPLY (R326). -/
def execMbxFineReply (s : State) : Out := .next (s.replyDone true)

/-! ### Checkpoint and firmware commands (R323, R326) -/

/-- CKPT_NOW (R326): the reply holds the SEQ written. -/
def execCkptNow (r : Fin 4) (s : State) : Out :=
  .next (s.serve r.val 0x20 (fun c s => s.ckptWrite.reply c 0 (dataWords [s.ckptNow.seq])))

/-- CKPT_FLASH (R326): NOT_READY where no checkpoint is valid; from shed level 1 up the copy is deferred, and the command waits (R328). -/
def execCkptFlash (r : Fin 4) (s : State) : Out :=
  .next (s.serve r.val 0x21 (fun c s =>
    if 1 ≤ s.fmn.shed then s
    else match s.ckptRestore with
    | some k => s.ckptToFlash.reply c 0 (dataWords [k.seq])
    | none => s.reply c 4 []))

/-- The bytes of a firmware slot. -/
def State.flashPut (s : State) (slot off : Nat) (bs : List Byte) : State :=
  (s.emit (.flash slot bs)).modMbx (fun x =>
    if slot = 0 then { x with slot0 := Memory.writeN x.slot0 off bs } else { x with slot1 := Memory.writeN x.slot1 off bs })

/-- FW_WRITE (R326): slot at byte 8, offset at 9, length at 13, host address at 15; `data` is what the Foreman's DMA read there.
BAD_ARG above 4,096 bytes, NOT_READY where no host read can be made, FLASH_ERR where the flash refuses. -/
def execFwWrite (r : Fin 4) (data : List Byte) (flashOk : Bool) (s : State) : Out :=
  .next (s.serve r.val 0x30 (fun c s =>
    let n := c.arg 13 2
    if 4096 < n ∨ 1 < c.arg 8 1 then s.reply c 3 []
    else if ¬ s.canIssue then s.reply c 4 []
    else if ¬ flashOk then s.reply c 6 []
    else (s.flashPut (c.arg 8 1) (c.arg 9 4) (padTo n data)).reply c 0 (dataWords [n])))

/-- FW_ACTIVATE (R326): the slot boots at the next control-plane-only reset; SIG_FAIL where it does not verify. -/
def execFwActivate (r : Fin 4) (sigOk : Bool) (s : State) : Out :=
  .next (s.serve r.val 0x31 (fun c s =>
    if 1 < c.arg 8 1 then s.reply c 3 []
    else if ¬ sigOk then s.reply c 7 []
    else (s.modMbx (fun x => { x with nextSlot := some (c.arg 8 1) })).reply c 0 (dataWords [c.arg 8 1])))

/-- CHECKPOINT_INTERVAL (R323): after INTV ticks, where the content has changed; deferred at shed level 3 (R328). -/
def execCheckpointInterval (s : State) : Out :=
  let n := s.rf (fmnA 0x7C) 0 16
  .next (s.when (!s.headless && decide (n ≠ 0 ∧ n ≤ since s.fmn.tick s.fmn.ckAt ∧ s.fmn.shed < 3)) (fun s =>
    if s.ckptChanged then s.ckptWrite else s.modFmn (fun f => { f with ckAt := f.tick })))

/-- CHECKPOINT_FLASH_INTERVAL (R323): after FLASH_INT x 15,625 ticks; deferred at shed level 1. -/
def execCheckpointFlashInterval (s : State) : Out :=
  let n := s.rf (fmnA 0x7C) 16 8
  .next (s.when (!s.headless && decide (n ≠ 0 ∧ n * 15625 ≤ since s.fmn.tick s.fmn.flashAt ∧ s.fmn.shed < 1)) (·.ckptToFlash))

/-! ### Handover (R320) -/

/-- An engine has no window B command waiting and no window B batch open, armed or to be posted. -/
def State.bQuiet (s : State) (fe : Bool) : Bool :=
  let e := s.eng fe
  e.q.all (fun c => decide (c.win ≠ 1)) && !((e.isOpen || decide (e.st = .armed)) && decide (e.owner = 1)) && decide (e.post = [])

/-- The handover ends with the lease unchanged: service goes on, and its command gets NOT_READY once its reply has room (R415). -/
def State.handoverFail (s : State) (h : Handover) : State :=
  let s1 := (s.modFmn (fun f => { f with ho := none })).modMbx (fun x => { x with stopTake := false })
  match h.cmd with
  | some (r, i) => match s1.mbx.taken.find? (fun c => decide (c.ring = r ∧ c.slot = i)) with
    | some c => if s1.canReply c then s1.reply c 4 [] else s1.modFmn (fun f => { f with ho := some { h with ended := true } })
    | none => s1
  | none => s1

/-- Step 1 and 2: the rings are no longer taken, and COMMIT closes an open window B batch. -/
def State.handoverStart (s : State) (cmd : Option (Nat × Nat)) : State :=
  let s1 := (s.modFmn (fun f => { f with ho := some { cmd := cmd, at_ := f.tick } })).modMbx (fun x => { x with stopTake := true })
  let close := fun (fe : Bool) (s : State) =>
    if (s.eng fe).isOpen ∧ (s.eng fe).owner = 1 then (s.postOwn fe 0x08 0 0).2 else s
  close true (close false s1)

/-- Step 4, the standby's part: told of the new checkpoint, it has cleared READY; it restores the checkpoint and sets READY again (R320). -/
def State.standbyRestore (s : State) : State :=
  let b : Bool := decide (s.fmn.holder = 2)
  match s.fmn.ho with
  | some h => s.when (h.told && !h.sent && !h.ended && decide ((s.fm !b).st = .standby) && !s.ready !b) (fun s =>
      (s.modFm (!b) (fun f => { f with restored := s.ckptSeq, stdbyAt := s.fmn.tick })).setRf (selfA !b) 16 1 1)
  | none => s

/-- Steps 3 to 5, once the batch has completed: the checkpoint and the message to the standby, which clears READY; once it is READY again,
FMN_LEASE_REL. -/
def State.handoverGo (s : State) (h : Handover) : State :=
  let b : Bool := decide (s.fmn.holder = 2)
  if h.ended ∨ (s.fm !b).st ≠ .standby then s.handoverFail h
  else if h.sent then (if (s.fm b).rel = none then s.handoverFail h else s)
  else if ¬ h.told then
    (if ¬ (s.bQuiet false ∧ s.bQuiet true) then s
     else (s.ckptWrite.setRf (selfA !b) 16 1 0).modFmn (fun f => { f with ho := some { h with told := true, at_ := f.tick } }))
  else if s.ready !b then
    (s.modFm b (fun f => { f with rel := some (w32 (fmCode (!b) + fld s.fmn.gen 0 16 * 2 ^ 16)) })).modFmn (fun f =>
      { f with ho := some { h with sent := true } })
  else if s.bootTmo ≤ since s.fmn.tick h.at_ then s.handoverFail h
  else s

/-- At a boundary the standby's restore is over, and a handover in progress goes on. -/
def State.handoverLeft (s : State) : State :=
  let s1 := s.standbyRestore
  match s1.fmn.ho with | some h => s1.handoverGo h | none => s1

/-- Runs a handover as far as it can go now. A standby that is not READY at the start ends it at once. -/
def State.handover (s : State) (cmd : Option (Nat × Nat)) : State :=
  match s.fmn.ho with
  | some h => s.handoverGo h
  | none =>
    let b : Bool := decide (s.fmn.holder = 2)
    if (s.fm !b).st = .standby ∧ s.ready !b then
      let s1 := s.handoverStart cmd
      match s1.fmn.ho with | some h => s1.handoverGo h | none => s1
    else s.handoverFail { cmd := cmd }

/-- HANDOVER (R320). One that a replay finds in progress is never run again: OK after its own transfer, else ABORTED. -/
def execHandover (r : Fin 4) (s : State) : Out :=
  .next (s.serve r.val 0x40 (fun c s =>
    if c.replay then s.reply c (if s.fmn.byTransfer then 0 else 5) [] else s.handover (some (c.ring, c.slot))))

/-- FOREMAN_REVERT_WTR (R320): the PREFER Foreman has stood by, READY, for WTR x 15,625 ticks; or its handover goes on. -/
def execForemanRevertWtr (s : State) : Out :=
  let p := s.prefer
  let due := decide (s.fmn.holder ≠ 0) && !s.holds p && s.fmnCfg 2 && decide ((s.fm p).st = .standby) && s.ready p
    && decide (s.fmn.ho = none) && decide (atLeast1 (s.rf (fmnA 0x40) 8 8) * 15625 ≤ since s.fmn.tick (s.fm p).stdbyAt)
  let going := match s.fmn.ho with | some h => decide (h.cmd = none) | none => false
  .next (s.when (due || going) (·.handover none))

/-! ### Management channel (R41, R326, R328) -/

/-- MGMT_SEND (R326): port at byte 8, length at 9, data from 10; NOT_READY where the port is not enabled or has no lane (R247). -/
def execMgmtSend (r : Fin 4) (s : State) : Out :=
  .next (s.serve r.val 0x50 (fun c s =>
    let p := c.arg 8 1
    let n := c.arg 9 1
    if 8 ≤ p ∨ 48 < n then s.reply c 3 []
    else if bit s.mbx.mgmtEn p && (s.nbr p).lane.isSome then
      (let m := bytesAt c.bytes 10 n
       (((s.emit (.mgmt p m)).modNbr p (fun x => { x with mcells := x.mcells ++ cellsOf m })).count 6 p 4).reply c 0 [])
    else s.reply c 4 []))

/-- MGMT_CFG (R326). -/
def execMgmtCfg (r : Fin 4) (s : State) : Out :=
  .next (s.serve r.val 0x51 (fun c s => (s.modMbx (fun x => { x with mgmtEn := BitVec.ofNat 8 (c.arg 8 1) })).reply c 0 []))

/-- Events held for reply ring 0 are written while it has room (R415). -/
def State.drainEvents : Nat → State → State
  | 0, s => s
  | n + 1, s =>
    match s.mbx.held with
    | [] => s
    | e :: t => if s.rqFull 0 then s else State.drainEvents n ((s.putReply 0 e).modMbx (fun x => { x with held := t }))

/-- Events waiting are written, where a Foreman holds the lease. -/
def State.mbxDrain (s : State) : State := if s.headless then s else State.drainEvents 64 s

/-- An event for reply ring 0 (R415); beyond 64 held it is dropped and counted, from shed level 2 up also as a management drop (R328). -/
def State.event (s : State) (e : List Byte) : State :=
  let s1 := s.mbxDrain
  if s1.mbx.held = [] ∧ ¬ s1.rqFull 0 then s1.putReply 0 e
  else if s1.mbx.held.length < 64 then s1.modMbx (fun x => { x with held := x.held ++ [e] })
  else ((s1.when (decide (2 ≤ s1.fmn.shed)) (·.incReg (fmnA 0x98))).incReg (mbxA 0x48)).irq (mbxA 0) 0x10

/-- An MGMT_RX event (R326): port at byte 12, length at 13, up to 48 bytes from 14. -/
def mgmtRx (p : Nat) (bs : List Byte) : List Byte :=
  leBytes 4 0 ++ leBytes 2 0x52 ++ [0, 2] ++ leBytes 4 0 ++ [BitVec.ofNat 8 p, BitVec.ofNat 8 bs.length] ++ bs

/-- A message in pieces of at most 48 bytes. -/
def pieces : Nat → List Byte → List (List Byte)
  | 0, _ => []
  | n + 1, bs => if bs.length ≤ 48 then [bs] else bs.take 48 :: pieces n (bs.drop 48)

/-- A management message received on port `p` (R41): counted, and passed to host software where a Foreman serves the port. -/
def State.mgmtReceive (s : State) (p : Nat) (msg : List Byte) : State :=
  let s1 := s.count 6 p 3
  if s.headless ∨ ¬ bit s.mbx.mgmtEn p then s1
  else seqAll (fun b s => s.event (mgmtRx p b)) (pieces (msg.length + 1) msg) s1

/-- A run of management cells: discards are counted, and each message that it completes is received (R40, R41). -/
def State.mgmtCells (s : State) (l : Nat) (c : CellRun) : State :=
  s.cellsIn l 32 c (fun s cells =>
    let (part, msgs, drops) := cellsRx (s.lane l).mgmtPart cells
    (seqAll (fun m s => s.mgmtReceive (l / 64) m) msgs ((s.modLane l (fun n => { n with mgmtPart := part })).count 6 (l / 64) 5 drops)))

/-- MGMT_MESSAGE_RX (R41): cells of the management channel of lane `l`. -/
def execMgmtMessageRx (l : Fin 512) (c : CellRun) (s : State) : Out :=
  if ¬ cellRunOk 64 c then .next s else .next (s.mgmtCells l.val c)

/-! ### Replay (R324) -/

/-- Slots of ring `r` from position `i` up to HEAD. -/
def State.since0 (s : State) (r i : Nat) : List Nat :=
  let n := 2 ^ s.cqSize r
  (List.range (((s.reg (mbxR r 8)).toNat + n - i % n) % n)).map (fun k => (i + k) % n)

/-- The commands in progress: those of the checkpoint's table, and those taken since. -/
def State.inProgress (s : State) : List (Nat × Nat) :=
  match s.ckptRestore with
  | some c =>
    c.inprog ++ ((List.range 4).flatMap (fun r => (s.since0 r (c.heads.getD r 0)).map (fun i => (r, i)))).filter (fun e => !decide (e ∈ c.inprog))
  | none => []

/-- The completions that stand in the internal ring from the Foreman's position, as (TAG, bytes). -/
def State.icAll (s : State) (fe : Bool) : List (Nat × List Byte) :=
  let n := 2 ^ s.icSize fe
  (List.range ((s.ringPos fe + n - s.icPos fe % n) % n)).map (fun k =>
    let e := s.icEntry fe (s.icPos fe + k)
    (leVal (e.take 2), e))

/-- A replayed command: with its completion where it is found, to be executed again where it is not; a HANDOVER is only answered. -/
def replayed (t f : List (Nat × List Byte)) (c : MbxCmd) : MbxCmd :=
  let tag := 0x400 * c.ring + c.slot
  let d := if c.op = 0x10 then (t.find? (fun e => decide (e.1 = tag))).map (·.2)
    else if c.op = 0x11 then (f.find? (fun e => decide (e.1 = tag))).map (·.2) else none
  { c with replay := true, posted := d.isSome, done := d.map noPhase }

/-- Replies at once to the replayed commands that have their completion and room for the reply. -/
def State.replayReplies (s : State) : State :=
  seqAll (fun (c : MbxCmd) s =>
    match c.done with
    | some d => if s.canReply c then s.reply c 0 d else s
    | none =>
      if c.op = 0x40 ∧ s.canReply c then s.reply c (if s.fmn.byTransfer then 0 else 5) []
      else if (opLevel c.op).isNone ∧ s.canReply c then s.reply c 2 [] else s) s.mbx.taken s

/-- MAILBOX_REPLAY (R324): first the FENCEs through window B; once both have completed, the commands in progress are answered or
wait to be executed again. -/
def State.replay (s : State) : State :=
  match s.mbx.fences with
  | none =>
    if s.qRoom false ∧ s.qRoom true then
      let (a, s1) := s.postOwn false 0x0D 0 0
      let (b, s2) := s1.postOwn true 0x0D 0 0
      s2.modMbx (fun x => { x with fences := some (a, b) })
    else s
  | some (a, b) =>
    let t := s.icAll false
    let f := s.icAll true
    if t.any (fun e => decide (e.1 = a)) ∧ f.any (fun e => decide (e.1 = b)) then
      let cs := s.inProgress.map (fun e => replayed t f { ring := e.1, slot := e.2, bytes := s.slotBytes e.1 e.2 })
      let s0 := s.modTen (fun x => { x with ho := x.ho.map (fun h => match t.find? (fun e => decide (e.1 = h.tag)) with
        | some e => { h with done := some (doneOf e.2) }
        | none => h) })
      let s1 := (s0.icMove false (s.ringPos false)).icMove true (s.ringPos true)
      ((s1.modMbx (fun x => { x with taken := cs, replaying := false, fences := none })).replayReplies).noteShed
    else s

/-- MAILBOX_REPLAY (R324): due while a new holder has yet to replay. -/
def execMailboxReplay (s : State) : Out := .next (s.when (!s.headless && s.mbx.replaying) (·.replay))

end Sys2Proof.Machine
end

