-- ==== Sys2Proof/Machine/Power.lean ====
section
/-! DEFINITION. Input power, domains and the thermal trip (R420-R425, R428, R429). Domains count as PWR_DOM_CTRL numbers them:
ports 0-7, clusters 8-15, HBM stacks 16 and 17. -/
namespace Sys2Proof.Machine

/-! ### Everything off -/

/-- What outlives loss of power in every domain: fuses, the flash, the strap lands and what the model itself keeps (R323, R351,
R420). -/
def State.offState (s : State) : State :=
  { pending := s.pending, out := s.out, resp := s.resp, free := s.free
    fmn := { ckFlash := s.fmn.ckFlash }
    mbx := { slot0 := s.mbx.slot0, slot1 := s.mbx.slot1, bootSlot := s.mbx.bootSlot, nextSlot := s.mbx.nextSlot }
    bank := { fused := s.bank.fused }
    pwr := { inRange := false, cdpOn := false, serial := s.pwr.serial, straps := s.pwr.straps, domOn := 0, domSeen := 0 } }

/-- POWER_OFF (R420): a lockout removes power from every domain; all state is lost. -/
def execPowerOff (s : State) : Out := .next (if s.pwr.inRange then s.offState else s)

/-- Registers of the AON domain that a trip keeps: PWR, FMN and BEAT pages, and GLB_RST_CAUSE (R19, R211, R429, R442). -/
def aonReg (a : Nat) : Bool := decide ((0x10000 ≤ a ∧ a < 0x40000) ∨ a = 0x88)

/-- The thermal trip: only the AON domain keeps its power. The lease stays as it stands (R429). -/
def State.trip (s : State) : State :=
  { s.offState with
    regs := smKeep aonReg s.regs
    beat := s.beat
    fmn := { s.fmn with a := {}, b := {}, take := none, ho := none, ck0 := {}, ck1 := {} }
    pwr := { s.pwr with tripped := true, cdpOn := false, domOn := 0, domSeen := 0, onAt := [], req := none, due := false, inProg := 0 } }

/-- A trip is due once a sensor has read above 125 degree C for 4 bolts. -/
def State.tripDue (s : State) : State := s.when (s.pwr.cdpOn && s.pwr.hot.any (fun e => decide (4 ≤ e.2))) (·.trip)

/-- THERMAL_TRIP (R429); within 1 bolt where no row gives it. -/
def execThermalTrip (s : State) : Out := .next s.tripDue

/-! ### Requests (R423) -/

/-- A write of PWR_DOM_CTRL. -/
def State.domWrite (s : State) (m : Mid) (v : Word) : State :=
  (s.setReg (pwrA 0x40) (v &&& 0x3FFFF)).modPwr (fun p => { p with domBy := m })

/-- PWR_DOM_CTRL_WRITE (R423). -/
def execPwrDomCtrlWrite (m : Mid) (v : Word) (s : State) : Out := .next (s.write4 m (pwrA 0x40) v (fun s => s.domWrite m v))

/-- At a boundary the requests written are taken. -/
def State.domTake (s : State) : State := s.modPwr (fun p => { p with domOn := BitVec.ofNat 18 (s.rf (pwrA 0x40) 0 18) })

/-- A request in force. -/
def State.want (s : State) (i : Nat) : Bool := bit s.pwr.domOn i

/-- A refused change: the bit keeps its value; logged with the writer (R423). -/
def State.domRefuse (s : State) (i : Nat) : State :=
  (((s.setRf (pwrA 0x40) i 1 1).modPwr (fun p => { p with domOn := setBit p.domOn i true })).errlog (pwrA 0) 0x40 s.pwr.domBy).irq
    (pwrA 0) 4

/-- A domain that has power, or is getting it. -/
def State.domUp (s : State) (i : Nat) : Bool :=
  if i < 8 then (s.port i).awake || (s.port i).waking
  else if i < 16 then s.clusterOn (i - 8) else bit s.prot.hbmOn (i - 16)

/-- The next domain to start: ports, clusters, stacks, one a bolt (R423). -/
def State.nextStart (s : State) : Option Nat :=
  if s.pwr.domAt = some s.bolt then none else (List.range 18).find? (fun i => s.want i && !s.domUp i)

/-- Domain `i` may start now. -/
def State.startDue (s : State) (i : Nat) : Bool := s.pwr.cdpOn && decide (s.nextStart = some i)

/-- Notes that domain `i` starts. -/
def State.startAt (s : State) (i : Nat) : State :=
  s.modPwr (fun p => { p with domAt := some s.bolt, onAt := smPut 0 p.onAt i (s.bolt.toNat + 1) })
/-- Domain `i` has started, or is off again. -/
def State.started (s : State) (i : Nat) : State := s.modPwr (fun p => { p with onAt := smPut 0 p.onAt i 0 })

/-- Domain `i` has been starting for `n` bolts. -/
def State.startedFor (s : State) (i n : Nat) : Bool :=
  let t := smGet 0 s.pwr.onAt i
  decide (t ≠ 0 ∧ n ≤ since s.bolt (w32 (t - 1)))

/-! ### Port tiles (R424) -/

/-- Addresses of port `p`'s pages. -/
def inPort (p a : Nat) : Bool := decide (0x400000 + 0x80000 * p ≤ a ∧ a < 0x480000 + 0x80000 * p)

/-- Registers of status and counters: at wake they start again from their reset values. -/
def isStatus (a : Nat) : Bool :=
  match accOf a with | some .ro => true | some .rc => true | some .w1c => true | _ => false

/-- A port tile's own state is gone; the shadow of its configuration stays (R424). -/
def State.clearTile (s : State) (p : Nat) : State :=
  let lane := fun (l : Nat) => decide (l / 64 = p)
  let skein := fun (k : Nat) => decide (k / 10240 = p)
  { s with lanes := smKeep (fun l => !lane l) s.lanes
           integ := smKeep (fun i => !(if i < 0x10000 then lane (i / 16) else skein ((i - 0x10000) / 8))) s.integ
           skrx := s.skrx.filterMap (fun e => if skein e.1 then
               (let r : SkRx := { exp := e.2.exp, expEn := e.2.expEn }
                if r = {} then none else some (e.1, r)) else some e)
           sktx := smKeep (fun k => !skein k) s.sktx }

/-- A tile goes to sleep; what waited in front of it is answered at once (R374). -/
def State.sleepTile (s : State) (p : Nat) : State :=
  let s1 := (((s.clearTile p).modPort p (fun q =>
    { q with awake := false, waking := false, linkUp := false, downDecl := false, lostAt := s.bolt, lostIn := true })).started p).noteDom.endWaits
      p .asleep
  s1.when (s.port p).awake (·.trace 5 6 (96 + p) 0 0)

/-- PORT_TILE_SLEEP (R424): due once its PT_ON bit has been taken as 0. -/
def execPortTileSleep (p : Fin 8) (s : State) : Out :=
  .next (s.when (s.pwr.cdpOn && !s.want p.val && s.domUp p.val) (·.sleepTile p.val))

/-- A tile powers up and reloads what the CDP domain holds. -/
def State.wakeTile (s : State) (p : Nat) : State :=
  ({ s with regs := smKeep (fun a => !(inPort p a && isStatus a)) s.regs }.modPort p (fun q => { q with waking := true })).startAt p

/-- PORT_TILE_WAKE (R424): due in the order of R423. -/
def execPortTileWake (p : Fin 8) (s : State) : Out := .next (s.when (s.startDue p.val) (·.wakeTile p.val))

/-- Lane `l` as a tile wakes, or at a warm reset: HUNT, with LOS, LOL and LOF declared (R57, R435). -/
def State.deadLane (s : State) (l : Nat) : State :=
  seqAll (fun d s => s.modInteg (laneKey l d) (fun _ => { eff := true, decl := true })) [0, 1, 3] (s.noteTen (.laneDefect l) false)

/-- The tile's link trains: it is up, every lane starts without a signal. -/
def State.tileUp (s : State) (p : Nat) : State :=
  let s1 := (s.modPort p (fun q => { q with awake := true, waking := false, linkUp := true, downDecl := false })).started p
  let s2 := seqAll (fun l s => (s.modLane l (fun _ => { lostIn := true })).deadLane l) (span (64 * p) 64) s1
  (s2.trace 5 6 (96 + p) 1 0).noteDom

/-- PORT_TILE_UP (R424): due while the tile wakes. -/
def execPortTileUp (p : Fin 8) (s : State) : Out := .next (s.when (s.port p.val).waking (·.tileUp p.val))

/-! ### Weaver clusters (R304, R425) -/

/-- Weavers of a cluster. -/
def clusterOf (c : Nat) : List Nat := span (8 * c) 8

/-- Power-off, refused unless every weaver is IDLE or OFF; it waits until every port of the cluster is idle (R375). Local memories lose what they
hold, and are clear at power-on. -/
def State.clusterOff (s : State) (c : Nat) : State :=
  if (clusterOf c).all (fun w => decide ((s.weaver w).st = .idle ∨ (s.weaver w).st = .off)) then
    s.when ((clusterOf c).all s.portIdle) (fun s =>
      ((seqAll (fun w s => ((s.setWvr w .off).modWeaver w (fun x =>
          { x with powering := false, imem := none, dmem := none, memBad := false })).resetUnit w) (clusterOf c) s).started
        (8 + c)).noteDom)
  else s.domRefuse (8 + c)

/-- CLUSTER_POWER_OFF (R304): due once its WC_ON bit has been taken as 0. -/
def execClusterPowerOff (c : Fin 8) (s : State) : Out :=
  .next (s.when (s.pwr.cdpOn && !s.want (8 + c.val) && s.clusterOn c.val) (·.clusterOff c.val))

/-- Power-on. -/
def State.clusterPower (s : State) (c : Nat) : State :=
  ((seqAll (fun w s => s.modWeaver w (fun x => { x with powering := true })) (clusterOf c) s).startAt (8 + c)).noteDom

/-- CLUSTER_POWER_ON (R304): due in the order of R423. -/
def execClusterPowerOn (c : Fin 8) (s : State) : Out := .next (s.when (s.startDue (8 + c.val)) (·.clusterPower c.val))

/-- The cluster's weavers reach IDLE. -/
def State.clusterIdle (s : State) (c : Nat) : State :=
  ((seqAll (fun w s => if (s.weaver w).powering then (s.modWeaver w (fun x => { x with powering := false })).setWvr w .idle else s)
    (clusterOf c) s).started (8 + c)).rolesGoOn

/-- CLUSTER_IDLE (R304): due while the cluster powers on. -/
def execClusterIdle (c : Fin 8) (s : State) : Out := .next (s.when (s.weaver (8 * c.val)).powering (·.clusterIdle c.val))

/-! ### HBM stacks (R425, R192) -/

/-- A stack powers on. -/
def State.hbmPower (s : State) (h : Nat) : State :=
  ((s.modProt (fun p => { p with hbmOn := setBit p.hbmOn h true })).startAt (16 + h)).noteDom

/-- HBM_POWER_ON (R425): due in the order of R423. -/
def execHbmPowerOn (h : Fin 2) (s : State) : Out := .next (s.when (s.startDue (16 + h.val)) (·.hbmPower h.val))

/-- A stack powers off, refused while its enable in SELV_CFG is 1 (R423). -/
def State.hbmOff (s : State) (h : Nat) : State :=
  if s.rb 0xA80040 h then s.domRefuse (16 + h)
  else ((s.modProt (fun p => { p with hbmOn := setBit p.hbmOn h false, hbmReady := setBit p.hbmReady h false })).started (16 + h)).noteDom

/-- HBM_POWER_OFF (R423): due once its bit has been taken as 0. -/
def execHbmPowerOff (h : Fin 2) (s : State) : Out :=
  .next (s.when (s.pwr.cdpOn && !s.want (16 + h.val) && bit s.prot.hbmOn h.val) (·.hbmOff h.val))

/-- A trained stack sets its ready bit. -/
def State.hbmIsReady (s : State) (h : Nat) : State :=
  (s.modProt (fun p => { p with hbmReady := setBit p.hbmReady h true })).started (16 + h)

/-- HBM_READY (R425): due while a powered stack is not ready. -/
def execHbmReady (h : Fin 2) (s : State) : Out :=
  .next (s.when (bit s.prot.hbmOn h.val && !bit s.prot.hbmReady h.val) (·.hbmIsReady h.val))

/-! ### At a boundary -/

/-- Switches off what is due, starts the next domain, and ends starts whose time is over: 8 bolts for a tile, 2 for a cluster, 20
for a stack (R424, R425). Then the requests written are taken. -/
def State.domLeft (s : State) : State :=
  let s1 := seqAll (fun p s => s.when (!s.want p && s.domUp p) (·.sleepTile p)) (List.range 8) s
  let s2 := seqAll (fun c s => s.when (!s.want (8 + c) && s.clusterOn c) (·.clusterOff c)) (List.range 8) s1
  let s3 := seqAll (fun h s => s.when (!s.want (16 + h) && bit s.prot.hbmOn h) (·.hbmOff h)) (List.range 2) s2
  let s4 := match s3.nextStart with
    | some i => if i < 8 then s3.wakeTile i else if i < 16 then s3.clusterPower (i - 8) else s3.hbmPower (i - 16)
    | none => s3
  let s5 := seqAll (fun p s => s.when (s.startedFor p 8) (·.tileUp p)) (List.range 8) s4
  let s6 := seqAll (fun c s => s.when (s.startedFor (8 + c) 2) (·.clusterIdle c)) (List.range 8) s5
  seqAll (fun h s => s.when (s.startedFor (16 + h) 20) (·.hbmIsReady h)) (List.range 2) s6

/-- PWR_MEASURE (R422, R428): voltage, current, power, temperatures and their warnings; the counts of the thermal trip. -/
def State.pwrMeasure (s : State) (o : BoltObs) : State :=
  let s1 := ((s.modPwr (fun p => { p with vin := o.vin, iin := o.iin, pin := o.pin })).setReg (pwrA 0x48)
    (w32 (o.vin.toNat + o.iin.toNat * 65536))).setReg (pwrA 0x4C) (o.pin.setWidth 32)
  let s2 := s1.when (decide (o.vin.toNat < s1.rf (pwrA 0x50) 0 16)) (·.irq (pwrA 0) 1)
  seqAll (fun i s =>
    let on := if i < 8 then s.domUp i else if i < 10 then s.pwr.cdpOn else bit s.prot.hbmOn (i - 10)
    let t := if on then o.temps.getD i 0x8000 else 0x8000
    let s3 := (s.setReg (pwrA (0x60 + 4 * i)) (t.setWidth 32)).modPwr (fun p =>
      { p with hot := smMod 0 p.hot i (fun n => if signed 16 t.toNat > 2000 then n + 1 else 0) })
    if on ∧ signed 16 t.toNat > signed 16 (s3.rf (pwrA (0x90 + 4 * i)) 0 16) then (s3.setReg (pwrA 0x58) (w32 i)).irq (pwrA 0) 2 else s3)
    (List.range 12) s2

end Sys2Proof.Machine
end

