-- ==== Sys2Proof/Machine/Prot.lean ====
section
/-! DEFINITION. Protection groups, APS, errorless pairs and the Selvage store (R144-R192). -/
namespace Sys2Proof.Machine

/-! ### Registers -/

/-- TYPE as it acts: 5-7 act as 0 (R144). -/
def tyOf (c : Word) : Nat := let t := fld c 0 3
                             if 5 ≤ t then 0 else t
/-- Always or by REVERT (R144, R187). -/
def Grp.revertive (q : Grp) : Bool := q.ty == 3 || bit q.cfg 3
/-- The group has an APS channel (R162). -/
def Grp.isAps (q : Grp) : Bool := q.ty == 2 || q.ty == 3 || (q.ty == 1 && bit q.cfg 5)
/-- Signals of the members: 1 to N, or 1. -/
def Grp.signals (q : Grp) : List Nat := if q.ty = 0 then [] else if q.ty = 3 then span 1 (grpN q.cfg) else [1]
def Grp.leg (q : Grp) (i : Nat) : LegCond := smGet {} q.legs i
/-- A leg is in SF, whatever its hold-off. -/
def LegCond.sf (c : LegCond) : Bool := c.sfAt.isSome || c.imm
/-- SF in the request evaluation (R152). -/
def LegCond.sfNow (c : LegCond) : Bool := c.sfIn || c.imm

/-- The far message in PROT_APS_FAR (R190). -/
def State.far (s : State) (g : Nat) : Word := s.reg (apsA g 8)
/-- Any FOP cause is set (R188). -/
def State.fop (s : State) (g : Nat) : Bool := decide (fld (s.far g) 16 4 ≠ 0)
/-- AGENT_LOST of a group (R167). -/
def State.agentLost (s : State) (g : Nat) : Bool := s.prot.lost && (s.grp g).isAps

def alignCode : AlignSt → Nat
  | .acq => 0 | .single => 1 | .aligned => 2 | .unprot => 3

/-- PROT_GSTAT (R188). -/
def State.gstat (s : State) (g : Nat) : Word :=
  let q := s.grp g
  let anyW := fun (f : LegCond → Bool) => (q.signals.any (fun i => f (q.leg i)))
  w32 (q.req + q.reqsig * 2 ^ 4 + q.brsig * 2 ^ 8 + q.selsig * 2 ^ 12 + (anyW LegCond.sf).toNat * 2 ^ 16
    + (q.leg 0).sf.toNat * 2 ^ 17 + (anyW (fun c => c.sdAt.isSome)).toNat * 2 ^ 18 + (q.leg 0).sdAt.isSome.toNat * 2 ^ 19
    + q.wtr.isSome.toNat * 2 ^ 20 + (s.grpBusy g).toNat * 2 ^ 21 + q.rej.toNat * 2 ^ 22 + (s.fop g).toNat * 2 ^ 23
    + (s.agentLost g).toNat * 2 ^ 24 + alignCode q.align * 2 ^ 25 + q.lead.toNat * 2 ^ 27 + q.dmax.toNat * 2 ^ 28
    + q.stand * 2 ^ 29)

/-- Enabled groups, and those of type 4 (R184). -/
def State.enabled (s : State) : List Nat := (s.prot.grp.filter (fun e => decide (e.2.ty ≠ 0))).map (·.1)
def State.errorless (s : State) : List Nat := (s.prot.grp.filter (fun e => decide (e.2.ty = 4))).map (·.1)
def State.encnt (s : State) : Word := w32 (s.enabled.length + s.errorless.length * 2 ^ 16)

/-- REGION of a group and its stack (R169). -/
def State.region (s : State) (g : Nat) : Nat := s.rf (recA g 0x1C) 0 13
def stackOf (r : Nat) : Nat := r / 2560
/-- The group's stack is ready. -/
def State.stackReady (s : State) (g : Nat) : Bool := bit s.prot.hbmReady (stackOf (s.region g))
/-- SELV_STAT (R192). -/
def State.selvStat (s : State) : Word := w32 (s.prot.hbmReady.toNat + s.errorless.length * 2 ^ 16)
/-- SELV_BW: 2.5 Gbit/s a region, rounded up. -/
def State.selvBw (s : State) : Word := w32 ((s.errorless.length * 5 + 1) / 2)

/-! ### Event queue -/

/-- What PROT_EVQ reports a change of: REQ, BRSIG, SELSIG, FOP, AGENT_LOST, ALIGN (R184). -/
def evqMask : Word := 0x0780FF0F

/-- A group enters PROT_EVQ, once at most (R184, R456). -/
def State.evqPush (s : State) (g : Nat) : State :=
  let s := s.noteTen (.group g) true
  if g ∈ s.prot.evq then s
  else ((s.modProt (fun p => { p with evq := p.evq ++ [g] })).irq (protA 0) 1).trace 7 8 81 (w32 g) (s.gstat g)

/-- Makes a change to group `g` and queues it where what PROT_EVQ reports differs. -/
def State.noted (s : State) (g : Nat) (f : State → State) : State :=
  let s' := f s
  if s'.gstat g &&& evqMask = s.gstat g &&& evqMask then s' else s'.evqPush g

/-! ### Leg conditions (R151, R152) -/

/-- SF of a leg that a hold-off delays. -/
def State.legSf (s : State) (x : Nat) : Bool :=
  if lsrPort x = 8 then s.tsfNow (lsrIdx x)
  else
    let k := skNo x
    let l := laneOf k
    !s.reach (portOf k) || s.effL l 0 || s.effL l 1 || s.effL l 3 || s.effL l 8 || (s.effL l 6 && s.rb (lnA l 0x40) 8)
      || s.effS k 0 || s.effS k 1 || s.effS k 2 || s.effS k 3 || (s.effS k 4 && s.rb (lnA l 0x40) 12)

/-- FEC-DEG on the leg's lane. -/
def State.legSd (s : State) (x : Nat) : Bool := decide (lsrPort x < 8) && s.effL (laneOf (skNo x)) 4

/-- A page connects leg `x` to destination `d`, as its working or protect leg. -/
def HMaps.legOn (h : HMaps) (d x : Nat) (protect : Bool) : Bool :=
  let e := h.egE d
  decide (egMode e ≠ 0) && (if protect then egPvalid e && decide (h.source (lsrPort d) (egPslot e) = some x)
                            else decide (h.source (lsrPort d) (egSlot e) = some x))

/-- The Heddle connects the leg in the bolt that begins: the selectors know of the commit that falls at the boundary (R86, R161, R469). A leg
that the commit adds is connected at once (DEDUCED, notes/assumptions/16.md). -/
def State.legOn (s : State) (d x : Nat) (protect : Bool) : Bool :=
  (if s.commitDue then s.loom.stb else s.loom.act).legOn d x protect

/-- A pick of the leg was replaced under R77 in the bolt before. -/
def State.legViol (s : State) (d : Nat) (protect : Bool) : Bool :=
  let t := s.tx (skNo d)
  if protect then t.prevP else t.prevW

/-- One leg's conditions at a boundary. -/
def State.updCond (s : State) (q : Grp) (c : LegCond) (x : Nat) (viol absent sfa : Bool) : LegCond :=
  let h := fld q.cfg 16 12
  let sf := s.legSf x || viol
  let sd := s.legSd x && bit q.cfg 4
  let at_ := fun (on : Bool) (a : Option Word) => if on then some (a.getD s.bolt) else none
  let past := fun (a : Option Word) => match a with
    | some b => decide (h ≤ since s.bolt b)
    | none => false
  { sfOn := at_ (sf || absent || sfa) c.sfOn, sfAt := at_ sf c.sfAt, sfIn := sf && (c.sfIn || past (at_ sf c.sfAt)), imm := absent || sfa
    sdAt := at_ sd c.sdAt, sdIn := sd && (c.sdIn || past (at_ sd c.sdAt)) }

/-- Every leg of a group (R151). Protect is unconnected where no destination of the group reads it. -/
def State.updLegs (s : State) (g : Nat) : State :=
  let q := s.grp g
  let ms := s.members g
  let p := s.protLeg g
  let c0 := s.updCond q (q.leg 0) p (ms.any (fun m => s.legViol m.2.2 true)) (!ms.any (fun m => s.legOn m.2.2 p true)) q.sfaP
  let l := ms.map (fun m => (m.1, s.updCond q (q.leg m.1) m.2.1 (s.legViol m.2.2 false) (!s.legOn m.2.2 m.2.1 false) q.sfaW))
  s.modGrp g (fun q => { q with legs := l.foldl (fun a e => smPut {} a e.1 e.2) (smPut {} [] 0 c0) })

/-! ### Requests and selection (R153-R159) -/

/-- Request codes of the standing commands, by STAND (R153, R188). -/
def standReq (st : Nat) : Nat :=
  match st with
  | 2 => 0xF
  | 3 => 0xD
  | 4 => 0x7
  | 5 => 0x7
  | 6 => 0x4
  | _ => 0

/-- The highest local request: codes rank as numbers; of a tie, the one in force, then the lowest signal (R153, R156). -/
def topOf (force : Nat × Nat) (l : List (Nat × Nat)) : Nat × Nat :=
  let best := l.foldl (fun a c => max a c.1) 0
  let tied := l.filter (fun c => decide (c.1 = best))
  if l = [] then (0, 0)
  else if force ∈ tied then force
  else (best, tied.foldl (fun a c => min a c.2) 15)

/-- Local candidates but for WTR and DNR (R155). -/
def Grp.cands (q : Grp) : List (Nat × Nat) :=
  let sig := match q.stand with
    | 2 => 0
    | 5 => 0
    | 6 => q.reqsig
    | _ => q.standMem
  (if q.stand = 0 then [] else [(standReq q.stand, sig)])
    ++ (if (q.leg 0).sfNow then [(0xE, 0)] else [])
    ++ (q.signals.filter (fun i => (q.leg i).sfNow)).map (fun i => (0xB, i))
    ++ (q.signals.filter (fun i => (q.leg i).sdIn)).map (fun i => (0x9, i))
    ++ (if (q.leg 0).sdIn then [(0x9, 0)] else [])

/-- The WTR time in bolts (R159); 0 reverts at the first boundary after clearance. -/
def Grp.wtrBolts (q : Grp) : Nat := max 1 (fld q.gwtr 0 16 * 256)

/-- WTR after this evaluation: a higher request stops it; SF or SD cleared in a revertive group starts it (R158). -/
def Grp.nextWtr (q : Grp) (bolt : Word) (best : Nat) : Option (Nat × Word) :=
  if 5 < best then none
  else match q.wtr with
    | some w => some w
    | none => if q.revertive ∧ (q.lreq = 0xB ∨ q.lreq = 0x9) ∧ 1 ≤ q.lsig then some (q.lsig, bolt) else none

/-- The far request, where it takes part (R155, R157): a reverse request echoes this end's own and is none (DEDUCED,
notes/assumptions/16.md). -/
def State.farReq (s : State) (g : Nat) : Option (Nat × Nat) :=
  let f := s.far g
  let q := s.grp g
  if (q.ty = 2 ∨ q.ty = 3) ∧ bit f 12 ∧ fld f 0 4 ≠ 2 ∧ ¬ s.fop g ∧ ¬ s.agentLost g then some (fld f 0 4, fld f 4 4) else none

/-- The content decided for the APS slot, bytes 0 to 3 (R156, R163, R164). -/
def Grp.txWord (q : Grp) (code : Nat) : Word :=
  w32 ((code * 2 ^ 4 + (if q.ty = 3 then 8 else 0) + (if q.ty = 2 ∨ q.ty = 3 then 4 else 0) + (if q.revertive then 2 else 0)) * 2 ^ 24
    + q.reqsig * 2 ^ 16 + q.brsig * 2 ^ 8 + fld q.gwtr 24 8)

/-- What an evaluation finds (R155): WTR after it, the local request, the top one, and whether that is the far end's. -/
structure Verdict where
  wtr : Option (Nat × Word)
  loc : Nat × Nat
  top : Nat × Nat
  farUp : Bool
deriving DecidableEq, Repr

/-- The requests of a group on its leg conditions as they stand (R155, R156). -/
def State.verdict (s : State) (g : Nat) : Verdict :=
  let q := s.grp g
  let c0 := q.cands
  let best := c0.foldl (fun a c => max a c.1) 0
  let w := q.nextWtr s.bolt best
  let cs := c0 ++ (match w with | some (i, _) => [(5, i)] | none => [])
    ++ (if !q.revertive && decide (1 ≤ q.selsig) then [(1, q.selsig)] else [])
  let loc := topOf (q.lreq, q.lsig) cs
  let far := s.farReq g
  let farUp : Bool := match far with
    | some f => decide (loc.1 < f.1 ∨ (loc.1 = f.1 ∧ f.2 < loc.2))
    | none => false
  { wtr := w, loc := loc, top := if farUp then far.getD loc else loc, farUp := farUp }

/-- The evaluation of R155 on the leg conditions as they stand. Where the far request is the top one, the slot carries RR (R153, R156). A far
requested signal above N of a type 3 group is taken as it comes: R155 does not bound it (DESIGN CHOICE, notes/assumptions/16.md). -/
def State.evalReq (s : State) (g : Nat) : State :=
  let q := s.grp g
  if q.ty = 0 then s
  else
    let v := s.verdict g
    let reqsig := v.top.2
    let sel :=
      match q.ty with
      | 2 => if v.top.2 = 1 then 1 else 0
      | 3 => if reqsig ≠ 0 ∧ fld (s.far g) 8 4 = reqsig then reqsig else 0
      | _ => if v.loc.2 = 1 then 1 else 0
    let s1 := s.modGrp g (fun q =>
      { q with wtr := if 5 < v.top.1 then none else v.wtr, wtrOver := false, req := v.top.1, lreq := v.loc.1, lsig := v.loc.2,
               reqsig := reqsig, brsig := if q.ty = 2 ∨ q.ty = 3 then v.top.2 else sel, selsig := sel })
    let s2 := if sel = q.selsig then s1 else (s1.incReg (protA 0x58)).count 4 g 0
    if q.isAps then s2.setReg (apsA g 0xC) ((s2.grp g).txWord (if v.farUp then 2 else v.loc.1)) else s2

/-! ### Errorless pairs (R170-R178) -/

/-- Largest delay that alignment admits, in rounds. -/
def maxDelta : Int := 24414

/-- A leg is in its window (R173). -/
def Grp.inWindow (q : Grp) (protect : Bool) : Bool :=
  let d := q.delay protect
  decide (0 ≤ d) && decide (d ≤ if q.stored ∧ protect = q.lead then 24576 else 4)

/-- Both legs acquired with one ORIGIN and a delay that alignment admits. -/
def Grp.diff (q : Grp) : Int := wrapRounds (q.mp.base - q.mw.base)
/-- The later leg's A(s) - 625 s. -/
def Grp.later (q : Grp) : Int := if 0 < q.diff then q.mp.base else q.mw.base
def Grp.canAlign (q : Grp) : Bool :=
  q.mw.acq && q.mp.acq && decide (q.mw.origin = q.mp.origin) && decide (-maxDelta ≤ q.diff ∧ q.diff ≤ maxDelta)
def Grp.tooFar (q : Grp) : Bool := !decide (-maxDelta ≤ q.diff ∧ q.diff ≤ maxDelta)

/-- The pair enters SINGLE or UNPROT, which PROT_IRQ_RAW.UNPROT reports (R185). -/
def State.toSingle (s : State) (g : Nat) : State :=
  (s.modGrp g (fun q =>
    { q with align := .single, fill := false, stored := false, sfaW := false, sfaP := false, retime := false, retimed := none,
             tout := q.base (decide (q.selsig = 1)) + 2 })).irq (protA 0) 0x20
def State.toUnprot (s : State) (g : Nat) : State :=
  (s.modGrp g (fun q => { q with align := .unprot, fill := false, unprotAt := s.bolt })).irq (protA 0) 0x20

/-- The store starts writing the leading leg; Tout is the trailing leg + 2 (R172). -/
def Grp.startFill (q : Grp) (bolt : Word) (lead : Bool) : Grp :=
  { q with align := .single, fill := true, fillAt := bolt, lead := lead, stored := true, tout := q.later + 2,
           sfaW := false, sfaP := false }

/-- Where the timeline moves later to `t` at round 0 of the present bolt, the round up to which its empty positions carry AIS (R176). -/
def State.gapAfter (s : State) (q : Grp) (t : Int) : Nat :=
  let d := wrapRounds (t - q.tout)
  if 0 < d then 625 * s.beat.bolts + d.toNat else q.gapTo

/-- A re-time (R176): Tout becomes the later leg + 2 and the earlier leg the store leg, with no difference the present one; where the timeline
moves later, the positions it leaves empty carry AIS. Too long a delay, or a stack not ready, gives SINGLE (R172). A RETIME that comes while a
leg is not acquired waits until both are. The spec says neither (DESIGN CHOICE, notes/assumptions/16.md). -/
def State.retimeNow (s : State) (g : Nat) : State :=
  let q := s.grp g
  if ¬ (q.mw.acq ∧ q.mp.acq) then s
  else if q.tooFar ∨ ¬ s.stackReady g then s.toSingle g
  else
    let t := q.later + 2
    let lead := decide (q.diff < 0) || (decide (q.diff = 0) && q.lead)
    s.modGrp g (fun q =>
      { q with tout := t, lead := lead, stored := true, retimed := some (lead != q.lead || !q.stored), retime := false, gapTo := s.gapAfter q t })

/-- SF-A of a leg of an errorless pair (R151, R172, R173, R179): it is out of its window, it is the store leg and the stack is not ready, or
it has no other SF and is not acquired again; in SINGLE the last alone, for the leg that the output does not follow (DEDUCED,
notes/assumptions/16.md). -/
def State.sfaOf (s : State) (g : Nat) (protect : Bool) : Bool :=
  let q := s.grp g
  let m := q.meas protect
  let lost := !m.acq && !(q.leg (if protect then 0 else 1)).sfAt.isSome &&
    s.legOn (s.gDst g) (if protect then s.gProt g else s.gWork g) protect
  match q.align with
  | .acq => false
  | .single => lost && !q.fill && decide (protect ≠ decide (q.selsig = 1))
  | _ => lost || (m.acq && !q.inWindow protect) || (q.storing && protect == q.lead && !s.stackReady g)

def State.putSfa (s : State) (g : Nat) : State :=
  s.modGrp g (fun q => { q with sfaW := s.sfaOf g false, sfaP := s.sfaOf g true })

/-- An acquired leg has left its window (R172, R173). -/
def Grp.leftWindow (q : Grp) : Bool := (q.mw.acq && !q.inWindow false) || (q.mp.acq && !q.inWindow true)

/-- The only SF of a leg is SF-A, and its headers say where its bolts start (R172, R177). -/
def State.onlySfa (s : State) (g : Nat) (protect : Bool) : Bool :=
  let q := s.grp g
  let i := if protect then 0 else 1
  let x := if protect then s.gProt g else s.gWork g
  (if protect then q.sfaP else q.sfaW) && ((q.meas protect).acq || (q.meas protect).lastOk) && !(q.leg i).sfAt.isSome && s.legOn (s.gDst g) x protect

/-- Both legs are in SF as the evaluation takes it, past any hold-off, and the only SF of this one is SF-A (R152, R172, R177). -/
def State.takesSfa (s : State) (g : Nat) (protect : Bool) : Bool :=
  ((s.grp g).leg 0).sfNow && ((s.grp g).leg 1).sfNow && s.onlySfa g protect

/-- An immediate re-time onto one leg (R177). -/
def State.retimeOnto (s : State) (g : Nat) (protect : Bool) : State :=
  let q := s.grp g
  let t := q.base protect + 2
  (s.modGrp g (fun q =>
    { q with align := .single, fill := false, stored := false, tout := t, sfaW := false, sfaP := false, retime := false,
             retimed := none, gapTo := s.gapAfter q t })).irq (protA 0) 0x20

/-- The transition of R172 at a boundary, but for those that have a step of their own. With no differential delay the protect leg becomes the
store leg of a pair in ACQ: the spec does not say which (DESIGN CHOICE, notes/assumptions/16.md). -/
def State.alignStep (s : State) (g : Nat) : State :=
  let q := s.grp g
  match q.align with
  | .acq =>
    if q.mw.acq && q.mp.acq then
      (if q.canAlign && s.stackReady g then s.modGrp g (fun q => q.startFill s.bolt (!decide (0 < q.diff))) else s.toSingle g)
    else s.modGrp g (fun q => { q with acqAt := if q.mw.acq || q.mp.acq then some (q.acqAt.getD s.bolt) else none })
  | .single =>
    if s.takesSfa g true then s.retimeOnto g true
    else if s.takesSfa g false then s.retimeOnto g false
    else if q.fill then
      (if q.mw.acq && q.mp.acq && s.stackReady g then s else s.toSingle g)
    else if q.canAlign && s.stackReady g then
      (let selP := decide (q.selsig = 1)
       if (if selP then 0 < q.diff else q.diff < 0) then s.modGrp g (fun q => q.startFill s.bolt (!selP)) else s.toUnprot g)
    else s.putSfa g
  | .aligned => if q.leftWindow then (s.toUnprot g).putSfa g else s.putSfa g
  | .unprot =>
    match q.retimed with
    | some true => s.modGrp g (fun q => { q.startFill s.bolt q.lead with fillAt := s.bolt - 1, retimed := none })
    | some false => (s.modGrp g (fun q => { q with align := .aligned, retimed := none })).putSfa g
    | none =>
      if q.mw.acq && q.mp.acq && q.inWindow false && q.inWindow true && (s.stackReady g) then
        (s.modGrp g (fun q => { q with align := .aligned, retime := false })).putSfa g
      else if s.takesSfa g true then s.retimeOnto g true
      else if s.takesSfa g false then s.retimeOnto g false
      else if q.retime then (s.putSfa g).retimeNow g
      else s.putSfa g

/-- In SINGLE with no leg stored, Tout follows the leg that the evaluation selected (R177). -/
def State.singleFollow (s : State) (g : Nat) : State :=
  s.modGrp g (fun q =>
    if q.ty = 4 ∧ q.align = .single ∧ ¬ q.fill then { q with tout := q.base (decide (q.selsig = 1)) + 2 } else q)

/-- A leg loses acquisition on SF (R171). -/
def State.dropAcq (s : State) (g : Nat) : State :=
  s.modGrp g (fun q =>
    let lost := fun (i : Nat) (x : Nat) (p : Bool) (m : LegMeas) =>
      if (q.leg i).sfAt.isSome || !s.legOn (s.gDst g) x p then { m with acq := false, two := false, lastOk := false } else m
    let w := lost 1 (s.gWork g) false q.mw
    let p := lost 0 (s.gProt g) true q.mp
    { q with mw := { w with acq := w.acq || w.two }, mp := { p with acq := p.acq || p.two } })

/-- How many bolts before the last one the skein bolt left whose header came last: 0 for the bolt before, 1 where the header of the one that
left then is still to come (R199). -/
def State.hdrAge (s : State) (k : Nat) : Option Nat :=
  let r := s.rx k
  let b := (r.finHdr - 1) / 625 + 1
  if r.finHdr = 0 then none
  else if b = s.beat.bolts then some 0
  else if b + 1 = s.beat.bolts ∧ (r.fin - 1) / 625 + 1 = s.beat.bolts then some 1
  else none

/-- P of the egress headers that trunk skein `k` feeds (R38). -/
def State.pOut (s : State) (k : Nat) : Nat := ((s.rx k).p + (s.lane (laneOf k)).off) % 625

/-- A leg's measurement at a boundary, from the last header whose skein bolt has left: one bolt earlier where the header of the latest is
still to come (R170, R171; DEDUCED, notes/assumptions/22.md). -/
def State.measure (s : State) (x : Nat) (m : LegMeas) : LegMeas :=
  let k := skNo x
  if lsrPort x = 8 ∨ s.srcFlag k then { m with lastOk := false }
  else match s.hdrAge k with
    | none => { m with lastOk := false }
    | some a =>
      let r := s.rx k
      let q := r.seq
      let p := s.pOut k
      let n := signed 32 (s.bolt - w32 a - q - 1).toNat
      { m with base := 625 * n + p - (if p = 0 then 0 else 625), known := true, origin := r.origin, lastSeq := q, lastP := p, lastOk := true,
               two := m.two || (m.lastOk && decide (q = m.lastSeq + 1 ∧ p = m.lastP)),
               hist := ((q, r.trail) :: m.hist).take 64 }

/-- Measures both legs of every errorless pair; DMAX is of the last measurement of both (R188). -/
def State.measureAll (s : State) : State :=
  seqAll (fun g s => s.modGrp g (fun q =>
    let q1 := { q with mw := s.measure (s.gWork g) q.mw, mp := s.measure (s.gProt g) q.mp }
    if q1.mw.lastOk && q1.mp.lastOk then { q1 with dmax := q1.tooFar } else q1)) s.errorless s

/-! ### The boundary -/

/-- APS lane of a group: the lane of its protect position (R146). -/
def State.apsLane (s : State) (g : Nat) : Nat := lsrLane (s.protLeg g)

/-- The refusal of an enable, if one applies (R149). A leg of types 1 to 3 may name port 8: R136, R137, R151 and R465 protect Fine loom outputs
that way, against the words of reason 1 (DEDUCED, notes/assumptions/47.md). -/
def State.enableRefusal (s : State) (g : Nat) (v : Word) : Option Nat :=
  let ty := tyOf v
  let n := fld v 6 4
  let pos := if ty = 3 then s.memProt g :: (span 1 n).map (s.memPos g) else [s.gWork g, s.gProt g]
  let dst := if ty = 3 then (span 1 n).map (s.memDst g) else [s.gDst g]
  let others := s.enabled.filter (· ≠ g)
  let aps := ty = 2 ∨ ty = 3 ∨ (ty = 1 ∧ bit v 5)
  let lane := lsrLane (if ty = 3 then s.memProt g else s.gProt g)
  if ty = 3 ∧ (512 ≤ g ∨ n = 0) then some 2
  else if ¬ (dst.all trunkOk && pos.all (fun x => (lsrNo x).isSome && decide (lsrPort x < 8 ∨ ty ≠ 4))) then some 1
  else if (ty = 2 ∨ ty = 3) ∧ pos.any (fun x => decide (some (lsrPort x) ≠ pos.head?.map lsrPort)) then some 3
  else if aps ∧ others.any (fun o => (s.grp o).isAps && decide (s.apsLane o = lane ∧ fld (s.grp o).cfg 10 6 = fld v 10 6)) then some 4
  else if ty = 4 ∧ (5120 ≤ s.region g ∨ s.errorless.any (fun o => decide (o ≠ g ∧ s.region o = s.region g)) ∨
      5120 ≤ s.errorless.length) then some 5
  else if ty = 4 ∧ ¬ (s.stackReady g ∧ s.rb 0xA80040 (stackOf (s.region g))) then some 6
  else if dst.any (fun d => others.any (fun o => (s.members o).any (fun m => decide (m.2.2 = d)))) then some 7
  else none

/-- A group ends: its own state, its part of the store, its waiting commands (R150). A selected protect leg changes back. -/
def State.grpEnd (s : State) (g : Nat) : State :=
  let q := s.grp g
  let s1 := if q.selsig = 0 then s else (s.incReg (protA 0x58)).count 4 g 0
  (s1.modGrp g (fun _ => {})).modProt (fun p => { p with store := p.store.filter (fun e => !decide (e.g = g)) })

/-- A written TYPE is taken in (R149, R150): TYPE 0 written in the bolt ends the group, whatever was written after it. -/
def State.takeCfg (s0 : State) (g : Nat) : State :=
  let q := s0.grp g
  let v := s0.reg (recA g 0)
  if ¬ q.cfgPend then s0
  else if tyOf v = 0 then s0.grpEnd g
  else
    let s := if q.off then s0.grpEnd g else s0
    if (s.grp g).ty ≠ 0 then s.modGrp g (fun q => { q with cfg := v, cfgPend := false })
    else match s.enableRefusal g v with
      | some r =>
        (((s.modGrp g (fun _ => {})).setRf (recA g 0) 0 3 0).setReg (protA 0x54) (w32 (g + r * 2 ^ 16))).irq (protA 0) 4
      | none => s.modGrp g (fun _ => { ty := tyOf v, cfg := v, gwtr := s.reg (recA g 4), cmds := q.cmds })

/-- A command is taken in against the top request `top` (R154). CMD 0 is none. -/
def Grp.takeCmd (q : Grp) (top : Nat) (code mem : Nat) : Grp :=
  match code with
  | 0 => q
  | 1 => { q with stand := 0, standMem := 0, wtr := none, rej := false, lreq := if q.lreq = 5 then 0 else q.lreq }
  | 7 => { q with retime := decide (q.ty = 4 ∧ q.align = .unprot), rej := false }
  | _ =>
    let ok := decide (top < standReq code) && (!decide (code = 5) || (!q.revertive && decide (q.ty ≠ 3)))
      && (!decide (code = 3 ∨ code = 4) || decide (mem ∈ q.signals))
    if ok then { q with stand := code, standMem := if code = 3 ∨ code = 4 then mem else 0, rej := false } else { q with rej := true }

/-- Commands are taken in as they were written (R154, R419 item 7): the first against the top request of the last evaluation, each later one
against the one that those before it leave (DEDUCED, notes/assumptions/47.md). -/
def State.takeCmds (s : State) (g : Nat) : List (Nat × Nat) → Nat → State
  | [], _ => s
  | c :: t, top =>
    let s1 := s.modGrp g (fun q => q.takeCmd top c.1 c.2)
    s1.takeCmds g t (s1.verdict g).top.1

/-- Every command that waits. -/
def State.takeGrpCmd (s : State) (g : Nat) : State :=
  let q := s.grp g
  let s1 := s.modGrp g (fun q => { q with cmds := [] })
  if q.ty = 0 then s1 else s1.takeCmds g q.cmds q.req

/-- The WTR time is over at the present boundary (R159). -/
def Grp.wtrEnds (q : Grp) (bolt : Word) : Bool :=
  match q.wtr with
  | some (_, b) => q.wtrOver || decide (q.wtrBolts ≤ since bolt b)
  | none => false

/-- PROT_EVALUATE of one enabled group at a boundary (R155, R172). -/
def State.protStep (s : State) (g : Nat) : State :=
  s.noted g (fun s0 =>
    let s1 := (s0.takeCfg g).takeGrpCmd g
    if (s1.grp g).ty = 0 then s1
    else
      let s2 := s1.modGrp g (fun q => { q with gwtr := s1.reg (recA g 4) })
      let s3 := s2.modGrp g (fun q =>
        if q.wtrEnds s2.bolt then { q with wtr := none, wtrOver := false, lreq := if q.lreq = 5 then 0 else q.lreq } else q)
      let s4 := if (s3.grp g).ty = 4 then (((s3.updLegs g).dropAcq g).alignStep g).updLegs g else s3.updLegs g
      (s4.evalReq g).singleFollow g)

/-- Every group that is enabled or has a write to take in, by rising number: an enable is checked against the groups as those before it left
them and those after it still are (DESIGN CHOICE, notes/assumptions/46.md). -/
def State.protEvaluate (s : State) : State := seqAll (fun g s => s.protStep g) (s.prot.grp.map (·.1)) s

/-- Per-bolt Tally counts of a group (R381). -/
def State.protCounts (s : State) : State :=
  seqAll (fun g s =>
    let q := s.grp g
    let s1 := if q.signals.any (fun i => (q.leg i).sf) then s.count 4 g 3 else s
    let s2 := if (q.leg 0).sf then s1.count 4 g 4 else s1
    if q.ty = 4 ∧ (q.align = .single ∨ q.align = .unprot) then s2.count 4 g 5 else s2) s.enabled s

/-! ### APS (R162-R167) -/

/-- Bytes received last, as PROT_APS_RX0 and RX1 hold them. -/
def State.apsRx (s : State) (g : Nat) : List Byte := beBytes 4 (s.reg (apsA g 0)).toNat ++ beBytes 4 (s.reg (apsA g 4)).toNat
/-- REQ codes of R153. -/
def reqOk (c : Nat) : Bool := decide (c ∈ [0xF, 0xE, 0xD, 0xB, 0x9, 0x7, 0x5, 0x4, 0x2, 0x1, 0x0])
/-- The lane's mode makes the agent discard its slots (R463). -/
def State.apsBlocked (s : State) (g : Nat) : Bool :=
  let l := s.apsLane g
  decide (s.lnLoop l ≠ 0 ∨ s.lnTxpat l ≠ 0)
/-- A slot with good ACRC and REQ (R165, R166). -/
def slotOk (b : List Byte) : Bool := decide (beAt b 6 2 = crc16 (bytesAt b 0 6)) && reqOk (beAt b 0 1 / 16)
def slotZero (b : List Byte) : Bool := b.all (· == 0)
/-- A valid slot of the group, whatever its GID. -/
def State.apsValid (s : State) (g : Nat) : Bool :=
  let b := s.apsRx g
  !slotZero b && slotOk b && !s.apsBlocked g
/-- Its GID is the group's. -/
def State.gidOk (s : State) (g : Nat) : Bool := decide (beAt (s.apsRx g) 3 2 = fld (s.grp g).gwtr 16 16)
/-- B and D are the local type's (R163). -/
def State.bdOk (s : State) (g : Nat) : Bool :=
  let v := beAt (s.apsRx g) 0 1
  let ty := (s.grp g).ty
  decide (v / 8 % 2 = (if ty = 3 then 1 else 0) ∧ v / 4 % 2 = (if ty = 2 ∨ ty = 3 then 1 else 0))

/-- A write of PROT_APS_FAR, the agent's or any other master's (R167, R190): a FOP cause that it sets is reported (R184, R185). -/
def State.farWrite (s : State) (g : Nat) (v : Word) : State :=
  let w := v &&& w32 (writeMask (apsA g 8))
  let rise := fld w 16 4 &&& (15 - fld (s.far g) 16 4)
  s.noted g (fun s => (s.setReg (apsA g 8) w).when (rise ≠ 0) (·.irq (protA 0) 0x10))

/-- A FOP cause is set (R166, R185). -/
def State.setFop (s : State) (g i : Nat) : State := if bit (s.far g) i then s else s.farWrite g (setBit (s.far g) i true)

/-- A weaver serves APS (R279). -/
def State.apsSvc (s : State) : Bool := (s.holder 1 0).isSome

/-- The framer copies a group's received slot; a change queues the group (R165). -/
def State.apsCopy (s : State) (g : Nat) (b : List Byte) : State :=
  if b = s.apsRx g then s
  else
    let s1 := (s.setReg (apsA g 0) (w32 (beAt b 0 4))).setReg (apsA g 4) (w32 (beAt b 4 4))
    if g ∈ s1.prot.chgq then s1 else (s1.modProt (fun p => { p with chgq := p.chgq ++ [g] })).irq (protA 0) 2

/-- The agent's counts of R166 over the valid slots of every bolt, and causes that the bolt's message clears. Without an agent nothing is
counted, and one that comes counts afresh (DEDUCED, notes/assumptions/17.md). A slot with another GID than the group's is no valid message
for FOP_TO, and clears neither FOP_NR nor FOP_TO: R166 does not say (DESIGN CHOICE, notes/assumptions/17.md). -/
def State.apsCount (s : State) (g : Nat) : State :=
  if ¬ s.apsSvc then s.modGrp g (fun q => { q with pmCnt := 0, nrCnt := 0, toCnt := 0 })
  else if s.prot.lost then s
  else
    let q := s.grp g
    let ok := s.apsValid g
    let msg := ok && s.gidOk g
    let two := decide (q.ty = 2 ∨ q.ty = 3)
    let diff := bit (s.far g) 12 && decide (q.reqsig ≠ fld (s.far g) 8 4)
    let s1 := s.modGrp g (fun q =>
      { q with pmCnt := if ok && !s.bdOk g then min 3 (q.pmCnt + 1) else 0,
               toCnt := if msg || !two then 0 else min 8 (q.toCnt + 1),
               nrCnt := if two && diff then min 196 (q.nrCnt + 1) else 0 })
    let clr := fun (c : Bool) (i : Nat) (w : Word) => if c then setBit w i false else w
    s1.setReg (apsA g 8) (clr (ok && s.bdOk g) 16 (clr (msg && !diff) 17 (clr msg 18 (clr msg 19 (s1.far g)))))

/-- APS_SLOT_COPY at a boundary for every enabled APS group, descrambled (R26, R165). -/
def State.apsCopyAll (s : State) (obs : List LaneObs) : State :=
  seqAll (fun g s =>
    if ¬ (s.grp g).isAps then s
    else
      let l := s.apsLane g
      let b := if s.rb (lnA l 0x60) 4 then
          (match (obs.find? (fun o => decide (o.lane = l))).bind (fun o => o.aps.find? (fun a => decide (a.1 = fld (s.grp g).cfg 10 6))) with
            | some a => scramble (slotPos a.1) (beBytes 8 a.2.toNat)
            | none => beBytes 8 0)
        else beBytes 8 0
      s.noted g (fun s => (s.apsCopy g b).apsCount g)) s.enabled s

/-- APS_MESSAGE_ACCEPT (R165, R166): the agent, which the weaver that holds APS runs (R279), has popped the group. -/
def State.apsAccept (s0 : State) (g : Nat) : State :=
  let s := s0.when s0.apsSvc (·.modProt (fun p => { p with chgq := p.chgq.filter (· ≠ g) }))
  let b := s.apsRx g
  if ¬ s.apsSvc ∨ ¬ (s.grp g).isAps ∨ s.prot.lost ∨ slotZero b ∨ s.apsBlocked g then s
  else if ¬ slotOk b then s.count 4 g 2
  else s.noted g (fun s =>
    if s.gidOk g then
      s.setReg (apsA g 8) (w32 (beAt b 0 1 / 16 + beAt b 1 1 % 16 * 2 ^ 4 + beAt b 2 1 % 16 * 2 ^ 8 + 2 ^ 12
        + fld (s.far g) 16 2 * 2 ^ 16 + fld (s.far g) 19 1 * 2 ^ 19))
    else s.setFop g 18)

/-- The agent's heartbeat at a boundary: a write since clears AGENT_LOST (R167). -/
def State.agentBoundary (s : State) : State :=
  if ¬ s.prot.hbNew then s
  else
    let was := s.prot.lost
    let s1 := s.modProt (fun p => { p with hbNew := false, lost := false })
    if was then seqAll (fun g s => if (s.grp g).isAps then s.evqPush g else s) s1.enabled s1 else s1

/-! ### Register rows -/

/-- A write of PROT_GCFG (R150): a locked field keeps its value, and a write that would change one is logged. -/
def State.gcfgWrite (s : State) (m : Mid) (g : Nat) (v : Word) : State :=
  let a := recA g 0
  let o := s.reg a
  let v := v &&& w32 (writeMask a)
  let s1 :=
    if tyOf o = 0 then s.setReg a v
    else
      let bad := (tyOf v ≠ 0 ∧ fld v 0 3 ≠ fld o 0 3) ∨ fld v 6 10 ≠ fld o 6 10
      let v2 := setFld (setFld v 6 10 (fld o 6 10)) 0 3 (if tyOf v = 0 then fld v 0 3 else fld o 0 3)
      (s.when (decide bad) (fun s => s.errlog (protA 0) a m)).setReg a v2
  s1.modGrp g (fun q => { q with cfgPend := true, off := q.off || decide (tyOf v = 0) })

/-- PROT_GCFG_WRITE (R150). -/
def execProtGcfgWrite (m : Mid) (g : Fin 8192) (v : Word) (s : State) : Out :=
  .next (s.write4 m (recA g.val 0) v (fun s => (s.gcfgWrite m g.val v)))

/-- A write of PROT_GCMD (R154, R181): each one waits for the boundary. -/
def State.gcmdWrite (s : State) (g : Nat) (v : Word) : State :=
  s.modGrp g (fun q => { q with cmds := q.cmds ++ [(fld v 0 3, fld v 4 4)] })

/-- A command written to a group's PROT_GCMD. -/
def State.gcmd (s : State) (m : Mid) (g code mem : Nat) : State :=
  s.write4 m (recA g 0x14) (w32 (code + mem * 16)) (fun s => (s.gcmdWrite g (w32 (code + mem * 16))))

/-- PROT_CLEAR (R154). -/
def execProtClear (m : Mid) (g : Fin 8192) (s : State) : Out := .next (s.gcmd m g.val 1 0)
/-- PROT_LOCKOUT (R154). -/
def execProtLockout (m : Mid) (g : Fin 8192) (s : State) : Out := .next (s.gcmd m g.val 2 0)
/-- PROT_FORCE (R154). -/
def execProtForce (m : Mid) (g : Fin 8192) (member : BitVec 4) (s : State) : Out := .next (s.gcmd m g.val 3 member.toNat)
/-- PROT_MANUAL_P (R154). -/
def execProtManualP (m : Mid) (g : Fin 8192) (member : BitVec 4) (s : State) : Out := .next (s.gcmd m g.val 4 member.toNat)
/-- PROT_MANUAL_W (R154). -/
def execProtManualW (m : Mid) (g : Fin 8192) (s : State) : Out := .next (s.gcmd m g.val 5 0)
/-- PROT_EXERCISE (R154). -/
def execProtExercise (m : Mid) (g : Fin 8192) (s : State) : Out := .next (s.gcmd m g.val 6 0)
/-- PROT_RETIME (R176). -/
def execProtRetime (m : Mid) (g : Fin 8192) (s : State) : Out := .next (s.gcmd m g.val 7 0)

/-- HOLDOFF_EXPIRE (R152): the hold-off of a leg's SF or SD will have run out at the next boundary, whose evaluation takes the condition in if
it is still present. -/
def execHoldoffExpire (g : Fin 8192) (leg : Fin 16) (sd : Bool) (s : State) : Out :=
  let q := s.grp g.val
  let c := q.leg leg.val
  let due := fun (a : Option Word) => match a with
    | some b => decide (fld q.cfg 16 12 ≤ since (s.bolt + 1) b)
    | none => false
  .next (if q.ty != 0 && (if sd then due c.sdAt else due c.sfAt) then
    s.modGrp g.val (fun q =>
      { q with legs := smPut {} q.legs leg.val (if sd then { c with sdIn := true } else { c with sfIn := true }) })
  else s)

/-- WTR_EXPIRE (R159): the WTR time will be over at the next boundary. -/
def execWtrExpire (g : Fin 8192) (s : State) : Out :=
  let q := s.grp g.val
  .next (match q.wtr with
    | some (_, b) => if q.wtrBolts ≤ since (s.bolt + 1) b then s.modGrp g.val (fun q => { q with wtrOver := true }) else s
    | none => s)

/-- Pops a queue register: the group with VALID, or 0 (R184). -/
def popWord : List Nat → Word
  | [] => 0
  | g :: _ => w32 (g + 2 ^ 31)
def State.popEvq (s : State) : Word × State := (popWord s.prot.evq, s.modProt (fun p => { p with evq := p.evq.drop 1 }))
def State.popChgq (s : State) : Word × State := (popWord s.prot.chgq, s.modProt (fun p => { p with chgq := p.chgq.drop 1 }))

/-- PROT_APS_CHGQ_READ (R165). -/
def execProtApsChgqRead (m : Mid) (s : State) : Out :=
  .next (s.access m (protA 0x50) 4 false (fun s => let r := s.popChgq
                                                   r.2.answer (r.1.setWidth 64)))
/-- PROT_EVQ_READ (R184). -/
def execProtEvqRead (m : Mid) (s : State) : Out :=
  .next (s.access m (protA 0x4C) 4 false (fun s => let r := s.popEvq
                                                   r.2.answer (r.1.setWidth 64)))

/-- APS_MESSAGE_ACCEPT (R165). -/
def execApsMessageAccept (g : Fin 8192) (s : State) : Out := .next (s.apsAccept g.val)
/-- FOP_PM_SET (R166): B or D different in the valid slots of 3 consecutive bolts. -/
def execFopPmSet (g : Fin 8192) (s : State) : Out :=
  .next (if s.apsSvc ∧ (s.grp g.val).isAps ∧ 3 ≤ (s.grp g.val).pmCnt then s.setFop g.val 16 else s)
/-- FOP_NR_SET (R166): the far bridged signal differs from the requested one for 196 bolts. -/
def execFopNrSet (g : Fin 8192) (s : State) : Out :=
  .next (if s.apsSvc ∧ (s.grp g.val).isAps ∧ 196 ≤ (s.grp g.val).nrCnt then s.setFop g.val 17 else s)
/-- FOP_TO_SET (R166): no valid message for 8 bolts. -/
def execFopToSet (g : Fin 8192) (s : State) : Out :=
  .next (if s.apsSvc ∧ (s.grp g.val).isAps ∧ 8 ≤ (s.grp g.val).toCnt then s.setFop g.val 19 else s)

/-- A write of PROT_AGENT_HB (R167). -/
def State.agentHb (s : State) (v : Word) : State :=
  (s.setReg (protA 0x44) v).modProt (fun p => { p with hbAt := s.bolt, hbNew := true })
/-- PROT_AGENT_HB_WRITE (R167). -/
def execProtAgentHbWrite (m : Mid) (v : Word) (s : State) : Out :=
  .next (s.write4 m (protA 0x44) v (fun s => (s.agentHb v)))

/-- APS_AGENT_LOST (R167): no heartbeat for AGENT_TMO bolts. -/
def execApsAgentLost (s : State) : Out :=
  .next (if ¬ s.prot.lost ∧ atLeast1 (s.rf (protA 0x40) 0 8) ≤ since s.bolt s.prot.hbAt then
    (let s1 := (s.modProt (fun p => { p with lost := true })).irq (protA 0) 8
     seqAll (fun g s => if (s.grp g).isAps then s.evqPush g else s) s1.enabled s1)
  else s)

/-- LEG_ACQUIRED (R171): a leg of an errorless pair has given two headers in step. -/
def execLegAcquired (g : Fin 8192) (protect : Bool) (s : State) : Out :=
  let q := s.grp g.val
  let m := q.meas protect
  .next (if q.ty = 4 ∧ m.two ∧ ¬ m.acq ∧ ¬ (q.leg (if protect then 0 else 1)).sfAt.isSome then
    s.modGrp g.val (fun q =>
      let q := { q with acqAt := some (q.acqAt.getD s.bolt) }
      if protect then { q with mp := { q.mp with acq := true } } else { q with mw := { q.mw with acq := true } })
  else s)

/-- ACQ_TIMEOUT of a group, where it is due: ACQ_TMO bolts in ACQ with one leg acquired (R172). -/
def State.acqTimeout (s : State) (g : Nat) : State :=
  let q := s.grp g
  match q.acqAt with
    | some b =>
      if q.ty = 4 ∧ q.align = .acq ∧ (q.mw.acq != q.mp.acq) ∧ atLeast1 (s.rf (protA 0x40) 16 8) ≤ since s.bolt b then
        s.noted g (fun s => s.toSingle g)
      else s
    | none => s
/-- ACQ_TIMEOUT (R172). -/
def execAcqTimeout (g : Fin 8192) (s : State) : Out := .next (s.acqTimeout g.val)

/-- STORE_FILL_COMPLETE, where it is due: the store holds the store leg's picks for its whole delay (R172). -/
def State.fillComplete (s : State) (g : Nat) : State :=
  let q := s.grp g
  if q.ty = 4 ∧ q.align = .single ∧ q.fill ∧ q.delay q.lead ≤ 625 * (since s.bolt q.fillAt : Nat) then
    s.noted g (fun s => (s.modGrp g (fun q => { q with align := .aligned, fill := false })).putSfa g)
  else s
/-- STORE_FILL_COMPLETE (R172). -/
def execStoreFillComplete (g : Fin 8192) (s : State) : Out := .next (s.fillComplete g.val)

/-- AUTO_RETIME, where it is due: RETIME_HOLD x 16 bolts in UNPROT with RETIME_AUTO (R172). -/
def State.autoRetime (s : State) (g : Nat) : State :=
  let q := s.grp g
  if q.ty = 4 ∧ q.align = .unprot ∧ bit q.cfg 28 ∧ q.retimed = none ∧
      16 * atLeast1 (s.rf (protA 0x40) 24 8) ≤ since s.bolt q.unprotAt then
    s.noted g (fun s => s.retimeNow g)
  else s
/-- AUTO_RETIME (R172). -/
def execAutoRetime (g : Fin 8192) (s : State) : Out := .next (s.autoRetime g.val)

/-- What falls at a boundary for the errorless pairs and no row has taken. -/
def State.pairsDue (s : State) : State := seqAll (fun g s => ((s.acqTimeout g).fillComplete g).autoRetime g) s.errorless s

/-- HBM_NOT_READY (R179): the stack's ready bit clears; its store legs are SF-A from the next evaluation. -/
def execHbmNotReady (h : Fin 2) (s : State) : Out :=
  .next (s.modProt (fun p => { p with hbmReady := setBit p.hbmReady h.val false }))

/-- SELV_ECC_UNCORRECTABLE (R179): the pick is invalid; counted. -/
def execSelvEccUncorrectable (g : Fin 8192) (ob : Word) (rho : Nat) (s : State) : Out :=
  if ¬ rho < 625 then .next s
  else .next (((s.modProt (fun p =>
    { p with store := p.store.map (fun e =>
        if e.g = g.val ∧ e.protect = (s.grp g.val).lead ∧ e.ob = ob ∧ e.rho = rho then { e with pick := { e.pick with valid := false } }
        else e) })).incReg 0xA8004C).irq 0xA80000 1)

/-- A write of SELV_CFG: one that clears the enable of a stack with an owned region is ignored and logged (R192). -/
def State.selvWrite (s : State) (m : Mid) (v : Word) : State :=
  if s.errorless.any (fun g => s.rb 0xA80040 (stackOf (s.region g)) && !bit v (stackOf (s.region g))) then
    s.errlog 0xA80000 0x40 m
  else s.putMasked 0xA80040 v

/-- SELV_CFG_WRITE (R192). -/
def execSelvCfgWrite (m : Mid) (v : Word) (s : State) : Out :=
  .next (s.write4 m 0xA80040 v (fun s => (s.selvWrite m v)))

end Sys2Proof.Machine
end

