-- ==== Sys2Proof/Machine/Reset.lean ====
section
/-! DEFINITION. Reset kinds and start-up (R183, R287, R330, R352, R357, R430-R437, R441, R442). -/
namespace Sys2Proof.Machine

/-! ### Requests (R431, R432) -/

/-- Strength of a kind: cold, then warm, then control-plane-only. -/
def rank (k : Nat) : Nat := match k with | 1 => 3 | 2 => 2 | 3 => 1 | _ => 0

/-- A reset is requested. While one is requested or in progress only a stronger kind is taken, and over one in progress it starts
at once (R432). -/
def State.askReset (s : State) (kind src : Nat) (m : Mid) (now : Bool) : State :=
  let cur := match s.pwr.req with | some r => r.1 | none => s.pwr.inProg
  if rank cur < rank kind then
    s.modPwr (fun p => { p with req := some (kind, src, m), due := now || decide (p.inProg ≠ 0) || p.due })
  else s

/-- POWER_ON (R420, R437): the input enters its range and the cold start runs. -/
def execPowerOn (straps : BitVec 12) (s : State) : Out :=
  .next (if s.pwr.inRange then s
    else (s.modPwr (fun p => { p with inRange := true, straps := straps.setWidth 16 })).askReset 1 1 0 true)

/-- RESET_N_ASSERT (R431): low for at least 10 us starts a cold reset. -/
def execResetNAssert (ns : Nat) (s : State) : Out :=
  .next (s.when (s.pwr.inRange && decide (10000 ≤ ns)) (fun s => s.askReset 1 (if s.pwr.tripped then 3 else 2) 0 true))

/-- A write of GLB_RST_KEY arms its writer for 64 bolts. -/
def State.rstKey (s : State) (m : Mid) (v : Word) : State :=
  if fld v 0 16 = 0x7E57 then
    s.modPwr (fun p => { p with keys := (p.keys.filter (fun e => decide (e.1 ≠ m.toNat))) ++ [(m.toNat, s.bolt)] })
  else s

/-- GLB_RST_KEY_WRITE (R432). -/
def execGlbRstKeyWrite (m : Mid) (v : Word) (s : State) : Out := .next (s.write4 m 0x80 v (fun s => s.rstKey m v))

/-- Masters whose reset command counts: host software, the holder, the SMBus target with its strap, JTAG. -/
def State.rstMaster (s : State) (m : Mid) : Bool :=
  m == 66 || m == 68 || (m == 67 && bit s.pwr.straps 1) || decide (s.holderId = some m.toNat)

/-- The master armed its key within the last 64 bolts. -/
def State.rstArmed (s : State) (m : Mid) : Bool := s.pwr.keys.any (fun e => decide (e.1 = m.toNat ∧ since s.bolt e.2 ≤ 64))

/-- A write of GLB_RST_CMD. -/
def State.rstCmd (s : State) (m : Mid) (v : Word) : State :=
  if s.rstMaster m && s.rstArmed m then (if fld v 0 2 = 0 then s else s.askReset (fld v 0 2) 4 m false)
  else s.errlog 0 0x84 m

/-- GLB_RST_CMD_COLD (R432). -/
def execGlbRstCmdCold (m : Mid) (s : State) : Out := .next (s.write4 m 0x84 1 (fun s => s.rstCmd m 1))
/-- GLB_RST_CMD_WARM (R432). -/
def execGlbRstCmdWarm (m : Mid) (s : State) : Out := .next (s.write4 m 0x84 2 (fun s => s.rstCmd m 2))
/-- GLB_RST_CMD_CP (R432). -/
def execGlbRstCmdCp (m : Mid) (s : State) : Out := .next (s.write4 m 0x84 3 (fun s => s.rstCmd m 3))

/-- A reset of kind `k` is requested and its time has come. -/
def State.resetDue (s : State) (k : Nat) : Option (Nat × Mid) :=
  match s.pwr.req with
  | some (j, src, m) => if j = k ∧ s.pwr.due then some (src, m) else none
  | none => none

/-- GLB_RST_CAUSE (R442). -/
def rstCause (k src : Nat) (m : Mid) : Word := w32 (k + src * 4 + m.toNat * 256)

/-! ### Cold reset (R433, R437) -/

/-- PWR_DOM_CTRL by the straps (R430, R439). -/
def strapDoms (st : BitVec 16) : Nat :=
  (if bit st 6 then 0xFF else 0) + (if bit st 9 then 0xFF00 else 0x0F00) + (if bit st 7 then 0x30000 else 0)

/-- The start-up test of one bank (R352): the rows that fail, in the order in which they do, take the free spares; a bank with more of them, or
that fails again after its repair, is BAD. -/
def State.bootBank (s : State) (b : Nat) (rows : List Nat) (again : Bool) : State :=
  if rows = [] then s
  else
    let rep := bankA (0x200 + 4 * b)
    let free := 4 - s.sparesUsed b
    let fit := rows.take free
    let s1 := ((s.setRf rep 3 3 fit.length).setRf rep 6 9 (rows.getLastD 0)).modBank (fun q => { q with soft := q.soft ++ fit.map (fun r => (b, r)) })
    let s2 := s1.when (decide (free < rows.length)) (fun s => (s.setRf rep 15 1 1).irq (bankA 0) 0x20)
    s2.when (decide (free < rows.length) || again) (·.setRf (bankA (if b < 32 then 0x74 else 0x78)) (b % 32) 1 1)

/-- The state at the end of step 5 of R437. Ports, clusters and stacks that straps select are due to start (steps 6 to 8), and the PREFER Foreman
is to leave reset unless FM_HOLD is high (step 9; DESIGN CHOICE, notes/assumptions/7.md). -/
def State.coldState (s : State) (straps : BitVec 16) (test : StartTest) : State :=
  let d := strapDoms straps
  let z := s.offState
  let s1 : State :=
    { z with
      mbx := { z.mbx with bootSlot := s.mbx.nextSlot.getD s.mbx.bootSlot, nextSlot := none }
      fmn := { z.fmn with startUp := !bit straps 8 }
      pwr := { straps := straps, serial := s.pwr.serial, domOn := BitVec.ofNat 18 d } }
  let s2 := (s1.setReg (pwrA 0x40) (w32 d)).applyFuses
  let s3 := seqAll (fun b s => s.bootBank b ((test.rows.filter (fun e => decide (e.1 = b))).map (·.2)) (decide (b ∈ test.again))) (List.range 64) s2
  s3.setReg (skidA 0x64) (w32 s3.skidFree)

/-- COLD_RESET (R433, R437): due once requested; `test` is what the start-up finds. After a thermal trip it waits while a
sensor that has power reads above 105 degree C (R429). -/
def execColdReset (straps : BitVec 12) (test : StartTest) (s : State) : Out :=
  .next (if ¬ testOk test then s
    else match s.resetDue 1 with
      | some (src, m) => if s.pwr.tripped ∧ test.hot then s else (s.coldState (straps.setWidth 16) test).setReg 0x88 (rstCause 1 src m)
      | none => s)

/-! ### Control-plane-only reset (R330, R436) -/

/-- A reset begins: its cause, its count, its trace record. -/
def State.resetBegin (s : State) (k src : Nat) (m : Mid) (cnt : Nat) : State :=
  (((s.modPwr (fun p => { p with req := none, due := false, inProg := k })).setReg 0x88 (rstCause k src m)).incReg cnt).trace 9 10 83
    (rstCause k src m) 0

/-- The lease is revoked and both islands boot under R318, from an activated image; with FM_HOLD high none starts until START_A or START_B has
been written (R430). -/
def State.cpPart (s : State) : State :=
  let s1 := ((s.revoke 6).modMbx (fun x => { x with bootSlot := x.nextSlot.getD x.bootSlot, nextSlot := none })).modFmn (fun f =>
    { f with take := none, startUp := false })
  if bit s.pwr.straps 8 && !s.fmn.startSeen then (s1.offFm false).offFm true else s1.startIslands

/-- The control-plane-only reset of R436; fuse repairs are applied at every reset (R351). -/
def State.cpReset (s : State) (src : Nat) (m : Mid) : State := (s.resetBegin 3 src m 0x90).cpPart.applyFuses

/-- CP_RESET (R436): due once requested. -/
def execCpReset (s : State) : Out := .next (match s.resetDue 3 with | some r => s.cpReset r.1 r.2 | none => s)

/-! ### Warm reset (R434) -/

/-- RW, W1C and RC registers return to their reset values; CDP_FAULT clears; the interrupt tree follows (R410). -/
def State.warmRegs (s : State) : State :=
  ({ s with regs := smKeep (fun a => !warmClears a && !decide (0x4040100 ≤ a ∧ a < 0x4040160)) s.regs }).setRf 0x8 0 1 0 |>.settle

/-- Lane `l` at W (R435): HUNT without codeword lock; LOS, LOL and LOF declared; hooks cleared (R451). -/
def State.warmLane (s : State) (l : Nat) : State :=
  (s.modLane l (fun n =>
    { n with framer := .hunt, good := 0, err := 0, rawOof := true, losSeen := true, lolSeen := true, oofSeen := true, inAll := false,
             outAll := true, fawSync := false, cw := false, ttiCur := [], ttiPrev := [], lostIn := true, dly := 0, hook := [0, 0, 0, 0],
             intgOld := [], recCmd := false, recDue := false, own := false, bmyPart := none, mgmtPart := none, evt := n.evt + 1 })).deadLane l

/-- A pick without its sample tag (R395). -/
def Pick.untag (p : Pick) : Pick := { p with samp := none }

/-- No pick in flight carries a tag. -/
def State.dropTags (s : State) : State :=
  { s with
    sktx := s.sktx.filterMap (fun e => (let x := { e.2 with out := e.2.out.untag }
                                        if x = {} then none else some (e.1, x)))
    fine := { s.fine with
      buf := s.fine.buf.map (fun e => (e.1, e.2.map (fun b => { b with pick := b.pick.untag })))
      outp := s.fine.outp.filterMap (fun e => (let x := e.2.untag
                                               if x = {} then none else some (e.1, x))) }
    prot := { s.prot with store := s.prot.store.map (fun e => { e with pick := e.pick.untag }) } }

/-- Open and armed batches end with ABORTED; a commit in SYNC goes on (R434, R466). -/
def State.warmEngine (fe : Bool) (s : State) : State :=
  if (s.eng fe).isOpen || decide ((s.eng fe).st = .armed) then (s.dropBatch fe 0x1C).postFences fe else s

/-- WTR timers start again; errorless pairs return to ACQ (R183). -/
def Grp.warm (q : Grp) (now : Word) : Grp :=
  { q with wtr := q.wtr.map (fun e => (e.1, now)), wtrOver := false
           align := if q.ty = 4 then .acq else q.align
           mw := {}, mp := {}, fill := false, stored := false, acqAt := none, retime := false, retimed := none, sfaW := false, sfaP := false, dmax := false }

/-- Protection at a warm reset. PROT_EVQ and PROT_APS_CHGQ are RC and empty. -/
def State.warmProt (s : State) : State :=
  s.modProt (fun p =>
    { p with grp := p.grp.filterMap (fun e => (let q := e.2.warm s.bolt
                                       if q = {} then none else some (e.1, q))), evq := [], chgq := [], store := [] })

/-- Every buffer returns to the pool, counted (R357). -/
def State.warmSkid (s : State) : State :=
  let n := (s.skid.own.filter (fun e => decide (e.2.1 = .owned ∨ e.2.1 = .posted))).length
  let s1 := (s.modSkid (fun _ => {})).incReg (skidA 0x68) n
  (s1.modFmn (fun f => { f with a := { f.a with inbox := [] }, b := { f.b with inbox := [] } })).setReg (skidA 0x64) (w32 s1.skidFree)

/-- A test is aborted; with WARM_TEST = 1 a preserving March C- starts on every bank that is not BAD (R350, R352). -/
def State.warmBanks (s : State) : State :=
  let s1 := (if s.bank.march.busy then s.endTest 3 else s).applyFuses
  s1.when (s1.rb (bankA 0x68) 17) (·.startTest 0x540)

/-- Every awake lane's part of a warm reset; expected origins are RW fields (R6, R60), and no skein bolt under way is compared (R198). -/
def State.warmLanes (s : State) : State :=
  seqAll (fun l s => if s.awake (l / 64) then s.warmLane l else s) (List.range 512)
    (s.modSkeins (fun _ => true) (fun r => { r.void with exp := 0, expEn := false }))

/-- The marks a warm reset leaves: the Bamry agent restarts, hand-offs, test hooks and unlock keys end, the ports align again. -/
def State.warmMarks (s : State) : State :=
  ((((({ s with blz := [] }).modBmy (fun b => { b with restart := true, rxq := [] })).modTen (fun t => { t with ho := none })).modTst (fun t =>
    { t with pert := false, shedHook := [0, 0, 0, 0] })).modBeat (fun b => { b with hook := [0, 0, 0, 0] })).modPwr (fun p =>
      { p with warmAt := some s.bolt, asgDue := true, keys := [] })

/-- The warm reset of R434. -/
def State.warmReset (s : State) (src : Nat) (m : Mid) : State :=
  ((((((((((s.resetBegin 2 src m 0x8C).warmEngine false).warmEngine true).cpPart).warmWeavers).warmSkid).warmBanks).warmRegs.dropTags).warmLanes).warmProt).warmMarks

/-- WARM_RESET (R434): due once requested. -/
def execWarmReset (s : State) : Out := .next (match s.resetDue 2 with | some r => s.warmReset r.1 r.2 | none => s)

/-- Positions that an entry of a page names, with direction and tag: true for an input (a destination), false for an output. -/
def HMaps.positions (h : HMaps) : List (Nat × Bool × Nat) :=
  ((h.eg.filter (fun e => decide (lsrPort e.1 = 8 ∧ egMode e.2 ≠ 0))).map (fun e => (lsrIdx e.1, true, egTen e.2)))
    ++ ((h.ing.filter (fun e => decide (e.1 / 12800 = 8) && ingValid e.2)).map (fun e => (fld e.2 0 14, false, fld e.2 14 12)))

/-- FINE_ASG at W + 2 (R434). -/
def State.asgRestore (s : State) : State :=
  (seqAll (fun (e : Nat × Bool × Nat) s =>
    let a := 0x902000 + 4 * e.1
    (s.setRf a (if e.2.1 then 0 else 1) 1 1).setRf a 4 12 e.2.2) (s.loom.act.positions ++ s.loom.stb.positions) s).modPwr (fun p =>
      { p with asgDue := false, inProg := if p.inProg = 2 then 0 else p.inProg })

/-- The restore is due. -/
def State.asgNow (s : State) : Bool :=
  s.pwr.asgDue && (match s.pwr.warmAt with | some w => decide (2 ≤ since s.bolt w) | none => false)

/-- WARM_FINE_ASG_RESTORE (R434): due from W + 2. -/
def execWarmFineAsgRestore (s : State) : Out := .next (s.when s.asgNow (·.asgRestore))

/-- At a boundary: a warm or control-plane-only reset left over is performed, the restore of W + 2 too; a request written in the bolt
ended is due from now. -/
def State.resetLeft (s : State) : State :=
  let s1 := match s.resetDue 2, s.resetDue 3 with
    | some r, _ => s.warmReset r.1 r.2
    | _, some r => s.cpReset r.1 r.2
    | _, _ => s
  s1.when s1.asgNow (·.asgRestore)

/-- The boundary at which a requested reset starts has come. -/
def State.resetTake (s : State) : State := s.modPwr (fun p => { p with due := p.req.isSome })

end Sys2Proof.Machine
end

