-- ==== Sys2Proof/Machine/Pick.lean ====
section
/-! DEFINITION. A pick through the Loom (R73-R77, R88, R112-R116, R148, R157, R161, R174, R197, R201, R461), and pick sampling
(R392-R396). -/
namespace Sys2Proof.Machine

/-! ### Sampling -/

/-- One step of the sampler's LFSR, x^31 + x^28 + 1 (R392). -/
def lfsrStep (v : Nat) : Nat := (v * 2 % 2 ^ 31) + (if v.testBit 30 != v.testBit 27 then 1 else 0)

/-- Lane `l`, skein `k` lies within SCOPE (R392). -/
def State.inScope (s : State) (k : Nat) : Bool :=
  let c := s.reg (tlyA 0x80)
  let l := laneOf k
  match fld c 1 2 with
  | 0 => true
  | 1 => decide (l / 64 = fld c 3 3)
  | 2 => decide (l / 64 = fld c 3 3 ∧ l % 64 = fld c 6 6)
  | _ => decide (l / 64 = fld c 3 3 ∧ l % 64 = fld c 6 6 ∧ k % 160 = fld c 12 8)

/-- A stamp from a free value: the low bolt bits and a clock count below 400,000 (R393). -/
def freeStamp (v : Word) : Word := w32 (v.toNat / 2 ^ 19 * 2 ^ 19 + v.toNat % 2 ^ 19 % 400000)
def stampAt (bolt : Word) (clk : Nat) : Word := w32 (bolt.toNat % 2 ^ 13 * 2 ^ 19 + clk % 400000)

/-- A pick of skein `k` left the framer: in SYNC, or among those that its alignment buffer held when the framer left SYNC, after which
buffer writes stop (R57, R392). -/
def State.leftFramer (s : State) (k : Nat) : Bool :=
  let n := s.lane (laneOf k)
  decide (n.framer = .sync ∨ (s.rx k).tail < (n.fill + 159) / 160)

/-- The sampler sees a pick leave the framer: the tag, if it is tagged (R392). -/
def State.sampleIn (s : State) (p : PickIn) (k rho : Nat) : State × Option Sample :=
  let c := s.reg (tlyA 0x80)
  if ¬ (bit c 0 && s.inScope k && s.leftFramer k) then (s, none)
  else
    let port := portOf k
    let seed := (let v := fld (s.reg (tlyA 0x84)) 0 31
                 if v = 0 then 2 ^ 31 - 1 else v) ^^^ port
    let old := smGet 0 s.tly.smp.lfsr port
    let v := lfsrStep (if old = 0 then seed else old)
    let s1 := s.modTly (fun t => { t with smp := { t.smp with lfsr := smPut 0 t.smp.lfsr port v } })
    let rate := max 4 (min 24 (fld c 20 5))
    if v % 2 ^ rate ≠ 0 then (s1, none)
    else if atLeast1 (s.rf (tlyA 0x88) 0 8) ≤ s.tly.smp.tags then (s1.incReg (tlyA 0xA4), none)
    else
      let sid := s.reg (tlyA 0xA8)
      let b := if p.prevBolt then s.bolt - 1 else s.bolt
      ((s1.incReg (tlyA 0xA8)).modTly (fun t => { t with smp := { t.smp with tags := t.smp.tags + 1 } }),
       some { sid := sid, s0 := stampAt b p.clk, bolt := b, src := p.src.toNat, rho := rho, sthr := 127 })

/-- Cycles between two stamps (R393). -/
def latency (a b : Word) : Nat :=
  let bolts := (b.toNat / 2 ^ 19 + 2 ^ 13 - a.toNat / 2 ^ 19) % 2 ^ 13
  bolts * 400000 + b.toNat % 2 ^ 19 - a.toNat % 2 ^ 19

/-- What a sample record needs besides its sample (R394). -/
structure Fate where
  code : Nat
  thread : Bool := false
  prot : Bool := false
  store : Bool := false
  mcast : Bool := false
  /-- it was discarded in the alignment buffer; it reached the egress port tile -/
  early : Bool := false
  tile : Bool := true
  dst : Nat
  dthr : Nat := 127
  slot : Nat
deriving DecidableEq, Repr

/-- The histogram takes a delivered record (R396). -/
def State.histogram (s : State) (thread : Bool) (l : Nat) : State :=
  let sh := s.rf (tlyA 0x88) (if thread then 12 else 8) 4
  let bin := min 31 (l / 2 ^ sh)
  s.satReg (tlyA ((if thread then 0x180 else 0x100) + 4 * bin)) 1

/-- A copy passes stage `n` of R393: one discarded in the alignment buffer none after it, one that no egress tile takes those before the tile,
one that the selector does not take those before the selector. -/
def Fate.passes (f : Fate) (n : Nat) : Bool :=
  !f.early && (match n with
    | 3 => f.tile
    | 4 => f.thread
    | 5 => f.thread
    | 6 => f.tile
    | 7 => f.tile && decide (f.code = 0 ∨ f.code = 1 ∨ f.code = 4)
    | 8 => f.tile && decide (f.code = 0 ∨ f.code = 1 ∨ f.code = 4)
    | _ => true)

/-- Stamps 1 to 8 of a copy: free values for the stages it passed, all ones for the others (R393, DESIGN CHOICE, notes/assumptions/6.md). -/
def State.stamps (s : State) (f : Fate) : State × List Word :=
  (List.range 8).foldl (fun (a : State × List Word) i =>
    if f.passes (i + 1) then
      (let r := a.1.freeVal
       (r.2, a.2 ++ [freeStamp r.1]))
    else (a.1, a.2 ++ [0xFFFFFFFF])) (s, [])

/-- A sample record goes to the ring, or is lost where it is full (R395); it waits while the ring's bank is held (R371). -/
def State.sampleWrite (s : State) (bs : List Byte) : State :=
  let base := s.rf (tlyA 0x90) 5 18 * 32
  let sz := ringSize 4 12 (s.rf (tlyA 0x94) 0 4)
  let t := (s.reg (tlyA 0x98)).toNat % 2 ^ sz
  if s.tst.waitQ.any (fun x => match x with | .sample _ => true | _ => false) || s.winWaits 71 (base + 64 * t) 64 then
    s.modTst (fun t => { t with waitQ := t.waitQ ++ [.sample bs] })
  else if ringFull sz t (s.reg (tlyA 0x9C)).toNat then
    (s.setReg (tlyA 0xA0) (w32 ((s.rf (tlyA 0xA0) 0 16 + 1) % 2 ^ 16 + beAt bs 2 2 * 2 ^ 16))).irq (tlyA 0) 8
  else (s.agentWrite 71 (base + 64 * t) bs true).setReg (tlyA 0x98) (w32 (ringNext sz t))

/-- One sample record: the ring, then the histogram (R394-R396). -/
def State.sampleOut (s : State) (x : Sample) (f : Fate) : State :=
  let (s1, st) := s.stamps f
  let bs := beBytes 4 x.sid.toNat
    ++ [BitVec.ofNat 8 f.code, BitVec.ofNat 8 (f.thread.toNat + 2 * f.prot.toNat + 4 * f.store.toNat + 8 * (f.mcast || x.mc).toNat), 0, 0]
    ++ beBytes 3 x.src ++ beBytes 3 f.dst ++ [BitVec.ofNat 8 x.sthr, BitVec.ofNat 8 f.dthr] ++ beBytes 2 x.rho ++ beBytes 2 f.slot
    ++ [0, 0, 0, 0] ++ beBytes 4 x.s0.toNat ++ (st.map (fun w => beBytes 4 w.toNat)).flatten ++ beBytes 4 x.bolt.toNat
  let s2 := s1.sampleWrite bs
  if f.code = 0 ∨ f.code = 4 then s2.histogram f.thread (latency x.s0 (st.getD 7 0)) else s2

/-- A copy's record, where the pick is tagged. -/
def State.fate (s : State) (p : Pick) (f : Fate) : State :=
  match p.samp with
  | some x => s.sampleOut x f
  | none => s

/-! ### Destinations -/

/-- The member whose signal is bridged onto trunk egress position `d` (R148). -/
def State.bridgedTo (s : State) (d : Nat) : Option Nat :=
  s.prot.grp.findSome? (fun e => if e.2.ty = 3 ∧ e.2.brsig ≠ 0 ∧ s.memProt e.1 = d ∧ lsrPort d < 8 then some (s.memPos e.1 e.2.brsig) else none)

/-- The egress entry that position `d` follows: its own, or the bridged member's (R148). -/
def State.egEff (s : State) (d : Nat) : BitVec 64 :=
  match s.bridgedTo d with
  | some m => s.loom.act.egE m
  | none => s.loom.act.egE d

/-- Destinations of the active page, and protect positions under a bridge. -/
def State.dests (s : State) : List Nat :=
  let l := s.loom.act.eg.map (·.1)
  l ++ ((s.prot.grp.filter (fun e => decide (e.2.ty = 3 ∧ e.2.brsig ≠ 0))).map (fun e => s.memProt e.1)).filter (fun d => lsrPort d < 8 ∧ d ∉ l)

/-- Copies of the pick of `x`: destination, protect leg, slot (R73, R75). -/
def State.copies (s : State) (x : Nat) : List (Nat × Bool × Nat) :=
  let h := s.loom.act
  (s.dests.map (fun d =>
    let e := s.egEff d
    let q := lsrPort d
    (if decide (egMode e ≠ 0) && decide (h.source q (egSlot e) = some x) then [(d, false, egSlot e)] else []) ++
    (if decide (egMode e ≠ 0 ∧ q < 8 ∧ s.bridgedTo d = none) && egPvalid e && decide (h.source q (egPslot e) = some x) then
      [(d, true, egPslot e)] else []))).flatten

/-- An uncorrectable active entry steers `d`, or the member bridged onto it (R88, R148). -/
def State.eccAis (s : State) (d : Nat) : Bool :=
  s.loom.ecc.any (fun m => m.unc && !m.standby && decide ((s.bridgedTo d).getD d ∈ s.steered m.map m.key))

/-- The source that egress position `d` passes on, and the errorless group that forms its output (R148, R157, R160). -/
def State.chosen (s : State) (d : Nat) : Option Nat × Option Nat :=
  let e := s.egEff d
  let h := s.loom.act
  let q := lsrPort d
  let w := h.source q (egSlot e)
  match if egPvalid e ∧ q < 8 then s.dstGroup d else none with
  | some (g, sig) =>
    if (s.grp g).ty = 4 then (w, some g) else if (s.grp g).selsig = sig then (h.source q (egPslot e), none) else (w, none)
  | none => (w, none)

/-- A source whose picks come: a Fine loom output, or a skein of a tile that is awake. -/
def State.comes (s : State) (x : Option Nat) : Bool := x.any (fun x => decide (lsrPort x = 8) || s.awake (lsrPort x))

/-- The bolts W to W + 10 of a warm reset, in which every transmitted skein carries AIS (R435). -/
def State.warmAis (s : State) : Bool := match s.pwr.warmAt with | some w => decide (since s.bolt w ≤ 10) | none => false

/-- The pattern that destination `d` carries in place of switched picks, by rows 4 to 7 of R461 for a trunk position: none where it carries
picks. A MODE 1 destination whose source gives none, for want of a Reed entry or because its tile sleeps, carries AIS (R20, R73, R424). -/
def State.fillKind (s : State) (d : Nat) : Option PickKind :=
  if lsrPort d < 8 ∧ s.warmAis then some .ais
  else match egMode (s.egEff d) with
  | 0 => some .oci
  | 2 => some .lck
  | 3 => some .ais
  | _ =>
    if s.eccAis d || (decide (lsrPort d < 8) && !(s.port (lsrPort d)).linkUp) then some .ais
    else match s.chosen d with
      | (w, some g) => if s.comes w || s.comes (s.loom.act.source (lsrPort d) (egPslot (s.egEff d))) then none else
          (if (s.grp g).align = .aligned ∧ s.prot.store.any (fun e => decide (e.g = g)) then none else some .ais)
      | (w, none) => if s.comes w then none else some .ais

/-- The check of R77. -/
def egPasses (e : BitVec 64) (tag : Nat) : Bool := decide (tag = egTen e) || (egXg e && decide (tag = egXsrc e))

/-- A refused pick is counted and recorded (R77, R104, R108, R381). -/
def State.tenantViol (s : State) (d tag : Nat) (protect : Bool) : State :=
  let k := skNo d
  let s1 := (((s.noteTen (.violation d) true).incReg (elsA (lsrPort d) 0x44)).setReg (elsA (lsrPort d) 0x48) (w32 (lsrIdx d + tag * 2 ^ 14))).irq 0x800000 1
  (s1.count 2 k 0).modTx k (fun t => if protect then { t with violP := true } else { t with violW := true })

/-! ### Egress -/

/-- Every byte of a payload is the same: its words have parity 0. -/
def uniform (p : List Byte) : Bool := p.all (fun b => decide (some b = p.head?))

/-- An egress position transmits a pick in absolute round `r`; `gen`: the trail generator folds it (R201); `src`: the source whose own
rho 624 pick it is. A pick transmitted again in its round replaces the one before. -/
def State.transmit (s : State) (k r : Nat) (p : Pick) (gen sub : Bool) (src : Option Nat := none) : State :=
  let own := s.ownStream (laneOf k)
  s.modTx k (fun t =>
    let again := decide (t.round = r + 1)
    { t with out := p, round := r + 1, sub := sub, fx := t.fx || p.kind == .ais || p.kind == .oci || p.kind == .lck,
             line := smPut [] t.line (r % 625) p.payload,
             pat := t.pat && uniform p.payload,
             src624 := src.or t.src624,
             sent := if own then ((r, p.payload) :: (if again then t.sent.drop 1 else t.sent)).take 32 else [],
             gen := if gen then w32 (p.payload.foldl (crcReflByte polyC) t.gen.toNat) else t.gen,
             genN := if gen then t.genN + 1 else t.genN })

/-- FATE of a transmitted pick: delivered, or replaced by a pattern. -/
def fateOf (p : Pick) : Nat := p.repl.toNat

/-- The pick of leg `protect` that belongs at origin bolt `ob` and index `rho` of group `g`. -/
def State.held (s : State) (g : Nat) (protect : Bool) (ob : Word) (rho : Nat) : Option Pick :=
  (s.prot.store.find? (fun e => decide (e.g = g ∧ e.protect = protect ∧ e.ob = ob ∧ e.rho = rho))).map (·.pick)

/-- The choice of R174, with whether it is a substitution. In SINGLE and UNPROT there is none (R172, R177). -/
def chooseLeg (aligned : Bool) (sel other : Option Pick) : Pick × Bool :=
  match sel, other with
  | some a, some b => if a.valid then (a, false) else if aligned && b.valid then (b, true) else (a, false)
  | some a, none => (a, false)
  | none, some b => if aligned && b.valid then (b, true) else (forcedPick .ais, false)
  | none, none => (forcedPick .ais, false)

/-- The leg an errorless output takes first: the selected one, or the trailing one while the store fills (R172). -/
def Grp.outLeg (q : Grp) : Bool := if q.align = .single ∧ q.fill then !q.lead else decide (q.selsig = 1)

/-- The output of an errorless destination in absolute round `r` (R172-R176). -/
def State.errorlessOut (s : State) (g d r slot : Nat) : State :=
  let q := s.grp g
  let k := skNo d
  let x := wrapRounds ((r : Int) - q.tout)
  let ob : Word := BitVec.ofInt 32 (x / 625)
  let rho := (x % 625).toNat
  let selP := q.outLeg
  let c := if q.align = .acq ∨ r < q.gapTo then (forcedPick .ais, false)
           else chooseLeg (q.align == .aligned) (s.held g selP ob rho) (s.held g (!selP) ob rho)
  let again := (s.tx k).round = r + 1
  let was := decide again && (s.tx k).sub
  let s1 := if c.2 && !was then s.count 4 g 1
            else if was && !c.2 then s.modTly (fun t => { t with inc := smMod 0 t.inc (ctrKey 4 g 1) (· - 1) }) else s
  let s2 := s1.transmit k r c.1 false c.2
  let f : Fate := { code := if c.2 then 4 else fateOf c.1, prot := true, store := q.storing && (if c.2 then !selP else selP) == q.lead,
                    dst := d, slot := slot }
  let s3 := if again then s2 else s2.fate c.1 f
  match s3.held g (if c.2 then selP else !selP) ob rho with
  | some p => if again then s3 else s3.fate p { f with code := 2, store := q.storing && !f.store }
  | none => s3

/-- The position of a held pick on its leg, in rounds. -/
def StorePick.pos (e : StorePick) : Int := 625 * e.ob.toNat + e.rho

/-- A leg of an errorless pair brings a pick: it is held under its origin bolt and index (R169, R170). The store leg's go to the group's
region, which holds the last 24,576 beside the one now written; any other leg's to the pipeline of 0 to 4 rounds. A pick that is not the one of
its index (inserted by a slip or a recentre, or in the slot of a sleeping tile) takes no place there. -/
def State.holdPick (s : State) (g : Nat) (protect : Bool) (r : Nat) (p : Pick) : State :=
  let q := s.grp g
  let lim : Int := if q.storing ∧ protect = q.lead then 24576 else 4
  let n : StorePick :=
    { g := g, protect := protect, ob := BitVec.ofInt 32 (((r : Int) - q.base protect - p.rho + 312) / 625), rho := p.rho, pick := p }
  let far := fun (e : StorePick) =>
    let d := wrapRounds (n.pos - e.pos)
    decide (e.g = g ∧ e.protect = protect) && (decide (lim < d) || decide (d = 0))
  if q.align = .acq ∨ ¬ p.own then s else s.modProt (fun x => { x with store := x.store.filter (fun e => !far e) ++ [n] })

/-- The errorless group of destination `d`. -/
def State.pairOf (s : State) (d : Nat) : Option Nat := (s.chosen d).2

/-- What a leg brings to destination `d` once its entry and its tag are checked (R77, R88, R174). -/
def State.legPick (s : State) (d : Nat) (p : Pick) : Pick :=
  if s.eccAis d then { forcedPick .ais with valid := false, rho := p.rho, own := p.own, samp := p.samp }
  else if egPasses (s.egEff d) p.tag.toNat then p
  else { forcedPick .oci with valid := false, rho := p.rho, own := p.own, samp := p.samp }

/-- A copy of the pick of source `x` reaches trunk egress position `d` in round `round` of the bolt (R77, R461). An errorless pair holds it
whatever the position transmits (R161). -/
def State.egress (s : State) (x d : Nat) (protect : Bool) (slot : Nat) (p : Pick) (round : Nat) (fine mcast : Bool) : State :=
  let l := lsrLane d
  let k := skNo d
  let e := s.egEff d
  let r := s.absRound round
  let f : Fate := { code := 3, thread := fine, prot := egPvalid e, mcast := mcast, dst := d, slot := slot,
                    dthr := if fine then round % 125 else 127 }
  let p1 := s.legPick d p
  let s0 := match s.pairOf d with
    | some g => s.holdPick g protect r p1
    | none => s
  if ¬ s.awake (lsrPort d) then s0.fate p { f with tile := false }
  else if s.rb (lnA l 0x40) 14 then s0.fate p f
  else if s.lnTxpat l ≠ 0 then s0.fate p { f with code := 1 }
  else if s.lnLoop l = 1 then s0.fate p f
  else match s.fillKind d with
  | some kind =>
    (s0.transmit k r (forcedPick kind) fine false).fate p
      (if egMode e = 1 ∧ ¬ s.eccAis d ∧ ¬ s.warmAis then { f with code := 3, tile := (s.port (lsrPort d)).linkUp } else { f with code := 1 })
  | none =>
    let s1 := if egPasses e p.tag.toNat then s0 else s0.tenantViol d p.tag.toNat protect
    let src := if p.rho = 624 ∧ p.kind = .data ∧ ¬ fine then some (skNo x) else none
    match if egPvalid e then s.dstGroup d else none with
    | some (g, sig) =>
      if (s.grp g).ty = 4 then
        (let q := s.grp g
         let s2 := if q.align = .acq then s1.fate p1 { f with code := if protect = q.outLeg then 1 else 2 } else s1
         s2.errorlessOut g d r slot)
      else if decide ((s.grp g).selsig = sig) == protect then (s1.transmit k r p1 fine false src).fate p1 { f with code := fateOf p1 }
      else s1.fate p1 { f with code := 2 }
    | none =>
      if protect then s1.fate p1 { f with code := 2 }
      else (s1.transmit k r p1 fine false src).fate p1 { f with code := fateOf p1 }

/-- A copy reaches Fine loom input `f`: it is written to the buffer of its input thread (R113, R115, R124, R129). The buffer holds the last two
picks of a thread, and the pipeline one more (R114). MODE 2 or 3, or an entry of the Heddle in error, puts a pattern in its place (R72, R88). -/
def State.toFine (s : State) (f : Nat) (p : Pick) (round : Nat) (mcast : Bool) : State :=
  let t := 128 * f + p.rho % 125
  let pat := fun (k : PickKind) => ({ forcedPick k with rho := p.rho, samp := p.samp } : Pick)
  let p1 := match egMode (s.egEff (lsrOf 8 f)) with
    | 2 => pat .lck
    | 3 => pat .ais
    | _ => if s.eccAis (lsrOf 8 f) then pat .ais else p
  let q := { p1 with tag := BitVec.ofNat 12 (s.fine.act.tagE t), samp := p.samp.map (fun x => { x with sthr := p.rho % 125, mc := mcast }) }
  s.modFine (fun x =>
    let l := smGet [] x.buf t ++ [{ pick := q, round := s.absRound round }]
    { x with buf := smPut [] x.buf t (l.drop (l.length - 3)) })

/-- Every copy of a pick; none to a Fine loom input where `trunk` is set. -/
def State.fanOut (s : State) (x : Nat) (p : Pick) (round : Nat) (fine trunk : Bool) : State :=
  let l := s.copies x
  let m := decide (1 < l.length)
  seqAll (fun (c : Nat × Bool × Nat) s =>
    let q := { p with tag := BitVec.ofNat 12 (fld (s.loom.act.ingE (lsrPort x) c.2.2) 14 12) }
    if lsrPort c.1 = 8 then (if trunk then s else s.toFine (lsrIdx c.1) q round m) else s.egress x c.1 c.2.1 c.2.2 q round fine m) l s

/-- Lane or skein AIS from the integrated state alone, or a lost link: what a pick marked as preceding the onset does not
escape (R51, R174). -/
def State.heldAis (s : State) (k : Nat) : Bool :=
  let l := laneOf k
  !s.reach (portOf k) || s.effL l 0 || s.effL l 1 || s.effL l 3 || s.effL l 8 || (s.effL l 6 && s.rb (lnA l 0x40) 8) || s.skeinAis k

/-- What the framer of a lane in terminal loopback received of skein `k` where it left the alignment buffer in absolute round `r`: the pick
that the paired egress skein sent D rounds before (R58). Where the model holds none, as the row gives it. -/
def State.ownPick (s : State) (k r : Nat) (p : List Byte) : List Byte :=
  let t := s.tx k
  let o := (s.lane (laneOf k)).off
  if s.lnTxpat (laneOf k) = 1 then patPick (160 * ((r + 625 - o) % 625) + k % 160)
  else match t.sent.find? (fun e => decide (e.1 + o = r)) with
    | some e => e.2
    | none => if t.pat then t.out.payload else p

/-- The trail accumulator takes the pick, with what its codeword says, and what strikes it (R48, R197, R198). -/
def State.foldPick (s : State) (k lr : Nat) (p : PickIn) (payload : List Byte) : State :=
  let hit := fun (s : State) => s.when p.fecUnc (·.modLane (laneOf k) (fun n => { n with evt := n.evt + 1, unc := n.unc + 1 }))
  (if (s.rx k).rhoOf lr = 0 then hit (s.trailFold k lr payload) else (hit s).trailFold k lr payload).when p.accErr (·.accErr k)

/-- A looped lane sends the pick of lane round `lr` back on its paired egress lane (R9, R58): `line` as it came, `payload` descrambled. -/
def State.loopPick (s : State) (k r lr : Nat) (late : Bool) (line payload : List Byte) : State :=
  let i := pickPos k lr
  s.when (s.loops (laneOf k)) (fun s => (s.loopPut (laneOf k) (64 * i) (.bits (laneOf k) i 1 (lineNum line)) late).modTx k (fun t =>
    { t with out := { payload := payload, kind := .data }, round := r + 1, pat := false }))

/-- A pick that a slip or a recentre discards: its copies are records where it is tagged (R392, R394). -/
def State.lostPick (s : State) (p : PickIn) (k rho : Nat) : State :=
  let (s1, samp) := s.sampleIn p k rho
  let l := s1.copies p.src.toNat
  seqAll (fun (c : Nat × Bool × Nat) s =>
    s.fate { samp := samp } { code := 3, early := true, mcast := decide (1 < l.length), prot := egPvalid (s.egEff c.1), dst := c.1, slot := c.2.2 })
    l s1

/-- A pick of a trunk skein leaves its alignment buffer, or is discarded there. The AIS rounds of a recentre give no pick to a Fine loom input,
as those of a slip (R56, R116; DESIGN CHOICE, notes/assumptions/46.md). -/
def State.trunkPick (s : State) (p : PickIn) : State :=
  let x := p.src.toNat
  let k := skNo x
  let l := laneOf k
  let r := s.absRound p.round
  let inserted := decide (p.round < (s.lane l).aisRounds)
  let lr := if p.lost then p.round else (p.round + 625 - (s.lane l).off) % 625
  let late := (s.rx k).isLate lr
  let came := scramble (64 * pickPos k lr) p.payload
  let payload := if s.ownStream l then s.ownPick k r came else came
  if p.lost then ((s.foldPick k lr p payload).loopPick k r lr late p.payload payload).lostPick p k ((s.rx k).rhoOf lr)
  else
    let rho := (s.rx k).rhoOf lr
    let s1 := if inserted then s else (s.foldPick k lr p payload).loopPick k r lr late p.payload payload
    let ais := inserted || s.heldAis k || (s.srcAis k && !p.onset)
    let (s2, samp) := if inserted then (s1, none) else s1.sampleIn p k rho
    let q : Pick := { payload := if ais then List.replicate 64 0xFF else payload, kind := if ais || s.srcFlag k then .ais else .data,
                      valid := !ais && !p.fecUnc && !p.onset, rho := rho, own := !inserted, repl := ais, samp := samp }
    let s3 := if rho = 624 ∧ ¬ ais then
        s2.modRx k (fun v =>
          { v with fin := r + 1, finHdr := if late then r + 1 else v.finHdr, finSeq := if late then v.seq else v.finSeq,
                   finTrail := if late then v.trail else v.finTrail })
      else s2
    s3.fanOut x q p.round false inserted

/-- A rewoven pick of a Fine loom output: what THREAD_PICK_READ left at its position (R114). -/
def State.finePick (s : State) (p : PickIn) : State :=
  let x := p.src.toNat
  let q := smGet {} s.fine.outp (lsrIdx x)
  s.fanOut x { q with rho := p.round, valid := true } p.round true false

/-- Picks that a STEP align cuts off the present bolt (R236). -/
def State.cutPicks (s : State) : Nat := (-s.beat.alStep).toNat

/-- A pick at the fabric: of a Fine loom output, of a trunk skein, or AIS in the slot of a tile that sleeps (R20, R424). A round that a STEP
align cuts off the bolt brings none (R236). -/
def State.switchPick (s : State) (p : PickIn) : State :=
  let s0 := s.incReg 0x801058 p.sbe
  if ¬ p.lost ∧ 100000 ≤ 160 * p.round + s.cutPicks then s
  else if lsrPort p.src.toNat = 8 then s0.finePick p
  else if s.awake (lsrPort p.src.toNat) then s0.trunkPick p
  else if p.lost then s
  else s0.fanOut p.src.toNat { forcedPick .ais with valid := false, own := false, rho := p.round } p.round false false

end Sys2Proof.Machine
end

