-- ==== Sys2Proof/Machine/Tally.lean ====
section
/-! DEFINITION. Tally: counters and folds, reads and clears, snapshots, bolt records, PERF bins (R380-R398). -/
namespace Sys2Proof.Machine

/-! ### Counters (R381, R383) -/

/-- A counter by CLASS, INDEX and CTR. -/
def State.ctr (s : State) (cls idx c : Nat) : Ctr := smGet {} s.tly.live (ctrKey cls idx c)

/-- Objects of a class, and its counters. -/
def ctrOk (cls idx c : Nat) : Bool :=
  match cls with
  | 0 => decide (idx < 512 ∧ c ≤ 6)
  | 1 => decide (idx < 81920 ∧ c ≤ 3)
  | 2 => decide (idx < 81920 ∧ c ≤ 1)
  | 3 => trefValid idx && decide (c ≤ 1)
  | 4 => decide (idx < 8192 ∧ c ≤ 5)
  | 5 => decide (idx < 4096 ∧ c ≤ 3)
  | 6 => decide (idx < 8 ∧ c ≤ 5)
  | _ => decide (idx < 64 ∧ c ≤ 4)

/-- Number of counters of an object of a class. -/
def ctrCount (cls : Nat) : Nat :=
  match cls with | 0 => 7 | 1 => 4 | 2 => 2 | 3 => 2 | 4 => 6 | 5 => 4 | 6 => 6 | _ => 5

/-- Adds to a counter: 48 bits, wrapping, with OVF (R383). -/
def Ctr.add (c : Ctr) (n : Nat) : Ctr := { v := (c.v + n) % 2 ^ 48, ovf := c.ovf || decide (2 ^ 48 ≤ c.v + n) }

/-- A counter as a counter word: big-endian, OVF in bit 63 (R383). -/
def Ctr.word (c : Ctr) : List Byte := beBytes 8 (c.v + c.ovf.toNat * 2 ^ 63)

/-- TLY_OVF_SUM: the classes that have an OVF set. -/
def State.ovfSum (s : State) : Word :=
  w32 (((List.range 8).filter (fun c => s.tly.live.any (fun e => e.2.ovf && decide (e.1 / 2 ^ 22 = c)))).map (2 ^ ·)).sum

/-! ### The fold (R380, R385, R386) -/

/-- A register word as it stood at round 0 of the bolt (R386). -/
def State.oldReg (s : State) (a : Nat) : Word :=
  match s.tly.tenOld.find? (fun e => decide (e.1 = a)) with | some e => e.2 | none => s.reg a

/-- Word address of a skein's tenant table entry (R297). -/
def tenTabA (k : Nat) : Nat := 0xB20000 + 0x5000 * (k / 10240) + 0x140 * (k / 160 % 64) + 4 * (k % 160 / 2)

/-- Tenants at round 0 of the bolt: of a skein position, of an output thread. -/
def State.oldTen (s : State) (k : Nat) : Nat := fld (s.oldReg (tenTabA k)) (k % 2 * 16) 12
def State.oldThreadTen (s : State) (t : Nat) : Nat := fld (s.oldReg (threadTenA true (t / 128) (t % 128))) (t % 128 % 2 * 16) 12

/-- The TENANT counter that takes the events of another counter, for the tenant concerned. -/
def State.tenKey (s : State) (key : Nat) : Option Nat :=
  let idx := key % 2 ^ 22 / 16
  match key / 2 ^ 22, key % 16 with
  | 1, 0 => some (ctrKey 5 (s.oldTen idx) 1)
  | 2, 0 => some (ctrKey 5 (s.oldTen idx) 0)
  | 3, 0 => some (ctrKey 5 (s.oldThreadTen idx) 0)
  | 4, 1 => some (ctrKey 5 (s.oldTen (skNo (s.gDst idx))) 3)
  | _, _ => none

/-- Skeins with a skein defect declared, of ports whose tile is awake and whose link was up throughout the bolt (R387). -/
def State.defSkeins (s : State) : List Nat :=
  ((s.integ.filter (fun e => decide (0x10000 ≤ e.1) && e.2.decl)).map (fun e => (e.1 - 0x10000) / 8)).eraseDups.filter (fun k =>
    s.awake (k / 10240) && !(s.port (k / 10240)).lostIn)

/-- Adds to an increment map. -/
def addInc (m : SMap Nat) (key n : Nat) : SMap Nat := smMod 0 m key (· + n)

/-- The bolt's weaver clocks, in thousands: 512 for a whole bolt, a free value below that for a part of it (R381). -/
def State.busyInc (s : State) : State :=
  seqAll (fun w s =>
    let x := s.weaver w
    let s1 := s.modWeaver w (fun x => { x with mixed := false })
    if x.mixed then
      (let r := s.freeVal
       (r.2.modWeaver w (fun x => { x with mixed := false })).count 7 w 3 (r.1.toNat % 512))
    else if wvrBusy x.st then s1.count 7 w 3 512 else s1) (List.range 64) s

/-- The ports of lane, skein and trunk counters: their increments go with the link of that port (R387). -/
def ctrPort (key : Nat) : Option Nat :=
  let idx := key % 2 ^ 22 / 16
  match key / 2 ^ 22 with
  | 0 => some (idx / 64) | 1 => some (idx / 10240) | 2 => some (idx / 10240) | 6 => some idx | _ => none

/-- At a boundary the increments of the bolt ended go to the counter store: those of a port whose link was lost are lost, and the
TENANT class takes its events (R380, R386, R387). -/
def State.passInc (s : State) : State :=
  let s0 := seqAll (fun k s => s.count 5 (s.oldTen k) 2) s.defSkeins s.busyInc
  let kept := s0.tly.inc.filter (fun e => match ctrPort e.1 with | some p => !(s0.port p).lostIn | none => true)
  let all := kept.foldl (fun m e => match s0.tenKey e.1 with | some k => addInc m k e.2 | none => m) kept
  s0.modTly (fun t => { t with inc := [], fold := all, foldDue := true, tenOld := [] })

/-- The fold becomes visible: counters add, CLEARs take effect (R380, R383, R385). -/
def State.tallyFold (s : State) : State :=
  let t := s.tly
  let live := t.fold.foldl (fun m e => smMod {} m e.1 (fun c => c.add e.2)) t.live
  let wraps := t.fold.any (fun e => decide (2 ^ 48 ≤ (smGet {} t.live e.1).v + e.2))
  let live2 := t.clr.foldl (fun m k => smPut {} m k { v := smGet 0 t.fold k % 2 ^ 48, ovf := false }) live
  let s1 := (s.modTly (fun t => { t with live := live2, fold := [], foldDue := false, clr := [] })).setReg (tlyA 0x58) s.bolt
  let s2 := if t.clr = [] then s1 else s1.setRf (tlyA 0x4C) 0 1 (t.rd.isSome).toNat
  s2.when wraps (·.irq (tlyA 0) 1)

/-- TALLY_FOLD (R380). -/
def execTallyFold (s : State) : Out := .next (s.when s.tly.foldDue (·.tallyFold))

/-! ### Reads and clears (R384, R385) -/

/-- A write of TLY_CCMD: READ, then CLEAR. -/
def State.ccmd (s : State) (v : Word) : State :=
  let c := s.reg (tlyA 0x44)
  let idx := fld c 0 18
  let cls := fld c 18 3
  let n := fld c 21 4
  let s1 :=
    if ¬ bit v 0 then s
    else if ctrOk cls idx n then (s.setReg (tlyA 0x4C) 1).modTly (fun t => { t with rd := some c })
    else s.setRf (tlyA 0x4C) 1 1 1
  if ¬ bit v 1 then s1
  else if n = 15 ∧ ctrOk cls idx 0 then
    (s1.setReg (tlyA 0x4C) 1).modTly (fun t => { t with clr := t.clr ++ (List.range (ctrCount cls)).map (ctrKey cls idx) })
  else if ctrOk cls idx n then (s1.setReg (tlyA 0x4C) 1).modTly (fun t => { t with clr := t.clr ++ [ctrKey cls idx n] })
  else s1.setRf (tlyA 0x4C) 1 1 1

/-- TLY_READ (R384). -/
def execTlyRead (m : Mid) (s : State) : Out := .next (s.write4 m (tlyA 0x48) 1 (fun s => s.ccmd 1))
/-- TLY_CLEAR (R385). -/
def execTlyClear (m : Mid) (s : State) : Out := .next (s.write4 m (tlyA 0x48) 2 (fun s => s.ccmd 2))

/-- A read completes: TLY_CDATA holds the value (R384). -/
def State.tlyReadDone (s : State) (c : Word) : State :=
  let key := ctrKey (fld c 18 3) (fld c 0 18) (fld c 21 4)
  let x := smGet {} (if bit c 25 then s.tly.snap else s.tly.live) key
  (((s.setReg (tlyA 0x50) (w32 x.v)).setReg (tlyA 0x54) (w32 (x.v / 2 ^ 32 + x.ovf.toNat * 2 ^ 31))).setRf (tlyA 0x4C) 0 1
    (!s.tly.clr.isEmpty).toNat).modTly (fun t => { t with rd := none })

/-- A read is over within 1 round, whether or not a row tells of it. -/
def State.tlyReadLeft (s : State) : State := match s.tly.rd with | some c => s.tlyReadDone c | none => s

/-- TLY_READ_DONE (R384). -/
def execTlyReadDone (s : State) : Out := .next s.tlyReadLeft

/-! ### Snapshots (R388) -/

/-- A write of TLY_SNAP_CMD: NOW, AT; a later command replaces one pending. -/
def State.snapCmd (s : State) (v : Word) : State :=
  let s1 := s.when (bit v 0) (·.modTly (fun t => { t with snapNow := true, snapAt := false }))
  if bit v 1 then
    (let d := s.reg (tlyA 0x64) - s.bolt
     let after := decide (d ≠ 0 ∧ d.toNat < 2 ^ 31)
     s1.modTly (fun t => { t with snapNow := !after, snapAt := after }))
  else s1

/-- TLY_SNAP_NOW (R388). -/
def execTlySnapNow (m : Mid) (s : State) : Out := .next (s.write4 m (tlyA 0x60) 1 (fun s => s.snapCmd 1))
/-- TLY_SNAP_AT (R388). -/
def execTlySnapAt (m : Mid) (s : State) : Out := .next (s.write4 m (tlyA 0x60) 2 (fun s => s.snapCmd 2))

/-- The causes of a snapshot at the boundary of the present bolt. -/
def State.snapTake (s : State) : State :=
  let n := s.rf (tlyA 0x6C) 0 24
  let at_ := s.tly.snapAt && decide (s.reg (tlyA 0x64) = s.bolt)
  if s.tly.snapNow || at_ || decide (n ≠ 0 ∧ s.bolt.toNat % n = 0) then
    s.modTly (fun t => { t with snapDue := some s.bolt, snapNow := false, snapAt := t.snapAt && !at_ })
  else s

/-- The snapshot becomes visible. -/
def State.snapshot (s : State) (b : Word) : State :=
  ((s.modTly (fun t => { t with snap := t.live, snapDue := none })).setReg (tlyA 0x68) b).irq (tlyA 0) 2

/-- SNAPSHOT (R388): due once the fold of its boundary is visible. -/
def execSnapshot (s : State) : Out :=
  .next (match s.tly.snapDue with | some b => if s.tly.foldDue then s else s.snapshot b | none => s)

/-! ### Bolt records (R389, R390) -/

/-- The 8 KiB record of port `p`. -/
def State.boltRecord (s : State) (p : Nat) : List Byte :=
  let t := s.tly
  let fl := smGet 0 t.recPort p
  let m := t.recBolt.toNat
  let head := beBytes 4 m ++ [BitVec.ofNat 8 p, BitVec.ofNat 8 fl] ++ List.replicate 54 0 ++ beBytes 4 (m ^^^ 0x5A5A5A5A)
  if fl ≠ 0 then padTo 8192 head
  else
    let lanes := (List.range 64).flatMap (fun n => padTo 32 (smGet [] t.recLane (64 * p + n)))
    let sk := (List.range 5120).map (fun j =>
      BitVec.ofNat 8 (smGet 0 t.recSk (10240 * p + 2 * j) + 16 * smGet 0 t.recSk (10240 * p + 2 * j + 1)))
    padTo 8192 (head ++ lanes ++ sk)

/-- Window offset of port `p`'s record for bolt `m` (R389). -/
def State.recAt (s : State) (p : Nat) (m : Word) : Nat := s.rf (tlyA 0x70) 19 4 * 2 ^ 19 + 0x10000 * p + 0x2000 * (m.toNat % 8)

/-- Tally writes one port's record; a refused write is counted (R389), and one to a held bank waits (R371). -/
def State.writeRecord (s : State) (p : Nat) : State :=
  let a := s.recAt p s.tly.recBolt
  let ok := decide (a / 0x20000 < 48) && s.mayWrite (a / 0x20000) 71 && decide (s.bankKind (a / 0x20000) ≠ 4)
  if s.winWaits 71 a 8192 then s else
  let s1 := s.agentWrite 71 a (s.boltRecord p) false
  let s2 := if ok then s1 else (s1.incReg (tlyA 0x78)).irq (tlyA 0) 4
  let s3 := s2.modTly (fun t => { t with recLeft := t.recLeft.filter (· ≠ p) })
  if s3.tly.recLeft = [] then s3.setReg (tlyA 0x74) s.tly.recBolt else s3

/-- BOLT_RECORD_WRITE (R389). -/
def execBoltRecordWrite (p : Fin 8) (s : State) : Out :=
  .next (s.when (decide (p.val ∈ s.tly.recLeft)) (·.writeRecord p.val))

/-- HCLR clears both histograms (R396). -/
def State.hclr (s : State) : State := seqAll (fun i s => s.setReg (tlyA (0x100 + 4 * i)) 0) (List.range 64) s

/-- TLY_HCLR (R396). -/
def execTlyHclr (m : Mid) (s : State) : Out := .next (s.write4 m (tlyA 0x8C) 1 (fun s => s.hclr))

/-! ### PERF bins (R279, R391) -/

/-- Adds lists of numbers place by place. -/
def addL : List Nat → List Nat → List Nat
  | [], b => b
  | a, [] => a
  | x :: a, y :: b => (x + y) :: addL a b

/-- A whole record of a bolt: bytes 60-63 and BOLT agree (R389). -/
def recWhole (bs : List Byte) (m : Word) : Bool :=
  decide (beAt bs 0 4 = m.toNat ∧ beAt bs 60 4 = m.toNat ^^^ 0x5A5A5A5A)

/-- ES, SES, UAB, FEC_UNC, FEC_COR, BIP of lane `n` in a bolt record. -/
def recLaneOf (bs : List Byte) (n : Nat) : List Nat :=
  let e := bytesAt bs (64 + 32 * n) 32
  let f := beAt e 8 4
  [f % 2, f / 2 % 2, f / 4 % 2, beAt e 4 2, beAt e 0 4, beAt e 6 1]

/-- TRAIL_BAD, TRAIL_UNEV, AIS_B, FX_B of skein `i` in a bolt record. -/
def recSkOf (bs : List Byte) (i : Nat) : List Nat :=
  let v := ((bs.drop (2112 + i / 2)).headD 0).toNat / (if i % 2 = 1 then 16 else 1)
  [v % 2, v / 2 % 2, v / 4 % 2, v / 8 % 2]

/-- A bin takes a bolt record. -/
def PerfBin.take (b : PerfBin) (bs : List Byte) : PerfBin :=
  if ((bs.drop 5).headD 0).toNat % 4 ≠ 0 then { b with lost := b.lost + 1 }
  else
    { b with
      lanes := (List.range 64).foldl (fun m n =>
        let v := recLaneOf bs n
        if v.sum = 0 then m else smMod [] m n (addL v)) b.lanes
      sk := (List.range 10240).foldl (fun m i =>
        let v := recSkOf bs i
        if v.sum = 0 then m else smMod [] m i (addL v)) b.sk }

/-- Thread counters of the snapshot for the outputs of a PERF instance (R391). -/
def State.snapThreads (s : State) (inst : Nat) : SMap Nat :=
  (s.tly.snap.filter (fun e => decide (e.1 / 2 ^ 22 = 3 ∧ e.1 % 2 ^ 22 / 16 / 128 % 8 = inst))).map (fun e => (e.1, e.2.v))

/-- The thread entries of a bin: TREF, TVIOL and AIS_P as differences between two snapshots. -/
def threadEntries (a b : SMap Nat) : List (Nat × List Nat) :=
  ((b.map (fun e => e.1 % 2 ^ 22 / 16)).eraseDups.map (fun t =>
    let d := fun c => (smGet 0 b (ctrKey 3 t c) + 2 ^ 48 - smGet 0 a (ctrKey 3 t c)) % 2 ^ 48
    (t, [d 0, d 1, 0, 0]))).filter (fun e => decide (e.2.sum ≠ 0))

/-- One 16-byte entry (R391). -/
def binEntry (kind : Nat) (e : Nat × List Nat) : List Byte :=
  beBytes 3 (e.1 + kind * 2 ^ 23) ++ [0] ++ beBytes 4 (min 0xFFFFFFFF (e.2.getD 0 0)) ++ beBytes 4 (min 0xFFFFFFFF (e.2.getD 1 0))
    ++ beBytes 2 (min 65535 (e.2.getD 2 0)) ++ beBytes 2 (min 65535 (e.2.getD 3 0))

/-- The 8 KiB record of a bin that ends with bolt `m`; `th` are its thread entries, none without both snapshots; `noEnd`: that of END + 1 was
not taken. -/
def binRecord (b : PerfBin) (m : Word) (inst : Nat) (th : Option (List (Nat × List Nat))) (noEnd : Bool) : List Byte :=
  let es := b.sk.map (binEntry 0) ++ (th.getD []).map (binEntry 1)
  let fl := (decide (0 < b.lost)).toNat + 2 * (decide (256 < es.length)).toNat + 4 * noEnd.toNat
  let lane := fun n =>
    let v := smGet [] b.lanes n
    beBytes 4 (v.getD 0 0) ++ beBytes 4 (v.getD 1 0) ++ beBytes 4 (v.getD 2 0) ++ beBytes 4 (v.getD 3 0) ++ beBytes 8 (v.getD 4 0)
      ++ beBytes 4 (v.getD 5 0) ++ [0, 0, 0, 0]
  padTo 8192 (beBytes 4 b.start.toNat ++ beBytes 4 m.toNat ++ [BitVec.ofNat 8 inst, BitVec.ofNat 8 fl]
    ++ beBytes 2 (min 256 es.length) ++ beBytes 4 (es.length - 256) ++ beBytes 4 b.lost ++ List.replicate 44 0
    ++ (List.range 64).flatMap lane ++ (es.take 256).flatten)

/-- Weaver `w` writes a bin record in slot `i`: 16 slots a bank. -/
def State.putBin (s : State) (w i : Nat) (bs : List Byte) : State :=
  match (s.banksOf w)[i / 16]? with
  | some b => s.serviceWrite w (0x20000 * b + 0x2000 * (i % 16)) bs
  | none => s

/-- A bin of length `n` takes the record of bolt `m`; at its last bolt it is written to its slot and starts again. The thread counters at START are
those of the snapshot of START, where it was taken; a bin of which the role missed earlier bolts starts with this one (R391; DESIGN CHOICE,
notes/assumptions/26.md). -/
def State.perfBin (s : State) (w inst n slot0 slots : Nat) (b : PerfBin) (m : Word) (bs : List Byte) : State × PerfBin :=
  let st := w32 (m.toNat / n * n)
  let at_ := fun (x : Word) => if s.reg (tlyA 0x68) = x then some (s.snapThreads inst) else none
  let b0 : PerfBin := if b.start = st then { b with th0 := b.th0.or (at_ st) } else { start := st, th0 := at_ st }
  let b1 := if recWhole bs m then b0.take bs else b0
  if m.toNat % n ≠ n - 1 then (s, b1)
  else
    let now := at_ (m + 1)
    let th := match b1.th0, now with | some a, some c => some (threadEntries a c) | _, _ => none
    (s.putBin w (slot0 + m.toNat / n % slots) (binRecord b1 m inst th now.isNone), { start := m + 1, th0 := now })

/-- The PERF role of port `p` reads its record of the bolt ended and accumulates its bins (R279, R391). -/
def State.perfCollect (s : State) (w p : Nat) : State :=
  let m := s.bolt - 1
  if s.winWaits (BitVec.ofNat 8 w) (s.recAt p m) 8192 then s else
  let s := s.wakeFor w
  let bs := s.winBytes (s.recAt p m) 8192
  let x := smGet {} s.tly.perf p
  let (s1, q) := (s.winTouch (s.recAt p m) 8192).perfBin w p 3515625 0 32 x.q m bs
  let (s2, d) := s1.perfBin w p 337500000 32 7 x.d m bs
  s2.modTly (fun t => { t with perf := smPut {} t.perf p { q := q, d := d, last := some m } })

/-- Once a bolt, by the weaver that holds PERF for the port, when its record and any snapshot are written. -/
def State.perfStep (s : State) (p : Nat) : State :=
  match s.holder 3 p with
  | some w => s.when (decide ((smGet {} s.tly.perf p).last ≠ some (s.bolt - 1)) && decide (p ∉ s.tly.recLeft)
      && decide (s.tly.snapDue = none)) (·.perfCollect w p)
  | none => s

/-- PERF_COLLECT (R279). -/
def execPerfCollect (p : Fin 8) (s : State) : Out := .next (s.perfStep p.val)

end Sys2Proof.Machine
end

