-- ==== Sys2Proof/Machine/Tenant.lean ====
section
/-! DEFINITION. The tenant service (R297-R302, R307, R308): queries, handoffs, events. The byte layouts that the rules leave open,
and whose tenant a group or thread goes by, are in notes/assumptions/27.md (DESIGN CHOICE). -/
namespace Sys2Proof.Machine

/-- A write of a tenant table word; its word at round 0 is kept for the fold (R386). -/
def State.setTenReg (s : State) (a : Nat) (v : Word) : State :=
  let old := if s.tly.tenOld.any (fun e => decide (e.1 = a)) then s.tly.tenOld else s.tly.tenOld ++ [(a, s.reg a)]
  (s.modTly (fun t => { t with tenOld := old })).setReg a v

/-- Sets the tenant of skein position `k` in the tenant table (R297). -/
def State.putTenant (s : State) (k t : Nat) : State :=
  s.setTenReg (tenTabA k) (setFld (s.reg (tenTabA k)) (k % 2 * 16) 12 t)

/-! ### Requests (R300) -/

def tqOp (r : List Byte) : Nat := beAt r 2 1
def tqKeep (r : List Byte) : Bool := bit (r.getD 3 0) 0
def tqTenant (r : List Byte) : Nat := beAt r 4 2 % 4096
def tqNew (r : List Byte) : Nat := beAt r 6 2 % 4096
def tqArg (r : List Byte) : Nat := beAt r 14 2
/-- OBJ: a system thread address (R258). -/
def tqObj (r : List Byte) : Nat := beAt r 8 6 % 2 ^ 42

/-- An object of a request. -/
inductive TenObj where
  | bad
  | skein (k : Nat)
  | thread (t : Nat)
deriving DecidableEq, Repr

/-- The skein position of a 35-bit address with device field 0 or this device's ID. -/
def State.objSkein (s : State) (a : Nat) : Option Nat :=
  if (a / 2 ^ 17 = 0 ∨ a / 2 ^ 17 = s.devId) ∧ a % 256 < 160 then
    some ((a / 2 ^ 14 % 8 * 64 + a / 2 ^ 8 % 64) * 160 + a % 256)
  else none

/-- What OBJ names: a position, or the thread of the Fine loom output that feeds its egress. -/
def State.obj (s : State) (r : List Byte) : TenObj :=
  match s.objSkein (tqObj r / 128) with
  | none => .bad
  | some k =>
    let t := tqObj r % 128
    if t = 127 then .skein k
    else if t < 125 then (match s.fineOut k with | some f => .thread (128 * f + t) | none => .bad)
    else .bad

/-- Tenant of an object (R299): a position's in the tenant table, an output thread's in the thread tenant table. -/
def State.objTenant (s : State) : TenObj → Nat
  | .bad => 0
  | .skein k => s.tenTab k
  | .thread t => s.threadTen true t

/-- A requester may see what belongs to tenant `t` (R299). -/
def maySee (req t : Nat) : Bool := decide (req = 0 ∨ req = t)

/-- A result record (R300). -/
def tenResult (r : List Byte) (status : Nat) (data : List Byte) (flags : Nat := 0) (detail : Nat := 0) (cbolt : Word := 0) : List Byte :=
  r.take 16 ++ [BitVec.ofNat 8 status, BitVec.ofNat 8 flags] ++ beBytes 2 detail ++ beBytes 4 cbolt.toNat ++ padTo 104 data

/-- The weaver that serves TENANT (R279). -/
def State.tenSvc (s : State) : Option Nat := s.holder 4 0
/-- A result, an event cannot be written now. -/
def State.rsFull (s : State) : Bool := s.svcStuck (s.tenSvc.getD 0) (tenA 0x60) (tenA 0x64) (tenA 0x68) (tenA 0x6C) 128
def State.tevFull (s : State) : Bool := s.svcStuck (s.tenSvc.getD 0) (tenA 0x70) (tenA 0x74) (tenA 0x78) (tenA 0x7C) 32

/-- Writes held results and events while their rings have room. -/
def State.tenDrain (w : Nat) : Nat → State → State
  | 0, s => s
  | n + 1, s =>
    match s.ten.heldRs, s.rsFull with
    | r :: t, false =>
      State.tenDrain w n (((s.ringWrite w (tenA 0x60) (tenA 0x64) (tenA 0x68) r).modTen (fun x => { x with heldRs := t })).irq (tenA 0) 1)
    | _, _ =>
      match s.ten.heldEv, s.tevFull with
      | e :: t, false =>
        State.tenDrain w n (((s.ringWrite w (tenA 0x70) (tenA 0x74) (tenA 0x78) e).modTen (fun x => { x with heldEv := t })).irq (tenA 0) 2)
      | _, _ => s

/-- Puts a result out: into the ring, held, or lost with its TAG (R300, R307). -/
def State.tenOut (s : State) (w : Nat) (r : List Byte) : State :=
  let s1 := State.tenDrain w 1280 s
  if s1.ten.heldRs = [] ∧ ¬ s1.rsFull then (s1.ringWrite w (tenA 0x60) (tenA 0x64) (tenA 0x68) r).irq (tenA 0) 1
  else if s1.ten.heldRs.length < 256 then s1.modTen (fun x => { x with heldRs := x.heldRs ++ [r] })
  else (s1.setReg (tenA 0x80) (w32 ((s1.rf (tenA 0x80) 0 16 + 1) % 65536 + beAt r 0 2 * 65536))).irq (tenA 0) 4

/-- Puts an event out (R301). -/
def State.tenEvOut (s : State) (w : Nat) (e : List Byte) : State :=
  let s1 := State.tenDrain w 1280 s
  if s1.ten.heldEv = [] ∧ ¬ s1.tevFull then (s1.ringWrite w (tenA 0x70) (tenA 0x74) (tenA 0x78) e).irq (tenA 0) 2
  else if s1.ten.heldEv.length < 1024 then s1.modTen (fun x => { x with heldEv := x.heldEv ++ [e] })
  else (s1.incReg (tenA 0x84)).irq (tenA 0) 4

/-- The next request: none without a service, with the ring empty, or while a handoff is in progress (answers go in ring order). -/
def State.tenReq (s : State) : Option (Nat × List Byte) :=
  match s.tenSvc with
  | none => none
  | some w =>
    if s.ten.ho.isSome then none
    else (s.ringPeek w (tenA 0x50) (tenA 0x54) (tenA 0x58) (tenA 0x5C) 32).map (fun r => (w, r))

/-- Serves the next request where its OP is `op`; an unknown OP gets BAD_OP. -/
def State.tenServe (s : State) (op : Nat) (f : Nat → List Byte → State → State) : State :=
  match s.tenReq with
  | none => s
  | some (w, r) =>
    let s1 := s.ringTake w (tenA 0x50) (tenA 0x54) (tenA 0x5C) 32
    if tqOp r = op then f w r s1
    else if 1 ≤ tqOp r ∧ tqOp r ≤ 5 then s
    else s1.tenOut w (tenResult r 4 [])

/-! ### LIST, STATE, COUNT, PROT -/

/-- The 35-bit address of position `k`. -/
def State.addrOf (s : State) (k : Nat) : Nat := skeinAddr s.devId k

/-- LIST: up to 17 positions of the requester from OBJ upward. -/
def State.tenList (s : State) (w : Nat) (r : List Byte) : State :=
  match s.objSkein (tqObj r / 128) with
  | none => s.tenOut w (tenResult r 3 [])
  | some k =>
    let l := ((span k (81920 - k)).filter (fun i => decide (s.tenTab i = tqTenant r))).take 18
    s.tenOut w (tenResult r 0 ((l.take 17).flatMap (fun i => beBytes 6 (s.addrOf i))) (if l.length = 18 then 2 else 0))

/-- TEN_LIST (R300). -/
def execTenList (s : State) : Out := .next (s.tenServe 1 (fun w r s => s.tenList w r))

/-- Source address of a connected destination, and XT: zero where it is another tenant's; a Fine loom position has no address. -/
def State.srcShown (s : State) (req : Nat) (x : Option Nat) : Nat × Bool :=
  match x with
  | none => (0, false)
  | some x => if maySee req (s.lsrTen x) then (if lsrPort x < 8 then s.addrOf (skNo x) else 0, false) else (0, true)

/-- STATE of a position: skein defect bits, MODE, SLOT, source address. -/
def State.tenSkeinState (s : State) (req k : Nat) : List Byte × Bool :=
  let d := lsrOfNo k
  let e := s.loom.act.egE d
  let defs := ((List.range 5).map (fun i => if s.declS k i && !s.maskedS k i then 2 ^ i else 0)).sum
  let src := s.srcShown req (if egMode e = 0 then none else s.loom.act.source (lsrPort d) (egSlot e))
  (beBytes 1 defs ++ beBytes 1 (egMode e) ++ beBytes 2 (egSlot e) ++ beBytes 6 src.1, src.2)

/-- STATE of an output thread: MODE, source TREF. -/
def State.tenThreadState (s : State) (req t : Nat) : List Byte × Bool :=
  let e := s.fine.act.outE t
  let hide := decide (outMode e ≠ 0) && !maySee req (s.threadTen false (outSrc e))
  (beBytes 1 (outMode e) ++ beBytes 3 (if hide || decide (outMode e = 0) then 0 else outSrc e), hide)

/-- An object that a requester may not see, or that is none: its STATUS. -/
def State.objFail (s : State) (r : List Byte) : Option Nat :=
  match s.obj r with
  | .bad => some 3
  | o => if maySee (tqTenant r) (s.objTenant o) then none else some 2

/-- Answers about the object of a request. -/
def State.tenAbout (s : State) (w : Nat) (r : List Byte) (f : TenObj → List Byte × Bool) : State :=
  match s.objFail r with
  | some e => s.tenOut w (tenResult r e [])
  | none => let x := f (s.obj r)
            s.tenOut w (tenResult r 0 x.1 x.2.toNat)

/-- TEN_STATE (R300). -/
def execTenState (s : State) : Out :=
  .next (s.tenServe 2 (fun w r s => s.tenAbout w r (fun o => match o with
    | .skein k => s.tenSkeinState (tqTenant r) k
    | .thread t => s.tenThreadState (tqTenant r) t
    | .bad => ([], false))))

/-- Counter words of a class and index. -/
def State.ctrWords (s : State) (cls idx n : Nat) : List Byte := (List.range n).flatMap (fun c => (s.ctr cls idx c).word)

/-- TEN_COUNT (R300, R383). -/
def execTenCount (s : State) : Out :=
  .next (s.tenServe 3 (fun w r s => s.tenAbout w r (fun o => match o with
    | .skein k => (s.ctrWords 1 k 4 ++ s.ctrWords 2 k 2, false)
    | .thread t => (s.ctrWords 3 t 2, false)
    | .bad => ([], false))))

/-- Destinations of a group. -/
def State.grpDsts (s : State) (g : Nat) : List Nat :=
  if (s.grp g).ty = 0 then [s.gDst g] else (s.members g).map (fun m => m.2.2)

/-- PROT: a group with a destination of the requester. -/
def State.tenProt (s : State) (w : Nat) (r : List Byte) : State :=
  let g := tqArg r
  if 8192 ≤ g then s.tenOut w (tenResult r 3 [])
  else if (s.grpDsts g).any (fun d => maySee (tqTenant r) (s.lsrTen d)) then
    s.tenOut w (tenResult r 0 (beBytes 4 (s.gstat g).toNat ++ beBytes 4 (s.galign g).toNat ++ (s.ctr 4 g 0).word))
  else s.tenOut w (tenResult r 2 [])

/-- TEN_PROT (R300). -/
def execTenProt (s : State) : Out := .next (s.tenServe 4 (fun w r s => s.tenProt w r))

/-! ### Events (R301) -/

/-- An event record. -/
def tenEvent (bolt : Word) (tenant kind obj group : Nat) (data : Word) : List Byte :=
  beBytes 4 bolt.toNat ++ beBytes 2 tenant ++ beBytes 1 kind ++ [0] ++ beBytes 6 obj ++ beBytes 2 group ++ beBytes 4 data.toNat
    ++ List.replicate 12 0

/-- One record for each tenant concerned, and with EV0 the copy of tenant 0; `obj` is the object as the tenant sees it. -/
def State.tenEventsBy (s : State) (w : Nat) (tens : List Nat) (kind : Nat) (obj : Nat → Nat) (group : Nat) (data : Word) : State :=
  if s.rb (tenA 0x40) 0 then
    let l := tens.eraseDups
    seqAll (fun t s => s.tenEvOut w (tenEvent s.bolt t kind (obj t) group data))
      (l ++ (if s.rb (tenA 0x40) 1 ∧ 0 ∉ l then [0] else [])) s
  else s

/-- The records of a change of one object. -/
def State.tenEvents (s : State) (w : Nat) (tens : List Nat) (kind obj group : Nat) (data : Word) : State :=
  s.tenEventsBy w tens kind (fun _ => obj) group data

/-- The system thread address of a position, as a whole skein. -/
def State.objOf (s : State) (k : Nat) : Nat := s.addrOf k * 128 + 127

/-- Address of a destination LSR; zero for a Fine loom position. -/
def State.dstObj (s : State) (d : Nat) : Nat := if trunkOk d then s.objOf (skNo d) else 0

/-- System thread address of output thread `t`: of the first position that its Fine loom output feeds. -/
def State.threadObj (s : State) (t : Nat) : Nat :=
  match (s.loom.act.fed (lsrOf 8 (t / 128))).find? (fun d => trunkOk d) with
  | some d => s.addrOf (skNo d) * 128 + t % 128
  | none => 0

/-- The destination of group `g` that a record for tenant `t` names: the first of that tenant, in tenant 0's copy the first of all (DESIGN CHOICE,
notes/assumptions/27.md). -/
def State.grpObj (s : State) (g t : Nat) : Nat :=
  let l := s.grpDsts g
  s.dstObj (((l.find? (fun d => decide (s.lsrTen d = t))).or l.head?).getD 0)

/-- The records of a change. -/
def State.tenEventOf (s : State) (w : Nat) : TenEvent → State
  | .skeinDefect k =>
    s.tenEvents w [s.tenTab k] 1 (s.objOf k) 0
      (w32 ((List.range 5).map (fun i => if s.declS k i && !s.maskedS k i then 2 ^ i else 0)).sum)
  | .laneDefect l =>
    s.tenEvents w ((span (160 * l) 160).map (fun k => s.tenTab k)) 2 (s.objOf (160 * l)) 0 (s.lnDef l)
  | .group g =>
    s.tenEventsBy w ((s.grpDsts g).map s.lsrTen) 3 (s.grpObj g) g (w32 (fld (s.gstat g) 0 16))
  | .violation d => s.tenEvents w [s.lsrTen d] 4 (s.dstObj d) 0 0
  | .threadViolation t => s.tenEvents w [s.threadTen true t] 4 (s.threadObj t) 0 0

/-- The records of the oldest change are written by the weaver that holds TENANT. -/
def State.tenEventNext (s : State) : State :=
  match s.tenSvc, s.ten.chg with
  | some w, c :: t => (s.modTen (fun x => { x with chg := t })).tenEventOf w c.1
  | _, _ => s

/-- Changes that are due by now: their records are written within 4 bolts; none is, without a service. -/
def State.tenEventsLeft (s : State) : State :=
  let due := (s.ten.chg.filter (fun c => decide (3 ≤ since s.bolt c.2))).length
  match s.tenSvc with
  | some _ => seqAll (fun (_ : Nat) s => s.tenEventNext) (List.range due) s
  | none => s.modTen (fun x => { x with chg := x.chg.drop due })

/-- TENANT_EVENT_WRITE (R301): the records of change `e`, where it is the oldest that waits. -/
def execTenantEventWrite (e : TenEvent) (s : State) : Out := .next (s.when (s.ten.chg.head?.map (·.1) == some e) (·.tenEventNext))

/-! ### HANDOFF (R302) -/

/-- Grants that KEEP needs: connections of trunk position `k` that would fail R76 once its tenant is `t` (source, its tenant, and
the destination's tenant), one for each connection. -/
def State.keepGrants (s : State) (k t : Nat) : List (Nat × Nat × Nat) :=
  let x := lsrOfNo k
  let asSrc := ((s.loom.act.fed x).filter (fun d => decide (d ≠ x ∧ lsrPort d < 8))).map (fun d => (k, t, s.lsrTen d))
  let asDst := ((s.loom.act.legs x).filter (fun y => decide (y ≠ x ∧ lsrPort y < 8))).map (fun y => (skNo y, s.lsrTen y, t))
  (asSrc ++ asDst).filter (fun g => s.admits g.2.1 g.2.2 (some g.1) == .refused)

/-- The lowest `n` grant entries that are not valid. -/
def State.freeGrants (s : State) (n : Nat) : List Nat :=
  ((List.range 1024).filter (fun i => !s.rb (0xB10000 + 8 * i) 24)).take n

/-- Writes a grant entry with SCOPE_ALL = 0 and ONCE = 0 (R78). -/
def State.putGrant (s : State) (i : Nat) (g : Nat × Nat × Nat) : State :=
  (s.setReg (0xB10000 + 8 * i + 4) (w32 (g.1 / 10240 + g.1 / 160 % 64 * 8 + g.1 % 160 * 512))).setReg (0xB10000 + 8 * i)
    (w32 (g.2.1 + g.2.2 * 2 ^ 12 + 2 ^ 24))

/-- Weaver `w` asks the active Foreman `f` by a message in a Skid buffer: the Foreman pops it, does `act`, and frees it (R280, R288, R289, R356).
What the message says beside its header is no rule's, and so free values (DESIGN CHOICE, notes/assumptions/27.md). Where no buffer can be had,
or the inbox is full, nothing is done: the state stays `s0`. -/
def State.askForeman (s0 : State) (w f : Nat) (act : State → State) (s : State) : State :=
  let a := s.skidAlloc w
  if ¬ bit a.1 31 ∨ 256 ≤ (s.inbox f).length then s0
  else
    let i := fld a.1 0 14
    let body := [(0, w32 f), (2, w32 (40 * 2 ^ 8)), (3, w32 (fld (Config.freeWord s.free) 0 16)), (4, Config.freeWord (s.free + 1)), (6, 0), (7, 0),
      (8, Config.freeWord (s.free + 2)), (9, Config.freeWord (s.free + 3))]
    let s1 := seqAll (fun (e : Nat × Word) s => s.setBufWord i e.1 e.2) body { a.2 with free := s.free + 4 }
    let s2 := s1.post w f i
    let s3 := (s2.setInbox f ((s2.inbox f).filter (· ≠ i))).setBuf i .owned f
    (act s3).skidFreeWrite (BitVec.ofNat 8 f) (w32 i)

/-- Steps 1 to 4: refusals, grants, the table, and RETAG with CMT = 1 and FORCE = 1 - KEEP, which the active Foreman posts through window B. It
waits while the Treadle's queue is full, and where the message finds no room. -/
def State.handoff (s0 : State) (w : Nat) (r : List Byte) (s : State) : State :=
  match s.obj r with
  | .skein k =>
    if tqTenant r ≠ 0 then s.tenOut w (tenResult r 2 [])
    else if s.headless then s.tenOut w (tenResult r 5 [])
    else if ¬ s.qRoom false then s0
    else
      let need := if tqKeep r then s.keepGrants k (tqNew r) else []
      let at_ := s.freeGrants need.length
      if at_.length < need.length then s.tenOut w (tenResult r 7 [])
      else
        let s1 := seqAll (fun (e : Nat × Nat × Nat × Nat) s => s.putGrant e.1 e.2) (at_.zip need) s
        let old := s1.tenTab k
        let s2 := s1.putTenant k (tqNew r)
        s0.askForeman w (s.holderId.getD 0) (fun s =>
          let (t, s3) := s.postOwn false 0x0B (lsrOfNo k) (2 ^ 8 + (if tqKeep r then 0 else 2 ^ 12))
          s3.modTen (fun x => { x with ho := some { req := r, k := k, oldTen := old, grants := at_, tag := t } })) s2
  | _ => s.tenOut w (tenResult r 3 [])

/-- TEN_HANDOFF (R302). -/
def execTenHandoff (s : State) : Out := .next (s.tenServe 5 (fun w r t => State.handoff s w r t))

/-- Step 5: the completion with STATUS `st` and commit bolt `b`. -/
def State.handoffEnd (s : State) (w : Nat) (h : Handoff) (st : Nat) (b : Word) : State :=
  let s1 := s.modTen (fun x => { x with ho := none })
  if st = 0 then
    (s1.tenOut w (tenResult h.req 0 [] 0 0 b)).tenEvents w [h.oldTen, tqNew h.req] 5 (s.objOf h.k) 0 0
  else
    let s2 := (seqAll (fun i s => s.setReg (0xB10000 + 8 * i) 0) h.grants s1).putTenant h.k h.oldTen
    s2.tenOut w (tenResult h.req 6 [] 0 st)

/-- The Foreman reads the RETAG's completion where it is the next one. -/
def State.retagRead (s : State) (h : Handoff) : State :=
  if h.done.isNone ∧ ¬ s.headless ∧ ¬ s.mbx.replaying ∧ s.icMore false
      ∧ leVal ((s.icEntry false (s.icPos false)).take 2) = h.tag then s.readDone false
  else s

/-- HANDOFF_RETAG_DONE (R302): due once the completion is there. -/
def execHandoffRetagDone (s : State) : Out :=
  .next (match s.tenSvc, s.ten.ho with
    | some w, some h =>
      let s1 := s.retagRead h
      (match s1.ten.ho with
       | some h1 => (match h1.done with | some d => s1.handoffEnd w h1 d.1 d.2 | none => s)
       | none => s)
    | _, _ => s)

/-- TEN_AGENT_LOST (R307): TEN_HB not written for 8 bolts. -/
def State.tenLost (s : State) : State :=
  match s.ten.hbAt with
  | some b => if 8 ≤ since s.bolt b then (s.modTen (fun t => { t with hbAt := none })).irq (tenA 0) 8 else s
  | none => s

/-- TEN_AGENT_LOST (R307). -/
def execTenAgentLost (s : State) : Out := .next s.tenLost

/-! ### TEN registers (R307) -/

/-- TEN_GRANTS and TEN_STAT. -/
def State.tenShow (s : State) (o : Nat) : Option Word :=
  match o with
  | 0x44 => some (w32 s.validGrants.length)
  | 0x4C => some (w32 (s.ten.hbAt.isSome.toNat + 2 * s.headless.toNat))
  | _ => none

end Sys2Proof.Machine
end

