-- ==== Sys2Proof/Machine/Read.lean ====
section
/-! DEFINITION. Reads of the register space: what each register shows, and what a read of one changes (R6, R8, R365, R402-R417). -/
namespace Sys2Proof.Machine

/-- A word with bit `i` set where `f i`. -/
def wordOf (n : Nat) (f : Nat → Bool) : Word := w32 ((List.range n).foldl (fun a i => if f i then a + 2 ^ i else a) 0)

/-- `<BLK>_ID` (R2, R403, R404): type, instance, version; notes/assumptions/29.md (DESIGN CHOICE) names the instances and versions the spec leaves out. -/
def idWord (b : Blk) (inst : Nat) : Word :=
  let i := match b with
    | .ln => inst % 64
    | .prt | .ils | .els | .wvr => inst
    | _ => 0
  w32 (idType b * 2 ^ 16 + i * 2 ^ 8 + (if b = .glb then 0xB1 else 1))

/-- GLB_STAT (R407). -/
def State.glbStat (s : State) : Word :=
  w32 (s.rf 0x8 0 1 + s.pcie.linkUp.toNat * 2 + s.pcie.bme.toNat * 4 + s.headless.toNat * 8 + s.pcie.intN.toNat * 16
    + s.pcie.gen * 2 ^ 8 + s.pcie.width * 2 ^ 11)

/-- GLB_BOOT (R437, R441). -/
def State.bootWord (s : State) : Word :=
  let p := s.fm s.prefer
  let step := if s.pwr.bootDone then 12 else if s.fmn.holder ≠ 0 ∨ s.pwr.rolesDone then 11 else if p.claim then 10
    else if p.st ≠ .off then 9
    else if (List.range 8).any (fun i => s.want i && !(s.port i).awake) then 5
    else if (List.range 8).any (fun c => s.want (8 + c) && (!s.clusterOn c || (s.weaver (8 * c)).powering)) then 6
    else if (List.range 2).any (fun h => s.want (16 + h) && !bit s.prot.hbmReady h) then 7
    else 8
  w32 (step + s.pwr.bootDone.toNat * 16)

/-- GLB registers that show other state. -/
def State.glbShow (s : State) (o : Nat) : Option Word :=
  match o with
  | 0x8 => some s.glbStat
  | 0x40 => some (s.pwr.serial.setWidth 32)
  | 0x44 => some ((s.pwr.serial >>> 32).setWidth 32)
  | 0x58 => some (s.pwr.straps.setWidth 32)
  | 0x94 => some s.bootWord
  | _ => none

/-- GIRQ registers (R409). -/
def State.girqShow (s : State) (o : Nat) : Option Word :=
  let src := s.sources
  let page := fun (a : Nat) => decide (s.irqOut a ≠ 0)
  match o with
  | 0x40 => some (w32 (fld src 0 19))
  | 0x44 => some (wordOf 32 (fun i => decide (i % 4 = 3) && bit src (32 + i / 4)))
  | 0x48 => some (wordOf 32 (fun w => page (wvrA w 0)))
  | 0x4C => some (wordOf 32 (fun w => page (wvrA (32 + w) 0)))
  | 0x90 => some (src.setWidth 32)
  | 0x94 => some ((src >>> 32).setWidth 32)
  | _ => if 0x50 ≤ o ∧ o < 0x90 ∧ o % 4 = 0 then some (wordOf 32 (fun n => page (lnA ((o - 0x50) / 8 * 64 + (o - 0x50) / 4 % 2 * 32 + n) 0))) else none

/-- Code of TRD_STATE.STATE and FINE_STATE.STATE (R105, R140). -/
def engCode : EngSt → Nat
  | .idle => 0 | .build => 1 | .armed => 2 | .sync => 3 | .waitProt => 4

/-- TRD_STATE and TRD_Q_FREE, or the Fine loom's (R105, R140). With no batch open, the owner field shows the window of the last batch, and
the count that of an armed batch until its commit (DESIGN CHOICE, notes/assumptions/46.md). -/
def State.engShow (s : State) (fe : Bool) (o : Nat) : Option Word :=
  let e := s.eng fe
  match o with
  | 0x44 => some (w32 (engCode e.st + e.owner * 2 ^ 3 + e.count * 2 ^ 8))
  | 0x50 => some (w32 (engCap fe - e.q.length))
  | _ => none

/-- FINE registers that show other state (R140). -/
def State.fineShow (s : State) (o : Nat) : Option Word :=
  let asg := fun (i : Nat) => (s.regs.filter (fun e => decide (0x902000 ≤ e.1 ∧ e.1 < 0x903400) && bit e.2 i)).length
  match o with
  | 0x5C => some (w32 s.fine.phys.toNat)
  | 0xC8 => some (w32 (asg 0 + asg 1 * 2 ^ 16))
  | 0xCC => some (w32 (s.fine.act.out.filter (fun e => decide (outMode e.2 ≠ 0))).length)
  | _ => s.engShow true o

/-- LOOM registers (R103). -/
def State.loomShow (s : State) (o : Nat) : Option Word :=
  match o with
  | 0x40 => some (w32 s.loom.phys.toNat)
  | 0x44 => some (w32 ((List.range 8).map (fun p => (s.reg (elsA p 0x44)).toNat)).sum)
  | _ => none

/-- ILS and ELS registers of port `p` (R108). -/
def State.slotShow (s : State) (egress : Bool) (p o : Nat) : Option Word :=
  let a := if egress then s.loom.act.reed else s.loom.act.ing
  let b := if egress then s.loom.stb.reed else s.loom.stb.ing
  match o with
  | 0x40 => some (w32 (occupancy a p + occupancy b p * 2 ^ 16))
  | 0x44 => if egress then none else some (w32 (groupMax a p))
  | _ => none

/-- LN registers that show other state (R60, R62, R64). -/
def State.lnShow (s : State) (l o : Nat) : Option Word :=
  let r := s.sknRx l
  match o with
  | 0x44 => some (s.lnDef l)
  | 0x4C => some (s.lnAlign l)
  | 0xCC => some (r.origin.setWidth 32)
  | 0xD0 => some (w32 (r.origin.toNat / 2 ^ 32 + r.tenant.toNat * 2 ^ 3 + r.p * 2 ^ 15 + r.flags.toNat * 2 ^ 25))
  | _ => if 0x100 ≤ o ∧ o < 0x1A0 ∧ o % 0x20 < 20 ∧ o % 4 = 0 then some (s.lnBitmap l ((o - 0x100) / 0x20) (o % 0x20 / 4)) else none

/-- PROT and SELV registers (R184, R192). -/
def State.protShow (s : State) (o : Nat) : Option Word := if o = 0x48 then some s.encnt else none
def State.selvShow (s : State) (o : Nat) : Option Word :=
  match o with
  | 0x44 => some s.selvStat
  | 0x50 => some s.selvBw
  | _ => none

/-- Fields of a group record that show its state (R188, R189). -/
def State.recShow (s : State) (g o : Nat) : Option Word :=
  match o with
  | 0x18 => some (s.gstat g)
  | 0x1C => some (s.galign g)
  | _ => none

/-- WVR_STAT and WVR_INBOX_CNT (R305, R306). -/
def State.wvrShow (s : State) (w o : Nat) : Option Word :=
  let x := s.weaver w
  match o with
  | 0x44 => some (w32 (wvrCode x.st + (decide (60 ≤ w)).toNat * 2 ^ 3 + w / 8 * 2 ^ 4 + x.role * 2 ^ 8 + x.epoch * 2 ^ 16))
  | 0x58 => some (w32 x.inbox.length)
  | _ => none

/-- FMN registers that show other state (R331). -/
def State.fmnShow (s : State) (o : Nat) : Option Word :=
  match o with
  | 0x44 => some s.fmnStat
  | 0x48 => some (w32 (s.fmn.holder + s.fmn.remain * 2 ^ 4 + fld s.fmn.gen 0 16 * 2 ^ 16))
  | 0x4C => some s.fmn.gen
  | 0x8C => some (w32 (s.fmn.a.inbox.length + s.fmn.b.inbox.length * 2 ^ 16))
  | 0x90 => some s.ckptStat
  | 0x94 => some (w32 s.ckptSeq)
  | _ => none

/-- BANK_TSTAT (R359). -/
def State.bankShow (s : State) (o : Nat) : Option Word :=
  let t := s.bank.march
  if o = 0x64 then some (w32 (t.busy.toNat + t.bank * 2 + t.result * 2 ^ 7 + min 511 t.row * 2 ^ 10))
  else if 0x100 ≤ o ∧ o < 0x200 then some (s.ownShown ((o - 0x100) / 4)) else none

/-- Code of SKID_QSTAT (R361). -/
def bufCode : BufSt → Nat
  | .free => 0 | .owned => 1 | .posted => 2 | .withdrawn => 3

/-- SKID_AVAIL and SKID_QSTAT (R358, R361); an index of no buffer shows zero. -/
def State.skidShow (s : State) (o : Nat) : Option Word :=
  match o with
  | 0x50 => some (w32 (s.skidFree + s.skidCap * 2 ^ 16))
  | 0x74 =>
    let i := s.rf (skidA 0x70) 0 14
    some (if i < 8192 then w32 ((s.buf i).2 + bufCode (s.buf i).1 * 2 ^ 8) else 0)
  | _ => none

/-- MBX_STAT (R414). -/
def State.mbxShow (s : State) (o : Nat) : Option Word :=
  if o = 0x44 then some (w32 ((List.range 4).foldl (fun a r => if s.cqWaits r then a + 2 ^ r else a) 0 + (!s.headless).toNat * 16)) else none

/-- PWR_DOM_STAT and PWR_STUMP (R426, R438). -/
def State.pwrShow (s : State) (o : Nat) : Option Word :=
  match o with
  | 0x44 => some s.domStat
  | 0x54 => some (w32 s.pwr.cdpOn.toNat)
  | _ => none

/-- Some LN, SHED or BEAT hook register is nonzero (R459). -/
def State.hooksSet (s : State) : Bool :=
  s.regs.any (fun e => decide (0x30 ≤ e.1 % 0x1000 ∧ e.1 % 0x1000 < 0x40) && (match locate e.1 with
    | some (.ln, _, _) => true
    | some (.shed, _, _) => true
    | some (.beat, _, _) => true
    | _ => false))

/-- TST registers that show other state (R459). -/
def State.tstShow (s : State) (o : Nat) : Option Word :=
  match o with
  | 0x48 => some (w32 (s.rb (tstA 0x44) 0 && s.hooksSet).toNat)
  | 0x70 => some (w32 ((s.tst.running && !s.tst.stopped).toNat + s.tst.triggered.toNat * 2 + s.tst.stopped.toNat * 4 + s.tst.trace.length * 2 ^ 16))
  | 0x78 => some (s.traceWord 0)
  | 0x7C => some (s.traceWord 1)
  | 0x80 => some (s.traceWord 2)
  | 0x84 => some (s.traceWord 3)
  | _ => none

/-- What a register shows where it is not simply the stored word. -/
def State.show (s : State) (a : Nat) (b : Blk) (i o : Nat) : Option Word :=
  if isPage b ∧ o = 0 then some (idWord b i)
  else if isPage b ∧ o = 0x1C then some (s.irqOut (a - 0x1C))
  else match b with
    | .glb => s.glbShow o
    | .girq => s.girqShow o
    | .gvec => if o = 0x44 then some (s.pcie.level.setWidth 32) else if o = 0x48 then some ((s.pcie.level >>> 32).setWidth 32) else none
    | .pwr => s.pwrShow o
    | .beat => s.beatShow o
    | .fmn => s.fmnShow o
    | .shed => if 0x54 ≤ o ∧ o ≤ 0x64 then some (s.curWord a) else none
    | .tly => if o = 0x5C then some s.ovfSum else none
    | .tst => s.tstShow o
    | .mbx => s.mbxShow o
    | .ln => if o = 0xC4 ∨ o = 0xC8 then some (s.curWord a) else s.lnShow i o
    | .ils => s.slotShow false i o
    | .els => s.slotShow true i o
    | .loom => s.loomShow o
    | .trd => s.engShow false o
    | .fine => s.fineShow o
    | .prot => s.protShow o
    | .protRec => s.recShow i o
    | .selv => s.selvShow o
    | .ten => s.tenShow o
    | .bmy => s.bmyShow o
    | .wvr => s.wvrShow i o
    | .bank => s.bankShow o
    | .skid => s.skidShow o
    | _ => none

/-- What a register reads as: zero for a WO register and for an offset that names none (R6, R403). -/
def State.peek (s : State) (a : Nat) : Word :=
  match locate a with
  | none => 0
  | some (b, i, o) =>
    match s.show a b i o with
    | some v => v
    | none => match regRow b i o with
      | some r => if r.acc = .wo then 0 else s.reg a
      | none => 0

/-- A read that pops, clears, allocates or latches; none where a read changes nothing (R8). -/
def State.readEffect (s : State) (m : Mid) (a : Nat) (b : Blk) (i o : Nat) : Option (Word × State) :=
  match b, o with
  | .beat, 0x68 => some s.dcoRead
  | .prot, 0x4C => some s.popEvq
  | .prot, 0x50 => some s.popChgq
  | .wvr, 0x54 => some (s.wvrPop m i)
  | .fmn, 0x74 => some (s.fmnLoad, s.freeVal.2)
  | .fmn, 0x88 => some (s.fmnPop m)
  | .skid, 0x48 => some (s.skidAlloc m.toNat)
  | .skid, 0x64 => some s.lowmarkRead
  | .tst, 0x4C =>
    let r := s.freeVal
    some (w32 (s.bolt.toNat % 2 ^ 13 * 2 ^ 19 + r.1.toNat % 400000), r.2)
  | .tst, 0x84 => some s.readRd3
  | .blzUnit, _ => some (s.unitRead i o)
  | _, _ => if accOf a = some .rc then some (s.reg a, s.setReg a 0) else none

/-- A read of one register: the word and the state after it (R6, R8). -/
def State.readReg (s : State) (m : Mid) (a : Nat) : Word × State :=
  match locate a with
  | none => (0, s)
  | some (b, i, o) => match s.readEffect m a b i o with
    | some r => r
    | none => (s.peek a, s)

/-- A read that has reached its target: a register is read whole, and the response holds the bytes read (R365). -/
def State.readHere (s : State) (m : Mid) (a size : Nat) : State :=
  if (windowOf a).isSome then s.winRead m a size
  else
    let r := s.readReg m (a - a % 4)
    r.2.answer (BitVec.ofNat 64 (r.1.toNat / 2 ^ (8 * (a % 4)) % 2 ^ (8 * size)))

/-- A read of one word or less, or of a part of a register. -/
def State.busRead1 (s : State) (m : Mid) (a size : Nat) : State := s.access m a size false (fun s => s.readHere m a size)

/-- The bytes of BAR2 from `x` (R413): ring memory, the DMA page, the MSI-X table with its vector masks, the pending bits; all others read zero. -/
def State.bar2Byte (s : State) (x : Nat) : Byte :=
  if x < 0x40000 then Memory.read s.mbx.mem x
  else if 0x50000 ≤ x ∧ x < 0x50400 then
    (if x % 16 = 12 then setBit (Memory.read s.mbx.mem x) 0 (bit s.pcie.vmask ((x - 0x50000) / 16)) else Memory.read s.mbx.mem x)
  else if 0x51000 ≤ x ∧ x < 0x51008 then BitVec.ofNat 8 (fld s.pcie.pba (8 * (x - 0x51000)) 8)
  else 0

/-- A read of the host in BAR2 (R413, R416). -/
def State.bar2Read (s : State) (x size : Nat) : State :=
  if ¬ s.pwr.cdpOn ∨ ¬ (size = 1 ∨ size = 2 ∨ size = 4 ∨ size = 8) ∨ x % size ≠ 0 then s.answer 0
  else if 0x40000 ≤ x ∧ x < 0x41000 then
    let r := s.readReg 66 (0x4000000 + x / 4 * 4)
    let q := if size = 8 then r.2.readReg 66 (0x4000000 + x + 4) else (0, r.2)
    q.2.answer (BitVec.ofNat 64 ((r.1.toNat + q.1.toNat * 2 ^ 32) / 2 ^ (8 * (x % 4)) % 2 ^ (8 * size)))
  else s.answer (BitVec.ofNat 64 (leVal ((span x size).map s.bar2Byte)))

/-- A read by a bus master (R365, R366, R402): 8 bytes of registers are two reads in ascending order, with the status of the first that fails. The
host has BAR2 from 0x0400_0000 up (R413). -/
def State.busRead (s : State) (m : Mid) (a size : Nat) : State :=
  if m = 66 ∧ 0x4000000 ≤ a then s.bar2Read (a - 0x4000000) size
  else if size = 8 ∧ a % 8 = 0 ∧ (targetOf a).any Target.isReg then
    if s.gate m a 8 false = .wait then s.refuse m a 8 false 0 false .wait
    else
      let t := s.busRead1 m a 4
      let u := t.busRead1 m (a + 4) 4
      (u.answer (BitVec.ofNat 64 (t.resp.data.toNat + u.resp.data.toNat * 2 ^ 32)) u.resp.status).beatStatus t.resp.status
  else s.busRead1 m a size

end Sys2Proof.Machine
end

