-- ==== Sys2Proof/Machine/Bus.lean ====
section
/-! DEFINITION. Writes of the register space: what each register does with one, and the accesses of any bus master, of the host link
to BAR2 and of the SMBus target (R6, R7, R365, R366, R403-R418). -/
namespace Sys2Proof.Machine

/-! ### Writes with an effect of their own -/

/-- A write to a locked register of an enabled group keeps its value, and is logged where it would change it (R150). After a write of TYPE 0
the registers are free, and what is written to them acts at once on the group still in force until the boundary (DESIGN CHOICE,
notes/assumptions/46.md). -/
def State.lockedWrite (s : State) (m : Mid) (g a : Nat) (v : Word) : State :=
  let v := v &&& w32 (writeMask a)
  if tyOf (s.reg (recA g 0)) = 0 then s.setReg a v
  else if v = s.reg a then s else s.errlog (protA 0) a m

/-- A write of TST_CFG (R445): TW_WREN goes to 1 only from the host, the SMBus target or JTAG. -/
def State.tstCfg (s : State) (m : Mid) (v : Word) : State :=
  let a := tstA 0x40
  let v := v &&& w32 (writeMask a)
  if bit v 0 ∧ ¬ s.rb a 0 ∧ ¬ (66 ≤ m.toNat ∧ m.toNat ≤ 68) then
    (s.errlog (tstA 0) 0x40 m).setReg a (setBit v 0 false)
  else s.setReg a v

/-- A write of a SHED perturbation hook, in force at once where EN is 1 (R451). -/
def State.shedHookWrite (s : State) (i : Nat) (v : Word) : State :=
  let s1 := s.putMasked (shedA (0x30 + 4 * i)) v
  s1.when s1.tst.pert (·.modTst (fun t => { t with shedHook := t.shedHook.set i (s1.reg (shedA (0x30 + 4 * i))) }))

/-- A write of an SHED_PRIOW register: the selected target's; targets 60-63 select nothing (R376, R378). -/
def State.prioWrite (s : State) (i : Nat) (v : Word) : State :=
  let t := s.rf (shedA 0x50) 0 6
  if t < 60 then s.setReg (prioA t i) v else s

/-- A write of the expected origin of the selected skein (R60). -/
def State.sknWrite (s : State) (l : Nat) (cfg : Bool) (v : Word) : State :=
  match s.sknSel l with
  | none => s
  | some k => s.modRx k (fun r =>
    if cfg then { r with exp := setFld r.exp 32 3 (fld v 0 3), expEn := bit v 3 } else { r with exp := setFld r.exp 0 32 v.toNat })

/-- A write of an MBX ring register (R414, R415). -/
def State.mbxWrite (s : State) (m : Mid) (o : Nat) (v : Word) : State :=
  let r := (o - 0x100) / 0x40
  let a := mbxA o
  let x := (o - 0x100) % 0x40
  if x = 4 then s.cqTail r v
  else if x = 0x20 then (s.putMasked a v).mbxDrain
  else if s.ringOn r then s.errlog (mbxA 0) o m
  else s.putMasked a v

/-- A write of a DMA register: ignored while its channel is BUSY, DMA_CTRL apart, and logged (R405, R416). -/
def State.dmaWrite (s : State) (m : Mid) (o : Nat) (v : Word) : State :=
  let c := (o - 0x100) / 0x20
  if (o - 0x100) % 0x20 = 0x10 then s.dmaCtrl c v
  else if s.rb (dmaA c 0x14) 0 then s.errlog 0x4040000 o m else s.putMasked (0x4040000 + o) v

/-- A write of a register of a WVR page (R284, R286, R289, R305). -/
def State.wvrWrite (s : State) (m : Mid) (w o : Nat) (v : Word) : State :=
  match o with
  | 0x48 => s.roleReqWrite w v
  | 0x4C => s.wvrCmd m w v
  | 0x50 => s.wvrPost m w v
  | 0x5C => (s.setReg (wvrA w 0x5C) v).modWeaver w (fun x => { x with hbAt := s.bolt })
  | _ => s.putMasked (wvrA w o) v

/-- A write of an FMN register (R311, R313, R329, R331). -/
def State.fmnWrite (s : State) (m : Mid) (o : Nat) (v : Word) : State :=
  match o with
  | 0x50 => s.claimWrite m v
  | 0x54 => s.renewWrite m v
  | 0x58 => s.relWrite m v
  | 0x60 => s.fmnCtrl v
  | 0x78 => (s.putMasked (fmnA o) v).noteShed
  | 0x80 => s.fmnPost m false v
  | 0x84 => s.fmnPost m true v
  | 0xA0 => s.selfWrite m false v
  | 0xA4 => s.selfWrite m true v
  | _ => s.putMasked (fmnA o) v

/-- A write of a TEN register: the heartbeat, and ring heads that make room (R300, R307). -/
def State.tenWrite (s : State) (o : Nat) (v : Word) : State :=
  let s1 := s.putMasked (tenA o) v
  match o, s.tenSvc with
  | 0x48, _ => s1.modTen (fun t => { t with hbAt := some s.bolt })
  | 0x6C, some w => State.tenDrain w 1280 s1
  | 0x7C, some w => State.tenDrain w 1280 s1
  | _, _ => s1

/-- A write of a TLY register (R384, R385, R388, R392, R396). -/
def State.tlyWrite (s : State) (o : Nat) (v : Word) : State :=
  match o with
  | 0x48 => s.ccmd v
  | 0x60 => s.snapCmd v
  | 0x8C => s.when (bit v 0) (·.hclr)
  | 0x80 => (s.putMasked (tlyA o) v).modTly (fun t => { t with smp := { t.smp with lfsr := [] } })
  | 0x84 => (s.putMasked (tlyA o) v).modTly (fun t => { t with smp := { t.smp with lfsr := [] } })
  | _ => s.putMasked (tlyA o) v

/-- A write of a TST register (R445, R451, R456, R459); an emit from this row has a free clock count. -/
def State.tstWrite (s : State) (m : Mid) (o : Nat) (v : Word) : State :=
  match o with
  | 0x40 => s.tstCfg m v
  | 0x68 =>
    let r := s.freeVal
    r.2.emitTrace m v (r.1.toNat % 400000)
  | 0x6C => s.traceCmd v
  | _ => s.putMasked (tstA o) v

/-- A write of a BANK register (R337, R345, R351). -/
def State.bankRegWrite (s : State) (m : Mid) (o : Nat) (v : Word) : State :=
  match o with
  | 0x60 => s.tcmd v
  | 0x80 => s.fuseKeyWrite v
  | 0x84 => s.fuseCmdWrite v
  | _ => if 0x100 ≤ o then s.ownWrite m ((o - 0x100) / 4) v else s.putMasked (bankA o) v

/-- A write of a word of an engine's page (R89, R105, R125, R140). -/
def State.engWrite (s : State) (fe : Bool) (o : Nat) (v : Word) : State :=
  if o = 0x58 then s.cmdCtrl fe v
  else if fe ∧ o = 0xA4 then s.when (bit v 0) (·.fineRead)
  else if 0x100 ≤ o then s.windowWrite fe ((o - 0x100) / 0x20) (o % 0x20 / 4) v
  else s.putMasked (engA fe o) v

/-- A write of a word of an LN page (R56, R60, R61, R63). -/
def State.lnWrite (s : State) (l o : Nat) (v : Word) : State :=
  if o = 0x50 then s.when (bit v 0) (·.modLane l (fun n => { n with recCmd := true }))
  else if 0x80 ≤ o ∧ o ≤ 0xB8 then s.intgWrite l ((o - 0x80) / 4) v
  else if o = 0xC4 then s.sknWrite l false v
  else if o = 0xC8 then s.sknWrite l true v
  else if o = 0x40 then s.modeWrite l v
  else s.putMasked (lnA l o) v

/-- The IRQ registers of a page header: W1C, enable, force (R404, R405). -/
def State.irqWrite (s : State) (a : Nat) (b : Blk) (v : Word) : State :=
  let page := a / 0x1000 * 0x1000
  match a % 0x1000 with
  | 0x10 => (s.setReg a (s.reg a &&& ~~~v)).settle
  | 0x14 => (s.putMasked a v).settle
  | _ => s.irq page (fld v 0 32 &&& irqMask b)

/-- The effect of a 4-byte write that has reached its register. A register that is read-only, or an offset that names none, ignores
it (R6, R403). -/
def State.regWrite (s : State) (m : Mid) (a : Nat) (v : Word) : State :=
  match locate a with
  | none => s
  | some (b, i, o) =>
    match regRow b i o with
    | none => if b = .blzUnit then s.unitWrite m i o v else s
    | some r =>
      if r.acc = .ro ∨ r.acc = .rc then (if b = .blzUnit then s.unitWrite m i o v else s)
      else if isPage b ∧ (o = 0x10 ∨ o = 0x14 ∨ o = 0x18) then s.irqWrite a b v
      else if isPage b ∧ o < 0x40 then (if b = .shed ∧ 0x30 ≤ o then s.shedHookWrite ((o - 0x30) / 4) v else s.putMasked a v)
      else match b with
        | .glb => if o = 0x80 then s.rstKey m v else if o = 0x84 then s.rstCmd m v else s.putMasked a v
        | .gvec => if o = 0x40 then s.eoi v else (s.putMasked a v).settle
        | .pwr => if o = 0x40 then s.domWrite m v else s.putMasked a v
        | .beat => match s.beatWrite m o v with | some t => t | none => s.putMasked a v
        | .fmn => s.fmnWrite m o v
        | .shed => if 0x54 ≤ o ∧ o ≤ 0x64 then s.prioWrite ((o - 0x54) / 4) v else s.putMasked a v
        | .tly => s.tlyWrite o v
        | .tst => s.tstWrite m o v
        | .mbx => if 0x100 ≤ o then s.mbxWrite m o v else s.putMasked a v
        | .blzUnit => s.unitWrite m i o v
        | .ln => s.lnWrite i o v
        | .hdl => if o = 0x44 then s.when (bit v 0) (·.hdlRead) else s.putMasked a v
        | .trd => s.engWrite false o v
        | .fine => s.engWrite true o v
        | .fineAsg => s.asgWrite i v
        | .fineTen => s.setTenReg a (v &&& w32 (writeMask a))
        | .tenTab => s.setTenReg a (v &&& w32 (writeMask a))
        | .prot => if o = 0x44 then s.agentHb v else s.putMasked a v
        | .protRec =>
          if o = 0 then s.gcfgWrite m i v
          else if o = 0x14 then s.gcmdWrite i v
          else if o = 4 then s.putMasked a v
          else s.lockedWrite m i a v
        | .protMem => s.lockedWrite m i a v
        | .protAps => if o = 8 then s.farWrite i v else s.putMasked a v
        | .selv => s.selvWrite m v
        | .ten => s.tenWrite o v
        | .bmy => match s.bmyWrite m o v with | some t => t | none => s.putMasked a v
        | .wvr => s.wvrWrite m i o v
        | .bank => s.bankRegWrite m o v
        | .skid => if o = 0x4C then s.skidFreeWrite m v else s.putMasked a v
        | .dma => s.dmaWrite m o v
        | _ => s.putMasked a v

/-- A 4-byte register write by a bus master: guard, front end, effect. -/
def State.regAccess (s : State) (m : Mid) (a : Nat) (v : Word) : State := s.write4 m a v (fun s => s.regWrite m a v)

/-! ### BAR2 (R413) -/

/-- A write of the host to BAR2, by BAR2 offset: ring memory, the DMA page, the MSI-X table with its vector masks. The pending bits
are read-only; accesses that are not naturally aligned, and to other offsets, are ignored. -/
def State.bar2Write (s : State) (x size : Nat) (v : BitVec 64) : State :=
  let bs := leBytes size v.toNat
  if ¬ s.pwr.cdpOn ∨ ¬ (size = 1 ∨ size = 2 ∨ size = 4 ∨ size = 8) ∨ x % size ≠ 0 then s
  else if x < 0x40000 then s.modMbx (fun b => { b with mem := Memory.writeN b.mem x bs })
  else if x < 0x41000 then
    (if size = 4 then s.regWrite 66 (0x4000000 + x) (v.setWidth 32)
     else if size = 8 then (s.regWrite 66 (0x4000000 + x) (v.setWidth 32)).regWrite 66 (0x4000000 + x + 4) ((v >>> 32).setWidth 32)
     else s)
  else if 0x50000 ≤ x ∧ x < 0x50400 then
    (let s1 := s.modMbx (fun b => { b with mem := Memory.writeN b.mem x bs })
     let c := x / 16 * 16 + 12
     if x ≤ c ∧ c < x + size then s1.vecMask ((x - 0x50000) / 16) (bit (Memory.read s1.mbx.mem c) 0) else s1)
  else s

/-- A write access of `size` bytes by master `m` (R365): to a bank or Skid window, to host memory, or to registers, an 8-byte one as two of 4 bytes
in ascending order, with the status of the first that fails. The host reaches BAR2 from 0x0400_0000 up. An address outside BAR0 is the host address
of any other master (DEDUCED, notes/assumptions/49.md). -/
def State.busWrite (s : State) (m : Mid) (a size : Nat) (v : BitVec 64) (clash : Bool := false) : State :=
  if m = 66 ∧ 0x4000000 ≤ a then (s.bar2Write (a - 0x4000000) size v).answer 0
  else if 0x4000000 ≤ a then s.access m a size true (fun s => (s.hostWrite a (leBytes size v.toNat)).answer 0) v
  else if (windowOf a).isSome then s.access m a size true (fun s => s.winWrite m a (leBytes size v.toNat) clash) v clash
  else if size = 4 then s.regAccess m a (v.setWidth 32)
  else if size = 8 ∧ a % 8 = 0 ∧ (targetOf a).isSome then
    if s.gate m a 8 true = .wait then s.refuse m a 8 true v false .wait
    else
      let t := s.regAccess m a (v.setWidth 32)
      (t.regAccess m (a + 4) ((v >>> 32).setWidth 32)).beatStatus t.resp.status
  else s.access m a size true (fun s => s)

/-- A burst write, as `q` tells of it (R365). -/
def State.busBurst (s : State) (q : ShedReq) : State :=
  s.burst q (fun i s => s.busWrite q.m (q.a + 8 * i) 8 ((q.v :: q.more).getD i 0) (decide (i ∈ q.clash)))

/-- A write request of the host (R401), divided block by block into naturally aligned groups; a block whose enabled bytes form none is a decode
error of kind SIZE. It holds at most 256 bytes (R399). -/
def State.hostStore (s : State) (a : Nat) (bs : List Byte) (v : BusData) : State :=
  if 256 < bs.length then s
  else seqAll (fun b s =>
    let l := hostOffs a bs.length v.off b
    if l = [] then s
    else
      let g := hostGroup l
      s.busWrite 66 (8 * b + g.1) g.2 (BitVec.ofNat 64 (leVal (bytesAt bs (8 * b + g.1 - a) g.2))) (decide (b - a / 8 ∈ v.clash))) (hostBlocks a bs.length) s

/-- A write by a bus master: a single access, or, with more than one beat, a burst; a request of the host that is no single access is divided. -/
def State.busStore (s : State) (m : Mid) (a size : Nat) (v : BusData) : State :=
  if m = 66 ∧ ¬ (v.more = [] ∧ v.off = [] ∧ (size = 1 ∨ size = 2 ∨ size = 4 ∨ size = 8) ∧ a % size = 0) then s.hostStore a ((if v.more = [] then leBytes (min size 8) v.v.toNat else (v.v :: v.more).flatMap (fun x => leBytes 8 x.toNat))) v
  else if v.more = [] then s.busWrite m a size v.v (decide (0 ∈ v.clash))
  else s.busBurst { m := m, a := a, size := 8, wr := true, v := v.v, more := v.more, clash := v.clash, beats := v.more.length + 1 }

/-- An access that waited is tried again; it is answered where it no longer waits (R455), but a posted write of the host is not. -/
def State.complete (s : State) (e : ShedReq) : State :=
  let t := if e.wr then (if e.beats = 1 then s.busWrite e.m e.a e.size e.v (decide (0 ∈ e.clash)) else s.busBurst e)
    else if e.beats ≠ 1 then s.bankBurst e
    else if (windowOf e.a).isSome ∧ e.m = 66 then s.bankLoad 66 (e.a - 0x1000000) e.size
    else s.busRead e.m e.a e.size
  if t.tst.shedQ.length ≠ s.tst.shedQ.length ∨ (e.m = 66 ∧ e.wr) then t
  else t.send [.lateAnswer e.m e.a (t.resp.data :: t.resp.more) t.resp.status]

/-- What waited in front of targets that are no longer held goes on, in order (DESIGN CHOICE, notes/assumptions/49.md: at the boundary); the rest
waits on. -/
def State.holdsLeft (s : State) : State :=
  let s1 := s.when (!s.tgtHeld 59) (fun s => seqAll (fun e s => s.hostWrite e.1 e.2) s.pcie.hostQ (s.modPcie (fun p => { p with hostQ := [] })))
  seqAll (fun e s => s.complete e) s1.tst.shedQ (s1.modTst (fun t => { t with shedQ := [] }))

/-- REGISTER_WRITE (R6, R365, R401): a write of any register, window or host memory. -/
def execRegisterWrite (m : Mid) (addr : BitVec 27) (size : Nat) (v : BusData) (s : State) : Out := .next (s.busStore m addr.toNat size v)

/-- IRQ_RAW_CLEAR (R405): a W1C write of a page's IRQ_RAW; the causes `same` that the hardware sets in that cycle stay set, and the tree sees no
gap in them. -/
def execIrqRawClear (m : Mid) (page : BitVec 26) (v : Word) (same : Word) (s : State) : Out :=
  let a := page.toNat + 0x10
  let s1 := s.write4 m a v (fun s => s.regWrite m a (v &&& ~~~same))
  .next (match locate page.toNat with
    | some (b, _, 0) => if isPage b then s1.irq page.toNat (same.toNat &&& irqMask b) else s1
    | _ => s1)

/-- IRQ_FORCE (R405). -/
def execIrqForce (m : Mid) (page : BitVec 26) (v : Word) (s : State) : Out := .next (s.regAccess m (page.toNat + 0x18) v)

/-- ERRLOG_READ (R405): a read of a page's ERRLOG, which clears it. -/
def execErrlogRead (m : Mid) (page : BitVec 26) (s : State) : Out := .next (s.busRead m (page.toNat + 0x20) 4)

/-- GUARDED_WRITE (R296): a register write by weaver `w`; the guard stands before the writes of W60 to W63. -/
def execGuardedWrite (w : Fin 64) (addr : BitVec 26) (v : Word) (s : State) : Out :=
  .next (s.busWrite (BitVec.ofNat 8 w.val) addr.toNat 4 (v.setWidth 64))

/-! ### SMBus (R417, R418) -/

/-- The pointer advances by 4. -/
def State.smbNext (s : State) : State := s.modPwr (fun p => { p with smbPtr := p.smbPtr + 4 })

/-- A transfer reaches the SMBus target, unless the boundary register holds its lands (R449) or there is no power (R420). -/
def State.smb (s : State) (f : State → State) : State := s.when (s.pwr.inRange && !s.jtag.frozen) f

/-- The SMBus target answers with bytes. -/
def State.smbOut (s : State) (bs : List Byte) : State := s.emit (.smbus bs)

/-- SMB_SET_POINTER: command 0x01; bits [1:0] are ignored. -/
def execSmbSetPointer (v : Word) (s : State) : Out :=
  .next (s.smb (·.modPwr (fun p => { p with smbPtr := BitVec.ofNat 26 (v.toNat / 4 * 4) })))

/-- SMB_READ_REGISTER: command 0x02; zero with the CDP domain off. A read that waits in front of a held target is answered once it completes
(R455). -/
def execSmbReadRegister (s : State) : Out :=
  .next (s.smb (fun s =>
    let s1 := if s.pwr.cdpOn then s.busRead 67 s.pwr.smbPtr.toNat 4 else s.answer 0
    (s1.when (decide (s.gate 67 s.pwr.smbPtr.toNat 4 false ≠ .wait)) (·.smbOut (leBytes 4 s1.resp.data.toNat))).smbNext))

/-- SMB_WRITE_REGISTER: command 0x03; discarded and counted without the SMB_WREN strap (R418). -/
def execSmbWriteRegister (v : Word) (s : State) : Out :=
  .next (s.smb (fun s =>
    (if bit s.pwr.straps 1 then s.busWrite 67 s.pwr.smbPtr.toNat 4 (v.setWidth 64) else s.incReg 0x5C).smbNext))

/-- SMB_READ_IDENTITY: command 0x10. -/
def execSmbReadIdentity (s : State) : Out :=
  .next (s.smb (fun s => s.smbOut (leBytes 4 (idWord .glb 0).toNat ++ leBytes 8 s.serialNo)))

/-- SMB_READ_POWER: command 0x11. -/
def execSmbReadPower (s : State) : Out :=
  .next (s.smb (fun s => s.smbOut (leBytes 2 s.pwr.vin.toNat ++ leBytes 2 s.pwr.iin.toNat ++ leBytes 2 s.pwr.pin.toNat)))

/-- SMB_READ_TEMPERATURES: command 0x12. -/
def execSmbReadTemperatures (s : State) : Out :=
  .next (s.smb (fun s => s.smbOut ((List.range 12).flatMap (fun i => leBytes 2 (s.rf (pwrA (0x60 + 4 * i)) 0 16)))))

end Sys2Proof.Machine
end

