-- ==== Sys2Proof/Machine/Jtag.lean ====
section
/-! DEFINITION. The JTAG port (R448-R450) and the perturbation and monitor configuration registers (R445, R451-R454). -/
namespace Sys2Proof.Machine

/-- An instruction takes effect. The boundary register holds the covered lands under EXTEST, CLAMP and HIGHZ; when it lets them go,
INT_N shows its level again (R449). -/
def State.jtagIr (s : State) (ir : JtagIr) (freeze : Bool) : State :=
  let s1 := s.modJtag (fun j => { j with ir := ir, frozen := freeze })
  if s.jtag.frozen && !freeze then s1.emit (.intN s1.pcie.intN) else s1

/-- The TAP has power with the module (R420). -/
def State.tap (s : State) (f : State → State) : State := s.when s.pwr.inRange f

/-- JTAG_TAP_RESET: Test-Logic-Reset selects IDCODE and resets nothing else (R448). -/
def execJtagTapReset (s : State) : Out := .next (s.tap (fun s => s.jtagIr .idcode false))
/-- JTAG_EXTEST (R449). -/
def execJtagExtest (s : State) : Out := .next (s.tap (fun s => s.jtagIr .extest true))
/-- JTAG_IDCODE: the code is shifted out (R448). -/
def execJtagIdcode (s : State) : Out := .next (s.tap (fun s => (s.jtagIr .idcode false).emit (.jtag 0x1914076B)))
/-- JTAG_SAMPLE_PRELOAD: the boundary register takes the cells shifted in (R448). -/
def execJtagSamplePreload (cells : BitVec 412) (s : State) : Out :=
  .next (s.tap (fun s => (s.jtagIr .sample false).modJtag (fun j => { j with boundary := cells })))
/-- JTAG_CLAMP (R449). -/
def execJtagClamp (s : State) : Out := .next (s.tap (fun s => s.jtagIr .clamp true))
/-- JTAG_HIGHZ (R449). -/
def execJtagHighz (s : State) : Out := .next (s.tap (fun s => s.jtagIr .highz true))
/-- JTAG_BYPASS: 0xFF, or any code the table of R448 does not list. -/
def execJtagBypass (code : Byte) (s : State) : Out :=
  .next (s.when (s.pwr.inRange && bypassOk code) (·.jtagIr .bypass false))

/-- What Capture-DR shows: STATUS and the data of the last completed access; BUSY before completion (R450). -/
def State.dbgCapture (s : State) : BitVec 64 :=
  BitVec.ofNat 64 ((if s.jtag.busy.isSome then 3 else s.jtag.status) * 2 ^ 60 + s.jtag.data.toNat)

/-- JTAG_DBG_ACC: a scan of the DBG_ACC register: the captured value goes out, `v` comes in; a read or write is issued unless one is
still BUSY (R450). -/
def execJtagDbgAcc (v : BitVec 64) (s : State) : Out :=
  .next (s.tap (fun s =>
    let s1 := (s.jtagIr .dbgAcc false).emit (.jtag s.dbgCapture)
    s1.when (decide (fld v 62 2 = 1 ∨ fld v 62 2 = 2) && s.jtag.busy.isNone) (·.modJtag (fun j => { j with busy := some v }))))

/-- Code of a status (R450). -/
def statusCode : Status → Nat
  | .ok => 0 | .dec => 1 | .err => 2

/-- The debug access as master 68. -/
def State.dbgRun (s : State) (v : BitVec 64) : State :=
  let a := fld v 34 24 * 4
  let rd := decide (fld v 62 2 = 1)
  let s1 := if rd then s.busRead 68 a 4 else s.busWrite 68 a 4 (v.setWidth 32 |>.setWidth 64)
  s1.modJtag (fun j => { j with busy := none, status := statusCode s1.resp.status,
                                data := if rd then s1.resp.data.setWidth 32 else v.setWidth 32 })

/-- The access `v` goes to a target that is held full: it stays BUSY (R455). -/
def State.dbgHeld (s : State) (v : BitVec 64) : Bool := s.gate 68 (fld v 34 24 * 4) 4 (decide (fld v 62 2 = 2)) == .wait

/-- DBG_ACC_DONE (R450, R455): due while an access is BUSY and its target is not held. -/
def execDbgAccDone (s : State) : Out :=
  .next (match s.jtag.busy with | some v => if s.dbgHeld v then s else s.dbgRun v | none => s)

/-! ### Registers of the monitor and of the perturbation hooks -/

/-- TST_CFG_WRITE (R445). -/
def execTstCfgWrite (m : Mid) (v : Word) (s : State) : Out := .next (s.write4 m (tstA 0x40) v (fun s => s.tstCfg m v))
/-- TST_PERT_EN_WRITE (R451): in force from the next boundary. -/
def execTstPertEnWrite (m : Mid) (v : Word) (s : State) : Out :=
  .next (s.write4 m (tstA 0x44) v (fun s => s.putMasked (tstA 0x44) v))
/-- LN_PERTURB_WRITE (R452): in force from the next boundary. -/
def execLnPerturbWrite (m : Mid) (l : Fin 512) (i : Fin 4) (v : Word) (s : State) : Out :=
  let a := lnA l.val (0x30 + 4 * i.val)
  .next (s.write4 m a v (fun s => s.putMasked a v))
/-- SHED_PERTURB_WRITE (R453). -/
def execShedPerturbWrite (m : Mid) (i : Fin 4) (v : Word) (s : State) : Out :=
  .next (s.write4 m (shedA (0x30 + 4 * i.val)) v (fun s => s.shedHookWrite i.val v))
/-- BEAT_PERTURB_WRITE (R454): in force from the next boundary. -/
def execBeatPerturbWrite (m : Mid) (i : Fin 4) (v : Word) (s : State) : Out :=
  let a := beatA (0x30 + 4 * i.val)
  .next (s.write4 m a v (fun s => s.putMasked a v))

end Sys2Proof.Machine
end

