-- ==== Sys2Proof/Machine/Policy.lean ====
section
/-! DEFINITION. Policies of the head weavers (R293-R296): what they measure at every boundary of the interval, and what they decide and write
at its end. How the points that the rules leave open are taken is in notes/assumptions/30.md (DESIGN CHOICE). -/
namespace Sys2Proof.Machine

/-- A decision: the register, its new value, what was measured. -/
structure Decision where
  addr : Nat
  new : Word
  measure : Nat
deriving DecidableEq, Repr

/-- The interval of a policy, in bolts (R293). -/
def State.polInterval (s : State) (w : Nat) : Nat := atLeast1 (s.rf (wvrA w 0x200) 16 8) * 15625

/-- A policy runs now: a policy role, its interval's end, a Foreman active, MODE 1 or 2 (R293, R294, R296). -/
def State.polDue (s : State) (w : Nat) : Bool :=
  let x := s.weaver w
  decide (60 ≤ w ∧ (x.st = .run ∨ x.st = .sleep) ∧ s.bolt.toNat % s.polInterval w = 0 ∧ x.polAt ≠ s.bolt) && isPolicy x.role
    && !s.headless && decide (s.rf (wvrA w 0x200) 0 2 = 1 ∨ s.rf (wvrA w 0x200) 0 2 = 2)

/-! ### Measures -/

/-- `n` more of object `i`, which was good throughout the bolt or not. -/
def Weaver.polAdd (i n : Nat) (good : Bool) (x : Weaver) : Weaver :=
  { x with polSum := if n = 0 then x.polSum else smPut 0 x.polSum i (smGet 0 x.polSum i + n)
           polOk := if good then smPut 0 x.polOk i (smGet 0 x.polOk i + 1) else x.polOk }

/-- SF episodes of fewer than 16 bolts on working legs that are over since `a` (R293). -/
def shortEpisodes (a s : State) (g : Nat) : Nat :=
  ((s.members g).filter (fun m =>
    match ((a.grp g).leg m.1).sfOn with
    | some b => decide (((s.grp g).leg m.1).sfOn = none ∧ since s.bolt b < 16)
    | none => false)).length

/-- Group `g` has a working leg and a hold-off that POL_HOLD tunes. -/
def State.polTunes (s : State) (g : Nat) : Bool := decide (1 ≤ (s.grp g).ty ∧ (s.grp g).ty ≤ 3)

/-- Line-recovered slots qualified now. -/
def State.polQual (s : State) : List Nat := (List.range 16).filter (fun j => s.candOn (8 + j) && (s.cand (8 + j)).qual)

/-- For each slot, in how many consecutive intervals it has been QUALIFIED throughout, the last one included; a decision is no part of the
measure, and an interval without one counts too (R293). -/
def Weaver.polRuns (x : Weaver) : SMap Nat :=
  (List.range 16).foldl (fun m j =>
    smPut 0 m j (if 0 < x.polN ∧ smGet 0 x.polOk j = x.polN then smGet 0 x.polMem j + 1 else 0)) []

/-- An interval begins: what POL_REF counts over intervals is brought up to date. -/
def Weaver.polStart (x : Weaver) : Weaver :=
  { x with polMem := if x.role = 0x12 then x.polRuns else x.polMem, polN := 0, polSum := [], polOk := [] }

/-- The bolt that ended, as policy `w` measures it: `e` as the bolt ended, `a` before the groups were evaluated (R293). -/
def State.polMeasure (e a : State) (w : Nat) (s : State) : State :=
  let add := fun (l : List (Nat × Nat × Bool)) => s.modWeaver w (fun x =>
    let x0 : Weaver := if e.bolt.toNat % e.polInterval w = 0 then x.polStart else x
    l.foldl (fun x i => x.polAdd i.1 i.2.1 i.2.2) { x0 with polN := x0.polN + 1, polSeen := s.polQual })
  match (s.weaver w).role with
  | 0x10 => add ((e.lanes.filter (fun n => e.awake (n.1 / 64))).map (fun n =>
      (n.1, (s.lane n.1).fecCor, n.2.framer == .sync && n.2.inAll)))
  | 0x11 => add ((a.prot.grp.filter (fun g => a.polTunes g.1 && s.polTunes g.1)).map (fun g => (g.1, shortEpisodes a s g.1, true)))
  | 0x12 =>
    let q := s.polQual
    let p := (s.weaver w).polSeen
    add ((List.range 16).map (fun j => (j, if p.contains j && !q.contains j then 1 else 0, p.contains j && q.contains j)))
  | _ => s

/-- Every running policy measures the bolt that ended. -/
def State.polWatch (e a s : State) : State :=
  seqAll (fun w s => s.when (isPolicy (s.weaver w).role && ((s.weaver w).st == .run || (s.weaver w).st == .sleep)) (State.polMeasure e a w))
    [60, 61, 62, 63] s

/-- Objects that policy `w` measured, with the mean, the episodes or the changes of each. -/
def State.polMeasured (s : State) (w : Nat) : List (Nat × Nat) :=
  let x := s.weaver w
  match x.role with
  | 0x10 => ((List.range 512).filter (fun l => decide (0 < x.polN ∧ smGet 0 x.polOk l = x.polN))).map (fun l => (l, smGet 0 x.polSum l / x.polN))
  | 0x11 => ((s.prot.grp.map (·.1)).filter s.polTunes).map (fun g => (g, smGet 0 x.polSum g))
  | _ => ((List.range 16).filter (fun j => s.candOn (8 + j))).map (fun j => (j, smGet 0 x.polSum j))

/-! ### Decisions -/

/-- POL_DEG on lane `l`, in SYNC throughout: mean `m` of corrected symbols per bolt. -/
def State.polDeg (s : State) (l m : Nat) : Option Decision :=
  let a := lnA l 0x54
  let cur := (s.reg a).toNat
  let new := min (8 * m + 256) 0xFFFFFFFF
  if cur < 8 * (max new cur - min new cur) then some { addr := a, new := w32 new, measure := m } else none

/-- POL_HOLD on group `g`: `n` short SF episodes. -/
def State.polHold (s : State) (w g n : Nat) : Option Decision × State :=
  let a := recA g 0
  let h := s.rf a 16 12
  let first := smGet 0 (s.weaver w).polMem g
  if 4 ≤ n then
    (some { addr := a, new := setFld (s.reg a) 16 12 (min 4095 (h + 4)), measure := n },
     if first = 0 then s.modWeaver w (fun x => { x with polMem := smPut 0 x.polMem g (h + 1) }) else s)
  else if n = 0 ∧ first ≠ 0 ∧ first - 1 < h then (some { addr := a, new := setFld (s.reg a) 16 12 (h - 4), measure := n }, s)
  else (none, s)

/-- Slot `j` is the only line-recovered candidate other than the selected one that can be selected. -/
def State.onlyOther (s : State) (j : Nat) : Bool :=
  s.selectable (8 + j) && (List.range 16).all (fun i => decide (i = j ∨ s.beat.sel = some (8 + i)) || !s.selectable (8 + i))

/-- POL_REF on slot `j`: `n` changes of QUALIFIED from 1 to 0. -/
def State.polRef (s : State) (w j n : Nat) : Option Decision :=
  let a := beatA (0x140 + 4 * j)
  let x := s.weaver w
  if s.rb a 14 then
    (if 4 ≤ smGet 0 x.polRuns j then some { addr := a, new := setBit (s.reg a) 14 false, measure := n } else none)
  else if 3 ≤ n ∧ s.beat.sel ≠ some (8 + j) ∧ ¬ s.onlyOther j then
    some { addr := a, new := setBit (s.reg a) 14 true, measure := n }
  else none

/-- A policy log record (R294). -/
def polRecord (bolt : Word) (role result reason : Nat) (old : Word) (d : Decision) : List Byte :=
  beBytes 4 bolt.toNat ++ [BitVec.ofNat 8 role, BitVec.ofNat 8 result, BitVec.ofNat 8 reason, 0] ++ beBytes 4 d.addr ++
    beBytes 4 old.toNat ++ beBytes 4 d.new.toNat ++ beBytes 4 d.measure ++ List.replicate 8 0

/-- A decision is acted on, advised or refused, and logged (R294, R296). -/
def State.polAct (s : State) (w : Nat) (d : Decision) : State :=
  let role := (s.weaver w).role
  let old := s.reg d.addr
  let act := decide (s.rf (wvrA w 0x200) 0 2 = 2)
  let why := if act then s.guardRefusal w d.addr d.new else none
  let s1 := if act then (s.wakeFor w).busWrite (BitVec.ofNat 8 w) d.addr 4 (d.new.setWidth 64) false else s
  s1.ringWrite w (wvrA w 0x210) (wvrA w 0x214) (wvrA w 0x218)
    (polRecord s.bolt role (if ¬ act then 1 else if why.isSome then 2 else 0) (why.getD 0) old d)

/-- One measured object. With a full log the policy makes no decision (R294). -/
def State.polOne (w : Nat) (e : Nat × Nat) (s : State) : State :=
  if s.svcStuck w (wvrA w 0x210) (wvrA w 0x214) (wvrA w 0x218) (wvrA w 0x21C) 32 then s
  else
    let r := match (s.weaver w).role with
      | 0x10 => (s.polDeg e.1 e.2, s)
      | 0x11 => s.polHold w e.1 e.2
      | _ => (s.polRef w e.1 e.2, s)
    match r.1 with
    | some d => r.2.polAct w d
    | none => r.2

/-- The policy of weaver `w` takes its measures `meas`, where its interval is over (R293). -/
def State.polTake (w : Nat) (meas : List (Nat × Nat)) (s : State) : State :=
  s.when (s.polDue w) (fun s => seqAll (State.polOne w) meas (s.modWeaver w (fun x => { x with polAt := s.bolt })))
/-- An interval's end that no row has taken: the objects by rising number. -/
def State.polRun (w : Nat) (s : State) : State := s.polTake w (s.polMeasured w)

/-- POLICY_INTERVAL (R293). The row tells what the firmware measured, in the order in which it takes the objects; what is no order of the measures
of this state tells of no interval's end here. -/
def execPolicyInterval (w : Fin 64) (meas : List (Nat × Nat)) (s : State) : Out :=
  .next (s.when (meas.isPerm (s.polMeasured w.val)) (State.polTake w.val meas))

end Sys2Proof.Machine
end

