-- ==== Sys2Proof/Machine/Commit.lean ====
section
/-! DEFINITION. The commit of the Heddle at its bolt (R81-R86, R161, R469). -/
namespace Sys2Proof.Machine

/-- The swap: active and standby pages change places, and marks on entries the batch rewrote end (R81, R88). -/
def State.swapPages (s : State) : State :=
  s.clearRewritten.modLoom (fun l => { l with act := l.stb, stb := l.act, phys := !l.phys })

/-- The commit took the Heddle connection of leg `x` to destination `d` away. -/
def State.cut (old new : State) (d x : Nat) (protect : Bool) : Bool :=
  old.loom.act.legOn d x protect && !new.loom.act.legOn d x protect

/-- Held picks of a removed leg of an errorless pair are invalid from round 0 (R182). -/
def State.cutStore (old new : State) : State :=
  new.modProt (fun p => { p with store := p.store.filter (fun e =>
    !State.cut old new (new.gDst e.g) (if e.protect then new.gProt e.g else new.gWork e.g) e.protect) })

/-- The whole commit: the swap, the removed legs' picks, which the evaluation of R155 has already known as SF (R161, R469), the ONCE grants
used (R79), the engine's side. -/
def State.heddleCommit (s : State) : State :=
  ((State.cutStore s s.swapPages).clearOnce s.trd.once).engCommit false

/-- HEDDLE_COMMIT (R81): due at the boundary of the target bolt once every touched tile has acknowledged. -/
def execHeddleCommit (s : State) : Out := .next (s.when s.commitDue (·.heddleCommit))

end Sys2Proof.Machine
end

