-- ==== Sys2Proof/Machine/Boundary.lean ====
section
/-! DEFINITION. The tail of a module bolt boundary. Rows of their own take what falls at the boundary: resets, sleeps, reloads,
commits, recentres, Beat changes, alignment of pairs. What none has taken by the first pick of the bolt, or by the next boundary, is taken then
(DESIGN CHOICE, notes/assumptions/1.md). Then the picks themselves: PICK_SWITCH and THREAD_PICK_READ. -/
namespace Sys2Proof.Machine

/-- Recentres due at the boundary (R56). -/
def State.recentresDue (s : State) : State :=
  seqAll (fun (e : Nat × Lane) s => s.when (s.lane e.1).recDue (·.recentre e.1)) s.lanes s

/-- Port tiles whose PT_ON was taken as 0 (R424). -/
def State.sleepsDue (s : State) : State := seqAll (fun p s => s.when (!s.want p && s.domUp p) (·.sleepTile p)) (List.range 8) s

/-- Marked map entries return to the values last committed for them (R88, R133). -/
def State.reloadsDue (s : State) : State :=
  (s.modLoom (fun l => { l with ecc := reloadAll l.ecc })).modFine (fun f => { f with ecc := reloadAll f.ecc })

/-- Heddle and Fine loom commits (R81, R129). -/
def State.commitsDue (s : State) : State := (s.when s.commitDue (·.heddleCommit)).when s.fineDue (·.fineCommit)

/-- Egress position `k` carries a pattern from the boundary on where no pick is switched to it (R50, R461); on a looped lane it carries the
received stream (R58). -/
def State.fillTx (s : State) (k : Nat) : State :=
  let p := s.fillKind (lsrOfNo k)
  if s.loops (laneOf k) then s.modTx k (fun t => { t with pat := false })
  else s.modTx k (fun t =>
    { t with out := match p with | some kind => forcedPick kind | none => t.out
             pat := p.isSome || decide (s.lnTxpat (laneOf k) = 1 ∨ s.lnTxpat (laneOf k) = 4) })

/-- Fine loom input `f`: the pattern that stands in for its picks from the boundary on (R72, R82, R131). -/
def State.fillFine (s : State) (f : Nat) : State :=
  let p := s.fillKind (lsrOf 8 f)
  s.modFine (fun x =>
    let l := smGet [] x.inPat f
    if (l.head?.map (·.2)).getD (some .oci) = p then x
    else { x with inPat := smPut [] x.inPat f (((s.absRound 0, p) :: l).take 4) })

/-- Patterns of every position that has carried or is to carry picks. -/
def State.fills (s : State) : State :=
  let d := s.dests
  let tx := (d.filter (fun d => decide (lsrPort d < 8))).map skNo
  let s1 := seqAll (fun k s => s.fillTx k) (s.sktx.map (·.1) ++ tx.filter (fun k => !s.sktx.any (fun e => decide (e.1 = k)))) s
  let fi := (d.filter (fun d => decide (lsrPort d = 8))).map lsrIdx
  seqAll (fun f s => s.fillFine f) (s.fine.inPat.map (·.1) ++ fi.filter (fun f => !s.fine.inPat.any (fun e => decide (e.1 = f)))) s1

/-- What falls at the boundary that started the present bolt, taken once. -/
def State.closeBoundary (s : State) : State :=
  if ¬ s.beat.edge then s
  else (s.resetLeft.sleepsDue.reloadsDue.commitsDue.recentresDue.beatDue.pairsDue.fills.clkEdges).modBeat (fun b => { b with edge := false })

/-- PICK_SWITCH (R73). -/
def execPickSwitch (p : PickIn) (s : State) : Out :=
  .next (s.when (pickOk p) (·.closeBoundary.switchPick p))

/-- THREAD_PICK_READ: the interchange reads the pick of an output thread, in a round that its position holds (R114, R124). -/
def execThreadPickRead (out : BitVec 18) (round : Nat) (sbe : Nat) (s : State) : Out :=
  .next (s.when (trefOk out && decide (round < 625 ∧ round % 125 = out.toNat % 128)) (·.closeBoundary.threadRead out.toNat round sbe))

end Sys2Proof.Machine
end

