-- ==== Sys2Proof/Machine/Transmit.lean ====
section
/-! DEFINITION. What egress lanes send in the overhead of a bolt, in pick order: lane header, skein headers, APS slots, cells and reserved
picks (R15, R26-R28, R31-R33, R36-R42, R59, R148, R160, R162, R164, R175, R199-R201, R222, R452, R461), and what a lane in terminal loopback
receives of it (R58). Outputs show the bytes as they stand on the line. -/
namespace Sys2Proof.Machine

/-- Fields of a skein header (R36). -/
structure SkFields where
  trail : Word := 0
  seq : Word := 0
  origin : Nat := 0
  tenant : Nat := 0
  flags : Nat := 0
  p : Nat := 0
deriving DecidableEq, Repr

/-- The 32 bytes of a skein header. -/
def SkFields.bytes (f : SkFields) : List Byte :=
  let b := beBytes 4 f.trail.toNat ++ beBytes 4 f.seq.toNat ++ beBytes 5 f.origin ++ beBytes 2 f.tenant ++ [BitVec.ofNat 8 f.flags]
    ++ beBytes 2 f.p ++ List.replicate 10 0
  b ++ beBytes 4 (crc32c b)

/-- The header of a skein sent with one flag (R38). -/
def State.flagHdr (s : State) (k tenant flags : Nat) : SkFields := { origin := skeinAddr s.devId k, tenant := tenant, flags := flags }

/-- SEQ of the skein bolt whose rho 624 an errorless output placed in the bolt before (R170, R176), if it placed one. -/
def State.outSeq (s : State) (g : Nat) : Option Word :=
  let q := s.grp g
  let b : Int := 625 * ((s.beat.bolts : Int) - 1)
  if b + (q.tout + 624) % 625 < q.gapTo then none else some (BitVec.ofInt 32 (wrapRounds (b - q.tout) / 625))

/-- The header of an errorless output (R175): the AIS flag in ACQ, or where no leg it may take is without it. -/
def State.pairHdr (s : State) (g k tenant : Nat) : SkFields :=
  let q := s.grp g
  let sel := q.outLeg
  let src := fun (p : Bool) => skNo (if p then s.gProt g else s.gWork g)
  if q.align = .acq ∨ (s.srcFlag (src sel) ∧ (q.align ≠ .aligned ∨ s.srcFlag (src !sel))) then s.flagHdr k tenant 1
  else
    let m := q.meas sel
    let find := fun (m : LegMeas) (x : Word) => (m.hist.find? (fun e => decide (e.1 = x))).map (·.2)
    let b : SkFields := { origin := m.origin.toNat, tenant := tenant, p := (q.tout % 625).toNat }
    match s.outSeq g with
    | none => b
    | some x => match (find m x).or (find (q.meas !sel) x) with
      | some t => { b with seq := x, trail := t }
      | none => b

/-- The header of egress skein `k` for the bolt now begun, as rows 4 to 8 of R461 decide it. SEQ and TRAIL are those of the skein bolt whose
rho 624 pick left here in the bolt before, of the source that feeds it now; without one they are 0 (R37, R199; DEDUCED,
notes/assumptions/22.md). `free` stands in TRAIL, and `free2` in SEQ, where their ingress header is still to come, and in TRAIL of a
re-originated skein of which the model did not see all 625 picks. -/
def State.skeinOut (s : State) (k : Nat) (free free2 : Word) : SkFields :=
  let d := lsrOfNo k
  let ten := egTen (s.egEff d)
  match s.fillKind d with
  | some .lck => s.flagHdr k ten 4
  | some .oci => s.flagHdr k ten 2
  | some _ => s.flagHdr k ten 1
  | none =>
    match s.chosen d with
    | (_, some g) => s.pairHdr g k ten
    | (none, _) => s.flagHdr k ten 1
    | (some x, _) =>
      if lsrPort x = 8 then
        (let f := (s.fineFlag (lsrIdx x)).toNat
         if f ≠ 0 then s.flagHdr k ten f
         else
           let m := s.bolt - 1
           let o := skeinAddr s.devId k
           let t := s.tx k
           { trail := if t.genN = 625 then t.gen ^^^ 0xFFFFFFFF ^^^ w32 (trailKey o m.toNat) else free,
             seq := m, origin := o, tenant := ten })
      else if s.srcFlag (skNo x) then s.flagHdr k ten 1
      else
        let r := s.rx (skNo x)
        let b : SkFields := { origin := r.origin.toNat, tenant := ten, p := s.pOut (skNo x) }
        if (s.tx k).prev624 ≠ some (skNo x) then b
        else if r.finHdr = r.fin then { b with seq := r.finSeq, trail := r.finTrail }
        else { b with seq := free2, trail := free }

/-- TX_TRAIL of PERTURB3 (R452). -/
def State.skeinInject (s : State) (k : Nat) (f : SkFields) : SkFields :=
  let h := s.lnHook (laneOf k) 3
  if bit h 13 ∧ fld h 0 8 = k % 160 then { f with trail := f.trail ^^^ 1 } else f

/-- A FAW with three bits inverted, which ones from a free value: any three distinct bits (R452). -/
def fawErr (v : Word) : BitVec 64 :=
  let a := v.toNat % 64
  faw ^^^ BitVec.ofNat 64 (2 ^ a + 2 ^ ((a + 1 + v.toNat / 64 % 31) % 64) + 2 ^ ((a + 32 + v.toNat / 2048 % 32) % 64))

/-- A lane on which an enabled group has an APS slot (R162). -/
def State.apsOn (s : State) (l : Nat) : Bool := s.enabled.any (fun g => (s.grp g).isAps && decide (s.apsLane g = l))

/-- QL that lane `l` transmits (R60, R222). -/
def State.laneQl (s : State) (l : Nat) : Nat :=
  let o := s.reg (lnA l 0x64)
  if bit o 4 then fld o 0 4
  else match s.qlTx with
    | (q, some x) => if x = l then 0xF else q
    | (q, none) => q

/-- Bytes 8 to 63 of a lane header (R32); BIP inverted in bit 0 and HCRC in bit 0 where PERTURB2 says so (R452). -/
def State.laneOut (s : State) (l : Nat) (bip : Word) : List Byte :=
  let pat := decide (s.lnTxpat l = 1)
  let h := s.lnHook l 2
  let i := s.bolt.toNat % 8
  let mode := if pat then 3 else if s.lnLoop l = 2 then 2 else 0
  let b := beBytes 4 s.bolt.toNat ++ beBytes 4 (s.devId * 2 ^ 9 + l)
    ++ beBytes 4 (s.reg (lnA l (0x200 + 8 * i))).toNat ++ beBytes 4 (s.reg (lnA l (0x204 + 8 * i))).toNat
    ++ beBytes 4 (bip.toNat ^^^ (bit h 8).toNat)
    ++ [BitVec.ofNat 8 (s.laneQl l), BitVec.ofNat 8 ((s.apsOn l && !pat).toNat * 0x80), BitVec.ofNat 8 ((s.bdiTx l).toNat * 0x80),
        BitVec.ofNat 8 (s.lane l).beiOut, BitVec.ofNat 8 (0x10 + mode)] ++ List.replicate 27 0
  b ++ beBytes 4 (crc32c b ^^^ (bit h 9).toNat)

/-- The FAW of a header: errored where PERTURB2 says so. -/
def State.fawOut (s h : State) (l : Nat) : State × List Byte :=
  if bit (h.lnHook l 2) 10 then
    (let r := s.freeVal
     (r.2, beBytes 8 (fawErr r.1).toNat))
  else (s, beBytes 8 faw.toNat)

/-- The 160 skein headers of lane `l`, and the state with the free values they took. -/
def State.skeinHdrs (s h : State) (l : Nat) : List (List Byte) × State :=
  if h.lnTxpat l = 4 then (List.replicate 160 (List.replicate 32 0xFF), s)
  else if h.lnTxpat l = 1 then
    ((span (160 * l) 160).map (fun k => (h.skeinInject k (h.flagHdr k (egTen (h.egEff (lsrOfNo k))) 4)).bytes), s)
  else
    ((span (160 * l) 160).mapIdx (fun i k =>
        (h.skeinInject k (h.skeinOut k (Config.freeWord (s.free + 2 * i)) (Config.freeWord (s.free + 2 * i + 1)))).bytes),
     { s with free := s.free + 320 })

/-- APS slot `j` of lane `l`: the content that the boundary before decided, `a` being the state as that boundary left it, where the group is
still enabled; zero where no group uses the slot (R39, R162-R164). -/
def State.apsSlot (a h : State) (l j : Nat) : List Byte :=
  match a.enabled.find? (fun g => (a.grp g).isAps && (h.grp g).isAps && decide (a.apsLane g = l ∧ fld (a.grp g).cfg 10 6 = j)) with
  | some g =>
    let b := beBytes 4 (a.reg (apsA g 0xC)).toNat ++ [BitVec.ofNat 8 (fld (a.grp g).gwtr 16 8), 0]
    b ++ beBytes 2 (crc16 b)
  | none => List.replicate 8 0

/-- The 96 cells of lane `l` in this bolt: those that its port's Bamry and management channels have for it, then idle ones (R31, R41, R59,
R247). -/
def State.laneCells (h : State) (l : Nat) : List (List Byte) :=
  let n := h.nbr (l / 64)
  let fill := fun (m : Nat) (c : List (List Byte)) => (c.take m) ++ List.replicate (m - c.length) idleCell
  if n.lane = some (l % 64) ∧ h.carries l then fill 32 n.now ++ fill 64 n.mnow else List.replicate 96 idleCell

/-- The parity of the payload of a bolt shortened by `cut` picks that does not come from the switch (R59): of the PRBS31 payload; picks of one
byte have none. -/
def patParity (txpat cut : Nat) : Word := if txpat = 1 then bitsParity (patPayload % 2 ^ (512 * (100000 - cut))) else 0

/-- Rounds in which skein `k` has a pick in a bolt shortened by `cut` picks (R236). -/
def roundsOf (k cut : Nat) : Nat := (100000 - cut + 159 - k % 160) / 160

/-- The parity of the bolt now ended, over all that lane `l` sent in it, where the model knows every pick (R33). -/
def State.bipSent (s : State) (l cut : Nat) : Option Word :=
  let ks := span (160 * l) 160
  let sent := fun (k : Nat) => (s.tx k).line.filter (fun e => decide (e.1 < roundsOf k cut))
  let n := s.lane l
  if ks.all (fun k => (s.tx k).pat || decide ((sent k).length = roundsOf k cut)) then
    n.bipTx.map (fun w => ks.foldl (fun a k => (sent k).foldl (fun a e => a ^^^ wordParity e.2) a) (w ^^^ patParity (n.txPat.getD 0) cut))
  else none

/-- The switched picks that the egress lanes sent in the bolt now ended, lane by lane in pick order, as they stand on the line (R26, R27). -/
def State.linePicks (s : State) (cut : Nat) : List Output :=
  let m : SMap (List Byte) := s.sktx.foldl (fun m e => e.2.line.foldl (fun m x =>
    if x.1 < roundsOf e.1 cut then smInsert (100384 * laneOf e.1 + pickPos e.1 x.1) x.2 m else m) m) []
  m.map (fun e => .bits (e.1 / 100384) (e.1 % 100384) 1 (lineNum (scramble (64 * (e.1 % 100384)) e.2)))

/-- The pattern that lane `l` sent as its payload (R59). -/
def State.patOut (s : State) (l cut : Nat) : List Output :=
  let n := 512 * (100000 - cut)
  match (s.lane l).txPat with
  | some 1 => [.bits l 384 (100000 - cut) (scrambleBits (64 * 384) n (patPayload % 2 ^ n))]
  | some 4 => [.bits l 384 (100000 - cut) (scrambleBits (64 * 384) n (2 ^ n - 1))]
  | _ => []

/-- The payload of the bolt now ended, of every framed lane: |k| picks fewer where a STEP align cut it (R26, R27, R59, R236). -/
def State.payloadEnd (s : State) : State :=
  let c := s.cutPicks
  let ls := s.lanes.map (·.1)
  let s1 := s.send ((ls.map (fun l => s.patOut l c)).flatten ++ s.linePicks c)
  seqAll (fun l s => s.modLane l (fun n => { n with bipTx := if n.bipTx.isNone then none else s.bipSent l c, txPat := none })) ls s1

/-- The overhead outputs of a framed lane in pick order, as they stand on the line. -/
def overheadOut (l txpat : Nat) (hdr : List Byte) (sk slots cells : List (List Byte)) : List Output :=
  if txpat = 4 then
    [.laneHeader l (scramble 0 hdr), .bits l 1 383 (scrambleBits 64 (383 * 512) (2 ^ (383 * 512) - 1))]
  else
    [.laneHeader l (scramble 0 hdr)] ++ sk.mapIdx (fun i b => .skeinHeader (160 * l + i) (scramble (hdrPos i) b))
      ++ slots.mapIdx (fun j b => .apsSlot l j (scramble (slotPos j) b)) ++ cells.mapIdx (fun j b => .cell l j (scramble (cellPos j) b))
      ++ [.bits l 185 199 (scrambleBits (64 * 185) (199 * 512) 0)]

/-- The framer of a lane in terminal loopback receives the paired egress stream (R58): the FAW at the bolt boundary, where it stands only
once the framer has found it there; then, in SYNC, the lane header, with the parity of the bolt before it, and the skein headers. The
channels of overhead carry nothing to this device (R462). -/
def State.ownRx (s : State) (l : Nat) (hdr : List Byte) (bip : Word) (sk : List (List Byte)) : State :=
  let w : BitVec 64 := BitVec.ofNat 64 (beAt hdr 0 8)
  let n := s.lane l
  let b := s.bolt - 1
  let s1 :=
    if n.framer = .hunt then (if w = faw ∧ ¬ s.blind l then (s.fawMatch l b).modLane l (fun n => { n with own := true }) else s)
    else (s.fawSeen l (n.own && fawGood w && !s.blind l)).framerDue l b
  if (s1.lane l).framer = .sync ∧ (s1.lane l).own then
    seqAll (fun (e : Nat × List Byte) s => s.skeinHdr e.1 e.2) (sk.mapIdx (fun i b => (160 * l + i, b))) (s1.laneHdr l hdr bip)
  else s1

/-- LANE_HEADER_TRANSMIT and the overhead after it, of lane `l` (R15, R31, R32, R59, R461): `h` is the state that the headers of the bolt show,
`a` the state before the boundary's protection evaluation. BIP is a free value where the model did not see the whole bolt before. -/
def State.sendLane (s h a : State) (l : Nat) : State :=
  let t := h.lnTxpat l
  let off := fun (s : State) => s.modLane l (fun n => { n with bipTx := none, txPat := none })
  if ¬ h.awake (l / 64) then s
  else if h.rb (lnA l 0x40) 14 then off s
  else if t = 2 ∨ t = 3 then (off s).send [.unframed l t]
  else if t = 0 ∧ h.lnLoop l = 1 then off s
  else
    let r := s.freeVal
    let bip := (s.lane l).bipTx.getD r.1
    let (s1, f) := r.2.fawOut h l
    let hdr := f ++ (if t = 4 then List.replicate 56 0xFF else h.laneOut l bip)
    let (sk, s2) := s1.skeinHdrs h l
    let slots := (List.range 64).map (fun j => if t = 1 then List.replicate 8 0 else a.apsSlot h l j)
    let cells := h.laneCells l
    let errs := fld (h.lnHook l 2) 0 8
    let par := wordParity (if t = 4 then f else hdr ++ (sk ++ slots ++ cells).flatten)
    let s3 := (s2.modLane l (fun n => { n with bipTx := some par, txPat := some t })).send
      (overheadOut l t hdr sk slots cells ++ (if errs = 0 then [] else [.symErrors l errs]))
    if h.ownStream l then s3.ownRx l hdr bip sk else s3

/-- A lane in terminal loopback that sends no framed bolt gives its framer no FAW; one in it no longer has lost the position (R58). -/
def State.ownLost (s : State) (l : Nat) : State :=
  if s.ownStream l then (if s.framed l then s else (s.fawSeen l false).framerDue l (s.bolt - 1)) else s.modLane l (fun n => { n with own := false })

/-- The state that the headers of the bolt now begun show: what falls at its boundary is taken (R82, R88, R148, R160, R176,
R222, R435). -/
def State.headerView (s : State) : State := s.closeBoundary

/-- Every lane's overhead. -/
def State.sendHeaders (s a : State) : State :=
  let h := s.headerView
  seqAll (fun l s => if h.awake (l / 64) then (s.sendLane h a l).ownLost l else s) (List.range 512) s

end Sys2Proof.Machine
end

