-- ==== Sys2Proof/Machine/Twiuri.lean ====
section
/-! DEFINITION. The Twiuri monitor (R443-R447): its lines and its commands. Word values that a command prints are sent as
`uartWords`, since the spec gives their notation but not their layout on the line (DESIGN CHOICE, notes/assumptions/31.md). -/
namespace Sys2Proof.Machine

/-- Serves a command: the AON responder answers while headless, BUSY at shed level 1 and above, RO where a W command finds TW_WREN 0,
ARG for a bad argument; else it runs with the holder's ID (R443, R445). Nothing reaches the UART while the boundary register holds it. -/
def State.tw (s : State) (w ok : Bool) (f : Mid → State → State) : State :=
  if s.jtag.frozen then s
  else match s.holderId with
    | none => s.say (lineOf (ascii "! HEADLESS") ++ ascii "tw- ")
    | some h =>
      if 1 ≤ s.fmn.shed then s.sayEnd "! BUSY"
      else if w && !s.rb (tstA 0x40) 0 then s.sayEnd "! RO"
      else if ¬ ok then s.sayEnd "! ARG"
      else f (BitVec.ofNat 8 h) s

/-- The last line of a command whose accesses had this worst status. -/
def endLine : Status → String
  | .ok => "OK" | .dec => "! DEC" | .err => "! ERR"

/-- Reads words in order; the first status that is not OK is kept. -/
def twReads (m : Mid) : List Nat → State → State × List Word × Status
  | [], s => (s, [], .ok)
  | a :: t, s =>
    let s1 := s.busRead m a 4
    let r := twReads m t s1
    (r.1, s1.resp.data.setWidth 32 :: r.2.1, if s1.resp.status = .ok then r.2.2 else s1.resp.status)

/-- Lists of four. -/
def fours : Nat → List Word → List (List Word)
  | 0, _ => []
  | _, [] => []
  | n + 1, l => l.take 4 :: fours n (l.drop 4)

/-- Reads and prints words, then ends. -/
def State.twPrint (s : State) (m : Mid) (l : List Nat) : State :=
  let r := twReads m l s
  (r.1.emit (.uartWords r.2.1)).sayEnd (endLine r.2.2)

/-- Writes words in order. -/
def State.twWrites (s : State) (m : Mid) (l : List (Nat × Word)) : State := seqAll (fun e s => s.busWrite m e.1 4 (e.2.setWidth 64)) l s

/-- The command names of R445. -/
def helpText : List Byte :=
  ascii "help id rd wr set lane skein hdl tcmd fcmd prot beat fmn wvr tally trace reset baud lock"

def State.twHelp (s : State) : State := s.tw false true (fun _ s => (s.say (lineOf helpText)).sayEnd "OK")
/-- FMN_SELF of the holder. -/
def State.holderSelf (s : State) : Nat := selfA (decide (s.fmn.holder = 2))
def State.twId (s : State) : State :=
  s.tw false true (fun m s =>
    let r := twReads m [0, 0x44, 0x40, s.holderSelf] s
    (r.1.emit (.uartWords (r.2.1.set 3 ((r.2.1.getD 3 0) &&& 0xFFFF) ++ [w32 s.fmn.holder, s.fmn.gen]))).sayEnd (endLine r.2.2))
/-- A BAR0 address. -/
def bar0Ok (a : Nat) : Bool := decide (a < 2 ^ 26)
def State.twRd (s : State) (a n : Nat) : State :=
  s.tw false (bar0Ok a && decide (1 ≤ n ∧ n ≤ 64)) (fun m s =>
    let r := twReads m ((List.range n).map (fun i => a + 4 * i)) s
    (seqAll (fun l s => s.emit (.uartWords l)) (fours 16 r.2.1) r.1).sayEnd (endLine r.2.2))
def State.twWr (s : State) (a v : Nat) : State :=
  s.tw true (bar0Ok a && decide (v < 2 ^ 32)) (fun m s => (s.busWrite m a 4 (BitVec.ofNat 64 v)).sayEnd "OK")
def State.twSet (s : State) (a mask v : Nat) : State :=
  s.tw true (bar0Ok a && decide (mask < 2 ^ 32 ∧ v < 2 ^ 32)) (fun m s =>
    let r := twReads m [a] s
    let new := ((r.2.1.headD 0) &&& ~~~(w32 mask)) ||| (w32 v &&& w32 mask)
    if r.2.2 = .ok then (r.1.busWrite m a 4 (new.setWidth 64)).sayEnd "OK"
    else (r.1.emit (.uartWords r.2.1)).sayEnd (endLine r.2.2))
def laneArg (p n : Nat) : Bool := decide (p < 8 ∧ n < 64)
def State.twLane (s : State) (p n : Nat) : State :=
  s.tw false (laneArg p n) (fun m s => s.twPrint m ([0x44, 0x4C, 0x60, 0x68, 0x6C].map (lnA (64 * p + n))))
def State.twSkein (s : State) (p n k : Nat) : State :=
  s.tw false (laneArg p n && decide (k < 160)) (fun m s =>
    let l := 64 * p + n
    let r := twReads m ([0xC4, 0xC8, 0xCC, 0xD0].map (lnA l) ++ (List.range 5).map (fun d => lnA l (0x100 + 0x20 * d + k / 32 * 4)))
      (s.twWrites m [(lnA l 0xC0, w32 k)])
    let bits := (r.2.1.drop 4).map (fun w => w32 (bit w (k % 32)).toNat)
    (r.1.emit (.uartWords (r.2.1.take 4 ++ bits))).sayEnd (endLine r.2.2))
def State.twHdl (s : State) (map page port index : Nat) : State :=
  s.tw false (decide (map < 3 ∧ page < 2 ∧ port < 9 ∧ index < 2 ^ 14)) (fun m s =>
    ((s.twWrites m [(0x801040, w32 (map + page * 4 + port * 16 + index * 256)), (0x801044, 1)]).hdlReadDone).twPrint m
      [0x80104C, 0x801050, 0x801054])

/-- A command through window D with RING 1 and the monitor's TAG; the monitor then waits (R446). -/
def State.twCmd (s : State) (fe : Bool) (ws : List Word) : State :=
  s.tw true (decide (ws.length = 8)) (fun m s =>
    let tag := 0xF000 + s.tst.n % 4096
    let w0 := setFld (setFld (ws.headD 0) 10 2 1) 16 16 tag
    let l := (w0 :: ws.drop 1).mapIdx (fun i w => (engA fe (0x160 + 4 * i), w))
    (s.twWrites m l).modTst (fun t => { t with n := (t.n + 1) % 4096, wait := some (!fe, BitVec.ofNat 16 tag, s.bolt) }))
def State.twProt (s : State) (g : Nat) : State :=
  s.tw false (decide (g < 8192)) (fun m s =>
    s.twPrint m ((List.range 8).map (fun i => recA g (4 * i)) ++ (List.range 4).map (fun i => apsA g (4 * i))))
def State.twBeat (s : State) : State :=
  s.tw false true (fun m s => s.twPrint m ([0x44, 0x78, 0x80].map beatA ++ (s.beat.sel.toList.map (fun c => beatA (0x200 + 4 * c)))))
def State.twFmn (s : State) : State := s.tw false true (fun m s => s.twPrint m ([0x44, 0x48, 0x74, 0x64].map fmnA))
def State.twWvr (s : State) (w : Nat) : State := s.tw false (decide (w < 64)) (fun m s => s.twPrint m ([0x44, 0x58, 0x6C].map (wvrA w)))
/-- One counter: TLY_CSEL, TLY_CCMD.READ, then TLY_CDATA and TLY_CBOLT (R384). -/
def State.twTally (s : State) (c i t : Nat) (shadow : Bool) : State :=
  s.tw false (ctrOk c i t && decide (i < 2 ^ 18 ∧ c < 8 ∧ t < 15)) (fun m s =>
    let v := w32 (i + c * 2 ^ 18 + t * 2 ^ 21 + shadow.toNat * 2 ^ 25)
    ((s.twWrites m [(tlyA 0x44, v), (tlyA 0x48, 1)]).tlyReadDone v).twPrint m [tlyA 0x50, tlyA 0x54, tlyA 0x58])
/-- TST_TR_CMD, by its word. -/
def State.twTrace (s : State) (v : Word) : State := s.tw true true (fun m s => (s.twWrites m [(tstA 0x6C, v)]).sayEnd "OK")
/-- Prints records from TST_TR_RIDX on; records beyond COUNT are left out. -/
def State.twDump (s : State) (n : Nat) : State :=
  s.tw false (decide (1 ≤ n ∧ n ≤ 4096)) (fun m s =>
    (seqAll (fun _ s =>
      if s.rf (tstA 0x74) 0 12 < s.tst.trace.length then
        (let r := twReads m ([0x78, 0x7C, 0x80, 0x84].map tstA) s
         r.1.emit (.uartWords r.2.1))
      else s) (List.range n) s).sayEnd "OK")
/-- GLB_RST_KEY and GLB_RST_CMD. The reset ends the monitor, with no output (R447). -/
def State.twReset (s : State) (kind : Nat) : State := s.tw true true (fun m s => s.twWrites m [(0x80, 0x7E57), (0x84, w32 kind)])
/-- TST_CFG with a new BAUD, once the line is sent. -/
def State.twBaud (s : State) (code : Nat) : State :=
  s.tw true (decide (code < 8)) (fun m s => (s.sayEnd "OK").twWrites m [(tstA 0x40, setFld (s.reg (tstA 0x40)) 4 3 code)])
def State.twLock (s : State) : State :=
  s.tw true true (fun m s => (s.twWrites m [(tstA 0x40, setBit (s.reg (tstA 0x40)) 0 false)]).sayEnd "OK")

/-! ### Lines (R444) -/

/-- The line as edited: backspace removes the last character; the end of line is dropped. -/
def editLine (t : List Byte) : List Byte :=
  (t.foldl (fun acc b => if b = 0x08 ∨ b = 0x7F then acc.drop 1 else if b = 13 ∨ b = 10 then acc else b :: acc) []).reverse

/-- Words between spaces. -/
def splitWords (t : List Byte) : List (List Byte) :=
  let r := t.foldr (fun b (acc : List Byte × List (List Byte)) =>
    if b = 0x20 ∨ b = 0x09 then ([], if acc.1 = [] then acc.2 else acc.1 :: acc.2) else (b :: acc.1, acc.2)) ([], [])
  if r.1 = [] then r.2 else r.1 :: r.2

/-- A digit. -/
def digitOf (b : Byte) : Option Nat :=
  let n := b.toNat
  if 48 ≤ n ∧ n ≤ 57 then some (n - 48) else if 97 ≤ n ∧ n ≤ 102 then some (n - 87) else if 65 ≤ n ∧ n ≤ 70 then some (n - 55) else none

/-- Digits of a base; underscores are passed over. -/
def digitsOf (base : Nat) : List Byte → Nat → Option Nat
  | [], v => some v
  | b :: t, v =>
    if b = 95 then digitsOf base t v
    else match digitOf b with
      | some d => if d < base then digitsOf base t (v * base + d) else none
      | none => none

/-- A number: decimal, or hexadecimal with the prefix 0x. -/
def numOf (t : List Byte) : Option Nat :=
  let hex := decide (t.take 2 = ascii "0x")
  let d := if hex then t.drop 2 else t
  if d.any (fun b => decide (b ≠ 95)) then digitsOf (if hex then 16 else 10) d 0 else none

/-- Eight command words. -/
def wordsOf (l : List Nat) : List Word := if l.all (fun v => decide (v < 2 ^ 32)) then l.map w32 else []

/-- A command line with its arguments read as numbers, where they are. -/
def State.twArgs (s : State) (name : List Byte) (ws : List (List Byte)) : State :=
  let bad := fun (w : Bool) => s.tw w false (fun _ s => s)
  let is := fun (t : String) => decide (name = ascii t)
  let word := fun (t : String) => decide (ws.head? = some (ascii t) ∧ ws.length = 1)
  let nums := ws.mapM numOf
  if is "help" then (if ws = [] then s.twHelp else bad false)
  else if is "id" then (if ws = [] then s.twId else bad false)
  else if is "rd" then (match nums with | some [a] => s.twRd a 1 | some [a, n] => s.twRd a n | _ => bad false)
  else if is "wr" then (match nums with | some [a, v] => s.twWr a v | _ => bad true)
  else if is "set" then (match nums with | some [a, k, v] => s.twSet a k v | _ => bad true)
  else if is "lane" then (match nums with | some [p, n] => s.twLane p n | _ => bad false)
  else if is "skein" then (match nums with | some [p, n, k] => s.twSkein p n k | _ => bad false)
  else if is "hdl" then (match nums with | some [a, b, c, d] => s.twHdl a b c d | _ => bad false)
  else if is "tcmd" then (match nums with | some l => s.twCmd false (wordsOf l) | none => bad true)
  else if is "fcmd" then (match nums with | some l => s.twCmd true (wordsOf l) | none => bad true)
  else if is "prot" then (match nums with | some [g] => s.twProt g | _ => bad false)
  else if is "beat" then (if ws = [] then s.twBeat else bad false)
  else if is "fmn" then (if ws = [] then s.twFmn else bad false)
  else if is "wvr" then (match nums with | some [w] => s.twWvr w | _ => bad false)
  else if is "tally" then
    (match (ws.take 3).mapM numOf, ws.drop 3 with
     | some [c, i, t], [] => s.twTally c i t false
     | some [c, i, t], [x] => if x = ascii "s" then s.twTally c i t true else bad false
     | _, _ => bad false)
  else if is "trace" then
    (if word "start" then s.twTrace 1 else if word "stop" then s.twTrace 2 else if word "trig" then s.twTrace 4
     else if word "dump" then s.twDump 16
     else match ws.head?, (ws.drop 1).mapM numOf with
       | some d, some [n] => if d = ascii "dump" then s.twDump n else bad false
       | _, _ => bad false)
  else if is "reset" then
    (if word "cold" then s.twReset 1 else if word "warm" then s.twReset 2 else if word "cp" then s.twReset 3 else bad true)
  else if is "baud" then (match nums with | some [c] => s.twBaud c | _ => bad true)
  else if is "lock" then (if ws = [] then s.twLock else bad true)
  else s.tw false true (fun _ s => s.sayEnd "! CMD")

/-- A received line. -/
def State.twLine (s : State) (t : List Byte) : State :=
  let l := editLine t
  if ¬ s.headless ∧ 128 < l.length then s.when (!s.jtag.frozen) (·.sayEnd "! LONG")
  else match splitWords l with
    | [] => s.tw false true (fun _ s => s.say prompt)
    | name :: ws => s.twArgs name ws

/-! ### Held targets (R455) -/

/-- A command runs. Where one of its accesses meets a held target, all of it waits until the hold is over (DESIGN CHOICE,
notes/assumptions/49.md); the monitor takes no other meanwhile. -/
def State.monRun (s : State) (i : MonCmd) (f : State → State) : State :=
  if s.tst.mon.isSome then s
  else
    let t := f s
    if t.tst.shedQ = s.tst.shedQ then t else s.modTst (fun x => { x with mon := some i })

/-- What a command of the monitor does. -/
def State.twDo (s : State) : MonCmd → State
  | .line t => s.twLine t
  | .help => s.twHelp
  | .ident => s.twId
  | .rd a n => s.twRd a n
  | .wr a v => s.twWr a v
  | .put a k v => s.twSet a k v
  | .lane p n => s.twLane p n
  | .skein p n k => s.twSkein p n k
  | .hdl a b c d => s.twHdl a b c d
  | .cmd fe ws => s.twCmd fe ws
  | .prot g => s.twProt g
  | .beat => s.twBeat
  | .fmn => s.twFmn
  | .wvr w => s.twWvr w
  | .tally c i t x => s.twTally c i t x
  | .trace v => s.twTrace v
  | .dump n => s.twDump n
  | .reset k => s.twReset k
  | .baud c => s.twBaud c
  | .lock => s.twLock

/-- A command runs, and waits where it meets a held target. -/
def State.mon (s : State) (i : MonCmd) : State := s.monRun i (fun s => s.twDo i)

/-- A command of the monitor that waits is tried again; the Foreman that served it is gone where none holds the lease (R22). -/
def State.monLeft (s : State) : State :=
  match s.tst.mon with
  | none => s
  | some i =>
    let s1 := s.modTst (fun t => { t with mon := none })
    if s.headless then s1 else s1.mon i

/-! ### The commands as rows (R445, R446) -/

/-- TWIURI_LINE (R444): a line is taken as a command, or answered. -/
def execTwiuriLine (text : List Byte) (s : State) : Out := .next (s.mon (.line text))
/-- TW_HELP. -/
def execTwHelp (s : State) : Out := .next (s.mon .help)
/-- TW_ID. -/
def execTwId (s : State) : Out := .next (s.mon .ident)
/-- TW_RD. -/
def execTwRd (addr : BitVec 26) (n : Nat) (s : State) : Out := .next (s.mon (.rd addr.toNat n))
/-- TW_WR. -/
def execTwWr (addr : BitVec 26) (v : Word) (s : State) : Out := .next (s.mon (.wr addr.toNat v.toNat))
/-- TW_SET. -/
def execTwSet (addr : BitVec 26) (mask : Word) (v : Word) (s : State) : Out := .next (s.mon (.put addr.toNat mask.toNat v.toNat))
/-- TW_LANE. -/
def execTwLane (p n : Nat) (s : State) : Out := .next (s.mon (.lane p n))
/-- TW_SKEIN. -/
def execTwSkein (p n k : Nat) (s : State) : Out := .next (s.mon (.skein p n k))
/-- TW_HDL. -/
def execTwHdl (map page port index : Nat) (s : State) : Out := .next (s.mon (.hdl map page port index))
/-- TW_TCMD (R446). -/
def execTwTcmd (ws : List Word) (s : State) : Out := .next (s.mon (.cmd false ws))
/-- TW_FCMD (R446). -/
def execTwFcmd (ws : List Word) (s : State) : Out := .next (s.mon (.cmd true ws))
/-- The monitor's wait ends after 64 bolts (R446), or with the Foreman that waited: headless, it says nothing (R22). -/
def State.twTimeout (s : State) : State :=
  match s.tst.wait with
  | some w => if s.headless then s.modTst (fun t => { t with wait := none }) else if 64 ≤ since s.bolt w.2.2 then (s.modTst (fun t => { t with wait := none })).sayEnd "! TIMEOUT" else s
  | none => s
/-- TW_CMD_TIMEOUT (R446). -/
def execTwCmdTimeout (s : State) : Out := .next s.twTimeout
/-- TW_PROT. -/
def execTwProt (g : Nat) (s : State) : Out := .next (s.mon (.prot g))
/-- TW_BEAT. -/
def execTwBeat (s : State) : Out := .next (s.mon .beat)
/-- TW_FMN. -/
def execTwFmn (s : State) : Out := .next (s.mon .fmn)
/-- TW_WVR. -/
def execTwWvr (w : Nat) (s : State) : Out := .next (s.mon (.wvr w))
/-- TW_TALLY. -/
def execTwTally (c i t : Nat) (shadow : Bool) (s : State) : Out := .next (s.mon (.tally c i t shadow))
/-- TW_TRACE_START. -/
def execTwTraceStart (s : State) : Out := .next (s.mon (.trace 1))
/-- TW_TRACE_STOP. -/
def execTwTraceStop (s : State) : Out := .next (s.mon (.trace 2))
/-- TW_TRACE_TRIG. -/
def execTwTraceTrig (s : State) : Out := .next (s.mon (.trace 4))
/-- TW_TRACE_DUMP. -/
def execTwTraceDump (n : Nat) (s : State) : Out := .next (s.mon (.dump n))
/-- TW_RESET_COLD. -/
def execTwResetCold (s : State) : Out := .next (s.mon (.reset 1))
/-- TW_RESET_WARM. -/
def execTwResetWarm (s : State) : Out := .next (s.mon (.reset 2))
/-- TW_RESET_CP. -/
def execTwResetCp (s : State) : Out := .next (s.mon (.reset 3))
/-- TW_BAUD. -/
def execTwBaud (code : Nat) (s : State) : Out := .next (s.mon (.baud code))
/-- TW_LOCK. -/
def execTwLock (s : State) : Out := .next (s.mon .lock)

end Sys2Proof.Machine
end

