-- ==== Sys2Proof/Machine/Bolt.lean ====
section
/-! DEFINITION. MODULE_BOLT_BOUNDARY: what takes place at the boundary of every module bolt, with what was measured in the bolt
ended (BoltObs), in the order of spec/95. -/
namespace Sys2Proof.Machine

/-! ### What fell due in the bolt ended and no row has taken (DESIGN CHOICE, notes/assumptions/1.md) -/

/-- Defects whose declared state does not yet follow the integrated one (R45). -/
def State.reportLeft (s : State) : State :=
  seqAll (fun (e : Nat × Integ) s =>
    if e.2.eff = e.2.decl then s
    else if e.1 < 0x10000 then (if e.1 % 16 = 2 then s else s.reportL (e.1 / 16) (e.1 % 16) e.2.eff)
    else s.reportS ((e.1 - 0x10000) / 8) ((e.1 - 0x10000) % 8) e.2.eff) s.integ s

/-- Map reads, over within 1 round (R104), and a burn of a fuse, over within 4 bolts (R351). -/
def State.readsLeft (s : State) : State :=
  let s1 := (s.when (s.rb 0x801048 0) (·.hdlReadDone)).when (s.rb (fineA 0xA8) 0) (·.fineReadDone)
  s1.burnDone

/-- What follows a commit, the deadline of an armed batch, batch timeouts (R83, R84, R92, R130). -/
def State.enginesLeft (s : State) : State :=
  (((((s.commitsDue.postBatch false).copyDone).finePost).armDeadline).batchTimeout false).batchTimeout true

/-- The fold, the snapshot, bolt records and their collection (R380, R388, R389, R391). -/
def State.tallyLeft (s : State) : State :=
  let s1 := s.tlyReadLeft.when s.tly.foldDue (·.tallyFold)
  let s2 := match s1.tly.snapDue with | some b => s1.snapshot b | none => s1
  let s3 := seqAll (fun p s => s.writeRecord p) s2.tly.recLeft s2
  seqAll (fun p s => s.perfStep p) (List.range 8) s3

/-- An engine's write that waited is tried again. -/
def State.unstall (s : State) : Stalled → State
  | .done fe d => s.postDone fe d
  | .sample bs => s.sampleWrite bs
  | .ckpt => s.ckptWrite

/-- The engines' writes that waited in front of held targets (R371). -/
def State.stalledLeft (s : State) : State := seqAll (fun x s => s.unstall x) s.tst.waitQ (s.modTst (fun t => { t with waitQ := [] }))

/-- Timers of the services, and what waited for a Foreman or a held target (R22, R267, R293, R301, R303, R307, R310, R319, R320, R337, R446, R455, R458, R486). -/
def State.servicesLeft (s : State) : State :=
  let s1 := (s.when s.tickDue (·.leaseTick)).foremenLeft.handoverLeft.handoversLeft.wakeLeft
  seqAll State.polRun [60, 61, 62, 63]
    (seqAll (fun p s => s.tdResend p) (List.range 8) s1.drainsLeft).tenEventsLeft.tenLost.twTimeout.holdsLeft.stalledLeft.monLeft.tracePost

/-- Everything left over. -/
def State.boltLeft (s : State) : State :=
  s.closeBoundary.framersLeft.linksLeft.bmyProcess.resetLeft.domLeft.readsLeft.enginesLeft.reportLeft.beatLeft.tallyLeft.servicesLeft

/-! ### Lane defects (R45-R49) -/

/-- What was measured on lane `l`; nothing, and the same arrival, where it is not listed. In terminal loopback the received line signal is
ignored, and its codewords with it (R58). -/
def State.laneObs (s : State) (o : BoltObs) (l : Nat) : LaneObs :=
  let x := (o.lanes.find? (fun x => decide (x.lane = l))).getD
    { lane := l, fecCor := 0, fecUnc := 0, arr := (s.lane l).arr, patErr := 0, aps := [] }
  if s.ownStream l then { x with fecCor := 0, fecUnc := 0, aps := [] } else x

/-- The accepted TTI differs from the expected one in the fields of TIM_MODE (R35, R61). -/
def State.timBad (s : State) (l : Nat) : Bool :=
  let m := s.rf (lnA l 0x40) 10 2
  let ne := fun (i : Nat) => decide (s.reg (lnA l (0x240 + 4 * i)) ≠ s.reg (lnA l (0x280 + 4 * i)))
  (decide (m % 2 = 1) && (span 0 4).any ne) || (decide (2 ≤ m) && (span 4 4).any ne)

/-- The measured condition of lane defect `d` over the bolt ended: none where unevaluated, or (LOF) neither bad nor good (R46). -/
def State.measured (s : State) (l d : Nat) (o : LaneObs) : Option Bool :=
  let n := s.lane l
  match d with
  | 0 => some n.losSeen
  | 1 => some n.lolSeen
  | 3 => if n.outAll then some true else if n.inAll then some false else none
  | 4 => if n.cwSeen then some (decide ((s.reg (lnA l 0x54)).toNat < o.fecCor)) else none
  | 5 => if n.cwSeen then some (decide (0 < o.fecUnc)) else none
  | 6 => if s.rf (lnA l 0x40) 10 2 = 0 ∨ ¬ n.ttiOk then none else some (s.timBad l)
  | 7 => if n.hdrOk then some (s.rb (lnA l 0x60) 5) else none
  | 8 => if n.fawSync then some n.laisRx else none
  | _ => if n.lostIn then none else some n.slipIn

/-- Lane defects but OOF, which follows the framer. -/
def boltDefects : List Nat := [0, 1, 3, 4, 5, 6, 7, 8, 9]

/-- One lane defect over the bolt ended: its counts, then its state (R45, R452). A bolt that is neither good nor bad for LOF ends
both runs. -/
def State.stepDefect (s : State) (l d : Nat) (o : LaneObs) : State :=
  let m := s.measured l d o
  let f := s.lnForce l d
  s.modInteg (laneKey l d) (fun i =>
    let j := if d = 3 ∧ m = none ∧ ¬ f then { i with bad := 0, good := 0 } else i.step (if f then some true else m)
    j.latch (s.setCnt l d) (s.clrCnt l d))

/-- LN_DEF_RAW: the raw conditions of the bolt ended (R62). -/
def State.rawWord (s : State) (l : Nat) (o : LaneObs) : Word :=
  w32 ((List.range 10).map (fun d =>
    if s.lnForce l d || (if d = 2 then (s.lane l).oofSeen else s.measured l d o == some true) then 2 ^ d else 0)).sum

/-- Both counts of a defect whose LN_INTG register was written start again; those of OOF are the framer's counts of FAWs (R44, R46, R63). -/
def State.intgTake (s : State) (l : Nat) : State :=
  let ds := (s.lane l).intgOld.map (·.1)
  if ds = [] then s
  else
    let mine := fun (k : Nat) => if k < 0x10000 then decide (k / 16 = l ∧ k % 16 ∈ ds)
      else decide ((k - 0x10000) / 1280 = l ∧ (k - 0x10000) % 8 + 10 ∈ ds)
    let s1 : State := { s with integ := s.integ.filterMap (fun (e : Nat × Integ) =>
        if mine e.1 then
          (let i : Integ := { e.2 with bad := 0, good := 0 }
           if i = {} then none else some (e.1, i))
        else some e) }
    s1.modLane l (fun n => if 2 ∈ ds then { n with intgOld := [], good := 0, err := 0 } else { n with intgOld := [] })

/-- DEFECT_EVALUATE of a lane (R45). -/
def State.laneEval (s : State) (l : Nat) (o : LaneObs) : State :=
  seqAll (fun d s => s.stepDefect l d o) boltDefects (s.setReg (lnA l 0x48) (s.rawWord l o))

/-- The skein defects: counts moved with the headers; the state follows at the boundary (R45, R47). -/
def State.skeinLatch (s : State) : State :=
  { s with integ := s.integ.map (fun e =>
      if e.1 < 0x10000 then e
      else
        let l := (e.1 - 0x10000) / 1280
        let d := 10 + (e.1 - 0x10000) % 8
        (e.1, e.2.latch (s.setCnt l d) (s.clrCnt l d))) }

/-! ### Alignment buffers (R53-R55) -/

/-- FILL_SAMPLE and SLIP (R53, R55); neither while LOS, LOL or LOF is not yet followed by a recentre, and no slip where a recentre falls
at this boundary (R56, R57). -/
def State.fillSlip (s : State) (l : Nat) : State :=
  let n := s.lane l
  let f := fillAt n.arr n.off n.dly
  let slip := fun (s : State) (up : Bool) =>
    (s.modLane l (fun n =>
      { n with off := (n.off + if up then 1 else 624) % 625, aisRounds := if up then 1 else 0, slipIn := true, evt := n.evt + 1 })).incReg
        (lnA l 0x68)
  if n.lostIn ∨ n.recDue then s
  else
    let s1 := s.modLane l (fun n => { n with fill := f })
    if f < 40 then slip s1 true else if 984 < f then slip s1 false else s1

/-! ### Tally of the bolt ended (R382, R390) -/

/-- A raw LOS, LOL or OOF of the bolt ended, forced or measured. -/
def State.rawIn (s : State) (l i : Nat) : Bool :=
  let n := s.lane l
  s.lnForce l i || (match i with | 0 => n.losSeen | 1 => n.lolSeen | _ => n.oofSeen)

/-- ES, SES and UAB of lane `l` (R382), from the defects declared during the bolt. -/
def State.laneClass (s : State) (l : Nat) (o : LaneObs) : Bool × Bool × Bool :=
  let n := s.lane l
  let uab := s.effL l 0 || s.effL l 1 || s.effL l 3
  let ses := decide (atLeast1 (s.rf (tlyA 0x40) 8 6) ≤ n.bipNow) || s.rawIn l 0 || s.rawIn l 1 || s.rawIn l 2
  let es := decide (0 < n.bipNow) || decide (0 < o.fecUnc) || n.hdrBad
  (!uab && !ses && es, !uab && ses, uab)

/-- A lane's entry of the bolt record (R390). -/
def State.laneRec (s : State) (l : Nat) (o : LaneObs) : List Byte :=
  let n := s.lane l
  let c := s.laneClass l o
  let fl := c.1.toNat + c.2.1.toNat * 2 + c.2.2.toNat * 4 + (s.rawIn l 0).toNat * 8 + (s.rawIn l 1).toNat * 16 + (s.rawIn l 2).toNat * 32
    + n.slipIn.toNat * 64 + n.recIn.toNat * 128 + n.hdrBad.toNat * 256 + n.inAll.toNat * 512
  beBytes 4 (min 0xFFFFFFFF o.fecCor) ++ beBytes 2 (min 0xFFFF o.fecUnc) ++ [BitVec.ofNat 8 n.bipNow,
    BitVec.ofNat 8 (if n.hdrOk then s.rf (lnA l 0x60) 6 6 else 0)] ++ beBytes 4 fl ++ beBytes 4 (s.lnDef l).toNat

/-- Lane counters: FEC_COR, FEC_UNC, ES, SES, UAB. -/
def State.laneCounts (s : State) (l : Nat) (o : LaneObs) : State :=
  let c := s.laneClass l o
  ((((s.count 0 l 2 o.fecCor).count 0 l 3 o.fecUnc).count 0 l 4 c.1.toNat).count 0 l 5 c.2.1.toNat).count 0 l 6 c.2.2.toNat

/-- FX_B (R381): a forced pattern was sent among the picks of egress skein `k`; all of them, where no pick is switched to it. -/
def State.fxBolt (s : State) (k : Nat) : Bool := (s.tx k).fx || (s.fillKind (lsrOfNo k)).isSome

/-- FX_B of lane `l`, highest skein first. -/
def State.fxCounts (s : State) (l : Nat) : State :=
  if ¬ s.carries l then s
  else seqAll (fun j s => let k := 160 * l + (159 - j)
                          if s.fxBolt k then s.count 2 k 1 else s) (List.range 160) s

/-- The skein nibbles of the bolt, from its increments (R390). -/
def nibbles (inc : SMap Nat) : SMap Nat :=
  inc.foldl (fun m e =>
    let k := e.1 % 2 ^ 22 / 16
    match e.1 / 2 ^ 22, e.1 % 16 with
    | 1, 0 => smMod 0 m k (· ||| 1)
    | 1, 1 => smMod 0 m k (· ||| 2)
    | 1, 2 => smMod 0 m k (· ||| 4)
    | 2, 1 => smMod 0 m k (· ||| 8)
    | _, _ => m) []

/-- With BR_EN the bolt's records are to be written (R389, R390). -/
def State.recTake (s : State) (o : BoltObs) : State :=
  if ¬ s.rb (tlyA 0x40) 0 then s
  else
    let up := (List.range 512).filter (fun l => s.awake (l / 64))
    s.modTly (fun t =>
      { t with recLane := up.foldl (fun m l => smPut [] m l (s.laneRec l (s.laneObs o l))) []
               recSk := nibbles t.inc
               recPort := (List.range 8).foldl (fun m p =>
                 smPut 0 m p ((s.port p).lostIn.toNat + (!s.awake p).toNat * 2)) []
               recBolt := s.bolt, recLeft := List.range 8 })

/-- Tally takes the bolt ended: per-bolt counts, records, the increments to fold (R380, R381, R390, R393). -/
def State.tallyBolt (s : State) (o : BoltObs) : State :=
  let up := (List.range 512).filter (fun l => s.awake (l / 64))
  let s1 := seqAll (fun l s => (s.laneCounts l (s.laneObs o l)).fxCounts l) up.reverse s
  ((s1.protCounts.recTake o).passInc).modTly (fun t => { t with smp := { t.smp with tags := 0 } })

/-! ### Memories and hooks -/

/-- SCRUB_STEP (R343, R344): words hit in the bolt, then four words of every bank but for a locked row. -/
def State.scrubStep (s : State) (o : BoltObs) : State :=
  let s1 := seqAll (fun (u : Nat × Bool) s => s.modBank (fun b =>
    let unc := u.2 || decide (u.1 ∈ b.unc)
    { b with unc := if unc then u.1 :: b.unc.filter (· ≠ u.1) else b.unc
             sbe := if unc then b.sbe.filter (· ≠ u.1) else u.1 :: b.sbe.filter (· ≠ u.1) })) o.upsets s
  if ¬ s1.rb (bankA 0x40) 0 then s1
  else
    let p := s1.bank.scrubPos
    let t := s1.bank.march
    let skip := fun (w : Nat) => t.busy && t.locked && decide (w / 16384 ∈ s1.testBanks ∧ w % 16384 / 32 = t.row)
    let hit := (s1.bank.unc ++ s1.bank.sbe).filter (fun w => decide (p ≤ w % 16384 ∧ w % 16384 < p + 4) && !skip w)
    (seqAll (fun w s => (s.readWord (8 * w)).1) hit s1).modBank (fun b => { b with scrubPos := (p + 4) % 16384 })

/-- A lane's hooks are taken: what ONCE has done is cleared, and the lane delay steps (R451, R452). -/
def State.perturbLane (s : State) (en : Bool) (l : Nat) : State :=
  let n := s.lane l
  let a := fun (i : Nat) => lnA l (0x30 + 4 * i)
  let old := n.hook.getD 2 0
  let s1 := if s.tst.pert && bit old 11 && decide (s.reg (a 2) = old) then s.setRf (a 2) 8 4 0 else s
  let h := (List.range 4).map (fun i => s1.reg (a i))
  let tgt := fld (h.getD 0 0) 0 11
  let rate := fld (h.getD 0 0) 12 8
  let d := n.dly
  s1.modLane l (fun n =>
    { n with hook := h, dly := if ¬ en then 0 else if rate = 0 then tgt else if d < tgt then min tgt (d + rate) else max tgt (d - rate) })

/-- PERTURB_APPLY (R451). A FORCE of OOF that begins or ends is a declaration or a clearance (R452). -/
def State.perturbApply (s : State) : State :=
  let en := s.rb (tstA 0x44) 0
  let up := (List.range 512).filter (fun l => s.awake (l / 64))
  let s1 := seqAll (fun l s => s.perturbLane en l) up s
  let s2 := (s1.modBeat (fun b => { b with hook := (List.range 4).map (fun i => s1.reg (beatA (0x30 + 4 * i))) })).modTst (fun t =>
    { t with pert := en })
  seqAll (fun l s2 => if s2.oof l = s.oof l then s2 else s2.oofIrq l) up s2

/-! ### The bolt that begins -/

/-- Per-bolt flags of a lane start again. -/
def Lane.newBolt (n : Lane) (o : LaneObs) (own : Bool) (b : Word) : Lane :=
  { n with losSeen := !(n.sig || own), lolSeen := !((n.clk && n.cw) || own), oofSeen := n.rawOof, inAll := n.framer == .sync,
           outAll := n.framer != .sync, fawSync := false, hdrOk := false, hdrBad := false, laisRx := false, bipNow := 0, aisRounds := 0,
           slipIn := false, recIn := false, arr := o.arr, fecCor := o.fecCor, fecUnc := o.fecUnc, cwSeen := n.cw && !own,
           fecAt := if 0 < o.fecUnc then (b :: n.fecAt).take 4 else n.fecAt.filter (fun x => decide (since b x < 4)) }

/-- LOS, LOL or LOF declared calls for a recentre once they have cleared (R56). -/
def State.noteLost (s : State) (l : Nat) : State :=
  if s.effL l 0 || s.effL l 1 || s.effL l 3 then s.modLane l (fun n => { n with lostIn := true }) else s

/-- Whether a recentre falls at this boundary (R56). -/
def State.noteRecentre (s : State) (l : Nat) : State := s.modLane l (fun n => { n with recDue := s.recentreDue l, recCmd := false })

/-- A lane at the boundary: its evaluation over bolt `b` that ended, then the bolt that begins. The checker counts while RXCHK names a
pattern (R59, R60). -/
def State.laneBolt (s : State) (l : Nat) (o : LaneObs) (b : Word) : State :=
  let s1 := ((s.laneEval l o).intgTake l).when (s.lnRxchk l ≠ 0) (·.satReg (lnA l 0x74) o.patErr)
  (((s1.modLane l (fun n => n.newBolt o (s.ownStream l) b)).noteLost l).noteRecentre l).fillSlip l

/-- The APS slots and the reserved picks that a looped lane received in the bolt now ended; those not listed came as zeros (R39, R42, R58). They
belong to the lane bolt before the last header where that came too late for them. -/
def State.loopRest (s : State) (x : LaneObs) : State :=
  let l := x.lane
  let old := fun (i : Nat) => decide (100384 ≤ x.arr + i)
  let s1 := seqAll (fun j s =>
    let b := match x.aps.find? (fun a => decide (a.1 = j)) with
      | some a => beBytes 8 a.2.toNat
      | none => scramble (slotPos j) (List.replicate 8 0)
    s.loopPut l (slotPos j) (.apsSlot l j b) (old (81 + j / 8))) (List.range 64) s
  seqAll (fun i s =>
    let b := match x.rsv.find? (fun a => decide (a.1 = i)) with
      | some a => a.2
      | none => scramble (64 * i) (List.replicate 64 0)
    s.loopPut l (64 * i) (.bits l i 1 (lineNum b)) (old i)) (span 185 199) s1

/-- What looped lane `l` sends back, up to the lane bolt whose last pick has left the alignment buffer; all of it out of SYNC, or where the loop
has ended (R27, R58). -/
def State.loopSend (s : State) (l : Nat) : State :=
  let n := s.lane l
  let all := decide (n.framer ≠ .sync) || !s.loops l
  let upTo := boltBytes * (if n.loopQ.any (fun e => decide (boltBytes * n.loopN + 64 * 384 ≤ e.1)) then n.loopN else n.loopN - 1)
  let out := n.loopQ.filter (fun e => all || decide (e.1 < upTo))
  (s.send (out.map (·.2))).modLane l (fun n => { n with loopQ := n.loopQ.filter (fun e => !(all || decide (e.1 < upTo))) })

/-- The looped lanes at the end of a bolt. -/
def State.loopEnd (s : State) (o : BoltObs) : State :=
  let s1 := seqAll (fun (x : LaneObs) s =>
    s.when (s.awake (x.lane / 64) && s.loops x.lane && (s.lane x.lane).framer == .sync) (·.loopRest x)) o.lanes s
  seqAll (fun (e : Nat × Lane) s => s.when (decide (e.2.loopQ ≠ [])) (·.loopSend e.1)) s1.lanes s1

/-- Trail accumulators that a parity error struck: the skein bolts are not compared (R198). -/
def State.accErrs (s : State) (o : BoltObs) : State :=
  seqAll (fun k s => s.when (s.awake (portOf k)) (·.accErr k)) o.accErrs s

/-- Marked map entries of the bolt ended fall due for their reload (R88, R133). -/
def State.reloadsMark (s : State) : State :=
  (s.modLoom (fun l => { l with ecc := reloadDue l.ecc })).modFine (fun f => { f with ecc := reloadDue f.ecc })

/-- The marks of every egress skein move on by a bolt (R37, R151, R199). -/
def State.skeinBolt (s : State) : State :=
  { s with sktx := s.sktx.map (fun e =>
      (e.1, { e.2 with prev624 := e.2.src624, src624 := none, prevW := e.2.violW, prevP := e.2.violP })) }

/-- The egress skeins' counts of the bolt ended are used up: the trail generators start again once the headers are sent (R33, R201). -/
def State.txBolt (s : State) : State :=
  { s with sktx := s.sktx.filterMap (fun e =>
      (let t : SkTx := { e.2 with line := [], violW := false, violP := false, fx := false, gen := 0xFFFFFFFF, genN := 0 }
       if t = {} then none else some (e.1, t))) }

/-- The bolt that ends: what is left of it, its measurements, its Tally. -/
def State.boltEnd (s : State) (o : BoltObs) : State :=
  (((s.boltLeft.payloadEnd.loopEnd o).accErrs o).incReg 0xA80048 o.storeCor).tallyBolt o

/-- The boundary: the bolt number moves on, and what is requested is taken. -/
def State.boltTurn (s : State) : State :=
  let s1 := s.modFine (fun f => { f with livePrev := f.live, live := [] })
  let s2 := (s1.modBeat (fun b => { b with bolts := b.bolts + 1, edge := true })).setReg (beatA 0x80) (s.bolt + 1)
  s2.resetTake.domTake.snapTake.reloadsMark

/-- Every lane and skein at the boundary that ended bolt `b`. -/
def State.lanesTurn (s : State) (o : BoltObs) (b : Word) : State :=
  let s1 := seqAll (fun l s => if s.awake (l / 64) then s.laneBolt l (s.laneObs o l) b else s) (List.range 512) s.skeinLatch
  (seqAll (fun p s => s.modPort p (fun q => { q with lostIn := false })) (List.range 8) s1).skeinBolt

/-- Everything the boundary does, in order. -/
def State.boltBoundary (s : State) (o : BoltObs) : State :=
  let b := s.bolt
  let e := s.boltEnd o
  let s1 := (((e.boltTurn).lanesTurn o b).perturbApply.beatBoundary o.beat).emit (.boltOut (b + 1))
  let a := (s1.apsCopyAll o.lanes).agentBoundary
  let s2 := State.polWatch e a (a.protEvaluate.measureAll.bmyBoundary.sendHeaders a).txBolt
  (((s2.mbxDrain).pwrMeasure o).scrubStep o).noteDom

/-- MODULE_BOLT_BOUNDARY (R45). Without the CDP domain there is no Beat, and the power stage alone measures (R422, R428); without power there is
nothing. -/
def execModuleBoltBoundary (o : BoltObs) (s : State) : Out :=
  .next (if ¬ boltObsOk o ∨ ¬ s.pwr.inRange then s
    else
      let t := s.tripDue
      if t.pwr.cdpOn then t.boltBoundary o else t.pwrMeasure o)

end Sys2Proof.Machine
end

