-- ==== Sys2Proof/Machine/Dispatch.lean ====
section
/-! DEFINITION. One arm per command: a direct call of its meaning. -/
namespace Sys2Proof.Machine

def exec (i : Instr) (s : State) : Host.Outcome State Fault Refusal :=
  match i with
  | .registerWrite m addr size v => Sys2Proof.Machine.execRegisterWrite m addr size v s
  | .irqRawClear m page v same => Sys2Proof.Machine.execIrqRawClear m page v same s
  | .irqForce m page v => Sys2Proof.Machine.execIrqForce m page v s
  | .errlogRead m page => Sys2Proof.Machine.execErrlogRead m page s
  | .moduleBoltBoundary o => Sys2Proof.Machine.execModuleBoltBoundary o s
  | .signalDetectLost l openMsg => Sys2Proof.Machine.execSignalDetectLost l openMsg s
  | .signalDetectRestored l => Sys2Proof.Machine.execSignalDetectRestored l s
  | .clockRecoveryLost l openMsg => Sys2Proof.Machine.execClockRecoveryLost l openMsg s
  | .clockRecoveryLocked l => Sys2Proof.Machine.execClockRecoveryLocked l s
  | .codewordLockAcquired l => Sys2Proof.Machine.execCodewordLockAcquired l s
  | .codewordLockLost l openMsg => Sys2Proof.Machine.execCodewordLockLost l openMsg s
  | .fawHuntMatch l faw bolt => Sys2Proof.Machine.execFawHuntMatch l faw bolt s
  | .fawExpected l faw => Sys2Proof.Machine.execFawExpected l faw s
  | .framerSync l bolt => Sys2Proof.Machine.execFramerSync l bolt s
  | .framerOutOfSync l openMsg => Sys2Proof.Machine.execFramerOutOfSync l openMsg s
  | .laneHeaderRx l hdr bip => Sys2Proof.Machine.execLaneHeaderRx l hdr bip s
  | .skeinHeaderRx k hdr => Sys2Proof.Machine.execSkeinHeaderRx k hdr s
  | .defectDeclared d => Sys2Proof.Machine.execDefectDeclared d s
  | .defectCleared d => Sys2Proof.Machine.execDefectCleared d s
  | .recentre l fill off => Sys2Proof.Machine.execRecentre l fill off s
  | .recentreCommand m l => Sys2Proof.Machine.execRecentreCommand m l s
  | .lnModeWrite m l v => Sys2Proof.Machine.execLnModeWrite m l v s
  | .lnIntgWrite m l d v => Sys2Proof.Machine.execLnIntgWrite m l d v s
  | .lnPatErrCntRead m l => Sys2Proof.Machine.execLnPatErrCntRead m l s
  | .pickSwitch p => Sys2Proof.Machine.execPickSwitch p s
  | .heddleEccUncorrectable e => Sys2Proof.Machine.execHeddleEccUncorrectable e s
  | .heddleEntryReload e copyUnc => Sys2Proof.Machine.execHeddleEntryReload e copyUnc s
  | .d2dLinkLost p outstanding => Sys2Proof.Machine.execD2dLinkLost p outstanding s
  | .linkDownDeclared p => Sys2Proof.Machine.execLinkDownDeclared p s
  | .trdEnqueue m win v => Sys2Proof.Machine.execTrdEnqueue m win v s
  | .connect => Sys2Proof.Machine.execConnect s
  | .disconnect => Sys2Proof.Machine.execDisconnect s
  | .connectP => Sys2Proof.Machine.execConnectP s
  | .reconnect => Sys2Proof.Machine.execReconnect s
  | .lock => Sys2Proof.Machine.execLock s
  | .forceAis => Sys2Proof.Machine.execForceAis s
  | .release => Sys2Proof.Machine.execRelease s
  | .commit => Sys2Proof.Machine.execCommit s
  | .abort => Sys2Proof.Machine.execAbort s
  | .defrag => Sys2Proof.Machine.execDefrag s
  | .retag => Sys2Proof.Machine.execRetag s
  | .query => Sys2Proof.Machine.execQuery s
  | .fence => Sys2Proof.Machine.execFence s
  | .fenceDone => Sys2Proof.Machine.execFenceDone s
  | .trdArm => Sys2Proof.Machine.execTrdArm s
  | .tileArmAck t => Sys2Proof.Machine.execTileArmAck t s
  | .armDeadline => Sys2Proof.Machine.execArmDeadline s
  | .heddleCommit => Sys2Proof.Machine.execHeddleCommit s
  | .standbyCopyDone => Sys2Proof.Machine.execStandbyCopyDone s
  | .trdCompletionsPost => Sys2Proof.Machine.execTrdCompletionsPost s
  | .trdBatchTimeout => Sys2Proof.Machine.execTrdBatchTimeout s
  | .pwaitExpire => Sys2Proof.Machine.execPwaitExpire s
  | .trdAbortOpen m => Sys2Proof.Machine.execTrdAbortOpen m s
  | .trdFlushQ m => Sys2Proof.Machine.execTrdFlushQ m s
  | .hdlRead m => Sys2Proof.Machine.execHdlRead m s
  | .hdlReadDone => Sys2Proof.Machine.execHdlReadDone s
  | .fineEnqueue m win v => Sys2Proof.Machine.execFineEnqueue m win v s
  | .tconnect => Sys2Proof.Machine.execTconnect s
  | .tdisconnect => Sys2Proof.Machine.execTdisconnect s
  | .treconnect => Sys2Proof.Machine.execTreconnect s
  | .tlock => Sys2Proof.Machine.execTlock s
  | .tforceAis => Sys2Proof.Machine.execTforceAis s
  | .trelease => Sys2Proof.Machine.execTrelease s
  | .fineCommit => Sys2Proof.Machine.execFineCommit s
  | .fineAbort => Sys2Proof.Machine.execFineAbort s
  | .tretagIn => Sys2Proof.Machine.execTretagIn s
  | .tretagOut => Sys2Proof.Machine.execTretagOut s
  | .tquery => Sys2Proof.Machine.execTquery s
  | .fineFence => Sys2Proof.Machine.execFineFence s
  | .fineFenceDone => Sys2Proof.Machine.execFineFenceDone s
  | .fineLoomCommit => Sys2Proof.Machine.execFineLoomCommit s
  | .fineCompletionsPost => Sys2Proof.Machine.execFineCompletionsPost s
  | .fineBatchTimeout => Sys2Proof.Machine.execFineBatchTimeout s
  | .fineAbortOpen m => Sys2Proof.Machine.execFineAbortOpen m s
  | .fineFlushQ m => Sys2Proof.Machine.execFineFlushQ m s
  | .fineAsgWrite m f v => Sys2Proof.Machine.execFineAsgWrite m f v s
  | .fineMapRead m => Sys2Proof.Machine.execFineMapRead m s
  | .fineMapReadDone => Sys2Proof.Machine.execFineMapReadDone s
  | .threadPickRead out round sbe => Sys2Proof.Machine.execThreadPickRead out round sbe s
  | .fineEccUncorrectable e => Sys2Proof.Machine.execFineEccUncorrectable e s
  | .fineEntryReload e copyUnc => Sys2Proof.Machine.execFineEntryReload e copyUnc s
  | .protGcfgWrite m g v => Sys2Proof.Machine.execProtGcfgWrite m g v s
  | .protClear m g => Sys2Proof.Machine.execProtClear m g s
  | .protLockout m g => Sys2Proof.Machine.execProtLockout m g s
  | .protForce m g member => Sys2Proof.Machine.execProtForce m g member s
  | .protManualP m g member => Sys2Proof.Machine.execProtManualP m g member s
  | .protManualW m g => Sys2Proof.Machine.execProtManualW m g s
  | .protExercise m g => Sys2Proof.Machine.execProtExercise m g s
  | .protRetime m g => Sys2Proof.Machine.execProtRetime m g s
  | .holdoffExpire g leg sd => Sys2Proof.Machine.execHoldoffExpire g leg sd s
  | .wtrExpire g => Sys2Proof.Machine.execWtrExpire g s
  | .protApsChgqRead m => Sys2Proof.Machine.execProtApsChgqRead m s
  | .apsMessageAccept g => Sys2Proof.Machine.execApsMessageAccept g s
  | .fopPmSet g => Sys2Proof.Machine.execFopPmSet g s
  | .fopNrSet g => Sys2Proof.Machine.execFopNrSet g s
  | .fopToSet g => Sys2Proof.Machine.execFopToSet g s
  | .protAgentHbWrite m v => Sys2Proof.Machine.execProtAgentHbWrite m v s
  | .apsAgentLost => Sys2Proof.Machine.execApsAgentLost s
  | .protEvqRead m => Sys2Proof.Machine.execProtEvqRead m s
  | .legAcquired g protect => Sys2Proof.Machine.execLegAcquired g protect s
  | .acqTimeout g => Sys2Proof.Machine.execAcqTimeout g s
  | .storeFillComplete g => Sys2Proof.Machine.execStoreFillComplete g s
  | .autoRetime g => Sys2Proof.Machine.execAutoRetime g s
  | .hbmNotReady h => Sys2Proof.Machine.execHbmNotReady h s
  | .selvEccUncorrectable g ob rho => Sys2Proof.Machine.execSelvEccUncorrectable g ob rho s
  | .selvCfgWrite m v => Sys2Proof.Machine.execSelvCfgWrite m v s
  | .blzClaim m u => Sys2Proof.Machine.execBlzClaim m u s
  | .blzRelease m u => Sys2Proof.Machine.execBlzRelease m u s
  | .blzUdata32Write m u v => Sys2Proof.Machine.execBlzUdata32Write m u v s
  | .blzUdata8Write m u v => Sys2Proof.Machine.execBlzUdata8Write m u v s
  | .blzInit m u => Sys2Proof.Machine.execBlzInit m u s
  | .blzRunBlock m u init => Sys2Proof.Machine.execBlzRunBlock m u init s
  | .blzAbort m u => Sys2Proof.Machine.execBlzAbort m u s
  | .blzRunDone u => Sys2Proof.Machine.execBlzRunDone u s
  | .blzUrunWrite m u hi v => Sys2Proof.Machine.execBlzUrunWrite m u hi v s
  | .beatDcoLoRead m => Sys2Proof.Machine.execBeatDcoLoRead m s
  | .beatDcoLoWrite m v => Sys2Proof.Machine.execBeatDcoLoWrite m v s
  | .beatDcoHiWrite m v => Sys2Proof.Machine.execBeatDcoHiWrite m v s
  | .freqMonitorWindow c ppb => Sys2Proof.Machine.execFreqMonitorWindow c ppb s
  | .refActivityGap c => Sys2Proof.Machine.execRefActivityGap c s
  | .refActiveRestored c => Sys2Proof.Machine.execRefActiveRestored c s
  | .candidateQualified c => Sys2Proof.Machine.execCandidateQualified c s
  | .lrQlChange c => Sys2Proof.Machine.execLrQlChange c s
  | .frefPinChange en_n sel => Sys2Proof.Machine.execFrefPinChange en_n sel s
  | .loopStageAdvance => Sys2Proof.Machine.execLoopStageAdvance s
  | .beatLocked => Sys2Proof.Machine.execBeatLocked s
  | .beatLockLost => Sys2Proof.Machine.execBeatLockLost s
  | .beatAcqTimeout => Sys2Proof.Machine.execBeatAcqTimeout s
  | .holdoverMaxExpire => Sys2Proof.Machine.execHoldoverMaxExpire s
  | .hoValidSet => Sys2Proof.Machine.execHoValidSet s
  | .selectedRefLost => Sys2Proof.Machine.execSelectedRefLost s
  | .pullComplete => Sys2Proof.Machine.execPullComplete s
  | .beatClrHo m => Sys2Proof.Machine.execBeatClrHo m s
  | .beatAlignGo m => Sys2Proof.Machine.execBeatAlignGo m s
  | .alignStart markerPs => Sys2Proof.Machine.execAlignStart markerPs s
  | .alignComplete => Sys2Proof.Machine.execAlignComplete s
  | .beatAlignCancel m => Sys2Proof.Machine.execBeatAlignCancel m s
  | .ppsOutEdge => Sys2Proof.Machine.execPpsOutEdge s
  | .helloRx p msg => Sys2Proof.Machine.execHelloRx p msg s
  | .idReqRx p msg => Sys2Proof.Machine.execIdReqRx p msg s
  | .idOfferRx p msg => Sys2Proof.Machine.execIdOfferRx p msg s
  | .idAckRx p msg => Sys2Proof.Machine.execIdAckRx p msg s
  | .setupRx p msg => Sys2Proof.Machine.execSetupRx p msg s
  | .confirmRx p msg => Sys2Proof.Machine.execConfirmRx p msg s
  | .refuseRx p msg => Sys2Proof.Machine.execRefuseRx p msg s
  | .teardownRx p msg => Sys2Proof.Machine.execTeardownRx p msg s
  | .tdAckRx p msg => Sys2Proof.Machine.execTdAckRx p msg s
  | .mgmtMessageRx p msg => Sys2Proof.Machine.execMgmtMessageRx p msg s
  | .helloInterval => Sys2Proof.Machine.execHelloInterval s
  | .helloLossTimeout p => Sys2Proof.Machine.execHelloLossTimeout p s
  | .idOfferTimeout => Sys2Proof.Machine.execIdOfferTimeout s
  | .bmyReqSetup => Sys2Proof.Machine.execBmyReqSetup s
  | .bmyReqTeardown => Sys2Proof.Machine.execBmyReqTeardown s
  | .agentCompletion => Sys2Proof.Machine.execAgentCompletion s
  | .setupTmo rno => Sys2Proof.Machine.execSetupTmo rno s
  | .rsvTmo orig rno => Sys2Proof.Machine.execRsvTmo orig rno s
  | .retryBackoff rno => Sys2Proof.Machine.execRetryBackoff rno s
  | .teardownResend p => Sys2Proof.Machine.execTeardownResend p s
  | .bamryAudit => Sys2Proof.Machine.execBamryAudit s
  | .bmyDevidWrite m v => Sys2Proof.Machine.execBmyDevidWrite m v s
  | .bamryAgentLost => Sys2Proof.Machine.execBamryAgentLost s
  | .bamryAgentRestart => Sys2Proof.Machine.execBamryAgentRestart s
  | .wvrRoleReqWrite m w v => Sys2Proof.Machine.execWvrRoleReqWrite m w v s
  | .roleRequestServe w imageOk => Sys2Proof.Machine.execRoleRequestServe w imageOk s
  | .wvrCmdDrained m w => Sys2Proof.Machine.execWvrCmdDrained m w s
  | .drainTimeout w => Sys2Proof.Machine.execDrainTimeout w s
  | .roleImageLoaded w => Sys2Proof.Machine.execRoleImageLoaded w s
  | .wvrCmdHalt m w => Sys2Proof.Machine.execWvrCmdHalt m w s
  | .wvrCmdResume m w => Sys2Proof.Machine.execWvrCmdResume m w s
  | .wvrCmdRestart m w => Sys2Proof.Machine.execWvrCmdRestart m w s
  | .weaverFault w cause => Sys2Proof.Machine.execWeaverFault w cause s
  | .weaverWatchdog w => Sys2Proof.Machine.execWeaverWatchdog w s
  | .weaverAutoRestart w => Sys2Proof.Machine.execWeaverAutoRestart w s
  | .wvrPost m w v => Sys2Proof.Machine.execWvrPost m w v s
  | .wvrInboxPop m w => Sys2Proof.Machine.execWvrInboxPop m w s
  | .weaverSleep w => Sys2Proof.Machine.execWeaverSleep w s
  | .weaverWake w cause => Sys2Proof.Machine.execWeaverWake w cause s
  | .policyInterval w meas => Sys2Proof.Machine.execPolicyInterval w meas s
  | .guardedWrite w addr v => Sys2Proof.Machine.execGuardedWrite w addr v s
  | .perfCollect p => Sys2Proof.Machine.execPerfCollect p s
  | .tenList => Sys2Proof.Machine.execTenList s
  | .tenState => Sys2Proof.Machine.execTenState s
  | .tenCount => Sys2Proof.Machine.execTenCount s
  | .tenProt => Sys2Proof.Machine.execTenProt s
  | .tenHandoff => Sys2Proof.Machine.execTenHandoff s
  | .handoffRetagDone => Sys2Proof.Machine.execHandoffRetagDone s
  | .tenantEventWrite e => Sys2Proof.Machine.execTenantEventWrite e s
  | .tenAgentLost => Sys2Proof.Machine.execTenAgentLost s
  | .leaseTick => Sys2Proof.Machine.execLeaseTick s
  | .leaseExpire => Sys2Proof.Machine.execLeaseExpire s
  | .fmnLeaseClaim m v => Sys2Proof.Machine.execFmnLeaseClaim m v s
  | .fmnLeaseRenew m v => Sys2Proof.Machine.execFmnLeaseRenew m v s
  | .fmnLeaseRel m v => Sys2Proof.Machine.execFmnLeaseRel m v s
  | .heartbeatWireEdge b => Sys2Proof.Machine.execHeartbeatWireEdge b s
  | .wireTimeout => Sys2Proof.Machine.execWireTimeout s
  | .islandFault b => Sys2Proof.Machine.execIslandFault b s
  | .heldRelease b => Sys2Proof.Machine.execHeldRelease b s
  | .foremanBoot b img => Sys2Proof.Machine.execForemanBoot b img s
  | .bootTimeout b => Sys2Proof.Machine.execBootTimeout b s
  | .foremanRevertWtr => Sys2Proof.Machine.execForemanRevertWtr s
  | .formerHolderPowerOff => Sys2Proof.Machine.execFormerHolderPowerOff s
  | .fmnStartA m => Sys2Proof.Machine.execFmnStartA m s
  | .fmnStartB m => Sys2Proof.Machine.execFmnStartB m s
  | .fmnStopA m => Sys2Proof.Machine.execFmnStopA m s
  | .fmnStopB m => Sys2Proof.Machine.execFmnStopB m s
  | .fmnClrFail m => Sys2Proof.Machine.execFmnClrFail m s
  | .fmnPost m b v => Sys2Proof.Machine.execFmnPost m b v s
  | .fmnInboxPop m => Sys2Proof.Machine.execFmnInboxPop m s
  | .fmnSelfWrite m b v => Sys2Proof.Machine.execFmnSelfWrite m b v s
  | .checkpointInterval => Sys2Proof.Machine.execCheckpointInterval s
  | .checkpointFlashInterval => Sys2Proof.Machine.execCheckpointFlashInterval s
  | .mbxCqTailWrite m r v => Sys2Proof.Machine.execMbxCqTailWrite m r v s
  | .mbxCommandTake r => Sys2Proof.Machine.execMbxCommandTake r s
  | .ping r => Sys2Proof.Machine.execPing r s
  | .status r => Sys2Proof.Machine.execStatus r s
  | .mbxTreadle r => Sys2Proof.Machine.execMbxTreadle r s
  | .mbxTreadleReply => Sys2Proof.Machine.execMbxTreadleReply s
  | .mbxFine r => Sys2Proof.Machine.execMbxFine r s
  | .mbxFineReply => Sys2Proof.Machine.execMbxFineReply s
  | .ckptNow r => Sys2Proof.Machine.execCkptNow r s
  | .ckptFlash r => Sys2Proof.Machine.execCkptFlash r s
  | .fwWrite r data flashOk => Sys2Proof.Machine.execFwWrite r data flashOk s
  | .fwActivate r sigOk => Sys2Proof.Machine.execFwActivate r sigOk s
  | .handover r => Sys2Proof.Machine.execHandover r s
  | .mgmtSend r => Sys2Proof.Machine.execMgmtSend r s
  | .mgmtCfg r => Sys2Proof.Machine.execMgmtCfg r s
  | .mailboxReplay => Sys2Proof.Machine.execMailboxReplay s
  | .bankOwnWrite m b v => Sys2Proof.Machine.execBankOwnWrite m b v s
  | .bankHandoverDone b => Sys2Proof.Machine.execBankHandoverDone b s
  | .bankWrite m off size v sameCycle => Sys2Proof.Machine.execBankWrite m off size v sameCycle s
  | .bankRead m off size => Sys2Proof.Machine.execBankRead m off size s
  | .bankAliasSet m off size v => Sys2Proof.Machine.execBankAliasSet m off size v s
  | .bankAliasClear m off size v => Sys2Proof.Machine.execBankAliasClear m off size v s
  | .marchStart m v => Sys2Proof.Machine.execMarchStart m v s
  | .marchRowLock => Sys2Proof.Machine.execMarchRowLock s
  | .marchRowDone fails => Sys2Proof.Machine.execMarchRowDone fails s
  | .marchTestDone fails => Sys2Proof.Machine.execMarchTestDone fails s
  | .marchAbort m => Sys2Proof.Machine.execMarchAbort m s
  | .bankFuseKey m v => Sys2Proof.Machine.execBankFuseKey m v s
  | .bankFuseCmd m v => Sys2Proof.Machine.execBankFuseCmd m v s
  | .fuseBurnDone => Sys2Proof.Machine.execFuseBurnDone s
  | .skidAlloc m => Sys2Proof.Machine.execSkidAlloc m s
  | .skidFree m v => Sys2Proof.Machine.execSkidFree m v s
  | .skidBufferWrite m b off size v => Sys2Proof.Machine.execSkidBufferWrite m b off size v s
  | .skidLowmarkRead m => Sys2Proof.Machine.execSkidLowmarkRead m s
  | .tallyFold => Sys2Proof.Machine.execTallyFold s
  | .tlyRead m => Sys2Proof.Machine.execTlyRead m s
  | .tlyReadDone => Sys2Proof.Machine.execTlyReadDone s
  | .tlyClear m => Sys2Proof.Machine.execTlyClear m s
  | .tlySnapNow m => Sys2Proof.Machine.execTlySnapNow m s
  | .tlySnapAt m => Sys2Proof.Machine.execTlySnapAt m s
  | .snapshot => Sys2Proof.Machine.execSnapshot s
  | .boltRecordWrite p => Sys2Proof.Machine.execBoltRecordWrite p s
  | .tlyHclr m => Sys2Proof.Machine.execTlyHclr m s
  | .pcieLinkDown => Sys2Proof.Machine.execPcieLinkDown s
  | .pcieHotReset => Sys2Proof.Machine.execPcieHotReset s
  | .pcieD3hotEntry => Sys2Proof.Machine.execPcieD3hotEntry s
  | .pcieRequestsResume bme msixEn fmask => Sys2Proof.Machine.execPcieRequestsResume bme msixEn fmask s
  | .msixVectorUnmask v => Sys2Proof.Machine.execMsixVectorUnmask v s
  | .gvecEoi m v => Sys2Proof.Machine.execGvecEoi m v s
  | .dmaGo c dir => Sys2Proof.Machine.execDmaGo c dir s
  | .dmaAbort c => Sys2Proof.Machine.execDmaAbort c s
  | .dmaDone c data => Sys2Proof.Machine.execDmaDone c data s
  | .smbSetPointer v => Sys2Proof.Machine.execSmbSetPointer v s
  | .smbReadRegister => Sys2Proof.Machine.execSmbReadRegister s
  | .smbWriteRegister v => Sys2Proof.Machine.execSmbWriteRegister v s
  | .smbReadIdentity => Sys2Proof.Machine.execSmbReadIdentity s
  | .smbReadPower => Sys2Proof.Machine.execSmbReadPower s
  | .smbReadTemperatures => Sys2Proof.Machine.execSmbReadTemperatures s
  | .powerOn straps => Sys2Proof.Machine.execPowerOn straps s
  | .powerOff => Sys2Proof.Machine.execPowerOff s
  | .pwrDomCtrlWrite m v => Sys2Proof.Machine.execPwrDomCtrlWrite m v s
  | .portTileSleep p => Sys2Proof.Machine.execPortTileSleep p s
  | .portTileWake p => Sys2Proof.Machine.execPortTileWake p s
  | .portTileUp p => Sys2Proof.Machine.execPortTileUp p s
  | .clusterPowerOff c => Sys2Proof.Machine.execClusterPowerOff c s
  | .clusterPowerOn c => Sys2Proof.Machine.execClusterPowerOn c s
  | .clusterIdle c => Sys2Proof.Machine.execClusterIdle c s
  | .hbmPowerOn h => Sys2Proof.Machine.execHbmPowerOn h s
  | .hbmPowerOff h => Sys2Proof.Machine.execHbmPowerOff h s
  | .hbmReady h => Sys2Proof.Machine.execHbmReady h s
  | .thermalTrip => Sys2Proof.Machine.execThermalTrip s
  | .resetNAssert ns => Sys2Proof.Machine.execResetNAssert ns s
  | .glbRstKeyWrite m v => Sys2Proof.Machine.execGlbRstKeyWrite m v s
  | .glbRstCmdCold m => Sys2Proof.Machine.execGlbRstCmdCold m s
  | .glbRstCmdWarm m => Sys2Proof.Machine.execGlbRstCmdWarm m s
  | .glbRstCmdCp m => Sys2Proof.Machine.execGlbRstCmdCp m s
  | .coldReset straps test => Sys2Proof.Machine.execColdReset straps test s
  | .warmReset => Sys2Proof.Machine.execWarmReset s
  | .warmFineAsgRestore => Sys2Proof.Machine.execWarmFineAsgRestore s
  | .cpReset => Sys2Proof.Machine.execCpReset s
  | .twiuriLine text => Sys2Proof.Machine.execTwiuriLine text s
  | .twHelp => Sys2Proof.Machine.execTwHelp s
  | .twId => Sys2Proof.Machine.execTwId s
  | .twRd addr n => Sys2Proof.Machine.execTwRd addr n s
  | .twWr addr v => Sys2Proof.Machine.execTwWr addr v s
  | .twSet addr mask v => Sys2Proof.Machine.execTwSet addr mask v s
  | .twLane p n => Sys2Proof.Machine.execTwLane p n s
  | .twSkein p n k => Sys2Proof.Machine.execTwSkein p n k s
  | .twHdl map page port index => Sys2Proof.Machine.execTwHdl map page port index s
  | .twTcmd ws => Sys2Proof.Machine.execTwTcmd ws s
  | .twFcmd ws => Sys2Proof.Machine.execTwFcmd ws s
  | .twCmdTimeout => Sys2Proof.Machine.execTwCmdTimeout s
  | .twProt g => Sys2Proof.Machine.execTwProt g s
  | .twBeat => Sys2Proof.Machine.execTwBeat s
  | .twFmn => Sys2Proof.Machine.execTwFmn s
  | .twWvr w => Sys2Proof.Machine.execTwWvr w s
  | .twTally c b t shadow => Sys2Proof.Machine.execTwTally c b t shadow s
  | .twTraceStart => Sys2Proof.Machine.execTwTraceStart s
  | .twTraceStop => Sys2Proof.Machine.execTwTraceStop s
  | .twTraceTrig => Sys2Proof.Machine.execTwTraceTrig s
  | .twTraceDump n => Sys2Proof.Machine.execTwTraceDump n s
  | .twResetCold => Sys2Proof.Machine.execTwResetCold s
  | .twResetWarm => Sys2Proof.Machine.execTwResetWarm s
  | .twResetCp => Sys2Proof.Machine.execTwResetCp s
  | .twBaud code => Sys2Proof.Machine.execTwBaud code s
  | .twLock => Sys2Proof.Machine.execTwLock s
  | .tstCfgWrite m v => Sys2Proof.Machine.execTstCfgWrite m v s
  | .jtagTapReset => Sys2Proof.Machine.execJtagTapReset s
  | .jtagExtest => Sys2Proof.Machine.execJtagExtest s
  | .jtagIdcode => Sys2Proof.Machine.execJtagIdcode s
  | .jtagSamplePreload cells => Sys2Proof.Machine.execJtagSamplePreload cells s
  | .jtagClamp => Sys2Proof.Machine.execJtagClamp s
  | .jtagHighz => Sys2Proof.Machine.execJtagHighz s
  | .jtagBypass code => Sys2Proof.Machine.execJtagBypass code s
  | .jtagDbgAcc v => Sys2Proof.Machine.execJtagDbgAcc v s
  | .dbgAccDone => Sys2Proof.Machine.execDbgAccDone s
  | .tstPertEnWrite m v => Sys2Proof.Machine.execTstPertEnWrite m v s
  | .lnPerturbWrite m l b v => Sys2Proof.Machine.execLnPerturbWrite m l b v s
  | .shedPerturbWrite m b v => Sys2Proof.Machine.execShedPerturbWrite m b v s
  | .beatPerturbWrite m b v => Sys2Proof.Machine.execBeatPerturbWrite m b v s
  | .tstTrEmit m v clk => Sys2Proof.Machine.execTstTrEmit m v clk s
  | .tstTrStart m => Sys2Proof.Machine.execTstTrStart m s
  | .tstTrStop m => Sys2Proof.Machine.execTstTrStop m s
  | .tstTrTrig m => Sys2Proof.Machine.execTstTrTrig m s
  | .tracePostComplete => Sys2Proof.Machine.execTracePostComplete s
  | .tstTrRd3Read m => Sys2Proof.Machine.execTstTrRd3Read m s
  | .d2dLinkRegained p => Sys2Proof.Machine.execD2dLinkRegained p s
  | .cdpUncorrectableFault => Sys2Proof.Machine.execCdpUncorrectableFault s
  | .pcieLinkUp gen width => Sys2Proof.Machine.execPcieLinkUp gen width s
  | .trdBadOpcode => Sys2Proof.Machine.execTrdBadOpcode s
  | .fineBadOpcode => Sys2Proof.Machine.execFineBadOpcode s
  | .bmyReqBadOp => Sys2Proof.Machine.execBmyReqBadOp s

end Sys2Proof.Machine
end

