-- ==== Sys2Proof/Safety.lean ====
section
/-! DEFINITION. What a safe run is: every step answers a next state; and the
canonical form that registers and memories keep, so that equal contents are equal data. -/
namespace Sys2Proof

/-- Every waiting command is well formed. -/
def queueOk (s : Machine.State) : Bool := s.pending.all Instr.wellFormed

/-- A step answers a next state: neither a fault nor a refusal. -/
def stepSafe (s : Machine.State) : Prop := ∃ t, Machine.step s = .next t

/-- Registers, scratch banks, ring memory and firmware slots are in canonical form: keys rising, nothing listed that reads as unlisted. -/
def canonical (s : Machine.State) : Bool :=
  Machine.smWf Machine.resetOf s.regs && Machine.Memory.wf s.bank.mem && Machine.Memory.wf s.mbx.mem
    && Machine.Memory.wf s.mbx.slot0 && Machine.Memory.wf s.mbx.slot1

/-- A 4-byte write by `m` of the register at `a` reaches it: no head weaver's guard stands before it (R296), and the front end lets it
through (R313, R363-R366, R374, R434). -/
def reaches (s : Machine.State) (m : Mid) (a : Nat) : Prop := (m.toNat < 60 ∨ 64 ≤ m.toNat) ∧ s.gate m a 4 true = .go

/-- As `reaches`, for the value `v`, with the writes of a head weaver that the guard lets by unseen (R296). -/
def passes (s : Machine.State) (m : Mid) (a : Nat) (v : Word) : Prop :=
  (m.toNat < 60 ∨ 64 ≤ m.toNat ∨ Machine.unguarded m.toNat a v = true) ∧ s.gate m a 4 true = .go

/-- A 4-byte read by `m` of the register at `a` reaches it. -/
def readable (s : Machine.State) (m : Mid) (a : Nat) : Prop := s.gate m a 4 false = .go

/-- Lane `l` takes cells from the line: awake, not in terminal loopback, in SYNC, and no looped lane (R40, R58). -/
def takesCells (s : Machine.State) (l : Nat) : Bool :=
  s.awake (l / 64) && !s.ownStream l && (s.lane l).framer == .sync && !s.loops l

/-- A run of cells of a channel of `n` cells, its first one cell `j0` of the bolt's cells, that completes the message `msg` alone, with the
message `part` in progress before it (R40, R41). -/
def bringsMsg (part : Option (List Byte)) (j0 n : Nat) (c : CellRun) (msg : List Byte) : Prop :=
  cellRunOk n c = true ∧ Machine.cellsRx part (Machine.rxCells j0 c) = (none, [msg], 0)

/-- A read of the `n` bytes from offset `a` of the scratch banks meets no word to be corrected and none that cannot be (R343). -/
def cleanRun (s : Machine.State) (a n : Nat) : Bool :=
  (Machine.span (a / 8) ((a + n - 1) / 8 + 1 - a / 8)).all (fun w => decide (w ∉ s.bank.unc ∧ w ∉ s.bank.sbe))

/-- Lane `l` has taken a run of Bamry cells that discards nothing and leaves no message open. -/
def bmyTook (s : Machine.State) (l : Nat) : Machine.State := (s.modLane l (fun n => { n with bmyPart := none })).count 6 (l / 64) 2 0

/-- Lane `l` has taken such a run of management cells. -/
def mgmtTook (s : Machine.State) (l : Nat) : Machine.State := (s.modLane l (fun n => { n with mgmtPart := none })).count 6 (l / 64) 5 0

/-- The parts of the state, for statements about what a command leaves alone: the byte memories of the scratch banks and of the rings apart
from the rest of their blocks. -/
inductive Part where
  | pending | regs | lanes | integ | skrx | sktx | ports | loom | trd | fine | prot | blz | beat | bmy | wvr | ten | fmn | mbx | mbxMem
  | bank | bankMem | skid | tly | pcie | pwr | jtag | tst | out | resp | free
deriving DecidableEq, Repr

/-- Two states agree on a part. -/
def Part.same (p : Part) (s t : Machine.State) : Prop :=
  match p with
  | .pending => t.pending = s.pending
  | .regs => t.regs = s.regs
  | .lanes => t.lanes = s.lanes
  | .integ => t.integ = s.integ
  | .skrx => t.skrx = s.skrx
  | .sktx => t.sktx = s.sktx
  | .ports => t.ports = s.ports
  | .loom => t.loom = s.loom
  | .trd => t.trd = s.trd
  | .fine => t.fine = s.fine
  | .prot => t.prot = s.prot
  | .blz => t.blz = s.blz
  | .beat => t.beat = s.beat
  | .bmy => t.bmy = s.bmy
  | .wvr => t.wvr = s.wvr
  | .ten => t.ten = s.ten
  | .fmn => t.fmn = s.fmn
  | .mbx => t.mbx = { s.mbx with mem := t.mbx.mem, slot0 := t.mbx.slot0, slot1 := t.mbx.slot1 }
  | .mbxMem => t.mbx.mem = s.mbx.mem ∧ t.mbx.slot0 = s.mbx.slot0 ∧ t.mbx.slot1 = s.mbx.slot1
  | .bank => t.bank = { s.bank with mem := t.bank.mem }
  | .bankMem => t.bank.mem = s.bank.mem
  | .skid => t.skid = s.skid
  | .tly => t.tly = s.tly
  | .pcie => t.pcie = s.pcie
  | .pwr => t.pwr = s.pwr
  | .jtag => t.jtag = s.jtag
  | .tst => t.tst = s.tst
  | .out => t.out = s.out
  | .resp => t.resp = s.resp
  | .free => t.free = s.free

/-- Only the parts listed may differ. -/
def only (ps : List Part) (s t : Machine.State) : Prop := ∀ p, p ∉ ps → p.same s t

/-- The parts of the state that each command may change. -/
def touches : Instr → List Part
  | .marchRowLock =>
      [.bank]
  | .refActivityGap _ | .refActiveRestored _ | .lrQlChange _ | .loopStageAdvance | .hoValidSet | .selectedRefLost | .pullComplete
    =>
      [.beat]
  | .helloInterval | .rsvTmo _ _ =>
      [.bmy]
  | .fineEntryReload _ _ =>
      [.fine]
  | .heartbeatWireEdge _ | .islandFault _ =>
      [.fmn]
  | .signalDetectRestored _ | .clockRecoveryLocked _ | .codewordLockAcquired _ =>
      [.lanes]
  | .heddleEntryReload _ _ =>
      [.loom]
  | .smbReadIdentity | .smbReadPower | .smbReadTemperatures =>
      [.out]
  | .pcieD3hotEntry =>
      [.pcie]
  | .linkDownDeclared _ =>
      [.ports]
  | .holdoffExpire _ _ _ | .wtrExpire _ | .legAcquired _ _ | .hbmNotReady _ =>
      [.prot]
  | .smbSetPointer _ | .powerOn _ | .resetNAssert _ =>
      [.pwr]
  | .hdlReadDone | .fineMapReadDone =>
      [.regs]
  | .tileArmAck _ =>
      [.trd]
  | .ppsOutEdge =>
      [.beat, .out]
  | .jtagTapReset | .jtagExtest | .jtagIdcode | .jtagSamplePreload _ | .jtagClamp | .jtagHighz | .jtagBypass _ | .jtagDbgAcc _ =>
      [.jtag, .out]
  | .standbyCopyDone =>
      [.loom, .trd]
  | .pcieRequestsResume _ _ _ | .pcieLinkUp _ _ =>
      [.pcie, .out]
  | .hbmReady _ =>
      [.prot, .pwr]
  | .bankHandoverDone _ | .fuseBurnDone =>
      [.regs, .bank]
  | .freqMonitorWindow _ _ =>
      [.regs, .beat]
  | .idOfferTimeout | .teardownResend _ | .bamryAudit | .bamryAgentRestart =>
      [.regs, .bmy]
  | .recentre _ _ _ =>
      [.regs, .lanes]
  | .warmFineAsgRestore =>
      [.regs, .pwr]
  | .tlyReadDone =>
      [.regs, .tly]
  | .trdArm =>
      [.trd, .out]
  | .twCmdTimeout =>
      [.tst, .out]
  | .helloRx _ _ | .idReqRx _ _ | .idOfferRx _ _ | .idAckRx _ _ | .setupRx _ _ | .confirmRx _ _ | .refuseRx _ _ | .teardownRx _ _
    | .tdAckRx _ _ =>
      [.lanes, .bmy, .tly]
  | .dmaGo _ _ | .dmaAbort _ | .cdpUncorrectableFault =>
      [.regs, .pcie, .out]
  | .portTileWake _ =>
      [.regs, .ports, .pwr]
  | .msixVectorUnmask _ =>
      [.mbx, .mbxMem, .pcie, .out]
  | .marchRowDone _ =>
      [.regs, .bank, .pcie, .out]
  | .candidateQualified _ | .frefPinChange _ _ | .alignStart _ | .alignComplete =>
      [.regs, .beat, .pcie, .out]
  | .helloLossTimeout _ | .bamryAgentLost =>
      [.regs, .bmy, .pcie, .out]
  | .fineEccUncorrectable _ =>
      [.regs, .fine, .pcie, .out]
  | .laneHeaderRx _ _ _ =>
      [.regs, .lanes, .beat, .tly]
  | .heddleEccUncorrectable _ =>
      [.regs, .loom, .pcie, .out]
  | .pcieLinkDown | .pcieHotReset =>
      [.regs, .mbx, .mbxMem, .pcie]
  | .tracePostComplete =>
      [.regs, .pcie, .tst, .out]
  | .selvEccUncorrectable _ _ _ =>
      [.regs, .prot, .pcie, .out]
  | .tenAgentLost =>
      [.regs, .ten, .pcie, .out]
  | .tallyFold | .snapshot =>
      [.regs, .tly, .pcie, .out]
  | .marchTestDone _ =>
      [.regs, .bank, .bankMem, .pcie, .out]
  | .blzRunDone _ =>
      [.regs, .blz, .bank, .pcie, .out]
  | .checkpointFlashInterval =>
      [.regs, .fmn, .bank, .pcie, .out]
  | .mbxCommandTake _ | .ping _ | .fwActivate _ _ | .mgmtCfg _ =>
      [.regs, .fmn, .mbx, .pcie, .out]
  | .defectDeclared _ | .defectCleared _ =>
      [.regs, .integ, .ten, .pcie, .out]
  | .skeinHeaderRx _ _ =>
      [.regs, .lanes, .integ, .skrx, .tly]
  | .fawHuntMatch _ _ _ | .framerSync _ _ =>
      [.regs, .lanes, .ten, .pcie, .out]
  | .lnPatErrCntRead _ _ | .skidLowmarkRead _ | .tstTrRd3Read _ =>
      [.regs, .pcie, .tst, .out, .resp]
  | .hbmPowerOn _ | .hbmPowerOff _ =>
      [.regs, .prot, .pcie, .pwr, .out]
  | .clusterPowerOn _ =>
      [.regs, .wvr, .pcie, .pwr, .out]
  | .dmaDone _ _ =>
      [.regs, .bank, .bankMem, .pcie, .out, .resp]
  | .boltRecordWrite _ =>
      [.regs, .bank, .bankMem, .tly, .pcie, .out]
  | .bankRead _ _ _ =>
      [.regs, .bank, .pcie, .tst, .out, .resp]
  | .beatLocked | .beatLockLost | .beatAcqTimeout | .holdoverMaxExpire =>
      [.regs, .beat, .pcie, .tst, .out, .free]
  | .beatDcoLoRead _ =>
      [.regs, .beat, .pcie, .tst, .out, .resp]
  | .ckptFlash _ =>
      [.regs, .fmn, .mbx, .bank, .pcie, .out]
  | .fwWrite _ _ _ =>
      [.regs, .fmn, .mbx, .mbxMem, .pcie, .out]
  | .status _ =>
      [.regs, .fmn, .mbx, .pcie, .out, .free]
  | .mgmtMessageRx _ _ =>
      [.regs, .lanes, .mbx, .tly, .pcie, .out]
  | .protApsChgqRead _ | .protEvqRead _ =>
      [.regs, .prot, .pcie, .tst, .out, .resp]
  | .skidAlloc _ =>
      [.regs, .skid, .pcie, .tst, .out, .resp]
  | .mbxTreadle _ | .mbxFine _ =>
      [.regs, .trd, .fine, .mbx, .pcie, .out]
  | .hdlRead _ | .fineAsgWrite _ _ _ | .fineMapRead _ | .selvCfgWrite _ _ | .bmyDevidWrite _ _ | .wvrRoleReqWrite _ _ _ |
    .mbxCqTailWrite _ _ _ | .tlyHclr _ | .gvecEoi _ _ | .tstCfgWrite _ _ | .tstPertEnWrite _ _ | .lnPerturbWrite _ _ _ _ |
    .shedPerturbWrite _ _ _ | .beatPerturbWrite _ _ _ =>
      [.regs, .wvr, .pcie, .tst, .out, .resp]
  | .bankWrite _ _ _ _ _ | .bankAliasSet _ _ _ _ | .bankAliasClear _ _ _ _ | .skidBufferWrite _ _ _ _ _ =>
      [.regs, .bank, .bankMem, .pcie, .tst, .out, .resp]
  | .beatDcoLoWrite _ _ | .beatDcoHiWrite _ _ | .beatClrHo _ | .beatAlignGo _ | .beatAlignCancel _ =>
      [.regs, .beat, .wvr, .pcie, .tst, .out, .resp]
  | .mgmtSend _ =>
      [.regs, .bmy, .fmn, .mbx, .tly, .pcie, .out]
  | .heldRelease _ | .foremanBoot _ _ | .bootTimeout _ | .formerHolderPowerOff =>
      [.regs, .fmn, .pcie, .pwr, .tst, .out, .free]
  | .signalDetectLost _ _ | .clockRecoveryLost _ _ | .codewordLockLost _ _ | .fawExpected _ _ | .framerOutOfSync _ _ =>
      [.regs, .lanes, .skrx, .ten, .tly, .pcie, .out]
  | .recentreCommand _ _ | .lnIntgWrite _ _ _ _ =>
      [.regs, .lanes, .wvr, .pcie, .tst, .out, .resp]
  | .fopPmSet _ | .fopNrSet _ | .fopToSet _ | .apsAgentLost | .acqTimeout _ | .storeFillComplete _ | .autoRetime _ =>
      [.regs, .prot, .ten, .pcie, .tst, .out, .free]
  | .protGcfgWrite _ _ _ | .protClear _ _ | .protLockout _ _ | .protForce _ _ _ | .protManualP _ _ _ | .protManualW _ _ |
    .protExercise _ _ | .protRetime _ _ | .protAgentHbWrite _ _ =>
      [.regs, .prot, .wvr, .pcie, .tst, .out, .resp]
  | .bankOwnWrite _ _ _ | .bankFuseKey _ _ | .bankFuseCmd _ _ =>
      [.regs, .wvr, .bank, .pcie, .tst, .out, .resp]
  | .fmnLeaseClaim _ _ | .fmnLeaseRenew _ _ | .fmnLeaseRel _ _ | .fmnSelfWrite _ _ _ =>
      [.regs, .wvr, .fmn, .pcie, .tst, .out, .resp]
  | .pwrDomCtrlWrite _ _ | .glbRstKeyWrite _ _ | .glbRstCmdCold _ | .glbRstCmdWarm _ | .glbRstCmdCp _ =>
      [.regs, .wvr, .pcie, .pwr, .tst, .out, .resp]
  | .tstTrEmit _ _ _ | .tstTrStart _ | .tstTrStop _ | .tstTrTrig _ =>
      [.regs, .wvr, .pcie, .tst, .out, .resp, .free]
  | .weaverAutoRestart _ | .weaverSleep _ | .weaverWake _ _ =>
      [.regs, .wvr, .tly, .pcie, .tst, .out, .free]
  | .tlyRead _ | .tlyClear _ | .tlySnapNow _ | .tlySnapAt _ =>
      [.regs, .wvr, .tly, .pcie, .tst, .out, .resp]
  | .checkpointInterval =>
      [.regs, .fmn, .bank, .bankMem, .pcie, .tst, .out, .free]
  | .d2dLinkRegained _ =>
      [.regs, .integ, .skrx, .ports, .tly, .pcie, .pwr, .out]
  | .d2dLinkLost _ _ =>
      [.regs, .ports, .pcie, .pwr, .jtag, .tst, .out, .resp]
  | .apsMessageAccept _ =>
      [.regs, .prot, .ten, .tly, .pcie, .tst, .out, .free]
  | .mbxTreadleReply | .mbxFineReply =>
      [.regs, .ten, .fmn, .mbx, .bank, .pcie, .tst, .out]
  | .commit | .query | .fence | .fenceDone | .trdCompletionsPost | .pwaitExpire | .tconnect | .tdisconnect | .treconnect | .tlock
    | .tforceAis | .trelease | .fineCommit | .tretagIn | .tretagOut | .tquery | .fineFence | .fineFenceDone | .fineCompletionsPost |
    .fineBadOpcode =>
      [.regs, .trd, .fine, .bank, .bankMem, .pcie, .tst, .out]
  | .mailboxReplay =>
      [.regs, .trd, .fine, .ten, .fmn, .mbx, .pcie, .out]
  | .trdEnqueue _ _ _ | .fineEnqueue _ _ _ =>
      [.regs, .trd, .fine, .wvr, .pcie, .tst, .out, .resp]
  | .marchStart _ _ | .marchAbort _ =>
      [.regs, .wvr, .bank, .bankMem, .pcie, .tst, .out, .resp]
  | .wvrInboxPop _ _ | .fmnInboxPop _ =>
      [.regs, .wvr, .fmn, .skid, .pcie, .tst, .out, .resp]
  | .blzClaim _ _ | .blzRelease _ _ | .blzUdata32Write _ _ _ | .blzUdata8Write _ _ _ | .blzInit _ _ | .blzRunBlock _ _ _ |
    .blzAbort _ _ | .blzUrunWrite _ _ _ _ =>
      [.regs, .blz, .wvr, .bank, .pcie, .tst, .out, .resp, .free]
  | .clusterPowerOff _ =>
      [.regs, .blz, .wvr, .tly, .pcie, .pwr, .tst, .out, .free]
  | .ckptNow _ =>
      [.regs, .fmn, .mbx, .bank, .bankMem, .pcie, .tst, .out, .free]
  | .connect | .disconnect | .connectP | .reconnect | .lock | .forceAis | .release | .abort | .defrag | .retag | .armDeadline |
    .trdBatchTimeout | .fineAbort | .fineBatchTimeout | .trdBadOpcode =>
      [.regs, .loom, .trd, .fine, .bank, .bankMem, .pcie, .tst, .out]
  | .fineLoomCommit =>
      [.regs, .trd, .fine, .bank, .bankMem, .pcie, .tst, .out, .free]
  | .skidFree _ _ =>
      [.regs, .wvr, .bank, .bankMem, .skid, .pcie, .tst, .out, .resp]
  | .perfCollect _ =>
      [.regs, .wvr, .bank, .bankMem, .tly, .pcie, .tst, .out, .free]
  | .fmnStartA _ | .fmnStartB _ | .fmnStopA _ | .fmnStopB _ | .fmnClrFail _ =>
      [.regs, .wvr, .fmn, .pcie, .pwr, .tst, .out, .resp, .free]
  | .agentCompletion | .setupTmo _ | .bmyReqBadOp =>
      [.regs, .bmy, .wvr, .bank, .bankMem, .tly, .pcie, .tst, .out, .free]
  | .portTileUp _ =>
      [.regs, .lanes, .integ, .ports, .ten, .pcie, .pwr, .tst, .out, .free]
  | .lnModeWrite _ _ _ =>
      [.regs, .lanes, .skrx, .wvr, .ten, .tly, .pcie, .tst, .out, .resp]
  | .roleRequestServe _ _ =>
      [.regs, .wvr, .fmn, .bank, .bankMem, .tly, .pcie, .tst, .out, .free]
  | .clusterIdle _ =>
      [.regs, .wvr, .fmn, .bank, .tly, .pcie, .pwr, .tst, .out, .free]
  | .tenList | .tenState | .tenCount | .tenProt | .tenantEventWrite _ =>
      [.regs, .wvr, .ten, .bank, .bankMem, .tly, .pcie, .tst, .out, .free]
  | .heddleCommit =>
      [.regs, .loom, .trd, .fine, .prot, .bank, .bankMem, .pcie, .tst, .out, .free]
  | .trdAbortOpen _ | .trdFlushQ _ | .fineAbortOpen _ | .fineFlushQ _ =>
      [.regs, .loom, .trd, .fine, .wvr, .bank, .bankMem, .pcie, .tst, .out, .resp]
  | .foremanRevertWtr | .handover _ =>
      [.regs, .trd, .fine, .fmn, .mbx, .bank, .bankMem, .pcie, .tst, .out, .free]
  | .drainTimeout _ | .weaverFault _ _ | .weaverWatchdog _ =>
      [.regs, .wvr, .fmn, .bank, .bankMem, .skid, .tly, .pcie, .tst, .out, .free]
  | .wvrPost _ _ _ | .fmnPost _ _ _ =>
      [.regs, .wvr, .fmn, .bank, .bankMem, .skid, .tly, .pcie, .tst, .out, .resp]
  | .roleImageLoaded _ =>
      [.regs, .wvr, .fmn, .bank, .bankMem, .tly, .pcie, .pwr, .tst, .out, .free]
  | .portTileSleep _ =>
      [.regs, .lanes, .integ, .skrx, .sktx, .ports, .pcie, .pwr, .tst, .out, .resp, .free]
  | .errlogRead _ _ =>
      [.regs, .prot, .beat, .wvr, .fmn, .bank, .skid, .pcie, .tst, .out, .resp, .free]
  | .bmyReqSetup | .bmyReqTeardown | .retryBackoff _ =>
      [.regs, .trd, .fine, .bmy, .wvr, .bank, .bankMem, .tly, .pcie, .tst, .out, .free]
  | .wvrCmdDrained _ _ | .wvrCmdHalt _ _ | .wvrCmdResume _ _ | .wvrCmdRestart _ _ =>
      [.regs, .wvr, .fmn, .bank, .bankMem, .skid, .tly, .pcie, .tst, .out, .resp, .free]
  | .handoffRetagDone =>
      [.regs, .wvr, .ten, .fmn, .mbx, .bank, .bankMem, .tly, .pcie, .tst, .out, .free]
  | .smbReadRegister =>
      [.regs, .prot, .beat, .wvr, .fmn, .bank, .skid, .pcie, .pwr, .tst, .out, .resp, .free]
  | .tenHandoff =>
      [.regs, .trd, .fine, .wvr, .ten, .fmn, .mbx, .bank, .bankMem, .skid, .tly, .pcie, .tst, .out, .free]
  | .leaseTick | .leaseExpire | .wireTimeout | .cpReset =>
      [.regs, .loom, .trd, .fine, .wvr, .fmn, .mbx, .bank, .bankMem, .skid, .tly, .pcie, .pwr, .tst, .out, .free]
  | .irqRawClear _ _ _ _ | .irqForce _ _ _ =>
      [.regs, .lanes, .skrx, .loom, .trd, .fine, .prot, .blz, .beat, .bmy, .wvr, .ten, .fmn, .mbx, .bank, .bankMem, .skid, .tly,
      .pcie, .pwr, .tst, .out, .resp, .free]
  | .warmReset =>
      [.regs, .lanes, .integ, .skrx, .sktx, .loom, .trd, .fine, .prot, .blz, .beat, .bmy, .wvr, .ten, .fmn, .mbx, .bank, .bankMem,
      .skid, .tly, .pcie, .pwr, .tst, .out, .free]
  | .registerWrite _ _ _ _ | .policyInterval _ _ | .guardedWrite _ _ _ | .smbWriteRegister _ | .twiuriLine _ | .twHelp | .twId |
    .twRd _ _ | .twWr _ _ | .twSet _ _ _ | .twLane _ _ | .twSkein _ _ _ | .twHdl _ _ _ _ | .twTcmd _ | .twFcmd _ | .twProt _ |
    .twBeat | .twFmn | .twWvr _ | .twTally _ _ _ _ | .twTraceStart | .twTraceStop | .twTraceTrig | .twTraceDump _ | .twResetCold |
    .twResetWarm | .twResetCp | .twBaud _ | .twLock =>
      [.regs, .lanes, .skrx, .loom, .trd, .fine, .prot, .blz, .beat, .bmy, .wvr, .ten, .fmn, .mbx, .mbxMem, .bank, .bankMem,
      .skid, .tly, .pcie, .pwr, .tst, .out, .resp, .free]
  | .powerOff | .thermalTrip =>
      [.regs, .lanes, .integ, .skrx, .sktx, .ports, .loom, .trd, .fine, .prot, .blz, .beat, .bmy, .wvr, .ten, .fmn, .mbx, .mbxMem,
      .bank, .bankMem, .skid, .tly, .pcie, .pwr, .jtag, .tst]
  | .dbgAccDone =>
      [.regs, .lanes, .skrx, .loom, .trd, .fine, .prot, .blz, .beat, .bmy, .wvr, .ten, .fmn, .mbx, .mbxMem, .bank, .bankMem,
      .skid, .tly, .pcie, .pwr, .jtag, .tst, .out, .resp, .free]
  | .pickSwitch _ | .threadPickRead _ _ _ =>
      [.regs, .lanes, .integ, .skrx, .sktx, .ports, .loom, .trd, .fine, .prot, .blz, .beat, .bmy, .wvr, .ten, .fmn, .mbx, .bank,
      .bankMem, .skid, .tly, .pcie, .pwr, .tst, .out, .resp, .free]
  | .coldReset _ _ =>
      [.regs, .lanes, .integ, .skrx, .sktx, .ports, .loom, .trd, .fine, .prot, .blz, .beat, .bmy, .wvr, .ten, .fmn, .mbx, .mbxMem,
      .bank, .bankMem, .skid, .tly, .pcie, .pwr, .jtag, .tst, .out]
  | .moduleBoltBoundary _ =>
      [.regs, .lanes, .integ, .skrx, .sktx, .ports, .loom, .trd, .fine, .prot, .blz, .beat, .bmy, .wvr, .ten, .fmn, .mbx, .mbxMem,
      .bank, .bankMem, .skid, .tly, .pcie, .pwr, .jtag, .tst, .out, .resp, .free]

/-- The rows that are one 4-byte write of one register: the master, the address, the value. -/
def rowWrite : Instr → Option (Mid × Nat × Word)
  | .recentreCommand m l => some (m, Machine.lnA l.val 0x50, 1)
  | .lnModeWrite m l v => some (m, Machine.lnA l.val 0x40, v)
  | .lnIntgWrite m l d v => some (m, Machine.lnA l.val (0x80 + 4 * d.val), v)
  | .trdEnqueue m win v => some (m, Machine.trdA (0x11C + 0x20 * win.val), v)
  | .trdAbortOpen m => some (m, Machine.trdA 0x58, 1)
  | .trdFlushQ m => some (m, Machine.trdA 0x58, 2)
  | .hdlRead m => some (m, 0x801044, 1)
  | .fineEnqueue m win v => some (m, Machine.fineA (0x11C + 0x20 * win.val), v)
  | .fineAbortOpen m => some (m, Machine.fineA 0x58, 1)
  | .fineFlushQ m => some (m, Machine.fineA 0x58, 2)
  | .fineAsgWrite m f v => some (m, 0x902000 + 4 * f.val, v)
  | .fineMapRead m => some (m, Machine.fineA 0xA4, 1)
  | .protGcfgWrite m g v => some (m, Machine.recA g.val 0, v)
  | .protAgentHbWrite m v => some (m, Machine.protA 0x44, v)
  | .selvCfgWrite m v => some (m, 0xA80040, v)
  | .beatDcoLoWrite m v => some (m, Machine.beatA 0x68, v)
  | .beatDcoHiWrite m v => some (m, Machine.beatA 0x6C, v)
  | .beatClrHo m => some (m, Machine.beatA 0x64, 1)
  | .beatAlignGo m => some (m, Machine.beatA 0x98, 1)
  | .beatAlignCancel m => some (m, Machine.beatA 0x98, 2)
  | .bmyDevidWrite m v => some (m, Machine.bmyA 0x44, v)
  | .wvrRoleReqWrite m w v => some (m, Machine.wvrA w.val 0x48, v)
  | .wvrCmdDrained m w => some (m, Machine.wvrA w.val 0x4C, 8)
  | .wvrCmdHalt m w => some (m, Machine.wvrA w.val 0x4C, 1)
  | .wvrCmdResume m w => some (m, Machine.wvrA w.val 0x4C, 2)
  | .wvrCmdRestart m w => some (m, Machine.wvrA w.val 0x4C, 4)
  | .wvrPost m w v => some (m, Machine.wvrA w.val 0x50, v)
  | .fmnLeaseClaim m v => some (m, Machine.fmnA 0x50, v)
  | .fmnLeaseRenew m v => some (m, Machine.fmnA 0x54, v)
  | .fmnLeaseRel m v => some (m, Machine.fmnA 0x58, v)
  | .fmnStartA m => some (m, Machine.fmnA 0x60, 1)
  | .fmnStartB m => some (m, Machine.fmnA 0x60, 2)
  | .fmnStopA m => some (m, Machine.fmnA 0x60, 4)
  | .fmnStopB m => some (m, Machine.fmnA 0x60, 8)
  | .fmnClrFail m => some (m, Machine.fmnA 0x60, 16)
  | .fmnPost m b v => some (m, Machine.fmnA (if b then 0x84 else 0x80), v)
  | .fmnSelfWrite m b v => some (m, Machine.selfA b, v)
  | .mbxCqTailWrite m r v => some (m, Machine.mbxR r.val 4, v)
  | .bankOwnWrite m b v => some (m, Machine.bankA (0x100 + 4 * b.val), v)
  | .marchStart m v => some (m, Machine.bankA 0x60, Machine.setBit v 11 true)
  | .marchAbort m => some (m, Machine.bankA 0x60, 0x1000)
  | .bankFuseKey m v => some (m, Machine.bankA 0x80, v)
  | .bankFuseCmd m v => some (m, Machine.bankA 0x84, v)
  | .skidFree m v => some (m, Machine.skidA 0x4C, v)
  | .tlyRead m => some (m, Machine.tlyA 0x48, 1)
  | .tlyClear m => some (m, Machine.tlyA 0x48, 2)
  | .tlySnapNow m => some (m, Machine.tlyA 0x60, 1)
  | .tlySnapAt m => some (m, Machine.tlyA 0x60, 2)
  | .tlyHclr m => some (m, Machine.tlyA 0x8C, 1)
  | .gvecEoi m v => some (m, 0x2040, v)
  | .pwrDomCtrlWrite m v => some (m, Machine.pwrA 0x40, v)
  | .glbRstKeyWrite m v => some (m, 0x80, v)
  | .glbRstCmdCold m => some (m, 0x84, 1)
  | .glbRstCmdWarm m => some (m, 0x84, 2)
  | .glbRstCmdCp m => some (m, 0x84, 3)
  | .tstCfgWrite m v => some (m, Machine.tstA 0x40, v)
  | .tstPertEnWrite m v => some (m, Machine.tstA 0x44, v)
  | .lnPerturbWrite m l i v => some (m, Machine.lnA l.val (0x30 + 4 * i.val), v)
  | .shedPerturbWrite m i v => some (m, Machine.shedA (0x30 + 4 * i.val), v)
  | .beatPerturbWrite m i v => some (m, Machine.beatA (0x30 + 4 * i.val), v)
  | .tstTrStart m => some (m, Machine.tstA 0x6C, 1)
  | .tstTrStop m => some (m, Machine.tstA 0x6C, 2)
  | .tstTrTrig m => some (m, Machine.tstA 0x6C, 4)
  | .protClear m g => some (m, Machine.recA g.val 0x14, 1)
  | .protLockout m g => some (m, Machine.recA g.val 0x14, 2)
  | .protManualW m g => some (m, Machine.recA g.val 0x14, 5)
  | .protExercise m g => some (m, Machine.recA g.val 0x14, 6)
  | .protRetime m g => some (m, Machine.recA g.val 0x14, 7)
  | .protForce m g i => some (m, Machine.recA g.val 0x14, Machine.w32 (3 + i.toNat * 16))
  | .protManualP m g i => some (m, Machine.recA g.val 0x14, Machine.w32 (4 + i.toNat * 16))
  | _ => none

/-- The rows that are one access of the register space: the master, the address, the size, whether it writes. -/
def rowAccess (c : Instr) : Option (Mid × Nat × Nat × Bool) :=
  match rowWrite c with
  | some (m, a, _) => some (m, a, 4, true)
  | none => match c with
    | .lnPatErrCntRead m l => some (m, Machine.lnA l.val 0x74, 4, false)
    | .protApsChgqRead m => some (m, Machine.protA 0x50, 4, false)
    | .protEvqRead m => some (m, Machine.protA 0x4C, 4, false)
    | .beatDcoLoRead m => some (m, Machine.beatA 0x68, 4, false)
    | .wvrInboxPop m w => some (m, Machine.wvrA w.val 0x54, 4, false)
    | .fmnInboxPop m => some (m, Machine.fmnA 0x88, 4, false)
    | .bankWrite m off size _ _ => some (m, 0x1000000 + off.toNat, size, true)
    | .bankRead m off size => if 8 < size ∧ size % 8 = 0 then none else some (m, 0x1000000 + off.toNat, size, false)
    | .bankAliasSet m off size _ => some (m, 0x2000000 + off.toNat, size, true)
    | .bankAliasClear m off size _ => some (m, 0x3000000 + off.toNat, size, true)
    | .skidAlloc m => some (m, Machine.skidA 0x48, 4, false)
    | .skidBufferWrite m i off size _ => some (m, 0x1800000 + 256 * i.val + off.val, size, true)
    | .skidLowmarkRead m => some (m, Machine.skidA 0x64, 4, false)
    | .tstTrRd3Read m => some (m, Machine.tstA 0x84, 4, false)
    | .tstTrEmit m _ _ => some (m, Machine.tstA 0x68, 4, true)
    | .errlogRead m page => some (m, page.toNat + 0x20, 4, false)
    | _ => none

end Sys2Proof
end

