-- ==== Sys2Proof/Certificates/Slice0/Obligations.lean ====
section
/-! DEFINITION. What is stated of the model: the step, the frame of every command, its invariants, and family by family what each
command does. -/

open Sys2Proof Sys2Proof.Machine

/-- O1. For every command c, every queue rest and every state s: step of s with c at the front of its queue is exec c on s with the queue's
rest; with an empty queue the step answers the state unchanged (the model's choice, notes/assumptions/9.md). -/
def Obligations.StepRunsFrontCommand : Prop :=
  (∀ (c : Instr) (rest : List Instr) (s : State), step { s with pending := c :: rest } = exec c { s with pending := rest }) ∧
  (∀ s : State, s.pending = [] → step s = .next s)

/-- O2. State.reset has the reset values that the register tables of the chapters give to the registers named, the bolt number 0, every memory
byte 0 (the value of an unwritten byte is the model's choice where the spec gives none, notes/assumptions/7.md and 4.md), every Skid
buffer FREE, every weaver with epoch 1 and no role, no lease holder; it meets the invariant of CanonicalKeptByEveryStep, and its queue is
empty. -/
def Obligations.StateAtReset : Prop :=
  let r := State.reset
  canonical r = true ∧ queueOk r = true ∧ r.pending = [] ∧ r.headless = true ∧ r.bolt = 0 ∧ (∀ a, r.byteAt a = 0) ∧
  (∀ i, i < 512 → r.reg (lnA i 0x40) = 0x2000 ∧ r.reg (lnA i 0x54) = 0x1000) ∧
  r.reg 0x810040 = 0x40080210 ∧ r.reg 0x900040 = 0x4001 ∧ r.reg 0xA00040 = 0x10080008 ∧ r.reg (recA 0 0) = 0x10000000 ∧
  r.reg (recA 8191 4) = 0x11E2 ∧ r.reg 0xA80040 = 3 ∧ (∀ u, u < 72 → r.reg (blzU u 0) = 1 ∧ (r.unit u).held = false) ∧
  r.reg 0x20040 = 4 ∧ r.reg 0x20048 = 0x400 ∧ r.reg 0x20050 = 0xF0A03 ∧ r.reg 0x20058 = 0x641F400 ∧ r.reg 0x2005C = 0x99 ∧
  r.reg 0x20060 = 0x4B00398 ∧ r.reg 0x20090 = 0x3200 ∧ r.reg 0xB80040 = 0x881024 ∧ r.reg 0xB8004C = 7 ∧ r.reg 0xB80050 = 0x4000200 ∧
  r.reg 0xB8005C = 0xFFFF ∧ (∀ w, w < 64 → r.reg (wvrA w 0x40) = 0x100401 ∧ (r.weaver w).epoch = 1 ∧ (r.weaver w).role = 0) ∧
  r.reg 0xB00040 = 1 ∧ r.reg 0x30040 = 0x4004B3D ∧ r.reg 0x3005C = 0x4E30E ∧ r.reg 0x30078 = 0xC0804020 ∧ r.reg 0x3007C = 0xE10F43 ∧
  r.reg 0xD00040 = 1 ∧ r.reg 0xD00068 = 0x400 ∧ r.reg 0xD80040 = 0x40001 ∧ r.reg 0xD80044 = 0x800 ∧ r.reg 0xD80064 = 0x2000 ∧
  (∀ i, r.buf i = (.free, 0)) ∧ r.reg (shedA 0x40) = 0x10100 ∧ r.reg (shedA 0x54) = 0x55555555 ∧ r.reg (shedA 0x64) = 0xFC2A ∧
  r.reg (tlyA 0x40) = 0x800 ∧ r.reg (tlyA 0x6C) = 0x35A4E9 ∧ r.reg (tlyA 0x80) = 0x1400000 ∧ r.reg (tlyA 0x84) = 0x7FFFFFFF ∧
  r.reg (tlyA 0x88) = 0xD740 ∧ r.reg 0x70040 = 1 ∧ r.reg 0x10050 = 0x3B6 ∧ r.reg 0x10060 = 0x8000 ∧ r.reg 0x10090 = 0x690 ∧
  r.reg 0x60040 = 1 ∧ r.reg 0x60064 = 0x3FF

/-- O3. For every state s whose register list, scratch bank bytes, ring memory and firmware slots are in canonical form (keys rising, nothing
listed that reads as unlisted), if a step answers next t then t is in canonical form: equal contents stay equal data. -/
def Obligations.CanonicalKeptByEveryStep : Prop :=
  ∀ s t : State, canonical s = true → step s = .next t → canonical t = true

/-- O4. For every state s the step answers a next state (neither a fault nor a refusal), whose queue is the rest of the queue of s, and is
well formed where that of s is. -/
def Obligations.EveryStepAnswersNext : Prop :=
  ∀ s : State, ∃ t, step s = .next t ∧ t.pending = s.pending.tail ∧ (queueOk s = true → queueOk t = true)

/-- O5. For every command and every state the command answers a next state, neither a fault nor a refusal; a command that names nothing the
spec has leaves the state as it is (the model's choice, notes/assumptions/10.md). -/
def Obligations.EveryCommandAnswersNext : Prop :=
  ∀ (c : Instr) (s : State),
    (∃ t, exec c s = .next t) ∧ (c.wellFormed = false → exec c s = .next s)

/-- O6. For every command c and states s, t: if exec c s answers next t, then every part of the state that touches c does not list (registers,
lanes, looms, protection, banks, their bytes, ring memory, outputs, the last response, ...) is in t as it was in s, and so is the queue. -/
def Obligations.CommandsLeaveOtherPartsAlone : Prop :=
  ∀ (c : Instr) (s t : State), exec c s = .next t → only (touches c) s t ∧ t.pending = s.pending

/-- O7. For every state with lane l awake: where the lane is not in terminal loopback, loss of signal detect, of clock recovery and of
codeword lock record the raw condition, send the framer to HUNT and set raw OOF; their return sets the signal alone; an exact FAW in HUNT
gives PRESYNC, or SYNC where one good FAW is enough; an expected FAW counts as good or errored; G good ones give SYNC with raw OOF clear
and BOLT latched, E errored ones HUNT with raw OOF. In terminal loopback (R58) the line changes the state of the signals and nothing else.
Every other lane, and every register but the lane's IRQ_RAW (and its BOLT on SYNC), is unchanged. -/
def Obligations.LaneSignalsAndFramer : Prop :=
  ∀ (s : State) (l : Fin 512) (w : BitVec 64) (b : Word) (o : Bool), s.awake (l.val / 64) = true →
    let k := l.val
    (exec (.signalDetectRestored l) s = .next (s.modLane k (fun n => { n with sig := true }))) ∧
    (exec (.clockRecoveryLocked l) s = .next (s.modLane k (fun n => { n with clk := true }))) ∧
    (exec (.codewordLockAcquired l) s = .next (s.modLane k (fun n => { n with cw := true, cwSeen := true }))) ∧
    (s.ownStream k = false → ∃ t, exec (.signalDetectLost l o) s = .next t ∧ (t.lane k).sig = false ∧ (t.lane k).losSeen = true ∧
      (t.lane k).framer = .hunt ∧ (t.lane k).rawOof = true ∧ (∀ j, j ≠ k → t.lane j = s.lane j) ∧
      ∀ a, a ≠ lnA k 0x10 → t.reg a = s.reg a) ∧
    (s.ownStream k = false → ∃ t, exec (.clockRecoveryLost l o) s = .next t ∧ (t.lane k).clk = false ∧ (t.lane k).lolSeen = true ∧
      (t.lane k).framer = .hunt ∧ (t.lane k).rawOof = true ∧ (∀ j, j ≠ k → t.lane j = s.lane j) ∧
      ∀ a, a ≠ lnA k 0x10 → t.reg a = s.reg a) ∧
    (s.ownStream k = false → ∃ t, exec (.codewordLockLost l o) s = .next t ∧ (t.lane k).cw = false ∧ (t.lane k).lolSeen = true ∧
      (t.lane k).framer = .hunt ∧ (t.lane k).rawOof = true ∧ (∀ j, j ≠ k → t.lane j = s.lane j) ∧
      ∀ a, a ≠ lnA k 0x10 → t.reg a = s.reg a) ∧
    (s.ownStream k = true →
      exec (.signalDetectLost l o) s = .next (s.modLane k (fun n => { n with sig := false })) ∧
      exec (.clockRecoveryLost l o) s = .next (s.modLane k (fun n => { n with clk := false })) ∧
      exec (.codewordLockLost l o) s = .next (s.modLane k (fun n => { n with cw := false })) ∧
      exec (.fawHuntMatch l w b) s = .next s ∧ exec (.fawExpected l w) s = .next s) ∧
    (s.ownStream k = false → (s.lane k).framer = .hunt → (s.lane k).cw = true → s.blind k = false → s.clrCnt k 2 ≠ 1 →
      exec (.fawHuntMatch l faw b) s = .next (s.modLane k (fun n => { n with framer := .presync, good := 1 }))) ∧
    (s.ownStream k = false → (s.lane k).framer = .hunt → (s.lane k).cw = true → s.blind k = false → s.clrCnt k 2 = 1 →
      ∃ t, exec (.fawHuntMatch l faw b) s = .next t ∧ (t.lane k).framer = .sync ∧ (t.lane k).rawOof = false ∧
        t.reg (lnA k 0x58) = b) ∧
    ((s.lane k).framer = .hunt → w ≠ faw → exec (.fawHuntMatch l w b) s = .next s) ∧
    (s.ownStream k = false → (s.lane k).framer = .sync → s.lossDue k = false →
      exec (.fawExpected l w) s = .next (s.modLane k (fun n =>
        { n with err := if fawGood w && !s.blind k then 0 else n.err + 1, fawSync := true }))) ∧
    (s.ownStream k = false → (s.lane k).framer = .presync → s.syncDue k = false →
      exec (.fawExpected l w) s = .next (s.modLane k (fun n =>
        if fawGood w && !s.blind k then { n with good := n.good + 1 } else { n with framer := .hunt, good := 0 }))) ∧
    ((s.lane k).framer = .presync → s.clrCnt k 2 ≤ (s.lane k).good →
      ∃ t, exec (.framerSync l b) s = .next t ∧ (t.lane k).framer = .sync ∧ (t.lane k).rawOof = false ∧ t.reg (lnA k 0x58) = b ∧
        ∀ j, j ≠ k → t.lane j = s.lane j) ∧
    ((s.lane k).framer = .sync → s.setCnt k 2 ≤ (s.lane k).err →
      ∃ t, exec (.framerOutOfSync l o) s = .next t ∧ (t.lane k).framer = .hunt ∧ (t.lane k).rawOof = true ∧
        (∀ j, j ≠ k → t.lane j = s.lane j) ∧ ∀ a, a ≠ lnA k 0x10 → t.reg a = s.reg a)

/-- O8. For every state in which the port tile of lane l sleeps, the lane's signal and framer commands answer the state unchanged. -/
def Obligations.SleepingLanesDoNothing : Prop :=
  ∀ (s : State) (l : Fin 512) (w : BitVec 64) (b : Word) (o : Bool), s.awake (l.val / 64) = false →
    exec (.signalDetectLost l o) s = .next s ∧ exec (.signalDetectRestored l) s = .next s ∧
    exec (.clockRecoveryLost l o) s = .next s ∧ exec (.clockRecoveryLocked l) s = .next s ∧
    exec (.codewordLockAcquired l) s = .next s ∧ exec (.codewordLockLost l o) s = .next s ∧
    exec (.fawHuntMatch l w b) s = .next s ∧ exec (.fawExpected l w) s = .next s ∧
    exec (.framerSync l b) s = .next s ∧ exec (.framerOutOfSync l o) s = .next s

/-- O9. For a lane header of 64 bytes, descrambled (R26), on an awake lane in SYNC that is not in terminal loopback: with good HCRC the BOLT
and device registers take the received words and the parity violations are counted; with bad HCRC the bad-header counter counts and the
fields stay. For a skein header of 32 bytes, descrambled: with good SCRC the skein's ORIGIN, tenant, SEQ and TRAIL are taken; with bad
SCRC they stay. A defect whose integrated state calls for it is declared or cleared, once, with its IRQ_RAW bit where it is not masked. -/
def Obligations.HeadersAndDefects : Prop :=
  ∀ (s : State),
    (∀ (l : Fin 512) (line : List Byte) (bip : Word), laneHdrOk line = true → s.awake (l.val / 64) = true → s.ownStream l.val = false →
      (s.lane l.val).framer = .sync →
      let hdr := scramble 0 line
      ∃ t, exec (.laneHeaderRx l line bip) s = .next t ∧ (∀ j, j ≠ l.val → t.lane j = s.lane j) ∧
        (t.lane l.val).laisRx = laisHdr hdr ∧
        (hcrcOk hdr = true → (t.lane l.val).hdrOk = true ∧
          (t.lane l.val).beiOut = popCount 32 (beAt hdr 24 4 ^^^ bip.toNat) ∧
          t.reg (lnA l.val 0x58) = w32 (beAt hdr 8 4) ∧ t.reg (lnA l.val 0x5C) = w32 (beAt hdr 12 4)) ∧
        (hcrcOk hdr = false → (t.lane l.val).hdrBad = true ∧ (t.lane l.val).hdrOk = (s.lane l.val).hdrOk ∧
          t.reg (lnA l.val 0x70) = s.reg (lnA l.val 0x70) + 1)) ∧
    (∀ (k : Fin 81920) (line : List Byte), skeinHdrOk line = true → s.awake (laneOf k.val / 64) = true →
      s.ownStream (laneOf k.val) = false → (s.lane (laneOf k.val)).framer = .sync →
      let hdr := scramble (hdrPos k.val) line
      ∃ t, exec (.skeinHeaderRx k line) s = .next t ∧ (∀ j, j ≠ k.val → t.rx j = s.rx j) ∧
        (scrcOk hdr = true → (t.rx k.val).origin = BitVec.ofNat 35 (beAt hdr 8 5 % 2 ^ 35) ∧
          (t.rx k.val).tenant = BitVec.ofNat 12 (beAt hdr 13 2 % 4096) ∧ (t.rx k.val).seq = w32 (beAt hdr 4 4) ∧
          (t.rx k.val).trail = w32 (beAt hdr 0 4) ∧ (t.rx k.val).seen = true ∧ (t.rx k.val).lastOk = true) ∧
        (scrcOk hdr = false → (t.rx k.val).lastOk = false ∧ (t.rx k.val).held = none ∧ ((t.rx k.val).wait ≠ none ↔ (s.rx k.val).waits = true) ∧
          (t.rx k.val).origin = (s.rx k.val).origin ∧ (t.rx k.val).tenant = (s.rx k.val).tenant ∧ (t.rx k.val).p = (s.rx k.val).p ∧
          (t.rx k.val).flags = (s.rx k.val).flags ∧ (t.rx k.val).seq = (s.rx k.val).seq ∧ (t.rx k.val).trail = (s.rx k.val).trail ∧
          (t.rx k.val).seen = (s.rx k.val).seen)) ∧
    (∀ (l : Fin 512) (d : Fin 10), d.val ≠ 2 →
      let i := s.integ1 (laneKey l.val d.val)
      let told := fun (t : State) (b : Bool) => t.integ1 (laneKey l.val d.val) = { i with decl := b } ∧
        (∀ a, a ≠ lnA l.val 0x10 → t.reg a = s.reg a) ∧
        t.reg (lnA l.val 0x10) = (if s.maskedL l.val d.val then s.reg (lnA l.val 0x10) else s.reg (lnA l.val 0x10) ||| w32 (2 ^ d.val))
      (i.eff = true → i.decl = false → ∃ t, exec (.defectDeclared (.lane l d)) s = .next t ∧ told t true) ∧
      (i.eff = false → i.decl = true → ∃ t, exec (.defectCleared (.lane l d)) s = .next t ∧ told t false) ∧
      (i.decl = true → exec (.defectDeclared (.lane l d)) s = .next s) ∧
      (i.decl = false → exec (.defectCleared (.lane l d)) s = .next s)) ∧
    (∀ (k : Fin 81920) (d : Fin 5),
      let i := s.integ1 (skKey k.val d.val)
      let told := fun (t : State) (b : Bool) => t.integ1 (skKey k.val d.val) = { i with decl := b } ∧
        ∀ a, a ≠ lnA (laneOf k.val) 0x10 → t.reg a = s.reg a
      (i.eff = true → i.decl = false → ∃ t, exec (.defectDeclared (.skein k d)) s = .next t ∧ told t true) ∧
      (i.eff = false → i.decl = true → ∃ t, exec (.defectCleared (.skein k d)) s = .next t ∧ told t false))

/-- O10. For every state and lane: a due recentre, told with the F and D that R54 gives, takes the delay that puts the fill nearest 512 (432
to 591), counts itself and ends the loss that called for it, and one not due, or told with other values, does nothing; commanding one,
writing LN_MODE and LN_INTG (whose old word stays in force), and reading and clearing the pattern error counter have exactly the effect
stated, on a write or read that reaches the register; a lost link is taken down with its bolt, declared down while it is down, and
regained with what the trail check held of its 64 lanes' skeins discarded. Other lanes, ports and registers are unchanged. -/
def Obligations.AlignmentAndLaneRegisters : Prop :=
  ∀ (s : State) (m : Mid) (l : Fin 512),
    (s.awake (l.val / 64) = true → (s.lane l.val).recDue = true →
      let n := s.lane l.val
      let d := centreD n.arr n.dly
      ∀ (f : Nat) (x : Fin 625), x.val = d → f = fillAt n.arr d n.dly → ∃ t, exec (.recentre l f x) s = .next t ∧ (t.lane l.val).off = d ∧ (t.lane l.val).fill = fillAt n.arr d n.dly ∧
        (n.arr < 100384 → n.dly < 2048 → d < 625 ∧ 432 ≤ (t.lane l.val).fill ∧ (t.lane l.val).fill ≤ 591) ∧
        (t.lane l.val).jump = jumpOf n.off d ∧ (t.lane l.val).recDue = false ∧ (t.lane l.val).lostIn = false ∧
        t.reg (lnA l.val 0x6C) = s.reg (lnA l.val 0x6C) + 1 ∧ (∀ a, a ≠ lnA l.val 0x6C → t.reg a = s.reg a) ∧
        ∀ j, j ≠ l.val → t.lane j = s.lane j) ∧
    (∀ (f : Nat) (x : Fin 625), (s.lane l.val).recDue = false ∨ x.val ≠ centreD (s.lane l.val).arr (s.lane l.val).dly ∨
      f ≠ fillAt (s.lane l.val).arr x.val (s.lane l.val).dly → exec (.recentre l f x) s = .next s) ∧
    (reaches s m (lnA l.val 0x50) →
      exec (.recentreCommand m l) s = .next ((s.modLane l.val (fun n => { n with recCmd := true })).answer 0)) ∧
    (∀ v, reaches s m (lnA l.val 0x40) →
      ∃ t, exec (.lnModeWrite m l v) s = .next t ∧ t.reg (lnA l.val 0x40) = v &&& w32 (writeMask (lnA l.val 0x40)) ∧
        t.resp = { data := 0, status := .ok } ∧ (∀ a, a ≠ lnA l.val 0x40 → a ≠ lnA l.val 0x10 → t.reg a = s.reg a) ∧
        (∀ j, j ≠ l.val → t.lane j = s.lane j) ∧
        ((s.lane l.val).framer = .hunt → (t.lane l.val).framer = .hunt)) ∧
    (∀ (d : Fin 15) (v : Word), reaches s m (lnA l.val (0x80 + 4 * d.val)) →
      ∃ t, exec (.lnIntgWrite m l d v) s = .next t ∧
        t.reg (lnA l.val (0x80 + 4 * d.val)) = v &&& w32 (writeMask (lnA l.val (0x80 + 4 * d.val))) ∧
        t.intgWord l.val d.val = s.intgWord l.val d.val ∧ t.resp = { data := 0, status := .ok } ∧
        (∀ a, a ≠ lnA l.val (0x80 + 4 * d.val) → t.reg a = s.reg a) ∧ ∀ j, j ≠ l.val → t.lane j = s.lane j) ∧
    (readable s m (lnA l.val 0x74) →
      exec (.lnPatErrCntRead m l) s = .next ((s.setReg (lnA l.val 0x74) 0).answer ((s.reg (lnA l.val 0x74)).setWidth 64))) ∧
    (∀ (p : Fin 8) (o : List (Mid × BitVec 26 × Bool)), s.reach p.val = true →
      ∃ t, exec (.d2dLinkLost p o) s = .next t ∧
        t.port p.val = { s.port p.val with linkUp := false, downDecl := false, lostAt := s.bolt, lostIn := true } ∧
        (∀ j, j ≠ p.val → t.port j = s.port j) ∧ t.lanes = s.lanes) ∧
    (∀ (p : Fin 8), s.awake p.val = true → (s.port p.val).linkUp = false →
      exec (.linkDownDeclared p) s = .next (s.modPort p.val (fun q => { q with downDecl := true })) ∧
      ((s.port p.val).waking = false → ∃ t, exec (.d2dLinkRegained p) s = .next t ∧
        t.port p.val = { s.port p.val with linkUp := true, downDecl := false } ∧ (∀ j, j ≠ p.val → t.port j = s.port j) ∧
        t.lanes = s.lanes ∧ (∀ k, portOf k ≠ p.val → t.rx k = s.rx k) ∧
        ∀ k, portOf k = p.val → (t.rx k).held = none ∧ (t.rx k).cnt = 0 ∧ (t.rx k).wait = none))

/-- O11. For every state whose Treadle queue holds command c at its head, not DRY, with no commit armed or syncing, no batch of another window
open, no busy group and room for its moves: CONNECT, DISCONNECT, CONNECT_P, RECONNECT, LOCK, FORCE_AIS, RELEASE, DEFRAG and RETAG, each
where its checks on the standby page succeed with result page h, n moves and the ONCE grants listed, leave h as the standby page, the
active page as it was, the head out of the queue, and the batch open (or closed by CMT or its 2,048th command) with one more command, n
more moves and those grants. -/
def Obligations.MapCommandsJoinTheBatch : Prop :=
  ∀ (s : State) (c : QCmd) (rest : List QCmd) (h : HMaps) (x n : Nat) (once : List Nat),
    s.trd.q = c :: rest → c.dry = false → s.trd.committing = false → (s.trd.isOpen = true → s.trd.owner = c.win) →
    s.waitsFor s.workPages c = none → (s.trd.isOpen = true → s.trd.moves + n ≤ 4096) →
    let joined := fun (o : Host.Outcome State Fault Refusal) => ∃ t, o = .next t ∧ t.loom = { s.loom with stb := h } ∧ t.trd.q = rest ∧
      (t.trd.st = .build ∨ t.trd.st = .armed) ∧ t.trd.batch.length = s.trd.batch.length + 1 ∧ t.trd.count = s.trd.count + 1 ∧
      t.trd.moves = s.trd.moves + n ∧ t.trd.once = s.trd.once ++ once ∧ t.fine = s.fine ∧ t.prot = s.prot
    (c.op = 0x01 → s.doConnect s.workPages c = .ok h x n once → joined (exec .connect s)) ∧
    (c.op = 0x02 → s.doDisconnect s.workPages c = .ok h x n once → joined (exec .disconnect s)) ∧
    (c.op = 0x03 → s.doConnectP s.workPages c = .ok h x n once → joined (exec .connectP s)) ∧
    (c.op = 0x04 → s.doReconnect s.workPages c = .ok h x n once → joined (exec .reconnect s)) ∧
    (c.op = 0x05 → s.doMode s.workPages c 2 = .ok h x n once → joined (exec .lock s)) ∧
    (c.op = 0x06 → s.doMode s.workPages c 3 = .ok h x n once → joined (exec .forceAis s)) ∧
    (c.op = 0x07 → s.doMode s.workPages c 1 = .ok h x n once → joined (exec .release s)) ∧
    (c.op = 0x0A → s.doDefrag s.workPages c = .ok h x n once → joined (exec .defrag s)) ∧
    (c.op = 0x0B → s.doRetag s.workPages c = .ok h x n once → joined (exec .retag s))

/-- O12. For every state, page and command: a CONNECT that succeeds finds the destination unconnected and leaves it in MODE 1 with the
destination's tenant and no protect leg; LOCK, FORCE_AIS and RELEASE of a connected destination change its MODE alone; a connected
destination fails CONNECT with ALREADY_CONNECTED, an unconnected one DISCONNECT and LOCK with NOT_CONNECTED, an invalid LSR with BAD_ADDR,
and a port asleep or with its link down with PORT_DOWN. -/
def Obligations.MapCommandResults : Prop :=
  ∀ (s : State) (h : HMaps) (c : QCmd),
    (∀ h' x n once, s.doConnect h c = .ok h' x n once →
      egMode (h.egE c.dst) = 0 ∧ ∃ slot xg xs, h'.egE c.dst = mkEg slot 1 (s.lsrTen c.dst) 0 false xg xs) ∧
    (∀ m, s.epFail c.dst true = none → egMode (h.egE c.dst) ≠ 0 →
      s.doMode h c m = .ok (h.setEg c.dst (setFld (h.egE c.dst) 14 2 m)) (egSlot (h.egE c.dst)) 0 [] ∧
      s.doDisconnect h c = .ok (h.disconnect c.dst) (egSlot (h.egE c.dst)) 0 []) ∧
    (s.epFail c.src false = none → s.epFail c.dst true = none → egMode (h.egE c.dst) ≠ 0 → s.doConnect h c = .fail 0x12 c.dst) ∧
    (s.epFail c.dst true = none → egMode (h.egE c.dst) = 0 → s.doDisconnect h c = .fail 0x13 c.dst ∧ s.doMode h c 2 = .fail 0x13 c.dst) ∧
    (lsrNo c.dst = none → s.doDisconnect h c = .fail 0x11 c.dst) ∧
    (∀ k, lsrNo c.dst = some k → lsrPort c.dst < 8 → s.reach (lsrPort c.dst) = false → s.doDisconnect h c = .fail 0x1B c.dst)

/-- O13. For every state: word 7 of a window written with room enqueues the seven staged words and it (the first in the queue takes TRD_CFG as
it stands), and with 1,024 commands waiting is dropped, counted and raised; ABORT_OPEN, ABORT and a batch without a command for BATCH_TMO
bolts return the standby page to the active one and end the batch, and a head that waits for a group keeps its wait; FLUSH_Q empties the
queue and leaves the batch; COMMIT of an open batch arms it COMMIT_LEAD bolts ahead, and without one completes at once; QUERY completes at
once with the active entry; FENCE and FENCE_DONE keep the fences whose earlier batches have not completed and post the others; a bad
opcode and PWAIT bolts on a busy group fail the head; the committed batch's completions are posted. None of them changes the active page. -/
def Obligations.TreadleQueueCommands : Prop :=
  ∀ (s : State) (m : Mid) (w : Fin 4) (v : Word),
    (reaches s m (trdA (0x11C + 0x20 * w.val)) → s.trd.q.length < 1024 → ∃ t, exec (.trdEnqueue m w v) s = .next t ∧
      t.trd = { s.trd with cfg := t.trd.cfg, q := s.trd.q ++ [QCmd.mk w.val
        ((span 0 7).map (fun i => s.reg (trdA (0x100 + 0x20 * w.val + 4 * i))) ++ [v])] } ∧
      t.trd.cfg = (if s.trd.q = [] then some (s.reg (trdA 0x40)) else s.trd.cfg) ∧
      ∀ a, a ≠ trdA (0x11C + 0x20 * w.val) → t.reg a = s.reg a) ∧
    (reaches s m (trdA (0x11C + 0x20 * w.val)) → 1024 ≤ s.trd.q.length → ∃ t, exec (.trdEnqueue m w v) s = .next t ∧
      t.trd = s.trd ∧ t.reg (trdA 0x54) = s.reg (trdA 0x54) + 1 ∧ t.reg (trdA 0x10) = s.reg (trdA 0x10) ||| 8) ∧
    (reaches s m (trdA 0x58) → s.trd.isOpen = true → ∃ t, exec (.trdAbortOpen m) s = .next t ∧
      t.loom = { s.loom with stb := s.loom.act } ∧ (s.trd.st = .build → t.trd.st = .idle) ∧ t.trd.isOpen = false ∧
      (s.trd.st = .waitProt → t.trd.st = .waitProt ∧ t.trd.waitAt = s.trd.waitAt) ∧ t.trd.batch = [] ∧ t.trd.q = s.trd.q) ∧
    (reaches s m (trdA 0x58) → ∃ t, exec (.trdFlushQ m) s = .next t ∧ t.trd.q = [] ∧ t.trd.batch = s.trd.batch ∧ t.loom = s.loom) ∧
    (∃ t, exec .fenceDone s = .next t ∧ t.loom = s.loom ∧ t.trd.q = s.trd.q ∧
      t.trd.fences = s.trd.fences.filter (fun f => !decide (f.1 ≤ s.trd.batchNo))) ∧
    (s.trd.post ≠ [] → ∃ t, exec .trdCompletionsPost s = .next t ∧ t.loom = s.loom ∧ t.trd.q = s.trd.q ∧ t.trd.post = [] ∧
      t.trd.batchNo = s.trd.batchNo + 1) ∧
    (s.trd.isOpen = true → s.batchTmo false ≤ since s.bolt s.trd.lastAdd → ∃ t, exec .trdBatchTimeout s = .next t ∧
      t.loom = { s.loom with stb := s.loom.act } ∧ (s.trd.st = .build → t.trd.st = .idle) ∧ t.trd.isOpen = false ∧
      (s.trd.st = .waitProt → t.trd.st = .waitProt ∧ t.trd.waitAt = s.trd.waitAt) ∧ t.trd.batch = [] ∧ t.trd.q = s.trd.q) ∧
    (∀ (c : QCmd) (rest : List QCmd), s.trd.q = c :: rest → (s.trd.isOpen = true → s.trd.owner = c.win) →
      (c.op = 0x08 → c.dry = false → s.trd.isOpen = true → ∃ t, exec .commit s = .next t ∧ t.trd.st = .armed ∧ t.trd.q = rest ∧
        t.trd.batch.length = s.trd.batch.length + 1 ∧ t.reg (trdA 0x48) = s.bolt + w32 (s.lead false) ∧ t.loom = s.loom) ∧
      (c.op = 0x08 → c.dry = false → s.trd.isOpen = false →
        exec .commit s = .next ((s.popQ false).postDone false (mkDone c 0 0 0))) ∧
      (c.op = 0x09 → c.dry = false → s.trd.isOpen = true → ∃ t, exec .abort s = .next t ∧ (s.trd.st = .build → t.trd.st = .idle) ∧ t.trd.isOpen = false ∧ t.trd.q = rest ∧
        t.trd.batch = [] ∧ t.loom = { s.loom with stb := s.loom.act }) ∧
      (c.op = 0x0C → c.dry = false → c.cmt = false → s.epFail c.dst true = none →
        exec .query s = .next ((s.postDone false
          (mkDone c 0 (egSlot (s.loom.act.egE c.dst)) ((s.loom.act.egE c.dst).setWidth 32).toNat)).popQ false)) ∧
      (c.op = 0x0D → c.dry = false → ∃ t, exec .fence s = .next t ∧ t.trd.q = rest ∧ t.loom = s.loom ∧
        t.trd.fences = (s.trd.fences ++ [(s.trd.fenceNo, mkDone c 0 0 0)]).filter (fun f => !decide (f.1 ≤ s.trd.batchNo))) ∧
      (¬ (1 ≤ c.op ∧ c.op ≤ 0x0D) → s.trd.committing = false → ∃ t, exec .trdBadOpcode s = .next t ∧ t.trd.q = rest ∧ t.loom = s.loom) ∧
      (∀ b, s.trd.st = .waitProt → s.trd.waitAt = some b → atLeast1 (fld (s.engCfg false) 16 8) ≤ since s.bolt b →
        s.waitsFor s.workPages c ≠ none →
        ∃ t, exec .pwaitExpire s = .next t ∧ t.trd.q = rest ∧ t.trd.waitAt = none ∧ t.loom = s.loom))

/-- O14. For every state: an armed batch sends one arm message to every tile it touches, takes each tile's acknowledgement once, and at its
deadline without them all moves on by a bolt, or on the third failure is aborted with the standby page returned; a commit that is due
makes the standby page the active one and the active page the standby, and one not due does nothing; the copy that follows makes both
equal; HDL_CMD.READ and its completion give the entry HDL_SEL names, or BADIDX; an uncorrectable entry is marked, counted and raised; its
reload, due at a boundary, ends the mark, or marks both pages where the copy is bad too, and one not due does nothing; neither changes the
pages. -/
def Obligations.HeddleCommitAndReads : Prop :=
  ∀ (s : State) (m : Mid),
    (s.trd.st = .armed → s.trd.armSent = false → 1 ≤ since s.bolt s.trd.armBolt → ∃ t, exec .trdArm s = .next t ∧
      t.trd = { s.trd with armSent := true } ∧ t.out = s.out ++ s.trd.need.map Output.armMsg) ∧
    (∀ k : Fin 9, s.trd.st = .armed → s.trd.armSent = true → k.val ∈ s.trd.need → k.val ∉ s.trd.acks →
      exec (.tileArmAck k) s = .next (s.modTrd (fun e => { e with acks := e.acks ++ [k.val] }))) ∧
    (s.trd.st = .armed → s.bolt + 1 = s.reg (trdA 0x48) → s.trd.allAcked = false →
      (s.trd.tries < 2 → exec .armDeadline s = .next ((s.modTrd (fun e => { e with tries := e.tries + 1, armSent := false })).setReg
        (trdA 0x48) (s.reg (trdA 0x48) + 1))) ∧
      (2 ≤ s.trd.tries → ∃ t, exec .armDeadline s = .next t ∧ t.trd.st = .idle ∧ t.trd.batch = [] ∧
        t.loom = { s.loom with stb := s.loom.act })) ∧
    (s.commitDue = true → ∃ t, exec .heddleCommit s = .next t ∧ t.loom.act = s.loom.stb ∧ t.loom.stb = s.loom.act ∧
      t.loom.phys = !s.loom.phys ∧ t.trd.st = .sync ∧ t.trd.batch = [] ∧ t.trd.q = s.trd.q) ∧
    (s.commitDue = false → exec .heddleCommit s = .next s) ∧
    (s.trd.st = .sync → exec .standbyCopyDone s = .next ((s.modLoom (fun l => { l with stb := l.act })).modTrd
      (fun e => { e with st := .idle, copied := true }))) ∧
    (reaches s m 0x801044 → exec (.hdlRead m) s = .next ((s.setRf 0x801048 0 1 1).answer 0)) ∧
    (s.rb 0x801048 0 = true → (∀ a b u, (s.setReg 0x801054 s.bolt).hdlEntry = some (a, b, u) → ∃ t, exec .hdlReadDone s = .next t ∧
        t.reg 0x80104C = a ∧ t.reg 0x801050 = b ∧ t.reg 0x801048 = (if u then 4 else 0) ∧ t.reg 0x801054 = s.bolt) ∧
      ((s.setReg 0x801054 s.bolt).hdlEntry = none → ∃ t, exec .hdlReadDone s = .next t ∧ t.reg 0x80104C = 0 ∧ t.reg 0x801050 = 0 ∧
        t.reg 0x801048 = 2 ∧ t.reg 0x801054 = s.bolt)) ∧
    (∀ (e : HeddleRef) (k : Nat), heddleKey e = some k → ∃ t, exec (.heddleEccUncorrectable e) s = .next t ∧
      t.heddleUnc e.map.val k false = true ∧ t.loom.act = s.loom.act ∧ t.loom.stb = s.loom.stb ∧
      t.reg 0x80105C = s.reg 0x80105C + 1 ∧ t.reg 0x800010 = s.reg 0x800010 ||| 2 ∧
      ∀ a, a ≠ 0x80105C → a ≠ 0x800010 → t.reg a = s.reg a) ∧
    (∀ (e : HeddleRef) (k : Nat), heddleKey e = some k →
      let due := s.loom.ecc.any (fun m => decide (m.map = e.map.val ∧ m.key = k) && m.due)
      (due = true → ∃ t, exec (.heddleEntryReload e false) s = .next t ∧ t.heddleUnc e.map.val k false = false ∧ t.loom.act = s.loom.act) ∧
      (due = true → ∃ t, exec (.heddleEntryReload e true) s = .next t ∧ t.heddleUnc e.map.val k false = true ∧
        t.heddleUnc e.map.val k true = true ∧ t.loom.act = s.loom.act) ∧
      (due = false → ∀ b, exec (.heddleEntryReload e b) s = .next s))

/-- O15. For every state whose Fine loom queue holds command c at its head, not DRY, with no batch of another window open: with no commit
armed, TCONNECT, TDISCONNECT, TRECONNECT, TLOCK, TFORCE_AIS, TRELEASE, TRETAG_IN and TRETAG_OUT, each where its checks succeed with result
maps f, leave f as the standby maps and the active maps as they were, take the head off the queue and add one command to the batch; TQUERY
completes at once with the active entry; TCONNECT gives an unconnected output MODE 1 from its input thread with the output's tenant, and
TDISCONNECT of an unconnected output fails NOT_CONNECTED. -/
def Obligations.ThreadMapCommands : Prop :=
  ∀ (s : State) (c : QCmd) (rest : List QCmd), s.fine.eng.q = c :: rest → c.dry = false →
    (s.fine.eng.isOpen = true → s.fine.eng.owner = c.win) →
    (∀ (f : FMaps) (x n : Nat) (once : List Nat), s.fine.eng.committing = false →
      let joined := fun (o : Host.Outcome State Fault Refusal) => ∃ t, o = .next t ∧ t.fine.stb = f ∧ t.fine.act = s.fine.act ∧
        t.fine.eng.q = rest ∧ (t.fine.eng.st = .build ∨ t.fine.eng.st = .armed) ∧
        t.fine.eng.batch.length = s.fine.eng.batch.length + 1 ∧ t.fine.eng.once = s.fine.eng.once ++ once ∧ t.loom = s.loom ∧ t.trd = s.trd
      (c.op = 0x01 → s.doTconnect s.fineWork c = .ok f x n once → joined (exec .tconnect s)) ∧
      (c.op = 0x02 → s.doTdisconnect s.fineWork c = .ok f x n once → joined (exec .tdisconnect s)) ∧
      (c.op = 0x04 → s.doTreconnect s.fineWork c = .ok f x n once → joined (exec .treconnect s)) ∧
      (c.op = 0x05 → s.doTmode s.fineWork c 2 = .ok f x n once → joined (exec .tlock s)) ∧
      (c.op = 0x06 → s.doTmode s.fineWork c 3 = .ok f x n once → joined (exec .tforceAis s)) ∧
      (c.op = 0x07 → s.doTmode s.fineWork c 1 = .ok f x n once → joined (exec .trelease s)) ∧
      (c.op = 0x0B → s.doTretagIn s.fineWork c = .ok f x n once → joined (exec .tretagIn s)) ∧
      (c.op = 0x0E → s.doTretagOut s.fineWork c = .ok f x n once → joined (exec .tretagOut s))) ∧
    (c.op = 0x0C → c.cmt = false → s.tFail c.dstT true = none →
      exec .tquery s = .next ((s.postDone true
        (mkDone c 0 c.dstT ((s.fine.act.outE c.dstT).setWidth 32).toNat)).popQ true)) ∧
    (∀ f' x n once, s.doTconnect s.fineWork c = .ok f' x n once →
      outMode (s.fineWork.outE c.dstT) = 0 ∧ ∃ xg xs, f'.outE c.dstT = mkOut c.srcT 1 xg (s.threadTen true c.dstT) xs) ∧
    (s.tFail c.dstT true = none → outMode (s.fineWork.outE c.dstT) = 0 → s.doTdisconnect s.fineWork c = .fail 0x13 c.dstT)

/-- O16. For every state, of the Fine loom's own engine: a window write enqueues with room and is dropped and counted with 512 waiting;
ABORT_OPEN, ABORT and the batch limit return the standby maps to the active ones and end the batch; FLUSH_Q empties the queue; COMMIT arms
the open batch COMMIT_LEAD bolts ahead; a commit that is due swaps the maps and keeps the old ones as the previous ones, and one not due
does nothing; posting ends SYNC with both maps equal; FENCE, FENCE_DONE and a bad opcode act on the queue alone. -/
def Obligations.FineQueueCommands : Prop :=
  ∀ (s : State) (m : Mid) (w : Fin 4) (v : Word),
    let e := s.fine.eng
    (reaches s m (fineA (0x11C + 0x20 * w.val)) → e.q.length < 512 → ∃ t, exec (.fineEnqueue m w v) s = .next t ∧
      t.fine.eng.q = e.q ++ [QCmd.mk w.val
        ((span 0 7).map (fun i => s.reg (fineA (0x100 + 0x20 * w.val + 4 * i))) ++ [v])] ∧ t.fine.act = s.fine.act) ∧
    (reaches s m (fineA (0x11C + 0x20 * w.val)) → 512 ≤ e.q.length → ∃ t, exec (.fineEnqueue m w v) s = .next t ∧
      t.fine = s.fine ∧ t.reg (fineA 0x54) = s.reg (fineA 0x54) + 1) ∧
    (reaches s m (fineA 0x58) → e.isOpen = true → ∃ t, exec (.fineAbortOpen m) s = .next t ∧
      t.fine.stb = s.fine.act ∧ t.fine.act = s.fine.act ∧ (e.st = .build → t.fine.eng.st = .idle) ∧ t.fine.eng.isOpen = false ∧ t.fine.eng.batch = [] ∧ t.fine.eng.q = e.q) ∧
    (reaches s m (fineA 0x58) → ∃ t, exec (.fineFlushQ m) s = .next t ∧ t.fine.eng.q = [] ∧ t.fine.eng.batch = e.batch ∧
      t.fine.stb = s.fine.stb) ∧
    (∃ t, exec .fineFenceDone s = .next t ∧ t.fine.eng.q = e.q ∧ t.fine.act = s.fine.act ∧
      t.fine.eng.fences = e.fences.filter (fun f => !decide (f.1 ≤ e.batchNo))) ∧
    (e.st = .sync → ∃ t, exec .fineCompletionsPost s = .next t ∧ t.fine.stb = s.fine.act ∧ t.fine.act = s.fine.act ∧
      t.fine.eng.st = .idle ∧ t.fine.eng.copied = true ∧ t.fine.eng.post = []) ∧
    (e.isOpen = true → s.batchTmo true ≤ since s.bolt e.lastAdd → ∃ t, exec .fineBatchTimeout s = .next t ∧
      t.fine.stb = s.fine.act ∧ (e.st = .build → t.fine.eng.st = .idle) ∧ t.fine.eng.isOpen = false ∧ t.fine.eng.batch = [] ∧ t.fine.eng.q = e.q) ∧
    (s.fineDue = true → ∃ t, exec .fineLoomCommit s = .next t ∧ t.fine.act = s.fine.stb ∧ t.fine.stb = s.fine.act ∧
      t.fine.prev = s.fine.act ∧ t.fine.phys = !s.fine.phys ∧ t.fine.eng.st = .sync ∧ t.fine.eng.batch = []) ∧
    (s.fineDue = false → exec .fineLoomCommit s = .next s) ∧
    (∀ (c : QCmd) (rest : List QCmd), e.q = c :: rest → (e.isOpen = true → e.owner = c.win) → c.dry = false →
      (c.op = 0x08 → e.isOpen = true → ∃ t, exec .fineCommit s = .next t ∧ t.fine.eng.st = .armed ∧ t.fine.eng.q = rest ∧
        t.reg (fineA 0x48) = s.bolt + w32 (s.lead true) ∧ t.fine.act = s.fine.act ∧ t.fine.stb = s.fine.stb) ∧
      (c.op = 0x09 → e.isOpen = true → ∃ t, exec .fineAbort s = .next t ∧ (e.st = .build → t.fine.eng.st = .idle) ∧ t.fine.eng.isOpen = false ∧ t.fine.eng.q = rest ∧
        t.fine.eng.batch = [] ∧ t.fine.stb = s.fine.act ∧ t.fine.act = s.fine.act) ∧
      (c.op = 0x0D → ∃ t, exec .fineFence s = .next t ∧ t.fine.eng.q = rest ∧ t.fine.act = s.fine.act ∧
        t.fine.eng.fences = (e.fences ++ [(e.fenceNo, mkDone c 0 0 0)]).filter (fun f => !decide (f.1 ≤ e.batchNo))) ∧
      (c.op ∉ [1, 2, 4, 5, 6, 7, 8, 9, 0xB, 0xC, 0xD, 0xE] → e.committing = false → ∃ t, exec .fineBadOpcode s = .next t ∧
        t.fine.eng.q = rest ∧ t.fine.stb = s.fine.stb ∧ t.fine.act = s.fine.act))

/-- O17. For every state: a write of FINE_ASG that keeps both enables is taken within its writable bits, and one that clears the input enable
of a position still named by an active entry is ignored and logged; a map read gives the entry FINE_MSEL names, or BADIDX; reading an
output thread's pick in its round first takes what fell at the boundary and is not taken yet (nothing, once taken), then makes it the
output's rewoven pick, OCI where the thread is not connected, and leaves the other outputs and the thread buffer; an uncorrectable entry
is counted, raised and marked; its reload, due at a boundary, ends the mark, or marks both pages where the copy is bad too, and one not
due does nothing. -/
def Obligations.FineLoomData : Prop :=
  ∀ (s : State) (m : Mid),
    (∀ (f : Fin 1280) (v : Word), reaches s m (0x902000 + 4 * f.val) → bit v 0 = true → bit v 1 = true →
      exec (.fineAsgWrite m f v) s = .next ((s.setReg (0x902000 + 4 * f.val) (v &&& 0xFFF3)).answer 0)) ∧
    (∀ (f : Fin 1280) (v : Word), reaches s m (0x902000 + 4 * f.val) → bit (s.asg f.val) 0 = true → bit v 0 = false →
      inUse s.loom.act s.fine.act f.val = true → ∃ t, exec (.fineAsgWrite m f v) s = .next t ∧ t.asg f.val = s.asg f.val ∧
        t.reg (fineA 0x20) = w32 (f.val + 2 ^ 31)) ∧
    (reaches s m (fineA 0xA4) → exec (.fineMapRead m) s = .next ((s.setRf (fineA 0xA8) 0 1 1).answer 0)) ∧
    (s.rb (fineA 0xA8) 0 = true → (∀ a b u, (s.setReg (fineA 0xB4) s.bolt).fineEntry = some (a, b, u) →
        ∃ t, exec .fineMapReadDone s = .next t ∧ t.reg (fineA 0xAC) = a ∧ t.reg (fineA 0xB0) = b ∧
          t.reg (fineA 0xA8) = (if u then 4 else 0) ∧ t.reg (fineA 0xB4) = s.bolt) ∧
      ((s.setReg (fineA 0xB4) s.bolt).fineEntry = none → ∃ t, exec .fineMapReadDone s = .next t ∧ t.reg (fineA 0xAC) = 0 ∧
          t.reg (fineA 0xB0) = 0 ∧ t.reg (fineA 0xA8) = 2)) ∧
    (∀ (o : BitVec 18) (r : Nat) (n : Nat), trefOk o = true → r < 625 → r % 125 = o.toNat % 128 →
      let u := s.closeBoundary
      ∃ t, exec (.threadPickRead o r n) s = .next t ∧ smGet {} t.fine.outp (o.toNat / 128) = (u.threadPick o.toNat r).1 ∧
        (∀ f, f ≠ o.toNat / 128 → smGet {} t.fine.outp f = smGet {} u.fine.outp f) ∧ t.fine.buf = u.fine.buf ∧ t.fine.act = u.fine.act) ∧
    (s.beat.edge = false → s.closeBoundary = s) ∧
    (∀ (o : BitVec 18) (r : Nat), outMode (s.fine.act.outE o.toNat) = 0 → s.fineUnc 0 o.toNat false = false →
      (s.threadPick o.toNat r).1 = forcedPick .oci) ∧
    (∀ e : FineRef, trefOk e.tref = true → ∃ t, exec (.fineEccUncorrectable e) s = .next t ∧
      t.reg (fineA 0xBC) = s.reg (fineA 0xBC) + 1 ∧ t.reg (fineA 0x10) = s.reg (fineA 0x10) ||| 0x40 ∧
      (e.map.val < 2 → t.fineUnc e.map.val e.tref.toNat false = true) ∧ t.fine.act = s.fine.act) ∧
    (∀ e : FineRef, trefOk e.tref = true →
      let due := s.fine.ecc.any (fun m => decide (m.map = e.map.val ∧ m.key = e.tref.toNat) && m.due)
      (due = true → ∃ t, exec (.fineEntryReload e false) s = .next t ∧ t.fineUnc e.map.val e.tref.toNat false = false ∧
        t.fine.act = s.fine.act) ∧
      (due = true → ∃ t, exec (.fineEntryReload e true) s = .next t ∧ t.fineUnc e.map.val e.tref.toNat false = true ∧
        t.fineUnc e.map.val e.tref.toNat true = true ∧ t.fine.act = s.fine.act) ∧
      (due = false → ∀ b, exec (.fineEntryReload e b) s = .next s))

/-- O18. For every state and group: PROT_GCFG of a disabled group is taken within its writable bits and waits for the boundary, and of an
enabled one keeps N, APS_SLOT and, unless it disables the group, TYPE, and changes no other register but ERRLOG; each group command waits
behind those written before it, with its code and member, and changes nothing else; the agent heartbeat is noted at the present bolt;
PROT_EVQ and PROT_APS_CHGQ give and remove their oldest group with VALID, or 0 when empty; a SELV_CFG write that would clear the enable of
a stack with an owned region is ignored and logged, any other is taken. -/
def Obligations.GroupRegisterCommands : Prop :=
  ∀ (s : State) (m : Mid) (g : Fin 8192) (mem : BitVec 4) (v : Word),
    (reaches s m (recA g.val 0) → tyOf (s.reg (recA g.val 0)) = 0 → exec (.protGcfgWrite m g v) s =
      .next (((s.setReg (recA g.val 0) (v &&& w32 (writeMask (recA g.val 0)))).modGrp g.val (fun q =>
        { q with cfgPend := true, off := q.off || decide (tyOf (v &&& w32 (writeMask (recA g.val 0))) = 0) })).answer 0)) ∧
    (reaches s m (recA g.val 0) → tyOf (s.reg (recA g.val 0)) ≠ 0 → ∃ t, exec (.protGcfgWrite m g v) s = .next t ∧
      fld (t.reg (recA g.val 0)) 6 10 = fld (s.reg (recA g.val 0)) 6 10 ∧
      (tyOf (v &&& w32 (writeMask (recA g.val 0))) ≠ 0 → fld (t.reg (recA g.val 0)) 0 3 = fld (s.reg (recA g.val 0)) 0 3) ∧
      t.grp g.val = { s.grp g.val with
        cfgPend := true, off := (s.grp g.val).off || decide (tyOf (v &&& w32 (writeMask (recA g.val 0))) = 0) } ∧ (∀ j, j ≠ g.val → t.grp j = s.grp j) ∧
      ∀ a, a ≠ recA g.val 0 → a ≠ protA 0x20 → t.reg a = s.reg a) ∧
    (reaches s m (recA g.val 0x14) →
      let sent := fun (o : Host.Outcome State Fault Refusal) (code i : Nat) =>
        o = .next ((s.modGrp g.val (fun q => { q with cmds := q.cmds ++ [(code, i)] })).answer 0)
      sent (exec (.protClear m g) s) 1 0 ∧ sent (exec (.protLockout m g) s) 2 0 ∧ sent (exec (.protForce m g mem) s) 3 mem.toNat ∧
      sent (exec (.protManualP m g mem) s) 4 mem.toNat ∧ sent (exec (.protManualW m g) s) 5 0 ∧ sent (exec (.protExercise m g) s) 6 0 ∧
      sent (exec (.protRetime m g) s) 7 0) ∧
    (reaches s m (protA 0x44) → exec (.protAgentHbWrite m v) s =
      .next (((s.setReg (protA 0x44) v).modProt (fun p => { p with hbAt := s.bolt, hbNew := true })).answer 0)) ∧
    (readable s m (protA 0x4C) →
      (∀ x l, s.prot.evq = x :: l → exec (.protEvqRead m) s =
        .next ((s.modProt (fun p => { p with evq := l })).answer ((w32 (x + 2 ^ 31)).setWidth 64))) ∧
      (s.prot.evq = [] → exec (.protEvqRead m) s = .next (s.answer 0))) ∧
    (readable s m (protA 0x50) →
      (∀ x l, s.prot.chgq = x :: l → exec (.protApsChgqRead m) s =
        .next ((s.modProt (fun p => { p with chgq := l })).answer ((w32 (x + 2 ^ 31)).setWidth 64))) ∧
      (s.prot.chgq = [] → exec (.protApsChgqRead m) s = .next (s.answer 0))) ∧
    (reaches s m 0xA80040 →
      ((∃ h ∈ s.errorless, s.rb 0xA80040 (s.region h / 2560) = true ∧ bit v (s.region h / 2560) = false) →
        exec (.selvCfgWrite m v) s = .next ((s.errlog 0xA80000 0x40 m).answer 0)) ∧
      ((∀ h ∈ s.errorless, s.rb 0xA80040 (s.region h / 2560) = true → bit v (s.region h / 2560) = true) →
        exec (.selvCfgWrite m v) s = .next ((s.setReg 0xA80040 (v &&& 3)).answer 0)))

/-- O19. For every state in which a weaver serves APS, and every group with an APS channel, its agent alive and its lane's slots not
discarded: a slot with a bad ACRC or REQ is counted, one with the group's GID puts REQ, REQSIG and BRSIG into PROT_APS_FAR with VALID and
ends the GID cause and leaves PROT_APS_CHGQ, one with another GID sets that cause and raises FOP; the type mismatch, no-response and
timeout causes are set once their counts reach 3, 196 and 8 bolts, and not before; the agent is lost after AGENT_TMO bolts without a
heartbeat, which raises AGENT_LOST and queues every enabled group with an APS channel. No group's requests change. -/
def Obligations.ApsChannel : Prop :=
  ∀ (s : State) (g : Fin 8192), 
    (s.apsSvc = true →
      let s1 := s.modProt (fun p => { p with chgq := p.chgq.filter (· ≠ g.val) })
      ((s.grp g.val).isAps = true → s.prot.lost = false → slotZero (s.apsRx g.val) = false → s.apsBlocked g.val = false →
        (slotOk (s.apsRx g.val) = false → exec (.apsMessageAccept g) s = .next (s1.count 4 g.val 2)) ∧
        (slotOk (s.apsRx g.val) = true → s.gidOk g.val = true → ∃ t, exec (.apsMessageAccept g) s = .next t ∧
          fld (t.reg (apsA g.val 8)) 0 4 = beAt (s.apsRx g.val) 0 1 / 16 ∧ fld (t.reg (apsA g.val 8)) 4 4 = beAt (s.apsRx g.val) 1 1 % 16 ∧
          fld (t.reg (apsA g.val 8)) 8 4 = beAt (s.apsRx g.val) 2 1 % 16 ∧ bit (t.reg (apsA g.val 8)) 12 = true ∧
          bit (t.reg (apsA g.val 8)) 18 = false ∧ (∀ j, t.grp j = s.grp j) ∧ t.prot.chgq = s1.prot.chgq) ∧
        (slotOk (s.apsRx g.val) = true → s.gidOk g.val = false → bit (s.far g.val) 18 = false →
          ∃ t, exec (.apsMessageAccept g) s = .next t ∧
          t.reg (apsA g.val 8) = setBit (s.far g.val) 18 true &&& w32 (writeMask (apsA g.val 8)) ∧ bit (t.reg (protA 0x10)) 4 = true ∧
          ∀ j, t.grp j = s.grp j)) ∧
      ((s.grp g.val).isAps = false ∨ s.prot.lost = true ∨ slotZero (s.apsRx g.val) = true ∨ s.apsBlocked g.val = true →
        exec (.apsMessageAccept g) s = .next s1)) ∧
    (s.apsSvc = false → exec (.apsMessageAccept g) s = .next s ∧ exec (.fopPmSet g) s = .next s ∧ exec (.fopNrSet g) s = .next s ∧
      exec (.fopToSet g) s = .next s) ∧
    (s.apsSvc = true → (s.grp g.val).isAps = true →
      let cause := fun (o : Host.Outcome State Fault Refusal) (i : Nat) =>
        (bit (s.far g.val) i = true → o = .next s) ∧
        (bit (s.far g.val) i = false → ∃ t, o = .next t ∧
          t.reg (apsA g.val 8) = setBit (s.far g.val) i true &&& w32 (writeMask (apsA g.val 8)) ∧
          bit (t.reg (protA 0x10)) 4 = true ∧ (∀ j, t.grp j = s.grp j))
      (3 ≤ (s.grp g.val).pmCnt → cause (exec (.fopPmSet g) s) 16) ∧ (196 ≤ (s.grp g.val).nrCnt → cause (exec (.fopNrSet g) s) 17) ∧
      (8 ≤ (s.grp g.val).toCnt → cause (exec (.fopToSet g) s) 19)) ∧
    ((s.grp g.val).pmCnt < 3 → exec (.fopPmSet g) s = .next s) ∧ ((s.grp g.val).nrCnt < 196 → exec (.fopNrSet g) s = .next s) ∧
    ((s.grp g.val).toCnt < 8 → exec (.fopToSet g) s = .next s) ∧
    (s.prot.lost = false → max 1 (s.rf (protA 0x40) 0 8) ≤ since s.bolt s.prot.hbAt → ∃ t, exec .apsAgentLost s = .next t ∧
      t.prot.lost = true ∧ t.prot.grp = s.prot.grp ∧ bit (t.reg (protA 0x10)) 3 = true ∧
      ∀ h, h ∈ s.prot.evq ∨ (h ∈ s.enabled ∧ (s.grp h).isAps = true) → h ∈ t.prot.evq) ∧
    (s.prot.lost = true → exec .apsAgentLost s = .next s)

/-- O20. For every state and 1+1 group or errorless pair, the evaluation gives: LOCKOUT selects working; without it SF on the protect leg
selects working; FORCE to protect with a good protect leg selects protect; with no LOCKOUT or FORCE SF on the working leg, or SD on it
alone, selects protect; and once a revertive group's SF has cleared, WTR runs from this bolt with protect kept. A hold-off that will have
run out at the next boundary admits the leg's SF or SD to that evaluation; the end of WTR is marked for it; neither acts before, nor
touches another group. -/
def Obligations.GroupRequestsAndTimers : Prop :=
  ∀ (s : State) (g : Fin 8192),
    let q := s.grp g.val
    (q.ty = 1 ∨ q.ty = 4 →
      let r := (s.evalReq g.val).grp g.val
      (q.stand = 2 → r.req = 0xF ∧ r.selsig = 0) ∧
      (q.stand ≠ 2 → (q.leg 0).sfNow = true → r.req = 0xE ∧ r.selsig = 0) ∧
      (q.stand = 3 → q.standMem = 1 → (q.leg 0).sfNow = false → r.req = 0xD ∧ r.selsig = 1) ∧
      (q.stand ≠ 2 → q.stand ≠ 3 → (q.leg 0).sfNow = false → (q.leg 1).sfNow = true → r.req = 0xB ∧ r.selsig = 1) ∧
      (q.stand ≠ 2 → q.stand ≠ 3 → (q.leg 0).sfNow = false → (q.leg 1).sfNow = false → (q.leg 0).sdIn = false → (q.leg 1).sdIn = true →
        r.req = 9 ∧ r.selsig = 1) ∧
      (q.stand = 0 → (q.leg 0).sfNow = false → (q.leg 1).sfNow = false → (q.leg 0).sdIn = false → (q.leg 1).sdIn = false →
        q.revertive = true → q.lreq = 0xB → q.lsig = 1 → q.wtr = none → r.req = 5 ∧ r.selsig = 1 ∧ r.wtr = some (1, s.bolt))) ∧
    (∀ (leg : Fin 16) (b : Word), q.ty ≠ 0 →
      ((q.leg leg.val).sfAt = some b → (fld q.cfg 16 12 ≤ since (s.bolt + 1) b → exec (.holdoffExpire g leg false) s =
          .next (s.modGrp g.val (fun q => { q with legs := smPut {} q.legs leg.val { q.leg leg.val with sfIn := true } }))) ∧
        (since (s.bolt + 1) b < fld q.cfg 16 12 → exec (.holdoffExpire g leg false) s = .next s)) ∧
      ((q.leg leg.val).sdAt = some b → (fld q.cfg 16 12 ≤ since (s.bolt + 1) b → exec (.holdoffExpire g leg true) s =
          .next (s.modGrp g.val (fun q => { q with legs := smPut {} q.legs leg.val { q.leg leg.val with sdIn := true } }))) ∧
        (since (s.bolt + 1) b < fld q.cfg 16 12 → exec (.holdoffExpire g leg true) s = .next s))) ∧
    (∀ i b, q.wtr = some (i, b) →
      (max 1 (fld q.gwtr 0 16 * 256) ≤ since (s.bolt + 1) b →
        exec (.wtrExpire g) s = .next (s.modGrp g.val (fun q => { q with wtrOver := true }))) ∧
      (since (s.bolt + 1) b < max 1 (fld q.gwtr 0 16 * 256) → exec (.wtrExpire g) s = .next s) ∧
      (q.wtrEnds s.bolt = true ↔ q.wtrOver = true ∨ max 1 (fld q.gwtr 0 16 * 256) ≤ since s.bolt b)) ∧
    (q.wtr = none → exec (.wtrExpire g) s = .next s)

/-- O21. For every state and errorless pair: a leg with two headers in step and no SF is acquired, and its other leg and alignment are
unchanged; ACQ_TMO bolts in ACQ with one leg alone give SINGLE on the selected leg's timeline and raise UNPROT; once the store holds the
store leg for its whole delay the pair is ALIGNED with its timeline unchanged; in UNPROT for RETIME_HOLD x 16 bolts with RETIME_AUTO, both
legs acquired, it re-times onto the later leg + 2 with the earlier leg the store leg, or becomes SINGLE where they differ by more than
24,414 rounds (differences of rounds wrap with SEQ and the bolt number); a store stack no longer ready clears its ready bit; an
uncorrectable store pick becomes invalid, is counted and raised, and every other pick of the store stays. -/
def Obligations.ErrorlessPairs : Prop :=
  ∀ (s : State) (g : Fin 8192),
    let q := s.grp g.val
    (q.ty = 4 → q.mp.two = true → q.mp.acq = false → (q.leg 0).sfAt = none → ∃ t, exec (.legAcquired g true) s = .next t ∧
      (t.grp g.val).mp = { q.mp with acq := true } ∧ (t.grp g.val).mw = q.mw ∧ (t.grp g.val).align = q.align ∧
      (∀ j, j ≠ g.val → t.grp j = s.grp j)) ∧
    (q.ty = 4 → q.mw.two = true → q.mw.acq = false → (q.leg 1).sfAt = none → ∃ t, exec (.legAcquired g false) s = .next t ∧
      (t.grp g.val).mw = { q.mw with acq := true } ∧ (t.grp g.val).mp = q.mp ∧ (t.grp g.val).align = q.align ∧
      (∀ j, j ≠ g.val → t.grp j = s.grp j)) ∧
    (∀ b, q.ty = 4 → q.align = .acq → q.acqAt = some b → q.mw.acq ≠ q.mp.acq → max 1 (s.rf (protA 0x40) 16 8) ≤ since s.bolt b →
      ∃ t, exec (.acqTimeout g) s = .next t ∧ (t.grp g.val).align = .single ∧ (t.grp g.val).fill = false ∧
        (t.grp g.val).tout = q.base (decide (q.selsig = 1)) + 2 ∧ bit (t.reg (protA 0x10)) 5 = true ∧ (∀ j, j ≠ g.val → t.grp j = s.grp j)) ∧
    (q.ty = 4 → q.align = .single → q.fill = true → q.delay q.lead ≤ 625 * (since s.bolt q.fillAt : Nat) →
      ∃ t, exec (.storeFillComplete g) s = .next t ∧ (t.grp g.val).align = .aligned ∧ (t.grp g.val).fill = false ∧
        (t.grp g.val).tout = q.tout ∧ (t.grp g.val).lead = q.lead ∧ (∀ j, j ≠ g.val → t.grp j = s.grp j)) ∧
    (q.ty = 4 → q.align = .unprot → bit q.cfg 28 = true → q.retimed = none →
      16 * max 1 (s.rf (protA 0x40) 24 8) ≤ since s.bolt q.unprotAt → q.mw.acq = true → q.mp.acq = true →
      (q.diff ≤ 24414 → -24414 ≤ q.diff → s.stackReady g.val = true →
        ∃ t, exec (.autoRetime g) s = .next t ∧ (t.grp g.val).align = .unprot ∧
          (q.diff < 0 → (t.grp g.val).lead = true ∧ (t.grp g.val).tout = q.mw.base + 2) ∧
          (0 < q.diff → (t.grp g.val).lead = false ∧ (t.grp g.val).tout = q.mp.base + 2) ∧
          (q.diff = 0 → (t.grp g.val).tout = q.mw.base + 2) ∧ (∀ j, j ≠ g.val → t.grp j = s.grp j)) ∧
      (24414 < q.diff → ∃ t, exec (.autoRetime g) s = .next t ∧ (t.grp g.val).align = .single ∧
          (∀ j, j ≠ g.val → t.grp j = s.grp j)) ∧
      (q.diff < -24414 → ∃ t, exec (.autoRetime g) s = .next t ∧ (t.grp g.val).align = .single ∧
          (∀ j, j ≠ g.val → t.grp j = s.grp j))) ∧
    (∀ h : Fin 2, exec (.hbmNotReady h) s = .next (s.modProt (fun p => { p with hbmReady := setBit p.hbmReady h.val false }))) ∧
    (∀ (ob : Word) (rho : Nat), rho < 625 → ∃ t, exec (.selvEccUncorrectable g ob rho) s = .next t ∧
      t.reg 0xA8004C = s.reg 0xA8004C + 1 ∧ t.reg 0xA80010 = s.reg 0xA80010 ||| 1 ∧
      (∀ e ∈ s.prot.store, ¬ (e.g = g.val ∧ e.ob = ob ∧ e.rho = rho ∧ e.protect = q.lead) → e ∈ t.prot.store) ∧
      (∀ e ∈ t.prot.store, e.g = g.val → e.ob = ob → e.rho = rho → e.protect = q.lead → e.pick.valid = false) ∧
      (∀ a, a ≠ 0xA8004C → a ≠ 0xA80010 → t.reg a = s.reg a))

/-- O22. For each of the 70 commands that the model gives as one 4-byte write of one register, its master, address and value being those
rowWrite lists: in every state, whatever the guard and the front end do, it answers exactly what REGISTER_WRITE of that value at that
address by that master answers. -/
def Obligations.RegisterRowsAreRegisterWrites : Prop :=
  ∀ (c : Instr) (m : Mid) (a : Nat) (v : Word) (s : State), rowWrite c = some (m, a, v) →
    exec c s = exec (.registerWrite m (BitVec.ofNat 27 a) 4 ⟨v.setWidth 64, [], [], []⟩) s

/-- O23. For every command that is one access of the register space (rowAccess), in every state where the front end does not let it through
(head weavers' guarded writes apart): with the CDP domain off or in the warm-reset window it reads zero and changes nothing else; a fenced
Foreman's write is dropped with OK, counted, recorded and raised as FENCE; an access with a decode error gets that status, is counted,
recorded with its address, direction, port, master and kind, and raised; one to a target that a perturbation hook holds full waits in
front of it. No other register and no other part of the state changes. -/
def Obligations.AccessesThatDoNotReach : Prop :=
  ∀ (c : Instr) (m : Mid) (a n : Nat) (w : Bool) (s : State), rowAccess c = some (m, a, n, w) →
    (0x1000000 ≤ a ∨ w = false ∨ m.toNat < 60 ∨ 64 ≤ m.toNat) → c.wellFormed = true →
    (s.gate m a n w = .quiet → exec c s = .next (s.answer 0)) ∧
    (s.gate m a n w = .drop → ∃ t, exec c s = .next t ∧ t.resp = { data := 0, status := .ok } ∧
      t.reg (fmnA 0x6C) = s.reg (fmnA 0x6C) + 1 ∧ t.reg (fmnA 0x70) = w32 (a % 2 ^ 26 + (if m = 65 then 2 ^ 26 else 0)) ∧
      t.reg (fmnA 0x10) = s.reg (fmnA 0x10) ||| 0x40 ∧ only [.regs, .pcie, .out, .resp] s t ∧
      ∀ b, b ∉ [fmnA 0x6C, fmnA 0x70, fmnA 0x10] → t.reg b = s.reg b) ∧
    (∀ k, s.gate m a n w = .err k → ∃ t, exec c s = .next t ∧ t.resp = { data := 0, status := .dec } ∧
      t.reg (shedA 0x4C) = s.reg (shedA 0x4C) + 1 ∧ t.reg (shedA 0x44) = w32 (a % 2 ^ 26 + w.toNat * 2 ^ 26) ∧
      t.reg (shedA 0x48) = w32 (m.toNat + (s.idOf m).toNat * 2 ^ 8 + decCode k * 2 ^ 16) ∧
      t.reg (shedA 0x10) = s.reg (shedA 0x10) ||| 1 ∧ only [.regs, .pcie, .out, .resp] s t ∧
      ∀ b, b ∉ [shedA 0x4C, shedA 0x44, shedA 0x48, shedA 0x10] → t.reg b = s.reg b) ∧
    (s.gate m a n w = .wait → ∃ t v clash, exec c s = .next t ∧ only [.tst] s t ∧
      t.tst = { s.tst with shedQ := s.tst.shedQ ++ [{ m := m, a := a, size := n, wr := w, v := v, clash := clash }] })

/-- O24. For every state and access: with the CDP domain off nothing is let through; a write of a Foreman without the lease, other than its
claim and its own state, is dropped, and no other access is; an address that no target holds, a target the master has no path to (the
SMBus target to Blaze and the banks, a weaver to host memory, which the Foreman that holds the lease reaches), a size that is not 1, 2, 4
or 8, a register write under 4 bytes, and a port tile that cannot be reached, are decode errors of their kinds; an aligned 8-byte access
of a weaver to the direct window goes through, or waits where its target is held full or earlier accesses wait there. -/
def Obligations.FrontEndChecks : Prop :=
  ∀ (s : State) (m : Mid) (a n : Nat) (w : Bool),
    (s.pwr.cdpOn = false → s.gate m a n w = .quiet) ∧
    (s.pwr.cdpOn = true →
      (m = 64 → s.fmn.holder ≠ 1 → w = true → a ≠ fmnA 0x50 → a ≠ fmnA 0xA0 → s.gate m a n w = .drop) ∧
      (m = 65 → s.fmn.holder ≠ 2 → w = true → a ≠ fmnA 0x50 → a ≠ fmnA 0xA4 → s.gate m a n w = .drop) ∧
      (m = 64 → s.fmn.holder = 1 → s.gate m a n w ≠ .drop) ∧
      (m.toNat < 64 ∨ 66 ≤ m.toNat → s.gate m a n w ≠ .drop) ∧
      (m.toNat < 64 ∨ 67 < m.toNat → 0x85800 ≤ a → a < 0x400000 → s.gate m a n w = .err .unmapped) ∧
      (m = 67 → s.gate m 0x80000 4 w = .err .nopath ∧ s.gate m 0x1000000 4 w = .err .nopath) ∧
      (m.toNat < 64 → a < 0x4000000 → n ∉ [1, 2, 4, 8] → (targetOf a).isSome = true → s.gate m a n w = .err .size) ∧
      (m.toNat < 64 → a < 0x80000 → n < 4 → a % n = 0 → s.gate m a n true = .err .size) ∧
      (m.toNat < 64 → 0x4000000 ≤ a → s.gate m a n w = .err .nopath) ∧
      (m = 64 → s.fmn.holder = 1 → 0x4000000 ≤ a → a % 8 = 0 → s.shedWaits m .hostmem = false → s.gate m a 8 w = .go) ∧
      (∀ p, p < 8 → m.toNat < 64 → s.reach p = false → s.gate m (0x400000 + 0x80000 * p) 4 w = .err .asleep) ∧
      (∀ o t, m.toNat < 64 → o < 0x800000 → o % 8 = 0 → targetOf (0x1000000 + o) = some t →
        (s.shedWaits m t = false → s.gate m (0x1000000 + o) 8 w = .go) ∧ (s.shedWaits m t = true → s.gate m (0x1000000 + o) 8 w = .wait)))

/-- O25. For every state and master whose access reaches the register: a write of a read-only register, or of an offset that names none,
changes nothing; a write of a plain register stores the bits it may reach; an 8-byte write is the two 4-byte writes in ascending order,
and with the status of the first that fails; a burst, of a master other than the host, that is not 2 to 64 aligned 8-byte beats within one
target is a size error as a whole, and one to a target that a hook holds full waits there as a whole; IRQ_RAW_CLEAR clears the causes
written 1 except those that the hardware sets in that cycle, IRQ_FORCE sets the page's causes written 1, and neither changes another
register; ERRLOG_READ gives the log and clears it. -/
def Obligations.RegisterSpaceCommands : Prop :=
  ∀ (s : State) (m : Mid),
    (∀ (a : BitVec 27) (v : BitVec 64) (b : Blk) (i o : Nat) (r : RegRow), reaches s m a.toNat → a.toNat < 0x1000000 →
      locate a.toNat = some (b, i, o) → regRow b i o = some r →
      (b ≠ .blzUnit → (r.acc = .ro ∨ r.acc = .rc) → exec (.registerWrite m a 4 ⟨v, [], [], []⟩) s = .next (s.answer 0)) ∧
      ((b = .loom ∨ b = .prt ∨ b = .ils ∨ b = .els ∨ b = .grant ∨ b = .blz ∨ b = .tly ∧ o = 0x44 ∨ b = .wvr ∧ 0x100 ≤ o) → 0x40 ≤ o ∨ b = .grant →
        r.acc ≠ .ro → r.acc ≠ .rc →
        exec (.registerWrite m a 4 ⟨v, [], [], []⟩) s = .next ((s.setReg a.toNat (v.setWidth 32 &&& w32 r.wm)).answer 0))) ∧
    (∀ (a : BitVec 27) (v : BitVec 64) (b : Blk) (i o : Nat), reaches s m a.toNat → a.toNat < 0x1000000 →
      locate a.toNat = some (b, i, o) → regRow b i o = none → b ≠ .blzUnit → exec (.registerWrite m a 4 ⟨v, [], [], []⟩) s = .next (s.answer 0)) ∧
    (∀ (a : BitVec 27) (v : BitVec 64), a.toNat < 0x1000000 → s.gate m a.toNat 8 true = .go → ∃ t u,
      exec (.registerWrite m a 4 ⟨v, [], [], []⟩) s = .next t ∧ exec (.registerWrite m (a + 4) 4 ⟨v >>> 32, [], [], []⟩) t = .next u ∧
      exec (.registerWrite m a 8 ⟨v, [], [], []⟩) s = .next (if t.resp.status = .ok then u else { u with resp := { u.resp with status := t.resp.status } })) ∧
    (∀ (a : BitVec 27) (n : Nat) (v : BitVec 64) (l : List (BitVec 64)) (off clash : List Nat), m ≠ 66 → l ≠ [] → burstOk a.toNat (l.length + 1) = false →
      exec (.registerWrite m a n ⟨v, l, off, clash⟩) s = .next ((s.decErr m.toNat (s.idOf m).toNat a.toNat true .size).answer 0 .dec)) ∧
    (∀ (a : BitVec 27) (n : Nat) (v : BusData), m ≠ 66 → v.more ≠ [] → burstOk a.toNat (v.more.length + 1) = true → s.gate m a.toNat 8 true = .wait →
      exec (.registerWrite m a n v) s = .next (s.modTst (fun t => { t with shedQ := t.shedQ ++
        [{ m := m, a := a.toNat, size := 8, wr := true, v := v.v, more := v.more, clash := v.clash, beats := v.more.length + 1 }] }))) ∧
    (∀ (p : BitVec 26) (b : Blk) (i : Nat) (v same : Word), locate p.toNat = some (b, i, 0) → isPage b = true →
      (reaches s m (p.toNat + 0x10) → ∃ t, exec (.irqRawClear m p v same) s = .next t ∧
        t.reg (p.toNat + 0x10) = (s.reg (p.toNat + 0x10) &&& ~~~v) ||| (same &&& w32 (irqMask b)) ∧ t.resp = { data := 0, status := .ok } ∧
        ∀ x, x ≠ p.toNat + 0x10 → t.reg x = s.reg x) ∧
      (reaches s m (p.toNat + 0x18) → ∃ t, exec (.irqForce m p v) s = .next t ∧
        t.reg (p.toNat + 0x10) = s.reg (p.toNat + 0x10) ||| (v &&& w32 (irqMask b)) ∧ t.resp = { data := 0, status := .ok } ∧
        ∀ x, x ≠ p.toNat + 0x10 → t.reg x = s.reg x) ∧
      (readable s m (p.toNat + 0x20) → exec (.errlogRead m p) s =
        .next ((s.setReg (p.toNat + 0x20) 0).answer ((s.reg (p.toNat + 0x20)).setWidth 64))))

/-- O26. For every state, weaver and address below 0x0100_0000: a write of W0 to W59 is the plain register write; a write that R296 excepts
reaches its register; another of W60 to W63, unless it waits in front of a held target, is refused, with no effect but WVR_GUARD_DENY_CNT
and WVR_GUARD_LAST, for reason 5 while headless, else 1 for a barred address or one no enabled entry covers, else 2 out of its bounds,
else 3 for bits outside GFMASK, else 6 where MODE is not 2, else 4 once MAXACT writes were accepted in the window; a write that passes is
counted in the window and in WVR_GUARD_ACT_CNT and is then the register write. -/
def Obligations.HeadWeaverGuard : Prop :=
  ∀ (s : State) (w : Fin 64) (a : BitVec 26) (v : Word), 
    (w.val < 60 → exec (.guardedWrite w a v) s = exec (.registerWrite (BitVec.ofNat 8 w.val) (a.setWidth 27) 4 ⟨v.setWidth 64, [], [], []⟩) s) ∧
    (a.toNat < 0x1000000 → unguarded w.val a.toNat v = true → s.gate (BitVec.ofNat 8 w.val) a.toNat 4 true = .go →
      exec (.guardedWrite w a v) s = .next ((s.regWrite (BitVec.ofNat 8 w.val) a.toNat v).answer 0)) ∧
    (60 ≤ w.val → a.toNat < 0x1000000 → unguarded w.val a.toNat v = false →
      (∀ r, s.guardRefusal w.val a.toNat v = some r → s.gate (BitVec.ofNat 8 w.val) a.toNat 4 true ≠ .wait → exec (.guardedWrite w a v) s =
        .next (((s.incReg (wvrA w.val 0x208)).setReg (wvrA w.val 0x20C) (w32 (a.toNat % 2 ^ 24 + r * 2 ^ 24))).answer 0)) ∧
      (s.headless = true → s.guardRefusal w.val a.toNat v = some 5) ∧
      (s.headless = false → guardBarred a.toNat = true ∨ s.guardEntry w.val a.toNat = none → s.guardRefusal w.val a.toNat v = some 1) ∧
      (∀ i, s.headless = false → guardBarred a.toNat = false → s.guardEntry w.val a.toNat = some i →
        let e := fun o => s.reg (wvrA w.val (0x100 + 0x20 * i + o))
        (v &&& e 8 < e 0xC ∨ e 0x10 < v &&& e 8 → s.guardRefusal w.val a.toNat v = some 2) ∧
        (e 0xC ≤ v &&& e 8 → v &&& e 8 ≤ e 0x10 →
          ((v ^^^ s.curWord a.toNat) &&& ~~~(e 8) ≠ 0 → s.guardRefusal w.val a.toNat v = some 3) ∧
          ((v ^^^ s.curWord a.toNat) &&& ~~~(e 8) = 0 →
            (s.rf (wvrA w.val 0x200) 0 2 ≠ 2 → s.guardRefusal w.val a.toNat v = some 6) ∧
            (s.rf (wvrA w.val 0x200) 0 2 = 2 → s.rf (wvrA w.val 0x200) 8 8 ≤ s.guardActs w.val → s.guardRefusal w.val a.toNat v = some 4) ∧
            (s.rf (wvrA w.val 0x200) 0 2 = 2 → s.guardActs w.val < s.rf (wvrA w.val 0x200) 8 8 → s.guardRefusal w.val a.toNat v = none)))) ∧
      (s.guardRefusal w.val a.toNat v = none → s.gate (BitVec.ofNat 8 w.val) a.toNat 4 true = .go → ∃ t, exec (.guardedWrite w a v) s = .next t ∧
        t = ((((s.modWeaver w.val (fun x => { x with win := w32 (s.bolt.toNat / 256), acts := s.guardActs w.val + 1 })).incReg
          (wvrA w.val 0x204)).regWrite (BitVec.ofNat 8 w.val) a.toNat v).answer 0)))

/-- O27. Without input power the TAP does nothing. For every state with it: each JTAG instruction selects itself, holds the boundary lands
under EXTEST, CLAMP and HIGHZ and lets them go otherwise, and changes no register; IDCODE shifts out 0x1914076B; SAMPLE_PRELOAD loads the
boundary cells; DBG_ACC shifts out the status and data of the last access, BUSY while one runs, and issues a read or write only when none
runs; the access then completes as master 68: one that is refused reads zero, and a write has the effect of the register write and no
other; one to a target that a hook holds full stays BUSY. -/
def Obligations.JtagCommands : Prop :=
  (∀ s : State, s.pwr.inRange = false → ∀ o ∈ [exec .jtagTapReset s, exec .jtagExtest s, exec .jtagClamp s, exec .jtagHighz s, exec .jtagIdcode s],
    o = .next s ∧ ∀ (c : Byte) (b : BitVec 412) (v : BitVec 64), exec (.jtagBypass c) s = .next s ∧ exec (.jtagSamplePreload b) s = .next s ∧
      exec (.jtagDbgAcc v) s = .next s) ∧
  ∀ s : State, s.pwr.inRange = true →
    let sel := fun (o : Host.Outcome State Fault Refusal) (ir : JtagIr) (freeze : Bool) => ∃ t, o = .next t ∧
      t.jtag = { s.jtag with ir := ir, frozen := freeze } ∧ t.regs = s.regs ∧ t.resp = s.resp
    sel (exec .jtagTapReset s) .idcode false ∧ sel (exec .jtagExtest s) .extest true ∧ sel (exec .jtagClamp s) .clamp true ∧
    sel (exec .jtagHighz s) .highz true ∧
    (∀ code : Byte, code ∉ [0x00, 0x01, 0x02, 0x04, 0x05, 0x10] → sel (exec (.jtagBypass code) s) .bypass false) ∧
    (s.jtag.frozen = true → exec .jtagTapReset s =
      .next ((s.modJtag (fun j => { j with ir := .idcode, frozen := false })).emit (.intN s.pcie.intN))) ∧
    (s.jtag.frozen = false → exec .jtagIdcode s =
      .next { s with jtag := { s.jtag with ir := .idcode }, out := s.out ++ [.jtag 0x1914076B] }) ∧
    (∀ cells : BitVec 412, ∃ t, exec (.jtagSamplePreload cells) s = .next t ∧
      t.jtag = { s.jtag with ir := .sample, frozen := false, boundary := cells } ∧ t.regs = s.regs) ∧
    (∀ v : BitVec 64, s.jtag.frozen = false →
      (s.jtag.busy = none → (fld v 62 2 = 1 ∨ fld v 62 2 = 2) → exec (.jtagDbgAcc v) s =
        .next { s with jtag := { s.jtag with ir := .dbgAcc, busy := some v },
                       out := s.out ++ [.jtag (BitVec.ofNat 64 (s.jtag.status * 2 ^ 60 + s.jtag.data.toNat))] }) ∧
      (s.jtag.busy = none → (fld v 62 2 = 0 ∨ fld v 62 2 = 3) → exec (.jtagDbgAcc v) s =
        .next { s with jtag := { s.jtag with ir := .dbgAcc },
                       out := s.out ++ [.jtag (BitVec.ofNat 64 (s.jtag.status * 2 ^ 60 + s.jtag.data.toNat))] }) ∧
      (∀ w, s.jtag.busy = some w → exec (.jtagDbgAcc v) s =
        .next { s with jtag := { s.jtag with ir := .dbgAcc },
                       out := s.out ++ [.jtag (BitVec.ofNat 64 (3 * 2 ^ 60 + s.jtag.data.toNat))] })) ∧
    (∀ v : BitVec 64, s.jtag.busy = some v →
      (s.dbgHeld v = true → exec .dbgAccDone s = .next s) ∧
      (fld v 62 2 = 1 → s.gate 68 (fld v 34 24 * 4) 4 false ≠ .go → s.gate 68 (fld v 34 24 * 4) 4 false ≠ .wait → ∃ t, exec .dbgAccDone s = .next t ∧ t.jtag.busy = none ∧
        t.jtag.data = 0 ∧ t.jtag.ir = s.jtag.ir ∧ t.jtag.boundary = s.jtag.boundary) ∧
      (fld v 62 2 = 2 → fld v 34 24 * 4 < 0x1000000 → s.gate 68 (fld v 34 24 * 4) 4 true = .go → ∃ t, exec .dbgAccDone s = .next t ∧
        t.jtag.busy = none ∧ t.jtag.status = 0 ∧ t.jtag.data = v.setWidth 32 ∧ t.jtag.boundary = s.jtag.boundary ∧
        exec (.registerWrite 68 (BitVec.ofNat 27 (fld v 34 24 * 4)) 4 ⟨(v.setWidth 32 |>.setWidth 64), [], [], []⟩) s =
          .next { t with jtag := s.jtag })) ∧
    (s.jtag.busy = none → exec .dbgAccDone s = .next s)

/-- O28. For every state and master whose write reaches the register: TST_CFG.TW_WREN goes to 1 only from the host, the SMBus target or JTAG,
and another's attempt is logged and stores the other bits; TST_PERT_EN stores EN; a lane, Shed or Beat hook stores its own bits, and a
Shed hook takes effect at once where EN is in force; no other register changes. -/
def Obligations.MonitorAndHookRegisters : Prop :=
  ∀ (s : State) (m : Mid) (v : Word),
    (reaches s m 0x60040 →
      (bit v 0 = true → s.rb 0x60040 0 = false → m.toNat < 66 ∨ 68 < m.toNat → exec (.tstCfgWrite m v) s =
        .next (((s.setReg 0x60020 (w32 (0x80000000 + m.toNat * 0x1000 + 0x40))).setReg 0x60040 (v &&& 0x70)).answer 0)) ∧
      (bit v 0 = false ∨ s.rb 0x60040 0 = true ∨ (66 ≤ m.toNat ∧ m.toNat ≤ 68) →
        exec (.tstCfgWrite m v) s = .next ((s.setReg 0x60040 (v &&& 0x71)).answer 0))) ∧
    (reaches s m 0x60044 → exec (.tstPertEnWrite m v) s = .next ((s.setReg 0x60044 (v &&& 1)).answer 0)) ∧
    (∀ (l : Fin 512) (i : Fin 4), reaches s m (lnA l.val (0x30 + 4 * i.val)) → exec (.lnPerturbWrite m l i v) s =
      .next ((s.setReg (lnA l.val (0x30 + 4 * i.val)) (v &&& w32 (perturbMask .ln i.val))).answer 0)) ∧
    (∀ i : Fin 4, reaches s m (shedA (0x30 + 4 * i.val)) → ∃ t, exec (.shedPerturbWrite m i v) s = .next t ∧
      t.reg (shedA (0x30 + 4 * i.val)) = v &&& w32 (perturbMask .shed i.val) ∧
      (s.tst.pert = false → t.tst = s.tst) ∧
      (s.tst.pert = true → i.val < s.tst.shedHook.length → t.tst.shedHook[i.val]? = some (v &&& w32 (perturbMask .shed i.val))) ∧
      ∀ a, a ≠ shedA (0x30 + 4 * i.val) → t.reg a = s.reg a) ∧
    (∀ i : Fin 4, reaches s m (beatA (0x30 + 4 * i.val)) → exec (.beatPerturbWrite m i v) s =
      .next ((s.setReg (beatA (0x30 + 4 * i.val)) (v &&& w32 (perturbMask .beat i.val))).answer 0))

/-- O29. For every state: START empties the buffer and records if EN is 1; STOP ends recording and raises it; TRIG in mode 2 starts the count
of POST records once; an emit while recording adds one record with the bolt, the clock count, the writer and the value, over the oldest
one in a full wrapping buffer, is LOST and counted in a full buffer of the stop mode, and after the trigger uses up the POST count; not
recording, it adds nothing; at the end of the count the unit stops and raises both causes; TST_TR_RD3 gives the last word of the record at
RIDX, zero beyond the count, and advances RIDX. -/
def Obligations.TraceUnit : Prop :=
  ∀ (s : State) (m : Mid) (v : Word) (clk : Nat),
    let mode := s.rf 0x60060 1 2
    let r := TraceRec.mk s.bolt (w32 (clk % 400000 + m.toNat % 128 * 2 ^ 20)) v 0
    (reaches s m 0x6006C →
      (s.rb 0x60060 0 = true → s.tst.lost = 0 → exec (.tstTrStart m) s = .next ((s.modTst (fun t =>
        { t with trace := [], running := true, triggered := false, stopped := false, postLeft := none })).answer 0)) ∧
      (s.rb 0x60060 0 = false → exec (.tstTrStart m) s = .next ((s.modTst (fun t =>
        { t with trace := [], running := false, triggered := false, stopped := false, postLeft := none })).answer 0)) ∧
      (s.tst.running = true → ∃ t, exec (.tstTrStop m) s = .next t ∧ t.tst = { s.tst with running := false, stopped := true } ∧
        t.reg 0x60010 = s.reg 0x60010 ||| 2 ∧ ∀ a, a ≠ 0x60010 → t.reg a = s.reg a) ∧
      (s.tst.running = false → exec (.tstTrStop m) s = .next (s.answer 0)) ∧
      (mode = 2 → s.tst.running = true → s.tst.triggered = false → exec (.tstTrTrig m) s = .next ((s.modTst (fun t =>
        { t with triggered := true, postLeft := some (s.rf 0x60060 4 12) })).answer 0)) ∧
      (mode ≠ 2 ∨ s.tst.running = false ∨ s.tst.triggered = true → exec (.tstTrTrig m) s = .next (s.answer 0))) ∧
    (reaches s m 0x60068 → s.tst.running = true → s.rb 0x60060 0 = true → s.tst.lost = 0 →
      s.rb 0x60064 (if m.toNat < 64 then 0 else if m = 64 ∨ m = 65 then 1 else 2) = true →
      ((mode = 0 ∨ mode = 3) → s.tst.trace.length < 4096 → exec (.tstTrEmit m v clk) s =
        .next ((s.modTst (fun t => { t with trace := t.trace ++ [r] })).answer 0)) ∧
      ((mode = 0 ∨ mode = 3) → 4096 ≤ s.tst.trace.length → exec (.tstTrEmit m v clk) s =
        .next ((s.modTst (fun t => { t with trace := t.trace.drop 1 ++ [r] })).answer 0)) ∧
      (mode = 1 → s.tst.trace.length + 1 < 4096 → exec (.tstTrEmit m v clk) s =
        .next ((s.modTst (fun t => { t with trace := t.trace ++ [r] })).answer 0)) ∧
      (mode = 1 → 4096 ≤ s.tst.trace.length → ∃ t, exec (.tstTrEmit m v clk) s = .next t ∧ t.tst = { s.tst with lost := 1 } ∧
        t.reg 0x60088 = s.reg 0x60088 + 1) ∧
      (∀ n, mode = 2 → s.tst.postLeft = some (n + 1) → s.tst.trace.length < 4096 → exec (.tstTrEmit m v clk) s =
        .next ((s.modTst (fun t => { t with trace := t.trace ++ [r], postLeft := some n })).answer 0)) ∧
      (mode = 2 → s.tst.postLeft = some 0 → exec (.tstTrEmit m v clk) s = .next (s.answer 0))) ∧
    (s.tst.running = false → reaches s m 0x60068 → exec (.tstTrEmit m v clk) s = .next (s.answer 0)) ∧
    (s.tst.running = true → s.tst.postLeft = some 0 → ∃ t, exec .tracePostComplete s = .next t ∧
      t.tst = { s.tst with running := false, stopped := true, postLeft := none } ∧ t.reg 0x60010 = s.reg 0x60010 ||| 3 ∧
      ∀ a, a ≠ 0x60010 → t.reg a = s.reg a) ∧
    (s.tst.postLeft ≠ some 0 → exec .tracePostComplete s = .next s) ∧
    (readable s m 0x60084 → ∃ t, exec (.tstTrRd3Read m) s = .next t ∧
      (∀ x, s.tst.trace[s.rf 0x60074 0 12]? = some x → t.resp = { data := x.d1.setWidth 64, status := .ok }) ∧
      (s.tst.trace[s.rf 0x60074 0 12]? = none → t.resp = { data := 0, status := .ok }) ∧
      t.rf 0x60074 0 12 = (s.rf 0x60074 0 12 + 1) % 4096 ∧ t.tst = s.tst ∧ ∀ a, a ≠ 0x60074 → t.reg a = s.reg a)

/-- O30. For every state, with the CDP domain on (off, the commands of the host do nothing): link up takes the speed and width and sends the
pending messages that may go out; link down and hot reset return configuration, vector masks and DMA registers to reset, set the pending
bit of every vector whose level is 1, and keep every other register; D3hot stops requests and their return sends what is pending;
unmasking a vector unmasks it alone and sends its pending message; GVEC_EOI sends or pends a vector whose level is 1; DMA GO starts an
idle channel with a good length, and ends one without with ERR; ABORT ends a busy channel, on which GO is ignored; a CDP fault sets
GLB_STAT, its cause and INT_N. -/
def Obligations.HostLinkCommands : Prop :=
  ∀ s : State,
    let off := { s.pcie with bme := false, d3 := false, msixEn := false, fmask := false }
    let cfg := { off with vmask := BitVec.allOnes 64, pba := s.pcie.level, dmaDir := 0 }
    (s.pwr.cdpOn = false → (∀ g w, exec (.pcieLinkUp g w) s = .next s) ∧ (∀ v, exec (.msixVectorUnmask v) s = .next s) ∧
      ∀ c dir, exec (.dmaGo c dir) s = .next s ∧ exec (.dmaAbort c) s = .next s) ∧
    (∀ g w : Nat, s.pwr.cdpOn = true → 1 ≤ g → g ≤ 5 → w = 1 ∨ w = 2 ∨ w = 4 → ∃ t, exec (.pcieLinkUp g w) s = .next t ∧ t.pcie.linkUp = true ∧ t.pcie.gen = g ∧
      t.pcie.width = w ∧ t.pcie.level = s.pcie.level ∧ t.regs = s.regs ∧
      ∀ i, i < 64 → bit t.pcie.pba i = (bit s.pcie.pba i && !(s.pcie.bme && !s.pcie.d3 && s.pcie.msixEn && !s.pcie.fmask && !bit s.pcie.vmask i))) ∧
    (∃ t, exec .pcieLinkDown s = .next t ∧ t.pcie = { cfg with linkUp := false, gen := 0, width := 0 } ∧
      (∀ a, 0x4040100 ≤ a → a < 0x4040160 → t.reg a = resetOf a) ∧ (∀ a, a < 0x4040100 ∨ 0x4040160 ≤ a → t.reg a = s.reg a) ∧
      (∀ x, x < 0x50000 → Memory.read t.mbx.mem x = Memory.read s.mbx.mem x) ∧ (∀ x, 0x50000 ≤ x → Memory.read t.mbx.mem x = 0)) ∧
    (∃ t, exec .pcieHotReset s = .next t ∧ t.pcie = cfg ∧
      (∀ a, a < 0x4040100 ∨ 0x4040160 ≤ a → t.reg a = s.reg a)) ∧
    (s.pcie.linkUp = true → exec .pcieD3hotEntry s = .next (s.modPcie (fun c => { c with d3 := true }))) ∧
    (∀ bme en fm : Bool, s.pcie.linkUp = true → ∃ t, exec (.pcieRequestsResume bme en fm) s = .next t ∧
      t.pcie = { s.pcie with d3 := false, bme := bme, msixEn := en, fmask := fm, pba := t.pcie.pba } ∧ t.regs = s.regs ∧
      (bme = false → t.pcie.pba = s.pcie.pba ∧ t.out = s.out)) ∧
    (∀ v : Fin 64, s.pwr.cdpOn = true → ∃ t, exec (.msixVectorUnmask v) s = .next t ∧ bit t.pcie.vmask v.val = false ∧ t.regs = s.regs ∧
      (∀ i, i < 64 → i ≠ v.val → bit t.pcie.vmask i = bit s.pcie.vmask i) ∧
      (∀ x, x < 0x5000C + 16 * v.val ∨ 0x50010 + 16 * v.val ≤ x → Memory.read t.mbx.mem x = Memory.read s.mbx.mem x) ∧
      (s.canIssue = true → s.pcie.msixEn = true → s.pcie.fmask = false → bit s.pcie.pba v.val = true → .msix v.val ∈ t.out ∧
        bit t.pcie.pba v.val = false)) ∧
    (∀ (m : Mid) (v : Word), reaches s m 0x2040 →
      (bit s.pcie.level (fld v 0 6) = false → exec (.gvecEoi m v) s = .next (s.answer 0)) ∧
      (bit s.pcie.level (fld v 0 6) = true → s.canMsix (fld v 0 6) = true →
        exec (.gvecEoi m v) s = .next { s with out := s.out ++ [.msix (fld v 0 6)], resp := { data := 0, status := .ok } }) ∧
      (bit s.pcie.level (fld v 0 6) = true → s.canMsix (fld v 0 6) = false → ∃ t, exec (.gvecEoi m v) s = .next t ∧
        bit t.pcie.pba (fld v 0 6) = true ∧ t.out = s.out)) ∧
    (∀ (c : Fin 3) (dir : Bool), s.pwr.cdpOn = true → s.rb (dmaA c.val 0x14) 0 = false →
      (dmaLenOk (s.dmaLen c.val) = true → exec (.dmaGo c dir) s = .next (((s.setReg (dmaA c.val 0x14) 1).setReg (dmaA c.val 0x18) 0).modPcie
        (fun p => { p with dmaDir := setBit p.dmaDir c.val dir }))) ∧
      (dmaLenOk (s.dmaLen c.val) = false → ∃ t, exec (.dmaGo c dir) s = .next t ∧ t.reg (dmaA c.val 0x14) = 4 ∧ t.reg (dmaA c.val 0x18) = 0 ∧
        t.reg 0x4040010 = s.reg 0x4040010 ||| w32 (2 ^ (c.val + 3)))) ∧
    (∀ c : Fin 3, s.pwr.cdpOn = true → s.rb (dmaA c.val 0x14) 0 = true → exec (.dmaAbort c) s = .next (s.setReg (dmaA c.val 0x14) 0) ∧
      (∀ dir, exec (.dmaGo c dir) s = .next s)) ∧
    (∃ t, exec .cdpUncorrectableFault s = .next t ∧ t.rb 8 0 = true ∧ t.reg 0x10 = s.reg 0x10 ||| 4 ∧ (s.pwr.cdpOn = true → t.pcie.intN = true) ∧
      ∀ a, a ≠ 8 → a ≠ 0x10 → t.reg a = s.reg a)

/-- O31. For every state: a busy DMA channel without host requests ends with ERR; an 8-byte transfer to a bank word that the host may write
puts the 8 bytes there alone where the owner does not write that word in the same cycle, sets the count and DONE and raises it; one that
is not busy, or whose target a hook holds full, does nothing. While the boundary register holds its lands, or without input power, the
SMBus target answers nothing; otherwise the pointer is set to a multiple of 4, a read answers the register as master 67 and a write is the
register write with the SMB_WREN strap and is discarded and counted without, each advancing the pointer by 4; identity, power and the
twelve temperatures are answered as they stand. -/
def Obligations.DmaTransferAndSmbus : Prop :=
  ∀ s : State,
    (∀ (c : Fin 3) (data : DmaData), s.rb (dmaA c.val 0x14) 0 = true → s.dmaHeld c.val = false →
      (bit s.pcie.dmaDir c.val = false → s.canIssue = false → ∃ t, exec (.dmaDone c data) s = .next t ∧ t.reg (dmaA c.val 0x14) = 4 ∧
        t.reg (dmaA c.val 0x18) = 0 ∧ t.reg 0x4040010 = s.reg 0x4040010 ||| w32 (2 ^ (c.val + 3)) ∧ t.bank = s.bank) ∧
      (bit s.pcie.dmaDir c.val = false → s.canIssue = true → s.dmaLen c.val = 8 → data.bytes.length = 8 → s.rf (dmaA c.val 8) 0 26 % 8 = 0 →
        s.pwr.cdpOn = true → s.inWarmWindow = false → ∀ o, s.rf (dmaA c.val 8) 0 26 = 0x1000000 + o → o < 0x600000 → s.mayWrite (o / 0x20000) 66 = true → data.clash = [] →
        ∃ t, exec (.dmaDone c data) s = .next t ∧ t.reg (dmaA c.val 0x14) = 2 ∧ t.reg (dmaA c.val 0x18) = 8 ∧
          t.reg 0x4040010 = s.reg 0x4040010 ||| w32 (2 ^ c.val) ∧ t.bytes o 8 = data.bytes ∧ ∀ a, a < o ∨ o + 8 ≤ a → t.byteAt a = s.byteAt a) ∧
      (bit s.pcie.dmaDir c.val = true → s.canIssue = false → ∃ t, exec (.dmaDone c data) s = .next t ∧ t.reg (dmaA c.val 0x14) = 4)) ∧
    (∀ (c : Fin 3) (data : DmaData), s.rb (dmaA c.val 0x14) 0 = false ∨ s.dmaHeld c.val = true → exec (.dmaDone c data) s = .next s) ∧
    (s.jtag.frozen = true ∨ s.pwr.inRange = false → ∀ v, exec (.smbSetPointer v) s = .next s ∧ exec .smbReadRegister s = .next s ∧ exec (.smbWriteRegister v) s = .next s ∧
      exec .smbReadIdentity s = .next s ∧ exec .smbReadPower s = .next s ∧ exec .smbReadTemperatures s = .next s) ∧
    (s.jtag.frozen = false → s.pwr.inRange = true →
      (∀ v : Word, ∃ t, exec (.smbSetPointer v) s = .next t ∧ t = { s with pwr := { s.pwr with smbPtr := BitVec.ofNat 26 (v.toNat / 4 * 4) } }) ∧
      (s.pwr.cdpOn = false → exec .smbReadRegister s = 
        .next ((({ s with out := s.out ++ [.smbus [0, 0, 0, 0]] } : State).answer 0).modPwr (fun p => { p with smbPtr := p.smbPtr + 4 }))) ∧
      (s.pwr.cdpOn = true → s.gate 67 s.pwr.smbPtr.toNat 4 false ≠ .wait → ∃ t, exec .smbReadRegister s = .next t ∧ t.pwr.smbPtr = (s.busRead 67 s.pwr.smbPtr.toNat 4).pwr.smbPtr + 4 ∧
        t.out = (s.busRead 67 s.pwr.smbPtr.toNat 4).out ++ [.smbus (leBytes 4 (s.busRead 67 s.pwr.smbPtr.toNat 4).resp.data.toNat)]) ∧
      (∀ v : Word, bit s.pwr.straps 1 = false → exec (.smbWriteRegister v) s =
        .next ((s.setReg 0x5C (s.reg 0x5C + 1)).modPwr (fun p => { p with smbPtr := p.smbPtr + 4 }))) ∧
      (∀ v : Word, bit s.pwr.straps 1 = true → ∃ t, exec (.registerWrite 67 (s.pwr.smbPtr.setWidth 27) 4 ⟨v.setWidth 64, [], [], []⟩) s = .next t ∧
        exec (.smbWriteRegister v) s = .next (t.modPwr (fun p => { p with smbPtr := p.smbPtr + 4 }))) ∧
      (∃ t, exec .smbReadIdentity s = .next t ∧ t = { s with out := s.out ++ [.smbus (leBytes 4 (idWord .glb 0).toNat ++ leBytes 8 s.pwr.serial.toNat)] }) ∧
      (∃ t, exec .smbReadPower s = .next t ∧ t = { s with out := s.out ++ [.smbus (leBytes 2 s.pwr.vin.toNat ++ leBytes 2 s.pwr.iin.toNat ++ leBytes 2 s.pwr.pin.toNat)] }) ∧
      (∃ t bs, exec .smbReadTemperatures s = .next t ∧ t = { s with out := s.out ++ [.smbus bs] } ∧ bs.length = 24 ∧
        ∀ i, i < 12 → bs[2 * i]? = some (BitVec.ofNat 8 (s.rf (0x10060 + 4 * i) 0 8)) ∧ bs[2 * i + 1]? = some (BitVec.ofNat 8 (s.rf (0x10060 + 4 * i) 8 8))))

/-- O32. For every state, master, offset and size the front end lets through: a bank of kind 1 is written by its owner and its guest, one of
kind 3 or more by nobody through the windows; an accepted write, OR or AND NOT puts its bytes at its offset and leaves every other byte
and every register; a refused one leaves the banks and is counted, recorded and raised; a guest's write, or any alias write, in the bank
cycle of the owner's to the same word is lost, counted, recorded and raised; B48 to B63 take no write; an alias write of an uncorrectable
word is counted alone; a read gives the bytes, ERR with a record for an uncorrectable word, and zero with ERR for a bank under test,
poisoned for the host where POISON_EN is set; a longer read of the host that leaves its 64-byte block is a size error. -/
def Obligations.ScratchBankAccesses : Prop :=
  ∀ (s : State) (m : Mid) (off : BitVec 23) (n : Nat) (v : BitVec 64),
    let o := off.toNat
    let b := o / 0x20000
    let id := (s.idOf m).toNat
    let stores := fun (r : Host.Outcome State Fault Refusal) (bs : List Byte) => ∃ t, r = .next t ∧ t.bytes o n = bs ∧
      (∀ a, a < o ∨ o + n ≤ a → t.byteAt a = s.byteAt a) ∧ t.regs = s.regs ∧ t.skid = s.skid ∧ t.resp = { data := 0, status := .ok }
    let denied := fun (r : Host.Outcome State Fault Refusal) => ∃ t, r = .next t ∧ t.bank = s.bank ∧ t.reg 0xD00050 = s.reg 0xD00050 + 1 ∧
      t.reg 0xD00054 = w32 (o + id * 2 ^ 23) ∧ t.reg 0xD00010 = s.reg 0xD00010 ||| 2 ∧
      (∀ a, a ∉ [0xD00050, 0xD00054, 0xD00010] → t.reg a = s.reg a) ∧ t.resp = { data := 0, status := .ok }
    let lost := fun (r : Host.Outcome State Fault Refusal) => ∃ t, r = .next t ∧ t.bank = s.bank ∧ t.reg 0xD00058 = s.reg 0xD00058 + 1 ∧
      t.reg 0xD0005C = w32 (o + id * 2 ^ 23) ∧ t.reg 0xD00010 = s.reg 0xD00010 ||| 4
    (s.bankKind b = 1 → (s.mayWrite b m = true ↔ fld (s.bankOwn b) 0 8 = id ∨ (bit (s.bankOwn b) 20 = true ∧ fld (s.bankOwn b) 12 8 = id))) ∧
    (3 ≤ s.bankKind b → s.mayWrite b m = false) ∧
    (s.gate m (0x1000000 + o) n true = .go →
      (48 ≤ b → ∀ same, ∃ t, exec (.bankWrite m off n v same) s = .next t ∧ t.bank = s.bank ∧ t.reg 0xD00050 = s.reg 0xD00050 + 1) ∧
      (b < 48 → s.mayWrite b m = true → stores (exec (.bankWrite m off n v false) s) (leBytes n v.toNat) ∧
        (s.isOwner b m = true → stores (exec (.bankWrite m off n v true) s) (leBytes n v.toNat)) ∧
        (s.isOwner b m = false → lost (exec (.bankWrite m off n v true) s))) ∧
      (b < 48 → s.mayWrite b m = false → ∀ same, denied (exec (.bankWrite m off n v same) s))) ∧
    (s.gate m (0x2000000 + o) n true = .go → b < 48 →
      (s.mayWrite b m = true → o / 8 ∉ s.bank.unc →
        stores (exec (.bankAliasSet m off n ⟨v, false⟩) s) (List.zipWith (· ||| ·) (s.bytes o n) (leBytes n v.toNat))) ∧
      (s.mayWrite b m = true → o / 8 ∈ s.bank.unc → ∃ t, exec (.bankAliasSet m off n ⟨v, false⟩) s = .next t ∧ t.bank = s.bank ∧
        t.reg 0xD00048 = s.reg 0xD00048 + 1) ∧
      (s.mayWrite b m = true → lost (exec (.bankAliasSet m off n ⟨v, true⟩) s)) ∧
      (s.mayWrite b m = false → ∀ c, denied (exec (.bankAliasSet m off n ⟨v, c⟩) s))) ∧
    (s.gate m (0x3000000 + o) n true = .go → b < 48 →
      (s.mayWrite b m = true → o / 8 ∉ s.bank.unc →
        stores (exec (.bankAliasClear m off n ⟨v, false⟩) s) (List.zipWith (fun x y => x &&& ~~~y) (s.bytes o n) (leBytes n v.toNat))) ∧
      (s.mayWrite b m = true → lost (exec (.bankAliasClear m off n ⟨v, true⟩) s)) ∧
      (s.mayWrite b m = false → ∀ c, denied (exec (.bankAliasClear m off n ⟨v, c⟩) s))) ∧
    (s.gate m (0x1000000 + o) n false = .go → b < 48 →
      (s.bankKind b ≠ 4 → o / 8 ∉ s.bank.unc → ∃ t, exec (.bankRead m off n) s = .next t ∧
        t.resp = { data := BitVec.ofNat 64 (leVal (s.bytes o n)), status := .ok } ∧ t.bank.mem = s.bank.mem ∧ o / 8 ∉ t.bank.sbe) ∧
      (s.bankKind b ≠ 4 → o / 8 ∈ s.bank.unc → ∃ t, exec (.bankRead m off n) s = .next t ∧ t.resp.status = .err ∧ t.bank = s.bank ∧
        t.reg 0xD00048 = s.reg 0xD00048 + 1 ∧ t.reg 0xD0004C = w32 o ∧ t.reg 0xD00010 = s.reg 0xD00010 ||| 1) ∧
      (s.bankKind b = 4 → ∃ t, exec (.bankRead m off n) s = .next t ∧ t.resp.data = 0 ∧ t.resp.status = .err ∧
        t.resp.poisoned = (decide (m = 66) && s.rb 0x48 0) ∧ t.bank = s.bank)) ∧
    (8 < n → 64 < n ∨ o / 64 ≠ (o + n - 1) / 64 → exec (.bankRead 66 off n) s =
      .next ((s.decErr 66 66 (0x1000000 + o) false .size).answer 0 .dec))

/-- O33. For every state and bank: host software or the lease holder sets owner, guest and, below B40, KIND 0 to 2 of a bank not under test,
with HANDOVER pending and the old owner in force until the handover is done; another master, a reserved KIND, a bank under test or a BAD
bank, which shows KIND 5 and takes no write, is logged alone; the fuse key opens 64 bolts in which a command with GO starts the burn,
anything else is an error that closes them; the end of the burn records the fuse. No byte of a bank changes. -/
def Obligations.BankOwnershipAndFuses : Prop :=
  ∀ (s : State) (m : Mid) (v : Word),
    (∀ b : Fin 64, let a := bankA (0x100 + 4 * b.val)
      (reaches s m a →
        (s.hostOrHolder m = true → fld v 8 3 < 3 ∨ 5 < fld v 8 3 → fld (s.ownShown b.val) 8 3 ≠ 4 → fld (s.ownShown b.val) 8 3 ≠ 5 →
          ∃ t, exec (.bankOwnWrite m b v) s = .next t ∧ fld (t.reg a) 0 8 = fld v 0 8 ∧ fld (t.reg a) 12 9 = fld v 12 9 ∧ bit (t.reg a) 21 = true ∧
            fld (t.reg a) 8 3 = (if 40 ≤ b.val then fld (s.reg a) 8 3 else fld v 8 3) ∧ t.bankOwn b.val = s.bankOwn b.val ∧
            t.bank.mem = s.bank.mem ∧ ∀ x, x ≠ a → t.reg x = s.reg x) ∧
        ((s.hostOrHolder m = false ∧ s.isOwner b.val m = false) ∨ (3 ≤ fld v 8 3 ∧ fld v 8 3 ≤ 5) ∨ fld (s.ownShown b.val) 8 3 = 4 ∨ fld (s.ownShown b.val) 8 3 = 5 →
          exec (.bankOwnWrite m b v) s = .next ((s.errlog 0xD00000 (0x100 + 4 * b.val) m).answer 0))) ∧
      (bit (s.reg a) 21 = true → ∃ t, exec (.bankHandoverDone b) s = .next t ∧ t.reg a = setFld (s.reg a) 21 1 0 ∧ t.bankOwn b.val = t.reg a ∧
        t.bank.mem = s.bank.mem ∧ ∀ x, x ≠ a → t.reg x = s.reg x) ∧
      (b.val < 48 → s.bankBad b.val = true → fld (s.ownShown b.val) 8 3 = 5 ∧ ∀ w, s.mayWrite b.val w = false) ∧
      (s.bankBad b.val = false → s.ownShown b.val = s.reg a) ∧
      (bit (s.reg a) 21 = false → exec (.bankHandoverDone b) s = .next s)) ∧
    (reaches s m 0xD00080 →
      (fld v 0 16 = 0x5EED → exec (.bankFuseKey m v) s =
        .next ((s.modBank (fun q => { q with fuseKey := some s.bolt })).answer 0)) ∧
      (fld v 0 16 ≠ 0x5EED → exec (.bankFuseKey m v) s =
        .next (((s.setRf 0xD00088 2 1 1).modBank (fun q => { q with fuseKey := none })).answer 0))) ∧
    (reaches s m 0xD00084 → ∀ k, s.bank.fuseKey = some k →
      (bit v 15 = true → since s.bolt k ≤ 64 → s.bank.fuseBusy = none → exec (.bankFuseCmd m v) s =
        .next (((s.setReg 0xD00088 1).modBank (fun q => { q with fuseKey := none, fuseBusy := some (fld v 0 6, fld v 6 9) })).answer 0)) ∧
      (64 < since s.bolt k → exec (.bankFuseCmd m v) s =
        .next (((s.setRf 0xD00088 2 1 1).modBank (fun q => { q with fuseKey := none })).answer 0))) ∧
    (∀ f, s.bank.fuseBusy = some f → ∃ t, exec .fuseBurnDone s = .next t ∧ t.bank = { s.bank with fuseBusy := none, fused := s.bank.fused ++ [f] } ∧
      t.rb 0xD00088 0 = false ∧ t.rb 0xD00088 1 = true ∧ ∀ x, x ≠ 0xD00088 → t.reg x = s.reg x) ∧
    (s.bank.fuseBusy = none → exec .fuseBurnDone s = .next s)

/-- O34. For every state: BANK_TCMD with START is refused with RESULT 4 where a test runs, the bank is BAD, the algorithm is reserved or not
for a preserving test, or a destructive test names a bank not of KIND 0 below B48; else it runs, with the failure maps cleared and,
destructive, KIND 4; a preserving test locks and passes row by row; a row that fails is recorded and repaired softly where LIVE_REPAIR is
set and a spare is free, and no byte changes; the end and ABORT give the result and raise TEST_DONE; a destructive test leaves its bank
zero with KIND 0, and every other byte. -/
def Obligations.MarchTests : Prop :=
  ∀ (s : State) (m : Mid) (v : Word),
    let b := fld v 0 6
    (reaches s m 0xD00060 → bit v 12 = false → bit v 6 = false →
      (s.bank.march.busy = true ∨ s.bankBad b = true ∨ fld v 8 2 = 3 ∨ (fld v 8 2 = 2 ∧ bit v 10 = true) ∨
        (bit v 10 = false ∧ (48 ≤ b ∨ s.bankKind b ≠ 0)) →
        exec (.marchStart m v) s = .next ((s.modBank (fun q => { q with march := { q.march with result := 4 } })).answer 0)) ∧
      (s.bank.march.busy = false → s.bankBad b = false → fld v 8 2 < 2 → bit v 10 = true → ∃ t, exec (.marchStart m v) s = .next t ∧
        t.bank.march = { busy := true, bank := b, alg := fld v 8 2, preserve := true } ∧ t.bank.mem = s.bank.mem ∧
        t.reg 0xD0006C = 0 ∧ t.reg 0xD00070 = 0 ∧ ∀ x, x ≠ 0xD0006C → x ≠ 0xD00070 → t.reg x = s.reg x) ∧
      (s.bank.march.busy = false → s.bankBad b = false → fld v 8 2 < 3 → bit v 10 = false → b < 48 → s.bankKind b = 0 → ∃ t,
        exec (.marchStart m v) s = .next t ∧ t.bank.march = { busy := true, bank := b, alg := fld v 8 2, preserve := false } ∧
        t.bankKind b = 4 ∧ t.bank.mem = s.bank.mem ∧ ∀ x, x ≠ 0xD0006C → x ≠ 0xD00070 → x ≠ bankA (0x100 + 4 * b) → t.reg x = s.reg x)) ∧
    (s.bank.march.busy = true → s.bank.march.preserve = true → s.bank.march.locked = false → s.bank.march.row < 512 →
      exec .marchRowLock s = .next (s.modBank (fun q => { q with march := { q.march with locked := true } }))) ∧
    (s.bank.march.busy = true → s.bank.march.locked = true →
      (exec (.marchRowDone []) s = .next (s.modBank (fun q => { q with march := { q.march with locked := false, row := q.march.row + 1 } }))) ∧
      (∀ k : Fin 64, k.val ∈ s.testBanks → s.rb 0xD00068 16 = true → s.sparesUsed k.val < 4 → ∃ t, exec (.marchRowDone [k]) s = .next t ∧
        t.bank.march = { s.bank.march with locked := false, row := s.bank.march.row + 1, anyFail := true } ∧
        t.bank.soft = s.bank.soft ++ [(k.val, s.bank.march.row)] ∧ t.bank.mem = s.bank.mem ∧ t.bank.unc = s.bank.unc ∧
        t.reg 0xD00010 = s.reg 0xD00010 ||| 0x10)) ∧
    (s.bank.march.busy = true → s.bank.march.locked = false → s.bank.march.preserve = true → 512 ≤ s.bank.march.row →
      ∃ t, exec (.marchTestDone []) s = .next t ∧
        t.bank = { s.bank with march := { s.bank.march with busy := false, result := if s.bank.march.anyFail then 2 else 1 } } ∧
        t.reg 0xD00010 = s.reg 0xD00010 ||| 8 ∧ ∀ x, x ≠ 0xD00010 → t.reg x = s.reg x) ∧
    (s.bank.march.busy = true → s.bank.march.locked = false → s.bank.march.preserve = false → s.bank.march.all = false → s.bank.march.bank < 48 →
      ∃ t, exec (.marchTestDone []) s = .next t ∧ t.bank.march = { s.bank.march with busy := false, result := 1 } ∧
        t.bankKind s.bank.march.bank = 0 ∧ (∀ a, a / 0x20000 = s.bank.march.bank → t.byteAt a = 0) ∧
        (∀ a, a / 0x20000 ≠ s.bank.march.bank → t.byteAt a = s.byteAt a)) ∧
    (reaches s m 0xD00060 →
      (s.bank.march.busy = true → s.bank.march.preserve = true → ∃ t, exec (.marchAbort m) s = .next t ∧
        t.bank = { s.bank with march := { s.bank.march with busy := false, result := 3, locked := false } } ∧ t.reg 0xD00010 = s.reg 0xD00010 ||| 8) ∧
      (s.bank.march.busy = false → exec (.marchAbort m) s = .next (s.answer 0)))

/-- O35. For every state and master: a read of SKID_ALLOC under the master's limit gives the head of the free list, never-allocated buffers in
index order and then freed ones in order, OWNED by the reader, and over the limit gives zero and is counted; SKID_FREE by the owner frees
the buffer to the tail, zeroed where SCRUB is set, and by another master or of a free buffer is counted, recorded and raised with no
effect; a buffer write by the owner puts its bytes there alone and by another is counted and recorded alone; SKID_LOWMARK gives the low
mark and starts again from the present count. -/
def Obligations.SkidPool : Prop :=
  ∀ (s : State) (m : Mid),
    (readable s m 0xD80048 →
      (s.rf 0xD80044 0 15 = 0 ∨ (s.ownedBy m.toNat).length < s.rf 0xD80044 0 15 →
        (∀ i, s.skipBad s.skid.fresh = i → i < 8192 → s.withdrawn i = false → ∃ t, exec (.skidAlloc m) s = .next t ∧
          t.resp = { data := (w32 (0x80000000 + i)).setWidth 64, status := .ok } ∧ t.buf i = (.owned, m.toNat) ∧ t.skid.fresh = i + 1 ∧
          t.skid.freed = s.skid.freed ∧ (∀ j, j ≠ i → t.buf j = s.buf j) ∧ t.bank = s.bank) ∧
        (∀ i l, s.skipBad s.skid.fresh = 8192 → s.skid.freed = i :: l → s.withdrawn i = false → ∃ t, exec (.skidAlloc m) s = .next t ∧
          t.resp = { data := (w32 (0x80000000 + i)).setWidth 64, status := .ok } ∧ t.buf i = (.owned, m.toNat) ∧ t.skid.freed = l ∧
          (∀ j, j ≠ i → t.buf j = s.buf j))) ∧
      (s.rf 0xD80044 0 15 ≠ 0 → s.rf 0xD80044 0 15 ≤ (s.ownedBy m.toNat).length →
        exec (.skidAlloc m) s = .next ((s.setReg 0xD80060 (s.reg 0xD80060 + 1)).answer 0))) ∧
    (∀ v : Word, reaches s m 0xD8004C → let i := fld v 0 14
      (s.buf i = (.owned, m.toNat) → i < 8192 → ∃ t, exec (.skidFree m v) s = .next t ∧ t.buf i = (.free, 0) ∧ t.skid.freed = s.skid.freed ++ [i] ∧
        (∀ j, j ≠ i → t.buf j = s.buf j) ∧ t.regs = s.regs ∧
        (∀ x, 0x600000 + 256 * i ≤ x → x < 0x600000 + 256 * (i + 1) → t.byteAt x = if s.rb 0xD80040 0 then 0 else s.byteAt x) ∧
        (∀ x, x < 0x600000 + 256 * i ∨ 0x600000 + 256 * (i + 1) ≤ x → t.byteAt x = s.byteAt x)) ∧
      (∀ o, i < 8192 → s.buf i = (.owned, o) → o ≠ m.toNat → ∃ t, exec (.skidFree m v) s = .next t ∧ t.skid = s.skid ∧ t.bank = s.bank ∧
        t.reg 0xD80058 = s.reg 0xD80058 + 1 ∧ t.reg 0xD8005C = w32 (i + m.toNat * 2 ^ 14 + 2 ^ 22) ∧ t.reg 0xD80010 = s.reg 0xD80010 ||| 1) ∧
      (i < 8192 → s.buf i = (.free, 0) → ∃ t, exec (.skidFree m v) s = .next t ∧ t.skid = s.skid ∧ t.bank = s.bank ∧
        t.reg 0xD80054 = s.reg 0xD80054 + 1 ∧ t.reg 0xD8005C = w32 (i + m.toNat * 2 ^ 14) ∧ t.reg 0xD80010 = s.reg 0xD80010 ||| 1)) ∧
    (∀ (i : Fin 8192) (o : Fin 256) (n : Nat) (v : BitVec 64), s.gate m (0x1800000 + 256 * i.val + o.val) n true = .go →
      let x := 0x600000 + 256 * i.val + o.val
      (s.buf i.val = (.owned, m.toNat) → ∃ t, exec (.skidBufferWrite m i o n v) s = .next t ∧ t.bytes x n = leBytes n v.toNat ∧
        (∀ a, a < x ∨ x + n ≤ a → t.byteAt a = s.byteAt a) ∧ t.regs = s.regs ∧ t.skid = s.skid) ∧
      (s.buf i.val ≠ (.owned, m.toNat) → ∃ t, exec (.skidBufferWrite m i o n v) s = .next t ∧ t.bank = s.bank ∧ t.skid = s.skid ∧
        t.reg 0xD80058 = s.reg 0xD80058 + 1 ∧ t.reg 0xD8005C = w32 (i.val + m.toNat * 2 ^ 14 + 3 * 2 ^ 22) ∧
        ∀ a, a ≠ 0xD80058 → a ≠ 0xD8005C → t.reg a = s.reg a)) ∧
    (readable s m 0xD80064 → exec (.skidLowmarkRead m) s =
      .next ((s.setReg 0xD80064 (w32 s.skidFree)).answer ((s.reg 0xD80064).setWidth 64)))

/-- O36. For every state and a weaver or Foreman that posts a buffer it owns: a message addressed to the page, of 32 to 256 bytes, for the
destination's role and epoch, whose destination takes messages with room, joins its inbox, stamped with the sender and the bolt, its other
words kept, and no other inbox or buffer changes; one to a weaver that takes none becomes a NAK with reason 3 in the running sender's
inbox and is counted; a buffer the poster does not own is counted and recorded alone. A pop by the owner gives the oldest buffer, then
OWNED by the popper; to any other master it reads zero. -/
def Obligations.MessagesBetweenCores : Prop :=
  ∀ (s : State) (m : Mid) (v : Word),
    let i := fld v 0 14
    let sent := fun (r : Host.Outcome State Fault Refusal) (d : Nat) => ∃ t, r = .next t ∧ t.inbox d = s.inbox d ++ [i] ∧ t.buf i = (.posted, d) ∧
      t.bufWord i 0 = s.bufWord i 0 ∧ t.bufWord i 1 = s.srcWord m.toNat ∧ t.bufWord i 2 = s.bufWord i 2 ∧ t.bufWord i 5 = s.bolt ∧
      (∀ j, j ≠ i → t.buf j = s.buf j) ∧ (∀ e, e < 66 → e ≠ d → t.inbox e = s.inbox e)
    let good := fun (d : Nat) => fld (s.bufWord i 0) 0 8 = d ∧ 32 ≤ fld (s.bufWord i 2) 8 9 ∧ fld (s.bufWord i 2) 8 9 ≤ 256 ∧
      s.accepts d = true ∧ fld (s.bufWord i 0) 8 8 = (s.ident d).1 ∧ (fld (s.bufWord i 0) 16 16 = 0 ∨ fld (s.bufWord i 0) 16 16 = (s.ident d).2) ∧
      (s.inbox d).length < 256
    (i < 8192 → s.buf i = (.owned, m.toNat) → m.toNat < 66 →
      (∀ w : Fin 64, passes s m (wvrA w.val 0x50) v →
        (good w.val → sent (exec (.wvrPost m w v) s) w.val) ∧
        (m.toNat < 64 → m.toNat ≠ w.val → fld (s.bufWord i 0) 0 8 = w.val → 32 ≤ fld (s.bufWord i 2) 8 9 → fld (s.bufWord i 2) 8 9 ≤ 256 →
          s.accepts w.val = false → s.msgKind i ≠ 3 → (s.weaver m.toNat).st = .run → (s.weaver m.toNat).role < 256 →
          (s.weaver m.toNat).epoch < 65536 → (s.inbox m.toNat).length < 256 → ∃ t, exec (.wvrPost m w v) s = .next t ∧
            t.inbox m.toNat = s.inbox m.toNat ++ [i] ∧ t.inbox w.val = s.inbox w.val ∧ t.buf i = (.posted, m.toNat) ∧ t.msgKind i = 3 ∧
            fld (t.bufWord i 2) 24 8 = 3 ∧ t.reg (wvrA w.val 0x60) = s.reg (wvrA w.val 0x60) + 1)) ∧
      (reaches s m 0x30080 → good 64 → sent (exec (.fmnPost m false v) s) 64) ∧
      (reaches s m 0x30084 → good 65 → sent (exec (.fmnPost m true v) s) 65)) ∧
    (∀ w : Fin 64, passes s m (wvrA w.val 0x50) v → m.toNat < 66 → i < 8192 → s.buf i ≠ (.owned, m.toNat) →
      ∃ t, exec (.wvrPost m w v) s = .next t ∧ t.wvr = s.wvr ∧ t.skid = s.skid ∧ t.bank = s.bank ∧ t.reg 0xD80058 = s.reg 0xD80058 + 1 ∧
        t.reg 0xD8005C = w32 (i + m.toNat * 2 ^ 14 + 2 * 2 ^ 22)) ∧
    (∀ w : Fin 64, readable s m (wvrA w.val 0x54) →
      (m.toNat ≠ w.val → exec (.wvrInboxPop m w) s = .next (s.answer 0)) ∧
      (m.toNat = w.val → s.inbox w.val = [] → exec (.wvrInboxPop m w) s = .next (s.answer 0)) ∧
      (∀ k l, m.toNat = w.val → s.inbox w.val = k :: l → s.withdrawn k = false → ∃ t, exec (.wvrInboxPop m w) s = .next t ∧
        t.resp = { data := (w32 (2 ^ 31 + k)).setWidth 64, status := .ok } ∧ t.inbox w.val = l ∧ t.buf k = (.owned, w.val) ∧
        (∀ j, j ≠ k → t.buf j = s.buf j) ∧ t.bank = s.bank)) ∧
    (readable s m 0x30088 →
      (∀ k l, m = 64 ∨ m = 65 → s.inbox m.toNat = k :: l → s.withdrawn k = false → ∃ t, exec (.fmnInboxPop m) s = .next t ∧
        t.resp = { data := (w32 (2 ^ 31 + k)).setWidth 64, status := .ok } ∧ t.inbox m.toNat = l ∧ t.buf k = (.owned, m.toNat)) ∧
      (m ≠ 64 → m ≠ 65 → exec (.fmnInboxPop m) s = .next (s.answer 0)))

/-- O37. For every state and weaver: WVR_ROLE_REQ takes role and instance and is PENDING; the Foreman refuses the lowest pending request with
its RESULT and no change, starts to load the role in an IDLE weaver, or drains one that runs, sleeps or is halted, keeping its role and
epoch; at the end of DRAIN, by its own DRAINED or by DRAIN_TMO, the epoch advances, its buffers return to the pool and, while a Foreman is
active, the new role loads (without one the weaver stands halted); another master's DRAINED is logged alone; the loaded weaver runs in the
new role and its request is reported with RESULT 1. No other weaver changes. -/
def Obligations.RoleRequests : Prop :=
  ∀ (s : State) (m : Mid) (w : Fin 64),
    let x := s.weaver w.val
    let req := wvrA w.val 0x48
    let role := s.rf req 0 8
    let inst := s.rf req 8 3
    let others := fun (t : State) => ∀ v, v ≠ w.val → t.weaver v = s.weaver v
    (∀ v : Word, reaches s m req → exec (.wvrRoleReqWrite m w v) s = .next ((s.setReg req ((v &&& 0x7FF) ||| 0x10000)).answer 0)) ∧
    (s.headless = false → s.nextReq = some w.val → ∀ ok : Bool,
      (∀ r, s.roleRefusal w.val role inst ok = some r → ∃ t, exec (.roleRequestServe w ok) s = .next t ∧ bit (t.reg req) 16 = false ∧
        fld (t.reg req) 17 3 = r % 8 ∧ fld (t.reg req) 0 11 = fld (s.reg req) 0 11 ∧ t.wvr = s.wvr ∧ ∀ a, a ≠ req → t.reg a = s.reg a) ∧
      (s.roleRefusal w.val role inst ok = none → x.st = .idle → role ≠ 0 → ∃ t, exec (.roleRequestServe w ok) s = .next t ∧
        bit (t.reg req) 16 = false ∧ (t.weaver w.val).st = .loading ∧ (t.weaver w.val).next = some (role, inst) ∧ (t.weaver w.val).byReq = true ∧
        (t.weaver w.val).epoch = x.epoch ∧ others t) ∧
      (s.roleRefusal w.val role inst ok = none → x.st = .run ∨ x.st = .sleep ∨ x.st = .halt → ∃ t, exec (.roleRequestServe w ok) s = .next t ∧
        bit (t.reg req) 16 = false ∧ (t.weaver w.val).st = .drain ∧ (t.weaver w.val).next = some (role, inst) ∧ (t.weaver w.val).drainAt = s.bolt ∧
        (t.weaver w.val).role = x.role ∧ (t.weaver w.val).epoch = x.epoch ∧ others t)) ∧
    (s.headless = true → ∀ ok, exec (.roleRequestServe w ok) s = .next s) ∧
    (∀ y, s.headless = false → x.halted = false → x.st = .drain → x.next = some y → y.1 ≠ 0 → x.inbox = [] →
      let drained := fun (o : Host.Outcome State Fault Refusal) => ∃ t, o = .next t ∧ (t.weaver w.val).st = .loading ∧ (t.weaver w.val).next = some y ∧
        (t.weaver w.val).role = 0 ∧ (t.weaver w.val).epoch = nextEpoch x.epoch ∧ (∀ i, t.buf i ≠ (.owned, w.val)) ∧
        (∀ i, i ∉ s.ownedBy w.val → t.buf i = s.buf i) ∧ others t
      (max 1 (s.rf (wvrA w.val 0x40) 8 8) ≤ since s.bolt x.drainAt → drained (exec (.drainTimeout w) s)) ∧
      (m.toNat = w.val → passes s m (wvrA w.val 0x4C) 8 → drained (exec (.wvrCmdDrained m w) s))) ∧
    (s.headless = true → x.halted = false → x.st = .drain → x.inbox = [] → max 1 (s.rf (wvrA w.val 0x40) 8 8) ≤ since s.bolt x.drainAt →
      ∃ t, exec (.drainTimeout w) s = .next t ∧ (t.weaver w.val).st = .drain ∧ (t.weaver w.val).halted = true ∧
        (t.weaver w.val).epoch = nextEpoch x.epoch ∧ (∀ i, t.buf i ≠ (.owned, w.val)) ∧ others t) ∧
    (m.toNat ≠ w.val → passes s m (wvrA w.val 0x4C) 8 → exec (.wvrCmdDrained m w) s = .next ((s.errlog (wvrA w.val 0) 0x4C m).answer 0)) ∧
    (∀ y, s.headless = false → x.st = .loading → x.next = some y → ∃ t, exec (.roleImageLoaded w) s = .next t ∧
      (t.weaver w.val).st = .run ∧ (t.weaver w.val).role = y.1 ∧ (t.weaver w.val).inst = y.2 ∧ (t.weaver w.val).next = none ∧
      (t.weaver w.val).hbAt = s.bolt ∧ (t.weaver w.val).epoch = x.epoch ∧ others t ∧
      (x.byReq = true → s.pendingReq w.val = false → fld (t.reg req) 17 3 = 1 ∧ bit (t.reg req) 16 = false))

/-- O38. For every state and weaver: HALT halts one that runs or sleeps, RESUME lets it run again with its role, epoch and inbox, RESTART
loads its role again with a new epoch and its buffers back in the pool, and none acts in another state; a memory error, a trap and WDOG
bolts without a heartbeat put it into FAULT with the cause, the bolt and a new epoch, and WDOG 0 never does; with AUTO_RESTART and a
Foreman active the Foreman reloads it; a running weaver sleeps where nothing that it issued is outstanding, and wakes on its timer, on a
message since, or on a bolt with WAKE_BOLT. No other weaver changes. -/
def Obligations.WeaverStates : Prop :=
  ∀ (s : State) (m : Mid) (w : Fin 64),
    let x := s.weaver w.val
    let toSt := fun (o : Host.Outcome State Fault Refusal) (st : WvrSt) => ∃ t, o = .next t ∧ (t.weaver w.val).st = st ∧
      (t.weaver w.val).role = x.role ∧ (t.weaver w.val).inst = x.inst ∧ (t.weaver w.val).epoch = x.epoch ∧ (t.weaver w.val).inbox = x.inbox ∧
      (∀ v, v ≠ w.val → t.weaver v = s.weaver v) ∧ t.skid = s.skid ∧ t.bank = s.bank
    (reaches s m (wvrA w.val 0x4C) →
      (x.st = .run ∨ x.st = .sleep → toSt (exec (.wvrCmdHalt m w) s) .halt) ∧
      (x.st ≠ .run → x.st ≠ .sleep → exec (.wvrCmdHalt m w) s = .next (s.answer 0)) ∧
      (x.st = .halt → toSt (exec (.wvrCmdResume m w) s) .run) ∧
      (x.st ≠ .halt → exec (.wvrCmdResume m w) s = .next (s.answer 0)) ∧
      (x.st = .off ∨ x.st = .idle → exec (.wvrCmdRestart m w) s = .next (s.answer 0)) ∧
      (x.st = .run ∨ x.st = .halt ∨ x.st = .sleep → x.inbox = [] → ∃ t, exec (.wvrCmdRestart m w) s = .next t ∧ (t.weaver w.val).st = .loading ∧
        (t.weaver w.val).next = some (x.role, x.inst) ∧ (t.weaver w.val).epoch = nextEpoch x.epoch ∧ (∀ i, t.buf i ≠ (.owned, w.val)) ∧
        ∀ v, v ≠ w.val → t.weaver v = s.weaver v)) ∧
    (let fails := fun (o : Host.Outcome State Fault Refusal) (code : Nat) => ∃ t, o = .next t ∧ (t.weaver w.val).st = .fault ∧
        (t.weaver w.val).role = x.role ∧ (t.weaver w.val).epoch = nextEpoch x.epoch ∧
        t.reg (wvrA w.val 0x6C) = w32 (code + fld s.bolt 0 24 * 2 ^ 8) ∧ t.reg (wvrA w.val 0x70) = s.reg (wvrA w.val 0x70) + 1 ∧
        (∀ i, t.buf i ≠ (.owned, w.val)) ∧ (∀ v, v ≠ w.val → t.weaver v = s.weaver v)
     x.inbox = [] → x.st = .run ∨ x.st = .sleep →
      fails (exec (.weaverFault w .memory) s) 1 ∧ fails (exec (.weaverFault w .trap) s) 2 ∧
      (x.halted = false → s.rf (wvrA w.val 0x40) 16 8 ≠ 0 → s.rf (wvrA w.val 0x40) 16 8 ≤ since s.bolt x.hbAt → fails (exec (.weaverWatchdog w) s) 3)) ∧
    (x.st = .off ∨ x.st = .fault → ∀ c, exec (.weaverFault w c) s = .next s) ∧
    (s.rf (wvrA w.val 0x40) 16 8 = 0 → exec (.weaverWatchdog w) s = .next s) ∧
    (s.headless = false → s.rb (wvrA w.val 0x40) 0 = true → x.st = .fault → x.byReq = false →
      toSt (exec (.weaverAutoRestart w) s) (if x.role = 0 then .idle else .run)) ∧
    (s.headless = true ∨ s.rb (wvrA w.val 0x40) 0 = false → exec (.weaverAutoRestart w) s = .next s) ∧
    (x.st = .run → s.portIdle w.val = true → toSt (exec (.weaverSleep w) s) .sleep) ∧ (x.st ≠ .run ∨ s.portIdle w.val = false → exec (.weaverSleep w) s = .next s) ∧
    (x.st = .sleep → toSt (exec (.weaverWake w .timer) s) .run ∧
      (x.sleepN < x.inbox.length → toSt (exec (.weaverWake w .post) s) .run) ∧
      (x.inbox.length ≤ x.sleepN → exec (.weaverWake w .post) s = .next s) ∧
      (s.rb (wvrA w.val 0x40) 24 = true → s.bolt ≠ x.sleepAt → toSt (exec (.weaverWake w .bolt) s) .run) ∧
      (s.rb (wvrA w.val 0x40) 24 = false → exec (.weaverWake w .bolt) s = .next s))

/-- O39. For every state and weaver: a policy runs only on a head weaver with a policy role, at its interval, with a Foreman active and MODE 1
or 2, where the row tells the measures of this state in some order (the model's choice, notes/assumptions/30.md); with a full log it
decides nothing. Otherwise, for the one object it measured, POL_DEG on a lane whose threshold is more than an eighth away from 8 times the
mean plus 256 decides that value, POL_HOLD with 4 short episodes lengthens HOLDOFF by 4, and POL_REF locks out a reference slot that lost
its qualification 3 times: in MODE 1 the decision is only logged, and no register but the log's tail changes; in MODE 2 a decision the
guard accepts is written, counted and logged. -/
def Obligations.HeadWeaverPolicies : Prop :=
  ∀ (s : State) (w : Fin 64) (meas : List (Nat × Nat)),
    let pg := wvrA w.val
    let pos := (s.reg (pg 0x210)).toNat + 32 * ((s.reg (pg 0x218)).toNat % 2 ^ s.svcSize (pg 0x214))
    let logs := fun (t : State) (result : Nat) (a : Nat) (new : Word) (n : Nat) =>
      t.bytes pos 32 = polRecord s.bolt (s.weaver w.val).role result 0 (s.reg a) (Decision.mk a new n) ∧
      (t.reg (pg 0x218)).toNat = ((s.reg (pg 0x218)).toNat % 2 ^ s.svcSize (pg 0x214) + 1) % 2 ^ s.svcSize (pg 0x214)
    (s.polDue w.val = false ∨ meas.isPerm (s.polMeasured w.val) = false → exec (.policyInterval w meas) s = .next s) ∧
    (s.headless = true ∨ w.val < 60 ∨ isPolicy (s.weaver w.val).role = false ∨ s.rf (pg 0x200) 0 2 = 0 → s.polDue w.val = false) ∧
    (s.polDue w.val = true → meas.isPerm (s.polMeasured w.val) = true → s.svcFull (pg 0x214) (pg 0x218) (pg 0x21C) = true → ∃ t, exec (.policyInterval w meas) s = .next t ∧
      t.regs = s.regs ∧ t.bank = s.bank ∧ (t.weaver w.val).polAt = s.bolt) ∧
    (s.polDue w.val = true → s.svcFull (pg 0x214) (pg 0x218) (pg 0x21C) = false → pos % 8 = 0 → pos / 0x20000 = (pos + 31) / 0x20000 →
      pos / 0x20000 < 48 → s.mayWrite (pos / 0x20000) (BitVec.ofNat 8 w.val) = true →
      (∀ l n, (s.weaver w.val).role = 0x10 → s.polMeasured w.val = [(l, n)] → n < 2 ^ 28 →
        let a := lnA l 0x54
        let new := 8 * n + 256
        (s.reg a).toNat < 8 * (max new (s.reg a).toNat - min new (s.reg a).toNat) →
        (s.rf (pg 0x200) 0 2 = 1 → ∃ t, exec (.policyInterval w (s.polMeasured w.val)) s = .next t ∧ logs t 1 a (w32 new) n ∧ ∀ b, b ≠ pg 0x218 → t.reg b = s.reg b) ∧
        (s.rf (pg 0x200) 0 2 = 2 → s.guardRefusal w.val a (w32 new) = none → s.gate (BitVec.ofNat 8 w.val) a 4 true = .go →
          ∃ t, exec (.policyInterval w (s.polMeasured w.val)) s = .next t ∧ t.reg a = w32 new ∧ logs t 0 a (w32 new) n ∧
            t.reg (pg 0x204) = s.reg (pg 0x204) + 1 ∧ ∀ b, b ∉ [a, pg 0x218, pg 0x204] → t.reg b = s.reg b)) ∧
      (∀ g n, (s.weaver w.val).role = 0x11 → s.polMeasured w.val = [(g, n)] → 4 ≤ n → s.rf (pg 0x200) 0 2 = 1 →
        ∃ t, exec (.policyInterval w (s.polMeasured w.val)) s = .next t ∧
          logs t 1 (recA g 0) (setFld (s.reg (recA g 0)) 16 12 (min 4095 (s.rf (recA g 0) 16 12 + 4))) n ∧ ∀ b, b ≠ pg 0x218 → t.reg b = s.reg b) ∧
      (∀ j n, (s.weaver w.val).role = 0x12 → s.polMeasured w.val = [(j, n)] → s.rb (beatA (0x140 + 4 * j)) 14 = false → 3 ≤ n →
        s.beat.sel ≠ some (8 + j) → s.onlyOther j = false → s.rf (pg 0x200) 0 2 = 1 → ∃ t, exec (.policyInterval w (s.polMeasured w.val)) s = .next t ∧
          logs t 1 (beatA (0x140 + 4 * j)) (setBit (s.reg (beatA (0x140 + 4 * j))) 14 true) n ∧ ∀ b, b ≠ pg 0x218 → t.reg b = s.reg b))

/-- O40. For every state with a TENANT weaver that may write its rings, with room: LIST, STATE, COUNT and PROT answer the request at the head
in the result ring with what they ask of an object the requester may see (its own, or any for tenant 0), TENANT for another's, BAD_OBJ for
none and BAD_OP for an unknown OP, raise RESULT and write no other byte; HANDOFF is refused to a tenant and while headless, else moves the
position to the new tenant and asks the Foreman, by a message in a Skid buffer, for a RETAG, which waits where there is no buffer or no
room; its completion answers it, a failure returning the tenant and the grants; a change told is written where it is the oldest noted (the
model's choice): of a skein's defects, an event for the position's tenant, and with EV_EN 0 none; 8 bolts without a heartbeat raise
AGENT_LOST. The record layouts are the model's (notes/assumptions/27.md). -/
def Obligations.TenantService : Prop :=
  ∀ (s : State) (w : Nat),
    let pos := (s.reg 0xB00060).toNat + 128 * ((s.reg 0xB00068).toNat % 2 ^ s.svcSize 0xB00064)
    let evp := (s.reg 0xB00070).toNat + 32 * ((s.reg 0xB00078).toNat % 2 ^ s.svcSize 0xB00074)
    let mine := fun (p n : Nat) => p % 8 = 0 ∧ p / 0x20000 = (p + n - 1) / 0x20000 ∧ p / 0x20000 < 48 ∧ s.mayWrite (p / 0x20000) (BitVec.ofNat 8 w) = true
    let room := cleanRun s (s.ringAt 0xB00050 0xB00054 0xB0005C 32) 32 = true ∧ s.ten.heldRs = [] ∧ s.ten.heldEv = [] ∧ s.rsFull = false ∧ mine pos 128
    let answered := fun (o : Host.Outcome State Fault Refusal) (rec : List Byte) => ∃ t, o = .next t ∧ t.bytes pos 128 = rec ∧
      (∀ x, x < pos ∨ pos + 128 ≤ x → t.byteAt x = s.byteAt x) ∧ t.reg 0xB00010 = s.reg 0xB00010 ||| 1 ∧
      t.reg 0xB00068 = w32 (ringNext (s.svcSize 0xB00064) ((s.reg 0xB00068).toNat % 2 ^ s.svcSize 0xB00064)) ∧
      t.reg 0xB0005C = w32 (ringNext (s.svcSize 0xB00054) (s.reg 0xB0005C).toNat) ∧
      ∀ a, a ∉ [0xB00010, 0xB00068, 0xB0005C] → t.reg a = s.reg a
    (s.tenReq = none → exec .tenList s = .next s ∧ exec .tenState s = .next s ∧ exec .tenCount s = .next s ∧ exec .tenProt s = .next s ∧
      exec .tenHandoff s = .next s) ∧
    (∀ r, s.tenReq = some (w, r) → room →
      (∀ k, tqOp r = 1 → s.objSkein (tqObj r / 128) = some k →
        let l := ((span k (81920 - k)).filter (fun i => decide (s.tenTab i = tqTenant r))).take 18
        answered (exec .tenList s) (tenResult r 0 ((l.take 17).flatMap (fun i => beBytes 6 (s.addrOf i))) (if l.length = 18 then 2 else 0))) ∧
      (∀ k, tqOp r = 2 → s.obj r = .skein k →
        (tqTenant r = 0 ∨ tqTenant r = s.tenTab k → answered (exec .tenState s)
          (tenResult r 0 (s.tenSkeinState (tqTenant r) k).1 (s.tenSkeinState (tqTenant r) k).2.toNat)) ∧
        (tqTenant r ≠ 0 → tqTenant r ≠ s.tenTab k → answered (exec .tenState s) (tenResult r 2 []))) ∧
      (∀ k, tqOp r = 3 → s.obj r = .skein k →
        (tqTenant r = 0 ∨ tqTenant r = s.tenTab k → answered (exec .tenCount s) (tenResult r 0 (s.ctrWords 1 k 4 ++ s.ctrWords 2 k 2))) ∧
        (tqTenant r ≠ 0 → tqTenant r ≠ s.tenTab k → answered (exec .tenCount s) (tenResult r 2 []))) ∧
      (tqOp r = 2 → s.obj r = .bad → answered (exec .tenState s) (tenResult r 3 [])) ∧
      (tqOp r = 4 → tqArg r < 8192 →
        ((s.grpDsts (tqArg r)).any (fun d => maySee (tqTenant r) (s.lsrTen d)) = true → answered (exec .tenProt s)
          (tenResult r 0 (beBytes 4 (s.gstat (tqArg r)).toNat ++ beBytes 4 (s.galign (tqArg r)).toNat ++ (s.ctr 4 (tqArg r) 0).word))) ∧
        ((s.grpDsts (tqArg r)).any (fun d => maySee (tqTenant r) (s.lsrTen d)) = false → answered (exec .tenProt s) (tenResult r 2 []))) ∧
      (tqOp r = 4 → 8192 ≤ tqArg r → answered (exec .tenProt s) (tenResult r 3 [])) ∧
      (∀ k, tqOp r = 5 → s.obj r = .skein k →
        (tqTenant r ≠ 0 → answered (exec .tenHandoff s) (tenResult r 2 [])) ∧
        (tqTenant r = 0 → s.headless = true → answered (exec .tenHandoff s) (tenResult r 5 [])) ∧
        (tqTenant r = 0 → s.headless = false → s.qRoom false = true → tqKeep r = false → k < 81920 →
          bit (s.skidAlloc w).1 31 = true → (s.inbox (s.holderId.getD 0)).length < 256 → ∃ t c, exec .tenHandoff s = .next t ∧
          t.tenTab k = tqNew r ∧ (∀ j, j < 81920 → j ≠ k → t.tenTab j = s.tenTab j) ∧ t.trd.q = s.trd.q ++ [c] ∧ c.op = 0x0B ∧ c.src = lsrOfNo k ∧
          (t.ten.ho.map (fun h => (h.k, h.oldTen, h.grants, h.done))) = some (k, s.tenTab k, [], none) ∧ t.loom = s.loom) ∧
        (tqTenant r = 0 → s.headless = false → s.qRoom false = true → tqKeep r = false →
          bit (s.skidAlloc w).1 31 = false ∨ 256 ≤ (s.inbox (s.holderId.getD 0)).length → exec .tenHandoff s = .next s)) ∧
      (∀ op, op = 0 ∨ 5 < op → tqOp r = op → answered (exec .tenList s) (tenResult r 4 []))) ∧
    (∀ h st b, s.tenSvc = some w → s.ten.ho = some h → h.done = some (st, b) → room → h.req.length = 32 →
      (st = 0 → s.rb 0xB00040 0 = false → ∃ t, exec .handoffRetagDone s = .next t ∧ t.bytes pos 128 = tenResult h.req 0 [] 0 0 b ∧ t.ten.ho = none ∧
        t.reg 0xB00010 = s.reg 0xB00010 ||| 1 ∧ ∀ k, t.tenTab k = s.tenTab k) ∧
      (st ≠ 0 → h.k < 81920 → h.oldTen < 4096 → (∀ i ∈ h.grants, i < 1024) → ∃ t, exec .handoffRetagDone s = .next t ∧ t.bytes pos 128 = tenResult h.req 6 [] 0 st ∧ t.ten.ho = none ∧
        t.tenTab h.k = h.oldTen ∧ ∀ i ∈ h.grants, t.reg (0xB10000 + 8 * i) = 0)) ∧
    (s.ten.ho = none → exec .handoffRetagDone s = .next s) ∧
    (∀ e, s.tenSvc = none ∨ s.ten.chg = [] ∨ s.ten.chg.head?.map (·.1) ≠ some e → exec (.tenantEventWrite e) s = .next s) ∧
    (s.tenSvc = some w → s.rb 0xB00040 0 = false → ∀ c l, s.ten.chg = c :: l →
      ∃ t, exec (.tenantEventWrite c.1) s = .next t ∧ t.regs = s.regs ∧ t.bank = s.bank ∧ t.ten = { s.ten with chg := l }) ∧
    (∀ k b l, s.tenSvc = some w → s.ten.chg = (.skeinDefect k, b) :: l → s.rb 0xB00040 0 = true → s.rb 0xB00040 1 = false → s.ten.heldRs = [] → s.ten.heldEv = [] →
      s.tevFull = false → mine evp 32 → ∃ t, exec (.tenantEventWrite (.skeinDefect k)) s = .next t ∧
        t.bytes evp 32 = tenEvent s.bolt (s.tenTab k) 1 (s.objOf k) 0
          (w32 ((List.range 5).map (fun i => if s.declS k i && !s.maskedS k i then 2 ^ i else 0)).sum) ∧
        t.reg 0xB00010 = s.reg 0xB00010 ||| 2 ∧ (∀ x, x < evp ∨ evp + 32 ≤ x → t.byteAt x = s.byteAt x)) ∧
    (∀ b, s.ten.hbAt = some b → 8 ≤ since s.bolt b → ∃ t, exec .tenAgentLost s = .next t ∧ t.ten = { s.ten with hbAt := none } ∧
      t.reg 0xB00010 = s.reg 0xB00010 ||| 8 ∧ ∀ a, a ≠ 0xB00010 → t.reg a = s.reg a) ∧
    (∀ b, s.ten.hbAt = some b → since s.bolt b < 8 → exec .tenAgentLost s = .next s)

/-- O41. For every state and master whose write reaches the unit: a shared unit is claimed when free, released by its owner alone with its
register preset, and another's attempt is only counted; a unit that is powered, not held by another and not running folds the data bytes
written, is preset by INIT, takes its running register, and starts a run; during a run data writes are refused, INIT still presets it,
RUN_BLOCK starts again and ABORT ends the run without ERR; a write to a unit held by another is refused and counted; a run over bytes of
good words folds exactly those bytes in order and shows their count. No byte of a bank and no other unit changes. -/
def Obligations.BlazeUnits : Prop :=
  ∀ (s : State) (m : Mid) (v : Word),
    (∀ u : Fin 8, let k := 64 + u.val
      let b := s.unit k
      (passes s m (blzU k 0xC) 1 →
        (b.held = false → exec (.blzClaim m u) s = .next ((s.modUnit k (fun b => { b with held := true, owner := m })).answer 0)) ∧
        (b.held = true → b.owner = m → exec (.blzClaim m u) s = .next (s.answer 0)) ∧
        (b.held = true → b.owner ≠ m → exec (.blzClaim m u) s = .next ((s.setReg 0x80068 (s.reg 0x80068 + 1)).answer 0))) ∧
      (passes s m (blzU k 0xC) 0 →
        (b.held = true → b.owner = m → b.busy = false → ∃ t, exec (.blzRelease m u) s = .next t ∧ (t.unit k).held = false ∧
          (t.unit k).run = BitVec.ofNat 64 (polyInit (s.uPoly k)) ∧ (∀ j, j ≠ k → t.unit j = s.unit j) ∧ t.regs = s.regs) ∧
        (b.held = true → b.owner ≠ m → exec (.blzRelease m u) s = .next ((s.setReg 0x80068 (s.reg 0x80068 + 1)).answer 0)))) ∧
    (∀ u : Fin 72,
      let b := s.unit u.val
      let p := s.uPoly u.val
      let only := fun (o : Host.Outcome State Fault Refusal) (x : BlzUnit) => ∃ t, o = .next t ∧ t.unit u.val = x ∧
        (∀ j, j ≠ u.val → t.unit j = s.unit j) ∧ t.regs = s.regs ∧ t.bank = s.bank ∧ t.resp = { data := 0, status := .ok }
      let refused := fun (o : Host.Outcome State Fault Refusal) => only o { b with refused := true }
      (s.unitOn u.val = true → s.unitHeld m u.val = false →
        (passes s m (blzU u.val 0x20) v →
          (b.busy = false → only (exec (.blzUdata32Write m u v) s) { b with run := (beBytes 4 v.toNat).foldl (runStep p) b.run }) ∧
          (b.busy = true → refused (exec (.blzUdata32Write m u v) s))) ∧
        (passes s m (blzU u.val 0x24) v →
          (b.busy = false → only (exec (.blzUdata8Write m u v) s) { b with run := runStep p b.run (v.setWidth 8) }) ∧
          (b.busy = true → refused (exec (.blzUdata8Write m u v) s))) ∧
        (passes s m (blzU u.val 4) 1 →
          (b.busy = false → only (exec (.blzInit m u) s) { b with run := BitVec.ofNat 64 (polyInit p), refused := false, err := false }) ∧
          (b.busy = true → ∃ t, exec (.blzInit m u) s = .next t ∧
            t.unit u.val = { b with run := BitVec.ofNat 64 (polyInit p), refused := false, err := false } ∧
            (∀ j, j ≠ u.val → t.unit j = s.unit j) ∧ t.bank.mem = s.bank.mem)) ∧
        (passes s m (blzU u.val 4) 4 →
          (b.busy = false → exec (.blzAbort m u) s = .next (s.answer 0)) ∧
          (b.busy = true → ∃ t, exec (.blzAbort m u) s = .next t ∧ (t.unit u.val).busy = false ∧ (t.unit u.val).held = b.held ∧
            (t.unit u.val).err = b.err ∧ (t.unit u.val).refused = b.refused ∧
            (∀ j, j ≠ u.val → t.unit j = s.unit j) ∧ t.bank.mem = s.bank.mem)) ∧
        (∀ hi : Bool, passes s m (blzU u.val (if hi then 0x14 else 0x10)) v → b.busy = false →
          only (exec (.blzUrunWrite m u hi v) s) { b with run := setFld b.run (if hi then 32 else 0) 32 v.toNat }) ∧
        (passes s m (blzU u.val 4) 2 → b.busy = false → ∃ t, exec (.blzRunBlock m u false) s = .next t ∧
          t.unit u.val = { b with busy := true, err := false } ∧ t.reg (blzU u.val 0x30) = 0 ∧ ∀ a, a ≠ blzU u.val 0x30 → t.reg a = s.reg a) ∧
        (passes s m (blzU u.val 4) 3 → b.busy = false → ∃ t, exec (.blzRunBlock m u true) s = .next t ∧
          t.unit u.val = { b with run := BitVec.ofNat 64 (polyInit p), busy := true, refused := false, err := false } ∧ t.reg (blzU u.val 0x30) = 0) ∧
        (passes s m (blzU u.val 4) 2 → b.busy = true → ∃ t, exec (.blzRunBlock m u false) s = .next t ∧ (t.unit u.val).busy = true ∧
          (t.unit u.val).err = false ∧ t.reg (blzU u.val 0x30) = 0 ∧ (∀ j, j ≠ u.val → t.unit j = s.unit j) ∧ t.bank.mem = s.bank.mem)) ∧
      (s.unitOn u.val = true → s.unitHeld m u.val = true → passes s m (blzU u.val 0x20) v → ∃ t, exec (.blzUdata32Write m u v) s = .next t ∧
        t.unit u.val = { b with refused := true } ∧ t.reg 0x80068 = s.reg 0x80068 + 1) ∧
      (s.unitOn u.val = false → passes s m (blzU u.val 0x20) v → exec (.blzUdata32Write m u v) s =
        .next ((s.setReg 0x80064 (s.reg 0x80064 + 1)).answer 0)) ∧
      (let a := s.rf (blzU u.val 0x28) 0 23
       let n := s.runLen u.val
       b.busy = true → s.rf (blzU u.val 0x30) 0 24 = 0 → a + n ≤ 0x600000 → (∀ x, a ≤ x → x < a + n → x / 8 ∉ s.bank.unc ∧ s.bankKind (x / 0x20000) ≠ 4) →
         ∃ t, exec (.blzRunDone u) s = .next t ∧ t.unit u.val = { b with run := (s.bytes a n).foldl (runStep p) b.run, busy := false, err := false } ∧
           t.reg (blzU u.val 0x30) = w32 n ∧ t.bank.mem = s.bank.mem ∧ ∀ j, j ≠ u.val → t.unit j = s.unit j) ∧
      (b.busy = false → exec (.blzRunDone u) s = .next s))

/-- O42. For every state: the fold adds each increment to its counter modulo 2^48 with OVF on a wrap, leaves a counter without one, makes a
counter being cleared the bolt's increment alone, shows the bolt and touches neither snapshot nor increments in progress; TLY_CCMD starts
a read or queues a clear of the counter selected, of all of an object for CTR 15, or sets BADIDX; a read completes with the value and OVF
of the live or snapshot counter; snapshot commands arm NOW, or AT where its bolt is still ahead; a snapshot due copies every counter and
is raised; HCLR clears the 64 histogram bins alone. -/
def Obligations.TallyCounters : Prop :=
  ∀ (s : State) (m : Mid),
    let sel := s.reg 0x50044
    let ok := ctrOk (fld sel 18 3) (fld sel 0 18) (fld sel 21 4)
    let key := ctrKey (fld sel 18 3) (fld sel 0 18) (fld sel 21 4)
    (s.tly.foldDue = true → smWf (fun _ => 0) s.tly.fold = true → ∃ t, exec .tallyFold s = .next t ∧ t.reg 0x50058 = s.bolt ∧
      t.tly.foldDue = false ∧ t.tly.fold = [] ∧ t.tly.clr = [] ∧
      (∀ k, k ∉ s.tly.clr → smGet 0 s.tly.fold k = 0 → smGet {} t.tly.live k = smGet {} s.tly.live k) ∧
      (∀ k, k ∉ s.tly.clr → smGet 0 s.tly.fold k ≠ 0 →
        (smGet {} t.tly.live k).v = ((smGet {} s.tly.live k).v + smGet 0 s.tly.fold k) % 2 ^ 48 ∧
        (smGet {} t.tly.live k).ovf = ((smGet {} s.tly.live k).ovf || decide (2 ^ 48 ≤ (smGet {} s.tly.live k).v + smGet 0 s.tly.fold k))) ∧
      (∀ k, k ∈ s.tly.clr → smGet {} t.tly.live k = { v := smGet 0 s.tly.fold k % 2 ^ 48, ovf := false }) ∧
      t.tly.snap = s.tly.snap ∧ t.tly.inc = s.tly.inc) ∧
    (s.tly.foldDue = false → exec .tallyFold s = .next s) ∧
    (reaches s m 0x50048 →
      (ok = true → exec (.tlyRead m) s = .next (((s.setReg 0x5004C 1).modTly (fun t => { t with rd := some sel })).answer 0)) ∧
      (ok = false → exec (.tlyRead m) s = .next ((s.setRf 0x5004C 1 1 1).answer 0)) ∧
      (ok = true → exec (.tlyClear m) s = .next (((s.setReg 0x5004C 1).modTly (fun t => { t with clr := t.clr ++ [key] })).answer 0)) ∧
      (ok = false → fld sel 21 4 ≠ 15 → exec (.tlyClear m) s = .next ((s.setRf 0x5004C 1 1 1).answer 0)) ∧
      (fld sel 21 4 = 15 → ctrOk (fld sel 18 3) (fld sel 0 18) 0 = true → ∃ t, exec (.tlyClear m) s = .next t ∧ t.reg 0x5004C = 1 ∧
        t.tly.live = s.tly.live ∧ ∀ c, c < ctrCount (fld sel 18 3) → ctrKey (fld sel 18 3) (fld sel 0 18) c ∈ t.tly.clr)) ∧
    (∀ c, s.tly.rd = some c → ∃ t, exec .tlyReadDone s = .next t ∧
      let x := smGet {} (if bit c 25 then s.tly.snap else s.tly.live) (ctrKey (fld c 18 3) (fld c 0 18) (fld c 21 4))
      t.reg 0x50050 = w32 x.v ∧ t.reg 0x50054 = w32 (x.v / 2 ^ 32 + x.ovf.toNat * 2 ^ 31) ∧ t.tly = { s.tly with rd := none } ∧
      (s.tly.clr = [] → t.rb 0x5004C 0 = false) ∧ ∀ a, a ∉ [0x50050, 0x50054, 0x5004C] → t.reg a = s.reg a) ∧
    (s.tly.rd = none → exec .tlyReadDone s = .next s) ∧
    (reaches s m 0x50060 →
      exec (.tlySnapNow m) s = .next ((s.modTly (fun t => { t with snapNow := true, snapAt := false })).answer 0) ∧
      (0 < (s.reg 0x50064 - s.bolt).toNat → (s.reg 0x50064 - s.bolt).toNat < 2 ^ 31 →
        exec (.tlySnapAt m) s = .next ((s.modTly (fun t => { t with snapNow := false, snapAt := true })).answer 0)) ∧
      (s.reg 0x50064 = s.bolt → exec (.tlySnapAt m) s = .next ((s.modTly (fun t => { t with snapNow := true, snapAt := false })).answer 0))) ∧
    (∀ b, s.tly.snapDue = some b → s.tly.foldDue = false → ∃ t, exec .snapshot s = .next t ∧ t.tly = { s.tly with snap := s.tly.live, snapDue := none } ∧
      t.reg 0x50068 = b ∧ t.reg 0x50010 = s.reg 0x50010 ||| 2 ∧ ∀ a, a ≠ 0x50068 → a ≠ 0x50010 → t.reg a = s.reg a) ∧
    (s.tly.snapDue = none ∨ s.tly.foldDue = true → exec .snapshot s = .next s) ∧
    (reaches s m 0x5008C → ∃ t, exec (.tlyHclr m) s = .next t ∧ (∀ i, i < 64 → t.reg (0x50100 + 4 * i) = 0) ∧ t.tly = s.tly ∧
      ∀ a, a < 0x50100 ∨ 0x50200 ≤ a → t.reg a = s.reg a)

/-- O43. For every state and port: a bolt record still to write is written whole at its place where Tally may write the bank, and no other
byte, and the last one shows the bolt; where Tally may not, no byte changes, and it is counted and raised; one already written does
nothing. The weaver that holds PERF for the port takes each bolt's record once into its quarter and day bins when it is whole, and passes
over one that is not, and a bin of which it missed bolts starts again; without such a weaver nothing happens. -/
def Obligations.BoltRecordsAndPerf : Prop :=
  ∀ (s : State) (p : Fin 8),
    let a := s.recAt p.val s.tly.recBolt
    (p.val ∈ s.tly.recLeft → s.winWaits 71 a 8192 = false → a / 0x20000 < 48 → s.mayWrite (a / 0x20000) 71 = true → ∃ t, exec (.boltRecordWrite p) s = .next t ∧
      t.bytes a 8192 = s.boltRecord p.val ∧ (∀ x, x < a ∨ a + 8192 ≤ x → t.byteAt x = s.byteAt x) ∧
      t.tly.recLeft = s.tly.recLeft.filter (· ≠ p.val) ∧ (s.tly.recLeft = [p.val] → t.reg 0x50074 = s.tly.recBolt) ∧
      ∀ x, x ≠ 0x50074 → t.reg x = s.reg x) ∧
    (p.val ∈ s.tly.recLeft → s.winWaits 71 a 8192 = false → a / 0x20000 < 48 → s.mayWrite (a / 0x20000) 71 = false → ∃ t, exec (.boltRecordWrite p) s = .next t ∧
      (∀ x, t.byteAt x = s.byteAt x) ∧ t.reg 0x50078 = s.reg 0x50078 + 1 ∧ t.reg 0x50010 = s.reg 0x50010 ||| 4 ∧
      t.tly.recLeft = s.tly.recLeft.filter (· ≠ p.val)) ∧
    (p.val ∉ s.tly.recLeft → exec (.boltRecordWrite p) s = .next s) ∧
    (let m := s.bolt - 1
     let x := smGet {} s.tly.perf p.val
     let bs := s.winBytes (s.recAt p.val m) 8192
     let st := w32 (m.toNat / 3515625 * 3515625)
     let th := if s.reg 0x50068 = st then some (s.snapThreads p.val) else none
     let b : PerfBin := if x.q.start = st then { x.q with th0 := x.q.th0.or th } else { start := st, th0 := th }
     ∀ w, s.holder 3 p.val = some w → s.winWaits (BitVec.ofNat 8 w) (s.recAt p.val m) 8192 = false → x.last ≠ some m → p.val ∉ s.tly.recLeft → s.tly.snapDue = none →
       m.toNat % 3515625 ≠ 3515624 → m.toNat % 337500000 ≠ 337499999 → ∃ t, exec (.perfCollect p) s = .next t ∧
         (smGet {} t.tly.perf p.val).last = some m ∧ (recWhole bs m = true → (smGet {} t.tly.perf p.val).q = b.take bs) ∧
         (recWhole bs m = false → (smGet {} t.tly.perf p.val).q = b) ∧ (∀ j, j ≠ p.val → smGet {} t.tly.perf j = smGet {} s.tly.perf j) ∧
         t.bank.mem = s.bank.mem ∧ t.bank.unc = s.bank.unc) ∧
    (s.holder 3 p.val = none → exec (.perfCollect p) s = .next s)

/-- O44. For every state: reading BEAT_DCO_LO gives the DCO value and latches its high byte; the DCO is written, low half held and high half
pending, only in FREE_RUN with DCO_WREN, and is logged otherwise; a monitor window of an enabled candidate shows its offset and sets
FREQ_OK within ACC, clears it beyond REJ and keeps it between; activity gaps and a window without one act on a REF input alone; a
candidate whose conditions have held for the qualification time qualifies and is raised, and not before; a QL changes after 3 equal codes;
the FREF pins are taken and raised when they change; the loss of the selected input holds the phase detector. -/
def Obligations.BeatInputs : Prop :=
  ∀ (s : State) (m : Mid) (v : Word),
    (readable s m 0x20068 → exec (.beatDcoLoRead m) s = .next
      ((s.modBeat (fun b => { b with hiLatch := BitVec.ofNat 8 (unsigned 40 s.dcoNow >>> 32) })).answer ((w32 (unsigned 40 s.dcoNow)).setWidth 64))) ∧
    (reaches s m 0x20068 →
      (s.rb 0x20040 1 = true → s.beat.mode = .freeRun → exec (.beatDcoLoWrite m v) s = .next ((s.modBeat (fun b => { b with loHeld := v })).answer 0)) ∧
      (s.rb 0x20040 1 = false ∨ s.beat.mode ≠ .freeRun → exec (.beatDcoLoWrite m v) s = .next ((s.errlog 0x20000 0x68 m).answer 0))) ∧
    (reaches s m 0x2006C →
      (s.rb 0x20040 1 = true → s.beat.mode = .freeRun → exec (.beatDcoHiWrite m v) s = .next
        ((s.modBeat (fun b => { b with dcoPend := some (signed 40 (b.loHeld.toNat + fld v 0 8 * 2 ^ 32)) })).answer 0)) ∧
      (s.rb 0x20040 1 = false ∨ s.beat.mode ≠ .freeRun → exec (.beatDcoHiWrite m v) s = .next ((s.errlog 0x20000 0x6C m).answer 0))) ∧
    (∀ (c : Fin 24) (ppb : Int), s.candOn c.val = true → s.candWindow c.val ≤ since s.bolt (s.cand c.val).monAt → s.tst.pert = false →
      ∃ t, exec (.freqMonitorWindow c ppb) s = .next t ∧ t.reg (beatA (0x300 + 4 * c.val)) = w32 (unsigned 32 ppb) ∧
        (ppb.natAbs ≤ s.accPpb → t.cand c.val = { s.cand c.val with freqOk := true }) ∧
        (s.rejPpb < ppb.natAbs → t.cand c.val = { s.cand c.val with freqOk := false }) ∧
        (s.accPpb < ppb.natAbs → ppb.natAbs ≤ s.rejPpb → t.cand c.val = s.cand c.val) ∧
        (∀ j, j ≠ c.val → t.cand j = s.cand j) ∧ ∀ a, a ≠ beatA (0x300 + 4 * c.val) → t.reg a = s.reg a) ∧
    (∀ c : Fin 24, s.candOn c.val = false → ∀ ppb, exec (.freqMonitorWindow c ppb) s = .next s) ∧
    (∀ c : Fin 8, s.candOn c.val = true →
      (s.jtag.frozen = false → exec (.refActivityGap c) s = .next (s.modCand c.val (fun k => { k with gapNow := true }))) ∧
      ((s.cand c.val).active = false → (s.cand c.val).gapNow = false → s.candWindow c.val ≤ since s.bolt (s.cand c.val).gapAt →
        exec (.refActiveRestored c) s = .next (s.modCand c.val (fun k => { k with active := true }))) ∧
      (since s.bolt (s.cand c.val).gapAt < s.candWindow c.val → exec (.refActiveRestored c) s = .next s)) ∧
    (∀ (c : Fin 24) (b : Word), s.candGood c.val = true → (s.cand c.val).qual = false → (s.cand c.val).goodFrom = some b →
      (256 * s.rf 0x2005C 0 12 ≤ since s.bolt b → ∃ t, exec (.candidateQualified c) s = .next t ∧
        t.cand c.val = { s.cand c.val with qual := true, acqFail := false } ∧ (∀ j, j ≠ c.val → t.cand j = s.cand j) ∧
        t.reg 0x20010 = s.reg 0x20010 ||| 4 ∧ ∀ a, a ≠ 0x20010 → t.reg a = s.reg a) ∧
      (since s.bolt b < 256 * s.rf 0x2005C 0 12 → exec (.candidateQualified c) s = .next s)) ∧
    (∀ c : Fin 24, s.candGood c.val = false → exec (.candidateQualified c) s = .next s) ∧
    (∀ c : Fin 24, 8 ≤ c.val → (s.cand c.val).qlNew ≠ (s.cand c.val).ql →
      (3 ≤ (s.cand c.val).qlRep → exec (.lrQlChange c) s = .next (s.modCand c.val (fun k => { k with ql := (s.cand c.val).qlNew }))) ∧
      ((s.cand c.val).qlRep < 3 → exec (.lrQlChange c) s = .next s)) ∧
    (∀ (e : Bool) (f : BitVec 5), s.jtag.frozen = false → e ≠ s.beat.enN ∨ f ≠ s.beat.fsel → ∃ t, exec (.frefPinChange e f) s = .next t ∧
      t.beat = { s.beat with enN := e, fsel := f } ∧ t.reg 0x20010 = s.reg 0x20010 ||| 8 ∧ ∀ a, a ≠ 0x20010 → t.reg a = s.reg a) ∧
    (exec (.frefPinChange s.beat.enN s.beat.fsel) s = .next s) ∧
    (∀ c, s.beat.sel = some c → s.beat.mode = .acquiring ∨ s.beat.mode = .locked →
      (s.inputLost c = true → exec .selectedRefLost s = .next (s.modBeat (fun b => { b with hold := true }))) ∧
      (s.inputLost c = false → exec .selectedRefLost s = .next s)) ∧
    (s.beat.sel = none → exec .selectedRefLost s = .next s)

/-- O45. For every state: acquisition moves on a stage after 64 good bolts, locks after 256, loses lock after 16 bad ones for stage 1 with the
input and DCO kept and a marker align cancelled, and fails its input after ACQ_TMO; holdover ends in LOST after HO_MAX, never for 0;
HO_VALID is set with the average after HO_MIN and at least 65 bolts LOCKED, and cleared by CLR_HO; a pull ends when made; GO is taken
unless an align runs or is due, and acts at the next boundary; CANCEL ends a marker align, an align without what it needs ends NOREF,
NOPHASE or RANGE with no move, an offset align slews its offset or, with STEP, moves the nearest number of whole picks, slews the rest and
recentres the lanes, and its end is raised; PPS_OUT edges leave at picks 0, 25,096, 50,192 and 75,288 of bolts 0, 3,906, 7,812 and 11,718
of the cycle, once each. -/
def Obligations.BeatLoopAndAlign : Prop :=
  ∀ (s : State) (m : Mid),
    let b := s.beat
    let ends := fun (o : Host.Outcome State Fault Refusal) (r : AlignRes) => ∃ t, o = .next t ∧ t.beat.alBusy = false ∧ t.beat.alRes = r ∧
      t.beat.alLeft = 0 ∧ t.beat.mode = b.mode ∧ t.beat.sel = b.sel ∧ t.beat.theta = b.theta ∧ bit (t.reg 0x20010) 5 = true
    (b.mode = .acquiring → b.stage < 2 →
      (64 ≤ b.stageCnt → exec .loopStageAdvance s = .next (s.modBeat (fun b => { b with stage := b.stage + 1, stageCnt := 0, lockCnt := 0 }))) ∧
      (b.stageCnt < 64 → exec .loopStageAdvance s = .next s)) ∧
    (b.mode = .acquiring → b.stage = 2 →
      (256 ≤ b.lockCnt → ∃ t, exec .beatLocked s = .next t ∧ t.beat = { b with mode := .locked, lockedAt := s.bolt, hist := [], badCnt := 0 } ∧
        bit (t.reg 0x20010) 0 = true) ∧
      (b.lockCnt < 256 → exec .beatLocked s = .next s)) ∧
    (b.mode = .locked →
      (16 ≤ b.badCnt → ∃ t, exec .beatLockLost s = .next t ∧ t.beat.mode = .acquiring ∧ t.beat.stage = 1 ∧ t.beat.sel = b.sel ∧ t.beat.acqAt = s.bolt ∧
        t.beat.hoValid = b.hoValid ∧ t.beat.dco = b.dco ∧ bit (t.reg 0x20010) 0 = true ∧
        (b.alBusy = true → b.alSrc = false → t.beat.alBusy = false ∧ t.beat.alRes = .cancelled)) ∧
      (b.badCnt < 16 → exec .beatLockLost s = .next s)) ∧
    (∀ c, b.sel = some c → b.mode = .acquiring →
      (15625 * max 1 (fld b.loop 16 8) ≤ since s.bolt b.acqAt → ∃ t, exec .beatAcqTimeout s = .next t ∧
        t.cand c = { s.cand c with acqFail := true, qual := false, goodFrom := none } ∧ ∀ j, j ≠ c → t.cand j = s.cand j) ∧
      (since s.bolt b.acqAt < 15625 * max 1 (fld b.loop 16 8) → exec .beatAcqTimeout s = .next s)) ∧
    (b.mode = .holdover → fld b.hocfg 16 16 ≠ 0 → 15625 * fld b.hocfg 16 16 ≤ since s.bolt b.hoAt → ∃ t, exec .holdoverMaxExpire s = .next t ∧
      t.beat.mode = .lost ∧ t.beat.sel = b.sel ∧ t.beat.dco = b.dco ∧ bit (t.reg 0x20010) 6 = true) ∧
    (fld b.hocfg 16 16 = 0 → exec .holdoverMaxExpire s = .next s) ∧
    (b.mode = .locked → max 65 (15625 * fld b.hocfg 0 8) ≤ since s.bolt b.lockedAt → b.hoValid = false →
      exec .hoValidSet s = .next (s.modBeat (fun b => { b with hoValid := true, hov := b.average }))) ∧
    (b.mode ≠ .locked → exec .hoValidSet s = .next s) ∧
    (b.pulling = true → b.pull = 0 → exec .pullComplete s = .next (s.modBeat (fun b => { b with pulling := false }))) ∧
    (b.pull ≠ 0 → exec .pullComplete s = .next s) ∧
    (reaches s m 0x20064 → exec (.beatClrHo m) s = .next ((s.modBeat (fun b => { b with hoValid := false })).answer 0)) ∧
    (reaches s m 0x20098 →
      (b.alBusy = false → b.alDue = false → exec (.beatAlignGo m) s = .next ((s.modBeat (fun b => { b with alGo := true })).answer 0)) ∧
      (b.alBusy = true ∨ b.alDue = true → exec (.beatAlignGo m) s = .next (s.answer 0)) ∧
      (b.alBusy = true → b.alSrc = false → ends (exec (.beatAlignCancel m) s) .cancelled) ∧
      (b.alBusy = false ∨ b.alSrc = true → exec (.beatAlignCancel m) s = .next (s.answer 0))) ∧
    (b.alDue = false → ∀ x, exec (.alignStart x) s = .next s) ∧
    (b.alDue = true → ∀ x : Int,
      let ofs := signed 32 (s.reg 0x20094).toNat
      (s.rb 0x20090 2 = false → b.mode ≠ .locked → ends (exec (.alignStart x) s) .noref) ∧
      (s.rb 0x20090 2 = true ∨ b.mode = .locked → s.rb 0x20090 0 = true → (b.sel.map s.isPps).getD false = false →
        ends (exec (.alignStart x) s) .nophase) ∧
      (s.rb 0x20090 2 = true → s.rb 0x20090 0 = false →
        (128000 < ofs.natAbs → ends (exec (.alignStart x) s) .range) ∧
        (ofs.natAbs ≤ 128000 → s.rb 0x20090 1 = false → ∃ t, exec (.alignStart x) s = .next t ∧ t.beat.alBusy = true ∧ t.beat.alDue = false ∧
          t.beat.alSrc = true ∧ t.beat.alTgt = false ∧ t.beat.alRes = .none ∧ t.beat.alLeft = 1000000 * ofs ∧ t.beat.alStep = 0 ∧
          t.beat.theta = b.theta ∧ t.beat.mode = b.mode ∧ t.regs = s.regs) ∧
        (ofs.natAbs ≤ 128000 → s.rb 0x20090 1 = true → ∃ t, exec (.alignStart x) s = .next t ∧ t.beat.alBusy = true ∧
          t.beat.alStep = (2 * ofs * 1000 * 100384 + 256000000) / (2 * 256000000) ∧
          t.beat.alLeft = 1000000 * ofs - (t.beat.alStep * 256000000000) / 100384 ∧ (t.beat.alStep ≠ 0 → ∀ l, t.recentreDue l = true) ∧
          t.regs = s.regs))) ∧
    (b.alBusy = true → b.alLeft = 0 → b.alStep = 0 → ends (exec .alignComplete s) .done ∧
      (b.alTgt = false → ∃ t, exec .alignComplete s = .next t ∧ t.reg 0x2007C = 0 ∧ t.beat.ppsRst = b.alMark)) ∧
    (b.alLeft ≠ 0 ∨ b.alStep ≠ 0 → exec .alignComplete s = .next s) ∧
    (∀ k, s.ppsPick = some k → b.ppsDone = false → s.jtag.frozen = false → exec .ppsOutEdge s = .next
      { s with out := s.out ++ [.pps k ((s.rf 0x20088 0 30 : Nat) + signed 32 (s.reg 0x200A8).toNat)], beat := { b with ppsDone := true } }) ∧
    (s.ppsPick = none ∨ b.ppsDone = true → exec .ppsOutEdge s = .next s) ∧
    (s.rf 0x20084 0 14 = 0 → s.ppsPick = some 0) ∧ (s.rf 0x20084 0 14 = 3906 → s.ppsPick = some 25096) ∧
    (s.rf 0x20084 0 14 = 7812 → s.ppsPick = some 50192) ∧ (s.rf 0x20084 0 14 = 11718 → s.ppsPick = some 75288)

/-- O46. For every state: PWR_DOM_CTRL stores the requests, in force from the next boundary. A tile due to sleep loses its lanes and link and
answers what waits for it, its registers and maps stay; one due to start keeps them but for its status registers; once up it has a link
and every lane starts with LOS, LOL and LOF declared. A cluster goes off only with every weaver IDLE or OFF, once nothing of it is
outstanding, a stack only out of SELV_CFG; else the bit stays 1, and it is logged and raised. Clusters that power on become IDLE, stacks
ready. Loss of the input clears everything but fuses and flash; four bolts above 125 degree C trip the module: the AON registers, the Beat
and the lease stay. Nothing acts that is not due. -/
def Obligations.PowerRequests : Prop :=
  ∀ (s : State) (m : Mid) (v : Word),
    let noted := [0x10010, 0x60010, 0x60088]
    let refused := fun (o : Host.Outcome State Fault Refusal) (i : Nat) => ∃ t, o = .next t ∧ bit (t.reg 0x10040) i = true ∧
      t.reg 0x10020 = w32 (0x80000000 + s.pwr.domBy.toNat * 0x1000 + 0x40) ∧ t.reg 0x10010 = s.reg 0x10010 ||| 4 ∧ t.wvr = s.wvr ∧
      t.prot = s.prot ∧ bit t.pwr.domOn i = true ∧ ∀ a, a ∉ [0x10010, 0x10020, 0x10040] → t.reg a = s.reg a
    (reaches s m 0x10040 → ∃ t, exec (.pwrDomCtrlWrite m v) s = .next t ∧ t.reg 0x10040 = v &&& 0x3FFFF ∧ t.pwr.domBy = m ∧
      t.pwr.domOn = s.pwr.domOn ∧ ∀ a, a ≠ 0x10040 → t.reg a = s.reg a) ∧
    (∀ p : Fin 8,
      (s.pwr.cdpOn = true → s.want p.val = false → s.domUp p.val = true → ∃ t, exec (.portTileSleep p) s = .next t ∧ t.reach p.val = false ∧
        t.domUp p.val = false ∧ (∀ q, q ≠ p.val → t.port q = s.port q) ∧ (∀ l, l / 64 = p.val → t.lane l = {}) ∧
        (∀ l, l / 64 ≠ p.val → t.lane l = s.lane l) ∧ t.loom = s.loom ∧
        (∀ e ∈ t.tst.shedQ, targetOf e.a ≠ some (.regp p.val)) ∧
        (s.tst.shedQ = [] → ∀ a, a ∉ noted → t.reg a = s.reg a)) ∧
      (s.pwr.cdpOn = false ∨ s.want p.val = true ∨ s.domUp p.val = false → exec (.portTileSleep p) s = .next s) ∧
      (s.startDue p.val = true → ∃ t, exec (.portTileWake p) s = .next t ∧ (t.port p.val).waking = true ∧ t.startDue p.val = false ∧
        (∀ q, q ≠ p.val → t.port q = s.port q) ∧ t.loom = s.loom ∧
        ∀ a, t.reg a = if inPort p.val a && isStatus a then resetOf a else s.reg a) ∧
      (s.startDue p.val = false → exec (.portTileWake p) s = .next s) ∧
      ((s.port p.val).waking = true → ∃ t, exec (.portTileUp p) s = .next t ∧ t.reach p.val = true ∧ (t.port p.val).waking = false ∧
        (∀ q, q ≠ p.val → t.port q = s.port q) ∧ (∀ l, l / 64 = p.val → t.lane l = { lostIn := true } ∧
          ∀ d, d ∈ [0, 1, 3] → (t.integ1 (laneKey l d)).decl = true ∧ (t.integ1 (laneKey l d)).eff = true) ∧
        (∀ l, l / 64 ≠ p.val → t.lane l = s.lane l) ∧ t.loom = s.loom ∧ ∀ a, a ∉ noted → t.reg a = s.reg a) ∧
      ((s.port p.val).waking = false → exec (.portTileUp p) s = .next s)) ∧
    (∀ c : Fin 8,
      let mine := fun w => w / 8 = c.val
      (s.pwr.cdpOn = true → s.want (8 + c.val) = false → s.clusterOn c.val = true →
        ((∀ w, mine w → (s.weaver w).st = .idle ∨ (s.weaver w).st = .off) → (∃ w, mine w ∧ s.portIdle w = false) →
          exec (.clusterPowerOff c) s = .next s) ∧
        ((∀ w, mine w → ((s.weaver w).st = .idle ∨ (s.weaver w).st = .off) ∧ s.portIdle w = true) → ∃ t, exec (.clusterPowerOff c) s = .next t ∧
          (∀ w, mine w → (t.weaver w).st = .off ∧ (t.weaver w).powering = false) ∧ (∀ w, ¬ mine w → t.weaver w = s.weaver w)) ∧
        (∀ w, mine w → (s.weaver w).st ≠ .idle → (s.weaver w).st ≠ .off → refused (exec (.clusterPowerOff c) s) (8 + c.val))) ∧
      (s.want (8 + c.val) = true → exec (.clusterPowerOff c) s = .next s) ∧
      (s.startDue (8 + c.val) = true → ∃ t, exec (.clusterPowerOn c) s = .next t ∧ t.clusterOn c.val = true ∧
        (∀ w, mine w → t.weaver w = { s.weaver w with powering := true }) ∧ (∀ w, ¬ mine w → t.weaver w = s.weaver w)) ∧
      (s.startDue (8 + c.val) = false → exec (.clusterPowerOn c) s = .next s) ∧
      ((s.weaver (8 * c.val)).powering = true → s.fmn.rolesLeft = [] → ∃ t, exec (.clusterIdle c) s = .next t ∧
        (∀ w, mine w → (s.weaver w).powering = true → (t.weaver w).st = .idle ∧ (t.weaver w).powering = false) ∧
        ∀ w, ¬ mine w → t.weaver w = s.weaver w) ∧
      ((s.weaver (8 * c.val)).powering = false → exec (.clusterIdle c) s = .next s)) ∧
    (∀ h : Fin 2,
      (s.startDue (16 + h.val) = true → ∃ t, exec (.hbmPowerOn h) s = .next t ∧ bit t.prot.hbmOn h.val = true ∧
        bit t.prot.hbmReady h.val = bit s.prot.hbmReady h.val ∧ ∀ a, a ∉ noted → t.reg a = s.reg a) ∧
      (s.startDue (16 + h.val) = false → exec (.hbmPowerOn h) s = .next s) ∧
      (bit s.prot.hbmOn h.val = true → bit s.prot.hbmReady h.val = false → ∃ t, exec (.hbmReady h) s = .next t ∧
        bit t.prot.hbmReady h.val = true ∧ t.prot.hbmOn = s.prot.hbmOn ∧ t.regs = s.regs) ∧
      (s.pwr.cdpOn = true → s.want (16 + h.val) = false → bit s.prot.hbmOn h.val = true →
        (s.rb 0xA80040 h.val = true → refused (exec (.hbmPowerOff h) s) (16 + h.val)) ∧
        (s.rb 0xA80040 h.val = false → ∃ t, exec (.hbmPowerOff h) s = .next t ∧ bit t.prot.hbmOn h.val = false ∧
          bit t.prot.hbmReady h.val = false ∧ ∀ a, a ∉ noted → t.reg a = s.reg a))) ∧
    (s.pwr.inRange = true → ∃ t, exec .powerOff s = .next t ∧ t.regs = [] ∧ t.bank.mem = [] ∧ t.fmn.holder = 0 ∧ t.pwr.cdpOn = false ∧
      t.pwr.inRange = false ∧ t.bank.fused = s.bank.fused ∧ t.mbx.slot0 = s.mbx.slot0 ∧ t.mbx.slot1 = s.mbx.slot1 ∧
      (∀ p, t.reach p = false) ∧ ∀ w, w < 64 → (t.weaver w).st = .off) ∧
    (s.pwr.cdpOn = true → (∃ e ∈ s.pwr.hot, 4 ≤ e.2) → ∃ t, exec .thermalTrip s = .next t ∧ t.pwr.tripped = true ∧ t.pwr.cdpOn = false ∧
      t.beat = s.beat ∧ t.fmn.holder = s.fmn.holder ∧ t.fmn.gen = s.fmn.gen ∧ t.fmn.remain = s.fmn.remain ∧
      (∀ a, t.reg a = if aonReg a then s.reg a else resetOf a) ∧ (∀ p, t.reach p = false) ∧ ∀ w, w < 64 → (t.weaver w).st = .off) ∧
    (s.pwr.cdpOn = false ∨ (∀ e ∈ s.pwr.hot, e.2 < 4) → exec .thermalTrip s = .next s)

/-- O47. For every state and master: power-on in range and RESET_N low for 10 us or more ask for a cold reset at once; 0x7E57 in GLB_RST_KEY
arms its writer alone; a GLB_RST_CMD write counts only from PCIe, JTAG, the SMBus target with its strap or the lease holder, armed within
64 bolts: any other is logged alone; it asks for its kind, from the next boundary, or at once where a weaker reset is in progress, and a
request as strong stands before it. Every boundary, while the CDP domain runs and no trip is due, makes the request that stands due. -/
def Obligations.ResetRequests : Prop :=
  ∀ (s : State) (m : Mid) (v : Word),
    let asked := fun (o : Host.Outcome State Fault Refusal) (r : Nat × Nat × Mid) => ∃ t, o = .next t ∧ t.pwr.req = some r ∧
      t.regs = s.regs ∧ t.pwr.inProg = s.pwr.inProg ∧ t.fmn = s.fmn ∧ t.beat = s.beat ∧ t.loom = s.loom ∧ t.bank = s.bank
    let cmd := fun (o : Host.Outcome State Fault Refusal) (kind : Nat) =>
      (s.rstMaster m = true → s.rstArmed m = true → s.pwr.req = none →
        (rank s.pwr.inProg < rank kind → asked o (kind, 4, m)) ∧
        (s.pwr.inProg = 0 → s.pwr.due = false → ∃ t, o = .next t ∧ t.pwr.due = false) ∧
        (s.pwr.inProg ≠ 0 → rank s.pwr.inProg < rank kind → ∃ t, o = .next t ∧ t.pwr.due = true) ∧
        (rank kind ≤ rank s.pwr.inProg → o = .next (s.answer 0))) ∧
      (∀ r, s.rstMaster m = true → s.rstArmed m = true → s.pwr.req = some r →
        (rank r.1 < rank kind → asked o (kind, 4, m)) ∧ (rank kind ≤ rank r.1 → o = .next (s.answer 0))) ∧
      (s.rstMaster m = false ∨ s.rstArmed m = false → o = .next ((s.setReg 0x20 (w32 (0x80000000 + m.toNat * 0x1000 + 0x84))).answer 0))
    (∀ straps : BitVec 12,
      (s.pwr.inRange = true → exec (.powerOn straps) s = .next s) ∧
      (s.pwr.inRange = false → s.pwr.req = none → s.pwr.inProg = 0 → ∃ t, exec (.powerOn straps) s = .next t ∧ t.pwr.inRange = true ∧
        t.pwr.req = some (1, 1, 0) ∧ t.pwr.due = true ∧ t.pwr.straps = straps.setWidth 16 ∧ t.regs = s.regs)) ∧
    (∀ ns : Nat,
      (ns < 10000 ∨ s.pwr.inRange = false → exec (.resetNAssert ns) s = .next s) ∧
      (10000 ≤ ns → s.pwr.inRange = true → s.pwr.req = none → s.pwr.inProg ≠ 1 →
        asked (exec (.resetNAssert ns) s) (1, if s.pwr.tripped then 3 else 2, 0) ∧
        ∃ t, exec (.resetNAssert ns) s = .next t ∧ t.pwr.due = true)) ∧
    (reaches s m 0x80 →
      (fld v 0 16 = 0x7E57 → ∃ t, exec (.glbRstKeyWrite m v) s = .next t ∧ t.rstArmed m = true ∧ (∀ n, n ≠ m → t.rstArmed n = s.rstArmed n) ∧
        t.regs = s.regs ∧ t.pwr.req = s.pwr.req) ∧
      (fld v 0 16 ≠ 0x7E57 → exec (.glbRstKeyWrite m v) s = .next (s.answer 0))) ∧
    (reaches s m 0x84 → cmd (exec (.glbRstCmdCold m) s) 1 ∧ cmd (exec (.glbRstCmdWarm m) s) 2 ∧ cmd (exec (.glbRstCmdCp m) s) 3) ∧
    (∀ o : BoltObs, boltObsOk o = true → s.pwr.cdpOn = true → (∀ e ∈ s.pwr.hot, e.2 < 4) → ∃ t, exec (.moduleBoltBoundary o) s = .next t ∧ t.bolt = s.bolt + 1 ∧
      t.pwr.due = t.pwr.req.isSome ∧ (∀ r, s.pwr.req = some r → s.pwr.due = false → s.asgNow = false → t.pwr.due = true)) ∧
    (s.rstMaster m = true ↔ m = 66 ∨ m = 68 ∨ (m = 67 ∧ bit s.pwr.straps 1 = true) ∨ s.holderId = some m.toNat)

/-- O48. For every state with that reset due: a cold reset, which after a thermal trip waits while the module is still hot, returns registers,
maps, groups, tables, banks and counters to their reset values but GLB_RST_CAUSE, the strapped PWR_DOM_CTRL and the fuses, applied again,
with no lease and no Foreman, domain or weaver started yet; a control-plane-only reset ends the lease and boots the Foremen that are not
in FAIL, none while FM_HOLD holds them, and leaves lanes, active maps, protection, the Beat and the weavers' states; a warm reset does so
too, returns every RW, W1C and RC register to its reset value, puts awake lanes into HUNT with LOS, LOL and LOF declared, pairs into ACQ,
frees the Skid pool, and lets each weaver load its role again with a new epoch and an empty inbox; two bolts later FINE_ASG gets the
enables of the positions that entries name. Nothing acts that is not due. -/
def Obligations.ResetsPerformed : Prop :=
  ∀ (s : State) (src : Nat) (m : Mid),
    (∀ (straps : BitVec 12) (test : StartTest), testOk test = true →
      (s.resetDue 1 = none → exec (.coldReset straps test) s = .next s) ∧
      (s.resetDue 1 ≠ none → s.pwr.tripped = true → test.hot = true → exec (.coldReset straps test) s = .next s) ∧
      (s.resetDue 1 = some (src, m) → s.pwr.tripped = false ∨ test.hot = false → ∃ t, exec (.coldReset straps test) s = .next t ∧ t.reg 0x88 = rstCause 1 src m ∧
        t.reg 0x10040 = w32 (strapDoms (straps.setWidth 16)) ∧ t.pwr.straps = straps.setWidth 16 ∧
        (∀ a, a ∉ [0x88, 0x10040, 0xD80064] → ¬ (0xD00000 ≤ a ∧ a < 0xD01000) → t.reg a = resetOf a) ∧
        (∀ b, b < 64 → t.rf (bankA (0x200 + 4 * b)) 0 3 = min 4 (s.bank.fused.filter (fun f => decide (f.1 = b))).length) ∧
        t.bank.mem = [] ∧ t.bank.fused = s.bank.fused ∧ t.lanes = [] ∧ t.loom = {} ∧ t.trd = {} ∧ t.fine = {} ∧ t.prot = {} ∧ t.blz = [] ∧
        t.beat = {} ∧ t.bmy = {} ∧ t.ten = {} ∧ t.skid = {} ∧ t.tly = {} ∧ t.fmn.holder = 0 ∧
        t.fmn.startUp = !bit straps 8 ∧ (∀ c, (t.fm c).st = .off) ∧ (∀ i, t.domUp i = false) ∧
        ∀ w, w < 64 → (t.weaver w).role = 0 ∧ (t.weaver w).epoch = 1 ∧ (t.weaver w).st = .off)) ∧
    (s.resetDue 3 = none → exec .cpReset s = .next s) ∧
    (s.resetDue 3 = some (src, m) → ∃ t, exec .cpReset s = .next t ∧ t.reg 0x88 = rstCause 3 src m ∧ t.reg 0x90 = s.reg 0x90 + 1 ∧
      t.headless = true ∧ t.pwr.req = none ∧ t.pwr.inProg = 3 ∧
      (bit s.pwr.straps 8 = false ∨ s.fmn.startSeen = true → s.pwr.tripped = false → (∀ c, (s.fm c).st ≠ .fail) →
        (t.fm s.prefer).st = .boot ∧ (t.fm !s.prefer).st = (if s.fmnCfg 3 then .off else .boot)) ∧
      (bit s.pwr.straps 8 = false ∨ s.fmn.startSeen = true → ∀ c, (s.fm c).st = .fail → s.holds c = false → s.fmn.take.map (·.1) ≠ some c → (t.fm c).st = .fail) ∧
      (bit s.pwr.straps 8 = true → s.fmn.startSeen = false → ∀ c, (t.fm c).st = .off) ∧ t.lanes = s.lanes ∧ t.loom.act = s.loom.act ∧ t.fine.act = s.fine.act ∧
      t.prot = s.prot ∧ t.beat = s.beat ∧ t.trd.q = s.trd.q ∧ ∀ w, w < 64 → (t.weaver w).st = (s.weaver w).st) ∧
    (s.resetDue 2 = none → exec .warmReset s = .next s) ∧
    (s.resetDue 2 = some (src, m) → ∃ t, exec .warmReset s = .next t ∧ t.reg 0x88 = rstCause 2 src m ∧ t.reg 0x8C = s.reg 0x8C + 1 ∧
      (∀ a, warmClears a = true → t.reg a = resetOf a) ∧ t.rb 0x8 0 = false ∧ t.headless = true ∧ t.pwr.inProg = 2 ∧
      t.pwr.warmAt = some s.bolt ∧ t.asgNow = false ∧ t.bolt = s.bolt ∧ t.loom.act = s.loom.act ∧ t.fine.act = s.fine.act ∧ t.trd.q = s.trd.q ∧
      t.skid = {} ∧ t.blz = [] ∧ t.bmy.rxq = [] ∧ t.prot.evq = [] ∧ t.prot.chgq = [] ∧
      (∀ g, (t.grp g).ty = 4 → (t.grp g).align = .acq) ∧
      (∀ l, l < 512 → (s.awake (l / 64) = false → t.lane l = s.lane l) ∧
        (s.awake (l / 64) = true → (t.lane l).framer = .hunt ∧ (t.lane l).cw = false ∧
          ∀ d, d ∈ [0, 1, 3] → (t.integ1 (laneKey l d)).decl = true)) ∧
      ∀ w, w < 64 → ((s.weaver w).st = .off → (t.weaver w).st = .off) ∧
        (t.weaver w).epoch = nextEpoch (s.weaver w).epoch ∧ ((s.weaver w).st ≠ .off → (t.weaver w).inbox = []) ∧
        ((s.weaver w).st ∈ [.run, .sleep, .halt, .fault, .drain] →
          ((s.weaver w).role = 0 → (t.weaver w).st = .idle) ∧
          ((s.weaver w).role ≠ 0 → (t.weaver w).st = .loading ∧ (t.weaver w).next = some ((s.weaver w).role, (s.weaver w).inst)))) ∧
    (s.asgNow = false → exec .warmFineAsgRestore s = .next s) ∧
    (s.asgNow = true → ∃ t, exec .warmFineAsgRestore s = .next t ∧ t.pwr.asgDue = false ∧ t.loom = s.loom ∧
      (let l := s.loom.act.positions ++ s.loom.stb.positions
       (∀ e ∈ l, t.rb (0x902000 + 4 * e.1) (if e.2.1 then 0 else 1) = true ∧
         ((∀ f ∈ l, f.1 = e.1 → f.2.2 = e.2.2) → t.rf (0x902000 + 4 * e.1) 4 12 = e.2.2)) ∧
       ∀ a, (∀ e ∈ l, a ≠ 0x902000 + 4 * e.1) → t.reg a = s.reg a))

/-- O49. For every state and Foreman: a lease write of a Foreman waits for the next tick, of any other master is logged alone. At a tick the
holder's lease goes on, renewed with its own generation, else one tick shorter; at REMAIN 0, with the wire silent and no renewal, or for a
standing cause, it is revoked: HOLDER none, cause, bolt and count recorded, the holder held in reset with FENCE_RESET and the other
Foreman booted with AUTO. A silent wire alone sets WIRE_LOST. A claim is granted only without a holder, PREFER first, with the next
generation; a release gives the lease up or to a READY Foreman, and to itself is logged. Where a reset of the control plane begins, the
holder is revoked with cause 6 and no claim is granted. A fault of a powered island stands for the next tick. Without a tick due nothing
happens. -/
def Obligations.LeaseTicks : Prop :=
  ∀ (s : State) (m : Mid) (v : Word) (b : Bool),
    let kept := fun (o : Host.Outcome State Fault Refusal) (off : Nat) (f : Foreman → Foreman) =>
      (m = 64 → o = .next ((s.modFm false f).answer 0)) ∧ (m = 65 → o = .next ((s.modFm true f).answer 0)) ∧
      (m ≠ 64 → m ≠ 65 → o = .next ((s.setReg 0x30020 (w32 (0x80000000 + m.toNat * 0x1000 + off))).answer 0))
    (reaches s m 0x30050 → kept (exec (.fmnLeaseClaim m v) s) 0x50 (fun f => { f with claim := bit v 0 })) ∧
    (reaches s m 0x30054 → kept (exec (.fmnLeaseRenew m v) s) 0x54 (fun f => { f with renew := some v })) ∧
    (reaches s m 0x30058 → kept (exec (.fmnLeaseRel m v) s) 0x58 (fun f => { f with rel := some v })) ∧
    (s.tickDue = false → exec .leaseTick s = .next s ∧ exec .leaseExpire s = .next s ∧ exec .wireTimeout s = .next s) ∧
    (s.tickDue = true →
      let silent := s.tickCount.wireSilent
      let cause := fun (c : Nat) => w32 (c + b.toNat * 2 ^ 3 + fld s.bolt 0 28 * 2 ^ 4)
      let revoked := fun (o : Host.Outcome State Fault Refusal) (c : Nat) => ∃ t, o = .next t ∧ t.fmn.holder = 0 ∧ t.fmn.remain = 0 ∧
        t.fmn.gen = s.fmn.gen ∧ (t.fm b).revoked = true ∧ (t.fm b).st = (if s.fmnCfg 4 then .held else .standby) ∧
        t.reg 0x30064 = cause c ∧ t.reg 0x30068 = s.reg 0x30068 + 1 ∧ t.rb 0x30010 0 = true ∧
        (s.pwr.tripped = false → s.fmnCfg 0 = true → (s.fm !b).st = .off → (t.fm !b).st = .boot) ∧ (s.fmnCfg 0 = false → (t.fm !b).st = (s.fm !b).st)
      let holdsOn := s.fmn.holder = fmCode b ∧ (s.fm b).st = .active ∧ (s.fm !b).fault = false ∧ s.fmn.causes = [] ∧ s.cpBegins = false
      let idle := (s.fm b).claim = false ∧ (s.fm !b).claim = false ∧ (s.fm !b).rel = none
      (holdsOn → 1 < s.fmn.remain → silent = false → (s.fm b).rel = none → ∃ t, exec .leaseTick s = .next t ∧ t.fmn.holder = s.fmn.holder ∧
        t.fmn.gen = s.fmn.gen ∧ (∀ c, (t.fm c).st = (s.fm c).st) ∧ t.fmn.tick = s.fmn.tick + 1 ∧ t.tickDue = !s.pwr.cdpOn ∧
        t.fmn.remain = (match (s.fm b).renew with
          | some r => if fld r 0 16 = fld s.fmn.gen 0 16 then s.leaseLen else s.fmn.remain - 1
          | none => s.fmn.remain - 1)) ∧
      (holdsOn → idle → s.fmn.remain ≤ 1 → silent = false → revoked (exec .leaseTick s) 1 ∧ revoked (exec .leaseExpire s) 1) ∧
      (holdsOn → idle → silent = true → s.fmn.remain ≤ 1 ∨ s.tickCount.shedSilent = true → revoked (exec .wireTimeout s) 2 ∧ revoked (exec .leaseTick s) 2) ∧
      (∀ c, c ∈ [3, 5, 6] → s.fmn.holder = fmCode b → (s.fm b).st = .active → (s.fm !b).fault = false → idle → s.fmn.causes = [c] →
        s.cpBegins = false → revoked (exec .leaseTick s) c) ∧
      (s.fmn.holder = fmCode b → (s.fm b).st = .active → (s.fm !b).fault = false → idle → s.cpBegins = true → (∀ c ∈ s.fmn.causes, c ≤ 6) →
        revoked (exec .leaseTick s) 6) ∧
      (s.fmn.holder = 0 → s.cpBegins = true → ∃ t, exec .leaseTick s = .next t ∧ t.fmn.holder = 0) ∧
      (holdsOn → idle → (s.fm b).rel = none → 1 < s.fmn.remain → silent = true → s.tickCount.shedSilent = false → s.fmn.wireLost = false →
        ∃ t, exec .wireTimeout s = .next t ∧ t.fmn.wireLost = true ∧ t.fmn.holder = s.fmn.holder ∧ t.rb 0x30010 3 = true) ∧
      (s.fmn.holder = 0 ∨ silent = false → exec .wireTimeout s = .next s) ∧
      (s.fmn.holder = 0 ∨ 1 < s.fmn.remain → exec .leaseExpire s = .next s) ∧
      (s.fmn.holder = 0 → s.cpBegins = false → (∀ c, (s.fm c).fault = false) → (s.fm b).claim = true → s.mayClaim b = true →
        b = s.prefer ∨ (s.fm !b).claim = false ∨ s.mayClaim (!b) = false → ∃ t, exec .leaseTick s = .next t ∧ t.fmn.holder = fmCode b ∧
          t.fmn.gen = nextGen s.fmn.gen ∧ t.fmn.remain = s.leaseLen ∧ (t.fm b).st = .active ∧ t.rb 0x30010 1 = true) ∧
      (∀ r, holdsOn → idle → 1 < s.fmn.remain → silent = false → (s.fm b).rel = some r → fld r 16 16 = fld s.fmn.gen 0 16 →
        (fld r 0 2 = 0 → ∃ t, exec .leaseTick s = .next t ∧ t.fmn.holder = 0 ∧ (t.fm b).st = .standby ∧ (t.fm b).stdbyAt = s.fmn.tick + 1 ∧ t.reg 0x30064 = cause 4 ∧
          t.reg 0x30068 = s.reg 0x30068) ∧
        (fld r 0 2 = fmCode !b → s.ready (!b) = true → ∃ t, exec .leaseTick s = .next t ∧ t.fmn.holder = fmCode !b ∧
          t.fmn.gen = nextGen s.fmn.gen ∧ (t.fm !b).st = .active ∧ (t.fm b).st = .standby ∧ t.reg 0x30064 = cause 4) ∧
        (fld r 0 2 = fmCode b ∨ fld r 0 2 = 3 → ∃ t, exec .leaseTick s = .next t ∧ t.fmn.holder = s.fmn.holder ∧ t.fmn.gen = s.fmn.gen ∧
          t.reg 0x30020 = w32 (0x80000000 + (if b then 65 else 64) * 0x1000 + 0x58)))) ∧
    (∃ t, exec (.heartbeatWireEdge b) s = .next t ∧ (t.fm b).wireAt = s.fmn.tick ∧ t.fmn.wireLost = (s.fmn.wireLost && !s.holds b) ∧
      t.fm (!b) = s.fm (!b) ∧ t.fmn.holder = s.fmn.holder ∧ t.regs = s.regs) ∧
    (s.holds b = true → exec (.islandFault b) s = .next (s.modFmn (fun f => { f with causes := f.causes ++ [5] }))) ∧
    (s.holds b = false →
      ((s.fm b).powered = true → exec (.islandFault b) s = .next (s.modFm b (fun f => { f with fault := true, claim := false }))) ∧
      ((s.fm b).powered = false → exec (.islandFault b) s = .next s))

/-- O50. For every state and Foreman: at the start-up the PREFER Foreman leaves reset; a Foreman in BOOT with no verified image stays there;
with one it writes VERSION and claims the free lease, or stands by READY. START boots one that is OFF or HELD, STOP powers an island off,
a holder's with cause 3 at the next tick, CLR_FAIL clears the counts, returns FAIL to OFF and starts an ended takeover again. FMN_SELF is
written by its own Foreman only. A boot attempt past BOOT_TMO counts; the third is FAIL; in a takeover the island goes off, TAKE_FAIL
rises and with AUTO_RESTART the other Foreman boots, a revoked one too, unless it is in FAIL. A HELD Foreman boots at its release, a
former holder with COLD goes off 16 ticks after its transfer, and the preferred Foreman READY for WTR is handed the lease. -/
def Obligations.ForemanStates : Prop :=
  ∀ (s : State) (m : Mid) (b : Bool),
    let f := s.fm b
    let boots := fun (o : Host.Outcome State Fault Refusal) => s.pwr.tripped = false → ∃ t, o = .next t ∧ (t.fm b).st = .boot ∧ (t.fm b).powered = true ∧
      (t.fm b).revoked = false ∧ (t.fm b).bootAt = s.fmn.tick ∧ t.fm (!b) = s.fm (!b) ∧ t.fmn.holder = s.fmn.holder
    let ctrl := fun (o : Host.Outcome State Fault Refusal) =>
      (f.st = .off ∨ f.st = .held → boots o) ∧ (f.st ≠ .off → f.st ≠ .held → o = .next ((s.modFmn (fun f => { f with startSeen := true })).answer 0))
    let stops := fun (o : Host.Outcome State Fault Refusal) =>
      (f.st = .off ∨ f.st = .fail → o = .next (s.answer 0)) ∧
      (f.st ≠ .off → f.st ≠ .fail → ∃ t, o = .next t ∧ (t.fm b).st = .off ∧ (t.fm b).powered = false ∧ t.fm (!b) = s.fm (!b) ∧
        t.fmn.holder = s.fmn.holder ∧ t.fmn.causes = s.fmn.causes ++ (if s.holds b then [3] else []))
    (∀ img : BootImage,
      (s.fmn.startUp = false → f.st ≠ .boot ∨ f.stuck = true → exec (.foremanBoot b img) s = .next s) ∧
      (s.fmn.startUp = true → f.st = .off → b = s.prefer ∨ s.fmnCfg 3 = false → s.pwr.tripped = false → img.activeOk = true → s.fmn.holder = 0 →
        ∃ t, exec (.foremanBoot b img) s = .next t ∧ (t.fm b).st = .boot ∧ (t.fm b).powered = true ∧ (t.fm b).claim = true ∧ t.fmn.startUp = false) ∧
      (s.fmn.startUp = false → f.st = .boot → f.stuck = false →
        (img.activeOk = false → img.otherOk = false → exec (.foremanBoot b img) s = .next (s.modFm b (fun f => { f with stuck := true }))) ∧
        (img.activeOk = true ∨ img.otherOk = true → ∃ t, exec (.foremanBoot b img) s = .next t ∧ t.rf (selfA b) 0 16 = img.version.toNat ∧
          (t.fm b).restored = s.ckptSeq ∧ t.fm (!b) = s.fm (!b) ∧
          (s.fmn.holder = 0 → (t.fm b).claim = true ∧ (t.fm b).st = .boot ∧ t.ready b = false) ∧
          (s.fmn.holder ≠ 0 → (t.fm b).claim = f.claim ∧ (t.fm b).st = .standby ∧ t.ready b = true ∧ (t.fm b).stdbyAt = s.fmn.tick)))) ∧
    (reaches s m 0x30060 →
      (b = false → ctrl (exec (.fmnStartA m) s) ∧ stops (exec (.fmnStopA m) s)) ∧
      (b = true → ctrl (exec (.fmnStartB m) s) ∧ stops (exec (.fmnStopB m) s)) ∧
      (s.fmn.holder ≠ 0 → ∃ t, exec (.fmnClrFail m) s = .next t ∧ (t.fm b).fails = 0 ∧ (t.fm b).st = (if f.st = .fail then .off else f.st) ∧
        t.fmn.holder = s.fmn.holder) ∧
      (s.fmn.holder = 0 → s.fmnCfg 0 = true → s.fmn.take = none → s.rf 0x30064 0 3 ∉ [0, 4] → b = !s.rb 0x30064 3 → f.st = .fail → s.pwr.tripped = false →
        ∃ t, exec (.fmnClrFail m) s = .next t ∧ (t.fm b).fails = 0 ∧ (t.fm b).st = .boot ∧ t.fmn.take = some (b, s.fmn.tick))) ∧
    (∀ v : Word, reaches s m (selfA b) →
      (m.toNat = (if b then 65 else 64) → ∃ t, exec (.fmnSelfWrite m b v) s = .next t ∧ t.reg (selfA b) = v &&& 0x1FFFF ∧
        (t.fm b).stdbyAt = (if bit v 16 && !s.ready b then s.fmn.tick else f.stdbyAt) ∧ ∀ a, a ≠ selfA b → t.reg a = s.reg a) ∧
      (m.toNat ≠ (if b then 65 else 64) → exec (.fmnSelfWrite m b v) s =
        .next ((s.setReg 0x30020 (w32 (0x80000000 + m.toNat * 0x1000 + (if b then 0xA4 else 0xA0)))).answer 0))) ∧
    (s.takeOver b = true → f.st = .boot → f.failed = false → ∃ t, exec (.bootTimeout b) s = .next t ∧ (t.fm b).fails = f.fails + 1 ∧
      (t.fm b).st = (if 3 ≤ f.fails + 1 then .fail else .off) ∧ (t.fm b).powered = false ∧ t.rb 0x30010 5 = true ∧
      (s.fmnCfg 5 = true → (s.fm !b).st = .off → (s.pwr.tripped = false → (t.fm !b).st = .boot) ∧ t.fmn.take = some (!b, s.fmn.tick)) ∧
      (s.fmnCfg 5 = true → (s.fm !b).st = .standby → (s.fm !b).revoked = true → s.pwr.tripped = false →
        (t.fm !b).st = .boot ∧ (t.fm !b).revoked = false ∧ t.fmn.take = some (!b, s.fmn.tick)) ∧
      (s.fmnCfg 5 = false ∨ (s.fm !b).st = .fail → t.fmn.take = none ∧ t.fm (!b) = s.fm (!b))) ∧
    (s.takeOver b = false → s.bootOver b = true → ∃ t, exec (.bootTimeout b) s = .next t ∧ (t.fm b).fails = f.fails + 1 ∧
      (t.fm b).st = (if 3 ≤ f.fails + 1 then .fail else .boot) ∧ t.fm (!b) = s.fm (!b)) ∧
    (s.takeOver b = false → s.bootOver b = false → exec (.bootTimeout b) s = .next s) ∧
    (∀ n, f.relAt = some n →
      (f.st = .held → s.fmnCfg 5 = true → reached s.fmn.tick n = true → boots (exec (.heldRelease b) s)) ∧
      (f.st ≠ .held ∨ s.fmnCfg 5 = false ∨ reached s.fmn.tick n = false → exec (.heldRelease b) s = .next s)) ∧
    (f.relAt = none → exec (.heldRelease b) s = .next s) ∧
    (∃ t, exec .formerHolderPowerOff s = .next t ∧ t.fmn.holder = s.fmn.holder ∧
      (∀ n, f.offAt = some n → s.holds b = false → s.fmnCfg 3 = true → reached s.fmn.tick n = true → (t.fm b).st = .off ∧ (t.fm b).powered = false) ∧
      (f.offAt = none ∨ s.holds b = true ∨ s.fmnCfg 3 = false → t.fm b = f)) ∧
    (s.fmn.ho = none →
      (b = s.prefer → s.fmn.holder = fmCode !b → s.fmnCfg 2 = true → f.st = .standby → s.ready b = true →
        max 1 (s.rf 0x30040 8 8) * 15625 ≤ since s.fmn.tick f.stdbyAt → s.bQuiet false = true → s.bQuiet true = true →
        ∃ t, exec .foremanRevertWtr s = .next t ∧ (t.fm !b).rel = some (w32 (fmCode b + fld s.fmn.gen 0 16 * 2 ^ 16)) ∧
          t.mbx.stopTake = true ∧ t.fmn.holder = s.fmn.holder ∧ t.fmn.ho.isSome = true) ∧
      (s.fmn.holder = 0 ∨ s.holds s.prefer = true ∨ s.fmnCfg 2 = false ∨ s.ready s.prefer = false → exec .foremanRevertWtr s = .next s))

/-- O51. For every state: a command TAIL within the ring is stored, any other is raised alone; the Foreman takes the entry at HEAD of the ring
whose turn it is, answers an unknown OP BAD_OP and a class shed at the present level BUSY with its retry time, and else holds it. Served
in its turn, PING, STATUS, CKPT_NOW, CKPT_FLASH, FW_WRITE, FW_ACTIVATE, MGMT_SEND and MGMT_CFG write the reply entry with status and data
at TAIL (a command waits where host writes are held), advance TAIL, raise REPLY and leave the table, each with its effect or its error
alone; NOREPLY writes none. A message to send is cut into cells. Cells received by a lane in SYNC that complete a management message make
it an event for an enabled port. Checkpoints are written in turn to the copy that is not the newest, on request and by their interval when
changed, once its banks are not held, and to flash by theirs and on request, at shed level 0. -/
def Obligations.MailboxCommands : Prop :=
  ∀ (s : State) (m : Mid) (r : Fin 4) (v : Word),
    let replied := fun (c : MbxCmd) (o : Host.Outcome State Fault Refusal) (status retry : Nat) (data : List Byte) => ∃ t, o = .next t ∧
      t.mbx.taken = s.mbx.taken.filter (fun e => !decide (e.ring = c.ring ∧ e.slot = c.slot)) ∧
      (c.noReply = true → t.reg (mbxR c.ring 0x1C) = s.reg (mbxR c.ring 0x1C)) ∧
      (c.noReply = false → t.reg (mbxR c.ring 0x1C) = w32 (ringNext (s.rqSize c.ring) ((s.reg (mbxR c.ring 0x1C)).toNat % 2 ^ s.rqSize c.ring)) ∧
        bit (t.reg 0x70010) c.ring = true ∧ (s.canIssue = true →
          let at_ := (s.reg (mbxR c.ring 0x10)).toNat + (s.reg (mbxR c.ring 0x14)).toNat * 2 ^ 32 + 64 * ((s.reg (mbxR c.ring 0x1C)).toNat % 2 ^ s.rqSize c.ring)
          let entry := padTo 64 (replyBytes c status retry data)
          s.hostWaits = false ∧ ∃ l, t.out = s.out ++ l ∧ .hostWrite at_ entry ∈ l))
    let held := fun (h : Nat) => ∃ j, j < 4 ∧ s.winWaits (BitVec.ofNat 8 h) (ckptAt (match s.ckptNewest with | some 0 => 1 | _ => 0) + 0x20000 * j) 1 = true
    let ckpted := fun (o : Host.Outcome State Fault Refusal) => ∃ t, o = .next t ∧ t.fmn.ckAt = s.fmn.tick ∧ t.fmn.ckFlash = s.fmn.ckFlash ∧
      (if s.ckptNewest = some 0 then t.fmn.ck1 = s.ckptNow ∧ t.fmn.ck0 = s.fmn.ck0 else t.fmn.ck0 = s.ckptNow ∧ t.fmn.ck1 = s.fmn.ck1)
    (reaches s m (mbxR r.val 4) →
      (fld v 0 10 < 2 ^ s.cqSize r.val → exec (.mbxCqTailWrite m r v) s = .next ((s.setReg (mbxR r.val 4) (w32 (fld v 0 10))).answer 0)) ∧
      (2 ^ s.cqSize r.val ≤ fld v 0 10 → ∃ t, exec (.mbxCqTailWrite m r v) s = .next t ∧ t.reg 0x70010 = s.reg 0x70010 ||| 0x20 ∧
        ∀ a, a ≠ 0x70010 → t.reg a = s.reg a)) ∧
    (s.takes = false ∨ s.nextRing ≠ some r.val → exec (.mbxCommandTake r) s = .next s) ∧
    (s.takes = true → s.nextRing = some r.val →
      let i := (s.reg (mbxR r.val 8)).toNat % 2 ^ s.cqSize r.val
      let c : MbxCmd := { ring := r.val, slot := i, bytes := s.slotBytes r.val i }
      (∃ t, exec (.mbxCommandTake r) s = .next t ∧ t.reg (mbxR r.val 8) = w32 (ringNext (s.cqSize r.val) i)) ∧
      (opLevel c.op = none → replied c (exec (.mbxCommandTake r) s) 2 0 []) ∧
      (∀ l, opLevel c.op = some l →
        (l ≤ s.fmn.shed → replied c (exec (.mbxCommandTake r) s) 1 (if 3 ≤ s.fmn.shed then 16 else 4) []) ∧
        (s.fmn.shed < l → ∃ t, exec (.mbxCommandTake r) s = .next t ∧ t.mbx.taken = s.mbx.taken ++ [c]))) ∧
    (s.current r.val = none ∨ s.headless = true ∨ s.mbx.replaying = true → exec (.ping r) s = .next s ∧ exec (.status r) s = .next s ∧
      exec (.ckptNow r) s = .next s ∧ exec (.ckptFlash r) s = .next s ∧ exec (.mgmtSend r) s = .next s ∧ exec (.mgmtCfg r) s = .next s) ∧
    (∀ c, s.current r.val = some c → s.canReply c = true → s.headless = false → s.mbx.replaying = false →
      (c.op = 0x01 → replied c (exec (.ping r) s) 0 0
        (dataWords [s.fmn.gen.toNat, s.fmn.holder, (s.reg 0x300A0).toNat, (s.reg 0x300A4).toNat])) ∧
      (c.op = 0x02 → replied c (exec (.status r) s) 0 0 (dataWords [s.fmnStat.toNat, s.fmnLoad.toNat, s.ckptSeq])) ∧
      (c.op = 0x20 → replied c (exec (.ckptNow r) s) 0 0 (dataWords [s.ckptNow.seq]) ∧ (∀ h, s.holderId = some h → ¬ held h → ckpted (exec (.ckptNow r) s)) ∧
        (∀ h, s.holderId = some h → held h → ∃ t, exec (.ckptNow r) s = .next t ∧ .ckpt ∈ t.tst.waitQ ∧ t.fmn.ck0 = s.fmn.ck0 ∧ t.fmn.ck1 = s.fmn.ck1)) ∧
      (c.op = 0x21 → 1 ≤ s.fmn.shed → exec (.ckptFlash r) s = .next s) ∧
      (c.op = 0x21 → s.fmn.shed = 0 → (s.ckptRestore = none → replied c (exec (.ckptFlash r) s) 4 0 []) ∧
        ∀ k, s.ckptRestore = some k → replied c (exec (.ckptFlash r) s) 0 0 (dataWords [k.seq]) ∧
          ∃ t, exec (.ckptFlash r) s = .next t ∧ t.fmn.ckFlash = k) ∧
      (c.op = 0x30 → ∀ data flashOk,
        (4096 < c.arg 13 2 ∨ 1 < c.arg 8 1 → replied c (exec (.fwWrite r data flashOk) s) 3 0 []) ∧
        (c.arg 13 2 ≤ 4096 → c.arg 8 1 ≤ 1 →
          (s.canIssue = false → replied c (exec (.fwWrite r data flashOk) s) 4 0 []) ∧
          (s.canIssue = true → flashOk = false → replied c (exec (.fwWrite r data flashOk) s) 6 0 []) ∧
          (s.canIssue = true → flashOk = true → replied c (exec (.fwWrite r data flashOk) s) 0 0 (dataWords [c.arg 13 2]) ∧
            ∃ t, exec (.fwWrite r data flashOk) s = .next t ∧ t.mbx.bootSlot = s.mbx.bootSlot ∧
              (c.arg 8 1 = 0 → t.mbx.slot0 = Memory.writeN s.mbx.slot0 (c.arg 9 4) (padTo (c.arg 13 2) data) ∧ t.mbx.slot1 = s.mbx.slot1) ∧
              (c.arg 8 1 = 1 → t.mbx.slot1 = Memory.writeN s.mbx.slot1 (c.arg 9 4) (padTo (c.arg 13 2) data) ∧ t.mbx.slot0 = s.mbx.slot0)))) ∧
      (c.op = 0x31 → ∀ sigOk,
        (1 < c.arg 8 1 → replied c (exec (.fwActivate r sigOk) s) 3 0 []) ∧
        (c.arg 8 1 ≤ 1 → sigOk = false → replied c (exec (.fwActivate r sigOk) s) 7 0 []) ∧
        (c.arg 8 1 ≤ 1 → sigOk = true → replied c (exec (.fwActivate r sigOk) s) 0 0 (dataWords [c.arg 8 1]) ∧
          ∃ t, exec (.fwActivate r sigOk) s = .next t ∧ t.mbx.nextSlot = some (c.arg 8 1))) ∧
      (c.op = 0x50 →
        (8 ≤ c.arg 8 1 ∨ 48 < c.arg 9 1 → replied c (exec (.mgmtSend r) s) 3 0 []) ∧
        (c.arg 8 1 < 8 → c.arg 9 1 ≤ 48 →
          (bit s.mbx.mgmtEn (c.arg 8 1) = false ∨ (s.nbr (c.arg 8 1)).lane = none → replied c (exec (.mgmtSend r) s) 4 0 []) ∧
          (bit s.mbx.mgmtEn (c.arg 8 1) = true → (s.nbr (c.arg 8 1)).lane ≠ none → replied c (exec (.mgmtSend r) s) 0 0 [] ∧
            ∃ t, exec (.mgmtSend r) s = .next t ∧ (t.nbr (c.arg 8 1)).mcells = (s.nbr (c.arg 8 1)).mcells ++
              cellsOf (bytesAt c.bytes 10 (c.arg 9 1)) ∧ ∃ l, t.out = s.out ++ l ∧ .mgmt (c.arg 8 1) (bytesAt c.bytes 10 (c.arg 9 1)) ∈ l))) ∧
      (c.op = 0x51 → replied c (exec (.mgmtCfg r) s) 0 0 [] ∧
        ∃ t, exec (.mgmtCfg r) s = .next t ∧ t.mbx.mgmtEn = BitVec.ofNat 8 (c.arg 8 1))) ∧
    (∀ (l : Fin 512) (c : CellRun) (msg : List Byte), let p := l.val / 64
      let u := mgmtTook s l.val
      (cellRunOk 64 c = false → exec (.mgmtMessageRx l c) s = .next s) ∧
      (cellRunOk 64 c = true → s.awake p = false ∨ s.ownStream l.val = true ∨ (s.lane l.val).framer ≠ .sync → exec (.mgmtMessageRx l c) s = .next s) ∧
      (takesCells s l.val = true → bringsMsg (s.lane l.val).mgmtPart 32 64 c msg →
        (s.headless = true ∨ bit s.mbx.mgmtEn p = false → exec (.mgmtMessageRx l c) s = .next (u.count 6 p 3)) ∧
        (s.headless = false → bit s.mbx.mgmtEn p = true → msg.length ≤ 48 → s.mbx.held = [] → s.rqFull 0 = false → s.canIssue = true →
          ∃ t, exec (.mgmtMessageRx l c) s = .next t ∧ t.reg 0x7011C = w32 (ringNext (s.rqSize 0) ((s.reg 0x7011C).toNat % 2 ^ s.rqSize 0)) ∧
            bit (t.reg 0x70010) 0 = true ∧ ∃ l', t.out = s.out ++ l' ∧ .hostWrite ((s.reg 0x70110).toNat + (s.reg 0x70114).toNat * 2 ^ 32 +
              64 * ((s.reg 0x7011C).toNat % 2 ^ s.rqSize 0)) (padTo 64 (mgmtRx p msg)) ∈ l'))) ∧
    (let n := s.rf 0x3007C 0 16
     (s.headless = true ∨ n = 0 ∨ since s.fmn.tick s.fmn.ckAt < n ∨ 3 ≤ s.fmn.shed → exec .checkpointInterval s = .next s) ∧
     (s.holderId ≠ none → n ≠ 0 → n ≤ since s.fmn.tick s.fmn.ckAt → s.fmn.shed < 3 →
       (∀ h, s.ckptChanged = true → s.holderId = some h → ¬ held h → ckpted (exec .checkpointInterval s)) ∧
       (s.ckptChanged = false → exec .checkpointInterval s = .next (s.modFmn (fun f => { f with ckAt := f.tick }))))) ∧
    (let n := s.rf 0x3007C 16 8
     (s.headless = true ∨ n = 0 ∨ since s.fmn.tick s.fmn.flashAt < n * 15625 ∨ 1 ≤ s.fmn.shed → exec .checkpointFlashInterval s = .next s) ∧
     (∀ k, s.headless = false → n ≠ 0 → n * 15625 ≤ since s.fmn.tick s.fmn.flashAt → s.fmn.shed = 0 → s.ckptRestore = some k →
       ∃ t, exec .checkpointFlashInterval s = .next t ∧ t.fmn.ckFlash = k ∧ t.fmn.flashAt = s.fmn.tick ∧ t.bank.mem = s.bank.mem))

/-- O52. For every state: a mailbox command for the Treadle or the Fine loom is posted through window B with RING 1 and the TAG of its slot
and marked posted, and waits while the queue is full; its completion, read from the internal ring in order, becomes its reply with PHASE
0. HANDOVER with a READY standby and both engines quiet stops the taking of commands and releases the lease to the standby at the next
tick, with none it replies NOT_READY, and one found by replay is only answered. A new holder first posts a FENCE to both engines; once
both have completed, only the commands in progress remain, marked replayed, and service goes on. Nothing acts that is not due. -/
def Obligations.MailboxEngineCommands : Prop :=
  ∀ (s : State) (r : Fin 4),
    let replied := fun (c : MbxCmd) (o : Host.Outcome State Fault Refusal) (status retry : Nat) (data : List Byte) => ∃ t, o = .next t ∧
      t.mbx.taken = s.mbx.taken.filter (fun e => !decide (e.ring = c.ring ∧ e.slot = c.slot)) ∧
      (c.noReply = true → t.reg (mbxR c.ring 0x1C) = s.reg (mbxR c.ring 0x1C)) ∧
      (c.noReply = false → t.reg (mbxR c.ring 0x1C) = w32 (ringNext (s.rqSize c.ring) ((s.reg (mbxR c.ring 0x1C)).toNat % 2 ^ s.rqSize c.ring)) ∧
        bit (t.reg 0x70010) c.ring = true ∧ (s.canIssue = true →
          let at_ := (s.reg (mbxR c.ring 0x10)).toNat + (s.reg (mbxR c.ring 0x14)).toNat * 2 ^ 32 + 64 * ((s.reg (mbxR c.ring 0x1C)).toNat % 2 ^ s.rqSize c.ring)
          let entry := padTo 64 (replyBytes c status retry data)
          s.hostWaits = false ∧ ∃ l, t.out = s.out ++ l ∧ .hostWrite at_ entry ∈ l))
    let out := fun (fe : Bool) => if fe then exec .mbxFineReply s else exec .mbxTreadleReply s
    let post := fun (fe : Bool) => if fe then exec (.mbxFine r) s else exec (.mbxTreadle r) s
    (s.current r.val = none ∨ s.headless = true ∨ s.mbx.replaying = true → (∀ fe, post fe = .next s) ∧ exec (.handover r) s = .next s) ∧
    (∀ c, s.current r.val = some c → s.canReply c = true → s.headless = false → s.mbx.replaying = false →
      (∀ fe, c.op = (if fe then 0x11 else 0x10) →
        (s.qRoom fe = false → post fe = .next s) ∧
        (s.qRoom fe = true → ∃ t, post fe = .next t ∧ (t.eng fe).q = (s.eng fe).q ++ [QCmd.mk 1
            (setFld (setFld (w32 (c.arg 8 4)) 10 2 1) 16 16 (0x400 * c.ring + c.slot) ::
              (List.range 7).map (fun i => w32 (c.arg (12 + 4 * i) 4)))] ∧
          t.mbx.taken = s.mbx.taken.map (fun e => if e.ring = c.ring ∧ e.slot = c.slot then { e with posted := true } else e) ∧
          t.out = s.out ∧ t.loom = s.loom ∧ t.eng (!fe) = s.eng (!fe))) ∧
      (c.op = 0x40 → let b : Bool := decide (s.fmn.holder = 2)
        (c.replay = true → replied c (exec (.handover r) s) (if s.fmn.byTransfer then 0 else 5) 0 []) ∧
        (c.replay = false → s.fmn.ho = none →
          ((s.fm !b).st ≠ .standby ∨ s.ready (!b) = false → (∀ e ∈ s.mbx.taken, e.ring = c.ring → e.slot = c.slot → e = c) →
            replied c (exec (.handover r) s) 4 0 []) ∧
          ((s.fm !b).st = .standby → s.ready (!b) = true → s.bQuiet false = true → s.bQuiet true = true → ∃ t, exec (.handover r) s = .next t ∧
            (t.fm b).rel = some (w32 (fmCode (!b) + fld s.fmn.gen 0 16 * 2 ^ 16)) ∧ t.mbx.stopTake = true ∧ t.fmn.holder = s.fmn.holder ∧
            t.fmn.ho.isSome = true ∧ t.mbx.taken = s.mbx.taken)))) ∧
    (∀ fe,
      (s.headless = true ∨ s.mbx.replaying = true → out fe = .next s) ∧
      (s.headless = false → s.mbx.replaying = false →
        (∀ c d, s.doneCmd fe = some c → c.done = some d → c.ring < 4 → replied c (out fe) 0 0 d) ∧
        (s.doneCmd fe = none →
          (s.icMore fe = false ∨ s.icReady fe = false → out fe = .next s) ∧
          (s.icMore fe = true → s.icReady fe = true → let e := s.icEntry fe (s.icPos fe)
            (∃ t, out fe = .next t ∧ t.icPos fe = (s.icPos fe + 1) % 2 ^ s.icSize fe ∧
              t.reg (ringRegs fe 1).2.2.2.1 = w32 ((s.icPos fe + 1) % 2 ^ s.icSize fe)) ∧
            (∀ c, s.tagCmd fe (leVal (e.take 2)) = some c → replied c (out fe) 0 0 (noPhase e)))))) ∧
    (s.headless = true ∨ s.mbx.replaying = false → exec .mailboxReplay s = .next s) ∧
    (s.headless = false → s.mbx.replaying = true →
      (s.mbx.fences = none → s.qRoom false = true → s.qRoom true = true → ∃ t b c d, exec .mailboxReplay s = .next t ∧
        t.trd.q = s.trd.q ++ [c] ∧ c.op = 0x0D ∧ c.win = 1 ∧ t.fine.eng.q = s.fine.eng.q ++ [d] ∧ d.op = 0x0D ∧ d.win = 1 ∧
        t.mbx.fences = some (s.mbx.ownTag, b)) ∧
      (s.mbx.fences = none → s.qRoom false = false ∨ s.qRoom true = false → exec .mailboxReplay s = .next s) ∧
      (∀ a b, s.mbx.fences = some (a, b) →
        ((s.icAll false).all (fun e => decide (e.1 ≠ a)) = true ∨ (s.icAll true).all (fun e => decide (e.1 ≠ b)) = true →
          exec .mailboxReplay s = .next s) ∧
        ((s.icAll false).any (fun e => decide (e.1 = a)) = true → (s.icAll true).any (fun e => decide (e.1 = b)) = true →
          ∃ t, exec .mailboxReplay s = .next t ∧ t.mbx.replaying = false ∧ t.mbx.fences = none ∧
            (∀ c ∈ t.mbx.taken, c.replay = true ∧ (c.ring, c.slot) ∈ s.inProgress) ∧ t.trd = s.trd ∧ t.loom = s.loom)))

/-- O53. For every state, lane and run of cells: the cells of a message give it back; cells reach a lane in SYNC alone. A message that the
cells complete is noted, and processed at the end of the bolt, lowest port first. Of it: without an agent, with EN 0 or with the port down
it is not processed; of bad length, CRC, version or type it is counted alone. A HELLO with the own ID marks the link DUP; of another
serial takes an UP link down; the same keeps it up; the second in time brings it UP with the lower VMAX, unless under VMIN, and the common
features. An assigner with IDs left offers the next one, an unassigned device takes an offer to its serial unless the ID is reserved,
which is logged, an ACK ends the offer, 64 bolts too, counted. HELLOs go out each interval on every port; HELLO_LOSS intervals of silence
or no lane end a link. An ID above 250,000 is logged alone. Eight bolts without a heartbeat end RUNNING. No path record changes. -/
def Obligations.BamryLinks : Prop :=
  ∀ (s : State) (p : Fin 8) (l : Fin 512) (c : CellRun) (msg : List Byte),
    let rx := [exec (.helloRx l c) s, exec (.idReqRx l c) s, exec (.idOfferRx l c) s, exec (.idAckRx l c) s, exec (.setupRx l c) s,
      exec (.confirmRx l c) s, exec (.refuseRx l c) s, exec (.teardownRx l c) s, exec (.tdAckRx l c) s]
    let brought := l.val / 64 = p.val ∧ takesCells s l.val = true ∧ bringsMsg (s.lane l.val).bmyPart 0 32 c msg
    let u := bmyTook s l.val
    let ran := fun (o : Host.Outcome State Fault Refusal) (t : State) => ∃ x, o = .next x ∧ x.bmyProcess = t
    let live := brought ∧ s.bmy.rxq = [] ∧ s.bmyAgent = true ∧ s.bmyEn = true ∧ s.reach p.val = true ∧ msgOk msg = true
    let n := s.nbr p.val
    let ser := beAt msg 16 8
    let others := fun (t : State) => (∀ q, q ≠ p.val → t.nbr q = s.nbr q) ∧ t.bmy.recs = s.bmy.recs ∧ t.bmy.heads = s.bmy.heads
    (∀ m : List Byte, cellsRx none (cellsOf m) = (none, [m], 0)) ∧
    (cellRunOk 32 c = false → ∀ o ∈ rx, o = .next s) ∧
    (brought → ∀ o ∈ rx, o = .next (u.modBmy (fun b => { b with rxq := b.rxq ++ [(p.val, msg)] }))) ∧
    (∀ (q r : Fin 8) (m n : List Byte), s.bmy.rxq = [(q.val, m), (r.val, n)] → s.bmyProcess =
      (if q ≤ r then (s.bmyReceive q.val m).bmyReceive r.val n else (s.bmyReceive r.val n).bmyReceive q.val m).modBmy (fun b => { b with rxq := [] })) ∧
    (cellRunOk 32 c = true → s.awake (l.val / 64) = false ∨ s.ownStream l.val = true ∨ (s.lane l.val).framer ≠ .sync → ∀ o ∈ rx, o = .next s) ∧
    (brought → s.bmy.rxq = [] → s.bmyAgent = false ∨ s.bmyEn = false ∨ s.reach p.val = false → ∀ o ∈ rx, ran o u) ∧
    (brought → s.bmy.rxq = [] → s.bmyAgent = true → s.bmyEn = true → s.reach p.val = true → msgOk msg = false →
      ∀ o ∈ rx, ran o (u.setReg 0xB80070 (s.reg 0xB80070 + 1))) ∧
    (live → mType msg = 1 →
      (s.devId ≠ 0 → mFrom msg = s.devId → ∃ o, exec (.helloRx l c) s = .next o ∧ let t := o.bmyProcess; (t.nbr p.val).st = 2 ∧ (t.nbr p.val).vl = 0 ∧
        (t.nbr p.val).port = beAt msg 24 1 % 8 ∧ (t.nbr p.val).serial = ser ∧ (n.st ≠ 2 → t.rb 0xB80010 2 = true) ∧ others t) ∧
      (s.devId = 0 ∨ mFrom msg ≠ s.devId →
        (n.st = 1 → n.serial ≠ ser → ∃ o, exec (.helloRx l c) s = .next o ∧ let t := o.bmyProcess; (t.nbr p.val).st = 0 ∧ (t.nbr p.val).vl = 0 ∧
          t.rb 0xB80010 1 = true ∧ others t) ∧
        (n.st = 1 → n.serial = ser → ∃ o, exec (.helloRx l c) s = .next o ∧ let t := o.bmyProcess; (t.nbr p.val).st = 1 ∧ (t.nbr p.val).helloAt = s.bolt ∧
          (t.nbr p.val).vl = n.vl ∧ (t.nbr p.val).featL = n.featL ∧ t.regs = s.regs ∧ others t) ∧
        (n.st = 0 → n.helloCnt = 0 → ∃ o, exec (.helloRx l c) s = .next o ∧ let t := o.bmyProcess; (t.nbr p.val).st = 0 ∧ (t.nbr p.val).helloCnt = 1 ∧
          (t.nbr p.val).serial = ser ∧ t.regs = s.regs ∧ others t) ∧
        (n.st = 2 → mFrom msg ≠ s.devId → n.helloCnt ≠ 0 → ∃ o, exec (.helloRx l c) s = .next o ∧ let t := o.bmyProcess; (t.nbr p.val).st = 1 ∧ t.rb 0xB80010 1 = true ∧ others t) ∧
        (n.st = 0 → n.helloCnt ≠ 0 → since s.bolt n.helloAt ≤ s.helloLoss * s.helloInt → n.from_ = mFrom msg → n.serial = ser →
          ∃ o, exec (.helloRx l c) s = .next o ∧ let t := o.bmyProcess; (t.nbr p.val).st = 1 ∧ t.rb 0xB80010 1 = true ∧ others t ∧
            (let v := min s.ownVmax (beAt msg 26 1 % 16)
             (t.nbr p.val).vl = (if v < 1 ∨ v < beAt msg 25 1 % 16 then 0 else v) ∧
             (t.nbr p.val).featL = (if 2 ≤ (t.nbr p.val).vl then s.ownFeat &&& (beAt msg 28 4 % 8) &&& 7 else 0))))) ∧
    (live → mType msg = 2 → let base := s.rf 0xB80054 0 18
      let left := s.rf 0xB80058 0 18
      (s.rb 0xB80040 1 = true → left ≠ 0 → ∃ o, exec (.idReqRx l c) s = .next o ∧ let t := o.bmyProcess; t.bmy.offers = s.bmy.offers ++ [(base, s.bolt)] ∧
        t.bmy.txq = s.bmy.txq ++ [(p.val, s.bolt, mkMsg 3 0 0 (idBody ser base))] ∧ t.reg 0xB80054 = w32 (base + 1) ∧
        t.reg 0xB80058 = w32 (if 250000 < base + 1 then 0 else left - 1) ∧ ∀ a, a ≠ 0xB80054 → a ≠ 0xB80058 → t.reg a = s.reg a) ∧
      (s.rb 0xB80040 1 = false ∨ left = 0 → ran (exec (.idReqRx l c) s) (u.count 6 p.val 0))) ∧
    (live → mType msg = 3 → let id := beAt msg 24 3 % 2 ^ 18
      (s.rb 0xB80040 2 = true → s.devId = 0 → ser = s.serialNo → 250000 < id → ∃ o, exec (.idOfferRx l c) s = .next o ∧ let t := o.bmyProcess; t.reg 0xB80044 = s.reg 0xB80044 ∧ t.bmy = u.bmy ∧
        bit (t.reg 0xB80020) 31 = true ∧ fld (t.reg 0xB80020) 0 12 = 0x44) ∧
      (s.rb 0xB80040 2 = true → s.devId = 0 → ser = s.serialNo → id ≤ 250000 → ∃ o, exec (.idOfferRx l c) s = .next o ∧ let t := o.bmyProcess; t.reg 0xB80044 = w32 (id + 2 ^ 18) ∧
        t.bmy.txq = s.bmy.txq ++ [(p.val, s.bolt, mkMsg 4 0 0 (idBody s.serialNo id))] ∧ t.rb 0xB80010 3 = true) ∧
      (s.rb 0xB80040 2 = false ∨ s.devId ≠ 0 ∨ ser ≠ s.serialNo → ran (exec (.idOfferRx l c) s) (u.count 6 p.val 0))) ∧
    (live → mType msg = 4 → ∃ o, exec (.idAckRx l c) s = .next o ∧ let t := o.bmyProcess; t.regs = s.regs ∧
      t.bmy.offers = s.bmy.offers.filter (fun o => !decide (o.1 = beAt msg 24 3 % 2 ^ 18))) ∧
    (let due := s.bmyAgent = true ∧ s.bmyEn = true ∧ s.helloInt ≤ since s.bolt s.bmy.helloAt
     (due → s.rb 0xB80040 2 = false ∨ s.devId ≠ 0 → ∃ t, exec .helloInterval s = .next t ∧ t.bmy.helloAt = s.bolt ∧
       t.bmy.txq = s.bmy.txq ++ (List.range 8).map (fun q => (q, s.bolt, s.helloMsg q)) ∧ t.regs = s.regs) ∧
     (¬ due → exec .helloInterval s = .next s)) ∧
    (let due := n.st = 1 ∧ (s.helloLoss * s.helloInt ≤ since s.bolt n.helloAt ∨ s.bmyLane p.val = none)
     (due → ∃ t, exec (.helloLossTimeout p) s = .next t ∧ (t.nbr p.val).st = 0 ∧ (t.nbr p.val).vl = 0 ∧ t.rb 0xB80010 1 = true ∧ others t) ∧
     (¬ due → exec (.helloLossTimeout p) s = .next s)) ∧
    (∃ t, exec .idOfferTimeout s = .next t ∧ t.bmy.offers = s.bmy.offers.filter (fun o => decide (since s.bolt o.2 < 64)) ∧
      t.reg 0xB80074 = s.reg 0xB80074 + w32 (s.bmy.offers.filter (fun o => decide (64 ≤ since s.bolt o.2))).length) ∧
    (∀ (m : Mid) (v : Word), reaches s m 0xB80044 →
      (fld v 0 18 ≤ 250000 → exec (.bmyDevidWrite m v) s = .next ((s.setReg 0xB80044 (w32 (fld v 0 18))).answer 0)) ∧
      (250000 < fld v 0 18 → exec (.bmyDevidWrite m v) s = .next ((s.setReg 0xB80020 (w32 (0x80000000 + m.toNat * 0x1000 + 0x44))).answer 0))) ∧
    (∀ b, s.bmy.hbAt = some b →
      (8 ≤ since s.bolt b → ∃ t, exec .bamryAgentLost s = .next t ∧ t.bmy = { s.bmy with hbAt := none } ∧ t.rb 0xB80010 4 = true) ∧
      (since s.bolt b < 8 → exec .bamryAgentLost s = .next s)) ∧
    (s.bmy.hbAt = none → exec .bamryAgentLost s = .next s)

/-- O54. For every state, port and message: a SETUP releases the reservations of older attempts of its path; one admitted is recorded as a
reservation over destinations unconnected in the active maps and passed on, one that is not is answered by REFUSE with its reason,
counted, and none is admitted while headless, for another device, or on a disabled port. CONFIRM posts the segment's CONNECT through
window C; without its record, it is torn down. REFUSE and TEARDOWN release the records they name and no other; TEARDOWN is acknowledged. A
completion confirms upstream, or releases the segment and refuses. Requests are taken, bad ones answered with RESULT 2. Timeouts release,
resend, back off or end attempts; the audit and a restart release exactly the records whose connections are gone, or that are not
committed. -/
def Obligations.BamryPaths : Prop :=
  ∀ (s : State) (p : Fin 8) (l : Fin 512) (c : CellRun) (msg : List Byte),
    let live := s.bmy.rxq = [] ∧ l.val / 64 = p.val ∧ takesCells s l.val = true ∧ bringsMsg (s.lane l.val).bmyPart 0 32 c msg ∧
      s.bmyAgent = true ∧ s.bmyEn = true ∧ s.reach p.val = true ∧ msgOk msg = true
    let s0 := (bmyTook s l.val).count 6 p.val 0
    let same := fun (r : PathRec) => r.orig = mOrig msg ∧ r.rno = mRno msg
    let pos := (s.reg 0xB80090).toNat + 160 * ((s.reg 0xB80098).toNat % 2 ^ s.svcSize 0xB80094)
    let room := fun (w : Nat) => s.holder 2 0 = some w ∧ cleanRun s (s.ringAt 0xB80080 0xB80084 0xB8008C 160) 160 = true ∧
      s.winWaits (BitVec.ofNat 8 w) pos 160 = false ∧ s.bmy.held = [] ∧ s.svcFull 0xB80094 0xB80098 0xB8009C = false ∧ pos % 8 = 0 ∧
      pos / 0x20000 = (pos + 159) / 0x20000 ∧ pos / 0x20000 < 48 ∧ s.mayWrite (pos / 0x20000) (BitVec.ofNat 8 w) = true
    let taken := fun (t : State) => t.reg 0xB8008C = w32 (ringNext (s.svcSize 0xB80084) (s.reg 0xB8008C).toNat)
    (live → mType msg = 0x10 →
      (∃ o, exec (.setupRx l c) s = .next o ∧ let t := o.bmyProcess; (∀ r ∈ s.bmy.recs, r.committed = true ∨ r.posting = true → r ∈ t.bmy.recs) ∧
        ∀ r ∈ s.bmy.recs, same r → r.att < mAtt msg → r.committed = false → r.posting = false → r ∉ t.bmy.recs) ∧
      ((∀ r ∈ s.bmy.recs, ¬ same r) → ∀ u,
        (∀ r q, s0.admitSetup (some p.val) msg = (u, .ok r) → r.outPort = some q → ∃ o, exec (.setupRx l c) s = .next o ∧ let t := o.bmyProcess;
          t.bmy.recs = u.bmy.recs ++ [r] ∧ r.orig = mOrig msg ∧ r.rno = mRno msg ∧ r.committed = false ∧ r.inPort = some p.val ∧
          t.bmy.txq = u.bmy.txq ++ [(q, u.bolt, putAt 18 [BitVec.ofNat 8 (r.hidx + 1)] r.msg)] ∧
          ∀ c ∈ r.conns, if r.thr then outMode (s.fine.act.outE c.2) = 0 else egMode (s.loom.act.egE c.2) = 0) ∧
        (∀ reason d, s0.admitSetup (some p.val) msg = (u, .error (reason, d)) → ∃ o, exec (.setupRx l c) s = .next o ∧ let t := o.bmyProcess;
          t.bmy.recs = u.bmy.recs ∧ t.reg 0xB8006C = u.reg 0xB8006C + 1 ∧ t.bmy.txq = u.bmy.txq ++ [(p.val, u.bolt,
            mkMsg 0x12 (mOrig msg) (mRno msg) ([BitVec.ofNat 8 reason, BitVec.ofNat 8 (mHidx msg), BitVec.ofNat 8 (mAtt msg), 0] ++ beBytes 4 d))]) ∧
        (s.headless = true ∨ hDev (mHop msg (mHidx msg)) ≠ s.devId ∨ s.rb 0xB8005C p.val = false →
          ∃ o, exec (.setupRx l c) s = .next o ∧ let t := o.bmyProcess; t.bmy.recs = s.bmy.recs ∧ t.reg 0xB8006C = s.reg 0xB8006C + 1))) ∧
    (live → mType msg = 0x11 →
      let mine := fun (r : PathRec) => decide (r.orig = mOrig msg ∧ r.rno = mRno msg ∧ r.att = mAtt msg) && !r.committed && !r.posting
      (∀ r d, s.bmy.recs.find? mine = some r → s.headless = false → r.thr = false → r.conns = [d] → d.1 < 2 ^ 20 → d.2 < 2 ^ 20 →
        s.trd.q.length < 1024 → ∃ o x, exec (.confirmRx l c) s = .next o ∧ let t := o.bmyProcess; t.trd.q = s.trd.q ++ [x] ∧ x.op = 1 ∧ x.win = 2 ∧ x.cmt = true ∧
          x.ring = 2 ∧ x.src = d.1 ∧ x.dst = d.2 ∧ ∃ y ∈ t.bmy.recs, y.posting = true ∧ same y ∧ y.conns = [d]) ∧
      (∀ r, s.bmy.recs.find? mine = some r → s.headless = true → ∃ o, exec (.confirmRx l c) s = .next o ∧ let t := o.bmyProcess; r ∉ t.bmy.recs ∧ t.trd = s.trd) ∧
      (s.bmy.recs.find? mine = none → s.tdCan p.val = true → ∃ o, exec (.confirmRx l c) s = .next o ∧ let t := o.bmyProcess; t.bmy.recs = s.bmy.recs ∧
        (p.val, s.bolt, tdMsg (mOrig msg) (mRno msg) (mHidx msg) (mAtt msg) 3 0) ∈ t.bmy.txq)) ∧
    (live → mType msg = 0x12 → let att := beAt msg 18 1 % 16
      let open_ := fun (r : PathRec) => same r ∧ r.att = att ∧ r.committed = false ∧ r.posting = false
      (∃ o, exec (.refuseRx l c) s = .next o ∧ let t := o.bmyProcess; (∀ r ∈ t.bmy.recs, ¬ open_ r) ∧ ∀ r ∈ s.bmy.recs, ¬ open_ r → r ∈ t.bmy.recs) ∧
      (∀ q, mOrig msg ≠ s.devId → (∀ r ∈ s.bmy.recs, ¬ open_ r) → s.routeOf (mOrig msg) (mRno msg) true = some q →
        ∃ o, exec (.refuseRx l c) s = .next o ∧ let t := o.bmyProcess; t.bmy.txq = s.bmy.txq ++ [(q, s.bolt, msg)])) ∧
    (live → mType msg = 0x13 → let att := beAt msg 17 1 % 16
      let ends := fun (r : PathRec) => same r ∧ (att = 15 ∨ r.att = att)
      ∃ o, exec (.teardownRx l c) s = .next o ∧ let t := o.bmyProcess; (∀ r ∈ t.bmy.recs, ¬ ends r) ∧ (∀ r ∈ s.bmy.recs, ¬ ends r → r ∈ t.bmy.recs) ∧
        (p.val, s.bolt, mkMsg 0x14 (mOrig msg) (mRno msg) (bytesAt msg 16 4 ++ [0, 0, 0, 0])) ∈ t.bmy.txq) ∧
    (live → mType msg = 0x14 → ∃ o, exec (.tdAckRx l c) s = .next o ∧ let t := o.bmyProcess; t.bmy.recs = s.bmy.recs ∧ t.bmy.txq = s.bmy.txq ∧
      t.bmy.tds = s.bmy.tds.filter (fun d => !decide (d.port = p.val ∧ mOrig d.msg = mOrig msg ∧ mRno d.msg = mRno msg ∧
        bytesAt d.msg 16 4 = bytesAt msg 16 4))) ∧
    (s.bmyRequest = none ∨ s.bmyAgent = false → exec .bmyReqSetup s = .next s ∧ exec .bmyReqTeardown s = .next s ∧ exec .bmyReqBadOp s = .next s) ∧
    (∀ q w, s.bmyRequest = some q → room w → let op := beAt q 2 1
      let answered := fun (o : Host.Outcome State Fault Refusal) (rec : List Byte) => ∃ t, o = .next t ∧ taken t ∧ t.bytes pos 160 = rec ∧
        t.reg 0xB80098 = w32 (ringNext (s.svcSize 0xB80094) ((s.reg 0xB80098).toNat % 2 ^ s.svcSize 0xB80094)) ∧ t.rb 0xB80010 0 = true
      (op = 1 → s.bmyEn = true → ∃ t, exec .bmyReqSetup s = .next t ∧ taken t ∧ t.bmy.rno = s.bmy.rno % 65535 + 1) ∧
      (op = 2 → s.bmyEn = true → ∃ t, exec .bmyReqTeardown s = .next t ∧ taken t ∧
        (∀ r ∈ t.bmy.recs, ¬ (r.orig = s.devId ∧ r.rno = beAt q 14 2 ∧ r.inPort = none)) ∧ ∀ h ∈ t.bmy.heads, h.rno ≠ beAt q 14 2) ∧
      (op ≠ 1 → op ≠ 2 → s.bmyEn = true → answered (exec .bmyReqBadOp s) (s.refusedRec q (beAt q 14 2) 5 0 0 0)) ∧
      (s.bmyEn = false → (op = 1 → answered (exec .bmyReqSetup s) (s.refusedRec q (beAt q 14 2) 0xC 0 0 0)) ∧
        (op = 2 → answered (exec .bmyReqTeardown s) (s.refusedRec q (beAt q 14 2) 0xC 0 0 0)))) ∧
    (s.bmyAgent = false ∨ (s.agentEntry false = none ∧ s.agentEntry true = none) → exec .agentCompletion s = .next s) ∧
    (∀ tag st u r, s.bmyAgent = true → s.agentEntry false = some (tag, st, u) → r.tags = [tag] → r.bad = 0 →
      s.bmy.recs.find? (fun r => r.posting && decide (tag ∈ r.tags)) = some r →
      (∀ q, st = 0 → r.inPort = some q → ∃ t, exec .agentCompletion s = .next t ∧
        t.bmy.txq = s.bmy.txq ++ [(q, s.bolt, putAt 18 [BitVec.ofNat 8 (r.hidx - 1)] (putAt 1 [0x11] r.msg))] ∧
        ∃ y ∈ t.bmy.recs, y.committed = true ∧ y.posting = false ∧ y.orig = r.orig ∧ y.rno = r.rno ∧ y.conns = r.conns) ∧
      (∀ q, st ≠ 0 → st < 256 → r.conns.length = 1 → r.inPort = some q → r.outPort = none → ∃ t, exec .agentCompletion s = .next t ∧ r ∉ t.bmy.recs ∧
        t.bmy.txq = s.bmy.txq ++ [(q, s.bolt, mkMsg 0x12 r.orig r.rno
          ([BitVec.ofNat 8 0xA, BitVec.ofNat 8 r.hidx, BitVec.ofNat 8 r.att, 0] ++ beBytes 4 st))])) ∧
    (∀ rno : BitVec 16,
      ((∀ h ∈ s.bmy.heads, h.rno ≠ rno.toNat) → exec (.setupTmo rno) s = .next s ∧ exec (.retryBackoff rno) s = .next s) ∧
      (∀ h, s.bmy.heads.find? (fun h => decide (h.rno = rno.toNat)) = some h → s.bmyAgent = true →
        (h.done = true ∨ h.sent = false ∨ h.waiting ≠ none ∨ since s.bolt h.sentAt < atLeast1 (s.rf 0xB80050 0 12) → exec (.setupTmo rno) s = .next s) ∧
        (h.done = false → h.sent = true → h.waiting = none → atLeast1 (s.rf 0xB80050 0 12) ≤ since s.bolt h.sentAt →
          (∀ r ∈ s.bmy.recs, ¬ (r.orig = s.devId ∧ r.rno = h.rno ∧ r.inPort = none ∧ r.posting = true)) → ∃ t, exec (.setupTmo rno) s = .next t ∧
            (∀ r ∈ t.bmy.recs, ¬ (r.orig = s.devId ∧ r.rno = h.rno ∧ r.att = h.att ∧ r.inPort = none ∧ r.committed = false ∧ r.posting = false)) ∧
            (h.att + 1 < atLeast1 (s.rf 0xB80040 20 4) → ∀ x ∈ t.bmy.heads, x.rno = h.rno → x.waiting ≠ none) ∧
            (atLeast1 (s.rf 0xB80040 20 4) ≤ h.att + 1 → ∀ x ∈ t.bmy.heads, x.rno ≠ h.rno)) ∧
        (h.waiting = none → exec (.retryBackoff rno) s = .next s) ∧
        (∀ w, h.waiting = some w →
          (2 ^ 31 ≤ since s.bolt w → exec (.retryBackoff rno) s = .next s) ∧
          (since s.bolt w < 2 ^ 31 → ∃ t, exec (.retryBackoff rno) s = .next t ∧ ∀ x ∈ t.bmy.heads, x.rno = h.rno → x.att = h.att + 1)))) ∧
    (∀ (orig : BitVec 18) (rno : BitVec 16), s.bmyAgent = true → ∃ t, exec (.rsvTmo orig rno) s = .next t ∧ t.bmy.txq = s.bmy.txq ∧ t.regs = s.regs ∧
      t.bmy.recs = s.bmy.recs.filter (fun r => !(decide (r.orig = orig.toNat ∧ r.rno = rno.toNat ∧
        atLeast1 (s.rf 0xB80050 16 12) ≤ since s.bolt r.at_) && !r.committed && !r.posting))) ∧
    (s.bmyAgent = true → s.bmyEn = true → ∃ t, exec (.teardownResend p) s = .next t ∧ ∀ d ∈ s.bmy.tds,
      (d.port ≠ p.val → d ∈ t.bmy.tds) ∧
      (d.port = p.val → d.sends ≠ 0 → d.sends < 8 → 8 ≤ since s.bolt d.at_ → s.tdCan p.val = true →
        TdOut.mk d.port d.msg (d.sends + 1) s.bolt ∈ t.bmy.tds ∧ (p.val, s.bolt, d.msg) ∈ t.bmy.txq) ∧
      (d.port = p.val → d.sends = 8 → 8 ≤ since s.bolt d.at_ → s.bmy.tds.length < 1024 → s.tdCan p.val = true →
        TdOut.mk d.port d.msg 9 s.bolt ∈ t.bmy.tds) ∧
      (d.port = p.val → d.sends = 9 → (if s.tdCan p.val then d else { d with sends := 0 }) ∈ t.bmy.tds)) ∧
    (let gone := fun (r : PathRec) => r.committed && !r.conns.all (fun c => s.connHeld r.thr c)
     (s.bmyAgent = false ∨ since s.bolt s.bmy.auditAt < 64 → exec .bamryAudit s = .next s) ∧
     (s.bmyAgent = true → 64 ≤ since s.bolt s.bmy.auditAt → ∃ t, exec .bamryAudit s = .next t ∧ t.bmy.auditAt = s.bolt ∧
       t.bmy.recs = s.bmy.recs.filter (fun r => !gone r) ∧ t.reg 0xB80078 = s.reg 0xB80078 + w32 (s.bmy.recs.filter gone).length) ∧
     (s.bmy.restart = false ∨ s.bmyAgent = false → exec .bamryAgentRestart s = .next s) ∧
     (s.bmy.restart = true → s.bmyAgent = true → ∃ t, exec .bamryAgentRestart s = .next t ∧ t.bmy.restart = false ∧
       t.bmy.recs = s.bmy.recs.filter (fun r => r.committed && !gone r)))

/-- O55. For every state and arguments: nothing reaches the UART while the boundary register holds it, and no command is taken while another
waits for a held target; headless every command is answered HEADLESS, at shed level 1 up BUSY, a W command with TW_WREN 0 RO, and an
argument out of range ARG, with no other effect; every line is taken: one over 128 characters is answered LONG, an empty one with the
prompt, an unknown name CMD, and a command line acts as its command with its decimal or hexadecimal arguments; the wait for a completion
ends after 64 bolts with TIMEOUT, not before, and silently where no Foreman serves. -/
def Obligations.TwiuriAnswers : Prop :=
  ∀ (s : State) (addr : BitVec 26) (v mask : Word) (n k p w g c i : Nat) (sh : Bool) (ws : List Word),
    let reads := [exec .twHelp s, exec .twId s, exec (.twRd addr n) s, exec (.twLane p n) s, exec (.twSkein p n k) s,
      exec (.twHdl c k p i) s, exec (.twProt g) s, exec .twBeat s, exec .twFmn s, exec (.twWvr w) s, exec (.twTally c i k sh) s,
      exec (.twTraceDump n) s]
    let writes := [exec (.twWr addr v) s, exec (.twSet addr mask v) s, exec (.twTcmd ws) s, exec (.twFcmd ws) s, exec .twTraceStart s,
      exec .twTraceStop s, exec .twTraceTrig s, exec .twResetCold s, exec .twResetWarm s, exec .twResetCp s, exec (.twBaud c) s, exec .twLock s]
    (s.jtag.frozen = true → ∀ o ∈ reads ++ writes, o = .next s) ∧
    (s.tst.mon ≠ none → ∀ o ∈ reads ++ writes, o = .next s) ∧
    (s.tst.mon = none → s.jtag.frozen = false →
      (s.holderId = none → ∀ o ∈ reads ++ writes, o = .next (s.say (lineOf (ascii "! HEADLESS") ++ ascii "tw- "))) ∧
      (∀ h, s.holderId = some h →
        (1 ≤ s.fmn.shed → ∀ o ∈ reads ++ writes, o = .next (s.sayEnd "! BUSY")) ∧
        (s.fmn.shed = 0 → s.rb 0x60040 0 = false → ∀ o ∈ writes, o = .next (s.sayEnd "! RO")) ∧
        (s.fmn.shed = 0 →
          (n = 0 ∨ 64 < n → exec (.twRd addr n) s = .next (s.sayEnd "! ARG")) ∧
          (8 ≤ p ∨ 64 ≤ n → exec (.twLane p n) s = .next (s.sayEnd "! ARG") ∧ exec (.twSkein p n k) s = .next (s.sayEnd "! ARG")) ∧
          (160 ≤ k → exec (.twSkein p n k) s = .next (s.sayEnd "! ARG")) ∧ (64 ≤ w → exec (.twWvr w) s = .next (s.sayEnd "! ARG")) ∧
          (8192 ≤ g → exec (.twProt g) s = .next (s.sayEnd "! ARG")) ∧
          (s.rb 0x60040 0 = true → ws.length ≠ 8 → exec (.twTcmd ws) s = .next (s.sayEnd "! ARG") ∧ exec (.twFcmd ws) s = .next (s.sayEnd "! ARG"))))) ∧
    (∀ t : List Byte, let l := editLine t
      let acts := fun (o : Host.Outcome State Fault Refusal) => ∃ u, o = .next u ∧ (u.tst.mon = none → exec (.twiuriLine t) s = .next u)
      (∃ u, exec (.twiuriLine t) s = .next u) ∧
      (s.tst.mon ≠ none ∨ s.jtag.frozen = true → exec (.twiuriLine t) s = .next s) ∧
      (s.tst.mon = none → s.headless = false → 128 < l.length → s.jtag.frozen = false → exec (.twiuriLine t) s = .next (s.sayEnd "! LONG")) ∧
      (s.tst.mon = none → s.headless = true → l ≠ [] → s.jtag.frozen = false →
        exec (.twiuriLine t) s = .next (s.say (lineOf (ascii "! HEADLESS") ++ ascii "tw- "))) ∧
      (s.tst.mon = none → s.jtag.frozen = false → s.headless = false → s.fmn.shed = 0 → l.length ≤ 128 →
        (splitWords l = [] → exec (.twiuriLine t) s = .next (s.say prompt)) ∧
        (splitWords l = [ascii "help"] → exec (.twiuriLine t) s = .next ((s.say (lineOf helpText)).sayEnd "OK")) ∧
        (∀ x l', splitWords l = x :: l' →
          x ∉ ["help", "id", "rd", "wr", "set", "lane", "skein", "hdl", "tcmd", "fcmd", "prot", "beat", "fmn", "wvr", "tally", "trace", "reset",
            "baud", "lock"].map ascii → exec (.twiuriLine t) s = .next (s.sayEnd "! CMD"))) ∧
      (s.tst.mon = none → l.length ≤ 128 →
        (splitWords l = [ascii "help"] → acts (exec .twHelp s)) ∧
        (splitWords l = [ascii "id"] → acts (exec .twId s)) ∧
        (splitWords l = [ascii "lock"] → acts (exec .twLock s)) ∧
        (splitWords l = [ascii "trace", ascii "start"] → acts (exec .twTraceStart s)) ∧
        (splitWords l = [ascii "reset", ascii "warm"] → acts (exec .twResetWarm s)) ∧
        (∀ x, splitWords l = [ascii "wvr", x] → numOf x = some w → acts (exec (.twWvr w) s)) ∧
        (∀ x y, splitWords l = [ascii "lane", x, y] → numOf x = some p → numOf y = some n → acts (exec (.twLane p n) s)) ∧
        (∀ x, splitWords l = [ascii "rd", x] → numOf x = some addr.toNat → acts (exec (.twRd addr 1) s)) ∧
        (∀ x y, splitWords l = [ascii "wr", x, y] → numOf x = some addr.toNat → numOf y = some v.toNat → acts (exec (.twWr addr v) s)))) ∧
    (∀ q, s.tst.wait = some q →
      (s.headless = true → exec .twCmdTimeout s = .next (s.modTst (fun t => { t with wait := none }))) ∧
      (s.headless = false → 64 ≤ since s.bolt q.2.2 → exec .twCmdTimeout s = .next ((s.modTst (fun t => { t with wait := none })).sayEnd "! TIMEOUT")) ∧
      (s.headless = false → since s.bolt q.2.2 < 64 → exec .twCmdTimeout s = .next s)) ∧
    (s.tst.wait = none → exec .twCmdTimeout s = .next s)

/-- O56. For every state with a lease holder, at shed level 0, the UART not held: each command acts with the holder's ID, and waits as a whole
where one of its accesses meets a held target (the model's choice, notes/assumptions/49.md). help prints the names; id ends with HOLDER
and GEN; rd, lane, skein, prot, beat, fmn, wvr, hdl and tally print the words of the registers they name, read in order, the last two
after the indirect access; dump prints the trace's records; and, with TW_WREN 1, wr and set write a register, tcmd and fcmd write eight
words to window D with RING 1 and the monitor's next TAG and wait for the completion, trace writes TST_TR_CMD, reset writes the key and
then the command, baud and lock write TST_CFG. -/
def Obligations.TwiuriCommands : Prop :=
  ∀ (s : State) (h : Nat), s.jtag.frozen = false → s.holderId = some h → s.fmn.shed = 0 → s.tst.mon = none →
    let acts := fun (o : Host.Outcome State Fault Refusal) (u : State) => (u.tst.shedQ = s.tst.shedQ → o = .next u) ∧
      (u.tst.shedQ ≠ s.tst.shedQ → ∃ i, o = .next (s.modTst (fun x => { x with mon := some i })))
    let m := BitVec.ofNat 8 h
    let prints := fun (u : State) (l : List Nat) => ((twReads m l u).1.emit (.uartWords (twReads m l u).2.1)).sayEnd (endLine (twReads m l u).2.2)
    let wren := s.rb 0x60040 0 = true
    (m = 64 ∨ m = 65) ∧
    (∀ u a l, twReads m [] u = (u, [], .ok) ∧ (twReads m (a :: l) u).2.1 =
      (u.busRead m a 4).resp.data.setWidth 32 :: (twReads m l (u.busRead m a 4)).2.1) ∧
    exec .twHelp s = .next ((s.say (lineOf helpText)).sayEnd "OK") ∧
    (∃ t l, acts (exec .twId s) t ∧ t.out = s.out ++ l ∧ t.fmn = s.fmn ∧ ∃ a b c d, .uartWords [a, b, c, d, w32 s.fmn.holder, s.fmn.gen] ∈ l ∧
      d.toNat < 65536) ∧
    (∀ (addr : BitVec 26) (n : Nat), 1 ≤ n → n ≤ 4 → acts (exec (.twRd addr n) s) (prints s ((List.range n).map (fun i => addr.toNat + 4 * i)))) ∧
    (∀ p n, p < 8 → n < 64 → acts (exec (.twLane p n) s) (prints s ([0x44, 0x4C, 0x60, 0x68, 0x6C].map (lnA (64 * p + n)))) ∧
      ∀ k, k < 160 → let r := twReads m ([0xC4, 0xC8, 0xCC, 0xD0].map (lnA (64 * p + n)) ++ (List.range 5).map (fun d =>
          lnA (64 * p + n) (0x100 + 0x20 * d + k / 32 * 4))) (s.busWrite m (lnA (64 * p + n) 0xC0) 4 ((w32 k).setWidth 64))
        acts (exec (.twSkein p n k) s) ((r.1.emit (.uartWords (r.2.1.take 4 ++ (r.2.1.drop 4).map (fun w => w32 (bit w (k % 32)).toNat)))).sayEnd
          (endLine r.2.2))) ∧
    (∀ g, g < 8192 → acts (exec (.twProt g) s) (prints s ((List.range 8).map (fun i => recA g (4 * i)) ++ (List.range 4).map (fun i => apsA g (4 * i))))) ∧
    acts (exec .twBeat s) (prints s ([0x44, 0x78, 0x80].map beatA ++ (s.beat.sel.toList.map (fun c => beatA (0x200 + 4 * c))))) ∧
    acts (exec .twFmn s) (prints s ([0x44, 0x48, 0x74, 0x64].map fmnA)) ∧
    (∀ w, w < 64 → acts (exec (.twWvr w) s) (prints s ([0x44, 0x58, 0x6C].map (wvrA w)))) ∧
    (∀ map page port index, map < 3 → page < 2 → port < 9 → index < 2 ^ 14 → acts (exec (.twHdl map page port index) s) (prints ((s.busWrite m 0x801040 4 ((w32 (map + page * 4 + port * 16 + index * 256)).setWidth 64)).busWrite m 0x801044 4 1).hdlReadDone
        [0x80104C, 0x801050, 0x801054])) ∧
    (∀ c i t sh, ctrOk c i t = true → i < 2 ^ 18 → c < 8 → t < 15 → let v := w32 (i + c * 2 ^ 18 + t * 2 ^ 21 + Bool.toNat sh * 2 ^ 25)
      acts (exec (.twTally c i t sh) s) (prints (((s.busWrite m (tlyA 0x44) 4 (v.setWidth 64)).busWrite m (tlyA 0x48) 4 1).tlyReadDone v) [tlyA 0x50, tlyA 0x54, tlyA 0x58])) ∧
    (∀ n, 1 ≤ n → n ≤ 4096 → (s.tst.trace.length ≤ s.rf 0x60074 0 12 → acts (exec (.twTraceDump n) s) (s.sayEnd "OK"))) ∧
    (s.rf 0x60074 0 12 < s.tst.trace.length → let r := twReads m [0x60078, 0x6007C, 0x60080, 0x60084] s
      acts (exec (.twTraceDump 1) s) ((r.1.emit (.uartWords r.2.1)).sayEnd "OK")) ∧
    (wren →
      (∀ (addr : BitVec 26) (v : Word), acts (exec (.twWr addr v) s) ((s.busWrite m addr.toNat 4 (v.setWidth 64)).sayEnd "OK")) ∧
      (∀ (addr : BitVec 26) (mask v : Word), let u := s.busRead m addr.toNat 4
        (u.resp.status = .ok → acts (exec (.twSet addr mask v) s) ((u.busWrite m addr.toNat 4
          (((u.resp.data.setWidth 32 &&& ~~~mask) ||| (v &&& mask)).setWidth 64)).sayEnd "OK")) ∧
        (u.resp.status ≠ .ok → acts (exec (.twSet addr mask v) s) (prints s [addr.toNat]))) ∧
      (∀ ws : List Word, ws.length = 8 →
        let tag := 0xF000 + s.tst.n % 4096
        let put := fun (fe : Bool) => s.twWrites m
          ((setFld (setFld (ws.headD 0) 10 2 1) 16 16 tag :: ws.drop 1).mapIdx (fun i w => (engA fe (0x160 + 4 * i), w)))
        acts (exec (.twTcmd ws) s) ((put false).modTst (fun t => { t with n := (t.n + 1) % 4096, wait := some (true, BitVec.ofNat 16 tag, s.bolt) })) ∧
        acts (exec (.twFcmd ws) s) ((put true).modTst (fun t => { t with n := (t.n + 1) % 4096, wait := some (false, BitVec.ofNat 16 tag, s.bolt) }))) ∧
      acts (exec .twTraceStart s) ((s.busWrite m 0x6006C 4 1).sayEnd "OK") ∧ acts (exec .twTraceStop s) ((s.busWrite m 0x6006C 4 2).sayEnd "OK") ∧
      acts (exec .twTraceTrig s) ((s.busWrite m 0x6006C 4 4).sayEnd "OK") ∧
      acts (exec .twResetCold s) ((s.busWrite m 0x80 4 0x7E57).busWrite m 0x84 4 1) ∧
      acts (exec .twResetWarm s) ((s.busWrite m 0x80 4 0x7E57).busWrite m 0x84 4 2) ∧
      acts (exec .twResetCp s) ((s.busWrite m 0x80 4 0x7E57).busWrite m 0x84 4 3) ∧
      (∀ code, code < 8 → acts (exec (.twBaud code) s) ((s.sayEnd "OK").busWrite m 0x60040 4 ((setFld (s.reg 0x60040) 4 3 code).setWidth 64))) ∧
      acts (exec .twLock s) ((s.busWrite m 0x60040 4 ((setBit (s.reg 0x60040) 0 false).setWidth 64)).sayEnd "OK"))

/-- O57. For every state and pick: the first pick of a bolt first takes what falls at the boundary. A pick that nothing reads, or that a slip
discards, changes no egress position but the paired one of a looped lane, and no thread buffer; one in a round that a STEP align cuts off
the bolt changes nothing. With one destination that reads it, the egress position carries in this round LCK or AIS where its entry is
locked or forced, AIS where an uncorrectable entry steers it, its link is down or the source tile sleeps, else the pick, descrambled, or
AIS where its source is failed, where its tenant tag passes the entry's check, and else OCI, the violation counted and recorded; at a
connected Fine loom input the newest entry of its thread's buffer is the pick, AIS where its source failed or an uncorrectable entry
steers it, with its round. No other position changes. Each boundary advances the bolt number by one, signals it, makes the resets
requested due, takes the hook enable, and starts every awake lane's bolt without header or violations; without the CDP domain only
voltage, current and temperatures are measured. -/
def Obligations.PicksAndBoltBoundary : Prop :=
  (∀ (s : State) (p : PickIn),
    let x := p.src.toNat
    let k := skNo x
    let l := laneOf k
    let r := s.absRound p.round
    let rho := (s.rx k).rhoOf ((p.round + 625 - (s.lane l).off) % 625)
    (pickOk p = false → exec (.pickSwitch p) s = .next s) ∧
    (pickOk p = true → (∃ t, exec (.pickSwitch p) s = .next t) ∧ (s.beat.edge = true → s.closeBoundary.beat.edge = false ∧
      exec (.pickSwitch p) s = exec (.pickSwitch p) s.closeBoundary)) ∧
    (pickOk p = true → s.beat.edge = false → s.copies x = [] ∨ (lsrPort x ≠ 8 ∧ s.awake (lsrPort x) = true ∧ p.lost = true) →
      ∃ t, exec (.pickSwitch p) s = .next t ∧ (∀ j, lsrPort x = 8 ∨ s.loops l = false ∨ j ≠ k → t.tx j = s.tx j) ∧
        t.fine.buf = s.fine.buf ∧ t.prot = s.prot ∧ t.loom = s.loom) ∧
    (pickOk p = true → s.beat.edge = false → p.lost = false → 100000 ≤ 160 * p.round + s.cutPicks → exec (.pickSwitch p) s = .next s) ∧
    (pickOk p = true → s.beat.edge = false → lsrPort x < 8 → p.lost = false → 160 * p.round + s.cutPicks < 100000 → ∀ d sl, s.copies x = [(d, false, sl)] →
      let up := s.awake (lsrPort x) = true ∧ (s.lane l).aisRounds ≤ p.round ∧ p.fecUnc = false ∧ p.onset = false ∧ s.srcFlag k = false ∧
        s.loops l = false ∧ s.ownStream l = false
      let ais := s.heldAis k || s.srcAis k
      let came := scramble (64 * pickPos k ((p.round + 625 - (s.lane l).off) % 625)) p.payload
      let e := s.egEff d
      let tag := fld (s.loom.act.ingE (lsrPort x) sl) 14 12
      let carries := fun (kind : PickKind) (payload : List Byte) => ∃ t, exec (.pickSwitch p) s = .next t ∧ (t.tx (skNo d)).out.kind = kind ∧
        (t.tx (skNo d)).out.payload = payload ∧ (t.tx (skNo d)).round = r + 1 ∧ (∀ j, j ≠ skNo d → t.tx j = s.tx j) ∧
        t.fine.buf = s.fine.buf
      (lsrPort d < 8 → s.awake (lsrPort d) = true → s.rb (lnA (lsrLane d) 0x40) 14 = false → s.lnTxpat (lsrLane d) = 0 → s.lnLoop (lsrLane d) ≠ 1 →
        (s.awake (lsrPort x) = false → egMode e = 1 → egPvalid e = false → carries .ais (List.replicate 64 0xFF)) ∧
        (up →
          (egMode e = 2 → carries .lck (List.replicate 64 0x55)) ∧
          (egMode e = 3 → carries .ais (List.replicate 64 0xFF)) ∧
          (egMode e = 1 → s.eccAis d = true → carries .ais (List.replicate 64 0xFF)) ∧
          (egMode e = 1 → s.eccAis d = false → (s.port (lsrPort d)).linkUp = false → carries .ais (List.replicate 64 0xFF)) ∧
          (egMode e = 1 → s.eccAis d = false → (s.port (lsrPort d)).linkUp = true → egPvalid e = false →
            (egPasses e tag = true → ais = false → carries .data came) ∧
            (egPasses e tag = true → ais = true → carries .ais (List.replicate 64 0xFF)) ∧
            (egPasses e tag = false → carries .oci (List.replicate 64 0x66) ∧ ∃ t, exec (.pickSwitch p) s = .next t ∧
              t.reg (elsA (lsrPort d) 0x44) = s.reg (elsA (lsrPort d) 0x44) + 1 ∧
              t.reg (elsA (lsrPort d) 0x48) = w32 (lsrIdx d + tag * 2 ^ 14))))) ∧
      (lsrPort d = 8 → up → let th := 128 * lsrIdx d + rho % 125
        ∃ t, exec (.pickSwitch p) s = .next t ∧ (∀ j, t.tx j = s.tx j) ∧ (∀ j, j ≠ th → smGet [] t.fine.buf j = smGet [] s.fine.buf j) ∧
          (egMode e ≠ 1 → t.fine.buf = s.fine.buf) ∧
          (egMode e = 1 → (smGet [] t.fine.buf th).getLast?.map (fun b => (b.pick.payload, b.round)) =
            some (if ais || s.eccAis d then List.replicate 64 0xFF else came, r))))) ∧
  (∀ (s : State) (o : BoltObs),
    (boltObsOk o = false ∨ s.pwr.inRange = false → exec (.moduleBoltBoundary o) s = .next s) ∧
    (boltObsOk o = true → s.pwr.inRange = true → s.pwr.cdpOn = false → ∃ t, exec (.moduleBoltBoundary o) s = .next t ∧
      only [.regs, .pcie, .pwr, .out] s t ∧ t.bolt = s.bolt ∧ t.pwr.vin = o.vin ∧ t.pwr.pin = o.pin) ∧
    (boltObsOk o = true → s.pwr.inRange = true → s.pwr.cdpOn = true → (∀ e ∈ s.pwr.hot, e.2 < 4) → ∃ t, exec (.moduleBoltBoundary o) s = .next t ∧ t.bolt = s.bolt + 1 ∧
      (t.pwr.due = t.pwr.req.isSome) ∧ t.tst.pert = t.rb 0x60044 0 ∧ t.fine.live = [] ∧
      (s.jtag.frozen = false → ∃ u, t.out = s.out ++ u ∧ .boltOut (s.bolt + 1) ∈ u) ∧
      ∀ l, l < 512 → t.awake (l / 64) = true → (t.lane l).hdrOk = false ∧ (t.lane l).bipNow = 0))

/-- O58. For every state, master, buffer, offset and size whose access passes the Shed's front end: a write to a buffer that the master owns
puts its bytes there and changes no other byte, register or buffer; a write to any other buffer, whatever its state or owner, is
discarded, increments SKID_NOWN_CNT and is recorded in SKID_LAST with kind 3, and changes nothing else; a read gives the bytes whatever
the buffer's state and owner, with status OK but for a word with an uncorrectable error, and is neither counted nor recorded. -/
def Obligations.SkidWritesByTheOwnerOnly : Prop :=
  ∀ (s : State) (m : Mid) (i : Fin 8192) (o : Fin 256) (n : Nat) (v : BitVec 64),
    let a := 0x1800000 + 256 * i.val + o.val
    let x := 0x600000 + 256 * i.val + o.val
    (s.gate m a n true = .go →
      (s.buf i.val = (.owned, m.toNat) → ∀ r ∈ [exec (.skidBufferWrite m i o n v) s, exec (.registerWrite m (BitVec.ofNat 27 a) n ⟨v, [], [], []⟩) s],
        ∃ t, r = .next t ∧ t.bytes x n = leBytes n v.toNat ∧ (∀ y, y < x ∨ x + n ≤ y → t.byteAt y = s.byteAt y) ∧ t.regs = s.regs ∧ t.skid = s.skid) ∧
      (s.buf i.val ≠ (.owned, m.toNat) → ∀ r ∈ [exec (.skidBufferWrite m i o n v) s, exec (.registerWrite m (BitVec.ofNat 27 a) n ⟨v, [], [], []⟩) s],
        ∃ t, r = .next t ∧ t.bank = s.bank ∧ t.skid = s.skid ∧ t.reg 0xD80058 = s.reg 0xD80058 + 1 ∧
          t.reg 0xD8005C = w32 (i.val + m.toNat * 2 ^ 14 + 3 * 2 ^ 22) ∧ ∀ b, b ≠ 0xD80058 → b ≠ 0xD8005C → t.reg b = s.reg b)) ∧
    (s.gate m a n false = .go → (s.busRead m a n).skid = s.skid ∧ (s.busRead m a n).reg 0xD80058 = s.reg 0xD80058 ∧
      (s.busRead m a n).reg 0xD8005C = s.reg 0xD8005C ∧ (s.busRead m a n).resp.data = BitVec.ofNat 64 (leVal (s.bytes x n)) ∧
      (x / 8 ∉ s.bank.unc → (s.busRead m a n).resp.status = .ok))

/-- O59. For every state with input power in which the SMBus lands follow the core: with SMB_WREN an SMBus register write is the register
write of the SMBus target at the pointer, without it the transfer completes, GLB_SMB_DENY_CNT increments and nothing else changes but the
pointer; an SMBus read of an RC register returns and clears what a host read does (SKID_ALLOC hands its buffer to the reader, and is left
to its own rule); commands 0x10 to 0x12 change no register. -/
def Obligations.SmbusRegisterAccess : Prop :=
  ∀ (s : State) (v : Word), s.jtag.frozen = false → s.pwr.inRange = true →
    let a := s.pwr.smbPtr.toNat
    (bit s.pwr.straps 1 = true → ∃ t, exec (.registerWrite 67 (BitVec.ofNat 27 a) 4 ⟨v.setWidth 64, [], [], []⟩) s = .next t ∧
      exec (.smbWriteRegister v) s = .next (t.modPwr (fun p => { p with smbPtr := p.smbPtr + 4 }))) ∧
    (bit s.pwr.straps 1 = false → ∃ t, exec (.smbWriteRegister v) s = .next t ∧ t.reg 0x5C = s.reg 0x5C + 1 ∧
      (∀ b, b ≠ 0x5C → t.reg b = s.reg b) ∧ t.bank = s.bank ∧ t.skid = s.skid ∧ t.pwr = { s.pwr with smbPtr := s.pwr.smbPtr + 4 } ∧ t.out = s.out) ∧
    (accOf a = some .rc → a ≠ 0xD80048 → s.gate 66 a 4 false = .go → s.gate 67 a 4 false = .go → ∃ t, exec .smbReadRegister s = .next t ∧
      t.regs = (s.busRead 66 a 4).regs ∧ .smbus (leBytes 4 (s.busRead 66 a 4).resp.data.toNat) ∈ t.out.drop s.out.length) ∧
    (∃ t, exec .smbReadIdentity s = .next t ∧ t.regs = s.regs ∧ t.pwr = s.pwr ∧ t.bank = s.bank) ∧
    (∃ t, exec .smbReadPower s = .next t ∧ t.regs = s.regs ∧ t.pwr = s.pwr ∧ t.bank = s.bank) ∧
    (∃ t, exec .smbReadTemperatures s = .next t ∧ t.regs = s.regs ∧ t.pwr = s.pwr ∧ t.bank = s.bank)

/-- O60. For every state, powered unit and master not kept out by its ownership: a write of BLZ_UDATA32 folds its four bytes, bits [31:24]
first, and one of BLZ_UDATA8 bits [7:0]; two writes fold in the order issued; while BUSY = 1 a write of the data, configuration, address,
length or BLZ_URUN registers changes nothing but REFUSED, which is set. -/
def Obligations.BlazeDataFolding : Prop :=
  ∀ (s : State) (m : Mid) (u : Fin 72) (v w : Word), s.unitOn u.val = true → s.unitHeld m u.val = false → (m.toNat < 60 ∨ 64 ≤ m.toNat) →
    (∀ o ∈ [0, 0x10, 0x14, 0x20, 0x24, 0x28, 0x2C], s.gate m (blzU u.val o) 4 true = .go) →
    let k := u.val
    let p := s.uPoly k
    ((s.unit k).busy = false →
      (∃ t, exec (.blzUdata32Write m u v) s = .next t ∧ (t.unit k).run =
        [(v >>> 24).setWidth 8, (v >>> 16).setWidth 8, (v >>> 8).setWidth 8, v.setWidth 8].foldl (runStep p) (s.unit k).run) ∧
      (∃ t, exec (.blzUdata8Write m u v) s = .next t ∧ (t.unit k).run = runStep p (s.unit k).run (v.setWidth 8)) ∧
      (∃ t x, exec (.blzUdata32Write m u v) s = .next t ∧ exec (.blzUdata32Write m u w) t = .next x ∧
        (x.unit k).run = (beBytes 4 v.toNat ++ beBytes 4 w.toNat).foldl (runStep p) (s.unit k).run)) ∧
    ((s.unit k).busy = true →
      ∀ r ∈ [exec (.blzUdata32Write m u v) s, exec (.blzUdata8Write m u v) s, exec (.blzUrunWrite m u false v) s, exec (.blzUrunWrite m u true v) s]
        ++ [0, 0x10, 0x14, 0x20, 0x24, 0x28, 0x2C].map (fun o => exec (.registerWrite m (BitVec.ofNat 27 (blzU k o)) 4 ⟨v.setWidth 64, [], [], []⟩) s),
      ∃ t, r = .next t ∧ t.unit k = { s.unit k with refused := true } ∧ (∀ j, j ≠ k → t.unit j = s.unit j) ∧ t.regs = s.regs ∧ t.bank = s.bank)
end

