-- ==== Sys2Proof/Laws/Store.lean ====
section
/-! SUPPORT. Sparse maps and byte memories: reading after writing, and the canonical form that every write keeps. -/
namespace Sys2Proof.Machine

section
variable {α : Type}

theorem smGet_smInsert_same (d : α) (m : SMap α) (a : Nat) (v : α) : smGet d (smInsert a v m) a = v := by
  induction m with
  | nil => simp [smInsert, smGet]
  | cons e t ih =>
    obtain ⟨k, x⟩ := e
    unfold smInsert
    split
    · simp [smGet]
    · split
      · simp [smGet]
      · have : k ≠ a := fun h => by simp_all
        simp [smGet, this, ih]

theorem smGet_smInsert_other (d : α) (m : SMap α) {a b : Nat} (v : α) (h : b ≠ a) : smGet d (smInsert a v m) b = smGet d m b := by
  induction m with
  | nil => simp [smInsert, smGet, Ne.symm h]
  | cons e t ih =>
    obtain ⟨k, x⟩ := e
    unfold smInsert
    split
    · simp [smGet, Ne.symm h]
    · split
      · rename_i hk
        subst hk
        simp [smGet, Ne.symm h]
      · simp [smGet, ih]

theorem smGet_filter_same (d : α) (m : SMap α) (a : Nat) : smGet d (m.filter (fun e => decide (e.1 ≠ a))) a = d := by
  induction m with
  | nil => rfl
  | cons e t ih =>
    obtain ⟨k, x⟩ := e
    by_cases hk : k = a
    · simpa [hk] using ih
    · simpa [smGet, hk] using ih

theorem smGet_filter_other (d : α) (m : SMap α) {a b : Nat} (h : b ≠ a) :
    smGet d (m.filter (fun e => decide (e.1 ≠ a))) b = smGet d m b := by
  induction m with
  | nil => rfl
  | cons e t ih =>
    obtain ⟨k, x⟩ := e
    by_cases hk : k = a
    · have hb : k ≠ b := fun hb => h (hb ▸ hk)
      simpa [smGet, hk, Ne.symm h] using ih
    · by_cases hb : k = b
      · simp [smGet, hb, h]
      · simpa [smGet, hk, hb] using ih

variable [DecidableEq α]

/-- A read of the key written gives the value written. -/
@[simp] theorem smGet_smPut_same (d : α) (m : SMap α) (a : Nat) (v : α) : smGet d (smPut d m a v) a = v := by
  unfold smPut
  split
  · rename_i h
    rw [smGet_filter_same, h]
  · exact smGet_smInsert_same d m a v

/-- A read of another key gives what it gave. -/
theorem smGet_smPut_other (d : α) (m : SMap α) {a b : Nat} (v : α) (h : b ≠ a) : smGet d (smPut d m a v) b = smGet d m b := by
  unfold smPut
  split
  · exact smGet_filter_other d m h
  · exact smGet_smInsert_other d m v h

/-- Any read after a write. -/
theorem smGet_smPut (d : α) (m : SMap α) (a b : Nat) (v : α) : smGet d (smPut d m a v) b = if b = a then v else smGet d m b := by
  split
  · rename_i h
    rw [h, smGet_smPut_same]
  · rename_i h
    exact smGet_smPut_other d m v h

@[simp] theorem smGet_smMod_same (d : α) (m : SMap α) (a : Nat) (f : α → α) : smGet d (smMod d m a f) a = f (smGet d m a) := by
  simp [smMod]

theorem smGet_smMod_other (d : α) (m : SMap α) {a b : Nat} (f : α → α) (h : b ≠ a) : smGet d (smMod d m a f) b = smGet d m b := by
  simp [smMod, smGet_smPut_other d m _ h]

/-! ### The canonical form -/

theorem smWfFrom_mono (d : Nat → α) {m : SMap α} {lo lo' : Nat} (h : smWfFrom d lo m = true) (hl : lo' ≤ lo) : smWfFrom d lo' m = true := by
  cases m with
  | nil => rfl
  | cons e t =>
    obtain ⟨k, x⟩ := e
    simp only [smWfFrom, Bool.and_eq_true, decide_eq_true_eq] at h ⊢
    exact ⟨⟨Nat.le_trans hl h.1.1, h.1.2⟩, h.2⟩

theorem smWfFrom_filter (d : Nat → α) (p : Nat × α → Bool) {m : SMap α} {lo : Nat} (h : smWfFrom d lo m = true) :
    smWfFrom d lo (m.filter p) = true := by
  induction m generalizing lo with
  | nil => rfl
  | cons e t ih =>
    obtain ⟨k, x⟩ := e
    simp only [smWfFrom, Bool.and_eq_true, decide_eq_true_eq] at h
    by_cases hp : p (k, x) = true
    · simp only [List.filter_cons, hp, if_true, smWfFrom, Bool.and_eq_true, decide_eq_true_eq]
      exact ⟨h.1, ih h.2⟩
    · rw [List.filter_cons_of_neg hp]
      exact ih (smWfFrom_mono d h.2 (by omega))

theorem smWfFrom_smInsert (d : Nat → α) {m : SMap α} {lo a : Nat} {v : α} (h : smWfFrom d lo m = true) (hl : lo ≤ a) (hv : v ≠ d a) :
    smWfFrom d lo (smInsert a v m) = true := by
  induction m generalizing lo with
  | nil => simp [smInsert, smWfFrom, hl, hv]
  | cons e t ih =>
    obtain ⟨k, x⟩ := e
    simp only [smWfFrom, Bool.and_eq_true, decide_eq_true_eq] at h
    unfold smInsert
    split
    · simp only [smWfFrom, Bool.and_eq_true, decide_eq_true_eq]
      exact ⟨⟨hl, hv⟩, ⟨by omega, h.1.2⟩, h.2⟩
    · split
      · rename_i hk
        subst hk
        simp only [smWfFrom, Bool.and_eq_true, decide_eq_true_eq]
        exact ⟨⟨hl, hv⟩, h.2⟩
      · simp only [smWfFrom, Bool.and_eq_true, decide_eq_true_eq]
        exact ⟨h.1, ih h.2 (by omega)⟩

/-- A write with the unlisted value of its key keeps the canonical form. -/
theorem smWf_smPut (d : Nat → α) {m : SMap α} (a : Nat) (v : α) (h : smWf d m = true) : smWf d (smPut (d a) m a v) = true := by
  unfold smPut
  split
  · exact smWfFrom_filter d _ h
  · rename_i hv
    exact smWfFrom_smInsert d h (Nat.zero_le a) hv

theorem smWf_filter (d : Nat → α) (p : Nat × α → Bool) {m : SMap α} (h : smWf d m = true) : smWf d (m.filter p) = true :=
  smWfFrom_filter d p h

theorem smWf_smKeep (d : Nat → α) (p : Nat → Bool) {m : SMap α} (h : smWf d m = true) : smWf d (smKeep p m) = true :=
  smWfFrom_filter d _ h

end

/-! ### Byte memories (R333, R413) -/

@[simp] theorem Memory.read_write_same (m : List Host.Cell) (a : Nat) (b : Byte) : Memory.read (Memory.write m a b) a = b :=
  smGet_smPut_same 0 m a b

theorem Memory.read_write_other (m : List Host.Cell) {a c : Nat} (b : Byte) (h : c ≠ a) :
    Memory.read (Memory.write m a b) c = Memory.read m c := smGet_smPut_other 0 m b h

/-- A write keeps the canonical form. -/
theorem Memory.wf_write {m : List Host.Cell} (a : Nat) (b : Byte) (h : Memory.wf m = true) : Memory.wf (Memory.write m a b) = true :=
  smWf_smPut (fun _ => (0 : Byte)) a b h

/-- Writing several bytes keeps it. -/
theorem Memory.wf_writeN {m : List Host.Cell} (a : Nat) (bs : List Byte) (h : Memory.wf m = true) :
    Memory.wf (Memory.writeN m a bs) = true := by
  induction bs generalizing m a with
  | nil => exact h
  | cons b t ih => exact ih (a + 1) (Memory.wf_write a b h)

/-- Leaving bytes out keeps it. -/
theorem Memory.wf_smKeep {m : List Host.Cell} (p : Nat → Bool) (h : Memory.wf m = true) : Memory.wf (smKeep p m) = true :=
  smWf_smKeep (fun _ => (0 : Byte)) p h

/-- Bytes outside those written read as before. -/
theorem Memory.read_writeN_other (m : List Host.Cell) {a c : Nat} (bs : List Byte) (h : c < a ∨ a + bs.length ≤ c) :
    Memory.read (Memory.writeN m a bs) c = Memory.read m c := by
  induction bs generalizing m a with
  | nil => rfl
  | cons b t ih =>
    simp only [List.length_cons] at h
    rw [Memory.writeN, ih _ (by omega), Memory.read_write_other m b (by omega)]

/-- The bytes written read back. -/
theorem Memory.read_writeN (m : List Host.Cell) (a i : Nat) (bs : List Byte) (h : i < bs.length) :
    Memory.read (Memory.writeN m a bs) (a + i) = bs[i] := by
  induction bs generalizing m a i with
  | nil => simp at h
  | cons b t ih =>
    cases i with
    | zero => simp [Memory.writeN, Memory.read_writeN_other]
    | succ i =>
      have := ih (Memory.write m a b) (a + 1) i (by simpa using h)
      rw [Memory.writeN, show a + (i + 1) = a + 1 + i by omega, this]
      rfl

end Sys2Proof.Machine
end

