-- ==== Sys2Proof/Laws/State.lean ====
section
/-! SUPPORT. One lemma per field per update of State: what each named update leaves unchanged, and what reading after it gives. -/
namespace Sys2Proof.Machine

variable (s : State)

/-! ### setReg -/

@[simp] theorem State.setReg_pending (a : Nat) (v : Word) : (s.setReg a v).pending = s.pending := rfl
@[simp] theorem State.setReg_lanes (a : Nat) (v : Word) : (s.setReg a v).lanes = s.lanes := rfl
@[simp] theorem State.setReg_integ (a : Nat) (v : Word) : (s.setReg a v).integ = s.integ := rfl
@[simp] theorem State.setReg_skrx (a : Nat) (v : Word) : (s.setReg a v).skrx = s.skrx := rfl
@[simp] theorem State.setReg_sktx (a : Nat) (v : Word) : (s.setReg a v).sktx = s.sktx := rfl
@[simp] theorem State.setReg_ports (a : Nat) (v : Word) : (s.setReg a v).ports = s.ports := rfl
@[simp] theorem State.setReg_loom (a : Nat) (v : Word) : (s.setReg a v).loom = s.loom := rfl
@[simp] theorem State.setReg_trd (a : Nat) (v : Word) : (s.setReg a v).trd = s.trd := rfl
@[simp] theorem State.setReg_fine (a : Nat) (v : Word) : (s.setReg a v).fine = s.fine := rfl
@[simp] theorem State.setReg_prot (a : Nat) (v : Word) : (s.setReg a v).prot = s.prot := rfl
@[simp] theorem State.setReg_blz (a : Nat) (v : Word) : (s.setReg a v).blz = s.blz := rfl
@[simp] theorem State.setReg_beat (a : Nat) (v : Word) : (s.setReg a v).beat = s.beat := rfl
@[simp] theorem State.setReg_bmy (a : Nat) (v : Word) : (s.setReg a v).bmy = s.bmy := rfl
@[simp] theorem State.setReg_wvr (a : Nat) (v : Word) : (s.setReg a v).wvr = s.wvr := rfl
@[simp] theorem State.setReg_ten (a : Nat) (v : Word) : (s.setReg a v).ten = s.ten := rfl
@[simp] theorem State.setReg_fmn (a : Nat) (v : Word) : (s.setReg a v).fmn = s.fmn := rfl
@[simp] theorem State.setReg_mbx (a : Nat) (v : Word) : (s.setReg a v).mbx = s.mbx := rfl
@[simp] theorem State.setReg_bank (a : Nat) (v : Word) : (s.setReg a v).bank = s.bank := rfl
@[simp] theorem State.setReg_skid (a : Nat) (v : Word) : (s.setReg a v).skid = s.skid := rfl
@[simp] theorem State.setReg_tly (a : Nat) (v : Word) : (s.setReg a v).tly = s.tly := rfl
@[simp] theorem State.setReg_pcie (a : Nat) (v : Word) : (s.setReg a v).pcie = s.pcie := rfl
@[simp] theorem State.setReg_pwr (a : Nat) (v : Word) : (s.setReg a v).pwr = s.pwr := rfl
@[simp] theorem State.setReg_jtag (a : Nat) (v : Word) : (s.setReg a v).jtag = s.jtag := rfl
@[simp] theorem State.setReg_tst (a : Nat) (v : Word) : (s.setReg a v).tst = s.tst := rfl
@[simp] theorem State.setReg_out (a : Nat) (v : Word) : (s.setReg a v).out = s.out := rfl
@[simp] theorem State.setReg_resp (a : Nat) (v : Word) : (s.setReg a v).resp = s.resp := rfl
@[simp] theorem State.setReg_free (a : Nat) (v : Word) : (s.setReg a v).free = s.free := rfl

/-! ### modLane -/

@[simp] theorem State.modLane_pending (k : Nat) (f : Lane → Lane) : (s.modLane k f).pending = s.pending := rfl
@[simp] theorem State.modLane_regs (k : Nat) (f : Lane → Lane) : (s.modLane k f).regs = s.regs := rfl
@[simp] theorem State.modLane_integ (k : Nat) (f : Lane → Lane) : (s.modLane k f).integ = s.integ := rfl
@[simp] theorem State.modLane_skrx (k : Nat) (f : Lane → Lane) : (s.modLane k f).skrx = s.skrx := rfl
@[simp] theorem State.modLane_sktx (k : Nat) (f : Lane → Lane) : (s.modLane k f).sktx = s.sktx := rfl
@[simp] theorem State.modLane_ports (k : Nat) (f : Lane → Lane) : (s.modLane k f).ports = s.ports := rfl
@[simp] theorem State.modLane_loom (k : Nat) (f : Lane → Lane) : (s.modLane k f).loom = s.loom := rfl
@[simp] theorem State.modLane_trd (k : Nat) (f : Lane → Lane) : (s.modLane k f).trd = s.trd := rfl
@[simp] theorem State.modLane_fine (k : Nat) (f : Lane → Lane) : (s.modLane k f).fine = s.fine := rfl
@[simp] theorem State.modLane_prot (k : Nat) (f : Lane → Lane) : (s.modLane k f).prot = s.prot := rfl
@[simp] theorem State.modLane_blz (k : Nat) (f : Lane → Lane) : (s.modLane k f).blz = s.blz := rfl
@[simp] theorem State.modLane_beat (k : Nat) (f : Lane → Lane) : (s.modLane k f).beat = s.beat := rfl
@[simp] theorem State.modLane_bmy (k : Nat) (f : Lane → Lane) : (s.modLane k f).bmy = s.bmy := rfl
@[simp] theorem State.modLane_wvr (k : Nat) (f : Lane → Lane) : (s.modLane k f).wvr = s.wvr := rfl
@[simp] theorem State.modLane_ten (k : Nat) (f : Lane → Lane) : (s.modLane k f).ten = s.ten := rfl
@[simp] theorem State.modLane_fmn (k : Nat) (f : Lane → Lane) : (s.modLane k f).fmn = s.fmn := rfl
@[simp] theorem State.modLane_mbx (k : Nat) (f : Lane → Lane) : (s.modLane k f).mbx = s.mbx := rfl
@[simp] theorem State.modLane_bank (k : Nat) (f : Lane → Lane) : (s.modLane k f).bank = s.bank := rfl
@[simp] theorem State.modLane_skid (k : Nat) (f : Lane → Lane) : (s.modLane k f).skid = s.skid := rfl
@[simp] theorem State.modLane_tly (k : Nat) (f : Lane → Lane) : (s.modLane k f).tly = s.tly := rfl
@[simp] theorem State.modLane_pcie (k : Nat) (f : Lane → Lane) : (s.modLane k f).pcie = s.pcie := rfl
@[simp] theorem State.modLane_pwr (k : Nat) (f : Lane → Lane) : (s.modLane k f).pwr = s.pwr := rfl
@[simp] theorem State.modLane_jtag (k : Nat) (f : Lane → Lane) : (s.modLane k f).jtag = s.jtag := rfl
@[simp] theorem State.modLane_tst (k : Nat) (f : Lane → Lane) : (s.modLane k f).tst = s.tst := rfl
@[simp] theorem State.modLane_out (k : Nat) (f : Lane → Lane) : (s.modLane k f).out = s.out := rfl
@[simp] theorem State.modLane_resp (k : Nat) (f : Lane → Lane) : (s.modLane k f).resp = s.resp := rfl
@[simp] theorem State.modLane_free (k : Nat) (f : Lane → Lane) : (s.modLane k f).free = s.free := rfl

/-! ### modPort -/

@[simp] theorem State.modPort_pending (k : Nat) (f : PortSt → PortSt) : (s.modPort k f).pending = s.pending := rfl
@[simp] theorem State.modPort_regs (k : Nat) (f : PortSt → PortSt) : (s.modPort k f).regs = s.regs := rfl
@[simp] theorem State.modPort_lanes (k : Nat) (f : PortSt → PortSt) : (s.modPort k f).lanes = s.lanes := rfl
@[simp] theorem State.modPort_integ (k : Nat) (f : PortSt → PortSt) : (s.modPort k f).integ = s.integ := rfl
@[simp] theorem State.modPort_skrx (k : Nat) (f : PortSt → PortSt) : (s.modPort k f).skrx = s.skrx := rfl
@[simp] theorem State.modPort_sktx (k : Nat) (f : PortSt → PortSt) : (s.modPort k f).sktx = s.sktx := rfl
@[simp] theorem State.modPort_loom (k : Nat) (f : PortSt → PortSt) : (s.modPort k f).loom = s.loom := rfl
@[simp] theorem State.modPort_trd (k : Nat) (f : PortSt → PortSt) : (s.modPort k f).trd = s.trd := rfl
@[simp] theorem State.modPort_fine (k : Nat) (f : PortSt → PortSt) : (s.modPort k f).fine = s.fine := rfl
@[simp] theorem State.modPort_prot (k : Nat) (f : PortSt → PortSt) : (s.modPort k f).prot = s.prot := rfl
@[simp] theorem State.modPort_blz (k : Nat) (f : PortSt → PortSt) : (s.modPort k f).blz = s.blz := rfl
@[simp] theorem State.modPort_beat (k : Nat) (f : PortSt → PortSt) : (s.modPort k f).beat = s.beat := rfl
@[simp] theorem State.modPort_bmy (k : Nat) (f : PortSt → PortSt) : (s.modPort k f).bmy = s.bmy := rfl
@[simp] theorem State.modPort_wvr (k : Nat) (f : PortSt → PortSt) : (s.modPort k f).wvr = s.wvr := rfl
@[simp] theorem State.modPort_ten (k : Nat) (f : PortSt → PortSt) : (s.modPort k f).ten = s.ten := rfl
@[simp] theorem State.modPort_fmn (k : Nat) (f : PortSt → PortSt) : (s.modPort k f).fmn = s.fmn := rfl
@[simp] theorem State.modPort_mbx (k : Nat) (f : PortSt → PortSt) : (s.modPort k f).mbx = s.mbx := rfl
@[simp] theorem State.modPort_bank (k : Nat) (f : PortSt → PortSt) : (s.modPort k f).bank = s.bank := rfl
@[simp] theorem State.modPort_skid (k : Nat) (f : PortSt → PortSt) : (s.modPort k f).skid = s.skid := rfl
@[simp] theorem State.modPort_tly (k : Nat) (f : PortSt → PortSt) : (s.modPort k f).tly = s.tly := rfl
@[simp] theorem State.modPort_pcie (k : Nat) (f : PortSt → PortSt) : (s.modPort k f).pcie = s.pcie := rfl
@[simp] theorem State.modPort_pwr (k : Nat) (f : PortSt → PortSt) : (s.modPort k f).pwr = s.pwr := rfl
@[simp] theorem State.modPort_jtag (k : Nat) (f : PortSt → PortSt) : (s.modPort k f).jtag = s.jtag := rfl
@[simp] theorem State.modPort_tst (k : Nat) (f : PortSt → PortSt) : (s.modPort k f).tst = s.tst := rfl
@[simp] theorem State.modPort_out (k : Nat) (f : PortSt → PortSt) : (s.modPort k f).out = s.out := rfl
@[simp] theorem State.modPort_resp (k : Nat) (f : PortSt → PortSt) : (s.modPort k f).resp = s.resp := rfl
@[simp] theorem State.modPort_free (k : Nat) (f : PortSt → PortSt) : (s.modPort k f).free = s.free := rfl

/-! ### modRx -/

@[simp] theorem State.modRx_pending (k : Nat) (f : SkRx → SkRx) : (s.modRx k f).pending = s.pending := rfl
@[simp] theorem State.modRx_regs (k : Nat) (f : SkRx → SkRx) : (s.modRx k f).regs = s.regs := rfl
@[simp] theorem State.modRx_lanes (k : Nat) (f : SkRx → SkRx) : (s.modRx k f).lanes = s.lanes := rfl
@[simp] theorem State.modRx_integ (k : Nat) (f : SkRx → SkRx) : (s.modRx k f).integ = s.integ := rfl
@[simp] theorem State.modRx_sktx (k : Nat) (f : SkRx → SkRx) : (s.modRx k f).sktx = s.sktx := rfl
@[simp] theorem State.modRx_ports (k : Nat) (f : SkRx → SkRx) : (s.modRx k f).ports = s.ports := rfl
@[simp] theorem State.modRx_loom (k : Nat) (f : SkRx → SkRx) : (s.modRx k f).loom = s.loom := rfl
@[simp] theorem State.modRx_trd (k : Nat) (f : SkRx → SkRx) : (s.modRx k f).trd = s.trd := rfl
@[simp] theorem State.modRx_fine (k : Nat) (f : SkRx → SkRx) : (s.modRx k f).fine = s.fine := rfl
@[simp] theorem State.modRx_prot (k : Nat) (f : SkRx → SkRx) : (s.modRx k f).prot = s.prot := rfl
@[simp] theorem State.modRx_blz (k : Nat) (f : SkRx → SkRx) : (s.modRx k f).blz = s.blz := rfl
@[simp] theorem State.modRx_beat (k : Nat) (f : SkRx → SkRx) : (s.modRx k f).beat = s.beat := rfl
@[simp] theorem State.modRx_bmy (k : Nat) (f : SkRx → SkRx) : (s.modRx k f).bmy = s.bmy := rfl
@[simp] theorem State.modRx_wvr (k : Nat) (f : SkRx → SkRx) : (s.modRx k f).wvr = s.wvr := rfl
@[simp] theorem State.modRx_ten (k : Nat) (f : SkRx → SkRx) : (s.modRx k f).ten = s.ten := rfl
@[simp] theorem State.modRx_fmn (k : Nat) (f : SkRx → SkRx) : (s.modRx k f).fmn = s.fmn := rfl
@[simp] theorem State.modRx_mbx (k : Nat) (f : SkRx → SkRx) : (s.modRx k f).mbx = s.mbx := rfl
@[simp] theorem State.modRx_bank (k : Nat) (f : SkRx → SkRx) : (s.modRx k f).bank = s.bank := rfl
@[simp] theorem State.modRx_skid (k : Nat) (f : SkRx → SkRx) : (s.modRx k f).skid = s.skid := rfl
@[simp] theorem State.modRx_tly (k : Nat) (f : SkRx → SkRx) : (s.modRx k f).tly = s.tly := rfl
@[simp] theorem State.modRx_pcie (k : Nat) (f : SkRx → SkRx) : (s.modRx k f).pcie = s.pcie := rfl
@[simp] theorem State.modRx_pwr (k : Nat) (f : SkRx → SkRx) : (s.modRx k f).pwr = s.pwr := rfl
@[simp] theorem State.modRx_jtag (k : Nat) (f : SkRx → SkRx) : (s.modRx k f).jtag = s.jtag := rfl
@[simp] theorem State.modRx_tst (k : Nat) (f : SkRx → SkRx) : (s.modRx k f).tst = s.tst := rfl
@[simp] theorem State.modRx_out (k : Nat) (f : SkRx → SkRx) : (s.modRx k f).out = s.out := rfl
@[simp] theorem State.modRx_resp (k : Nat) (f : SkRx → SkRx) : (s.modRx k f).resp = s.resp := rfl
@[simp] theorem State.modRx_free (k : Nat) (f : SkRx → SkRx) : (s.modRx k f).free = s.free := rfl

/-! ### modTx -/

@[simp] theorem State.modTx_pending (k : Nat) (f : SkTx → SkTx) : (s.modTx k f).pending = s.pending := rfl
@[simp] theorem State.modTx_regs (k : Nat) (f : SkTx → SkTx) : (s.modTx k f).regs = s.regs := rfl
@[simp] theorem State.modTx_lanes (k : Nat) (f : SkTx → SkTx) : (s.modTx k f).lanes = s.lanes := rfl
@[simp] theorem State.modTx_integ (k : Nat) (f : SkTx → SkTx) : (s.modTx k f).integ = s.integ := rfl
@[simp] theorem State.modTx_skrx (k : Nat) (f : SkTx → SkTx) : (s.modTx k f).skrx = s.skrx := rfl
@[simp] theorem State.modTx_ports (k : Nat) (f : SkTx → SkTx) : (s.modTx k f).ports = s.ports := rfl
@[simp] theorem State.modTx_loom (k : Nat) (f : SkTx → SkTx) : (s.modTx k f).loom = s.loom := rfl
@[simp] theorem State.modTx_trd (k : Nat) (f : SkTx → SkTx) : (s.modTx k f).trd = s.trd := rfl
@[simp] theorem State.modTx_fine (k : Nat) (f : SkTx → SkTx) : (s.modTx k f).fine = s.fine := rfl
@[simp] theorem State.modTx_prot (k : Nat) (f : SkTx → SkTx) : (s.modTx k f).prot = s.prot := rfl
@[simp] theorem State.modTx_blz (k : Nat) (f : SkTx → SkTx) : (s.modTx k f).blz = s.blz := rfl
@[simp] theorem State.modTx_beat (k : Nat) (f : SkTx → SkTx) : (s.modTx k f).beat = s.beat := rfl
@[simp] theorem State.modTx_bmy (k : Nat) (f : SkTx → SkTx) : (s.modTx k f).bmy = s.bmy := rfl
@[simp] theorem State.modTx_wvr (k : Nat) (f : SkTx → SkTx) : (s.modTx k f).wvr = s.wvr := rfl
@[simp] theorem State.modTx_ten (k : Nat) (f : SkTx → SkTx) : (s.modTx k f).ten = s.ten := rfl
@[simp] theorem State.modTx_fmn (k : Nat) (f : SkTx → SkTx) : (s.modTx k f).fmn = s.fmn := rfl
@[simp] theorem State.modTx_mbx (k : Nat) (f : SkTx → SkTx) : (s.modTx k f).mbx = s.mbx := rfl
@[simp] theorem State.modTx_bank (k : Nat) (f : SkTx → SkTx) : (s.modTx k f).bank = s.bank := rfl
@[simp] theorem State.modTx_skid (k : Nat) (f : SkTx → SkTx) : (s.modTx k f).skid = s.skid := rfl
@[simp] theorem State.modTx_tly (k : Nat) (f : SkTx → SkTx) : (s.modTx k f).tly = s.tly := rfl
@[simp] theorem State.modTx_pcie (k : Nat) (f : SkTx → SkTx) : (s.modTx k f).pcie = s.pcie := rfl
@[simp] theorem State.modTx_pwr (k : Nat) (f : SkTx → SkTx) : (s.modTx k f).pwr = s.pwr := rfl
@[simp] theorem State.modTx_jtag (k : Nat) (f : SkTx → SkTx) : (s.modTx k f).jtag = s.jtag := rfl
@[simp] theorem State.modTx_tst (k : Nat) (f : SkTx → SkTx) : (s.modTx k f).tst = s.tst := rfl
@[simp] theorem State.modTx_out (k : Nat) (f : SkTx → SkTx) : (s.modTx k f).out = s.out := rfl
@[simp] theorem State.modTx_resp (k : Nat) (f : SkTx → SkTx) : (s.modTx k f).resp = s.resp := rfl
@[simp] theorem State.modTx_free (k : Nat) (f : SkTx → SkTx) : (s.modTx k f).free = s.free := rfl

/-! ### modInteg -/

@[simp] theorem State.modInteg_pending (k : Nat) (f : Integ → Integ) : (s.modInteg k f).pending = s.pending := rfl
@[simp] theorem State.modInteg_regs (k : Nat) (f : Integ → Integ) : (s.modInteg k f).regs = s.regs := rfl
@[simp] theorem State.modInteg_lanes (k : Nat) (f : Integ → Integ) : (s.modInteg k f).lanes = s.lanes := rfl
@[simp] theorem State.modInteg_skrx (k : Nat) (f : Integ → Integ) : (s.modInteg k f).skrx = s.skrx := rfl
@[simp] theorem State.modInteg_sktx (k : Nat) (f : Integ → Integ) : (s.modInteg k f).sktx = s.sktx := rfl
@[simp] theorem State.modInteg_ports (k : Nat) (f : Integ → Integ) : (s.modInteg k f).ports = s.ports := rfl
@[simp] theorem State.modInteg_loom (k : Nat) (f : Integ → Integ) : (s.modInteg k f).loom = s.loom := rfl
@[simp] theorem State.modInteg_trd (k : Nat) (f : Integ → Integ) : (s.modInteg k f).trd = s.trd := rfl
@[simp] theorem State.modInteg_fine (k : Nat) (f : Integ → Integ) : (s.modInteg k f).fine = s.fine := rfl
@[simp] theorem State.modInteg_prot (k : Nat) (f : Integ → Integ) : (s.modInteg k f).prot = s.prot := rfl
@[simp] theorem State.modInteg_blz (k : Nat) (f : Integ → Integ) : (s.modInteg k f).blz = s.blz := rfl
@[simp] theorem State.modInteg_beat (k : Nat) (f : Integ → Integ) : (s.modInteg k f).beat = s.beat := rfl
@[simp] theorem State.modInteg_bmy (k : Nat) (f : Integ → Integ) : (s.modInteg k f).bmy = s.bmy := rfl
@[simp] theorem State.modInteg_wvr (k : Nat) (f : Integ → Integ) : (s.modInteg k f).wvr = s.wvr := rfl
@[simp] theorem State.modInteg_ten (k : Nat) (f : Integ → Integ) : (s.modInteg k f).ten = s.ten := rfl
@[simp] theorem State.modInteg_fmn (k : Nat) (f : Integ → Integ) : (s.modInteg k f).fmn = s.fmn := rfl
@[simp] theorem State.modInteg_mbx (k : Nat) (f : Integ → Integ) : (s.modInteg k f).mbx = s.mbx := rfl
@[simp] theorem State.modInteg_bank (k : Nat) (f : Integ → Integ) : (s.modInteg k f).bank = s.bank := rfl
@[simp] theorem State.modInteg_skid (k : Nat) (f : Integ → Integ) : (s.modInteg k f).skid = s.skid := rfl
@[simp] theorem State.modInteg_tly (k : Nat) (f : Integ → Integ) : (s.modInteg k f).tly = s.tly := rfl
@[simp] theorem State.modInteg_pcie (k : Nat) (f : Integ → Integ) : (s.modInteg k f).pcie = s.pcie := rfl
@[simp] theorem State.modInteg_pwr (k : Nat) (f : Integ → Integ) : (s.modInteg k f).pwr = s.pwr := rfl
@[simp] theorem State.modInteg_jtag (k : Nat) (f : Integ → Integ) : (s.modInteg k f).jtag = s.jtag := rfl
@[simp] theorem State.modInteg_tst (k : Nat) (f : Integ → Integ) : (s.modInteg k f).tst = s.tst := rfl
@[simp] theorem State.modInteg_out (k : Nat) (f : Integ → Integ) : (s.modInteg k f).out = s.out := rfl
@[simp] theorem State.modInteg_resp (k : Nat) (f : Integ → Integ) : (s.modInteg k f).resp = s.resp := rfl
@[simp] theorem State.modInteg_free (k : Nat) (f : Integ → Integ) : (s.modInteg k f).free = s.free := rfl

/-! ### modGrp -/

@[simp] theorem State.modGrp_pending (k : Nat) (f : Grp → Grp) : (s.modGrp k f).pending = s.pending := rfl
@[simp] theorem State.modGrp_regs (k : Nat) (f : Grp → Grp) : (s.modGrp k f).regs = s.regs := rfl
@[simp] theorem State.modGrp_lanes (k : Nat) (f : Grp → Grp) : (s.modGrp k f).lanes = s.lanes := rfl
@[simp] theorem State.modGrp_integ (k : Nat) (f : Grp → Grp) : (s.modGrp k f).integ = s.integ := rfl
@[simp] theorem State.modGrp_skrx (k : Nat) (f : Grp → Grp) : (s.modGrp k f).skrx = s.skrx := rfl
@[simp] theorem State.modGrp_sktx (k : Nat) (f : Grp → Grp) : (s.modGrp k f).sktx = s.sktx := rfl
@[simp] theorem State.modGrp_ports (k : Nat) (f : Grp → Grp) : (s.modGrp k f).ports = s.ports := rfl
@[simp] theorem State.modGrp_loom (k : Nat) (f : Grp → Grp) : (s.modGrp k f).loom = s.loom := rfl
@[simp] theorem State.modGrp_trd (k : Nat) (f : Grp → Grp) : (s.modGrp k f).trd = s.trd := rfl
@[simp] theorem State.modGrp_fine (k : Nat) (f : Grp → Grp) : (s.modGrp k f).fine = s.fine := rfl
@[simp] theorem State.modGrp_blz (k : Nat) (f : Grp → Grp) : (s.modGrp k f).blz = s.blz := rfl
@[simp] theorem State.modGrp_beat (k : Nat) (f : Grp → Grp) : (s.modGrp k f).beat = s.beat := rfl
@[simp] theorem State.modGrp_bmy (k : Nat) (f : Grp → Grp) : (s.modGrp k f).bmy = s.bmy := rfl
@[simp] theorem State.modGrp_wvr (k : Nat) (f : Grp → Grp) : (s.modGrp k f).wvr = s.wvr := rfl
@[simp] theorem State.modGrp_ten (k : Nat) (f : Grp → Grp) : (s.modGrp k f).ten = s.ten := rfl
@[simp] theorem State.modGrp_fmn (k : Nat) (f : Grp → Grp) : (s.modGrp k f).fmn = s.fmn := rfl
@[simp] theorem State.modGrp_mbx (k : Nat) (f : Grp → Grp) : (s.modGrp k f).mbx = s.mbx := rfl
@[simp] theorem State.modGrp_bank (k : Nat) (f : Grp → Grp) : (s.modGrp k f).bank = s.bank := rfl
@[simp] theorem State.modGrp_skid (k : Nat) (f : Grp → Grp) : (s.modGrp k f).skid = s.skid := rfl
@[simp] theorem State.modGrp_tly (k : Nat) (f : Grp → Grp) : (s.modGrp k f).tly = s.tly := rfl
@[simp] theorem State.modGrp_pcie (k : Nat) (f : Grp → Grp) : (s.modGrp k f).pcie = s.pcie := rfl
@[simp] theorem State.modGrp_pwr (k : Nat) (f : Grp → Grp) : (s.modGrp k f).pwr = s.pwr := rfl
@[simp] theorem State.modGrp_jtag (k : Nat) (f : Grp → Grp) : (s.modGrp k f).jtag = s.jtag := rfl
@[simp] theorem State.modGrp_tst (k : Nat) (f : Grp → Grp) : (s.modGrp k f).tst = s.tst := rfl
@[simp] theorem State.modGrp_out (k : Nat) (f : Grp → Grp) : (s.modGrp k f).out = s.out := rfl
@[simp] theorem State.modGrp_resp (k : Nat) (f : Grp → Grp) : (s.modGrp k f).resp = s.resp := rfl
@[simp] theorem State.modGrp_free (k : Nat) (f : Grp → Grp) : (s.modGrp k f).free = s.free := rfl

/-! ### modUnit -/

@[simp] theorem State.modUnit_pending (k : Nat) (f : BlzUnit → BlzUnit) : (s.modUnit k f).pending = s.pending := rfl
@[simp] theorem State.modUnit_regs (k : Nat) (f : BlzUnit → BlzUnit) : (s.modUnit k f).regs = s.regs := rfl
@[simp] theorem State.modUnit_lanes (k : Nat) (f : BlzUnit → BlzUnit) : (s.modUnit k f).lanes = s.lanes := rfl
@[simp] theorem State.modUnit_integ (k : Nat) (f : BlzUnit → BlzUnit) : (s.modUnit k f).integ = s.integ := rfl
@[simp] theorem State.modUnit_skrx (k : Nat) (f : BlzUnit → BlzUnit) : (s.modUnit k f).skrx = s.skrx := rfl
@[simp] theorem State.modUnit_sktx (k : Nat) (f : BlzUnit → BlzUnit) : (s.modUnit k f).sktx = s.sktx := rfl
@[simp] theorem State.modUnit_ports (k : Nat) (f : BlzUnit → BlzUnit) : (s.modUnit k f).ports = s.ports := rfl
@[simp] theorem State.modUnit_loom (k : Nat) (f : BlzUnit → BlzUnit) : (s.modUnit k f).loom = s.loom := rfl
@[simp] theorem State.modUnit_trd (k : Nat) (f : BlzUnit → BlzUnit) : (s.modUnit k f).trd = s.trd := rfl
@[simp] theorem State.modUnit_fine (k : Nat) (f : BlzUnit → BlzUnit) : (s.modUnit k f).fine = s.fine := rfl
@[simp] theorem State.modUnit_prot (k : Nat) (f : BlzUnit → BlzUnit) : (s.modUnit k f).prot = s.prot := rfl
@[simp] theorem State.modUnit_beat (k : Nat) (f : BlzUnit → BlzUnit) : (s.modUnit k f).beat = s.beat := rfl
@[simp] theorem State.modUnit_bmy (k : Nat) (f : BlzUnit → BlzUnit) : (s.modUnit k f).bmy = s.bmy := rfl
@[simp] theorem State.modUnit_wvr (k : Nat) (f : BlzUnit → BlzUnit) : (s.modUnit k f).wvr = s.wvr := rfl
@[simp] theorem State.modUnit_ten (k : Nat) (f : BlzUnit → BlzUnit) : (s.modUnit k f).ten = s.ten := rfl
@[simp] theorem State.modUnit_fmn (k : Nat) (f : BlzUnit → BlzUnit) : (s.modUnit k f).fmn = s.fmn := rfl
@[simp] theorem State.modUnit_mbx (k : Nat) (f : BlzUnit → BlzUnit) : (s.modUnit k f).mbx = s.mbx := rfl
@[simp] theorem State.modUnit_bank (k : Nat) (f : BlzUnit → BlzUnit) : (s.modUnit k f).bank = s.bank := rfl
@[simp] theorem State.modUnit_skid (k : Nat) (f : BlzUnit → BlzUnit) : (s.modUnit k f).skid = s.skid := rfl
@[simp] theorem State.modUnit_tly (k : Nat) (f : BlzUnit → BlzUnit) : (s.modUnit k f).tly = s.tly := rfl
@[simp] theorem State.modUnit_pcie (k : Nat) (f : BlzUnit → BlzUnit) : (s.modUnit k f).pcie = s.pcie := rfl
@[simp] theorem State.modUnit_pwr (k : Nat) (f : BlzUnit → BlzUnit) : (s.modUnit k f).pwr = s.pwr := rfl
@[simp] theorem State.modUnit_jtag (k : Nat) (f : BlzUnit → BlzUnit) : (s.modUnit k f).jtag = s.jtag := rfl
@[simp] theorem State.modUnit_tst (k : Nat) (f : BlzUnit → BlzUnit) : (s.modUnit k f).tst = s.tst := rfl
@[simp] theorem State.modUnit_out (k : Nat) (f : BlzUnit → BlzUnit) : (s.modUnit k f).out = s.out := rfl
@[simp] theorem State.modUnit_resp (k : Nat) (f : BlzUnit → BlzUnit) : (s.modUnit k f).resp = s.resp := rfl
@[simp] theorem State.modUnit_free (k : Nat) (f : BlzUnit → BlzUnit) : (s.modUnit k f).free = s.free := rfl

/-! ### modCand -/

@[simp] theorem State.modCand_pending (k : Nat) (f : Cand → Cand) : (s.modCand k f).pending = s.pending := rfl
@[simp] theorem State.modCand_regs (k : Nat) (f : Cand → Cand) : (s.modCand k f).regs = s.regs := rfl
@[simp] theorem State.modCand_lanes (k : Nat) (f : Cand → Cand) : (s.modCand k f).lanes = s.lanes := rfl
@[simp] theorem State.modCand_integ (k : Nat) (f : Cand → Cand) : (s.modCand k f).integ = s.integ := rfl
@[simp] theorem State.modCand_skrx (k : Nat) (f : Cand → Cand) : (s.modCand k f).skrx = s.skrx := rfl
@[simp] theorem State.modCand_sktx (k : Nat) (f : Cand → Cand) : (s.modCand k f).sktx = s.sktx := rfl
@[simp] theorem State.modCand_ports (k : Nat) (f : Cand → Cand) : (s.modCand k f).ports = s.ports := rfl
@[simp] theorem State.modCand_loom (k : Nat) (f : Cand → Cand) : (s.modCand k f).loom = s.loom := rfl
@[simp] theorem State.modCand_trd (k : Nat) (f : Cand → Cand) : (s.modCand k f).trd = s.trd := rfl
@[simp] theorem State.modCand_fine (k : Nat) (f : Cand → Cand) : (s.modCand k f).fine = s.fine := rfl
@[simp] theorem State.modCand_prot (k : Nat) (f : Cand → Cand) : (s.modCand k f).prot = s.prot := rfl
@[simp] theorem State.modCand_blz (k : Nat) (f : Cand → Cand) : (s.modCand k f).blz = s.blz := rfl
@[simp] theorem State.modCand_bmy (k : Nat) (f : Cand → Cand) : (s.modCand k f).bmy = s.bmy := rfl
@[simp] theorem State.modCand_wvr (k : Nat) (f : Cand → Cand) : (s.modCand k f).wvr = s.wvr := rfl
@[simp] theorem State.modCand_ten (k : Nat) (f : Cand → Cand) : (s.modCand k f).ten = s.ten := rfl
@[simp] theorem State.modCand_fmn (k : Nat) (f : Cand → Cand) : (s.modCand k f).fmn = s.fmn := rfl
@[simp] theorem State.modCand_mbx (k : Nat) (f : Cand → Cand) : (s.modCand k f).mbx = s.mbx := rfl
@[simp] theorem State.modCand_bank (k : Nat) (f : Cand → Cand) : (s.modCand k f).bank = s.bank := rfl
@[simp] theorem State.modCand_skid (k : Nat) (f : Cand → Cand) : (s.modCand k f).skid = s.skid := rfl
@[simp] theorem State.modCand_tly (k : Nat) (f : Cand → Cand) : (s.modCand k f).tly = s.tly := rfl
@[simp] theorem State.modCand_pcie (k : Nat) (f : Cand → Cand) : (s.modCand k f).pcie = s.pcie := rfl
@[simp] theorem State.modCand_pwr (k : Nat) (f : Cand → Cand) : (s.modCand k f).pwr = s.pwr := rfl
@[simp] theorem State.modCand_jtag (k : Nat) (f : Cand → Cand) : (s.modCand k f).jtag = s.jtag := rfl
@[simp] theorem State.modCand_tst (k : Nat) (f : Cand → Cand) : (s.modCand k f).tst = s.tst := rfl
@[simp] theorem State.modCand_out (k : Nat) (f : Cand → Cand) : (s.modCand k f).out = s.out := rfl
@[simp] theorem State.modCand_resp (k : Nat) (f : Cand → Cand) : (s.modCand k f).resp = s.resp := rfl
@[simp] theorem State.modCand_free (k : Nat) (f : Cand → Cand) : (s.modCand k f).free = s.free := rfl

/-! ### modNbr -/

@[simp] theorem State.modNbr_pending (k : Nat) (f : Nbr → Nbr) : (s.modNbr k f).pending = s.pending := rfl
@[simp] theorem State.modNbr_regs (k : Nat) (f : Nbr → Nbr) : (s.modNbr k f).regs = s.regs := rfl
@[simp] theorem State.modNbr_lanes (k : Nat) (f : Nbr → Nbr) : (s.modNbr k f).lanes = s.lanes := rfl
@[simp] theorem State.modNbr_integ (k : Nat) (f : Nbr → Nbr) : (s.modNbr k f).integ = s.integ := rfl
@[simp] theorem State.modNbr_skrx (k : Nat) (f : Nbr → Nbr) : (s.modNbr k f).skrx = s.skrx := rfl
@[simp] theorem State.modNbr_sktx (k : Nat) (f : Nbr → Nbr) : (s.modNbr k f).sktx = s.sktx := rfl
@[simp] theorem State.modNbr_ports (k : Nat) (f : Nbr → Nbr) : (s.modNbr k f).ports = s.ports := rfl
@[simp] theorem State.modNbr_loom (k : Nat) (f : Nbr → Nbr) : (s.modNbr k f).loom = s.loom := rfl
@[simp] theorem State.modNbr_trd (k : Nat) (f : Nbr → Nbr) : (s.modNbr k f).trd = s.trd := rfl
@[simp] theorem State.modNbr_fine (k : Nat) (f : Nbr → Nbr) : (s.modNbr k f).fine = s.fine := rfl
@[simp] theorem State.modNbr_prot (k : Nat) (f : Nbr → Nbr) : (s.modNbr k f).prot = s.prot := rfl
@[simp] theorem State.modNbr_blz (k : Nat) (f : Nbr → Nbr) : (s.modNbr k f).blz = s.blz := rfl
@[simp] theorem State.modNbr_beat (k : Nat) (f : Nbr → Nbr) : (s.modNbr k f).beat = s.beat := rfl
@[simp] theorem State.modNbr_wvr (k : Nat) (f : Nbr → Nbr) : (s.modNbr k f).wvr = s.wvr := rfl
@[simp] theorem State.modNbr_ten (k : Nat) (f : Nbr → Nbr) : (s.modNbr k f).ten = s.ten := rfl
@[simp] theorem State.modNbr_fmn (k : Nat) (f : Nbr → Nbr) : (s.modNbr k f).fmn = s.fmn := rfl
@[simp] theorem State.modNbr_mbx (k : Nat) (f : Nbr → Nbr) : (s.modNbr k f).mbx = s.mbx := rfl
@[simp] theorem State.modNbr_bank (k : Nat) (f : Nbr → Nbr) : (s.modNbr k f).bank = s.bank := rfl
@[simp] theorem State.modNbr_skid (k : Nat) (f : Nbr → Nbr) : (s.modNbr k f).skid = s.skid := rfl
@[simp] theorem State.modNbr_tly (k : Nat) (f : Nbr → Nbr) : (s.modNbr k f).tly = s.tly := rfl
@[simp] theorem State.modNbr_pcie (k : Nat) (f : Nbr → Nbr) : (s.modNbr k f).pcie = s.pcie := rfl
@[simp] theorem State.modNbr_pwr (k : Nat) (f : Nbr → Nbr) : (s.modNbr k f).pwr = s.pwr := rfl
@[simp] theorem State.modNbr_jtag (k : Nat) (f : Nbr → Nbr) : (s.modNbr k f).jtag = s.jtag := rfl
@[simp] theorem State.modNbr_tst (k : Nat) (f : Nbr → Nbr) : (s.modNbr k f).tst = s.tst := rfl
@[simp] theorem State.modNbr_out (k : Nat) (f : Nbr → Nbr) : (s.modNbr k f).out = s.out := rfl
@[simp] theorem State.modNbr_resp (k : Nat) (f : Nbr → Nbr) : (s.modNbr k f).resp = s.resp := rfl
@[simp] theorem State.modNbr_free (k : Nat) (f : Nbr → Nbr) : (s.modNbr k f).free = s.free := rfl

/-! ### modWeaver -/

@[simp] theorem State.modWeaver_pending (k : Nat) (f : Weaver → Weaver) : (s.modWeaver k f).pending = s.pending := rfl
@[simp] theorem State.modWeaver_regs (k : Nat) (f : Weaver → Weaver) : (s.modWeaver k f).regs = s.regs := rfl
@[simp] theorem State.modWeaver_lanes (k : Nat) (f : Weaver → Weaver) : (s.modWeaver k f).lanes = s.lanes := rfl
@[simp] theorem State.modWeaver_integ (k : Nat) (f : Weaver → Weaver) : (s.modWeaver k f).integ = s.integ := rfl
@[simp] theorem State.modWeaver_skrx (k : Nat) (f : Weaver → Weaver) : (s.modWeaver k f).skrx = s.skrx := rfl
@[simp] theorem State.modWeaver_sktx (k : Nat) (f : Weaver → Weaver) : (s.modWeaver k f).sktx = s.sktx := rfl
@[simp] theorem State.modWeaver_ports (k : Nat) (f : Weaver → Weaver) : (s.modWeaver k f).ports = s.ports := rfl
@[simp] theorem State.modWeaver_loom (k : Nat) (f : Weaver → Weaver) : (s.modWeaver k f).loom = s.loom := rfl
@[simp] theorem State.modWeaver_trd (k : Nat) (f : Weaver → Weaver) : (s.modWeaver k f).trd = s.trd := rfl
@[simp] theorem State.modWeaver_fine (k : Nat) (f : Weaver → Weaver) : (s.modWeaver k f).fine = s.fine := rfl
@[simp] theorem State.modWeaver_prot (k : Nat) (f : Weaver → Weaver) : (s.modWeaver k f).prot = s.prot := rfl
@[simp] theorem State.modWeaver_blz (k : Nat) (f : Weaver → Weaver) : (s.modWeaver k f).blz = s.blz := rfl
@[simp] theorem State.modWeaver_beat (k : Nat) (f : Weaver → Weaver) : (s.modWeaver k f).beat = s.beat := rfl
@[simp] theorem State.modWeaver_bmy (k : Nat) (f : Weaver → Weaver) : (s.modWeaver k f).bmy = s.bmy := rfl
@[simp] theorem State.modWeaver_ten (k : Nat) (f : Weaver → Weaver) : (s.modWeaver k f).ten = s.ten := rfl
@[simp] theorem State.modWeaver_fmn (k : Nat) (f : Weaver → Weaver) : (s.modWeaver k f).fmn = s.fmn := rfl
@[simp] theorem State.modWeaver_mbx (k : Nat) (f : Weaver → Weaver) : (s.modWeaver k f).mbx = s.mbx := rfl
@[simp] theorem State.modWeaver_bank (k : Nat) (f : Weaver → Weaver) : (s.modWeaver k f).bank = s.bank := rfl
@[simp] theorem State.modWeaver_skid (k : Nat) (f : Weaver → Weaver) : (s.modWeaver k f).skid = s.skid := rfl
@[simp] theorem State.modWeaver_tly (k : Nat) (f : Weaver → Weaver) : (s.modWeaver k f).tly = s.tly := rfl
@[simp] theorem State.modWeaver_pcie (k : Nat) (f : Weaver → Weaver) : (s.modWeaver k f).pcie = s.pcie := rfl
@[simp] theorem State.modWeaver_pwr (k : Nat) (f : Weaver → Weaver) : (s.modWeaver k f).pwr = s.pwr := rfl
@[simp] theorem State.modWeaver_jtag (k : Nat) (f : Weaver → Weaver) : (s.modWeaver k f).jtag = s.jtag := rfl
@[simp] theorem State.modWeaver_tst (k : Nat) (f : Weaver → Weaver) : (s.modWeaver k f).tst = s.tst := rfl
@[simp] theorem State.modWeaver_out (k : Nat) (f : Weaver → Weaver) : (s.modWeaver k f).out = s.out := rfl
@[simp] theorem State.modWeaver_resp (k : Nat) (f : Weaver → Weaver) : (s.modWeaver k f).resp = s.resp := rfl
@[simp] theorem State.modWeaver_free (k : Nat) (f : Weaver → Weaver) : (s.modWeaver k f).free = s.free := rfl

/-! ### modTrd -/

@[simp] theorem State.modTrd_pending (f : Engine → Engine) : (s.modTrd f).pending = s.pending := rfl
@[simp] theorem State.modTrd_regs (f : Engine → Engine) : (s.modTrd f).regs = s.regs := rfl
@[simp] theorem State.modTrd_lanes (f : Engine → Engine) : (s.modTrd f).lanes = s.lanes := rfl
@[simp] theorem State.modTrd_integ (f : Engine → Engine) : (s.modTrd f).integ = s.integ := rfl
@[simp] theorem State.modTrd_skrx (f : Engine → Engine) : (s.modTrd f).skrx = s.skrx := rfl
@[simp] theorem State.modTrd_sktx (f : Engine → Engine) : (s.modTrd f).sktx = s.sktx := rfl
@[simp] theorem State.modTrd_ports (f : Engine → Engine) : (s.modTrd f).ports = s.ports := rfl
@[simp] theorem State.modTrd_loom (f : Engine → Engine) : (s.modTrd f).loom = s.loom := rfl
@[simp] theorem State.modTrd_fine (f : Engine → Engine) : (s.modTrd f).fine = s.fine := rfl
@[simp] theorem State.modTrd_prot (f : Engine → Engine) : (s.modTrd f).prot = s.prot := rfl
@[simp] theorem State.modTrd_blz (f : Engine → Engine) : (s.modTrd f).blz = s.blz := rfl
@[simp] theorem State.modTrd_beat (f : Engine → Engine) : (s.modTrd f).beat = s.beat := rfl
@[simp] theorem State.modTrd_bmy (f : Engine → Engine) : (s.modTrd f).bmy = s.bmy := rfl
@[simp] theorem State.modTrd_wvr (f : Engine → Engine) : (s.modTrd f).wvr = s.wvr := rfl
@[simp] theorem State.modTrd_ten (f : Engine → Engine) : (s.modTrd f).ten = s.ten := rfl
@[simp] theorem State.modTrd_fmn (f : Engine → Engine) : (s.modTrd f).fmn = s.fmn := rfl
@[simp] theorem State.modTrd_mbx (f : Engine → Engine) : (s.modTrd f).mbx = s.mbx := rfl
@[simp] theorem State.modTrd_bank (f : Engine → Engine) : (s.modTrd f).bank = s.bank := rfl
@[simp] theorem State.modTrd_skid (f : Engine → Engine) : (s.modTrd f).skid = s.skid := rfl
@[simp] theorem State.modTrd_tly (f : Engine → Engine) : (s.modTrd f).tly = s.tly := rfl
@[simp] theorem State.modTrd_pcie (f : Engine → Engine) : (s.modTrd f).pcie = s.pcie := rfl
@[simp] theorem State.modTrd_pwr (f : Engine → Engine) : (s.modTrd f).pwr = s.pwr := rfl
@[simp] theorem State.modTrd_jtag (f : Engine → Engine) : (s.modTrd f).jtag = s.jtag := rfl
@[simp] theorem State.modTrd_tst (f : Engine → Engine) : (s.modTrd f).tst = s.tst := rfl
@[simp] theorem State.modTrd_out (f : Engine → Engine) : (s.modTrd f).out = s.out := rfl
@[simp] theorem State.modTrd_resp (f : Engine → Engine) : (s.modTrd f).resp = s.resp := rfl
@[simp] theorem State.modTrd_free (f : Engine → Engine) : (s.modTrd f).free = s.free := rfl

/-! ### modFe -/

@[simp] theorem State.modFe_pending (f : Engine → Engine) : (s.modFe f).pending = s.pending := rfl
@[simp] theorem State.modFe_regs (f : Engine → Engine) : (s.modFe f).regs = s.regs := rfl
@[simp] theorem State.modFe_lanes (f : Engine → Engine) : (s.modFe f).lanes = s.lanes := rfl
@[simp] theorem State.modFe_integ (f : Engine → Engine) : (s.modFe f).integ = s.integ := rfl
@[simp] theorem State.modFe_skrx (f : Engine → Engine) : (s.modFe f).skrx = s.skrx := rfl
@[simp] theorem State.modFe_sktx (f : Engine → Engine) : (s.modFe f).sktx = s.sktx := rfl
@[simp] theorem State.modFe_ports (f : Engine → Engine) : (s.modFe f).ports = s.ports := rfl
@[simp] theorem State.modFe_loom (f : Engine → Engine) : (s.modFe f).loom = s.loom := rfl
@[simp] theorem State.modFe_trd (f : Engine → Engine) : (s.modFe f).trd = s.trd := rfl
@[simp] theorem State.modFe_prot (f : Engine → Engine) : (s.modFe f).prot = s.prot := rfl
@[simp] theorem State.modFe_blz (f : Engine → Engine) : (s.modFe f).blz = s.blz := rfl
@[simp] theorem State.modFe_beat (f : Engine → Engine) : (s.modFe f).beat = s.beat := rfl
@[simp] theorem State.modFe_bmy (f : Engine → Engine) : (s.modFe f).bmy = s.bmy := rfl
@[simp] theorem State.modFe_wvr (f : Engine → Engine) : (s.modFe f).wvr = s.wvr := rfl
@[simp] theorem State.modFe_ten (f : Engine → Engine) : (s.modFe f).ten = s.ten := rfl
@[simp] theorem State.modFe_fmn (f : Engine → Engine) : (s.modFe f).fmn = s.fmn := rfl
@[simp] theorem State.modFe_mbx (f : Engine → Engine) : (s.modFe f).mbx = s.mbx := rfl
@[simp] theorem State.modFe_bank (f : Engine → Engine) : (s.modFe f).bank = s.bank := rfl
@[simp] theorem State.modFe_skid (f : Engine → Engine) : (s.modFe f).skid = s.skid := rfl
@[simp] theorem State.modFe_tly (f : Engine → Engine) : (s.modFe f).tly = s.tly := rfl
@[simp] theorem State.modFe_pcie (f : Engine → Engine) : (s.modFe f).pcie = s.pcie := rfl
@[simp] theorem State.modFe_pwr (f : Engine → Engine) : (s.modFe f).pwr = s.pwr := rfl
@[simp] theorem State.modFe_jtag (f : Engine → Engine) : (s.modFe f).jtag = s.jtag := rfl
@[simp] theorem State.modFe_tst (f : Engine → Engine) : (s.modFe f).tst = s.tst := rfl
@[simp] theorem State.modFe_out (f : Engine → Engine) : (s.modFe f).out = s.out := rfl
@[simp] theorem State.modFe_resp (f : Engine → Engine) : (s.modFe f).resp = s.resp := rfl
@[simp] theorem State.modFe_free (f : Engine → Engine) : (s.modFe f).free = s.free := rfl

/-! ### modLoom -/

@[simp] theorem State.modLoom_pending (f : Loom → Loom) : (s.modLoom f).pending = s.pending := rfl
@[simp] theorem State.modLoom_regs (f : Loom → Loom) : (s.modLoom f).regs = s.regs := rfl
@[simp] theorem State.modLoom_lanes (f : Loom → Loom) : (s.modLoom f).lanes = s.lanes := rfl
@[simp] theorem State.modLoom_integ (f : Loom → Loom) : (s.modLoom f).integ = s.integ := rfl
@[simp] theorem State.modLoom_skrx (f : Loom → Loom) : (s.modLoom f).skrx = s.skrx := rfl
@[simp] theorem State.modLoom_sktx (f : Loom → Loom) : (s.modLoom f).sktx = s.sktx := rfl
@[simp] theorem State.modLoom_ports (f : Loom → Loom) : (s.modLoom f).ports = s.ports := rfl
@[simp] theorem State.modLoom_trd (f : Loom → Loom) : (s.modLoom f).trd = s.trd := rfl
@[simp] theorem State.modLoom_fine (f : Loom → Loom) : (s.modLoom f).fine = s.fine := rfl
@[simp] theorem State.modLoom_prot (f : Loom → Loom) : (s.modLoom f).prot = s.prot := rfl
@[simp] theorem State.modLoom_blz (f : Loom → Loom) : (s.modLoom f).blz = s.blz := rfl
@[simp] theorem State.modLoom_beat (f : Loom → Loom) : (s.modLoom f).beat = s.beat := rfl
@[simp] theorem State.modLoom_bmy (f : Loom → Loom) : (s.modLoom f).bmy = s.bmy := rfl
@[simp] theorem State.modLoom_wvr (f : Loom → Loom) : (s.modLoom f).wvr = s.wvr := rfl
@[simp] theorem State.modLoom_ten (f : Loom → Loom) : (s.modLoom f).ten = s.ten := rfl
@[simp] theorem State.modLoom_fmn (f : Loom → Loom) : (s.modLoom f).fmn = s.fmn := rfl
@[simp] theorem State.modLoom_mbx (f : Loom → Loom) : (s.modLoom f).mbx = s.mbx := rfl
@[simp] theorem State.modLoom_bank (f : Loom → Loom) : (s.modLoom f).bank = s.bank := rfl
@[simp] theorem State.modLoom_skid (f : Loom → Loom) : (s.modLoom f).skid = s.skid := rfl
@[simp] theorem State.modLoom_tly (f : Loom → Loom) : (s.modLoom f).tly = s.tly := rfl
@[simp] theorem State.modLoom_pcie (f : Loom → Loom) : (s.modLoom f).pcie = s.pcie := rfl
@[simp] theorem State.modLoom_pwr (f : Loom → Loom) : (s.modLoom f).pwr = s.pwr := rfl
@[simp] theorem State.modLoom_jtag (f : Loom → Loom) : (s.modLoom f).jtag = s.jtag := rfl
@[simp] theorem State.modLoom_tst (f : Loom → Loom) : (s.modLoom f).tst = s.tst := rfl
@[simp] theorem State.modLoom_out (f : Loom → Loom) : (s.modLoom f).out = s.out := rfl
@[simp] theorem State.modLoom_resp (f : Loom → Loom) : (s.modLoom f).resp = s.resp := rfl
@[simp] theorem State.modLoom_free (f : Loom → Loom) : (s.modLoom f).free = s.free := rfl

/-! ### modFine -/

@[simp] theorem State.modFine_pending (f : Fine → Fine) : (s.modFine f).pending = s.pending := rfl
@[simp] theorem State.modFine_regs (f : Fine → Fine) : (s.modFine f).regs = s.regs := rfl
@[simp] theorem State.modFine_lanes (f : Fine → Fine) : (s.modFine f).lanes = s.lanes := rfl
@[simp] theorem State.modFine_integ (f : Fine → Fine) : (s.modFine f).integ = s.integ := rfl
@[simp] theorem State.modFine_skrx (f : Fine → Fine) : (s.modFine f).skrx = s.skrx := rfl
@[simp] theorem State.modFine_sktx (f : Fine → Fine) : (s.modFine f).sktx = s.sktx := rfl
@[simp] theorem State.modFine_ports (f : Fine → Fine) : (s.modFine f).ports = s.ports := rfl
@[simp] theorem State.modFine_loom (f : Fine → Fine) : (s.modFine f).loom = s.loom := rfl
@[simp] theorem State.modFine_trd (f : Fine → Fine) : (s.modFine f).trd = s.trd := rfl
@[simp] theorem State.modFine_prot (f : Fine → Fine) : (s.modFine f).prot = s.prot := rfl
@[simp] theorem State.modFine_blz (f : Fine → Fine) : (s.modFine f).blz = s.blz := rfl
@[simp] theorem State.modFine_beat (f : Fine → Fine) : (s.modFine f).beat = s.beat := rfl
@[simp] theorem State.modFine_bmy (f : Fine → Fine) : (s.modFine f).bmy = s.bmy := rfl
@[simp] theorem State.modFine_wvr (f : Fine → Fine) : (s.modFine f).wvr = s.wvr := rfl
@[simp] theorem State.modFine_ten (f : Fine → Fine) : (s.modFine f).ten = s.ten := rfl
@[simp] theorem State.modFine_fmn (f : Fine → Fine) : (s.modFine f).fmn = s.fmn := rfl
@[simp] theorem State.modFine_mbx (f : Fine → Fine) : (s.modFine f).mbx = s.mbx := rfl
@[simp] theorem State.modFine_bank (f : Fine → Fine) : (s.modFine f).bank = s.bank := rfl
@[simp] theorem State.modFine_skid (f : Fine → Fine) : (s.modFine f).skid = s.skid := rfl
@[simp] theorem State.modFine_tly (f : Fine → Fine) : (s.modFine f).tly = s.tly := rfl
@[simp] theorem State.modFine_pcie (f : Fine → Fine) : (s.modFine f).pcie = s.pcie := rfl
@[simp] theorem State.modFine_pwr (f : Fine → Fine) : (s.modFine f).pwr = s.pwr := rfl
@[simp] theorem State.modFine_jtag (f : Fine → Fine) : (s.modFine f).jtag = s.jtag := rfl
@[simp] theorem State.modFine_tst (f : Fine → Fine) : (s.modFine f).tst = s.tst := rfl
@[simp] theorem State.modFine_out (f : Fine → Fine) : (s.modFine f).out = s.out := rfl
@[simp] theorem State.modFine_resp (f : Fine → Fine) : (s.modFine f).resp = s.resp := rfl
@[simp] theorem State.modFine_free (f : Fine → Fine) : (s.modFine f).free = s.free := rfl

/-! ### modProt -/

@[simp] theorem State.modProt_pending (f : Prot → Prot) : (s.modProt f).pending = s.pending := rfl
@[simp] theorem State.modProt_regs (f : Prot → Prot) : (s.modProt f).regs = s.regs := rfl
@[simp] theorem State.modProt_lanes (f : Prot → Prot) : (s.modProt f).lanes = s.lanes := rfl
@[simp] theorem State.modProt_integ (f : Prot → Prot) : (s.modProt f).integ = s.integ := rfl
@[simp] theorem State.modProt_skrx (f : Prot → Prot) : (s.modProt f).skrx = s.skrx := rfl
@[simp] theorem State.modProt_sktx (f : Prot → Prot) : (s.modProt f).sktx = s.sktx := rfl
@[simp] theorem State.modProt_ports (f : Prot → Prot) : (s.modProt f).ports = s.ports := rfl
@[simp] theorem State.modProt_loom (f : Prot → Prot) : (s.modProt f).loom = s.loom := rfl
@[simp] theorem State.modProt_trd (f : Prot → Prot) : (s.modProt f).trd = s.trd := rfl
@[simp] theorem State.modProt_fine (f : Prot → Prot) : (s.modProt f).fine = s.fine := rfl
@[simp] theorem State.modProt_blz (f : Prot → Prot) : (s.modProt f).blz = s.blz := rfl
@[simp] theorem State.modProt_beat (f : Prot → Prot) : (s.modProt f).beat = s.beat := rfl
@[simp] theorem State.modProt_bmy (f : Prot → Prot) : (s.modProt f).bmy = s.bmy := rfl
@[simp] theorem State.modProt_wvr (f : Prot → Prot) : (s.modProt f).wvr = s.wvr := rfl
@[simp] theorem State.modProt_ten (f : Prot → Prot) : (s.modProt f).ten = s.ten := rfl
@[simp] theorem State.modProt_fmn (f : Prot → Prot) : (s.modProt f).fmn = s.fmn := rfl
@[simp] theorem State.modProt_mbx (f : Prot → Prot) : (s.modProt f).mbx = s.mbx := rfl
@[simp] theorem State.modProt_bank (f : Prot → Prot) : (s.modProt f).bank = s.bank := rfl
@[simp] theorem State.modProt_skid (f : Prot → Prot) : (s.modProt f).skid = s.skid := rfl
@[simp] theorem State.modProt_tly (f : Prot → Prot) : (s.modProt f).tly = s.tly := rfl
@[simp] theorem State.modProt_pcie (f : Prot → Prot) : (s.modProt f).pcie = s.pcie := rfl
@[simp] theorem State.modProt_pwr (f : Prot → Prot) : (s.modProt f).pwr = s.pwr := rfl
@[simp] theorem State.modProt_jtag (f : Prot → Prot) : (s.modProt f).jtag = s.jtag := rfl
@[simp] theorem State.modProt_tst (f : Prot → Prot) : (s.modProt f).tst = s.tst := rfl
@[simp] theorem State.modProt_out (f : Prot → Prot) : (s.modProt f).out = s.out := rfl
@[simp] theorem State.modProt_resp (f : Prot → Prot) : (s.modProt f).resp = s.resp := rfl
@[simp] theorem State.modProt_free (f : Prot → Prot) : (s.modProt f).free = s.free := rfl

/-! ### modBeat -/

@[simp] theorem State.modBeat_pending (f : Beat → Beat) : (s.modBeat f).pending = s.pending := rfl
@[simp] theorem State.modBeat_regs (f : Beat → Beat) : (s.modBeat f).regs = s.regs := rfl
@[simp] theorem State.modBeat_lanes (f : Beat → Beat) : (s.modBeat f).lanes = s.lanes := rfl
@[simp] theorem State.modBeat_integ (f : Beat → Beat) : (s.modBeat f).integ = s.integ := rfl
@[simp] theorem State.modBeat_skrx (f : Beat → Beat) : (s.modBeat f).skrx = s.skrx := rfl
@[simp] theorem State.modBeat_sktx (f : Beat → Beat) : (s.modBeat f).sktx = s.sktx := rfl
@[simp] theorem State.modBeat_ports (f : Beat → Beat) : (s.modBeat f).ports = s.ports := rfl
@[simp] theorem State.modBeat_loom (f : Beat → Beat) : (s.modBeat f).loom = s.loom := rfl
@[simp] theorem State.modBeat_trd (f : Beat → Beat) : (s.modBeat f).trd = s.trd := rfl
@[simp] theorem State.modBeat_fine (f : Beat → Beat) : (s.modBeat f).fine = s.fine := rfl
@[simp] theorem State.modBeat_prot (f : Beat → Beat) : (s.modBeat f).prot = s.prot := rfl
@[simp] theorem State.modBeat_blz (f : Beat → Beat) : (s.modBeat f).blz = s.blz := rfl
@[simp] theorem State.modBeat_bmy (f : Beat → Beat) : (s.modBeat f).bmy = s.bmy := rfl
@[simp] theorem State.modBeat_wvr (f : Beat → Beat) : (s.modBeat f).wvr = s.wvr := rfl
@[simp] theorem State.modBeat_ten (f : Beat → Beat) : (s.modBeat f).ten = s.ten := rfl
@[simp] theorem State.modBeat_fmn (f : Beat → Beat) : (s.modBeat f).fmn = s.fmn := rfl
@[simp] theorem State.modBeat_mbx (f : Beat → Beat) : (s.modBeat f).mbx = s.mbx := rfl
@[simp] theorem State.modBeat_bank (f : Beat → Beat) : (s.modBeat f).bank = s.bank := rfl
@[simp] theorem State.modBeat_skid (f : Beat → Beat) : (s.modBeat f).skid = s.skid := rfl
@[simp] theorem State.modBeat_tly (f : Beat → Beat) : (s.modBeat f).tly = s.tly := rfl
@[simp] theorem State.modBeat_pcie (f : Beat → Beat) : (s.modBeat f).pcie = s.pcie := rfl
@[simp] theorem State.modBeat_pwr (f : Beat → Beat) : (s.modBeat f).pwr = s.pwr := rfl
@[simp] theorem State.modBeat_jtag (f : Beat → Beat) : (s.modBeat f).jtag = s.jtag := rfl
@[simp] theorem State.modBeat_tst (f : Beat → Beat) : (s.modBeat f).tst = s.tst := rfl
@[simp] theorem State.modBeat_out (f : Beat → Beat) : (s.modBeat f).out = s.out := rfl
@[simp] theorem State.modBeat_resp (f : Beat → Beat) : (s.modBeat f).resp = s.resp := rfl
@[simp] theorem State.modBeat_free (f : Beat → Beat) : (s.modBeat f).free = s.free := rfl

/-! ### modBmy -/

@[simp] theorem State.modBmy_pending (f : Bamry → Bamry) : (s.modBmy f).pending = s.pending := rfl
@[simp] theorem State.modBmy_regs (f : Bamry → Bamry) : (s.modBmy f).regs = s.regs := rfl
@[simp] theorem State.modBmy_lanes (f : Bamry → Bamry) : (s.modBmy f).lanes = s.lanes := rfl
@[simp] theorem State.modBmy_integ (f : Bamry → Bamry) : (s.modBmy f).integ = s.integ := rfl
@[simp] theorem State.modBmy_skrx (f : Bamry → Bamry) : (s.modBmy f).skrx = s.skrx := rfl
@[simp] theorem State.modBmy_sktx (f : Bamry → Bamry) : (s.modBmy f).sktx = s.sktx := rfl
@[simp] theorem State.modBmy_ports (f : Bamry → Bamry) : (s.modBmy f).ports = s.ports := rfl
@[simp] theorem State.modBmy_loom (f : Bamry → Bamry) : (s.modBmy f).loom = s.loom := rfl
@[simp] theorem State.modBmy_trd (f : Bamry → Bamry) : (s.modBmy f).trd = s.trd := rfl
@[simp] theorem State.modBmy_fine (f : Bamry → Bamry) : (s.modBmy f).fine = s.fine := rfl
@[simp] theorem State.modBmy_prot (f : Bamry → Bamry) : (s.modBmy f).prot = s.prot := rfl
@[simp] theorem State.modBmy_blz (f : Bamry → Bamry) : (s.modBmy f).blz = s.blz := rfl
@[simp] theorem State.modBmy_beat (f : Bamry → Bamry) : (s.modBmy f).beat = s.beat := rfl
@[simp] theorem State.modBmy_wvr (f : Bamry → Bamry) : (s.modBmy f).wvr = s.wvr := rfl
@[simp] theorem State.modBmy_ten (f : Bamry → Bamry) : (s.modBmy f).ten = s.ten := rfl
@[simp] theorem State.modBmy_fmn (f : Bamry → Bamry) : (s.modBmy f).fmn = s.fmn := rfl
@[simp] theorem State.modBmy_mbx (f : Bamry → Bamry) : (s.modBmy f).mbx = s.mbx := rfl
@[simp] theorem State.modBmy_bank (f : Bamry → Bamry) : (s.modBmy f).bank = s.bank := rfl
@[simp] theorem State.modBmy_skid (f : Bamry → Bamry) : (s.modBmy f).skid = s.skid := rfl
@[simp] theorem State.modBmy_tly (f : Bamry → Bamry) : (s.modBmy f).tly = s.tly := rfl
@[simp] theorem State.modBmy_pcie (f : Bamry → Bamry) : (s.modBmy f).pcie = s.pcie := rfl
@[simp] theorem State.modBmy_pwr (f : Bamry → Bamry) : (s.modBmy f).pwr = s.pwr := rfl
@[simp] theorem State.modBmy_jtag (f : Bamry → Bamry) : (s.modBmy f).jtag = s.jtag := rfl
@[simp] theorem State.modBmy_tst (f : Bamry → Bamry) : (s.modBmy f).tst = s.tst := rfl
@[simp] theorem State.modBmy_out (f : Bamry → Bamry) : (s.modBmy f).out = s.out := rfl
@[simp] theorem State.modBmy_resp (f : Bamry → Bamry) : (s.modBmy f).resp = s.resp := rfl
@[simp] theorem State.modBmy_free (f : Bamry → Bamry) : (s.modBmy f).free = s.free := rfl

/-! ### modTen -/

@[simp] theorem State.modTen_pending (f : Ten → Ten) : (s.modTen f).pending = s.pending := rfl
@[simp] theorem State.modTen_regs (f : Ten → Ten) : (s.modTen f).regs = s.regs := rfl
@[simp] theorem State.modTen_lanes (f : Ten → Ten) : (s.modTen f).lanes = s.lanes := rfl
@[simp] theorem State.modTen_integ (f : Ten → Ten) : (s.modTen f).integ = s.integ := rfl
@[simp] theorem State.modTen_skrx (f : Ten → Ten) : (s.modTen f).skrx = s.skrx := rfl
@[simp] theorem State.modTen_sktx (f : Ten → Ten) : (s.modTen f).sktx = s.sktx := rfl
@[simp] theorem State.modTen_ports (f : Ten → Ten) : (s.modTen f).ports = s.ports := rfl
@[simp] theorem State.modTen_loom (f : Ten → Ten) : (s.modTen f).loom = s.loom := rfl
@[simp] theorem State.modTen_trd (f : Ten → Ten) : (s.modTen f).trd = s.trd := rfl
@[simp] theorem State.modTen_fine (f : Ten → Ten) : (s.modTen f).fine = s.fine := rfl
@[simp] theorem State.modTen_prot (f : Ten → Ten) : (s.modTen f).prot = s.prot := rfl
@[simp] theorem State.modTen_blz (f : Ten → Ten) : (s.modTen f).blz = s.blz := rfl
@[simp] theorem State.modTen_beat (f : Ten → Ten) : (s.modTen f).beat = s.beat := rfl
@[simp] theorem State.modTen_bmy (f : Ten → Ten) : (s.modTen f).bmy = s.bmy := rfl
@[simp] theorem State.modTen_wvr (f : Ten → Ten) : (s.modTen f).wvr = s.wvr := rfl
@[simp] theorem State.modTen_fmn (f : Ten → Ten) : (s.modTen f).fmn = s.fmn := rfl
@[simp] theorem State.modTen_mbx (f : Ten → Ten) : (s.modTen f).mbx = s.mbx := rfl
@[simp] theorem State.modTen_bank (f : Ten → Ten) : (s.modTen f).bank = s.bank := rfl
@[simp] theorem State.modTen_skid (f : Ten → Ten) : (s.modTen f).skid = s.skid := rfl
@[simp] theorem State.modTen_tly (f : Ten → Ten) : (s.modTen f).tly = s.tly := rfl
@[simp] theorem State.modTen_pcie (f : Ten → Ten) : (s.modTen f).pcie = s.pcie := rfl
@[simp] theorem State.modTen_pwr (f : Ten → Ten) : (s.modTen f).pwr = s.pwr := rfl
@[simp] theorem State.modTen_jtag (f : Ten → Ten) : (s.modTen f).jtag = s.jtag := rfl
@[simp] theorem State.modTen_tst (f : Ten → Ten) : (s.modTen f).tst = s.tst := rfl
@[simp] theorem State.modTen_out (f : Ten → Ten) : (s.modTen f).out = s.out := rfl
@[simp] theorem State.modTen_resp (f : Ten → Ten) : (s.modTen f).resp = s.resp := rfl
@[simp] theorem State.modTen_free (f : Ten → Ten) : (s.modTen f).free = s.free := rfl

/-! ### modFmn -/

@[simp] theorem State.modFmn_pending (f : Fmn → Fmn) : (s.modFmn f).pending = s.pending := rfl
@[simp] theorem State.modFmn_regs (f : Fmn → Fmn) : (s.modFmn f).regs = s.regs := rfl
@[simp] theorem State.modFmn_lanes (f : Fmn → Fmn) : (s.modFmn f).lanes = s.lanes := rfl
@[simp] theorem State.modFmn_integ (f : Fmn → Fmn) : (s.modFmn f).integ = s.integ := rfl
@[simp] theorem State.modFmn_skrx (f : Fmn → Fmn) : (s.modFmn f).skrx = s.skrx := rfl
@[simp] theorem State.modFmn_sktx (f : Fmn → Fmn) : (s.modFmn f).sktx = s.sktx := rfl
@[simp] theorem State.modFmn_ports (f : Fmn → Fmn) : (s.modFmn f).ports = s.ports := rfl
@[simp] theorem State.modFmn_loom (f : Fmn → Fmn) : (s.modFmn f).loom = s.loom := rfl
@[simp] theorem State.modFmn_trd (f : Fmn → Fmn) : (s.modFmn f).trd = s.trd := rfl
@[simp] theorem State.modFmn_fine (f : Fmn → Fmn) : (s.modFmn f).fine = s.fine := rfl
@[simp] theorem State.modFmn_prot (f : Fmn → Fmn) : (s.modFmn f).prot = s.prot := rfl
@[simp] theorem State.modFmn_blz (f : Fmn → Fmn) : (s.modFmn f).blz = s.blz := rfl
@[simp] theorem State.modFmn_beat (f : Fmn → Fmn) : (s.modFmn f).beat = s.beat := rfl
@[simp] theorem State.modFmn_bmy (f : Fmn → Fmn) : (s.modFmn f).bmy = s.bmy := rfl
@[simp] theorem State.modFmn_wvr (f : Fmn → Fmn) : (s.modFmn f).wvr = s.wvr := rfl
@[simp] theorem State.modFmn_ten (f : Fmn → Fmn) : (s.modFmn f).ten = s.ten := rfl
@[simp] theorem State.modFmn_mbx (f : Fmn → Fmn) : (s.modFmn f).mbx = s.mbx := rfl
@[simp] theorem State.modFmn_bank (f : Fmn → Fmn) : (s.modFmn f).bank = s.bank := rfl
@[simp] theorem State.modFmn_skid (f : Fmn → Fmn) : (s.modFmn f).skid = s.skid := rfl
@[simp] theorem State.modFmn_tly (f : Fmn → Fmn) : (s.modFmn f).tly = s.tly := rfl
@[simp] theorem State.modFmn_pcie (f : Fmn → Fmn) : (s.modFmn f).pcie = s.pcie := rfl
@[simp] theorem State.modFmn_pwr (f : Fmn → Fmn) : (s.modFmn f).pwr = s.pwr := rfl
@[simp] theorem State.modFmn_jtag (f : Fmn → Fmn) : (s.modFmn f).jtag = s.jtag := rfl
@[simp] theorem State.modFmn_tst (f : Fmn → Fmn) : (s.modFmn f).tst = s.tst := rfl
@[simp] theorem State.modFmn_out (f : Fmn → Fmn) : (s.modFmn f).out = s.out := rfl
@[simp] theorem State.modFmn_resp (f : Fmn → Fmn) : (s.modFmn f).resp = s.resp := rfl
@[simp] theorem State.modFmn_free (f : Fmn → Fmn) : (s.modFmn f).free = s.free := rfl

/-! ### modMbx -/

@[simp] theorem State.modMbx_pending (f : Mbx → Mbx) : (s.modMbx f).pending = s.pending := rfl
@[simp] theorem State.modMbx_regs (f : Mbx → Mbx) : (s.modMbx f).regs = s.regs := rfl
@[simp] theorem State.modMbx_lanes (f : Mbx → Mbx) : (s.modMbx f).lanes = s.lanes := rfl
@[simp] theorem State.modMbx_integ (f : Mbx → Mbx) : (s.modMbx f).integ = s.integ := rfl
@[simp] theorem State.modMbx_skrx (f : Mbx → Mbx) : (s.modMbx f).skrx = s.skrx := rfl
@[simp] theorem State.modMbx_sktx (f : Mbx → Mbx) : (s.modMbx f).sktx = s.sktx := rfl
@[simp] theorem State.modMbx_ports (f : Mbx → Mbx) : (s.modMbx f).ports = s.ports := rfl
@[simp] theorem State.modMbx_loom (f : Mbx → Mbx) : (s.modMbx f).loom = s.loom := rfl
@[simp] theorem State.modMbx_trd (f : Mbx → Mbx) : (s.modMbx f).trd = s.trd := rfl
@[simp] theorem State.modMbx_fine (f : Mbx → Mbx) : (s.modMbx f).fine = s.fine := rfl
@[simp] theorem State.modMbx_prot (f : Mbx → Mbx) : (s.modMbx f).prot = s.prot := rfl
@[simp] theorem State.modMbx_blz (f : Mbx → Mbx) : (s.modMbx f).blz = s.blz := rfl
@[simp] theorem State.modMbx_beat (f : Mbx → Mbx) : (s.modMbx f).beat = s.beat := rfl
@[simp] theorem State.modMbx_bmy (f : Mbx → Mbx) : (s.modMbx f).bmy = s.bmy := rfl
@[simp] theorem State.modMbx_wvr (f : Mbx → Mbx) : (s.modMbx f).wvr = s.wvr := rfl
@[simp] theorem State.modMbx_ten (f : Mbx → Mbx) : (s.modMbx f).ten = s.ten := rfl
@[simp] theorem State.modMbx_fmn (f : Mbx → Mbx) : (s.modMbx f).fmn = s.fmn := rfl
@[simp] theorem State.modMbx_bank (f : Mbx → Mbx) : (s.modMbx f).bank = s.bank := rfl
@[simp] theorem State.modMbx_skid (f : Mbx → Mbx) : (s.modMbx f).skid = s.skid := rfl
@[simp] theorem State.modMbx_tly (f : Mbx → Mbx) : (s.modMbx f).tly = s.tly := rfl
@[simp] theorem State.modMbx_pcie (f : Mbx → Mbx) : (s.modMbx f).pcie = s.pcie := rfl
@[simp] theorem State.modMbx_pwr (f : Mbx → Mbx) : (s.modMbx f).pwr = s.pwr := rfl
@[simp] theorem State.modMbx_jtag (f : Mbx → Mbx) : (s.modMbx f).jtag = s.jtag := rfl
@[simp] theorem State.modMbx_tst (f : Mbx → Mbx) : (s.modMbx f).tst = s.tst := rfl
@[simp] theorem State.modMbx_out (f : Mbx → Mbx) : (s.modMbx f).out = s.out := rfl
@[simp] theorem State.modMbx_resp (f : Mbx → Mbx) : (s.modMbx f).resp = s.resp := rfl
@[simp] theorem State.modMbx_free (f : Mbx → Mbx) : (s.modMbx f).free = s.free := rfl

/-! ### modBank -/

@[simp] theorem State.modBank_pending (f : Banks → Banks) : (s.modBank f).pending = s.pending := rfl
@[simp] theorem State.modBank_regs (f : Banks → Banks) : (s.modBank f).regs = s.regs := rfl
@[simp] theorem State.modBank_lanes (f : Banks → Banks) : (s.modBank f).lanes = s.lanes := rfl
@[simp] theorem State.modBank_integ (f : Banks → Banks) : (s.modBank f).integ = s.integ := rfl
@[simp] theorem State.modBank_skrx (f : Banks → Banks) : (s.modBank f).skrx = s.skrx := rfl
@[simp] theorem State.modBank_sktx (f : Banks → Banks) : (s.modBank f).sktx = s.sktx := rfl
@[simp] theorem State.modBank_ports (f : Banks → Banks) : (s.modBank f).ports = s.ports := rfl
@[simp] theorem State.modBank_loom (f : Banks → Banks) : (s.modBank f).loom = s.loom := rfl
@[simp] theorem State.modBank_trd (f : Banks → Banks) : (s.modBank f).trd = s.trd := rfl
@[simp] theorem State.modBank_fine (f : Banks → Banks) : (s.modBank f).fine = s.fine := rfl
@[simp] theorem State.modBank_prot (f : Banks → Banks) : (s.modBank f).prot = s.prot := rfl
@[simp] theorem State.modBank_blz (f : Banks → Banks) : (s.modBank f).blz = s.blz := rfl
@[simp] theorem State.modBank_beat (f : Banks → Banks) : (s.modBank f).beat = s.beat := rfl
@[simp] theorem State.modBank_bmy (f : Banks → Banks) : (s.modBank f).bmy = s.bmy := rfl
@[simp] theorem State.modBank_wvr (f : Banks → Banks) : (s.modBank f).wvr = s.wvr := rfl
@[simp] theorem State.modBank_ten (f : Banks → Banks) : (s.modBank f).ten = s.ten := rfl
@[simp] theorem State.modBank_fmn (f : Banks → Banks) : (s.modBank f).fmn = s.fmn := rfl
@[simp] theorem State.modBank_mbx (f : Banks → Banks) : (s.modBank f).mbx = s.mbx := rfl
@[simp] theorem State.modBank_skid (f : Banks → Banks) : (s.modBank f).skid = s.skid := rfl
@[simp] theorem State.modBank_tly (f : Banks → Banks) : (s.modBank f).tly = s.tly := rfl
@[simp] theorem State.modBank_pcie (f : Banks → Banks) : (s.modBank f).pcie = s.pcie := rfl
@[simp] theorem State.modBank_pwr (f : Banks → Banks) : (s.modBank f).pwr = s.pwr := rfl
@[simp] theorem State.modBank_jtag (f : Banks → Banks) : (s.modBank f).jtag = s.jtag := rfl
@[simp] theorem State.modBank_tst (f : Banks → Banks) : (s.modBank f).tst = s.tst := rfl
@[simp] theorem State.modBank_out (f : Banks → Banks) : (s.modBank f).out = s.out := rfl
@[simp] theorem State.modBank_resp (f : Banks → Banks) : (s.modBank f).resp = s.resp := rfl
@[simp] theorem State.modBank_free (f : Banks → Banks) : (s.modBank f).free = s.free := rfl

/-! ### modSkid -/

@[simp] theorem State.modSkid_pending (f : Skid → Skid) : (s.modSkid f).pending = s.pending := rfl
@[simp] theorem State.modSkid_regs (f : Skid → Skid) : (s.modSkid f).regs = s.regs := rfl
@[simp] theorem State.modSkid_lanes (f : Skid → Skid) : (s.modSkid f).lanes = s.lanes := rfl
@[simp] theorem State.modSkid_integ (f : Skid → Skid) : (s.modSkid f).integ = s.integ := rfl
@[simp] theorem State.modSkid_skrx (f : Skid → Skid) : (s.modSkid f).skrx = s.skrx := rfl
@[simp] theorem State.modSkid_sktx (f : Skid → Skid) : (s.modSkid f).sktx = s.sktx := rfl
@[simp] theorem State.modSkid_ports (f : Skid → Skid) : (s.modSkid f).ports = s.ports := rfl
@[simp] theorem State.modSkid_loom (f : Skid → Skid) : (s.modSkid f).loom = s.loom := rfl
@[simp] theorem State.modSkid_trd (f : Skid → Skid) : (s.modSkid f).trd = s.trd := rfl
@[simp] theorem State.modSkid_fine (f : Skid → Skid) : (s.modSkid f).fine = s.fine := rfl
@[simp] theorem State.modSkid_prot (f : Skid → Skid) : (s.modSkid f).prot = s.prot := rfl
@[simp] theorem State.modSkid_blz (f : Skid → Skid) : (s.modSkid f).blz = s.blz := rfl
@[simp] theorem State.modSkid_beat (f : Skid → Skid) : (s.modSkid f).beat = s.beat := rfl
@[simp] theorem State.modSkid_bmy (f : Skid → Skid) : (s.modSkid f).bmy = s.bmy := rfl
@[simp] theorem State.modSkid_wvr (f : Skid → Skid) : (s.modSkid f).wvr = s.wvr := rfl
@[simp] theorem State.modSkid_ten (f : Skid → Skid) : (s.modSkid f).ten = s.ten := rfl
@[simp] theorem State.modSkid_fmn (f : Skid → Skid) : (s.modSkid f).fmn = s.fmn := rfl
@[simp] theorem State.modSkid_mbx (f : Skid → Skid) : (s.modSkid f).mbx = s.mbx := rfl
@[simp] theorem State.modSkid_bank (f : Skid → Skid) : (s.modSkid f).bank = s.bank := rfl
@[simp] theorem State.modSkid_tly (f : Skid → Skid) : (s.modSkid f).tly = s.tly := rfl
@[simp] theorem State.modSkid_pcie (f : Skid → Skid) : (s.modSkid f).pcie = s.pcie := rfl
@[simp] theorem State.modSkid_pwr (f : Skid → Skid) : (s.modSkid f).pwr = s.pwr := rfl
@[simp] theorem State.modSkid_jtag (f : Skid → Skid) : (s.modSkid f).jtag = s.jtag := rfl
@[simp] theorem State.modSkid_tst (f : Skid → Skid) : (s.modSkid f).tst = s.tst := rfl
@[simp] theorem State.modSkid_out (f : Skid → Skid) : (s.modSkid f).out = s.out := rfl
@[simp] theorem State.modSkid_resp (f : Skid → Skid) : (s.modSkid f).resp = s.resp := rfl
@[simp] theorem State.modSkid_free (f : Skid → Skid) : (s.modSkid f).free = s.free := rfl

/-! ### modTly -/

@[simp] theorem State.modTly_pending (f : Tally → Tally) : (s.modTly f).pending = s.pending := rfl
@[simp] theorem State.modTly_regs (f : Tally → Tally) : (s.modTly f).regs = s.regs := rfl
@[simp] theorem State.modTly_lanes (f : Tally → Tally) : (s.modTly f).lanes = s.lanes := rfl
@[simp] theorem State.modTly_integ (f : Tally → Tally) : (s.modTly f).integ = s.integ := rfl
@[simp] theorem State.modTly_skrx (f : Tally → Tally) : (s.modTly f).skrx = s.skrx := rfl
@[simp] theorem State.modTly_sktx (f : Tally → Tally) : (s.modTly f).sktx = s.sktx := rfl
@[simp] theorem State.modTly_ports (f : Tally → Tally) : (s.modTly f).ports = s.ports := rfl
@[simp] theorem State.modTly_loom (f : Tally → Tally) : (s.modTly f).loom = s.loom := rfl
@[simp] theorem State.modTly_trd (f : Tally → Tally) : (s.modTly f).trd = s.trd := rfl
@[simp] theorem State.modTly_fine (f : Tally → Tally) : (s.modTly f).fine = s.fine := rfl
@[simp] theorem State.modTly_prot (f : Tally → Tally) : (s.modTly f).prot = s.prot := rfl
@[simp] theorem State.modTly_blz (f : Tally → Tally) : (s.modTly f).blz = s.blz := rfl
@[simp] theorem State.modTly_beat (f : Tally → Tally) : (s.modTly f).beat = s.beat := rfl
@[simp] theorem State.modTly_bmy (f : Tally → Tally) : (s.modTly f).bmy = s.bmy := rfl
@[simp] theorem State.modTly_wvr (f : Tally → Tally) : (s.modTly f).wvr = s.wvr := rfl
@[simp] theorem State.modTly_ten (f : Tally → Tally) : (s.modTly f).ten = s.ten := rfl
@[simp] theorem State.modTly_fmn (f : Tally → Tally) : (s.modTly f).fmn = s.fmn := rfl
@[simp] theorem State.modTly_mbx (f : Tally → Tally) : (s.modTly f).mbx = s.mbx := rfl
@[simp] theorem State.modTly_bank (f : Tally → Tally) : (s.modTly f).bank = s.bank := rfl
@[simp] theorem State.modTly_skid (f : Tally → Tally) : (s.modTly f).skid = s.skid := rfl
@[simp] theorem State.modTly_pcie (f : Tally → Tally) : (s.modTly f).pcie = s.pcie := rfl
@[simp] theorem State.modTly_pwr (f : Tally → Tally) : (s.modTly f).pwr = s.pwr := rfl
@[simp] theorem State.modTly_jtag (f : Tally → Tally) : (s.modTly f).jtag = s.jtag := rfl
@[simp] theorem State.modTly_tst (f : Tally → Tally) : (s.modTly f).tst = s.tst := rfl
@[simp] theorem State.modTly_out (f : Tally → Tally) : (s.modTly f).out = s.out := rfl
@[simp] theorem State.modTly_resp (f : Tally → Tally) : (s.modTly f).resp = s.resp := rfl
@[simp] theorem State.modTly_free (f : Tally → Tally) : (s.modTly f).free = s.free := rfl

/-! ### modPcie -/

@[simp] theorem State.modPcie_pending (f : Pcie → Pcie) : (s.modPcie f).pending = s.pending := rfl
@[simp] theorem State.modPcie_regs (f : Pcie → Pcie) : (s.modPcie f).regs = s.regs := rfl
@[simp] theorem State.modPcie_lanes (f : Pcie → Pcie) : (s.modPcie f).lanes = s.lanes := rfl
@[simp] theorem State.modPcie_integ (f : Pcie → Pcie) : (s.modPcie f).integ = s.integ := rfl
@[simp] theorem State.modPcie_skrx (f : Pcie → Pcie) : (s.modPcie f).skrx = s.skrx := rfl
@[simp] theorem State.modPcie_sktx (f : Pcie → Pcie) : (s.modPcie f).sktx = s.sktx := rfl
@[simp] theorem State.modPcie_ports (f : Pcie → Pcie) : (s.modPcie f).ports = s.ports := rfl
@[simp] theorem State.modPcie_loom (f : Pcie → Pcie) : (s.modPcie f).loom = s.loom := rfl
@[simp] theorem State.modPcie_trd (f : Pcie → Pcie) : (s.modPcie f).trd = s.trd := rfl
@[simp] theorem State.modPcie_fine (f : Pcie → Pcie) : (s.modPcie f).fine = s.fine := rfl
@[simp] theorem State.modPcie_prot (f : Pcie → Pcie) : (s.modPcie f).prot = s.prot := rfl
@[simp] theorem State.modPcie_blz (f : Pcie → Pcie) : (s.modPcie f).blz = s.blz := rfl
@[simp] theorem State.modPcie_beat (f : Pcie → Pcie) : (s.modPcie f).beat = s.beat := rfl
@[simp] theorem State.modPcie_bmy (f : Pcie → Pcie) : (s.modPcie f).bmy = s.bmy := rfl
@[simp] theorem State.modPcie_wvr (f : Pcie → Pcie) : (s.modPcie f).wvr = s.wvr := rfl
@[simp] theorem State.modPcie_ten (f : Pcie → Pcie) : (s.modPcie f).ten = s.ten := rfl
@[simp] theorem State.modPcie_fmn (f : Pcie → Pcie) : (s.modPcie f).fmn = s.fmn := rfl
@[simp] theorem State.modPcie_mbx (f : Pcie → Pcie) : (s.modPcie f).mbx = s.mbx := rfl
@[simp] theorem State.modPcie_bank (f : Pcie → Pcie) : (s.modPcie f).bank = s.bank := rfl
@[simp] theorem State.modPcie_skid (f : Pcie → Pcie) : (s.modPcie f).skid = s.skid := rfl
@[simp] theorem State.modPcie_tly (f : Pcie → Pcie) : (s.modPcie f).tly = s.tly := rfl
@[simp] theorem State.modPcie_pwr (f : Pcie → Pcie) : (s.modPcie f).pwr = s.pwr := rfl
@[simp] theorem State.modPcie_jtag (f : Pcie → Pcie) : (s.modPcie f).jtag = s.jtag := rfl
@[simp] theorem State.modPcie_tst (f : Pcie → Pcie) : (s.modPcie f).tst = s.tst := rfl
@[simp] theorem State.modPcie_out (f : Pcie → Pcie) : (s.modPcie f).out = s.out := rfl
@[simp] theorem State.modPcie_resp (f : Pcie → Pcie) : (s.modPcie f).resp = s.resp := rfl
@[simp] theorem State.modPcie_free (f : Pcie → Pcie) : (s.modPcie f).free = s.free := rfl

/-! ### modPwr -/

@[simp] theorem State.modPwr_pending (f : Pwr → Pwr) : (s.modPwr f).pending = s.pending := rfl
@[simp] theorem State.modPwr_regs (f : Pwr → Pwr) : (s.modPwr f).regs = s.regs := rfl
@[simp] theorem State.modPwr_lanes (f : Pwr → Pwr) : (s.modPwr f).lanes = s.lanes := rfl
@[simp] theorem State.modPwr_integ (f : Pwr → Pwr) : (s.modPwr f).integ = s.integ := rfl
@[simp] theorem State.modPwr_skrx (f : Pwr → Pwr) : (s.modPwr f).skrx = s.skrx := rfl
@[simp] theorem State.modPwr_sktx (f : Pwr → Pwr) : (s.modPwr f).sktx = s.sktx := rfl
@[simp] theorem State.modPwr_ports (f : Pwr → Pwr) : (s.modPwr f).ports = s.ports := rfl
@[simp] theorem State.modPwr_loom (f : Pwr → Pwr) : (s.modPwr f).loom = s.loom := rfl
@[simp] theorem State.modPwr_trd (f : Pwr → Pwr) : (s.modPwr f).trd = s.trd := rfl
@[simp] theorem State.modPwr_fine (f : Pwr → Pwr) : (s.modPwr f).fine = s.fine := rfl
@[simp] theorem State.modPwr_prot (f : Pwr → Pwr) : (s.modPwr f).prot = s.prot := rfl
@[simp] theorem State.modPwr_blz (f : Pwr → Pwr) : (s.modPwr f).blz = s.blz := rfl
@[simp] theorem State.modPwr_beat (f : Pwr → Pwr) : (s.modPwr f).beat = s.beat := rfl
@[simp] theorem State.modPwr_bmy (f : Pwr → Pwr) : (s.modPwr f).bmy = s.bmy := rfl
@[simp] theorem State.modPwr_wvr (f : Pwr → Pwr) : (s.modPwr f).wvr = s.wvr := rfl
@[simp] theorem State.modPwr_ten (f : Pwr → Pwr) : (s.modPwr f).ten = s.ten := rfl
@[simp] theorem State.modPwr_fmn (f : Pwr → Pwr) : (s.modPwr f).fmn = s.fmn := rfl
@[simp] theorem State.modPwr_mbx (f : Pwr → Pwr) : (s.modPwr f).mbx = s.mbx := rfl
@[simp] theorem State.modPwr_bank (f : Pwr → Pwr) : (s.modPwr f).bank = s.bank := rfl
@[simp] theorem State.modPwr_skid (f : Pwr → Pwr) : (s.modPwr f).skid = s.skid := rfl
@[simp] theorem State.modPwr_tly (f : Pwr → Pwr) : (s.modPwr f).tly = s.tly := rfl
@[simp] theorem State.modPwr_pcie (f : Pwr → Pwr) : (s.modPwr f).pcie = s.pcie := rfl
@[simp] theorem State.modPwr_jtag (f : Pwr → Pwr) : (s.modPwr f).jtag = s.jtag := rfl
@[simp] theorem State.modPwr_tst (f : Pwr → Pwr) : (s.modPwr f).tst = s.tst := rfl
@[simp] theorem State.modPwr_out (f : Pwr → Pwr) : (s.modPwr f).out = s.out := rfl
@[simp] theorem State.modPwr_resp (f : Pwr → Pwr) : (s.modPwr f).resp = s.resp := rfl
@[simp] theorem State.modPwr_free (f : Pwr → Pwr) : (s.modPwr f).free = s.free := rfl

/-! ### modJtag -/

@[simp] theorem State.modJtag_pending (f : Jtag → Jtag) : (s.modJtag f).pending = s.pending := rfl
@[simp] theorem State.modJtag_regs (f : Jtag → Jtag) : (s.modJtag f).regs = s.regs := rfl
@[simp] theorem State.modJtag_lanes (f : Jtag → Jtag) : (s.modJtag f).lanes = s.lanes := rfl
@[simp] theorem State.modJtag_integ (f : Jtag → Jtag) : (s.modJtag f).integ = s.integ := rfl
@[simp] theorem State.modJtag_skrx (f : Jtag → Jtag) : (s.modJtag f).skrx = s.skrx := rfl
@[simp] theorem State.modJtag_sktx (f : Jtag → Jtag) : (s.modJtag f).sktx = s.sktx := rfl
@[simp] theorem State.modJtag_ports (f : Jtag → Jtag) : (s.modJtag f).ports = s.ports := rfl
@[simp] theorem State.modJtag_loom (f : Jtag → Jtag) : (s.modJtag f).loom = s.loom := rfl
@[simp] theorem State.modJtag_trd (f : Jtag → Jtag) : (s.modJtag f).trd = s.trd := rfl
@[simp] theorem State.modJtag_fine (f : Jtag → Jtag) : (s.modJtag f).fine = s.fine := rfl
@[simp] theorem State.modJtag_prot (f : Jtag → Jtag) : (s.modJtag f).prot = s.prot := rfl
@[simp] theorem State.modJtag_blz (f : Jtag → Jtag) : (s.modJtag f).blz = s.blz := rfl
@[simp] theorem State.modJtag_beat (f : Jtag → Jtag) : (s.modJtag f).beat = s.beat := rfl
@[simp] theorem State.modJtag_bmy (f : Jtag → Jtag) : (s.modJtag f).bmy = s.bmy := rfl
@[simp] theorem State.modJtag_wvr (f : Jtag → Jtag) : (s.modJtag f).wvr = s.wvr := rfl
@[simp] theorem State.modJtag_ten (f : Jtag → Jtag) : (s.modJtag f).ten = s.ten := rfl
@[simp] theorem State.modJtag_fmn (f : Jtag → Jtag) : (s.modJtag f).fmn = s.fmn := rfl
@[simp] theorem State.modJtag_mbx (f : Jtag → Jtag) : (s.modJtag f).mbx = s.mbx := rfl
@[simp] theorem State.modJtag_bank (f : Jtag → Jtag) : (s.modJtag f).bank = s.bank := rfl
@[simp] theorem State.modJtag_skid (f : Jtag → Jtag) : (s.modJtag f).skid = s.skid := rfl
@[simp] theorem State.modJtag_tly (f : Jtag → Jtag) : (s.modJtag f).tly = s.tly := rfl
@[simp] theorem State.modJtag_pcie (f : Jtag → Jtag) : (s.modJtag f).pcie = s.pcie := rfl
@[simp] theorem State.modJtag_pwr (f : Jtag → Jtag) : (s.modJtag f).pwr = s.pwr := rfl
@[simp] theorem State.modJtag_tst (f : Jtag → Jtag) : (s.modJtag f).tst = s.tst := rfl
@[simp] theorem State.modJtag_out (f : Jtag → Jtag) : (s.modJtag f).out = s.out := rfl
@[simp] theorem State.modJtag_resp (f : Jtag → Jtag) : (s.modJtag f).resp = s.resp := rfl
@[simp] theorem State.modJtag_free (f : Jtag → Jtag) : (s.modJtag f).free = s.free := rfl

/-! ### modTst -/

@[simp] theorem State.modTst_pending (f : Test → Test) : (s.modTst f).pending = s.pending := rfl
@[simp] theorem State.modTst_regs (f : Test → Test) : (s.modTst f).regs = s.regs := rfl
@[simp] theorem State.modTst_lanes (f : Test → Test) : (s.modTst f).lanes = s.lanes := rfl
@[simp] theorem State.modTst_integ (f : Test → Test) : (s.modTst f).integ = s.integ := rfl
@[simp] theorem State.modTst_skrx (f : Test → Test) : (s.modTst f).skrx = s.skrx := rfl
@[simp] theorem State.modTst_sktx (f : Test → Test) : (s.modTst f).sktx = s.sktx := rfl
@[simp] theorem State.modTst_ports (f : Test → Test) : (s.modTst f).ports = s.ports := rfl
@[simp] theorem State.modTst_loom (f : Test → Test) : (s.modTst f).loom = s.loom := rfl
@[simp] theorem State.modTst_trd (f : Test → Test) : (s.modTst f).trd = s.trd := rfl
@[simp] theorem State.modTst_fine (f : Test → Test) : (s.modTst f).fine = s.fine := rfl
@[simp] theorem State.modTst_prot (f : Test → Test) : (s.modTst f).prot = s.prot := rfl
@[simp] theorem State.modTst_blz (f : Test → Test) : (s.modTst f).blz = s.blz := rfl
@[simp] theorem State.modTst_beat (f : Test → Test) : (s.modTst f).beat = s.beat := rfl
@[simp] theorem State.modTst_bmy (f : Test → Test) : (s.modTst f).bmy = s.bmy := rfl
@[simp] theorem State.modTst_wvr (f : Test → Test) : (s.modTst f).wvr = s.wvr := rfl
@[simp] theorem State.modTst_ten (f : Test → Test) : (s.modTst f).ten = s.ten := rfl
@[simp] theorem State.modTst_fmn (f : Test → Test) : (s.modTst f).fmn = s.fmn := rfl
@[simp] theorem State.modTst_mbx (f : Test → Test) : (s.modTst f).mbx = s.mbx := rfl
@[simp] theorem State.modTst_bank (f : Test → Test) : (s.modTst f).bank = s.bank := rfl
@[simp] theorem State.modTst_skid (f : Test → Test) : (s.modTst f).skid = s.skid := rfl
@[simp] theorem State.modTst_tly (f : Test → Test) : (s.modTst f).tly = s.tly := rfl
@[simp] theorem State.modTst_pcie (f : Test → Test) : (s.modTst f).pcie = s.pcie := rfl
@[simp] theorem State.modTst_pwr (f : Test → Test) : (s.modTst f).pwr = s.pwr := rfl
@[simp] theorem State.modTst_jtag (f : Test → Test) : (s.modTst f).jtag = s.jtag := rfl
@[simp] theorem State.modTst_out (f : Test → Test) : (s.modTst f).out = s.out := rfl
@[simp] theorem State.modTst_resp (f : Test → Test) : (s.modTst f).resp = s.resp := rfl
@[simp] theorem State.modTst_free (f : Test → Test) : (s.modTst f).free = s.free := rfl

/-! ### answer -/

@[simp] theorem State.answer_pending (d : BitVec 64) (st : Status) : (s.answer d st).pending = s.pending := rfl
@[simp] theorem State.answer_regs (d : BitVec 64) (st : Status) : (s.answer d st).regs = s.regs := rfl
@[simp] theorem State.answer_lanes (d : BitVec 64) (st : Status) : (s.answer d st).lanes = s.lanes := rfl
@[simp] theorem State.answer_integ (d : BitVec 64) (st : Status) : (s.answer d st).integ = s.integ := rfl
@[simp] theorem State.answer_skrx (d : BitVec 64) (st : Status) : (s.answer d st).skrx = s.skrx := rfl
@[simp] theorem State.answer_sktx (d : BitVec 64) (st : Status) : (s.answer d st).sktx = s.sktx := rfl
@[simp] theorem State.answer_ports (d : BitVec 64) (st : Status) : (s.answer d st).ports = s.ports := rfl
@[simp] theorem State.answer_loom (d : BitVec 64) (st : Status) : (s.answer d st).loom = s.loom := rfl
@[simp] theorem State.answer_trd (d : BitVec 64) (st : Status) : (s.answer d st).trd = s.trd := rfl
@[simp] theorem State.answer_fine (d : BitVec 64) (st : Status) : (s.answer d st).fine = s.fine := rfl
@[simp] theorem State.answer_prot (d : BitVec 64) (st : Status) : (s.answer d st).prot = s.prot := rfl
@[simp] theorem State.answer_blz (d : BitVec 64) (st : Status) : (s.answer d st).blz = s.blz := rfl
@[simp] theorem State.answer_beat (d : BitVec 64) (st : Status) : (s.answer d st).beat = s.beat := rfl
@[simp] theorem State.answer_bmy (d : BitVec 64) (st : Status) : (s.answer d st).bmy = s.bmy := rfl
@[simp] theorem State.answer_wvr (d : BitVec 64) (st : Status) : (s.answer d st).wvr = s.wvr := rfl
@[simp] theorem State.answer_ten (d : BitVec 64) (st : Status) : (s.answer d st).ten = s.ten := rfl
@[simp] theorem State.answer_fmn (d : BitVec 64) (st : Status) : (s.answer d st).fmn = s.fmn := rfl
@[simp] theorem State.answer_mbx (d : BitVec 64) (st : Status) : (s.answer d st).mbx = s.mbx := rfl
@[simp] theorem State.answer_bank (d : BitVec 64) (st : Status) : (s.answer d st).bank = s.bank := rfl
@[simp] theorem State.answer_skid (d : BitVec 64) (st : Status) : (s.answer d st).skid = s.skid := rfl
@[simp] theorem State.answer_tly (d : BitVec 64) (st : Status) : (s.answer d st).tly = s.tly := rfl
@[simp] theorem State.answer_pcie (d : BitVec 64) (st : Status) : (s.answer d st).pcie = s.pcie := rfl
@[simp] theorem State.answer_pwr (d : BitVec 64) (st : Status) : (s.answer d st).pwr = s.pwr := rfl
@[simp] theorem State.answer_jtag (d : BitVec 64) (st : Status) : (s.answer d st).jtag = s.jtag := rfl
@[simp] theorem State.answer_tst (d : BitVec 64) (st : Status) : (s.answer d st).tst = s.tst := rfl
@[simp] theorem State.answer_out (d : BitVec 64) (st : Status) : (s.answer d st).out = s.out := rfl
@[simp] theorem State.answer_free (d : BitVec 64) (st : Status) : (s.answer d st).free = s.free := rfl

/-! ### send -/

@[simp] theorem State.send_pending (l : List Output) : (s.send l).pending = s.pending := rfl
@[simp] theorem State.send_regs (l : List Output) : (s.send l).regs = s.regs := rfl
@[simp] theorem State.send_lanes (l : List Output) : (s.send l).lanes = s.lanes := rfl
@[simp] theorem State.send_integ (l : List Output) : (s.send l).integ = s.integ := rfl
@[simp] theorem State.send_skrx (l : List Output) : (s.send l).skrx = s.skrx := rfl
@[simp] theorem State.send_sktx (l : List Output) : (s.send l).sktx = s.sktx := rfl
@[simp] theorem State.send_ports (l : List Output) : (s.send l).ports = s.ports := rfl
@[simp] theorem State.send_loom (l : List Output) : (s.send l).loom = s.loom := rfl
@[simp] theorem State.send_trd (l : List Output) : (s.send l).trd = s.trd := rfl
@[simp] theorem State.send_fine (l : List Output) : (s.send l).fine = s.fine := rfl
@[simp] theorem State.send_prot (l : List Output) : (s.send l).prot = s.prot := rfl
@[simp] theorem State.send_blz (l : List Output) : (s.send l).blz = s.blz := rfl
@[simp] theorem State.send_beat (l : List Output) : (s.send l).beat = s.beat := rfl
@[simp] theorem State.send_bmy (l : List Output) : (s.send l).bmy = s.bmy := rfl
@[simp] theorem State.send_wvr (l : List Output) : (s.send l).wvr = s.wvr := rfl
@[simp] theorem State.send_ten (l : List Output) : (s.send l).ten = s.ten := rfl
@[simp] theorem State.send_fmn (l : List Output) : (s.send l).fmn = s.fmn := rfl
@[simp] theorem State.send_mbx (l : List Output) : (s.send l).mbx = s.mbx := rfl
@[simp] theorem State.send_bank (l : List Output) : (s.send l).bank = s.bank := rfl
@[simp] theorem State.send_skid (l : List Output) : (s.send l).skid = s.skid := rfl
@[simp] theorem State.send_tly (l : List Output) : (s.send l).tly = s.tly := rfl
@[simp] theorem State.send_pcie (l : List Output) : (s.send l).pcie = s.pcie := rfl
@[simp] theorem State.send_pwr (l : List Output) : (s.send l).pwr = s.pwr := rfl
@[simp] theorem State.send_jtag (l : List Output) : (s.send l).jtag = s.jtag := rfl
@[simp] theorem State.send_tst (l : List Output) : (s.send l).tst = s.tst := rfl
@[simp] theorem State.send_resp (l : List Output) : (s.send l).resp = s.resp := rfl
@[simp] theorem State.send_free (l : List Output) : (s.send l).free = s.free := rfl

@[simp] theorem State.modTrd_trd (f : Engine → Engine) : (s.modTrd f).trd = f s.trd := rfl
@[simp] theorem State.modLoom_loom (f : Loom → Loom) : (s.modLoom f).loom = f s.loom := rfl
@[simp] theorem State.modFine_fine (f : Fine → Fine) : (s.modFine f).fine = f s.fine := rfl
@[simp] theorem State.modProt_prot (f : Prot → Prot) : (s.modProt f).prot = f s.prot := rfl
@[simp] theorem State.modBeat_beat (f : Beat → Beat) : (s.modBeat f).beat = f s.beat := rfl
@[simp] theorem State.modBmy_bmy (f : Bamry → Bamry) : (s.modBmy f).bmy = f s.bmy := rfl
@[simp] theorem State.modTen_ten (f : Ten → Ten) : (s.modTen f).ten = f s.ten := rfl
@[simp] theorem State.modFmn_fmn (f : Fmn → Fmn) : (s.modFmn f).fmn = f s.fmn := rfl
@[simp] theorem State.modMbx_mbx (f : Mbx → Mbx) : (s.modMbx f).mbx = f s.mbx := rfl
@[simp] theorem State.modBank_bank (f : Banks → Banks) : (s.modBank f).bank = f s.bank := rfl
@[simp] theorem State.modSkid_skid (f : Skid → Skid) : (s.modSkid f).skid = f s.skid := rfl
@[simp] theorem State.modTly_tly (f : Tally → Tally) : (s.modTly f).tly = f s.tly := rfl
@[simp] theorem State.modPcie_pcie (f : Pcie → Pcie) : (s.modPcie f).pcie = f s.pcie := rfl
@[simp] theorem State.modPwr_pwr (f : Pwr → Pwr) : (s.modPwr f).pwr = f s.pwr := rfl
@[simp] theorem State.modJtag_jtag (f : Jtag → Jtag) : (s.modJtag f).jtag = f s.jtag := rfl
@[simp] theorem State.modTst_tst (f : Test → Test) : (s.modTst f).tst = f s.tst := rfl

/-! ### Reading after writing -/

@[simp] theorem State.answer_resp (d : BitVec 64) (st : Status) : (s.answer d st).resp = { data := d, status := st } := rfl
@[simp] theorem State.send_out (l : List Output) : (s.send l).out = s.out ++ l := rfl
@[simp] theorem State.freeVal_fst : s.freeVal.1 = Config.freeWord s.free := rfl

/-- Reading any register after writing one. -/
theorem State.reg_setReg (a b : Nat) (v : Word) : (s.setReg a v).reg b = if b = a then v else s.reg b := by
  unfold State.reg State.setReg
  split
  · rename_i h
    rw [h, smGet_smPut_same]
  · rename_i h
    simp only [smPut]
    split
    · exact smGet_filter_other _ _ h
    · exact smGet_smInsert_other _ _ _ h

@[simp] theorem State.reg_setReg_same (a : Nat) (v : Word) : (s.setReg a v).reg a = v := by simp [State.reg_setReg]
theorem State.reg_setReg_other {a b : Nat} (v : Word) (h : b ≠ a) : (s.setReg a v).reg b = s.reg b := by simp [State.reg_setReg, h]
@[simp] theorem State.reg_modLane (k : Nat) (f : Lane → Lane) (a : Nat) : (s.modLane k f).reg a = s.reg a := rfl
@[simp] theorem State.reg_modPort (k : Nat) (f : PortSt → PortSt) (a : Nat) : (s.modPort k f).reg a = s.reg a := rfl
@[simp] theorem State.reg_modRx (k : Nat) (f : SkRx → SkRx) (a : Nat) : (s.modRx k f).reg a = s.reg a := rfl
@[simp] theorem State.reg_modTx (k : Nat) (f : SkTx → SkTx) (a : Nat) : (s.modTx k f).reg a = s.reg a := rfl
@[simp] theorem State.reg_modInteg (k : Nat) (f : Integ → Integ) (a : Nat) : (s.modInteg k f).reg a = s.reg a := rfl
@[simp] theorem State.reg_modGrp (k : Nat) (f : Grp → Grp) (a : Nat) : (s.modGrp k f).reg a = s.reg a := rfl
@[simp] theorem State.reg_modUnit (k : Nat) (f : BlzUnit → BlzUnit) (a : Nat) : (s.modUnit k f).reg a = s.reg a := rfl
@[simp] theorem State.reg_modCand (k : Nat) (f : Cand → Cand) (a : Nat) : (s.modCand k f).reg a = s.reg a := rfl
@[simp] theorem State.reg_modNbr (k : Nat) (f : Nbr → Nbr) (a : Nat) : (s.modNbr k f).reg a = s.reg a := rfl
@[simp] theorem State.reg_modWeaver (k : Nat) (f : Weaver → Weaver) (a : Nat) : (s.modWeaver k f).reg a = s.reg a := rfl
@[simp] theorem State.reg_modTrd (f : Engine → Engine) (a : Nat) : (s.modTrd f).reg a = s.reg a := rfl
@[simp] theorem State.reg_modFe (f : Engine → Engine) (a : Nat) : (s.modFe f).reg a = s.reg a := rfl
@[simp] theorem State.reg_modLoom (f : Loom → Loom) (a : Nat) : (s.modLoom f).reg a = s.reg a := rfl
@[simp] theorem State.reg_modFine (f : Fine → Fine) (a : Nat) : (s.modFine f).reg a = s.reg a := rfl
@[simp] theorem State.reg_modProt (f : Prot → Prot) (a : Nat) : (s.modProt f).reg a = s.reg a := rfl
@[simp] theorem State.reg_modBeat (f : Beat → Beat) (a : Nat) : (s.modBeat f).reg a = s.reg a := rfl
@[simp] theorem State.reg_modBmy (f : Bamry → Bamry) (a : Nat) : (s.modBmy f).reg a = s.reg a := rfl
@[simp] theorem State.reg_modTen (f : Ten → Ten) (a : Nat) : (s.modTen f).reg a = s.reg a := rfl
@[simp] theorem State.reg_modFmn (f : Fmn → Fmn) (a : Nat) : (s.modFmn f).reg a = s.reg a := rfl
@[simp] theorem State.reg_modMbx (f : Mbx → Mbx) (a : Nat) : (s.modMbx f).reg a = s.reg a := rfl
@[simp] theorem State.reg_modBank (f : Banks → Banks) (a : Nat) : (s.modBank f).reg a = s.reg a := rfl
@[simp] theorem State.reg_modSkid (f : Skid → Skid) (a : Nat) : (s.modSkid f).reg a = s.reg a := rfl
@[simp] theorem State.reg_modTly (f : Tally → Tally) (a : Nat) : (s.modTly f).reg a = s.reg a := rfl
@[simp] theorem State.reg_modPcie (f : Pcie → Pcie) (a : Nat) : (s.modPcie f).reg a = s.reg a := rfl
@[simp] theorem State.reg_modPwr (f : Pwr → Pwr) (a : Nat) : (s.modPwr f).reg a = s.reg a := rfl
@[simp] theorem State.reg_modJtag (f : Jtag → Jtag) (a : Nat) : (s.modJtag f).reg a = s.reg a := rfl
@[simp] theorem State.reg_modTst (f : Test → Test) (a : Nat) : (s.modTst f).reg a = s.reg a := rfl
@[simp] theorem State.reg_answer (d : BitVec 64) (st : Status) (a : Nat) : (s.answer d st).reg a = s.reg a := rfl
@[simp] theorem State.reg_send (l : List Output) (a : Nat) : (s.send l).reg a = s.reg a := rfl

@[simp] theorem State.lane_modLane_same (k : Nat) (f : Lane → Lane) : (s.modLane k f).lane k = f (s.lane k) := smGet_smMod_same _ _ k f
theorem State.lane_modLane_other {k j : Nat} (f : Lane → Lane) (h : j ≠ k) : (s.modLane k f).lane j = s.lane j := smGet_smMod_other _ _ f h
@[simp] theorem State.lane_setReg (a : Nat) (v : Word) (j : Nat) : (s.setReg a v).lane j = s.lane j := rfl
@[simp] theorem State.lane_modPort (k : Nat) (f : PortSt → PortSt) (j : Nat) : (s.modPort k f).lane j = s.lane j := rfl
@[simp] theorem State.lane_modRx (k : Nat) (f : SkRx → SkRx) (j : Nat) : (s.modRx k f).lane j = s.lane j := rfl
@[simp] theorem State.lane_modTx (k : Nat) (f : SkTx → SkTx) (j : Nat) : (s.modTx k f).lane j = s.lane j := rfl
@[simp] theorem State.lane_modInteg (k : Nat) (f : Integ → Integ) (j : Nat) : (s.modInteg k f).lane j = s.lane j := rfl
@[simp] theorem State.lane_modGrp (k : Nat) (f : Grp → Grp) (j : Nat) : (s.modGrp k f).lane j = s.lane j := rfl
@[simp] theorem State.lane_modUnit (k : Nat) (f : BlzUnit → BlzUnit) (j : Nat) : (s.modUnit k f).lane j = s.lane j := rfl
@[simp] theorem State.lane_modCand (k : Nat) (f : Cand → Cand) (j : Nat) : (s.modCand k f).lane j = s.lane j := rfl
@[simp] theorem State.lane_modNbr (k : Nat) (f : Nbr → Nbr) (j : Nat) : (s.modNbr k f).lane j = s.lane j := rfl
@[simp] theorem State.lane_modWeaver (k : Nat) (f : Weaver → Weaver) (j : Nat) : (s.modWeaver k f).lane j = s.lane j := rfl
@[simp] theorem State.lane_modTrd (f : Engine → Engine) (j : Nat) : (s.modTrd f).lane j = s.lane j := rfl
@[simp] theorem State.lane_modFe (f : Engine → Engine) (j : Nat) : (s.modFe f).lane j = s.lane j := rfl
@[simp] theorem State.lane_modLoom (f : Loom → Loom) (j : Nat) : (s.modLoom f).lane j = s.lane j := rfl
@[simp] theorem State.lane_modFine (f : Fine → Fine) (j : Nat) : (s.modFine f).lane j = s.lane j := rfl
@[simp] theorem State.lane_modProt (f : Prot → Prot) (j : Nat) : (s.modProt f).lane j = s.lane j := rfl
@[simp] theorem State.lane_modBeat (f : Beat → Beat) (j : Nat) : (s.modBeat f).lane j = s.lane j := rfl
@[simp] theorem State.lane_modBmy (f : Bamry → Bamry) (j : Nat) : (s.modBmy f).lane j = s.lane j := rfl
@[simp] theorem State.lane_modTen (f : Ten → Ten) (j : Nat) : (s.modTen f).lane j = s.lane j := rfl
@[simp] theorem State.lane_modFmn (f : Fmn → Fmn) (j : Nat) : (s.modFmn f).lane j = s.lane j := rfl
@[simp] theorem State.lane_modMbx (f : Mbx → Mbx) (j : Nat) : (s.modMbx f).lane j = s.lane j := rfl
@[simp] theorem State.lane_modBank (f : Banks → Banks) (j : Nat) : (s.modBank f).lane j = s.lane j := rfl
@[simp] theorem State.lane_modSkid (f : Skid → Skid) (j : Nat) : (s.modSkid f).lane j = s.lane j := rfl
@[simp] theorem State.lane_modTly (f : Tally → Tally) (j : Nat) : (s.modTly f).lane j = s.lane j := rfl
@[simp] theorem State.lane_modPcie (f : Pcie → Pcie) (j : Nat) : (s.modPcie f).lane j = s.lane j := rfl
@[simp] theorem State.lane_modPwr (f : Pwr → Pwr) (j : Nat) : (s.modPwr f).lane j = s.lane j := rfl
@[simp] theorem State.lane_modJtag (f : Jtag → Jtag) (j : Nat) : (s.modJtag f).lane j = s.lane j := rfl
@[simp] theorem State.lane_modTst (f : Test → Test) (j : Nat) : (s.modTst f).lane j = s.lane j := rfl
@[simp] theorem State.lane_answer (d : BitVec 64) (st : Status) (j : Nat) : (s.answer d st).lane j = s.lane j := rfl
@[simp] theorem State.lane_send (l : List Output) (j : Nat) : (s.send l).lane j = s.lane j := rfl

@[simp] theorem State.port_modPort_same (k : Nat) (f : PortSt → PortSt) : (s.modPort k f).port k = f (s.port k) := smGet_smMod_same _ _ k f
theorem State.port_modPort_other {k j : Nat} (f : PortSt → PortSt) (h : j ≠ k) : (s.modPort k f).port j = s.port j := smGet_smMod_other _ _ f h
@[simp] theorem State.port_setReg (a : Nat) (v : Word) (j : Nat) : (s.setReg a v).port j = s.port j := rfl
@[simp] theorem State.port_modLane (k : Nat) (f : Lane → Lane) (j : Nat) : (s.modLane k f).port j = s.port j := rfl
@[simp] theorem State.port_modRx (k : Nat) (f : SkRx → SkRx) (j : Nat) : (s.modRx k f).port j = s.port j := rfl
@[simp] theorem State.port_modTx (k : Nat) (f : SkTx → SkTx) (j : Nat) : (s.modTx k f).port j = s.port j := rfl
@[simp] theorem State.port_modInteg (k : Nat) (f : Integ → Integ) (j : Nat) : (s.modInteg k f).port j = s.port j := rfl
@[simp] theorem State.port_modGrp (k : Nat) (f : Grp → Grp) (j : Nat) : (s.modGrp k f).port j = s.port j := rfl
@[simp] theorem State.port_modUnit (k : Nat) (f : BlzUnit → BlzUnit) (j : Nat) : (s.modUnit k f).port j = s.port j := rfl
@[simp] theorem State.port_modCand (k : Nat) (f : Cand → Cand) (j : Nat) : (s.modCand k f).port j = s.port j := rfl
@[simp] theorem State.port_modNbr (k : Nat) (f : Nbr → Nbr) (j : Nat) : (s.modNbr k f).port j = s.port j := rfl
@[simp] theorem State.port_modWeaver (k : Nat) (f : Weaver → Weaver) (j : Nat) : (s.modWeaver k f).port j = s.port j := rfl
@[simp] theorem State.port_modTrd (f : Engine → Engine) (j : Nat) : (s.modTrd f).port j = s.port j := rfl
@[simp] theorem State.port_modFe (f : Engine → Engine) (j : Nat) : (s.modFe f).port j = s.port j := rfl
@[simp] theorem State.port_modLoom (f : Loom → Loom) (j : Nat) : (s.modLoom f).port j = s.port j := rfl
@[simp] theorem State.port_modFine (f : Fine → Fine) (j : Nat) : (s.modFine f).port j = s.port j := rfl
@[simp] theorem State.port_modProt (f : Prot → Prot) (j : Nat) : (s.modProt f).port j = s.port j := rfl
@[simp] theorem State.port_modBeat (f : Beat → Beat) (j : Nat) : (s.modBeat f).port j = s.port j := rfl
@[simp] theorem State.port_modBmy (f : Bamry → Bamry) (j : Nat) : (s.modBmy f).port j = s.port j := rfl
@[simp] theorem State.port_modTen (f : Ten → Ten) (j : Nat) : (s.modTen f).port j = s.port j := rfl
@[simp] theorem State.port_modFmn (f : Fmn → Fmn) (j : Nat) : (s.modFmn f).port j = s.port j := rfl
@[simp] theorem State.port_modMbx (f : Mbx → Mbx) (j : Nat) : (s.modMbx f).port j = s.port j := rfl
@[simp] theorem State.port_modBank (f : Banks → Banks) (j : Nat) : (s.modBank f).port j = s.port j := rfl
@[simp] theorem State.port_modSkid (f : Skid → Skid) (j : Nat) : (s.modSkid f).port j = s.port j := rfl
@[simp] theorem State.port_modTly (f : Tally → Tally) (j : Nat) : (s.modTly f).port j = s.port j := rfl
@[simp] theorem State.port_modPcie (f : Pcie → Pcie) (j : Nat) : (s.modPcie f).port j = s.port j := rfl
@[simp] theorem State.port_modPwr (f : Pwr → Pwr) (j : Nat) : (s.modPwr f).port j = s.port j := rfl
@[simp] theorem State.port_modJtag (f : Jtag → Jtag) (j : Nat) : (s.modJtag f).port j = s.port j := rfl
@[simp] theorem State.port_modTst (f : Test → Test) (j : Nat) : (s.modTst f).port j = s.port j := rfl
@[simp] theorem State.port_answer (d : BitVec 64) (st : Status) (j : Nat) : (s.answer d st).port j = s.port j := rfl
@[simp] theorem State.port_send (l : List Output) (j : Nat) : (s.send l).port j = s.port j := rfl

@[simp] theorem State.rx_modRx_same (k : Nat) (f : SkRx → SkRx) : (s.modRx k f).rx k = f (s.rx k) := smGet_smMod_same _ _ k f
theorem State.rx_modRx_other {k j : Nat} (f : SkRx → SkRx) (h : j ≠ k) : (s.modRx k f).rx j = s.rx j := smGet_smMod_other _ _ f h
@[simp] theorem State.rx_setReg (a : Nat) (v : Word) (j : Nat) : (s.setReg a v).rx j = s.rx j := rfl
@[simp] theorem State.rx_modLane (k : Nat) (f : Lane → Lane) (j : Nat) : (s.modLane k f).rx j = s.rx j := rfl
@[simp] theorem State.rx_modPort (k : Nat) (f : PortSt → PortSt) (j : Nat) : (s.modPort k f).rx j = s.rx j := rfl
@[simp] theorem State.rx_modTx (k : Nat) (f : SkTx → SkTx) (j : Nat) : (s.modTx k f).rx j = s.rx j := rfl
@[simp] theorem State.rx_modInteg (k : Nat) (f : Integ → Integ) (j : Nat) : (s.modInteg k f).rx j = s.rx j := rfl
@[simp] theorem State.rx_modGrp (k : Nat) (f : Grp → Grp) (j : Nat) : (s.modGrp k f).rx j = s.rx j := rfl
@[simp] theorem State.rx_modUnit (k : Nat) (f : BlzUnit → BlzUnit) (j : Nat) : (s.modUnit k f).rx j = s.rx j := rfl
@[simp] theorem State.rx_modCand (k : Nat) (f : Cand → Cand) (j : Nat) : (s.modCand k f).rx j = s.rx j := rfl
@[simp] theorem State.rx_modNbr (k : Nat) (f : Nbr → Nbr) (j : Nat) : (s.modNbr k f).rx j = s.rx j := rfl
@[simp] theorem State.rx_modWeaver (k : Nat) (f : Weaver → Weaver) (j : Nat) : (s.modWeaver k f).rx j = s.rx j := rfl
@[simp] theorem State.rx_modTrd (f : Engine → Engine) (j : Nat) : (s.modTrd f).rx j = s.rx j := rfl
@[simp] theorem State.rx_modFe (f : Engine → Engine) (j : Nat) : (s.modFe f).rx j = s.rx j := rfl
@[simp] theorem State.rx_modLoom (f : Loom → Loom) (j : Nat) : (s.modLoom f).rx j = s.rx j := rfl
@[simp] theorem State.rx_modFine (f : Fine → Fine) (j : Nat) : (s.modFine f).rx j = s.rx j := rfl
@[simp] theorem State.rx_modProt (f : Prot → Prot) (j : Nat) : (s.modProt f).rx j = s.rx j := rfl
@[simp] theorem State.rx_modBeat (f : Beat → Beat) (j : Nat) : (s.modBeat f).rx j = s.rx j := rfl
@[simp] theorem State.rx_modBmy (f : Bamry → Bamry) (j : Nat) : (s.modBmy f).rx j = s.rx j := rfl
@[simp] theorem State.rx_modTen (f : Ten → Ten) (j : Nat) : (s.modTen f).rx j = s.rx j := rfl
@[simp] theorem State.rx_modFmn (f : Fmn → Fmn) (j : Nat) : (s.modFmn f).rx j = s.rx j := rfl
@[simp] theorem State.rx_modMbx (f : Mbx → Mbx) (j : Nat) : (s.modMbx f).rx j = s.rx j := rfl
@[simp] theorem State.rx_modBank (f : Banks → Banks) (j : Nat) : (s.modBank f).rx j = s.rx j := rfl
@[simp] theorem State.rx_modSkid (f : Skid → Skid) (j : Nat) : (s.modSkid f).rx j = s.rx j := rfl
@[simp] theorem State.rx_modTly (f : Tally → Tally) (j : Nat) : (s.modTly f).rx j = s.rx j := rfl
@[simp] theorem State.rx_modPcie (f : Pcie → Pcie) (j : Nat) : (s.modPcie f).rx j = s.rx j := rfl
@[simp] theorem State.rx_modPwr (f : Pwr → Pwr) (j : Nat) : (s.modPwr f).rx j = s.rx j := rfl
@[simp] theorem State.rx_modJtag (f : Jtag → Jtag) (j : Nat) : (s.modJtag f).rx j = s.rx j := rfl
@[simp] theorem State.rx_modTst (f : Test → Test) (j : Nat) : (s.modTst f).rx j = s.rx j := rfl
@[simp] theorem State.rx_answer (d : BitVec 64) (st : Status) (j : Nat) : (s.answer d st).rx j = s.rx j := rfl
@[simp] theorem State.rx_send (l : List Output) (j : Nat) : (s.send l).rx j = s.rx j := rfl

@[simp] theorem State.tx_modTx_same (k : Nat) (f : SkTx → SkTx) : (s.modTx k f).tx k = f (s.tx k) := smGet_smMod_same _ _ k f
theorem State.tx_modTx_other {k j : Nat} (f : SkTx → SkTx) (h : j ≠ k) : (s.modTx k f).tx j = s.tx j := smGet_smMod_other _ _ f h
@[simp] theorem State.tx_setReg (a : Nat) (v : Word) (j : Nat) : (s.setReg a v).tx j = s.tx j := rfl
@[simp] theorem State.tx_modLane (k : Nat) (f : Lane → Lane) (j : Nat) : (s.modLane k f).tx j = s.tx j := rfl
@[simp] theorem State.tx_modPort (k : Nat) (f : PortSt → PortSt) (j : Nat) : (s.modPort k f).tx j = s.tx j := rfl
@[simp] theorem State.tx_modRx (k : Nat) (f : SkRx → SkRx) (j : Nat) : (s.modRx k f).tx j = s.tx j := rfl
@[simp] theorem State.tx_modInteg (k : Nat) (f : Integ → Integ) (j : Nat) : (s.modInteg k f).tx j = s.tx j := rfl
@[simp] theorem State.tx_modGrp (k : Nat) (f : Grp → Grp) (j : Nat) : (s.modGrp k f).tx j = s.tx j := rfl
@[simp] theorem State.tx_modUnit (k : Nat) (f : BlzUnit → BlzUnit) (j : Nat) : (s.modUnit k f).tx j = s.tx j := rfl
@[simp] theorem State.tx_modCand (k : Nat) (f : Cand → Cand) (j : Nat) : (s.modCand k f).tx j = s.tx j := rfl
@[simp] theorem State.tx_modNbr (k : Nat) (f : Nbr → Nbr) (j : Nat) : (s.modNbr k f).tx j = s.tx j := rfl
@[simp] theorem State.tx_modWeaver (k : Nat) (f : Weaver → Weaver) (j : Nat) : (s.modWeaver k f).tx j = s.tx j := rfl
@[simp] theorem State.tx_modTrd (f : Engine → Engine) (j : Nat) : (s.modTrd f).tx j = s.tx j := rfl
@[simp] theorem State.tx_modFe (f : Engine → Engine) (j : Nat) : (s.modFe f).tx j = s.tx j := rfl
@[simp] theorem State.tx_modLoom (f : Loom → Loom) (j : Nat) : (s.modLoom f).tx j = s.tx j := rfl
@[simp] theorem State.tx_modFine (f : Fine → Fine) (j : Nat) : (s.modFine f).tx j = s.tx j := rfl
@[simp] theorem State.tx_modProt (f : Prot → Prot) (j : Nat) : (s.modProt f).tx j = s.tx j := rfl
@[simp] theorem State.tx_modBeat (f : Beat → Beat) (j : Nat) : (s.modBeat f).tx j = s.tx j := rfl
@[simp] theorem State.tx_modBmy (f : Bamry → Bamry) (j : Nat) : (s.modBmy f).tx j = s.tx j := rfl
@[simp] theorem State.tx_modTen (f : Ten → Ten) (j : Nat) : (s.modTen f).tx j = s.tx j := rfl
@[simp] theorem State.tx_modFmn (f : Fmn → Fmn) (j : Nat) : (s.modFmn f).tx j = s.tx j := rfl
@[simp] theorem State.tx_modMbx (f : Mbx → Mbx) (j : Nat) : (s.modMbx f).tx j = s.tx j := rfl
@[simp] theorem State.tx_modBank (f : Banks → Banks) (j : Nat) : (s.modBank f).tx j = s.tx j := rfl
@[simp] theorem State.tx_modSkid (f : Skid → Skid) (j : Nat) : (s.modSkid f).tx j = s.tx j := rfl
@[simp] theorem State.tx_modTly (f : Tally → Tally) (j : Nat) : (s.modTly f).tx j = s.tx j := rfl
@[simp] theorem State.tx_modPcie (f : Pcie → Pcie) (j : Nat) : (s.modPcie f).tx j = s.tx j := rfl
@[simp] theorem State.tx_modPwr (f : Pwr → Pwr) (j : Nat) : (s.modPwr f).tx j = s.tx j := rfl
@[simp] theorem State.tx_modJtag (f : Jtag → Jtag) (j : Nat) : (s.modJtag f).tx j = s.tx j := rfl
@[simp] theorem State.tx_modTst (f : Test → Test) (j : Nat) : (s.modTst f).tx j = s.tx j := rfl
@[simp] theorem State.tx_answer (d : BitVec 64) (st : Status) (j : Nat) : (s.answer d st).tx j = s.tx j := rfl
@[simp] theorem State.tx_send (l : List Output) (j : Nat) : (s.send l).tx j = s.tx j := rfl

@[simp] theorem State.integ1_modInteg_same (k : Nat) (f : Integ → Integ) : (s.modInteg k f).integ1 k = f (s.integ1 k) := smGet_smMod_same _ _ k f
theorem State.integ1_modInteg_other {k j : Nat} (f : Integ → Integ) (h : j ≠ k) : (s.modInteg k f).integ1 j = s.integ1 j := smGet_smMod_other _ _ f h
@[simp] theorem State.integ1_setReg (a : Nat) (v : Word) (j : Nat) : (s.setReg a v).integ1 j = s.integ1 j := rfl
@[simp] theorem State.integ1_modLane (k : Nat) (f : Lane → Lane) (j : Nat) : (s.modLane k f).integ1 j = s.integ1 j := rfl
@[simp] theorem State.integ1_modPort (k : Nat) (f : PortSt → PortSt) (j : Nat) : (s.modPort k f).integ1 j = s.integ1 j := rfl
@[simp] theorem State.integ1_modRx (k : Nat) (f : SkRx → SkRx) (j : Nat) : (s.modRx k f).integ1 j = s.integ1 j := rfl
@[simp] theorem State.integ1_modTx (k : Nat) (f : SkTx → SkTx) (j : Nat) : (s.modTx k f).integ1 j = s.integ1 j := rfl
@[simp] theorem State.integ1_modGrp (k : Nat) (f : Grp → Grp) (j : Nat) : (s.modGrp k f).integ1 j = s.integ1 j := rfl
@[simp] theorem State.integ1_modUnit (k : Nat) (f : BlzUnit → BlzUnit) (j : Nat) : (s.modUnit k f).integ1 j = s.integ1 j := rfl
@[simp] theorem State.integ1_modCand (k : Nat) (f : Cand → Cand) (j : Nat) : (s.modCand k f).integ1 j = s.integ1 j := rfl
@[simp] theorem State.integ1_modNbr (k : Nat) (f : Nbr → Nbr) (j : Nat) : (s.modNbr k f).integ1 j = s.integ1 j := rfl
@[simp] theorem State.integ1_modWeaver (k : Nat) (f : Weaver → Weaver) (j : Nat) : (s.modWeaver k f).integ1 j = s.integ1 j := rfl
@[simp] theorem State.integ1_modTrd (f : Engine → Engine) (j : Nat) : (s.modTrd f).integ1 j = s.integ1 j := rfl
@[simp] theorem State.integ1_modFe (f : Engine → Engine) (j : Nat) : (s.modFe f).integ1 j = s.integ1 j := rfl
@[simp] theorem State.integ1_modLoom (f : Loom → Loom) (j : Nat) : (s.modLoom f).integ1 j = s.integ1 j := rfl
@[simp] theorem State.integ1_modFine (f : Fine → Fine) (j : Nat) : (s.modFine f).integ1 j = s.integ1 j := rfl
@[simp] theorem State.integ1_modProt (f : Prot → Prot) (j : Nat) : (s.modProt f).integ1 j = s.integ1 j := rfl
@[simp] theorem State.integ1_modBeat (f : Beat → Beat) (j : Nat) : (s.modBeat f).integ1 j = s.integ1 j := rfl
@[simp] theorem State.integ1_modBmy (f : Bamry → Bamry) (j : Nat) : (s.modBmy f).integ1 j = s.integ1 j := rfl
@[simp] theorem State.integ1_modTen (f : Ten → Ten) (j : Nat) : (s.modTen f).integ1 j = s.integ1 j := rfl
@[simp] theorem State.integ1_modFmn (f : Fmn → Fmn) (j : Nat) : (s.modFmn f).integ1 j = s.integ1 j := rfl
@[simp] theorem State.integ1_modMbx (f : Mbx → Mbx) (j : Nat) : (s.modMbx f).integ1 j = s.integ1 j := rfl
@[simp] theorem State.integ1_modBank (f : Banks → Banks) (j : Nat) : (s.modBank f).integ1 j = s.integ1 j := rfl
@[simp] theorem State.integ1_modSkid (f : Skid → Skid) (j : Nat) : (s.modSkid f).integ1 j = s.integ1 j := rfl
@[simp] theorem State.integ1_modTly (f : Tally → Tally) (j : Nat) : (s.modTly f).integ1 j = s.integ1 j := rfl
@[simp] theorem State.integ1_modPcie (f : Pcie → Pcie) (j : Nat) : (s.modPcie f).integ1 j = s.integ1 j := rfl
@[simp] theorem State.integ1_modPwr (f : Pwr → Pwr) (j : Nat) : (s.modPwr f).integ1 j = s.integ1 j := rfl
@[simp] theorem State.integ1_modJtag (f : Jtag → Jtag) (j : Nat) : (s.modJtag f).integ1 j = s.integ1 j := rfl
@[simp] theorem State.integ1_modTst (f : Test → Test) (j : Nat) : (s.modTst f).integ1 j = s.integ1 j := rfl
@[simp] theorem State.integ1_answer (d : BitVec 64) (st : Status) (j : Nat) : (s.answer d st).integ1 j = s.integ1 j := rfl
@[simp] theorem State.integ1_send (l : List Output) (j : Nat) : (s.send l).integ1 j = s.integ1 j := rfl

@[simp] theorem State.grp_modGrp_same (k : Nat) (f : Grp → Grp) : (s.modGrp k f).grp k = f (s.grp k) := smGet_smMod_same _ _ k f
theorem State.grp_modGrp_other {k j : Nat} (f : Grp → Grp) (h : j ≠ k) : (s.modGrp k f).grp j = s.grp j := smGet_smMod_other _ _ f h
@[simp] theorem State.grp_setReg (a : Nat) (v : Word) (j : Nat) : (s.setReg a v).grp j = s.grp j := rfl
@[simp] theorem State.grp_modLane (k : Nat) (f : Lane → Lane) (j : Nat) : (s.modLane k f).grp j = s.grp j := rfl
@[simp] theorem State.grp_modPort (k : Nat) (f : PortSt → PortSt) (j : Nat) : (s.modPort k f).grp j = s.grp j := rfl
@[simp] theorem State.grp_modRx (k : Nat) (f : SkRx → SkRx) (j : Nat) : (s.modRx k f).grp j = s.grp j := rfl
@[simp] theorem State.grp_modTx (k : Nat) (f : SkTx → SkTx) (j : Nat) : (s.modTx k f).grp j = s.grp j := rfl
@[simp] theorem State.grp_modInteg (k : Nat) (f : Integ → Integ) (j : Nat) : (s.modInteg k f).grp j = s.grp j := rfl
@[simp] theorem State.grp_modUnit (k : Nat) (f : BlzUnit → BlzUnit) (j : Nat) : (s.modUnit k f).grp j = s.grp j := rfl
@[simp] theorem State.grp_modCand (k : Nat) (f : Cand → Cand) (j : Nat) : (s.modCand k f).grp j = s.grp j := rfl
@[simp] theorem State.grp_modNbr (k : Nat) (f : Nbr → Nbr) (j : Nat) : (s.modNbr k f).grp j = s.grp j := rfl
@[simp] theorem State.grp_modWeaver (k : Nat) (f : Weaver → Weaver) (j : Nat) : (s.modWeaver k f).grp j = s.grp j := rfl
@[simp] theorem State.grp_modTrd (f : Engine → Engine) (j : Nat) : (s.modTrd f).grp j = s.grp j := rfl
@[simp] theorem State.grp_modFe (f : Engine → Engine) (j : Nat) : (s.modFe f).grp j = s.grp j := rfl
@[simp] theorem State.grp_modLoom (f : Loom → Loom) (j : Nat) : (s.modLoom f).grp j = s.grp j := rfl
@[simp] theorem State.grp_modFine (f : Fine → Fine) (j : Nat) : (s.modFine f).grp j = s.grp j := rfl
@[simp] theorem State.grp_modBeat (f : Beat → Beat) (j : Nat) : (s.modBeat f).grp j = s.grp j := rfl
@[simp] theorem State.grp_modBmy (f : Bamry → Bamry) (j : Nat) : (s.modBmy f).grp j = s.grp j := rfl
@[simp] theorem State.grp_modTen (f : Ten → Ten) (j : Nat) : (s.modTen f).grp j = s.grp j := rfl
@[simp] theorem State.grp_modFmn (f : Fmn → Fmn) (j : Nat) : (s.modFmn f).grp j = s.grp j := rfl
@[simp] theorem State.grp_modMbx (f : Mbx → Mbx) (j : Nat) : (s.modMbx f).grp j = s.grp j := rfl
@[simp] theorem State.grp_modBank (f : Banks → Banks) (j : Nat) : (s.modBank f).grp j = s.grp j := rfl
@[simp] theorem State.grp_modSkid (f : Skid → Skid) (j : Nat) : (s.modSkid f).grp j = s.grp j := rfl
@[simp] theorem State.grp_modTly (f : Tally → Tally) (j : Nat) : (s.modTly f).grp j = s.grp j := rfl
@[simp] theorem State.grp_modPcie (f : Pcie → Pcie) (j : Nat) : (s.modPcie f).grp j = s.grp j := rfl
@[simp] theorem State.grp_modPwr (f : Pwr → Pwr) (j : Nat) : (s.modPwr f).grp j = s.grp j := rfl
@[simp] theorem State.grp_modJtag (f : Jtag → Jtag) (j : Nat) : (s.modJtag f).grp j = s.grp j := rfl
@[simp] theorem State.grp_modTst (f : Test → Test) (j : Nat) : (s.modTst f).grp j = s.grp j := rfl
@[simp] theorem State.grp_answer (d : BitVec 64) (st : Status) (j : Nat) : (s.answer d st).grp j = s.grp j := rfl
@[simp] theorem State.grp_send (l : List Output) (j : Nat) : (s.send l).grp j = s.grp j := rfl

@[simp] theorem State.unit_modUnit_same (k : Nat) (f : BlzUnit → BlzUnit) : (s.modUnit k f).unit k = f (s.unit k) := smGet_smMod_same _ _ k f
theorem State.unit_modUnit_other {k j : Nat} (f : BlzUnit → BlzUnit) (h : j ≠ k) : (s.modUnit k f).unit j = s.unit j := smGet_smMod_other _ _ f h
@[simp] theorem State.unit_setReg (a : Nat) (v : Word) (j : Nat) : (s.setReg a v).unit j = s.unit j := rfl
@[simp] theorem State.unit_modLane (k : Nat) (f : Lane → Lane) (j : Nat) : (s.modLane k f).unit j = s.unit j := rfl
@[simp] theorem State.unit_modPort (k : Nat) (f : PortSt → PortSt) (j : Nat) : (s.modPort k f).unit j = s.unit j := rfl
@[simp] theorem State.unit_modRx (k : Nat) (f : SkRx → SkRx) (j : Nat) : (s.modRx k f).unit j = s.unit j := rfl
@[simp] theorem State.unit_modTx (k : Nat) (f : SkTx → SkTx) (j : Nat) : (s.modTx k f).unit j = s.unit j := rfl
@[simp] theorem State.unit_modInteg (k : Nat) (f : Integ → Integ) (j : Nat) : (s.modInteg k f).unit j = s.unit j := rfl
@[simp] theorem State.unit_modGrp (k : Nat) (f : Grp → Grp) (j : Nat) : (s.modGrp k f).unit j = s.unit j := rfl
@[simp] theorem State.unit_modCand (k : Nat) (f : Cand → Cand) (j : Nat) : (s.modCand k f).unit j = s.unit j := rfl
@[simp] theorem State.unit_modNbr (k : Nat) (f : Nbr → Nbr) (j : Nat) : (s.modNbr k f).unit j = s.unit j := rfl
@[simp] theorem State.unit_modWeaver (k : Nat) (f : Weaver → Weaver) (j : Nat) : (s.modWeaver k f).unit j = s.unit j := rfl
@[simp] theorem State.unit_modTrd (f : Engine → Engine) (j : Nat) : (s.modTrd f).unit j = s.unit j := rfl
@[simp] theorem State.unit_modFe (f : Engine → Engine) (j : Nat) : (s.modFe f).unit j = s.unit j := rfl
@[simp] theorem State.unit_modLoom (f : Loom → Loom) (j : Nat) : (s.modLoom f).unit j = s.unit j := rfl
@[simp] theorem State.unit_modFine (f : Fine → Fine) (j : Nat) : (s.modFine f).unit j = s.unit j := rfl
@[simp] theorem State.unit_modProt (f : Prot → Prot) (j : Nat) : (s.modProt f).unit j = s.unit j := rfl
@[simp] theorem State.unit_modBeat (f : Beat → Beat) (j : Nat) : (s.modBeat f).unit j = s.unit j := rfl
@[simp] theorem State.unit_modBmy (f : Bamry → Bamry) (j : Nat) : (s.modBmy f).unit j = s.unit j := rfl
@[simp] theorem State.unit_modTen (f : Ten → Ten) (j : Nat) : (s.modTen f).unit j = s.unit j := rfl
@[simp] theorem State.unit_modFmn (f : Fmn → Fmn) (j : Nat) : (s.modFmn f).unit j = s.unit j := rfl
@[simp] theorem State.unit_modMbx (f : Mbx → Mbx) (j : Nat) : (s.modMbx f).unit j = s.unit j := rfl
@[simp] theorem State.unit_modBank (f : Banks → Banks) (j : Nat) : (s.modBank f).unit j = s.unit j := rfl
@[simp] theorem State.unit_modSkid (f : Skid → Skid) (j : Nat) : (s.modSkid f).unit j = s.unit j := rfl
@[simp] theorem State.unit_modTly (f : Tally → Tally) (j : Nat) : (s.modTly f).unit j = s.unit j := rfl
@[simp] theorem State.unit_modPcie (f : Pcie → Pcie) (j : Nat) : (s.modPcie f).unit j = s.unit j := rfl
@[simp] theorem State.unit_modPwr (f : Pwr → Pwr) (j : Nat) : (s.modPwr f).unit j = s.unit j := rfl
@[simp] theorem State.unit_modJtag (f : Jtag → Jtag) (j : Nat) : (s.modJtag f).unit j = s.unit j := rfl
@[simp] theorem State.unit_modTst (f : Test → Test) (j : Nat) : (s.modTst f).unit j = s.unit j := rfl
@[simp] theorem State.unit_answer (d : BitVec 64) (st : Status) (j : Nat) : (s.answer d st).unit j = s.unit j := rfl
@[simp] theorem State.unit_send (l : List Output) (j : Nat) : (s.send l).unit j = s.unit j := rfl

@[simp] theorem State.cand_modCand_same (k : Nat) (f : Cand → Cand) : (s.modCand k f).cand k = f (s.cand k) := smGet_smMod_same _ _ k f
theorem State.cand_modCand_other {k j : Nat} (f : Cand → Cand) (h : j ≠ k) : (s.modCand k f).cand j = s.cand j := smGet_smMod_other _ _ f h
@[simp] theorem State.cand_setReg (a : Nat) (v : Word) (j : Nat) : (s.setReg a v).cand j = s.cand j := rfl
@[simp] theorem State.cand_modLane (k : Nat) (f : Lane → Lane) (j : Nat) : (s.modLane k f).cand j = s.cand j := rfl
@[simp] theorem State.cand_modPort (k : Nat) (f : PortSt → PortSt) (j : Nat) : (s.modPort k f).cand j = s.cand j := rfl
@[simp] theorem State.cand_modRx (k : Nat) (f : SkRx → SkRx) (j : Nat) : (s.modRx k f).cand j = s.cand j := rfl
@[simp] theorem State.cand_modTx (k : Nat) (f : SkTx → SkTx) (j : Nat) : (s.modTx k f).cand j = s.cand j := rfl
@[simp] theorem State.cand_modInteg (k : Nat) (f : Integ → Integ) (j : Nat) : (s.modInteg k f).cand j = s.cand j := rfl
@[simp] theorem State.cand_modGrp (k : Nat) (f : Grp → Grp) (j : Nat) : (s.modGrp k f).cand j = s.cand j := rfl
@[simp] theorem State.cand_modUnit (k : Nat) (f : BlzUnit → BlzUnit) (j : Nat) : (s.modUnit k f).cand j = s.cand j := rfl
@[simp] theorem State.cand_modNbr (k : Nat) (f : Nbr → Nbr) (j : Nat) : (s.modNbr k f).cand j = s.cand j := rfl
@[simp] theorem State.cand_modWeaver (k : Nat) (f : Weaver → Weaver) (j : Nat) : (s.modWeaver k f).cand j = s.cand j := rfl
@[simp] theorem State.cand_modTrd (f : Engine → Engine) (j : Nat) : (s.modTrd f).cand j = s.cand j := rfl
@[simp] theorem State.cand_modFe (f : Engine → Engine) (j : Nat) : (s.modFe f).cand j = s.cand j := rfl
@[simp] theorem State.cand_modLoom (f : Loom → Loom) (j : Nat) : (s.modLoom f).cand j = s.cand j := rfl
@[simp] theorem State.cand_modFine (f : Fine → Fine) (j : Nat) : (s.modFine f).cand j = s.cand j := rfl
@[simp] theorem State.cand_modProt (f : Prot → Prot) (j : Nat) : (s.modProt f).cand j = s.cand j := rfl
@[simp] theorem State.cand_modBmy (f : Bamry → Bamry) (j : Nat) : (s.modBmy f).cand j = s.cand j := rfl
@[simp] theorem State.cand_modTen (f : Ten → Ten) (j : Nat) : (s.modTen f).cand j = s.cand j := rfl
@[simp] theorem State.cand_modFmn (f : Fmn → Fmn) (j : Nat) : (s.modFmn f).cand j = s.cand j := rfl
@[simp] theorem State.cand_modMbx (f : Mbx → Mbx) (j : Nat) : (s.modMbx f).cand j = s.cand j := rfl
@[simp] theorem State.cand_modBank (f : Banks → Banks) (j : Nat) : (s.modBank f).cand j = s.cand j := rfl
@[simp] theorem State.cand_modSkid (f : Skid → Skid) (j : Nat) : (s.modSkid f).cand j = s.cand j := rfl
@[simp] theorem State.cand_modTly (f : Tally → Tally) (j : Nat) : (s.modTly f).cand j = s.cand j := rfl
@[simp] theorem State.cand_modPcie (f : Pcie → Pcie) (j : Nat) : (s.modPcie f).cand j = s.cand j := rfl
@[simp] theorem State.cand_modPwr (f : Pwr → Pwr) (j : Nat) : (s.modPwr f).cand j = s.cand j := rfl
@[simp] theorem State.cand_modJtag (f : Jtag → Jtag) (j : Nat) : (s.modJtag f).cand j = s.cand j := rfl
@[simp] theorem State.cand_modTst (f : Test → Test) (j : Nat) : (s.modTst f).cand j = s.cand j := rfl
@[simp] theorem State.cand_answer (d : BitVec 64) (st : Status) (j : Nat) : (s.answer d st).cand j = s.cand j := rfl
@[simp] theorem State.cand_send (l : List Output) (j : Nat) : (s.send l).cand j = s.cand j := rfl

@[simp] theorem State.nbr_modNbr_same (k : Nat) (f : Nbr → Nbr) : (s.modNbr k f).nbr k = f (s.nbr k) := smGet_smMod_same _ _ k f
theorem State.nbr_modNbr_other {k j : Nat} (f : Nbr → Nbr) (h : j ≠ k) : (s.modNbr k f).nbr j = s.nbr j := smGet_smMod_other _ _ f h
@[simp] theorem State.nbr_setReg (a : Nat) (v : Word) (j : Nat) : (s.setReg a v).nbr j = s.nbr j := rfl
@[simp] theorem State.nbr_modLane (k : Nat) (f : Lane → Lane) (j : Nat) : (s.modLane k f).nbr j = s.nbr j := rfl
@[simp] theorem State.nbr_modPort (k : Nat) (f : PortSt → PortSt) (j : Nat) : (s.modPort k f).nbr j = s.nbr j := rfl
@[simp] theorem State.nbr_modRx (k : Nat) (f : SkRx → SkRx) (j : Nat) : (s.modRx k f).nbr j = s.nbr j := rfl
@[simp] theorem State.nbr_modTx (k : Nat) (f : SkTx → SkTx) (j : Nat) : (s.modTx k f).nbr j = s.nbr j := rfl
@[simp] theorem State.nbr_modInteg (k : Nat) (f : Integ → Integ) (j : Nat) : (s.modInteg k f).nbr j = s.nbr j := rfl
@[simp] theorem State.nbr_modGrp (k : Nat) (f : Grp → Grp) (j : Nat) : (s.modGrp k f).nbr j = s.nbr j := rfl
@[simp] theorem State.nbr_modUnit (k : Nat) (f : BlzUnit → BlzUnit) (j : Nat) : (s.modUnit k f).nbr j = s.nbr j := rfl
@[simp] theorem State.nbr_modCand (k : Nat) (f : Cand → Cand) (j : Nat) : (s.modCand k f).nbr j = s.nbr j := rfl
@[simp] theorem State.nbr_modWeaver (k : Nat) (f : Weaver → Weaver) (j : Nat) : (s.modWeaver k f).nbr j = s.nbr j := rfl
@[simp] theorem State.nbr_modTrd (f : Engine → Engine) (j : Nat) : (s.modTrd f).nbr j = s.nbr j := rfl
@[simp] theorem State.nbr_modFe (f : Engine → Engine) (j : Nat) : (s.modFe f).nbr j = s.nbr j := rfl
@[simp] theorem State.nbr_modLoom (f : Loom → Loom) (j : Nat) : (s.modLoom f).nbr j = s.nbr j := rfl
@[simp] theorem State.nbr_modFine (f : Fine → Fine) (j : Nat) : (s.modFine f).nbr j = s.nbr j := rfl
@[simp] theorem State.nbr_modProt (f : Prot → Prot) (j : Nat) : (s.modProt f).nbr j = s.nbr j := rfl
@[simp] theorem State.nbr_modBeat (f : Beat → Beat) (j : Nat) : (s.modBeat f).nbr j = s.nbr j := rfl
@[simp] theorem State.nbr_modTen (f : Ten → Ten) (j : Nat) : (s.modTen f).nbr j = s.nbr j := rfl
@[simp] theorem State.nbr_modFmn (f : Fmn → Fmn) (j : Nat) : (s.modFmn f).nbr j = s.nbr j := rfl
@[simp] theorem State.nbr_modMbx (f : Mbx → Mbx) (j : Nat) : (s.modMbx f).nbr j = s.nbr j := rfl
@[simp] theorem State.nbr_modBank (f : Banks → Banks) (j : Nat) : (s.modBank f).nbr j = s.nbr j := rfl
@[simp] theorem State.nbr_modSkid (f : Skid → Skid) (j : Nat) : (s.modSkid f).nbr j = s.nbr j := rfl
@[simp] theorem State.nbr_modTly (f : Tally → Tally) (j : Nat) : (s.modTly f).nbr j = s.nbr j := rfl
@[simp] theorem State.nbr_modPcie (f : Pcie → Pcie) (j : Nat) : (s.modPcie f).nbr j = s.nbr j := rfl
@[simp] theorem State.nbr_modPwr (f : Pwr → Pwr) (j : Nat) : (s.modPwr f).nbr j = s.nbr j := rfl
@[simp] theorem State.nbr_modJtag (f : Jtag → Jtag) (j : Nat) : (s.modJtag f).nbr j = s.nbr j := rfl
@[simp] theorem State.nbr_modTst (f : Test → Test) (j : Nat) : (s.modTst f).nbr j = s.nbr j := rfl
@[simp] theorem State.nbr_answer (d : BitVec 64) (st : Status) (j : Nat) : (s.answer d st).nbr j = s.nbr j := rfl
@[simp] theorem State.nbr_send (l : List Output) (j : Nat) : (s.send l).nbr j = s.nbr j := rfl

@[simp] theorem State.weaver_modWeaver_same (k : Nat) (f : Weaver → Weaver) : (s.modWeaver k f).weaver k = f (s.weaver k) := smGet_smMod_same _ _ k f
theorem State.weaver_modWeaver_other {k j : Nat} (f : Weaver → Weaver) (h : j ≠ k) : (s.modWeaver k f).weaver j = s.weaver j := smGet_smMod_other _ _ f h
@[simp] theorem State.weaver_setReg (a : Nat) (v : Word) (j : Nat) : (s.setReg a v).weaver j = s.weaver j := rfl
@[simp] theorem State.weaver_modLane (k : Nat) (f : Lane → Lane) (j : Nat) : (s.modLane k f).weaver j = s.weaver j := rfl
@[simp] theorem State.weaver_modPort (k : Nat) (f : PortSt → PortSt) (j : Nat) : (s.modPort k f).weaver j = s.weaver j := rfl
@[simp] theorem State.weaver_modRx (k : Nat) (f : SkRx → SkRx) (j : Nat) : (s.modRx k f).weaver j = s.weaver j := rfl
@[simp] theorem State.weaver_modTx (k : Nat) (f : SkTx → SkTx) (j : Nat) : (s.modTx k f).weaver j = s.weaver j := rfl
@[simp] theorem State.weaver_modInteg (k : Nat) (f : Integ → Integ) (j : Nat) : (s.modInteg k f).weaver j = s.weaver j := rfl
@[simp] theorem State.weaver_modGrp (k : Nat) (f : Grp → Grp) (j : Nat) : (s.modGrp k f).weaver j = s.weaver j := rfl
@[simp] theorem State.weaver_modUnit (k : Nat) (f : BlzUnit → BlzUnit) (j : Nat) : (s.modUnit k f).weaver j = s.weaver j := rfl
@[simp] theorem State.weaver_modCand (k : Nat) (f : Cand → Cand) (j : Nat) : (s.modCand k f).weaver j = s.weaver j := rfl
@[simp] theorem State.weaver_modNbr (k : Nat) (f : Nbr → Nbr) (j : Nat) : (s.modNbr k f).weaver j = s.weaver j := rfl
@[simp] theorem State.weaver_modTrd (f : Engine → Engine) (j : Nat) : (s.modTrd f).weaver j = s.weaver j := rfl
@[simp] theorem State.weaver_modFe (f : Engine → Engine) (j : Nat) : (s.modFe f).weaver j = s.weaver j := rfl
@[simp] theorem State.weaver_modLoom (f : Loom → Loom) (j : Nat) : (s.modLoom f).weaver j = s.weaver j := rfl
@[simp] theorem State.weaver_modFine (f : Fine → Fine) (j : Nat) : (s.modFine f).weaver j = s.weaver j := rfl
@[simp] theorem State.weaver_modProt (f : Prot → Prot) (j : Nat) : (s.modProt f).weaver j = s.weaver j := rfl
@[simp] theorem State.weaver_modBeat (f : Beat → Beat) (j : Nat) : (s.modBeat f).weaver j = s.weaver j := rfl
@[simp] theorem State.weaver_modBmy (f : Bamry → Bamry) (j : Nat) : (s.modBmy f).weaver j = s.weaver j := rfl
@[simp] theorem State.weaver_modTen (f : Ten → Ten) (j : Nat) : (s.modTen f).weaver j = s.weaver j := rfl
@[simp] theorem State.weaver_modFmn (f : Fmn → Fmn) (j : Nat) : (s.modFmn f).weaver j = s.weaver j := rfl
@[simp] theorem State.weaver_modMbx (f : Mbx → Mbx) (j : Nat) : (s.modMbx f).weaver j = s.weaver j := rfl
@[simp] theorem State.weaver_modBank (f : Banks → Banks) (j : Nat) : (s.modBank f).weaver j = s.weaver j := rfl
@[simp] theorem State.weaver_modSkid (f : Skid → Skid) (j : Nat) : (s.modSkid f).weaver j = s.weaver j := rfl
@[simp] theorem State.weaver_modTly (f : Tally → Tally) (j : Nat) : (s.modTly f).weaver j = s.weaver j := rfl
@[simp] theorem State.weaver_modPcie (f : Pcie → Pcie) (j : Nat) : (s.modPcie f).weaver j = s.weaver j := rfl
@[simp] theorem State.weaver_modPwr (f : Pwr → Pwr) (j : Nat) : (s.modPwr f).weaver j = s.weaver j := rfl
@[simp] theorem State.weaver_modJtag (f : Jtag → Jtag) (j : Nat) : (s.modJtag f).weaver j = s.weaver j := rfl
@[simp] theorem State.weaver_modTst (f : Test → Test) (j : Nat) : (s.modTst f).weaver j = s.weaver j := rfl
@[simp] theorem State.weaver_answer (d : BitVec 64) (st : Status) (j : Nat) : (s.answer d st).weaver j = s.weaver j := rfl
@[simp] theorem State.weaver_send (l : List Output) (j : Nat) : (s.send l).weaver j = s.weaver j := rfl

end Sys2Proof.Machine
end

