-- ==== Sys2Proof/Laws/Inv.lean ====
section
/-! SUPPORT. What every operation keeps. A property of states is `Closed` under a part of the state when changing that part, in the
ways the model changes it, keeps the property; each operation keeps every property closed under the parts it may change. One lemma
per operation, in the files Inv… named after the file that holds it. -/
namespace Sys2Proof.Machine

set_option linter.all false

variable {R : State → Prop} {s : State}

/-- Changing this part keeps `R`. Registers change one at a time or are dropped to their reset values; byte memories change by
writes and by dropping bytes. -/
def Closed (R : State → Prop) : Part → Prop
  | .pending => ∀ s v, R s → R { s with pending := v }
  | .regs => (∀ s a v, R s → R (s.setReg a v)) ∧ ∀ s p, R s → R { s with regs := smKeep p s.regs }
  | .lanes => ∀ s v, R s → R { s with lanes := v }
  | .integ => ∀ s v, R s → R { s with integ := v }
  | .skrx => ∀ s v, R s → R { s with skrx := v }
  | .sktx => ∀ s v, R s → R { s with sktx := v }
  | .ports => ∀ s v, R s → R { s with ports := v }
  | .loom => ∀ s v, R s → R { s with loom := v }
  | .trd => ∀ s v, R s → R { s with trd := v }
  | .fine => ∀ s v, R s → R { s with fine := v }
  | .prot => ∀ s v, R s → R { s with prot := v }
  | .blz => ∀ s v, R s → R { s with blz := v }
  | .beat => ∀ s v, R s → R { s with beat := v }
  | .bmy => ∀ s v, R s → R { s with bmy := v }
  | .wvr => ∀ s v, R s → R { s with wvr := v }
  | .ten => ∀ s v, R s → R { s with ten := v }
  | .fmn => ∀ s v, R s → R { s with fmn := v }
  | .mbx => ∀ s v, v.mem = s.mbx.mem → v.slot0 = s.mbx.slot0 → v.slot1 = s.mbx.slot1 → R s → R { s with mbx := v }
  | .mbxMem => (∀ s a bs, R s → R { s with mbx := { s.mbx with mem := Memory.writeN s.mbx.mem a bs } })
      ∧ (∀ s p, R s → R { s with mbx := { s.mbx with mem := smKeep p s.mbx.mem } })
      ∧ (∀ s a bs, R s → R { s with mbx := { s.mbx with slot0 := Memory.writeN s.mbx.slot0 a bs } })
      ∧ ∀ s a bs, R s → R { s with mbx := { s.mbx with slot1 := Memory.writeN s.mbx.slot1 a bs } }
  | .bank => ∀ s v, v.mem = s.bank.mem → R s → R { s with bank := v }
  | .bankMem => (∀ s a bs, R s → R { s with bank := { s.bank with mem := Memory.writeN s.bank.mem a bs } })
      ∧ ∀ s p, R s → R { s with bank := { s.bank with mem := smKeep p s.bank.mem } }
  | .skid => ∀ s v, R s → R { s with skid := v }
  | .tly => ∀ s v, R s → R { s with tly := v }
  | .pcie => ∀ s v, R s → R { s with pcie := v }
  | .pwr => ∀ s v, R s → R { s with pwr := v }
  | .jtag => ∀ s v, R s → R { s with jtag := v }
  | .tst => ∀ s v, R s → R { s with tst := v }
  | .out => ∀ s v, R s → R { s with out := v }
  | .resp => ∀ s v, R s → R { s with resp := v }
  | .free => ∀ s v, R s → R { s with free := v }

theorem sub_inv {A B : List Part} (h : ∀ p ∈ A, p ∈ B) (k : ∀ p ∈ B, Closed R p) : ∀ p ∈ A, Closed R p :=
  fun p hp => k p (h p hp)

/-- Every next state that an outcome answers has `R`. -/
@[irreducible] def OutInv (R : State → Prop) (o : Out) : Prop := ∀ t, o = .next t → R t

theorem outInv_iff {o : Out} : OutInv R o ↔ ∀ t, o = .next t → R t := by unfold OutInv; rfl
theorem outInv_next (h : R s) : OutInv R (.next s) := outInv_iff.mpr fun t ht => by injection ht with ht; exact ht ▸ h
theorem outInv_fault (f : Fault) : OutInv R (.fault f) := outInv_iff.mpr fun _ ht => nomatch ht
theorem outInv_ite {a b : Out} {c : Prop} [Decidable c] (ha : OutInv R a) (hb : OutInv R b) : OutInv R (if c then a else b) := by
  split <;> assumption
theorem inv_ite {a b : State} {c : Prop} [Decidable c] (ha : R a) (hb : R b) : R (if c then a else b) := by
  split <;> assumption
theorem inv_ite_fst {β : Type} {a b : State × β} {c : Prop} [Decidable c] (ha : R a.1) (hb : R b.1) :
    R (if c then a else b).1 := by split <;> assumption

theorem State.setReg_inv (a : Nat) (v : Word) (hc : ∀ p ∈ [Part.regs], Closed R p) (h : R s) : R (s.setReg a v) :=
  (hc .regs (by decide)).1 s a v h
theorem inv_dropRegs (p : Nat → Bool) (hc : ∀ p ∈ [Part.regs], Closed R p) (h : R s) : R { s with regs := smKeep p s.regs } :=
  (hc .regs (by decide)).2 s p h

theorem seqAll_inv {α : Type} (f : α → State → State) (l : List α) (h : R s) (hf : ∀ x s, R s → R (f x s)) :
    R (seqAll f l s) := by
  induction l generalizing s with
  | nil => exact h
  | cons x t ih => exact ih (hf x s h)

/-- A fold that carries a state. -/
theorem foldl_inv {α β : Type} (f : State × β → α → State × β) (l : List α) (a : State × β)
    (h : R a.1) (hf : ∀ x y, R x.1 → R (f x y).1) : R (l.foldl f a).1 := by
  induction l generalizing a with
  | nil => exact h
  | cons x t ih => exact ih (f a x) (hf a x h)

theorem State.when_inv (c : Bool) (f : State → State) (h : R s) (hf : ∀ s, R s → R (f s)) : R (s.when c f) := by
  unfold State.when
  split
  · exact hf s h
  · exact h

/-! ### Updates of one block -/

theorem State.modLane_inv (k : Nat) (f : Lane → Lane) (hc : ∀ p ∈ [Part.lanes], Closed R p) (h : R s) : R (s.modLane k f) :=
  hc .lanes (by decide) s _ h
theorem State.modPort_inv (k : Nat) (f : PortSt → PortSt) (hc : ∀ p ∈ [Part.ports], Closed R p) (h : R s) : R (s.modPort k f) :=
  hc .ports (by decide) s _ h
theorem State.modRx_inv (k : Nat) (f : SkRx → SkRx) (hc : ∀ p ∈ [Part.skrx], Closed R p) (h : R s) : R (s.modRx k f) :=
  hc .skrx (by decide) s _ h
theorem State.modTx_inv (k : Nat) (f : SkTx → SkTx) (hc : ∀ p ∈ [Part.sktx], Closed R p) (h : R s) : R (s.modTx k f) :=
  hc .sktx (by decide) s _ h
theorem State.modInteg_inv (k : Nat) (f : Integ → Integ) (hc : ∀ p ∈ [Part.integ], Closed R p) (h : R s) : R (s.modInteg k f) :=
  hc .integ (by decide) s _ h
theorem State.modGrp_inv (k : Nat) (f : Grp → Grp) (hc : ∀ p ∈ [Part.prot], Closed R p) (h : R s) : R (s.modGrp k f) :=
  hc .prot (by decide) s _ h
theorem State.modUnit_inv (k : Nat) (f : BlzUnit → BlzUnit) (hc : ∀ p ∈ [Part.blz], Closed R p) (h : R s) : R (s.modUnit k f) :=
  hc .blz (by decide) s _ h
theorem State.modCand_inv (k : Nat) (f : Cand → Cand) (hc : ∀ p ∈ [Part.beat], Closed R p) (h : R s) : R (s.modCand k f) :=
  hc .beat (by decide) s _ h
theorem State.modNbr_inv (k : Nat) (f : Nbr → Nbr) (hc : ∀ p ∈ [Part.bmy], Closed R p) (h : R s) : R (s.modNbr k f) :=
  hc .bmy (by decide) s _ h
theorem State.modWeaver_inv (k : Nat) (f : Weaver → Weaver) (hc : ∀ p ∈ [Part.wvr], Closed R p) (h : R s) : R (s.modWeaver k f) :=
  hc .wvr (by decide) s _ h
theorem State.modTrd_inv (f : Engine → Engine) (hc : ∀ p ∈ [Part.trd], Closed R p) (h : R s) : R (s.modTrd f) :=
  hc .trd (by decide) s _ h
theorem State.modFe_inv (f : Engine → Engine) (hc : ∀ p ∈ [Part.fine], Closed R p) (h : R s) : R (s.modFe f) :=
  hc .fine (by decide) s _ h
theorem State.modLoom_inv (f : Loom → Loom) (hc : ∀ p ∈ [Part.loom], Closed R p) (h : R s) : R (s.modLoom f) :=
  hc .loom (by decide) s _ h
theorem State.modFine_inv (f : Fine → Fine) (hc : ∀ p ∈ [Part.fine], Closed R p) (h : R s) : R (s.modFine f) :=
  hc .fine (by decide) s _ h
theorem State.modProt_inv (f : Prot → Prot) (hc : ∀ p ∈ [Part.prot], Closed R p) (h : R s) : R (s.modProt f) :=
  hc .prot (by decide) s _ h
theorem State.modBeat_inv (f : Beat → Beat) (hc : ∀ p ∈ [Part.beat], Closed R p) (h : R s) : R (s.modBeat f) :=
  hc .beat (by decide) s _ h
theorem State.modBmy_inv (f : Bamry → Bamry) (hc : ∀ p ∈ [Part.bmy], Closed R p) (h : R s) : R (s.modBmy f) :=
  hc .bmy (by decide) s _ h
theorem State.modTen_inv (f : Ten → Ten) (hc : ∀ p ∈ [Part.ten], Closed R p) (h : R s) : R (s.modTen f) :=
  hc .ten (by decide) s _ h
theorem State.modFmn_inv (f : Fmn → Fmn) (hc : ∀ p ∈ [Part.fmn], Closed R p) (h : R s) : R (s.modFmn f) :=
  hc .fmn (by decide) s _ h
theorem State.modSkid_inv (f : Skid → Skid) (hc : ∀ p ∈ [Part.skid], Closed R p) (h : R s) : R (s.modSkid f) :=
  hc .skid (by decide) s _ h
theorem State.modTly_inv (f : Tally → Tally) (hc : ∀ p ∈ [Part.tly], Closed R p) (h : R s) : R (s.modTly f) :=
  hc .tly (by decide) s _ h
theorem State.modPcie_inv (f : Pcie → Pcie) (hc : ∀ p ∈ [Part.pcie], Closed R p) (h : R s) : R (s.modPcie f) :=
  hc .pcie (by decide) s _ h
theorem State.modPwr_inv (f : Pwr → Pwr) (hc : ∀ p ∈ [Part.pwr], Closed R p) (h : R s) : R (s.modPwr f) :=
  hc .pwr (by decide) s _ h
theorem State.modJtag_inv (f : Jtag → Jtag) (hc : ∀ p ∈ [Part.jtag], Closed R p) (h : R s) : R (s.modJtag f) :=
  hc .jtag (by decide) s _ h
theorem State.modTst_inv (f : Test → Test) (hc : ∀ p ∈ [Part.tst], Closed R p) (h : R s) : R (s.modTst f) :=
  hc .tst (by decide) s _ h
theorem State.modBank_inv (f : Banks → Banks) (hc : ∀ p ∈ [Part.bank], Closed R p) (h : R s) (hf : (f s.bank).mem = s.bank.mem) :
    R (s.modBank f) := hc .bank (by decide) s _ hf h
theorem State.modMbx_inv (f : Mbx → Mbx) (hc : ∀ p ∈ [Part.mbx], Closed R p) (h : R s)
    (hf : (f s.mbx).mem = s.mbx.mem ∧ (f s.mbx).slot0 = s.mbx.slot0 ∧ (f s.mbx).slot1 = s.mbx.slot1) : R (s.modMbx f) :=
  hc .mbx (by decide) s _ hf.1 hf.2.1 hf.2.2 h
theorem State.emit_inv (o : Output) (hc : ∀ p ∈ [Part.out], Closed R p) (h : R s) : R (s.emit o) := by
  unfold State.emit
  split
  · exact h
  · exact hc .out (by decide) s _ h
theorem State.send_inv (l : List Output) (hc : ∀ p ∈ [Part.out], Closed R p) (h : R s) : R (s.send l) :=
  hc .out (by decide) s _ h
theorem State.answer_inv (d : BitVec 64) (st : Status) (q : Bool) (hc : ∀ p ∈ [Part.resp], Closed R p) (h : R s) : R (s.answer d st q) :=
  hc .resp (by decide) s _ h
theorem State.freeVal_inv (hc : ∀ p ∈ [Part.free], Closed R p) (h : R s) : R s.freeVal.2 := hc .free (by decide) s _ h

/-- The banks change, their bytes by a write. -/
theorem inv_bankWrite (v : Banks) (a : Nat) (bs : List Byte) (hv : v.mem = Memory.writeN s.bank.mem a bs)
    (hc : ∀ p ∈ [Part.bank, .bankMem], Closed R p) (h : R s) : R { s with bank := v } :=
  hc .bank (by decide) { s with bank := { s.bank with mem := Memory.writeN s.bank.mem a bs } } v hv
    ((hc .bankMem (by decide)).1 s a bs h)
/-- The banks change, their bytes by dropping some. -/
theorem inv_bankKeep (v : Banks) (p : Nat → Bool) (hv : v.mem = smKeep p s.bank.mem)
    (hc : ∀ p ∈ [Part.bank, .bankMem], Closed R p) (h : R s) : R { s with bank := v } :=
  hc .bank (by decide) { s with bank := { s.bank with mem := smKeep p s.bank.mem } } v hv
    ((hc .bankMem (by decide)).2 s p h)
/-- The mailbox changes, its ring memory by dropping bytes. -/
theorem inv_mbxKeep (v : Mbx) (p : Nat → Bool) (hv : v.mem = smKeep p s.mbx.mem) (h0 : v.slot0 = s.mbx.slot0) (h1 : v.slot1 = s.mbx.slot1)
    (hc : ∀ p ∈ [Part.mbx, .mbxMem], Closed R p) (h : R s) : R { s with mbx := v } :=
  hc .mbx (by decide) { s with mbx := { s.mbx with mem := smKeep p s.mbx.mem } } v hv h0 h1
    ((hc .mbxMem (by decide)).2.1 s p h)
/-- All registers return to their reset values. -/
theorem inv_clearRegs (hc : ∀ p ∈ [Part.regs], Closed R p) (h : R s) : R { s with regs := [] } := by
  have e : smKeep (fun _ => false) s.regs = [] := by simp [smKeep]
  rw [← e]
  exact inv_dropRegs _ hc h
theorem State.putBytes_inv (a : Nat) (bs : List Byte) (hc : ∀ p ∈ [Part.bank, .bankMem], Closed R p) (h : R s) : R (s.putBytes a bs) :=
  inv_bankWrite _ a bs rfl hc h

end Sys2Proof.Machine
end

