-- ==== Sys2Proof/Laws/InvOps.lean ====
section
/-! SUPPORT. What the operations of Machine/Ops.lean keep. -/
namespace Sys2Proof.Machine

variable {R : State → Prop} {s : State}

theorem State.setRf_inv (a : Nat) (lo : Nat) (n : Nat) (v : Nat) (hc : ∀ p ∈ [Part.regs], Closed R p) (h : R s) :
    R (s.setRf a lo n v) := by
  unfold State.setRf
  try dsimp only
  repeat' (first | exact sub_inv (by decide) hc | (intro _; try dsimp only) | with_reducible assumption | with_reducible apply inv_ite | with_reducible apply State.setReg_inv | split)
  all_goals first | rfl | exact ⟨rfl, rfl, rfl⟩ | assumption

theorem State.incReg_inv (a : Nat) (k : Nat) (hc : ∀ p ∈ [Part.regs], Closed R p) (h : R s) :
    R (s.incReg a k) := by
  unfold State.incReg
  try dsimp only
  repeat' (first | exact sub_inv (by decide) hc | (intro _; try dsimp only) | with_reducible assumption | with_reducible apply inv_ite | with_reducible apply State.setReg_inv | split)
  all_goals first | rfl | exact ⟨rfl, rfl, rfl⟩ | assumption

theorem State.satReg_inv (a : Nat) (k : Nat) (hc : ∀ p ∈ [Part.regs], Closed R p) (h : R s) :
    R (s.satReg a k) := by
  unfold State.satReg
  try dsimp only
  repeat' (first | exact sub_inv (by decide) hc | (intro _; try dsimp only) | with_reducible assumption | with_reducible apply inv_ite | with_reducible apply State.setReg_inv | split)
  all_goals first | rfl | exact ⟨rfl, rfl, rfl⟩ | assumption

theorem State.errlog_inv (page : Nat) (off : Nat) (m : Mid) (hc : ∀ p ∈ [Part.regs], Closed R p) (h : R s) :
    R (s.errlog page off m) := by
  unfold State.errlog
  try dsimp only
  repeat' (first | exact sub_inv (by decide) hc | (intro _; try dsimp only) | with_reducible assumption | with_reducible apply inv_ite | with_reducible apply State.setReg_inv | split)
  all_goals first | rfl | exact ⟨rfl, rfl, rfl⟩ | assumption

theorem State.noteTen_inv (e : TenEvent) (once : Bool) (hc : ∀ p ∈ [Part.ten], Closed R p) (h : R s) :
    R (s.noteTen e once) := by
  unfold State.noteTen
  try dsimp only
  repeat' (first | exact sub_inv (by decide) hc | (intro _; try dsimp only) | with_reducible assumption | with_reducible apply inv_ite | with_reducible apply State.modTen_inv | split)
  all_goals first | rfl | exact ⟨rfl, rfl, rfl⟩ | assumption

end Sys2Proof.Machine
end

