-- ==== Sys2Proof/Laws/InvFlags.lean ====
section
/-! SUPPORT. What the operations of Machine/Flags.lean keep. -/
namespace Sys2Proof.Machine

variable {R : State → Prop} {s : State}

theorem State.raiseVec_inv (v : Nat) (hc : ∀ p ∈ [Part.pcie, .out], Closed R p) (h : R s) :
    R (s.raiseVec v) := by
  unfold State.raiseVec
  try dsimp only
  repeat' (first | exact sub_inv (by decide) hc | (intro _; try dsimp only) | with_reducible assumption | with_reducible apply inv_ite | with_reducible apply State.emit_inv | with_reducible apply State.modPcie_inv | split)
  all_goals first | rfl | exact ⟨rfl, rfl, rfl⟩ | assumption

theorem State.drainPba_inv (hc : ∀ p ∈ [Part.pcie, .out], Closed R p) (h : R s) :
    R (s.drainPba) := by
  unfold State.drainPba
  try dsimp only
  repeat' (first | exact sub_inv (by decide) hc | (intro _; try dsimp only) | with_reducible assumption | with_reducible apply inv_ite | with_reducible apply seqAll_inv | with_reducible apply State.modPcie_inv | with_reducible apply State.emit_inv | split)
  all_goals first | rfl | exact ⟨rfl, rfl, rfl⟩ | assumption

theorem State.settle_inv (hc : ∀ p ∈ [Part.pcie, .out], Closed R p) (h : R s) :
    R (s.settle) := by
  unfold State.settle
  try dsimp only
  repeat' (first | exact sub_inv (by decide) hc | (intro _; try dsimp only) | with_reducible assumption | with_reducible apply inv_ite | with_reducible apply State.modPcie_inv | with_reducible apply seqAll_inv | with_reducible apply State.raiseVec_inv | with_reducible apply State.emit_inv | split)
  all_goals first | rfl | exact ⟨rfl, rfl, rfl⟩ | assumption

theorem State.irq_inv (p1 : Nat) (bits : Nat) (hc : ∀ p ∈ [Part.regs, .pcie, .out], Closed R p) (h : R s) :
    R (s.irq p1 bits) := by
  unfold State.irq
  try dsimp only
  repeat' (first | exact sub_inv (by decide) hc | (intro _; try dsimp only) | with_reducible assumption | with_reducible apply inv_ite | with_reducible apply State.settle_inv | with_reducible apply State.setReg_inv | split)
  all_goals first | rfl | exact ⟨rfl, rfl, rfl⟩ | assumption

theorem State.hostWrite_inv (addr : Nat) (bs : List Byte) (hc : ∀ p ∈ [Part.regs, .pcie, .out], Closed R p) (h : R s) :
    R (s.hostWrite addr bs) := by
  unfold State.hostWrite
  try dsimp only
  repeat' (first | exact sub_inv (by decide) hc | (intro _; try dsimp only) | with_reducible assumption | with_reducible apply inv_ite | with_reducible apply State.modPcie_inv | with_reducible apply State.emit_inv | with_reducible apply State.irq_inv | with_reducible apply State.incReg_inv | split)
  all_goals first | rfl | exact ⟨rfl, rfl, rfl⟩ | assumption

end Sys2Proof.Machine
end

