-- ==== Sys2Proof/Laws/InvShed.lean ====
section
/-! SUPPORT. What the operations of Machine/Shed.lean keep. -/
namespace Sys2Proof.Machine

variable {R : State → Prop} {s : State}

theorem State.abandon_inv (b : Bool) (hc : ∀ p ∈ [Part.tst], Closed R p) (h : R s) :
    R (s.abandon b) := by
  unfold State.abandon
  try dsimp only
  repeat' (first | exact sub_inv (by decide) hc | (intro _; try dsimp only) | with_reducible assumption | with_reducible apply inv_ite | with_reducible apply State.modTst_inv | split)
  all_goals first | rfl | exact ⟨rfl, rfl, rfl⟩ | assumption

theorem State.decErr_inv (port : Nat) (id : Nat) (a : Nat) (wr : Bool) (k : DecKind) (hc : ∀ p ∈ [Part.regs, .pcie, .out], Closed R p) (h : R s) :
    R (s.decErr port id a wr k) := by
  unfold State.decErr
  try dsimp only
  repeat' (first | exact sub_inv (by decide) hc | (intro _; try dsimp only) | with_reducible assumption | with_reducible apply inv_ite | with_reducible apply State.irq_inv | with_reducible apply State.setReg_inv | with_reducible apply State.incReg_inv | split)
  all_goals first | rfl | exact ⟨rfl, rfl, rfl⟩ | assumption

theorem State.fenceDrop_inv (m : Mid) (a : Nat) (hc : ∀ p ∈ [Part.regs, .pcie, .out], Closed R p) (h : R s) :
    R (s.fenceDrop m a) := by
  unfold State.fenceDrop
  try dsimp only
  repeat' (first | exact sub_inv (by decide) hc | (intro _; try dsimp only) | with_reducible assumption | with_reducible apply inv_ite | with_reducible apply State.irq_inv | with_reducible apply State.setReg_inv | with_reducible apply State.incReg_inv | split)
  all_goals first | rfl | exact ⟨rfl, rfl, rfl⟩ | assumption

theorem State.decAns_inv (m : Mid) (a : Nat) (wr : Bool) (k : DecKind) (hc : ∀ p ∈ [Part.regs, .pcie, .out, .resp], Closed R p) (h : R s) :
    R (s.decAns m a wr k) := by
  unfold State.decAns
  try dsimp only
  repeat' (first | exact sub_inv (by decide) hc | (intro _; try dsimp only) | with_reducible assumption | with_reducible apply inv_ite | with_reducible apply State.answer_inv | with_reducible apply State.decErr_inv | split)
  all_goals first | rfl | exact ⟨rfl, rfl, rfl⟩ | assumption

theorem State.queue_inv (e : ShedReq) (hc : ∀ p ∈ [Part.tst], Closed R p) (h : R s) :
    R (s.queue e) := by
  unfold State.queue
  try dsimp only
  repeat' (first | exact sub_inv (by decide) hc | (intro _; try dsimp only) | with_reducible assumption | with_reducible apply inv_ite | with_reducible apply State.modTst_inv | split)
  all_goals first | rfl | exact ⟨rfl, rfl, rfl⟩ | assumption

theorem State.refuse_inv (m : Mid) (a : Nat) (size : Nat) (wr : Bool) (v : BitVec 64) (clash : Bool) (a1 : Gate) (hc : ∀ p ∈ [Part.regs, .pcie, .tst, .out, .resp], Closed R p) (h : R s) :
    R (s.refuse m a size wr v clash a1) := by
  unfold State.refuse
  try dsimp only
  repeat' (first | exact sub_inv (by decide) hc | (intro _; try dsimp only) | with_reducible assumption | with_reducible apply inv_ite | with_reducible apply State.answer_inv | with_reducible apply State.fenceDrop_inv | with_reducible apply State.decAns_inv | with_reducible apply State.queue_inv | split)
  all_goals first | rfl | exact ⟨rfl, rfl, rfl⟩ | assumption

theorem State.access_inv (m : Mid) (a : Nat) (size : Nat) (wr : Bool) (f : State → State) (v : BitVec 64) (clash : Bool) (hc : ∀ p ∈ [Part.regs, .pcie, .tst, .out, .resp], Closed R p) (h : R s) (hf : ∀ y0, R y0 → R (f y0)) :
    R (s.access m a size wr f v clash) := by
  unfold State.access
  try dsimp only
  repeat' (first | exact sub_inv (by decide) hc | (intro _; try dsimp only) | with_reducible assumption | with_reducible apply inv_ite | with_reducible apply hf | with_reducible apply State.refuse_inv | split)
  all_goals first | rfl | exact ⟨rfl, rfl, rfl⟩ | assumption

theorem State.beatStatus_inv (st : Status) (hc : ∀ p ∈ [Part.resp], Closed R p) (h : R s) : R (s.beatStatus st) :=
  inv_ite h (hc .resp (by decide) s _ h)

theorem State.moreData_inv (r : Resp) (hc : ∀ p ∈ [Part.resp], Closed R p) (h : R s) : R (s.moreData r) := hc .resp (by decide) s _ h

theorem State.burst_inv (q : ShedReq) (f : Nat → State → State) (hc : ∀ p ∈ [Part.regs, .pcie, .tst, .out, .resp], Closed R p) (h : R s) (hf : ∀ y0 y1, R y1 → R (f y0 y1)) :
    R (s.burst q f) := by
  unfold State.burst
  try dsimp only
  repeat' (first | exact sub_inv (by decide) hc | (intro _; try dsimp only) | with_reducible assumption | with_reducible apply inv_ite | with_reducible apply hf | with_reducible apply State.queue_inv | with_reducible apply seqAll_inv | with_reducible apply State.beatStatus_inv | with_reducible apply State.answer_inv | with_reducible apply State.refuse_inv | with_reducible apply State.decAns_inv | split)
  all_goals first | rfl | exact ⟨rfl, rfl, rfl⟩ | assumption

theorem State.answerRead_inv (m : Mid) (a : Nat) (d : BitVec 64) (st : Status) (hc : ∀ p ∈ [Part.regs, .pcie, .out, .resp], Closed R p) (h : R s) :
    R (s.answerRead m a d st) := by
  unfold State.answerRead
  try dsimp only
  repeat' (first | exact sub_inv (by decide) hc | (intro _; try dsimp only) | with_reducible assumption | with_reducible apply inv_ite | with_reducible apply State.answer_inv | with_reducible apply State.irq_inv | with_reducible apply State.setReg_inv | with_reducible apply State.incReg_inv | split)
  all_goals first | rfl | exact ⟨rfl, rfl, rfl⟩ | assumption

theorem State.guardWrite_inv (m : Mid) (a : Nat) (v : Word) (f : State → State) (hc : ∀ p ∈ [Part.regs, .wvr, .resp], Closed R p) (h : R s) (hf : ∀ y0, R y0 → R (f y0)) :
    R (s.guardWrite m a v f) := by
  unfold State.guardWrite
  try dsimp only
  repeat' (first | exact sub_inv (by decide) hc | (intro _; try dsimp only) | with_reducible assumption | with_reducible apply inv_ite | with_reducible apply hf | with_reducible apply State.answer_inv | with_reducible apply State.setReg_inv | with_reducible apply State.incReg_inv | with_reducible apply State.modWeaver_inv | split)
  all_goals first | rfl | exact ⟨rfl, rfl, rfl⟩ | assumption

theorem State.write4_inv (m : Mid) (a : Nat) (v : Word) (f : State → State) (hc : ∀ p ∈ [Part.regs, .wvr, .pcie, .tst, .out, .resp], Closed R p) (h : R s) (hf : ∀ y0, R y0 → R (f y0)) :
    R (s.write4 m a v f) := by
  unfold State.write4
  try dsimp only
  repeat' (first | exact sub_inv (by decide) hc | (intro _; try dsimp only) | with_reducible assumption | with_reducible apply inv_ite | with_reducible apply hf | with_reducible apply State.refuse_inv | with_reducible apply State.guardWrite_inv | with_reducible apply State.access_inv | with_reducible apply State.answer_inv | split)
  all_goals first | rfl | exact ⟨rfl, rfl, rfl⟩ | assumption

theorem State.endWaits_inv (p1 : Nat) (k : DecKind) (hc : ∀ p ∈ [Part.regs, .pcie, .tst, .out, .resp], Closed R p) (h : R s) :
    R (s.endWaits p1 k) := by
  unfold State.endWaits
  try dsimp only
  repeat' (first | exact sub_inv (by decide) hc | (intro _; try dsimp only) | with_reducible assumption | with_reducible apply inv_ite | with_reducible apply seqAll_inv | with_reducible apply State.send_inv | with_reducible apply State.decAns_inv | with_reducible apply State.modTst_inv | split)
  all_goals first | rfl | exact ⟨rfl, rfl, rfl⟩ | assumption

end Sys2Proof.Machine
end

