-- ==== Sys2Proof/Laws/InvBanks.lean ====
section
/-! SUPPORT. What the operations of Machine/Banks.lean keep. -/
namespace Sys2Proof.Machine

variable {R : State → Prop} {s : State}

theorem State.bankDeny_inv (m : Mid) (off : Nat) (hc : ∀ p ∈ [Part.regs, .pcie, .out], Closed R p) (h : R s) :
    R (s.bankDeny m off) := by
  unfold State.bankDeny
  try dsimp only
  repeat' (first | exact sub_inv (by decide) hc | (intro _; try dsimp only) | with_reducible assumption | with_reducible apply inv_ite | with_reducible apply State.irq_inv | with_reducible apply State.setReg_inv | with_reducible apply State.incReg_inv | split)
  all_goals first | rfl | exact ⟨rfl, rfl, rfl⟩ | assumption

theorem State.storeBytes_inv (off : Nat) (bs : List Byte) (hc : ∀ p ∈ [Part.bank, .bankMem], Closed R p) (h : R s) : R (s.storeBytes off bs) :=
  inv_bankWrite _ off bs rfl hc h

theorem State.bankColl_inv (m : Mid) (off : Nat) (hc : ∀ p ∈ [Part.regs, .pcie, .out, .resp], Closed R p) (h : R s) :
    R (s.bankColl m off) := by
  unfold State.bankColl
  try dsimp only
  repeat' (first | exact sub_inv (by decide) hc | (intro _; try dsimp only) | with_reducible assumption | with_reducible apply inv_ite | with_reducible apply State.answer_inv | with_reducible apply State.irq_inv | with_reducible apply State.setReg_inv | with_reducible apply State.incReg_inv | split)
  all_goals first | rfl | exact ⟨rfl, rfl, rfl⟩ | assumption

theorem State.bankWrite_inv (m : Mid) (off : Nat) (bs : List Byte) (clash : Bool) (hc : ∀ p ∈ [Part.regs, .bank, .bankMem, .pcie, .out, .resp], Closed R p) (h : R s) :
    R (s.bankWrite m off bs clash) := by
  unfold State.bankWrite
  try dsimp only
  repeat' (first | exact sub_inv (by decide) hc | (intro _; try dsimp only) | with_reducible assumption | with_reducible apply inv_ite | with_reducible apply State.answer_inv | with_reducible apply State.incReg_inv | with_reducible apply State.bankDeny_inv | with_reducible apply State.bankColl_inv | with_reducible apply State.storeBytes_inv | split)
  all_goals first | rfl | exact ⟨rfl, rfl, rfl⟩ | assumption

theorem State.bankAlias_inv (m : Mid) (off : Nat) (bs : List Byte) (set : Bool) (clash : Bool) (hc : ∀ p ∈ [Part.regs, .bank, .bankMem, .pcie, .out, .resp], Closed R p) (h : R s) :
    R (s.bankAlias m off bs set clash) := by
  unfold State.bankAlias
  try dsimp only
  repeat' (first | exact sub_inv (by decide) hc | (intro _; try dsimp only) | with_reducible assumption | with_reducible apply inv_ite | with_reducible apply State.answer_inv | with_reducible apply State.incReg_inv | with_reducible apply State.bankDeny_inv | with_reducible apply State.bankColl_inv | with_reducible apply State.storeBytes_inv | split)
  all_goals first | rfl | exact ⟨rfl, rfl, rfl⟩ | assumption

theorem State.eccUnc_inv (off : Nat) (hc : ∀ p ∈ [Part.regs, .pcie, .out], Closed R p) (h : R s) :
    R (s.eccUnc off) := by
  unfold State.eccUnc
  try dsimp only
  repeat' (first | exact sub_inv (by decide) hc | (intro _; try dsimp only) | with_reducible assumption | with_reducible apply inv_ite | with_reducible apply State.irq_inv | with_reducible apply State.setReg_inv | with_reducible apply State.incReg_inv | split)
  all_goals first | rfl | exact ⟨rfl, rfl, rfl⟩ | assumption

theorem State.readWord_inv (off : Nat) (hc : ∀ p ∈ [Part.regs, .bank, .pcie, .out], Closed R p) (h : R s) :
    R (s.readWord off).1 := by
  unfold State.readWord
  try dsimp only
  repeat' (first | exact sub_inv (by decide) hc | (intro _; try dsimp only) | with_reducible assumption | with_reducible apply inv_ite | with_reducible apply State.eccUnc_inv | with_reducible apply State.modBank_inv | with_reducible apply State.incReg_inv | split)
  all_goals first | rfl | exact ⟨rfl, rfl, rfl⟩ | assumption

theorem State.bankRead_inv (m : Mid) (a : Nat) (win : Window) (off : Nat) (size : Nat) (hc : ∀ p ∈ [Part.regs, .bank, .pcie, .out, .resp], Closed R p) (h : R s) :
    R (s.bankRead m a win off size) := by
  unfold State.bankRead
  try dsimp only
  repeat' (first | exact sub_inv (by decide) hc | (intro _; try dsimp only) | with_reducible assumption | with_reducible apply inv_ite | with_reducible apply State.answer_inv | with_reducible apply State.readWord_inv | with_reducible apply State.answerRead_inv | split)
  all_goals first | rfl | exact ⟨rfl, rfl, rfl⟩ | assumption

theorem State.readRun_inv (off : Nat) (n : Nat) (hc : ∀ p ∈ [Part.regs, .bank, .pcie, .out], Closed R p) (h : R s) :
    R (s.readRun off n) := by
  unfold State.readRun
  try dsimp only
  repeat' (first | exact sub_inv (by decide) hc | (intro _; try dsimp only) | with_reducible assumption | with_reducible apply inv_ite | with_reducible apply seqAll_inv | with_reducible apply State.readWord_inv | split)
  all_goals first | rfl | exact ⟨rfl, rfl, rfl⟩ | assumption

theorem State.agentWord_inv (m : Mid) (off : Nat) (bs : List Byte) (exempt : Bool) (hc : ∀ p ∈ [Part.regs, .bank, .bankMem, .pcie, .out], Closed R p) (h : R s) :
    R (s.agentWord m off bs exempt) := by
  unfold State.agentWord
  try dsimp only
  repeat' (first | exact sub_inv (by decide) hc | (intro _; try dsimp only) | with_reducible assumption | with_reducible apply inv_ite | with_reducible apply State.incReg_inv | with_reducible apply State.bankDeny_inv | with_reducible apply State.putBytes_inv | split)
  all_goals first | rfl | exact ⟨rfl, rfl, rfl⟩ | assumption

theorem State.agentWrite_inv (m : Mid) (off : Nat) (bs : List Byte) (exempt : Bool) (hc : ∀ p ∈ [Part.regs, .bank, .bankMem, .pcie, .out], Closed R p) (h : R s) :
    R (s.agentWrite m off bs exempt) := by
  unfold State.agentWrite
  try dsimp only
  repeat' (first | exact sub_inv (by decide) hc | (intro _; try dsimp only) | with_reducible assumption | with_reducible apply inv_ite | with_reducible apply seqAll_inv | with_reducible apply State.agentWord_inv | split)
  all_goals first | rfl | exact ⟨rfl, rfl, rfl⟩ | assumption

theorem execBankWrite_inv (m : Mid) (off : BitVec 23) (size : Nat) (v : BitVec 64) (sameCycle : Bool) (hc : ∀ p ∈ [Part.regs, .bank, .bankMem, .pcie, .tst, .out, .resp], Closed R p) (h : R s) :
    OutInv R (execBankWrite m off size v sameCycle s) := by
  unfold execBankWrite
  try dsimp only
  repeat' (first | exact sub_inv (by decide) hc | with_reducible apply outInv_next | with_reducible exact outInv_fault _ | with_reducible apply outInv_ite | (intro _; try dsimp only) | with_reducible assumption | with_reducible apply inv_ite | with_reducible apply State.access_inv | with_reducible apply State.bankWrite_inv | split)
  all_goals first | rfl | exact ⟨rfl, rfl, rfl⟩ | assumption

theorem State.bankRead1_inv (m : Mid) (off : Nat) (size : Nat) (hc : ∀ p ∈ [Part.regs, .bank, .pcie, .tst, .out, .resp], Closed R p) (h : R s) :
    R (s.bankRead1 m off size) := by
  unfold State.bankRead1
  try dsimp only
  repeat' (first | exact sub_inv (by decide) hc | (intro _; try dsimp only) | with_reducible assumption | with_reducible apply inv_ite | with_reducible apply State.access_inv | with_reducible apply State.bankRead_inv | split)
  all_goals first | rfl | exact ⟨rfl, rfl, rfl⟩ | assumption

theorem State.hostBlocksRead_inv (a n : Nat) (l : List Nat) (bs : List Byte) (r : Resp) (hc : ∀ p ∈ [Part.regs, .bank, .pcie, .tst, .out, .resp], Closed R p) (h : R s) :
    R (State.hostBlocksRead a n l s bs r).1 := by
  induction l generalizing s bs r with
  | nil => exact h
  | cons b l ih => exact ih _ _ (State.bankRead1_inv _ _ _ (sub_inv (by decide) hc) h)

theorem State.setResp_inv (r : Resp) (hc : ∀ p ∈ [Part.resp], Closed R p) (h : R s) : R (s.setResp r) := hc .resp (by decide) s _ h

theorem State.hostRead_inv (off : Nat) (size : Nat) (hc : ∀ p ∈ [Part.regs, .bank, .pcie, .tst, .out, .resp], Closed R p) (h : R s) :
    R (s.hostRead off size) := by
  unfold State.hostRead
  try dsimp only
  repeat' (first | exact sub_inv (by decide) hc | (intro _; try dsimp only) | with_reducible assumption | with_reducible apply inv_ite | with_reducible apply State.queue_inv | with_reducible apply State.hostBlocksRead_inv | with_reducible apply State.setResp_inv | split)
  all_goals first | rfl | exact ⟨rfl, rfl, rfl⟩ | assumption

theorem State.bankBurst_inv (q : ShedReq) (hc : ∀ p ∈ [Part.regs, .bank, .pcie, .tst, .out, .resp], Closed R p) (h : R s) :
    R (s.bankBurst q) := by
  unfold State.bankBurst
  try dsimp only
  repeat' (first | exact sub_inv (by decide) hc | (intro _; try dsimp only) | with_reducible assumption | with_reducible apply inv_ite | with_reducible apply State.burst_inv | with_reducible apply State.bankRead1_inv | with_reducible apply State.moreData_inv | split)
  all_goals first | rfl | exact ⟨rfl, rfl, rfl⟩ | assumption

theorem State.bankLoad_inv (m : Mid) (off : Nat) (size : Nat) (hc : ∀ p ∈ [Part.regs, .bank, .pcie, .tst, .out, .resp], Closed R p) (h : R s) :
    R (s.bankLoad m off size) := by
  unfold State.bankLoad
  try dsimp only
  repeat' (first | exact sub_inv (by decide) hc | (intro _; try dsimp only) | with_reducible assumption | with_reducible apply inv_ite | with_reducible apply State.decAns_inv | with_reducible apply State.bankBurst_inv | with_reducible apply State.hostRead_inv | with_reducible apply State.bankRead1_inv | split)
  all_goals first | rfl | exact ⟨rfl, rfl, rfl⟩ | assumption

theorem execBankRead_inv (m : Mid) (off : BitVec 23) (size : Nat) (hc : ∀ p ∈ [Part.regs, .bank, .pcie, .tst, .out, .resp], Closed R p) (h : R s) :
    OutInv R (execBankRead m off size s) := by
  unfold execBankRead
  try dsimp only
  repeat' (first | exact sub_inv (by decide) hc | with_reducible apply outInv_next | with_reducible exact outInv_fault _ | with_reducible apply outInv_ite | (intro _; try dsimp only) | with_reducible assumption | with_reducible apply inv_ite | with_reducible apply State.bankLoad_inv | split)
  all_goals first | rfl | exact ⟨rfl, rfl, rfl⟩ | assumption

theorem execBankAliasSet_inv (m : Mid) (off : BitVec 23) (size : Nat) (v : AliasData) (hc : ∀ p ∈ [Part.regs, .bank, .bankMem, .pcie, .tst, .out, .resp], Closed R p) (h : R s) :
    OutInv R (execBankAliasSet m off size v s) := by
  unfold execBankAliasSet
  try dsimp only
  repeat' (first | exact sub_inv (by decide) hc | with_reducible apply outInv_next | with_reducible exact outInv_fault _ | with_reducible apply outInv_ite | (intro _; try dsimp only) | with_reducible assumption | with_reducible apply inv_ite | with_reducible apply State.access_inv | with_reducible apply State.bankAlias_inv | split)
  all_goals first | rfl | exact ⟨rfl, rfl, rfl⟩ | assumption

theorem execBankAliasClear_inv (m : Mid) (off : BitVec 23) (size : Nat) (v : AliasData) (hc : ∀ p ∈ [Part.regs, .bank, .bankMem, .pcie, .tst, .out, .resp], Closed R p) (h : R s) :
    OutInv R (execBankAliasClear m off size v s) := by
  unfold execBankAliasClear
  try dsimp only
  repeat' (first | exact sub_inv (by decide) hc | with_reducible apply outInv_next | with_reducible exact outInv_fault _ | with_reducible apply outInv_ite | (intro _; try dsimp only) | with_reducible assumption | with_reducible apply inv_ite | with_reducible apply State.access_inv | with_reducible apply State.bankAlias_inv | split)
  all_goals first | rfl | exact ⟨rfl, rfl, rfl⟩ | assumption

theorem State.ownWrite_inv (m : Mid) (b : Nat) (v : Word) (hc : ∀ p ∈ [Part.regs, .bank], Closed R p) (h : R s) :
    R (s.ownWrite m b v) := by
  unfold State.ownWrite
  try dsimp only
  repeat' (first | exact sub_inv (by decide) hc | (intro _; try dsimp only) | with_reducible assumption | with_reducible apply inv_ite | with_reducible apply State.errlog_inv | with_reducible apply State.modBank_inv | with_reducible apply State.setReg_inv | split)
  all_goals first | rfl | exact ⟨rfl, rfl, rfl⟩ | assumption

theorem execBankOwnWrite_inv (m : Mid) (b : Fin 64) (v : Word) (hc : ∀ p ∈ [Part.regs, .wvr, .bank, .pcie, .tst, .out, .resp], Closed R p) (h : R s) :
    OutInv R (execBankOwnWrite m b v s) := by
  unfold execBankOwnWrite
  try dsimp only
  repeat' (first | exact sub_inv (by decide) hc | with_reducible apply outInv_next | with_reducible exact outInv_fault _ | with_reducible apply outInv_ite | (intro _; try dsimp only) | with_reducible assumption | with_reducible apply inv_ite | with_reducible apply State.write4_inv | with_reducible apply State.ownWrite_inv | split)
  all_goals first | rfl | exact ⟨rfl, rfl, rfl⟩ | assumption

theorem State.handoverDone_inv (b : Nat) (hc : ∀ p ∈ [Part.regs, .bank], Closed R p) (h : R s) :
    R (s.handoverDone b) := by
  unfold State.handoverDone
  try dsimp only
  repeat' (first | exact sub_inv (by decide) hc | (intro _; try dsimp only) | with_reducible assumption | with_reducible apply inv_ite | with_reducible apply State.setRf_inv | with_reducible apply State.modBank_inv | split)
  all_goals first | rfl | exact ⟨rfl, rfl, rfl⟩ | assumption

theorem execBankHandoverDone_inv (b : Fin 64) (hc : ∀ p ∈ [Part.regs, .bank], Closed R p) (h : R s) :
    OutInv R (execBankHandoverDone b s) := by
  unfold execBankHandoverDone
  try dsimp only
  repeat' (first | exact sub_inv (by decide) hc | with_reducible apply outInv_next | with_reducible exact outInv_fault _ | with_reducible apply outInv_ite | (intro _; try dsimp only) | with_reducible assumption | with_reducible apply inv_ite | with_reducible apply State.when_inv | with_reducible apply State.handoverDone_inv | split)
  all_goals first | rfl | exact ⟨rfl, rfl, rfl⟩ | assumption

theorem State.handoversLeft_inv (hc : ∀ p ∈ [Part.regs, .bank], Closed R p) (h : R s) :
    R (s.handoversLeft) := by
  unfold State.handoversLeft
  try dsimp only
  repeat' (first | exact sub_inv (by decide) hc | (intro _; try dsimp only) | with_reducible assumption | with_reducible apply inv_ite | with_reducible apply seqAll_inv | with_reducible apply State.when_inv | with_reducible apply State.handoverDone_inv | split)
  all_goals first | rfl | exact ⟨rfl, rfl, rfl⟩ | assumption

theorem State.setKind_inv (k : Nat) (b : Nat) (hc : ∀ p ∈ [Part.regs, .bank], Closed R p) (h : R s) :
    R (s.setKind k b) := by
  unfold State.setKind
  try dsimp only
  repeat' (first | exact sub_inv (by decide) hc | (intro _; try dsimp only) | with_reducible assumption | with_reducible apply inv_ite | with_reducible apply State.setRf_inv | with_reducible apply State.modBank_inv | split)
  all_goals first | rfl | exact ⟨rfl, rfl, rfl⟩ | assumption

theorem State.zeroBank_inv (b : Nat) (hc : ∀ p ∈ [Part.bank, .bankMem], Closed R p) (h : R s) : R (s.zeroBank b) :=
  inv_bankKeep _ (fun a => !decide (0x20000 * b ≤ a ∧ a < 0x20000 * (b + 1))) rfl hc h

theorem State.tfail_inv (b : Nat) (hc : ∀ p ∈ [Part.regs], Closed R p) (h : R s) :
    R (s.tfail b) := by
  unfold State.tfail
  try dsimp only
  repeat' (first | exact sub_inv (by decide) hc | (intro _; try dsimp only) | with_reducible assumption | with_reducible apply inv_ite | with_reducible apply State.setRf_inv | split)
  all_goals first | rfl | exact ⟨rfl, rfl, rfl⟩ | assumption

theorem State.endTest_inv (r : Nat) (hc : ∀ p ∈ [Part.regs, .bank, .bankMem, .pcie, .out], Closed R p) (h : R s) :
    R (s.endTest r) := by
  unfold State.endTest
  try dsimp only
  repeat' (first | exact sub_inv (by decide) hc | (intro _; try dsimp only) | with_reducible assumption | with_reducible apply inv_ite | with_reducible apply seqAll_inv | with_reducible apply State.setKind_inv | with_reducible apply State.zeroBank_inv | with_reducible apply State.irq_inv | with_reducible apply State.modBank_inv | split)
  all_goals first | rfl | exact ⟨rfl, rfl, rfl⟩ | assumption

theorem State.startTest_inv (v : Word) (hc : ∀ p ∈ [Part.regs, .bank], Closed R p) (h : R s) :
    R (s.startTest v) := by
  unfold State.startTest
  try dsimp only
  repeat' (first | exact sub_inv (by decide) hc | (intro _; try dsimp only) | with_reducible assumption | with_reducible apply inv_ite | with_reducible apply State.modBank_inv | with_reducible apply State.setReg_inv | with_reducible apply seqAll_inv | with_reducible apply State.setKind_inv | split)
  all_goals first | rfl | exact ⟨rfl, rfl, rfl⟩ | assumption

theorem State.tcmd_inv (v : Word) (hc : ∀ p ∈ [Part.regs, .bank, .bankMem, .pcie, .out], Closed R p) (h : R s) :
    R (s.tcmd v) := by
  unfold State.tcmd
  try dsimp only
  repeat' (first | exact sub_inv (by decide) hc | (intro _; try dsimp only) | with_reducible assumption | with_reducible apply inv_ite | with_reducible apply State.endTest_inv | with_reducible apply State.startTest_inv | split)
  all_goals first | rfl | exact ⟨rfl, rfl, rfl⟩ | assumption

theorem execMarchStart_inv (m : Mid) (v : Word) (hc : ∀ p ∈ [Part.regs, .wvr, .bank, .bankMem, .pcie, .tst, .out, .resp], Closed R p) (h : R s) :
    OutInv R (execMarchStart m v s) := by
  unfold execMarchStart
  try dsimp only
  repeat' (first | exact sub_inv (by decide) hc | with_reducible apply outInv_next | with_reducible exact outInv_fault _ | with_reducible apply outInv_ite | (intro _; try dsimp only) | with_reducible assumption | with_reducible apply inv_ite | with_reducible apply State.write4_inv | with_reducible apply State.tcmd_inv | split)
  all_goals first | rfl | exact ⟨rfl, rfl, rfl⟩ | assumption

theorem execMarchRowLock_inv (hc : ∀ p ∈ [Part.bank], Closed R p) (h : R s) :
    OutInv R (execMarchRowLock s) := by
  unfold execMarchRowLock
  try dsimp only
  repeat' (first | exact sub_inv (by decide) hc | with_reducible apply outInv_next | with_reducible exact outInv_fault _ | with_reducible apply outInv_ite | (intro _; try dsimp only) | with_reducible assumption | with_reducible apply inv_ite | with_reducible apply State.when_inv | with_reducible apply State.modBank_inv | split)
  all_goals first | rfl | exact ⟨rfl, rfl, rfl⟩ | assumption

theorem State.rowFail_inv (b : Nat) (hc : ∀ p ∈ [Part.regs, .bank, .pcie, .out], Closed R p) (h : R s) :
    R (s.rowFail b) := by
  unfold State.rowFail
  try dsimp only
  repeat' (first | exact sub_inv (by decide) hc | (intro _; try dsimp only) | with_reducible assumption | with_reducible apply inv_ite | with_reducible apply State.irq_inv | with_reducible apply State.tfail_inv | with_reducible apply State.setRf_inv | with_reducible apply State.modBank_inv | split)
  all_goals first | rfl | exact ⟨rfl, rfl, rfl⟩ | assumption

theorem execMarchRowDone_inv (fails : List (Fin 64)) (hc : ∀ p ∈ [Part.regs, .bank, .pcie, .out], Closed R p) (h : R s) :
    OutInv R (execMarchRowDone fails s) := by
  unfold execMarchRowDone
  try dsimp only
  repeat' (first | exact sub_inv (by decide) hc | with_reducible apply outInv_next | with_reducible exact outInv_fault _ | with_reducible apply outInv_ite | (intro _; try dsimp only) | with_reducible assumption | with_reducible apply inv_ite | with_reducible apply State.when_inv | with_reducible apply State.modBank_inv | with_reducible apply seqAll_inv | with_reducible apply State.rowFail_inv | split)
  all_goals first | rfl | exact ⟨rfl, rfl, rfl⟩ | assumption

theorem execMarchTestDone_inv (fails : List (Fin 64)) (hc : ∀ p ∈ [Part.regs, .bank, .bankMem, .pcie, .out], Closed R p) (h : R s) :
    OutInv R (execMarchTestDone fails s) := by
  unfold execMarchTestDone
  try dsimp only
  repeat' (first | exact sub_inv (by decide) hc | with_reducible apply outInv_next | with_reducible exact outInv_fault _ | with_reducible apply outInv_ite | (intro _; try dsimp only) | with_reducible assumption | with_reducible apply inv_ite | with_reducible apply State.when_inv | with_reducible apply State.endTest_inv | with_reducible apply seqAll_inv | with_reducible apply State.tfail_inv | split)
  all_goals first | rfl | exact ⟨rfl, rfl, rfl⟩ | assumption

theorem execMarchAbort_inv (m : Mid) (hc : ∀ p ∈ [Part.regs, .wvr, .bank, .bankMem, .pcie, .tst, .out, .resp], Closed R p) (h : R s) :
    OutInv R (execMarchAbort m s) := by
  unfold execMarchAbort
  try dsimp only
  repeat' (first | exact sub_inv (by decide) hc | with_reducible apply outInv_next | with_reducible exact outInv_fault _ | with_reducible apply outInv_ite | (intro _; try dsimp only) | with_reducible assumption | with_reducible apply inv_ite | with_reducible apply State.write4_inv | with_reducible apply State.tcmd_inv | split)
  all_goals first | rfl | exact ⟨rfl, rfl, rfl⟩ | assumption

theorem State.fuseErr_inv (hc : ∀ p ∈ [Part.regs, .bank], Closed R p) (h : R s) :
    R (s.fuseErr) := by
  unfold State.fuseErr
  try dsimp only
  repeat' (first | exact sub_inv (by decide) hc | (intro _; try dsimp only) | with_reducible assumption | with_reducible apply inv_ite | with_reducible apply State.modBank_inv | with_reducible apply State.setRf_inv | split)
  all_goals first | rfl | exact ⟨rfl, rfl, rfl⟩ | assumption

theorem State.fuseKeyWrite_inv (v : Word) (hc : ∀ p ∈ [Part.regs, .bank], Closed R p) (h : R s) :
    R (s.fuseKeyWrite v) := by
  unfold State.fuseKeyWrite
  try dsimp only
  repeat' (first | exact sub_inv (by decide) hc | (intro _; try dsimp only) | with_reducible assumption | with_reducible apply inv_ite | with_reducible apply State.modBank_inv | with_reducible apply State.fuseErr_inv | split)
  all_goals first | rfl | exact ⟨rfl, rfl, rfl⟩ | assumption

theorem State.fuseCmdWrite_inv (v : Word) (hc : ∀ p ∈ [Part.regs, .bank], Closed R p) (h : R s) :
    R (s.fuseCmdWrite v) := by
  unfold State.fuseCmdWrite
  try dsimp only
  repeat' (first | exact sub_inv (by decide) hc | (intro _; try dsimp only) | with_reducible assumption | with_reducible apply inv_ite | with_reducible apply State.modBank_inv | with_reducible apply State.setReg_inv | with_reducible apply State.fuseErr_inv | split)
  all_goals first | rfl | exact ⟨rfl, rfl, rfl⟩ | assumption

theorem execBankFuseKey_inv (m : Mid) (v : Word) (hc : ∀ p ∈ [Part.regs, .wvr, .bank, .pcie, .tst, .out, .resp], Closed R p) (h : R s) :
    OutInv R (execBankFuseKey m v s) := by
  unfold execBankFuseKey
  try dsimp only
  repeat' (first | exact sub_inv (by decide) hc | with_reducible apply outInv_next | with_reducible exact outInv_fault _ | with_reducible apply outInv_ite | (intro _; try dsimp only) | with_reducible assumption | with_reducible apply inv_ite | with_reducible apply State.write4_inv | with_reducible apply State.fuseKeyWrite_inv | split)
  all_goals first | rfl | exact ⟨rfl, rfl, rfl⟩ | assumption

theorem execBankFuseCmd_inv (m : Mid) (v : Word) (hc : ∀ p ∈ [Part.regs, .wvr, .bank, .pcie, .tst, .out, .resp], Closed R p) (h : R s) :
    OutInv R (execBankFuseCmd m v s) := by
  unfold execBankFuseCmd
  try dsimp only
  repeat' (first | exact sub_inv (by decide) hc | with_reducible apply outInv_next | with_reducible exact outInv_fault _ | with_reducible apply outInv_ite | (intro _; try dsimp only) | with_reducible assumption | with_reducible apply inv_ite | with_reducible apply State.write4_inv | with_reducible apply State.fuseCmdWrite_inv | split)
  all_goals first | rfl | exact ⟨rfl, rfl, rfl⟩ | assumption

theorem State.burnDone_inv (hc : ∀ p ∈ [Part.regs, .bank], Closed R p) (h : R s) :
    R (s.burnDone) := by
  unfold State.burnDone
  try dsimp only
  repeat' (first | exact sub_inv (by decide) hc | (intro _; try dsimp only) | with_reducible assumption | with_reducible apply inv_ite | with_reducible apply State.modBank_inv | with_reducible apply State.setRf_inv | split)
  all_goals first | rfl | exact ⟨rfl, rfl, rfl⟩ | assumption

theorem execFuseBurnDone_inv (hc : ∀ p ∈ [Part.regs, .bank], Closed R p) (h : R s) :
    OutInv R (execFuseBurnDone s) := by
  unfold execFuseBurnDone
  try dsimp only
  repeat' (first | exact sub_inv (by decide) hc | with_reducible apply outInv_next | with_reducible exact outInv_fault _ | with_reducible apply outInv_ite | (intro _; try dsimp only) | with_reducible assumption | with_reducible apply inv_ite | with_reducible apply State.burnDone_inv | split)
  all_goals first | rfl | exact ⟨rfl, rfl, rfl⟩ | assumption

theorem State.applyFuses_inv (hc : ∀ p ∈ [Part.regs, .bank], Closed R p) (h : R s) :
    R (s.applyFuses) := by
  unfold State.applyFuses
  try dsimp only
  repeat' (first | exact sub_inv (by decide) hc | (intro _; try dsimp only) | with_reducible assumption | with_reducible apply inv_ite | with_reducible apply seqAll_inv | with_reducible apply State.modBank_inv | with_reducible apply State.setRf_inv | split)
  all_goals first | rfl | exact ⟨rfl, rfl, rfl⟩ | assumption

theorem State.setBuf_inv (i : Nat) (st : BufSt) (o : Nat) (hc : ∀ p ∈ [Part.skid], Closed R p) (h : R s) :
    R (s.setBuf i st o) := by
  unfold State.setBuf
  try dsimp only
  repeat' (first | exact sub_inv (by decide) hc | (intro _; try dsimp only) | with_reducible assumption | with_reducible apply inv_ite | with_reducible apply State.modSkid_inv | split)
  all_goals first | rfl | exact ⟨rfl, rfl, rfl⟩ | assumption

theorem State.skidNote_inv (was : Nat) (hc : ∀ p ∈ [Part.regs, .pcie, .out], Closed R p) (h : R s) :
    R (s.skidNote was) := by
  unfold State.skidNote
  try dsimp only
  repeat' (first | exact sub_inv (by decide) hc | (intro _; try dsimp only) | with_reducible assumption | with_reducible apply inv_ite | with_reducible apply State.setReg_inv | with_reducible apply State.irq_inv | split)
  all_goals first | rfl | exact ⟨rfl, rfl, rfl⟩ | assumption

theorem State.freeBuf_inv (i : Nat) (hc : ∀ p ∈ [Part.skid], Closed R p) (h : R s) :
    R (s.freeBuf i) := by
  unfold State.freeBuf
  try dsimp only
  repeat' (first | exact sub_inv (by decide) hc | (intro _; try dsimp only) | with_reducible assumption | with_reducible apply inv_ite | with_reducible apply State.modSkid_inv | with_reducible apply State.setBuf_inv | split)
  all_goals first | rfl | exact ⟨rfl, rfl, rfl⟩ | assumption

theorem State.takeHead_inv (i : Nat) (t : State) (hc : ∀ p ∈ [Part.skid], Closed R p) (h : R s) (ht : s.takeHead = some (i, t)) : R t := by
  unfold State.takeHead at ht
  dsimp only at ht
  split at ht
  · injection ht with ht; injection ht with _ ht; subst ht; exact State.modSkid_inv _ hc h
  · split at ht
    · injection ht with ht; injection ht with _ ht; subst ht; exact State.modSkid_inv _ hc h
    · cases ht

theorem State.skidAlloc_inv (m : Nat) (hc : ∀ p ∈ [Part.regs, .skid, .pcie, .out], Closed R p) (h : R s) : R (s.skidAlloc m).2 := by
  unfold State.skidAlloc
  dsimp only
  split
  · exact State.incReg_inv _ _ (sub_inv (by decide) hc) h
  · split
    · rename_i i s1 hh
      exact State.skidNote_inv _ (sub_inv (by decide) hc) (State.setBuf_inv _ _ _ (sub_inv (by decide) hc)
        (State.takeHead_inv i s1 (sub_inv (by decide) hc) h hh))
    · exact State.incReg_inv _ _ (sub_inv (by decide) hc) h

theorem State.skidMisuse_inv (m : Mid) (i : Nat) (kind : Nat) (hc : ∀ p ∈ [Part.regs, .pcie, .out], Closed R p) (h : R s) :
    R (s.skidMisuse m i kind) := by
  unfold State.skidMisuse
  try dsimp only
  repeat' (first | exact sub_inv (by decide) hc | (intro _; try dsimp only) | with_reducible assumption | with_reducible apply inv_ite | with_reducible apply State.setReg_inv | with_reducible apply State.incReg_inv | with_reducible apply State.irq_inv | split)
  all_goals first | rfl | exact ⟨rfl, rfl, rfl⟩ | assumption

theorem State.skidFreeWrite_inv (m : Mid) (v : Word) (hc : ∀ p ∈ [Part.regs, .bank, .bankMem, .skid, .pcie, .out], Closed R p) (h : R s) :
    R (s.skidFreeWrite m v) := by
  unfold State.skidFreeWrite
  try dsimp only
  repeat' (first | exact sub_inv (by decide) hc | (intro _; try dsimp only) | with_reducible assumption | with_reducible apply inv_ite | with_reducible apply State.skidMisuse_inv | with_reducible apply State.freeBuf_inv | with_reducible apply State.putBytes_inv | split)
  all_goals first | rfl | exact ⟨rfl, rfl, rfl⟩ | assumption

theorem State.reclaim_inv (m : Nat) (hc : ∀ p ∈ [Part.regs, .skid], Closed R p) (h : R s) :
    R (s.reclaim m) := by
  unfold State.reclaim
  try dsimp only
  repeat' (first | exact sub_inv (by decide) hc | (intro _; try dsimp only) | with_reducible assumption | with_reducible apply inv_ite | with_reducible apply State.incReg_inv | with_reducible apply seqAll_inv | with_reducible apply State.freeBuf_inv | split)
  all_goals first | rfl | exact ⟨rfl, rfl, rfl⟩ | assumption

theorem execSkidAlloc_inv (m : Mid) (hc : ∀ p ∈ [Part.regs, .skid, .pcie, .tst, .out, .resp], Closed R p) (h : R s) :
    OutInv R (execSkidAlloc m s) := by
  unfold execSkidAlloc
  try dsimp only
  repeat' (first | exact sub_inv (by decide) hc | with_reducible apply outInv_next | with_reducible exact outInv_fault _ | with_reducible apply outInv_ite | (intro _; try dsimp only) | with_reducible assumption | with_reducible apply inv_ite | with_reducible apply State.access_inv | with_reducible apply State.skidAlloc_inv | with_reducible apply State.answer_inv | split)
  all_goals first | rfl | exact ⟨rfl, rfl, rfl⟩ | assumption

theorem execSkidFree_inv (m : Mid) (v : Word) (hc : ∀ p ∈ [Part.regs, .wvr, .bank, .bankMem, .skid, .pcie, .tst, .out, .resp], Closed R p) (h : R s) :
    OutInv R (execSkidFree m v s) := by
  unfold execSkidFree
  try dsimp only
  repeat' (first | exact sub_inv (by decide) hc | with_reducible apply outInv_next | with_reducible exact outInv_fault _ | with_reducible apply outInv_ite | (intro _; try dsimp only) | with_reducible assumption | with_reducible apply inv_ite | with_reducible apply State.write4_inv | with_reducible apply State.skidFreeWrite_inv | split)
  all_goals first | rfl | exact ⟨rfl, rfl, rfl⟩ | assumption

theorem State.skidWrite_inv (m : Mid) (i : Nat) (off : Nat) (bs : List Byte) (hc : ∀ p ∈ [Part.regs, .bank, .bankMem, .pcie, .out, .resp], Closed R p) (h : R s) :
    R (s.skidWrite m i off bs) := by
  unfold State.skidWrite
  try dsimp only
  repeat' (first | exact sub_inv (by decide) hc | (intro _; try dsimp only) | with_reducible assumption | with_reducible apply inv_ite | with_reducible apply State.answer_inv | with_reducible apply State.storeBytes_inv | with_reducible apply State.skidMisuse_inv | split)
  all_goals first | rfl | exact ⟨rfl, rfl, rfl⟩ | assumption

theorem execSkidBufferWrite_inv (m : Mid) (i : Fin 8192) (off : Fin 256) (size : Nat) (v : BitVec 64) (hc : ∀ p ∈ [Part.regs, .bank, .bankMem, .pcie, .tst, .out, .resp], Closed R p) (h : R s) :
    OutInv R (execSkidBufferWrite m i off size v s) := by
  unfold execSkidBufferWrite
  try dsimp only
  repeat' (first | exact sub_inv (by decide) hc | with_reducible apply outInv_next | with_reducible exact outInv_fault _ | with_reducible apply outInv_ite | (intro _; try dsimp only) | with_reducible assumption | with_reducible apply inv_ite | with_reducible apply State.access_inv | with_reducible apply State.skidWrite_inv | split)
  all_goals first | rfl | exact ⟨rfl, rfl, rfl⟩ | assumption

theorem State.lowmarkRead_inv (hc : ∀ p ∈ [Part.regs], Closed R p) (h : R s) :
    R (s.lowmarkRead).2 := by
  unfold State.lowmarkRead
  try dsimp only
  repeat' (first | exact sub_inv (by decide) hc | (intro _; try dsimp only) | with_reducible assumption | with_reducible apply inv_ite | with_reducible apply State.setReg_inv | split)
  all_goals first | rfl | exact ⟨rfl, rfl, rfl⟩ | assumption

theorem execSkidLowmarkRead_inv (m : Mid) (hc : ∀ p ∈ [Part.regs, .pcie, .tst, .out, .resp], Closed R p) (h : R s) :
    OutInv R (execSkidLowmarkRead m s) := by
  unfold execSkidLowmarkRead
  try dsimp only
  repeat' (first | exact sub_inv (by decide) hc | with_reducible apply outInv_next | with_reducible exact outInv_fault _ | with_reducible apply outInv_ite | (intro _; try dsimp only) | with_reducible assumption | with_reducible apply inv_ite | with_reducible apply State.access_inv | with_reducible apply State.lowmarkRead_inv | with_reducible apply State.answer_inv | split)
  all_goals first | rfl | exact ⟨rfl, rfl, rfl⟩ | assumption

end Sys2Proof.Machine
end

