-- ==== Sys2Proof/Laws/InvOperands.lean ====
section
/-! SUPPORT. What the operations of Machine/Operands.lean keep. -/
namespace Sys2Proof.Machine

variable {R : State → Prop} {s : State}

theorem State.clearOnce_inv (l : List Nat) (hc : ∀ p ∈ [Part.regs], Closed R p) (h : R s) :
    R (s.clearOnce l) := by
  unfold State.clearOnce
  try dsimp only
  repeat' (first | exact sub_inv (by decide) hc | (intro _; try dsimp only) | with_reducible assumption | with_reducible apply inv_ite | with_reducible apply seqAll_inv | with_reducible apply State.setRf_inv | split)
  all_goals first | rfl | exact ⟨rfl, rfl, rfl⟩ | assumption

end Sys2Proof.Machine
end

