-- ==== Sys2Proof/Laws/InvTrace.lean ====
section
/-! SUPPORT. What the operations of Machine/Trace.lean keep. -/
namespace Sys2Proof.Machine

variable {R : State → Prop} {s : State}

theorem State.count_inv (cls : Nat) (idx : Nat) (ctr : Nat) (n : Nat) (hc : ∀ p ∈ [Part.tly], Closed R p) (h : R s) :
    R (s.count cls idx ctr n) := by
  unfold State.count
  try dsimp only
  repeat' (first | exact sub_inv (by decide) hc | (intro _; try dsimp only) | with_reducible assumption | with_reducible apply inv_ite | with_reducible apply State.modTly_inv | split)
  all_goals first | rfl | exact ⟨rfl, rfl, rfl⟩ | assumption

theorem State.pushTrace_inv (r : TraceRec) (hc : ∀ p ∈ [Part.tst], Closed R p) (h : R s) :
    R (s.pushTrace r) := by
  unfold State.pushTrace
  try dsimp only
  repeat' (first | exact sub_inv (by decide) hc | (intro _; try dsimp only) | with_reducible assumption | with_reducible apply inv_ite | with_reducible apply State.modTst_inv | split)
  all_goals first | rfl | exact ⟨rfl, rfl, rfl⟩ | assumption

theorem State.pushLost_inv (hc : ∀ p ∈ [Part.tst, .free], Closed R p) (h : R s) :
    R (s.pushLost) := by
  unfold State.pushLost
  try dsimp only
  repeat' (first | exact sub_inv (by decide) hc | (intro _; try dsimp only) | with_reducible assumption | with_reducible apply inv_ite | with_reducible apply State.freeVal_inv | with_reducible apply State.modTst_inv | with_reducible apply State.pushTrace_inv | split)
  all_goals first | rfl | exact ⟨rfl, rfl, rfl⟩ | assumption

theorem State.triggerTrace_inv (hc : ∀ p ∈ [Part.tst], Closed R p) (h : R s) :
    R (s.triggerTrace) := by
  unfold State.triggerTrace
  try dsimp only
  repeat' (first | exact sub_inv (by decide) hc | (intro _; try dsimp only) | with_reducible assumption | with_reducible apply inv_ite | with_reducible apply State.modTst_inv | split)
  all_goals first | rfl | exact ⟨rfl, rfl, rfl⟩ | assumption

theorem State.record_inv (kind : Nat) (src : Nat) (clk : Nat) (d0 : Word) (d1 : Word) (hc : ∀ p ∈ [Part.regs, .pcie, .tst, .out, .free], Closed R p) (h : R s) :
    R (s.record kind src clk d0 d1) := by
  unfold State.record
  try dsimp only
  repeat' (first | exact sub_inv (by decide) hc | (intro _; try dsimp only) | with_reducible assumption | with_reducible apply inv_ite | with_reducible apply State.irq_inv | with_reducible apply State.modTst_inv | with_reducible apply State.incReg_inv | with_reducible apply State.pushTrace_inv | with_reducible apply State.pushLost_inv | with_reducible apply State.triggerTrace_inv | split)
  all_goals first | rfl | exact ⟨rfl, rfl, rfl⟩ | assumption

theorem State.trace_inv (c : Nat) (kind : Nat) (src : Nat) (d0 : Word) (d1 : Word) (hc : ∀ p ∈ [Part.regs, .pcie, .tst, .out, .free], Closed R p) (h : R s) :
    R (s.trace c kind src d0 d1) := by
  unfold State.trace
  try dsimp only
  repeat' (first | exact sub_inv (by decide) hc | (intro _; try dsimp only) | with_reducible assumption | with_reducible apply inv_ite | with_reducible apply State.record_inv | split)
  all_goals first | rfl | exact ⟨rfl, rfl, rfl⟩ | assumption

theorem State.traceIn_inv (c : Nat) (kind : Nat) (src : Nat) (d0 : Word) (d1 : Word) (hc : ∀ p ∈ [Part.regs, .pcie, .tst, .out, .free], Closed R p) (h : R s) :
    R (s.traceIn c kind src d0 d1) := by
  unfold State.traceIn
  try dsimp only
  repeat' (first | exact sub_inv (by decide) hc | (intro _; try dsimp only) | with_reducible assumption | with_reducible apply inv_ite | with_reducible apply State.freeVal_inv | with_reducible apply State.record_inv | split)
  all_goals first | rfl | exact ⟨rfl, rfl, rfl⟩ | assumption

theorem State.emitTrace_inv (m : Mid) (v : Word) (clk : Nat) (hc : ∀ p ∈ [Part.regs, .pcie, .tst, .out, .free], Closed R p) (h : R s) :
    R (s.emitTrace m v clk) := by
  unfold State.emitTrace
  try dsimp only
  repeat' (first | exact sub_inv (by decide) hc | (intro _; try dsimp only) | with_reducible assumption | with_reducible apply inv_ite | with_reducible apply State.record_inv | split)
  all_goals first | rfl | exact ⟨rfl, rfl, rfl⟩ | assumption

theorem State.startTrace_inv (hc : ∀ p ∈ [Part.tst, .free], Closed R p) (h : R s) :
    R (s.startTrace) := by
  unfold State.startTrace
  try dsimp only
  repeat' (first | exact sub_inv (by decide) hc | (intro _; try dsimp only) | with_reducible assumption | with_reducible apply inv_ite | with_reducible apply State.when_inv | with_reducible apply State.modTst_inv | with_reducible apply State.pushLost_inv | split)
  all_goals first | rfl | exact ⟨rfl, rfl, rfl⟩ | assumption

theorem State.stopTrace_inv (hc : ∀ p ∈ [Part.regs, .pcie, .tst, .out], Closed R p) (h : R s) :
    R (s.stopTrace) := by
  unfold State.stopTrace
  try dsimp only
  repeat' (first | exact sub_inv (by decide) hc | (intro _; try dsimp only) | with_reducible assumption | with_reducible apply inv_ite | with_reducible apply State.irq_inv | with_reducible apply State.modTst_inv | split)
  all_goals first | rfl | exact ⟨rfl, rfl, rfl⟩ | assumption

theorem State.traceCmd_inv (v : Word) (hc : ∀ p ∈ [Part.regs, .pcie, .tst, .out, .free], Closed R p) (h : R s) :
    R (s.traceCmd v) := by
  unfold State.traceCmd
  try dsimp only
  repeat' (first | exact sub_inv (by decide) hc | (intro _; try dsimp only) | with_reducible assumption | with_reducible apply inv_ite | with_reducible apply State.when_inv | with_reducible apply State.startTrace_inv | with_reducible apply State.stopTrace_inv | with_reducible apply State.triggerTrace_inv | split)
  all_goals first | rfl | exact ⟨rfl, rfl, rfl⟩ | assumption

theorem execTstTrEmit_inv (m : Mid) (v : Word) (clk : Nat) (hc : ∀ p ∈ [Part.regs, .wvr, .pcie, .tst, .out, .resp, .free], Closed R p) (h : R s) :
    OutInv R (execTstTrEmit m v clk s) := by
  unfold execTstTrEmit
  try dsimp only
  repeat' (first | exact sub_inv (by decide) hc | with_reducible apply outInv_next | with_reducible exact outInv_fault _ | with_reducible apply outInv_ite | (intro _; try dsimp only) | with_reducible assumption | with_reducible apply inv_ite | with_reducible apply State.write4_inv | with_reducible apply State.emitTrace_inv | split)
  all_goals first | rfl | exact ⟨rfl, rfl, rfl⟩ | assumption

theorem execTstTrStart_inv (m : Mid) (hc : ∀ p ∈ [Part.regs, .wvr, .pcie, .tst, .out, .resp, .free], Closed R p) (h : R s) :
    OutInv R (execTstTrStart m s) := by
  unfold execTstTrStart
  try dsimp only
  repeat' (first | exact sub_inv (by decide) hc | with_reducible apply outInv_next | with_reducible exact outInv_fault _ | with_reducible apply outInv_ite | (intro _; try dsimp only) | with_reducible assumption | with_reducible apply inv_ite | with_reducible apply State.write4_inv | with_reducible apply State.traceCmd_inv | split)
  all_goals first | rfl | exact ⟨rfl, rfl, rfl⟩ | assumption

theorem execTstTrStop_inv (m : Mid) (hc : ∀ p ∈ [Part.regs, .wvr, .pcie, .tst, .out, .resp, .free], Closed R p) (h : R s) :
    OutInv R (execTstTrStop m s) := by
  unfold execTstTrStop
  try dsimp only
  repeat' (first | exact sub_inv (by decide) hc | with_reducible apply outInv_next | with_reducible exact outInv_fault _ | with_reducible apply outInv_ite | (intro _; try dsimp only) | with_reducible assumption | with_reducible apply inv_ite | with_reducible apply State.write4_inv | with_reducible apply State.traceCmd_inv | split)
  all_goals first | rfl | exact ⟨rfl, rfl, rfl⟩ | assumption

theorem execTstTrTrig_inv (m : Mid) (hc : ∀ p ∈ [Part.regs, .wvr, .pcie, .tst, .out, .resp, .free], Closed R p) (h : R s) :
    OutInv R (execTstTrTrig m s) := by
  unfold execTstTrTrig
  try dsimp only
  repeat' (first | exact sub_inv (by decide) hc | with_reducible apply outInv_next | with_reducible exact outInv_fault _ | with_reducible apply outInv_ite | (intro _; try dsimp only) | with_reducible assumption | with_reducible apply inv_ite | with_reducible apply State.write4_inv | with_reducible apply State.traceCmd_inv | split)
  all_goals first | rfl | exact ⟨rfl, rfl, rfl⟩ | assumption

theorem State.tracePost_inv (hc : ∀ p ∈ [Part.regs, .pcie, .tst, .out], Closed R p) (h : R s) :
    R (s.tracePost) := by
  unfold State.tracePost
  try dsimp only
  repeat' (first | exact sub_inv (by decide) hc | (intro _; try dsimp only) | with_reducible assumption | with_reducible apply inv_ite | with_reducible apply State.irq_inv | with_reducible apply State.modTst_inv | split)
  all_goals first | rfl | exact ⟨rfl, rfl, rfl⟩ | assumption

theorem execTracePostComplete_inv (hc : ∀ p ∈ [Part.regs, .pcie, .tst, .out], Closed R p) (h : R s) :
    OutInv R (execTracePostComplete s) := by
  unfold execTracePostComplete
  try dsimp only
  repeat' (first | exact sub_inv (by decide) hc | with_reducible apply outInv_next | with_reducible exact outInv_fault _ | with_reducible apply outInv_ite | (intro _; try dsimp only) | with_reducible assumption | with_reducible apply inv_ite | with_reducible apply State.tracePost_inv | split)
  all_goals first | rfl | exact ⟨rfl, rfl, rfl⟩ | assumption

theorem State.readRd3_inv (hc : ∀ p ∈ [Part.regs], Closed R p) (h : R s) :
    R (s.readRd3).2 := by
  unfold State.readRd3
  try dsimp only
  repeat' (first | exact sub_inv (by decide) hc | (intro _; try dsimp only) | with_reducible assumption | with_reducible apply inv_ite | with_reducible apply State.setRf_inv | split)
  all_goals first | rfl | exact ⟨rfl, rfl, rfl⟩ | assumption

theorem execTstTrRd3Read_inv (m : Mid) (hc : ∀ p ∈ [Part.regs, .pcie, .tst, .out, .resp], Closed R p) (h : R s) :
    OutInv R (execTstTrRd3Read m s) := by
  unfold execTstTrRd3Read
  try dsimp only
  repeat' (first | exact sub_inv (by decide) hc | with_reducible apply outInv_next | with_reducible exact outInv_fault _ | with_reducible apply outInv_ite | (intro _; try dsimp only) | with_reducible assumption | with_reducible apply inv_ite | with_reducible apply State.access_inv | with_reducible apply State.readRd3_inv | with_reducible apply State.answer_inv | split)
  all_goals first | rfl | exact ⟨rfl, rfl, rfl⟩ | assumption

end Sys2Proof.Machine
end

