-- ==== Sys2Proof/Laws/InvEngine.lean ====
section
/-! SUPPORT. What the operations of Machine/Engine.lean keep. -/
namespace Sys2Proof.Machine

variable {R : State → Prop} {s : State}

theorem State.modEng_inv (fe : Bool) (f : Engine → Engine) (hc : ∀ p ∈ [Part.trd, .fine], Closed R p) (h : R s) :
    R (s.modEng fe f) := by
  unfold State.modEng
  try dsimp only
  repeat' (first | exact sub_inv (by decide) hc | (intro _; try dsimp only) | with_reducible assumption | with_reducible apply inv_ite | with_reducible apply State.modFe_inv | with_reducible apply State.modTrd_inv | split)
  all_goals first | rfl | exact ⟨rfl, rfl, rfl⟩ | assumption

theorem State.latchCfg_inv (fe : Bool) (hc : ∀ p ∈ [Part.trd, .fine], Closed R p) (h : R s) :
    R (s.latchCfg fe) := by
  unfold State.latchCfg
  try dsimp only
  repeat' (first | exact sub_inv (by decide) hc | (intro _; try dsimp only) | with_reducible assumption | with_reducible apply inv_ite | with_reducible apply State.modEng_inv | split)
  all_goals first | rfl | exact ⟨rfl, rfl, rfl⟩ | assumption

theorem State.postDone_inv (fe : Bool) (d : Done) (hc : ∀ p ∈ [Part.regs, .trd, .fine, .bank, .bankMem, .pcie, .tst, .out], Closed R p) (h : R s) :
    R (State.postDone fe d s) := by
  unfold State.postDone
  try dsimp only
  repeat' (first | exact sub_inv (by decide) hc | (intro _; try dsimp only) | with_reducible assumption | with_reducible apply inv_ite | with_reducible apply State.modTst_inv | with_reducible apply State.irq_inv | with_reducible apply State.setReg_inv | with_reducible apply State.hostWrite_inv | with_reducible apply State.agentWrite_inv | with_reducible apply State.modEng_inv | split)
  all_goals first | rfl | exact ⟨rfl, rfl, rfl⟩ | assumption

theorem State.popQ_inv (fe : Bool) (hc : ∀ p ∈ [Part.trd, .fine], Closed R p) (h : R s) :
    R (s.popQ fe) := by
  unfold State.popQ
  try dsimp only
  repeat' (first | exact sub_inv (by decide) hc | (intro _; try dsimp only) | with_reducible assumption | with_reducible apply inv_ite | with_reducible apply State.modEng_inv | with_reducible apply State.when_inv | with_reducible apply State.latchCfg_inv | split)
  all_goals first | rfl | exact ⟨rfl, rfl, rfl⟩ | assumption

theorem State.closeBatch_inv (fe : Bool) (forced : Bool) (need : List Nat) (hc : ∀ p ∈ [Part.regs, .trd, .fine], Closed R p) (h : R s) :
    R (s.closeBatch fe forced need) := by
  unfold State.closeBatch
  try dsimp only
  repeat' (first | exact sub_inv (by decide) hc | (intro _; try dsimp only) | with_reducible assumption | with_reducible apply inv_ite | with_reducible apply State.setReg_inv | with_reducible apply State.modEng_inv | split)
  all_goals first | rfl | exact ⟨rfl, rfl, rfl⟩ | assumption

theorem State.postFences_inv (fe : Bool) (hc : ∀ p ∈ [Part.regs, .trd, .fine, .bank, .bankMem, .pcie, .tst, .out], Closed R p) (h : R s) :
    R (s.postFences fe) := by
  unfold State.postFences
  try dsimp only
  repeat' (first | exact sub_inv (by decide) hc | (intro _; try dsimp only) | with_reducible assumption | with_reducible apply inv_ite | with_reducible apply State.modEng_inv | with_reducible apply seqAll_inv | with_reducible apply State.postDone_inv | split)
  all_goals first | rfl | exact ⟨rfl, rfl, rfl⟩ | assumption

theorem State.dropBatch_inv (fe : Bool) (status : Byte) (hc : ∀ p ∈ [Part.regs, .loom, .trd, .fine, .bank, .bankMem, .pcie, .tst, .out], Closed R p) (h : R s) :
    R (s.dropBatch fe status) := by
  unfold State.dropBatch
  try dsimp only
  repeat' (first | exact sub_inv (by decide) hc | (intro _; try dsimp only) | with_reducible assumption | with_reducible apply inv_ite | with_reducible apply State.modFine_inv | with_reducible apply State.modLoom_inv | with_reducible apply State.modEng_inv | with_reducible apply seqAll_inv | with_reducible apply State.postDone_inv | split)
  all_goals first | rfl | exact ⟨rfl, rfl, rfl⟩ | assumption

theorem State.abortOpen_inv (fe : Bool) (hc : ∀ p ∈ [Part.regs, .loom, .trd, .fine, .bank, .bankMem, .pcie, .tst, .out], Closed R p) (h : R s) :
    R (s.abortOpen fe) := by
  unfold State.abortOpen
  try dsimp only
  repeat' (first | exact sub_inv (by decide) hc | (intro _; try dsimp only) | with_reducible assumption | with_reducible apply inv_ite | with_reducible apply State.dropBatch_inv | split)
  all_goals first | rfl | exact ⟨rfl, rfl, rfl⟩ | assumption

theorem State.counted_inv (fe : Bool) (c : QCmd) (need : List Nat) (hc : ∀ p ∈ [Part.regs, .trd, .fine], Closed R p) (h : R s) :
    R (s.counted fe c need) := by
  unfold State.counted
  try dsimp only
  repeat' (first | exact sub_inv (by decide) hc | (intro _; try dsimp only) | with_reducible assumption | with_reducible apply inv_ite | with_reducible apply State.modEng_inv | with_reducible apply State.closeBatch_inv | split)
  all_goals first | rfl | exact ⟨rfl, rfl, rfl⟩ | assumption

theorem State.failCmd_inv (fe : Bool) (c : QCmd) (status : Byte) (w2 : Nat) (detail : Nat) (need : List Nat) (hc : ∀ p ∈ [Part.regs, .trd, .fine, .bank, .bankMem, .pcie, .tst, .out], Closed R p) (h : R s) :
    R (s.failCmd fe c status w2 detail need) := by
  unfold State.failCmd
  try dsimp only
  repeat' (first | exact sub_inv (by decide) hc | (intro _; try dsimp only) | with_reducible assumption | with_reducible apply inv_ite | with_reducible apply State.modEng_inv | with_reducible apply State.postDone_inv | with_reducible apply State.popQ_inv | with_reducible apply State.counted_inv | split)
  all_goals first | rfl | exact ⟨rfl, rfl, rfl⟩ | assumption

theorem State.foreignClose_inv (fe : Bool) (c : QCmd) (need : List Nat) (hc : ∀ p ∈ [Part.regs, .trd, .fine], Closed R p) (h : R s) :
    R (s.foreignClose fe c need) := by
  unfold State.foreignClose
  try dsimp only
  repeat' (first | exact sub_inv (by decide) hc | (intro _; try dsimp only) | with_reducible assumption | with_reducible apply inv_ite | with_reducible apply State.closeBatch_inv | split)
  all_goals first | rfl | exact ⟨rfl, rfl, rfl⟩ | assumption

theorem State.addBatch_inv (fe : Bool) (c : QCmd) (d : Done) (moved : Nat) (once : List Nat) (need : List Nat) (hc : ∀ p ∈ [Part.regs, .trd, .fine], Closed R p) (h : R s) :
    R (s.addBatch fe c d moved once need) := by
  unfold State.addBatch
  try dsimp only
  repeat' (first | exact sub_inv (by decide) hc | (intro _; try dsimp only) | with_reducible assumption | with_reducible apply inv_ite | with_reducible apply State.modEng_inv | with_reducible apply State.counted_inv | split)
  all_goals first | rfl | exact ⟨rfl, rfl, rfl⟩ | assumption

theorem State.joinBatch_inv (fe : Bool) (c : QCmd) (d : Done) (moved : Nat) (once : List Nat) (need : List Nat) (hc : ∀ p ∈ [Part.regs, .trd, .fine], Closed R p) (h : R s) :
    R (s.joinBatch fe c d moved once need) := by
  unfold State.joinBatch
  try dsimp only
  repeat' (first | exact sub_inv (by decide) hc | (intro _; try dsimp only) | with_reducible assumption | with_reducible apply inv_ite | with_reducible apply State.popQ_inv | with_reducible apply State.addBatch_inv | split)
  all_goals first | rfl | exact ⟨rfl, rfl, rfl⟩ | assumption

theorem State.cmtClose_inv (fe : Bool) (c : QCmd) (need : List Nat) (hc : ∀ p ∈ [Part.regs, .trd, .fine], Closed R p) (h : R s) :
    R (s.cmtClose fe c need) := by
  unfold State.cmtClose
  try dsimp only
  repeat' (first | exact sub_inv (by decide) hc | (intro _; try dsimp only) | with_reducible assumption | with_reducible apply inv_ite | with_reducible apply State.closeBatch_inv | split)
  all_goals first | rfl | exact ⟨rfl, rfl, rfl⟩ | assumption

theorem State.takeFence_inv (fe : Bool) (c : QCmd) (need : List Nat) (hc : ∀ p ∈ [Part.regs, .trd, .fine, .bank, .bankMem, .pcie, .tst, .out], Closed R p) (h : R s) :
    R (s.takeFence fe c need) := by
  unfold State.takeFence
  try dsimp only
  repeat' (first | exact sub_inv (by decide) hc | (intro _; try dsimp only) | with_reducible assumption | with_reducible apply inv_ite | with_reducible apply State.postDone_inv | with_reducible apply State.popQ_inv | with_reducible apply State.cmtClose_inv | with_reducible apply State.postFences_inv | with_reducible apply State.modEng_inv | split)
  all_goals first | rfl | exact ⟨rfl, rfl, rfl⟩ | assumption

theorem State.takeCommit_inv (fe : Bool) (c : QCmd) (need : List Nat) (hc : ∀ p ∈ [Part.regs, .trd, .fine, .bank, .bankMem, .pcie, .tst, .out], Closed R p) (h : R s) :
    R (s.takeCommit fe c need) := by
  unfold State.takeCommit
  try dsimp only
  repeat' (first | exact sub_inv (by decide) hc | (intro _; try dsimp only) | with_reducible assumption | with_reducible apply inv_ite | with_reducible apply State.postDone_inv | with_reducible apply State.popQ_inv | with_reducible apply State.addBatch_inv | with_reducible apply State.closeBatch_inv | split)
  all_goals first | rfl | exact ⟨rfl, rfl, rfl⟩ | assumption

theorem State.takeAbort_inv (fe : Bool) (c : QCmd) (hc : ∀ p ∈ [Part.regs, .loom, .trd, .fine, .bank, .bankMem, .pcie, .tst, .out], Closed R p) (h : R s) :
    R (s.takeAbort fe c) := by
  unfold State.takeAbort
  try dsimp only
  repeat' (first | exact sub_inv (by decide) hc | (intro _; try dsimp only) | with_reducible assumption | with_reducible apply inv_ite | with_reducible apply State.postDone_inv | with_reducible apply State.popQ_inv | with_reducible apply State.postFences_inv | with_reducible apply State.abortOpen_inv | split)
  all_goals first | rfl | exact ⟨rfl, rfl, rfl⟩ | assumption

theorem State.enqueue_inv (fe : Bool) (win : Nat) (hc : ∀ p ∈ [Part.regs, .trd, .fine, .pcie, .out], Closed R p) (h : R s) :
    R (s.enqueue fe win) := by
  unfold State.enqueue
  try dsimp only
  repeat' (first | exact sub_inv (by decide) hc | (intro _; try dsimp only) | with_reducible assumption | with_reducible apply inv_ite | with_reducible apply State.irq_inv | with_reducible apply State.incReg_inv | with_reducible apply State.modEng_inv | with_reducible apply State.when_inv | with_reducible apply State.latchCfg_inv | split)
  all_goals first | rfl | exact ⟨rfl, rfl, rfl⟩ | assumption

theorem State.windowWrite_inv (fe : Bool) (win : Nat) (i : Nat) (v : Word) (hc : ∀ p ∈ [Part.regs, .trd, .fine, .pcie, .out], Closed R p) (h : R s) :
    R (s.windowWrite fe win i v) := by
  unfold State.windowWrite
  try dsimp only
  repeat' (first | exact sub_inv (by decide) hc | (intro _; try dsimp only) | with_reducible assumption | with_reducible apply inv_ite | with_reducible apply State.setReg_inv | with_reducible apply State.enqueue_inv | split)
  all_goals first | rfl | exact ⟨rfl, rfl, rfl⟩ | assumption

theorem State.flushQ_inv (fe : Bool) (hc : ∀ p ∈ [Part.regs, .trd, .fine, .bank, .bankMem, .pcie, .tst, .out], Closed R p) (h : R s) :
    R (s.flushQ fe) := by
  unfold State.flushQ
  try dsimp only
  repeat' (first | exact sub_inv (by decide) hc | (intro _; try dsimp only) | with_reducible assumption | with_reducible apply inv_ite | with_reducible apply State.modEng_inv | with_reducible apply seqAll_inv | with_reducible apply State.postDone_inv | split)
  all_goals first | rfl | exact ⟨rfl, rfl, rfl⟩ | assumption

theorem State.postBatch_inv (fe : Bool) (hc : ∀ p ∈ [Part.regs, .trd, .fine, .bank, .bankMem, .pcie, .tst, .out], Closed R p) (h : R s) :
    R (s.postBatch fe) := by
  unfold State.postBatch
  try dsimp only
  repeat' (first | exact sub_inv (by decide) hc | (intro _; try dsimp only) | with_reducible assumption | with_reducible apply inv_ite | with_reducible apply State.modEng_inv | with_reducible apply seqAll_inv | with_reducible apply State.postDone_inv | split)
  all_goals first | rfl | exact ⟨rfl, rfl, rfl⟩ | assumption

theorem State.engCommit_inv (fe : Bool) (hc : ∀ p ∈ [Part.regs, .trd, .fine, .bank, .bankMem, .pcie, .tst, .out, .free], Closed R p) (h : R s) :
    R (s.engCommit fe) := by
  unfold State.engCommit
  try dsimp only
  repeat' (first | exact sub_inv (by decide) hc | (intro _; try dsimp only) | with_reducible assumption | with_reducible apply inv_ite | with_reducible apply State.postBatch_inv | with_reducible apply State.trace_inv | with_reducible apply State.irq_inv | with_reducible apply State.setReg_inv | with_reducible apply State.modEng_inv | split)
  all_goals first | rfl | exact ⟨rfl, rfl, rfl⟩ | assumption

theorem State.batchTimeout_inv (fe : Bool) (hc : ∀ p ∈ [Part.regs, .loom, .trd, .fine, .bank, .bankMem, .pcie, .tst, .out], Closed R p) (h : R s) :
    R (s.batchTimeout fe) := by
  unfold State.batchTimeout
  try dsimp only
  repeat' (first | exact sub_inv (by decide) hc | (intro _; try dsimp only) | with_reducible assumption | with_reducible apply inv_ite | with_reducible apply State.irq_inv | with_reducible apply State.postFences_inv | with_reducible apply State.dropBatch_inv | split)
  all_goals first | rfl | exact ⟨rfl, rfl, rfl⟩ | assumption

end Sys2Proof.Machine
end

