-- ==== Sys2Proof/Laws/InvLoom.lean ====
section
/-! SUPPORT. What the operations of Machine/Loom.lean keep. -/
namespace Sys2Proof.Machine

variable {R : State → Prop} {s : State}

theorem execHeddleEccUncorrectable_inv (e : HeddleRef) (hc : ∀ p ∈ [Part.regs, .loom, .pcie, .out], Closed R p) (h : R s) :
    OutInv R (execHeddleEccUncorrectable e s) := by
  unfold execHeddleEccUncorrectable
  try dsimp only
  repeat' (first | exact sub_inv (by decide) hc | with_reducible apply outInv_next | with_reducible exact outInv_fault _ | with_reducible apply outInv_ite | (intro _; try dsimp only) | with_reducible assumption | with_reducible apply inv_ite | with_reducible apply State.irq_inv | with_reducible apply State.incReg_inv | with_reducible apply State.modLoom_inv | split)
  all_goals first | rfl | exact ⟨rfl, rfl, rfl⟩ | assumption

theorem execHeddleEntryReload_inv (e : HeddleRef) (copyUnc : Bool) (hc : ∀ p ∈ [Part.loom], Closed R p) (h : R s) :
    OutInv R (execHeddleEntryReload e copyUnc s) := by
  unfold execHeddleEntryReload
  try dsimp only
  repeat' (first | exact sub_inv (by decide) hc | with_reducible apply outInv_next | with_reducible exact outInv_fault _ | with_reducible apply outInv_ite | (intro _; try dsimp only) | with_reducible assumption | with_reducible apply inv_ite | with_reducible apply State.modLoom_inv | split)
  all_goals first | rfl | exact ⟨rfl, rfl, rfl⟩ | assumption

theorem State.clearRewritten_inv (hc : ∀ p ∈ [Part.loom], Closed R p) (h : R s) :
    R (s.clearRewritten) := by
  unfold State.clearRewritten
  try dsimp only
  repeat' (first | exact sub_inv (by decide) hc | (intro _; try dsimp only) | with_reducible assumption | with_reducible apply inv_ite | with_reducible apply State.modLoom_inv | split)
  all_goals first | rfl | exact ⟨rfl, rfl, rfl⟩ | assumption

theorem State.hdlRead_inv (hc : ∀ p ∈ [Part.regs], Closed R p) (h : R s) :
    R (s.hdlRead) := by
  unfold State.hdlRead
  try dsimp only
  repeat' (first | exact sub_inv (by decide) hc | (intro _; try dsimp only) | with_reducible assumption | with_reducible apply inv_ite | with_reducible apply State.setRf_inv | split)
  all_goals first | rfl | exact ⟨rfl, rfl, rfl⟩ | assumption

theorem State.hdlReadDone_inv (hc : ∀ p ∈ [Part.regs], Closed R p) (h : R s) :
    R (s.hdlReadDone) := by
  unfold State.hdlReadDone
  try dsimp only
  repeat' (first | exact sub_inv (by decide) hc | (intro _; try dsimp only) | with_reducible assumption | with_reducible apply inv_ite | with_reducible apply State.setReg_inv | split)
  all_goals first | rfl | exact ⟨rfl, rfl, rfl⟩ | assumption

theorem execHdlRead_inv (m : Mid) (hc : ∀ p ∈ [Part.regs, .wvr, .pcie, .tst, .out, .resp], Closed R p) (h : R s) :
    OutInv R (execHdlRead m s) := by
  unfold execHdlRead
  try dsimp only
  repeat' (first | exact sub_inv (by decide) hc | with_reducible apply outInv_next | with_reducible exact outInv_fault _ | with_reducible apply outInv_ite | (intro _; try dsimp only) | with_reducible assumption | with_reducible apply inv_ite | with_reducible apply State.write4_inv | with_reducible apply State.hdlRead_inv | split)
  all_goals first | rfl | exact ⟨rfl, rfl, rfl⟩ | assumption

theorem execHdlReadDone_inv (hc : ∀ p ∈ [Part.regs], Closed R p) (h : R s) :
    OutInv R (execHdlReadDone s) := by
  unfold execHdlReadDone
  try dsimp only
  repeat' (first | exact sub_inv (by decide) hc | with_reducible apply outInv_next | with_reducible exact outInv_fault _ | with_reducible apply outInv_ite | (intro _; try dsimp only) | with_reducible assumption | with_reducible apply inv_ite | with_reducible apply State.when_inv | with_reducible apply State.hdlReadDone_inv | split)
  all_goals first | rfl | exact ⟨rfl, rfl, rfl⟩ | assumption

end Sys2Proof.Machine
end

