-- ==== Sys2Proof/Laws/InvTreadle.lean ====
section
/-! SUPPORT. What the operations of Machine/Treadle.lean keep. -/
namespace Sys2Proof.Machine

variable {R : State → Prop} {s : State}

theorem State.trdCmd_inv (op : Nat) (run : State → HMaps → QCmd → RunRes HMaps) (hc : ∀ p ∈ [Part.regs, .loom, .trd, .fine, .bank, .bankMem, .pcie, .tst, .out], Closed R p) (h : R s) :
    R (s.trdCmd op run) := by
  unfold State.trdCmd
  try dsimp only
  repeat' (first | exact sub_inv (by decide) hc | (intro _; try dsimp only) | with_reducible assumption | with_reducible apply inv_ite | with_reducible apply State.foreignClose_inv | with_reducible apply State.modTrd_inv | with_reducible apply State.failCmd_inv | with_reducible apply State.postDone_inv | with_reducible apply State.popQ_inv | with_reducible apply State.closeBatch_inv | with_reducible apply State.modLoom_inv | with_reducible apply State.joinBatch_inv | split)
  all_goals first | rfl | exact ⟨rfl, rfl, rfl⟩ | assumption

theorem State.trdFree_inv (ok : Nat → Bool) (take : State → QCmd → State) (hc : ∀ p ∈ [Part.regs, .trd, .fine], Closed R p) (h : R s) (hf : ∀ y0 y1, R y0 → R (take y0 y1)) :
    R (s.trdFree ok take) := by
  unfold State.trdFree
  try dsimp only
  repeat' (first | exact sub_inv (by decide) hc | (intro _; try dsimp only) | with_reducible assumption | with_reducible apply inv_ite | with_reducible apply hf | with_reducible apply State.foreignClose_inv | split)
  all_goals first | rfl | exact ⟨rfl, rfl, rfl⟩ | assumption

theorem execTrdEnqueue_inv (m : Mid) (win : Fin 4) (v : Word) (hc : ∀ p ∈ [Part.regs, .trd, .fine, .wvr, .pcie, .tst, .out, .resp], Closed R p) (h : R s) :
    OutInv R (execTrdEnqueue m win v s) := by
  unfold execTrdEnqueue
  try dsimp only
  repeat' (first | exact sub_inv (by decide) hc | with_reducible apply outInv_next | with_reducible exact outInv_fault _ | with_reducible apply outInv_ite | (intro _; try dsimp only) | with_reducible assumption | with_reducible apply inv_ite | with_reducible apply State.write4_inv | with_reducible apply State.windowWrite_inv | split)
  all_goals first | rfl | exact ⟨rfl, rfl, rfl⟩ | assumption

theorem execConnect_inv (hc : ∀ p ∈ [Part.regs, .loom, .trd, .fine, .bank, .bankMem, .pcie, .tst, .out], Closed R p) (h : R s) :
    OutInv R (execConnect s) := by
  unfold execConnect
  try dsimp only
  repeat' (first | exact sub_inv (by decide) hc | with_reducible apply outInv_next | with_reducible exact outInv_fault _ | with_reducible apply outInv_ite | (intro _; try dsimp only) | with_reducible assumption | with_reducible apply inv_ite | with_reducible apply State.trdCmd_inv | split)
  all_goals first | rfl | exact ⟨rfl, rfl, rfl⟩ | assumption

theorem execDisconnect_inv (hc : ∀ p ∈ [Part.regs, .loom, .trd, .fine, .bank, .bankMem, .pcie, .tst, .out], Closed R p) (h : R s) :
    OutInv R (execDisconnect s) := by
  unfold execDisconnect
  try dsimp only
  repeat' (first | exact sub_inv (by decide) hc | with_reducible apply outInv_next | with_reducible exact outInv_fault _ | with_reducible apply outInv_ite | (intro _; try dsimp only) | with_reducible assumption | with_reducible apply inv_ite | with_reducible apply State.trdCmd_inv | split)
  all_goals first | rfl | exact ⟨rfl, rfl, rfl⟩ | assumption

theorem execConnectP_inv (hc : ∀ p ∈ [Part.regs, .loom, .trd, .fine, .bank, .bankMem, .pcie, .tst, .out], Closed R p) (h : R s) :
    OutInv R (execConnectP s) := by
  unfold execConnectP
  try dsimp only
  repeat' (first | exact sub_inv (by decide) hc | with_reducible apply outInv_next | with_reducible exact outInv_fault _ | with_reducible apply outInv_ite | (intro _; try dsimp only) | with_reducible assumption | with_reducible apply inv_ite | with_reducible apply State.trdCmd_inv | split)
  all_goals first | rfl | exact ⟨rfl, rfl, rfl⟩ | assumption

theorem execReconnect_inv (hc : ∀ p ∈ [Part.regs, .loom, .trd, .fine, .bank, .bankMem, .pcie, .tst, .out], Closed R p) (h : R s) :
    OutInv R (execReconnect s) := by
  unfold execReconnect
  try dsimp only
  repeat' (first | exact sub_inv (by decide) hc | with_reducible apply outInv_next | with_reducible exact outInv_fault _ | with_reducible apply outInv_ite | (intro _; try dsimp only) | with_reducible assumption | with_reducible apply inv_ite | with_reducible apply State.trdCmd_inv | split)
  all_goals first | rfl | exact ⟨rfl, rfl, rfl⟩ | assumption

theorem execLock_inv (hc : ∀ p ∈ [Part.regs, .loom, .trd, .fine, .bank, .bankMem, .pcie, .tst, .out], Closed R p) (h : R s) :
    OutInv R (execLock s) := by
  unfold execLock
  try dsimp only
  repeat' (first | exact sub_inv (by decide) hc | with_reducible apply outInv_next | with_reducible exact outInv_fault _ | with_reducible apply outInv_ite | (intro _; try dsimp only) | with_reducible assumption | with_reducible apply inv_ite | with_reducible apply State.trdCmd_inv | split)
  all_goals first | rfl | exact ⟨rfl, rfl, rfl⟩ | assumption

theorem execForceAis_inv (hc : ∀ p ∈ [Part.regs, .loom, .trd, .fine, .bank, .bankMem, .pcie, .tst, .out], Closed R p) (h : R s) :
    OutInv R (execForceAis s) := by
  unfold execForceAis
  try dsimp only
  repeat' (first | exact sub_inv (by decide) hc | with_reducible apply outInv_next | with_reducible exact outInv_fault _ | with_reducible apply outInv_ite | (intro _; try dsimp only) | with_reducible assumption | with_reducible apply inv_ite | with_reducible apply State.trdCmd_inv | split)
  all_goals first | rfl | exact ⟨rfl, rfl, rfl⟩ | assumption

theorem execRelease_inv (hc : ∀ p ∈ [Part.regs, .loom, .trd, .fine, .bank, .bankMem, .pcie, .tst, .out], Closed R p) (h : R s) :
    OutInv R (execRelease s) := by
  unfold execRelease
  try dsimp only
  repeat' (first | exact sub_inv (by decide) hc | with_reducible apply outInv_next | with_reducible exact outInv_fault _ | with_reducible apply outInv_ite | (intro _; try dsimp only) | with_reducible assumption | with_reducible apply inv_ite | with_reducible apply State.trdCmd_inv | split)
  all_goals first | rfl | exact ⟨rfl, rfl, rfl⟩ | assumption

theorem execCommit_inv (hc : ∀ p ∈ [Part.regs, .trd, .fine, .bank, .bankMem, .pcie, .tst, .out], Closed R p) (h : R s) :
    OutInv R (execCommit s) := by
  unfold execCommit
  try dsimp only
  repeat' (first | exact sub_inv (by decide) hc | with_reducible apply outInv_next | with_reducible exact outInv_fault _ | with_reducible apply outInv_ite | (intro _; try dsimp only) | with_reducible assumption | with_reducible apply inv_ite | with_reducible apply State.trdFree_inv | with_reducible apply State.takeCommit_inv | split)
  all_goals first | rfl | exact ⟨rfl, rfl, rfl⟩ | assumption

theorem execAbort_inv (hc : ∀ p ∈ [Part.regs, .loom, .trd, .fine, .bank, .bankMem, .pcie, .tst, .out], Closed R p) (h : R s) :
    OutInv R (execAbort s) := by
  unfold execAbort
  try dsimp only
  repeat' (first | exact sub_inv (by decide) hc | with_reducible apply outInv_next | with_reducible exact outInv_fault _ | with_reducible apply outInv_ite | (intro _; try dsimp only) | with_reducible assumption | with_reducible apply inv_ite | with_reducible apply State.trdFree_inv | with_reducible apply State.takeAbort_inv | split)
  all_goals first | rfl | exact ⟨rfl, rfl, rfl⟩ | assumption

theorem execDefrag_inv (hc : ∀ p ∈ [Part.regs, .loom, .trd, .fine, .bank, .bankMem, .pcie, .tst, .out], Closed R p) (h : R s) :
    OutInv R (execDefrag s) := by
  unfold execDefrag
  try dsimp only
  repeat' (first | exact sub_inv (by decide) hc | with_reducible apply outInv_next | with_reducible exact outInv_fault _ | with_reducible apply outInv_ite | (intro _; try dsimp only) | with_reducible assumption | with_reducible apply inv_ite | with_reducible apply State.trdCmd_inv | split)
  all_goals first | rfl | exact ⟨rfl, rfl, rfl⟩ | assumption

theorem execRetag_inv (hc : ∀ p ∈ [Part.regs, .loom, .trd, .fine, .bank, .bankMem, .pcie, .tst, .out], Closed R p) (h : R s) :
    OutInv R (execRetag s) := by
  unfold execRetag
  try dsimp only
  repeat' (first | exact sub_inv (by decide) hc | with_reducible apply outInv_next | with_reducible exact outInv_fault _ | with_reducible apply outInv_ite | (intro _; try dsimp only) | with_reducible assumption | with_reducible apply inv_ite | with_reducible apply State.trdCmd_inv | split)
  all_goals first | rfl | exact ⟨rfl, rfl, rfl⟩ | assumption

theorem State.doQuery_inv (c : QCmd) (hc : ∀ p ∈ [Part.regs, .trd, .fine, .bank, .bankMem, .pcie, .tst, .out], Closed R p) (h : R s) :
    R (s.doQuery c) := by
  unfold State.doQuery
  try dsimp only
  repeat' (first | exact sub_inv (by decide) hc | (intro _; try dsimp only) | with_reducible assumption | with_reducible apply inv_ite | with_reducible apply State.failCmd_inv | with_reducible apply State.popQ_inv | with_reducible apply State.cmtClose_inv | with_reducible apply State.postDone_inv | split)
  all_goals first | rfl | exact ⟨rfl, rfl, rfl⟩ | assumption

theorem execQuery_inv (hc : ∀ p ∈ [Part.regs, .trd, .fine, .bank, .bankMem, .pcie, .tst, .out], Closed R p) (h : R s) :
    OutInv R (execQuery s) := by
  unfold execQuery
  try dsimp only
  repeat' (first | exact sub_inv (by decide) hc | with_reducible apply outInv_next | with_reducible exact outInv_fault _ | with_reducible apply outInv_ite | (intro _; try dsimp only) | with_reducible assumption | with_reducible apply inv_ite | with_reducible apply State.trdFree_inv | with_reducible apply State.doQuery_inv | split)
  all_goals first | rfl | exact ⟨rfl, rfl, rfl⟩ | assumption

theorem execFence_inv (hc : ∀ p ∈ [Part.regs, .trd, .fine, .bank, .bankMem, .pcie, .tst, .out], Closed R p) (h : R s) :
    OutInv R (execFence s) := by
  unfold execFence
  try dsimp only
  repeat' (first | exact sub_inv (by decide) hc | with_reducible apply outInv_next | with_reducible exact outInv_fault _ | with_reducible apply outInv_ite | (intro _; try dsimp only) | with_reducible assumption | with_reducible apply inv_ite | with_reducible apply State.trdFree_inv | with_reducible apply State.takeFence_inv | split)
  all_goals first | rfl | exact ⟨rfl, rfl, rfl⟩ | assumption

theorem execFenceDone_inv (hc : ∀ p ∈ [Part.regs, .trd, .fine, .bank, .bankMem, .pcie, .tst, .out], Closed R p) (h : R s) :
    OutInv R (execFenceDone s) := by
  unfold execFenceDone
  try dsimp only
  repeat' (first | exact sub_inv (by decide) hc | with_reducible apply outInv_next | with_reducible exact outInv_fault _ | with_reducible apply outInv_ite | (intro _; try dsimp only) | with_reducible assumption | with_reducible apply inv_ite | with_reducible apply State.postFences_inv | split)
  all_goals first | rfl | exact ⟨rfl, rfl, rfl⟩ | assumption

theorem execTrdBadOpcode_inv (hc : ∀ p ∈ [Part.regs, .loom, .trd, .fine, .bank, .bankMem, .pcie, .tst, .out], Closed R p) (h : R s) :
    OutInv R (execTrdBadOpcode s) := by
  unfold execTrdBadOpcode
  try dsimp only
  repeat' (first | exact sub_inv (by decide) hc | with_reducible apply outInv_next | with_reducible exact outInv_fault _ | with_reducible apply outInv_ite | (intro _; try dsimp only) | with_reducible assumption | with_reducible apply inv_ite | with_reducible apply State.trdCmd_inv | split)
  all_goals first | rfl | exact ⟨rfl, rfl, rfl⟩ | assumption

theorem execTrdArm_inv (hc : ∀ p ∈ [Part.trd, .out], Closed R p) (h : R s) :
    OutInv R (execTrdArm s) := by
  unfold execTrdArm
  try dsimp only
  repeat' (first | exact sub_inv (by decide) hc | with_reducible apply outInv_next | with_reducible exact outInv_fault _ | with_reducible apply outInv_ite | (intro _; try dsimp only) | with_reducible assumption | with_reducible apply inv_ite | with_reducible apply State.modTrd_inv | with_reducible apply seqAll_inv | with_reducible apply State.emit_inv | split)
  all_goals first | rfl | exact ⟨rfl, rfl, rfl⟩ | assumption

theorem execTileArmAck_inv (t : Fin 9) (hc : ∀ p ∈ [Part.trd], Closed R p) (h : R s) :
    OutInv R (execTileArmAck t s) := by
  unfold execTileArmAck
  try dsimp only
  repeat' (first | exact sub_inv (by decide) hc | with_reducible apply outInv_next | with_reducible exact outInv_fault _ | with_reducible apply outInv_ite | (intro _; try dsimp only) | with_reducible assumption | with_reducible apply inv_ite | with_reducible apply State.modTrd_inv | split)
  all_goals first | rfl | exact ⟨rfl, rfl, rfl⟩ | assumption

theorem State.armDeadline_inv (hc : ∀ p ∈ [Part.regs, .loom, .trd, .fine, .bank, .bankMem, .pcie, .tst, .out], Closed R p) (h : R s) :
    R (s.armDeadline) := by
  unfold State.armDeadline
  try dsimp only
  repeat' (first | exact sub_inv (by decide) hc | (intro _; try dsimp only) | with_reducible assumption | with_reducible apply inv_ite | with_reducible apply State.irq_inv | with_reducible apply State.postFences_inv | with_reducible apply State.dropBatch_inv | with_reducible apply State.setReg_inv | with_reducible apply State.modTrd_inv | split)
  all_goals first | rfl | exact ⟨rfl, rfl, rfl⟩ | assumption

theorem execArmDeadline_inv (hc : ∀ p ∈ [Part.regs, .loom, .trd, .fine, .bank, .bankMem, .pcie, .tst, .out], Closed R p) (h : R s) :
    OutInv R (execArmDeadline s) := by
  unfold execArmDeadline
  try dsimp only
  repeat' (first | exact sub_inv (by decide) hc | with_reducible apply outInv_next | with_reducible exact outInv_fault _ | with_reducible apply outInv_ite | (intro _; try dsimp only) | with_reducible assumption | with_reducible apply inv_ite | with_reducible apply State.armDeadline_inv | split)
  all_goals first | rfl | exact ⟨rfl, rfl, rfl⟩ | assumption

theorem State.copyDone_inv (hc : ∀ p ∈ [Part.loom, .trd], Closed R p) (h : R s) :
    R (s.copyDone) := by
  unfold State.copyDone
  try dsimp only
  repeat' (first | exact sub_inv (by decide) hc | (intro _; try dsimp only) | with_reducible assumption | with_reducible apply inv_ite | with_reducible apply State.modTrd_inv | with_reducible apply State.modLoom_inv | split)
  all_goals first | rfl | exact ⟨rfl, rfl, rfl⟩ | assumption

theorem execStandbyCopyDone_inv (hc : ∀ p ∈ [Part.loom, .trd], Closed R p) (h : R s) :
    OutInv R (execStandbyCopyDone s) := by
  unfold execStandbyCopyDone
  try dsimp only
  repeat' (first | exact sub_inv (by decide) hc | with_reducible apply outInv_next | with_reducible exact outInv_fault _ | with_reducible apply outInv_ite | (intro _; try dsimp only) | with_reducible assumption | with_reducible apply inv_ite | with_reducible apply State.copyDone_inv | split)
  all_goals first | rfl | exact ⟨rfl, rfl, rfl⟩ | assumption

theorem execTrdCompletionsPost_inv (hc : ∀ p ∈ [Part.regs, .trd, .fine, .bank, .bankMem, .pcie, .tst, .out], Closed R p) (h : R s) :
    OutInv R (execTrdCompletionsPost s) := by
  unfold execTrdCompletionsPost
  try dsimp only
  repeat' (first | exact sub_inv (by decide) hc | with_reducible apply outInv_next | with_reducible exact outInv_fault _ | with_reducible apply outInv_ite | (intro _; try dsimp only) | with_reducible assumption | with_reducible apply inv_ite | with_reducible apply State.postBatch_inv | split)
  all_goals first | rfl | exact ⟨rfl, rfl, rfl⟩ | assumption

theorem execTrdBatchTimeout_inv (hc : ∀ p ∈ [Part.regs, .loom, .trd, .fine, .bank, .bankMem, .pcie, .tst, .out], Closed R p) (h : R s) :
    OutInv R (execTrdBatchTimeout s) := by
  unfold execTrdBatchTimeout
  try dsimp only
  repeat' (first | exact sub_inv (by decide) hc | with_reducible apply outInv_next | with_reducible exact outInv_fault _ | with_reducible apply outInv_ite | (intro _; try dsimp only) | with_reducible assumption | with_reducible apply inv_ite | with_reducible apply State.batchTimeout_inv | split)
  all_goals first | rfl | exact ⟨rfl, rfl, rfl⟩ | assumption

theorem execPwaitExpire_inv (hc : ∀ p ∈ [Part.regs, .trd, .fine, .bank, .bankMem, .pcie, .tst, .out], Closed R p) (h : R s) :
    OutInv R (execPwaitExpire s) := by
  unfold execPwaitExpire
  try dsimp only
  repeat' (first | exact sub_inv (by decide) hc | with_reducible apply outInv_next | with_reducible exact outInv_fault _ | with_reducible apply outInv_ite | (intro _; try dsimp only) | with_reducible assumption | with_reducible apply inv_ite | with_reducible apply State.failCmd_inv | split)
  all_goals first | rfl | exact ⟨rfl, rfl, rfl⟩ | assumption

theorem State.cmdCtrl_inv (fe : Bool) (v : Word) (hc : ∀ p ∈ [Part.regs, .loom, .trd, .fine, .bank, .bankMem, .pcie, .tst, .out], Closed R p) (h : R s) :
    R (s.cmdCtrl fe v) := by
  unfold State.cmdCtrl
  try dsimp only
  repeat' (first | exact sub_inv (by decide) hc | (intro _; try dsimp only) | with_reducible assumption | with_reducible apply inv_ite | with_reducible apply State.postFences_inv | with_reducible apply State.abortOpen_inv | with_reducible apply State.flushQ_inv | split)
  all_goals first | rfl | exact ⟨rfl, rfl, rfl⟩ | assumption

theorem execTrdAbortOpen_inv (m : Mid) (hc : ∀ p ∈ [Part.regs, .loom, .trd, .fine, .wvr, .bank, .bankMem, .pcie, .tst, .out, .resp], Closed R p) (h : R s) :
    OutInv R (execTrdAbortOpen m s) := by
  unfold execTrdAbortOpen
  try dsimp only
  repeat' (first | exact sub_inv (by decide) hc | with_reducible apply outInv_next | with_reducible exact outInv_fault _ | with_reducible apply outInv_ite | (intro _; try dsimp only) | with_reducible assumption | with_reducible apply inv_ite | with_reducible apply State.write4_inv | with_reducible apply State.cmdCtrl_inv | split)
  all_goals first | rfl | exact ⟨rfl, rfl, rfl⟩ | assumption

theorem execTrdFlushQ_inv (m : Mid) (hc : ∀ p ∈ [Part.regs, .loom, .trd, .fine, .wvr, .bank, .bankMem, .pcie, .tst, .out, .resp], Closed R p) (h : R s) :
    OutInv R (execTrdFlushQ m s) := by
  unfold execTrdFlushQ
  try dsimp only
  repeat' (first | exact sub_inv (by decide) hc | with_reducible apply outInv_next | with_reducible exact outInv_fault _ | with_reducible apply outInv_ite | (intro _; try dsimp only) | with_reducible assumption | with_reducible apply inv_ite | with_reducible apply State.write4_inv | with_reducible apply State.cmdCtrl_inv | split)
  all_goals first | rfl | exact ⟨rfl, rfl, rfl⟩ | assumption

end Sys2Proof.Machine
end

