-- ==== Sys2Proof/Laws/InvFineLoom.lean ====
section
/-! SUPPORT. What the operations of Machine/FineLoom.lean keep. -/
namespace Sys2Proof.Machine

variable {R : State → Prop} {s : State}

theorem State.fineCmd_inv (op : Nat) (w2 : QCmd → Nat) (run : State → FMaps → QCmd → RunRes FMaps) (hc : ∀ p ∈ [Part.regs, .trd, .fine, .bank, .bankMem, .pcie, .tst, .out], Closed R p) (h : R s) :
    R (s.fineCmd op w2 run) := by
  unfold State.fineCmd
  try dsimp only
  repeat' (first | exact sub_inv (by decide) hc | (intro _; try dsimp only) | with_reducible assumption | with_reducible apply inv_ite | with_reducible apply State.foreignClose_inv | with_reducible apply State.failCmd_inv | with_reducible apply State.postDone_inv | with_reducible apply State.popQ_inv | with_reducible apply State.joinBatch_inv | with_reducible apply State.modFe_inv | with_reducible apply State.modFine_inv | split)
  all_goals first | rfl | exact ⟨rfl, rfl, rfl⟩ | assumption

theorem State.fineFree_inv (op : Nat) (take : State → QCmd → State) (hc : ∀ p ∈ [Part.regs, .trd, .fine], Closed R p) (h : R s) (hf : ∀ y0 y1, R y0 → R (take y0 y1)) :
    R (s.fineFree op take) := by
  unfold State.fineFree
  try dsimp only
  repeat' (first | exact sub_inv (by decide) hc | (intro _; try dsimp only) | with_reducible assumption | with_reducible apply inv_ite | with_reducible apply hf | with_reducible apply State.foreignClose_inv | split)
  all_goals first | rfl | exact ⟨rfl, rfl, rfl⟩ | assumption

theorem execFineEnqueue_inv (m : Mid) (win : Fin 4) (v : Word) (hc : ∀ p ∈ [Part.regs, .trd, .fine, .wvr, .pcie, .tst, .out, .resp], Closed R p) (h : R s) :
    OutInv R (execFineEnqueue m win v s) := by
  unfold execFineEnqueue
  try dsimp only
  repeat' (first | exact sub_inv (by decide) hc | with_reducible apply outInv_next | with_reducible exact outInv_fault _ | with_reducible apply outInv_ite | (intro _; try dsimp only) | with_reducible assumption | with_reducible apply inv_ite | with_reducible apply State.write4_inv | with_reducible apply State.windowWrite_inv | split)
  all_goals first | rfl | exact ⟨rfl, rfl, rfl⟩ | assumption

theorem execTconnect_inv (hc : ∀ p ∈ [Part.regs, .trd, .fine, .bank, .bankMem, .pcie, .tst, .out], Closed R p) (h : R s) :
    OutInv R (execTconnect s) := by
  unfold execTconnect
  try dsimp only
  repeat' (first | exact sub_inv (by decide) hc | with_reducible apply outInv_next | with_reducible exact outInv_fault _ | with_reducible apply outInv_ite | (intro _; try dsimp only) | with_reducible assumption | with_reducible apply inv_ite | with_reducible apply State.fineCmd_inv | split)
  all_goals first | rfl | exact ⟨rfl, rfl, rfl⟩ | assumption

theorem execTdisconnect_inv (hc : ∀ p ∈ [Part.regs, .trd, .fine, .bank, .bankMem, .pcie, .tst, .out], Closed R p) (h : R s) :
    OutInv R (execTdisconnect s) := by
  unfold execTdisconnect
  try dsimp only
  repeat' (first | exact sub_inv (by decide) hc | with_reducible apply outInv_next | with_reducible exact outInv_fault _ | with_reducible apply outInv_ite | (intro _; try dsimp only) | with_reducible assumption | with_reducible apply inv_ite | with_reducible apply State.fineCmd_inv | split)
  all_goals first | rfl | exact ⟨rfl, rfl, rfl⟩ | assumption

theorem execTreconnect_inv (hc : ∀ p ∈ [Part.regs, .trd, .fine, .bank, .bankMem, .pcie, .tst, .out], Closed R p) (h : R s) :
    OutInv R (execTreconnect s) := by
  unfold execTreconnect
  try dsimp only
  repeat' (first | exact sub_inv (by decide) hc | with_reducible apply outInv_next | with_reducible exact outInv_fault _ | with_reducible apply outInv_ite | (intro _; try dsimp only) | with_reducible assumption | with_reducible apply inv_ite | with_reducible apply State.fineCmd_inv | split)
  all_goals first | rfl | exact ⟨rfl, rfl, rfl⟩ | assumption

theorem execTlock_inv (hc : ∀ p ∈ [Part.regs, .trd, .fine, .bank, .bankMem, .pcie, .tst, .out], Closed R p) (h : R s) :
    OutInv R (execTlock s) := by
  unfold execTlock
  try dsimp only
  repeat' (first | exact sub_inv (by decide) hc | with_reducible apply outInv_next | with_reducible exact outInv_fault _ | with_reducible apply outInv_ite | (intro _; try dsimp only) | with_reducible assumption | with_reducible apply inv_ite | with_reducible apply State.fineCmd_inv | split)
  all_goals first | rfl | exact ⟨rfl, rfl, rfl⟩ | assumption

theorem execTforceAis_inv (hc : ∀ p ∈ [Part.regs, .trd, .fine, .bank, .bankMem, .pcie, .tst, .out], Closed R p) (h : R s) :
    OutInv R (execTforceAis s) := by
  unfold execTforceAis
  try dsimp only
  repeat' (first | exact sub_inv (by decide) hc | with_reducible apply outInv_next | with_reducible exact outInv_fault _ | with_reducible apply outInv_ite | (intro _; try dsimp only) | with_reducible assumption | with_reducible apply inv_ite | with_reducible apply State.fineCmd_inv | split)
  all_goals first | rfl | exact ⟨rfl, rfl, rfl⟩ | assumption

theorem execTrelease_inv (hc : ∀ p ∈ [Part.regs, .trd, .fine, .bank, .bankMem, .pcie, .tst, .out], Closed R p) (h : R s) :
    OutInv R (execTrelease s) := by
  unfold execTrelease
  try dsimp only
  repeat' (first | exact sub_inv (by decide) hc | with_reducible apply outInv_next | with_reducible exact outInv_fault _ | with_reducible apply outInv_ite | (intro _; try dsimp only) | with_reducible assumption | with_reducible apply inv_ite | with_reducible apply State.fineCmd_inv | split)
  all_goals first | rfl | exact ⟨rfl, rfl, rfl⟩ | assumption

theorem execFineCommit_inv (hc : ∀ p ∈ [Part.regs, .trd, .fine, .bank, .bankMem, .pcie, .tst, .out], Closed R p) (h : R s) :
    OutInv R (execFineCommit s) := by
  unfold execFineCommit
  try dsimp only
  repeat' (first | exact sub_inv (by decide) hc | with_reducible apply outInv_next | with_reducible exact outInv_fault _ | with_reducible apply outInv_ite | (intro _; try dsimp only) | with_reducible assumption | with_reducible apply inv_ite | with_reducible apply State.fineFree_inv | with_reducible apply State.takeCommit_inv | split)
  all_goals first | rfl | exact ⟨rfl, rfl, rfl⟩ | assumption

theorem execFineAbort_inv (hc : ∀ p ∈ [Part.regs, .loom, .trd, .fine, .bank, .bankMem, .pcie, .tst, .out], Closed R p) (h : R s) :
    OutInv R (execFineAbort s) := by
  unfold execFineAbort
  try dsimp only
  repeat' (first | exact sub_inv (by decide) hc | with_reducible apply outInv_next | with_reducible exact outInv_fault _ | with_reducible apply outInv_ite | (intro _; try dsimp only) | with_reducible assumption | with_reducible apply inv_ite | with_reducible apply State.fineFree_inv | with_reducible apply State.takeAbort_inv | split)
  all_goals first | rfl | exact ⟨rfl, rfl, rfl⟩ | assumption

theorem execTretagIn_inv (hc : ∀ p ∈ [Part.regs, .trd, .fine, .bank, .bankMem, .pcie, .tst, .out], Closed R p) (h : R s) :
    OutInv R (execTretagIn s) := by
  unfold execTretagIn
  try dsimp only
  repeat' (first | exact sub_inv (by decide) hc | with_reducible apply outInv_next | with_reducible exact outInv_fault _ | with_reducible apply outInv_ite | (intro _; try dsimp only) | with_reducible assumption | with_reducible apply inv_ite | with_reducible apply State.fineCmd_inv | split)
  all_goals first | rfl | exact ⟨rfl, rfl, rfl⟩ | assumption

theorem execTretagOut_inv (hc : ∀ p ∈ [Part.regs, .trd, .fine, .bank, .bankMem, .pcie, .tst, .out], Closed R p) (h : R s) :
    OutInv R (execTretagOut s) := by
  unfold execTretagOut
  try dsimp only
  repeat' (first | exact sub_inv (by decide) hc | with_reducible apply outInv_next | with_reducible exact outInv_fault _ | with_reducible apply outInv_ite | (intro _; try dsimp only) | with_reducible assumption | with_reducible apply inv_ite | with_reducible apply State.fineCmd_inv | split)
  all_goals first | rfl | exact ⟨rfl, rfl, rfl⟩ | assumption

theorem State.doTquery_inv (c : QCmd) (hc : ∀ p ∈ [Part.regs, .trd, .fine, .bank, .bankMem, .pcie, .tst, .out], Closed R p) (h : R s) :
    R (s.doTquery c) := by
  unfold State.doTquery
  try dsimp only
  repeat' (first | exact sub_inv (by decide) hc | (intro _; try dsimp only) | with_reducible assumption | with_reducible apply inv_ite | with_reducible apply State.failCmd_inv | with_reducible apply State.popQ_inv | with_reducible apply State.cmtClose_inv | with_reducible apply State.postDone_inv | split)
  all_goals first | rfl | exact ⟨rfl, rfl, rfl⟩ | assumption

theorem execTquery_inv (hc : ∀ p ∈ [Part.regs, .trd, .fine, .bank, .bankMem, .pcie, .tst, .out], Closed R p) (h : R s) :
    OutInv R (execTquery s) := by
  unfold execTquery
  try dsimp only
  repeat' (first | exact sub_inv (by decide) hc | with_reducible apply outInv_next | with_reducible exact outInv_fault _ | with_reducible apply outInv_ite | (intro _; try dsimp only) | with_reducible assumption | with_reducible apply inv_ite | with_reducible apply State.fineFree_inv | with_reducible apply State.doTquery_inv | split)
  all_goals first | rfl | exact ⟨rfl, rfl, rfl⟩ | assumption

theorem execFineFence_inv (hc : ∀ p ∈ [Part.regs, .trd, .fine, .bank, .bankMem, .pcie, .tst, .out], Closed R p) (h : R s) :
    OutInv R (execFineFence s) := by
  unfold execFineFence
  try dsimp only
  repeat' (first | exact sub_inv (by decide) hc | with_reducible apply outInv_next | with_reducible exact outInv_fault _ | with_reducible apply outInv_ite | (intro _; try dsimp only) | with_reducible assumption | with_reducible apply inv_ite | with_reducible apply State.fineFree_inv | with_reducible apply State.takeFence_inv | split)
  all_goals first | rfl | exact ⟨rfl, rfl, rfl⟩ | assumption

theorem execFineFenceDone_inv (hc : ∀ p ∈ [Part.regs, .trd, .fine, .bank, .bankMem, .pcie, .tst, .out], Closed R p) (h : R s) :
    OutInv R (execFineFenceDone s) := by
  unfold execFineFenceDone
  try dsimp only
  repeat' (first | exact sub_inv (by decide) hc | with_reducible apply outInv_next | with_reducible exact outInv_fault _ | with_reducible apply outInv_ite | (intro _; try dsimp only) | with_reducible assumption | with_reducible apply inv_ite | with_reducible apply State.postFences_inv | split)
  all_goals first | rfl | exact ⟨rfl, rfl, rfl⟩ | assumption

theorem execFineBadOpcode_inv (hc : ∀ p ∈ [Part.regs, .trd, .fine, .bank, .bankMem, .pcie, .tst, .out], Closed R p) (h : R s) :
    OutInv R (execFineBadOpcode s) := by
  unfold execFineBadOpcode
  try dsimp only
  repeat' (first | exact sub_inv (by decide) hc | with_reducible apply outInv_next | with_reducible exact outInv_fault _ | with_reducible apply outInv_ite | (intro _; try dsimp only) | with_reducible assumption | with_reducible apply inv_ite | with_reducible apply State.fineCmd_inv | split)
  all_goals first | rfl | exact ⟨rfl, rfl, rfl⟩ | assumption

theorem State.fineCommit_inv (hc : ∀ p ∈ [Part.regs, .trd, .fine, .bank, .bankMem, .pcie, .tst, .out, .free], Closed R p) (h : R s) :
    R (s.fineCommit) := by
  unfold State.fineCommit
  try dsimp only
  repeat' (first | exact sub_inv (by decide) hc | (intro _; try dsimp only) | with_reducible assumption | with_reducible apply inv_ite | with_reducible apply State.clearOnce_inv | with_reducible apply State.engCommit_inv | with_reducible apply State.modFine_inv | split)
  all_goals first | rfl | exact ⟨rfl, rfl, rfl⟩ | assumption

theorem execFineLoomCommit_inv (hc : ∀ p ∈ [Part.regs, .trd, .fine, .bank, .bankMem, .pcie, .tst, .out, .free], Closed R p) (h : R s) :
    OutInv R (execFineLoomCommit s) := by
  unfold execFineLoomCommit
  try dsimp only
  repeat' (first | exact sub_inv (by decide) hc | with_reducible apply outInv_next | with_reducible exact outInv_fault _ | with_reducible apply outInv_ite | (intro _; try dsimp only) | with_reducible assumption | with_reducible apply inv_ite | with_reducible apply State.when_inv | with_reducible apply State.fineCommit_inv | split)
  all_goals first | rfl | exact ⟨rfl, rfl, rfl⟩ | assumption

theorem State.finePost_inv (hc : ∀ p ∈ [Part.regs, .trd, .fine, .bank, .bankMem, .pcie, .tst, .out], Closed R p) (h : R s) :
    R (s.finePost) := by
  unfold State.finePost
  try dsimp only
  repeat' (first | exact sub_inv (by decide) hc | (intro _; try dsimp only) | with_reducible assumption | with_reducible apply inv_ite | with_reducible apply State.modFe_inv | with_reducible apply State.postBatch_inv | with_reducible apply State.modFine_inv | split)
  all_goals first | rfl | exact ⟨rfl, rfl, rfl⟩ | assumption

theorem execFineCompletionsPost_inv (hc : ∀ p ∈ [Part.regs, .trd, .fine, .bank, .bankMem, .pcie, .tst, .out], Closed R p) (h : R s) :
    OutInv R (execFineCompletionsPost s) := by
  unfold execFineCompletionsPost
  try dsimp only
  repeat' (first | exact sub_inv (by decide) hc | with_reducible apply outInv_next | with_reducible exact outInv_fault _ | with_reducible apply outInv_ite | (intro _; try dsimp only) | with_reducible assumption | with_reducible apply inv_ite | with_reducible apply State.finePost_inv | split)
  all_goals first | rfl | exact ⟨rfl, rfl, rfl⟩ | assumption

theorem execFineBatchTimeout_inv (hc : ∀ p ∈ [Part.regs, .loom, .trd, .fine, .bank, .bankMem, .pcie, .tst, .out], Closed R p) (h : R s) :
    OutInv R (execFineBatchTimeout s) := by
  unfold execFineBatchTimeout
  try dsimp only
  repeat' (first | exact sub_inv (by decide) hc | with_reducible apply outInv_next | with_reducible exact outInv_fault _ | with_reducible apply outInv_ite | (intro _; try dsimp only) | with_reducible assumption | with_reducible apply inv_ite | with_reducible apply State.batchTimeout_inv | split)
  all_goals first | rfl | exact ⟨rfl, rfl, rfl⟩ | assumption

theorem execFineAbortOpen_inv (m : Mid) (hc : ∀ p ∈ [Part.regs, .loom, .trd, .fine, .wvr, .bank, .bankMem, .pcie, .tst, .out, .resp], Closed R p) (h : R s) :
    OutInv R (execFineAbortOpen m s) := by
  unfold execFineAbortOpen
  try dsimp only
  repeat' (first | exact sub_inv (by decide) hc | with_reducible apply outInv_next | with_reducible exact outInv_fault _ | with_reducible apply outInv_ite | (intro _; try dsimp only) | with_reducible assumption | with_reducible apply inv_ite | with_reducible apply State.write4_inv | with_reducible apply State.cmdCtrl_inv | split)
  all_goals first | rfl | exact ⟨rfl, rfl, rfl⟩ | assumption

theorem execFineFlushQ_inv (m : Mid) (hc : ∀ p ∈ [Part.regs, .loom, .trd, .fine, .wvr, .bank, .bankMem, .pcie, .tst, .out, .resp], Closed R p) (h : R s) :
    OutInv R (execFineFlushQ m s) := by
  unfold execFineFlushQ
  try dsimp only
  repeat' (first | exact sub_inv (by decide) hc | with_reducible apply outInv_next | with_reducible exact outInv_fault _ | with_reducible apply outInv_ite | (intro _; try dsimp only) | with_reducible assumption | with_reducible apply inv_ite | with_reducible apply State.write4_inv | with_reducible apply State.cmdCtrl_inv | split)
  all_goals first | rfl | exact ⟨rfl, rfl, rfl⟩ | assumption

theorem State.asgWrite_inv (f : Nat) (v : Word) (hc : ∀ p ∈ [Part.regs], Closed R p) (h : R s) :
    R (s.asgWrite f v) := by
  unfold State.asgWrite
  try dsimp only
  repeat' (first | exact sub_inv (by decide) hc | (intro _; try dsimp only) | with_reducible assumption | with_reducible apply inv_ite | with_reducible apply State.setReg_inv | split)
  all_goals first | rfl | exact ⟨rfl, rfl, rfl⟩ | assumption

theorem execFineAsgWrite_inv (m : Mid) (f : Fin 1280) (v : Word) (hc : ∀ p ∈ [Part.regs, .wvr, .pcie, .tst, .out, .resp], Closed R p) (h : R s) :
    OutInv R (execFineAsgWrite m f v s) := by
  unfold execFineAsgWrite
  try dsimp only
  repeat' (first | exact sub_inv (by decide) hc | with_reducible apply outInv_next | with_reducible exact outInv_fault _ | with_reducible apply outInv_ite | (intro _; try dsimp only) | with_reducible assumption | with_reducible apply inv_ite | with_reducible apply State.write4_inv | with_reducible apply State.asgWrite_inv | split)
  all_goals first | rfl | exact ⟨rfl, rfl, rfl⟩ | assumption

theorem State.fineRead_inv (hc : ∀ p ∈ [Part.regs], Closed R p) (h : R s) :
    R (s.fineRead) := by
  unfold State.fineRead
  try dsimp only
  repeat' (first | exact sub_inv (by decide) hc | (intro _; try dsimp only) | with_reducible assumption | with_reducible apply inv_ite | with_reducible apply State.setRf_inv | split)
  all_goals first | rfl | exact ⟨rfl, rfl, rfl⟩ | assumption

theorem State.fineReadDone_inv (hc : ∀ p ∈ [Part.regs], Closed R p) (h : R s) :
    R (s.fineReadDone) := by
  unfold State.fineReadDone
  try dsimp only
  repeat' (first | exact sub_inv (by decide) hc | (intro _; try dsimp only) | with_reducible assumption | with_reducible apply inv_ite | with_reducible apply State.setReg_inv | split)
  all_goals first | rfl | exact ⟨rfl, rfl, rfl⟩ | assumption

theorem execFineMapRead_inv (m : Mid) (hc : ∀ p ∈ [Part.regs, .wvr, .pcie, .tst, .out, .resp], Closed R p) (h : R s) :
    OutInv R (execFineMapRead m s) := by
  unfold execFineMapRead
  try dsimp only
  repeat' (first | exact sub_inv (by decide) hc | with_reducible apply outInv_next | with_reducible exact outInv_fault _ | with_reducible apply outInv_ite | (intro _; try dsimp only) | with_reducible assumption | with_reducible apply inv_ite | with_reducible apply State.write4_inv | with_reducible apply State.fineRead_inv | split)
  all_goals first | rfl | exact ⟨rfl, rfl, rfl⟩ | assumption

theorem execFineMapReadDone_inv (hc : ∀ p ∈ [Part.regs], Closed R p) (h : R s) :
    OutInv R (execFineMapReadDone s) := by
  unfold execFineMapReadDone
  try dsimp only
  repeat' (first | exact sub_inv (by decide) hc | with_reducible apply outInv_next | with_reducible exact outInv_fault _ | with_reducible apply outInv_ite | (intro _; try dsimp only) | with_reducible assumption | with_reducible apply inv_ite | with_reducible apply State.when_inv | with_reducible apply State.fineReadDone_inv | split)
  all_goals first | rfl | exact ⟨rfl, rfl, rfl⟩ | assumption

theorem State.threadRead_inv (t : Nat) (round : Nat) (sbe : Nat) (hc : ∀ p ∈ [Part.regs, .fine, .ten, .tly, .pcie, .out], Closed R p) (h : R s) :
    R (s.threadRead t round sbe) := by
  unfold State.threadRead
  try dsimp only
  repeat' (first | exact sub_inv (by decide) hc | (intro _; try dsimp only) | with_reducible assumption | with_reducible apply inv_ite | with_reducible apply State.incReg_inv | with_reducible apply State.count_inv | with_reducible apply State.irq_inv | with_reducible apply State.setReg_inv | with_reducible apply State.noteTen_inv | with_reducible apply State.modFine_inv | split)
  all_goals first | rfl | exact ⟨rfl, rfl, rfl⟩ | assumption

theorem execFineEccUncorrectable_inv (e : FineRef) (hc : ∀ p ∈ [Part.regs, .fine, .pcie, .out], Closed R p) (h : R s) :
    OutInv R (execFineEccUncorrectable e s) := by
  unfold execFineEccUncorrectable
  try dsimp only
  repeat' (first | exact sub_inv (by decide) hc | with_reducible apply outInv_next | with_reducible exact outInv_fault _ | with_reducible apply outInv_ite | (intro _; try dsimp only) | with_reducible assumption | with_reducible apply inv_ite | with_reducible apply State.irq_inv | with_reducible apply State.incReg_inv | with_reducible apply State.modFine_inv | split)
  all_goals first | rfl | exact ⟨rfl, rfl, rfl⟩ | assumption

theorem execFineEntryReload_inv (e : FineRef) (copyUnc : Bool) (hc : ∀ p ∈ [Part.fine], Closed R p) (h : R s) :
    OutInv R (execFineEntryReload e copyUnc s) := by
  unfold execFineEntryReload
  try dsimp only
  repeat' (first | exact sub_inv (by decide) hc | with_reducible apply outInv_next | with_reducible exact outInv_fault _ | with_reducible apply outInv_ite | (intro _; try dsimp only) | with_reducible assumption | with_reducible apply inv_ite | with_reducible apply State.modFine_inv | split)
  all_goals first | rfl | exact ⟨rfl, rfl, rfl⟩ | assumption

end Sys2Proof.Machine
end

