-- ==== Sys2Proof/Laws/InvDomain.lean ====
section
/-! SUPPORT. What the operations of Machine/Domain.lean keep. -/
namespace Sys2Proof.Machine

variable {R : State → Prop} {s : State}

theorem State.noteDom_inv (hc : ∀ p ∈ [Part.regs, .pcie, .pwr, .out], Closed R p) (h : R s) :
    R (s.noteDom) := by
  unfold State.noteDom
  try dsimp only
  repeat' (first | exact sub_inv (by decide) hc | (intro _; try dsimp only) | with_reducible assumption | with_reducible apply inv_ite | with_reducible apply State.irq_inv | with_reducible apply State.modPwr_inv | split)
  all_goals first | rfl | exact ⟨rfl, rfl, rfl⟩ | assumption

end Sys2Proof.Machine
end

