-- ==== Sys2Proof/Laws/InvLane.lean ====
section
/-! SUPPORT. What the operations of Machine/Lane.lean keep. -/
namespace Sys2Proof.Machine

variable {R : State → Prop} {s : State}

theorem State.oofIrq_inv (l : Nat) (hc : ∀ p ∈ [Part.regs, .ten, .pcie, .out], Closed R p) (h : R s) :
    R (s.oofIrq l) := by
  unfold State.oofIrq
  try dsimp only
  repeat' (first | exact sub_inv (by decide) hc | (intro _; try dsimp only) | with_reducible assumption | with_reducible apply inv_ite | with_reducible apply State.noteTen_inv | with_reducible apply State.irq_inv | split)
  all_goals first | rfl | exact ⟨rfl, rfl, rfl⟩ | assumption

theorem State.modSkeins_inv (q : Nat → Bool) (f : SkRx → SkRx) (hc : ∀ p ∈ [Part.skrx], Closed R p) (h : R s) : R (s.modSkeins q f) :=
  hc .skrx (by decide) s _ h

theorem State.toHunt_inv (l : Nat) (faws : Bool) (openMsg : Bool) (hc : ∀ p ∈ [Part.regs, .lanes, .skrx, .ten, .tly, .pcie, .out], Closed R p) (h : R s) :
    R (s.toHunt l faws openMsg) := by
  unfold State.toHunt
  try dsimp only
  repeat' (first | exact sub_inv (by decide) hc | (intro _; try dsimp only) | with_reducible assumption | with_reducible apply inv_ite | with_reducible apply State.modSkeins_inv | with_reducible apply State.modLane_inv | with_reducible apply State.count_inv | with_reducible apply State.oofIrq_inv | split)
  all_goals first | rfl | exact ⟨rfl, rfl, rfl⟩ | assumption

theorem State.toSync_inv (l : Nat) (bolt : Word) (hc : ∀ p ∈ [Part.regs, .lanes, .ten, .pcie, .out], Closed R p) (h : R s) :
    R (s.toSync l bolt) := by
  unfold State.toSync
  try dsimp only
  repeat' (first | exact sub_inv (by decide) hc | (intro _; try dsimp only) | with_reducible assumption | with_reducible apply inv_ite | with_reducible apply State.setReg_inv | with_reducible apply State.modLane_inv | with_reducible apply State.oofIrq_inv | split)
  all_goals first | rfl | exact ⟨rfl, rfl, rfl⟩ | assumption

theorem State.onLane_inv (l : Nat) (f : State → State) (h : R s) (hf : ∀ y0, R y0 → R (f y0)) :
    R (s.onLane l f) := by
  unfold State.onLane
  try dsimp only
  repeat' (first | exact sub_inv (by decide) hc | (intro _; try dsimp only) | with_reducible assumption | with_reducible apply inv_ite | with_reducible apply hf | split)
  all_goals first | rfl | exact ⟨rfl, rfl, rfl⟩ | assumption

theorem State.onLine_inv (l : Nat) (f : State → State) (h : R s) (hf : ∀ y0, R y0 → R (f y0)) :
    R (s.onLine l f) := by
  unfold State.onLine
  try dsimp only
  repeat' (first | exact sub_inv (by decide) hc | (intro _; try dsimp only) | with_reducible assumption | with_reducible apply inv_ite | with_reducible apply hf | split)
  all_goals first | rfl | exact ⟨rfl, rfl, rfl⟩ | assumption

theorem State.lineState_inv (l : Nat) (f : Lane → Lane) (more : State → State) (hc : ∀ p ∈ [Part.lanes], Closed R p) (h : R s) (hf : ∀ y0, R y0 → R (more y0)) :
    R (s.lineState l f more) := by
  unfold State.lineState
  try dsimp only
  repeat' (first | exact sub_inv (by decide) hc | (intro _; try dsimp only) | with_reducible assumption | with_reducible apply inv_ite | with_reducible apply hf | with_reducible apply State.onLane_inv | with_reducible apply State.onLine_inv | with_reducible apply State.modLane_inv | split)
  all_goals first | rfl | exact ⟨rfl, rfl, rfl⟩ | assumption

theorem execSignalDetectLost_inv (l : Fin 512) (openMsg : Bool) (hc : ∀ p ∈ [Part.regs, .lanes, .skrx, .ten, .tly, .pcie, .out], Closed R p) (h : R s) :
    OutInv R (execSignalDetectLost l openMsg s) := by
  unfold execSignalDetectLost
  try dsimp only
  repeat' (first | exact sub_inv (by decide) hc | with_reducible apply outInv_next | with_reducible exact outInv_fault _ | with_reducible apply outInv_ite | (intro _; try dsimp only) | with_reducible assumption | with_reducible apply inv_ite | with_reducible apply State.lineState_inv | with_reducible apply State.toHunt_inv | with_reducible apply State.modLane_inv | split)
  all_goals first | rfl | exact ⟨rfl, rfl, rfl⟩ | assumption

theorem execSignalDetectRestored_inv (l : Fin 512) (hc : ∀ p ∈ [Part.lanes], Closed R p) (h : R s) :
    OutInv R (execSignalDetectRestored l s) := by
  unfold execSignalDetectRestored
  try dsimp only
  repeat' (first | exact sub_inv (by decide) hc | with_reducible apply outInv_next | with_reducible exact outInv_fault _ | with_reducible apply outInv_ite | (intro _; try dsimp only) | with_reducible assumption | with_reducible apply inv_ite | with_reducible apply State.lineState_inv | split)
  all_goals first | rfl | exact ⟨rfl, rfl, rfl⟩ | assumption

theorem execClockRecoveryLost_inv (l : Fin 512) (openMsg : Bool) (hc : ∀ p ∈ [Part.regs, .lanes, .skrx, .ten, .tly, .pcie, .out], Closed R p) (h : R s) :
    OutInv R (execClockRecoveryLost l openMsg s) := by
  unfold execClockRecoveryLost
  try dsimp only
  repeat' (first | exact sub_inv (by decide) hc | with_reducible apply outInv_next | with_reducible exact outInv_fault _ | with_reducible apply outInv_ite | (intro _; try dsimp only) | with_reducible assumption | with_reducible apply inv_ite | with_reducible apply State.lineState_inv | with_reducible apply State.toHunt_inv | with_reducible apply State.modLane_inv | split)
  all_goals first | rfl | exact ⟨rfl, rfl, rfl⟩ | assumption

theorem execClockRecoveryLocked_inv (l : Fin 512) (hc : ∀ p ∈ [Part.lanes], Closed R p) (h : R s) :
    OutInv R (execClockRecoveryLocked l s) := by
  unfold execClockRecoveryLocked
  try dsimp only
  repeat' (first | exact sub_inv (by decide) hc | with_reducible apply outInv_next | with_reducible exact outInv_fault _ | with_reducible apply outInv_ite | (intro _; try dsimp only) | with_reducible assumption | with_reducible apply inv_ite | with_reducible apply State.lineState_inv | split)
  all_goals first | rfl | exact ⟨rfl, rfl, rfl⟩ | assumption

theorem execCodewordLockAcquired_inv (l : Fin 512) (hc : ∀ p ∈ [Part.lanes], Closed R p) (h : R s) :
    OutInv R (execCodewordLockAcquired l s) := by
  unfold execCodewordLockAcquired
  try dsimp only
  repeat' (first | exact sub_inv (by decide) hc | with_reducible apply outInv_next | with_reducible exact outInv_fault _ | with_reducible apply outInv_ite | (intro _; try dsimp only) | with_reducible assumption | with_reducible apply inv_ite | with_reducible apply State.lineState_inv | split)
  all_goals first | rfl | exact ⟨rfl, rfl, rfl⟩ | assumption

theorem execCodewordLockLost_inv (l : Fin 512) (openMsg : Bool) (hc : ∀ p ∈ [Part.regs, .lanes, .skrx, .ten, .tly, .pcie, .out], Closed R p) (h : R s) :
    OutInv R (execCodewordLockLost l openMsg s) := by
  unfold execCodewordLockLost
  try dsimp only
  repeat' (first | exact sub_inv (by decide) hc | with_reducible apply outInv_next | with_reducible exact outInv_fault _ | with_reducible apply outInv_ite | (intro _; try dsimp only) | with_reducible assumption | with_reducible apply inv_ite | with_reducible apply State.lineState_inv | with_reducible apply State.toHunt_inv | with_reducible apply State.modLane_inv | split)
  all_goals first | rfl | exact ⟨rfl, rfl, rfl⟩ | assumption

theorem State.fawMatch_inv (l : Nat) (bolt : Word) (hc : ∀ p ∈ [Part.regs, .lanes, .ten, .pcie, .out], Closed R p) (h : R s) :
    R (s.fawMatch l bolt) := by
  unfold State.fawMatch
  try dsimp only
  repeat' (first | exact sub_inv (by decide) hc | (intro _; try dsimp only) | with_reducible assumption | with_reducible apply inv_ite | with_reducible apply State.toSync_inv | with_reducible apply State.modLane_inv | split)
  all_goals first | rfl | exact ⟨rfl, rfl, rfl⟩ | assumption

theorem State.fawSeen_inv (l : Nat) (ok : Bool) (hc : ∀ p ∈ [Part.lanes], Closed R p) (h : R s) :
    R (s.fawSeen l ok) := by
  unfold State.fawSeen
  try dsimp only
  repeat' (first | exact sub_inv (by decide) hc | (intro _; try dsimp only) | with_reducible assumption | with_reducible apply inv_ite | with_reducible apply State.modLane_inv | split)
  all_goals first | rfl | exact ⟨rfl, rfl, rfl⟩ | assumption

theorem State.framerDue_inv (l : Nat) (bolt : Word) (hc : ∀ p ∈ [Part.regs, .lanes, .skrx, .ten, .tly, .pcie, .out], Closed R p) (h : R s) :
    R (s.framerDue l bolt) := by
  unfold State.framerDue
  try dsimp only
  repeat' (first | exact sub_inv (by decide) hc | (intro _; try dsimp only) | with_reducible assumption | with_reducible apply inv_ite | with_reducible apply State.toHunt_inv | with_reducible apply State.toSync_inv | split)
  all_goals first | rfl | exact ⟨rfl, rfl, rfl⟩ | assumption

theorem execFawHuntMatch_inv (l : Fin 512) (w : BitVec 64) (bolt : Word) (hc : ∀ p ∈ [Part.regs, .lanes, .ten, .pcie, .out], Closed R p) (h : R s) :
    OutInv R (execFawHuntMatch l w bolt s) := by
  unfold execFawHuntMatch
  try dsimp only
  repeat' (first | exact sub_inv (by decide) hc | with_reducible apply outInv_next | with_reducible exact outInv_fault _ | with_reducible apply outInv_ite | (intro _; try dsimp only) | with_reducible assumption | with_reducible apply inv_ite | with_reducible apply State.onLine_inv | with_reducible apply State.fawMatch_inv | split)
  all_goals first | rfl | exact ⟨rfl, rfl, rfl⟩ | assumption

theorem execFawExpected_inv (l : Fin 512) (w : BitVec 64) (hc : ∀ p ∈ [Part.regs, .lanes, .skrx, .ten, .tly, .pcie, .out], Closed R p) (h : R s) :
    OutInv R (execFawExpected l w s) := by
  unfold execFawExpected
  try dsimp only
  repeat' (first | exact sub_inv (by decide) hc | with_reducible apply outInv_next | with_reducible exact outInv_fault _ | with_reducible apply outInv_ite | (intro _; try dsimp only) | with_reducible assumption | with_reducible apply inv_ite | with_reducible apply State.onLine_inv | with_reducible apply State.fawSeen_inv | with_reducible apply State.framerDue_inv | split)
  all_goals first | rfl | exact ⟨rfl, rfl, rfl⟩ | assumption

theorem execFramerSync_inv (l : Fin 512) (bolt : Word) (hc : ∀ p ∈ [Part.regs, .lanes, .ten, .pcie, .out], Closed R p) (h : R s) :
    OutInv R (execFramerSync l bolt s) := by
  unfold execFramerSync
  try dsimp only
  repeat' (first | exact sub_inv (by decide) hc | with_reducible apply outInv_next | with_reducible exact outInv_fault _ | with_reducible apply outInv_ite | (intro _; try dsimp only) | with_reducible assumption | with_reducible apply inv_ite | with_reducible apply State.onLane_inv | with_reducible apply State.toSync_inv | split)
  all_goals first | rfl | exact ⟨rfl, rfl, rfl⟩ | assumption

theorem execFramerOutOfSync_inv (l : Fin 512) (openMsg : Bool) (hc : ∀ p ∈ [Part.regs, .lanes, .skrx, .ten, .tly, .pcie, .out], Closed R p) (h : R s) :
    OutInv R (execFramerOutOfSync l openMsg s) := by
  unfold execFramerOutOfSync
  try dsimp only
  repeat' (first | exact sub_inv (by decide) hc | with_reducible apply outInv_next | with_reducible exact outInv_fault _ | with_reducible apply outInv_ite | (intro _; try dsimp only) | with_reducible assumption | with_reducible apply inv_ite | with_reducible apply State.onLane_inv | with_reducible apply State.toHunt_inv | split)
  all_goals first | rfl | exact ⟨rfl, rfl, rfl⟩ | assumption

theorem State.putTti_inv (l : Nat) (b : List Byte) (hc : ∀ p ∈ [Part.regs], Closed R p) (h : R s) :
    R (s.putTti l b) := by
  unfold State.putTti
  try dsimp only
  repeat' (first | exact sub_inv (by decide) hc | (intro _; try dsimp only) | with_reducible assumption | with_reducible apply inv_ite | with_reducible apply seqAll_inv | with_reducible apply State.setReg_inv | split)
  all_goals first | rfl | exact ⟨rfl, rfl, rfl⟩ | assumption

theorem State.ttiRx_inv (l : Nat) (b : Nat) (t : List Byte) (hc : ∀ p ∈ [Part.regs, .lanes], Closed R p) (h : R s) :
    R (s.ttiRx l b t) := by
  unfold State.ttiRx
  try dsimp only
  repeat' (first | exact sub_inv (by decide) hc | (intro _; try dsimp only) | with_reducible assumption | with_reducible apply inv_ite | with_reducible apply State.modLane_inv | with_reducible apply State.putTti_inv | split)
  all_goals first | rfl | exact ⟨rfl, rfl, rfl⟩ | assumption

theorem State.lrQl_inv (l : Nat) (q : Nat) (hc : ∀ p ∈ [Part.beat], Closed R p) (h : R s) :
    R (s.lrQl l q) := by
  unfold State.lrQl
  try dsimp only
  repeat' (first | exact sub_inv (by decide) hc | (intro _; try dsimp only) | with_reducible assumption | with_reducible apply inv_ite | with_reducible apply seqAll_inv | with_reducible apply State.modCand_inv | split)
  all_goals first | rfl | exact ⟨rfl, rfl, rfl⟩ | assumption

theorem State.laneHdr_inv (l : Nat) (hdr : List Byte) (bip : Word) (hc : ∀ p ∈ [Part.regs, .lanes, .beat, .tly], Closed R p) (h : R s) :
    R (s.laneHdr l hdr bip) := by
  unfold State.laneHdr
  try dsimp only
  repeat' (first | exact sub_inv (by decide) hc | (intro _; try dsimp only) | with_reducible assumption | with_reducible apply inv_ite | with_reducible apply State.modLane_inv | with_reducible apply State.setReg_inv | with_reducible apply State.lrQl_inv | with_reducible apply State.ttiRx_inv | with_reducible apply State.count_inv | with_reducible apply State.incReg_inv | split)
  all_goals first | rfl | exact ⟨rfl, rfl, rfl⟩ | assumption

theorem State.loopPut_inv (l : Nat) (pos : Nat) (o : Output) (late : Bool) (hc : ∀ p ∈ [Part.lanes], Closed R p) (h : R s) :
    R (s.loopPut l pos o late) := by
  unfold State.loopPut
  try dsimp only
  repeat' (first | exact sub_inv (by decide) hc | (intro _; try dsimp only) | with_reducible assumption | with_reducible apply inv_ite | with_reducible apply State.when_inv | with_reducible apply State.modLane_inv | split)
  all_goals first | rfl | exact ⟨rfl, rfl, rfl⟩ | assumption

theorem State.loopLane_inv (l : Nat) (hdr : List Byte) (sync : Bool) (hc : ∀ p ∈ [Part.lanes], Closed R p) (h : R s) :
    R (s.loopLane l hdr sync) := by
  unfold State.loopLane
  try dsimp only
  repeat' (first | exact sub_inv (by decide) hc | (intro _; try dsimp only) | with_reducible assumption | with_reducible apply inv_ite | with_reducible apply State.modLane_inv | with_reducible apply State.loopPut_inv | split)
  all_goals first | rfl | exact ⟨rfl, rfl, rfl⟩ | assumption

theorem execLaneHeaderRx_inv (l : Fin 512) (line : List Byte) (bip : Word) (hc : ∀ p ∈ [Part.regs, .lanes, .beat, .tly], Closed R p) (h : R s) :
    OutInv R (execLaneHeaderRx l line bip s) := by
  unfold execLaneHeaderRx
  try dsimp only
  repeat' (first | exact sub_inv (by decide) hc | with_reducible apply outInv_next | with_reducible exact outInv_fault _ | with_reducible apply outInv_ite | (intro _; try dsimp only) | with_reducible assumption | with_reducible apply inv_ite | with_reducible apply State.onLine_inv | with_reducible apply State.loopLane_inv | with_reducible apply State.when_inv | with_reducible apply State.laneHdr_inv | split)
  all_goals first | rfl | exact ⟨rfl, rfl, rfl⟩ | assumption

theorem State.capture_inv (k : Nat) (why : Nat) (origin : Nat) (seq : Nat) (trail : Nat) (c : Option Word) (cmp : Option Bool) (hc : ∀ p ∈ [Part.regs], Closed R p) (h : R s) :
    R (s.capture k why origin seq trail c cmp) := by
  unfold State.capture
  try dsimp only
  repeat' (first | exact sub_inv (by decide) hc | (intro _; try dsimp only) | with_reducible assumption | with_reducible apply inv_ite | with_reducible apply seqAll_inv | with_reducible apply State.setReg_inv | split)
  all_goals first | rfl | exact ⟨rfl, rfl, rfl⟩ | assumption

theorem State.skStep_inv (k : Nat) (d : Nat) (raw : Option Bool) (hc : ∀ p ∈ [Part.integ], Closed R p) (h : R s) :
    R (s.skStep k d raw) := by
  unfold State.skStep
  try dsimp only
  repeat' (first | exact sub_inv (by decide) hc | (intro _; try dsimp only) | with_reducible assumption | with_reducible apply inv_ite | with_reducible apply State.modInteg_inv | split)
  all_goals first | rfl | exact ⟨rfl, rfl, rfl⟩ | assumption

theorem State.trailEval_inv (k : Nat) (r : SkRx) (why : Nat) (origin : Nat) (seq : Nat) (trail : Nat) (hc : ∀ p ∈ [Part.regs, .integ, .tly], Closed R p) (h : R s) :
    R (s.trailEval k r why origin seq trail) := by
  unfold State.trailEval
  try dsimp only
  repeat' (first | exact sub_inv (by decide) hc | (intro _; try dsimp only) | with_reducible assumption | with_reducible apply inv_ite | with_reducible apply State.skStep_inv | with_reducible apply State.count_inv | with_reducible apply State.capture_inv | split)
  all_goals first | rfl | exact ⟨rfl, rfl, rfl⟩ | assumption

theorem State.trailGiveUp_inv (k : Nat) (hc : ∀ p ∈ [Part.regs, .integ, .skrx, .tly], Closed R p) (h : R s) :
    R (s.trailGiveUp k) := by
  unfold State.trailGiveUp
  try dsimp only
  repeat' (first | exact sub_inv (by decide) hc | (intro _; try dsimp only) | with_reducible assumption | with_reducible apply inv_ite | with_reducible apply State.modRx_inv | with_reducible apply State.trailEval_inv | split)
  all_goals first | rfl | exact ⟨rfl, rfl, rfl⟩ | assumption

theorem State.hdrDefects_inv (k : Nat) (fl : BitVec 3) (origin : Nat) (hc : ∀ p ∈ [Part.integ, .tly], Closed R p) (h : R s) :
    R (s.hdrDefects k fl origin) := by
  unfold State.hdrDefects
  try dsimp only
  repeat' (first | exact sub_inv (by decide) hc | (intro _; try dsimp only) | with_reducible assumption | with_reducible apply inv_ite | with_reducible apply State.skStep_inv | with_reducible apply State.count_inv | split)
  all_goals first | rfl | exact ⟨rfl, rfl, rfl⟩ | assumption

theorem State.skeinHdr_inv {s0 : State} (k : Nat) (hdr : List Byte) (hc : ∀ p ∈ [Part.regs, .integ, .skrx, .tly], Closed R p) (h : R s0) :
    R (s0.skeinHdr k hdr) := by
  unfold State.skeinHdr
  try dsimp only
  repeat' (first | exact sub_inv (by decide) hc | (intro _; try dsimp only) | with_reducible assumption | with_reducible apply inv_ite | with_reducible apply State.trailGiveUp_inv | with_reducible apply State.hdrDefects_inv | with_reducible apply State.count_inv | with_reducible apply State.trailEval_inv | with_reducible apply State.modRx_inv | split)
  all_goals first | rfl | exact ⟨rfl, rfl, rfl⟩ | assumption

theorem execSkeinHeaderRx_inv (k : Fin 81920) (line : List Byte) (hc : ∀ p ∈ [Part.regs, .lanes, .integ, .skrx, .tly], Closed R p) (h : R s) :
    OutInv R (execSkeinHeaderRx k line s) := by
  unfold execSkeinHeaderRx
  try dsimp only
  repeat' (first | exact sub_inv (by decide) hc | with_reducible apply outInv_next | with_reducible exact outInv_fault _ | with_reducible apply outInv_ite | (intro _; try dsimp only) | with_reducible assumption | with_reducible apply inv_ite | with_reducible apply State.onLine_inv | with_reducible apply State.loopPut_inv | with_reducible apply State.when_inv | with_reducible apply State.skeinHdr_inv | split)
  all_goals first | rfl | exact ⟨rfl, rfl, rfl⟩ | assumption

theorem State.trailDone_inv (k : Nat) (c : Word) (n : Lane) (hc : ∀ p ∈ [Part.regs, .integ, .skrx, .tly], Closed R p) (h : R s) :
    R (s.trailDone k c n) := by
  unfold State.trailDone
  try dsimp only
  repeat' (first | exact sub_inv (by decide) hc | (intro _; try dsimp only) | with_reducible assumption | with_reducible apply inv_ite | with_reducible apply State.modRx_inv | with_reducible apply State.trailEval_inv | split)
  all_goals first | rfl | exact ⟨rfl, rfl, rfl⟩ | assumption

theorem State.trailFold_inv {s0 : State} (k : Nat) (lr : Nat) (payload : List Byte) (hc : ∀ p ∈ [Part.regs, .integ, .skrx, .tly], Closed R p) (h : R s0) :
    R (s0.trailFold k lr payload) := by
  unfold State.trailFold
  try dsimp only
  repeat' (first | exact sub_inv (by decide) hc | (intro _; try dsimp only) | with_reducible assumption | with_reducible apply inv_ite | with_reducible apply State.modRx_inv | with_reducible apply State.trailGiveUp_inv | with_reducible apply State.trailDone_inv | split)
  all_goals first | rfl | exact ⟨rfl, rfl, rfl⟩ | assumption

theorem State.cellsIn_inv (l : Nat) (j0 : Nat) (c : CellRun) (f : State → List (List Byte) → State) (hc : ∀ p ∈ [Part.lanes], Closed R p) (h : R s) (hf : ∀ y0 y1, R y0 → R (f y0 y1)) :
    R (s.cellsIn l j0 c f) := by
  unfold State.cellsIn
  try dsimp only
  repeat' (first | exact sub_inv (by decide) hc | (intro _; try dsimp only) | with_reducible assumption | with_reducible apply inv_ite | with_reducible apply hf | with_reducible apply State.onLine_inv | with_reducible apply seqAll_inv | with_reducible apply State.loopPut_inv | split)
  all_goals first | rfl | exact ⟨rfl, rfl, rfl⟩ | assumption

theorem State.reportL_inv (l : Nat) (d : Nat) (b : Bool) (hc : ∀ p ∈ [Part.regs, .integ, .ten, .pcie, .out], Closed R p) (h : R s) :
    R (s.reportL l d b) := by
  unfold State.reportL
  try dsimp only
  repeat' (first | exact sub_inv (by decide) hc | (intro _; try dsimp only) | with_reducible assumption | with_reducible apply inv_ite | with_reducible apply State.noteTen_inv | with_reducible apply State.modInteg_inv | with_reducible apply State.irq_inv | split)
  all_goals first | rfl | exact ⟨rfl, rfl, rfl⟩ | assumption

theorem State.reportS_inv (k : Nat) (d : Nat) (b : Bool) (hc : ∀ p ∈ [Part.regs, .integ, .ten, .pcie, .out], Closed R p) (h : R s) :
    R (s.reportS k d b) := by
  unfold State.reportS
  try dsimp only
  repeat' (first | exact sub_inv (by decide) hc | (intro _; try dsimp only) | with_reducible assumption | with_reducible apply inv_ite | with_reducible apply State.noteTen_inv | with_reducible apply State.modInteg_inv | with_reducible apply State.irq_inv | split)
  all_goals first | rfl | exact ⟨rfl, rfl, rfl⟩ | assumption

theorem State.report_inv (b : Bool) (a : DefectRef) (hc : ∀ p ∈ [Part.regs, .integ, .ten, .pcie, .out], Closed R p) (h : R s) :
    R (s.report b a) := by
  unfold State.report
  try dsimp only
  repeat' (first | exact sub_inv (by decide) hc | (intro _; try dsimp only) | with_reducible assumption | with_reducible apply inv_ite | with_reducible apply State.reportL_inv | with_reducible apply State.reportS_inv | split)
  all_goals first | rfl | exact ⟨rfl, rfl, rfl⟩ | assumption

theorem execDefectDeclared_inv (d : DefectRef) (hc : ∀ p ∈ [Part.regs, .integ, .ten, .pcie, .out], Closed R p) (h : R s) :
    OutInv R (execDefectDeclared d s) := by
  unfold execDefectDeclared
  try dsimp only
  repeat' (first | exact sub_inv (by decide) hc | with_reducible apply outInv_next | with_reducible exact outInv_fault _ | with_reducible apply outInv_ite | (intro _; try dsimp only) | with_reducible assumption | with_reducible apply inv_ite | with_reducible apply State.report_inv | split)
  all_goals first | rfl | exact ⟨rfl, rfl, rfl⟩ | assumption

theorem execDefectCleared_inv (d : DefectRef) (hc : ∀ p ∈ [Part.regs, .integ, .ten, .pcie, .out], Closed R p) (h : R s) :
    OutInv R (execDefectCleared d s) := by
  unfold execDefectCleared
  try dsimp only
  repeat' (first | exact sub_inv (by decide) hc | with_reducible apply outInv_next | with_reducible exact outInv_fault _ | with_reducible apply outInv_ite | (intro _; try dsimp only) | with_reducible assumption | with_reducible apply inv_ite | with_reducible apply State.report_inv | split)
  all_goals first | rfl | exact ⟨rfl, rfl, rfl⟩ | assumption

theorem State.recentre_inv (l : Nat) (hc : ∀ p ∈ [Part.regs, .lanes], Closed R p) (h : R s) :
    R (s.recentre l) := by
  unfold State.recentre
  try dsimp only
  repeat' (first | exact sub_inv (by decide) hc | (intro _; try dsimp only) | with_reducible assumption | with_reducible apply inv_ite | with_reducible apply State.incReg_inv | with_reducible apply State.modLane_inv | split)
  all_goals first | rfl | exact ⟨rfl, rfl, rfl⟩ | assumption

theorem execRecentre_inv (l : Fin 512) (fill : Nat) (off : Fin 625) (hc : ∀ p ∈ [Part.regs, .lanes], Closed R p) (h : R s) :
    OutInv R (execRecentre l fill off s) := by
  unfold execRecentre
  try dsimp only
  repeat' (first | exact sub_inv (by decide) hc | with_reducible apply outInv_next | with_reducible exact outInv_fault _ | with_reducible apply outInv_ite | (intro _; try dsimp only) | with_reducible assumption | with_reducible apply inv_ite | with_reducible apply State.onLane_inv | with_reducible apply State.when_inv | with_reducible apply State.recentre_inv | split)
  all_goals first | rfl | exact ⟨rfl, rfl, rfl⟩ | assumption

theorem State.putMasked_inv (a : Nat) (v : Word) (hc : ∀ p ∈ [Part.regs], Closed R p) (h : R s) :
    R (s.putMasked a v) := by
  unfold State.putMasked
  try dsimp only
  repeat' (first | exact sub_inv (by decide) hc | (intro _; try dsimp only) | with_reducible assumption | with_reducible apply inv_ite | with_reducible apply State.setReg_inv | split)
  all_goals first | rfl | exact ⟨rfl, rfl, rfl⟩ | assumption

theorem execRecentreCommand_inv (m : Mid) (l : Fin 512) (hc : ∀ p ∈ [Part.regs, .lanes, .wvr, .pcie, .tst, .out, .resp], Closed R p) (h : R s) :
    OutInv R (execRecentreCommand m l s) := by
  unfold execRecentreCommand
  try dsimp only
  repeat' (first | exact sub_inv (by decide) hc | with_reducible apply outInv_next | with_reducible exact outInv_fault _ | with_reducible apply outInv_ite | (intro _; try dsimp only) | with_reducible assumption | with_reducible apply inv_ite | with_reducible apply State.write4_inv | with_reducible apply State.modLane_inv | split)
  all_goals first | rfl | exact ⟨rfl, rfl, rfl⟩ | assumption

theorem State.lineBack_inv (l : Nat) (hc : ∀ p ∈ [Part.regs, .lanes, .skrx, .ten, .tly, .pcie, .out], Closed R p) (h : R s) :
    R (s.lineBack l) := by
  unfold State.lineBack
  try dsimp only
  repeat' (first | exact sub_inv (by decide) hc | (intro _; try dsimp only) | with_reducible assumption | with_reducible apply inv_ite | with_reducible apply State.modLane_inv | with_reducible apply State.toHunt_inv | split)
  all_goals first | rfl | exact ⟨rfl, rfl, rfl⟩ | assumption

theorem State.modeWrite_inv (l : Nat) (v : Word) (hc : ∀ p ∈ [Part.regs, .lanes, .skrx, .ten, .tly, .pcie, .out], Closed R p) (h : R s) :
    R (s.modeWrite l v) := by
  unfold State.modeWrite
  try dsimp only
  repeat' (first | exact sub_inv (by decide) hc | (intro _; try dsimp only) | with_reducible assumption | with_reducible apply inv_ite | with_reducible apply State.putMasked_inv | with_reducible apply State.onLane_inv | with_reducible apply State.modLane_inv | with_reducible apply State.lineBack_inv | split)
  all_goals first | rfl | exact ⟨rfl, rfl, rfl⟩ | assumption

theorem execLnModeWrite_inv (m : Mid) (l : Fin 512) (v : Word) (hc : ∀ p ∈ [Part.regs, .lanes, .skrx, .wvr, .ten, .tly, .pcie, .tst, .out, .resp], Closed R p) (h : R s) :
    OutInv R (execLnModeWrite m l v s) := by
  unfold execLnModeWrite
  try dsimp only
  repeat' (first | exact sub_inv (by decide) hc | with_reducible apply outInv_next | with_reducible exact outInv_fault _ | with_reducible apply outInv_ite | (intro _; try dsimp only) | with_reducible assumption | with_reducible apply inv_ite | with_reducible apply State.write4_inv | with_reducible apply State.modeWrite_inv | split)
  all_goals first | rfl | exact ⟨rfl, rfl, rfl⟩ | assumption

theorem State.intgWrite_inv (l : Nat) (d : Nat) (v : Word) (hc : ∀ p ∈ [Part.regs, .lanes], Closed R p) (h : R s) :
    R (s.intgWrite l d v) := by
  unfold State.intgWrite
  try dsimp only
  repeat' (first | exact sub_inv (by decide) hc | (intro _; try dsimp only) | with_reducible assumption | with_reducible apply inv_ite | with_reducible apply State.putMasked_inv | with_reducible apply State.modLane_inv | split)
  all_goals first | rfl | exact ⟨rfl, rfl, rfl⟩ | assumption

theorem execLnIntgWrite_inv (m : Mid) (l : Fin 512) (d : Fin 15) (v : Word) (hc : ∀ p ∈ [Part.regs, .lanes, .wvr, .pcie, .tst, .out, .resp], Closed R p) (h : R s) :
    OutInv R (execLnIntgWrite m l d v s) := by
  unfold execLnIntgWrite
  try dsimp only
  repeat' (first | exact sub_inv (by decide) hc | with_reducible apply outInv_next | with_reducible exact outInv_fault _ | with_reducible apply outInv_ite | (intro _; try dsimp only) | with_reducible assumption | with_reducible apply inv_ite | with_reducible apply State.write4_inv | with_reducible apply State.intgWrite_inv | split)
  all_goals first | rfl | exact ⟨rfl, rfl, rfl⟩ | assumption

theorem State.readClear_inv (a : Nat) (hc : ∀ p ∈ [Part.regs, .resp], Closed R p) (h : R s) :
    R (s.readClear a) := by
  unfold State.readClear
  try dsimp only
  repeat' (first | exact sub_inv (by decide) hc | (intro _; try dsimp only) | with_reducible assumption | with_reducible apply inv_ite | with_reducible apply State.answer_inv | with_reducible apply State.setReg_inv | split)
  all_goals first | rfl | exact ⟨rfl, rfl, rfl⟩ | assumption

theorem execLnPatErrCntRead_inv (m : Mid) (l : Fin 512) (hc : ∀ p ∈ [Part.regs, .pcie, .tst, .out, .resp], Closed R p) (h : R s) :
    OutInv R (execLnPatErrCntRead m l s) := by
  unfold execLnPatErrCntRead
  try dsimp only
  repeat' (first | exact sub_inv (by decide) hc | with_reducible apply outInv_next | with_reducible exact outInv_fault _ | with_reducible apply outInv_ite | (intro _; try dsimp only) | with_reducible assumption | with_reducible apply inv_ite | with_reducible apply State.access_inv | with_reducible apply State.readClear_inv | split)
  all_goals first | rfl | exact ⟨rfl, rfl, rfl⟩ | assumption

theorem State.voidTrail_inv (k : Nat) (hc : ∀ p ∈ [Part.regs, .integ, .skrx, .tly], Closed R p) (h : R s) :
    R (s.voidTrail k) := by
  unfold State.voidTrail
  try dsimp only
  repeat' (first | exact sub_inv (by decide) hc | (intro _; try dsimp only) | with_reducible assumption | with_reducible apply inv_ite | with_reducible apply State.modRx_inv | with_reducible apply State.trailGiveUp_inv | split)
  all_goals first | rfl | exact ⟨rfl, rfl, rfl⟩ | assumption

theorem State.voidTrails_inv (p1 : Nat) (hc : ∀ p ∈ [Part.regs, .integ, .skrx, .tly], Closed R p) (h : R s) :
    R (s.voidTrails p1) := by
  unfold State.voidTrails
  try dsimp only
  repeat' (first | exact sub_inv (by decide) hc | (intro _; try dsimp only) | with_reducible assumption | with_reducible apply inv_ite | with_reducible apply seqAll_inv | with_reducible apply State.when_inv | with_reducible apply State.voidTrail_inv | split)
  all_goals first | rfl | exact ⟨rfl, rfl, rfl⟩ | assumption

theorem State.accErr_inv (k : Nat) (hc : ∀ p ∈ [Part.regs, .integ, .skrx, .tly], Closed R p) (h : R s) :
    R (s.accErr k) := by
  unfold State.accErr
  try dsimp only
  repeat' (first | exact sub_inv (by decide) hc | (intro _; try dsimp only) | with_reducible assumption | with_reducible apply inv_ite | with_reducible apply State.incReg_inv | with_reducible apply State.voidTrail_inv | split)
  all_goals first | rfl | exact ⟨rfl, rfl, rfl⟩ | assumption

theorem State.dbgLink_inv (p1 : Nat) (hc : ∀ p ∈ [Part.regs, .pcie, .jtag, .out], Closed R p) (h : R s) :
    R (s.dbgLink p1) := by
  unfold State.dbgLink
  try dsimp only
  repeat' (first | exact sub_inv (by decide) hc | (intro _; try dsimp only) | with_reducible assumption | with_reducible apply inv_ite | with_reducible apply State.modJtag_inv | with_reducible apply State.decErr_inv | split)
  all_goals first | rfl | exact ⟨rfl, rfl, rfl⟩ | assumption

theorem State.linkLost_inv (p1 : Nat) (outstanding : List (Mid × BitVec 26 × Bool)) (hc : ∀ p ∈ [Part.regs, .ports, .pcie, .pwr, .jtag, .tst, .out, .resp], Closed R p) (h : R s) :
    R (s.linkLost p1 outstanding) := by
  unfold State.linkLost
  try dsimp only
  repeat' (first | exact sub_inv (by decide) hc | (intro _; try dsimp only) | with_reducible assumption | with_reducible apply inv_ite | with_reducible apply State.modPort_inv | with_reducible apply seqAll_inv | with_reducible apply State.decAns_inv | with_reducible apply State.noteDom_inv | with_reducible apply State.when_inv | with_reducible apply State.dbgLink_inv | with_reducible apply State.endWaits_inv | with_reducible apply State.irq_inv | split)
  all_goals first | rfl | exact ⟨rfl, rfl, rfl⟩ | assumption

theorem execD2dLinkLost_inv (p1 : Fin 8) (outstanding : List (Mid × BitVec 26 × Bool)) (hc : ∀ p ∈ [Part.regs, .ports, .pcie, .pwr, .jtag, .tst, .out, .resp], Closed R p) (h : R s) :
    OutInv R (execD2dLinkLost p1 outstanding s) := by
  unfold execD2dLinkLost
  try dsimp only
  repeat' (first | exact sub_inv (by decide) hc | with_reducible apply outInv_next | with_reducible exact outInv_fault _ | with_reducible apply outInv_ite | (intro _; try dsimp only) | with_reducible assumption | with_reducible apply inv_ite | with_reducible apply State.when_inv | with_reducible apply State.linkLost_inv | split)
  all_goals first | rfl | exact ⟨rfl, rfl, rfl⟩ | assumption

theorem State.declareDown_inv (p1 : Nat) (hc : ∀ p ∈ [Part.ports], Closed R p) (h : R s) :
    R (s.declareDown p1) := by
  unfold State.declareDown
  try dsimp only
  repeat' (first | exact sub_inv (by decide) hc | (intro _; try dsimp only) | with_reducible assumption | with_reducible apply inv_ite | with_reducible apply State.modPort_inv | split)
  all_goals first | rfl | exact ⟨rfl, rfl, rfl⟩ | assumption

theorem execLinkDownDeclared_inv (p1 : Fin 8) (hc : ∀ p ∈ [Part.ports], Closed R p) (h : R s) :
    OutInv R (execLinkDownDeclared p1 s) := by
  unfold execLinkDownDeclared
  try dsimp only
  repeat' (first | exact sub_inv (by decide) hc | with_reducible apply outInv_next | with_reducible exact outInv_fault _ | with_reducible apply outInv_ite | (intro _; try dsimp only) | with_reducible assumption | with_reducible apply inv_ite | with_reducible apply State.declareDown_inv | split)
  all_goals first | rfl | exact ⟨rfl, rfl, rfl⟩ | assumption

theorem State.linksLeft_inv (hc : ∀ p ∈ [Part.ports], Closed R p) (h : R s) :
    R (s.linksLeft) := by
  unfold State.linksLeft
  try dsimp only
  repeat' (first | exact sub_inv (by decide) hc | (intro _; try dsimp only) | with_reducible assumption | with_reducible apply inv_ite | with_reducible apply seqAll_inv | with_reducible apply State.when_inv | with_reducible apply State.declareDown_inv | split)
  all_goals first | rfl | exact ⟨rfl, rfl, rfl⟩ | assumption

theorem State.framersLeft_inv (hc : ∀ p ∈ [Part.regs, .lanes, .skrx, .ten, .tly, .pcie, .out], Closed R p) (h : R s) :
    R (s.framersLeft) := by
  unfold State.framersLeft
  try dsimp only
  repeat' (first | exact sub_inv (by decide) hc | (intro _; try dsimp only) | with_reducible assumption | with_reducible apply inv_ite | with_reducible apply seqAll_inv | with_reducible apply State.onLane_inv | with_reducible apply State.framerDue_inv | split)
  all_goals first | rfl | exact ⟨rfl, rfl, rfl⟩ | assumption

theorem execD2dLinkRegained_inv (p1 : Fin 8) (hc : ∀ p ∈ [Part.regs, .integ, .skrx, .ports, .tly, .pcie, .pwr, .out], Closed R p) (h : R s) :
    OutInv R (execD2dLinkRegained p1 s) := by
  unfold execD2dLinkRegained
  try dsimp only
  repeat' (first | exact sub_inv (by decide) hc | with_reducible apply outInv_next | with_reducible exact outInv_fault _ | with_reducible apply outInv_ite | (intro _; try dsimp only) | with_reducible assumption | with_reducible apply inv_ite | with_reducible apply State.noteDom_inv | with_reducible apply State.voidTrails_inv | with_reducible apply State.modPort_inv | split)
  all_goals first | rfl | exact ⟨rfl, rfl, rfl⟩ | assumption

end Sys2Proof.Machine
end

