-- ==== Sys2Proof/Laws/InvService.lean ====
section
/-! SUPPORT. What the operations of Machine/Service.lean keep. -/
namespace Sys2Proof.Machine

variable {R : State → Prop} {s : State}

theorem State.setWvr_inv (w : Nat) (st : WvrSt) (cause : Nat) (hc : ∀ p ∈ [Part.regs, .wvr, .tly, .pcie, .tst, .out, .free], Closed R p) (h : R s) :
    R (s.setWvr w st cause) := by
  unfold State.setWvr
  try dsimp only
  repeat' (first | exact sub_inv (by decide) hc | (intro _; try dsimp only) | with_reducible assumption | with_reducible apply inv_ite | with_reducible apply State.modWeaver_inv | with_reducible apply State.traceIn_inv | with_reducible apply State.when_inv | with_reducible apply State.count_inv | split)
  all_goals first | rfl | exact ⟨rfl, rfl, rfl⟩ | assumption

theorem State.wakeFor_inv (w : Nat) (hc : ∀ p ∈ [Part.regs, .wvr, .tly, .pcie, .tst, .out, .free], Closed R p) (h : R s) :
    R (s.wakeFor w) := by
  unfold State.wakeFor
  try dsimp only
  repeat' (first | exact sub_inv (by decide) hc | (intro _; try dsimp only) | with_reducible assumption | with_reducible apply inv_ite | with_reducible apply State.when_inv | with_reducible apply State.setWvr_inv | split)
  all_goals first | rfl | exact ⟨rfl, rfl, rfl⟩ | assumption

theorem State.winTouch_inv (a : Nat) (n : Nat) (hc : ∀ p ∈ [Part.regs, .bank, .pcie, .out], Closed R p) (h : R s) :
    R (s.winTouch a n) := by
  unfold State.winTouch
  try dsimp only
  repeat' (first | exact sub_inv (by decide) hc | (intro _; try dsimp only) | with_reducible assumption | with_reducible apply inv_ite | with_reducible apply State.readRun_inv | split)
  all_goals first | rfl | exact ⟨rfl, rfl, rfl⟩ | assumption

theorem State.serviceWrite_inv (w : Nat) (off : Nat) (bs : List Byte) (hc : ∀ p ∈ [Part.regs, .wvr, .bank, .bankMem, .tly, .pcie, .tst, .out, .free], Closed R p) (h : R s) :
    R (s.serviceWrite w off bs) := by
  unfold State.serviceWrite
  try dsimp only
  repeat' (first | exact sub_inv (by decide) hc | (intro _; try dsimp only) | with_reducible assumption | with_reducible apply inv_ite | with_reducible apply State.agentWrite_inv | with_reducible apply State.wakeFor_inv | split)
  all_goals first | rfl | exact ⟨rfl, rfl, rfl⟩ | assumption

theorem State.ringTake_inv (w : Nat) (base : Nat) (size : Nat) (head : Nat) (n : Nat) (hc : ∀ p ∈ [Part.regs, .wvr, .bank, .tly, .pcie, .tst, .out, .free], Closed R p) (h : R s) :
    R (s.ringTake w base size head n) := by
  unfold State.ringTake
  try dsimp only
  repeat' (first | exact sub_inv (by decide) hc | (intro _; try dsimp only) | with_reducible assumption | with_reducible apply inv_ite | with_reducible apply State.wakeFor_inv | with_reducible apply State.setReg_inv | with_reducible apply State.winTouch_inv | split)
  all_goals first | rfl | exact ⟨rfl, rfl, rfl⟩ | assumption

theorem State.ringWrite_inv (w : Nat) (base : Nat) (size : Nat) (tail : Nat) (r : List Byte) (hc : ∀ p ∈ [Part.regs, .wvr, .bank, .bankMem, .tly, .pcie, .tst, .out, .free], Closed R p) (h : R s) :
    R (s.ringWrite w base size tail r) := by
  unfold State.ringWrite
  try dsimp only
  repeat' (first | exact sub_inv (by decide) hc | (intro _; try dsimp only) | with_reducible assumption | with_reducible apply inv_ite | with_reducible apply State.setReg_inv | with_reducible apply State.serviceWrite_inv | split)
  all_goals first | rfl | exact ⟨rfl, rfl, rfl⟩ | assumption

end Sys2Proof.Machine
end

