-- ==== Sys2Proof/Laws/InvBamry.lean ====
section
/-! SUPPORT. What the operations of Machine/Bamry.lean keep. -/
namespace Sys2Proof.Machine

variable {R : State → Prop} {s : State}

theorem State.bmySend_inv (p1 : Nat) (m : List Byte) (hc : ∀ p ∈ [Part.bmy], Closed R p) (h : R s) :
    R (s.bmySend p1 m) := by
  unfold State.bmySend
  try dsimp only
  repeat' (first | exact sub_inv (by decide) hc | (intro _; try dsimp only) | with_reducible assumption | with_reducible apply inv_ite | with_reducible apply State.modBmy_inv | split)
  all_goals first | rfl | exact ⟨rfl, rfl, rfl⟩ | assumption

theorem State.markSent_inv (l : List (List Byte)) (hc : ∀ p ∈ [Part.bmy], Closed R p) (h : R s) :
    R (s.markSent l) := by
  unfold State.markSent
  try dsimp only
  repeat' (first | exact sub_inv (by decide) hc | (intro _; try dsimp only) | with_reducible assumption | with_reducible apply inv_ite | with_reducible apply State.modBmy_inv | split)
  all_goals first | rfl | exact ⟨rfl, rfl, rfl⟩ | assumption

theorem State.bmyFlushPort_inv (p1 : Nat) (hc : ∀ p ∈ [Part.bmy, .tly, .out], Closed R p) (h : R s) :
    R (s.bmyFlushPort p1) := by
  unfold State.bmyFlushPort
  try dsimp only
  repeat' (first | exact sub_inv (by decide) hc | (intro _; try dsimp only) | with_reducible assumption | with_reducible apply inv_ite | with_reducible apply State.modBmy_inv | with_reducible apply State.modNbr_inv | with_reducible apply State.markSent_inv | with_reducible apply seqAll_inv | with_reducible apply State.count_inv | with_reducible apply State.emit_inv | split)
  all_goals first | rfl | exact ⟨rfl, rfl, rfl⟩ | assumption

theorem State.chooseLane_inv (p1 : Nat) (hc : ∀ p ∈ [Part.bmy], Closed R p) (h : R s) :
    R (s.chooseLane p1) := by
  unfold State.chooseLane
  try dsimp only
  repeat' (first | exact sub_inv (by decide) hc | (intro _; try dsimp only) | with_reducible assumption | with_reducible apply inv_ite | with_reducible apply State.modNbr_inv | split)
  all_goals first | rfl | exact ⟨rfl, rfl, rfl⟩ | assumption

theorem State.nbrIrq_inv (bits : Nat) (hc : ∀ p ∈ [Part.regs, .pcie, .out], Closed R p) (h : R s) :
    R (s.nbrIrq bits) := by
  unfold State.nbrIrq
  try dsimp only
  repeat' (first | exact sub_inv (by decide) hc | (intro _; try dsimp only) | with_reducible assumption | with_reducible apply inv_ite | with_reducible apply State.irq_inv | split)
  all_goals first | rfl | exact ⟨rfl, rfl, rfl⟩ | assumption

theorem State.helloFrom_inv (p1 : Nat) (m : List Byte) (hc : ∀ p ∈ [Part.regs, .bmy, .pcie, .out], Closed R p) (h : R s) :
    R (s.helloFrom p1 m) := by
  unfold State.helloFrom
  try dsimp only
  repeat' (first | exact sub_inv (by decide) hc | (intro _; try dsimp only) | with_reducible assumption | with_reducible apply inv_ite | with_reducible apply State.nbrIrq_inv | with_reducible apply State.modNbr_inv | split)
  all_goals first | rfl | exact ⟨rfl, rfl, rfl⟩ | assumption

theorem State.hello_inv (p1 : Nat) (m : List Byte) (hc : ∀ p ∈ [Part.regs, .bmy, .pcie, .out], Closed R p) (h : R s) :
    R (s.hello p1 m) := by
  unfold State.hello
  try dsimp only
  repeat' (first | exact sub_inv (by decide) hc | (intro _; try dsimp only) | with_reducible assumption | with_reducible apply inv_ite | with_reducible apply State.when_inv | with_reducible apply State.modNbr_inv | with_reducible apply State.nbrIrq_inv | with_reducible apply State.helloFrom_inv | split)
  all_goals first | rfl | exact ⟨rfl, rfl, rfl⟩ | assumption

theorem State.renegotiate_inv (p1 : Nat) (hc : ∀ p ∈ [Part.regs, .bmy, .pcie, .out], Closed R p) (h : R s) :
    R (s.renegotiate p1) := by
  unfold State.renegotiate
  try dsimp only
  repeat' (first | exact sub_inv (by decide) hc | (intro _; try dsimp only) | with_reducible assumption | with_reducible apply inv_ite | with_reducible apply State.when_inv | with_reducible apply State.modNbr_inv | with_reducible apply State.nbrIrq_inv | split)
  all_goals first | rfl | exact ⟨rfl, rfl, rfl⟩ | assumption

theorem State.helloLossDue_inv (p1 : Nat) (hc : ∀ p ∈ [Part.regs, .bmy, .pcie, .out], Closed R p) (h : R s) :
    R (s.helloLossDue p1) := by
  unfold State.helloLossDue
  try dsimp only
  repeat' (first | exact sub_inv (by decide) hc | (intro _; try dsimp only) | with_reducible assumption | with_reducible apply inv_ite | with_reducible apply State.nbrIrq_inv | with_reducible apply State.modNbr_inv | split)
  all_goals first | rfl | exact ⟨rfl, rfl, rfl⟩ | assumption

theorem State.helloSend_inv (hc : ∀ p ∈ [Part.bmy], Closed R p) (h : R s) :
    R (s.helloSend) := by
  unfold State.helloSend
  try dsimp only
  repeat' (first | exact sub_inv (by decide) hc | (intro _; try dsimp only) | with_reducible assumption | with_reducible apply inv_ite | with_reducible apply seqAll_inv | with_reducible apply State.bmySend_inv | with_reducible apply State.modBmy_inv | split)
  all_goals first | rfl | exact ⟨rfl, rfl, rfl⟩ | assumption

theorem State.idReq_inv (p1 : Nat) (m : List Byte) (hc : ∀ p ∈ [Part.regs, .bmy], Closed R p) (h : R s) :
    R (s.idReq p1 m) := by
  unfold State.idReq
  try dsimp only
  repeat' (first | exact sub_inv (by decide) hc | (intro _; try dsimp only) | with_reducible assumption | with_reducible apply inv_ite | with_reducible apply State.bmySend_inv | with_reducible apply State.modBmy_inv | with_reducible apply State.setReg_inv | split)
  all_goals first | rfl | exact ⟨rfl, rfl, rfl⟩ | assumption

theorem State.idOffer_inv (p1 : Nat) (m : List Byte) (hc : ∀ p ∈ [Part.regs, .bmy, .pcie, .out], Closed R p) (h : R s) :
    R (s.idOffer p1 m) := by
  unfold State.idOffer
  try dsimp only
  repeat' (first | exact sub_inv (by decide) hc | (intro _; try dsimp only) | with_reducible assumption | with_reducible apply inv_ite | with_reducible apply State.errlog_inv | with_reducible apply State.bmySend_inv | with_reducible apply State.nbrIrq_inv | with_reducible apply State.setReg_inv | split)
  all_goals first | rfl | exact ⟨rfl, rfl, rfl⟩ | assumption

theorem State.idAck_inv (m : List Byte) (hc : ∀ p ∈ [Part.bmy], Closed R p) (h : R s) :
    R (s.idAck m) := by
  unfold State.idAck
  try dsimp only
  repeat' (first | exact sub_inv (by decide) hc | (intro _; try dsimp only) | with_reducible assumption | with_reducible apply inv_ite | with_reducible apply State.modBmy_inv | split)
  all_goals first | rfl | exact ⟨rfl, rfl, rfl⟩ | assumption

theorem State.offerTimeout_inv (hc : ∀ p ∈ [Part.regs, .bmy], Closed R p) (h : R s) :
    R (s.offerTimeout) := by
  unfold State.offerTimeout
  try dsimp only
  repeat' (first | exact sub_inv (by decide) hc | (intro _; try dsimp only) | with_reducible assumption | with_reducible apply inv_ite | with_reducible apply State.incReg_inv | with_reducible apply State.modBmy_inv | split)
  all_goals first | rfl | exact ⟨rfl, rfl, rfl⟩ | assumption

theorem State.release_inv (r : PathRec) (hc : ∀ p ∈ [Part.bmy], Closed R p) (h : R s) :
    R (s.release r) := by
  unfold State.release
  try dsimp only
  repeat' (first | exact sub_inv (by decide) hc | (intro _; try dsimp only) | with_reducible assumption | with_reducible apply inv_ite | with_reducible apply State.modBmy_inv | split)
  all_goals first | rfl | exact ⟨rfl, rfl, rfl⟩ | assumption

theorem State.sendRefuse_inv (p1 : Nat) (orig : Nat) (rno : Nat) (reason : Nat) (hidx : Nat) (att : Nat) (detail : Nat) (hc : ∀ p ∈ [Part.regs, .bmy], Closed R p) (h : R s) :
    R (s.sendRefuse p1 orig rno reason hidx att detail) := by
  unfold State.sendRefuse
  try dsimp only
  repeat' (first | exact sub_inv (by decide) hc | (intro _; try dsimp only) | with_reducible assumption | with_reducible apply inv_ite | with_reducible apply State.bmySend_inv | with_reducible apply State.incReg_inv | split)
  all_goals first | rfl | exact ⟨rfl, rfl, rfl⟩ | assumption

theorem State.tdQueue_inv (p1 : Nat) (n : Nat) (m : List Byte) (more : Nat) (hc : ∀ p ∈ [Part.regs, .bmy], Closed R p) (h : R s) :
    R (s.tdQueue p1 n m more) := by
  unfold State.tdQueue
  try dsimp only
  repeat' (first | exact sub_inv (by decide) hc | (intro _; try dsimp only) | with_reducible assumption | with_reducible apply inv_ite | with_reducible apply State.incReg_inv | with_reducible apply State.modBmy_inv | split)
  all_goals first | rfl | exact ⟨rfl, rfl, rfl⟩ | assumption

theorem State.tdSend_inv (p1 : Nat) (m : List Byte) (hc : ∀ p ∈ [Part.regs, .bmy], Closed R p) (h : R s) :
    R (s.tdSend p1 m) := by
  unfold State.tdSend
  try dsimp only
  repeat' (first | exact sub_inv (by decide) hc | (intro _; try dsimp only) | with_reducible assumption | with_reducible apply inv_ite | with_reducible apply State.modBmy_inv | with_reducible apply State.bmySend_inv | with_reducible apply State.tdQueue_inv | split)
  all_goals first | rfl | exact ⟨rfl, rfl, rfl⟩ | assumption

theorem State.tdAlong_inv (r : PathRec) (att : Nat) (cause : Nat) (dir : Nat) (hc : ∀ p ∈ [Part.regs, .bmy], Closed R p) (h : R s) :
    R (s.tdAlong r att cause dir) := by
  unfold State.tdAlong
  try dsimp only
  repeat' (first | exact sub_inv (by decide) hc | (intro _; try dsimp only) | with_reducible assumption | with_reducible apply inv_ite | with_reducible apply State.tdSend_inv | split)
  all_goals first | rfl | exact ⟨rfl, rfl, rfl⟩ | assumption

theorem State.tdResend_inv (p1 : Nat) (hc : ∀ p ∈ [Part.regs, .bmy], Closed R p) (h : R s) :
    R (s.tdResend p1) := by
  unfold State.tdResend
  try dsimp only
  repeat' (first | exact sub_inv (by decide) hc | (intro _; try dsimp only) | with_reducible assumption | with_reducible apply inv_ite | with_reducible apply seqAll_inv | with_reducible apply State.modBmy_inv | with_reducible apply State.bmySend_inv | with_reducible apply State.tdQueue_inv | split)
  all_goals first | rfl | exact ⟨rfl, rfl, rfl⟩ | assumption

theorem State.bmyDrain_inv (n : Nat) (hc : ∀ p ∈ [Part.regs, .bmy, .wvr, .bank, .bankMem, .tly, .pcie, .tst, .out, .free], Closed R p) (h : R s) : R (State.bmyDrain n s) := by
  induction n generalizing s with
  | zero => exact h
  | succ n ih =>
    unfold State.bmyDrain
    split
    · split
      · exact h
      · exact ih (State.irq_inv _ _ (sub_inv (by decide) hc) (State.modBmy_inv _ (sub_inv (by decide) hc)
          (State.ringWrite_inv _ _ _ _ _ (sub_inv (by decide) hc) h)))
    · exact h

theorem State.bmyResult_inv (r : List Byte) (hc : ∀ p ∈ [Part.regs, .bmy, .wvr, .bank, .bankMem, .tly, .pcie, .tst, .out, .free], Closed R p) (h : R s) :
    R (s.bmyResult r) := by
  unfold State.bmyResult
  try dsimp only
  repeat' (first | exact sub_inv (by decide) hc | (intro _; try dsimp only) | with_reducible assumption | with_reducible apply inv_ite | with_reducible apply State.irq_inv | with_reducible apply State.setReg_inv | with_reducible apply State.bmyDrain_inv | with_reducible apply State.modBmy_inv | split)
  all_goals first | rfl | exact ⟨rfl, rfl, rfl⟩ | assumption

theorem State.modHead_inv (rno : Nat) (f : HeadReq → HeadReq) (hc : ∀ p ∈ [Part.bmy], Closed R p) (h : R s) :
    R (s.modHead rno f) := by
  unfold State.modHead
  try dsimp only
  repeat' (first | exact sub_inv (by decide) hc | (intro _; try dsimp only) | with_reducible assumption | with_reducible apply inv_ite | with_reducible apply State.modBmy_inv | split)
  all_goals first | rfl | exact ⟨rfl, rfl, rfl⟩ | assumption

theorem State.headFail_inv (r : HeadReq) (reason hidx detail : Nat) (hc : ∀ p ∈ [Part.regs, .bmy, .wvr, .bank, .bankMem, .tly, .pcie, .tst, .out, .free], Closed R p) (h : R s) :
    R (s.headFail r reason hidx detail) := by
  unfold State.headFail
  dsimp only
  exact inv_ite (hc .free (by decide) _ _ (State.modHead_inv _ _ (sub_inv (by decide) hc) h))
    (State.modBmy_inv _ (sub_inv (by decide) hc) (State.bmyResult_inv _ (sub_inv (by decide) hc) h))

theorem State.preempt_inv (r : PathRec) (hc : ∀ p ∈ [Part.regs, .bmy, .wvr, .bank, .bankMem, .tly, .pcie, .tst, .out, .free], Closed R p) (h : R s) :
    R (s.preempt r) := by
  unfold State.preempt
  try dsimp only
  repeat' (first | exact sub_inv (by decide) hc | (intro _; try dsimp only) | with_reducible assumption | with_reducible apply inv_ite | with_reducible apply State.incReg_inv | with_reducible apply State.release_inv | with_reducible apply State.modBmy_inv | with_reducible apply State.tdAlong_inv | with_reducible apply State.sendRefuse_inv | with_reducible apply State.headFail_inv | split)
  all_goals first | rfl | exact ⟨rfl, rfl, rfl⟩ | assumption

theorem State.postWindowC_inv (fe : Bool) (op : Nat) (tag : Nat) (src : Nat) (dst : Nat) (hc : ∀ p ∈ [Part.regs, .trd, .fine, .pcie, .out], Closed R p) (h : R s) :
    R (s.postWindowC fe op tag src dst) := by
  unfold State.postWindowC
  try dsimp only
  repeat' (first | exact sub_inv (by decide) hc | (intro _; try dsimp only) | with_reducible assumption | with_reducible apply inv_ite | with_reducible apply seqAll_inv | with_reducible apply State.windowWrite_inv | split)
  all_goals first | rfl | exact ⟨rfl, rfl, rfl⟩ | assumption

theorem State.bmyTag_inv (hc : ∀ p ∈ [Part.bmy], Closed R p) (h : R s) :
    R (s.bmyTag).2 := by
  unfold State.bmyTag
  try dsimp only
  repeat' (first | exact sub_inv (by decide) hc | (intro _; try dsimp only) | with_reducible assumption | with_reducible apply inv_ite | with_reducible apply State.modBmy_inv | split)
  all_goals first | rfl | exact ⟨rfl, rfl, rfl⟩ | assumption

theorem State.postConns_inv (thr : Bool) (l : List (Nat × Nat)) (hc : ∀ p ∈ [Part.regs, .trd, .fine, .bmy, .pcie, .out], Closed R p) (h : R s) : R (s.postConns thr l).1 := by
  induction l generalizing s with
  | nil => exact h
  | cons c t ih =>
    unfold State.postConns
    exact ih (State.postWindowC_inv _ _ _ _ _ (sub_inv (by decide) hc) (State.bmyTag_inv (sub_inv (by decide) hc) h))

theorem State.postDisc_inv (r : PathRec) (hc : ∀ p ∈ [Part.regs, .trd, .fine, .bmy, .pcie, .out], Closed R p) (h : R s) :
    R (s.postDisc r) := by
  unfold State.postDisc
  try dsimp only
  repeat' (first | exact sub_inv (by decide) hc | (intro _; try dsimp only) | with_reducible assumption | with_reducible apply inv_ite | with_reducible apply seqAll_inv | with_reducible apply State.bmyTag_inv | with_reducible apply State.postWindowC_inv | split)
  all_goals first | rfl | exact ⟨rfl, rfl, rfl⟩ | assumption

theorem State.modRec_inv (r : PathRec) (f : PathRec → PathRec) (hc : ∀ p ∈ [Part.bmy], Closed R p) (h : R s) :
    R (s.modRec r f) := by
  unfold State.modRec
  try dsimp only
  repeat' (first | exact sub_inv (by decide) hc | (intro _; try dsimp only) | with_reducible assumption | with_reducible apply inv_ite | with_reducible apply State.modBmy_inv | split)
  all_goals first | rfl | exact ⟨rfl, rfl, rfl⟩ | assumption

theorem State.postSegment_inv (r : PathRec) (hc : ∀ p ∈ [Part.regs, .trd, .fine, .bmy, .pcie, .out], Closed R p) (h : R s) :
    R (s.postSegment r) := by
  unfold State.postSegment
  try dsimp only
  repeat' (first | exact sub_inv (by decide) hc | (intro _; try dsimp only) | with_reducible assumption | with_reducible apply inv_ite | with_reducible apply State.postConns_inv | with_reducible apply State.modRec_inv | split)
  all_goals first | rfl | exact ⟨rfl, rfl, rfl⟩ | assumption

theorem State.segmentFail_inv (r : PathRec) (reason : Nat) (detail : Nat) (hc : ∀ p ∈ [Part.regs, .bmy, .wvr, .bank, .bankMem, .tly, .pcie, .tst, .out, .free], Closed R p) (h : R s) :
    R (s.segmentFail r reason detail) := by
  unfold State.segmentFail
  try dsimp only
  repeat' (first | exact sub_inv (by decide) hc | (intro _; try dsimp only) | with_reducible assumption | with_reducible apply inv_ite | with_reducible apply State.tdAlong_inv | with_reducible apply State.release_inv | with_reducible apply State.sendRefuse_inv | with_reducible apply State.headFail_inv | split)
  all_goals first | rfl | exact ⟨rfl, rfl, rfl⟩ | assumption

theorem State.segmentDone_inv (r : PathRec) (hc : ∀ p ∈ [Part.regs, .bmy, .wvr, .bank, .bankMem, .tly, .pcie, .tst, .out, .free], Closed R p) (h : R s) :
    R (s.segmentDone r) := by
  unfold State.segmentDone
  try dsimp only
  repeat' (first | exact sub_inv (by decide) hc | (intro _; try dsimp only) | with_reducible assumption | with_reducible apply inv_ite | with_reducible apply State.modRec_inv | with_reducible apply State.bmySend_inv | with_reducible apply State.bmyResult_inv | with_reducible apply State.modHead_inv | split)
  all_goals first | rfl | exact ⟨rfl, rfl, rfl⟩ | assumption

theorem State.segmentEnd_inv (r : PathRec) (hc : ∀ p ∈ [Part.regs, .bmy, .wvr, .bank, .bankMem, .tly, .pcie, .tst, .out, .free], Closed R p) (h : R s) :
    R (s.segmentEnd r) := by
  unfold State.segmentEnd
  try dsimp only
  repeat' (first | exact sub_inv (by decide) hc | (intro _; try dsimp only) | with_reducible assumption | with_reducible apply inv_ite | with_reducible apply State.segmentDone_inv | with_reducible apply State.segmentFail_inv | split)
  all_goals first | rfl | exact ⟨rfl, rfl, rfl⟩ | assumption

theorem State.completed_inv (tag : Nat) (status : Nat) (hc : ∀ p ∈ [Part.regs, .bmy, .wvr, .bank, .bankMem, .tly, .pcie, .tst, .out, .free], Closed R p) (h : R s) :
    R (s.completed tag status) := by
  unfold State.completed
  try dsimp only
  repeat' (first | exact sub_inv (by decide) hc | (intro _; try dsimp only) | with_reducible assumption | with_reducible apply inv_ite | with_reducible apply State.modRec_inv | with_reducible apply State.segmentEnd_inv | split)
  all_goals first | rfl | exact ⟨rfl, rfl, rfl⟩ | assumption

theorem State.admitSetup_inv (inPort : Option Nat) (m : List Byte) (hc : ∀ p ∈ [Part.regs, .bmy, .wvr, .bank, .bankMem, .tly, .pcie, .tst, .out, .free], Closed R p) (h : R s) :
    R (s.admitSetup inPort m).1 := by
  unfold State.admitSetup
  try dsimp only
  repeat' (first | exact sub_inv (by decide) hc | (intro _; try dsimp only) | with_reducible assumption | with_reducible apply inv_ite | with_reducible apply seqAll_inv | with_reducible apply State.preempt_inv | split)
  all_goals first | rfl | exact ⟨rfl, rfl, rfl⟩ | assumption

theorem State.reserve_inv (r : PathRec) (hc : ∀ p ∈ [Part.regs, .trd, .fine, .bmy, .pcie, .out], Closed R p) (h : R s) :
    R (s.reserve r) := by
  unfold State.reserve
  try dsimp only
  repeat' (first | exact sub_inv (by decide) hc | (intro _; try dsimp only) | with_reducible assumption | with_reducible apply inv_ite | with_reducible apply State.modBmy_inv | with_reducible apply State.bmySend_inv | with_reducible apply State.postSegment_inv | split)
  all_goals first | rfl | exact ⟨rfl, rfl, rfl⟩ | assumption

theorem State.setupRx_inv (p : Nat) (m : List Byte) (hc : ∀ p ∈ [Part.regs, .trd, .fine, .bmy, .wvr, .bank, .bankMem, .tly, .pcie, .tst, .out, .free], Closed R p) (h : R s) : R (s.setupRx p m) := by
  unfold State.setupRx
  dsimp only
  have hr := State.admitSetup_inv (some p) m (sub_inv (by decide) hc)
    (seqAll_inv (fun (r : PathRec) s => s.release r)
      (s.bmy.recs.filter (fun r => decide (r.orig = mOrig m ∧ r.rno = mRno m ∧ r.att < mAtt m) && !r.committed && !r.posting)) h
      (fun r s h => State.release_inv r (sub_inv (by decide) hc) h))
  split <;> rename_i hh <;> rw [hh] at hr
  · exact State.reserve_inv _ (sub_inv (by decide) hc) hr
  · exact State.sendRefuse_inv _ _ _ _ _ _ _ (sub_inv (by decide) hc) hr

theorem State.headTry_inv (r : HeadReq) (att : Nat) (hc : ∀ p ∈ [Part.regs, .trd, .fine, .bmy, .wvr, .bank, .bankMem, .tly, .pcie, .tst, .out, .free], Closed R p) (h : R s) : R (s.headTry r att) := by
  unfold State.headTry
  dsimp only
  have hr := State.admitSetup_inv none (putAt 0 [0x20] (s.headMsg r att)) (sub_inv (by decide) hc)
    (State.modHead_inv r.rno (fun r => { r with att := att, sent := false, sentAt := s.bolt, waiting := none }) (sub_inv (by decide) hc) h)
  split <;> rename_i hh <;> rw [hh] at hr
  · exact State.reserve_inv _ (sub_inv (by decide) hc) hr
  · exact State.headFail_inv _ _ _ _ (sub_inv (by decide) hc) hr

theorem State.confirmRx_inv (p1 : Nat) (m : List Byte) (hc : ∀ p ∈ [Part.regs, .trd, .fine, .bmy, .wvr, .bank, .bankMem, .tly, .pcie, .tst, .out, .free], Closed R p) (h : R s) :
    R (s.confirmRx p1 m) := by
  unfold State.confirmRx
  try dsimp only
  repeat' (first | exact sub_inv (by decide) hc | (intro _; try dsimp only) | with_reducible assumption | with_reducible apply inv_ite | with_reducible apply State.modRec_inv | with_reducible apply State.segmentFail_inv | with_reducible apply State.postSegment_inv | with_reducible apply State.tdSend_inv | with_reducible apply State.sendRefuse_inv | split)
  all_goals first | rfl | exact ⟨rfl, rfl, rfl⟩ | assumption

theorem State.refuseRx_inv (m : List Byte) (hc : ∀ p ∈ [Part.regs, .bmy, .wvr, .bank, .bankMem, .tly, .pcie, .tst, .out, .free], Closed R p) (h : R s) :
    R (s.refuseRx m) := by
  unfold State.refuseRx
  try dsimp only
  repeat' (first | exact sub_inv (by decide) hc | (intro _; try dsimp only) | with_reducible assumption | with_reducible apply inv_ite | with_reducible apply seqAll_inv | with_reducible apply State.release_inv | with_reducible apply State.headFail_inv | with_reducible apply State.bmySend_inv | split)
  all_goals first | rfl | exact ⟨rfl, rfl, rfl⟩ | assumption

theorem State.tdEvent_inv (m : List Byte) (r : PathRec) (hc : ∀ p ∈ [Part.regs, .bmy, .wvr, .bank, .bankMem, .tly, .pcie, .tst, .out, .free], Closed R p) (h : R s) :
    R (s.tdEvent m r) := by
  unfold State.tdEvent
  try dsimp only
  repeat' (first | exact sub_inv (by decide) hc | (intro _; try dsimp only) | with_reducible assumption | with_reducible apply inv_ite | with_reducible apply State.modBmy_inv | with_reducible apply State.bmyResult_inv | split)
  all_goals first | rfl | exact ⟨rfl, rfl, rfl⟩ | assumption

theorem State.teardownRx_inv (p1 : Nat) (m : List Byte) (hc : ∀ p ∈ [Part.regs, .trd, .fine, .bmy, .wvr, .bank, .bankMem, .tly, .pcie, .tst, .out, .free], Closed R p) (h : R s) :
    R (s.teardownRx p1 m) := by
  unfold State.teardownRx
  try dsimp only
  repeat' (first | exact sub_inv (by decide) hc | (intro _; try dsimp only) | with_reducible assumption | with_reducible apply inv_ite | with_reducible apply seqAll_inv | with_reducible apply State.release_inv | with_reducible apply State.when_inv | with_reducible apply State.postDisc_inv | with_reducible apply State.tdEvent_inv | with_reducible apply State.bmySend_inv | with_reducible apply State.tdSend_inv | split)
  all_goals first | rfl | exact ⟨rfl, rfl, rfl⟩ | assumption

theorem State.tdAckRx_inv (p1 : Nat) (m : List Byte) (hc : ∀ p ∈ [Part.bmy], Closed R p) (h : R s) :
    R (s.tdAckRx p1 m) := by
  unfold State.tdAckRx
  try dsimp only
  repeat' (first | exact sub_inv (by decide) hc | (intro _; try dsimp only) | with_reducible assumption | with_reducible apply inv_ite | with_reducible apply State.modBmy_inv | split)
  all_goals first | rfl | exact ⟨rfl, rfl, rfl⟩ | assumption

theorem State.bmyReceive_inv (p1 : Nat) (m : List Byte) (hc : ∀ p ∈ [Part.regs, .trd, .fine, .bmy, .wvr, .bank, .bankMem, .tly, .pcie, .tst, .out, .free], Closed R p) (h : R s) :
    R (s.bmyReceive p1 m) := by
  unfold State.bmyReceive
  try dsimp only
  repeat' (first | exact sub_inv (by decide) hc | (intro _; try dsimp only) | with_reducible assumption | with_reducible apply inv_ite | with_reducible apply State.incReg_inv | with_reducible apply State.count_inv | with_reducible apply State.hello_inv | with_reducible apply State.idReq_inv | with_reducible apply State.idOffer_inv | with_reducible apply State.idAck_inv | with_reducible apply State.setupRx_inv | with_reducible apply State.confirmRx_inv | with_reducible apply State.refuseRx_inv | with_reducible apply State.teardownRx_inv | with_reducible apply State.tdAckRx_inv | split)
  all_goals first | rfl | exact ⟨rfl, rfl, rfl⟩ | assumption

theorem State.bmyProcess_inv (hc : ∀ p ∈ [Part.regs, .trd, .fine, .bmy, .wvr, .bank, .bankMem, .tly, .pcie, .tst, .out, .free], Closed R p) (h : R s) :
    R (s.bmyProcess) := by
  unfold State.bmyProcess
  try dsimp only
  repeat' (first | exact sub_inv (by decide) hc | (intro _; try dsimp only) | with_reducible assumption | with_reducible apply inv_ite | with_reducible apply State.modBmy_inv | with_reducible apply seqAll_inv | with_reducible apply State.bmyReceive_inv | split)
  all_goals first | rfl | exact ⟨rfl, rfl, rfl⟩ | assumption

theorem State.bmyCells_inv (l : Nat) (c : CellRun) (hc : ∀ p ∈ [Part.lanes, .bmy, .tly], Closed R p) (h : R s) :
    R (s.bmyCells l c) := by
  unfold State.bmyCells
  try dsimp only
  repeat' (first | exact sub_inv (by decide) hc | (intro _; try dsimp only) | with_reducible assumption | with_reducible apply inv_ite | with_reducible apply State.cellsIn_inv | with_reducible apply State.modBmy_inv | with_reducible apply State.count_inv | with_reducible apply State.modLane_inv | split)
  all_goals first | rfl | exact ⟨rfl, rfl, rfl⟩ | assumption

theorem State.bmyRow_inv (l : Nat) (c : CellRun) (hc : ∀ p ∈ [Part.lanes, .bmy, .tly], Closed R p) (h : R s) :
    OutInv R (s.bmyRow l c) := by
  unfold State.bmyRow
  try dsimp only
  repeat' (first | exact sub_inv (by decide) hc | with_reducible apply outInv_next | with_reducible exact outInv_fault _ | with_reducible apply outInv_ite | (intro _; try dsimp only) | with_reducible assumption | with_reducible apply inv_ite | with_reducible apply State.when_inv | with_reducible apply State.bmyCells_inv | split)
  all_goals first | rfl | exact ⟨rfl, rfl, rfl⟩ | assumption

theorem execHelloRx_inv (l : Fin 512) (c : CellRun) (hc : ∀ p ∈ [Part.lanes, .bmy, .tly], Closed R p) (h : R s) :
    OutInv R (execHelloRx l c s) := by
  unfold execHelloRx
  try dsimp only
  repeat' (first | exact sub_inv (by decide) hc | with_reducible apply outInv_next | with_reducible exact outInv_fault _ | with_reducible apply outInv_ite | (intro _; try dsimp only) | with_reducible assumption | with_reducible apply inv_ite | with_reducible apply State.bmyRow_inv | split)
  all_goals first | rfl | exact ⟨rfl, rfl, rfl⟩ | assumption

theorem execIdReqRx_inv (l : Fin 512) (c : CellRun) (hc : ∀ p ∈ [Part.lanes, .bmy, .tly], Closed R p) (h : R s) :
    OutInv R (execIdReqRx l c s) := by
  unfold execIdReqRx
  try dsimp only
  repeat' (first | exact sub_inv (by decide) hc | with_reducible apply outInv_next | with_reducible exact outInv_fault _ | with_reducible apply outInv_ite | (intro _; try dsimp only) | with_reducible assumption | with_reducible apply inv_ite | with_reducible apply State.bmyRow_inv | split)
  all_goals first | rfl | exact ⟨rfl, rfl, rfl⟩ | assumption

theorem execIdOfferRx_inv (l : Fin 512) (c : CellRun) (hc : ∀ p ∈ [Part.lanes, .bmy, .tly], Closed R p) (h : R s) :
    OutInv R (execIdOfferRx l c s) := by
  unfold execIdOfferRx
  try dsimp only
  repeat' (first | exact sub_inv (by decide) hc | with_reducible apply outInv_next | with_reducible exact outInv_fault _ | with_reducible apply outInv_ite | (intro _; try dsimp only) | with_reducible assumption | with_reducible apply inv_ite | with_reducible apply State.bmyRow_inv | split)
  all_goals first | rfl | exact ⟨rfl, rfl, rfl⟩ | assumption

theorem execIdAckRx_inv (l : Fin 512) (c : CellRun) (hc : ∀ p ∈ [Part.lanes, .bmy, .tly], Closed R p) (h : R s) :
    OutInv R (execIdAckRx l c s) := by
  unfold execIdAckRx
  try dsimp only
  repeat' (first | exact sub_inv (by decide) hc | with_reducible apply outInv_next | with_reducible exact outInv_fault _ | with_reducible apply outInv_ite | (intro _; try dsimp only) | with_reducible assumption | with_reducible apply inv_ite | with_reducible apply State.bmyRow_inv | split)
  all_goals first | rfl | exact ⟨rfl, rfl, rfl⟩ | assumption

theorem execSetupRx_inv (l : Fin 512) (c : CellRun) (hc : ∀ p ∈ [Part.lanes, .bmy, .tly], Closed R p) (h : R s) :
    OutInv R (execSetupRx l c s) := by
  unfold execSetupRx
  try dsimp only
  repeat' (first | exact sub_inv (by decide) hc | with_reducible apply outInv_next | with_reducible exact outInv_fault _ | with_reducible apply outInv_ite | (intro _; try dsimp only) | with_reducible assumption | with_reducible apply inv_ite | with_reducible apply State.bmyRow_inv | split)
  all_goals first | rfl | exact ⟨rfl, rfl, rfl⟩ | assumption

theorem execConfirmRx_inv (l : Fin 512) (c : CellRun) (hc : ∀ p ∈ [Part.lanes, .bmy, .tly], Closed R p) (h : R s) :
    OutInv R (execConfirmRx l c s) := by
  unfold execConfirmRx
  try dsimp only
  repeat' (first | exact sub_inv (by decide) hc | with_reducible apply outInv_next | with_reducible exact outInv_fault _ | with_reducible apply outInv_ite | (intro _; try dsimp only) | with_reducible assumption | with_reducible apply inv_ite | with_reducible apply State.bmyRow_inv | split)
  all_goals first | rfl | exact ⟨rfl, rfl, rfl⟩ | assumption

theorem execRefuseRx_inv (l : Fin 512) (c : CellRun) (hc : ∀ p ∈ [Part.lanes, .bmy, .tly], Closed R p) (h : R s) :
    OutInv R (execRefuseRx l c s) := by
  unfold execRefuseRx
  try dsimp only
  repeat' (first | exact sub_inv (by decide) hc | with_reducible apply outInv_next | with_reducible exact outInv_fault _ | with_reducible apply outInv_ite | (intro _; try dsimp only) | with_reducible assumption | with_reducible apply inv_ite | with_reducible apply State.bmyRow_inv | split)
  all_goals first | rfl | exact ⟨rfl, rfl, rfl⟩ | assumption

theorem execTeardownRx_inv (l : Fin 512) (c : CellRun) (hc : ∀ p ∈ [Part.lanes, .bmy, .tly], Closed R p) (h : R s) :
    OutInv R (execTeardownRx l c s) := by
  unfold execTeardownRx
  try dsimp only
  repeat' (first | exact sub_inv (by decide) hc | with_reducible apply outInv_next | with_reducible exact outInv_fault _ | with_reducible apply outInv_ite | (intro _; try dsimp only) | with_reducible assumption | with_reducible apply inv_ite | with_reducible apply State.bmyRow_inv | split)
  all_goals first | rfl | exact ⟨rfl, rfl, rfl⟩ | assumption

theorem execTdAckRx_inv (l : Fin 512) (c : CellRun) (hc : ∀ p ∈ [Part.lanes, .bmy, .tly], Closed R p) (h : R s) :
    OutInv R (execTdAckRx l c s) := by
  unfold execTdAckRx
  try dsimp only
  repeat' (first | exact sub_inv (by decide) hc | with_reducible apply outInv_next | with_reducible exact outInv_fault _ | with_reducible apply outInv_ite | (intro _; try dsimp only) | with_reducible assumption | with_reducible apply inv_ite | with_reducible apply State.bmyRow_inv | split)
  all_goals first | rfl | exact ⟨rfl, rfl, rfl⟩ | assumption

theorem execHelloInterval_inv (hc : ∀ p ∈ [Part.bmy], Closed R p) (h : R s) :
    OutInv R (execHelloInterval s) := by
  unfold execHelloInterval
  try dsimp only
  repeat' (first | exact sub_inv (by decide) hc | with_reducible apply outInv_next | with_reducible exact outInv_fault _ | with_reducible apply outInv_ite | (intro _; try dsimp only) | with_reducible assumption | with_reducible apply inv_ite | with_reducible apply State.helloSend_inv | split)
  all_goals first | rfl | exact ⟨rfl, rfl, rfl⟩ | assumption

theorem execHelloLossTimeout_inv (p1 : Fin 8) (hc : ∀ p ∈ [Part.regs, .bmy, .pcie, .out], Closed R p) (h : R s) :
    OutInv R (execHelloLossTimeout p1 s) := by
  unfold execHelloLossTimeout
  try dsimp only
  repeat' (first | exact sub_inv (by decide) hc | with_reducible apply outInv_next | with_reducible exact outInv_fault _ | with_reducible apply outInv_ite | (intro _; try dsimp only) | with_reducible assumption | with_reducible apply inv_ite | with_reducible apply State.helloLossDue_inv | split)
  all_goals first | rfl | exact ⟨rfl, rfl, rfl⟩ | assumption

theorem execIdOfferTimeout_inv (hc : ∀ p ∈ [Part.regs, .bmy], Closed R p) (h : R s) :
    OutInv R (execIdOfferTimeout s) := by
  unfold execIdOfferTimeout
  try dsimp only
  repeat' (first | exact sub_inv (by decide) hc | with_reducible apply outInv_next | with_reducible exact outInv_fault _ | with_reducible apply outInv_ite | (intro _; try dsimp only) | with_reducible assumption | with_reducible apply inv_ite | with_reducible apply State.offerTimeout_inv | split)
  all_goals first | rfl | exact ⟨rfl, rfl, rfl⟩ | assumption

theorem State.takeRequest_inv (op : Nat → Bool) (f : State → List Byte → State) (hc : ∀ p ∈ [Part.regs, .bmy, .wvr, .bank, .bankMem, .tly, .pcie, .tst, .out, .free], Closed R p) (h : R s) (hf : ∀ y0 y1, R y0 → R (f y0 y1)) :
    R (s.takeRequest op f) := by
  unfold State.takeRequest
  try dsimp only
  repeat' (first | exact sub_inv (by decide) hc | (intro _; try dsimp only) | with_reducible assumption | with_reducible apply inv_ite | with_reducible apply hf | with_reducible apply State.ringTake_inv | with_reducible apply State.bmyResult_inv | split)
  all_goals first | rfl | exact ⟨rfl, rfl, rfl⟩ | assumption

theorem execBmyReqSetup_inv (hc : ∀ p ∈ [Part.regs, .trd, .fine, .bmy, .wvr, .bank, .bankMem, .tly, .pcie, .tst, .out, .free], Closed R p) (h : R s) :
    OutInv R (execBmyReqSetup s) := by
  unfold execBmyReqSetup
  try dsimp only
  repeat' (first | exact sub_inv (by decide) hc | with_reducible apply outInv_next | with_reducible exact outInv_fault _ | with_reducible apply outInv_ite | (intro _; try dsimp only) | with_reducible assumption | with_reducible apply inv_ite | with_reducible apply State.takeRequest_inv | with_reducible apply State.headTry_inv | with_reducible apply State.modBmy_inv | split)
  all_goals first | rfl | exact ⟨rfl, rfl, rfl⟩ | assumption

theorem State.headTeardown_inv (q : List Byte) (hc : ∀ p ∈ [Part.regs, .trd, .fine, .bmy, .wvr, .bank, .bankMem, .tly, .pcie, .tst, .out, .free], Closed R p) (h : R s) :
    R (s.headTeardown q) := by
  unfold State.headTeardown
  try dsimp only
  repeat' (first | exact sub_inv (by decide) hc | (intro _; try dsimp only) | with_reducible assumption | with_reducible apply inv_ite | with_reducible apply seqAll_inv | with_reducible apply State.tdAlong_inv | with_reducible apply State.release_inv | with_reducible apply State.when_inv | with_reducible apply State.postDisc_inv | with_reducible apply State.bmyResult_inv | with_reducible apply State.modBmy_inv | split)
  all_goals first | rfl | exact ⟨rfl, rfl, rfl⟩ | assumption

theorem execBmyReqTeardown_inv (hc : ∀ p ∈ [Part.regs, .trd, .fine, .bmy, .wvr, .bank, .bankMem, .tly, .pcie, .tst, .out, .free], Closed R p) (h : R s) :
    OutInv R (execBmyReqTeardown s) := by
  unfold execBmyReqTeardown
  try dsimp only
  repeat' (first | exact sub_inv (by decide) hc | with_reducible apply outInv_next | with_reducible exact outInv_fault _ | with_reducible apply outInv_ite | (intro _; try dsimp only) | with_reducible assumption | with_reducible apply inv_ite | with_reducible apply State.takeRequest_inv | with_reducible apply State.headTeardown_inv | split)
  all_goals first | rfl | exact ⟨rfl, rfl, rfl⟩ | assumption

theorem execBmyReqBadOp_inv (hc : ∀ p ∈ [Part.regs, .bmy, .wvr, .bank, .bankMem, .tly, .pcie, .tst, .out, .free], Closed R p) (h : R s) :
    OutInv R (execBmyReqBadOp s) := by
  unfold execBmyReqBadOp
  try dsimp only
  repeat' (first | exact sub_inv (by decide) hc | with_reducible apply outInv_next | with_reducible exact outInv_fault _ | with_reducible apply outInv_ite | (intro _; try dsimp only) | with_reducible assumption | with_reducible apply inv_ite | with_reducible apply State.takeRequest_inv | with_reducible apply State.bmyResult_inv | split)
  all_goals first | rfl | exact ⟨rfl, rfl, rfl⟩ | assumption

theorem State.agentEntry_inv (fe : Bool) (tag st : Nat) (t : State) (hc : ∀ p ∈ [Part.regs, .bank, .pcie, .out], Closed R p) (h : R s)
    (ht : s.agentEntry fe = some (tag, st, t)) : R t := by
  unfold State.agentEntry at ht
  dsimp only at ht
  split at ht
  · cases ht
  · injection ht with ht; injection ht with _ ht; injection ht with _ ht; subst ht
    exact State.setReg_inv _ _ (sub_inv (by decide) hc) (State.winTouch_inv _ _ (sub_inv (by decide) hc) h)

theorem execAgentCompletion_inv (hc : ∀ p ∈ [Part.regs, .bmy, .wvr, .bank, .bankMem, .tly, .pcie, .tst, .out, .free], Closed R p) (h : R s) : OutInv R (execAgentCompletion s) := by
  refine outInv_next (inv_ite ?_ h)
  split
  · rename_i hh
    exact State.completed_inv _ _ (sub_inv (by decide) hc) (State.agentEntry_inv _ _ _ _ (sub_inv (by decide) hc) h hh)
  · split
    · rename_i hh
      exact State.completed_inv _ _ (sub_inv (by decide) hc) (State.agentEntry_inv _ _ _ _ (sub_inv (by decide) hc) h hh)
    · exact h

theorem State.setupTmo_inv (h1 : HeadReq) (hc : ∀ p ∈ [Part.regs, .bmy, .wvr, .bank, .bankMem, .tly, .pcie, .tst, .out, .free], Closed R p) (h : R s) :
    R (s.setupTmo h1) := by
  unfold State.setupTmo
  try dsimp only
  repeat' (first | exact sub_inv (by decide) hc | (intro _; try dsimp only) | with_reducible assumption | with_reducible apply inv_ite | with_reducible apply State.tdSend_inv | with_reducible apply seqAll_inv | with_reducible apply State.tdAlong_inv | with_reducible apply State.release_inv | with_reducible apply State.headFail_inv | split)
  all_goals first | rfl | exact ⟨rfl, rfl, rfl⟩ | assumption

theorem execSetupTmo_inv (rno : BitVec 16) (hc : ∀ p ∈ [Part.regs, .bmy, .wvr, .bank, .bankMem, .tly, .pcie, .tst, .out, .free], Closed R p) (h : R s) :
    OutInv R (execSetupTmo rno s) := by
  unfold execSetupTmo
  try dsimp only
  repeat' (first | exact sub_inv (by decide) hc | with_reducible apply outInv_next | with_reducible exact outInv_fault _ | with_reducible apply outInv_ite | (intro _; try dsimp only) | with_reducible assumption | with_reducible apply inv_ite | with_reducible apply State.setupTmo_inv | split)
  all_goals first | rfl | exact ⟨rfl, rfl, rfl⟩ | assumption

theorem execRsvTmo_inv (orig : BitVec 18) (rno : BitVec 16) (hc : ∀ p ∈ [Part.bmy], Closed R p) (h : R s) :
    OutInv R (execRsvTmo orig rno s) := by
  unfold execRsvTmo
  try dsimp only
  repeat' (first | exact sub_inv (by decide) hc | with_reducible apply outInv_next | with_reducible exact outInv_fault _ | with_reducible apply outInv_ite | (intro _; try dsimp only) | with_reducible assumption | with_reducible apply inv_ite | with_reducible apply seqAll_inv | with_reducible apply State.release_inv | split)
  all_goals first | rfl | exact ⟨rfl, rfl, rfl⟩ | assumption

theorem execRetryBackoff_inv (rno : BitVec 16) (hc : ∀ p ∈ [Part.regs, .trd, .fine, .bmy, .wvr, .bank, .bankMem, .tly, .pcie, .tst, .out, .free], Closed R p) (h : R s) :
    OutInv R (execRetryBackoff rno s) := by
  unfold execRetryBackoff
  try dsimp only
  repeat' (first | exact sub_inv (by decide) hc | with_reducible apply outInv_next | with_reducible exact outInv_fault _ | with_reducible apply outInv_ite | (intro _; try dsimp only) | with_reducible assumption | with_reducible apply inv_ite | with_reducible apply State.headTry_inv | split)
  all_goals first | rfl | exact ⟨rfl, rfl, rfl⟩ | assumption

theorem execTeardownResend_inv (p1 : Fin 8) (hc : ∀ p ∈ [Part.regs, .bmy], Closed R p) (h : R s) :
    OutInv R (execTeardownResend p1 s) := by
  unfold execTeardownResend
  try dsimp only
  repeat' (first | exact sub_inv (by decide) hc | with_reducible apply outInv_next | with_reducible exact outInv_fault _ | with_reducible apply outInv_ite | (intro _; try dsimp only) | with_reducible assumption | with_reducible apply inv_ite | with_reducible apply State.when_inv | with_reducible apply State.tdResend_inv | split)
  all_goals first | rfl | exact ⟨rfl, rfl, rfl⟩ | assumption

theorem State.audit_inv (hc : ∀ p ∈ [Part.regs, .bmy], Closed R p) (h : R s) :
    R (s.audit) := by
  unfold State.audit
  try dsimp only
  repeat' (first | exact sub_inv (by decide) hc | (intro _; try dsimp only) | with_reducible assumption | with_reducible apply inv_ite | with_reducible apply seqAll_inv | with_reducible apply State.tdAlong_inv | with_reducible apply State.incReg_inv | with_reducible apply State.release_inv | with_reducible apply State.modBmy_inv | split)
  all_goals first | rfl | exact ⟨rfl, rfl, rfl⟩ | assumption

theorem execBamryAudit_inv (hc : ∀ p ∈ [Part.regs, .bmy], Closed R p) (h : R s) :
    OutInv R (execBamryAudit s) := by
  unfold execBamryAudit
  try dsimp only
  repeat' (first | exact sub_inv (by decide) hc | with_reducible apply outInv_next | with_reducible exact outInv_fault _ | with_reducible apply outInv_ite | (intro _; try dsimp only) | with_reducible assumption | with_reducible apply inv_ite | with_reducible apply State.audit_inv | split)
  all_goals first | rfl | exact ⟨rfl, rfl, rfl⟩ | assumption

theorem State.devidWrite_inv (m : Mid) (v : Word) (hc : ∀ p ∈ [Part.regs], Closed R p) (h : R s) :
    R (s.devidWrite m v) := by
  unfold State.devidWrite
  try dsimp only
  repeat' (first | exact sub_inv (by decide) hc | (intro _; try dsimp only) | with_reducible assumption | with_reducible apply inv_ite | with_reducible apply State.errlog_inv | with_reducible apply State.setReg_inv | split)
  all_goals first | rfl | exact ⟨rfl, rfl, rfl⟩ | assumption

theorem execBmyDevidWrite_inv (m : Mid) (v : Word) (hc : ∀ p ∈ [Part.regs, .wvr, .pcie, .tst, .out, .resp], Closed R p) (h : R s) :
    OutInv R (execBmyDevidWrite m v s) := by
  unfold execBmyDevidWrite
  try dsimp only
  repeat' (first | exact sub_inv (by decide) hc | with_reducible apply outInv_next | with_reducible exact outInv_fault _ | with_reducible apply outInv_ite | (intro _; try dsimp only) | with_reducible assumption | with_reducible apply inv_ite | with_reducible apply State.write4_inv | with_reducible apply State.devidWrite_inv | split)
  all_goals first | rfl | exact ⟨rfl, rfl, rfl⟩ | assumption

theorem State.bmyLost_inv (hc : ∀ p ∈ [Part.regs, .bmy, .pcie, .out], Closed R p) (h : R s) :
    R (s.bmyLost) := by
  unfold State.bmyLost
  try dsimp only
  repeat' (first | exact sub_inv (by decide) hc | (intro _; try dsimp only) | with_reducible assumption | with_reducible apply inv_ite | with_reducible apply State.nbrIrq_inv | with_reducible apply State.modBmy_inv | split)
  all_goals first | rfl | exact ⟨rfl, rfl, rfl⟩ | assumption

theorem execBamryAgentLost_inv (hc : ∀ p ∈ [Part.regs, .bmy, .pcie, .out], Closed R p) (h : R s) :
    OutInv R (execBamryAgentLost s) := by
  unfold execBamryAgentLost
  try dsimp only
  repeat' (first | exact sub_inv (by decide) hc | with_reducible apply outInv_next | with_reducible exact outInv_fault _ | with_reducible apply outInv_ite | (intro _; try dsimp only) | with_reducible assumption | with_reducible apply inv_ite | with_reducible apply State.bmyLost_inv | split)
  all_goals first | rfl | exact ⟨rfl, rfl, rfl⟩ | assumption

theorem execBamryAgentRestart_inv (hc : ∀ p ∈ [Part.regs, .bmy], Closed R p) (h : R s) :
    OutInv R (execBamryAgentRestart s) := by
  unfold execBamryAgentRestart
  try dsimp only
  repeat' (first | exact sub_inv (by decide) hc | with_reducible apply outInv_next | with_reducible exact outInv_fault _ | with_reducible apply outInv_ite | (intro _; try dsimp only) | with_reducible assumption | with_reducible apply inv_ite | with_reducible apply State.audit_inv | with_reducible apply seqAll_inv | with_reducible apply State.release_inv | with_reducible apply State.modBmy_inv | split)
  all_goals first | rfl | exact ⟨rfl, rfl, rfl⟩ | assumption

theorem State.bmyBoundary_inv (hc : ∀ p ∈ [Part.regs, .bmy, .wvr, .bank, .bankMem, .tly, .pcie, .tst, .out, .free], Closed R p) (h : R s) :
    R (s.bmyBoundary) := by
  unfold State.bmyBoundary
  try dsimp only
  repeat' (first | exact sub_inv (by decide) hc | (intro _; try dsimp only) | with_reducible assumption | with_reducible apply inv_ite | with_reducible apply seqAll_inv | with_reducible apply State.helloLossDue_inv | with_reducible apply State.offerTimeout_inv | with_reducible apply State.bmyLost_inv | with_reducible apply State.renegotiate_inv | with_reducible apply State.chooseLane_inv | with_reducible apply State.bmyFlushPort_inv | with_reducible apply State.bmyDrain_inv | with_reducible apply State.when_inv | with_reducible apply State.modBmy_inv | with_reducible apply State.markSent_inv | split)
  all_goals first | rfl | exact ⟨rfl, rfl, rfl⟩ | assumption

end Sys2Proof.Machine
end

