-- ==== Sys2Proof/Laws/InvBeat.lean ====
section
/-! SUPPORT. What the operations of Machine/Beat.lean keep. -/
namespace Sys2Proof.Machine

variable {R : State → Prop} {s : State}

theorem State.resetCand_inv (c : Nat) (hc : ∀ p ∈ [Part.regs, .beat, .pcie, .out], Closed R p) (h : R s) :
    R (s.resetCand c) := by
  unfold State.resetCand
  try dsimp only
  repeat' (first | exact sub_inv (by decide) hc | (intro _; try dsimp only) | with_reducible assumption | with_reducible apply inv_ite | with_reducible apply State.when_inv | with_reducible apply State.setReg_inv | with_reducible apply State.modCand_inv | with_reducible apply State.irq_inv | split)
  all_goals first | rfl | exact ⟨rfl, rfl, rfl⟩ | assumption

theorem State.monitor_inv (c : Nat) (ppb : Int) (hc : ∀ p ∈ [Part.regs, .beat], Closed R p) (h : R s) :
    R (s.monitor c ppb) := by
  unfold State.monitor
  try dsimp only
  repeat' (first | exact sub_inv (by decide) hc | (intro _; try dsimp only) | with_reducible assumption | with_reducible apply inv_ite | with_reducible apply State.modCand_inv | with_reducible apply State.setReg_inv | split)
  all_goals first | rfl | exact ⟨rfl, rfl, rfl⟩ | assumption

theorem State.endAlign_inv (r : AlignRes) (hc : ∀ p ∈ [Part.regs, .beat, .pcie, .out], Closed R p) (h : R s) :
    R (s.endAlign r) := by
  unfold State.endAlign
  try dsimp only
  repeat' (first | exact sub_inv (by decide) hc | (intro _; try dsimp only) | with_reducible assumption | with_reducible apply inv_ite | with_reducible apply State.irq_inv | with_reducible apply State.modBeat_inv | split)
  all_goals first | rfl | exact ⟨rfl, rfl, rfl⟩ | assumption

theorem State.beatNoted_inv (f : State → State) (hc : ∀ p ∈ [Part.regs, .beat, .pcie, .tst, .out, .free], Closed R p) (h : R s) (hf : ∀ y0, R y0 → R (f y0)) :
    R (s.beatNoted f) := by
  unfold State.beatNoted
  try dsimp only
  repeat' (first | exact sub_inv (by decide) hc | (intro _; try dsimp only) | with_reducible assumption | with_reducible apply inv_ite | with_reducible apply hf | with_reducible apply State.trace_inv | with_reducible apply State.irq_inv | with_reducible apply State.endAlign_inv | split)
  all_goals first | rfl | exact ⟨rfl, rfl, rfl⟩ | assumption

theorem State.candPhase_inv (c : Nat) (hc : ∀ p ∈ [Part.free], Closed R p) (h : R s) :
    R (s.candPhase c).2 := by
  unfold State.candPhase
  try dsimp only
  repeat' (first | exact sub_inv (by decide) hc | (intro _; try dsimp only) | with_reducible assumption | with_reducible apply inv_ite | with_reducible apply State.freeVal_inv | split)
  all_goals first | rfl | exact ⟨rfl, rfl, rfl⟩ | assumption

theorem State.setTheta_inv (c : Nat) (hc : ∀ p ∈ [Part.beat, .free], Closed R p) (h : R s) :
    R (s.setTheta c) := by
  unfold State.setTheta
  try dsimp only
  repeat' (first | exact sub_inv (by decide) hc | (intro _; try dsimp only) | with_reducible assumption | with_reducible apply inv_ite | with_reducible apply State.candPhase_inv | with_reducible apply State.modBeat_inv | split)
  all_goals first | rfl | exact ⟨rfl, rfl, rfl⟩ | assumption

theorem State.switchTo_inv (c : Nat) (hc : ∀ p ∈ [Part.regs, .beat, .pcie, .out, .free], Closed R p) (h : R s) :
    R (s.switchTo c) := by
  unfold State.switchTo
  try dsimp only
  repeat' (first | exact sub_inv (by decide) hc | (intro _; try dsimp only) | with_reducible assumption | with_reducible apply inv_ite | with_reducible apply State.candPhase_inv | with_reducible apply State.modBeat_inv | with_reducible apply State.setReg_inv | with_reducible apply State.irq_inv | split)
  all_goals first | rfl | exact ⟨rfl, rfl, rfl⟩ | assumption

theorem State.acquireOn_inv (c : Nat) (keep : Bool) (hc : ∀ p ∈ [Part.regs, .beat, .pcie, .out, .free], Closed R p) (h : R s) :
    R (s.acquireOn c keep) := by
  unfold State.acquireOn
  try dsimp only
  repeat' (first | exact sub_inv (by decide) hc | (intro _; try dsimp only) | with_reducible assumption | with_reducible apply inv_ite | with_reducible apply State.switchTo_inv | with_reducible apply State.setTheta_inv | with_reducible apply State.modBeat_inv | split)
  all_goals first | rfl | exact ⟨rfl, rfl, rfl⟩ | assumption

theorem State.beatMove_inv (r : SelRes) (hc : ∀ p ∈ [Part.regs, .beat, .pcie, .out, .free], Closed R p) (h : R s) :
    R (s.beatMove r) := by
  unfold State.beatMove
  try dsimp only
  repeat' (first | exact sub_inv (by decide) hc | (intro _; try dsimp only) | with_reducible assumption | with_reducible apply inv_ite | with_reducible apply State.modBeat_inv | with_reducible apply State.incReg_inv | with_reducible apply State.acquireOn_inv | split)
  all_goals first | rfl | exact ⟨rfl, rfl, rfl⟩ | assumption

theorem State.selectAndMove_inv (hc : ∀ p ∈ [Part.regs, .beat, .pcie, .tst, .out, .free], Closed R p) (h : R s) :
    R (s.selectAndMove) := by
  unfold State.selectAndMove
  try dsimp only
  repeat' (first | exact sub_inv (by decide) hc | (intro _; try dsimp only) | with_reducible assumption | with_reducible apply inv_ite | with_reducible apply State.beatNoted_inv | with_reducible apply State.beatMove_inv | with_reducible apply State.modBeat_inv | split)
  all_goals first | rfl | exact ⟨rfl, rfl, rfl⟩ | assumption

theorem State.stageAdvance_inv (hc : ∀ p ∈ [Part.beat], Closed R p) (h : R s) :
    R (s.stageAdvance) := by
  unfold State.stageAdvance
  try dsimp only
  repeat' (first | exact sub_inv (by decide) hc | (intro _; try dsimp only) | with_reducible assumption | with_reducible apply inv_ite | with_reducible apply State.modBeat_inv | split)
  all_goals first | rfl | exact ⟨rfl, rfl, rfl⟩ | assumption

theorem State.beatLocked_inv (hc : ∀ p ∈ [Part.regs, .beat, .pcie, .tst, .out, .free], Closed R p) (h : R s) :
    R (s.beatLocked) := by
  unfold State.beatLocked
  try dsimp only
  repeat' (first | exact sub_inv (by decide) hc | (intro _; try dsimp only) | with_reducible assumption | with_reducible apply inv_ite | with_reducible apply State.beatNoted_inv | with_reducible apply State.modBeat_inv | split)
  all_goals first | rfl | exact ⟨rfl, rfl, rfl⟩ | assumption

theorem State.lockLost_inv (hc : ∀ p ∈ [Part.regs, .beat, .pcie, .tst, .out, .free], Closed R p) (h : R s) :
    R (s.lockLost) := by
  unfold State.lockLost
  try dsimp only
  repeat' (first | exact sub_inv (by decide) hc | (intro _; try dsimp only) | with_reducible assumption | with_reducible apply inv_ite | with_reducible apply State.beatNoted_inv | with_reducible apply State.modBeat_inv | split)
  all_goals first | rfl | exact ⟨rfl, rfl, rfl⟩ | assumption

theorem State.acqTimeoutBeat_inv (hc : ∀ p ∈ [Part.regs, .beat, .pcie, .tst, .out, .free], Closed R p) (h : R s) :
    R (s.acqTimeoutBeat) := by
  unfold State.acqTimeoutBeat
  try dsimp only
  repeat' (first | exact sub_inv (by decide) hc | (intro _; try dsimp only) | with_reducible assumption | with_reducible apply inv_ite | with_reducible apply State.modCand_inv | with_reducible apply State.selectAndMove_inv | with_reducible apply State.when_inv | with_reducible apply State.irq_inv | split)
  all_goals first | rfl | exact ⟨rfl, rfl, rfl⟩ | assumption

theorem State.holdoverMax_inv (hc : ∀ p ∈ [Part.regs, .beat, .pcie, .tst, .out, .free], Closed R p) (h : R s) :
    R (s.holdoverMax) := by
  unfold State.holdoverMax
  try dsimp only
  repeat' (first | exact sub_inv (by decide) hc | (intro _; try dsimp only) | with_reducible assumption | with_reducible apply inv_ite | with_reducible apply State.irq_inv | with_reducible apply State.beatNoted_inv | with_reducible apply State.modBeat_inv | split)
  all_goals first | rfl | exact ⟨rfl, rfl, rfl⟩ | assumption

theorem State.hoValidSet_inv (hc : ∀ p ∈ [Part.beat], Closed R p) (h : R s) :
    R (s.hoValidSet) := by
  unfold State.hoValidSet
  try dsimp only
  repeat' (first | exact sub_inv (by decide) hc | (intro _; try dsimp only) | with_reducible assumption | with_reducible apply inv_ite | with_reducible apply State.modBeat_inv | split)
  all_goals first | rfl | exact ⟨rfl, rfl, rfl⟩ | assumption

theorem State.pullComplete_inv (hc : ∀ p ∈ [Part.beat], Closed R p) (h : R s) :
    R (s.pullComplete) := by
  unfold State.pullComplete
  try dsimp only
  repeat' (first | exact sub_inv (by decide) hc | (intro _; try dsimp only) | with_reducible assumption | with_reducible apply inv_ite | with_reducible apply State.modBeat_inv | split)
  all_goals first | rfl | exact ⟨rfl, rfl, rfl⟩ | assumption

theorem State.refLost_inv (hc : ∀ p ∈ [Part.beat], Closed R p) (h : R s) :
    R (s.refLost) := by
  unfold State.refLost
  try dsimp only
  repeat' (first | exact sub_inv (by decide) hc | (intro _; try dsimp only) | with_reducible assumption | with_reducible apply inv_ite | with_reducible apply State.modBeat_inv | split)
  all_goals first | rfl | exact ⟨rfl, rfl, rfl⟩ | assumption

theorem State.ppsEdge_inv (hc : ∀ p ∈ [Part.beat, .out], Closed R p) (h : R s) :
    R (s.ppsEdge) := by
  unfold State.ppsEdge
  try dsimp only
  repeat' (first | exact sub_inv (by decide) hc | (intro _; try dsimp only) | with_reducible assumption | with_reducible apply inv_ite | with_reducible apply State.modBeat_inv | with_reducible apply State.emit_inv | split)
  all_goals first | rfl | exact ⟨rfl, rfl, rfl⟩ | assumption

theorem State.alignDone_inv (hc : ∀ p ∈ [Part.regs, .beat, .pcie, .out], Closed R p) (h : R s) :
    R (s.alignDone) := by
  unfold State.alignDone
  try dsimp only
  repeat' (first | exact sub_inv (by decide) hc | (intro _; try dsimp only) | with_reducible assumption | with_reducible apply inv_ite | with_reducible apply State.setReg_inv | with_reducible apply State.modBeat_inv | with_reducible apply State.endAlign_inv | split)
  all_goals first | rfl | exact ⟨rfl, rfl, rfl⟩ | assumption

theorem State.qualify_inv (c : Nat) (hc : ∀ p ∈ [Part.regs, .beat, .pcie, .out], Closed R p) (h : R s) :
    R (s.qualify c) := by
  unfold State.qualify
  try dsimp only
  repeat' (first | exact sub_inv (by decide) hc | (intro _; try dsimp only) | with_reducible assumption | with_reducible apply inv_ite | with_reducible apply State.irq_inv | with_reducible apply State.modCand_inv | split)
  all_goals first | rfl | exact ⟨rfl, rfl, rfl⟩ | assumption

theorem State.lrChange_inv (c : Nat) (hc : ∀ p ∈ [Part.beat], Closed R p) (h : R s) :
    R (s.lrChange c) := by
  unfold State.lrChange
  try dsimp only
  repeat' (first | exact sub_inv (by decide) hc | (intro _; try dsimp only) | with_reducible assumption | with_reducible apply inv_ite | with_reducible apply State.modCand_inv | split)
  all_goals first | rfl | exact ⟨rfl, rfl, rfl⟩ | assumption

theorem State.boltAlign_inv (ps : Int) (hc : ∀ p ∈ [Part.beat], Closed R p) (h : R s) :
    R (s.boltAlign ps) := by
  unfold State.boltAlign
  try dsimp only
  repeat' (first | exact sub_inv (by decide) hc | (intro _; try dsimp only) | with_reducible assumption | with_reducible apply inv_ite | with_reducible apply State.modBeat_inv | split)
  all_goals first | rfl | exact ⟨rfl, rfl, rfl⟩ | assumption

theorem State.alignStart_inv (marker : Int) (hc : ∀ p ∈ [Part.regs, .beat, .pcie, .out], Closed R p) (h : R s) :
    R (s.alignStart marker) := by
  unfold State.alignStart
  try dsimp only
  repeat' (first | exact sub_inv (by decide) hc | (intro _; try dsimp only) | with_reducible assumption | with_reducible apply inv_ite | with_reducible apply State.modBeat_inv | with_reducible apply State.endAlign_inv | with_reducible apply State.setReg_inv | with_reducible apply State.boltAlign_inv | with_reducible apply State.when_inv | split)
  all_goals first | rfl | exact ⟨rfl, rfl, rfl⟩ | assumption

theorem State.alignLeft_inv (hc : ∀ p ∈ [Part.regs, .beat, .pcie, .out, .free], Closed R p) (h : R s) :
    R (s.alignLeft) := by
  unfold State.alignLeft
  try dsimp only
  repeat' (first | exact sub_inv (by decide) hc | (intro _; try dsimp only) | with_reducible assumption | with_reducible apply inv_ite | with_reducible apply State.freeVal_inv | with_reducible apply State.alignStart_inv | split)
  all_goals first | rfl | exact ⟨rfl, rfl, rfl⟩ | assumption

theorem State.clkEdges_inv (hc : ∀ p ∈ [Part.out], Closed R p) (h : R s) :
    R (s.clkEdges) := by
  unfold State.clkEdges
  try dsimp only
  repeat' (first | exact sub_inv (by decide) hc | (intro _; try dsimp only) | with_reducible assumption | with_reducible apply inv_ite | with_reducible apply seqAll_inv | with_reducible apply State.emit_inv | split)
  all_goals first | rfl | exact ⟨rfl, rfl, rfl⟩ | assumption

theorem State.beatDue_inv (hc : ∀ p ∈ [Part.regs, .beat, .pcie, .tst, .out, .free], Closed R p) (h : R s) :
    R (s.beatDue) := by
  unfold State.beatDue
  try dsimp only
  repeat' (first | exact sub_inv (by decide) hc | (intro _; try dsimp only) | with_reducible assumption | with_reducible apply inv_ite | with_reducible apply seqAll_inv | with_reducible apply State.qualify_inv | with_reducible apply State.lrChange_inv | with_reducible apply State.alignLeft_inv | with_reducible apply State.hoValidSet_inv | with_reducible apply State.holdoverMax_inv | with_reducible apply State.acqTimeoutBeat_inv | with_reducible apply State.lockLost_inv | with_reducible apply State.beatLocked_inv | with_reducible apply State.stageAdvance_inv | with_reducible apply State.pullComplete_inv | split)
  all_goals first | rfl | exact ⟨rfl, rfl, rfl⟩ | assumption

theorem State.beatLeft_inv (hc : ∀ p ∈ [Part.regs, .beat, .pcie, .tst, .out, .free], Closed R p) (h : R s) :
    R (s.beatLeft) := by
  unfold State.beatLeft
  try dsimp only
  repeat' (first | exact sub_inv (by decide) hc | (intro _; try dsimp only) | with_reducible assumption | with_reducible apply inv_ite | with_reducible apply State.ppsEdge_inv | with_reducible apply State.refLost_inv | with_reducible apply State.alignDone_inv | with_reducible apply State.beatDue_inv | split)
  all_goals first | rfl | exact ⟨rfl, rfl, rfl⟩ | assumption

theorem State.beatMoves_inv (hc : ∀ p ∈ [Part.beat], Closed R p) (h : R s) :
    R (s.beatMoves) := by
  unfold State.beatMoves
  try dsimp only
  repeat' (first | exact sub_inv (by decide) hc | (intro _; try dsimp only) | with_reducible assumption | with_reducible apply inv_ite | with_reducible apply State.modBeat_inv | split)
  all_goals first | rfl | exact ⟨rfl, rfl, rfl⟩ | assumption

theorem State.beatMeasure_inv (o : BeatObs) (hc : ∀ p ∈ [Part.regs, .beat], Closed R p) (h : R s) :
    R (s.beatMeasure o) := by
  unfold State.beatMeasure
  try dsimp only
  repeat' (first | exact sub_inv (by decide) hc | (intro _; try dsimp only) | with_reducible assumption | with_reducible apply inv_ite | with_reducible apply State.modBeat_inv | with_reducible apply State.setReg_inv | split)
  all_goals first | rfl | exact ⟨rfl, rfl, rfl⟩ | assumption

theorem State.beatCount_inv (hc : ∀ p ∈ [Part.beat], Closed R p) (h : R s) :
    R (s.beatCount) := by
  unfold State.beatCount
  try dsimp only
  repeat' (first | exact sub_inv (by decide) hc | (intro _; try dsimp only) | with_reducible assumption | with_reducible apply inv_ite | with_reducible apply State.modBeat_inv | split)
  all_goals first | rfl | exact ⟨rfl, rfl, rfl⟩ | assumption

theorem State.candBoundary_inv (c : Nat) (hc : ∀ p ∈ [Part.regs, .beat, .pcie, .out], Closed R p) (h : R s) :
    R (s.candBoundary c) := by
  unfold State.candBoundary
  try dsimp only
  repeat' (first | exact sub_inv (by decide) hc | (intro _; try dsimp only) | with_reducible assumption | with_reducible apply inv_ite | with_reducible apply State.modCand_inv | with_reducible apply State.irq_inv | split)
  all_goals first | rfl | exact ⟨rfl, rfl, rfl⟩ | assumption

theorem State.stepDone_inv (hc : ∀ p ∈ [Part.beat, .out], Closed R p) (h : R s) :
    R (s.stepDone) := by
  unfold State.stepDone
  try dsimp only
  repeat' (first | exact sub_inv (by decide) hc | (intro _; try dsimp only) | with_reducible assumption | with_reducible apply inv_ite | with_reducible apply State.emit_inv | with_reducible apply State.modBeat_inv | with_reducible apply State.send_inv | split)
  all_goals first | rfl | exact ⟨rfl, rfl, rfl⟩ | assumption

theorem State.beatBoundary_inv (o : BeatObs) (hc : ∀ p ∈ [Part.regs, .beat, .pcie, .tst, .out, .free], Closed R p) (h : R s) :
    R (s.beatBoundary o) := by
  unfold State.beatBoundary
  try dsimp only
  repeat' (first | exact sub_inv (by decide) hc | (intro _; try dsimp only) | with_reducible assumption | with_reducible apply inv_ite | with_reducible apply State.setReg_inv | with_reducible apply State.modBeat_inv | with_reducible apply State.stepDone_inv | with_reducible apply State.beatMoves_inv | with_reducible apply State.beatCount_inv | with_reducible apply State.beatMeasure_inv | with_reducible apply seqAll_inv | with_reducible apply State.candBoundary_inv | with_reducible apply State.selectAndMove_inv | split)
  all_goals first | rfl | exact ⟨rfl, rfl, rfl⟩ | assumption

theorem State.dcoWrite_inv (m : Mid) (hi : Bool) (v : Word) (hc : ∀ p ∈ [Part.regs, .beat], Closed R p) (h : R s) :
    R (s.dcoWrite m hi v) := by
  unfold State.dcoWrite
  try dsimp only
  repeat' (first | exact sub_inv (by decide) hc | (intro _; try dsimp only) | with_reducible assumption | with_reducible apply inv_ite | with_reducible apply State.modBeat_inv | with_reducible apply State.errlog_inv | split)
  all_goals first | rfl | exact ⟨rfl, rfl, rfl⟩ | assumption

theorem State.dcoRead_inv (hc : ∀ p ∈ [Part.beat], Closed R p) (h : R s) :
    R (s.dcoRead).2 := by
  unfold State.dcoRead
  try dsimp only
  repeat' (first | exact sub_inv (by decide) hc | (intro _; try dsimp only) | with_reducible assumption | with_reducible apply inv_ite | with_reducible apply State.modBeat_inv | split)
  all_goals first | rfl | exact ⟨rfl, rfl, rfl⟩ | assumption

theorem State.alignCmd_inv (v : Word) (hc : ∀ p ∈ [Part.regs, .beat, .pcie, .out], Closed R p) (h : R s) :
    R (s.alignCmd v) := by
  unfold State.alignCmd
  try dsimp only
  repeat' (first | exact sub_inv (by decide) hc | (intro _; try dsimp only) | with_reducible assumption | with_reducible apply inv_ite | with_reducible apply State.endAlign_inv | with_reducible apply State.modBeat_inv | split)
  all_goals first | rfl | exact ⟨rfl, rfl, rfl⟩ | assumption

theorem State.candWrite_inv (c : Nat) (v : Word) (hc : ∀ p ∈ [Part.regs, .beat, .pcie, .out], Closed R p) (h : R s) :
    R (s.candWrite c v) := by
  unfold State.candWrite
  try dsimp only
  repeat' (first | exact sub_inv (by decide) hc | (intro _; try dsimp only) | with_reducible assumption | with_reducible apply inv_ite | with_reducible apply State.setReg_inv | with_reducible apply State.resetCand_inv | split)
  all_goals first | rfl | exact ⟨rfl, rfl, rfl⟩ | assumption

theorem execBeatDcoLoRead_inv (m : Mid) (hc : ∀ p ∈ [Part.regs, .beat, .pcie, .tst, .out, .resp], Closed R p) (h : R s) :
    OutInv R (execBeatDcoLoRead m s) := by
  unfold execBeatDcoLoRead
  try dsimp only
  repeat' (first | exact sub_inv (by decide) hc | with_reducible apply outInv_next | with_reducible exact outInv_fault _ | with_reducible apply outInv_ite | (intro _; try dsimp only) | with_reducible assumption | with_reducible apply inv_ite | with_reducible apply State.access_inv | with_reducible apply State.dcoRead_inv | with_reducible apply State.answer_inv | split)
  all_goals first | rfl | exact ⟨rfl, rfl, rfl⟩ | assumption

theorem execBeatDcoLoWrite_inv (m : Mid) (v : Word) (hc : ∀ p ∈ [Part.regs, .beat, .wvr, .pcie, .tst, .out, .resp], Closed R p) (h : R s) :
    OutInv R (execBeatDcoLoWrite m v s) := by
  unfold execBeatDcoLoWrite
  try dsimp only
  repeat' (first | exact sub_inv (by decide) hc | with_reducible apply outInv_next | with_reducible exact outInv_fault _ | with_reducible apply outInv_ite | (intro _; try dsimp only) | with_reducible assumption | with_reducible apply inv_ite | with_reducible apply State.write4_inv | with_reducible apply State.dcoWrite_inv | split)
  all_goals first | rfl | exact ⟨rfl, rfl, rfl⟩ | assumption

theorem execBeatDcoHiWrite_inv (m : Mid) (v : Word) (hc : ∀ p ∈ [Part.regs, .beat, .wvr, .pcie, .tst, .out, .resp], Closed R p) (h : R s) :
    OutInv R (execBeatDcoHiWrite m v s) := by
  unfold execBeatDcoHiWrite
  try dsimp only
  repeat' (first | exact sub_inv (by decide) hc | with_reducible apply outInv_next | with_reducible exact outInv_fault _ | with_reducible apply outInv_ite | (intro _; try dsimp only) | with_reducible assumption | with_reducible apply inv_ite | with_reducible apply State.write4_inv | with_reducible apply State.dcoWrite_inv | split)
  all_goals first | rfl | exact ⟨rfl, rfl, rfl⟩ | assumption

theorem execFreqMonitorWindow_inv (c : Fin 24) (ppb : Int) (hc : ∀ p ∈ [Part.regs, .beat], Closed R p) (h : R s) :
    OutInv R (execFreqMonitorWindow c ppb s) := by
  unfold execFreqMonitorWindow
  try dsimp only
  repeat' (first | exact sub_inv (by decide) hc | with_reducible apply outInv_next | with_reducible exact outInv_fault _ | with_reducible apply outInv_ite | (intro _; try dsimp only) | with_reducible assumption | with_reducible apply inv_ite | with_reducible apply State.when_inv | with_reducible apply State.monitor_inv | split)
  all_goals first | rfl | exact ⟨rfl, rfl, rfl⟩ | assumption

theorem execRefActivityGap_inv (c : Fin 8) (hc : ∀ p ∈ [Part.beat], Closed R p) (h : R s) :
    OutInv R (execRefActivityGap c s) := by
  unfold execRefActivityGap
  try dsimp only
  repeat' (first | exact sub_inv (by decide) hc | with_reducible apply outInv_next | with_reducible exact outInv_fault _ | with_reducible apply outInv_ite | (intro _; try dsimp only) | with_reducible assumption | with_reducible apply inv_ite | with_reducible apply State.when_inv | with_reducible apply State.modCand_inv | split)
  all_goals first | rfl | exact ⟨rfl, rfl, rfl⟩ | assumption

theorem execRefActiveRestored_inv (c : Fin 8) (hc : ∀ p ∈ [Part.beat], Closed R p) (h : R s) :
    OutInv R (execRefActiveRestored c s) := by
  unfold execRefActiveRestored
  try dsimp only
  repeat' (first | exact sub_inv (by decide) hc | with_reducible apply outInv_next | with_reducible exact outInv_fault _ | with_reducible apply outInv_ite | (intro _; try dsimp only) | with_reducible assumption | with_reducible apply inv_ite | with_reducible apply State.when_inv | with_reducible apply State.modCand_inv | split)
  all_goals first | rfl | exact ⟨rfl, rfl, rfl⟩ | assumption

theorem execCandidateQualified_inv (c : Fin 24) (hc : ∀ p ∈ [Part.regs, .beat, .pcie, .out], Closed R p) (h : R s) :
    OutInv R (execCandidateQualified c s) := by
  unfold execCandidateQualified
  try dsimp only
  repeat' (first | exact sub_inv (by decide) hc | with_reducible apply outInv_next | with_reducible exact outInv_fault _ | with_reducible apply outInv_ite | (intro _; try dsimp only) | with_reducible assumption | with_reducible apply inv_ite | with_reducible apply State.qualify_inv | split)
  all_goals first | rfl | exact ⟨rfl, rfl, rfl⟩ | assumption

theorem execLrQlChange_inv (c : Fin 24) (hc : ∀ p ∈ [Part.beat], Closed R p) (h : R s) :
    OutInv R (execLrQlChange c s) := by
  unfold execLrQlChange
  try dsimp only
  repeat' (first | exact sub_inv (by decide) hc | with_reducible apply outInv_next | with_reducible exact outInv_fault _ | with_reducible apply outInv_ite | (intro _; try dsimp only) | with_reducible assumption | with_reducible apply inv_ite | with_reducible apply State.lrChange_inv | split)
  all_goals first | rfl | exact ⟨rfl, rfl, rfl⟩ | assumption

theorem execFrefPinChange_inv (en_n : Bool) (sel : BitVec 5) (hc : ∀ p ∈ [Part.regs, .beat, .pcie, .out], Closed R p) (h : R s) :
    OutInv R (execFrefPinChange en_n sel s) := by
  unfold execFrefPinChange
  try dsimp only
  repeat' (first | exact sub_inv (by decide) hc | with_reducible apply outInv_next | with_reducible exact outInv_fault _ | with_reducible apply outInv_ite | (intro _; try dsimp only) | with_reducible assumption | with_reducible apply inv_ite | with_reducible apply State.irq_inv | with_reducible apply State.modBeat_inv | split)
  all_goals first | rfl | exact ⟨rfl, rfl, rfl⟩ | assumption

theorem execLoopStageAdvance_inv (hc : ∀ p ∈ [Part.beat], Closed R p) (h : R s) :
    OutInv R (execLoopStageAdvance s) := by
  unfold execLoopStageAdvance
  try dsimp only
  repeat' (first | exact sub_inv (by decide) hc | with_reducible apply outInv_next | with_reducible exact outInv_fault _ | with_reducible apply outInv_ite | (intro _; try dsimp only) | with_reducible assumption | with_reducible apply inv_ite | with_reducible apply State.stageAdvance_inv | split)
  all_goals first | rfl | exact ⟨rfl, rfl, rfl⟩ | assumption

theorem execBeatLocked_inv (hc : ∀ p ∈ [Part.regs, .beat, .pcie, .tst, .out, .free], Closed R p) (h : R s) :
    OutInv R (execBeatLocked s) := by
  unfold execBeatLocked
  try dsimp only
  repeat' (first | exact sub_inv (by decide) hc | with_reducible apply outInv_next | with_reducible exact outInv_fault _ | with_reducible apply outInv_ite | (intro _; try dsimp only) | with_reducible assumption | with_reducible apply inv_ite | with_reducible apply State.beatLocked_inv | split)
  all_goals first | rfl | exact ⟨rfl, rfl, rfl⟩ | assumption

theorem execBeatLockLost_inv (hc : ∀ p ∈ [Part.regs, .beat, .pcie, .tst, .out, .free], Closed R p) (h : R s) :
    OutInv R (execBeatLockLost s) := by
  unfold execBeatLockLost
  try dsimp only
  repeat' (first | exact sub_inv (by decide) hc | with_reducible apply outInv_next | with_reducible exact outInv_fault _ | with_reducible apply outInv_ite | (intro _; try dsimp only) | with_reducible assumption | with_reducible apply inv_ite | with_reducible apply State.lockLost_inv | split)
  all_goals first | rfl | exact ⟨rfl, rfl, rfl⟩ | assumption

theorem execBeatAcqTimeout_inv (hc : ∀ p ∈ [Part.regs, .beat, .pcie, .tst, .out, .free], Closed R p) (h : R s) :
    OutInv R (execBeatAcqTimeout s) := by
  unfold execBeatAcqTimeout
  try dsimp only
  repeat' (first | exact sub_inv (by decide) hc | with_reducible apply outInv_next | with_reducible exact outInv_fault _ | with_reducible apply outInv_ite | (intro _; try dsimp only) | with_reducible assumption | with_reducible apply inv_ite | with_reducible apply State.acqTimeoutBeat_inv | split)
  all_goals first | rfl | exact ⟨rfl, rfl, rfl⟩ | assumption

theorem execHoldoverMaxExpire_inv (hc : ∀ p ∈ [Part.regs, .beat, .pcie, .tst, .out, .free], Closed R p) (h : R s) :
    OutInv R (execHoldoverMaxExpire s) := by
  unfold execHoldoverMaxExpire
  try dsimp only
  repeat' (first | exact sub_inv (by decide) hc | with_reducible apply outInv_next | with_reducible exact outInv_fault _ | with_reducible apply outInv_ite | (intro _; try dsimp only) | with_reducible assumption | with_reducible apply inv_ite | with_reducible apply State.holdoverMax_inv | split)
  all_goals first | rfl | exact ⟨rfl, rfl, rfl⟩ | assumption

theorem execHoValidSet_inv (hc : ∀ p ∈ [Part.beat], Closed R p) (h : R s) :
    OutInv R (execHoValidSet s) := by
  unfold execHoValidSet
  try dsimp only
  repeat' (first | exact sub_inv (by decide) hc | with_reducible apply outInv_next | with_reducible exact outInv_fault _ | with_reducible apply outInv_ite | (intro _; try dsimp only) | with_reducible assumption | with_reducible apply inv_ite | with_reducible apply State.hoValidSet_inv | split)
  all_goals first | rfl | exact ⟨rfl, rfl, rfl⟩ | assumption

theorem execSelectedRefLost_inv (hc : ∀ p ∈ [Part.beat], Closed R p) (h : R s) :
    OutInv R (execSelectedRefLost s) := by
  unfold execSelectedRefLost
  try dsimp only
  repeat' (first | exact sub_inv (by decide) hc | with_reducible apply outInv_next | with_reducible exact outInv_fault _ | with_reducible apply outInv_ite | (intro _; try dsimp only) | with_reducible assumption | with_reducible apply inv_ite | with_reducible apply State.refLost_inv | split)
  all_goals first | rfl | exact ⟨rfl, rfl, rfl⟩ | assumption

theorem execPullComplete_inv (hc : ∀ p ∈ [Part.beat], Closed R p) (h : R s) :
    OutInv R (execPullComplete s) := by
  unfold execPullComplete
  try dsimp only
  repeat' (first | exact sub_inv (by decide) hc | with_reducible apply outInv_next | with_reducible exact outInv_fault _ | with_reducible apply outInv_ite | (intro _; try dsimp only) | with_reducible assumption | with_reducible apply inv_ite | with_reducible apply State.pullComplete_inv | split)
  all_goals first | rfl | exact ⟨rfl, rfl, rfl⟩ | assumption

theorem execBeatClrHo_inv (m : Mid) (hc : ∀ p ∈ [Part.regs, .beat, .wvr, .pcie, .tst, .out, .resp], Closed R p) (h : R s) :
    OutInv R (execBeatClrHo m s) := by
  unfold execBeatClrHo
  try dsimp only
  repeat' (first | exact sub_inv (by decide) hc | with_reducible apply outInv_next | with_reducible exact outInv_fault _ | with_reducible apply outInv_ite | (intro _; try dsimp only) | with_reducible assumption | with_reducible apply inv_ite | with_reducible apply State.write4_inv | with_reducible apply State.modBeat_inv | split)
  all_goals first | rfl | exact ⟨rfl, rfl, rfl⟩ | assumption

theorem execBeatAlignGo_inv (m : Mid) (hc : ∀ p ∈ [Part.regs, .beat, .wvr, .pcie, .tst, .out, .resp], Closed R p) (h : R s) :
    OutInv R (execBeatAlignGo m s) := by
  unfold execBeatAlignGo
  try dsimp only
  repeat' (first | exact sub_inv (by decide) hc | with_reducible apply outInv_next | with_reducible exact outInv_fault _ | with_reducible apply outInv_ite | (intro _; try dsimp only) | with_reducible assumption | with_reducible apply inv_ite | with_reducible apply State.write4_inv | with_reducible apply State.alignCmd_inv | split)
  all_goals first | rfl | exact ⟨rfl, rfl, rfl⟩ | assumption

theorem execBeatAlignCancel_inv (m : Mid) (hc : ∀ p ∈ [Part.regs, .beat, .wvr, .pcie, .tst, .out, .resp], Closed R p) (h : R s) :
    OutInv R (execBeatAlignCancel m s) := by
  unfold execBeatAlignCancel
  try dsimp only
  repeat' (first | exact sub_inv (by decide) hc | with_reducible apply outInv_next | with_reducible exact outInv_fault _ | with_reducible apply outInv_ite | (intro _; try dsimp only) | with_reducible assumption | with_reducible apply inv_ite | with_reducible apply State.write4_inv | with_reducible apply State.alignCmd_inv | split)
  all_goals first | rfl | exact ⟨rfl, rfl, rfl⟩ | assumption

theorem execAlignStart_inv (markerPs : Int) (hc : ∀ p ∈ [Part.regs, .beat, .pcie, .out], Closed R p) (h : R s) :
    OutInv R (execAlignStart markerPs s) := by
  unfold execAlignStart
  try dsimp only
  repeat' (first | exact sub_inv (by decide) hc | with_reducible apply outInv_next | with_reducible exact outInv_fault _ | with_reducible apply outInv_ite | (intro _; try dsimp only) | with_reducible assumption | with_reducible apply inv_ite | with_reducible apply State.when_inv | with_reducible apply State.alignStart_inv | split)
  all_goals first | rfl | exact ⟨rfl, rfl, rfl⟩ | assumption

theorem execAlignComplete_inv (hc : ∀ p ∈ [Part.regs, .beat, .pcie, .out], Closed R p) (h : R s) :
    OutInv R (execAlignComplete s) := by
  unfold execAlignComplete
  try dsimp only
  repeat' (first | exact sub_inv (by decide) hc | with_reducible apply outInv_next | with_reducible exact outInv_fault _ | with_reducible apply outInv_ite | (intro _; try dsimp only) | with_reducible assumption | with_reducible apply inv_ite | with_reducible apply State.alignDone_inv | split)
  all_goals first | rfl | exact ⟨rfl, rfl, rfl⟩ | assumption

theorem execPpsOutEdge_inv (hc : ∀ p ∈ [Part.beat, .out], Closed R p) (h : R s) :
    OutInv R (execPpsOutEdge s) := by
  unfold execPpsOutEdge
  try dsimp only
  repeat' (first | exact sub_inv (by decide) hc | with_reducible apply outInv_next | with_reducible exact outInv_fault _ | with_reducible apply outInv_ite | (intro _; try dsimp only) | with_reducible assumption | with_reducible apply inv_ite | with_reducible apply State.ppsEdge_inv | split)
  all_goals first | rfl | exact ⟨rfl, rfl, rfl⟩ | assumption

end Sys2Proof.Machine
end

