-- ==== Sys2Proof/Laws/InvBlaze.lean ====
section
/-! SUPPORT. What the operations of Machine/Blaze.lean keep. -/
namespace Sys2Proof.Machine

variable {R : State → Prop} {s : State}

theorem State.unitRefuse_inv (u : Nat) (deny : Bool) (hc : ∀ p ∈ [Part.regs, .blz], Closed R p) (h : R s) :
    R (s.unitRefuse u deny) := by
  unfold State.unitRefuse
  try dsimp only
  repeat' (first | exact sub_inv (by decide) hc | (intro _; try dsimp only) | with_reducible assumption | with_reducible apply inv_ite | with_reducible apply State.when_inv | with_reducible apply State.modUnit_inv | with_reducible apply State.incReg_inv | split)
  all_goals first | rfl | exact ⟨rfl, rfl, rfl⟩ | assumption

theorem State.foldWord_inv (m : Mid) (a : Nat) (hc : ∀ p ∈ [Part.regs, .bank, .pcie, .out], Closed R p) (h : R s) :
    R (s.foldWord m a).1 := by
  unfold State.foldWord
  try dsimp only
  repeat' (first | exact sub_inv (by decide) hc | (intro _; try dsimp only) | with_reducible assumption | with_reducible apply inv_ite | with_reducible apply State.decErr_inv | with_reducible apply State.readWord_inv | split)
  all_goals first | rfl | exact ⟨rfl, rfl, rfl⟩ | assumption

theorem State.foldRun_inv (p : Nat) (m : Mid) (n a : Nat) (got : Bool) (r : BitVec 64) (k : Nat) (hc : ∀ p ∈ [Part.regs, .bank, .pcie, .out], Closed R p) (h : R s) :
    R (State.foldRun p m n a got s r k).1 := by
  induction n generalizing s a got r k with
  | zero => exact h
  | succ n ih =>
    unfold State.foldRun
    dsimp only
    have ht : R (if got ∧ a % 8 ≠ 0 then (s, Status.ok) else s.foldWord m a).1 :=
      inv_ite_fst h (State.foldWord_inv m a (sub_inv (by decide) hc) h)
    refine inv_ite_fst h ?_
    revert ht
    generalize (if got ∧ a % 8 ≠ 0 then (s, Status.ok) else s.foldWord m a) = t
    intro ht
    exact inv_ite_fst ht (ih _ _ _ _ ht)

theorem State.runOn_inv (u : Nat) (n : Nat) (hc : ∀ p ∈ [Part.regs, .blz, .bank, .pcie, .out], Closed R p) (h : R s) :
    R (s.runOn u n).1 := by
  unfold State.runOn
  try dsimp only
  repeat' (first | exact sub_inv (by decide) hc | (intro _; try dsimp only) | with_reducible assumption | with_reducible apply inv_ite | with_reducible apply State.foldRun_inv | with_reducible apply State.setReg_inv | with_reducible apply State.modUnit_inv | split)
  all_goals first | rfl | exact ⟨rfl, rfl, rfl⟩ | assumption

theorem State.endRun_inv (u : Nat) (n : Nat) (hc : ∀ p ∈ [Part.regs, .blz, .bank, .pcie, .out], Closed R p) (h : R s) :
    R (s.endRun u n) := by
  unfold State.endRun
  try dsimp only
  repeat' (first | exact sub_inv (by decide) hc | (intro _; try dsimp only) | with_reducible assumption | with_reducible apply inv_ite | with_reducible apply State.runOn_inv | with_reducible apply State.modUnit_inv | split)
  all_goals first | rfl | exact ⟨rfl, rfl, rfl⟩ | assumption

theorem State.runSome_inv (u : Nat) (hc : ∀ p ∈ [Part.regs, .blz, .bank, .pcie, .out, .free], Closed R p) (h : R s) :
    R (s.runSome u) := by
  unfold State.runSome
  try dsimp only
  repeat' (first | exact sub_inv (by decide) hc | (intro _; try dsimp only) | with_reducible assumption | with_reducible apply inv_ite | with_reducible apply State.freeVal_inv | with_reducible apply State.runOn_inv | split)
  all_goals first | rfl | exact ⟨rfl, rfl, rfl⟩ | assumption

theorem State.abortRun_inv (u : Nat) (hc : ∀ p ∈ [Part.regs, .blz, .bank, .pcie, .out, .free], Closed R p) (h : R s) :
    R (s.abortRun u) := by
  unfold State.abortRun
  try dsimp only
  repeat' (first | exact sub_inv (by decide) hc | (intro _; try dsimp only) | with_reducible assumption | with_reducible apply inv_ite | with_reducible apply State.modUnit_inv | with_reducible apply State.runSome_inv | split)
  all_goals first | rfl | exact ⟨rfl, rfl, rfl⟩ | assumption

theorem State.initUnit_inv (u : Nat) (hc : ∀ p ∈ [Part.regs, .blz, .bank, .pcie, .out, .free], Closed R p) (h : R s) :
    R (s.initUnit u) := by
  unfold State.initUnit
  try dsimp only
  repeat' (first | exact sub_inv (by decide) hc | (intro _; try dsimp only) | with_reducible assumption | with_reducible apply inv_ite | with_reducible apply State.modUnit_inv | with_reducible apply State.when_inv | with_reducible apply State.runSome_inv | split)
  all_goals first | rfl | exact ⟨rfl, rfl, rfl⟩ | assumption

theorem State.startRun_inv (u : Nat) (hc : ∀ p ∈ [Part.regs, .blz], Closed R p) (h : R s) :
    R (s.startRun u) := by
  unfold State.startRun
  try dsimp only
  repeat' (first | exact sub_inv (by decide) hc | (intro _; try dsimp only) | with_reducible assumption | with_reducible apply inv_ite | with_reducible apply State.setReg_inv | with_reducible apply State.modUnit_inv | split)
  all_goals first | rfl | exact ⟨rfl, rfl, rfl⟩ | assumption

theorem State.ucmd_inv (u : Nat) (v : Word) (hc : ∀ p ∈ [Part.regs, .blz, .bank, .pcie, .out, .free], Closed R p) (h : R s) :
    R (s.ucmd u v) := by
  unfold State.ucmd
  try dsimp only
  repeat' (first | exact sub_inv (by decide) hc | (intro _; try dsimp only) | with_reducible assumption | with_reducible apply inv_ite | with_reducible apply State.when_inv | with_reducible apply State.abortRun_inv | with_reducible apply State.initUnit_inv | with_reducible apply State.startRun_inv | split)
  all_goals first | rfl | exact ⟨rfl, rfl, rfl⟩ | assumption

theorem State.uown_inv (m : Mid) (u : Nat) (v : Word) (hc : ∀ p ∈ [Part.regs, .blz, .bank, .pcie, .out, .free], Closed R p) (h : R s) :
    R (s.uown m u v) := by
  unfold State.uown
  try dsimp only
  repeat' (first | exact sub_inv (by decide) hc | (intro _; try dsimp only) | with_reducible assumption | with_reducible apply inv_ite | with_reducible apply State.incReg_inv | with_reducible apply State.modUnit_inv | with_reducible apply State.abortRun_inv | split)
  all_goals first | rfl | exact ⟨rfl, rfl, rfl⟩ | assumption

theorem State.foldBytes_inv (u : Nat) (bs : List Byte) (hc : ∀ p ∈ [Part.blz], Closed R p) (h : R s) :
    R (s.foldBytes u bs) := by
  unfold State.foldBytes
  try dsimp only
  repeat' (first | exact sub_inv (by decide) hc | (intro _; try dsimp only) | with_reducible assumption | with_reducible apply inv_ite | with_reducible apply State.modUnit_inv | split)
  all_goals first | rfl | exact ⟨rfl, rfl, rfl⟩ | assumption

theorem State.unitWrite_inv (m : Mid) (u : Nat) (o : Nat) (v : Word) (hc : ∀ p ∈ [Part.regs, .blz, .bank, .pcie, .out, .free], Closed R p) (h : R s) :
    R (s.unitWrite m u o v) := by
  unfold State.unitWrite
  try dsimp only
  repeat' (first | exact sub_inv (by decide) hc | (intro _; try dsimp only) | with_reducible assumption | with_reducible apply inv_ite | with_reducible apply State.incReg_inv | with_reducible apply State.uown_inv | with_reducible apply State.unitRefuse_inv | with_reducible apply State.ucmd_inv | with_reducible apply State.modUnit_inv | with_reducible apply State.foldBytes_inv | with_reducible apply State.setReg_inv | split)
  all_goals first | rfl | exact ⟨rfl, rfl, rfl⟩ | assumption

theorem State.unitRead_inv (u : Nat) (o : Nat) (hc : ∀ p ∈ [Part.regs], Closed R p) (h : R s) :
    R (s.unitRead u o).2 := by
  unfold State.unitRead
  try dsimp only
  repeat' (first | exact sub_inv (by decide) hc | (intro _; try dsimp only) | with_reducible assumption | with_reducible apply inv_ite | with_reducible apply State.incReg_inv | split)
  all_goals first | rfl | exact ⟨rfl, rfl, rfl⟩ | assumption

theorem State.resetUnit_inv (u : Nat) (hc : ∀ p ∈ [Part.regs, .blz], Closed R p) (h : R s) : R (s.resetUnit u) :=
  hc .blz (by decide) _ _ (inv_dropRegs (fun a => !decide (blzU u 0 ≤ a ∧ a < blzU u 0x100)) (sub_inv (by decide) hc) h)

theorem State.unitAccess_inv (m : Mid) (u : Nat) (o : Nat) (v : Word) (hc : ∀ p ∈ [Part.regs, .blz, .wvr, .bank, .pcie, .tst, .out, .resp, .free], Closed R p) (h : R s) :
    R (s.unitAccess m u o v) := by
  unfold State.unitAccess
  try dsimp only
  repeat' (first | exact sub_inv (by decide) hc | (intro _; try dsimp only) | with_reducible assumption | with_reducible apply inv_ite | with_reducible apply State.write4_inv | with_reducible apply State.unitWrite_inv | split)
  all_goals first | rfl | exact ⟨rfl, rfl, rfl⟩ | assumption

theorem execBlzClaim_inv (m : Mid) (u : Fin 8) (hc : ∀ p ∈ [Part.regs, .blz, .wvr, .bank, .pcie, .tst, .out, .resp, .free], Closed R p) (h : R s) :
    OutInv R (execBlzClaim m u s) := by
  unfold execBlzClaim
  try dsimp only
  repeat' (first | exact sub_inv (by decide) hc | with_reducible apply outInv_next | with_reducible exact outInv_fault _ | with_reducible apply outInv_ite | (intro _; try dsimp only) | with_reducible assumption | with_reducible apply inv_ite | with_reducible apply State.unitAccess_inv | split)
  all_goals first | rfl | exact ⟨rfl, rfl, rfl⟩ | assumption

theorem execBlzRelease_inv (m : Mid) (u : Fin 8) (hc : ∀ p ∈ [Part.regs, .blz, .wvr, .bank, .pcie, .tst, .out, .resp, .free], Closed R p) (h : R s) :
    OutInv R (execBlzRelease m u s) := by
  unfold execBlzRelease
  try dsimp only
  repeat' (first | exact sub_inv (by decide) hc | with_reducible apply outInv_next | with_reducible exact outInv_fault _ | with_reducible apply outInv_ite | (intro _; try dsimp only) | with_reducible assumption | with_reducible apply inv_ite | with_reducible apply State.unitAccess_inv | split)
  all_goals first | rfl | exact ⟨rfl, rfl, rfl⟩ | assumption

theorem execBlzUdata32Write_inv (m : Mid) (u : Fin 72) (v : Word) (hc : ∀ p ∈ [Part.regs, .blz, .wvr, .bank, .pcie, .tst, .out, .resp, .free], Closed R p) (h : R s) :
    OutInv R (execBlzUdata32Write m u v s) := by
  unfold execBlzUdata32Write
  try dsimp only
  repeat' (first | exact sub_inv (by decide) hc | with_reducible apply outInv_next | with_reducible exact outInv_fault _ | with_reducible apply outInv_ite | (intro _; try dsimp only) | with_reducible assumption | with_reducible apply inv_ite | with_reducible apply State.unitAccess_inv | split)
  all_goals first | rfl | exact ⟨rfl, rfl, rfl⟩ | assumption

theorem execBlzUdata8Write_inv (m : Mid) (u : Fin 72) (v : Word) (hc : ∀ p ∈ [Part.regs, .blz, .wvr, .bank, .pcie, .tst, .out, .resp, .free], Closed R p) (h : R s) :
    OutInv R (execBlzUdata8Write m u v s) := by
  unfold execBlzUdata8Write
  try dsimp only
  repeat' (first | exact sub_inv (by decide) hc | with_reducible apply outInv_next | with_reducible exact outInv_fault _ | with_reducible apply outInv_ite | (intro _; try dsimp only) | with_reducible assumption | with_reducible apply inv_ite | with_reducible apply State.unitAccess_inv | split)
  all_goals first | rfl | exact ⟨rfl, rfl, rfl⟩ | assumption

theorem execBlzInit_inv (m : Mid) (u : Fin 72) (hc : ∀ p ∈ [Part.regs, .blz, .wvr, .bank, .pcie, .tst, .out, .resp, .free], Closed R p) (h : R s) :
    OutInv R (execBlzInit m u s) := by
  unfold execBlzInit
  try dsimp only
  repeat' (first | exact sub_inv (by decide) hc | with_reducible apply outInv_next | with_reducible exact outInv_fault _ | with_reducible apply outInv_ite | (intro _; try dsimp only) | with_reducible assumption | with_reducible apply inv_ite | with_reducible apply State.unitAccess_inv | split)
  all_goals first | rfl | exact ⟨rfl, rfl, rfl⟩ | assumption

theorem execBlzRunBlock_inv (m : Mid) (u : Fin 72) (init : Bool) (hc : ∀ p ∈ [Part.regs, .blz, .wvr, .bank, .pcie, .tst, .out, .resp, .free], Closed R p) (h : R s) :
    OutInv R (execBlzRunBlock m u init s) := by
  unfold execBlzRunBlock
  try dsimp only
  repeat' (first | exact sub_inv (by decide) hc | with_reducible apply outInv_next | with_reducible exact outInv_fault _ | with_reducible apply outInv_ite | (intro _; try dsimp only) | with_reducible assumption | with_reducible apply inv_ite | with_reducible apply State.unitAccess_inv | split)
  all_goals first | rfl | exact ⟨rfl, rfl, rfl⟩ | assumption

theorem execBlzAbort_inv (m : Mid) (u : Fin 72) (hc : ∀ p ∈ [Part.regs, .blz, .wvr, .bank, .pcie, .tst, .out, .resp, .free], Closed R p) (h : R s) :
    OutInv R (execBlzAbort m u s) := by
  unfold execBlzAbort
  try dsimp only
  repeat' (first | exact sub_inv (by decide) hc | with_reducible apply outInv_next | with_reducible exact outInv_fault _ | with_reducible apply outInv_ite | (intro _; try dsimp only) | with_reducible assumption | with_reducible apply inv_ite | with_reducible apply State.unitAccess_inv | split)
  all_goals first | rfl | exact ⟨rfl, rfl, rfl⟩ | assumption

theorem execBlzRunDone_inv (u : Fin 72) (hc : ∀ p ∈ [Part.regs, .blz, .bank, .pcie, .out], Closed R p) (h : R s) :
    OutInv R (execBlzRunDone u s) := by
  unfold execBlzRunDone
  try dsimp only
  repeat' (first | exact sub_inv (by decide) hc | with_reducible apply outInv_next | with_reducible exact outInv_fault _ | with_reducible apply outInv_ite | (intro _; try dsimp only) | with_reducible assumption | with_reducible apply inv_ite | with_reducible apply State.endRun_inv | split)
  all_goals first | rfl | exact ⟨rfl, rfl, rfl⟩ | assumption

theorem execBlzUrunWrite_inv (m : Mid) (u : Fin 72) (hi : Bool) (v : Word) (hc : ∀ p ∈ [Part.regs, .blz, .wvr, .bank, .pcie, .tst, .out, .resp, .free], Closed R p) (h : R s) :
    OutInv R (execBlzUrunWrite m u hi v s) := by
  unfold execBlzUrunWrite
  try dsimp only
  repeat' (first | exact sub_inv (by decide) hc | with_reducible apply outInv_next | with_reducible exact outInv_fault _ | with_reducible apply outInv_ite | (intro _; try dsimp only) | with_reducible assumption | with_reducible apply inv_ite | with_reducible apply State.unitAccess_inv | split)
  all_goals first | rfl | exact ⟨rfl, rfl, rfl⟩ | assumption

end Sys2Proof.Machine
end

