-- ==== Sys2Proof/Laws/InvHost.lean ====
section
/-! SUPPORT. What the operations of Machine/Host.lean keep. -/
namespace Sys2Proof.Machine

variable {R : State → Prop} {s : State}

theorem State.winWrite_inv (m : Mid) (a : Nat) (bs : List Byte) (clash : Bool) (hc : ∀ p ∈ [Part.regs, .bank, .bankMem, .pcie, .out, .resp], Closed R p) (h : R s) :
    R (s.winWrite m a bs clash) := by
  unfold State.winWrite
  try dsimp only
  repeat' (first | exact sub_inv (by decide) hc | (intro _; try dsimp only) | with_reducible assumption | with_reducible apply inv_ite | with_reducible apply State.bankWrite_inv | with_reducible apply State.bankAlias_inv | with_reducible apply State.skidWrite_inv | split)
  all_goals first | rfl | exact ⟨rfl, rfl, rfl⟩ | assumption

theorem State.winRead_inv (m : Mid) (a : Nat) (size : Nat) (hc : ∀ p ∈ [Part.regs, .bank, .pcie, .out, .resp], Closed R p) (h : R s) :
    R (s.winRead m a size) := by
  unfold State.winRead
  try dsimp only
  repeat' (first | exact sub_inv (by decide) hc | (intro _; try dsimp only) | with_reducible assumption | with_reducible apply inv_ite | with_reducible apply State.bankRead_inv | with_reducible apply State.answer_inv | split)
  all_goals first | rfl | exact ⟨rfl, rfl, rfl⟩ | assumption

theorem State.hostReset_inv (hc : ∀ p ∈ [Part.regs, .mbx, .mbxMem, .pcie], Closed R p) (h : R s) : R s.hostReset := by
  have h1 := State.modPcie_inv (fun c => { c with bme := false, d3 := false, msixEn := false, fmask := false, vmask := BitVec.allOnes 64, pba := c.level, dmaDir := 0 }) (sub_inv (by decide) hc) (inv_dropRegs (fun a => decide (a < 0x4040100 ∨ 0x4040160 ≤ a)) (sub_inv (by decide) hc) h)
  exact (hc .mbxMem (by decide)).2.1 _ (fun a => decide (a < 0x50000)) h1

theorem execPcieLinkDown_inv (hc : ∀ p ∈ [Part.regs, .mbx, .mbxMem, .pcie], Closed R p) (h : R s) :
    OutInv R (execPcieLinkDown s) := by
  unfold execPcieLinkDown
  try dsimp only
  repeat' (first | exact sub_inv (by decide) hc | with_reducible apply outInv_next | with_reducible exact outInv_fault _ | with_reducible apply outInv_ite | (intro _; try dsimp only) | with_reducible assumption | with_reducible apply inv_ite | with_reducible apply State.modPcie_inv | with_reducible apply State.hostReset_inv | split)
  all_goals first | rfl | exact ⟨rfl, rfl, rfl⟩ | assumption

theorem execPcieHotReset_inv (hc : ∀ p ∈ [Part.regs, .mbx, .mbxMem, .pcie], Closed R p) (h : R s) :
    OutInv R (execPcieHotReset s) := by
  unfold execPcieHotReset
  try dsimp only
  repeat' (first | exact sub_inv (by decide) hc | with_reducible apply outInv_next | with_reducible exact outInv_fault _ | with_reducible apply outInv_ite | (intro _; try dsimp only) | with_reducible assumption | with_reducible apply inv_ite | with_reducible apply State.hostReset_inv | split)
  all_goals first | rfl | exact ⟨rfl, rfl, rfl⟩ | assumption

theorem execPcieD3hotEntry_inv (hc : ∀ p ∈ [Part.pcie], Closed R p) (h : R s) :
    OutInv R (execPcieD3hotEntry s) := by
  unfold execPcieD3hotEntry
  try dsimp only
  repeat' (first | exact sub_inv (by decide) hc | with_reducible apply outInv_next | with_reducible exact outInv_fault _ | with_reducible apply outInv_ite | (intro _; try dsimp only) | with_reducible assumption | with_reducible apply inv_ite | with_reducible apply State.when_inv | with_reducible apply State.modPcie_inv | split)
  all_goals first | rfl | exact ⟨rfl, rfl, rfl⟩ | assumption

theorem execPcieLinkUp_inv (gen : Nat) (width : Nat) (hc : ∀ p ∈ [Part.pcie, .out], Closed R p) (h : R s) :
    OutInv R (execPcieLinkUp gen width s) := by
  unfold execPcieLinkUp
  try dsimp only
  repeat' (first | exact sub_inv (by decide) hc | with_reducible apply outInv_next | with_reducible exact outInv_fault _ | with_reducible apply outInv_ite | (intro _; try dsimp only) | with_reducible assumption | with_reducible apply inv_ite | with_reducible apply State.when_inv | with_reducible apply State.drainPba_inv | with_reducible apply State.modPcie_inv | split)
  all_goals first | rfl | exact ⟨rfl, rfl, rfl⟩ | assumption

theorem execPcieRequestsResume_inv (bme : Bool) (msixEn : Bool) (fmask : Bool) (hc : ∀ p ∈ [Part.pcie, .out], Closed R p) (h : R s) :
    OutInv R (execPcieRequestsResume bme msixEn fmask s) := by
  unfold execPcieRequestsResume
  try dsimp only
  repeat' (first | exact sub_inv (by decide) hc | with_reducible apply outInv_next | with_reducible exact outInv_fault _ | with_reducible apply outInv_ite | (intro _; try dsimp only) | with_reducible assumption | with_reducible apply inv_ite | with_reducible apply State.when_inv | with_reducible apply State.drainPba_inv | with_reducible apply State.modPcie_inv | split)
  all_goals first | rfl | exact ⟨rfl, rfl, rfl⟩ | assumption

theorem State.vecMask_inv (v : Nat) (b : Bool) (hc : ∀ p ∈ [Part.pcie, .out], Closed R p) (h : R s) :
    R (s.vecMask v b) := by
  unfold State.vecMask
  try dsimp only
  repeat' (first | exact sub_inv (by decide) hc | (intro _; try dsimp only) | with_reducible assumption | with_reducible apply inv_ite | with_reducible apply State.drainPba_inv | with_reducible apply State.modPcie_inv | split)
  all_goals first | rfl | exact ⟨rfl, rfl, rfl⟩ | assumption

theorem execMsixVectorUnmask_inv (v : Fin 64) (hc : ∀ p ∈ [Part.mbx, .mbxMem, .pcie, .out], Closed R p) (h : R s) : OutInv R (execMsixVectorUnmask v s) :=
  outInv_next (State.when_inv _ _ h fun s h => State.vecMask_inv _ _ (sub_inv (by decide) hc) ((hc .mbxMem (by decide)).1 s _ _ h))

theorem State.eoi_inv (v : Word) (hc : ∀ p ∈ [Part.pcie, .out], Closed R p) (h : R s) :
    R (s.eoi v) := by
  unfold State.eoi
  try dsimp only
  repeat' (first | exact sub_inv (by decide) hc | (intro _; try dsimp only) | with_reducible assumption | with_reducible apply inv_ite | with_reducible apply State.when_inv | with_reducible apply State.raiseVec_inv | split)
  all_goals first | rfl | exact ⟨rfl, rfl, rfl⟩ | assumption

theorem execGvecEoi_inv (m : Mid) (v : Word) (hc : ∀ p ∈ [Part.regs, .wvr, .pcie, .tst, .out, .resp], Closed R p) (h : R s) :
    OutInv R (execGvecEoi m v s) := by
  unfold execGvecEoi
  try dsimp only
  repeat' (first | exact sub_inv (by decide) hc | with_reducible apply outInv_next | with_reducible exact outInv_fault _ | with_reducible apply outInv_ite | (intro _; try dsimp only) | with_reducible assumption | with_reducible apply inv_ite | with_reducible apply State.write4_inv | with_reducible apply State.eoi_inv | split)
  all_goals first | rfl | exact ⟨rfl, rfl, rfl⟩ | assumption

theorem State.dmaEnd_inv (c : Nat) (n : Nat) (err : Bool) (hc : ∀ p ∈ [Part.regs, .pcie, .out], Closed R p) (h : R s) :
    R (s.dmaEnd c n err) := by
  unfold State.dmaEnd
  try dsimp only
  repeat' (first | exact sub_inv (by decide) hc | (intro _; try dsimp only) | with_reducible assumption | with_reducible apply inv_ite | with_reducible apply State.irq_inv | with_reducible apply State.setReg_inv | split)
  all_goals first | rfl | exact ⟨rfl, rfl, rfl⟩ | assumption

theorem State.dmaCtrl_inv (c : Nat) (v : Word) (hc : ∀ p ∈ [Part.regs, .pcie, .out], Closed R p) (h : R s) :
    R (s.dmaCtrl c v) := by
  unfold State.dmaCtrl
  try dsimp only
  repeat' (first | exact sub_inv (by decide) hc | (intro _; try dsimp only) | with_reducible assumption | with_reducible apply inv_ite | with_reducible apply State.setReg_inv | with_reducible apply State.modPcie_inv | with_reducible apply State.dmaEnd_inv | split)
  all_goals first | rfl | exact ⟨rfl, rfl, rfl⟩ | assumption

theorem execDmaGo_inv (c : Fin 3) (dir : Bool) (hc : ∀ p ∈ [Part.regs, .pcie, .out], Closed R p) (h : R s) :
    OutInv R (execDmaGo c dir s) := by
  unfold execDmaGo
  try dsimp only
  repeat' (first | exact sub_inv (by decide) hc | with_reducible apply outInv_next | with_reducible exact outInv_fault _ | with_reducible apply outInv_ite | (intro _; try dsimp only) | with_reducible assumption | with_reducible apply inv_ite | with_reducible apply State.when_inv | with_reducible apply State.dmaCtrl_inv | split)
  all_goals first | rfl | exact ⟨rfl, rfl, rfl⟩ | assumption

theorem execDmaAbort_inv (c : Fin 3) (hc : ∀ p ∈ [Part.regs, .pcie, .out], Closed R p) (h : R s) :
    OutInv R (execDmaAbort c s) := by
  unfold execDmaAbort
  try dsimp only
  repeat' (first | exact sub_inv (by decide) hc | with_reducible apply outInv_next | with_reducible exact outInv_fault _ | with_reducible apply outInv_ite | (intro _; try dsimp only) | with_reducible assumption | with_reducible apply inv_ite | with_reducible apply State.when_inv | with_reducible apply State.dmaCtrl_inv | split)
  all_goals first | rfl | exact ⟨rfl, rfl, rfl⟩ | assumption

theorem State.dmaIn_inv (clash : List Nat) (n a : Nat) (bs : List Byte) (hc : ∀ p ∈ [Part.regs, .bank, .bankMem, .pcie, .out, .resp], Closed R p) (h : R s) : R (State.dmaIn clash n a bs s).1 := by
  induction n generalizing s a bs with
  | zero => exact h
  | succ n ih =>
    unfold State.dmaIn
    dsimp only
    repeat' split
    all_goals try dsimp only
    all_goals first
      | exact h
      | exact ih _ _ (State.winWrite_inv _ _ _ _ (sub_inv (by decide) hc) h)
      | exact State.decAns_inv _ _ _ _ (sub_inv (by decide) hc) h
      | exact ih _ _ h

theorem State.dmaOut_inv (n a left : Nat) (acc : List Byte) (hc : ∀ p ∈ [Part.regs, .bank, .pcie, .out, .resp], Closed R p) (h : R s) : R (State.dmaOut n a left acc s).1 := by
  induction n generalizing s a left acc with
  | zero => exact h
  | succ n ih =>
    unfold State.dmaOut
    dsimp only
    split
    · exact h
    · split
      · split
        · exact ih _ _ _ h
        · rename_i o _ _ _
          have hr := State.readWord_inv o (sub_inv (by decide) hc) h
          split <;> rename_i hh <;> rw [hh] at hr
          · exact ih _ _ _ hr
          · exact hr
      · exact ih _ _ _ h
      · dsimp only; exact State.decAns_inv _ _ _ _ (sub_inv (by decide) hc) h
      · exact h

theorem State.dmaRun_inv (c : Nat) (data : DmaData) (hc : ∀ p ∈ [Part.regs, .bank, .bankMem, .pcie, .out, .resp], Closed R p) (h : R s) :
    R (s.dmaRun c data) := by
  unfold State.dmaRun
  try dsimp only
  repeat' (first | exact sub_inv (by decide) hc | (intro _; try dsimp only) | with_reducible assumption | with_reducible apply inv_ite | with_reducible apply State.dmaOut_inv | with_reducible apply State.hostWrite_inv | with_reducible apply State.dmaEnd_inv | with_reducible apply State.dmaIn_inv | split)
  all_goals first | rfl | exact ⟨rfl, rfl, rfl⟩ | assumption

theorem execDmaDone_inv (c : Fin 3) (data : DmaData) (hc : ∀ p ∈ [Part.regs, .bank, .bankMem, .pcie, .out, .resp], Closed R p) (h : R s) :
    OutInv R (execDmaDone c data s) := by
  unfold execDmaDone
  try dsimp only
  repeat' (first | exact sub_inv (by decide) hc | with_reducible apply outInv_next | with_reducible exact outInv_fault _ | with_reducible apply outInv_ite | (intro _; try dsimp only) | with_reducible assumption | with_reducible apply inv_ite | with_reducible apply State.when_inv | with_reducible apply State.dmaRun_inv | split)
  all_goals first | rfl | exact ⟨rfl, rfl, rfl⟩ | assumption

theorem execCdpUncorrectableFault_inv (hc : ∀ p ∈ [Part.regs, .pcie, .out], Closed R p) (h : R s) :
    OutInv R (execCdpUncorrectableFault s) := by
  unfold execCdpUncorrectableFault
  try dsimp only
  repeat' (first | exact sub_inv (by decide) hc | with_reducible apply outInv_next | with_reducible exact outInv_fault _ | with_reducible apply outInv_ite | (intro _; try dsimp only) | with_reducible assumption | with_reducible apply inv_ite | with_reducible apply State.irq_inv | with_reducible apply State.setRf_inv | split)
  all_goals first | rfl | exact ⟨rfl, rfl, rfl⟩ | assumption

end Sys2Proof.Machine
end

