-- ==== Sys2Proof/Laws/InvPost.lean ====
section
/-! SUPPORT. What the operations of Machine/Post.lean keep. -/
namespace Sys2Proof.Machine

variable {R : State → Prop} {s : State}

theorem State.setBufWord_inv (i : Nat) (j : Nat) (v : Word) (hc : ∀ p ∈ [Part.bank, .bankMem], Closed R p) (h : R s) :
    R (s.setBufWord i j v) := by
  unfold State.setBufWord
  try dsimp only
  repeat' (first | exact sub_inv (by decide) hc | (intro _; try dsimp only) | with_reducible assumption | with_reducible apply inv_ite | with_reducible apply State.storeBytes_inv | split)
  all_goals first | rfl | exact ⟨rfl, rfl, rfl⟩ | assumption

theorem State.noteShed_inv (hc : ∀ p ∈ [Part.regs, .fmn, .pcie, .out], Closed R p) (h : R s) :
    R (s.noteShed) := by
  unfold State.noteShed
  try dsimp only
  repeat' (first | exact sub_inv (by decide) hc | (intro _; try dsimp only) | with_reducible assumption | with_reducible apply inv_ite | with_reducible apply State.modFmn_inv | with_reducible apply State.irq_inv | split)
  all_goals first | rfl | exact ⟨rfl, rfl, rfl⟩ | assumption

theorem State.setInbox_inv (d : Nat) (l : List Nat) (hc : ∀ p ∈ [Part.regs, .wvr, .fmn, .pcie, .out], Closed R p) (h : R s) :
    R (s.setInbox d l) := by
  unfold State.setInbox
  try dsimp only
  repeat' (first | exact sub_inv (by decide) hc | (intro _; try dsimp only) | with_reducible assumption | with_reducible apply inv_ite | with_reducible apply State.modWeaver_inv | with_reducible apply State.noteShed_inv | with_reducible apply State.modFmn_inv | split)
  all_goals first | rfl | exact ⟨rfl, rfl, rfl⟩ | assumption

theorem State.enterInbox_inv (d : Nat) (i : Nat) (hc : ∀ p ∈ [Part.regs, .wvr, .fmn, .skid, .tly, .pcie, .out], Closed R p) (h : R s) :
    R (s.enterInbox d i) := by
  unfold State.enterInbox
  try dsimp only
  repeat' (first | exact sub_inv (by decide) hc | (intro _; try dsimp only) | with_reducible assumption | with_reducible apply inv_ite | with_reducible apply State.setInbox_inv | with_reducible apply State.setBuf_inv | with_reducible apply State.when_inv | with_reducible apply State.count_inv | split)
  all_goals first | rfl | exact ⟨rfl, rfl, rfl⟩ | assumption

theorem State.nakDrop_inv (page : Nat) (i : Nat) (hc : ∀ p ∈ [Part.regs, .skid], Closed R p) (h : R s) :
    R (s.nakDrop page i) := by
  unfold State.nakDrop
  try dsimp only
  repeat' (first | exact sub_inv (by decide) hc | (intro _; try dsimp only) | with_reducible assumption | with_reducible apply inv_ite | with_reducible apply State.when_inv | with_reducible apply State.freeBuf_inv | with_reducible apply State.incReg_inv | split)
  all_goals first | rfl | exact ⟨rfl, rfl, rfl⟩ | assumption

theorem State.nak_inv (page : Nat) (i : Nat) (reason : Nat) (hc : ∀ p ∈ [Part.regs, .wvr, .fmn, .bank, .bankMem, .skid, .tly, .pcie, .out], Closed R p) (h : R s) :
    R (s.nak page i reason) := by
  unfold State.nak
  try dsimp only
  repeat' (first | exact sub_inv (by decide) hc | (intro _; try dsimp only) | with_reducible assumption | with_reducible apply inv_ite | with_reducible apply State.when_inv | with_reducible apply State.incReg_inv | with_reducible apply State.setBufWord_inv | with_reducible apply State.enterInbox_inv | with_reducible apply State.nakDrop_inv | split)
  all_goals first | rfl | exact ⟨rfl, rfl, rfl⟩ | assumption

theorem State.turnAway_inv (d : Nat) (i : Nat) (reason : Nat) (hc : ∀ p ∈ [Part.regs, .wvr, .fmn, .bank, .bankMem, .skid, .tly, .pcie, .out], Closed R p) (h : R s) :
    R (s.turnAway d i reason) := by
  unfold State.turnAway
  try dsimp only
  repeat' (first | exact sub_inv (by decide) hc | (intro _; try dsimp only) | with_reducible assumption | with_reducible apply inv_ite | with_reducible apply State.nakDrop_inv | with_reducible apply State.nak_inv | split)
  all_goals first | rfl | exact ⟨rfl, rfl, rfl⟩ | assumption

theorem State.deliver_inv {s0 : State} (d : Nat) (i : Nat) (hc : ∀ p ∈ [Part.regs, .wvr, .fmn, .bank, .bankMem, .skid, .tly, .pcie, .out], Closed R p) (h : R s0) :
    R (s0.deliver d i) := by
  unfold State.deliver
  try dsimp only
  repeat' (first | exact sub_inv (by decide) hc | (intro _; try dsimp only) | with_reducible assumption | with_reducible apply inv_ite | with_reducible apply State.readRun_inv | with_reducible apply State.enterInbox_inv | with_reducible apply State.turnAway_inv | split)
  all_goals first | rfl | exact ⟨rfl, rfl, rfl⟩ | assumption

theorem State.post_inv (m : Nat) (d : Nat) (i : Nat) (hc : ∀ p ∈ [Part.regs, .wvr, .fmn, .bank, .bankMem, .skid, .tly, .pcie, .out], Closed R p) (h : R s) :
    R (s.post m d i) := by
  unfold State.post
  try dsimp only
  repeat' (first | exact sub_inv (by decide) hc | (intro _; try dsimp only) | with_reducible assumption | with_reducible apply inv_ite | with_reducible apply State.when_inv | with_reducible apply State.count_inv | with_reducible apply State.deliver_inv | with_reducible apply State.setBufWord_inv | with_reducible apply State.setBuf_inv | with_reducible apply State.skidMisuse_inv | split)
  all_goals first | rfl | exact ⟨rfl, rfl, rfl⟩ | assumption

theorem State.flush_inv (d : Nat) (reason : Nat) (hc : ∀ p ∈ [Part.regs, .wvr, .fmn, .bank, .bankMem, .skid, .tly, .pcie, .out], Closed R p) (h : R s) :
    R (s.flush d reason) := by
  unfold State.flush
  try dsimp only
  repeat' (first | exact sub_inv (by decide) hc | (intro _; try dsimp only) | with_reducible assumption | with_reducible apply inv_ite | with_reducible apply seqAll_inv | with_reducible apply State.turnAway_inv | with_reducible apply State.setInbox_inv | split)
  all_goals first | rfl | exact ⟨rfl, rfl, rfl⟩ | assumption

theorem State.popInbox_inv (d : Nat) (hc : ∀ p ∈ [Part.regs, .wvr, .fmn, .skid, .pcie, .out], Closed R p) (h : R s) :
    R (s.popInbox d).2 := by
  unfold State.popInbox
  try dsimp only
  repeat' (first | exact sub_inv (by decide) hc | (intro _; try dsimp only) | with_reducible assumption | with_reducible apply inv_ite | with_reducible apply State.setBuf_inv | with_reducible apply State.setInbox_inv | split)
  all_goals first | rfl | exact ⟨rfl, rfl, rfl⟩ | assumption

theorem State.wvrPost_inv (m : Mid) (w : Nat) (v : Word) (hc : ∀ p ∈ [Part.regs, .wvr, .fmn, .bank, .bankMem, .skid, .tly, .pcie, .out], Closed R p) (h : R s) :
    R (s.wvrPost m w v) := by
  unfold State.wvrPost
  try dsimp only
  repeat' (first | exact sub_inv (by decide) hc | (intro _; try dsimp only) | with_reducible assumption | with_reducible apply inv_ite | with_reducible apply State.post_inv | with_reducible apply State.errlog_inv | split)
  all_goals first | rfl | exact ⟨rfl, rfl, rfl⟩ | assumption

theorem execWvrPost_inv (m : Mid) (w : Fin 64) (v : Word) (hc : ∀ p ∈ [Part.regs, .wvr, .fmn, .bank, .bankMem, .skid, .tly, .pcie, .tst, .out, .resp], Closed R p) (h : R s) :
    OutInv R (execWvrPost m w v s) := by
  unfold execWvrPost
  try dsimp only
  repeat' (first | exact sub_inv (by decide) hc | with_reducible apply outInv_next | with_reducible exact outInv_fault _ | with_reducible apply outInv_ite | (intro _; try dsimp only) | with_reducible assumption | with_reducible apply inv_ite | with_reducible apply State.write4_inv | with_reducible apply State.wvrPost_inv | split)
  all_goals first | rfl | exact ⟨rfl, rfl, rfl⟩ | assumption

theorem State.wvrPop_inv (m : Mid) (w : Nat) (hc : ∀ p ∈ [Part.regs, .wvr, .fmn, .skid, .pcie, .out], Closed R p) (h : R s) :
    R (s.wvrPop m w).2 := by
  unfold State.wvrPop
  try dsimp only
  repeat' (first | exact sub_inv (by decide) hc | (intro _; try dsimp only) | with_reducible assumption | with_reducible apply inv_ite | with_reducible apply State.popInbox_inv | split)
  all_goals first | rfl | exact ⟨rfl, rfl, rfl⟩ | assumption

theorem execWvrInboxPop_inv (m : Mid) (w : Fin 64) (hc : ∀ p ∈ [Part.regs, .wvr, .fmn, .skid, .pcie, .tst, .out, .resp], Closed R p) (h : R s) :
    OutInv R (execWvrInboxPop m w s) := by
  unfold execWvrInboxPop
  try dsimp only
  repeat' (first | exact sub_inv (by decide) hc | with_reducible apply outInv_next | with_reducible exact outInv_fault _ | with_reducible apply outInv_ite | (intro _; try dsimp only) | with_reducible assumption | with_reducible apply inv_ite | with_reducible apply State.access_inv | with_reducible apply State.wvrPop_inv | with_reducible apply State.answer_inv | split)
  all_goals first | rfl | exact ⟨rfl, rfl, rfl⟩ | assumption

theorem State.fmnPost_inv (m : Mid) (b : Bool) (v : Word) (hc : ∀ p ∈ [Part.regs, .wvr, .fmn, .bank, .bankMem, .skid, .tly, .pcie, .out], Closed R p) (h : R s) :
    R (s.fmnPost m b v) := by
  unfold State.fmnPost
  try dsimp only
  repeat' (first | exact sub_inv (by decide) hc | (intro _; try dsimp only) | with_reducible assumption | with_reducible apply inv_ite | with_reducible apply State.post_inv | with_reducible apply State.errlog_inv | split)
  all_goals first | rfl | exact ⟨rfl, rfl, rfl⟩ | assumption

theorem execFmnPost_inv (m : Mid) (b : Bool) (v : Word) (hc : ∀ p ∈ [Part.regs, .wvr, .fmn, .bank, .bankMem, .skid, .tly, .pcie, .tst, .out, .resp], Closed R p) (h : R s) :
    OutInv R (execFmnPost m b v s) := by
  unfold execFmnPost
  try dsimp only
  repeat' (first | exact sub_inv (by decide) hc | with_reducible apply outInv_next | with_reducible exact outInv_fault _ | with_reducible apply outInv_ite | (intro _; try dsimp only) | with_reducible assumption | with_reducible apply inv_ite | with_reducible apply State.write4_inv | with_reducible apply State.fmnPost_inv | split)
  all_goals first | rfl | exact ⟨rfl, rfl, rfl⟩ | assumption

theorem State.fmnPop_inv (m : Mid) (hc : ∀ p ∈ [Part.regs, .wvr, .fmn, .skid, .pcie, .out], Closed R p) (h : R s) :
    R (s.fmnPop m).2 := by
  unfold State.fmnPop
  try dsimp only
  repeat' (first | exact sub_inv (by decide) hc | (intro _; try dsimp only) | with_reducible assumption | with_reducible apply inv_ite | with_reducible apply State.popInbox_inv | split)
  all_goals first | rfl | exact ⟨rfl, rfl, rfl⟩ | assumption

theorem execFmnInboxPop_inv (m : Mid) (hc : ∀ p ∈ [Part.regs, .wvr, .fmn, .skid, .pcie, .tst, .out, .resp], Closed R p) (h : R s) :
    OutInv R (execFmnInboxPop m s) := by
  unfold execFmnInboxPop
  try dsimp only
  repeat' (first | exact sub_inv (by decide) hc | with_reducible apply outInv_next | with_reducible exact outInv_fault _ | with_reducible apply outInv_ite | (intro _; try dsimp only) | with_reducible assumption | with_reducible apply inv_ite | with_reducible apply State.access_inv | with_reducible apply State.fmnPop_inv | with_reducible apply State.answer_inv | split)
  all_goals first | rfl | exact ⟨rfl, rfl, rfl⟩ | assumption

end Sys2Proof.Machine
end

