-- ==== Sys2Proof/Laws/InvText.lean ====
section
/-! SUPPORT. What the operations of Machine/Text.lean keep. -/
namespace Sys2Proof.Machine

variable {R : State → Prop} {s : State}

theorem State.say_inv (bs : List Byte) (hc : ∀ p ∈ [Part.out], Closed R p) (h : R s) :
    R (s.say bs) := by
  unfold State.say
  try dsimp only
  repeat' (first | exact sub_inv (by decide) hc | (intro _; try dsimp only) | with_reducible assumption | with_reducible apply inv_ite | with_reducible apply State.emit_inv | split)
  all_goals first | rfl | exact ⟨rfl, rfl, rfl⟩ | assumption

theorem State.sayEnd_inv (line : String) (hc : ∀ p ∈ [Part.out], Closed R p) (h : R s) :
    R (s.sayEnd line) := by
  unfold State.sayEnd
  try dsimp only
  repeat' (first | exact sub_inv (by decide) hc | (intro _; try dsimp only) | with_reducible assumption | with_reducible apply inv_ite | with_reducible apply State.say_inv | split)
  all_goals first | rfl | exact ⟨rfl, rfl, rfl⟩ | assumption

theorem State.banner_inv (b : Bool) (hc : ∀ p ∈ [Part.tst, .out], Closed R p) (h : R s) :
    R (s.banner b) := by
  unfold State.banner
  try dsimp only
  repeat' (first | exact sub_inv (by decide) hc | (intro _; try dsimp only) | with_reducible assumption | with_reducible apply inv_ite | with_reducible apply State.say_inv | with_reducible apply State.modTst_inv | split)
  all_goals first | rfl | exact ⟨rfl, rfl, rfl⟩ | assumption

end Sys2Proof.Machine
end

