-- ==== Sys2Proof/Laws/InvCkpt.lean ====
section
/-! SUPPORT. What the operations of Machine/Ckpt.lean keep. -/
namespace Sys2Proof.Machine

variable {R : State → Prop} {s : State}

theorem State.ckptWrite_inv (hc : ∀ p ∈ [Part.regs, .fmn, .bank, .bankMem, .pcie, .tst, .out, .free], Closed R p) (h : R s) :
    R (s.ckptWrite) := by
  unfold State.ckptWrite
  try dsimp only
  repeat' (first | exact sub_inv (by decide) hc | (intro _; try dsimp only) | with_reducible assumption | with_reducible apply inv_ite | with_reducible apply State.modTst_inv | with_reducible apply State.modFmn_inv | with_reducible apply State.agentWrite_inv | with_reducible apply State.freeVal_inv | split)
  all_goals first | rfl | exact ⟨rfl, rfl, rfl⟩ | assumption

theorem State.roleCkpt_inv (hc : ∀ p ∈ [Part.regs, .fmn, .bank, .bankMem, .pcie, .tst, .out, .free], Closed R p) (h : R s) :
    R (s.roleCkpt) := by
  unfold State.roleCkpt
  try dsimp only
  repeat' (first | exact sub_inv (by decide) hc | (intro _; try dsimp only) | with_reducible assumption | with_reducible apply inv_ite | with_reducible apply State.ckptWrite_inv | split)
  all_goals first | rfl | exact ⟨rfl, rfl, rfl⟩ | assumption

theorem State.ckptToFlash_inv (hc : ∀ p ∈ [Part.regs, .fmn, .bank, .pcie, .out], Closed R p) (h : R s) :
    R (s.ckptToFlash) := by
  unfold State.ckptToFlash
  try dsimp only
  repeat' (first | exact sub_inv (by decide) hc | (intro _; try dsimp only) | with_reducible assumption | with_reducible apply inv_ite | with_reducible apply State.modFmn_inv | with_reducible apply State.emit_inv | with_reducible apply State.readRun_inv | with_reducible apply State.when_inv | split)
  all_goals first | rfl | exact ⟨rfl, rfl, rfl⟩ | assumption

end Sys2Proof.Machine
end

