-- ==== Sys2Proof/Laws/InvWeaver.lean ====
section
/-! SUPPORT. What the operations of Machine/Weaver.lean keep. -/
namespace Sys2Proof.Machine

variable {R : State → Prop} {s : State}

theorem State.roleResult_inv (w : Nat) (r : Nat) (hc : ∀ p ∈ [Part.regs], Closed R p) (h : R s) :
    R (s.roleResult w r) := by
  unfold State.roleResult
  try dsimp only
  repeat' (first | exact sub_inv (by decide) hc | (intro _; try dsimp only) | with_reducible assumption | with_reducible apply inv_ite | with_reducible apply State.setRf_inv | split)
  all_goals first | rfl | exact ⟨rfl, rfl, rfl⟩ | assumption

theorem State.passBank_inv (b : Nat) (kind : Nat) (owner : Nat) (hc : ∀ p ∈ [Part.regs, .bank], Closed R p) (h : R s) :
    R (s.passBank b kind owner) := by
  unfold State.passBank
  try dsimp only
  repeat' (first | exact sub_inv (by decide) hc | (intro _; try dsimp only) | with_reducible assumption | with_reducible apply inv_ite | with_reducible apply State.handoverDone_inv | with_reducible apply State.ownWrite_inv | split)
  all_goals first | rfl | exact ⟨rfl, rfl, rfl⟩ | assumption

theorem State.takeBanks_inv (w : Nat) (hc : ∀ p ∈ [Part.regs, .fmn, .bank], Closed R p) (h : R s) :
    R (s.takeBanks w) := by
  unfold State.takeBanks
  try dsimp only
  repeat' (first | exact sub_inv (by decide) hc | (intro _; try dsimp only) | with_reducible assumption | with_reducible apply inv_ite | with_reducible apply seqAll_inv | with_reducible apply State.modFmn_inv | with_reducible apply State.passBank_inv | split)
  all_goals first | rfl | exact ⟨rfl, rfl, rfl⟩ | assumption

theorem State.handBanks_inv (w : Nat) (y : Nat × Nat) (hc : ∀ p ∈ [Part.regs, .fmn, .bank], Closed R p) (h : R s) :
    R (s.handBanks w y) := by
  unfold State.handBanks
  try dsimp only
  repeat' (first | exact sub_inv (by decide) hc | (intro _; try dsimp only) | with_reducible assumption | with_reducible apply inv_ite | with_reducible apply State.modFmn_inv | with_reducible apply seqAll_inv | with_reducible apply State.when_inv | with_reducible apply State.passBank_inv | split)
  all_goals first | rfl | exact ⟨rfl, rfl, rfl⟩ | assumption

theorem State.startRole_inv {s0 : State} (w : Nat) (y : Nat × Nat) (byReq : Bool) (hc : ∀ p ∈ [Part.regs, .wvr, .fmn, .bank, .tly, .pcie, .tst, .out, .free], Closed R p) (h : R s0) :
    R (s0.startRole w y byReq) := by
  unfold State.startRole
  try dsimp only
  repeat' (first | exact sub_inv (by decide) hc | (intro _; try dsimp only) | with_reducible assumption | with_reducible apply inv_ite | with_reducible apply State.takeBanks_inv | with_reducible apply State.when_inv | with_reducible apply State.setWvr_inv | with_reducible apply State.modWeaver_inv | with_reducible apply State.roleResult_inv | with_reducible apply State.handBanks_inv | split)
  all_goals first | rfl | exact ⟨rfl, rfl, rfl⟩ | assumption

theorem State.haltWvr_inv (w : Nat) (reason : Nat) (hc : ∀ p ∈ [Part.regs, .wvr, .fmn, .bank, .bankMem, .skid, .tly, .pcie, .out], Closed R p) (h : R s) :
    R (s.haltWvr w reason) := by
  unfold State.haltWvr
  try dsimp only
  repeat' (first | exact sub_inv (by decide) hc | (intro _; try dsimp only) | with_reducible assumption | with_reducible apply inv_ite | with_reducible apply State.reclaim_inv | with_reducible apply State.flush_inv | with_reducible apply State.modWeaver_inv | split)
  all_goals first | rfl | exact ⟨rfl, rfl, rfl⟩ | assumption

theorem State.endDrain_inv (w : Nat) (hc : ∀ p ∈ [Part.regs, .wvr, .fmn, .bank, .bankMem, .skid, .tly, .pcie, .tst, .out, .free], Closed R p) (h : R s) :
    R (s.endDrain w) := by
  unfold State.endDrain
  try dsimp only
  repeat' (first | exact sub_inv (by decide) hc | (intro _; try dsimp only) | with_reducible assumption | with_reducible apply inv_ite | with_reducible apply State.haltWvr_inv | with_reducible apply State.modWeaver_inv | with_reducible apply State.roleCkpt_inv | with_reducible apply State.startRole_inv | split)
  all_goals first | rfl | exact ⟨rfl, rfl, rfl⟩ | assumption

theorem State.drainsLeft_inv (hc : ∀ p ∈ [Part.regs, .wvr, .fmn, .bank, .bankMem, .skid, .tly, .pcie, .tst, .out, .free], Closed R p) (h : R s) :
    R (s.drainsLeft) := by
  unfold State.drainsLeft
  try dsimp only
  repeat' (first | exact sub_inv (by decide) hc | (intro _; try dsimp only) | with_reducible assumption | with_reducible apply inv_ite | with_reducible apply seqAll_inv | with_reducible apply State.when_inv | with_reducible apply State.endDrain_inv | split)
  all_goals first | rfl | exact ⟨rfl, rfl, rfl⟩ | assumption

theorem State.roleReqWrite_inv (w : Nat) (v : Word) (hc : ∀ p ∈ [Part.regs], Closed R p) (h : R s) :
    R (s.roleReqWrite w v) := by
  unfold State.roleReqWrite
  try dsimp only
  repeat' (first | exact sub_inv (by decide) hc | (intro _; try dsimp only) | with_reducible assumption | with_reducible apply inv_ite | with_reducible apply State.setReg_inv | split)
  all_goals first | rfl | exact ⟨rfl, rfl, rfl⟩ | assumption

theorem execWvrRoleReqWrite_inv (m : Mid) (w : Fin 64) (v : Word) (hc : ∀ p ∈ [Part.regs, .wvr, .pcie, .tst, .out, .resp], Closed R p) (h : R s) :
    OutInv R (execWvrRoleReqWrite m w v s) := by
  unfold execWvrRoleReqWrite
  try dsimp only
  repeat' (first | exact sub_inv (by decide) hc | with_reducible apply outInv_next | with_reducible exact outInv_fault _ | with_reducible apply outInv_ite | (intro _; try dsimp only) | with_reducible assumption | with_reducible apply inv_ite | with_reducible apply State.write4_inv | with_reducible apply State.roleReqWrite_inv | split)
  all_goals first | rfl | exact ⟨rfl, rfl, rfl⟩ | assumption

theorem State.serveReq_inv (w : Nat) (imageOk : Bool) (hc : ∀ p ∈ [Part.regs, .wvr, .fmn, .bank, .bankMem, .tly, .pcie, .tst, .out, .free], Closed R p) (h : R s) :
    R (s.serveReq w imageOk) := by
  unfold State.serveReq
  try dsimp only
  repeat' (first | exact sub_inv (by decide) hc | (intro _; try dsimp only) | with_reducible assumption | with_reducible apply inv_ite | with_reducible apply State.roleResult_inv | with_reducible apply State.setRf_inv | with_reducible apply State.startRole_inv | with_reducible apply State.roleCkpt_inv | with_reducible apply State.setWvr_inv | with_reducible apply State.modWeaver_inv | split)
  all_goals first | rfl | exact ⟨rfl, rfl, rfl⟩ | assumption

theorem execRoleRequestServe_inv (w : Fin 64) (imageOk : Bool) (hc : ∀ p ∈ [Part.regs, .wvr, .fmn, .bank, .bankMem, .tly, .pcie, .tst, .out, .free], Closed R p) (h : R s) :
    OutInv R (execRoleRequestServe w imageOk s) := by
  unfold execRoleRequestServe
  try dsimp only
  repeat' (first | exact sub_inv (by decide) hc | with_reducible apply outInv_next | with_reducible exact outInv_fault _ | with_reducible apply outInv_ite | (intro _; try dsimp only) | with_reducible assumption | with_reducible apply inv_ite | with_reducible apply State.when_inv | with_reducible apply State.serveReq_inv | split)
  all_goals first | rfl | exact ⟨rfl, rfl, rfl⟩ | assumption

theorem State.restartWvr_inv (w : Nat) (hc : ∀ p ∈ [Part.regs, .wvr, .fmn, .bank, .bankMem, .skid, .tly, .pcie, .tst, .out, .free], Closed R p) (h : R s) :
    R (s.restartWvr w) := by
  unfold State.restartWvr
  try dsimp only
  repeat' (first | exact sub_inv (by decide) hc | (intro _; try dsimp only) | with_reducible assumption | with_reducible apply inv_ite | with_reducible apply State.haltWvr_inv | with_reducible apply State.when_inv | with_reducible apply State.setRf_inv | with_reducible apply State.setWvr_inv | with_reducible apply State.modWeaver_inv | split)
  all_goals first | rfl | exact ⟨rfl, rfl, rfl⟩ | assumption

theorem State.wvrCmd_inv (m : Mid) (w : Nat) (v : Word) (hc : ∀ p ∈ [Part.regs, .wvr, .fmn, .bank, .bankMem, .skid, .tly, .pcie, .tst, .out, .free], Closed R p) (h : R s) :
    R (s.wvrCmd m w v) := by
  unfold State.wvrCmd
  try dsimp only
  repeat' (first | exact sub_inv (by decide) hc | (intro _; try dsimp only) | with_reducible assumption | with_reducible apply inv_ite | with_reducible apply State.when_inv | with_reducible apply State.setWvr_inv | with_reducible apply State.modWeaver_inv | with_reducible apply State.restartWvr_inv | with_reducible apply State.endDrain_inv | with_reducible apply State.errlog_inv | split)
  all_goals first | rfl | exact ⟨rfl, rfl, rfl⟩ | assumption

theorem execWvrCmdDrained_inv (m : Mid) (w : Fin 64) (hc : ∀ p ∈ [Part.regs, .wvr, .fmn, .bank, .bankMem, .skid, .tly, .pcie, .tst, .out, .resp, .free], Closed R p) (h : R s) :
    OutInv R (execWvrCmdDrained m w s) := by
  unfold execWvrCmdDrained
  try dsimp only
  repeat' (first | exact sub_inv (by decide) hc | with_reducible apply outInv_next | with_reducible exact outInv_fault _ | with_reducible apply outInv_ite | (intro _; try dsimp only) | with_reducible assumption | with_reducible apply inv_ite | with_reducible apply State.write4_inv | with_reducible apply State.wvrCmd_inv | split)
  all_goals first | rfl | exact ⟨rfl, rfl, rfl⟩ | assumption

theorem execWvrCmdHalt_inv (m : Mid) (w : Fin 64) (hc : ∀ p ∈ [Part.regs, .wvr, .fmn, .bank, .bankMem, .skid, .tly, .pcie, .tst, .out, .resp, .free], Closed R p) (h : R s) :
    OutInv R (execWvrCmdHalt m w s) := by
  unfold execWvrCmdHalt
  try dsimp only
  repeat' (first | exact sub_inv (by decide) hc | with_reducible apply outInv_next | with_reducible exact outInv_fault _ | with_reducible apply outInv_ite | (intro _; try dsimp only) | with_reducible assumption | with_reducible apply inv_ite | with_reducible apply State.write4_inv | with_reducible apply State.wvrCmd_inv | split)
  all_goals first | rfl | exact ⟨rfl, rfl, rfl⟩ | assumption

theorem execWvrCmdResume_inv (m : Mid) (w : Fin 64) (hc : ∀ p ∈ [Part.regs, .wvr, .fmn, .bank, .bankMem, .skid, .tly, .pcie, .tst, .out, .resp, .free], Closed R p) (h : R s) :
    OutInv R (execWvrCmdResume m w s) := by
  unfold execWvrCmdResume
  try dsimp only
  repeat' (first | exact sub_inv (by decide) hc | with_reducible apply outInv_next | with_reducible exact outInv_fault _ | with_reducible apply outInv_ite | (intro _; try dsimp only) | with_reducible assumption | with_reducible apply inv_ite | with_reducible apply State.write4_inv | with_reducible apply State.wvrCmd_inv | split)
  all_goals first | rfl | exact ⟨rfl, rfl, rfl⟩ | assumption

theorem execWvrCmdRestart_inv (m : Mid) (w : Fin 64) (hc : ∀ p ∈ [Part.regs, .wvr, .fmn, .bank, .bankMem, .skid, .tly, .pcie, .tst, .out, .resp, .free], Closed R p) (h : R s) :
    OutInv R (execWvrCmdRestart m w s) := by
  unfold execWvrCmdRestart
  try dsimp only
  repeat' (first | exact sub_inv (by decide) hc | with_reducible apply outInv_next | with_reducible exact outInv_fault _ | with_reducible apply outInv_ite | (intro _; try dsimp only) | with_reducible assumption | with_reducible apply inv_ite | with_reducible apply State.write4_inv | with_reducible apply State.wvrCmd_inv | split)
  all_goals first | rfl | exact ⟨rfl, rfl, rfl⟩ | assumption

theorem execDrainTimeout_inv (w : Fin 64) (hc : ∀ p ∈ [Part.regs, .wvr, .fmn, .bank, .bankMem, .skid, .tly, .pcie, .tst, .out, .free], Closed R p) (h : R s) :
    OutInv R (execDrainTimeout w s) := by
  unfold execDrainTimeout
  try dsimp only
  repeat' (first | exact sub_inv (by decide) hc | with_reducible apply outInv_next | with_reducible exact outInv_fault _ | with_reducible apply outInv_ite | (intro _; try dsimp only) | with_reducible assumption | with_reducible apply inv_ite | with_reducible apply State.when_inv | with_reducible apply State.endDrain_inv | split)
  all_goals first | rfl | exact ⟨rfl, rfl, rfl⟩ | assumption

theorem State.noteBoot_inv (hc : ∀ p ∈ [Part.pwr], Closed R p) (h : R s) :
    R (s.noteBoot) := by
  unfold State.noteBoot
  try dsimp only
  repeat' (first | exact sub_inv (by decide) hc | (intro _; try dsimp only) | with_reducible assumption | with_reducible apply inv_ite | with_reducible apply State.modPwr_inv | split)
  all_goals first | rfl | exact ⟨rfl, rfl, rfl⟩ | assumption

theorem State.loadImage_inv (w : Nat) (hc : ∀ p ∈ [Part.wvr, .free], Closed R p) (h : R s) : R (s.loadImage w) :=
  hc .free (by decide) _ _ (State.modWeaver_inv _ _ (sub_inv (by decide) hc) h)

theorem State.imageLoaded_inv {s0 : State} (w : Nat) (hc : ∀ p ∈ [Part.regs, .wvr, .fmn, .bank, .bankMem, .tly, .pcie, .pwr, .tst, .out, .free], Closed R p) (h : R s0) :
    R (s0.imageLoaded w) := by
  unfold State.imageLoaded
  try dsimp only
  repeat' (first | exact sub_inv (by decide) hc | (intro _; try dsimp only) | with_reducible assumption | with_reducible apply inv_ite | with_reducible apply State.loadImage_inv | with_reducible apply State.noteBoot_inv | with_reducible apply State.roleCkpt_inv | with_reducible apply State.when_inv | with_reducible apply State.setWvr_inv | with_reducible apply State.modWeaver_inv | with_reducible apply State.roleResult_inv | split)
  all_goals first | rfl | exact ⟨rfl, rfl, rfl⟩ | assumption

theorem execRoleImageLoaded_inv (w : Fin 64) (hc : ∀ p ∈ [Part.regs, .wvr, .fmn, .bank, .bankMem, .tly, .pcie, .pwr, .tst, .out, .free], Closed R p) (h : R s) :
    OutInv R (execRoleImageLoaded w s) := by
  unfold execRoleImageLoaded
  try dsimp only
  repeat' (first | exact sub_inv (by decide) hc | with_reducible apply outInv_next | with_reducible exact outInv_fault _ | with_reducible apply outInv_ite | (intro _; try dsimp only) | with_reducible assumption | with_reducible apply inv_ite | with_reducible apply State.when_inv | with_reducible apply State.imageLoaded_inv | split)
  all_goals first | rfl | exact ⟨rfl, rfl, rfl⟩ | assumption

theorem State.enterFault_inv (w : Nat) (cause : Nat) (hc : ∀ p ∈ [Part.regs, .wvr, .fmn, .bank, .bankMem, .skid, .tly, .pcie, .tst, .out, .free], Closed R p) (h : R s) :
    R (s.enterFault w cause) := by
  unfold State.enterFault
  try dsimp only
  repeat' (first | exact sub_inv (by decide) hc | (intro _; try dsimp only) | with_reducible assumption | with_reducible apply inv_ite | with_reducible apply State.when_inv | with_reducible apply State.setRf_inv | with_reducible apply State.modWeaver_inv | with_reducible apply State.incReg_inv | with_reducible apply State.setReg_inv | with_reducible apply State.reclaim_inv | with_reducible apply State.flush_inv | with_reducible apply State.setWvr_inv | with_reducible apply State.roleCkpt_inv | split)
  all_goals first | rfl | exact ⟨rfl, rfl, rfl⟩ | assumption

theorem execWeaverFault_inv (w : Fin 64) (cause : WeaverCause) (hc : ∀ p ∈ [Part.regs, .wvr, .fmn, .bank, .bankMem, .skid, .tly, .pcie, .tst, .out, .free], Closed R p) (h : R s) :
    OutInv R (execWeaverFault w cause s) := by
  unfold execWeaverFault
  try dsimp only
  repeat' (first | exact sub_inv (by decide) hc | with_reducible apply outInv_next | with_reducible exact outInv_fault _ | with_reducible apply outInv_ite | (intro _; try dsimp only) | with_reducible assumption | with_reducible apply inv_ite | with_reducible apply State.when_inv | with_reducible apply State.enterFault_inv | with_reducible apply State.modWeaver_inv | split)
  all_goals first | rfl | exact ⟨rfl, rfl, rfl⟩ | assumption

theorem execWeaverWatchdog_inv (w : Fin 64) (hc : ∀ p ∈ [Part.regs, .wvr, .fmn, .bank, .bankMem, .skid, .tly, .pcie, .tst, .out, .free], Closed R p) (h : R s) :
    OutInv R (execWeaverWatchdog w s) := by
  unfold execWeaverWatchdog
  try dsimp only
  repeat' (first | exact sub_inv (by decide) hc | with_reducible apply outInv_next | with_reducible exact outInv_fault _ | with_reducible apply outInv_ite | (intro _; try dsimp only) | with_reducible assumption | with_reducible apply inv_ite | with_reducible apply State.when_inv | with_reducible apply State.enterFault_inv | split)
  all_goals first | rfl | exact ⟨rfl, rfl, rfl⟩ | assumption

theorem State.autoRestart_inv {s0 : State} (w : Nat) (hc : ∀ p ∈ [Part.regs, .wvr, .tly, .pcie, .tst, .out, .free], Closed R p) (h : R s0) :
    R (s0.autoRestart w) := by
  unfold State.autoRestart
  try dsimp only
  repeat' (first | exact sub_inv (by decide) hc | (intro _; try dsimp only) | with_reducible assumption | with_reducible apply inv_ite | with_reducible apply State.when_inv | with_reducible apply State.loadImage_inv | with_reducible apply State.setWvr_inv | with_reducible apply State.modWeaver_inv | with_reducible apply State.roleResult_inv | split)
  all_goals first | rfl | exact ⟨rfl, rfl, rfl⟩ | assumption

theorem execWeaverAutoRestart_inv (w : Fin 64) (hc : ∀ p ∈ [Part.regs, .wvr, .tly, .pcie, .tst, .out, .free], Closed R p) (h : R s) :
    OutInv R (execWeaverAutoRestart w s) := by
  unfold execWeaverAutoRestart
  try dsimp only
  repeat' (first | exact sub_inv (by decide) hc | with_reducible apply outInv_next | with_reducible exact outInv_fault _ | with_reducible apply outInv_ite | (intro _; try dsimp only) | with_reducible assumption | with_reducible apply inv_ite | with_reducible apply State.when_inv | with_reducible apply State.autoRestart_inv | split)
  all_goals first | rfl | exact ⟨rfl, rfl, rfl⟩ | assumption

theorem execWeaverSleep_inv (w : Fin 64) (hc : ∀ p ∈ [Part.regs, .wvr, .tly, .pcie, .tst, .out, .free], Closed R p) (h : R s) :
    OutInv R (execWeaverSleep w s) := by
  unfold execWeaverSleep
  try dsimp only
  repeat' (first | exact sub_inv (by decide) hc | with_reducible apply outInv_next | with_reducible exact outInv_fault _ | with_reducible apply outInv_ite | (intro _; try dsimp only) | with_reducible assumption | with_reducible apply inv_ite | with_reducible apply State.when_inv | with_reducible apply State.setWvr_inv | with_reducible apply State.modWeaver_inv | split)
  all_goals first | rfl | exact ⟨rfl, rfl, rfl⟩ | assumption

theorem execWeaverWake_inv (w : Fin 64) (cause : WakeCause) (hc : ∀ p ∈ [Part.regs, .wvr, .tly, .pcie, .tst, .out, .free], Closed R p) (h : R s) :
    OutInv R (execWeaverWake w cause s) := by
  unfold execWeaverWake
  try dsimp only
  repeat' (first | exact sub_inv (by decide) hc | with_reducible apply outInv_next | with_reducible exact outInv_fault _ | with_reducible apply outInv_ite | (intro _; try dsimp only) | with_reducible assumption | with_reducible apply inv_ite | with_reducible apply State.when_inv | with_reducible apply State.setWvr_inv | split)
  all_goals first | rfl | exact ⟨rfl, rfl, rfl⟩ | assumption

theorem State.wakeLeft_inv (hc : ∀ p ∈ [Part.regs, .wvr, .tly, .pcie, .tst, .out, .free], Closed R p) (h : R s) :
    R (s.wakeLeft) := by
  unfold State.wakeLeft
  try dsimp only
  repeat' (first | exact sub_inv (by decide) hc | (intro _; try dsimp only) | with_reducible assumption | with_reducible apply inv_ite | with_reducible apply seqAll_inv | with_reducible apply State.setWvr_inv | split)
  all_goals first | rfl | exact ⟨rfl, rfl, rfl⟩ | assumption

theorem State.assignRoles_inv (l : List (Nat × Nat × Nat)) (hc : ∀ p ∈ [Part.regs, .wvr, .fmn, .bank, .tly, .pcie, .tst, .out, .free], Closed R p) (h : R s) :
    R (s.assignRoles l) := by
  unfold State.assignRoles
  try dsimp only
  repeat' (first | exact sub_inv (by decide) hc | (intro _; try dsimp only) | with_reducible assumption | with_reducible apply inv_ite | with_reducible apply State.modFmn_inv | with_reducible apply seqAll_inv | with_reducible apply State.startRole_inv | split)
  all_goals first | rfl | exact ⟨rfl, rfl, rfl⟩ | assumption

theorem State.rolesGoOn_inv (hc : ∀ p ∈ [Part.regs, .wvr, .fmn, .bank, .tly, .pcie, .tst, .out, .free], Closed R p) (h : R s) :
    R (s.rolesGoOn) := by
  unfold State.rolesGoOn
  try dsimp only
  repeat' (first | exact sub_inv (by decide) hc | (intro _; try dsimp only) | with_reducible assumption | with_reducible apply inv_ite | with_reducible apply State.when_inv | with_reducible apply State.assignRoles_inv | split)
  all_goals first | rfl | exact ⟨rfl, rfl, rfl⟩ | assumption

theorem State.warmWeavers_inv (hc : ∀ p ∈ [Part.regs, .wvr, .tly, .pcie, .tst, .out, .free], Closed R p) (h : R s) :
    R (s.warmWeavers) := by
  unfold State.warmWeavers
  try dsimp only
  repeat' (first | exact sub_inv (by decide) hc | (intro _; try dsimp only) | with_reducible assumption | with_reducible apply inv_ite | with_reducible apply seqAll_inv | with_reducible apply State.modWeaver_inv | with_reducible apply State.when_inv | with_reducible apply State.setRf_inv | with_reducible apply State.setWvr_inv | split)
  all_goals first | rfl | exact ⟨rfl, rfl, rfl⟩ | assumption

end Sys2Proof.Machine
end

