-- ==== Sys2Proof/Laws/InvCoppice.lean ====
section
/-! SUPPORT. What the operations of Machine/Coppice.lean keep. -/
namespace Sys2Proof.Machine

variable {R : State → Prop} {s : State}

theorem State.modFm_inv (b : Bool) (f : Foreman → Foreman) (hc : ∀ p ∈ [Part.fmn], Closed R p) (h : R s) :
    R (s.modFm b f) := by
  unfold State.modFm
  try dsimp only
  repeat' (first | exact sub_inv (by decide) hc | (intro _; try dsimp only) | with_reducible assumption | with_reducible apply inv_ite | with_reducible apply State.modFmn_inv | split)
  all_goals first | rfl | exact ⟨rfl, rfl, rfl⟩ | assumption

theorem State.setFm_inv (b : Bool) (st : FmSt) (hc : ∀ p ∈ [Part.regs, .fmn, .pcie, .tst, .out, .free], Closed R p) (h : R s) :
    R (s.setFm b st) := by
  unfold State.setFm
  try dsimp only
  repeat' (first | exact sub_inv (by decide) hc | (intro _; try dsimp only) | with_reducible assumption | with_reducible apply inv_ite | with_reducible apply State.modFm_inv | with_reducible apply State.trace_inv | split)
  all_goals first | rfl | exact ⟨rfl, rfl, rfl⟩ | assumption

theorem State.traceLease_inv (hc : ∀ p ∈ [Part.regs, .pcie, .tst, .out, .free], Closed R p) (h : R s) :
    R (s.traceLease) := by
  unfold State.traceLease
  try dsimp only
  repeat' (first | exact sub_inv (by decide) hc | (intro _; try dsimp only) | with_reducible assumption | with_reducible apply inv_ite | with_reducible apply State.trace_inv | split)
  all_goals first | rfl | exact ⟨rfl, rfl, rfl⟩ | assumption

theorem State.bootFm_inv (b : Bool) (hc : ∀ p ∈ [Part.regs, .fmn, .pcie, .pwr, .tst, .out, .free], Closed R p) (h : R s) :
    R (s.bootFm b) := by
  unfold State.bootFm
  try dsimp only
  repeat' (first | exact sub_inv (by decide) hc | (intro _; try dsimp only) | with_reducible assumption | with_reducible apply inv_ite | with_reducible apply State.noteDom_inv | with_reducible apply State.setFm_inv | with_reducible apply State.modFm_inv | with_reducible apply State.abandon_inv | split)
  all_goals first | rfl | exact ⟨rfl, rfl, rfl⟩ | assumption

theorem State.offFm_inv (b : Bool) (hc : ∀ p ∈ [Part.regs, .fmn, .pcie, .pwr, .tst, .out, .free], Closed R p) (h : R s) :
    R (s.offFm b) := by
  unfold State.offFm
  try dsimp only
  repeat' (first | exact sub_inv (by decide) hc | (intro _; try dsimp only) | with_reducible assumption | with_reducible apply inv_ite | with_reducible apply State.noteDom_inv | with_reducible apply State.setFm_inv | with_reducible apply State.modFm_inv | with_reducible apply State.abandon_inv | split)
  all_goals first | rfl | exact ⟨rfl, rfl, rfl⟩ | assumption

theorem State.takeStart_inv (b : Bool) (hc : ∀ p ∈ [Part.regs, .fmn, .pcie, .pwr, .tst, .out, .free], Closed R p) (h : R s) :
    R (s.takeStart b) := by
  unfold State.takeStart
  try dsimp only
  repeat' (first | exact sub_inv (by decide) hc | (intro _; try dsimp only) | with_reducible assumption | with_reducible apply inv_ite | with_reducible apply State.modFmn_inv | with_reducible apply State.bootFm_inv | split)
  all_goals first | rfl | exact ⟨rfl, rfl, rfl⟩ | assumption

theorem State.takeOther_inv (b : Bool) (hc : ∀ p ∈ [Part.regs, .fmn, .pcie, .pwr, .tst, .out, .free], Closed R p) (h : R s) :
    R (s.takeOther b) := by
  unfold State.takeOther
  try dsimp only
  repeat' (first | exact sub_inv (by decide) hc | (intro _; try dsimp only) | with_reducible assumption | with_reducible apply inv_ite | with_reducible apply State.takeStart_inv | with_reducible apply State.modFmn_inv | split)
  all_goals first | rfl | exact ⟨rfl, rfl, rfl⟩ | assumption

theorem State.failFm_inv (b : Bool) (st : FmSt) (hc : ∀ p ∈ [Part.regs, .fmn, .pcie, .pwr, .tst, .out, .free], Closed R p) (h : R s) :
    R (s.failFm b st) := by
  unfold State.failFm
  try dsimp only
  repeat' (first | exact sub_inv (by decide) hc | (intro _; try dsimp only) | with_reducible assumption | with_reducible apply inv_ite | with_reducible apply State.modFm_inv | with_reducible apply State.setFm_inv | with_reducible apply State.offFm_inv | split)
  all_goals first | rfl | exact ⟨rfl, rfl, rfl⟩ | assumption

theorem State.takeUp_inv (hc : ∀ p ∈ [Part.regs, .wvr, .fmn, .mbx, .bank, .tly, .pcie, .pwr, .tst, .out, .free], Closed R p) (h : R s) :
    R (s.takeUp) := by
  unfold State.takeUp
  try dsimp only
  repeat' (first | exact sub_inv (by decide) hc | (intro _; try dsimp only) | with_reducible assumption | with_reducible apply inv_ite | with_reducible apply State.modMbx_inv | with_reducible apply State.noteBoot_inv | with_reducible apply State.modPwr_inv | with_reducible apply State.assignRoles_inv | split)
  all_goals first | rfl | exact ⟨rfl, rfl, rfl⟩ | assumption

theorem State.grant_inv (b : Bool) (transfer : Bool) (hc : ∀ p ∈ [Part.regs, .wvr, .fmn, .mbx, .bank, .tly, .pcie, .pwr, .tst, .out, .free], Closed R p) (h : R s) :
    R (s.grant b transfer) := by
  unfold State.grant
  try dsimp only
  repeat' (first | exact sub_inv (by decide) hc | (intro _; try dsimp only) | with_reducible assumption | with_reducible apply inv_ite | with_reducible apply State.modFmn_inv | with_reducible apply State.modFm_inv | with_reducible apply State.modPwr_inv | with_reducible apply State.takeUp_inv | with_reducible apply State.banner_inv | with_reducible apply State.traceLease_inv | with_reducible apply State.irq_inv | with_reducible apply State.setFm_inv | split)
  all_goals first | rfl | exact ⟨rfl, rfl, rfl⟩ | assumption

theorem State.setCause_inv (c : Nat) (b : Bool) (hc : ∀ p ∈ [Part.regs], Closed R p) (h : R s) :
    R (s.setCause c b) := by
  unfold State.setCause
  try dsimp only
  repeat' (first | exact sub_inv (by decide) hc | (intro _; try dsimp only) | with_reducible assumption | with_reducible apply inv_ite | with_reducible apply State.setReg_inv | split)
  all_goals first | rfl | exact ⟨rfl, rfl, rfl⟩ | assumption

theorem State.revoke_inv (c : Nat) (hc : ∀ p ∈ [Part.regs, .loom, .trd, .fine, .wvr, .fmn, .mbx, .bank, .bankMem, .skid, .tly, .pcie, .pwr, .tst, .out, .free], Closed R p) (h : R s) :
    R (s.revoke c) := by
  unfold State.revoke
  try dsimp only
  repeat' (first | exact sub_inv (by decide) hc | (intro _; try dsimp only) | with_reducible assumption | with_reducible apply inv_ite | with_reducible apply State.modFmn_inv | with_reducible apply State.setCause_inv | with_reducible apply State.modMbx_inv | with_reducible apply State.modFm_inv | with_reducible apply State.setFm_inv | with_reducible apply State.when_inv | with_reducible apply State.abandon_inv | with_reducible apply State.modTst_inv | with_reducible apply State.traceLease_inv | with_reducible apply State.irq_inv | with_reducible apply State.incReg_inv | with_reducible apply State.reclaim_inv | with_reducible apply State.flush_inv | with_reducible apply State.postFences_inv | with_reducible apply State.dropBatch_inv | with_reducible apply State.takeStart_inv | split)
  all_goals first | rfl | exact ⟨rfl, rfl, rfl⟩ | assumption

theorem State.standBy_inv (b : Bool) (hc : ∀ p ∈ [Part.regs, .fmn, .pcie, .tst, .out, .free], Closed R p) (h : R s) :
    R (s.standBy b) := by
  unfold State.standBy
  try dsimp only
  repeat' (first | exact sub_inv (by decide) hc | (intro _; try dsimp only) | with_reducible assumption | with_reducible apply inv_ite | with_reducible apply State.setFm_inv | with_reducible apply State.modFm_inv | split)
  all_goals first | rfl | exact ⟨rfl, rfl, rfl⟩ | assumption

theorem State.leaseRel_inv (b : Bool) (v : Word) (hc : ∀ p ∈ [Part.regs, .wvr, .fmn, .mbx, .bank, .tly, .pcie, .pwr, .tst, .out, .free], Closed R p) (h : R s) :
    R (s.leaseRel b v) := by
  unfold State.leaseRel
  try dsimp only
  repeat' (first | exact sub_inv (by decide) hc | (intro _; try dsimp only) | with_reducible assumption | with_reducible apply inv_ite | with_reducible apply State.traceLease_inv | with_reducible apply State.standBy_inv | with_reducible apply State.modMbx_inv | with_reducible apply State.modFmn_inv | with_reducible apply State.setCause_inv | with_reducible apply State.grant_inv | with_reducible apply State.modFm_inv | with_reducible apply State.errlog_inv | split)
  all_goals first | rfl | exact ⟨rfl, rfl, rfl⟩ | assumption

theorem State.takeClaim_inv (b : Bool) (hc : ∀ p ∈ [Part.regs, .wvr, .fmn, .mbx, .bank, .tly, .pcie, .pwr, .tst, .out, .free], Closed R p) (h : R s) :
    R (s.takeClaim b) := by
  unfold State.takeClaim
  try dsimp only
  repeat' (first | exact sub_inv (by decide) hc | (intro _; try dsimp only) | with_reducible assumption | with_reducible apply inv_ite | with_reducible apply State.grant_inv | with_reducible apply State.irq_inv | split)
  all_goals first | rfl | exact ⟨rfl, rfl, rfl⟩ | assumption

theorem State.takeRenew_inv (b : Bool) (hc : ∀ p ∈ [Part.regs, .fmn, .pcie, .out], Closed R p) (h : R s) :
    R (s.takeRenew b) := by
  unfold State.takeRenew
  try dsimp only
  repeat' (first | exact sub_inv (by decide) hc | (intro _; try dsimp only) | with_reducible assumption | with_reducible apply inv_ite | with_reducible apply State.when_inv | with_reducible apply State.modFm_inv | with_reducible apply State.modFmn_inv | with_reducible apply State.irq_inv | split)
  all_goals first | rfl | exact ⟨rfl, rfl, rfl⟩ | assumption

theorem State.takeRelease_inv (b : Bool) (hc : ∀ p ∈ [Part.regs, .wvr, .fmn, .mbx, .bank, .tly, .pcie, .pwr, .tst, .out, .free], Closed R p) (h : R s) :
    R (s.takeRelease b) := by
  unfold State.takeRelease
  try dsimp only
  repeat' (first | exact sub_inv (by decide) hc | (intro _; try dsimp only) | with_reducible assumption | with_reducible apply inv_ite | with_reducible apply State.leaseRel_inv | split)
  all_goals first | rfl | exact ⟨rfl, rfl, rfl⟩ | assumption

theorem State.holdFaulty_inv (b : Bool) (hc : ∀ p ∈ [Part.regs, .fmn, .pcie, .pwr, .tst, .out, .free], Closed R p) (h : R s) :
    R (s.holdFaulty b) := by
  unfold State.holdFaulty
  try dsimp only
  repeat' (first | exact sub_inv (by decide) hc | (intro _; try dsimp only) | with_reducible assumption | with_reducible apply inv_ite | with_reducible apply State.modFm_inv | with_reducible apply State.irq_inv | with_reducible apply State.abandon_inv | with_reducible apply State.takeOther_inv | with_reducible apply State.failFm_inv | with_reducible apply State.setFm_inv | split)
  all_goals first | rfl | exact ⟨rfl, rfl, rfl⟩ | assumption

theorem State.tickCount_inv (hc : ∀ p ∈ [Part.fmn], Closed R p) (h : R s) :
    R (s.tickCount) := by
  unfold State.tickCount
  try dsimp only
  repeat' (first | exact sub_inv (by decide) hc | (intro _; try dsimp only) | with_reducible assumption | with_reducible apply inv_ite | with_reducible apply State.modFmn_inv | split)
  all_goals first | rfl | exact ⟨rfl, rfl, rfl⟩ | assumption

theorem State.tickRevoke_inv (hc : ∀ p ∈ [Part.regs, .loom, .trd, .fine, .wvr, .fmn, .mbx, .bank, .bankMem, .skid, .tly, .pcie, .pwr, .tst, .out, .free], Closed R p) (h : R s) :
    R (s.tickRevoke) := by
  unfold State.tickRevoke
  try dsimp only
  repeat' (first | exact sub_inv (by decide) hc | (intro _; try dsimp only) | with_reducible assumption | with_reducible apply inv_ite | with_reducible apply State.modFmn_inv | with_reducible apply State.revoke_inv | with_reducible apply State.irq_inv | split)
  all_goals first | rfl | exact ⟨rfl, rfl, rfl⟩ | assumption

theorem State.leaseTick_inv (hc : ∀ p ∈ [Part.regs, .loom, .trd, .fine, .wvr, .fmn, .mbx, .bank, .bankMem, .skid, .tly, .pcie, .pwr, .tst, .out, .free], Closed R p) (h : R s) :
    R (s.leaseTick) := by
  unfold State.leaseTick
  try dsimp only
  repeat' (first | exact sub_inv (by decide) hc | (intro _; try dsimp only) | with_reducible assumption | with_reducible apply inv_ite | with_reducible apply State.tickRevoke_inv | with_reducible apply State.tickCount_inv | with_reducible apply State.holdFaulty_inv | with_reducible apply State.takeRelease_inv | with_reducible apply State.takeClaim_inv | with_reducible apply State.takeRenew_inv | with_reducible apply State.noteShed_inv | with_reducible apply State.modFm_inv | split)
  all_goals first | rfl | exact ⟨rfl, rfl, rfl⟩ | assumption

theorem execLeaseTick_inv (hc : ∀ p ∈ [Part.regs, .loom, .trd, .fine, .wvr, .fmn, .mbx, .bank, .bankMem, .skid, .tly, .pcie, .pwr, .tst, .out, .free], Closed R p) (h : R s) :
    OutInv R (execLeaseTick s) := by
  unfold execLeaseTick
  try dsimp only
  repeat' (first | exact sub_inv (by decide) hc | with_reducible apply outInv_next | with_reducible exact outInv_fault _ | with_reducible apply outInv_ite | (intro _; try dsimp only) | with_reducible assumption | with_reducible apply inv_ite | with_reducible apply State.when_inv | with_reducible apply State.leaseTick_inv | split)
  all_goals first | rfl | exact ⟨rfl, rfl, rfl⟩ | assumption

theorem execLeaseExpire_inv (hc : ∀ p ∈ [Part.regs, .loom, .trd, .fine, .wvr, .fmn, .mbx, .bank, .bankMem, .skid, .tly, .pcie, .pwr, .tst, .out, .free], Closed R p) (h : R s) :
    OutInv R (execLeaseExpire s) := by
  unfold execLeaseExpire
  try dsimp only
  repeat' (first | exact sub_inv (by decide) hc | with_reducible apply outInv_next | with_reducible exact outInv_fault _ | with_reducible apply outInv_ite | (intro _; try dsimp only) | with_reducible assumption | with_reducible apply inv_ite | with_reducible apply State.when_inv | with_reducible apply State.leaseTick_inv | split)
  all_goals first | rfl | exact ⟨rfl, rfl, rfl⟩ | assumption

theorem execWireTimeout_inv (hc : ∀ p ∈ [Part.regs, .loom, .trd, .fine, .wvr, .fmn, .mbx, .bank, .bankMem, .skid, .tly, .pcie, .pwr, .tst, .out, .free], Closed R p) (h : R s) :
    OutInv R (execWireTimeout s) := by
  unfold execWireTimeout
  try dsimp only
  repeat' (first | exact sub_inv (by decide) hc | with_reducible apply outInv_next | with_reducible exact outInv_fault _ | with_reducible apply outInv_ite | (intro _; try dsimp only) | with_reducible assumption | with_reducible apply inv_ite | with_reducible apply State.when_inv | with_reducible apply State.tickCount_inv | with_reducible apply State.leaseTick_inv | split)
  all_goals first | rfl | exact ⟨rfl, rfl, rfl⟩ | assumption

theorem State.leaseWrite_inv (m : Mid) (off : Nat) (f : Foreman → Foreman) (hc : ∀ p ∈ [Part.regs, .fmn], Closed R p) (h : R s) :
    R (s.leaseWrite m off f) := by
  unfold State.leaseWrite
  try dsimp only
  repeat' (first | exact sub_inv (by decide) hc | (intro _; try dsimp only) | with_reducible assumption | with_reducible apply inv_ite | with_reducible apply State.modFm_inv | with_reducible apply State.errlog_inv | split)
  all_goals first | rfl | exact ⟨rfl, rfl, rfl⟩ | assumption

theorem State.claimWrite_inv (m : Mid) (v : Word) (hc : ∀ p ∈ [Part.regs, .fmn], Closed R p) (h : R s) :
    R (s.claimWrite m v) := by
  unfold State.claimWrite
  try dsimp only
  repeat' (first | exact sub_inv (by decide) hc | (intro _; try dsimp only) | with_reducible assumption | with_reducible apply inv_ite | with_reducible apply State.leaseWrite_inv | split)
  all_goals first | rfl | exact ⟨rfl, rfl, rfl⟩ | assumption

theorem State.renewWrite_inv (m : Mid) (v : Word) (hc : ∀ p ∈ [Part.regs, .fmn], Closed R p) (h : R s) :
    R (s.renewWrite m v) := by
  unfold State.renewWrite
  try dsimp only
  repeat' (first | exact sub_inv (by decide) hc | (intro _; try dsimp only) | with_reducible assumption | with_reducible apply inv_ite | with_reducible apply State.leaseWrite_inv | split)
  all_goals first | rfl | exact ⟨rfl, rfl, rfl⟩ | assumption

theorem State.relWrite_inv (m : Mid) (v : Word) (hc : ∀ p ∈ [Part.regs, .fmn], Closed R p) (h : R s) :
    R (s.relWrite m v) := by
  unfold State.relWrite
  try dsimp only
  repeat' (first | exact sub_inv (by decide) hc | (intro _; try dsimp only) | with_reducible assumption | with_reducible apply inv_ite | with_reducible apply State.leaseWrite_inv | split)
  all_goals first | rfl | exact ⟨rfl, rfl, rfl⟩ | assumption

theorem execFmnLeaseClaim_inv (m : Mid) (v : Word) (hc : ∀ p ∈ [Part.regs, .wvr, .fmn, .pcie, .tst, .out, .resp], Closed R p) (h : R s) :
    OutInv R (execFmnLeaseClaim m v s) := by
  unfold execFmnLeaseClaim
  try dsimp only
  repeat' (first | exact sub_inv (by decide) hc | with_reducible apply outInv_next | with_reducible exact outInv_fault _ | with_reducible apply outInv_ite | (intro _; try dsimp only) | with_reducible assumption | with_reducible apply inv_ite | with_reducible apply State.write4_inv | with_reducible apply State.claimWrite_inv | split)
  all_goals first | rfl | exact ⟨rfl, rfl, rfl⟩ | assumption

theorem execFmnLeaseRenew_inv (m : Mid) (v : Word) (hc : ∀ p ∈ [Part.regs, .wvr, .fmn, .pcie, .tst, .out, .resp], Closed R p) (h : R s) :
    OutInv R (execFmnLeaseRenew m v s) := by
  unfold execFmnLeaseRenew
  try dsimp only
  repeat' (first | exact sub_inv (by decide) hc | with_reducible apply outInv_next | with_reducible exact outInv_fault _ | with_reducible apply outInv_ite | (intro _; try dsimp only) | with_reducible assumption | with_reducible apply inv_ite | with_reducible apply State.write4_inv | with_reducible apply State.renewWrite_inv | split)
  all_goals first | rfl | exact ⟨rfl, rfl, rfl⟩ | assumption

theorem execFmnLeaseRel_inv (m : Mid) (v : Word) (hc : ∀ p ∈ [Part.regs, .wvr, .fmn, .pcie, .tst, .out, .resp], Closed R p) (h : R s) :
    OutInv R (execFmnLeaseRel m v s) := by
  unfold execFmnLeaseRel
  try dsimp only
  repeat' (first | exact sub_inv (by decide) hc | with_reducible apply outInv_next | with_reducible exact outInv_fault _ | with_reducible apply outInv_ite | (intro _; try dsimp only) | with_reducible assumption | with_reducible apply inv_ite | with_reducible apply State.write4_inv | with_reducible apply State.relWrite_inv | split)
  all_goals first | rfl | exact ⟨rfl, rfl, rfl⟩ | assumption

theorem execHeartbeatWireEdge_inv (b : Bool) (hc : ∀ p ∈ [Part.fmn], Closed R p) (h : R s) :
    OutInv R (execHeartbeatWireEdge b s) := by
  unfold execHeartbeatWireEdge
  try dsimp only
  repeat' (first | exact sub_inv (by decide) hc | with_reducible apply outInv_next | with_reducible exact outInv_fault _ | with_reducible apply outInv_ite | (intro _; try dsimp only) | with_reducible assumption | with_reducible apply inv_ite | with_reducible apply State.when_inv | with_reducible apply State.modFm_inv | with_reducible apply State.modFmn_inv | split)
  all_goals first | rfl | exact ⟨rfl, rfl, rfl⟩ | assumption

theorem execIslandFault_inv (b : Bool) (hc : ∀ p ∈ [Part.fmn], Closed R p) (h : R s) :
    OutInv R (execIslandFault b s) := by
  unfold execIslandFault
  try dsimp only
  repeat' (first | exact sub_inv (by decide) hc | with_reducible apply outInv_next | with_reducible exact outInv_fault _ | with_reducible apply outInv_ite | (intro _; try dsimp only) | with_reducible assumption | with_reducible apply inv_ite | with_reducible apply State.modFmn_inv | with_reducible apply State.when_inv | with_reducible apply State.modFm_inv | split)
  all_goals first | rfl | exact ⟨rfl, rfl, rfl⟩ | assumption

theorem State.releaseHeld_inv (b : Bool) (hc : ∀ p ∈ [Part.regs, .fmn, .pcie, .pwr, .tst, .out, .free], Closed R p) (h : R s) :
    R (s.releaseHeld b) := by
  unfold State.releaseHeld
  try dsimp only
  repeat' (first | exact sub_inv (by decide) hc | (intro _; try dsimp only) | with_reducible assumption | with_reducible apply inv_ite | with_reducible apply State.when_inv | with_reducible apply State.bootFm_inv | split)
  all_goals first | rfl | exact ⟨rfl, rfl, rfl⟩ | assumption

theorem execHeldRelease_inv (b : Bool) (hc : ∀ p ∈ [Part.regs, .fmn, .pcie, .pwr, .tst, .out, .free], Closed R p) (h : R s) :
    OutInv R (execHeldRelease b s) := by
  unfold execHeldRelease
  try dsimp only
  repeat' (first | exact sub_inv (by decide) hc | with_reducible apply outInv_next | with_reducible exact outInv_fault _ | with_reducible apply outInv_ite | (intro _; try dsimp only) | with_reducible assumption | with_reducible apply inv_ite | with_reducible apply State.releaseHeld_inv | split)
  all_goals first | rfl | exact ⟨rfl, rfl, rfl⟩ | assumption

theorem State.bootRom_inv (b : Bool) (img : BootImage) (hc : ∀ p ∈ [Part.regs, .fmn, .pcie, .tst, .out, .free], Closed R p) (h : R s) :
    R (s.bootRom b img) := by
  unfold State.bootRom
  try dsimp only
  repeat' (first | exact sub_inv (by decide) hc | (intro _; try dsimp only) | with_reducible assumption | with_reducible apply inv_ite | with_reducible apply State.modFm_inv | with_reducible apply State.setReg_inv | with_reducible apply State.setFm_inv | with_reducible apply State.setRf_inv | split)
  all_goals first | rfl | exact ⟨rfl, rfl, rfl⟩ | assumption

theorem State.startIslands_inv (hc : ∀ p ∈ [Part.regs, .fmn, .pcie, .pwr, .tst, .out, .free], Closed R p) (h : R s) :
    R (s.startIslands) := by
  unfold State.startIslands
  try dsimp only
  repeat' (first | exact sub_inv (by decide) hc | (intro _; try dsimp only) | with_reducible assumption | with_reducible apply inv_ite | with_reducible apply State.offFm_inv | with_reducible apply State.bootFm_inv | with_reducible apply State.when_inv | split)
  all_goals first | rfl | exact ⟨rfl, rfl, rfl⟩ | assumption

theorem State.startUpNow_inv (hc : ∀ p ∈ [Part.regs, .fmn, .pcie, .pwr, .tst, .out, .free], Closed R p) (h : R s) :
    R (s.startUpNow) := by
  unfold State.startUpNow
  try dsimp only
  repeat' (first | exact sub_inv (by decide) hc | (intro _; try dsimp only) | with_reducible assumption | with_reducible apply inv_ite | with_reducible apply State.when_inv | with_reducible apply State.bootFm_inv | with_reducible apply State.modFmn_inv | split)
  all_goals first | rfl | exact ⟨rfl, rfl, rfl⟩ | assumption

theorem execForemanBoot_inv (b : Bool) (img : BootImage) (hc : ∀ p ∈ [Part.regs, .fmn, .pcie, .pwr, .tst, .out, .free], Closed R p) (h : R s) :
    OutInv R (execForemanBoot b img s) := by
  unfold execForemanBoot
  try dsimp only
  repeat' (first | exact sub_inv (by decide) hc | with_reducible apply outInv_next | with_reducible exact outInv_fault _ | with_reducible apply outInv_ite | (intro _; try dsimp only) | with_reducible assumption | with_reducible apply inv_ite | with_reducible apply State.when_inv | with_reducible apply State.startUpNow_inv | with_reducible apply State.bootRom_inv | split)
  all_goals first | rfl | exact ⟨rfl, rfl, rfl⟩ | assumption

theorem State.bootTimeout_inv (b : Bool) (hc : ∀ p ∈ [Part.regs, .fmn, .pcie, .pwr, .tst, .out, .free], Closed R p) (h : R s) :
    R (s.bootTimeout b) := by
  unfold State.bootTimeout
  try dsimp only
  repeat' (first | exact sub_inv (by decide) hc | (intro _; try dsimp only) | with_reducible assumption | with_reducible apply inv_ite | with_reducible apply State.takeOther_inv | with_reducible apply State.irq_inv | with_reducible apply State.failFm_inv | with_reducible apply State.when_inv | split)
  all_goals first | rfl | exact ⟨rfl, rfl, rfl⟩ | assumption

theorem execBootTimeout_inv (b : Bool) (hc : ∀ p ∈ [Part.regs, .fmn, .pcie, .pwr, .tst, .out, .free], Closed R p) (h : R s) :
    OutInv R (execBootTimeout b s) := by
  unfold execBootTimeout
  try dsimp only
  repeat' (first | exact sub_inv (by decide) hc | with_reducible apply outInv_next | with_reducible exact outInv_fault _ | with_reducible apply outInv_ite | (intro _; try dsimp only) | with_reducible assumption | with_reducible apply inv_ite | with_reducible apply State.bootTimeout_inv | split)
  all_goals first | rfl | exact ⟨rfl, rfl, rfl⟩ | assumption

theorem State.formerOff_inv (b : Bool) (hc : ∀ p ∈ [Part.regs, .fmn, .pcie, .pwr, .tst, .out, .free], Closed R p) (h : R s) :
    R (s.formerOff b) := by
  unfold State.formerOff
  try dsimp only
  repeat' (first | exact sub_inv (by decide) hc | (intro _; try dsimp only) | with_reducible assumption | with_reducible apply inv_ite | with_reducible apply State.when_inv | with_reducible apply State.offFm_inv | split)
  all_goals first | rfl | exact ⟨rfl, rfl, rfl⟩ | assumption

theorem execFormerHolderPowerOff_inv (hc : ∀ p ∈ [Part.regs, .fmn, .pcie, .pwr, .tst, .out, .free], Closed R p) (h : R s) :
    OutInv R (execFormerHolderPowerOff s) := by
  unfold execFormerHolderPowerOff
  try dsimp only
  repeat' (first | exact sub_inv (by decide) hc | with_reducible apply outInv_next | with_reducible exact outInv_fault _ | with_reducible apply outInv_ite | (intro _; try dsimp only) | with_reducible assumption | with_reducible apply inv_ite | with_reducible apply State.formerOff_inv | split)
  all_goals first | rfl | exact ⟨rfl, rfl, rfl⟩ | assumption

theorem State.foremenLeft_inv (hc : ∀ p ∈ [Part.regs, .fmn, .pcie, .pwr, .tst, .out, .free], Closed R p) (h : R s) :
    R (s.foremenLeft) := by
  unfold State.foremenLeft
  try dsimp only
  repeat' (first | exact sub_inv (by decide) hc | (intro _; try dsimp only) | with_reducible assumption | with_reducible apply inv_ite | with_reducible apply seqAll_inv | with_reducible apply State.formerOff_inv | with_reducible apply State.releaseHeld_inv | with_reducible apply State.bootTimeout_inv | with_reducible apply State.startUpNow_inv | split)
  all_goals first | rfl | exact ⟨rfl, rfl, rfl⟩ | assumption

theorem State.startFm_inv {s0 : State} (b : Bool) (hc : ∀ p ∈ [Part.regs, .fmn, .pcie, .pwr, .tst, .out, .free], Closed R p) (h : R s0) :
    R (s0.startFm b) := by
  unfold State.startFm
  try dsimp only
  repeat' (first | exact sub_inv (by decide) hc | (intro _; try dsimp only) | with_reducible assumption | with_reducible apply inv_ite | with_reducible apply State.modFmn_inv | with_reducible apply State.bootFm_inv | split)
  all_goals first | rfl | exact ⟨rfl, rfl, rfl⟩ | assumption

theorem State.stopFm_inv (b : Bool) (hc : ∀ p ∈ [Part.regs, .fmn, .pcie, .pwr, .tst, .out, .free], Closed R p) (h : R s) :
    R (s.stopFm b) := by
  unfold State.stopFm
  try dsimp only
  repeat' (first | exact sub_inv (by decide) hc | (intro _; try dsimp only) | with_reducible assumption | with_reducible apply inv_ite | with_reducible apply State.offFm_inv | with_reducible apply State.when_inv | with_reducible apply State.modFmn_inv | split)
  all_goals first | rfl | exact ⟨rfl, rfl, rfl⟩ | assumption

theorem State.clrFail_inv (hc : ∀ p ∈ [Part.regs, .fmn, .pcie, .pwr, .tst, .out, .free], Closed R p) (h : R s) :
    R (s.clrFail) := by
  unfold State.clrFail
  try dsimp only
  repeat' (first | exact sub_inv (by decide) hc | (intro _; try dsimp only) | with_reducible assumption | with_reducible apply inv_ite | with_reducible apply State.when_inv | with_reducible apply State.modFm_inv | with_reducible apply State.setFm_inv | with_reducible apply State.takeStart_inv | split)
  all_goals first | rfl | exact ⟨rfl, rfl, rfl⟩ | assumption

theorem State.fmnCtrl_inv (v : Word) (hc : ∀ p ∈ [Part.regs, .fmn, .pcie, .pwr, .tst, .out, .free], Closed R p) (h : R s) :
    R (s.fmnCtrl v) := by
  unfold State.fmnCtrl
  try dsimp only
  repeat' (first | exact sub_inv (by decide) hc | (intro _; try dsimp only) | with_reducible assumption | with_reducible apply inv_ite | with_reducible apply State.when_inv | with_reducible apply State.startFm_inv | with_reducible apply State.stopFm_inv | with_reducible apply State.clrFail_inv | split)
  all_goals first | rfl | exact ⟨rfl, rfl, rfl⟩ | assumption

theorem execFmnStartA_inv (m : Mid) (hc : ∀ p ∈ [Part.regs, .wvr, .fmn, .pcie, .pwr, .tst, .out, .resp, .free], Closed R p) (h : R s) :
    OutInv R (execFmnStartA m s) := by
  unfold execFmnStartA
  try dsimp only
  repeat' (first | exact sub_inv (by decide) hc | with_reducible apply outInv_next | with_reducible exact outInv_fault _ | with_reducible apply outInv_ite | (intro _; try dsimp only) | with_reducible assumption | with_reducible apply inv_ite | with_reducible apply State.write4_inv | with_reducible apply State.fmnCtrl_inv | split)
  all_goals first | rfl | exact ⟨rfl, rfl, rfl⟩ | assumption

theorem execFmnStartB_inv (m : Mid) (hc : ∀ p ∈ [Part.regs, .wvr, .fmn, .pcie, .pwr, .tst, .out, .resp, .free], Closed R p) (h : R s) :
    OutInv R (execFmnStartB m s) := by
  unfold execFmnStartB
  try dsimp only
  repeat' (first | exact sub_inv (by decide) hc | with_reducible apply outInv_next | with_reducible exact outInv_fault _ | with_reducible apply outInv_ite | (intro _; try dsimp only) | with_reducible assumption | with_reducible apply inv_ite | with_reducible apply State.write4_inv | with_reducible apply State.fmnCtrl_inv | split)
  all_goals first | rfl | exact ⟨rfl, rfl, rfl⟩ | assumption

theorem execFmnStopA_inv (m : Mid) (hc : ∀ p ∈ [Part.regs, .wvr, .fmn, .pcie, .pwr, .tst, .out, .resp, .free], Closed R p) (h : R s) :
    OutInv R (execFmnStopA m s) := by
  unfold execFmnStopA
  try dsimp only
  repeat' (first | exact sub_inv (by decide) hc | with_reducible apply outInv_next | with_reducible exact outInv_fault _ | with_reducible apply outInv_ite | (intro _; try dsimp only) | with_reducible assumption | with_reducible apply inv_ite | with_reducible apply State.write4_inv | with_reducible apply State.fmnCtrl_inv | split)
  all_goals first | rfl | exact ⟨rfl, rfl, rfl⟩ | assumption

theorem execFmnStopB_inv (m : Mid) (hc : ∀ p ∈ [Part.regs, .wvr, .fmn, .pcie, .pwr, .tst, .out, .resp, .free], Closed R p) (h : R s) :
    OutInv R (execFmnStopB m s) := by
  unfold execFmnStopB
  try dsimp only
  repeat' (first | exact sub_inv (by decide) hc | with_reducible apply outInv_next | with_reducible exact outInv_fault _ | with_reducible apply outInv_ite | (intro _; try dsimp only) | with_reducible assumption | with_reducible apply inv_ite | with_reducible apply State.write4_inv | with_reducible apply State.fmnCtrl_inv | split)
  all_goals first | rfl | exact ⟨rfl, rfl, rfl⟩ | assumption

theorem execFmnClrFail_inv (m : Mid) (hc : ∀ p ∈ [Part.regs, .wvr, .fmn, .pcie, .pwr, .tst, .out, .resp, .free], Closed R p) (h : R s) :
    OutInv R (execFmnClrFail m s) := by
  unfold execFmnClrFail
  try dsimp only
  repeat' (first | exact sub_inv (by decide) hc | with_reducible apply outInv_next | with_reducible exact outInv_fault _ | with_reducible apply outInv_ite | (intro _; try dsimp only) | with_reducible assumption | with_reducible apply inv_ite | with_reducible apply State.write4_inv | with_reducible apply State.fmnCtrl_inv | split)
  all_goals first | rfl | exact ⟨rfl, rfl, rfl⟩ | assumption

theorem State.selfWrite_inv (m : Mid) (b : Bool) (v : Word) (hc : ∀ p ∈ [Part.regs, .fmn], Closed R p) (h : R s) :
    R (s.selfWrite m b v) := by
  unfold State.selfWrite
  try dsimp only
  repeat' (first | exact sub_inv (by decide) hc | (intro _; try dsimp only) | with_reducible assumption | with_reducible apply inv_ite | with_reducible apply State.when_inv | with_reducible apply State.setReg_inv | with_reducible apply State.modFm_inv | with_reducible apply State.errlog_inv | split)
  all_goals first | rfl | exact ⟨rfl, rfl, rfl⟩ | assumption

theorem execFmnSelfWrite_inv (m : Mid) (b : Bool) (v : Word) (hc : ∀ p ∈ [Part.regs, .wvr, .fmn, .pcie, .tst, .out, .resp], Closed R p) (h : R s) :
    OutInv R (execFmnSelfWrite m b v s) := by
  unfold execFmnSelfWrite
  try dsimp only
  repeat' (first | exact sub_inv (by decide) hc | with_reducible apply outInv_next | with_reducible exact outInv_fault _ | with_reducible apply outInv_ite | (intro _; try dsimp only) | with_reducible assumption | with_reducible apply inv_ite | with_reducible apply State.write4_inv | with_reducible apply State.selfWrite_inv | split)
  all_goals first | rfl | exact ⟨rfl, rfl, rfl⟩ | assumption

end Sys2Proof.Machine
end

