-- ==== Sys2Proof/Laws/InvMailbox.lean ====
section
/-! SUPPORT. What the operations of Machine/Mailbox.lean keep. -/
namespace Sys2Proof.Machine

variable {R : State → Prop} {s : State}

theorem State.putReply_inv (r : Nat) (bs : List Byte) (hc : ∀ p ∈ [Part.regs, .pcie, .out], Closed R p) (h : R s) :
    R (s.putReply r bs) := by
  unfold State.putReply
  try dsimp only
  repeat' (first | exact sub_inv (by decide) hc | (intro _; try dsimp only) | with_reducible assumption | with_reducible apply inv_ite | with_reducible apply State.irq_inv | with_reducible apply State.setReg_inv | with_reducible apply State.hostWrite_inv | split)
  all_goals first | rfl | exact ⟨rfl, rfl, rfl⟩ | assumption

theorem State.reply_inv (c : MbxCmd) (status : Nat) (data : List Byte) (retry : Nat) (hc : ∀ p ∈ [Part.regs, .fmn, .mbx, .pcie, .out], Closed R p) (h : R s) :
    R (s.reply c status data retry) := by
  unfold State.reply
  try dsimp only
  repeat' (first | exact sub_inv (by decide) hc | (intro _; try dsimp only) | with_reducible assumption | with_reducible apply inv_ite | with_reducible apply State.noteShed_inv | with_reducible apply State.modMbx_inv | with_reducible apply State.when_inv | with_reducible apply State.putReply_inv | split)
  all_goals first | rfl | exact ⟨rfl, rfl, rfl⟩ | assumption

theorem State.takeCmd_inv (r : Nat) (hc : ∀ p ∈ [Part.regs, .fmn, .mbx, .pcie, .out], Closed R p) (h : R s) :
    R (s.takeCmd r) := by
  unfold State.takeCmd
  try dsimp only
  repeat' (first | exact sub_inv (by decide) hc | (intro _; try dsimp only) | with_reducible assumption | with_reducible apply inv_ite | with_reducible apply State.modMbx_inv | with_reducible apply State.setReg_inv | with_reducible apply State.reply_inv | with_reducible apply State.noteShed_inv | split)
  all_goals first | rfl | exact ⟨rfl, rfl, rfl⟩ | assumption

theorem execMbxCommandTake_inv (r : Fin 4) (hc : ∀ p ∈ [Part.regs, .fmn, .mbx, .pcie, .out], Closed R p) (h : R s) :
    OutInv R (execMbxCommandTake r s) := by
  unfold execMbxCommandTake
  try dsimp only
  repeat' (first | exact sub_inv (by decide) hc | with_reducible apply outInv_next | with_reducible exact outInv_fault _ | with_reducible apply outInv_ite | (intro _; try dsimp only) | with_reducible assumption | with_reducible apply inv_ite | with_reducible apply State.when_inv | with_reducible apply State.takeCmd_inv | split)
  all_goals first | rfl | exact ⟨rfl, rfl, rfl⟩ | assumption

theorem State.cqTail_inv (r : Nat) (v : Word) (hc : ∀ p ∈ [Part.regs, .pcie, .out], Closed R p) (h : R s) :
    R (s.cqTail r v) := by
  unfold State.cqTail
  try dsimp only
  repeat' (first | exact sub_inv (by decide) hc | (intro _; try dsimp only) | with_reducible assumption | with_reducible apply inv_ite | with_reducible apply State.setReg_inv | with_reducible apply State.irq_inv | split)
  all_goals first | rfl | exact ⟨rfl, rfl, rfl⟩ | assumption

theorem execMbxCqTailWrite_inv (m : Mid) (r : Fin 4) (v : Word) (hc : ∀ p ∈ [Part.regs, .wvr, .pcie, .tst, .out, .resp], Closed R p) (h : R s) :
    OutInv R (execMbxCqTailWrite m r v s) := by
  unfold execMbxCqTailWrite
  try dsimp only
  repeat' (first | exact sub_inv (by decide) hc | with_reducible apply outInv_next | with_reducible exact outInv_fault _ | with_reducible apply outInv_ite | (intro _; try dsimp only) | with_reducible assumption | with_reducible apply inv_ite | with_reducible apply State.write4_inv | with_reducible apply State.cqTail_inv | split)
  all_goals first | rfl | exact ⟨rfl, rfl, rfl⟩ | assumption

theorem State.serve_inv (r : Nat) (op : Nat) (f : MbxCmd → State → State) (h : R s) (hf : ∀ y0 y1, R y1 → R (f y0 y1)) :
    R (s.serve r op f) := by
  unfold State.serve
  try dsimp only
  repeat' (first | exact sub_inv (by decide) hc | (intro _; try dsimp only) | with_reducible assumption | with_reducible apply inv_ite | with_reducible apply hf | split)
  all_goals first | rfl | exact ⟨rfl, rfl, rfl⟩ | assumption

theorem execPing_inv (r : Fin 4) (hc : ∀ p ∈ [Part.regs, .fmn, .mbx, .pcie, .out], Closed R p) (h : R s) :
    OutInv R (execPing r s) := by
  unfold execPing
  try dsimp only
  repeat' (first | exact sub_inv (by decide) hc | with_reducible apply outInv_next | with_reducible exact outInv_fault _ | with_reducible apply outInv_ite | (intro _; try dsimp only) | with_reducible assumption | with_reducible apply inv_ite | with_reducible apply State.serve_inv | with_reducible apply State.reply_inv | split)
  all_goals first | rfl | exact ⟨rfl, rfl, rfl⟩ | assumption

theorem execStatus_inv (r : Fin 4) (hc : ∀ p ∈ [Part.regs, .fmn, .mbx, .pcie, .out, .free], Closed R p) (h : R s) :
    OutInv R (execStatus r s) := by
  unfold execStatus
  try dsimp only
  repeat' (first | exact sub_inv (by decide) hc | with_reducible apply outInv_next | with_reducible exact outInv_fault _ | with_reducible apply outInv_ite | (intro _; try dsimp only) | with_reducible assumption | with_reducible apply inv_ite | with_reducible apply State.serve_inv | with_reducible apply State.freeVal_inv | with_reducible apply State.reply_inv | split)
  all_goals first | rfl | exact ⟨rfl, rfl, rfl⟩ | assumption

theorem State.postB_inv (fe : Bool) (ws : List Word) (hc : ∀ p ∈ [Part.regs, .trd, .fine, .pcie, .out], Closed R p) (h : R s) :
    R (s.postB fe ws) := by
  unfold State.postB
  try dsimp only
  repeat' (first | exact sub_inv (by decide) hc | (intro _; try dsimp only) | with_reducible assumption | with_reducible apply inv_ite | with_reducible apply seqAll_inv | with_reducible apply State.windowWrite_inv | split)
  all_goals first | rfl | exact ⟨rfl, rfl, rfl⟩ | assumption

theorem State.mbxPost_inv (fe : Bool) (c : MbxCmd) (hc : ∀ p ∈ [Part.regs, .trd, .fine, .mbx, .pcie, .out], Closed R p) (h : R s) :
    R (s.mbxPost fe c) := by
  unfold State.mbxPost
  try dsimp only
  repeat' (first | exact sub_inv (by decide) hc | (intro _; try dsimp only) | with_reducible assumption | with_reducible apply inv_ite | with_reducible apply State.modMbx_inv | with_reducible apply State.postB_inv | split)
  all_goals first | rfl | exact ⟨rfl, rfl, rfl⟩ | assumption

theorem execMbxTreadle_inv (r : Fin 4) (hc : ∀ p ∈ [Part.regs, .trd, .fine, .mbx, .pcie, .out], Closed R p) (h : R s) :
    OutInv R (execMbxTreadle r s) := by
  unfold execMbxTreadle
  try dsimp only
  repeat' (first | exact sub_inv (by decide) hc | with_reducible apply outInv_next | with_reducible exact outInv_fault _ | with_reducible apply outInv_ite | (intro _; try dsimp only) | with_reducible assumption | with_reducible apply inv_ite | with_reducible apply State.serve_inv | with_reducible apply State.mbxPost_inv | split)
  all_goals first | rfl | exact ⟨rfl, rfl, rfl⟩ | assumption

theorem execMbxFine_inv (r : Fin 4) (hc : ∀ p ∈ [Part.regs, .trd, .fine, .mbx, .pcie, .out], Closed R p) (h : R s) :
    OutInv R (execMbxFine r s) := by
  unfold execMbxFine
  try dsimp only
  repeat' (first | exact sub_inv (by decide) hc | with_reducible apply outInv_next | with_reducible exact outInv_fault _ | with_reducible apply outInv_ite | (intro _; try dsimp only) | with_reducible assumption | with_reducible apply inv_ite | with_reducible apply State.serve_inv | with_reducible apply State.mbxPost_inv | split)
  all_goals first | rfl | exact ⟨rfl, rfl, rfl⟩ | assumption

theorem State.takeTag_inv (hc : ∀ p ∈ [Part.mbx], Closed R p) (h : R s) :
    R (s.takeTag).2 := by
  unfold State.takeTag
  try dsimp only
  repeat' (first | exact sub_inv (by decide) hc | (intro _; try dsimp only) | with_reducible assumption | with_reducible apply inv_ite | with_reducible apply State.modMbx_inv | split)
  all_goals first | rfl | exact ⟨rfl, rfl, rfl⟩ | assumption

theorem State.postOwn_inv (fe : Bool) (op : Nat) (w1 : Nat) (flags : Nat) (hc : ∀ p ∈ [Part.regs, .trd, .fine, .mbx, .pcie, .out], Closed R p) (h : R s) :
    R (s.postOwn fe op w1 flags).2 := by
  unfold State.postOwn
  try dsimp only
  repeat' (first | exact sub_inv (by decide) hc | (intro _; try dsimp only) | with_reducible assumption | with_reducible apply inv_ite | with_reducible apply State.takeTag_inv | with_reducible apply State.postB_inv | split)
  all_goals first | rfl | exact ⟨rfl, rfl, rfl⟩ | assumption

theorem State.icMove_inv (fe : Bool) (i : Nat) (hc : ∀ p ∈ [Part.regs, .mbx], Closed R p) (h : R s) :
    R (s.icMove fe i) := by
  unfold State.icMove
  try dsimp only
  repeat' (first | exact sub_inv (by decide) hc | (intro _; try dsimp only) | with_reducible assumption | with_reducible apply inv_ite | with_reducible apply State.setReg_inv | with_reducible apply State.modMbx_inv | split)
  all_goals first | rfl | exact ⟨rfl, rfl, rfl⟩ | assumption

theorem State.readDone_inv (fe : Bool) (hc : ∀ p ∈ [Part.regs, .ten, .fmn, .mbx, .bank, .pcie, .tst, .out], Closed R p) (h : R s) :
    R (s.readDone fe) := by
  unfold State.readDone
  try dsimp only
  repeat' (first | exact sub_inv (by decide) hc | (intro _; try dsimp only) | with_reducible assumption | with_reducible apply inv_ite | with_reducible apply State.icMove_inv | with_reducible apply State.winTouch_inv | with_reducible apply State.reply_inv | with_reducible apply State.modTst_inv | with_reducible apply State.sayEnd_inv | with_reducible apply State.emit_inv | with_reducible apply State.modTen_inv | split)
  all_goals first | rfl | exact ⟨rfl, rfl, rfl⟩ | assumption

theorem State.replyDone_inv (fe : Bool) (hc : ∀ p ∈ [Part.regs, .ten, .fmn, .mbx, .bank, .pcie, .tst, .out], Closed R p) (h : R s) :
    R (s.replyDone fe) := by
  unfold State.replyDone
  try dsimp only
  repeat' (first | exact sub_inv (by decide) hc | (intro _; try dsimp only) | with_reducible assumption | with_reducible apply inv_ite | with_reducible apply State.reply_inv | with_reducible apply State.readDone_inv | split)
  all_goals first | rfl | exact ⟨rfl, rfl, rfl⟩ | assumption

theorem execMbxTreadleReply_inv (hc : ∀ p ∈ [Part.regs, .ten, .fmn, .mbx, .bank, .pcie, .tst, .out], Closed R p) (h : R s) :
    OutInv R (execMbxTreadleReply s) := by
  unfold execMbxTreadleReply
  try dsimp only
  repeat' (first | exact sub_inv (by decide) hc | with_reducible apply outInv_next | with_reducible exact outInv_fault _ | with_reducible apply outInv_ite | (intro _; try dsimp only) | with_reducible assumption | with_reducible apply inv_ite | with_reducible apply State.replyDone_inv | split)
  all_goals first | rfl | exact ⟨rfl, rfl, rfl⟩ | assumption

theorem execMbxFineReply_inv (hc : ∀ p ∈ [Part.regs, .ten, .fmn, .mbx, .bank, .pcie, .tst, .out], Closed R p) (h : R s) :
    OutInv R (execMbxFineReply s) := by
  unfold execMbxFineReply
  try dsimp only
  repeat' (first | exact sub_inv (by decide) hc | with_reducible apply outInv_next | with_reducible exact outInv_fault _ | with_reducible apply outInv_ite | (intro _; try dsimp only) | with_reducible assumption | with_reducible apply inv_ite | with_reducible apply State.replyDone_inv | split)
  all_goals first | rfl | exact ⟨rfl, rfl, rfl⟩ | assumption

theorem execCkptNow_inv (r : Fin 4) (hc : ∀ p ∈ [Part.regs, .fmn, .mbx, .bank, .bankMem, .pcie, .tst, .out, .free], Closed R p) (h : R s) :
    OutInv R (execCkptNow r s) := by
  unfold execCkptNow
  try dsimp only
  repeat' (first | exact sub_inv (by decide) hc | with_reducible apply outInv_next | with_reducible exact outInv_fault _ | with_reducible apply outInv_ite | (intro _; try dsimp only) | with_reducible assumption | with_reducible apply inv_ite | with_reducible apply State.serve_inv | with_reducible apply State.reply_inv | with_reducible apply State.ckptWrite_inv | split)
  all_goals first | rfl | exact ⟨rfl, rfl, rfl⟩ | assumption

theorem execCkptFlash_inv (r : Fin 4) (hc : ∀ p ∈ [Part.regs, .fmn, .mbx, .bank, .pcie, .out], Closed R p) (h : R s) :
    OutInv R (execCkptFlash r s) := by
  unfold execCkptFlash
  try dsimp only
  repeat' (first | exact sub_inv (by decide) hc | with_reducible apply outInv_next | with_reducible exact outInv_fault _ | with_reducible apply outInv_ite | (intro _; try dsimp only) | with_reducible assumption | with_reducible apply inv_ite | with_reducible apply State.serve_inv | with_reducible apply State.reply_inv | with_reducible apply State.ckptToFlash_inv | split)
  all_goals first | rfl | exact ⟨rfl, rfl, rfl⟩ | assumption

theorem State.flashPut_inv (slot off : Nat) (bs : List Byte) (hc : ∀ p ∈ [Part.mbx, .mbxMem, .out], Closed R p) (h : R s) : R (s.flashPut slot off bs) := by
  have h1 := State.emit_inv (.flash slot bs) (sub_inv (by decide) hc) h
  unfold State.flashPut State.modMbx
  split
  · exact (hc .mbxMem (by decide)).2.2.1 _ _ _ h1
  · exact (hc .mbxMem (by decide)).2.2.2 _ _ _ h1

theorem execFwWrite_inv (r : Fin 4) (data : List Byte) (flashOk : Bool) (hc : ∀ p ∈ [Part.regs, .fmn, .mbx, .mbxMem, .pcie, .out], Closed R p) (h : R s) :
    OutInv R (execFwWrite r data flashOk s) := by
  unfold execFwWrite
  try dsimp only
  repeat' (first | exact sub_inv (by decide) hc | with_reducible apply outInv_next | with_reducible exact outInv_fault _ | with_reducible apply outInv_ite | (intro _; try dsimp only) | with_reducible assumption | with_reducible apply inv_ite | with_reducible apply State.serve_inv | with_reducible apply State.reply_inv | with_reducible apply State.flashPut_inv | split)
  all_goals first | rfl | exact ⟨rfl, rfl, rfl⟩ | assumption

theorem execFwActivate_inv (r : Fin 4) (sigOk : Bool) (hc : ∀ p ∈ [Part.regs, .fmn, .mbx, .pcie, .out], Closed R p) (h : R s) :
    OutInv R (execFwActivate r sigOk s) := by
  unfold execFwActivate
  try dsimp only
  repeat' (first | exact sub_inv (by decide) hc | with_reducible apply outInv_next | with_reducible exact outInv_fault _ | with_reducible apply outInv_ite | (intro _; try dsimp only) | with_reducible assumption | with_reducible apply inv_ite | with_reducible apply State.serve_inv | with_reducible apply State.reply_inv | with_reducible apply State.modMbx_inv | split)
  all_goals first | rfl | exact ⟨rfl, rfl, rfl⟩ | assumption

theorem execCheckpointInterval_inv (hc : ∀ p ∈ [Part.regs, .fmn, .bank, .bankMem, .pcie, .tst, .out, .free], Closed R p) (h : R s) :
    OutInv R (execCheckpointInterval s) := by
  unfold execCheckpointInterval
  try dsimp only
  repeat' (first | exact sub_inv (by decide) hc | with_reducible apply outInv_next | with_reducible exact outInv_fault _ | with_reducible apply outInv_ite | (intro _; try dsimp only) | with_reducible assumption | with_reducible apply inv_ite | with_reducible apply State.when_inv | with_reducible apply State.ckptWrite_inv | with_reducible apply State.modFmn_inv | split)
  all_goals first | rfl | exact ⟨rfl, rfl, rfl⟩ | assumption

theorem execCheckpointFlashInterval_inv (hc : ∀ p ∈ [Part.regs, .fmn, .bank, .pcie, .out], Closed R p) (h : R s) :
    OutInv R (execCheckpointFlashInterval s) := by
  unfold execCheckpointFlashInterval
  try dsimp only
  repeat' (first | exact sub_inv (by decide) hc | with_reducible apply outInv_next | with_reducible exact outInv_fault _ | with_reducible apply outInv_ite | (intro _; try dsimp only) | with_reducible assumption | with_reducible apply inv_ite | with_reducible apply State.when_inv | with_reducible apply State.ckptToFlash_inv | split)
  all_goals first | rfl | exact ⟨rfl, rfl, rfl⟩ | assumption

theorem State.handoverFail_inv (h1 : Handover) (hc : ∀ p ∈ [Part.regs, .fmn, .mbx, .pcie, .out], Closed R p) (h : R s) :
    R (s.handoverFail h1) := by
  unfold State.handoverFail
  try dsimp only
  repeat' (first | exact sub_inv (by decide) hc | (intro _; try dsimp only) | with_reducible assumption | with_reducible apply inv_ite | with_reducible apply State.modMbx_inv | with_reducible apply State.modFmn_inv | with_reducible apply State.reply_inv | split)
  all_goals first | rfl | exact ⟨rfl, rfl, rfl⟩ | assumption

theorem State.handoverStart_inv (cmd : Option (Nat × Nat)) (hc : ∀ p ∈ [Part.regs, .trd, .fine, .fmn, .mbx, .pcie, .out], Closed R p) (h : R s) :
    R (s.handoverStart cmd) := by
  unfold State.handoverStart
  try dsimp only
  repeat' (first | exact sub_inv (by decide) hc | (intro _; try dsimp only) | with_reducible assumption | with_reducible apply inv_ite | with_reducible apply State.modMbx_inv | with_reducible apply State.modFmn_inv | with_reducible apply State.postOwn_inv | split)
  all_goals first | rfl | exact ⟨rfl, rfl, rfl⟩ | assumption

theorem State.standbyRestore_inv (hc : ∀ p ∈ [Part.regs, .fmn], Closed R p) (h : R s) :
    R (s.standbyRestore) := by
  unfold State.standbyRestore
  try dsimp only
  repeat' (first | exact sub_inv (by decide) hc | (intro _; try dsimp only) | with_reducible assumption | with_reducible apply inv_ite | with_reducible apply State.when_inv | with_reducible apply State.setRf_inv | with_reducible apply State.modFm_inv | split)
  all_goals first | rfl | exact ⟨rfl, rfl, rfl⟩ | assumption

theorem State.handoverGo_inv (h1 : Handover) (hc : ∀ p ∈ [Part.regs, .fmn, .mbx, .bank, .bankMem, .pcie, .tst, .out, .free], Closed R p) (h : R s) :
    R (s.handoverGo h1) := by
  unfold State.handoverGo
  try dsimp only
  repeat' (first | exact sub_inv (by decide) hc | (intro _; try dsimp only) | with_reducible assumption | with_reducible apply inv_ite | with_reducible apply State.handoverFail_inv | with_reducible apply State.modFmn_inv | with_reducible apply State.setRf_inv | with_reducible apply State.ckptWrite_inv | with_reducible apply State.modFm_inv | split)
  all_goals first | rfl | exact ⟨rfl, rfl, rfl⟩ | assumption

theorem State.handoverLeft_inv (hc : ∀ p ∈ [Part.regs, .fmn, .mbx, .bank, .bankMem, .pcie, .tst, .out, .free], Closed R p) (h : R s) :
    R (s.handoverLeft) := by
  unfold State.handoverLeft
  try dsimp only
  repeat' (first | exact sub_inv (by decide) hc | (intro _; try dsimp only) | with_reducible assumption | with_reducible apply inv_ite | with_reducible apply State.standbyRestore_inv | with_reducible apply State.handoverGo_inv | split)
  all_goals first | rfl | exact ⟨rfl, rfl, rfl⟩ | assumption

theorem State.handover_inv (cmd : Option (Nat × Nat)) (hc : ∀ p ∈ [Part.regs, .trd, .fine, .fmn, .mbx, .bank, .bankMem, .pcie, .tst, .out, .free], Closed R p) (h : R s) :
    R (s.handover cmd) := by
  unfold State.handover
  try dsimp only
  repeat' (first | exact sub_inv (by decide) hc | (intro _; try dsimp only) | with_reducible assumption | with_reducible apply inv_ite | with_reducible apply State.handoverGo_inv | with_reducible apply State.handoverStart_inv | with_reducible apply State.handoverFail_inv | split)
  all_goals first | rfl | exact ⟨rfl, rfl, rfl⟩ | assumption

theorem execHandover_inv (r : Fin 4) (hc : ∀ p ∈ [Part.regs, .trd, .fine, .fmn, .mbx, .bank, .bankMem, .pcie, .tst, .out, .free], Closed R p) (h : R s) :
    OutInv R (execHandover r s) := by
  unfold execHandover
  try dsimp only
  repeat' (first | exact sub_inv (by decide) hc | with_reducible apply outInv_next | with_reducible exact outInv_fault _ | with_reducible apply outInv_ite | (intro _; try dsimp only) | with_reducible assumption | with_reducible apply inv_ite | with_reducible apply State.serve_inv | with_reducible apply State.reply_inv | with_reducible apply State.handover_inv | split)
  all_goals first | rfl | exact ⟨rfl, rfl, rfl⟩ | assumption

theorem execForemanRevertWtr_inv (hc : ∀ p ∈ [Part.regs, .trd, .fine, .fmn, .mbx, .bank, .bankMem, .pcie, .tst, .out, .free], Closed R p) (h : R s) :
    OutInv R (execForemanRevertWtr s) := by
  unfold execForemanRevertWtr
  try dsimp only
  repeat' (first | exact sub_inv (by decide) hc | with_reducible apply outInv_next | with_reducible exact outInv_fault _ | with_reducible apply outInv_ite | (intro _; try dsimp only) | with_reducible assumption | with_reducible apply inv_ite | with_reducible apply State.when_inv | with_reducible apply State.handover_inv | split)
  all_goals first | rfl | exact ⟨rfl, rfl, rfl⟩ | assumption

theorem execMgmtSend_inv (r : Fin 4) (hc : ∀ p ∈ [Part.regs, .bmy, .fmn, .mbx, .tly, .pcie, .out], Closed R p) (h : R s) :
    OutInv R (execMgmtSend r s) := by
  unfold execMgmtSend
  try dsimp only
  repeat' (first | exact sub_inv (by decide) hc | with_reducible apply outInv_next | with_reducible exact outInv_fault _ | with_reducible apply outInv_ite | (intro _; try dsimp only) | with_reducible assumption | with_reducible apply inv_ite | with_reducible apply State.serve_inv | with_reducible apply State.reply_inv | with_reducible apply State.count_inv | with_reducible apply State.modNbr_inv | with_reducible apply State.emit_inv | split)
  all_goals first | rfl | exact ⟨rfl, rfl, rfl⟩ | assumption

theorem execMgmtCfg_inv (r : Fin 4) (hc : ∀ p ∈ [Part.regs, .fmn, .mbx, .pcie, .out], Closed R p) (h : R s) :
    OutInv R (execMgmtCfg r s) := by
  unfold execMgmtCfg
  try dsimp only
  repeat' (first | exact sub_inv (by decide) hc | with_reducible apply outInv_next | with_reducible exact outInv_fault _ | with_reducible apply outInv_ite | (intro _; try dsimp only) | with_reducible assumption | with_reducible apply inv_ite | with_reducible apply State.serve_inv | with_reducible apply State.reply_inv | with_reducible apply State.modMbx_inv | split)
  all_goals first | rfl | exact ⟨rfl, rfl, rfl⟩ | assumption

theorem State.drainEvents_inv (n : Nat) (hc : ∀ p ∈ [Part.regs, .mbx, .pcie, .out], Closed R p) (h : R s) : R (State.drainEvents n s) := by
  induction n generalizing s with
  | zero => exact h
  | succ n ih =>
    unfold State.drainEvents
    split
    · exact h
    · split
      · exact h
      · exact ih (State.modMbx_inv _ (sub_inv (by decide) hc) (State.putReply_inv _ _ (sub_inv (by decide) hc) h) ⟨rfl, rfl, rfl⟩)

theorem State.mbxDrain_inv (hc : ∀ p ∈ [Part.regs, .mbx, .pcie, .out], Closed R p) (h : R s) :
    R (s.mbxDrain) := by
  unfold State.mbxDrain
  try dsimp only
  repeat' (first | exact sub_inv (by decide) hc | (intro _; try dsimp only) | with_reducible assumption | with_reducible apply inv_ite | with_reducible apply State.drainEvents_inv | split)
  all_goals first | rfl | exact ⟨rfl, rfl, rfl⟩ | assumption

theorem State.event_inv (e : List Byte) (hc : ∀ p ∈ [Part.regs, .mbx, .pcie, .out], Closed R p) (h : R s) :
    R (s.event e) := by
  unfold State.event
  try dsimp only
  repeat' (first | exact sub_inv (by decide) hc | (intro _; try dsimp only) | with_reducible assumption | with_reducible apply inv_ite | with_reducible apply State.mbxDrain_inv | with_reducible apply State.putReply_inv | with_reducible apply State.modMbx_inv | with_reducible apply State.irq_inv | with_reducible apply State.incReg_inv | with_reducible apply State.when_inv | split)
  all_goals first | rfl | exact ⟨rfl, rfl, rfl⟩ | assumption

theorem State.mgmtReceive_inv (p1 : Nat) (msg : List Byte) (hc : ∀ p ∈ [Part.regs, .mbx, .tly, .pcie, .out], Closed R p) (h : R s) :
    R (s.mgmtReceive p1 msg) := by
  unfold State.mgmtReceive
  try dsimp only
  repeat' (first | exact sub_inv (by decide) hc | (intro _; try dsimp only) | with_reducible assumption | with_reducible apply inv_ite | with_reducible apply State.count_inv | with_reducible apply seqAll_inv | with_reducible apply State.event_inv | split)
  all_goals first | rfl | exact ⟨rfl, rfl, rfl⟩ | assumption

theorem State.mgmtCells_inv (l : Nat) (c : CellRun) (hc : ∀ p ∈ [Part.regs, .lanes, .mbx, .tly, .pcie, .out], Closed R p) (h : R s) :
    R (s.mgmtCells l c) := by
  unfold State.mgmtCells
  try dsimp only
  repeat' (first | exact sub_inv (by decide) hc | (intro _; try dsimp only) | with_reducible assumption | with_reducible apply inv_ite | with_reducible apply State.cellsIn_inv | with_reducible apply seqAll_inv | with_reducible apply State.mgmtReceive_inv | with_reducible apply State.count_inv | with_reducible apply State.modLane_inv | split)
  all_goals first | rfl | exact ⟨rfl, rfl, rfl⟩ | assumption

theorem execMgmtMessageRx_inv (l : Fin 512) (c : CellRun) (hc : ∀ p ∈ [Part.regs, .lanes, .mbx, .tly, .pcie, .out], Closed R p) (h : R s) :
    OutInv R (execMgmtMessageRx l c s) := by
  unfold execMgmtMessageRx
  try dsimp only
  repeat' (first | exact sub_inv (by decide) hc | with_reducible apply outInv_next | with_reducible exact outInv_fault _ | with_reducible apply outInv_ite | (intro _; try dsimp only) | with_reducible assumption | with_reducible apply inv_ite | with_reducible apply State.mgmtCells_inv | split)
  all_goals first | rfl | exact ⟨rfl, rfl, rfl⟩ | assumption

theorem State.replayReplies_inv (hc : ∀ p ∈ [Part.regs, .fmn, .mbx, .pcie, .out], Closed R p) (h : R s) :
    R (s.replayReplies) := by
  unfold State.replayReplies
  try dsimp only
  repeat' (first | exact sub_inv (by decide) hc | (intro _; try dsimp only) | with_reducible assumption | with_reducible apply inv_ite | with_reducible apply seqAll_inv | with_reducible apply State.reply_inv | split)
  all_goals first | rfl | exact ⟨rfl, rfl, rfl⟩ | assumption

theorem State.replay_inv (hc : ∀ p ∈ [Part.regs, .trd, .fine, .ten, .fmn, .mbx, .pcie, .out], Closed R p) (h : R s) :
    R (s.replay) := by
  unfold State.replay
  try dsimp only
  repeat' (first | exact sub_inv (by decide) hc | (intro _; try dsimp only) | with_reducible assumption | with_reducible apply inv_ite | with_reducible apply State.postOwn_inv | with_reducible apply State.modMbx_inv | with_reducible apply State.modTen_inv | with_reducible apply State.icMove_inv | with_reducible apply State.noteShed_inv | with_reducible apply State.replayReplies_inv | split)
  all_goals first | rfl | exact ⟨rfl, rfl, rfl⟩ | assumption

theorem execMailboxReplay_inv (hc : ∀ p ∈ [Part.regs, .trd, .fine, .ten, .fmn, .mbx, .pcie, .out], Closed R p) (h : R s) :
    OutInv R (execMailboxReplay s) := by
  unfold execMailboxReplay
  try dsimp only
  repeat' (first | exact sub_inv (by decide) hc | with_reducible apply outInv_next | with_reducible exact outInv_fault _ | with_reducible apply outInv_ite | (intro _; try dsimp only) | with_reducible assumption | with_reducible apply inv_ite | with_reducible apply State.when_inv | with_reducible apply State.replay_inv | split)
  all_goals first | rfl | exact ⟨rfl, rfl, rfl⟩ | assumption

end Sys2Proof.Machine
end

