-- ==== Sys2Proof/Laws/InvPower.lean ====
section
/-! SUPPORT. What the operations of Machine/Power.lean keep. -/
namespace Sys2Proof.Machine

variable {R : State → Prop} {s : State}

theorem State.offRegs_inv (p : Nat → Bool) (hc : ∀ p ∈ [Part.regs, .lanes, .integ, .skrx, .sktx, .ports, .loom, .trd, .fine, .prot, .blz, .beat, .bmy, .wvr, .ten, .fmn, .mbx, .mbxMem, .bank, .bankMem, .skid, .tly, .pcie, .pwr, .jtag, .tst], Closed R p) (h : R s) : R { s.offState with regs := smKeep p s.regs } := by
  have r := inv_dropRegs p (sub_inv (by decide) hc) h
  have r := inv_mbxKeep (s := { s with regs := smKeep p s.regs })
    { slot0 := s.mbx.slot0, slot1 := s.mbx.slot1, bootSlot := s.mbx.bootSlot, nextSlot := s.mbx.nextSlot } (fun _ => false)
    (by simp [smKeep]) rfl rfl (sub_inv (by decide) hc) r
  have r := inv_bankKeep (s := { s with
      regs := smKeep p s.regs, mbx := { slot0 := s.mbx.slot0, slot1 := s.mbx.slot1, bootSlot := s.mbx.bootSlot, nextSlot := s.mbx.nextSlot } })
    { fused := s.bank.fused } (fun _ => false) (by simp [smKeep]) (sub_inv (by decide) hc) r
  have r := hc .lanes (by decide) _ [] r
  have r := hc .integ (by decide) _ [] r
  have r := hc .skrx (by decide) _ [] r
  have r := hc .sktx (by decide) _ [] r
  have r := hc .ports (by decide) _ [] r
  have r := hc .loom (by decide) _ {} r
  have r := hc .trd (by decide) _ {} r
  have r := hc .fine (by decide) _ {} r
  have r := hc .prot (by decide) _ {} r
  have r := hc .blz (by decide) _ [] r
  have r := hc .beat (by decide) _ {} r
  have r := hc .bmy (by decide) _ {} r
  have r := hc .wvr (by decide) _ [] r
  have r := hc .ten (by decide) _ {} r
  have r := hc .fmn (by decide) _ { ckFlash := s.fmn.ckFlash } r
  have r := hc .skid (by decide) _ {} r
  have r := hc .tly (by decide) _ {} r
  have r := hc .pcie (by decide) _ {} r
  have r := hc .jtag (by decide) _ {} r
  have r := hc .tst (by decide) _ {} r
  exact hc .pwr (by decide) _ { inRange := false, cdpOn := false, serial := s.pwr.serial, straps := s.pwr.straps, domOn := 0, domSeen := 0 } r

theorem State.offState_inv (hc : ∀ p ∈ [Part.regs, .lanes, .integ, .skrx, .sktx, .ports, .loom, .trd, .fine, .prot, .blz, .beat, .bmy, .wvr, .ten, .fmn, .mbx, .mbxMem, .bank, .bankMem, .skid, .tly, .pcie, .pwr, .jtag, .tst], Closed R p) (h : R s) : R s.offState := by
  have e : smKeep (fun _ => false) s.regs = [] := by simp [smKeep]
  have r := State.offRegs_inv (fun _ => false) hc h
  rw [e] at r
  exact r

theorem execPowerOff_inv (hc : ∀ p ∈ [Part.regs, .lanes, .integ, .skrx, .sktx, .ports, .loom, .trd, .fine, .prot, .blz, .beat, .bmy, .wvr, .ten, .fmn, .mbx, .mbxMem, .bank, .bankMem, .skid, .tly, .pcie, .pwr, .jtag, .tst], Closed R p) (h : R s) :
    OutInv R (execPowerOff s) := by
  unfold execPowerOff
  try dsimp only
  repeat' (first | exact sub_inv (by decide) hc | with_reducible apply outInv_next | with_reducible exact outInv_fault _ | with_reducible apply outInv_ite | (intro _; try dsimp only) | with_reducible assumption | with_reducible apply inv_ite | with_reducible apply State.offState_inv | split)
  all_goals first | rfl | exact ⟨rfl, rfl, rfl⟩ | assumption

theorem State.trip_inv (hc : ∀ p ∈ [Part.regs, .lanes, .integ, .skrx, .sktx, .ports, .loom, .trd, .fine, .prot, .blz, .beat, .bmy, .wvr, .ten, .fmn, .mbx, .mbxMem, .bank, .bankMem, .skid, .tly, .pcie, .pwr, .jtag, .tst], Closed R p) (h : R s) : R s.trip := by
  have r := State.offRegs_inv aonReg (sub_inv (by decide) hc) h
  have r := hc .beat (by decide) _ s.beat r
  have r := hc .fmn (by decide) _ { s.fmn with a := {}, b := {}, take := none, ho := none, ck0 := {}, ck1 := {} } r
  exact hc .pwr (by decide) _ { s.pwr with tripped := true, cdpOn := false, domOn := 0, domSeen := 0, onAt := [], req := none, due := false, inProg := 0 } r

theorem State.tripDue_inv (hc : ∀ p ∈ [Part.regs, .lanes, .integ, .skrx, .sktx, .ports, .loom, .trd, .fine, .prot, .blz, .beat, .bmy, .wvr, .ten, .fmn, .mbx, .mbxMem, .bank, .bankMem, .skid, .tly, .pcie, .pwr, .jtag, .tst], Closed R p) (h : R s) :
    R (s.tripDue) := by
  unfold State.tripDue
  try dsimp only
  repeat' (first | exact sub_inv (by decide) hc | (intro _; try dsimp only) | with_reducible assumption | with_reducible apply inv_ite | with_reducible apply State.when_inv | with_reducible apply State.trip_inv | split)
  all_goals first | rfl | exact ⟨rfl, rfl, rfl⟩ | assumption

theorem execThermalTrip_inv (hc : ∀ p ∈ [Part.regs, .lanes, .integ, .skrx, .sktx, .ports, .loom, .trd, .fine, .prot, .blz, .beat, .bmy, .wvr, .ten, .fmn, .mbx, .mbxMem, .bank, .bankMem, .skid, .tly, .pcie, .pwr, .jtag, .tst], Closed R p) (h : R s) :
    OutInv R (execThermalTrip s) := by
  unfold execThermalTrip
  try dsimp only
  repeat' (first | exact sub_inv (by decide) hc | with_reducible apply outInv_next | with_reducible exact outInv_fault _ | with_reducible apply outInv_ite | (intro _; try dsimp only) | with_reducible assumption | with_reducible apply inv_ite | with_reducible apply State.tripDue_inv | split)
  all_goals first | rfl | exact ⟨rfl, rfl, rfl⟩ | assumption

theorem State.domWrite_inv (m : Mid) (v : Word) (hc : ∀ p ∈ [Part.regs, .pwr], Closed R p) (h : R s) :
    R (s.domWrite m v) := by
  unfold State.domWrite
  try dsimp only
  repeat' (first | exact sub_inv (by decide) hc | (intro _; try dsimp only) | with_reducible assumption | with_reducible apply inv_ite | with_reducible apply State.modPwr_inv | with_reducible apply State.setReg_inv | split)
  all_goals first | rfl | exact ⟨rfl, rfl, rfl⟩ | assumption

theorem execPwrDomCtrlWrite_inv (m : Mid) (v : Word) (hc : ∀ p ∈ [Part.regs, .wvr, .pcie, .pwr, .tst, .out, .resp], Closed R p) (h : R s) :
    OutInv R (execPwrDomCtrlWrite m v s) := by
  unfold execPwrDomCtrlWrite
  try dsimp only
  repeat' (first | exact sub_inv (by decide) hc | with_reducible apply outInv_next | with_reducible exact outInv_fault _ | with_reducible apply outInv_ite | (intro _; try dsimp only) | with_reducible assumption | with_reducible apply inv_ite | with_reducible apply State.write4_inv | with_reducible apply State.domWrite_inv | split)
  all_goals first | rfl | exact ⟨rfl, rfl, rfl⟩ | assumption

theorem State.domTake_inv (hc : ∀ p ∈ [Part.pwr], Closed R p) (h : R s) :
    R (s.domTake) := by
  unfold State.domTake
  try dsimp only
  repeat' (first | exact sub_inv (by decide) hc | (intro _; try dsimp only) | with_reducible assumption | with_reducible apply inv_ite | with_reducible apply State.modPwr_inv | split)
  all_goals first | rfl | exact ⟨rfl, rfl, rfl⟩ | assumption

theorem State.domRefuse_inv (i : Nat) (hc : ∀ p ∈ [Part.regs, .pcie, .pwr, .out], Closed R p) (h : R s) :
    R (s.domRefuse i) := by
  unfold State.domRefuse
  try dsimp only
  repeat' (first | exact sub_inv (by decide) hc | (intro _; try dsimp only) | with_reducible assumption | with_reducible apply inv_ite | with_reducible apply State.irq_inv | with_reducible apply State.errlog_inv | with_reducible apply State.modPwr_inv | with_reducible apply State.setRf_inv | split)
  all_goals first | rfl | exact ⟨rfl, rfl, rfl⟩ | assumption

theorem State.startAt_inv (i : Nat) (hc : ∀ p ∈ [Part.pwr], Closed R p) (h : R s) :
    R (s.startAt i) := by
  unfold State.startAt
  try dsimp only
  repeat' (first | exact sub_inv (by decide) hc | (intro _; try dsimp only) | with_reducible assumption | with_reducible apply inv_ite | with_reducible apply State.modPwr_inv | split)
  all_goals first | rfl | exact ⟨rfl, rfl, rfl⟩ | assumption

theorem State.started_inv (i : Nat) (hc : ∀ p ∈ [Part.pwr], Closed R p) (h : R s) :
    R (s.started i) := by
  unfold State.started
  try dsimp only
  repeat' (first | exact sub_inv (by decide) hc | (intro _; try dsimp only) | with_reducible assumption | with_reducible apply inv_ite | with_reducible apply State.modPwr_inv | split)
  all_goals first | rfl | exact ⟨rfl, rfl, rfl⟩ | assumption

theorem State.clearTile_inv (p : Nat) (hc : ∀ p ∈ [Part.lanes, .integ, .skrx, .sktx], Closed R p) (h : R s) : R (s.clearTile p) :=
  hc .sktx (by decide) _ (s.clearTile p).sktx (hc .skrx (by decide) _ (s.clearTile p).skrx
    (hc .integ (by decide) _ (s.clearTile p).integ (hc .lanes (by decide) s (s.clearTile p).lanes h)))

theorem State.sleepTile_inv (p1 : Nat) (hc : ∀ p ∈ [Part.regs, .lanes, .integ, .skrx, .sktx, .ports, .pcie, .pwr, .tst, .out, .resp, .free], Closed R p) (h : R s) :
    R (s.sleepTile p1) := by
  unfold State.sleepTile
  try dsimp only
  repeat' (first | exact sub_inv (by decide) hc | (intro _; try dsimp only) | with_reducible assumption | with_reducible apply inv_ite | with_reducible apply State.endWaits_inv | with_reducible apply State.noteDom_inv | with_reducible apply State.started_inv | with_reducible apply State.modPort_inv | with_reducible apply State.clearTile_inv | with_reducible apply State.when_inv | with_reducible apply State.trace_inv | split)
  all_goals first | rfl | exact ⟨rfl, rfl, rfl⟩ | assumption

theorem execPortTileSleep_inv (p1 : Fin 8) (hc : ∀ p ∈ [Part.regs, .lanes, .integ, .skrx, .sktx, .ports, .pcie, .pwr, .tst, .out, .resp, .free], Closed R p) (h : R s) :
    OutInv R (execPortTileSleep p1 s) := by
  unfold execPortTileSleep
  try dsimp only
  repeat' (first | exact sub_inv (by decide) hc | with_reducible apply outInv_next | with_reducible exact outInv_fault _ | with_reducible apply outInv_ite | (intro _; try dsimp only) | with_reducible assumption | with_reducible apply inv_ite | with_reducible apply State.when_inv | with_reducible apply State.sleepTile_inv | split)
  all_goals first | rfl | exact ⟨rfl, rfl, rfl⟩ | assumption

theorem State.wakeTile_inv (p : Nat) (hc : ∀ p ∈ [Part.regs, .ports, .pwr], Closed R p) (h : R s) : R (s.wakeTile p) :=
  State.startAt_inv _ (sub_inv (by decide) hc) (State.modPort_inv _ _ (sub_inv (by decide) hc) (inv_dropRegs _ (sub_inv (by decide) hc) h))

theorem execPortTileWake_inv (p1 : Fin 8) (hc : ∀ p ∈ [Part.regs, .ports, .pwr], Closed R p) (h : R s) :
    OutInv R (execPortTileWake p1 s) := by
  unfold execPortTileWake
  try dsimp only
  repeat' (first | exact sub_inv (by decide) hc | with_reducible apply outInv_next | with_reducible exact outInv_fault _ | with_reducible apply outInv_ite | (intro _; try dsimp only) | with_reducible assumption | with_reducible apply inv_ite | with_reducible apply State.when_inv | with_reducible apply State.wakeTile_inv | split)
  all_goals first | rfl | exact ⟨rfl, rfl, rfl⟩ | assumption

theorem State.deadLane_inv (l : Nat) (hc : ∀ p ∈ [Part.integ, .ten], Closed R p) (h : R s) :
    R (s.deadLane l) := by
  unfold State.deadLane
  try dsimp only
  repeat' (first | exact sub_inv (by decide) hc | (intro _; try dsimp only) | with_reducible assumption | with_reducible apply inv_ite | with_reducible apply seqAll_inv | with_reducible apply State.modInteg_inv | with_reducible apply State.noteTen_inv | split)
  all_goals first | rfl | exact ⟨rfl, rfl, rfl⟩ | assumption

theorem State.tileUp_inv (p1 : Nat) (hc : ∀ p ∈ [Part.regs, .lanes, .integ, .ports, .ten, .pcie, .pwr, .tst, .out, .free], Closed R p) (h : R s) :
    R (s.tileUp p1) := by
  unfold State.tileUp
  try dsimp only
  repeat' (first | exact sub_inv (by decide) hc | (intro _; try dsimp only) | with_reducible assumption | with_reducible apply inv_ite | with_reducible apply State.started_inv | with_reducible apply State.modPort_inv | with_reducible apply seqAll_inv | with_reducible apply State.deadLane_inv | with_reducible apply State.modLane_inv | with_reducible apply State.noteDom_inv | with_reducible apply State.trace_inv | split)
  all_goals first | rfl | exact ⟨rfl, rfl, rfl⟩ | assumption

theorem execPortTileUp_inv (p1 : Fin 8) (hc : ∀ p ∈ [Part.regs, .lanes, .integ, .ports, .ten, .pcie, .pwr, .tst, .out, .free], Closed R p) (h : R s) :
    OutInv R (execPortTileUp p1 s) := by
  unfold execPortTileUp
  try dsimp only
  repeat' (first | exact sub_inv (by decide) hc | with_reducible apply outInv_next | with_reducible exact outInv_fault _ | with_reducible apply outInv_ite | (intro _; try dsimp only) | with_reducible assumption | with_reducible apply inv_ite | with_reducible apply State.when_inv | with_reducible apply State.tileUp_inv | split)
  all_goals first | rfl | exact ⟨rfl, rfl, rfl⟩ | assumption

theorem State.clusterOff_inv (c : Nat) (hc : ∀ p ∈ [Part.regs, .blz, .wvr, .tly, .pcie, .pwr, .tst, .out, .free], Closed R p) (h : R s) :
    R (s.clusterOff c) := by
  unfold State.clusterOff
  try dsimp only
  repeat' (first | exact sub_inv (by decide) hc | (intro _; try dsimp only) | with_reducible assumption | with_reducible apply inv_ite | with_reducible apply State.when_inv | with_reducible apply State.noteDom_inv | with_reducible apply State.started_inv | with_reducible apply seqAll_inv | with_reducible apply State.resetUnit_inv | with_reducible apply State.modWeaver_inv | with_reducible apply State.setWvr_inv | with_reducible apply State.domRefuse_inv | split)
  all_goals first | rfl | exact ⟨rfl, rfl, rfl⟩ | assumption

theorem execClusterPowerOff_inv (c : Fin 8) (hc : ∀ p ∈ [Part.regs, .blz, .wvr, .tly, .pcie, .pwr, .tst, .out, .free], Closed R p) (h : R s) :
    OutInv R (execClusterPowerOff c s) := by
  unfold execClusterPowerOff
  try dsimp only
  repeat' (first | exact sub_inv (by decide) hc | with_reducible apply outInv_next | with_reducible exact outInv_fault _ | with_reducible apply outInv_ite | (intro _; try dsimp only) | with_reducible assumption | with_reducible apply inv_ite | with_reducible apply State.when_inv | with_reducible apply State.clusterOff_inv | split)
  all_goals first | rfl | exact ⟨rfl, rfl, rfl⟩ | assumption

theorem State.clusterPower_inv (c : Nat) (hc : ∀ p ∈ [Part.regs, .wvr, .pcie, .pwr, .out], Closed R p) (h : R s) :
    R (s.clusterPower c) := by
  unfold State.clusterPower
  try dsimp only
  repeat' (first | exact sub_inv (by decide) hc | (intro _; try dsimp only) | with_reducible assumption | with_reducible apply inv_ite | with_reducible apply State.noteDom_inv | with_reducible apply State.startAt_inv | with_reducible apply seqAll_inv | with_reducible apply State.modWeaver_inv | split)
  all_goals first | rfl | exact ⟨rfl, rfl, rfl⟩ | assumption

theorem execClusterPowerOn_inv (c : Fin 8) (hc : ∀ p ∈ [Part.regs, .wvr, .pcie, .pwr, .out], Closed R p) (h : R s) :
    OutInv R (execClusterPowerOn c s) := by
  unfold execClusterPowerOn
  try dsimp only
  repeat' (first | exact sub_inv (by decide) hc | with_reducible apply outInv_next | with_reducible exact outInv_fault _ | with_reducible apply outInv_ite | (intro _; try dsimp only) | with_reducible assumption | with_reducible apply inv_ite | with_reducible apply State.when_inv | with_reducible apply State.clusterPower_inv | split)
  all_goals first | rfl | exact ⟨rfl, rfl, rfl⟩ | assumption

theorem State.clusterIdle_inv (c : Nat) (hc : ∀ p ∈ [Part.regs, .wvr, .fmn, .bank, .tly, .pcie, .pwr, .tst, .out, .free], Closed R p) (h : R s) :
    R (s.clusterIdle c) := by
  unfold State.clusterIdle
  try dsimp only
  repeat' (first | exact sub_inv (by decide) hc | (intro _; try dsimp only) | with_reducible assumption | with_reducible apply inv_ite | with_reducible apply State.rolesGoOn_inv | with_reducible apply State.started_inv | with_reducible apply seqAll_inv | with_reducible apply State.setWvr_inv | with_reducible apply State.modWeaver_inv | split)
  all_goals first | rfl | exact ⟨rfl, rfl, rfl⟩ | assumption

theorem execClusterIdle_inv (c : Fin 8) (hc : ∀ p ∈ [Part.regs, .wvr, .fmn, .bank, .tly, .pcie, .pwr, .tst, .out, .free], Closed R p) (h : R s) :
    OutInv R (execClusterIdle c s) := by
  unfold execClusterIdle
  try dsimp only
  repeat' (first | exact sub_inv (by decide) hc | with_reducible apply outInv_next | with_reducible exact outInv_fault _ | with_reducible apply outInv_ite | (intro _; try dsimp only) | with_reducible assumption | with_reducible apply inv_ite | with_reducible apply State.when_inv | with_reducible apply State.clusterIdle_inv | split)
  all_goals first | rfl | exact ⟨rfl, rfl, rfl⟩ | assumption

theorem State.hbmPower_inv (h1 : Nat) (hc : ∀ p ∈ [Part.regs, .prot, .pcie, .pwr, .out], Closed R p) (h : R s) :
    R (s.hbmPower h1) := by
  unfold State.hbmPower
  try dsimp only
  repeat' (first | exact sub_inv (by decide) hc | (intro _; try dsimp only) | with_reducible assumption | with_reducible apply inv_ite | with_reducible apply State.noteDom_inv | with_reducible apply State.startAt_inv | with_reducible apply State.modProt_inv | split)
  all_goals first | rfl | exact ⟨rfl, rfl, rfl⟩ | assumption

theorem execHbmPowerOn_inv (h1 : Fin 2) (hc : ∀ p ∈ [Part.regs, .prot, .pcie, .pwr, .out], Closed R p) (h : R s) :
    OutInv R (execHbmPowerOn h1 s) := by
  unfold execHbmPowerOn
  try dsimp only
  repeat' (first | exact sub_inv (by decide) hc | with_reducible apply outInv_next | with_reducible exact outInv_fault _ | with_reducible apply outInv_ite | (intro _; try dsimp only) | with_reducible assumption | with_reducible apply inv_ite | with_reducible apply State.when_inv | with_reducible apply State.hbmPower_inv | split)
  all_goals first | rfl | exact ⟨rfl, rfl, rfl⟩ | assumption

theorem State.hbmOff_inv (h1 : Nat) (hc : ∀ p ∈ [Part.regs, .prot, .pcie, .pwr, .out], Closed R p) (h : R s) :
    R (s.hbmOff h1) := by
  unfold State.hbmOff
  try dsimp only
  repeat' (first | exact sub_inv (by decide) hc | (intro _; try dsimp only) | with_reducible assumption | with_reducible apply inv_ite | with_reducible apply State.domRefuse_inv | with_reducible apply State.noteDom_inv | with_reducible apply State.started_inv | with_reducible apply State.modProt_inv | split)
  all_goals first | rfl | exact ⟨rfl, rfl, rfl⟩ | assumption

theorem execHbmPowerOff_inv (h1 : Fin 2) (hc : ∀ p ∈ [Part.regs, .prot, .pcie, .pwr, .out], Closed R p) (h : R s) :
    OutInv R (execHbmPowerOff h1 s) := by
  unfold execHbmPowerOff
  try dsimp only
  repeat' (first | exact sub_inv (by decide) hc | with_reducible apply outInv_next | with_reducible exact outInv_fault _ | with_reducible apply outInv_ite | (intro _; try dsimp only) | with_reducible assumption | with_reducible apply inv_ite | with_reducible apply State.when_inv | with_reducible apply State.hbmOff_inv | split)
  all_goals first | rfl | exact ⟨rfl, rfl, rfl⟩ | assumption

theorem State.hbmIsReady_inv (h1 : Nat) (hc : ∀ p ∈ [Part.prot, .pwr], Closed R p) (h : R s) :
    R (s.hbmIsReady h1) := by
  unfold State.hbmIsReady
  try dsimp only
  repeat' (first | exact sub_inv (by decide) hc | (intro _; try dsimp only) | with_reducible assumption | with_reducible apply inv_ite | with_reducible apply State.started_inv | with_reducible apply State.modProt_inv | split)
  all_goals first | rfl | exact ⟨rfl, rfl, rfl⟩ | assumption

theorem execHbmReady_inv (h1 : Fin 2) (hc : ∀ p ∈ [Part.prot, .pwr], Closed R p) (h : R s) :
    OutInv R (execHbmReady h1 s) := by
  unfold execHbmReady
  try dsimp only
  repeat' (first | exact sub_inv (by decide) hc | with_reducible apply outInv_next | with_reducible exact outInv_fault _ | with_reducible apply outInv_ite | (intro _; try dsimp only) | with_reducible assumption | with_reducible apply inv_ite | with_reducible apply State.when_inv | with_reducible apply State.hbmIsReady_inv | split)
  all_goals first | rfl | exact ⟨rfl, rfl, rfl⟩ | assumption

theorem State.domLeft_inv (hc : ∀ p ∈ [Part.regs, .lanes, .integ, .skrx, .sktx, .ports, .prot, .blz, .wvr, .ten, .fmn, .bank, .tly, .pcie, .pwr, .tst, .out, .resp, .free], Closed R p) (h : R s) :
    R (s.domLeft) := by
  unfold State.domLeft
  try dsimp only
  repeat' (first | exact sub_inv (by decide) hc | (intro _; try dsimp only) | with_reducible assumption | with_reducible apply inv_ite | with_reducible apply seqAll_inv | with_reducible apply State.when_inv | with_reducible apply State.sleepTile_inv | with_reducible apply State.clusterOff_inv | with_reducible apply State.hbmOff_inv | with_reducible apply State.wakeTile_inv | with_reducible apply State.clusterPower_inv | with_reducible apply State.hbmPower_inv | with_reducible apply State.tileUp_inv | with_reducible apply State.clusterIdle_inv | with_reducible apply State.hbmIsReady_inv | split)
  all_goals first | rfl | exact ⟨rfl, rfl, rfl⟩ | assumption

theorem State.pwrMeasure_inv (o : BoltObs) (hc : ∀ p ∈ [Part.regs, .pcie, .pwr, .out], Closed R p) (h : R s) :
    R (s.pwrMeasure o) := by
  unfold State.pwrMeasure
  try dsimp only
  repeat' (first | exact sub_inv (by decide) hc | (intro _; try dsimp only) | with_reducible assumption | with_reducible apply inv_ite | with_reducible apply State.setReg_inv | with_reducible apply State.modPwr_inv | with_reducible apply State.when_inv | with_reducible apply State.irq_inv | with_reducible apply seqAll_inv | split)
  all_goals first | rfl | exact ⟨rfl, rfl, rfl⟩ | assumption

end Sys2Proof.Machine
end

