-- ==== Sys2Proof/Laws/InvProt.lean ====
section
/-! SUPPORT. What the operations of Machine/Prot.lean keep. -/
namespace Sys2Proof.Machine

variable {R : State → Prop} {s : State}

theorem State.evqPush_inv (g : Nat) (hc : ∀ p ∈ [Part.regs, .prot, .ten, .pcie, .tst, .out, .free], Closed R p) (h : R s) :
    R (s.evqPush g) := by
  unfold State.evqPush
  try dsimp only
  repeat' (first | exact sub_inv (by decide) hc | (intro _; try dsimp only) | with_reducible assumption | with_reducible apply inv_ite | with_reducible apply State.noteTen_inv | with_reducible apply State.trace_inv | with_reducible apply State.irq_inv | with_reducible apply State.modProt_inv | split)
  all_goals first | rfl | exact ⟨rfl, rfl, rfl⟩ | assumption

theorem State.noted_inv (g : Nat) (f : State → State) (hc : ∀ p ∈ [Part.regs, .prot, .ten, .pcie, .tst, .out, .free], Closed R p) (h : R s) (hf : ∀ y0, R y0 → R (f y0)) :
    R (s.noted g f) := by
  unfold State.noted
  try dsimp only
  repeat' (first | exact sub_inv (by decide) hc | (intro _; try dsimp only) | with_reducible assumption | with_reducible apply inv_ite | with_reducible apply hf | with_reducible apply State.evqPush_inv | split)
  all_goals first | rfl | exact ⟨rfl, rfl, rfl⟩ | assumption

theorem State.updLegs_inv (g : Nat) (hc : ∀ p ∈ [Part.prot], Closed R p) (h : R s) :
    R (s.updLegs g) := by
  unfold State.updLegs
  try dsimp only
  repeat' (first | exact sub_inv (by decide) hc | (intro _; try dsimp only) | with_reducible assumption | with_reducible apply inv_ite | with_reducible apply State.modGrp_inv | split)
  all_goals first | rfl | exact ⟨rfl, rfl, rfl⟩ | assumption

theorem State.evalReq_inv (g : Nat) (hc : ∀ p ∈ [Part.regs, .prot, .tly], Closed R p) (h : R s) :
    R (s.evalReq g) := by
  unfold State.evalReq
  try dsimp only
  repeat' (first | exact sub_inv (by decide) hc | (intro _; try dsimp only) | with_reducible assumption | with_reducible apply inv_ite | with_reducible apply State.modGrp_inv | with_reducible apply State.count_inv | with_reducible apply State.incReg_inv | with_reducible apply State.setReg_inv | split)
  all_goals first | rfl | exact ⟨rfl, rfl, rfl⟩ | assumption

theorem State.toSingle_inv (g : Nat) (hc : ∀ p ∈ [Part.regs, .prot, .pcie, .out], Closed R p) (h : R s) :
    R (s.toSingle g) := by
  unfold State.toSingle
  try dsimp only
  repeat' (first | exact sub_inv (by decide) hc | (intro _; try dsimp only) | with_reducible assumption | with_reducible apply inv_ite | with_reducible apply State.irq_inv | with_reducible apply State.modGrp_inv | split)
  all_goals first | rfl | exact ⟨rfl, rfl, rfl⟩ | assumption

theorem State.toUnprot_inv (g : Nat) (hc : ∀ p ∈ [Part.regs, .prot, .pcie, .out], Closed R p) (h : R s) :
    R (s.toUnprot g) := by
  unfold State.toUnprot
  try dsimp only
  repeat' (first | exact sub_inv (by decide) hc | (intro _; try dsimp only) | with_reducible assumption | with_reducible apply inv_ite | with_reducible apply State.irq_inv | with_reducible apply State.modGrp_inv | split)
  all_goals first | rfl | exact ⟨rfl, rfl, rfl⟩ | assumption

theorem State.retimeNow_inv (g : Nat) (hc : ∀ p ∈ [Part.regs, .prot, .pcie, .out], Closed R p) (h : R s) :
    R (s.retimeNow g) := by
  unfold State.retimeNow
  try dsimp only
  repeat' (first | exact sub_inv (by decide) hc | (intro _; try dsimp only) | with_reducible assumption | with_reducible apply inv_ite | with_reducible apply State.toSingle_inv | with_reducible apply State.modGrp_inv | split)
  all_goals first | rfl | exact ⟨rfl, rfl, rfl⟩ | assumption

theorem State.putSfa_inv (g : Nat) (hc : ∀ p ∈ [Part.prot], Closed R p) (h : R s) :
    R (s.putSfa g) := by
  unfold State.putSfa
  try dsimp only
  repeat' (first | exact sub_inv (by decide) hc | (intro _; try dsimp only) | with_reducible assumption | with_reducible apply inv_ite | with_reducible apply State.modGrp_inv | split)
  all_goals first | rfl | exact ⟨rfl, rfl, rfl⟩ | assumption

theorem State.retimeOnto_inv (g : Nat) (protect : Bool) (hc : ∀ p ∈ [Part.regs, .prot, .pcie, .out], Closed R p) (h : R s) :
    R (s.retimeOnto g protect) := by
  unfold State.retimeOnto
  try dsimp only
  repeat' (first | exact sub_inv (by decide) hc | (intro _; try dsimp only) | with_reducible assumption | with_reducible apply inv_ite | with_reducible apply State.irq_inv | with_reducible apply State.modGrp_inv | split)
  all_goals first | rfl | exact ⟨rfl, rfl, rfl⟩ | assumption

theorem State.alignStep_inv (g : Nat) (hc : ∀ p ∈ [Part.regs, .prot, .pcie, .out], Closed R p) (h : R s) :
    R (s.alignStep g) := by
  unfold State.alignStep
  try dsimp only
  repeat' (first | exact sub_inv (by decide) hc | (intro _; try dsimp only) | with_reducible assumption | with_reducible apply inv_ite | with_reducible apply State.modGrp_inv | with_reducible apply State.toSingle_inv | with_reducible apply State.retimeOnto_inv | with_reducible apply State.toUnprot_inv | with_reducible apply State.putSfa_inv | with_reducible apply State.retimeNow_inv | split)
  all_goals first | rfl | exact ⟨rfl, rfl, rfl⟩ | assumption

theorem State.singleFollow_inv (g : Nat) (hc : ∀ p ∈ [Part.prot], Closed R p) (h : R s) :
    R (s.singleFollow g) := by
  unfold State.singleFollow
  try dsimp only
  repeat' (first | exact sub_inv (by decide) hc | (intro _; try dsimp only) | with_reducible assumption | with_reducible apply inv_ite | with_reducible apply State.modGrp_inv | split)
  all_goals first | rfl | exact ⟨rfl, rfl, rfl⟩ | assumption

theorem State.dropAcq_inv (g : Nat) (hc : ∀ p ∈ [Part.prot], Closed R p) (h : R s) :
    R (s.dropAcq g) := by
  unfold State.dropAcq
  try dsimp only
  repeat' (first | exact sub_inv (by decide) hc | (intro _; try dsimp only) | with_reducible assumption | with_reducible apply inv_ite | with_reducible apply State.modGrp_inv | split)
  all_goals first | rfl | exact ⟨rfl, rfl, rfl⟩ | assumption

theorem State.measureAll_inv (hc : ∀ p ∈ [Part.prot], Closed R p) (h : R s) :
    R (s.measureAll) := by
  unfold State.measureAll
  try dsimp only
  repeat' (first | exact sub_inv (by decide) hc | (intro _; try dsimp only) | with_reducible assumption | with_reducible apply inv_ite | with_reducible apply seqAll_inv | with_reducible apply State.modGrp_inv | split)
  all_goals first | rfl | exact ⟨rfl, rfl, rfl⟩ | assumption

theorem State.grpEnd_inv (g : Nat) (hc : ∀ p ∈ [Part.regs, .prot, .tly], Closed R p) (h : R s) :
    R (s.grpEnd g) := by
  unfold State.grpEnd
  try dsimp only
  repeat' (first | exact sub_inv (by decide) hc | (intro _; try dsimp only) | with_reducible assumption | with_reducible apply inv_ite | with_reducible apply State.count_inv | with_reducible apply State.incReg_inv | with_reducible apply State.modProt_inv | with_reducible apply State.modGrp_inv | split)
  all_goals first | rfl | exact ⟨rfl, rfl, rfl⟩ | assumption

theorem State.takeCfg_inv {s0 : State} (g : Nat) (hc : ∀ p ∈ [Part.regs, .prot, .tly, .pcie, .out], Closed R p) (h : R s0) :
    R (s0.takeCfg g) := by
  unfold State.takeCfg
  try dsimp only
  repeat' (first | exact sub_inv (by decide) hc | (intro _; try dsimp only) | with_reducible assumption | with_reducible apply inv_ite | with_reducible apply State.grpEnd_inv | with_reducible apply State.modGrp_inv | with_reducible apply State.irq_inv | with_reducible apply State.setReg_inv | with_reducible apply State.setRf_inv | split)
  all_goals first | rfl | exact ⟨rfl, rfl, rfl⟩ | assumption

theorem State.takeCmds_inv (g : Nat) (l : List (Nat × Nat)) (top : Nat) (hc : ∀ p ∈ [Part.prot], Closed R p) (h : R s) : R (s.takeCmds g l top) := by
  induction l generalizing s top with
  | nil => exact h
  | cons c t ih => exact ih _ (State.modGrp_inv _ _ (sub_inv (by decide) hc) h)

theorem State.takeGrpCmd_inv (g : Nat) (hc : ∀ p ∈ [Part.prot], Closed R p) (h : R s) :
    R (s.takeGrpCmd g) := by
  unfold State.takeGrpCmd
  try dsimp only
  repeat' (first | exact sub_inv (by decide) hc | (intro _; try dsimp only) | with_reducible assumption | with_reducible apply inv_ite | with_reducible apply State.modGrp_inv | with_reducible apply State.takeCmds_inv | split)
  all_goals first | rfl | exact ⟨rfl, rfl, rfl⟩ | assumption

theorem State.protStep_inv (g : Nat) (hc : ∀ p ∈ [Part.regs, .prot, .ten, .tly, .pcie, .tst, .out, .free], Closed R p) (h : R s) :
    R (s.protStep g) := by
  unfold State.protStep
  try dsimp only
  repeat' (first | exact sub_inv (by decide) hc | (intro _; try dsimp only) | with_reducible assumption | with_reducible apply inv_ite | with_reducible apply State.noted_inv | with_reducible apply State.takeGrpCmd_inv | with_reducible apply State.takeCfg_inv | with_reducible apply State.modGrp_inv | with_reducible apply State.updLegs_inv | with_reducible apply State.alignStep_inv | with_reducible apply State.dropAcq_inv | with_reducible apply State.singleFollow_inv | with_reducible apply State.evalReq_inv | split)
  all_goals first | rfl | exact ⟨rfl, rfl, rfl⟩ | assumption

theorem State.protEvaluate_inv (hc : ∀ p ∈ [Part.regs, .prot, .ten, .tly, .pcie, .tst, .out, .free], Closed R p) (h : R s) :
    R (s.protEvaluate) := by
  unfold State.protEvaluate
  try dsimp only
  repeat' (first | exact sub_inv (by decide) hc | (intro _; try dsimp only) | with_reducible assumption | with_reducible apply inv_ite | with_reducible apply seqAll_inv | with_reducible apply State.protStep_inv | split)
  all_goals first | rfl | exact ⟨rfl, rfl, rfl⟩ | assumption

theorem State.protCounts_inv (hc : ∀ p ∈ [Part.tly], Closed R p) (h : R s) :
    R (s.protCounts) := by
  unfold State.protCounts
  try dsimp only
  repeat' (first | exact sub_inv (by decide) hc | (intro _; try dsimp only) | with_reducible assumption | with_reducible apply inv_ite | with_reducible apply seqAll_inv | with_reducible apply State.count_inv | split)
  all_goals first | rfl | exact ⟨rfl, rfl, rfl⟩ | assumption

theorem State.farWrite_inv (g : Nat) (v : Word) (hc : ∀ p ∈ [Part.regs, .prot, .ten, .pcie, .tst, .out, .free], Closed R p) (h : R s) :
    R (s.farWrite g v) := by
  unfold State.farWrite
  try dsimp only
  repeat' (first | exact sub_inv (by decide) hc | (intro _; try dsimp only) | with_reducible assumption | with_reducible apply inv_ite | with_reducible apply State.noted_inv | with_reducible apply State.when_inv | with_reducible apply State.setReg_inv | with_reducible apply State.irq_inv | split)
  all_goals first | rfl | exact ⟨rfl, rfl, rfl⟩ | assumption

theorem State.setFop_inv (g : Nat) (i : Nat) (hc : ∀ p ∈ [Part.regs, .prot, .ten, .pcie, .tst, .out, .free], Closed R p) (h : R s) :
    R (s.setFop g i) := by
  unfold State.setFop
  try dsimp only
  repeat' (first | exact sub_inv (by decide) hc | (intro _; try dsimp only) | with_reducible assumption | with_reducible apply inv_ite | with_reducible apply State.farWrite_inv | split)
  all_goals first | rfl | exact ⟨rfl, rfl, rfl⟩ | assumption

theorem State.apsCopy_inv (g : Nat) (b : List Byte) (hc : ∀ p ∈ [Part.regs, .prot, .pcie, .out], Closed R p) (h : R s) :
    R (s.apsCopy g b) := by
  unfold State.apsCopy
  try dsimp only
  repeat' (first | exact sub_inv (by decide) hc | (intro _; try dsimp only) | with_reducible assumption | with_reducible apply inv_ite | with_reducible apply State.setReg_inv | with_reducible apply State.irq_inv | with_reducible apply State.modProt_inv | split)
  all_goals first | rfl | exact ⟨rfl, rfl, rfl⟩ | assumption

theorem State.apsCount_inv (g : Nat) (hc : ∀ p ∈ [Part.regs, .prot], Closed R p) (h : R s) :
    R (s.apsCount g) := by
  unfold State.apsCount
  try dsimp only
  repeat' (first | exact sub_inv (by decide) hc | (intro _; try dsimp only) | with_reducible assumption | with_reducible apply inv_ite | with_reducible apply State.modGrp_inv | with_reducible apply State.setReg_inv | split)
  all_goals first | rfl | exact ⟨rfl, rfl, rfl⟩ | assumption

theorem State.apsCopyAll_inv (obs : List LaneObs) (hc : ∀ p ∈ [Part.regs, .prot, .ten, .pcie, .tst, .out, .free], Closed R p) (h : R s) :
    R (s.apsCopyAll obs) := by
  unfold State.apsCopyAll
  try dsimp only
  repeat' (first | exact sub_inv (by decide) hc | (intro _; try dsimp only) | with_reducible assumption | with_reducible apply inv_ite | with_reducible apply seqAll_inv | with_reducible apply State.noted_inv | with_reducible apply State.apsCount_inv | with_reducible apply State.apsCopy_inv | split)
  all_goals first | rfl | exact ⟨rfl, rfl, rfl⟩ | assumption

theorem State.apsAccept_inv {s0 : State} (g : Nat) (hc : ∀ p ∈ [Part.regs, .prot, .ten, .tly, .pcie, .tst, .out, .free], Closed R p) (h : R s0) :
    R (s0.apsAccept g) := by
  unfold State.apsAccept
  try dsimp only
  repeat' (first | exact sub_inv (by decide) hc | (intro _; try dsimp only) | with_reducible assumption | with_reducible apply inv_ite | with_reducible apply State.when_inv | with_reducible apply State.modProt_inv | with_reducible apply State.count_inv | with_reducible apply State.noted_inv | with_reducible apply State.setReg_inv | with_reducible apply State.setFop_inv | split)
  all_goals first | rfl | exact ⟨rfl, rfl, rfl⟩ | assumption

theorem State.agentBoundary_inv (hc : ∀ p ∈ [Part.regs, .prot, .ten, .pcie, .tst, .out, .free], Closed R p) (h : R s) :
    R (s.agentBoundary) := by
  unfold State.agentBoundary
  try dsimp only
  repeat' (first | exact sub_inv (by decide) hc | (intro _; try dsimp only) | with_reducible assumption | with_reducible apply inv_ite | with_reducible apply State.modProt_inv | with_reducible apply seqAll_inv | with_reducible apply State.evqPush_inv | split)
  all_goals first | rfl | exact ⟨rfl, rfl, rfl⟩ | assumption

theorem State.gcfgWrite_inv (m : Mid) (g : Nat) (v : Word) (hc : ∀ p ∈ [Part.regs, .prot], Closed R p) (h : R s) :
    R (s.gcfgWrite m g v) := by
  unfold State.gcfgWrite
  try dsimp only
  repeat' (first | exact sub_inv (by decide) hc | (intro _; try dsimp only) | with_reducible assumption | with_reducible apply inv_ite | with_reducible apply State.setReg_inv | with_reducible apply State.when_inv | with_reducible apply State.errlog_inv | with_reducible apply State.modGrp_inv | split)
  all_goals first | rfl | exact ⟨rfl, rfl, rfl⟩ | assumption

theorem execProtGcfgWrite_inv (m : Mid) (g : Fin 8192) (v : Word) (hc : ∀ p ∈ [Part.regs, .prot, .wvr, .pcie, .tst, .out, .resp], Closed R p) (h : R s) :
    OutInv R (execProtGcfgWrite m g v s) := by
  unfold execProtGcfgWrite
  try dsimp only
  repeat' (first | exact sub_inv (by decide) hc | with_reducible apply outInv_next | with_reducible exact outInv_fault _ | with_reducible apply outInv_ite | (intro _; try dsimp only) | with_reducible assumption | with_reducible apply inv_ite | with_reducible apply State.write4_inv | with_reducible apply State.gcfgWrite_inv | split)
  all_goals first | rfl | exact ⟨rfl, rfl, rfl⟩ | assumption

theorem State.gcmdWrite_inv (g : Nat) (v : Word) (hc : ∀ p ∈ [Part.prot], Closed R p) (h : R s) :
    R (s.gcmdWrite g v) := by
  unfold State.gcmdWrite
  try dsimp only
  repeat' (first | exact sub_inv (by decide) hc | (intro _; try dsimp only) | with_reducible assumption | with_reducible apply inv_ite | with_reducible apply State.modGrp_inv | split)
  all_goals first | rfl | exact ⟨rfl, rfl, rfl⟩ | assumption

theorem State.gcmd_inv (m : Mid) (g : Nat) (code : Nat) (mem : Nat) (hc : ∀ p ∈ [Part.regs, .prot, .wvr, .pcie, .tst, .out, .resp], Closed R p) (h : R s) :
    R (s.gcmd m g code mem) := by
  unfold State.gcmd
  try dsimp only
  repeat' (first | exact sub_inv (by decide) hc | (intro _; try dsimp only) | with_reducible assumption | with_reducible apply inv_ite | with_reducible apply State.write4_inv | with_reducible apply State.gcmdWrite_inv | split)
  all_goals first | rfl | exact ⟨rfl, rfl, rfl⟩ | assumption

theorem execProtClear_inv (m : Mid) (g : Fin 8192) (hc : ∀ p ∈ [Part.regs, .prot, .wvr, .pcie, .tst, .out, .resp], Closed R p) (h : R s) :
    OutInv R (execProtClear m g s) := by
  unfold execProtClear
  try dsimp only
  repeat' (first | exact sub_inv (by decide) hc | with_reducible apply outInv_next | with_reducible exact outInv_fault _ | with_reducible apply outInv_ite | (intro _; try dsimp only) | with_reducible assumption | with_reducible apply inv_ite | with_reducible apply State.gcmd_inv | split)
  all_goals first | rfl | exact ⟨rfl, rfl, rfl⟩ | assumption

theorem execProtLockout_inv (m : Mid) (g : Fin 8192) (hc : ∀ p ∈ [Part.regs, .prot, .wvr, .pcie, .tst, .out, .resp], Closed R p) (h : R s) :
    OutInv R (execProtLockout m g s) := by
  unfold execProtLockout
  try dsimp only
  repeat' (first | exact sub_inv (by decide) hc | with_reducible apply outInv_next | with_reducible exact outInv_fault _ | with_reducible apply outInv_ite | (intro _; try dsimp only) | with_reducible assumption | with_reducible apply inv_ite | with_reducible apply State.gcmd_inv | split)
  all_goals first | rfl | exact ⟨rfl, rfl, rfl⟩ | assumption

theorem execProtForce_inv (m : Mid) (g : Fin 8192) (member : BitVec 4) (hc : ∀ p ∈ [Part.regs, .prot, .wvr, .pcie, .tst, .out, .resp], Closed R p) (h : R s) :
    OutInv R (execProtForce m g member s) := by
  unfold execProtForce
  try dsimp only
  repeat' (first | exact sub_inv (by decide) hc | with_reducible apply outInv_next | with_reducible exact outInv_fault _ | with_reducible apply outInv_ite | (intro _; try dsimp only) | with_reducible assumption | with_reducible apply inv_ite | with_reducible apply State.gcmd_inv | split)
  all_goals first | rfl | exact ⟨rfl, rfl, rfl⟩ | assumption

theorem execProtManualP_inv (m : Mid) (g : Fin 8192) (member : BitVec 4) (hc : ∀ p ∈ [Part.regs, .prot, .wvr, .pcie, .tst, .out, .resp], Closed R p) (h : R s) :
    OutInv R (execProtManualP m g member s) := by
  unfold execProtManualP
  try dsimp only
  repeat' (first | exact sub_inv (by decide) hc | with_reducible apply outInv_next | with_reducible exact outInv_fault _ | with_reducible apply outInv_ite | (intro _; try dsimp only) | with_reducible assumption | with_reducible apply inv_ite | with_reducible apply State.gcmd_inv | split)
  all_goals first | rfl | exact ⟨rfl, rfl, rfl⟩ | assumption

theorem execProtManualW_inv (m : Mid) (g : Fin 8192) (hc : ∀ p ∈ [Part.regs, .prot, .wvr, .pcie, .tst, .out, .resp], Closed R p) (h : R s) :
    OutInv R (execProtManualW m g s) := by
  unfold execProtManualW
  try dsimp only
  repeat' (first | exact sub_inv (by decide) hc | with_reducible apply outInv_next | with_reducible exact outInv_fault _ | with_reducible apply outInv_ite | (intro _; try dsimp only) | with_reducible assumption | with_reducible apply inv_ite | with_reducible apply State.gcmd_inv | split)
  all_goals first | rfl | exact ⟨rfl, rfl, rfl⟩ | assumption

theorem execProtExercise_inv (m : Mid) (g : Fin 8192) (hc : ∀ p ∈ [Part.regs, .prot, .wvr, .pcie, .tst, .out, .resp], Closed R p) (h : R s) :
    OutInv R (execProtExercise m g s) := by
  unfold execProtExercise
  try dsimp only
  repeat' (first | exact sub_inv (by decide) hc | with_reducible apply outInv_next | with_reducible exact outInv_fault _ | with_reducible apply outInv_ite | (intro _; try dsimp only) | with_reducible assumption | with_reducible apply inv_ite | with_reducible apply State.gcmd_inv | split)
  all_goals first | rfl | exact ⟨rfl, rfl, rfl⟩ | assumption

theorem execProtRetime_inv (m : Mid) (g : Fin 8192) (hc : ∀ p ∈ [Part.regs, .prot, .wvr, .pcie, .tst, .out, .resp], Closed R p) (h : R s) :
    OutInv R (execProtRetime m g s) := by
  unfold execProtRetime
  try dsimp only
  repeat' (first | exact sub_inv (by decide) hc | with_reducible apply outInv_next | with_reducible exact outInv_fault _ | with_reducible apply outInv_ite | (intro _; try dsimp only) | with_reducible assumption | with_reducible apply inv_ite | with_reducible apply State.gcmd_inv | split)
  all_goals first | rfl | exact ⟨rfl, rfl, rfl⟩ | assumption

theorem execHoldoffExpire_inv (g : Fin 8192) (leg : Fin 16) (sd : Bool) (hc : ∀ p ∈ [Part.prot], Closed R p) (h : R s) :
    OutInv R (execHoldoffExpire g leg sd s) := by
  unfold execHoldoffExpire
  try dsimp only
  repeat' (first | exact sub_inv (by decide) hc | with_reducible apply outInv_next | with_reducible exact outInv_fault _ | with_reducible apply outInv_ite | (intro _; try dsimp only) | with_reducible assumption | with_reducible apply inv_ite | with_reducible apply State.modGrp_inv | split)
  all_goals first | rfl | exact ⟨rfl, rfl, rfl⟩ | assumption

theorem execWtrExpire_inv (g : Fin 8192) (hc : ∀ p ∈ [Part.prot], Closed R p) (h : R s) :
    OutInv R (execWtrExpire g s) := by
  unfold execWtrExpire
  try dsimp only
  repeat' (first | exact sub_inv (by decide) hc | with_reducible apply outInv_next | with_reducible exact outInv_fault _ | with_reducible apply outInv_ite | (intro _; try dsimp only) | with_reducible assumption | with_reducible apply inv_ite | with_reducible apply State.modGrp_inv | split)
  all_goals first | rfl | exact ⟨rfl, rfl, rfl⟩ | assumption

theorem State.popEvq_inv (hc : ∀ p ∈ [Part.prot], Closed R p) (h : R s) :
    R (s.popEvq).2 := by
  unfold State.popEvq
  try dsimp only
  repeat' (first | exact sub_inv (by decide) hc | (intro _; try dsimp only) | with_reducible assumption | with_reducible apply inv_ite | with_reducible apply State.modProt_inv | split)
  all_goals first | rfl | exact ⟨rfl, rfl, rfl⟩ | assumption

theorem State.popChgq_inv (hc : ∀ p ∈ [Part.prot], Closed R p) (h : R s) :
    R (s.popChgq).2 := by
  unfold State.popChgq
  try dsimp only
  repeat' (first | exact sub_inv (by decide) hc | (intro _; try dsimp only) | with_reducible assumption | with_reducible apply inv_ite | with_reducible apply State.modProt_inv | split)
  all_goals first | rfl | exact ⟨rfl, rfl, rfl⟩ | assumption

theorem execProtApsChgqRead_inv (m : Mid) (hc : ∀ p ∈ [Part.regs, .prot, .pcie, .tst, .out, .resp], Closed R p) (h : R s) :
    OutInv R (execProtApsChgqRead m s) := by
  unfold execProtApsChgqRead
  try dsimp only
  repeat' (first | exact sub_inv (by decide) hc | with_reducible apply outInv_next | with_reducible exact outInv_fault _ | with_reducible apply outInv_ite | (intro _; try dsimp only) | with_reducible assumption | with_reducible apply inv_ite | with_reducible apply State.access_inv | with_reducible apply State.popChgq_inv | with_reducible apply State.answer_inv | split)
  all_goals first | rfl | exact ⟨rfl, rfl, rfl⟩ | assumption

theorem execProtEvqRead_inv (m : Mid) (hc : ∀ p ∈ [Part.regs, .prot, .pcie, .tst, .out, .resp], Closed R p) (h : R s) :
    OutInv R (execProtEvqRead m s) := by
  unfold execProtEvqRead
  try dsimp only
  repeat' (first | exact sub_inv (by decide) hc | with_reducible apply outInv_next | with_reducible exact outInv_fault _ | with_reducible apply outInv_ite | (intro _; try dsimp only) | with_reducible assumption | with_reducible apply inv_ite | with_reducible apply State.access_inv | with_reducible apply State.popEvq_inv | with_reducible apply State.answer_inv | split)
  all_goals first | rfl | exact ⟨rfl, rfl, rfl⟩ | assumption

theorem execApsMessageAccept_inv (g : Fin 8192) (hc : ∀ p ∈ [Part.regs, .prot, .ten, .tly, .pcie, .tst, .out, .free], Closed R p) (h : R s) :
    OutInv R (execApsMessageAccept g s) := by
  unfold execApsMessageAccept
  try dsimp only
  repeat' (first | exact sub_inv (by decide) hc | with_reducible apply outInv_next | with_reducible exact outInv_fault _ | with_reducible apply outInv_ite | (intro _; try dsimp only) | with_reducible assumption | with_reducible apply inv_ite | with_reducible apply State.apsAccept_inv | split)
  all_goals first | rfl | exact ⟨rfl, rfl, rfl⟩ | assumption

theorem execFopPmSet_inv (g : Fin 8192) (hc : ∀ p ∈ [Part.regs, .prot, .ten, .pcie, .tst, .out, .free], Closed R p) (h : R s) :
    OutInv R (execFopPmSet g s) := by
  unfold execFopPmSet
  try dsimp only
  repeat' (first | exact sub_inv (by decide) hc | with_reducible apply outInv_next | with_reducible exact outInv_fault _ | with_reducible apply outInv_ite | (intro _; try dsimp only) | with_reducible assumption | with_reducible apply inv_ite | with_reducible apply State.setFop_inv | split)
  all_goals first | rfl | exact ⟨rfl, rfl, rfl⟩ | assumption

theorem execFopNrSet_inv (g : Fin 8192) (hc : ∀ p ∈ [Part.regs, .prot, .ten, .pcie, .tst, .out, .free], Closed R p) (h : R s) :
    OutInv R (execFopNrSet g s) := by
  unfold execFopNrSet
  try dsimp only
  repeat' (first | exact sub_inv (by decide) hc | with_reducible apply outInv_next | with_reducible exact outInv_fault _ | with_reducible apply outInv_ite | (intro _; try dsimp only) | with_reducible assumption | with_reducible apply inv_ite | with_reducible apply State.setFop_inv | split)
  all_goals first | rfl | exact ⟨rfl, rfl, rfl⟩ | assumption

theorem execFopToSet_inv (g : Fin 8192) (hc : ∀ p ∈ [Part.regs, .prot, .ten, .pcie, .tst, .out, .free], Closed R p) (h : R s) :
    OutInv R (execFopToSet g s) := by
  unfold execFopToSet
  try dsimp only
  repeat' (first | exact sub_inv (by decide) hc | with_reducible apply outInv_next | with_reducible exact outInv_fault _ | with_reducible apply outInv_ite | (intro _; try dsimp only) | with_reducible assumption | with_reducible apply inv_ite | with_reducible apply State.setFop_inv | split)
  all_goals first | rfl | exact ⟨rfl, rfl, rfl⟩ | assumption

theorem State.agentHb_inv (v : Word) (hc : ∀ p ∈ [Part.regs, .prot], Closed R p) (h : R s) :
    R (s.agentHb v) := by
  unfold State.agentHb
  try dsimp only
  repeat' (first | exact sub_inv (by decide) hc | (intro _; try dsimp only) | with_reducible assumption | with_reducible apply inv_ite | with_reducible apply State.modProt_inv | with_reducible apply State.setReg_inv | split)
  all_goals first | rfl | exact ⟨rfl, rfl, rfl⟩ | assumption

theorem execProtAgentHbWrite_inv (m : Mid) (v : Word) (hc : ∀ p ∈ [Part.regs, .prot, .wvr, .pcie, .tst, .out, .resp], Closed R p) (h : R s) :
    OutInv R (execProtAgentHbWrite m v s) := by
  unfold execProtAgentHbWrite
  try dsimp only
  repeat' (first | exact sub_inv (by decide) hc | with_reducible apply outInv_next | with_reducible exact outInv_fault _ | with_reducible apply outInv_ite | (intro _; try dsimp only) | with_reducible assumption | with_reducible apply inv_ite | with_reducible apply State.write4_inv | with_reducible apply State.agentHb_inv | split)
  all_goals first | rfl | exact ⟨rfl, rfl, rfl⟩ | assumption

theorem execApsAgentLost_inv (hc : ∀ p ∈ [Part.regs, .prot, .ten, .pcie, .tst, .out, .free], Closed R p) (h : R s) :
    OutInv R (execApsAgentLost s) := by
  unfold execApsAgentLost
  try dsimp only
  repeat' (first | exact sub_inv (by decide) hc | with_reducible apply outInv_next | with_reducible exact outInv_fault _ | with_reducible apply outInv_ite | (intro _; try dsimp only) | with_reducible assumption | with_reducible apply inv_ite | with_reducible apply State.irq_inv | with_reducible apply State.modProt_inv | with_reducible apply seqAll_inv | with_reducible apply State.evqPush_inv | split)
  all_goals first | rfl | exact ⟨rfl, rfl, rfl⟩ | assumption

theorem execLegAcquired_inv (g : Fin 8192) (protect : Bool) (hc : ∀ p ∈ [Part.prot], Closed R p) (h : R s) :
    OutInv R (execLegAcquired g protect s) := by
  unfold execLegAcquired
  try dsimp only
  repeat' (first | exact sub_inv (by decide) hc | with_reducible apply outInv_next | with_reducible exact outInv_fault _ | with_reducible apply outInv_ite | (intro _; try dsimp only) | with_reducible assumption | with_reducible apply inv_ite | with_reducible apply State.modGrp_inv | split)
  all_goals first | rfl | exact ⟨rfl, rfl, rfl⟩ | assumption

theorem State.acqTimeout_inv (g : Nat) (hc : ∀ p ∈ [Part.regs, .prot, .ten, .pcie, .tst, .out, .free], Closed R p) (h : R s) :
    R (s.acqTimeout g) := by
  unfold State.acqTimeout
  try dsimp only
  repeat' (first | exact sub_inv (by decide) hc | (intro _; try dsimp only) | with_reducible assumption | with_reducible apply inv_ite | with_reducible apply State.noted_inv | with_reducible apply State.toSingle_inv | split)
  all_goals first | rfl | exact ⟨rfl, rfl, rfl⟩ | assumption

theorem execAcqTimeout_inv (g : Fin 8192) (hc : ∀ p ∈ [Part.regs, .prot, .ten, .pcie, .tst, .out, .free], Closed R p) (h : R s) :
    OutInv R (execAcqTimeout g s) := by
  unfold execAcqTimeout
  try dsimp only
  repeat' (first | exact sub_inv (by decide) hc | with_reducible apply outInv_next | with_reducible exact outInv_fault _ | with_reducible apply outInv_ite | (intro _; try dsimp only) | with_reducible assumption | with_reducible apply inv_ite | with_reducible apply State.acqTimeout_inv | split)
  all_goals first | rfl | exact ⟨rfl, rfl, rfl⟩ | assumption

theorem State.fillComplete_inv (g : Nat) (hc : ∀ p ∈ [Part.regs, .prot, .ten, .pcie, .tst, .out, .free], Closed R p) (h : R s) :
    R (s.fillComplete g) := by
  unfold State.fillComplete
  try dsimp only
  repeat' (first | exact sub_inv (by decide) hc | (intro _; try dsimp only) | with_reducible assumption | with_reducible apply inv_ite | with_reducible apply State.noted_inv | with_reducible apply State.putSfa_inv | with_reducible apply State.modGrp_inv | split)
  all_goals first | rfl | exact ⟨rfl, rfl, rfl⟩ | assumption

theorem execStoreFillComplete_inv (g : Fin 8192) (hc : ∀ p ∈ [Part.regs, .prot, .ten, .pcie, .tst, .out, .free], Closed R p) (h : R s) :
    OutInv R (execStoreFillComplete g s) := by
  unfold execStoreFillComplete
  try dsimp only
  repeat' (first | exact sub_inv (by decide) hc | with_reducible apply outInv_next | with_reducible exact outInv_fault _ | with_reducible apply outInv_ite | (intro _; try dsimp only) | with_reducible assumption | with_reducible apply inv_ite | with_reducible apply State.fillComplete_inv | split)
  all_goals first | rfl | exact ⟨rfl, rfl, rfl⟩ | assumption

theorem State.autoRetime_inv (g : Nat) (hc : ∀ p ∈ [Part.regs, .prot, .ten, .pcie, .tst, .out, .free], Closed R p) (h : R s) :
    R (s.autoRetime g) := by
  unfold State.autoRetime
  try dsimp only
  repeat' (first | exact sub_inv (by decide) hc | (intro _; try dsimp only) | with_reducible assumption | with_reducible apply inv_ite | with_reducible apply State.noted_inv | with_reducible apply State.retimeNow_inv | split)
  all_goals first | rfl | exact ⟨rfl, rfl, rfl⟩ | assumption

theorem execAutoRetime_inv (g : Fin 8192) (hc : ∀ p ∈ [Part.regs, .prot, .ten, .pcie, .tst, .out, .free], Closed R p) (h : R s) :
    OutInv R (execAutoRetime g s) := by
  unfold execAutoRetime
  try dsimp only
  repeat' (first | exact sub_inv (by decide) hc | with_reducible apply outInv_next | with_reducible exact outInv_fault _ | with_reducible apply outInv_ite | (intro _; try dsimp only) | with_reducible assumption | with_reducible apply inv_ite | with_reducible apply State.autoRetime_inv | split)
  all_goals first | rfl | exact ⟨rfl, rfl, rfl⟩ | assumption

theorem State.pairsDue_inv (hc : ∀ p ∈ [Part.regs, .prot, .ten, .pcie, .tst, .out, .free], Closed R p) (h : R s) :
    R (s.pairsDue) := by
  unfold State.pairsDue
  try dsimp only
  repeat' (first | exact sub_inv (by decide) hc | (intro _; try dsimp only) | with_reducible assumption | with_reducible apply inv_ite | with_reducible apply seqAll_inv | with_reducible apply State.autoRetime_inv | with_reducible apply State.fillComplete_inv | with_reducible apply State.acqTimeout_inv | split)
  all_goals first | rfl | exact ⟨rfl, rfl, rfl⟩ | assumption

theorem execHbmNotReady_inv (h1 : Fin 2) (hc : ∀ p ∈ [Part.prot], Closed R p) (h : R s) :
    OutInv R (execHbmNotReady h1 s) := by
  unfold execHbmNotReady
  try dsimp only
  repeat' (first | exact sub_inv (by decide) hc | with_reducible apply outInv_next | with_reducible exact outInv_fault _ | with_reducible apply outInv_ite | (intro _; try dsimp only) | with_reducible assumption | with_reducible apply inv_ite | with_reducible apply State.modProt_inv | split)
  all_goals first | rfl | exact ⟨rfl, rfl, rfl⟩ | assumption

theorem execSelvEccUncorrectable_inv (g : Fin 8192) (ob : Word) (rho : Nat) (hc : ∀ p ∈ [Part.regs, .prot, .pcie, .out], Closed R p) (h : R s) :
    OutInv R (execSelvEccUncorrectable g ob rho s) := by
  unfold execSelvEccUncorrectable
  try dsimp only
  repeat' (first | exact sub_inv (by decide) hc | with_reducible apply outInv_next | with_reducible exact outInv_fault _ | with_reducible apply outInv_ite | (intro _; try dsimp only) | with_reducible assumption | with_reducible apply inv_ite | with_reducible apply State.irq_inv | with_reducible apply State.incReg_inv | with_reducible apply State.modProt_inv | split)
  all_goals first | rfl | exact ⟨rfl, rfl, rfl⟩ | assumption

theorem State.selvWrite_inv (m : Mid) (v : Word) (hc : ∀ p ∈ [Part.regs], Closed R p) (h : R s) :
    R (s.selvWrite m v) := by
  unfold State.selvWrite
  try dsimp only
  repeat' (first | exact sub_inv (by decide) hc | (intro _; try dsimp only) | with_reducible assumption | with_reducible apply inv_ite | with_reducible apply State.errlog_inv | with_reducible apply State.putMasked_inv | split)
  all_goals first | rfl | exact ⟨rfl, rfl, rfl⟩ | assumption

theorem execSelvCfgWrite_inv (m : Mid) (v : Word) (hc : ∀ p ∈ [Part.regs, .wvr, .pcie, .tst, .out, .resp], Closed R p) (h : R s) :
    OutInv R (execSelvCfgWrite m v s) := by
  unfold execSelvCfgWrite
  try dsimp only
  repeat' (first | exact sub_inv (by decide) hc | with_reducible apply outInv_next | with_reducible exact outInv_fault _ | with_reducible apply outInv_ite | (intro _; try dsimp only) | with_reducible assumption | with_reducible apply inv_ite | with_reducible apply State.write4_inv | with_reducible apply State.selvWrite_inv | split)
  all_goals first | rfl | exact ⟨rfl, rfl, rfl⟩ | assumption

end Sys2Proof.Machine
end

