-- ==== Sys2Proof/Laws/InvReset.lean ====
section
/-! SUPPORT. What the operations of Machine/Reset.lean keep. -/
namespace Sys2Proof.Machine

variable {R : State → Prop} {s : State}

theorem State.askReset_inv (kind : Nat) (src : Nat) (m : Mid) (now : Bool) (hc : ∀ p ∈ [Part.pwr], Closed R p) (h : R s) :
    R (s.askReset kind src m now) := by
  unfold State.askReset
  try dsimp only
  repeat' (first | exact sub_inv (by decide) hc | (intro _; try dsimp only) | with_reducible assumption | with_reducible apply inv_ite | with_reducible apply State.modPwr_inv | split)
  all_goals first | rfl | exact ⟨rfl, rfl, rfl⟩ | assumption

theorem execPowerOn_inv (straps : BitVec 12) (hc : ∀ p ∈ [Part.pwr], Closed R p) (h : R s) :
    OutInv R (execPowerOn straps s) := by
  unfold execPowerOn
  try dsimp only
  repeat' (first | exact sub_inv (by decide) hc | with_reducible apply outInv_next | with_reducible exact outInv_fault _ | with_reducible apply outInv_ite | (intro _; try dsimp only) | with_reducible assumption | with_reducible apply inv_ite | with_reducible apply State.askReset_inv | with_reducible apply State.modPwr_inv | split)
  all_goals first | rfl | exact ⟨rfl, rfl, rfl⟩ | assumption

theorem execResetNAssert_inv (ns : Nat) (hc : ∀ p ∈ [Part.pwr], Closed R p) (h : R s) :
    OutInv R (execResetNAssert ns s) := by
  unfold execResetNAssert
  try dsimp only
  repeat' (first | exact sub_inv (by decide) hc | with_reducible apply outInv_next | with_reducible exact outInv_fault _ | with_reducible apply outInv_ite | (intro _; try dsimp only) | with_reducible assumption | with_reducible apply inv_ite | with_reducible apply State.when_inv | with_reducible apply State.askReset_inv | split)
  all_goals first | rfl | exact ⟨rfl, rfl, rfl⟩ | assumption

theorem State.rstKey_inv (m : Mid) (v : Word) (hc : ∀ p ∈ [Part.pwr], Closed R p) (h : R s) :
    R (s.rstKey m v) := by
  unfold State.rstKey
  try dsimp only
  repeat' (first | exact sub_inv (by decide) hc | (intro _; try dsimp only) | with_reducible assumption | with_reducible apply inv_ite | with_reducible apply State.modPwr_inv | split)
  all_goals first | rfl | exact ⟨rfl, rfl, rfl⟩ | assumption

theorem execGlbRstKeyWrite_inv (m : Mid) (v : Word) (hc : ∀ p ∈ [Part.regs, .wvr, .pcie, .pwr, .tst, .out, .resp], Closed R p) (h : R s) :
    OutInv R (execGlbRstKeyWrite m v s) := by
  unfold execGlbRstKeyWrite
  try dsimp only
  repeat' (first | exact sub_inv (by decide) hc | with_reducible apply outInv_next | with_reducible exact outInv_fault _ | with_reducible apply outInv_ite | (intro _; try dsimp only) | with_reducible assumption | with_reducible apply inv_ite | with_reducible apply State.write4_inv | with_reducible apply State.rstKey_inv | split)
  all_goals first | rfl | exact ⟨rfl, rfl, rfl⟩ | assumption

theorem State.rstCmd_inv (m : Mid) (v : Word) (hc : ∀ p ∈ [Part.regs, .pwr], Closed R p) (h : R s) :
    R (s.rstCmd m v) := by
  unfold State.rstCmd
  try dsimp only
  repeat' (first | exact sub_inv (by decide) hc | (intro _; try dsimp only) | with_reducible assumption | with_reducible apply inv_ite | with_reducible apply State.askReset_inv | with_reducible apply State.errlog_inv | split)
  all_goals first | rfl | exact ⟨rfl, rfl, rfl⟩ | assumption

theorem execGlbRstCmdCold_inv (m : Mid) (hc : ∀ p ∈ [Part.regs, .wvr, .pcie, .pwr, .tst, .out, .resp], Closed R p) (h : R s) :
    OutInv R (execGlbRstCmdCold m s) := by
  unfold execGlbRstCmdCold
  try dsimp only
  repeat' (first | exact sub_inv (by decide) hc | with_reducible apply outInv_next | with_reducible exact outInv_fault _ | with_reducible apply outInv_ite | (intro _; try dsimp only) | with_reducible assumption | with_reducible apply inv_ite | with_reducible apply State.write4_inv | with_reducible apply State.rstCmd_inv | split)
  all_goals first | rfl | exact ⟨rfl, rfl, rfl⟩ | assumption

theorem execGlbRstCmdWarm_inv (m : Mid) (hc : ∀ p ∈ [Part.regs, .wvr, .pcie, .pwr, .tst, .out, .resp], Closed R p) (h : R s) :
    OutInv R (execGlbRstCmdWarm m s) := by
  unfold execGlbRstCmdWarm
  try dsimp only
  repeat' (first | exact sub_inv (by decide) hc | with_reducible apply outInv_next | with_reducible exact outInv_fault _ | with_reducible apply outInv_ite | (intro _; try dsimp only) | with_reducible assumption | with_reducible apply inv_ite | with_reducible apply State.write4_inv | with_reducible apply State.rstCmd_inv | split)
  all_goals first | rfl | exact ⟨rfl, rfl, rfl⟩ | assumption

theorem execGlbRstCmdCp_inv (m : Mid) (hc : ∀ p ∈ [Part.regs, .wvr, .pcie, .pwr, .tst, .out, .resp], Closed R p) (h : R s) :
    OutInv R (execGlbRstCmdCp m s) := by
  unfold execGlbRstCmdCp
  try dsimp only
  repeat' (first | exact sub_inv (by decide) hc | with_reducible apply outInv_next | with_reducible exact outInv_fault _ | with_reducible apply outInv_ite | (intro _; try dsimp only) | with_reducible assumption | with_reducible apply inv_ite | with_reducible apply State.write4_inv | with_reducible apply State.rstCmd_inv | split)
  all_goals first | rfl | exact ⟨rfl, rfl, rfl⟩ | assumption

theorem State.bootBank_inv (b : Nat) (rows : List Nat) (again : Bool) (hc : ∀ p ∈ [Part.regs, .bank, .pcie, .out], Closed R p) (h : R s) :
    R (s.bootBank b rows again) := by
  unfold State.bootBank
  try dsimp only
  repeat' (first | exact sub_inv (by decide) hc | (intro _; try dsimp only) | with_reducible assumption | with_reducible apply inv_ite | with_reducible apply State.modBank_inv | with_reducible apply State.setRf_inv | with_reducible apply State.when_inv | with_reducible apply State.irq_inv | split)
  all_goals first | rfl | exact ⟨rfl, rfl, rfl⟩ | assumption

theorem State.coldState_inv (straps : BitVec 16) (test : StartTest) (hc : ∀ p ∈ [Part.regs, .lanes, .integ, .skrx, .sktx, .ports, .loom, .trd, .fine, .prot, .blz, .beat, .bmy, .wvr, .ten, .fmn, .mbx, .mbxMem, .bank, .bankMem, .skid, .tly, .pcie, .pwr, .jtag, .tst, .out], Closed R p) (h : R s) : R (s.coldState straps test) := by
  have p2 := hc .mbx (by decide) _ { s.offState.mbx with bootSlot := s.mbx.nextSlot.getD s.mbx.bootSlot, nextSlot := none } rfl rfl rfl
    (State.offState_inv (sub_inv (by decide) hc) h)
  have p4 := hc .fmn (by decide) _ { s.offState.fmn with startUp := !bit straps 8 } p2
  have p3 := hc .pwr (by decide) _ { straps := straps, serial := s.pwr.serial, domOn := BitVec.ofNat 18 (strapDoms straps) } p4
  unfold State.coldState
  dsimp only
  refine State.setReg_inv _ _ (sub_inv (by decide) hc) (seqAll_inv _ _ (State.applyFuses_inv (sub_inv (by decide) hc)
      (State.setReg_inv _ _ (sub_inv (by decide) hc) ?_)) (fun b s h => State.bootBank_inv _ _ _ (sub_inv (by decide) hc) h))
  exact p3

theorem execColdReset_inv (straps : BitVec 12) (test : StartTest) (hc : ∀ p ∈ [Part.regs, .lanes, .integ, .skrx, .sktx, .ports, .loom, .trd, .fine, .prot, .blz, .beat, .bmy, .wvr, .ten, .fmn, .mbx, .mbxMem, .bank, .bankMem, .skid, .tly, .pcie, .pwr, .jtag, .tst, .out], Closed R p) (h : R s) :
    OutInv R (execColdReset straps test s) := by
  unfold execColdReset
  try dsimp only
  repeat' (first | exact sub_inv (by decide) hc | with_reducible apply outInv_next | with_reducible exact outInv_fault _ | with_reducible apply outInv_ite | (intro _; try dsimp only) | with_reducible assumption | with_reducible apply inv_ite | with_reducible apply State.setReg_inv | with_reducible apply State.coldState_inv | split)
  all_goals first | rfl | exact ⟨rfl, rfl, rfl⟩ | assumption

theorem State.resetBegin_inv (k : Nat) (src : Nat) (m : Mid) (cnt : Nat) (hc : ∀ p ∈ [Part.regs, .pcie, .pwr, .tst, .out, .free], Closed R p) (h : R s) :
    R (s.resetBegin k src m cnt) := by
  unfold State.resetBegin
  try dsimp only
  repeat' (first | exact sub_inv (by decide) hc | (intro _; try dsimp only) | with_reducible assumption | with_reducible apply inv_ite | with_reducible apply State.trace_inv | with_reducible apply State.incReg_inv | with_reducible apply State.setReg_inv | with_reducible apply State.modPwr_inv | split)
  all_goals first | rfl | exact ⟨rfl, rfl, rfl⟩ | assumption

theorem State.cpPart_inv (hc : ∀ p ∈ [Part.regs, .loom, .trd, .fine, .wvr, .fmn, .mbx, .bank, .bankMem, .skid, .tly, .pcie, .pwr, .tst, .out, .free], Closed R p) (h : R s) :
    R (s.cpPart) := by
  unfold State.cpPart
  try dsimp only
  repeat' (first | exact sub_inv (by decide) hc | (intro _; try dsimp only) | with_reducible assumption | with_reducible apply inv_ite | with_reducible apply State.modFmn_inv | with_reducible apply State.modMbx_inv | with_reducible apply State.revoke_inv | with_reducible apply State.offFm_inv | with_reducible apply State.startIslands_inv | split)
  all_goals first | rfl | exact ⟨rfl, rfl, rfl⟩ | assumption

theorem State.cpReset_inv (src : Nat) (m : Mid) (hc : ∀ p ∈ [Part.regs, .loom, .trd, .fine, .wvr, .fmn, .mbx, .bank, .bankMem, .skid, .tly, .pcie, .pwr, .tst, .out, .free], Closed R p) (h : R s) :
    R (s.cpReset src m) := by
  unfold State.cpReset
  try dsimp only
  repeat' (first | exact sub_inv (by decide) hc | (intro _; try dsimp only) | with_reducible assumption | with_reducible apply inv_ite | with_reducible apply State.applyFuses_inv | with_reducible apply State.cpPart_inv | with_reducible apply State.resetBegin_inv | split)
  all_goals first | rfl | exact ⟨rfl, rfl, rfl⟩ | assumption

theorem execCpReset_inv (hc : ∀ p ∈ [Part.regs, .loom, .trd, .fine, .wvr, .fmn, .mbx, .bank, .bankMem, .skid, .tly, .pcie, .pwr, .tst, .out, .free], Closed R p) (h : R s) :
    OutInv R (execCpReset s) := by
  unfold execCpReset
  try dsimp only
  repeat' (first | exact sub_inv (by decide) hc | with_reducible apply outInv_next | with_reducible exact outInv_fault _ | with_reducible apply outInv_ite | (intro _; try dsimp only) | with_reducible assumption | with_reducible apply inv_ite | with_reducible apply State.cpReset_inv | split)
  all_goals first | rfl | exact ⟨rfl, rfl, rfl⟩ | assumption

theorem State.warmRegs_inv (hc : ∀ p ∈ [Part.regs, .pcie, .out], Closed R p) (h : R s) : R s.warmRegs :=
  State.settle_inv (sub_inv (by decide) hc) (State.setRf_inv _ _ _ _ (sub_inv (by decide) hc) (inv_dropRegs _ (sub_inv (by decide) hc) h))

theorem State.warmLane_inv (l : Nat) (hc : ∀ p ∈ [Part.lanes, .integ, .ten], Closed R p) (h : R s) :
    R (s.warmLane l) := by
  unfold State.warmLane
  try dsimp only
  repeat' (first | exact sub_inv (by decide) hc | (intro _; try dsimp only) | with_reducible assumption | with_reducible apply inv_ite | with_reducible apply State.deadLane_inv | with_reducible apply State.modLane_inv | split)
  all_goals first | rfl | exact ⟨rfl, rfl, rfl⟩ | assumption

theorem State.dropTags_inv (hc : ∀ p ∈ [Part.sktx, .fine, .prot], Closed R p) (h : R s) : R s.dropTags :=
  hc .prot (by decide) _ s.dropTags.prot (hc .fine (by decide) _ s.dropTags.fine (hc .sktx (by decide) s s.dropTags.sktx h))

theorem State.warmEngine_inv (fe : Bool) (hc : ∀ p ∈ [Part.regs, .loom, .trd, .fine, .bank, .bankMem, .pcie, .tst, .out], Closed R p) (h : R s) :
    R (State.warmEngine fe s) := by
  unfold State.warmEngine
  try dsimp only
  repeat' (first | exact sub_inv (by decide) hc | (intro _; try dsimp only) | with_reducible assumption | with_reducible apply inv_ite | with_reducible apply State.postFences_inv | with_reducible apply State.dropBatch_inv | split)
  all_goals first | rfl | exact ⟨rfl, rfl, rfl⟩ | assumption

theorem State.warmProt_inv (hc : ∀ p ∈ [Part.prot], Closed R p) (h : R s) :
    R (s.warmProt) := by
  unfold State.warmProt
  try dsimp only
  repeat' (first | exact sub_inv (by decide) hc | (intro _; try dsimp only) | with_reducible assumption | with_reducible apply inv_ite | with_reducible apply State.modProt_inv | split)
  all_goals first | rfl | exact ⟨rfl, rfl, rfl⟩ | assumption

theorem State.warmSkid_inv (hc : ∀ p ∈ [Part.regs, .fmn, .skid], Closed R p) (h : R s) :
    R (s.warmSkid) := by
  unfold State.warmSkid
  try dsimp only
  repeat' (first | exact sub_inv (by decide) hc | (intro _; try dsimp only) | with_reducible assumption | with_reducible apply inv_ite | with_reducible apply State.incReg_inv | with_reducible apply State.modSkid_inv | with_reducible apply State.setReg_inv | with_reducible apply State.modFmn_inv | split)
  all_goals first | rfl | exact ⟨rfl, rfl, rfl⟩ | assumption

theorem State.warmBanks_inv (hc : ∀ p ∈ [Part.regs, .bank, .bankMem, .pcie, .out], Closed R p) (h : R s) :
    R (s.warmBanks) := by
  unfold State.warmBanks
  try dsimp only
  repeat' (first | exact sub_inv (by decide) hc | (intro _; try dsimp only) | with_reducible assumption | with_reducible apply inv_ite | with_reducible apply State.applyFuses_inv | with_reducible apply State.endTest_inv | with_reducible apply State.when_inv | with_reducible apply State.startTest_inv | split)
  all_goals first | rfl | exact ⟨rfl, rfl, rfl⟩ | assumption

theorem State.warmLanes_inv (hc : ∀ p ∈ [Part.lanes, .integ, .skrx, .ten], Closed R p) (h : R s) : R s.warmLanes := by
  unfold State.warmLanes
  exact seqAll_inv _ _ (State.modSkeins_inv _ _ (sub_inv (by decide) hc) h) (fun l s h => inv_ite (State.warmLane_inv l (sub_inv (by decide) hc) h) h)

theorem State.warmMarks_inv (hc : ∀ p ∈ [Part.blz, .beat, .bmy, .ten, .pwr, .tst], Closed R p) (h : R s) : R s.warmMarks :=
  State.modPwr_inv _ (sub_inv (by decide) hc) (State.modBeat_inv _ (sub_inv (by decide) hc) (State.modTst_inv _ (sub_inv (by decide) hc)
    (State.modTen_inv _ (sub_inv (by decide) hc) (State.modBmy_inv _ (sub_inv (by decide) hc) (hc .blz (by decide) s [] h)))))

theorem State.warmReset_inv (src : Nat) (m : Mid) (hc : ∀ p ∈ [Part.regs, .lanes, .integ, .skrx, .sktx, .loom, .trd, .fine, .prot, .blz, .beat, .bmy, .wvr, .ten, .fmn, .mbx, .bank, .bankMem, .skid, .tly, .pcie, .pwr, .tst, .out, .free], Closed R p) (h : R s) :
    R (s.warmReset src m) := by
  unfold State.warmReset
  try dsimp only
  repeat' (first | exact sub_inv (by decide) hc | (intro _; try dsimp only) | with_reducible assumption | with_reducible apply inv_ite | with_reducible apply State.warmMarks_inv | with_reducible apply State.warmProt_inv | with_reducible apply State.warmLanes_inv | with_reducible apply State.dropTags_inv | with_reducible apply State.warmRegs_inv | with_reducible apply State.warmBanks_inv | with_reducible apply State.warmSkid_inv | with_reducible apply State.warmWeavers_inv | with_reducible apply State.cpPart_inv | with_reducible apply State.warmEngine_inv | with_reducible apply State.resetBegin_inv | split)
  all_goals first | rfl | exact ⟨rfl, rfl, rfl⟩ | assumption

theorem execWarmReset_inv (hc : ∀ p ∈ [Part.regs, .lanes, .integ, .skrx, .sktx, .loom, .trd, .fine, .prot, .blz, .beat, .bmy, .wvr, .ten, .fmn, .mbx, .bank, .bankMem, .skid, .tly, .pcie, .pwr, .tst, .out, .free], Closed R p) (h : R s) :
    OutInv R (execWarmReset s) := by
  unfold execWarmReset
  try dsimp only
  repeat' (first | exact sub_inv (by decide) hc | with_reducible apply outInv_next | with_reducible exact outInv_fault _ | with_reducible apply outInv_ite | (intro _; try dsimp only) | with_reducible assumption | with_reducible apply inv_ite | with_reducible apply State.warmReset_inv | split)
  all_goals first | rfl | exact ⟨rfl, rfl, rfl⟩ | assumption

theorem State.asgRestore_inv (hc : ∀ p ∈ [Part.regs, .pwr], Closed R p) (h : R s) :
    R (s.asgRestore) := by
  unfold State.asgRestore
  try dsimp only
  repeat' (first | exact sub_inv (by decide) hc | (intro _; try dsimp only) | with_reducible assumption | with_reducible apply inv_ite | with_reducible apply State.modPwr_inv | with_reducible apply seqAll_inv | with_reducible apply State.setRf_inv | split)
  all_goals first | rfl | exact ⟨rfl, rfl, rfl⟩ | assumption

theorem execWarmFineAsgRestore_inv (hc : ∀ p ∈ [Part.regs, .pwr], Closed R p) (h : R s) :
    OutInv R (execWarmFineAsgRestore s) := by
  unfold execWarmFineAsgRestore
  try dsimp only
  repeat' (first | exact sub_inv (by decide) hc | with_reducible apply outInv_next | with_reducible exact outInv_fault _ | with_reducible apply outInv_ite | (intro _; try dsimp only) | with_reducible assumption | with_reducible apply inv_ite | with_reducible apply State.when_inv | with_reducible apply State.asgRestore_inv | split)
  all_goals first | rfl | exact ⟨rfl, rfl, rfl⟩ | assumption

theorem State.resetLeft_inv (hc : ∀ p ∈ [Part.regs, .lanes, .integ, .skrx, .sktx, .loom, .trd, .fine, .prot, .blz, .beat, .bmy, .wvr, .ten, .fmn, .mbx, .bank, .bankMem, .skid, .tly, .pcie, .pwr, .tst, .out, .free], Closed R p) (h : R s) :
    R (s.resetLeft) := by
  unfold State.resetLeft
  try dsimp only
  repeat' (first | exact sub_inv (by decide) hc | (intro _; try dsimp only) | with_reducible assumption | with_reducible apply inv_ite | with_reducible apply State.warmReset_inv | with_reducible apply State.cpReset_inv | with_reducible apply State.when_inv | with_reducible apply State.asgRestore_inv | split)
  all_goals first | rfl | exact ⟨rfl, rfl, rfl⟩ | assumption

theorem State.resetTake_inv (hc : ∀ p ∈ [Part.pwr], Closed R p) (h : R s) :
    R (s.resetTake) := by
  unfold State.resetTake
  try dsimp only
  repeat' (first | exact sub_inv (by decide) hc | (intro _; try dsimp only) | with_reducible assumption | with_reducible apply inv_ite | with_reducible apply State.modPwr_inv | split)
  all_goals first | rfl | exact ⟨rfl, rfl, rfl⟩ | assumption

end Sys2Proof.Machine
end

