-- ==== Sys2Proof/Laws/InvPick.lean ====
section
/-! SUPPORT. What the operations of Machine/Pick.lean keep. -/
namespace Sys2Proof.Machine

variable {R : State → Prop} {s : State}

theorem State.sampleIn_inv (p1 : PickIn) (k : Nat) (rho : Nat) (hc : ∀ p ∈ [Part.regs, .tly], Closed R p) (h : R s) :
    R (s.sampleIn p1 k rho).1 := by
  unfold State.sampleIn
  try dsimp only
  repeat' (first | exact sub_inv (by decide) hc | (intro _; try dsimp only) | with_reducible assumption | with_reducible apply inv_ite | with_reducible apply State.modTly_inv | with_reducible apply State.incReg_inv | split)
  all_goals first | rfl | exact ⟨rfl, rfl, rfl⟩ | assumption

theorem State.histogram_inv (thread : Bool) (l : Nat) (hc : ∀ p ∈ [Part.regs], Closed R p) (h : R s) :
    R (s.histogram thread l) := by
  unfold State.histogram
  try dsimp only
  repeat' (first | exact sub_inv (by decide) hc | (intro _; try dsimp only) | with_reducible assumption | with_reducible apply inv_ite | with_reducible apply State.satReg_inv | split)
  all_goals first | rfl | exact ⟨rfl, rfl, rfl⟩ | assumption

theorem State.stamps_inv (f : Fate) (hc : ∀ p ∈ [Part.free], Closed R p) (h : R s) : R (s.stamps f).1 := by
  unfold State.stamps
  refine foldl_inv _ _ _ h (fun x y hx => ?_)
  dsimp only
  split
  · exact State.freeVal_inv (sub_inv (by decide) hc) hx
  · exact hx

theorem State.sampleWrite_inv (bs : List Byte) (hc : ∀ p ∈ [Part.regs, .bank, .bankMem, .pcie, .tst, .out], Closed R p) (h : R s) :
    R (s.sampleWrite bs) := by
  unfold State.sampleWrite
  try dsimp only
  repeat' (first | exact sub_inv (by decide) hc | (intro _; try dsimp only) | with_reducible assumption | with_reducible apply inv_ite | with_reducible apply State.modTst_inv | with_reducible apply State.irq_inv | with_reducible apply State.setReg_inv | with_reducible apply State.agentWrite_inv | split)
  all_goals first | rfl | exact ⟨rfl, rfl, rfl⟩ | assumption

theorem State.sampleOut_inv (x : Sample) (f : Fate) (hc : ∀ p ∈ [Part.regs, .bank, .bankMem, .pcie, .tst, .out, .free], Closed R p) (h : R s) :
    R (s.sampleOut x f) := by
  unfold State.sampleOut
  try dsimp only
  repeat' (first | exact sub_inv (by decide) hc | (intro _; try dsimp only) | with_reducible assumption | with_reducible apply inv_ite | with_reducible apply State.stamps_inv | with_reducible apply State.sampleWrite_inv | with_reducible apply State.histogram_inv | split)
  all_goals first | rfl | exact ⟨rfl, rfl, rfl⟩ | assumption

theorem State.fate_inv (p1 : Pick) (f : Fate) (hc : ∀ p ∈ [Part.regs, .bank, .bankMem, .pcie, .tst, .out, .free], Closed R p) (h : R s) :
    R (s.fate p1 f) := by
  unfold State.fate
  try dsimp only
  repeat' (first | exact sub_inv (by decide) hc | (intro _; try dsimp only) | with_reducible assumption | with_reducible apply inv_ite | with_reducible apply State.sampleOut_inv | split)
  all_goals first | rfl | exact ⟨rfl, rfl, rfl⟩ | assumption

theorem State.tenantViol_inv (d : Nat) (tag : Nat) (protect : Bool) (hc : ∀ p ∈ [Part.regs, .sktx, .ten, .tly, .pcie, .out], Closed R p) (h : R s) :
    R (s.tenantViol d tag protect) := by
  unfold State.tenantViol
  try dsimp only
  repeat' (first | exact sub_inv (by decide) hc | (intro _; try dsimp only) | with_reducible assumption | with_reducible apply inv_ite | with_reducible apply State.irq_inv | with_reducible apply State.setReg_inv | with_reducible apply State.incReg_inv | with_reducible apply State.noteTen_inv | with_reducible apply State.modTx_inv | with_reducible apply State.count_inv | split)
  all_goals first | rfl | exact ⟨rfl, rfl, rfl⟩ | assumption

theorem State.transmit_inv (k : Nat) (r : Nat) (p1 : Pick) (gen : Bool) (sub : Bool) (src : Option Nat) (hc : ∀ p ∈ [Part.sktx], Closed R p) (h : R s) :
    R (s.transmit k r p1 gen sub src) := by
  unfold State.transmit
  try dsimp only
  repeat' (first | exact sub_inv (by decide) hc | (intro _; try dsimp only) | with_reducible assumption | with_reducible apply inv_ite | with_reducible apply State.modTx_inv | split)
  all_goals first | rfl | exact ⟨rfl, rfl, rfl⟩ | assumption

theorem State.errorlessOut_inv (g : Nat) (d : Nat) (r : Nat) (slot : Nat) (hc : ∀ p ∈ [Part.regs, .sktx, .bank, .bankMem, .tly, .pcie, .tst, .out, .free], Closed R p) (h : R s) :
    R (s.errorlessOut g d r slot) := by
  unfold State.errorlessOut
  try dsimp only
  repeat' (first | exact sub_inv (by decide) hc | (intro _; try dsimp only) | with_reducible assumption | with_reducible apply inv_ite | with_reducible apply State.count_inv | with_reducible apply State.modTly_inv | with_reducible apply State.transmit_inv | with_reducible apply State.fate_inv | split)
  all_goals first | rfl | exact ⟨rfl, rfl, rfl⟩ | assumption

theorem State.holdPick_inv (g : Nat) (protect : Bool) (r : Nat) (p1 : Pick) (hc : ∀ p ∈ [Part.prot], Closed R p) (h : R s) :
    R (s.holdPick g protect r p1) := by
  unfold State.holdPick
  try dsimp only
  repeat' (first | exact sub_inv (by decide) hc | (intro _; try dsimp only) | with_reducible assumption | with_reducible apply inv_ite | with_reducible apply State.modProt_inv | split)
  all_goals first | rfl | exact ⟨rfl, rfl, rfl⟩ | assumption

theorem State.egress_inv (x : Nat) (d : Nat) (protect : Bool) (slot : Nat) (p1 : Pick) (round : Nat) (fine : Bool) (mcast : Bool) (hc : ∀ p ∈ [Part.regs, .sktx, .prot, .ten, .bank, .bankMem, .tly, .pcie, .tst, .out, .free], Closed R p) (h : R s) :
    R (s.egress x d protect slot p1 round fine mcast) := by
  unfold State.egress
  try dsimp only
  repeat' (first | exact sub_inv (by decide) hc | (intro _; try dsimp only) | with_reducible assumption | with_reducible apply inv_ite | with_reducible apply State.holdPick_inv | with_reducible apply State.fate_inv | with_reducible apply State.transmit_inv | with_reducible apply State.tenantViol_inv | with_reducible apply State.errorlessOut_inv | split)
  all_goals first | rfl | exact ⟨rfl, rfl, rfl⟩ | assumption

theorem State.toFine_inv (f : Nat) (p1 : Pick) (round : Nat) (mcast : Bool) (hc : ∀ p ∈ [Part.fine], Closed R p) (h : R s) :
    R (s.toFine f p1 round mcast) := by
  unfold State.toFine
  try dsimp only
  repeat' (first | exact sub_inv (by decide) hc | (intro _; try dsimp only) | with_reducible assumption | with_reducible apply inv_ite | with_reducible apply State.modFine_inv | split)
  all_goals first | rfl | exact ⟨rfl, rfl, rfl⟩ | assumption

theorem State.fanOut_inv (x : Nat) (p1 : Pick) (round : Nat) (fine : Bool) (trunk : Bool) (hc : ∀ p ∈ [Part.regs, .sktx, .fine, .prot, .ten, .bank, .bankMem, .tly, .pcie, .tst, .out, .free], Closed R p) (h : R s) :
    R (s.fanOut x p1 round fine trunk) := by
  unfold State.fanOut
  try dsimp only
  repeat' (first | exact sub_inv (by decide) hc | (intro _; try dsimp only) | with_reducible assumption | with_reducible apply inv_ite | with_reducible apply seqAll_inv | with_reducible apply State.toFine_inv | with_reducible apply State.egress_inv | split)
  all_goals first | rfl | exact ⟨rfl, rfl, rfl⟩ | assumption

theorem State.foldPick_inv (k : Nat) (lr : Nat) (p1 : PickIn) (payload : List Byte) (hc : ∀ p ∈ [Part.regs, .lanes, .integ, .skrx, .tly], Closed R p) (h : R s) :
    R (s.foldPick k lr p1 payload) := by
  unfold State.foldPick
  try dsimp only
  repeat' (first | exact sub_inv (by decide) hc | (intro _; try dsimp only) | with_reducible assumption | with_reducible apply inv_ite | with_reducible apply State.when_inv | with_reducible apply State.modLane_inv | with_reducible apply State.trailFold_inv | with_reducible apply State.accErr_inv | split)
  all_goals first | rfl | exact ⟨rfl, rfl, rfl⟩ | assumption

theorem State.loopPick_inv (k : Nat) (r : Nat) (lr : Nat) (late : Bool) (line : List Byte) (payload : List Byte) (hc : ∀ p ∈ [Part.lanes, .sktx], Closed R p) (h : R s) :
    R (s.loopPick k r lr late line payload) := by
  unfold State.loopPick
  try dsimp only
  repeat' (first | exact sub_inv (by decide) hc | (intro _; try dsimp only) | with_reducible assumption | with_reducible apply inv_ite | with_reducible apply State.when_inv | with_reducible apply State.modTx_inv | with_reducible apply State.loopPut_inv | split)
  all_goals first | rfl | exact ⟨rfl, rfl, rfl⟩ | assumption

theorem State.lostPick_inv (p1 : PickIn) (k : Nat) (rho : Nat) (hc : ∀ p ∈ [Part.regs, .bank, .bankMem, .tly, .pcie, .tst, .out, .free], Closed R p) (h : R s) :
    R (s.lostPick p1 k rho) := by
  unfold State.lostPick
  try dsimp only
  repeat' (first | exact sub_inv (by decide) hc | (intro _; try dsimp only) | with_reducible assumption | with_reducible apply inv_ite | with_reducible apply State.sampleIn_inv | with_reducible apply seqAll_inv | with_reducible apply State.fate_inv | split)
  all_goals first | rfl | exact ⟨rfl, rfl, rfl⟩ | assumption

theorem State.trunkPick_inv (p1 : PickIn) (hc : ∀ p ∈ [Part.regs, .lanes, .integ, .skrx, .sktx, .fine, .prot, .ten, .bank, .bankMem, .tly, .pcie, .tst, .out, .free], Closed R p) (h : R s) :
    R (s.trunkPick p1) := by
  unfold State.trunkPick
  try dsimp only
  repeat' (first | exact sub_inv (by decide) hc | (intro _; try dsimp only) | with_reducible assumption | with_reducible apply inv_ite | with_reducible apply State.lostPick_inv | with_reducible apply State.loopPick_inv | with_reducible apply State.foldPick_inv | with_reducible apply State.sampleIn_inv | with_reducible apply State.modRx_inv | with_reducible apply State.fanOut_inv | split)
  all_goals first | rfl | exact ⟨rfl, rfl, rfl⟩ | assumption

theorem State.finePick_inv (p1 : PickIn) (hc : ∀ p ∈ [Part.regs, .sktx, .fine, .prot, .ten, .bank, .bankMem, .tly, .pcie, .tst, .out, .free], Closed R p) (h : R s) :
    R (s.finePick p1) := by
  unfold State.finePick
  try dsimp only
  repeat' (first | exact sub_inv (by decide) hc | (intro _; try dsimp only) | with_reducible assumption | with_reducible apply inv_ite | with_reducible apply State.fanOut_inv | split)
  all_goals first | rfl | exact ⟨rfl, rfl, rfl⟩ | assumption

theorem State.switchPick_inv (p1 : PickIn) (hc : ∀ p ∈ [Part.regs, .lanes, .integ, .skrx, .sktx, .fine, .prot, .ten, .bank, .bankMem, .tly, .pcie, .tst, .out, .free], Closed R p) (h : R s) :
    R (s.switchPick p1) := by
  unfold State.switchPick
  try dsimp only
  repeat' (first | exact sub_inv (by decide) hc | (intro _; try dsimp only) | with_reducible assumption | with_reducible apply inv_ite | with_reducible apply State.incReg_inv | with_reducible apply State.finePick_inv | with_reducible apply State.trunkPick_inv | with_reducible apply State.fanOut_inv | split)
  all_goals first | rfl | exact ⟨rfl, rfl, rfl⟩ | assumption

end Sys2Proof.Machine
end

