-- ==== Sys2Proof/Laws/InvTally.lean ====
section
/-! SUPPORT. What the operations of Machine/Tally.lean keep. -/
namespace Sys2Proof.Machine

variable {R : State → Prop} {s : State}

theorem State.busyInc_inv (hc : ∀ p ∈ [Part.wvr, .tly, .free], Closed R p) (h : R s) :
    R (s.busyInc) := by
  unfold State.busyInc
  try dsimp only
  repeat' (first | exact sub_inv (by decide) hc | (intro _; try dsimp only) | with_reducible assumption | with_reducible apply inv_ite | with_reducible apply seqAll_inv | with_reducible apply State.modWeaver_inv | with_reducible apply State.freeVal_inv | with_reducible apply State.count_inv | split)
  all_goals first | rfl | exact ⟨rfl, rfl, rfl⟩ | assumption

theorem State.passInc_inv (hc : ∀ p ∈ [Part.wvr, .tly, .free], Closed R p) (h : R s) :
    R (s.passInc) := by
  unfold State.passInc
  try dsimp only
  repeat' (first | exact sub_inv (by decide) hc | (intro _; try dsimp only) | with_reducible assumption | with_reducible apply inv_ite | with_reducible apply seqAll_inv | with_reducible apply State.count_inv | with_reducible apply State.busyInc_inv | with_reducible apply State.modTly_inv | split)
  all_goals first | rfl | exact ⟨rfl, rfl, rfl⟩ | assumption

theorem State.tallyFold_inv (hc : ∀ p ∈ [Part.regs, .tly, .pcie, .out], Closed R p) (h : R s) :
    R (s.tallyFold) := by
  unfold State.tallyFold
  try dsimp only
  repeat' (first | exact sub_inv (by decide) hc | (intro _; try dsimp only) | with_reducible assumption | with_reducible apply inv_ite | with_reducible apply State.setReg_inv | with_reducible apply State.modTly_inv | with_reducible apply State.setRf_inv | with_reducible apply State.when_inv | with_reducible apply State.irq_inv | split)
  all_goals first | rfl | exact ⟨rfl, rfl, rfl⟩ | assumption

theorem execTallyFold_inv (hc : ∀ p ∈ [Part.regs, .tly, .pcie, .out], Closed R p) (h : R s) :
    OutInv R (execTallyFold s) := by
  unfold execTallyFold
  try dsimp only
  repeat' (first | exact sub_inv (by decide) hc | with_reducible apply outInv_next | with_reducible exact outInv_fault _ | with_reducible apply outInv_ite | (intro _; try dsimp only) | with_reducible assumption | with_reducible apply inv_ite | with_reducible apply State.when_inv | with_reducible apply State.tallyFold_inv | split)
  all_goals first | rfl | exact ⟨rfl, rfl, rfl⟩ | assumption

theorem State.ccmd_inv (v : Word) (hc : ∀ p ∈ [Part.regs, .tly], Closed R p) (h : R s) :
    R (s.ccmd v) := by
  unfold State.ccmd
  try dsimp only
  repeat' (first | exact sub_inv (by decide) hc | (intro _; try dsimp only) | with_reducible assumption | with_reducible apply inv_ite | with_reducible apply State.modTly_inv | with_reducible apply State.setReg_inv | with_reducible apply State.setRf_inv | split)
  all_goals first | rfl | exact ⟨rfl, rfl, rfl⟩ | assumption

theorem execTlyRead_inv (m : Mid) (hc : ∀ p ∈ [Part.regs, .wvr, .tly, .pcie, .tst, .out, .resp], Closed R p) (h : R s) :
    OutInv R (execTlyRead m s) := by
  unfold execTlyRead
  try dsimp only
  repeat' (first | exact sub_inv (by decide) hc | with_reducible apply outInv_next | with_reducible exact outInv_fault _ | with_reducible apply outInv_ite | (intro _; try dsimp only) | with_reducible assumption | with_reducible apply inv_ite | with_reducible apply State.write4_inv | with_reducible apply State.ccmd_inv | split)
  all_goals first | rfl | exact ⟨rfl, rfl, rfl⟩ | assumption

theorem execTlyClear_inv (m : Mid) (hc : ∀ p ∈ [Part.regs, .wvr, .tly, .pcie, .tst, .out, .resp], Closed R p) (h : R s) :
    OutInv R (execTlyClear m s) := by
  unfold execTlyClear
  try dsimp only
  repeat' (first | exact sub_inv (by decide) hc | with_reducible apply outInv_next | with_reducible exact outInv_fault _ | with_reducible apply outInv_ite | (intro _; try dsimp only) | with_reducible assumption | with_reducible apply inv_ite | with_reducible apply State.write4_inv | with_reducible apply State.ccmd_inv | split)
  all_goals first | rfl | exact ⟨rfl, rfl, rfl⟩ | assumption

theorem State.tlyReadDone_inv (c : Word) (hc : ∀ p ∈ [Part.regs, .tly], Closed R p) (h : R s) :
    R (s.tlyReadDone c) := by
  unfold State.tlyReadDone
  try dsimp only
  repeat' (first | exact sub_inv (by decide) hc | (intro _; try dsimp only) | with_reducible assumption | with_reducible apply inv_ite | with_reducible apply State.modTly_inv | with_reducible apply State.setRf_inv | with_reducible apply State.setReg_inv | split)
  all_goals first | rfl | exact ⟨rfl, rfl, rfl⟩ | assumption

theorem State.tlyReadLeft_inv (hc : ∀ p ∈ [Part.regs, .tly], Closed R p) (h : R s) :
    R (s.tlyReadLeft) := by
  unfold State.tlyReadLeft
  try dsimp only
  repeat' (first | exact sub_inv (by decide) hc | (intro _; try dsimp only) | with_reducible assumption | with_reducible apply inv_ite | with_reducible apply State.tlyReadDone_inv | split)
  all_goals first | rfl | exact ⟨rfl, rfl, rfl⟩ | assumption

theorem execTlyReadDone_inv (hc : ∀ p ∈ [Part.regs, .tly], Closed R p) (h : R s) :
    OutInv R (execTlyReadDone s) := by
  unfold execTlyReadDone
  try dsimp only
  repeat' (first | exact sub_inv (by decide) hc | with_reducible apply outInv_next | with_reducible exact outInv_fault _ | with_reducible apply outInv_ite | (intro _; try dsimp only) | with_reducible assumption | with_reducible apply inv_ite | with_reducible apply State.tlyReadLeft_inv | split)
  all_goals first | rfl | exact ⟨rfl, rfl, rfl⟩ | assumption

theorem State.snapCmd_inv (v : Word) (hc : ∀ p ∈ [Part.tly], Closed R p) (h : R s) :
    R (s.snapCmd v) := by
  unfold State.snapCmd
  try dsimp only
  repeat' (first | exact sub_inv (by decide) hc | (intro _; try dsimp only) | with_reducible assumption | with_reducible apply inv_ite | with_reducible apply State.when_inv | with_reducible apply State.modTly_inv | split)
  all_goals first | rfl | exact ⟨rfl, rfl, rfl⟩ | assumption

theorem execTlySnapNow_inv (m : Mid) (hc : ∀ p ∈ [Part.regs, .wvr, .tly, .pcie, .tst, .out, .resp], Closed R p) (h : R s) :
    OutInv R (execTlySnapNow m s) := by
  unfold execTlySnapNow
  try dsimp only
  repeat' (first | exact sub_inv (by decide) hc | with_reducible apply outInv_next | with_reducible exact outInv_fault _ | with_reducible apply outInv_ite | (intro _; try dsimp only) | with_reducible assumption | with_reducible apply inv_ite | with_reducible apply State.write4_inv | with_reducible apply State.snapCmd_inv | split)
  all_goals first | rfl | exact ⟨rfl, rfl, rfl⟩ | assumption

theorem execTlySnapAt_inv (m : Mid) (hc : ∀ p ∈ [Part.regs, .wvr, .tly, .pcie, .tst, .out, .resp], Closed R p) (h : R s) :
    OutInv R (execTlySnapAt m s) := by
  unfold execTlySnapAt
  try dsimp only
  repeat' (first | exact sub_inv (by decide) hc | with_reducible apply outInv_next | with_reducible exact outInv_fault _ | with_reducible apply outInv_ite | (intro _; try dsimp only) | with_reducible assumption | with_reducible apply inv_ite | with_reducible apply State.write4_inv | with_reducible apply State.snapCmd_inv | split)
  all_goals first | rfl | exact ⟨rfl, rfl, rfl⟩ | assumption

theorem State.snapTake_inv (hc : ∀ p ∈ [Part.tly], Closed R p) (h : R s) :
    R (s.snapTake) := by
  unfold State.snapTake
  try dsimp only
  repeat' (first | exact sub_inv (by decide) hc | (intro _; try dsimp only) | with_reducible assumption | with_reducible apply inv_ite | with_reducible apply State.modTly_inv | split)
  all_goals first | rfl | exact ⟨rfl, rfl, rfl⟩ | assumption

theorem State.snapshot_inv (b : Word) (hc : ∀ p ∈ [Part.regs, .tly, .pcie, .out], Closed R p) (h : R s) :
    R (s.snapshot b) := by
  unfold State.snapshot
  try dsimp only
  repeat' (first | exact sub_inv (by decide) hc | (intro _; try dsimp only) | with_reducible assumption | with_reducible apply inv_ite | with_reducible apply State.irq_inv | with_reducible apply State.setReg_inv | with_reducible apply State.modTly_inv | split)
  all_goals first | rfl | exact ⟨rfl, rfl, rfl⟩ | assumption

theorem execSnapshot_inv (hc : ∀ p ∈ [Part.regs, .tly, .pcie, .out], Closed R p) (h : R s) :
    OutInv R (execSnapshot s) := by
  unfold execSnapshot
  try dsimp only
  repeat' (first | exact sub_inv (by decide) hc | with_reducible apply outInv_next | with_reducible exact outInv_fault _ | with_reducible apply outInv_ite | (intro _; try dsimp only) | with_reducible assumption | with_reducible apply inv_ite | with_reducible apply State.snapshot_inv | split)
  all_goals first | rfl | exact ⟨rfl, rfl, rfl⟩ | assumption

theorem State.writeRecord_inv (p1 : Nat) (hc : ∀ p ∈ [Part.regs, .bank, .bankMem, .tly, .pcie, .out], Closed R p) (h : R s) :
    R (s.writeRecord p1) := by
  unfold State.writeRecord
  try dsimp only
  repeat' (first | exact sub_inv (by decide) hc | (intro _; try dsimp only) | with_reducible assumption | with_reducible apply inv_ite | with_reducible apply State.agentWrite_inv | with_reducible apply State.irq_inv | with_reducible apply State.incReg_inv | with_reducible apply State.modTly_inv | with_reducible apply State.setReg_inv | split)
  all_goals first | rfl | exact ⟨rfl, rfl, rfl⟩ | assumption

theorem execBoltRecordWrite_inv (p1 : Fin 8) (hc : ∀ p ∈ [Part.regs, .bank, .bankMem, .tly, .pcie, .out], Closed R p) (h : R s) :
    OutInv R (execBoltRecordWrite p1 s) := by
  unfold execBoltRecordWrite
  try dsimp only
  repeat' (first | exact sub_inv (by decide) hc | with_reducible apply outInv_next | with_reducible exact outInv_fault _ | with_reducible apply outInv_ite | (intro _; try dsimp only) | with_reducible assumption | with_reducible apply inv_ite | with_reducible apply State.when_inv | with_reducible apply State.writeRecord_inv | split)
  all_goals first | rfl | exact ⟨rfl, rfl, rfl⟩ | assumption

theorem State.hclr_inv (hc : ∀ p ∈ [Part.regs], Closed R p) (h : R s) :
    R (s.hclr) := by
  unfold State.hclr
  try dsimp only
  repeat' (first | exact sub_inv (by decide) hc | (intro _; try dsimp only) | with_reducible assumption | with_reducible apply inv_ite | with_reducible apply seqAll_inv | with_reducible apply State.setReg_inv | split)
  all_goals first | rfl | exact ⟨rfl, rfl, rfl⟩ | assumption

theorem execTlyHclr_inv (m : Mid) (hc : ∀ p ∈ [Part.regs, .wvr, .pcie, .tst, .out, .resp], Closed R p) (h : R s) :
    OutInv R (execTlyHclr m s) := by
  unfold execTlyHclr
  try dsimp only
  repeat' (first | exact sub_inv (by decide) hc | with_reducible apply outInv_next | with_reducible exact outInv_fault _ | with_reducible apply outInv_ite | (intro _; try dsimp only) | with_reducible assumption | with_reducible apply inv_ite | with_reducible apply State.write4_inv | with_reducible apply State.hclr_inv | split)
  all_goals first | rfl | exact ⟨rfl, rfl, rfl⟩ | assumption

theorem State.putBin_inv (w : Nat) (i : Nat) (bs : List Byte) (hc : ∀ p ∈ [Part.regs, .wvr, .bank, .bankMem, .tly, .pcie, .tst, .out, .free], Closed R p) (h : R s) :
    R (s.putBin w i bs) := by
  unfold State.putBin
  try dsimp only
  repeat' (first | exact sub_inv (by decide) hc | (intro _; try dsimp only) | with_reducible assumption | with_reducible apply inv_ite | with_reducible apply State.serviceWrite_inv | split)
  all_goals first | rfl | exact ⟨rfl, rfl, rfl⟩ | assumption

theorem State.perfBin_inv (w : Nat) (inst_ : Nat) (n : Nat) (slot0 : Nat) (slots : Nat) (b : PerfBin) (m : Word) (bs : List Byte) (hc : ∀ p ∈ [Part.regs, .wvr, .bank, .bankMem, .tly, .pcie, .tst, .out, .free], Closed R p) (h : R s) :
    R (s.perfBin w inst_ n slot0 slots b m bs).1 := by
  unfold State.perfBin
  try dsimp only
  repeat' (first | exact sub_inv (by decide) hc | (intro _; try dsimp only) | with_reducible assumption | with_reducible apply inv_ite | with_reducible apply State.putBin_inv | split)
  all_goals first | rfl | exact ⟨rfl, rfl, rfl⟩ | assumption

theorem State.perfCollect_inv (w : Nat) (p1 : Nat) (hc : ∀ p ∈ [Part.regs, .wvr, .bank, .bankMem, .tly, .pcie, .tst, .out, .free], Closed R p) (h : R s) :
    R (s.perfCollect w p1) := by
  unfold State.perfCollect
  try dsimp only
  repeat' (first | exact sub_inv (by decide) hc | (intro _; try dsimp only) | with_reducible assumption | with_reducible apply inv_ite | with_reducible apply State.wakeFor_inv | with_reducible apply State.perfBin_inv | with_reducible apply State.winTouch_inv | with_reducible apply State.modTly_inv | split)
  all_goals first | rfl | exact ⟨rfl, rfl, rfl⟩ | assumption

theorem State.perfStep_inv (p1 : Nat) (hc : ∀ p ∈ [Part.regs, .wvr, .bank, .bankMem, .tly, .pcie, .tst, .out, .free], Closed R p) (h : R s) :
    R (s.perfStep p1) := by
  unfold State.perfStep
  try dsimp only
  repeat' (first | exact sub_inv (by decide) hc | (intro _; try dsimp only) | with_reducible assumption | with_reducible apply inv_ite | with_reducible apply State.when_inv | with_reducible apply State.perfCollect_inv | split)
  all_goals first | rfl | exact ⟨rfl, rfl, rfl⟩ | assumption

theorem execPerfCollect_inv (p1 : Fin 8) (hc : ∀ p ∈ [Part.regs, .wvr, .bank, .bankMem, .tly, .pcie, .tst, .out, .free], Closed R p) (h : R s) :
    OutInv R (execPerfCollect p1 s) := by
  unfold execPerfCollect
  try dsimp only
  repeat' (first | exact sub_inv (by decide) hc | with_reducible apply outInv_next | with_reducible exact outInv_fault _ | with_reducible apply outInv_ite | (intro _; try dsimp only) | with_reducible assumption | with_reducible apply inv_ite | with_reducible apply State.perfStep_inv | split)
  all_goals first | rfl | exact ⟨rfl, rfl, rfl⟩ | assumption

end Sys2Proof.Machine
end

