-- ==== Sys2Proof/Laws/InvTenant.lean ====
section
/-! SUPPORT. What the operations of Machine/Tenant.lean keep. -/
namespace Sys2Proof.Machine

variable {R : State → Prop} {s : State}

theorem State.setTenReg_inv (a : Nat) (v : Word) (hc : ∀ p ∈ [Part.regs, .tly], Closed R p) (h : R s) :
    R (s.setTenReg a v) := by
  unfold State.setTenReg
  try dsimp only
  repeat' (first | exact sub_inv (by decide) hc | (intro _; try dsimp only) | with_reducible assumption | with_reducible apply inv_ite | with_reducible apply State.setReg_inv | with_reducible apply State.modTly_inv | split)
  all_goals first | rfl | exact ⟨rfl, rfl, rfl⟩ | assumption

theorem State.putTenant_inv (k : Nat) (t : Nat) (hc : ∀ p ∈ [Part.regs, .tly], Closed R p) (h : R s) :
    R (s.putTenant k t) := by
  unfold State.putTenant
  try dsimp only
  repeat' (first | exact sub_inv (by decide) hc | (intro _; try dsimp only) | with_reducible assumption | with_reducible apply inv_ite | with_reducible apply State.setTenReg_inv | split)
  all_goals first | rfl | exact ⟨rfl, rfl, rfl⟩ | assumption

theorem State.tenDrain_inv (w n : Nat) (hc : ∀ p ∈ [Part.regs, .wvr, .ten, .bank, .bankMem, .tly, .pcie, .tst, .out, .free], Closed R p) (h : R s) : R (State.tenDrain w n s) := by
  induction n generalizing s with
  | zero => exact h
  | succ n ih =>
    unfold State.tenDrain
    repeat' split
    all_goals first
      | exact h
      | exact ih (State.irq_inv _ _ (sub_inv (by decide) hc) (State.modTen_inv _ (sub_inv (by decide) hc)
          (State.ringWrite_inv _ _ _ _ _ (sub_inv (by decide) hc) h)))

theorem State.tenOut_inv (w : Nat) (r : List Byte) (hc : ∀ p ∈ [Part.regs, .wvr, .ten, .bank, .bankMem, .tly, .pcie, .tst, .out, .free], Closed R p) (h : R s) :
    R (s.tenOut w r) := by
  unfold State.tenOut
  try dsimp only
  repeat' (first | exact sub_inv (by decide) hc | (intro _; try dsimp only) | with_reducible assumption | with_reducible apply inv_ite | with_reducible apply State.tenDrain_inv | with_reducible apply State.irq_inv | with_reducible apply State.ringWrite_inv | with_reducible apply State.modTen_inv | with_reducible apply State.setReg_inv | split)
  all_goals first | rfl | exact ⟨rfl, rfl, rfl⟩ | assumption

theorem State.tenEvOut_inv (w : Nat) (e : List Byte) (hc : ∀ p ∈ [Part.regs, .wvr, .ten, .bank, .bankMem, .tly, .pcie, .tst, .out, .free], Closed R p) (h : R s) :
    R (s.tenEvOut w e) := by
  unfold State.tenEvOut
  try dsimp only
  repeat' (first | exact sub_inv (by decide) hc | (intro _; try dsimp only) | with_reducible assumption | with_reducible apply inv_ite | with_reducible apply State.tenDrain_inv | with_reducible apply State.irq_inv | with_reducible apply State.ringWrite_inv | with_reducible apply State.modTen_inv | with_reducible apply State.incReg_inv | split)
  all_goals first | rfl | exact ⟨rfl, rfl, rfl⟩ | assumption

theorem State.tenServe_inv (op : Nat) (f : Nat → List Byte → State → State) (hc : ∀ p ∈ [Part.regs, .wvr, .ten, .bank, .bankMem, .tly, .pcie, .tst, .out, .free], Closed R p) (h : R s) (hf : ∀ y0 y1 y2, R y2 → R (f y0 y1 y2)) :
    R (s.tenServe op f) := by
  unfold State.tenServe
  try dsimp only
  repeat' (first | exact sub_inv (by decide) hc | (intro _; try dsimp only) | with_reducible assumption | with_reducible apply inv_ite | with_reducible apply hf | with_reducible apply State.ringTake_inv | with_reducible apply State.tenOut_inv | split)
  all_goals first | rfl | exact ⟨rfl, rfl, rfl⟩ | assumption

theorem State.tenList_inv (w : Nat) (r : List Byte) (hc : ∀ p ∈ [Part.regs, .wvr, .ten, .bank, .bankMem, .tly, .pcie, .tst, .out, .free], Closed R p) (h : R s) :
    R (s.tenList w r) := by
  unfold State.tenList
  try dsimp only
  repeat' (first | exact sub_inv (by decide) hc | (intro _; try dsimp only) | with_reducible assumption | with_reducible apply inv_ite | with_reducible apply State.tenOut_inv | split)
  all_goals first | rfl | exact ⟨rfl, rfl, rfl⟩ | assumption

theorem execTenList_inv (hc : ∀ p ∈ [Part.regs, .wvr, .ten, .bank, .bankMem, .tly, .pcie, .tst, .out, .free], Closed R p) (h : R s) :
    OutInv R (execTenList s) := by
  unfold execTenList
  try dsimp only
  repeat' (first | exact sub_inv (by decide) hc | with_reducible apply outInv_next | with_reducible exact outInv_fault _ | with_reducible apply outInv_ite | (intro _; try dsimp only) | with_reducible assumption | with_reducible apply inv_ite | with_reducible apply State.tenServe_inv | with_reducible apply State.tenList_inv | split)
  all_goals first | rfl | exact ⟨rfl, rfl, rfl⟩ | assumption

theorem State.tenAbout_inv (w : Nat) (r : List Byte) (f : TenObj → List Byte × Bool) (hc : ∀ p ∈ [Part.regs, .wvr, .ten, .bank, .bankMem, .tly, .pcie, .tst, .out, .free], Closed R p) (h : R s) :
    R (s.tenAbout w r f) := by
  unfold State.tenAbout
  try dsimp only
  repeat' (first | exact sub_inv (by decide) hc | (intro _; try dsimp only) | with_reducible assumption | with_reducible apply inv_ite | with_reducible apply State.tenOut_inv | split)
  all_goals first | rfl | exact ⟨rfl, rfl, rfl⟩ | assumption

theorem execTenState_inv (hc : ∀ p ∈ [Part.regs, .wvr, .ten, .bank, .bankMem, .tly, .pcie, .tst, .out, .free], Closed R p) (h : R s) :
    OutInv R (execTenState s) := by
  unfold execTenState
  try dsimp only
  repeat' (first | exact sub_inv (by decide) hc | with_reducible apply outInv_next | with_reducible exact outInv_fault _ | with_reducible apply outInv_ite | (intro _; try dsimp only) | with_reducible assumption | with_reducible apply inv_ite | with_reducible apply State.tenServe_inv | with_reducible apply State.tenAbout_inv | split)
  all_goals first | rfl | exact ⟨rfl, rfl, rfl⟩ | assumption

theorem execTenCount_inv (hc : ∀ p ∈ [Part.regs, .wvr, .ten, .bank, .bankMem, .tly, .pcie, .tst, .out, .free], Closed R p) (h : R s) :
    OutInv R (execTenCount s) := by
  unfold execTenCount
  try dsimp only
  repeat' (first | exact sub_inv (by decide) hc | with_reducible apply outInv_next | with_reducible exact outInv_fault _ | with_reducible apply outInv_ite | (intro _; try dsimp only) | with_reducible assumption | with_reducible apply inv_ite | with_reducible apply State.tenServe_inv | with_reducible apply State.tenAbout_inv | split)
  all_goals first | rfl | exact ⟨rfl, rfl, rfl⟩ | assumption

theorem State.tenProt_inv (w : Nat) (r : List Byte) (hc : ∀ p ∈ [Part.regs, .wvr, .ten, .bank, .bankMem, .tly, .pcie, .tst, .out, .free], Closed R p) (h : R s) :
    R (s.tenProt w r) := by
  unfold State.tenProt
  try dsimp only
  repeat' (first | exact sub_inv (by decide) hc | (intro _; try dsimp only) | with_reducible assumption | with_reducible apply inv_ite | with_reducible apply State.tenOut_inv | split)
  all_goals first | rfl | exact ⟨rfl, rfl, rfl⟩ | assumption

theorem execTenProt_inv (hc : ∀ p ∈ [Part.regs, .wvr, .ten, .bank, .bankMem, .tly, .pcie, .tst, .out, .free], Closed R p) (h : R s) :
    OutInv R (execTenProt s) := by
  unfold execTenProt
  try dsimp only
  repeat' (first | exact sub_inv (by decide) hc | with_reducible apply outInv_next | with_reducible exact outInv_fault _ | with_reducible apply outInv_ite | (intro _; try dsimp only) | with_reducible assumption | with_reducible apply inv_ite | with_reducible apply State.tenServe_inv | with_reducible apply State.tenProt_inv | split)
  all_goals first | rfl | exact ⟨rfl, rfl, rfl⟩ | assumption

theorem State.tenEventsBy_inv (w : Nat) (tens : List Nat) (kind : Nat) (obj : Nat → Nat) (group : Nat) (data : Word) (hc : ∀ p ∈ [Part.regs, .wvr, .ten, .bank, .bankMem, .tly, .pcie, .tst, .out, .free], Closed R p) (h : R s) :
    R (s.tenEventsBy w tens kind obj group data) := by
  unfold State.tenEventsBy
  try dsimp only
  repeat' (first | exact sub_inv (by decide) hc | (intro _; try dsimp only) | with_reducible assumption | with_reducible apply inv_ite | with_reducible apply seqAll_inv | with_reducible apply State.tenEvOut_inv | split)
  all_goals first | rfl | exact ⟨rfl, rfl, rfl⟩ | assumption

theorem State.tenEvents_inv (w : Nat) (tens : List Nat) (kind : Nat) (obj : Nat) (group : Nat) (data : Word) (hc : ∀ p ∈ [Part.regs, .wvr, .ten, .bank, .bankMem, .tly, .pcie, .tst, .out, .free], Closed R p) (h : R s) :
    R (s.tenEvents w tens kind obj group data) := by
  unfold State.tenEvents
  try dsimp only
  repeat' (first | exact sub_inv (by decide) hc | (intro _; try dsimp only) | with_reducible assumption | with_reducible apply inv_ite | with_reducible apply State.tenEventsBy_inv | split)
  all_goals first | rfl | exact ⟨rfl, rfl, rfl⟩ | assumption

theorem State.tenEventOf_inv (w : Nat) (a : TenEvent) (hc : ∀ p ∈ [Part.regs, .wvr, .ten, .bank, .bankMem, .tly, .pcie, .tst, .out, .free], Closed R p) (h : R s) :
    R (s.tenEventOf w a) := by
  unfold State.tenEventOf
  try dsimp only
  repeat' (first | exact sub_inv (by decide) hc | (intro _; try dsimp only) | with_reducible assumption | with_reducible apply inv_ite | with_reducible apply State.tenEvents_inv | with_reducible apply State.tenEventsBy_inv | split)
  all_goals first | rfl | exact ⟨rfl, rfl, rfl⟩ | assumption

theorem State.tenEventNext_inv (hc : ∀ p ∈ [Part.regs, .wvr, .ten, .bank, .bankMem, .tly, .pcie, .tst, .out, .free], Closed R p) (h : R s) :
    R (s.tenEventNext) := by
  unfold State.tenEventNext
  try dsimp only
  repeat' (first | exact sub_inv (by decide) hc | (intro _; try dsimp only) | with_reducible assumption | with_reducible apply inv_ite | with_reducible apply State.tenEventOf_inv | with_reducible apply State.modTen_inv | split)
  all_goals first | rfl | exact ⟨rfl, rfl, rfl⟩ | assumption

theorem State.tenEventsLeft_inv (hc : ∀ p ∈ [Part.regs, .wvr, .ten, .bank, .bankMem, .tly, .pcie, .tst, .out, .free], Closed R p) (h : R s) :
    R (s.tenEventsLeft) := by
  unfold State.tenEventsLeft
  try dsimp only
  repeat' (first | exact sub_inv (by decide) hc | (intro _; try dsimp only) | with_reducible assumption | with_reducible apply inv_ite | with_reducible apply seqAll_inv | with_reducible apply State.tenEventNext_inv | with_reducible apply State.modTen_inv | split)
  all_goals first | rfl | exact ⟨rfl, rfl, rfl⟩ | assumption

theorem execTenantEventWrite_inv (e : TenEvent) (hc : ∀ p ∈ [Part.regs, .wvr, .ten, .bank, .bankMem, .tly, .pcie, .tst, .out, .free], Closed R p) (h : R s) :
    OutInv R (execTenantEventWrite e s) := by
  unfold execTenantEventWrite
  try dsimp only
  repeat' (first | exact sub_inv (by decide) hc | with_reducible apply outInv_next | with_reducible exact outInv_fault _ | with_reducible apply outInv_ite | (intro _; try dsimp only) | with_reducible assumption | with_reducible apply inv_ite | with_reducible apply State.when_inv | with_reducible apply State.tenEventNext_inv | split)
  all_goals first | rfl | exact ⟨rfl, rfl, rfl⟩ | assumption

theorem State.putGrant_inv (i : Nat) (g : Nat × Nat × Nat) (hc : ∀ p ∈ [Part.regs], Closed R p) (h : R s) :
    R (s.putGrant i g) := by
  unfold State.putGrant
  try dsimp only
  repeat' (first | exact sub_inv (by decide) hc | (intro _; try dsimp only) | with_reducible assumption | with_reducible apply inv_ite | with_reducible apply State.setReg_inv | split)
  all_goals first | rfl | exact ⟨rfl, rfl, rfl⟩ | assumption

theorem State.askForeman_inv {s0 : State} (w f : Nat) (act : State → State) (hc : ∀ p ∈ [Part.regs, .wvr, .fmn, .bank, .bankMem, .skid, .tly, .pcie, .out, .free], Closed R p) (h0 : R s0) (h : R s) (hf : ∀ y, R y → R (act y)) :
    R (s0.askForeman w f act s) := by
  unfold State.askForeman
  dsimp only
  have ha := State.skidAlloc_inv w (sub_inv (by decide) hc) h
  refine inv_ite h0 (State.skidFreeWrite_inv _ _ (sub_inv (by decide) hc) (hf _ (State.setBuf_inv _ _ _ (sub_inv (by decide) hc)
    (State.setInbox_inv _ _ (sub_inv (by decide) hc) (State.post_inv _ _ _ (sub_inv (by decide) hc) (seqAll_inv _ _ (hc .free (by decide) _ _ ha)
      (fun x y hy => State.setBufWord_inv _ _ _ (sub_inv (by decide) hc) hy)))))))

theorem State.handoff_inv {s0 : State} (w : Nat) (r : List Byte) (hc : ∀ p ∈ [Part.regs, .trd, .fine, .wvr, .ten, .fmn, .mbx, .bank, .bankMem, .skid, .tly, .pcie, .tst, .out, .free], Closed R p) (h0 : R s0) (h : R s) : R (s0.handoff w r s) := by
  unfold State.handoff
  dsimp only
  split
  · refine inv_ite (State.tenOut_inv _ _ (sub_inv (by decide) hc) h) (inv_ite (State.tenOut_inv _ _ (sub_inv (by decide) hc) h) (inv_ite h0
      (inv_ite (State.tenOut_inv _ _ (sub_inv (by decide) hc) h) (State.askForeman_inv _ _ _ (sub_inv (by decide) hc) h0
        (State.putTenant_inv _ _ (sub_inv (by decide) hc) (seqAll_inv _ _ h (fun e y hy => State.putGrant_inv _ _ (sub_inv (by decide) hc) hy)))
        (fun y hy => State.modTen_inv _ (sub_inv (by decide) hc) (State.postOwn_inv _ _ _ _ (sub_inv (by decide) hc) hy))))))
  · exact State.tenOut_inv _ _ (sub_inv (by decide) hc) h

theorem execTenHandoff_inv (hc : ∀ p ∈ [Part.regs, .trd, .fine, .wvr, .ten, .fmn, .mbx, .bank, .bankMem, .skid, .tly, .pcie, .tst, .out, .free], Closed R p) (h : R s) : OutInv R (execTenHandoff s) := by
  refine outInv_next ?_
  unfold State.tenServe
  split
  · exact h
  · dsimp only
    have h1 := fun w => State.ringTake_inv w (tenA 0x50) (tenA 0x54) (tenA 0x5C) 32 (sub_inv (by decide) hc) h
    exact inv_ite (State.handoff_inv _ _ (sub_inv (by decide) hc) h (h1 _))
      (inv_ite h (State.tenOut_inv _ _ (sub_inv (by decide) hc) (h1 _)))

theorem State.handoffEnd_inv (w : Nat) (h1 : Handoff) (st : Nat) (b : Word) (hc : ∀ p ∈ [Part.regs, .wvr, .ten, .bank, .bankMem, .tly, .pcie, .tst, .out, .free], Closed R p) (h : R s) :
    R (s.handoffEnd w h1 st b) := by
  unfold State.handoffEnd
  try dsimp only
  repeat' (first | exact sub_inv (by decide) hc | (intro _; try dsimp only) | with_reducible assumption | with_reducible apply inv_ite | with_reducible apply State.modTen_inv | with_reducible apply State.tenEvents_inv | with_reducible apply State.tenOut_inv | with_reducible apply State.putTenant_inv | with_reducible apply seqAll_inv | with_reducible apply State.setReg_inv | split)
  all_goals first | rfl | exact ⟨rfl, rfl, rfl⟩ | assumption

theorem State.retagRead_inv (h1 : Handoff) (hc : ∀ p ∈ [Part.regs, .ten, .fmn, .mbx, .bank, .pcie, .tst, .out], Closed R p) (h : R s) :
    R (s.retagRead h1) := by
  unfold State.retagRead
  try dsimp only
  repeat' (first | exact sub_inv (by decide) hc | (intro _; try dsimp only) | with_reducible assumption | with_reducible apply inv_ite | with_reducible apply State.readDone_inv | split)
  all_goals first | rfl | exact ⟨rfl, rfl, rfl⟩ | assumption

theorem execHandoffRetagDone_inv (hc : ∀ p ∈ [Part.regs, .wvr, .ten, .fmn, .mbx, .bank, .bankMem, .tly, .pcie, .tst, .out, .free], Closed R p) (h : R s) :
    OutInv R (execHandoffRetagDone s) := by
  unfold execHandoffRetagDone
  try dsimp only
  repeat' (first | exact sub_inv (by decide) hc | with_reducible apply outInv_next | with_reducible exact outInv_fault _ | with_reducible apply outInv_ite | (intro _; try dsimp only) | with_reducible assumption | with_reducible apply inv_ite | with_reducible apply State.retagRead_inv | with_reducible apply State.handoffEnd_inv | split)
  all_goals first | rfl | exact ⟨rfl, rfl, rfl⟩ | assumption

theorem State.tenLost_inv (hc : ∀ p ∈ [Part.regs, .ten, .pcie, .out], Closed R p) (h : R s) :
    R (s.tenLost) := by
  unfold State.tenLost
  try dsimp only
  repeat' (first | exact sub_inv (by decide) hc | (intro _; try dsimp only) | with_reducible assumption | with_reducible apply inv_ite | with_reducible apply State.irq_inv | with_reducible apply State.modTen_inv | split)
  all_goals first | rfl | exact ⟨rfl, rfl, rfl⟩ | assumption

theorem execTenAgentLost_inv (hc : ∀ p ∈ [Part.regs, .ten, .pcie, .out], Closed R p) (h : R s) :
    OutInv R (execTenAgentLost s) := by
  unfold execTenAgentLost
  try dsimp only
  repeat' (first | exact sub_inv (by decide) hc | with_reducible apply outInv_next | with_reducible exact outInv_fault _ | with_reducible apply outInv_ite | (intro _; try dsimp only) | with_reducible assumption | with_reducible apply inv_ite | with_reducible apply State.tenLost_inv | split)
  all_goals first | rfl | exact ⟨rfl, rfl, rfl⟩ | assumption

end Sys2Proof.Machine
end

