-- ==== Sys2Proof/Laws/InvRead.lean ====
section
/-! SUPPORT. What the operations of Machine/Read.lean keep. -/
namespace Sys2Proof.Machine

variable {R : State → Prop} {s : State}

theorem State.readEffect_inv (m : Mid) (a : Nat) (b : Blk) (i o : Nat) (r : Word × State) (hc : ∀ p ∈ [Part.regs, .prot, .beat, .wvr, .fmn, .skid, .pcie, .out, .free], Closed R p) (h : R s)
    (hr : s.readEffect m a b i o = some r) : R r.2 := by
  unfold State.readEffect at hr
  split at hr
  case h_12 =>
    split at hr
    · injection hr with hr; subst hr; exact State.setReg_inv _ _ (sub_inv (by decide) hc) h
    · cases hr
  all_goals (injection hr with hr; subst hr)
  · exact State.dcoRead_inv (sub_inv (by decide) hc) h
  · exact State.popEvq_inv (sub_inv (by decide) hc) h
  · exact State.popChgq_inv (sub_inv (by decide) hc) h
  · exact State.wvrPop_inv _ _ (sub_inv (by decide) hc) h
  · exact State.freeVal_inv (sub_inv (by decide) hc) h
  · exact State.fmnPop_inv _ (sub_inv (by decide) hc) h
  · exact State.skidAlloc_inv _ (sub_inv (by decide) hc) h
  · exact State.lowmarkRead_inv (sub_inv (by decide) hc) h
  · exact State.freeVal_inv (sub_inv (by decide) hc) h
  · exact State.readRd3_inv (sub_inv (by decide) hc) h
  · exact State.unitRead_inv _ _ (sub_inv (by decide) hc) h

theorem State.readReg_inv (m : Mid) (a : Nat) (hc : ∀ p ∈ [Part.regs, .prot, .beat, .wvr, .fmn, .skid, .pcie, .out, .free], Closed R p) (h : R s) : R (s.readReg m a).2 := by
  unfold State.readReg
  split
  · exact h
  · split
    · rename_i hh
      exact State.readEffect_inv _ _ _ _ _ _ (sub_inv (by decide) hc) h hh
    · exact h

theorem State.readHere_inv (m : Mid) (a : Nat) (size : Nat) (hc : ∀ p ∈ [Part.regs, .prot, .beat, .wvr, .fmn, .bank, .skid, .pcie, .out, .resp, .free], Closed R p) (h : R s) :
    R (s.readHere m a size) := by
  unfold State.readHere
  try dsimp only
  repeat' (first | exact sub_inv (by decide) hc | (intro _; try dsimp only) | with_reducible assumption | with_reducible apply inv_ite | with_reducible apply State.winRead_inv | with_reducible apply State.readReg_inv | with_reducible apply State.answer_inv | split)
  all_goals first | rfl | exact ⟨rfl, rfl, rfl⟩ | assumption

theorem State.busRead1_inv (m : Mid) (a : Nat) (size : Nat) (hc : ∀ p ∈ [Part.regs, .prot, .beat, .wvr, .fmn, .bank, .skid, .pcie, .tst, .out, .resp, .free], Closed R p) (h : R s) :
    R (s.busRead1 m a size) := by
  unfold State.busRead1
  try dsimp only
  repeat' (first | exact sub_inv (by decide) hc | (intro _; try dsimp only) | with_reducible assumption | with_reducible apply inv_ite | with_reducible apply State.access_inv | with_reducible apply State.readHere_inv | split)
  all_goals first | rfl | exact ⟨rfl, rfl, rfl⟩ | assumption

theorem State.bar2Read_inv (x : Nat) (size : Nat) (hc : ∀ p ∈ [Part.regs, .prot, .beat, .wvr, .fmn, .skid, .pcie, .out, .resp, .free], Closed R p) (h : R s) :
    R (s.bar2Read x size) := by
  unfold State.bar2Read
  try dsimp only
  repeat' (first | exact sub_inv (by decide) hc | (intro _; try dsimp only) | with_reducible assumption | with_reducible apply inv_ite | with_reducible apply State.answer_inv | with_reducible apply State.readReg_inv | split)
  all_goals first | rfl | exact ⟨rfl, rfl, rfl⟩ | assumption

theorem State.busRead_inv (m : Mid) (a : Nat) (size : Nat) (hc : ∀ p ∈ [Part.regs, .prot, .beat, .wvr, .fmn, .bank, .skid, .pcie, .tst, .out, .resp, .free], Closed R p) (h : R s) :
    R (s.busRead m a size) := by
  unfold State.busRead
  try dsimp only
  repeat' (first | exact sub_inv (by decide) hc | (intro _; try dsimp only) | with_reducible assumption | with_reducible apply inv_ite | with_reducible apply State.bar2Read_inv | with_reducible apply State.refuse_inv | with_reducible apply State.busRead1_inv | with_reducible apply State.beatStatus_inv | with_reducible apply State.answer_inv | split)
  all_goals first | rfl | exact ⟨rfl, rfl, rfl⟩ | assumption

end Sys2Proof.Machine
end

