-- ==== Sys2Proof/Laws/InvBus.lean ====
section
/-! SUPPORT. What the operations of Machine/Bus.lean keep. -/
namespace Sys2Proof.Machine

variable {R : State → Prop} {s : State}

theorem State.lockedWrite_inv (m : Mid) (g : Nat) (a : Nat) (v : Word) (hc : ∀ p ∈ [Part.regs], Closed R p) (h : R s) :
    R (s.lockedWrite m g a v) := by
  unfold State.lockedWrite
  try dsimp only
  repeat' (first | exact sub_inv (by decide) hc | (intro _; try dsimp only) | with_reducible assumption | with_reducible apply inv_ite | with_reducible apply State.setReg_inv | with_reducible apply State.errlog_inv | split)
  all_goals first | rfl | exact ⟨rfl, rfl, rfl⟩ | assumption

theorem State.tstCfg_inv (m : Mid) (v : Word) (hc : ∀ p ∈ [Part.regs], Closed R p) (h : R s) :
    R (s.tstCfg m v) := by
  unfold State.tstCfg
  try dsimp only
  repeat' (first | exact sub_inv (by decide) hc | (intro _; try dsimp only) | with_reducible assumption | with_reducible apply inv_ite | with_reducible apply State.setReg_inv | with_reducible apply State.errlog_inv | split)
  all_goals first | rfl | exact ⟨rfl, rfl, rfl⟩ | assumption

theorem State.shedHookWrite_inv (i : Nat) (v : Word) (hc : ∀ p ∈ [Part.regs, .tst], Closed R p) (h : R s) :
    R (s.shedHookWrite i v) := by
  unfold State.shedHookWrite
  try dsimp only
  repeat' (first | exact sub_inv (by decide) hc | (intro _; try dsimp only) | with_reducible assumption | with_reducible apply inv_ite | with_reducible apply State.putMasked_inv | with_reducible apply State.when_inv | with_reducible apply State.modTst_inv | split)
  all_goals first | rfl | exact ⟨rfl, rfl, rfl⟩ | assumption

theorem State.prioWrite_inv (i : Nat) (v : Word) (hc : ∀ p ∈ [Part.regs], Closed R p) (h : R s) :
    R (s.prioWrite i v) := by
  unfold State.prioWrite
  try dsimp only
  repeat' (first | exact sub_inv (by decide) hc | (intro _; try dsimp only) | with_reducible assumption | with_reducible apply inv_ite | with_reducible apply State.setReg_inv | split)
  all_goals first | rfl | exact ⟨rfl, rfl, rfl⟩ | assumption

theorem State.sknWrite_inv (l : Nat) (cfg : Bool) (v : Word) (hc : ∀ p ∈ [Part.skrx], Closed R p) (h : R s) :
    R (s.sknWrite l cfg v) := by
  unfold State.sknWrite
  try dsimp only
  repeat' (first | exact sub_inv (by decide) hc | (intro _; try dsimp only) | with_reducible assumption | with_reducible apply inv_ite | with_reducible apply State.modRx_inv | split)
  all_goals first | rfl | exact ⟨rfl, rfl, rfl⟩ | assumption

theorem State.mbxWrite_inv (m : Mid) (o : Nat) (v : Word) (hc : ∀ p ∈ [Part.regs, .mbx, .pcie, .out], Closed R p) (h : R s) :
    R (s.mbxWrite m o v) := by
  unfold State.mbxWrite
  try dsimp only
  repeat' (first | exact sub_inv (by decide) hc | (intro _; try dsimp only) | with_reducible assumption | with_reducible apply inv_ite | with_reducible apply State.cqTail_inv | with_reducible apply State.mbxDrain_inv | with_reducible apply State.putMasked_inv | with_reducible apply State.errlog_inv | split)
  all_goals first | rfl | exact ⟨rfl, rfl, rfl⟩ | assumption

theorem State.dmaWrite_inv (m : Mid) (o : Nat) (v : Word) (hc : ∀ p ∈ [Part.regs, .pcie, .out], Closed R p) (h : R s) :
    R (s.dmaWrite m o v) := by
  unfold State.dmaWrite
  try dsimp only
  repeat' (first | exact sub_inv (by decide) hc | (intro _; try dsimp only) | with_reducible assumption | with_reducible apply inv_ite | with_reducible apply State.dmaCtrl_inv | with_reducible apply State.errlog_inv | with_reducible apply State.putMasked_inv | split)
  all_goals first | rfl | exact ⟨rfl, rfl, rfl⟩ | assumption

theorem State.wvrWrite_inv (m : Mid) (w : Nat) (o : Nat) (v : Word) (hc : ∀ p ∈ [Part.regs, .wvr, .fmn, .bank, .bankMem, .skid, .tly, .pcie, .tst, .out, .free], Closed R p) (h : R s) :
    R (s.wvrWrite m w o v) := by
  unfold State.wvrWrite
  try dsimp only
  repeat' (first | exact sub_inv (by decide) hc | (intro _; try dsimp only) | with_reducible assumption | with_reducible apply inv_ite | with_reducible apply State.roleReqWrite_inv | with_reducible apply State.wvrCmd_inv | with_reducible apply State.wvrPost_inv | with_reducible apply State.modWeaver_inv | with_reducible apply State.setReg_inv | with_reducible apply State.putMasked_inv | split)
  all_goals first | rfl | exact ⟨rfl, rfl, rfl⟩ | assumption

theorem State.fmnWrite_inv (m : Mid) (o : Nat) (v : Word) (hc : ∀ p ∈ [Part.regs, .wvr, .fmn, .bank, .bankMem, .skid, .tly, .pcie, .pwr, .tst, .out, .free], Closed R p) (h : R s) :
    R (s.fmnWrite m o v) := by
  unfold State.fmnWrite
  try dsimp only
  repeat' (first | exact sub_inv (by decide) hc | (intro _; try dsimp only) | with_reducible assumption | with_reducible apply inv_ite | with_reducible apply State.claimWrite_inv | with_reducible apply State.renewWrite_inv | with_reducible apply State.relWrite_inv | with_reducible apply State.fmnCtrl_inv | with_reducible apply State.noteShed_inv | with_reducible apply State.putMasked_inv | with_reducible apply State.fmnPost_inv | with_reducible apply State.selfWrite_inv | split)
  all_goals first | rfl | exact ⟨rfl, rfl, rfl⟩ | assumption

theorem State.tenWrite_inv (o : Nat) (v : Word) (hc : ∀ p ∈ [Part.regs, .wvr, .ten, .bank, .bankMem, .tly, .pcie, .tst, .out, .free], Closed R p) (h : R s) :
    R (s.tenWrite o v) := by
  unfold State.tenWrite
  try dsimp only
  repeat' (first | exact sub_inv (by decide) hc | (intro _; try dsimp only) | with_reducible assumption | with_reducible apply inv_ite | with_reducible apply State.putMasked_inv | with_reducible apply State.modTen_inv | with_reducible apply State.tenDrain_inv | split)
  all_goals first | rfl | exact ⟨rfl, rfl, rfl⟩ | assumption

theorem State.tlyWrite_inv (o : Nat) (v : Word) (hc : ∀ p ∈ [Part.regs, .tly], Closed R p) (h : R s) :
    R (s.tlyWrite o v) := by
  unfold State.tlyWrite
  try dsimp only
  repeat' (first | exact sub_inv (by decide) hc | (intro _; try dsimp only) | with_reducible assumption | with_reducible apply inv_ite | with_reducible apply State.ccmd_inv | with_reducible apply State.snapCmd_inv | with_reducible apply State.when_inv | with_reducible apply State.hclr_inv | with_reducible apply State.modTly_inv | with_reducible apply State.putMasked_inv | split)
  all_goals first | rfl | exact ⟨rfl, rfl, rfl⟩ | assumption

theorem State.tstWrite_inv (m : Mid) (o : Nat) (v : Word) (hc : ∀ p ∈ [Part.regs, .pcie, .tst, .out, .free], Closed R p) (h : R s) :
    R (s.tstWrite m o v) := by
  unfold State.tstWrite
  try dsimp only
  repeat' (first | exact sub_inv (by decide) hc | (intro _; try dsimp only) | with_reducible assumption | with_reducible apply inv_ite | with_reducible apply State.tstCfg_inv | with_reducible apply State.freeVal_inv | with_reducible apply State.emitTrace_inv | with_reducible apply State.traceCmd_inv | with_reducible apply State.putMasked_inv | split)
  all_goals first | rfl | exact ⟨rfl, rfl, rfl⟩ | assumption

theorem State.bankRegWrite_inv (m : Mid) (o : Nat) (v : Word) (hc : ∀ p ∈ [Part.regs, .bank, .bankMem, .pcie, .out], Closed R p) (h : R s) :
    R (s.bankRegWrite m o v) := by
  unfold State.bankRegWrite
  try dsimp only
  repeat' (first | exact sub_inv (by decide) hc | (intro _; try dsimp only) | with_reducible assumption | with_reducible apply inv_ite | with_reducible apply State.tcmd_inv | with_reducible apply State.fuseKeyWrite_inv | with_reducible apply State.fuseCmdWrite_inv | with_reducible apply State.ownWrite_inv | with_reducible apply State.putMasked_inv | split)
  all_goals first | rfl | exact ⟨rfl, rfl, rfl⟩ | assumption

theorem State.engWrite_inv (fe : Bool) (o : Nat) (v : Word) (hc : ∀ p ∈ [Part.regs, .loom, .trd, .fine, .bank, .bankMem, .pcie, .tst, .out], Closed R p) (h : R s) :
    R (s.engWrite fe o v) := by
  unfold State.engWrite
  try dsimp only
  repeat' (first | exact sub_inv (by decide) hc | (intro _; try dsimp only) | with_reducible assumption | with_reducible apply inv_ite | with_reducible apply State.cmdCtrl_inv | with_reducible apply State.when_inv | with_reducible apply State.fineRead_inv | with_reducible apply State.windowWrite_inv | with_reducible apply State.putMasked_inv | split)
  all_goals first | rfl | exact ⟨rfl, rfl, rfl⟩ | assumption

theorem State.lnWrite_inv (l : Nat) (o : Nat) (v : Word) (hc : ∀ p ∈ [Part.regs, .lanes, .skrx, .ten, .tly, .pcie, .out], Closed R p) (h : R s) :
    R (s.lnWrite l o v) := by
  unfold State.lnWrite
  try dsimp only
  repeat' (first | exact sub_inv (by decide) hc | (intro _; try dsimp only) | with_reducible assumption | with_reducible apply inv_ite | with_reducible apply State.when_inv | with_reducible apply State.modLane_inv | with_reducible apply State.intgWrite_inv | with_reducible apply State.sknWrite_inv | with_reducible apply State.modeWrite_inv | with_reducible apply State.putMasked_inv | split)
  all_goals first | rfl | exact ⟨rfl, rfl, rfl⟩ | assumption

theorem State.irqWrite_inv (a : Nat) (b : Blk) (v : Word) (hc : ∀ p ∈ [Part.regs, .pcie, .out], Closed R p) (h : R s) :
    R (s.irqWrite a b v) := by
  unfold State.irqWrite
  try dsimp only
  repeat' (first | exact sub_inv (by decide) hc | (intro _; try dsimp only) | with_reducible assumption | with_reducible apply inv_ite | with_reducible apply State.settle_inv | with_reducible apply State.setReg_inv | with_reducible apply State.putMasked_inv | with_reducible apply State.irq_inv | split)
  all_goals first | rfl | exact ⟨rfl, rfl, rfl⟩ | assumption

theorem State.beatWrite_inv (m : Mid) (o : Nat) (v : Word) (t : State) (hc : ∀ p ∈ [Part.regs, .beat, .pcie, .out], Closed R p) (h : R s) (ht : s.beatWrite m o v = some t) : R t := by
  unfold State.beatWrite at ht
  repeat' split at ht
  all_goals first
    | (injection ht with ht; subst ht
       first
         | exact State.dcoWrite_inv _ _ _ (sub_inv (by decide) hc) h
         | exact State.alignCmd_inv _ (sub_inv (by decide) hc) h
         | exact State.candWrite_inv _ _ (sub_inv (by decide) hc) h
         | exact State.when_inv _ _ h (fun s h => State.modBeat_inv _ (sub_inv (by decide) hc) h))
    | cases ht

theorem State.bmyWrite_inv (m : Mid) (o : Nat) (v : Word) (t : State) (hc : ∀ p ∈ [Part.regs, .bmy, .wvr, .bank, .bankMem, .tly, .pcie, .tst, .out, .free], Closed R p) (h : R s) (ht : s.bmyWrite m o v = some t) : R t := by
  unfold State.bmyWrite at ht
  split at ht
  case h_6 => cases ht
  all_goals (injection ht with ht; subst ht)
  · exact State.devidWrite_inv _ _ (sub_inv (by decide) hc) h
  · exact State.modBmy_inv _ (sub_inv (by decide) hc) (State.setReg_inv _ _ (sub_inv (by decide) hc) h)
  · exact seqAll_inv _ _ (State.setReg_inv _ _ (sub_inv (by decide) hc) h) (fun _ _ h => State.modNbr_inv _ _ (sub_inv (by decide) hc) h)
  · exact seqAll_inv _ _ (State.setReg_inv _ _ (sub_inv (by decide) hc) h) (fun _ _ h => State.modNbr_inv _ _ (sub_inv (by decide) hc) h)
  · exact State.bmyDrain_inv _ (sub_inv (by decide) hc) (State.setReg_inv _ _ (sub_inv (by decide) hc) h)

theorem State.regWrite_inv (m : Mid) (a : Nat) (v : Word) (hc : ∀ p ∈ [Part.regs, .lanes, .skrx, .loom, .trd, .fine, .prot, .blz, .beat, .bmy, .wvr, .ten, .fmn, .mbx, .bank, .bankMem, .skid, .tly, .pcie, .pwr, .tst, .out, .free], Closed R p) (h : R s) :
    R (s.regWrite m a v) := by
  unfold State.regWrite
  try dsimp only
  repeat' (first | exact sub_inv (by decide) hc | (intro _; try dsimp only) | with_reducible assumption | with_reducible apply inv_ite | with_reducible apply State.unitWrite_inv | with_reducible apply State.irqWrite_inv | with_reducible apply State.shedHookWrite_inv | with_reducible apply State.putMasked_inv | with_reducible apply State.rstKey_inv | with_reducible apply State.rstCmd_inv | with_reducible apply State.eoi_inv | with_reducible apply State.settle_inv | with_reducible apply State.domWrite_inv | with_reducible apply State.fmnWrite_inv | with_reducible apply State.prioWrite_inv | with_reducible apply State.tlyWrite_inv | with_reducible apply State.tstWrite_inv | with_reducible apply State.mbxWrite_inv | with_reducible apply State.lnWrite_inv | with_reducible apply State.when_inv | with_reducible apply State.hdlRead_inv | with_reducible apply State.engWrite_inv | with_reducible apply State.asgWrite_inv | with_reducible apply State.setTenReg_inv | with_reducible apply State.agentHb_inv | with_reducible apply State.gcfgWrite_inv | with_reducible apply State.gcmdWrite_inv | with_reducible apply State.lockedWrite_inv | with_reducible apply State.farWrite_inv | with_reducible apply State.selvWrite_inv | with_reducible apply State.tenWrite_inv | with_reducible apply State.wvrWrite_inv | with_reducible apply State.bankRegWrite_inv | with_reducible apply State.skidFreeWrite_inv | with_reducible apply State.dmaWrite_inv | split)
  all_goals try first | exact State.beatWrite_inv _ _ _ _ (sub_inv (by decide) hc) h ‹_› | exact State.bmyWrite_inv _ _ _ _ (sub_inv (by decide) hc) h ‹_›
  all_goals first | rfl | exact ⟨rfl, rfl, rfl⟩ | assumption

theorem State.regAccess_inv (m : Mid) (a : Nat) (v : Word) (hc : ∀ p ∈ [Part.regs, .lanes, .skrx, .loom, .trd, .fine, .prot, .blz, .beat, .bmy, .wvr, .ten, .fmn, .mbx, .bank, .bankMem, .skid, .tly, .pcie, .pwr, .tst, .out, .resp, .free], Closed R p) (h : R s) :
    R (s.regAccess m a v) := by
  unfold State.regAccess
  try dsimp only
  repeat' (first | exact sub_inv (by decide) hc | (intro _; try dsimp only) | with_reducible assumption | with_reducible apply inv_ite | with_reducible apply State.write4_inv | with_reducible apply State.regWrite_inv | split)
  all_goals first | rfl | exact ⟨rfl, rfl, rfl⟩ | assumption

theorem State.bar2Write_inv (x size : Nat) (v : BitVec 64) (hc : ∀ p ∈ [Part.regs, .lanes, .skrx, .loom, .trd, .fine, .prot, .blz, .beat, .bmy, .wvr, .ten, .fmn, .mbx, .mbxMem, .bank, .bankMem, .skid, .tly, .pcie, .pwr, .tst, .out, .free], Closed R p) (h : R s) : R (s.bar2Write x size v) := by
  have hm : ∀ bs, R (s.modMbx (fun b => { b with mem := Memory.writeN b.mem x bs })) := fun bs => (hc .mbxMem (by decide)).1 s x bs h
  have hw : ∀ {s}, R s → ∀ a w, R (s.regWrite 66 a w) := fun h a w => State.regWrite_inv _ _ _ (sub_inv (by decide) hc) h
  unfold State.bar2Write
  dsimp only
  exact inv_ite h (inv_ite (hm _) (inv_ite (inv_ite (hw h _ _) (inv_ite (hw (hw h _ _) _ _) h))
    (inv_ite (inv_ite (State.vecMask_inv _ _ (sub_inv (by decide) hc) (hm _)) (hm _)) h)))

theorem State.busWrite_inv (m : Mid) (a : Nat) (size : Nat) (v : BitVec 64) (clash : Bool) (hc : ∀ p ∈ [Part.regs, .lanes, .skrx, .loom, .trd, .fine, .prot, .blz, .beat, .bmy, .wvr, .ten, .fmn, .mbx, .mbxMem, .bank, .bankMem, .skid, .tly, .pcie, .pwr, .tst, .out, .resp, .free], Closed R p) (h : R s) :
    R (s.busWrite m a size v clash) := by
  unfold State.busWrite
  try dsimp only
  repeat' (first | exact sub_inv (by decide) hc | (intro _; try dsimp only) | with_reducible assumption | with_reducible apply inv_ite | with_reducible apply State.answer_inv | with_reducible apply State.bar2Write_inv | with_reducible apply State.access_inv | with_reducible apply State.hostWrite_inv | with_reducible apply State.winWrite_inv | with_reducible apply State.regAccess_inv | with_reducible apply State.refuse_inv | with_reducible apply State.beatStatus_inv | split)
  all_goals first | rfl | exact ⟨rfl, rfl, rfl⟩ | assumption

theorem State.busBurst_inv (q : ShedReq) (hc : ∀ p ∈ [Part.regs, .lanes, .skrx, .loom, .trd, .fine, .prot, .blz, .beat, .bmy, .wvr, .ten, .fmn, .mbx, .mbxMem, .bank, .bankMem, .skid, .tly, .pcie, .pwr, .tst, .out, .resp, .free], Closed R p) (h : R s) :
    R (s.busBurst q) := by
  unfold State.busBurst
  try dsimp only
  repeat' (first | exact sub_inv (by decide) hc | (intro _; try dsimp only) | with_reducible assumption | with_reducible apply inv_ite | with_reducible apply State.burst_inv | with_reducible apply State.busWrite_inv | split)
  all_goals first | rfl | exact ⟨rfl, rfl, rfl⟩ | assumption

theorem State.hostStore_inv (a : Nat) (bs : List Byte) (v : BusData) (hc : ∀ p ∈ [Part.regs, .lanes, .skrx, .loom, .trd, .fine, .prot, .blz, .beat, .bmy, .wvr, .ten, .fmn, .mbx, .mbxMem, .bank, .bankMem, .skid, .tly, .pcie, .pwr, .tst, .out, .resp, .free], Closed R p) (h : R s) :
    R (s.hostStore a bs v) := by
  unfold State.hostStore
  try dsimp only
  repeat' (first | exact sub_inv (by decide) hc | (intro _; try dsimp only) | with_reducible assumption | with_reducible apply inv_ite | with_reducible apply seqAll_inv | with_reducible apply State.busWrite_inv | split)
  all_goals first | rfl | exact ⟨rfl, rfl, rfl⟩ | assumption

theorem State.busStore_inv (m : Mid) (a : Nat) (size : Nat) (v : BusData) (hc : ∀ p ∈ [Part.regs, .lanes, .skrx, .loom, .trd, .fine, .prot, .blz, .beat, .bmy, .wvr, .ten, .fmn, .mbx, .mbxMem, .bank, .bankMem, .skid, .tly, .pcie, .pwr, .tst, .out, .resp, .free], Closed R p) (h : R s) :
    R (s.busStore m a size v) := by
  unfold State.busStore
  try dsimp only
  repeat' (first | exact sub_inv (by decide) hc | (intro _; try dsimp only) | with_reducible assumption | with_reducible apply inv_ite | with_reducible apply State.hostStore_inv | with_reducible apply State.busWrite_inv | with_reducible apply State.busBurst_inv | split)
  all_goals first | rfl | exact ⟨rfl, rfl, rfl⟩ | assumption

theorem State.complete_inv (e : ShedReq) (hc : ∀ p ∈ [Part.regs, .lanes, .skrx, .loom, .trd, .fine, .prot, .blz, .beat, .bmy, .wvr, .ten, .fmn, .mbx, .mbxMem, .bank, .bankMem, .skid, .tly, .pcie, .pwr, .tst, .out, .resp, .free], Closed R p) (h : R s) :
    R (s.complete e) := by
  unfold State.complete
  try dsimp only
  repeat' (first | exact sub_inv (by decide) hc | (intro _; try dsimp only) | with_reducible assumption | with_reducible apply inv_ite | with_reducible apply State.busWrite_inv | with_reducible apply State.busBurst_inv | with_reducible apply State.bankBurst_inv | with_reducible apply State.bankLoad_inv | with_reducible apply State.busRead_inv | with_reducible apply State.send_inv | split)
  all_goals first | rfl | exact ⟨rfl, rfl, rfl⟩ | assumption

theorem State.holdsLeft_inv (hc : ∀ p ∈ [Part.regs, .lanes, .skrx, .loom, .trd, .fine, .prot, .blz, .beat, .bmy, .wvr, .ten, .fmn, .mbx, .mbxMem, .bank, .bankMem, .skid, .tly, .pcie, .pwr, .tst, .out, .resp, .free], Closed R p) (h : R s) :
    R (s.holdsLeft) := by
  unfold State.holdsLeft
  try dsimp only
  repeat' (first | exact sub_inv (by decide) hc | (intro _; try dsimp only) | with_reducible assumption | with_reducible apply inv_ite | with_reducible apply State.when_inv | with_reducible apply seqAll_inv | with_reducible apply State.hostWrite_inv | with_reducible apply State.modPcie_inv | with_reducible apply State.complete_inv | with_reducible apply State.modTst_inv | split)
  all_goals first | rfl | exact ⟨rfl, rfl, rfl⟩ | assumption

theorem execRegisterWrite_inv (m : Mid) (addr : BitVec 27) (size : Nat) (v : BusData) (hc : ∀ p ∈ [Part.regs, .lanes, .skrx, .loom, .trd, .fine, .prot, .blz, .beat, .bmy, .wvr, .ten, .fmn, .mbx, .mbxMem, .bank, .bankMem, .skid, .tly, .pcie, .pwr, .tst, .out, .resp, .free], Closed R p) (h : R s) :
    OutInv R (execRegisterWrite m addr size v s) := by
  unfold execRegisterWrite
  try dsimp only
  repeat' (first | exact sub_inv (by decide) hc | with_reducible apply outInv_next | with_reducible exact outInv_fault _ | with_reducible apply outInv_ite | (intro _; try dsimp only) | with_reducible assumption | with_reducible apply inv_ite | with_reducible apply State.busStore_inv | split)
  all_goals first | rfl | exact ⟨rfl, rfl, rfl⟩ | assumption

theorem execIrqRawClear_inv (m : Mid) (page : BitVec 26) (v : Word) (same : Word) (hc : ∀ p ∈ [Part.regs, .lanes, .skrx, .loom, .trd, .fine, .prot, .blz, .beat, .bmy, .wvr, .ten, .fmn, .mbx, .bank, .bankMem, .skid, .tly, .pcie, .pwr, .tst, .out, .resp, .free], Closed R p) (h : R s) :
    OutInv R (execIrqRawClear m page v same s) := by
  unfold execIrqRawClear
  try dsimp only
  repeat' (first | exact sub_inv (by decide) hc | with_reducible apply outInv_next | with_reducible exact outInv_fault _ | with_reducible apply outInv_ite | (intro _; try dsimp only) | with_reducible assumption | with_reducible apply inv_ite | with_reducible apply State.write4_inv | with_reducible apply State.regWrite_inv | with_reducible apply State.irq_inv | split)
  all_goals first | rfl | exact ⟨rfl, rfl, rfl⟩ | assumption

theorem execIrqForce_inv (m : Mid) (page : BitVec 26) (v : Word) (hc : ∀ p ∈ [Part.regs, .lanes, .skrx, .loom, .trd, .fine, .prot, .blz, .beat, .bmy, .wvr, .ten, .fmn, .mbx, .bank, .bankMem, .skid, .tly, .pcie, .pwr, .tst, .out, .resp, .free], Closed R p) (h : R s) :
    OutInv R (execIrqForce m page v s) := by
  unfold execIrqForce
  try dsimp only
  repeat' (first | exact sub_inv (by decide) hc | with_reducible apply outInv_next | with_reducible exact outInv_fault _ | with_reducible apply outInv_ite | (intro _; try dsimp only) | with_reducible assumption | with_reducible apply inv_ite | with_reducible apply State.regAccess_inv | split)
  all_goals first | rfl | exact ⟨rfl, rfl, rfl⟩ | assumption

theorem execErrlogRead_inv (m : Mid) (page : BitVec 26) (hc : ∀ p ∈ [Part.regs, .prot, .beat, .wvr, .fmn, .bank, .skid, .pcie, .tst, .out, .resp, .free], Closed R p) (h : R s) :
    OutInv R (execErrlogRead m page s) := by
  unfold execErrlogRead
  try dsimp only
  repeat' (first | exact sub_inv (by decide) hc | with_reducible apply outInv_next | with_reducible exact outInv_fault _ | with_reducible apply outInv_ite | (intro _; try dsimp only) | with_reducible assumption | with_reducible apply inv_ite | with_reducible apply State.busRead_inv | split)
  all_goals first | rfl | exact ⟨rfl, rfl, rfl⟩ | assumption

theorem execGuardedWrite_inv (w : Fin 64) (addr : BitVec 26) (v : Word) (hc : ∀ p ∈ [Part.regs, .lanes, .skrx, .loom, .trd, .fine, .prot, .blz, .beat, .bmy, .wvr, .ten, .fmn, .mbx, .mbxMem, .bank, .bankMem, .skid, .tly, .pcie, .pwr, .tst, .out, .resp, .free], Closed R p) (h : R s) :
    OutInv R (execGuardedWrite w addr v s) := by
  unfold execGuardedWrite
  try dsimp only
  repeat' (first | exact sub_inv (by decide) hc | with_reducible apply outInv_next | with_reducible exact outInv_fault _ | with_reducible apply outInv_ite | (intro _; try dsimp only) | with_reducible assumption | with_reducible apply inv_ite | with_reducible apply State.busWrite_inv | split)
  all_goals first | rfl | exact ⟨rfl, rfl, rfl⟩ | assumption

theorem State.smbNext_inv (hc : ∀ p ∈ [Part.pwr], Closed R p) (h : R s) :
    R (s.smbNext) := by
  unfold State.smbNext
  try dsimp only
  repeat' (first | exact sub_inv (by decide) hc | (intro _; try dsimp only) | with_reducible assumption | with_reducible apply inv_ite | with_reducible apply State.modPwr_inv | split)
  all_goals first | rfl | exact ⟨rfl, rfl, rfl⟩ | assumption

theorem State.smb_inv (f : State → State) (h : R s) (hf : ∀ y0, R y0 → R (f y0)) :
    R (s.smb f) := by
  unfold State.smb
  try dsimp only
  repeat' (first | exact sub_inv (by decide) hc | (intro _; try dsimp only) | with_reducible assumption | with_reducible apply inv_ite | with_reducible apply hf | with_reducible apply State.when_inv | split)
  all_goals first | rfl | exact ⟨rfl, rfl, rfl⟩ | assumption

theorem State.smbOut_inv (bs : List Byte) (hc : ∀ p ∈ [Part.out], Closed R p) (h : R s) :
    R (s.smbOut bs) := by
  unfold State.smbOut
  try dsimp only
  repeat' (first | exact sub_inv (by decide) hc | (intro _; try dsimp only) | with_reducible assumption | with_reducible apply inv_ite | with_reducible apply State.emit_inv | split)
  all_goals first | rfl | exact ⟨rfl, rfl, rfl⟩ | assumption

theorem execSmbSetPointer_inv (v : Word) (hc : ∀ p ∈ [Part.pwr], Closed R p) (h : R s) :
    OutInv R (execSmbSetPointer v s) := by
  unfold execSmbSetPointer
  try dsimp only
  repeat' (first | exact sub_inv (by decide) hc | with_reducible apply outInv_next | with_reducible exact outInv_fault _ | with_reducible apply outInv_ite | (intro _; try dsimp only) | with_reducible assumption | with_reducible apply inv_ite | with_reducible apply State.smb_inv | with_reducible apply State.modPwr_inv | split)
  all_goals first | rfl | exact ⟨rfl, rfl, rfl⟩ | assumption

theorem execSmbReadRegister_inv (hc : ∀ p ∈ [Part.regs, .prot, .beat, .wvr, .fmn, .bank, .skid, .pcie, .pwr, .tst, .out, .resp, .free], Closed R p) (h : R s) :
    OutInv R (execSmbReadRegister s) := by
  unfold execSmbReadRegister
  try dsimp only
  repeat' (first | exact sub_inv (by decide) hc | with_reducible apply outInv_next | with_reducible exact outInv_fault _ | with_reducible apply outInv_ite | (intro _; try dsimp only) | with_reducible assumption | with_reducible apply inv_ite | with_reducible apply State.smb_inv | with_reducible apply State.busRead_inv | with_reducible apply State.answer_inv | with_reducible apply State.smbNext_inv | with_reducible apply State.when_inv | with_reducible apply State.smbOut_inv | split)
  all_goals first | rfl | exact ⟨rfl, rfl, rfl⟩ | assumption

theorem execSmbWriteRegister_inv (v : Word) (hc : ∀ p ∈ [Part.regs, .lanes, .skrx, .loom, .trd, .fine, .prot, .blz, .beat, .bmy, .wvr, .ten, .fmn, .mbx, .mbxMem, .bank, .bankMem, .skid, .tly, .pcie, .pwr, .tst, .out, .resp, .free], Closed R p) (h : R s) :
    OutInv R (execSmbWriteRegister v s) := by
  unfold execSmbWriteRegister
  try dsimp only
  repeat' (first | exact sub_inv (by decide) hc | with_reducible apply outInv_next | with_reducible exact outInv_fault _ | with_reducible apply outInv_ite | (intro _; try dsimp only) | with_reducible assumption | with_reducible apply inv_ite | with_reducible apply State.smb_inv | with_reducible apply State.smbNext_inv | with_reducible apply State.busWrite_inv | with_reducible apply State.incReg_inv | split)
  all_goals first | rfl | exact ⟨rfl, rfl, rfl⟩ | assumption

theorem execSmbReadIdentity_inv (hc : ∀ p ∈ [Part.out], Closed R p) (h : R s) :
    OutInv R (execSmbReadIdentity s) := by
  unfold execSmbReadIdentity
  try dsimp only
  repeat' (first | exact sub_inv (by decide) hc | with_reducible apply outInv_next | with_reducible exact outInv_fault _ | with_reducible apply outInv_ite | (intro _; try dsimp only) | with_reducible assumption | with_reducible apply inv_ite | with_reducible apply State.smb_inv | with_reducible apply State.smbOut_inv | split)
  all_goals first | rfl | exact ⟨rfl, rfl, rfl⟩ | assumption

theorem execSmbReadPower_inv (hc : ∀ p ∈ [Part.out], Closed R p) (h : R s) :
    OutInv R (execSmbReadPower s) := by
  unfold execSmbReadPower
  try dsimp only
  repeat' (first | exact sub_inv (by decide) hc | with_reducible apply outInv_next | with_reducible exact outInv_fault _ | with_reducible apply outInv_ite | (intro _; try dsimp only) | with_reducible assumption | with_reducible apply inv_ite | with_reducible apply State.smb_inv | with_reducible apply State.smbOut_inv | split)
  all_goals first | rfl | exact ⟨rfl, rfl, rfl⟩ | assumption

theorem execSmbReadTemperatures_inv (hc : ∀ p ∈ [Part.out], Closed R p) (h : R s) :
    OutInv R (execSmbReadTemperatures s) := by
  unfold execSmbReadTemperatures
  try dsimp only
  repeat' (first | exact sub_inv (by decide) hc | with_reducible apply outInv_next | with_reducible exact outInv_fault _ | with_reducible apply outInv_ite | (intro _; try dsimp only) | with_reducible assumption | with_reducible apply inv_ite | with_reducible apply State.smb_inv | with_reducible apply State.smbOut_inv | split)
  all_goals first | rfl | exact ⟨rfl, rfl, rfl⟩ | assumption

end Sys2Proof.Machine
end

