-- ==== Sys2Proof/Laws/InvJtag.lean ====
section
/-! SUPPORT. What the operations of Machine/Jtag.lean keep. -/
namespace Sys2Proof.Machine

variable {R : State → Prop} {s : State}

theorem State.jtagIr_inv (ir : JtagIr) (freeze : Bool) (hc : ∀ p ∈ [Part.jtag, .out], Closed R p) (h : R s) :
    R (s.jtagIr ir freeze) := by
  unfold State.jtagIr
  try dsimp only
  repeat' (first | exact sub_inv (by decide) hc | (intro _; try dsimp only) | with_reducible assumption | with_reducible apply inv_ite | with_reducible apply State.modJtag_inv | with_reducible apply State.emit_inv | split)
  all_goals first | rfl | exact ⟨rfl, rfl, rfl⟩ | assumption

theorem State.tap_inv (f : State → State) (h : R s) (hf : ∀ y0, R y0 → R (f y0)) :
    R (s.tap f) := by
  unfold State.tap
  try dsimp only
  repeat' (first | exact sub_inv (by decide) hc | (intro _; try dsimp only) | with_reducible assumption | with_reducible apply inv_ite | with_reducible apply hf | with_reducible apply State.when_inv | split)
  all_goals first | rfl | exact ⟨rfl, rfl, rfl⟩ | assumption

theorem execJtagTapReset_inv (hc : ∀ p ∈ [Part.jtag, .out], Closed R p) (h : R s) :
    OutInv R (execJtagTapReset s) := by
  unfold execJtagTapReset
  try dsimp only
  repeat' (first | exact sub_inv (by decide) hc | with_reducible apply outInv_next | with_reducible exact outInv_fault _ | with_reducible apply outInv_ite | (intro _; try dsimp only) | with_reducible assumption | with_reducible apply inv_ite | with_reducible apply State.tap_inv | with_reducible apply State.jtagIr_inv | split)
  all_goals first | rfl | exact ⟨rfl, rfl, rfl⟩ | assumption

theorem execJtagExtest_inv (hc : ∀ p ∈ [Part.jtag, .out], Closed R p) (h : R s) :
    OutInv R (execJtagExtest s) := by
  unfold execJtagExtest
  try dsimp only
  repeat' (first | exact sub_inv (by decide) hc | with_reducible apply outInv_next | with_reducible exact outInv_fault _ | with_reducible apply outInv_ite | (intro _; try dsimp only) | with_reducible assumption | with_reducible apply inv_ite | with_reducible apply State.tap_inv | with_reducible apply State.jtagIr_inv | split)
  all_goals first | rfl | exact ⟨rfl, rfl, rfl⟩ | assumption

theorem execJtagIdcode_inv (hc : ∀ p ∈ [Part.jtag, .out], Closed R p) (h : R s) :
    OutInv R (execJtagIdcode s) := by
  unfold execJtagIdcode
  try dsimp only
  repeat' (first | exact sub_inv (by decide) hc | with_reducible apply outInv_next | with_reducible exact outInv_fault _ | with_reducible apply outInv_ite | (intro _; try dsimp only) | with_reducible assumption | with_reducible apply inv_ite | with_reducible apply State.tap_inv | with_reducible apply State.emit_inv | with_reducible apply State.jtagIr_inv | split)
  all_goals first | rfl | exact ⟨rfl, rfl, rfl⟩ | assumption

theorem execJtagSamplePreload_inv (cells : BitVec 412) (hc : ∀ p ∈ [Part.jtag, .out], Closed R p) (h : R s) :
    OutInv R (execJtagSamplePreload cells s) := by
  unfold execJtagSamplePreload
  try dsimp only
  repeat' (first | exact sub_inv (by decide) hc | with_reducible apply outInv_next | with_reducible exact outInv_fault _ | with_reducible apply outInv_ite | (intro _; try dsimp only) | with_reducible assumption | with_reducible apply inv_ite | with_reducible apply State.tap_inv | with_reducible apply State.modJtag_inv | with_reducible apply State.jtagIr_inv | split)
  all_goals first | rfl | exact ⟨rfl, rfl, rfl⟩ | assumption

theorem execJtagClamp_inv (hc : ∀ p ∈ [Part.jtag, .out], Closed R p) (h : R s) :
    OutInv R (execJtagClamp s) := by
  unfold execJtagClamp
  try dsimp only
  repeat' (first | exact sub_inv (by decide) hc | with_reducible apply outInv_next | with_reducible exact outInv_fault _ | with_reducible apply outInv_ite | (intro _; try dsimp only) | with_reducible assumption | with_reducible apply inv_ite | with_reducible apply State.tap_inv | with_reducible apply State.jtagIr_inv | split)
  all_goals first | rfl | exact ⟨rfl, rfl, rfl⟩ | assumption

theorem execJtagHighz_inv (hc : ∀ p ∈ [Part.jtag, .out], Closed R p) (h : R s) :
    OutInv R (execJtagHighz s) := by
  unfold execJtagHighz
  try dsimp only
  repeat' (first | exact sub_inv (by decide) hc | with_reducible apply outInv_next | with_reducible exact outInv_fault _ | with_reducible apply outInv_ite | (intro _; try dsimp only) | with_reducible assumption | with_reducible apply inv_ite | with_reducible apply State.tap_inv | with_reducible apply State.jtagIr_inv | split)
  all_goals first | rfl | exact ⟨rfl, rfl, rfl⟩ | assumption

theorem execJtagBypass_inv (code : Byte) (hc : ∀ p ∈ [Part.jtag, .out], Closed R p) (h : R s) :
    OutInv R (execJtagBypass code s) := by
  unfold execJtagBypass
  try dsimp only
  repeat' (first | exact sub_inv (by decide) hc | with_reducible apply outInv_next | with_reducible exact outInv_fault _ | with_reducible apply outInv_ite | (intro _; try dsimp only) | with_reducible assumption | with_reducible apply inv_ite | with_reducible apply State.when_inv | with_reducible apply State.jtagIr_inv | split)
  all_goals first | rfl | exact ⟨rfl, rfl, rfl⟩ | assumption

theorem execJtagDbgAcc_inv (v : BitVec 64) (hc : ∀ p ∈ [Part.jtag, .out], Closed R p) (h : R s) :
    OutInv R (execJtagDbgAcc v s) := by
  unfold execJtagDbgAcc
  try dsimp only
  repeat' (first | exact sub_inv (by decide) hc | with_reducible apply outInv_next | with_reducible exact outInv_fault _ | with_reducible apply outInv_ite | (intro _; try dsimp only) | with_reducible assumption | with_reducible apply inv_ite | with_reducible apply State.tap_inv | with_reducible apply State.emit_inv | with_reducible apply State.jtagIr_inv | with_reducible apply State.when_inv | with_reducible apply State.modJtag_inv | split)
  all_goals first | rfl | exact ⟨rfl, rfl, rfl⟩ | assumption

theorem State.dbgRun_inv (v : BitVec 64) (hc : ∀ p ∈ [Part.regs, .lanes, .skrx, .loom, .trd, .fine, .prot, .blz, .beat, .bmy, .wvr, .ten, .fmn, .mbx, .mbxMem, .bank, .bankMem, .skid, .tly, .pcie, .pwr, .jtag, .tst, .out, .resp, .free], Closed R p) (h : R s) :
    R (s.dbgRun v) := by
  unfold State.dbgRun
  try dsimp only
  repeat' (first | exact sub_inv (by decide) hc | (intro _; try dsimp only) | with_reducible assumption | with_reducible apply inv_ite | with_reducible apply State.busRead_inv | with_reducible apply State.busWrite_inv | with_reducible apply State.modJtag_inv | split)
  all_goals first | rfl | exact ⟨rfl, rfl, rfl⟩ | assumption

theorem execDbgAccDone_inv (hc : ∀ p ∈ [Part.regs, .lanes, .skrx, .loom, .trd, .fine, .prot, .blz, .beat, .bmy, .wvr, .ten, .fmn, .mbx, .mbxMem, .bank, .bankMem, .skid, .tly, .pcie, .pwr, .jtag, .tst, .out, .resp, .free], Closed R p) (h : R s) :
    OutInv R (execDbgAccDone s) := by
  unfold execDbgAccDone
  try dsimp only
  repeat' (first | exact sub_inv (by decide) hc | with_reducible apply outInv_next | with_reducible exact outInv_fault _ | with_reducible apply outInv_ite | (intro _; try dsimp only) | with_reducible assumption | with_reducible apply inv_ite | with_reducible apply State.dbgRun_inv | split)
  all_goals first | rfl | exact ⟨rfl, rfl, rfl⟩ | assumption

theorem execTstCfgWrite_inv (m : Mid) (v : Word) (hc : ∀ p ∈ [Part.regs, .wvr, .pcie, .tst, .out, .resp], Closed R p) (h : R s) :
    OutInv R (execTstCfgWrite m v s) := by
  unfold execTstCfgWrite
  try dsimp only
  repeat' (first | exact sub_inv (by decide) hc | with_reducible apply outInv_next | with_reducible exact outInv_fault _ | with_reducible apply outInv_ite | (intro _; try dsimp only) | with_reducible assumption | with_reducible apply inv_ite | with_reducible apply State.write4_inv | with_reducible apply State.tstCfg_inv | split)
  all_goals first | rfl | exact ⟨rfl, rfl, rfl⟩ | assumption

theorem execTstPertEnWrite_inv (m : Mid) (v : Word) (hc : ∀ p ∈ [Part.regs, .wvr, .pcie, .tst, .out, .resp], Closed R p) (h : R s) :
    OutInv R (execTstPertEnWrite m v s) := by
  unfold execTstPertEnWrite
  try dsimp only
  repeat' (first | exact sub_inv (by decide) hc | with_reducible apply outInv_next | with_reducible exact outInv_fault _ | with_reducible apply outInv_ite | (intro _; try dsimp only) | with_reducible assumption | with_reducible apply inv_ite | with_reducible apply State.write4_inv | with_reducible apply State.putMasked_inv | split)
  all_goals first | rfl | exact ⟨rfl, rfl, rfl⟩ | assumption

theorem execLnPerturbWrite_inv (m : Mid) (l : Fin 512) (i : Fin 4) (v : Word) (hc : ∀ p ∈ [Part.regs, .wvr, .pcie, .tst, .out, .resp], Closed R p) (h : R s) :
    OutInv R (execLnPerturbWrite m l i v s) := by
  unfold execLnPerturbWrite
  try dsimp only
  repeat' (first | exact sub_inv (by decide) hc | with_reducible apply outInv_next | with_reducible exact outInv_fault _ | with_reducible apply outInv_ite | (intro _; try dsimp only) | with_reducible assumption | with_reducible apply inv_ite | with_reducible apply State.write4_inv | with_reducible apply State.putMasked_inv | split)
  all_goals first | rfl | exact ⟨rfl, rfl, rfl⟩ | assumption

theorem execShedPerturbWrite_inv (m : Mid) (i : Fin 4) (v : Word) (hc : ∀ p ∈ [Part.regs, .wvr, .pcie, .tst, .out, .resp], Closed R p) (h : R s) :
    OutInv R (execShedPerturbWrite m i v s) := by
  unfold execShedPerturbWrite
  try dsimp only
  repeat' (first | exact sub_inv (by decide) hc | with_reducible apply outInv_next | with_reducible exact outInv_fault _ | with_reducible apply outInv_ite | (intro _; try dsimp only) | with_reducible assumption | with_reducible apply inv_ite | with_reducible apply State.write4_inv | with_reducible apply State.shedHookWrite_inv | split)
  all_goals first | rfl | exact ⟨rfl, rfl, rfl⟩ | assumption

theorem execBeatPerturbWrite_inv (m : Mid) (i : Fin 4) (v : Word) (hc : ∀ p ∈ [Part.regs, .wvr, .pcie, .tst, .out, .resp], Closed R p) (h : R s) :
    OutInv R (execBeatPerturbWrite m i v s) := by
  unfold execBeatPerturbWrite
  try dsimp only
  repeat' (first | exact sub_inv (by decide) hc | with_reducible apply outInv_next | with_reducible exact outInv_fault _ | with_reducible apply outInv_ite | (intro _; try dsimp only) | with_reducible assumption | with_reducible apply inv_ite | with_reducible apply State.write4_inv | with_reducible apply State.putMasked_inv | split)
  all_goals first | rfl | exact ⟨rfl, rfl, rfl⟩ | assumption

end Sys2Proof.Machine
end

