-- ==== Sys2Proof/Laws/InvPolicy.lean ====
section
/-! SUPPORT. What the operations of Machine/Policy.lean keep. -/
namespace Sys2Proof.Machine

variable {R : State → Prop} {s : State}

theorem State.polMeasure_inv {e : State} {a : State} (w : Nat) (hc : ∀ p ∈ [Part.wvr], Closed R p) (h : R e) (h : R a) (h : R s) :
    R (e.polMeasure a w s) := by
  unfold State.polMeasure
  try dsimp only
  repeat' (first | exact sub_inv (by decide) hc | (intro _; try dsimp only) | with_reducible assumption | with_reducible apply inv_ite | with_reducible apply State.modWeaver_inv | split)
  all_goals first | rfl | exact ⟨rfl, rfl, rfl⟩ | assumption

theorem State.polWatch_inv {e : State} {a : State} (hc : ∀ p ∈ [Part.wvr], Closed R p) (h : R e) (h : R a) (h : R s) :
    R (e.polWatch a s) := by
  unfold State.polWatch
  try dsimp only
  repeat' (first | exact sub_inv (by decide) hc | (intro _; try dsimp only) | with_reducible assumption | with_reducible apply inv_ite | with_reducible apply seqAll_inv | with_reducible apply State.when_inv | with_reducible apply State.polMeasure_inv | split)
  all_goals first | rfl | exact ⟨rfl, rfl, rfl⟩ | assumption

theorem State.polHold_inv (w : Nat) (g : Nat) (n : Nat) (hc : ∀ p ∈ [Part.wvr], Closed R p) (h : R s) :
    R (s.polHold w g n).2 := by
  unfold State.polHold
  try dsimp only
  repeat' (first | exact sub_inv (by decide) hc | (intro _; try dsimp only) | with_reducible assumption | with_reducible apply inv_ite | with_reducible apply State.modWeaver_inv | split)
  all_goals first | rfl | exact ⟨rfl, rfl, rfl⟩ | assumption

theorem State.polAct_inv (w : Nat) (d : Decision) (hc : ∀ p ∈ [Part.regs, .lanes, .skrx, .loom, .trd, .fine, .prot, .blz, .beat, .bmy, .wvr, .ten, .fmn, .mbx, .mbxMem, .bank, .bankMem, .skid, .tly, .pcie, .pwr, .tst, .out, .resp, .free], Closed R p) (h : R s) :
    R (s.polAct w d) := by
  unfold State.polAct
  try dsimp only
  repeat' (first | exact sub_inv (by decide) hc | (intro _; try dsimp only) | with_reducible assumption | with_reducible apply inv_ite | with_reducible apply State.busWrite_inv | with_reducible apply State.wakeFor_inv | with_reducible apply State.ringWrite_inv | split)
  all_goals first | rfl | exact ⟨rfl, rfl, rfl⟩ | assumption

theorem State.polOne_inv (w : Nat) (e : Nat × Nat) (hc : ∀ p ∈ [Part.regs, .lanes, .skrx, .loom, .trd, .fine, .prot, .blz, .beat, .bmy, .wvr, .ten, .fmn, .mbx, .mbxMem, .bank, .bankMem, .skid, .tly, .pcie, .pwr, .tst, .out, .resp, .free], Closed R p) (h : R s) :
    R (State.polOne w e s) := by
  unfold State.polOne
  try dsimp only
  repeat' (first | exact sub_inv (by decide) hc | (intro _; try dsimp only) | with_reducible assumption | with_reducible apply inv_ite | with_reducible apply State.polHold_inv | with_reducible apply State.polAct_inv | split)
  all_goals first | rfl | exact ⟨rfl, rfl, rfl⟩ | assumption

theorem State.polTake_inv (w : Nat) (meas : List (Nat × Nat)) (hc : ∀ p ∈ [Part.regs, .lanes, .skrx, .loom, .trd, .fine, .prot, .blz, .beat, .bmy, .wvr, .ten, .fmn, .mbx, .mbxMem, .bank, .bankMem, .skid, .tly, .pcie, .pwr, .tst, .out, .resp, .free], Closed R p) (h : R s) :
    R (State.polTake w meas s) := by
  unfold State.polTake
  try dsimp only
  repeat' (first | exact sub_inv (by decide) hc | (intro _; try dsimp only) | with_reducible assumption | with_reducible apply inv_ite | with_reducible apply State.when_inv | with_reducible apply seqAll_inv | with_reducible apply State.polOne_inv | with_reducible apply State.modWeaver_inv | split)
  all_goals first | rfl | exact ⟨rfl, rfl, rfl⟩ | assumption

theorem State.polRun_inv (w : Nat) (hc : ∀ p ∈ [Part.regs, .lanes, .skrx, .loom, .trd, .fine, .prot, .blz, .beat, .bmy, .wvr, .ten, .fmn, .mbx, .mbxMem, .bank, .bankMem, .skid, .tly, .pcie, .pwr, .tst, .out, .resp, .free], Closed R p) (h : R s) :
    R (State.polRun w s) := by
  unfold State.polRun
  try dsimp only
  repeat' (first | exact sub_inv (by decide) hc | (intro _; try dsimp only) | with_reducible assumption | with_reducible apply inv_ite | with_reducible apply State.polTake_inv | split)
  all_goals first | rfl | exact ⟨rfl, rfl, rfl⟩ | assumption

theorem execPolicyInterval_inv (w : Fin 64) (meas : List (Nat × Nat)) (hc : ∀ p ∈ [Part.regs, .lanes, .skrx, .loom, .trd, .fine, .prot, .blz, .beat, .bmy, .wvr, .ten, .fmn, .mbx, .mbxMem, .bank, .bankMem, .skid, .tly, .pcie, .pwr, .tst, .out, .resp, .free], Closed R p) (h : R s) :
    OutInv R (execPolicyInterval w meas s) := by
  unfold execPolicyInterval
  try dsimp only
  repeat' (first | exact sub_inv (by decide) hc | with_reducible apply outInv_next | with_reducible exact outInv_fault _ | with_reducible apply outInv_ite | (intro _; try dsimp only) | with_reducible assumption | with_reducible apply inv_ite | with_reducible apply State.when_inv | with_reducible apply State.polTake_inv | split)
  all_goals first | rfl | exact ⟨rfl, rfl, rfl⟩ | assumption

end Sys2Proof.Machine
end

