-- ==== Sys2Proof/Laws/InvCommit.lean ====
section
/-! SUPPORT. What the operations of Machine/Commit.lean keep. -/
namespace Sys2Proof.Machine

variable {R : State → Prop} {s : State}

theorem State.swapPages_inv (hc : ∀ p ∈ [Part.loom], Closed R p) (h : R s) :
    R (s.swapPages) := by
  unfold State.swapPages
  try dsimp only
  repeat' (first | exact sub_inv (by decide) hc | (intro _; try dsimp only) | with_reducible assumption | with_reducible apply inv_ite | with_reducible apply State.modLoom_inv | with_reducible apply State.clearRewritten_inv | split)
  all_goals first | rfl | exact ⟨rfl, rfl, rfl⟩ | assumption

theorem State.cutStore_inv {old : State} {new : State} (hc : ∀ p ∈ [Part.prot], Closed R p) (h : R old) (h : R new) :
    R (old.cutStore new) := by
  unfold State.cutStore
  try dsimp only
  repeat' (first | exact sub_inv (by decide) hc | (intro _; try dsimp only) | with_reducible assumption | with_reducible apply inv_ite | with_reducible apply State.modProt_inv | split)
  all_goals first | rfl | exact ⟨rfl, rfl, rfl⟩ | assumption

theorem State.heddleCommit_inv (hc : ∀ p ∈ [Part.regs, .loom, .trd, .fine, .prot, .bank, .bankMem, .pcie, .tst, .out, .free], Closed R p) (h : R s) :
    R (s.heddleCommit) := by
  unfold State.heddleCommit
  try dsimp only
  repeat' (first | exact sub_inv (by decide) hc | (intro _; try dsimp only) | with_reducible assumption | with_reducible apply inv_ite | with_reducible apply State.engCommit_inv | with_reducible apply State.clearOnce_inv | with_reducible apply State.cutStore_inv | with_reducible apply State.swapPages_inv | split)
  all_goals first | rfl | exact ⟨rfl, rfl, rfl⟩ | assumption

theorem execHeddleCommit_inv (hc : ∀ p ∈ [Part.regs, .loom, .trd, .fine, .prot, .bank, .bankMem, .pcie, .tst, .out, .free], Closed R p) (h : R s) :
    OutInv R (execHeddleCommit s) := by
  unfold execHeddleCommit
  try dsimp only
  repeat' (first | exact sub_inv (by decide) hc | with_reducible apply outInv_next | with_reducible exact outInv_fault _ | with_reducible apply outInv_ite | (intro _; try dsimp only) | with_reducible assumption | with_reducible apply inv_ite | with_reducible apply State.when_inv | with_reducible apply State.heddleCommit_inv | split)
  all_goals first | rfl | exact ⟨rfl, rfl, rfl⟩ | assumption

end Sys2Proof.Machine
end

