-- ==== Sys2Proof/Laws/InvBoundary.lean ====
section
/-! SUPPORT. What the operations of Machine/Boundary.lean keep. -/
namespace Sys2Proof.Machine

variable {R : State → Prop} {s : State}

theorem State.recentresDue_inv (hc : ∀ p ∈ [Part.regs, .lanes], Closed R p) (h : R s) :
    R (s.recentresDue) := by
  unfold State.recentresDue
  try dsimp only
  repeat' (first | exact sub_inv (by decide) hc | (intro _; try dsimp only) | with_reducible assumption | with_reducible apply inv_ite | with_reducible apply seqAll_inv | with_reducible apply State.when_inv | with_reducible apply State.recentre_inv | split)
  all_goals first | rfl | exact ⟨rfl, rfl, rfl⟩ | assumption

theorem State.sleepsDue_inv (hc : ∀ p ∈ [Part.regs, .lanes, .integ, .skrx, .sktx, .ports, .pcie, .pwr, .tst, .out, .resp, .free], Closed R p) (h : R s) :
    R (s.sleepsDue) := by
  unfold State.sleepsDue
  try dsimp only
  repeat' (first | exact sub_inv (by decide) hc | (intro _; try dsimp only) | with_reducible assumption | with_reducible apply inv_ite | with_reducible apply seqAll_inv | with_reducible apply State.when_inv | with_reducible apply State.sleepTile_inv | split)
  all_goals first | rfl | exact ⟨rfl, rfl, rfl⟩ | assumption

theorem State.reloadsDue_inv (hc : ∀ p ∈ [Part.loom, .fine], Closed R p) (h : R s) :
    R (s.reloadsDue) := by
  unfold State.reloadsDue
  try dsimp only
  repeat' (first | exact sub_inv (by decide) hc | (intro _; try dsimp only) | with_reducible assumption | with_reducible apply inv_ite | with_reducible apply State.modFine_inv | with_reducible apply State.modLoom_inv | split)
  all_goals first | rfl | exact ⟨rfl, rfl, rfl⟩ | assumption

theorem State.commitsDue_inv (hc : ∀ p ∈ [Part.regs, .loom, .trd, .fine, .prot, .bank, .bankMem, .pcie, .tst, .out, .free], Closed R p) (h : R s) :
    R (s.commitsDue) := by
  unfold State.commitsDue
  try dsimp only
  repeat' (first | exact sub_inv (by decide) hc | (intro _; try dsimp only) | with_reducible assumption | with_reducible apply inv_ite | with_reducible apply State.when_inv | with_reducible apply State.heddleCommit_inv | with_reducible apply State.fineCommit_inv | split)
  all_goals first | rfl | exact ⟨rfl, rfl, rfl⟩ | assumption

theorem State.fillTx_inv (k : Nat) (hc : ∀ p ∈ [Part.sktx], Closed R p) (h : R s) :
    R (s.fillTx k) := by
  unfold State.fillTx
  try dsimp only
  repeat' (first | exact sub_inv (by decide) hc | (intro _; try dsimp only) | with_reducible assumption | with_reducible apply inv_ite | with_reducible apply State.modTx_inv | split)
  all_goals first | rfl | exact ⟨rfl, rfl, rfl⟩ | assumption

theorem State.fillFine_inv (f : Nat) (hc : ∀ p ∈ [Part.fine], Closed R p) (h : R s) :
    R (s.fillFine f) := by
  unfold State.fillFine
  try dsimp only
  repeat' (first | exact sub_inv (by decide) hc | (intro _; try dsimp only) | with_reducible assumption | with_reducible apply inv_ite | with_reducible apply State.modFine_inv | split)
  all_goals first | rfl | exact ⟨rfl, rfl, rfl⟩ | assumption

theorem State.fills_inv (hc : ∀ p ∈ [Part.sktx, .fine], Closed R p) (h : R s) :
    R (s.fills) := by
  unfold State.fills
  try dsimp only
  repeat' (first | exact sub_inv (by decide) hc | (intro _; try dsimp only) | with_reducible assumption | with_reducible apply inv_ite | with_reducible apply seqAll_inv | with_reducible apply State.fillTx_inv | with_reducible apply State.fillFine_inv | split)
  all_goals first | rfl | exact ⟨rfl, rfl, rfl⟩ | assumption

theorem State.closeBoundary_inv (hc : ∀ p ∈ [Part.regs, .lanes, .integ, .skrx, .sktx, .ports, .loom, .trd, .fine, .prot, .blz, .beat, .bmy, .wvr, .ten, .fmn, .mbx, .bank, .bankMem, .skid, .tly, .pcie, .pwr, .tst, .out, .resp, .free], Closed R p) (h : R s) :
    R (s.closeBoundary) := by
  unfold State.closeBoundary
  try dsimp only
  repeat' (first | exact sub_inv (by decide) hc | (intro _; try dsimp only) | with_reducible assumption | with_reducible apply inv_ite | with_reducible apply State.modBeat_inv | with_reducible apply State.clkEdges_inv | with_reducible apply State.fills_inv | with_reducible apply State.pairsDue_inv | with_reducible apply State.beatDue_inv | with_reducible apply State.recentresDue_inv | with_reducible apply State.commitsDue_inv | with_reducible apply State.reloadsDue_inv | with_reducible apply State.sleepsDue_inv | with_reducible apply State.resetLeft_inv | split)
  all_goals first | rfl | exact ⟨rfl, rfl, rfl⟩ | assumption

theorem execPickSwitch_inv (p1 : PickIn) (hc : ∀ p ∈ [Part.regs, .lanes, .integ, .skrx, .sktx, .ports, .loom, .trd, .fine, .prot, .blz, .beat, .bmy, .wvr, .ten, .fmn, .mbx, .bank, .bankMem, .skid, .tly, .pcie, .pwr, .tst, .out, .resp, .free], Closed R p) (h : R s) :
    OutInv R (execPickSwitch p1 s) := by
  unfold execPickSwitch
  try dsimp only
  repeat' (first | exact sub_inv (by decide) hc | with_reducible apply outInv_next | with_reducible exact outInv_fault _ | with_reducible apply outInv_ite | (intro _; try dsimp only) | with_reducible assumption | with_reducible apply inv_ite | with_reducible apply State.when_inv | with_reducible apply State.switchPick_inv | with_reducible apply State.closeBoundary_inv | split)
  all_goals first | rfl | exact ⟨rfl, rfl, rfl⟩ | assumption

theorem execThreadPickRead_inv (out : BitVec 18) (round : Nat) (sbe : Nat) (hc : ∀ p ∈ [Part.regs, .lanes, .integ, .skrx, .sktx, .ports, .loom, .trd, .fine, .prot, .blz, .beat, .bmy, .wvr, .ten, .fmn, .mbx, .bank, .bankMem, .skid, .tly, .pcie, .pwr, .tst, .out, .resp, .free], Closed R p) (h : R s) :
    OutInv R (execThreadPickRead out round sbe s) := by
  unfold execThreadPickRead
  try dsimp only
  repeat' (first | exact sub_inv (by decide) hc | with_reducible apply outInv_next | with_reducible exact outInv_fault _ | with_reducible apply outInv_ite | (intro _; try dsimp only) | with_reducible assumption | with_reducible apply inv_ite | with_reducible apply State.when_inv | with_reducible apply State.threadRead_inv | with_reducible apply State.closeBoundary_inv | split)
  all_goals first | rfl | exact ⟨rfl, rfl, rfl⟩ | assumption

end Sys2Proof.Machine
end

