-- ==== Sys2Proof/Laws/InvTransmit.lean ====
section
/-! SUPPORT. What the operations of Machine/Transmit.lean keep. -/
namespace Sys2Proof.Machine

variable {R : State → Prop} {s : State}

theorem State.fawOut_inv {s : State} {h1 : State} (l : Nat) (hc : ∀ p ∈ [Part.free], Closed R p) (h : R s) (h : R h1) :
    R (s.fawOut h1 l).1 := by
  unfold State.fawOut
  try dsimp only
  repeat' (first | exact sub_inv (by decide) hc | (intro _; try dsimp only) | with_reducible assumption | with_reducible apply inv_ite | with_reducible apply State.freeVal_inv | split)
  all_goals first | rfl | exact ⟨rfl, rfl, rfl⟩ | assumption

theorem State.skeinHdrs_inv {h1 : State} (l : Nat) (hc : ∀ p ∈ [Part.free], Closed R p) (h : R s) (hh : R h1) : R (s.skeinHdrs h1 l).2 := by
  unfold State.skeinHdrs
  split
  · exact h
  · split
    · exact h
    · exact hc .free (by decide) _ _ h

theorem State.payloadEnd_inv (hc : ∀ p ∈ [Part.lanes, .out], Closed R p) (h : R s) :
    R (s.payloadEnd) := by
  unfold State.payloadEnd
  try dsimp only
  repeat' (first | exact sub_inv (by decide) hc | (intro _; try dsimp only) | with_reducible assumption | with_reducible apply inv_ite | with_reducible apply State.send_inv | with_reducible apply seqAll_inv | with_reducible apply State.modLane_inv | split)
  all_goals first | rfl | exact ⟨rfl, rfl, rfl⟩ | assumption

theorem State.ownRx_inv (l : Nat) (hdr : List Byte) (bip : Word) (sk : List (List Byte)) (hc : ∀ p ∈ [Part.regs, .lanes, .integ, .skrx, .beat, .ten, .tly, .pcie, .out], Closed R p) (h : R s) :
    R (s.ownRx l hdr bip sk) := by
  unfold State.ownRx
  try dsimp only
  repeat' (first | exact sub_inv (by decide) hc | (intro _; try dsimp only) | with_reducible assumption | with_reducible apply inv_ite | with_reducible apply State.modLane_inv | with_reducible apply State.fawMatch_inv | with_reducible apply State.framerDue_inv | with_reducible apply State.fawSeen_inv | with_reducible apply seqAll_inv | with_reducible apply State.skeinHdr_inv | with_reducible apply State.laneHdr_inv | split)
  all_goals first | rfl | exact ⟨rfl, rfl, rfl⟩ | assumption

theorem State.sendLane_inv {s : State} {h1 : State} {a : State} (l : Nat) (hc : ∀ p ∈ [Part.regs, .lanes, .integ, .skrx, .beat, .ten, .tly, .pcie, .out, .free], Closed R p) (h : R s) (h : R h1) (h : R a) :
    R (s.sendLane h1 a l) := by
  unfold State.sendLane
  try dsimp only
  repeat' (first | exact sub_inv (by decide) hc | (intro _; try dsimp only) | with_reducible assumption | with_reducible apply inv_ite | with_reducible apply State.modLane_inv | with_reducible apply State.send_inv | with_reducible apply State.freeVal_inv | with_reducible apply State.fawOut_inv | with_reducible apply State.skeinHdrs_inv | with_reducible apply State.ownRx_inv | split)
  all_goals first | rfl | exact ⟨rfl, rfl, rfl⟩ | assumption

theorem State.ownLost_inv (l : Nat) (hc : ∀ p ∈ [Part.regs, .lanes, .skrx, .ten, .tly, .pcie, .out], Closed R p) (h : R s) :
    R (s.ownLost l) := by
  unfold State.ownLost
  try dsimp only
  repeat' (first | exact sub_inv (by decide) hc | (intro _; try dsimp only) | with_reducible assumption | with_reducible apply inv_ite | with_reducible apply State.framerDue_inv | with_reducible apply State.fawSeen_inv | with_reducible apply State.modLane_inv | split)
  all_goals first | rfl | exact ⟨rfl, rfl, rfl⟩ | assumption

theorem State.headerView_inv (hc : ∀ p ∈ [Part.regs, .lanes, .integ, .skrx, .sktx, .ports, .loom, .trd, .fine, .prot, .blz, .beat, .bmy, .wvr, .ten, .fmn, .mbx, .bank, .bankMem, .skid, .tly, .pcie, .pwr, .tst, .out, .resp, .free], Closed R p) (h : R s) :
    R (s.headerView) := by
  unfold State.headerView
  try dsimp only
  repeat' (first | exact sub_inv (by decide) hc | (intro _; try dsimp only) | with_reducible assumption | with_reducible apply inv_ite | with_reducible apply State.closeBoundary_inv | split)
  all_goals first | rfl | exact ⟨rfl, rfl, rfl⟩ | assumption

theorem State.sendHeaders_inv {s : State} {a : State} (hc : ∀ p ∈ [Part.regs, .lanes, .integ, .skrx, .sktx, .ports, .loom, .trd, .fine, .prot, .blz, .beat, .bmy, .wvr, .ten, .fmn, .mbx, .bank, .bankMem, .skid, .tly, .pcie, .pwr, .tst, .out, .resp, .free], Closed R p) (h : R s) (h : R a) :
    R (s.sendHeaders a) := by
  unfold State.sendHeaders
  try dsimp only
  repeat' (first | exact sub_inv (by decide) hc | (intro _; try dsimp only) | with_reducible assumption | with_reducible apply inv_ite | with_reducible apply State.headerView_inv | with_reducible apply seqAll_inv | with_reducible apply State.ownLost_inv | with_reducible apply State.sendLane_inv | split)
  all_goals first | rfl | exact ⟨rfl, rfl, rfl⟩ | assumption

end Sys2Proof.Machine
end

