-- ==== Sys2Proof/Laws/InvTwiuri.lean ====
section
/-! SUPPORT. What the operations of Machine/Twiuri.lean keep. -/
namespace Sys2Proof.Machine

variable {R : State → Prop} {s : State}

theorem State.tw_inv (w : Bool) (ok : Bool) (f : Mid → State → State) (hc : ∀ p ∈ [Part.out], Closed R p) (h : R s) (hf : ∀ y0 y1, R y1 → R (f y0 y1)) :
    R (s.tw w ok f) := by
  unfold State.tw
  try dsimp only
  repeat' (first | exact sub_inv (by decide) hc | (intro _; try dsimp only) | with_reducible assumption | with_reducible apply inv_ite | with_reducible apply hf | with_reducible apply State.say_inv | with_reducible apply State.sayEnd_inv | split)
  all_goals first | rfl | exact ⟨rfl, rfl, rfl⟩ | assumption

theorem twReads_inv (m : Mid) (l : List Nat) (hc : ∀ p ∈ [Part.regs, .prot, .beat, .wvr, .fmn, .bank, .skid, .pcie, .tst, .out, .resp, .free], Closed R p) (h : R s) : R (twReads m l s).1 := by
  induction l generalizing s with
  | nil => exact h
  | cons a t ih => exact ih (State.busRead_inv _ _ _ (sub_inv (by decide) hc) h)

theorem State.twPrint_inv (m : Mid) (l : List Nat) (hc : ∀ p ∈ [Part.regs, .prot, .beat, .wvr, .fmn, .bank, .skid, .pcie, .tst, .out, .resp, .free], Closed R p) (h : R s) :
    R (s.twPrint m l) := by
  unfold State.twPrint
  try dsimp only
  repeat' (first | exact sub_inv (by decide) hc | (intro _; try dsimp only) | with_reducible assumption | with_reducible apply inv_ite | with_reducible apply twReads_inv | with_reducible apply State.sayEnd_inv | with_reducible apply State.emit_inv | split)
  all_goals first | rfl | exact ⟨rfl, rfl, rfl⟩ | assumption

theorem State.twWrites_inv (m : Mid) (l : List (Nat × Word)) (hc : ∀ p ∈ [Part.regs, .lanes, .skrx, .loom, .trd, .fine, .prot, .blz, .beat, .bmy, .wvr, .ten, .fmn, .mbx, .mbxMem, .bank, .bankMem, .skid, .tly, .pcie, .pwr, .tst, .out, .resp, .free], Closed R p) (h : R s) :
    R (s.twWrites m l) := by
  unfold State.twWrites
  try dsimp only
  repeat' (first | exact sub_inv (by decide) hc | (intro _; try dsimp only) | with_reducible assumption | with_reducible apply inv_ite | with_reducible apply seqAll_inv | with_reducible apply State.busWrite_inv | split)
  all_goals first | rfl | exact ⟨rfl, rfl, rfl⟩ | assumption

theorem State.twHelp_inv (hc : ∀ p ∈ [Part.out], Closed R p) (h : R s) :
    R (s.twHelp) := by
  unfold State.twHelp
  try dsimp only
  repeat' (first | exact sub_inv (by decide) hc | (intro _; try dsimp only) | with_reducible assumption | with_reducible apply inv_ite | with_reducible apply State.tw_inv | with_reducible apply State.sayEnd_inv | with_reducible apply State.say_inv | split)
  all_goals first | rfl | exact ⟨rfl, rfl, rfl⟩ | assumption

theorem State.twId_inv (hc : ∀ p ∈ [Part.regs, .prot, .beat, .wvr, .fmn, .bank, .skid, .pcie, .tst, .out, .resp, .free], Closed R p) (h : R s) :
    R (s.twId) := by
  unfold State.twId
  try dsimp only
  repeat' (first | exact sub_inv (by decide) hc | (intro _; try dsimp only) | with_reducible assumption | with_reducible apply inv_ite | with_reducible apply State.tw_inv | with_reducible apply twReads_inv | with_reducible apply State.sayEnd_inv | with_reducible apply State.emit_inv | split)
  all_goals first | rfl | exact ⟨rfl, rfl, rfl⟩ | assumption

theorem State.twRd_inv (a : Nat) (n : Nat) (hc : ∀ p ∈ [Part.regs, .prot, .beat, .wvr, .fmn, .bank, .skid, .pcie, .tst, .out, .resp, .free], Closed R p) (h : R s) :
    R (s.twRd a n) := by
  unfold State.twRd
  try dsimp only
  repeat' (first | exact sub_inv (by decide) hc | (intro _; try dsimp only) | with_reducible assumption | with_reducible apply inv_ite | with_reducible apply State.tw_inv | with_reducible apply twReads_inv | with_reducible apply State.sayEnd_inv | with_reducible apply seqAll_inv | with_reducible apply State.emit_inv | split)
  all_goals first | rfl | exact ⟨rfl, rfl, rfl⟩ | assumption

theorem State.twWr_inv (a : Nat) (v : Nat) (hc : ∀ p ∈ [Part.regs, .lanes, .skrx, .loom, .trd, .fine, .prot, .blz, .beat, .bmy, .wvr, .ten, .fmn, .mbx, .mbxMem, .bank, .bankMem, .skid, .tly, .pcie, .pwr, .tst, .out, .resp, .free], Closed R p) (h : R s) :
    R (s.twWr a v) := by
  unfold State.twWr
  try dsimp only
  repeat' (first | exact sub_inv (by decide) hc | (intro _; try dsimp only) | with_reducible assumption | with_reducible apply inv_ite | with_reducible apply State.tw_inv | with_reducible apply State.sayEnd_inv | with_reducible apply State.busWrite_inv | split)
  all_goals first | rfl | exact ⟨rfl, rfl, rfl⟩ | assumption

theorem State.twSet_inv (a : Nat) (mask : Nat) (v : Nat) (hc : ∀ p ∈ [Part.regs, .lanes, .skrx, .loom, .trd, .fine, .prot, .blz, .beat, .bmy, .wvr, .ten, .fmn, .mbx, .mbxMem, .bank, .bankMem, .skid, .tly, .pcie, .pwr, .tst, .out, .resp, .free], Closed R p) (h : R s) :
    R (s.twSet a mask v) := by
  unfold State.twSet
  try dsimp only
  repeat' (first | exact sub_inv (by decide) hc | (intro _; try dsimp only) | with_reducible assumption | with_reducible apply inv_ite | with_reducible apply State.tw_inv | with_reducible apply twReads_inv | with_reducible apply State.sayEnd_inv | with_reducible apply State.busWrite_inv | with_reducible apply State.emit_inv | split)
  all_goals first | rfl | exact ⟨rfl, rfl, rfl⟩ | assumption

theorem State.twLane_inv (p1 : Nat) (n : Nat) (hc : ∀ p ∈ [Part.regs, .prot, .beat, .wvr, .fmn, .bank, .skid, .pcie, .tst, .out, .resp, .free], Closed R p) (h : R s) :
    R (s.twLane p1 n) := by
  unfold State.twLane
  try dsimp only
  repeat' (first | exact sub_inv (by decide) hc | (intro _; try dsimp only) | with_reducible assumption | with_reducible apply inv_ite | with_reducible apply State.tw_inv | with_reducible apply State.twPrint_inv | split)
  all_goals first | rfl | exact ⟨rfl, rfl, rfl⟩ | assumption

theorem State.twSkein_inv (p1 : Nat) (n : Nat) (k : Nat) (hc : ∀ p ∈ [Part.regs, .lanes, .skrx, .loom, .trd, .fine, .prot, .blz, .beat, .bmy, .wvr, .ten, .fmn, .mbx, .mbxMem, .bank, .bankMem, .skid, .tly, .pcie, .pwr, .tst, .out, .resp, .free], Closed R p) (h : R s) :
    R (s.twSkein p1 n k) := by
  unfold State.twSkein
  try dsimp only
  repeat' (first | exact sub_inv (by decide) hc | (intro _; try dsimp only) | with_reducible assumption | with_reducible apply inv_ite | with_reducible apply State.tw_inv | with_reducible apply twReads_inv | with_reducible apply State.twWrites_inv | with_reducible apply State.sayEnd_inv | with_reducible apply State.emit_inv | split)
  all_goals first | rfl | exact ⟨rfl, rfl, rfl⟩ | assumption

theorem State.twHdl_inv (map : Nat) (page : Nat) (port : Nat) (index : Nat) (hc : ∀ p ∈ [Part.regs, .lanes, .skrx, .loom, .trd, .fine, .prot, .blz, .beat, .bmy, .wvr, .ten, .fmn, .mbx, .mbxMem, .bank, .bankMem, .skid, .tly, .pcie, .pwr, .tst, .out, .resp, .free], Closed R p) (h : R s) :
    R (s.twHdl map page port index) := by
  unfold State.twHdl
  try dsimp only
  repeat' (first | exact sub_inv (by decide) hc | (intro _; try dsimp only) | with_reducible assumption | with_reducible apply inv_ite | with_reducible apply State.tw_inv | with_reducible apply State.twPrint_inv | with_reducible apply State.hdlReadDone_inv | with_reducible apply State.twWrites_inv | split)
  all_goals first | rfl | exact ⟨rfl, rfl, rfl⟩ | assumption

theorem State.twCmd_inv (fe : Bool) (ws : List Word) (hc : ∀ p ∈ [Part.regs, .lanes, .skrx, .loom, .trd, .fine, .prot, .blz, .beat, .bmy, .wvr, .ten, .fmn, .mbx, .mbxMem, .bank, .bankMem, .skid, .tly, .pcie, .pwr, .tst, .out, .resp, .free], Closed R p) (h : R s) :
    R (s.twCmd fe ws) := by
  unfold State.twCmd
  try dsimp only
  repeat' (first | exact sub_inv (by decide) hc | (intro _; try dsimp only) | with_reducible assumption | with_reducible apply inv_ite | with_reducible apply State.tw_inv | with_reducible apply State.modTst_inv | with_reducible apply State.twWrites_inv | split)
  all_goals first | rfl | exact ⟨rfl, rfl, rfl⟩ | assumption

theorem State.twProt_inv (g : Nat) (hc : ∀ p ∈ [Part.regs, .prot, .beat, .wvr, .fmn, .bank, .skid, .pcie, .tst, .out, .resp, .free], Closed R p) (h : R s) :
    R (s.twProt g) := by
  unfold State.twProt
  try dsimp only
  repeat' (first | exact sub_inv (by decide) hc | (intro _; try dsimp only) | with_reducible assumption | with_reducible apply inv_ite | with_reducible apply State.tw_inv | with_reducible apply State.twPrint_inv | split)
  all_goals first | rfl | exact ⟨rfl, rfl, rfl⟩ | assumption

theorem State.twBeat_inv (hc : ∀ p ∈ [Part.regs, .prot, .beat, .wvr, .fmn, .bank, .skid, .pcie, .tst, .out, .resp, .free], Closed R p) (h : R s) :
    R (s.twBeat) := by
  unfold State.twBeat
  try dsimp only
  repeat' (first | exact sub_inv (by decide) hc | (intro _; try dsimp only) | with_reducible assumption | with_reducible apply inv_ite | with_reducible apply State.tw_inv | with_reducible apply State.twPrint_inv | split)
  all_goals first | rfl | exact ⟨rfl, rfl, rfl⟩ | assumption

theorem State.twFmn_inv (hc : ∀ p ∈ [Part.regs, .prot, .beat, .wvr, .fmn, .bank, .skid, .pcie, .tst, .out, .resp, .free], Closed R p) (h : R s) :
    R (s.twFmn) := by
  unfold State.twFmn
  try dsimp only
  repeat' (first | exact sub_inv (by decide) hc | (intro _; try dsimp only) | with_reducible assumption | with_reducible apply inv_ite | with_reducible apply State.tw_inv | with_reducible apply State.twPrint_inv | split)
  all_goals first | rfl | exact ⟨rfl, rfl, rfl⟩ | assumption

theorem State.twWvr_inv (w : Nat) (hc : ∀ p ∈ [Part.regs, .prot, .beat, .wvr, .fmn, .bank, .skid, .pcie, .tst, .out, .resp, .free], Closed R p) (h : R s) :
    R (s.twWvr w) := by
  unfold State.twWvr
  try dsimp only
  repeat' (first | exact sub_inv (by decide) hc | (intro _; try dsimp only) | with_reducible assumption | with_reducible apply inv_ite | with_reducible apply State.tw_inv | with_reducible apply State.twPrint_inv | split)
  all_goals first | rfl | exact ⟨rfl, rfl, rfl⟩ | assumption

theorem State.twTally_inv (c : Nat) (i : Nat) (t : Nat) (shadow : Bool) (hc : ∀ p ∈ [Part.regs, .lanes, .skrx, .loom, .trd, .fine, .prot, .blz, .beat, .bmy, .wvr, .ten, .fmn, .mbx, .mbxMem, .bank, .bankMem, .skid, .tly, .pcie, .pwr, .tst, .out, .resp, .free], Closed R p) (h : R s) :
    R (s.twTally c i t shadow) := by
  unfold State.twTally
  try dsimp only
  repeat' (first | exact sub_inv (by decide) hc | (intro _; try dsimp only) | with_reducible assumption | with_reducible apply inv_ite | with_reducible apply State.tw_inv | with_reducible apply State.twPrint_inv | with_reducible apply State.tlyReadDone_inv | with_reducible apply State.twWrites_inv | split)
  all_goals first | rfl | exact ⟨rfl, rfl, rfl⟩ | assumption

theorem State.twTrace_inv (v : Word) (hc : ∀ p ∈ [Part.regs, .lanes, .skrx, .loom, .trd, .fine, .prot, .blz, .beat, .bmy, .wvr, .ten, .fmn, .mbx, .mbxMem, .bank, .bankMem, .skid, .tly, .pcie, .pwr, .tst, .out, .resp, .free], Closed R p) (h : R s) :
    R (s.twTrace v) := by
  unfold State.twTrace
  try dsimp only
  repeat' (first | exact sub_inv (by decide) hc | (intro _; try dsimp only) | with_reducible assumption | with_reducible apply inv_ite | with_reducible apply State.tw_inv | with_reducible apply State.sayEnd_inv | with_reducible apply State.twWrites_inv | split)
  all_goals first | rfl | exact ⟨rfl, rfl, rfl⟩ | assumption

theorem State.twDump_inv (n : Nat) (hc : ∀ p ∈ [Part.regs, .prot, .beat, .wvr, .fmn, .bank, .skid, .pcie, .tst, .out, .resp, .free], Closed R p) (h : R s) :
    R (s.twDump n) := by
  unfold State.twDump
  try dsimp only
  repeat' (first | exact sub_inv (by decide) hc | (intro _; try dsimp only) | with_reducible assumption | with_reducible apply inv_ite | with_reducible apply State.tw_inv | with_reducible apply State.sayEnd_inv | with_reducible apply seqAll_inv | with_reducible apply twReads_inv | with_reducible apply State.emit_inv | split)
  all_goals first | rfl | exact ⟨rfl, rfl, rfl⟩ | assumption

theorem State.twReset_inv (kind : Nat) (hc : ∀ p ∈ [Part.regs, .lanes, .skrx, .loom, .trd, .fine, .prot, .blz, .beat, .bmy, .wvr, .ten, .fmn, .mbx, .mbxMem, .bank, .bankMem, .skid, .tly, .pcie, .pwr, .tst, .out, .resp, .free], Closed R p) (h : R s) :
    R (s.twReset kind) := by
  unfold State.twReset
  try dsimp only
  repeat' (first | exact sub_inv (by decide) hc | (intro _; try dsimp only) | with_reducible assumption | with_reducible apply inv_ite | with_reducible apply State.tw_inv | with_reducible apply State.twWrites_inv | split)
  all_goals first | rfl | exact ⟨rfl, rfl, rfl⟩ | assumption

theorem State.twBaud_inv (code : Nat) (hc : ∀ p ∈ [Part.regs, .lanes, .skrx, .loom, .trd, .fine, .prot, .blz, .beat, .bmy, .wvr, .ten, .fmn, .mbx, .mbxMem, .bank, .bankMem, .skid, .tly, .pcie, .pwr, .tst, .out, .resp, .free], Closed R p) (h : R s) :
    R (s.twBaud code) := by
  unfold State.twBaud
  try dsimp only
  repeat' (first | exact sub_inv (by decide) hc | (intro _; try dsimp only) | with_reducible assumption | with_reducible apply inv_ite | with_reducible apply State.tw_inv | with_reducible apply State.twWrites_inv | with_reducible apply State.sayEnd_inv | split)
  all_goals first | rfl | exact ⟨rfl, rfl, rfl⟩ | assumption

theorem State.twLock_inv (hc : ∀ p ∈ [Part.regs, .lanes, .skrx, .loom, .trd, .fine, .prot, .blz, .beat, .bmy, .wvr, .ten, .fmn, .mbx, .mbxMem, .bank, .bankMem, .skid, .tly, .pcie, .pwr, .tst, .out, .resp, .free], Closed R p) (h : R s) :
    R (s.twLock) := by
  unfold State.twLock
  try dsimp only
  repeat' (first | exact sub_inv (by decide) hc | (intro _; try dsimp only) | with_reducible assumption | with_reducible apply inv_ite | with_reducible apply State.tw_inv | with_reducible apply State.sayEnd_inv | with_reducible apply State.twWrites_inv | split)
  all_goals first | rfl | exact ⟨rfl, rfl, rfl⟩ | assumption

theorem State.twArgs_inv (name : List Byte) (ws : List (List Byte)) (hc : ∀ p ∈ [Part.regs, .lanes, .skrx, .loom, .trd, .fine, .prot, .blz, .beat, .bmy, .wvr, .ten, .fmn, .mbx, .mbxMem, .bank, .bankMem, .skid, .tly, .pcie, .pwr, .tst, .out, .resp, .free], Closed R p) (h : R s) :
    R (s.twArgs name ws) := by
  unfold State.twArgs
  try dsimp only
  repeat' (first | exact sub_inv (by decide) hc | (intro _; try dsimp only) | with_reducible assumption | with_reducible apply inv_ite | with_reducible apply State.tw_inv | with_reducible apply State.twHelp_inv | with_reducible apply State.twId_inv | with_reducible apply State.twRd_inv | with_reducible apply State.twWr_inv | with_reducible apply State.twSet_inv | with_reducible apply State.twLane_inv | with_reducible apply State.twSkein_inv | with_reducible apply State.twHdl_inv | with_reducible apply State.twCmd_inv | with_reducible apply State.twProt_inv | with_reducible apply State.twBeat_inv | with_reducible apply State.twFmn_inv | with_reducible apply State.twWvr_inv | with_reducible apply State.twTally_inv | with_reducible apply State.twTrace_inv | with_reducible apply State.twDump_inv | with_reducible apply State.twReset_inv | with_reducible apply State.twBaud_inv | with_reducible apply State.twLock_inv | with_reducible apply State.sayEnd_inv | split)
  all_goals first | rfl | exact ⟨rfl, rfl, rfl⟩ | assumption

theorem State.twLine_inv (t : List Byte) (hc : ∀ p ∈ [Part.regs, .lanes, .skrx, .loom, .trd, .fine, .prot, .blz, .beat, .bmy, .wvr, .ten, .fmn, .mbx, .mbxMem, .bank, .bankMem, .skid, .tly, .pcie, .pwr, .tst, .out, .resp, .free], Closed R p) (h : R s) :
    R (s.twLine t) := by
  unfold State.twLine
  try dsimp only
  repeat' (first | exact sub_inv (by decide) hc | (intro _; try dsimp only) | with_reducible assumption | with_reducible apply inv_ite | with_reducible apply State.when_inv | with_reducible apply State.sayEnd_inv | with_reducible apply State.tw_inv | with_reducible apply State.say_inv | with_reducible apply State.twArgs_inv | split)
  all_goals first | rfl | exact ⟨rfl, rfl, rfl⟩ | assumption

theorem State.monRun_inv (i : MonCmd) (f : State → State) (hc : ∀ p ∈ [Part.tst], Closed R p) (h : R s) (hf : ∀ y0, R y0 → R (f y0)) :
    R (s.monRun i f) := by
  unfold State.monRun
  try dsimp only
  repeat' (first | exact sub_inv (by decide) hc | (intro _; try dsimp only) | with_reducible assumption | with_reducible apply inv_ite | with_reducible apply hf | with_reducible apply State.modTst_inv | split)
  all_goals first | rfl | exact ⟨rfl, rfl, rfl⟩ | assumption

theorem State.twDo_inv (a : MonCmd) (hc : ∀ p ∈ [Part.regs, .lanes, .skrx, .loom, .trd, .fine, .prot, .blz, .beat, .bmy, .wvr, .ten, .fmn, .mbx, .mbxMem, .bank, .bankMem, .skid, .tly, .pcie, .pwr, .tst, .out, .resp, .free], Closed R p) (h : R s) :
    R (s.twDo a) := by
  unfold State.twDo
  try dsimp only
  repeat' (first | exact sub_inv (by decide) hc | (intro _; try dsimp only) | with_reducible assumption | with_reducible apply inv_ite | with_reducible apply State.twLine_inv | with_reducible apply State.twHelp_inv | with_reducible apply State.twId_inv | with_reducible apply State.twRd_inv | with_reducible apply State.twWr_inv | with_reducible apply State.twSet_inv | with_reducible apply State.twLane_inv | with_reducible apply State.twSkein_inv | with_reducible apply State.twHdl_inv | with_reducible apply State.twCmd_inv | with_reducible apply State.twProt_inv | with_reducible apply State.twBeat_inv | with_reducible apply State.twFmn_inv | with_reducible apply State.twWvr_inv | with_reducible apply State.twTally_inv | with_reducible apply State.twTrace_inv | with_reducible apply State.twDump_inv | with_reducible apply State.twReset_inv | with_reducible apply State.twBaud_inv | with_reducible apply State.twLock_inv | split)
  all_goals first | rfl | exact ⟨rfl, rfl, rfl⟩ | assumption

theorem State.mon_inv (i : MonCmd) (hc : ∀ p ∈ [Part.regs, .lanes, .skrx, .loom, .trd, .fine, .prot, .blz, .beat, .bmy, .wvr, .ten, .fmn, .mbx, .mbxMem, .bank, .bankMem, .skid, .tly, .pcie, .pwr, .tst, .out, .resp, .free], Closed R p) (h : R s) :
    R (s.mon i) := by
  unfold State.mon
  try dsimp only
  repeat' (first | exact sub_inv (by decide) hc | (intro _; try dsimp only) | with_reducible assumption | with_reducible apply inv_ite | with_reducible apply State.monRun_inv | with_reducible apply State.twDo_inv | split)
  all_goals first | rfl | exact ⟨rfl, rfl, rfl⟩ | assumption

theorem State.monLeft_inv (hc : ∀ p ∈ [Part.regs, .lanes, .skrx, .loom, .trd, .fine, .prot, .blz, .beat, .bmy, .wvr, .ten, .fmn, .mbx, .mbxMem, .bank, .bankMem, .skid, .tly, .pcie, .pwr, .tst, .out, .resp, .free], Closed R p) (h : R s) :
    R (s.monLeft) := by
  unfold State.monLeft
  try dsimp only
  repeat' (first | exact sub_inv (by decide) hc | (intro _; try dsimp only) | with_reducible assumption | with_reducible apply inv_ite | with_reducible apply State.modTst_inv | with_reducible apply State.mon_inv | split)
  all_goals first | rfl | exact ⟨rfl, rfl, rfl⟩ | assumption

theorem execTwiuriLine_inv (text : List Byte) (hc : ∀ p ∈ [Part.regs, .lanes, .skrx, .loom, .trd, .fine, .prot, .blz, .beat, .bmy, .wvr, .ten, .fmn, .mbx, .mbxMem, .bank, .bankMem, .skid, .tly, .pcie, .pwr, .tst, .out, .resp, .free], Closed R p) (h : R s) :
    OutInv R (execTwiuriLine text s) := by
  unfold execTwiuriLine
  try dsimp only
  repeat' (first | exact sub_inv (by decide) hc | with_reducible apply outInv_next | with_reducible exact outInv_fault _ | with_reducible apply outInv_ite | (intro _; try dsimp only) | with_reducible assumption | with_reducible apply inv_ite | with_reducible apply State.mon_inv | split)
  all_goals first | rfl | exact ⟨rfl, rfl, rfl⟩ | assumption

theorem execTwHelp_inv (hc : ∀ p ∈ [Part.regs, .lanes, .skrx, .loom, .trd, .fine, .prot, .blz, .beat, .bmy, .wvr, .ten, .fmn, .mbx, .mbxMem, .bank, .bankMem, .skid, .tly, .pcie, .pwr, .tst, .out, .resp, .free], Closed R p) (h : R s) :
    OutInv R (execTwHelp s) := by
  unfold execTwHelp
  try dsimp only
  repeat' (first | exact sub_inv (by decide) hc | with_reducible apply outInv_next | with_reducible exact outInv_fault _ | with_reducible apply outInv_ite | (intro _; try dsimp only) | with_reducible assumption | with_reducible apply inv_ite | with_reducible apply State.mon_inv | split)
  all_goals first | rfl | exact ⟨rfl, rfl, rfl⟩ | assumption

theorem execTwId_inv (hc : ∀ p ∈ [Part.regs, .lanes, .skrx, .loom, .trd, .fine, .prot, .blz, .beat, .bmy, .wvr, .ten, .fmn, .mbx, .mbxMem, .bank, .bankMem, .skid, .tly, .pcie, .pwr, .tst, .out, .resp, .free], Closed R p) (h : R s) :
    OutInv R (execTwId s) := by
  unfold execTwId
  try dsimp only
  repeat' (first | exact sub_inv (by decide) hc | with_reducible apply outInv_next | with_reducible exact outInv_fault _ | with_reducible apply outInv_ite | (intro _; try dsimp only) | with_reducible assumption | with_reducible apply inv_ite | with_reducible apply State.mon_inv | split)
  all_goals first | rfl | exact ⟨rfl, rfl, rfl⟩ | assumption

theorem execTwRd_inv (addr : BitVec 26) (n : Nat) (hc : ∀ p ∈ [Part.regs, .lanes, .skrx, .loom, .trd, .fine, .prot, .blz, .beat, .bmy, .wvr, .ten, .fmn, .mbx, .mbxMem, .bank, .bankMem, .skid, .tly, .pcie, .pwr, .tst, .out, .resp, .free], Closed R p) (h : R s) :
    OutInv R (execTwRd addr n s) := by
  unfold execTwRd
  try dsimp only
  repeat' (first | exact sub_inv (by decide) hc | with_reducible apply outInv_next | with_reducible exact outInv_fault _ | with_reducible apply outInv_ite | (intro _; try dsimp only) | with_reducible assumption | with_reducible apply inv_ite | with_reducible apply State.mon_inv | split)
  all_goals first | rfl | exact ⟨rfl, rfl, rfl⟩ | assumption

theorem execTwWr_inv (addr : BitVec 26) (v : Word) (hc : ∀ p ∈ [Part.regs, .lanes, .skrx, .loom, .trd, .fine, .prot, .blz, .beat, .bmy, .wvr, .ten, .fmn, .mbx, .mbxMem, .bank, .bankMem, .skid, .tly, .pcie, .pwr, .tst, .out, .resp, .free], Closed R p) (h : R s) :
    OutInv R (execTwWr addr v s) := by
  unfold execTwWr
  try dsimp only
  repeat' (first | exact sub_inv (by decide) hc | with_reducible apply outInv_next | with_reducible exact outInv_fault _ | with_reducible apply outInv_ite | (intro _; try dsimp only) | with_reducible assumption | with_reducible apply inv_ite | with_reducible apply State.mon_inv | split)
  all_goals first | rfl | exact ⟨rfl, rfl, rfl⟩ | assumption

theorem execTwSet_inv (addr : BitVec 26) (mask : Word) (v : Word) (hc : ∀ p ∈ [Part.regs, .lanes, .skrx, .loom, .trd, .fine, .prot, .blz, .beat, .bmy, .wvr, .ten, .fmn, .mbx, .mbxMem, .bank, .bankMem, .skid, .tly, .pcie, .pwr, .tst, .out, .resp, .free], Closed R p) (h : R s) :
    OutInv R (execTwSet addr mask v s) := by
  unfold execTwSet
  try dsimp only
  repeat' (first | exact sub_inv (by decide) hc | with_reducible apply outInv_next | with_reducible exact outInv_fault _ | with_reducible apply outInv_ite | (intro _; try dsimp only) | with_reducible assumption | with_reducible apply inv_ite | with_reducible apply State.mon_inv | split)
  all_goals first | rfl | exact ⟨rfl, rfl, rfl⟩ | assumption

theorem execTwLane_inv (p1 : Nat) (n : Nat) (hc : ∀ p ∈ [Part.regs, .lanes, .skrx, .loom, .trd, .fine, .prot, .blz, .beat, .bmy, .wvr, .ten, .fmn, .mbx, .mbxMem, .bank, .bankMem, .skid, .tly, .pcie, .pwr, .tst, .out, .resp, .free], Closed R p) (h : R s) :
    OutInv R (execTwLane p1 n s) := by
  unfold execTwLane
  try dsimp only
  repeat' (first | exact sub_inv (by decide) hc | with_reducible apply outInv_next | with_reducible exact outInv_fault _ | with_reducible apply outInv_ite | (intro _; try dsimp only) | with_reducible assumption | with_reducible apply inv_ite | with_reducible apply State.mon_inv | split)
  all_goals first | rfl | exact ⟨rfl, rfl, rfl⟩ | assumption

theorem execTwSkein_inv (p1 : Nat) (n : Nat) (k : Nat) (hc : ∀ p ∈ [Part.regs, .lanes, .skrx, .loom, .trd, .fine, .prot, .blz, .beat, .bmy, .wvr, .ten, .fmn, .mbx, .mbxMem, .bank, .bankMem, .skid, .tly, .pcie, .pwr, .tst, .out, .resp, .free], Closed R p) (h : R s) :
    OutInv R (execTwSkein p1 n k s) := by
  unfold execTwSkein
  try dsimp only
  repeat' (first | exact sub_inv (by decide) hc | with_reducible apply outInv_next | with_reducible exact outInv_fault _ | with_reducible apply outInv_ite | (intro _; try dsimp only) | with_reducible assumption | with_reducible apply inv_ite | with_reducible apply State.mon_inv | split)
  all_goals first | rfl | exact ⟨rfl, rfl, rfl⟩ | assumption

theorem execTwHdl_inv (map : Nat) (page : Nat) (port : Nat) (index : Nat) (hc : ∀ p ∈ [Part.regs, .lanes, .skrx, .loom, .trd, .fine, .prot, .blz, .beat, .bmy, .wvr, .ten, .fmn, .mbx, .mbxMem, .bank, .bankMem, .skid, .tly, .pcie, .pwr, .tst, .out, .resp, .free], Closed R p) (h : R s) :
    OutInv R (execTwHdl map page port index s) := by
  unfold execTwHdl
  try dsimp only
  repeat' (first | exact sub_inv (by decide) hc | with_reducible apply outInv_next | with_reducible exact outInv_fault _ | with_reducible apply outInv_ite | (intro _; try dsimp only) | with_reducible assumption | with_reducible apply inv_ite | with_reducible apply State.mon_inv | split)
  all_goals first | rfl | exact ⟨rfl, rfl, rfl⟩ | assumption

theorem execTwTcmd_inv (ws : List Word) (hc : ∀ p ∈ [Part.regs, .lanes, .skrx, .loom, .trd, .fine, .prot, .blz, .beat, .bmy, .wvr, .ten, .fmn, .mbx, .mbxMem, .bank, .bankMem, .skid, .tly, .pcie, .pwr, .tst, .out, .resp, .free], Closed R p) (h : R s) :
    OutInv R (execTwTcmd ws s) := by
  unfold execTwTcmd
  try dsimp only
  repeat' (first | exact sub_inv (by decide) hc | with_reducible apply outInv_next | with_reducible exact outInv_fault _ | with_reducible apply outInv_ite | (intro _; try dsimp only) | with_reducible assumption | with_reducible apply inv_ite | with_reducible apply State.mon_inv | split)
  all_goals first | rfl | exact ⟨rfl, rfl, rfl⟩ | assumption

theorem execTwFcmd_inv (ws : List Word) (hc : ∀ p ∈ [Part.regs, .lanes, .skrx, .loom, .trd, .fine, .prot, .blz, .beat, .bmy, .wvr, .ten, .fmn, .mbx, .mbxMem, .bank, .bankMem, .skid, .tly, .pcie, .pwr, .tst, .out, .resp, .free], Closed R p) (h : R s) :
    OutInv R (execTwFcmd ws s) := by
  unfold execTwFcmd
  try dsimp only
  repeat' (first | exact sub_inv (by decide) hc | with_reducible apply outInv_next | with_reducible exact outInv_fault _ | with_reducible apply outInv_ite | (intro _; try dsimp only) | with_reducible assumption | with_reducible apply inv_ite | with_reducible apply State.mon_inv | split)
  all_goals first | rfl | exact ⟨rfl, rfl, rfl⟩ | assumption

theorem State.twTimeout_inv (hc : ∀ p ∈ [Part.tst, .out], Closed R p) (h : R s) :
    R (s.twTimeout) := by
  unfold State.twTimeout
  try dsimp only
  repeat' (first | exact sub_inv (by decide) hc | (intro _; try dsimp only) | with_reducible assumption | with_reducible apply inv_ite | with_reducible apply State.modTst_inv | with_reducible apply State.sayEnd_inv | split)
  all_goals first | rfl | exact ⟨rfl, rfl, rfl⟩ | assumption

theorem execTwCmdTimeout_inv (hc : ∀ p ∈ [Part.tst, .out], Closed R p) (h : R s) :
    OutInv R (execTwCmdTimeout s) := by
  unfold execTwCmdTimeout
  try dsimp only
  repeat' (first | exact sub_inv (by decide) hc | with_reducible apply outInv_next | with_reducible exact outInv_fault _ | with_reducible apply outInv_ite | (intro _; try dsimp only) | with_reducible assumption | with_reducible apply inv_ite | with_reducible apply State.twTimeout_inv | split)
  all_goals first | rfl | exact ⟨rfl, rfl, rfl⟩ | assumption

theorem execTwProt_inv (g : Nat) (hc : ∀ p ∈ [Part.regs, .lanes, .skrx, .loom, .trd, .fine, .prot, .blz, .beat, .bmy, .wvr, .ten, .fmn, .mbx, .mbxMem, .bank, .bankMem, .skid, .tly, .pcie, .pwr, .tst, .out, .resp, .free], Closed R p) (h : R s) :
    OutInv R (execTwProt g s) := by
  unfold execTwProt
  try dsimp only
  repeat' (first | exact sub_inv (by decide) hc | with_reducible apply outInv_next | with_reducible exact outInv_fault _ | with_reducible apply outInv_ite | (intro _; try dsimp only) | with_reducible assumption | with_reducible apply inv_ite | with_reducible apply State.mon_inv | split)
  all_goals first | rfl | exact ⟨rfl, rfl, rfl⟩ | assumption

theorem execTwBeat_inv (hc : ∀ p ∈ [Part.regs, .lanes, .skrx, .loom, .trd, .fine, .prot, .blz, .beat, .bmy, .wvr, .ten, .fmn, .mbx, .mbxMem, .bank, .bankMem, .skid, .tly, .pcie, .pwr, .tst, .out, .resp, .free], Closed R p) (h : R s) :
    OutInv R (execTwBeat s) := by
  unfold execTwBeat
  try dsimp only
  repeat' (first | exact sub_inv (by decide) hc | with_reducible apply outInv_next | with_reducible exact outInv_fault _ | with_reducible apply outInv_ite | (intro _; try dsimp only) | with_reducible assumption | with_reducible apply inv_ite | with_reducible apply State.mon_inv | split)
  all_goals first | rfl | exact ⟨rfl, rfl, rfl⟩ | assumption

theorem execTwFmn_inv (hc : ∀ p ∈ [Part.regs, .lanes, .skrx, .loom, .trd, .fine, .prot, .blz, .beat, .bmy, .wvr, .ten, .fmn, .mbx, .mbxMem, .bank, .bankMem, .skid, .tly, .pcie, .pwr, .tst, .out, .resp, .free], Closed R p) (h : R s) :
    OutInv R (execTwFmn s) := by
  unfold execTwFmn
  try dsimp only
  repeat' (first | exact sub_inv (by decide) hc | with_reducible apply outInv_next | with_reducible exact outInv_fault _ | with_reducible apply outInv_ite | (intro _; try dsimp only) | with_reducible assumption | with_reducible apply inv_ite | with_reducible apply State.mon_inv | split)
  all_goals first | rfl | exact ⟨rfl, rfl, rfl⟩ | assumption

theorem execTwWvr_inv (w : Nat) (hc : ∀ p ∈ [Part.regs, .lanes, .skrx, .loom, .trd, .fine, .prot, .blz, .beat, .bmy, .wvr, .ten, .fmn, .mbx, .mbxMem, .bank, .bankMem, .skid, .tly, .pcie, .pwr, .tst, .out, .resp, .free], Closed R p) (h : R s) :
    OutInv R (execTwWvr w s) := by
  unfold execTwWvr
  try dsimp only
  repeat' (first | exact sub_inv (by decide) hc | with_reducible apply outInv_next | with_reducible exact outInv_fault _ | with_reducible apply outInv_ite | (intro _; try dsimp only) | with_reducible assumption | with_reducible apply inv_ite | with_reducible apply State.mon_inv | split)
  all_goals first | rfl | exact ⟨rfl, rfl, rfl⟩ | assumption

theorem execTwTally_inv (c : Nat) (i : Nat) (t : Nat) (shadow : Bool) (hc : ∀ p ∈ [Part.regs, .lanes, .skrx, .loom, .trd, .fine, .prot, .blz, .beat, .bmy, .wvr, .ten, .fmn, .mbx, .mbxMem, .bank, .bankMem, .skid, .tly, .pcie, .pwr, .tst, .out, .resp, .free], Closed R p) (h : R s) :
    OutInv R (execTwTally c i t shadow s) := by
  unfold execTwTally
  try dsimp only
  repeat' (first | exact sub_inv (by decide) hc | with_reducible apply outInv_next | with_reducible exact outInv_fault _ | with_reducible apply outInv_ite | (intro _; try dsimp only) | with_reducible assumption | with_reducible apply inv_ite | with_reducible apply State.mon_inv | split)
  all_goals first | rfl | exact ⟨rfl, rfl, rfl⟩ | assumption

theorem execTwTraceStart_inv (hc : ∀ p ∈ [Part.regs, .lanes, .skrx, .loom, .trd, .fine, .prot, .blz, .beat, .bmy, .wvr, .ten, .fmn, .mbx, .mbxMem, .bank, .bankMem, .skid, .tly, .pcie, .pwr, .tst, .out, .resp, .free], Closed R p) (h : R s) :
    OutInv R (execTwTraceStart s) := by
  unfold execTwTraceStart
  try dsimp only
  repeat' (first | exact sub_inv (by decide) hc | with_reducible apply outInv_next | with_reducible exact outInv_fault _ | with_reducible apply outInv_ite | (intro _; try dsimp only) | with_reducible assumption | with_reducible apply inv_ite | with_reducible apply State.mon_inv | split)
  all_goals first | rfl | exact ⟨rfl, rfl, rfl⟩ | assumption

theorem execTwTraceStop_inv (hc : ∀ p ∈ [Part.regs, .lanes, .skrx, .loom, .trd, .fine, .prot, .blz, .beat, .bmy, .wvr, .ten, .fmn, .mbx, .mbxMem, .bank, .bankMem, .skid, .tly, .pcie, .pwr, .tst, .out, .resp, .free], Closed R p) (h : R s) :
    OutInv R (execTwTraceStop s) := by
  unfold execTwTraceStop
  try dsimp only
  repeat' (first | exact sub_inv (by decide) hc | with_reducible apply outInv_next | with_reducible exact outInv_fault _ | with_reducible apply outInv_ite | (intro _; try dsimp only) | with_reducible assumption | with_reducible apply inv_ite | with_reducible apply State.mon_inv | split)
  all_goals first | rfl | exact ⟨rfl, rfl, rfl⟩ | assumption

theorem execTwTraceTrig_inv (hc : ∀ p ∈ [Part.regs, .lanes, .skrx, .loom, .trd, .fine, .prot, .blz, .beat, .bmy, .wvr, .ten, .fmn, .mbx, .mbxMem, .bank, .bankMem, .skid, .tly, .pcie, .pwr, .tst, .out, .resp, .free], Closed R p) (h : R s) :
    OutInv R (execTwTraceTrig s) := by
  unfold execTwTraceTrig
  try dsimp only
  repeat' (first | exact sub_inv (by decide) hc | with_reducible apply outInv_next | with_reducible exact outInv_fault _ | with_reducible apply outInv_ite | (intro _; try dsimp only) | with_reducible assumption | with_reducible apply inv_ite | with_reducible apply State.mon_inv | split)
  all_goals first | rfl | exact ⟨rfl, rfl, rfl⟩ | assumption

theorem execTwTraceDump_inv (n : Nat) (hc : ∀ p ∈ [Part.regs, .lanes, .skrx, .loom, .trd, .fine, .prot, .blz, .beat, .bmy, .wvr, .ten, .fmn, .mbx, .mbxMem, .bank, .bankMem, .skid, .tly, .pcie, .pwr, .tst, .out, .resp, .free], Closed R p) (h : R s) :
    OutInv R (execTwTraceDump n s) := by
  unfold execTwTraceDump
  try dsimp only
  repeat' (first | exact sub_inv (by decide) hc | with_reducible apply outInv_next | with_reducible exact outInv_fault _ | with_reducible apply outInv_ite | (intro _; try dsimp only) | with_reducible assumption | with_reducible apply inv_ite | with_reducible apply State.mon_inv | split)
  all_goals first | rfl | exact ⟨rfl, rfl, rfl⟩ | assumption

theorem execTwResetCold_inv (hc : ∀ p ∈ [Part.regs, .lanes, .skrx, .loom, .trd, .fine, .prot, .blz, .beat, .bmy, .wvr, .ten, .fmn, .mbx, .mbxMem, .bank, .bankMem, .skid, .tly, .pcie, .pwr, .tst, .out, .resp, .free], Closed R p) (h : R s) :
    OutInv R (execTwResetCold s) := by
  unfold execTwResetCold
  try dsimp only
  repeat' (first | exact sub_inv (by decide) hc | with_reducible apply outInv_next | with_reducible exact outInv_fault _ | with_reducible apply outInv_ite | (intro _; try dsimp only) | with_reducible assumption | with_reducible apply inv_ite | with_reducible apply State.mon_inv | split)
  all_goals first | rfl | exact ⟨rfl, rfl, rfl⟩ | assumption

theorem execTwResetWarm_inv (hc : ∀ p ∈ [Part.regs, .lanes, .skrx, .loom, .trd, .fine, .prot, .blz, .beat, .bmy, .wvr, .ten, .fmn, .mbx, .mbxMem, .bank, .bankMem, .skid, .tly, .pcie, .pwr, .tst, .out, .resp, .free], Closed R p) (h : R s) :
    OutInv R (execTwResetWarm s) := by
  unfold execTwResetWarm
  try dsimp only
  repeat' (first | exact sub_inv (by decide) hc | with_reducible apply outInv_next | with_reducible exact outInv_fault _ | with_reducible apply outInv_ite | (intro _; try dsimp only) | with_reducible assumption | with_reducible apply inv_ite | with_reducible apply State.mon_inv | split)
  all_goals first | rfl | exact ⟨rfl, rfl, rfl⟩ | assumption

theorem execTwResetCp_inv (hc : ∀ p ∈ [Part.regs, .lanes, .skrx, .loom, .trd, .fine, .prot, .blz, .beat, .bmy, .wvr, .ten, .fmn, .mbx, .mbxMem, .bank, .bankMem, .skid, .tly, .pcie, .pwr, .tst, .out, .resp, .free], Closed R p) (h : R s) :
    OutInv R (execTwResetCp s) := by
  unfold execTwResetCp
  try dsimp only
  repeat' (first | exact sub_inv (by decide) hc | with_reducible apply outInv_next | with_reducible exact outInv_fault _ | with_reducible apply outInv_ite | (intro _; try dsimp only) | with_reducible assumption | with_reducible apply inv_ite | with_reducible apply State.mon_inv | split)
  all_goals first | rfl | exact ⟨rfl, rfl, rfl⟩ | assumption

theorem execTwBaud_inv (code : Nat) (hc : ∀ p ∈ [Part.regs, .lanes, .skrx, .loom, .trd, .fine, .prot, .blz, .beat, .bmy, .wvr, .ten, .fmn, .mbx, .mbxMem, .bank, .bankMem, .skid, .tly, .pcie, .pwr, .tst, .out, .resp, .free], Closed R p) (h : R s) :
    OutInv R (execTwBaud code s) := by
  unfold execTwBaud
  try dsimp only
  repeat' (first | exact sub_inv (by decide) hc | with_reducible apply outInv_next | with_reducible exact outInv_fault _ | with_reducible apply outInv_ite | (intro _; try dsimp only) | with_reducible assumption | with_reducible apply inv_ite | with_reducible apply State.mon_inv | split)
  all_goals first | rfl | exact ⟨rfl, rfl, rfl⟩ | assumption

theorem execTwLock_inv (hc : ∀ p ∈ [Part.regs, .lanes, .skrx, .loom, .trd, .fine, .prot, .blz, .beat, .bmy, .wvr, .ten, .fmn, .mbx, .mbxMem, .bank, .bankMem, .skid, .tly, .pcie, .pwr, .tst, .out, .resp, .free], Closed R p) (h : R s) :
    OutInv R (execTwLock s) := by
  unfold execTwLock
  try dsimp only
  repeat' (first | exact sub_inv (by decide) hc | with_reducible apply outInv_next | with_reducible exact outInv_fault _ | with_reducible apply outInv_ite | (intro _; try dsimp only) | with_reducible assumption | with_reducible apply inv_ite | with_reducible apply State.mon_inv | split)
  all_goals first | rfl | exact ⟨rfl, rfl, rfl⟩ | assumption

end Sys2Proof.Machine
end

