-- ==== Sys2Proof/Laws/InvBolt.lean ====
section
/-! SUPPORT. What the operations of Machine/Bolt.lean keep. -/
namespace Sys2Proof.Machine

variable {R : State → Prop} {s : State}

theorem State.reportLeft_inv (hc : ∀ p ∈ [Part.regs, .integ, .ten, .pcie, .out], Closed R p) (h : R s) :
    R (s.reportLeft) := by
  unfold State.reportLeft
  try dsimp only
  repeat' (first | exact sub_inv (by decide) hc | (intro _; try dsimp only) | with_reducible assumption | with_reducible apply inv_ite | with_reducible apply seqAll_inv | with_reducible apply State.reportL_inv | with_reducible apply State.reportS_inv | split)
  all_goals first | rfl | exact ⟨rfl, rfl, rfl⟩ | assumption

theorem State.readsLeft_inv (hc : ∀ p ∈ [Part.regs, .bank], Closed R p) (h : R s) :
    R (s.readsLeft) := by
  unfold State.readsLeft
  try dsimp only
  repeat' (first | exact sub_inv (by decide) hc | (intro _; try dsimp only) | with_reducible assumption | with_reducible apply inv_ite | with_reducible apply State.when_inv | with_reducible apply State.hdlReadDone_inv | with_reducible apply State.fineReadDone_inv | with_reducible apply State.burnDone_inv | split)
  all_goals first | rfl | exact ⟨rfl, rfl, rfl⟩ | assumption

theorem State.enginesLeft_inv (hc : ∀ p ∈ [Part.regs, .loom, .trd, .fine, .prot, .bank, .bankMem, .pcie, .tst, .out, .free], Closed R p) (h : R s) :
    R (s.enginesLeft) := by
  unfold State.enginesLeft
  try dsimp only
  repeat' (first | exact sub_inv (by decide) hc | (intro _; try dsimp only) | with_reducible assumption | with_reducible apply inv_ite | with_reducible apply State.batchTimeout_inv | with_reducible apply State.armDeadline_inv | with_reducible apply State.finePost_inv | with_reducible apply State.copyDone_inv | with_reducible apply State.postBatch_inv | with_reducible apply State.commitsDue_inv | split)
  all_goals first | rfl | exact ⟨rfl, rfl, rfl⟩ | assumption

theorem State.tallyLeft_inv (hc : ∀ p ∈ [Part.regs, .wvr, .bank, .bankMem, .tly, .pcie, .tst, .out, .free], Closed R p) (h : R s) :
    R (s.tallyLeft) := by
  unfold State.tallyLeft
  try dsimp only
  repeat' (first | exact sub_inv (by decide) hc | (intro _; try dsimp only) | with_reducible assumption | with_reducible apply inv_ite | with_reducible apply State.when_inv | with_reducible apply State.tlyReadLeft_inv | with_reducible apply State.tallyFold_inv | with_reducible apply State.snapshot_inv | with_reducible apply seqAll_inv | with_reducible apply State.writeRecord_inv | with_reducible apply State.perfStep_inv | split)
  all_goals first | rfl | exact ⟨rfl, rfl, rfl⟩ | assumption

theorem State.unstall_inv (a : Stalled) (hc : ∀ p ∈ [Part.regs, .trd, .fine, .fmn, .bank, .bankMem, .pcie, .tst, .out, .free], Closed R p) (h : R s) :
    R (s.unstall a) := by
  unfold State.unstall
  try dsimp only
  repeat' (first | exact sub_inv (by decide) hc | (intro _; try dsimp only) | with_reducible assumption | with_reducible apply inv_ite | with_reducible apply State.postDone_inv | with_reducible apply State.sampleWrite_inv | with_reducible apply State.ckptWrite_inv | split)
  all_goals first | rfl | exact ⟨rfl, rfl, rfl⟩ | assumption

theorem State.stalledLeft_inv (hc : ∀ p ∈ [Part.regs, .trd, .fine, .fmn, .bank, .bankMem, .pcie, .tst, .out, .free], Closed R p) (h : R s) :
    R (s.stalledLeft) := by
  unfold State.stalledLeft
  try dsimp only
  repeat' (first | exact sub_inv (by decide) hc | (intro _; try dsimp only) | with_reducible assumption | with_reducible apply inv_ite | with_reducible apply seqAll_inv | with_reducible apply State.unstall_inv | with_reducible apply State.modTst_inv | split)
  all_goals first | rfl | exact ⟨rfl, rfl, rfl⟩ | assumption

theorem State.servicesLeft_inv (hc : ∀ p ∈ [Part.regs, .lanes, .skrx, .loom, .trd, .fine, .prot, .blz, .beat, .bmy, .wvr, .ten, .fmn, .mbx, .mbxMem, .bank, .bankMem, .skid, .tly, .pcie, .pwr, .tst, .out, .resp, .free], Closed R p) (h : R s) :
    R (s.servicesLeft) := by
  unfold State.servicesLeft
  try dsimp only
  repeat' (first | exact sub_inv (by decide) hc | (intro _; try dsimp only) | with_reducible assumption | with_reducible apply inv_ite | with_reducible apply State.wakeLeft_inv | with_reducible apply State.handoversLeft_inv | with_reducible apply State.handoverLeft_inv | with_reducible apply State.foremenLeft_inv | with_reducible apply State.when_inv | with_reducible apply State.leaseTick_inv | with_reducible apply seqAll_inv | with_reducible apply State.polRun_inv | with_reducible apply State.tracePost_inv | with_reducible apply State.monLeft_inv | with_reducible apply State.stalledLeft_inv | with_reducible apply State.holdsLeft_inv | with_reducible apply State.twTimeout_inv | with_reducible apply State.tenLost_inv | with_reducible apply State.tenEventsLeft_inv | with_reducible apply State.tdResend_inv | with_reducible apply State.drainsLeft_inv | split)
  all_goals first | rfl | exact ⟨rfl, rfl, rfl⟩ | assumption

theorem State.boltLeft_inv (hc : ∀ p ∈ [Part.regs, .lanes, .integ, .skrx, .sktx, .ports, .loom, .trd, .fine, .prot, .blz, .beat, .bmy, .wvr, .ten, .fmn, .mbx, .mbxMem, .bank, .bankMem, .skid, .tly, .pcie, .pwr, .tst, .out, .resp, .free], Closed R p) (h : R s) :
    R (s.boltLeft) := by
  unfold State.boltLeft
  try dsimp only
  repeat' (first | exact sub_inv (by decide) hc | (intro _; try dsimp only) | with_reducible assumption | with_reducible apply inv_ite | with_reducible apply State.servicesLeft_inv | with_reducible apply State.tallyLeft_inv | with_reducible apply State.beatLeft_inv | with_reducible apply State.reportLeft_inv | with_reducible apply State.enginesLeft_inv | with_reducible apply State.readsLeft_inv | with_reducible apply State.domLeft_inv | with_reducible apply State.resetLeft_inv | with_reducible apply State.bmyProcess_inv | with_reducible apply State.linksLeft_inv | with_reducible apply State.framersLeft_inv | with_reducible apply State.closeBoundary_inv | split)
  all_goals first | rfl | exact ⟨rfl, rfl, rfl⟩ | assumption

theorem State.stepDefect_inv (l : Nat) (d : Nat) (o : LaneObs) (hc : ∀ p ∈ [Part.integ], Closed R p) (h : R s) :
    R (s.stepDefect l d o) := by
  unfold State.stepDefect
  try dsimp only
  repeat' (first | exact sub_inv (by decide) hc | (intro _; try dsimp only) | with_reducible assumption | with_reducible apply inv_ite | with_reducible apply State.modInteg_inv | split)
  all_goals first | rfl | exact ⟨rfl, rfl, rfl⟩ | assumption

theorem State.intgTake_inv (l : Nat) (hc : ∀ p ∈ [Part.lanes, .integ], Closed R p) (h : R s) : R (s.intgTake l) := by
  unfold State.intgTake
  dsimp only
  split
  · exact h
  · exact State.modLane_inv _ _ (sub_inv (by decide) hc) (hc .integ (by decide) _ _ h)

theorem State.laneEval_inv (l : Nat) (o : LaneObs) (hc : ∀ p ∈ [Part.regs, .integ], Closed R p) (h : R s) :
    R (s.laneEval l o) := by
  unfold State.laneEval
  try dsimp only
  repeat' (first | exact sub_inv (by decide) hc | (intro _; try dsimp only) | with_reducible assumption | with_reducible apply inv_ite | with_reducible apply seqAll_inv | with_reducible apply State.stepDefect_inv | with_reducible apply State.setReg_inv | split)
  all_goals first | rfl | exact ⟨rfl, rfl, rfl⟩ | assumption

theorem State.skeinLatch_inv (hc : ∀ p ∈ [Part.integ], Closed R p) (h : R s) : R s.skeinLatch := hc .integ (by decide) _ _ h

theorem State.fillSlip_inv (l : Nat) (hc : ∀ p ∈ [Part.regs, .lanes], Closed R p) (h : R s) :
    R (s.fillSlip l) := by
  unfold State.fillSlip
  try dsimp only
  repeat' (first | exact sub_inv (by decide) hc | (intro _; try dsimp only) | with_reducible assumption | with_reducible apply inv_ite | with_reducible apply State.incReg_inv | with_reducible apply State.modLane_inv | split)
  all_goals first | rfl | exact ⟨rfl, rfl, rfl⟩ | assumption

theorem State.laneCounts_inv (l : Nat) (o : LaneObs) (hc : ∀ p ∈ [Part.tly], Closed R p) (h : R s) :
    R (s.laneCounts l o) := by
  unfold State.laneCounts
  try dsimp only
  repeat' (first | exact sub_inv (by decide) hc | (intro _; try dsimp only) | with_reducible assumption | with_reducible apply inv_ite | with_reducible apply State.count_inv | split)
  all_goals first | rfl | exact ⟨rfl, rfl, rfl⟩ | assumption

theorem State.fxCounts_inv (l : Nat) (hc : ∀ p ∈ [Part.tly], Closed R p) (h : R s) :
    R (s.fxCounts l) := by
  unfold State.fxCounts
  try dsimp only
  repeat' (first | exact sub_inv (by decide) hc | (intro _; try dsimp only) | with_reducible assumption | with_reducible apply inv_ite | with_reducible apply seqAll_inv | with_reducible apply State.count_inv | split)
  all_goals first | rfl | exact ⟨rfl, rfl, rfl⟩ | assumption

theorem State.recTake_inv (o : BoltObs) (hc : ∀ p ∈ [Part.tly], Closed R p) (h : R s) :
    R (s.recTake o) := by
  unfold State.recTake
  try dsimp only
  repeat' (first | exact sub_inv (by decide) hc | (intro _; try dsimp only) | with_reducible assumption | with_reducible apply inv_ite | with_reducible apply State.modTly_inv | split)
  all_goals first | rfl | exact ⟨rfl, rfl, rfl⟩ | assumption

theorem State.tallyBolt_inv (o : BoltObs) (hc : ∀ p ∈ [Part.wvr, .tly, .free], Closed R p) (h : R s) :
    R (s.tallyBolt o) := by
  unfold State.tallyBolt
  try dsimp only
  repeat' (first | exact sub_inv (by decide) hc | (intro _; try dsimp only) | with_reducible assumption | with_reducible apply inv_ite | with_reducible apply seqAll_inv | with_reducible apply State.fxCounts_inv | with_reducible apply State.laneCounts_inv | with_reducible apply State.modTly_inv | with_reducible apply State.passInc_inv | with_reducible apply State.recTake_inv | with_reducible apply State.protCounts_inv | split)
  all_goals first | rfl | exact ⟨rfl, rfl, rfl⟩ | assumption

theorem State.scrubStep_inv (o : BoltObs) (hc : ∀ p ∈ [Part.regs, .bank, .pcie, .out], Closed R p) (h : R s) :
    R (s.scrubStep o) := by
  unfold State.scrubStep
  try dsimp only
  repeat' (first | exact sub_inv (by decide) hc | (intro _; try dsimp only) | with_reducible assumption | with_reducible apply inv_ite | with_reducible apply seqAll_inv | with_reducible apply State.modBank_inv | with_reducible apply State.readWord_inv | split)
  all_goals first | rfl | exact ⟨rfl, rfl, rfl⟩ | assumption

theorem State.perturbLane_inv (en : Bool) (l : Nat) (hc : ∀ p ∈ [Part.regs, .lanes], Closed R p) (h : R s) :
    R (s.perturbLane en l) := by
  unfold State.perturbLane
  try dsimp only
  repeat' (first | exact sub_inv (by decide) hc | (intro _; try dsimp only) | with_reducible assumption | with_reducible apply inv_ite | with_reducible apply State.setRf_inv | with_reducible apply State.modLane_inv | split)
  all_goals first | rfl | exact ⟨rfl, rfl, rfl⟩ | assumption

theorem State.perturbApply_inv (hc : ∀ p ∈ [Part.regs, .lanes, .beat, .ten, .pcie, .tst, .out], Closed R p) (h : R s) :
    R (s.perturbApply) := by
  unfold State.perturbApply
  try dsimp only
  repeat' (first | exact sub_inv (by decide) hc | (intro _; try dsimp only) | with_reducible assumption | with_reducible apply inv_ite | with_reducible apply seqAll_inv | with_reducible apply State.perturbLane_inv | with_reducible apply State.modTst_inv | with_reducible apply State.modBeat_inv | with_reducible apply State.oofIrq_inv | split)
  all_goals first | rfl | exact ⟨rfl, rfl, rfl⟩ | assumption

theorem State.noteLost_inv (l : Nat) (hc : ∀ p ∈ [Part.lanes], Closed R p) (h : R s) :
    R (s.noteLost l) := by
  unfold State.noteLost
  try dsimp only
  repeat' (first | exact sub_inv (by decide) hc | (intro _; try dsimp only) | with_reducible assumption | with_reducible apply inv_ite | with_reducible apply State.modLane_inv | split)
  all_goals first | rfl | exact ⟨rfl, rfl, rfl⟩ | assumption

theorem State.noteRecentre_inv (l : Nat) (hc : ∀ p ∈ [Part.lanes], Closed R p) (h : R s) :
    R (s.noteRecentre l) := by
  unfold State.noteRecentre
  try dsimp only
  repeat' (first | exact sub_inv (by decide) hc | (intro _; try dsimp only) | with_reducible assumption | with_reducible apply inv_ite | with_reducible apply State.modLane_inv | split)
  all_goals first | rfl | exact ⟨rfl, rfl, rfl⟩ | assumption

theorem State.laneBolt_inv (l : Nat) (o : LaneObs) (b : Word) (hc : ∀ p ∈ [Part.regs, .lanes, .integ], Closed R p) (h : R s) :
    R (s.laneBolt l o b) := by
  unfold State.laneBolt
  try dsimp only
  repeat' (first | exact sub_inv (by decide) hc | (intro _; try dsimp only) | with_reducible assumption | with_reducible apply inv_ite | with_reducible apply State.when_inv | with_reducible apply State.intgTake_inv | with_reducible apply State.laneEval_inv | with_reducible apply State.satReg_inv | with_reducible apply State.fillSlip_inv | with_reducible apply State.noteRecentre_inv | with_reducible apply State.noteLost_inv | with_reducible apply State.modLane_inv | split)
  all_goals first | rfl | exact ⟨rfl, rfl, rfl⟩ | assumption

theorem State.loopRest_inv (x : LaneObs) (hc : ∀ p ∈ [Part.lanes], Closed R p) (h : R s) :
    R (s.loopRest x) := by
  unfold State.loopRest
  try dsimp only
  repeat' (first | exact sub_inv (by decide) hc | (intro _; try dsimp only) | with_reducible assumption | with_reducible apply inv_ite | with_reducible apply seqAll_inv | with_reducible apply State.loopPut_inv | split)
  all_goals first | rfl | exact ⟨rfl, rfl, rfl⟩ | assumption

theorem State.loopSend_inv (l : Nat) (hc : ∀ p ∈ [Part.lanes, .out], Closed R p) (h : R s) :
    R (s.loopSend l) := by
  unfold State.loopSend
  try dsimp only
  repeat' (first | exact sub_inv (by decide) hc | (intro _; try dsimp only) | with_reducible assumption | with_reducible apply inv_ite | with_reducible apply State.modLane_inv | with_reducible apply State.send_inv | split)
  all_goals first | rfl | exact ⟨rfl, rfl, rfl⟩ | assumption

theorem State.loopEnd_inv (o : BoltObs) (hc : ∀ p ∈ [Part.lanes, .out], Closed R p) (h : R s) :
    R (s.loopEnd o) := by
  unfold State.loopEnd
  try dsimp only
  repeat' (first | exact sub_inv (by decide) hc | (intro _; try dsimp only) | with_reducible assumption | with_reducible apply inv_ite | with_reducible apply seqAll_inv | with_reducible apply State.when_inv | with_reducible apply State.loopRest_inv | with_reducible apply State.loopSend_inv | split)
  all_goals first | rfl | exact ⟨rfl, rfl, rfl⟩ | assumption

theorem State.accErrs_inv (o : BoltObs) (hc : ∀ p ∈ [Part.regs, .integ, .skrx, .tly], Closed R p) (h : R s) :
    R (s.accErrs o) := by
  unfold State.accErrs
  try dsimp only
  repeat' (first | exact sub_inv (by decide) hc | (intro _; try dsimp only) | with_reducible assumption | with_reducible apply inv_ite | with_reducible apply seqAll_inv | with_reducible apply State.when_inv | with_reducible apply State.accErr_inv | split)
  all_goals first | rfl | exact ⟨rfl, rfl, rfl⟩ | assumption

theorem State.reloadsMark_inv (hc : ∀ p ∈ [Part.loom, .fine], Closed R p) (h : R s) :
    R (s.reloadsMark) := by
  unfold State.reloadsMark
  try dsimp only
  repeat' (first | exact sub_inv (by decide) hc | (intro _; try dsimp only) | with_reducible assumption | with_reducible apply inv_ite | with_reducible apply State.modFine_inv | with_reducible apply State.modLoom_inv | split)
  all_goals first | rfl | exact ⟨rfl, rfl, rfl⟩ | assumption

theorem State.skeinBolt_inv (hc : ∀ p ∈ [Part.sktx], Closed R p) (h : R s) : R s.skeinBolt :=
  hc .sktx (by decide) s s.skeinBolt.sktx h

theorem State.txBolt_inv (hc : ∀ p ∈ [Part.sktx], Closed R p) (h : R s) : R s.txBolt := hc .sktx (by decide) _ _ h

theorem State.boltEnd_inv (o : BoltObs) (hc : ∀ p ∈ [Part.regs, .lanes, .integ, .skrx, .sktx, .ports, .loom, .trd, .fine, .prot, .blz, .beat, .bmy, .wvr, .ten, .fmn, .mbx, .mbxMem, .bank, .bankMem, .skid, .tly, .pcie, .pwr, .tst, .out, .resp, .free], Closed R p) (h : R s) :
    R (s.boltEnd o) := by
  unfold State.boltEnd
  try dsimp only
  repeat' (first | exact sub_inv (by decide) hc | (intro _; try dsimp only) | with_reducible assumption | with_reducible apply inv_ite | with_reducible apply State.tallyBolt_inv | with_reducible apply State.incReg_inv | with_reducible apply State.accErrs_inv | with_reducible apply State.loopEnd_inv | with_reducible apply State.payloadEnd_inv | with_reducible apply State.boltLeft_inv | split)
  all_goals first | rfl | exact ⟨rfl, rfl, rfl⟩ | assumption

theorem State.boltTurn_inv (hc : ∀ p ∈ [Part.regs, .loom, .fine, .beat, .tly, .pwr], Closed R p) (h : R s) :
    R (s.boltTurn) := by
  unfold State.boltTurn
  try dsimp only
  repeat' (first | exact sub_inv (by decide) hc | (intro _; try dsimp only) | with_reducible assumption | with_reducible apply inv_ite | with_reducible apply State.modFine_inv | with_reducible apply State.setReg_inv | with_reducible apply State.modBeat_inv | with_reducible apply State.reloadsMark_inv | with_reducible apply State.snapTake_inv | with_reducible apply State.domTake_inv | with_reducible apply State.resetTake_inv | split)
  all_goals first | rfl | exact ⟨rfl, rfl, rfl⟩ | assumption

theorem State.lanesTurn_inv (o : BoltObs) (b : Word) (hc : ∀ p ∈ [Part.regs, .lanes, .integ, .sktx, .ports], Closed R p) (h : R s) :
    R (s.lanesTurn o b) := by
  unfold State.lanesTurn
  try dsimp only
  repeat' (first | exact sub_inv (by decide) hc | (intro _; try dsimp only) | with_reducible assumption | with_reducible apply inv_ite | with_reducible apply seqAll_inv | with_reducible apply State.laneBolt_inv | with_reducible apply State.skeinLatch_inv | with_reducible apply State.skeinBolt_inv | with_reducible apply State.modPort_inv | split)
  all_goals first | rfl | exact ⟨rfl, rfl, rfl⟩ | assumption

theorem State.boltBoundary_inv (o : BoltObs) (hc : ∀ p ∈ [Part.regs, .lanes, .integ, .skrx, .sktx, .ports, .loom, .trd, .fine, .prot, .blz, .beat, .bmy, .wvr, .ten, .fmn, .mbx, .mbxMem, .bank, .bankMem, .skid, .tly, .pcie, .pwr, .tst, .out, .resp, .free], Closed R p) (h : R s) :
    R (s.boltBoundary o) := by
  unfold State.boltBoundary
  try dsimp only
  repeat' (first | exact sub_inv (by decide) hc | (intro _; try dsimp only) | with_reducible assumption | with_reducible apply inv_ite | with_reducible apply State.boltEnd_inv | with_reducible apply State.emit_inv | with_reducible apply State.beatBoundary_inv | with_reducible apply State.perturbApply_inv | with_reducible apply State.lanesTurn_inv | with_reducible apply State.boltTurn_inv | with_reducible apply State.agentBoundary_inv | with_reducible apply State.apsCopyAll_inv | with_reducible apply State.polWatch_inv | with_reducible apply State.txBolt_inv | with_reducible apply State.sendHeaders_inv | with_reducible apply State.bmyBoundary_inv | with_reducible apply State.measureAll_inv | with_reducible apply State.protEvaluate_inv | with_reducible apply State.noteDom_inv | with_reducible apply State.scrubStep_inv | with_reducible apply State.pwrMeasure_inv | with_reducible apply State.mbxDrain_inv | split)
  all_goals first | rfl | exact ⟨rfl, rfl, rfl⟩ | assumption

theorem execModuleBoltBoundary_inv (o : BoltObs) (hc : ∀ p ∈ [Part.regs, .lanes, .integ, .skrx, .sktx, .ports, .loom, .trd, .fine, .prot, .blz, .beat, .bmy, .wvr, .ten, .fmn, .mbx, .mbxMem, .bank, .bankMem, .skid, .tly, .pcie, .pwr, .jtag, .tst, .out, .resp, .free], Closed R p) (h : R s) :
    OutInv R (execModuleBoltBoundary o s) := by
  unfold execModuleBoltBoundary
  try dsimp only
  repeat' (first | exact sub_inv (by decide) hc | with_reducible apply outInv_next | with_reducible exact outInv_fault _ | with_reducible apply outInv_ite | (intro _; try dsimp only) | with_reducible assumption | with_reducible apply inv_ite | with_reducible apply State.tripDue_inv | with_reducible apply State.boltBoundary_inv | with_reducible apply State.pwrMeasure_inv | split)
  all_goals first | rfl | exact ⟨rfl, rfl, rfl⟩ | assumption

end Sys2Proof.Machine
end

