-- ==== Sys2Proof/Laws/Keep.lean ====
section
/-! SUPPORT. Properties closed under parts of the state: agreeing with an earlier state outside those parts, and canonical contents. -/
namespace Sys2Proof.Machine

/-- Agreeing with `s0` outside `P` is closed under each part of `P`. -/
theorem only_closed (P : List Part) (s0 : State) : ∀ p ∈ P, Closed (only P s0) p := by
  intro p hp
  have key : ∀ {s t : State}, only P s0 s → (∀ r, r ≠ p → r.same s t) → only P s0 t := by
    intro s t h hr r hr'
    have hne : r ≠ p := fun e => hr' (e ▸ hp)
    have h1 := h r hr'
    have h2 := hr r hne
    cases r <;> simp only [Part.same] at h1 h2 ⊢ <;> first
      | exact h2.trans h1
      | exact ⟨h2.1.trans h1.1, h2.2.1.trans h1.2.1, h2.2.2.trans h1.2.2⟩
      | (rw [h2, h1])
  cases p
  case regs =>
    exact ⟨fun s a v h => key h (fun r hr => by cases r <;> first | rfl | exact absurd rfl hr | exact ⟨rfl, rfl, rfl⟩),
      fun s q h => key h (fun r hr => by cases r <;> first | rfl | exact absurd rfl hr | exact ⟨rfl, rfl, rfl⟩)⟩
  case mbx =>
    intro s v h1 h2 h3 h
    refine key h (fun r hr => ?_)
    cases r <;> first | rfl | exact absurd rfl hr | exact ⟨h1, h2, h3⟩
  case bank =>
    intro s v h1 h
    refine key h (fun r hr => ?_)
    cases r <;> first | rfl | exact absurd rfl hr | exact h1 | exact ⟨rfl, rfl, rfl⟩
  case mbxMem =>
    refine ⟨?_, ?_, ?_, ?_⟩
    all_goals
      intros
      refine key (by assumption) (fun r hr => ?_)
      cases r <;> first | rfl | exact absurd rfl hr | exact ⟨rfl, rfl, rfl⟩
  case bankMem =>
    refine ⟨?_, ?_⟩
    all_goals
      intros
      refine key (by assumption) (fun r hr => ?_)
      cases r <;> first | rfl | exact absurd rfl hr | exact ⟨rfl, rfl, rfl⟩
  all_goals
    intro s v h
    refine key h (fun r hr => ?_)
    cases r <;> first | rfl | exact absurd rfl hr | exact ⟨rfl, rfl, rfl⟩

theorem only_refl (P : List Part) (s : State) : only P s s := by
  intro p _
  cases p <;> first | rfl | exact ⟨rfl, rfl, rfl⟩

theorem canonical_iff (s : State) : canonical s = true ↔ smWf resetOf s.regs = true ∧ Memory.wf s.bank.mem = true ∧
    Memory.wf s.mbx.mem = true ∧ Memory.wf s.mbx.slot0 = true ∧ Memory.wf s.mbx.slot1 = true := by
  simp [canonical, and_assoc]

/-- Canonical contents are closed under every part. -/
theorem canonical_closed (p : Part) : Closed (fun s => canonical s = true) p := by
  cases p
  case regs =>
    refine ⟨fun s a v h => ?_, fun s q h => ?_⟩
    · have c := (canonical_iff s).mp h
      exact (canonical_iff _).mpr ⟨smWf_smPut resetOf a v c.1, c.2⟩
    · have c := (canonical_iff s).mp h
      exact (canonical_iff _).mpr ⟨smWf_smKeep resetOf q c.1, c.2⟩
  case bank =>
    intro s v hv h
    have c := (canonical_iff s).mp h
    exact (canonical_iff _).mpr ⟨c.1, by show Memory.wf v.mem = true; rw [hv]; exact c.2.1, c.2.2⟩
  case bankMem =>
    refine ⟨fun s a bs h => ?_, fun s q h => ?_⟩
    · have c := (canonical_iff s).mp h
      exact (canonical_iff _).mpr ⟨c.1, Memory.wf_writeN a bs c.2.1, c.2.2⟩
    · have c := (canonical_iff s).mp h
      exact (canonical_iff _).mpr ⟨c.1, Memory.wf_smKeep q c.2.1, c.2.2⟩
  case mbx =>
    intro s v h1 h2 h3 h
    have c := (canonical_iff s).mp h
    refine (canonical_iff _).mpr ⟨c.1, c.2.1, ?_, ?_, ?_⟩
    · show Memory.wf v.mem = true; rw [h1]; exact c.2.2.1
    · show Memory.wf v.slot0 = true; rw [h2]; exact c.2.2.2.1
    · show Memory.wf v.slot1 = true; rw [h3]; exact c.2.2.2.2
  case mbxMem =>
    refine ⟨fun s a bs h => ?_, fun s q h => ?_, fun s a bs h => ?_, fun s a bs h => ?_⟩
    · have c := (canonical_iff s).mp h
      exact (canonical_iff _).mpr ⟨c.1, c.2.1, Memory.wf_writeN a bs c.2.2.1, c.2.2.2⟩
    · have c := (canonical_iff s).mp h
      exact (canonical_iff _).mpr ⟨c.1, c.2.1, Memory.wf_smKeep q c.2.2.1, c.2.2.2⟩
    · have c := (canonical_iff s).mp h
      exact (canonical_iff _).mpr ⟨c.1, c.2.1, c.2.2.1, Memory.wf_writeN a bs c.2.2.2.1, c.2.2.2.2⟩
    · have c := (canonical_iff s).mp h
      exact (canonical_iff _).mpr ⟨c.1, c.2.1, c.2.2.1, c.2.2.2.1, Memory.wf_writeN a bs c.2.2.2.2⟩
  all_goals exact fun s v h => h

end Sys2Proof.Machine
end

