-- ==== Sys2Proof/Laws/Exec.lean ====
section
/-! SUPPORT. What any command can do: it keeps every property that is closed under the parts it may change. -/
namespace Sys2Proof.Machine

theorem exec_inv {R : State → Prop} {s : State} (i : Instr) (hc : ∀ p ∈ touches i, Closed R p) (h : R s) : OutInv R (exec i s) := by
  cases i
  · exact execRegisterWrite_inv _ _ _ _ hc h
  · exact execIrqRawClear_inv _ _ _ _ hc h
  · exact execIrqForce_inv _ _ _ hc h
  · exact execErrlogRead_inv _ _ hc h
  · exact execModuleBoltBoundary_inv _ hc h
  · exact execSignalDetectLost_inv _ _ hc h
  · exact execSignalDetectRestored_inv _ hc h
  · exact execClockRecoveryLost_inv _ _ hc h
  · exact execClockRecoveryLocked_inv _ hc h
  · exact execCodewordLockAcquired_inv _ hc h
  · exact execCodewordLockLost_inv _ _ hc h
  · exact execFawHuntMatch_inv _ _ _ hc h
  · exact execFawExpected_inv _ _ hc h
  · exact execFramerSync_inv _ _ hc h
  · exact execFramerOutOfSync_inv _ _ hc h
  · exact execLaneHeaderRx_inv _ _ _ hc h
  · exact execSkeinHeaderRx_inv _ _ hc h
  · exact execDefectDeclared_inv _ hc h
  · exact execDefectCleared_inv _ hc h
  · exact execRecentre_inv _ _ _ hc h
  · exact execRecentreCommand_inv _ _ hc h
  · exact execLnModeWrite_inv _ _ _ hc h
  · exact execLnIntgWrite_inv _ _ _ _ hc h
  · exact execLnPatErrCntRead_inv _ _ hc h
  · exact execPickSwitch_inv _ hc h
  · exact execHeddleEccUncorrectable_inv _ hc h
  · exact execHeddleEntryReload_inv _ _ hc h
  · exact execD2dLinkLost_inv _ _ hc h
  · exact execLinkDownDeclared_inv _ hc h
  · exact execTrdEnqueue_inv _ _ _ hc h
  · exact execConnect_inv hc h
  · exact execDisconnect_inv hc h
  · exact execConnectP_inv hc h
  · exact execReconnect_inv hc h
  · exact execLock_inv hc h
  · exact execForceAis_inv hc h
  · exact execRelease_inv hc h
  · exact execCommit_inv hc h
  · exact execAbort_inv hc h
  · exact execDefrag_inv hc h
  · exact execRetag_inv hc h
  · exact execQuery_inv hc h
  · exact execFence_inv hc h
  · exact execFenceDone_inv hc h
  · exact execTrdArm_inv hc h
  · exact execTileArmAck_inv _ hc h
  · exact execArmDeadline_inv hc h
  · exact execHeddleCommit_inv hc h
  · exact execStandbyCopyDone_inv hc h
  · exact execTrdCompletionsPost_inv hc h
  · exact execTrdBatchTimeout_inv hc h
  · exact execPwaitExpire_inv hc h
  · exact execTrdAbortOpen_inv _ hc h
  · exact execTrdFlushQ_inv _ hc h
  · exact execHdlRead_inv _ hc h
  · exact execHdlReadDone_inv hc h
  · exact execFineEnqueue_inv _ _ _ hc h
  · exact execTconnect_inv hc h
  · exact execTdisconnect_inv hc h
  · exact execTreconnect_inv hc h
  · exact execTlock_inv hc h
  · exact execTforceAis_inv hc h
  · exact execTrelease_inv hc h
  · exact execFineCommit_inv hc h
  · exact execFineAbort_inv hc h
  · exact execTretagIn_inv hc h
  · exact execTretagOut_inv hc h
  · exact execTquery_inv hc h
  · exact execFineFence_inv hc h
  · exact execFineFenceDone_inv hc h
  · exact execFineLoomCommit_inv hc h
  · exact execFineCompletionsPost_inv hc h
  · exact execFineBatchTimeout_inv hc h
  · exact execFineAbortOpen_inv _ hc h
  · exact execFineFlushQ_inv _ hc h
  · exact execFineAsgWrite_inv _ _ _ hc h
  · exact execFineMapRead_inv _ hc h
  · exact execFineMapReadDone_inv hc h
  · exact execThreadPickRead_inv _ _ _ hc h
  · exact execFineEccUncorrectable_inv _ hc h
  · exact execFineEntryReload_inv _ _ hc h
  · exact execProtGcfgWrite_inv _ _ _ hc h
  · exact execProtClear_inv _ _ hc h
  · exact execProtLockout_inv _ _ hc h
  · exact execProtForce_inv _ _ _ hc h
  · exact execProtManualP_inv _ _ _ hc h
  · exact execProtManualW_inv _ _ hc h
  · exact execProtExercise_inv _ _ hc h
  · exact execProtRetime_inv _ _ hc h
  · exact execHoldoffExpire_inv _ _ _ hc h
  · exact execWtrExpire_inv _ hc h
  · exact execProtApsChgqRead_inv _ hc h
  · exact execApsMessageAccept_inv _ hc h
  · exact execFopPmSet_inv _ hc h
  · exact execFopNrSet_inv _ hc h
  · exact execFopToSet_inv _ hc h
  · exact execProtAgentHbWrite_inv _ _ hc h
  · exact execApsAgentLost_inv hc h
  · exact execProtEvqRead_inv _ hc h
  · exact execLegAcquired_inv _ _ hc h
  · exact execAcqTimeout_inv _ hc h
  · exact execStoreFillComplete_inv _ hc h
  · exact execAutoRetime_inv _ hc h
  · exact execHbmNotReady_inv _ hc h
  · exact execSelvEccUncorrectable_inv _ _ _ hc h
  · exact execSelvCfgWrite_inv _ _ hc h
  · exact execBlzClaim_inv _ _ hc h
  · exact execBlzRelease_inv _ _ hc h
  · exact execBlzUdata32Write_inv _ _ _ hc h
  · exact execBlzUdata8Write_inv _ _ _ hc h
  · exact execBlzInit_inv _ _ hc h
  · exact execBlzRunBlock_inv _ _ _ hc h
  · exact execBlzAbort_inv _ _ hc h
  · exact execBlzRunDone_inv _ hc h
  · exact execBlzUrunWrite_inv _ _ _ _ hc h
  · exact execBeatDcoLoRead_inv _ hc h
  · exact execBeatDcoLoWrite_inv _ _ hc h
  · exact execBeatDcoHiWrite_inv _ _ hc h
  · exact execFreqMonitorWindow_inv _ _ hc h
  · exact execRefActivityGap_inv _ hc h
  · exact execRefActiveRestored_inv _ hc h
  · exact execCandidateQualified_inv _ hc h
  · exact execLrQlChange_inv _ hc h
  · exact execFrefPinChange_inv _ _ hc h
  · exact execLoopStageAdvance_inv hc h
  · exact execBeatLocked_inv hc h
  · exact execBeatLockLost_inv hc h
  · exact execBeatAcqTimeout_inv hc h
  · exact execHoldoverMaxExpire_inv hc h
  · exact execHoValidSet_inv hc h
  · exact execSelectedRefLost_inv hc h
  · exact execPullComplete_inv hc h
  · exact execBeatClrHo_inv _ hc h
  · exact execBeatAlignGo_inv _ hc h
  · exact execAlignStart_inv _ hc h
  · exact execAlignComplete_inv hc h
  · exact execBeatAlignCancel_inv _ hc h
  · exact execPpsOutEdge_inv hc h
  · exact execHelloRx_inv _ _ hc h
  · exact execIdReqRx_inv _ _ hc h
  · exact execIdOfferRx_inv _ _ hc h
  · exact execIdAckRx_inv _ _ hc h
  · exact execSetupRx_inv _ _ hc h
  · exact execConfirmRx_inv _ _ hc h
  · exact execRefuseRx_inv _ _ hc h
  · exact execTeardownRx_inv _ _ hc h
  · exact execTdAckRx_inv _ _ hc h
  · exact execMgmtMessageRx_inv _ _ hc h
  · exact execHelloInterval_inv hc h
  · exact execHelloLossTimeout_inv _ hc h
  · exact execIdOfferTimeout_inv hc h
  · exact execBmyReqSetup_inv hc h
  · exact execBmyReqTeardown_inv hc h
  · exact execAgentCompletion_inv hc h
  · exact execSetupTmo_inv _ hc h
  · exact execRsvTmo_inv _ _ hc h
  · exact execRetryBackoff_inv _ hc h
  · exact execTeardownResend_inv _ hc h
  · exact execBamryAudit_inv hc h
  · exact execBmyDevidWrite_inv _ _ hc h
  · exact execBamryAgentLost_inv hc h
  · exact execBamryAgentRestart_inv hc h
  · exact execWvrRoleReqWrite_inv _ _ _ hc h
  · exact execRoleRequestServe_inv _ _ hc h
  · exact execWvrCmdDrained_inv _ _ hc h
  · exact execDrainTimeout_inv _ hc h
  · exact execRoleImageLoaded_inv _ hc h
  · exact execWvrCmdHalt_inv _ _ hc h
  · exact execWvrCmdResume_inv _ _ hc h
  · exact execWvrCmdRestart_inv _ _ hc h
  · exact execWeaverFault_inv _ _ hc h
  · exact execWeaverWatchdog_inv _ hc h
  · exact execWeaverAutoRestart_inv _ hc h
  · exact execWvrPost_inv _ _ _ hc h
  · exact execWvrInboxPop_inv _ _ hc h
  · exact execWeaverSleep_inv _ hc h
  · exact execWeaverWake_inv _ _ hc h
  · exact execPolicyInterval_inv _ _ hc h
  · exact execGuardedWrite_inv _ _ _ hc h
  · exact execPerfCollect_inv _ hc h
  · exact execTenList_inv hc h
  · exact execTenState_inv hc h
  · exact execTenCount_inv hc h
  · exact execTenProt_inv hc h
  · exact execTenHandoff_inv hc h
  · exact execHandoffRetagDone_inv hc h
  · exact execTenantEventWrite_inv _ hc h
  · exact execTenAgentLost_inv hc h
  · exact execLeaseTick_inv hc h
  · exact execLeaseExpire_inv hc h
  · exact execFmnLeaseClaim_inv _ _ hc h
  · exact execFmnLeaseRenew_inv _ _ hc h
  · exact execFmnLeaseRel_inv _ _ hc h
  · exact execHeartbeatWireEdge_inv _ hc h
  · exact execWireTimeout_inv hc h
  · exact execIslandFault_inv _ hc h
  · exact execHeldRelease_inv _ hc h
  · exact execForemanBoot_inv _ _ hc h
  · exact execBootTimeout_inv _ hc h
  · exact execForemanRevertWtr_inv hc h
  · exact execFormerHolderPowerOff_inv hc h
  · exact execFmnStartA_inv _ hc h
  · exact execFmnStartB_inv _ hc h
  · exact execFmnStopA_inv _ hc h
  · exact execFmnStopB_inv _ hc h
  · exact execFmnClrFail_inv _ hc h
  · exact execFmnPost_inv _ _ _ hc h
  · exact execFmnInboxPop_inv _ hc h
  · exact execFmnSelfWrite_inv _ _ _ hc h
  · exact execCheckpointInterval_inv hc h
  · exact execCheckpointFlashInterval_inv hc h
  · exact execMbxCqTailWrite_inv _ _ _ hc h
  · exact execMbxCommandTake_inv _ hc h
  · exact execPing_inv _ hc h
  · exact execStatus_inv _ hc h
  · exact execMbxTreadle_inv _ hc h
  · exact execMbxTreadleReply_inv hc h
  · exact execMbxFine_inv _ hc h
  · exact execMbxFineReply_inv hc h
  · exact execCkptNow_inv _ hc h
  · exact execCkptFlash_inv _ hc h
  · exact execFwWrite_inv _ _ _ hc h
  · exact execFwActivate_inv _ _ hc h
  · exact execHandover_inv _ hc h
  · exact execMgmtSend_inv _ hc h
  · exact execMgmtCfg_inv _ hc h
  · exact execMailboxReplay_inv hc h
  · exact execBankOwnWrite_inv _ _ _ hc h
  · exact execBankHandoverDone_inv _ hc h
  · exact execBankWrite_inv _ _ _ _ _ hc h
  · exact execBankRead_inv _ _ _ hc h
  · exact execBankAliasSet_inv _ _ _ _ hc h
  · exact execBankAliasClear_inv _ _ _ _ hc h
  · exact execMarchStart_inv _ _ hc h
  · exact execMarchRowLock_inv hc h
  · exact execMarchRowDone_inv _ hc h
  · exact execMarchTestDone_inv _ hc h
  · exact execMarchAbort_inv _ hc h
  · exact execBankFuseKey_inv _ _ hc h
  · exact execBankFuseCmd_inv _ _ hc h
  · exact execFuseBurnDone_inv hc h
  · exact execSkidAlloc_inv _ hc h
  · exact execSkidFree_inv _ _ hc h
  · exact execSkidBufferWrite_inv _ _ _ _ _ hc h
  · exact execSkidLowmarkRead_inv _ hc h
  · exact execTallyFold_inv hc h
  · exact execTlyRead_inv _ hc h
  · exact execTlyReadDone_inv hc h
  · exact execTlyClear_inv _ hc h
  · exact execTlySnapNow_inv _ hc h
  · exact execTlySnapAt_inv _ hc h
  · exact execSnapshot_inv hc h
  · exact execBoltRecordWrite_inv _ hc h
  · exact execTlyHclr_inv _ hc h
  · exact execPcieLinkDown_inv hc h
  · exact execPcieHotReset_inv hc h
  · exact execPcieD3hotEntry_inv hc h
  · exact execPcieRequestsResume_inv _ _ _ hc h
  · exact execMsixVectorUnmask_inv _ hc h
  · exact execGvecEoi_inv _ _ hc h
  · exact execDmaGo_inv _ _ hc h
  · exact execDmaAbort_inv _ hc h
  · exact execDmaDone_inv _ _ hc h
  · exact execSmbSetPointer_inv _ hc h
  · exact execSmbReadRegister_inv hc h
  · exact execSmbWriteRegister_inv _ hc h
  · exact execSmbReadIdentity_inv hc h
  · exact execSmbReadPower_inv hc h
  · exact execSmbReadTemperatures_inv hc h
  · exact execPowerOn_inv _ hc h
  · exact execPowerOff_inv hc h
  · exact execPwrDomCtrlWrite_inv _ _ hc h
  · exact execPortTileSleep_inv _ hc h
  · exact execPortTileWake_inv _ hc h
  · exact execPortTileUp_inv _ hc h
  · exact execClusterPowerOff_inv _ hc h
  · exact execClusterPowerOn_inv _ hc h
  · exact execClusterIdle_inv _ hc h
  · exact execHbmPowerOn_inv _ hc h
  · exact execHbmPowerOff_inv _ hc h
  · exact execHbmReady_inv _ hc h
  · exact execThermalTrip_inv hc h
  · exact execResetNAssert_inv _ hc h
  · exact execGlbRstKeyWrite_inv _ _ hc h
  · exact execGlbRstCmdCold_inv _ hc h
  · exact execGlbRstCmdWarm_inv _ hc h
  · exact execGlbRstCmdCp_inv _ hc h
  · exact execColdReset_inv _ _ hc h
  · exact execWarmReset_inv hc h
  · exact execWarmFineAsgRestore_inv hc h
  · exact execCpReset_inv hc h
  · exact execTwiuriLine_inv _ hc h
  · exact execTwHelp_inv hc h
  · exact execTwId_inv hc h
  · exact execTwRd_inv _ _ hc h
  · exact execTwWr_inv _ _ hc h
  · exact execTwSet_inv _ _ _ hc h
  · exact execTwLane_inv _ _ hc h
  · exact execTwSkein_inv _ _ _ hc h
  · exact execTwHdl_inv _ _ _ _ hc h
  · exact execTwTcmd_inv _ hc h
  · exact execTwFcmd_inv _ hc h
  · exact execTwCmdTimeout_inv hc h
  · exact execTwProt_inv _ hc h
  · exact execTwBeat_inv hc h
  · exact execTwFmn_inv hc h
  · exact execTwWvr_inv _ hc h
  · exact execTwTally_inv _ _ _ _ hc h
  · exact execTwTraceStart_inv hc h
  · exact execTwTraceStop_inv hc h
  · exact execTwTraceTrig_inv hc h
  · exact execTwTraceDump_inv _ hc h
  · exact execTwResetCold_inv hc h
  · exact execTwResetWarm_inv hc h
  · exact execTwResetCp_inv hc h
  · exact execTwBaud_inv _ hc h
  · exact execTwLock_inv hc h
  · exact execTstCfgWrite_inv _ _ hc h
  · exact execJtagTapReset_inv hc h
  · exact execJtagExtest_inv hc h
  · exact execJtagIdcode_inv hc h
  · exact execJtagSamplePreload_inv _ hc h
  · exact execJtagClamp_inv hc h
  · exact execJtagHighz_inv hc h
  · exact execJtagBypass_inv _ hc h
  · exact execJtagDbgAcc_inv _ hc h
  · exact execDbgAccDone_inv hc h
  · exact execTstPertEnWrite_inv _ _ hc h
  · exact execLnPerturbWrite_inv _ _ _ _ hc h
  · exact execShedPerturbWrite_inv _ _ _ hc h
  · exact execBeatPerturbWrite_inv _ _ _ hc h
  · exact execTstTrEmit_inv _ _ _ hc h
  · exact execTstTrStart_inv _ hc h
  · exact execTstTrStop_inv _ hc h
  · exact execTstTrTrig_inv _ hc h
  · exact execTracePostComplete_inv hc h
  · exact execTstTrRd3Read_inv _ hc h
  · exact execD2dLinkRegained_inv _ hc h
  · exact execCdpUncorrectableFault_inv hc h
  · exact execPcieLinkUp_inv _ _ hc h
  · exact execTrdBadOpcode_inv hc h
  · exact execFineBadOpcode_inv hc h
  · exact execBmyReqBadOp_inv hc h

end Sys2Proof.Machine
end

