-- ==== Sys2Proof/Laws/Line.lean ====
section
/-! SUPPORT. What the line operations do: the scrambler keeps lengths and undoes itself, a cell is 64 bytes. -/
namespace Sys2Proof.Machine

@[simp] theorem length_xorKey (k : Nat) (bs : List Byte) : (xorKey k bs).length = bs.length := by
  induction bs generalizing k with
  | nil => rfl
  | cons b t ih => simp [xorKey, ih]

@[simp] theorem xorKey_xorKey (k : Nat) (bs : List Byte) : xorKey k (xorKey k bs) = bs := by
  induction bs generalizing k with
  | nil => rfl
  | cons b t ih => simp [xorKey, ih, BitVec.xor_assoc]

@[simp] theorem length_scramble (b : Nat) (bs : List Byte) : (scramble b bs).length = bs.length := by
  unfold scramble
  split <;> simp
  omega

/-- The descrambler is the scrambler (R26). -/
@[simp] theorem scramble_scramble (b : Nat) (bs : List Byte) : scramble b (scramble b bs) = bs := by
  by_cases hb : b < 8
  · have h : scramble b bs = bs.take (8 - b) ++ xorKey (lineKey 8 (8 * (bs.length - (8 - b)))) (bs.drop (8 - b)) := if_pos hb
    rw [scramble, if_pos hb, length_scramble, h]
    rcases Nat.le_total (8 - b) bs.length with h8 | h8
    · rw [List.take_left' (by simp [h8]), List.drop_left' (by simp [h8]), xorKey_xorKey, List.take_append_drop]
    · simp [List.drop_eq_nil_of_le h8, List.take_of_length_le h8, xorKey]
  · simp [scramble, hb]

@[simp] theorem length_padTo (n : Nat) (bs : List Byte) : (padTo n bs).length = n := by
  simp [padTo]

theorem length_mkCell (start fin : Bool) (data : List Byte) : (mkCell start fin data).length = 64 := by
  simp [mkCell, beBytes]

end Sys2Proof.Machine
end

