-- ==== Sys2Proof/Laws/Ops.lean ====
section
/-! SUPPORT. What the shared operations do: the interrupt tree, emissions, accesses of the bus. -/
namespace Sys2Proof.Machine

variable (s : State)

theorem only_get {P : List Part} {s t : State} (h : only P s t) (p : Part) (hp : p ∉ P) : p.same s t := h p hp

/-- Letting the tree settle changes the PCIe block and sends messages; it changes nothing else. -/
theorem State.settle_only : only [.pcie, .out] s s.settle := State.settle_inv (only_closed _ _) (only_refl _ _)

/-- An event changes, besides, its page's IRQ_RAW. -/
theorem State.irq_only (p b : Nat) : only [.regs, .pcie, .out] s (s.irq p b) := State.irq_inv p b (only_closed _ _) (only_refl _ _)

theorem State.emit_only (o : Output) : only [.out] s (s.emit o) := State.emit_inv o (only_closed _ _) (only_refl _ _)

/-! ### settle -/

@[simp] theorem State.settle_pending : (s.settle).pending = s.pending := s.settle_only .pending (by decide)
@[simp] theorem State.settle_regs : (s.settle).regs = s.regs := s.settle_only .regs (by decide)
@[simp] theorem State.settle_lanes : (s.settle).lanes = s.lanes := s.settle_only .lanes (by decide)
@[simp] theorem State.settle_integ : (s.settle).integ = s.integ := s.settle_only .integ (by decide)
@[simp] theorem State.settle_skrx : (s.settle).skrx = s.skrx := s.settle_only .skrx (by decide)
@[simp] theorem State.settle_sktx : (s.settle).sktx = s.sktx := s.settle_only .sktx (by decide)
@[simp] theorem State.settle_ports : (s.settle).ports = s.ports := s.settle_only .ports (by decide)
@[simp] theorem State.settle_loom : (s.settle).loom = s.loom := s.settle_only .loom (by decide)
@[simp] theorem State.settle_trd : (s.settle).trd = s.trd := s.settle_only .trd (by decide)
@[simp] theorem State.settle_fine : (s.settle).fine = s.fine := s.settle_only .fine (by decide)
@[simp] theorem State.settle_prot : (s.settle).prot = s.prot := s.settle_only .prot (by decide)
@[simp] theorem State.settle_blz : (s.settle).blz = s.blz := s.settle_only .blz (by decide)
@[simp] theorem State.settle_beat : (s.settle).beat = s.beat := s.settle_only .beat (by decide)
@[simp] theorem State.settle_bmy : (s.settle).bmy = s.bmy := s.settle_only .bmy (by decide)
@[simp] theorem State.settle_wvr : (s.settle).wvr = s.wvr := s.settle_only .wvr (by decide)
@[simp] theorem State.settle_ten : (s.settle).ten = s.ten := s.settle_only .ten (by decide)
@[simp] theorem State.settle_fmn : (s.settle).fmn = s.fmn := s.settle_only .fmn (by decide)
@[simp] theorem State.settle_mbx : (s.settle).mbx = s.mbx := by
  have h1 := s.settle_only .mbx (by decide)
  have h2 := s.settle_only .mbxMem (by decide)
  simp only [Part.same] at h1 h2
  rw [h1, h2.1, h2.2.1, h2.2.2]
@[simp] theorem State.settle_bank : (s.settle).bank = s.bank := by
  have h1 := s.settle_only .bank (by decide)
  have h2 := s.settle_only .bankMem (by decide)
  simp only [Part.same] at h1 h2
  rw [h1, h2]
@[simp] theorem State.settle_skid : (s.settle).skid = s.skid := s.settle_only .skid (by decide)
@[simp] theorem State.settle_tly : (s.settle).tly = s.tly := s.settle_only .tly (by decide)
@[simp] theorem State.settle_pwr : (s.settle).pwr = s.pwr := s.settle_only .pwr (by decide)
@[simp] theorem State.settle_jtag : (s.settle).jtag = s.jtag := s.settle_only .jtag (by decide)
@[simp] theorem State.settle_tst : (s.settle).tst = s.tst := s.settle_only .tst (by decide)
@[simp] theorem State.settle_resp : (s.settle).resp = s.resp := s.settle_only .resp (by decide)
@[simp] theorem State.settle_free : (s.settle).free = s.free := s.settle_only .free (by decide)
@[simp] theorem State.lane_settle (j : Nat) : (s.settle).lane j = s.lane j := by simp [State.lane]
@[simp] theorem State.port_settle (j : Nat) : (s.settle).port j = s.port j := by simp [State.port]
@[simp] theorem State.rx_settle (j : Nat) : (s.settle).rx j = s.rx j := by simp [State.rx]
@[simp] theorem State.tx_settle (j : Nat) : (s.settle).tx j = s.tx j := by simp [State.tx]
@[simp] theorem State.integ1_settle (j : Nat) : (s.settle).integ1 j = s.integ1 j := by simp [State.integ1]
@[simp] theorem State.grp_settle (j : Nat) : (s.settle).grp j = s.grp j := by simp [State.grp]
@[simp] theorem State.unit_settle (j : Nat) : (s.settle).unit j = s.unit j := by simp [State.unit]
@[simp] theorem State.cand_settle (j : Nat) : (s.settle).cand j = s.cand j := by simp [State.cand]
@[simp] theorem State.nbr_settle (j : Nat) : (s.settle).nbr j = s.nbr j := by simp [State.nbr]
@[simp] theorem State.weaver_settle (j : Nat) : (s.settle).weaver j = s.weaver j := by simp [State.weaver]
@[simp] theorem State.reg_settle (j : Nat) : (s.settle).reg j = s.reg j := by simp [State.reg]

/-! ### irq -/

@[simp] theorem State.irq_pending (p b : Nat) : (s.irq p b).pending = s.pending := s.irq_only p b .pending (by decide)
@[simp] theorem State.irq_lanes (p b : Nat) : (s.irq p b).lanes = s.lanes := s.irq_only p b .lanes (by decide)
@[simp] theorem State.irq_integ (p b : Nat) : (s.irq p b).integ = s.integ := s.irq_only p b .integ (by decide)
@[simp] theorem State.irq_skrx (p b : Nat) : (s.irq p b).skrx = s.skrx := s.irq_only p b .skrx (by decide)
@[simp] theorem State.irq_sktx (p b : Nat) : (s.irq p b).sktx = s.sktx := s.irq_only p b .sktx (by decide)
@[simp] theorem State.irq_ports (p b : Nat) : (s.irq p b).ports = s.ports := s.irq_only p b .ports (by decide)
@[simp] theorem State.irq_loom (p b : Nat) : (s.irq p b).loom = s.loom := s.irq_only p b .loom (by decide)
@[simp] theorem State.irq_trd (p b : Nat) : (s.irq p b).trd = s.trd := s.irq_only p b .trd (by decide)
@[simp] theorem State.irq_fine (p b : Nat) : (s.irq p b).fine = s.fine := s.irq_only p b .fine (by decide)
@[simp] theorem State.irq_prot (p b : Nat) : (s.irq p b).prot = s.prot := s.irq_only p b .prot (by decide)
@[simp] theorem State.irq_blz (p b : Nat) : (s.irq p b).blz = s.blz := s.irq_only p b .blz (by decide)
@[simp] theorem State.irq_beat (p b : Nat) : (s.irq p b).beat = s.beat := s.irq_only p b .beat (by decide)
@[simp] theorem State.irq_bmy (p b : Nat) : (s.irq p b).bmy = s.bmy := s.irq_only p b .bmy (by decide)
@[simp] theorem State.irq_wvr (p b : Nat) : (s.irq p b).wvr = s.wvr := s.irq_only p b .wvr (by decide)
@[simp] theorem State.irq_ten (p b : Nat) : (s.irq p b).ten = s.ten := s.irq_only p b .ten (by decide)
@[simp] theorem State.irq_fmn (p b : Nat) : (s.irq p b).fmn = s.fmn := s.irq_only p b .fmn (by decide)
@[simp] theorem State.irq_mbx (p b : Nat) : (s.irq p b).mbx = s.mbx := by
  have h1 := s.irq_only p b .mbx (by decide)
  have h2 := s.irq_only p b .mbxMem (by decide)
  simp only [Part.same] at h1 h2
  rw [h1, h2.1, h2.2.1, h2.2.2]
@[simp] theorem State.irq_bank (p b : Nat) : (s.irq p b).bank = s.bank := by
  have h1 := s.irq_only p b .bank (by decide)
  have h2 := s.irq_only p b .bankMem (by decide)
  simp only [Part.same] at h1 h2
  rw [h1, h2]
@[simp] theorem State.irq_skid (p b : Nat) : (s.irq p b).skid = s.skid := s.irq_only p b .skid (by decide)
@[simp] theorem State.irq_tly (p b : Nat) : (s.irq p b).tly = s.tly := s.irq_only p b .tly (by decide)
@[simp] theorem State.irq_pwr (p b : Nat) : (s.irq p b).pwr = s.pwr := s.irq_only p b .pwr (by decide)
@[simp] theorem State.irq_jtag (p b : Nat) : (s.irq p b).jtag = s.jtag := s.irq_only p b .jtag (by decide)
@[simp] theorem State.irq_tst (p b : Nat) : (s.irq p b).tst = s.tst := s.irq_only p b .tst (by decide)
@[simp] theorem State.irq_resp (p b : Nat) : (s.irq p b).resp = s.resp := s.irq_only p b .resp (by decide)
@[simp] theorem State.irq_free (p b : Nat) : (s.irq p b).free = s.free := s.irq_only p b .free (by decide)
@[simp] theorem State.lane_irq (p b : Nat) (j : Nat) : (s.irq p b).lane j = s.lane j := by simp [State.lane]
@[simp] theorem State.port_irq (p b : Nat) (j : Nat) : (s.irq p b).port j = s.port j := by simp [State.port]
@[simp] theorem State.rx_irq (p b : Nat) (j : Nat) : (s.irq p b).rx j = s.rx j := by simp [State.rx]
@[simp] theorem State.tx_irq (p b : Nat) (j : Nat) : (s.irq p b).tx j = s.tx j := by simp [State.tx]
@[simp] theorem State.integ1_irq (p b : Nat) (j : Nat) : (s.irq p b).integ1 j = s.integ1 j := by simp [State.integ1]
@[simp] theorem State.grp_irq (p b : Nat) (j : Nat) : (s.irq p b).grp j = s.grp j := by simp [State.grp]
@[simp] theorem State.unit_irq (p b : Nat) (j : Nat) : (s.irq p b).unit j = s.unit j := by simp [State.unit]
@[simp] theorem State.cand_irq (p b : Nat) (j : Nat) : (s.irq p b).cand j = s.cand j := by simp [State.cand]
@[simp] theorem State.nbr_irq (p b : Nat) (j : Nat) : (s.irq p b).nbr j = s.nbr j := by simp [State.nbr]
@[simp] theorem State.weaver_irq (p b : Nat) (j : Nat) : (s.irq p b).weaver j = s.weaver j := by simp [State.weaver]

/-- The registers after an event: its page's IRQ_RAW has the bits, no other register changed. -/
theorem State.irq_reg (p b a : Nat) : (s.irq p b).reg a = if a = p + 0x10 then s.reg a ||| w32 b else s.reg a := by
  unfold State.irq
  rw [State.reg_settle, State.reg_setReg]
  split
  · rename_i h; rw [h]
  · rfl
theorem State.irq_reg_other {p b a : Nat} (h : a ≠ p + 0x10) : (s.irq p b).reg a = s.reg a := by rw [State.irq_reg, if_neg h]

/-! ### emit -/

@[simp] theorem State.emit_pending (o : Output) : (s.emit o).pending = s.pending := s.emit_only o .pending (by decide)
@[simp] theorem State.emit_regs (o : Output) : (s.emit o).regs = s.regs := s.emit_only o .regs (by decide)
@[simp] theorem State.emit_lanes (o : Output) : (s.emit o).lanes = s.lanes := s.emit_only o .lanes (by decide)
@[simp] theorem State.emit_integ (o : Output) : (s.emit o).integ = s.integ := s.emit_only o .integ (by decide)
@[simp] theorem State.emit_skrx (o : Output) : (s.emit o).skrx = s.skrx := s.emit_only o .skrx (by decide)
@[simp] theorem State.emit_sktx (o : Output) : (s.emit o).sktx = s.sktx := s.emit_only o .sktx (by decide)
@[simp] theorem State.emit_ports (o : Output) : (s.emit o).ports = s.ports := s.emit_only o .ports (by decide)
@[simp] theorem State.emit_loom (o : Output) : (s.emit o).loom = s.loom := s.emit_only o .loom (by decide)
@[simp] theorem State.emit_trd (o : Output) : (s.emit o).trd = s.trd := s.emit_only o .trd (by decide)
@[simp] theorem State.emit_fine (o : Output) : (s.emit o).fine = s.fine := s.emit_only o .fine (by decide)
@[simp] theorem State.emit_prot (o : Output) : (s.emit o).prot = s.prot := s.emit_only o .prot (by decide)
@[simp] theorem State.emit_blz (o : Output) : (s.emit o).blz = s.blz := s.emit_only o .blz (by decide)
@[simp] theorem State.emit_beat (o : Output) : (s.emit o).beat = s.beat := s.emit_only o .beat (by decide)
@[simp] theorem State.emit_bmy (o : Output) : (s.emit o).bmy = s.bmy := s.emit_only o .bmy (by decide)
@[simp] theorem State.emit_wvr (o : Output) : (s.emit o).wvr = s.wvr := s.emit_only o .wvr (by decide)
@[simp] theorem State.emit_ten (o : Output) : (s.emit o).ten = s.ten := s.emit_only o .ten (by decide)
@[simp] theorem State.emit_fmn (o : Output) : (s.emit o).fmn = s.fmn := s.emit_only o .fmn (by decide)
@[simp] theorem State.emit_mbx (o : Output) : (s.emit o).mbx = s.mbx := by
  have h1 := s.emit_only o .mbx (by decide)
  have h2 := s.emit_only o .mbxMem (by decide)
  simp only [Part.same] at h1 h2
  rw [h1, h2.1, h2.2.1, h2.2.2]
@[simp] theorem State.emit_bank (o : Output) : (s.emit o).bank = s.bank := by
  have h1 := s.emit_only o .bank (by decide)
  have h2 := s.emit_only o .bankMem (by decide)
  simp only [Part.same] at h1 h2
  rw [h1, h2]
@[simp] theorem State.emit_skid (o : Output) : (s.emit o).skid = s.skid := s.emit_only o .skid (by decide)
@[simp] theorem State.emit_tly (o : Output) : (s.emit o).tly = s.tly := s.emit_only o .tly (by decide)
@[simp] theorem State.emit_pcie (o : Output) : (s.emit o).pcie = s.pcie := s.emit_only o .pcie (by decide)
@[simp] theorem State.emit_pwr (o : Output) : (s.emit o).pwr = s.pwr := s.emit_only o .pwr (by decide)
@[simp] theorem State.emit_jtag (o : Output) : (s.emit o).jtag = s.jtag := s.emit_only o .jtag (by decide)
@[simp] theorem State.emit_tst (o : Output) : (s.emit o).tst = s.tst := s.emit_only o .tst (by decide)
@[simp] theorem State.emit_resp (o : Output) : (s.emit o).resp = s.resp := s.emit_only o .resp (by decide)
@[simp] theorem State.emit_free (o : Output) : (s.emit o).free = s.free := s.emit_only o .free (by decide)
@[simp] theorem State.lane_emit (o : Output) (j : Nat) : (s.emit o).lane j = s.lane j := by simp [State.lane]
@[simp] theorem State.port_emit (o : Output) (j : Nat) : (s.emit o).port j = s.port j := by simp [State.port]
@[simp] theorem State.rx_emit (o : Output) (j : Nat) : (s.emit o).rx j = s.rx j := by simp [State.rx]
@[simp] theorem State.tx_emit (o : Output) (j : Nat) : (s.emit o).tx j = s.tx j := by simp [State.tx]
@[simp] theorem State.integ1_emit (o : Output) (j : Nat) : (s.emit o).integ1 j = s.integ1 j := by simp [State.integ1]
@[simp] theorem State.grp_emit (o : Output) (j : Nat) : (s.emit o).grp j = s.grp j := by simp [State.grp]
@[simp] theorem State.unit_emit (o : Output) (j : Nat) : (s.emit o).unit j = s.unit j := by simp [State.unit]
@[simp] theorem State.cand_emit (o : Output) (j : Nat) : (s.emit o).cand j = s.cand j := by simp [State.cand]
@[simp] theorem State.nbr_emit (o : Output) (j : Nat) : (s.emit o).nbr j = s.nbr j := by simp [State.nbr]
@[simp] theorem State.weaver_emit (o : Output) (j : Nat) : (s.emit o).weaver j = s.weaver j := by simp [State.weaver]
@[simp] theorem State.reg_emit (o : Output) (j : Nat) : (s.emit o).reg j = s.reg j := by simp [State.reg]

/-! ### Accesses -/

theorem State.access_go {m : Mid} {a n : Nat} {wr : Bool} {f : State → State} {v : BitVec 64} (h : s.gate m a n wr = .go) :
    s.access m a n wr f v = f s := by unfold State.access; rw [h]

/-- A write that reaches its register has its effect and is answered. -/
theorem State.write4_reaches {m : Mid} {a : Nat} {v : Word} {f : State → State} (h : reaches s m a) :
    s.write4 m a v f = (f s).answer 0 := by
  have hg : s.gate m a 4 true ≠ .wait := by rw [h.2]; decide
  unfold State.write4 State.guardWrite
  rw [if_neg hg]
  have hw : m.toNat < 60 ∨ 64 ≤ m.toNat ∨ unguarded m.toNat a v = true := by
    rcases h.1 with h1 | h1
    · exact .inl h1
    · exact .inr (.inl h1)
  dsimp only
  rw [if_pos hw]
  exact s.access_go h.2

@[simp] theorem State.when_true (f : State → State) : s.when true f = f s := rfl
@[simp] theorem State.when_false (f : State → State) : s.when false f = s := rfl

end Sys2Proof.Machine
end

