-- ==== Sys2Proof/Tests/Slice0.lean ====
section
/-! SUPPORT. The author's own tests: the well-formedness checks, worked examples of the spec, and for each stated obligation states and
operands that meet its hypotheses, with a few fields of what the command then leaves. Expected values come from the spec's tables and
worked examples, or by hand from its rules. -/
namespace Sys2Proof.Tests
open Sys2Proof Sys2Proof.Machine
set_option Elab.async false

/-- The command runs, and the state it leaves passes a check. -/
def runs (o : Host.Outcome State Fault Refusal) (f : State → Bool) : Bool := match o with | .next t => f t | _ => false
/-- The command is ill-formed and changes nothing. -/
def ignored (c : Instr) (s : State) : Bool := !c.wellFormed && runs (exec c s) (fun t => decide (t = s))

/-- Reset with port 0 awake and its link up. -/
def up : State := { State.reset with ports := [(0, { awake := true, linkUp := true })] }
/-- The same with lane 0 in a given state. -/
def upLane (n : Lane) : State := { up with lanes := [(0, n)] }
/-- Reset with Foreman A the lease holder. -/
def held : State := { State.reset with fmn := { holder := 1, gen := 1, remain := 500, a := { st := .active, powered := true } } }
/-- Reset with registers set, in rising order of address. -/
def withRegs (l : List (Nat × Word)) : State := { State.reset with regs := l }

/-- The queue of target 50, the first bank of the checkpoints, held full throughout (R453): a checkpoint waits. -/
def holding (s : State) : State := { s with tst := { s.tst with pert := true, shedHook := [0x132, 0, 0, 0] } }

/-- The module bolt number moved to `b`. -/
def atBolt (b : Word) (s : State) : State := s.setReg 0x20080 b

/-! ### Well-formedness: an ill-formed term for each check -/

def okObs : BoltObs := { lanes := [], beat := ⟨0, 0, 0, 0, []⟩, vin := 0, iin := 0, pin := 0, temps := List.replicate 12 0, upsets := [] }
def okLane : LaneObs := { lane := 511, fecCor := 0, fecUnc := 0, arr := 100383, patErr := 0, aps := [(63, 0)] }
def okPick : PickIn :=
  { src := 0, round := 624, payload := List.replicate 64 7, fecUnc := false, onset := false, clk := 0, sbe := 0 }

theorem test_form_bolt : boltObsOk okObs = true ∧ boltObsOk { okObs with temps := [] } = false ∧
    boltObsOk { okObs with lanes := [okLane] } = true ∧ boltObsOk { okObs with lanes := [okLane, okLane] } = false ∧
    boltObsOk { okObs with lanes := [{ okLane with lane := 512 }] } = false ∧ boltObsOk { okObs with lanes := [{ okLane with arr := 100384 }] } = false ∧
    boltObsOk { okObs with lanes := [{ okLane with aps := [(64, 0)] }] } = false ∧
    boltObsOk { okObs with beat := ⟨0, 0, 0, 0, [(24, 0)]⟩ } = false ∧ boltObsOk { okObs with upsets := [(0x100000, true)] } = false ∧ boltObsOk { okObs with accErrs := [81920] } = false := by decide +kernel
theorem test_form_headers : laneHdrOk (List.replicate 64 0) = true ∧ laneHdrOk (List.replicate 63 0) = false ∧
    skeinHdrOk (List.replicate 32 0) = true ∧ skeinHdrOk (List.replicate 33 0) = false := by decide +kernel
theorem test_form_cells : cellRunOk 32 ⟨31, [idleCell]⟩ = true ∧ cellRunOk 32 ⟨31, [idleCell, idleCell]⟩ = false ∧ cellRunOk 64 ⟨63, [[0]]⟩ = false ∧
    cellRunOk 64 ⟨63, [idleCell]⟩ = true := by decide +kernel
theorem test_form_pick : pickOk okPick = true ∧ pickOk { okPick with src := 160 } = false ∧ pickOk { okPick with round := 625 } = false ∧
    pickOk { okPick with payload := [] } = false ∧
    pickOk { okPick with src := 0x804FF } = true ∧ pickOk { okPick with src := 0x80500 } = false := by decide +kernel
theorem test_form_tref : trefOk (BitVec.ofNat 18 (1279 * 128 + 124)) = true ∧ trefOk (BitVec.ofNat 18 (1280 * 128)) = false ∧
    trefOk 125 = false := by decide +kernel
theorem test_form_start : testOk ⟨[(63, 511)], [63], false⟩ = true ∧ testOk ⟨[(64, 0)], [], false⟩ = false ∧ testOk ⟨[(0, 512)], [], false⟩ = false ∧
    testOk ⟨[(0, 1), (0, 1)], [], false⟩ = false ∧ testOk ⟨[], [64], true⟩ = false := by decide +kernel
theorem test_form_heddle : heddleOk ⟨0, 0, 12799⟩ = true ∧ heddleOk ⟨1, 0, 12800⟩ = false ∧ heddleOk ⟨2, 8, 1279⟩ = true ∧ heddleOk ⟨2, 8, 1280⟩ = false := by
  decide +kernel
theorem test_form_rest :
    linkOk 5 4 = true ∧ linkOk 6 4 = false ∧ linkOk 1 3 = false ∧ bypassOk 0x03 = true ∧ bypassOk 0x10 = false := by decide +kernel
theorem test_ill_formed_ignored : ignored (.laneHeaderRx 0 [] 0) up = true ∧ ignored (.helloRx 0 ⟨0, [[]]⟩) up = true ∧
    ignored (.moduleBoltBoundary { okObs with temps := [] }) State.reset = true ∧ ignored (.coldReset 0 ⟨[(64, 0)], [], false⟩) up = true ∧
    ignored (.pcieLinkUp 6 4) State.reset = true := by decide +kernel

/-! ### The whole machine -/

theorem test_step_front : runs (step { State.reset with pending := [.tstPertEnWrite 66 1, .powerOff] }) (fun t =>
    t.pending == [.powerOff] && t.reg 0x60044 == 1) = true := by decide +kernel
theorem test_step_idle : State.reset.pending = [] ∧ runs (step State.reset) (fun t => decide (t = State.reset)) = true := by decide +kernel
theorem test_hyp_CanonicalKeptByEveryStep : canonical (withRegs [(0x60044, 1)]) = true ∧
    runs (step { withRegs [(0x60044, 1)] with pending := [.tstPertEnWrite 66 0] }) (fun t => canonical t && t.regs == []) = true := by decide +kernel
theorem test_hyp_EveryStepAnswersNext : queueOk { State.reset with pending := [.powerOff, .pickSwitch okPick] } = true ∧
    queueOk { State.reset with pending := [.pickSwitch { okPick with round := 625 }] } = false := by decide +kernel
theorem test_hyp_CommandsLeaveOtherPartsAlone : runs (exec .powerOff State.reset) (fun t => !t.pwr.inRange) = true := by decide +kernel


/-! ### Lanes -/

/-- A header of `n` zero bytes with its last four the CRC-32C of `bytesAt (start)`. -/
def hdr0 (n start : Nat) (first : List Byte) : List Byte :=
  let b := first ++ List.replicate (n - 4 - first.length) 0
  b ++ beBytes 4 (crc32c (b.drop start))

theorem test_hyp_LaneSignalsAndFramer :
    (upLane {}).awake 0 = true ∧ (upLane {}).awake 7 = false ∧
    (upLane { cw := true }).blind 0 = false ∧ (upLane { cw := true }).clrCnt 0 2 = 2 ∧ (upLane {}).setCnt 0 2 = 4 ∧
    ({ upLane { cw := true } with regs := [(lnA 0 0x88, 0x10001)] }).clrCnt 0 2 = 1 ∧
    (upLane { framer := .sync, err := 3 }).lossDue 0 = false ∧ (upLane { framer := .sync, err := 4 }).lossDue 0 = true ∧
    (upLane { framer := .presync, good := 1 }).syncDue 0 = false ∧ (upLane { framer := .presync, good := 2 }).syncDue 0 = true ∧
    runs (exec (.fawHuntMatch 0 faw 9) (upLane { cw := true })) (fun t => (t.lane 0).framer == .presync) = true ∧
    runs (exec (.fawHuntMatch 0 faw 9) { upLane { cw := true } with regs := [(lnA 0 0x88, 0x10001)] }) (fun t =>
      (t.lane 0).framer == .sync && t.reg (lnA 0 0x58) == 9) = true ∧
    runs (exec (.fawExpected 0 (faw ^^^ 7)) (upLane { framer := .sync })) (fun t => (t.lane 0).err == 1) = true ∧
    runs (exec (.fawExpected 0 (faw ^^^ 3)) (upLane { framer := .sync, err := 2 })) (fun t => (t.lane 0).err == 0) = true ∧
    runs (exec (.framerSync 0 9) (upLane { framer := .presync, good := 2 })) (fun t => (t.lane 0).framer == .sync) = true ∧
    runs (exec (.framerOutOfSync 0 false) (upLane { framer := .sync, err := 4 })) (fun t => (t.lane 0).framer == .hunt) = true := by
  decide +kernel

theorem test_hyp_SleepingLanesDoNothing : State.reset.awake 0 = false ∧
    runs (exec (.signalDetectRestored 0) State.reset) (fun t => !(t.lane 0).sig) = true := by decide +kernel

/-- A lane header with BOLT 5 and device word 6. -/
def goodHdr : List Byte := hdr0 64 8 (List.replicate 8 0 ++ beBytes 4 5 ++ beBytes 4 6)
/-- A skein header with TRAIL 1, SEQ 2, ORIGIN 3, tenant 4. -/
def goodSk : List Byte := hdr0 32 0 (beBytes 4 1 ++ beBytes 4 2 ++ beBytes 5 3 ++ beBytes 2 4)

theorem test_hyp_HeadersAndDefects :
    let s := upLane { framer := .sync }
    let d := { up with integ := [(laneKey 0 0, { eff := true }), (skKey 0 4, { eff := true })] }
    let c := { up with integ := [(laneKey 511 9, { decl := true }), (skKey 81919 0, { decl := true })] }
    laneHdrOk goodHdr = true ∧ hcrcOk goodHdr = true ∧ hcrcOk (1 :: goodHdr.drop 1) = true ∧ hcrcOk (goodHdr.set 8 1) = false ∧
    skeinHdrOk goodSk = true ∧ scrcOk goodSk = true ∧ scrcOk (goodSk.set 0 1) = false ∧
    runs (exec (.laneHeaderRx 0 (scramble 0 goodHdr) 0) s) (fun t => t.reg (lnA 0 0x58) == 5 && t.reg (lnA 0 0x5C) == 6) = true ∧
    runs (exec (.laneHeaderRx 0 (scramble 0 (goodHdr.set 8 1)) 0) s) (fun t => (t.lane 0).hdrBad && t.reg (lnA 0 0x70) == 1) = true ∧
    runs (exec (.skeinHeaderRx 0 (scramble 64 goodSk)) s) (fun t => (t.rx 0).trail == 1 && (t.rx 0).seq == 2 && (t.rx 0).tenant == 4) = true ∧
    (d.integ1 (laneKey 0 0)).eff = true ∧ (d.integ1 (laneKey 0 0)).decl = false ∧ (c.integ1 (laneKey 511 9)).decl = true ∧
    runs (exec (.defectDeclared (.lane 0 0)) d) (fun t => t.reg (lnA 0 0x10) == 1) = true ∧
    runs (exec (.defectCleared (.lane 511 9)) c) (fun t => t.reg (lnA 511 0x10) == 0x200) = true ∧
    runs (exec (.defectDeclared (.skein 0 4)) d) (fun t => (t.integ1 (skKey 0 4)).decl) = true ∧
    runs (exec (.defectCleared (.skein 81919 0)) c) (fun t => !(t.integ1 (skKey 81919 0)).decl) = true := by decide +kernel

theorem test_hyp_AlignmentAndLaneRegisters :
    (upLane { recCmd := true }).recentreDue 0 = true ∧ (upLane {}).recentreDue 0 = false ∧ (upLane { lostIn := true }).recentreDue 0 = true ∧
    reaches up 66 (lnA 0 0x50) ∧ reaches up 66 (lnA 63 0x40) ∧ reaches up 66 (lnA 0 0xB8) ∧ readable up 0 (lnA 63 0x74) ∧
    up.reach 0 = true ∧ ({ up with ports := [(0, { awake := true })] }).awake 0 = true ∧
    runs (exec (.recentre 0 480 3) (upLane { recCmd := true, recDue := true })) (fun t => (t.lane 0).fill == 480 && (t.lane 0).off == 3 && t.reg (lnA 0 0x6C) == 1) = true ∧
    runs (exec (.lnPatErrCntRead 0 63) { up with regs := [(lnA 63 0x74, 7)] }) (fun t => t.resp.data == 7 && t.reg (lnA 63 0x74) == 0) = true ∧
    runs (exec (.d2dLinkRegained 0) { up with ports := [(0, { awake := true })] }) (fun t => (t.port 0).linkUp) = true := by
  simp only [reaches, readable]; decide +kernel


/-! ### The loom -/

/-- A Treadle or Fine loom command of window 0 from its first words. -/
def qc (l : List Word) : QCmd := { win := 0, ws := l ++ List.replicate (8 - l.length) 0 }
/-- The ports up, skein 0 to egress skein 1 on the standby page. -/
def pg : HMaps := { ing := [(0, mkIng 0 0)], reed := [(0, mkReed 0)], eg := [(1, mkEg 0 1 0 0 false false 0)] }
/-- Port 0 up with `c` at the head of the Treadle's queue, over a standby page. -/
def withQ (c : QCmd) (h : HMaps) : State := { up with trd := { q := [c] }, loom := { stb := h } }
def okM {μ : Type} (r : RunRes μ) : Bool := match r with | .ok .. => true | _ => false
def failsAs {μ : Type} (r : RunRes μ) (st : Byte) (x : Nat) : Bool := match r with | .fail a b => a == st && b == x | _ => false

theorem test_hyp_MapCommandsJoinTheBatch :
    let conP := { withQ (qc [0x03, 0, 2, 1, 5]) {} with prot := { grp := [(5, { ty := 1 })] }, regs := [(recA 5 8, 0), (recA 5 0xC, 1), (recA 5 0x10, 2)] }
    let joined (o : Host.Outcome State Fault Refusal) : Bool := runs o (fun t => t.trd.count == 1 && t.trd.q == [] && t.loom.act == {})
    ((withQ (qc [1]) {}).cmdGroups {} (qc [1])) = [] ∧ conP.cmdGroups {} (qc [0x03, 0, 2, 1, 5]) = [(5, 2)] ∧ conP.waitsFor {} (qc [0x03, 0, 2, 1, 5]) = none ∧ conP.grpBusy 5 = false ∧
    okM ((withQ (qc [0x01, 0, 1]) {}).doConnect {} (qc [0x01, 0, 1])) = true ∧ joined (exec .connect (withQ (qc [0x01, 0, 1]) {})) = true ∧
    runs (exec .connect (withQ (qc [0x01, 0, 1]) {})) (fun t => t.loom.stb == pg) = true ∧
    joined (exec .disconnect (withQ (qc [0x02, 0, 1]) pg)) = true ∧ joined (exec .connectP conP) = true ∧
    runs (exec .connectP conP) (fun t => egPvalid (t.loom.stb.egE 2) && egSlot (t.loom.stb.egE 2) != egPslot (t.loom.stb.egE 2)) = true ∧
    joined (exec .reconnect (withQ (qc [0x04, 5, 1]) pg)) = true ∧ joined (exec .lock (withQ (qc [0x05, 0, 1]) pg)) = true ∧
    joined (exec .forceAis (withQ (qc [0x06, 0, 1]) pg)) = true ∧ joined (exec .release (withQ (qc [0x07, 0, 1]) pg)) = true ∧
    joined (exec .defrag (withQ (qc [0x0A]) pg)) = true ∧ joined (exec .retag (withQ (qc [0x0B, 0]) pg)) = true := by decide +kernel

theorem test_hyp_MapCommandResults :
    up.epFail 0 false = none ∧ up.epFail 0x3F9F true = none ∧ lsrNo 0x3F9F = some 10239 ∧ lsrNo 0xA0 = none ∧ up.reach 7 = false ∧
    lsrNo 0x7003F = some 71743 ∧ lsrPort 0x7003F = 7 ∧ egMode (pg.egE 1) = 1 ∧ egMode (pg.egE 2) = 0 ∧
    failsAs (up.doConnect pg (qc [1, 0, 1])) 0x12 1 = true ∧ failsAs (up.doDisconnect pg (qc [2, 0, 2])) 0x13 2 = true ∧
    failsAs (up.doDisconnect pg (qc [2, 0, 0xA0])) 0x11 0xA0 = true ∧ failsAs (up.doDisconnect pg (qc [2, 0, 0x7003F])) 0x1B 0x7003F = true := by
  decide +kernel

theorem test_hyp_TreadleQueueCommands :
    let o := { up with trd := { q := [qc [8]], st := .build, count := 1, batch := [mkDone (qc [1]) 0 0 0] } }
    let w := { up with trd := { q := [qc [3, 0, 2, 1, 5]], st := .waitProt, waitAt := some 0 }, regs := [(0x20080, 0xFFFFFF)],
                       prot := { grp := [(5, { ty := 2, cfgPend := true })] } }
    reaches up 66 (trdA 0x11C) ∧ reaches up 66 (trdA 0x17C) ∧ reaches up 66 (trdA 0x58) ∧
    ({ up with trd := { q := List.replicate 1024 (qc [1]) } }).trd.q.length = 1024 ∧ o.trd.isOpen = true ∧
    (atBolt 64 o).batchTmo false = 64 ∧ (qc [8]).op = 8 ∧ (qc [0x14]).op = 0x14 ∧
    runs (exec (.trdEnqueue 66 3 7) up) (fun t => t.trd.q.length == 1) = true ∧
    runs (exec (.trdEnqueue 66 0 7) { up with trd := { q := List.replicate 1024 (qc [1]) } }) (fun t =>
      t.trd.q.length == 1024 && t.reg (trdA 0x10) == 8) = true ∧
    runs (exec (.trdAbortOpen 66) o) (fun t => t.trd.st == .idle) = true ∧
    runs (exec .trdBatchTimeout (atBolt 64 o)) (fun t => t.trd.st == .idle) = true ∧
    runs (exec .commit o) (fun t => t.trd.st == .armed && t.reg (trdA 0x48) == 2) = true ∧
    runs (exec .commit { up with trd := { q := [qc [8]] } }) (fun t => t.trd.q == []) = true ∧
    runs (exec .abort { o with trd := { o.trd with q := [qc [9]] } }) (fun t => t.trd.batch == []) = true ∧
    runs (exec .query { up with trd := { q := [qc [0xC, 0, 1]] } }) (fun t => t.trd.q == []) = true ∧
    runs (exec .fence { up with trd := { q := [qc [0xD]] } }) (fun t => t.trd.q == []) = true ∧
    runs (exec .trdBadOpcode { up with trd := { q := [qc [0x0E]] } }) (fun t => t.trd.q == []) = true ∧
    runs (exec .trdCompletionsPost { up with trd := { st := .sync, post := [mkDone (qc [1]) 0 0 0] } }) (fun t => t.trd.batchNo == 1) = true ∧
    w.waitsFor w.workPages (qc [3, 0, 2, 1, 5]) = some 2 ∧ atLeast1 (w.rf (trdA 0x40) 16 8) ≤ 0xFFFFFF ∧
    runs (exec .pwaitExpire w) (fun t => t.trd.waitAt == none) = true := by simp only [reaches]; decide +kernel

theorem test_hyp_HeddleCommitAndReads :
    let a : Engine := { st := .armed, need := [0, 8], batch := [mkDone (qc [1]) 0 0 0] }
    let s := { up with trd := { a with armSent := true, acks := [0, 8] }, regs := [(0x20080, 2), (trdA 0x48, 2)], loom := { stb := pg } }
    let d := { atBolt 1 s with trd := { a with armSent := true, acks := [0] } }
    let r := { up with loom := { act := pg }, regs := [(0x801040, 0x102), (0x801048, 1)] }
    s.commitDue = true ∧ d.commitDue = false ∧ d.trd.allAcked = false ∧ reaches up 66 0x801044 ∧
    runs (exec .trdArm (atBolt 1 { up with trd := a })) (fun t => t.trd.armSent) = true ∧
    runs (exec (.tileArmAck 8) d) (fun t => t.trd.acks == [0, 8]) = true ∧
    runs (exec .armDeadline d) (fun t => t.trd.tries == 1 && t.reg (trdA 0x48) == 3) = true ∧
    runs (exec .armDeadline { d with trd := { d.trd with tries := 2 } }) (fun t => t.trd.st == .idle && t.loom.stb == {}) = true ∧
    runs (exec .heddleCommit s) (fun t => t.loom.act == pg && t.loom.stb == {}) = true ∧
    runs (exec .standbyCopyDone { s with trd := { st := .sync } }) (fun t => t.trd.st == .idle) = true ∧
    runs (exec .hdlReadDone r) (fun t => t.reg 0x80104C == 0x4000 && t.reg 0x801050 == 0 && t.reg 0x801048 == 0) = true ∧
    runs (exec .hdlReadDone { r with regs := [(0x801040, 0xA002), (0x801048, 1)] }) (fun t => t.reg 0x801048 == 2) = true ∧
    heddleKey ⟨0, 8, 12799⟩ = some 115199 ∧ heddleKey ⟨1, 8, 12800⟩ = none ∧ heddleKey ⟨2, 0, 1⟩ = some 1 ∧
    runs (exec (.heddleEccUncorrectable ⟨2, 0, 1⟩) up) (fun t => t.heddleUnc 2 1 false && t.reg 0x80105C == 1) = true ∧
    runs (exec (.heddleEntryReload ⟨2, 0, 1⟩ false) { up with loom := { ecc := [⟨2, 1, false, true, true, true⟩] } }) (fun t =>
      !t.heddleUnc 2 1 false) = true := by simp only [reaches]; decide +kernel

/-- Input and output position 0, the output with thread 0 of the input on its thread 1. -/
def fm : FMaps := { out := [(1, mkOut 0 1 false 0 0)] }
/-- `c` at the head of the Fine loom's queue, over standby maps. -/
def withT (c : QCmd) (f : FMaps) : State :=
  { State.reset with fine := { eng := { q := [c] }, stb := f }, regs := [(0x902000, 3)] }

theorem test_hyp_ThreadMapCommands :
    let joined (o : Host.Outcome State Fault Refusal) : Bool := runs o (fun t => t.fine.eng.count == 1 && t.fine.eng.q == [] && t.fine.act == {})
    (withT (qc [1, 0, 1]) {}).tFail 1 true = none ∧ (withT (qc [1]) {}).tFail 125 true = some 0x11 ∧ (withT (qc [1]) {}).tFail 128 false = some 0x19 ∧
    runs (exec .tconnect (withT (qc [1, 0, 1]) {})) (fun t => t.fine.stb == fm) = true ∧ joined (exec .tconnect (withT (qc [1, 0, 1]) {})) = true ∧
    joined (exec .tdisconnect (withT (qc [2, 0, 1]) fm)) = true ∧ joined (exec .treconnect (withT (qc [4, 2, 1]) fm)) = true ∧
    joined (exec .tlock (withT (qc [5, 0, 1]) fm)) = true ∧ joined (exec .tforceAis (withT (qc [6, 0, 1]) fm)) = true ∧
    joined (exec .trelease (withT (qc [7, 0, 1]) fm)) = true ∧ joined (exec .tretagIn (withT (qc [0xB, 0, 0]) fm)) = true ∧
    joined (exec .tretagOut (withT (qc [0xE, 0, 1]) fm)) = true ∧
    runs (exec .tquery (withT (qc [0xC, 0, 1]) fm)) (fun t => t.fine.eng.q == []) = true ∧
    failsAs ((withT (qc [2, 0, 1]) {}).doTdisconnect {} (qc [2, 0, 1])) 0x13 1 = true := by decide +kernel

theorem test_hyp_FineQueueCommands :
    let o := { State.reset with fine := { eng := { q := [qc [8]], st := .build, count := 1, batch := [mkDone (qc [1]) 0 0 0] } } }
    let c := { State.reset with fine := { eng := { st := .armed, batch := [mkDone (qc [1]) 0 0 0] }, stb := fm }, regs := [(0x20080, 2), (fineA 0x48, 2)] }
    let w (l : List Word) : State := { o with fine := { o.fine with eng := { o.fine.eng with q := [qc l] } } }
    reaches o 66 (fineA 0x17C) ∧ reaches o 66 (fineA 0x58) ∧ o.fine.eng.isOpen = true ∧ c.fineDue = true ∧ (atBolt 1 c).fineDue = false ∧
    (atBolt 64 o).batchTmo true = 64 ∧
    runs (exec (.fineEnqueue 66 3 7) o) (fun t => t.fine.eng.q.length == 2) = true ∧
    runs (exec (.fineEnqueue 66 0 7) { o with fine := { eng := { q := List.replicate 512 (qc [1]) } } }) (fun t => t.reg (fineA 0x54) == 1) = true ∧
    runs (exec (.fineAbortOpen 66) o) (fun t => t.fine.eng.st == .idle) = true ∧
    runs (exec .fineBatchTimeout (atBolt 64 o)) (fun t => t.fine.eng.st == .idle) = true ∧
    runs (exec .fineCompletionsPost { c with fine := { c.fine with eng := { st := .sync } } }) (fun t => t.fine.eng.st == .idle) = true ∧
    runs (exec .fineLoomCommit c) (fun t => t.fine.act == fm) = true ∧
    runs (exec .fineCommit o) (fun t => t.fine.eng.st == .armed && t.reg (fineA 0x48) == 1) = true ∧
    runs (exec .fineAbort (w [9])) (fun t => t.fine.eng.batch == []) = true ∧ runs (exec .fineFence (w [0xD])) (fun t => t.fine.eng.q == []) = true ∧
    runs (exec .fineBadOpcode (w [3])) (fun t => t.fine.eng.q == []) = true := by simp only [reaches]; decide +kernel

theorem test_hyp_FineLoomData :
    let s := { State.reset with regs := [(fineA 0xA0, 0x10), (fineA 0xA8, 1), (0x902000, 3)], fine := { act := fm } }
    reaches s 66 0x902000 ∧ reaches s 66 0x9033FC ∧ reaches s 66 (fineA 0xA4) ∧ bit (s.asg 0) 0 = true ∧ inUse {} fm 0 = true ∧ inUse {} fm 1 = false ∧
    runs (exec (.fineAsgWrite 66 0 2) s) (fun t => t.asg 0 == 3 && t.reg (fineA 0x20) == 0x80000000) = true ∧
    runs (exec (.fineAsgWrite 66 1279 0xFFFF) s) (fun t => t.asg 1279 == 0xFFF3) = true ∧
    runs (exec .fineMapReadDone s) (fun t => t.reg (fineA 0xAC) == 0x40000 && t.reg (fineA 0xA8) == 0) = true ∧
    runs (exec .fineMapReadDone { s with regs := [(fineA 0xA0, 0x7D0), (fineA 0xA8, 1)] }) (fun t => t.reg (fineA 0xA8) == 2) = true ∧
    trefOk (BitVec.ofNat 18 (1279 * 128 + 124)) = true ∧ outMode (s.fine.act.outE 0) = 0 ∧
    runs (exec (.threadPickRead (BitVec.ofNat 18 (1279 * 128 + 124)) 624 0) s) (fun t => (smGet {} t.fine.outp 1279).kind == .oci) = true ∧
    s.beat.edge = false ∧ runs (exec (.threadPickRead 0 0 0) { s with beat := { s.beat with edge := true } })
      (fun t => (smGet {} t.fine.outp 0).kind == .oci && !t.beat.edge && t.fine.act == fm) = true ∧
    runs (exec (.fineEccUncorrectable ⟨0, 1, true⟩) s) (fun t => t.fineUnc 0 1 false && t.reg (fineA 0xBC) == 1) = true ∧
    runs (exec (.fineEntryReload ⟨0, 1, true⟩ false) { s with fine := { ecc := [⟨0, 1, false, true, true, true⟩] } }) (fun t => !t.fineUnc 0 1 false) = true := by
  simp only [reaches]; decide +kernel


/-! ### Protection -/

/-- Reset with one group. -/
def withG (g : Nat) (q : Grp) : State := { State.reset with prot := { grp := [(g, q)] } }
/-- A valid slot: REQ, GID 0, check. -/
def slot (b : List Byte) : List Byte := b ++ beBytes 2 (crc16 b)
/-- Group 8191 of type 2 that has received slot `b`. -/
def aps (b : List Byte) (q : Grp) : State :=
  { withG 8191 q with regs := [(apsA 8191 0, w32 (beAt b 0 4)), (apsA 8191 4, w32 (beAt b 4 4))], wvr := [(5, { st := .run, role := 1 })] }

theorem test_hyp_GroupRegisterCommands :
    let e := { withG 8191 { ty := 4 } with regs := [(recA 8191 0, 0x1000007C)] }
    let q := { State.reset with prot := { evq := [8191, 0], chgq := [3] } }
    reaches State.reset 66 (recA 8191 0) ∧ tyOf (State.reset.reg (recA 8191 0)) = 0 ∧ tyOf (e.reg (recA 8191 0)) = 4 ∧
    reaches State.reset 66 (recA 0 0x14) ∧ reaches State.reset 66 (protA 0x44) ∧ readable State.reset 66 (protA 0x4C) ∧
    readable State.reset 66 (protA 0x50) ∧ reaches e 66 0xA80040 ∧ e.errorless = [8191] ∧ e.rb 0xA80040 (e.region 8191 / 2560) = true ∧
    runs (exec (.protGcfgWrite 66 8191 2) e) (fun t => fld (t.reg (recA 8191 0)) 0 3 == 4 && (t.grp 8191).cfgPend) = true ∧
    runs (exec (.protEvqRead 66) q) (fun t => t.resp.data == 0x80001FFF && t.prot.evq == [0]) = true ∧
    runs (exec (.protApsChgqRead 66) q) (fun t => t.resp.data == 0x80000003 && t.prot.chgq == []) = true ∧
    runs (exec (.selvCfgWrite 66 2) e) (fun t => t.reg 0xA80040 == 3 && t.reg 0xA80020 != 0) = true ∧
    runs (exec (.selvCfgWrite 66 0) State.reset) (fun t => t.reg 0xA80040 == 0) = true := by
  simp only [reaches, readable]; decide +kernel

theorem test_hyp_ApsChannel :
    let ok := aps (slot [0xB4, 1, 1, 0, 0, 0]) { ty := 2 }
    let bad := aps (slot [0x34, 1, 1, 0, 0, 0]) { ty := 2 }
    let far := aps (slot [0xB4, 1, 1, 0, 7, 0]) { ty := 2 }
    let n := aps [] { ty := 2, pmCnt := 3, nrCnt := 196, toCnt := 8 }
    let l := withG 8191 { ty := 3 }
    ok.apsSvc = true ∧ (ok.grp 8191).isAps = true ∧ slotZero (ok.apsRx 8191) = false ∧ ok.apsBlocked 8191 = false ∧ slotOk (ok.apsRx 8191) = true ∧
    ok.gidOk 8191 = true ∧ slotOk (bad.apsRx 8191) = false ∧ slotOk (far.apsRx 8191) = true ∧ far.gidOk 8191 = false ∧
    slotZero ((withG 8191 { ty := 2 }).apsRx 8191) = true ∧ bit (n.far 8191) 16 = false ∧
    runs (exec (.apsMessageAccept 8191) ok) (fun t => t.reg (apsA 8191 8) == 0x111B) = true ∧
    runs (exec (.apsMessageAccept 8191) far) (fun t => t.reg (apsA 8191 8) == 0x40000 && bit (t.reg (protA 0x10)) 4) = true ∧
    runs (exec (.fopPmSet 8191) n) (fun t => bit (t.far 8191) 16) = true ∧ runs (exec (.fopNrSet 8191) n) (fun t => bit (t.far 8191) 17) = true ∧
    runs (exec (.fopToSet 8191) n) (fun t => bit (t.far 8191) 19) = true ∧
    max 1 (l.rf (protA 0x40) 0 8) = 8 ∧ l.enabled = [8191] ∧
    runs (exec .apsAgentLost (atBolt 8 l)) (fun t => t.prot.lost && t.prot.evq == [8191]) = true := by decide +kernel

theorem test_hyp_GroupRequestsAndTimers :
    let sf : LegCond := { sfAt := some 0, sfIn := true }
    let sd : LegCond := { sdAt := some 0, sdIn := true }
    let req (q : Grp) : Nat × Nat := let r := ((withG 8191 q).evalReq 8191).grp 8191; (r.req, r.selsig)
    let h := withG 8191 { ty := 1, legs := [(1, { sfAt := some 0, sdAt := some 0 })] }
    let w := withG 8191 { ty := 1, cfg := 8, lreq := 5, wtr := some (1, 0) }
    req { ty := 1, stand := 2, legs := [(1, sf)] } = (0xF, 0) ∧ req { ty := 4, legs := [(0, sf), (1, sf)] } = (0xE, 0) ∧
    req { ty := 1, stand := 3, standMem := 1 } = (0xD, 1) ∧ req { ty := 1, stand := 4, legs := [(1, sf)] } = (0xB, 1) ∧
    req { ty := 1, legs := [(1, sd)] } = (9, 1) ∧ req { ty := 1, cfg := 8, lreq := 0xB, lsig := 1 } = (5, 1) ∧
    ((h.grp 8191).leg 1).sfNow = false ∧ fld (h.grp 8191).cfg 16 12 = 0 ∧ max 1 (fld (w.grp 8191).gwtr 0 16 * 256) = 1171968 ∧
    runs (exec (.holdoffExpire 8191 1 false) h) (fun t => ((t.grp 8191).leg 1).sfIn) = true ∧
    runs (exec (.holdoffExpire 8191 1 true) h) (fun t => ((t.grp 8191).leg 1).sdIn) = true ∧
    runs (exec (.wtrExpire 8191) (atBolt 1171968 w)) (fun t => (t.grp 8191).wtrOver) = true := by decide +kernel

theorem test_hyp_ErrorlessPairs :
    let m : LegMeas := { two := true }
    let a : LegMeas := { two := true, acq := true, base := 10 }
    let s1 := withG 0 { ty := 4, mw := m, mp := m }
    let s2 := withG 0 { ty := 4, acqAt := some 0, mw := a }
    let s3 := withG 0 { ty := 4, align := .single, fill := true, tout := 22, mw := a }
    let rt (b : Int) : State := atBolt 256 { State.reset with prot := { hbmReady := 3, grp := [(0, { ty := 4, cfg := 0x10000000, align := .unprot, mw := a, mp := { a with base := b } })] } }
    let st := { State.reset with prot := { grp := [(0, { ty := 4 })], store := [⟨0, false, 7, 624, {}⟩, ⟨0, true, 7, 624, {}⟩] } }
    bit (0x10000000 : Word) 28 = true ∧ (rt 10).stackReady 0 = true ∧ 16 * max 1 ((rt 10).rf (protA 0x40) 24 8) = 256 ∧
    max 1 (s2.rf (protA 0x40) 16 8) = 8 ∧ ((s3.grp 0).tout - (s3.grp 0).base (s3.grp 0).lead) = 12 ∧
    runs (exec (.legAcquired 0 true) s1) (fun t => (t.grp 0).mp.acq && !(t.grp 0).mw.acq) = true ∧
    runs (exec (.legAcquired 0 false) s1) (fun t => (t.grp 0).mw.acq && !(t.grp 0).mp.acq) = true ∧
    runs (exec (.acqTimeout 0) (atBolt 8 s2)) (fun t => (t.grp 0).align == .single && (t.grp 0).tout == 12) = true ∧
    runs (exec (.storeFillComplete 0) (atBolt 1 s3)) (fun t => (t.grp 0).align == .aligned) = true ∧
    runs (exec (.autoRetime 0) (rt 24424)) (fun t => (t.grp 0).tout == 24426 && !(t.grp 0).lead) = true ∧
    runs (exec (.autoRetime 0) (rt 24425)) (fun t => (t.grp 0).align == .single) = true ∧
    runs (exec (.autoRetime 0) (rt (-24404))) (fun t => (t.grp 0).tout == 12 && (t.grp 0).lead) = true ∧
    runs (exec (.selvEccUncorrectable 0 7 624) st) (fun t => t.prot.store.map (·.pick.valid) == [false, true] && t.reg 0xA8004C == 1) = true := by
  decide +kernel


/-! ### The Shed and the host's side -/

theorem test_hyp_RegisterRowsAreRegisterWrites : rowWrite (.trdFlushQ 66) = some (66, 0x810058, 2) ∧ rowWrite .powerOff = none := by
  decide +kernel

theorem test_hyp_AccessesThatDoNotReach :
    let off := { State.reset with pwr := { State.reset.pwr with cdpOn := false } }
    rowAccess (.lnModeWrite 66 0 5) = some (66, 0x410040, 4, true) ∧ off.gate 66 0x410040 4 true = .quiet ∧
    State.reset.gate 64 0x410040 4 true = .drop ∧ State.reset.gate 66 0x410040 4 true = .err .asleep ∧
    runs (exec (.lnModeWrite 66 0 5) off) (fun t => t.resp == { data := 0, status := .ok }) = true ∧
    runs (exec (.lnModeWrite 64 0 5) State.reset) (fun t => t.reg (fmnA 0x70) == 0x410040 && t.reg (fmnA 0x6C) == 1) = true ∧
    runs (exec (.lnModeWrite 66 0 5) State.reset) (fun t => t.reg (shedA 0x44) == 0x4410040 && t.resp.status == .dec) = true := by decide +kernel

theorem test_hyp_FrontEndChecks :
    State.reset.pwr.cdpOn = true ∧ State.reset.fmn.holder ≠ 1 ∧ held.fmn.holder = 1 ∧ (targetOf 0x40000).isSome = true ∧ State.reset.reach 7 = false ∧
    State.reset.gate 64 (fmnA 0x50) 4 true ≠ .drop ∧ State.reset.gate 0 0x3FFFFC 4 false = .err .unmapped ∧
    State.reset.gate 67 0x80000 4 false = .err .nopath ∧ State.reset.gate 0 0x7C 3 false = .err .size ∧
    State.reset.gate 63 0x17FFFF8 8 true = .go := by decide +kernel

theorem test_hyp_RegisterSpaceCommands :
    reaches State.reset 66 0x60040 ∧ reaches State.reset 66 0x60010 ∧ reaches State.reset 66 0x60018 ∧ readable State.reset 66 0x60020 ∧
    locate 0x60000 = some (.tst, 0, 0) ∧ isPage .tst = true ∧ State.reset.gate 66 0x60040 8 true = .go ∧
    locate 0x800040 = some (.loom, 0, 0x40) ∧ (regRow .loom 0 0x40).map (·.acc) = some .ro ∧ reaches State.reset 66 0x800040 ∧
    locate 0xB10004 = some (.grant, 0, 4) ∧ (regRow .grant 0 4).isSome = true ∧ reaches State.reset 66 0xB10004 ∧
    locate 0x600FC = some (.tst, 0, 0xFC) ∧ (regRow .tst 0 0xFC).isNone = true ∧ reaches State.reset 66 0x600FC ∧
    runs (exec (.registerWrite 66 0xB10000 4 ⟨0xFFFFFFFF, [], [], []⟩) State.reset) (fun t => t.reg 0xB10000 == 0x7FFFFFF) = true ∧
    runs (exec (.irqRawClear 66 0x60000 3 1) (withRegs [(0x60010, 3)])) (fun t => t.reg 0x60010 == 1) = true ∧
    runs (exec (.irqForce 66 0x60000 0xFFFFFFFF) State.reset) (fun t => t.reg 0x60010 == w32 (irqMask .tst)) = true := by
  simp only [reaches, readable]; decide +kernel

/-- Foreman A leads; guard entry 0 of W60 lets its writes of TST_TR_POST pass within 5 to 9 in its low byte. -/
def guarded (mode : Word) : State :=
  { held with regs := [(wvrA 60 0x100, 0x60044), (wvrA 60 0x104, 0x60044), (wvrA 60 0x108, 0xFF), (wvrA 60 0x10C, 0), (wvrA 60 0x110, 1),
                       (wvrA 60 0x114, 1), (wvrA 60 0x200, mode)] }

theorem test_hyp_HeadWeaverGuard :
    unguarded 60 0x60044 1 = false ∧ unguarded 60 (wvrA 60 0x4C) 8 = true ∧ unguarded 60 (wvrA 60 0x4C) 4 = false ∧
    State.reset.headless = true ∧ State.reset.guardRefusal 60 0x60044 1 = some 5 ∧ (guarded 0x102).headless = false ∧
    guardBarred (wvrA 60 0x100) = true ∧ (guarded 0x102).guardEntry 60 0x60048 = none ∧ (guarded 0x102).guardEntry 60 0x60044 = some 0 ∧
    (guarded 0x102).guardRefusal 60 (wvrA 60 0x100) 1 = some 1 ∧ (guarded 0x102).guardRefusal 60 0x60044 2 = some 2 ∧
    (guarded 0x102).guardRefusal 60 0x60044 0x100 = some 3 ∧ (guarded 0x101).guardRefusal 60 0x60044 1 = some 6 ∧
    (guarded 0x2).guardRefusal 60 0x60044 1 = some 4 ∧ (guarded 0x102).guardRefusal 60 0x60044 1 = none ∧
    (guarded 0x102).gate 60 0x60044 4 true = .go ∧
    runs (exec (.guardedWrite 60 0x60044 1) (guarded 0x102)) (fun t => t.reg 0x60044 == 1 && t.reg (wvrA 60 0x204) == 1) = true ∧
    runs (exec (.guardedWrite 60 0x60044 2) (guarded 0x102)) (fun t => t.reg 0x60044 == 0 && t.reg (wvrA 60 0x20C) == 0x2060044) = true := by
  decide +kernel

theorem test_hyp_JtagCommands :
    let f := { State.reset with jtag := { frozen := true } }
    let b (v : BitVec 64) : State := { State.reset with jtag := { busy := some v } }
    let rd : BitVec 64 := BitVec.ofNat 64 (2 ^ 62 + 0x60044 / 4 * 2 ^ 34)
    let wr : BitVec 64 := BitVec.ofNat 64 (2 ^ 63 + 0x60044 / 4 * 2 ^ 34 + 1)
    let bad : BitVec 64 := BitVec.ofNat 64 (2 ^ 62 + 0x3FFFFC / 4 * 2 ^ 34)
    fld rd 62 2 = 1 ∧ fld wr 62 2 = 2 ∧ fld wr 34 24 * 4 = 0x60044 ∧ State.reset.gate 68 0x60044 4 true = .go ∧
    State.reset.gate 68 (fld bad 34 24 * 4) 4 false ≠ .go ∧
    runs (exec .jtagTapReset f) (fun t => t.out == [.intN false] && !t.jtag.frozen) = true ∧
    runs (exec .jtagIdcode State.reset) (fun t => t.out == [.jtag 0x1914076B]) = true ∧
    runs (exec (.jtagDbgAcc wr) State.reset) (fun t => t.jtag.busy == some wr) = true ∧
    runs (exec (.jtagDbgAcc 0) State.reset) (fun t => t.jtag.busy == none) = true ∧
    runs (exec (.jtagDbgAcc rd) (b wr)) (fun t => t.jtag.busy == some wr && t.out == [.jtag 0x3000000000000000]) = true ∧
    runs (exec .dbgAccDone (b wr)) (fun t => t.reg 0x60044 == 1 && t.jtag.data == 1) = true ∧
    runs (exec .dbgAccDone (b bad)) (fun t => t.jtag.busy == none && t.jtag.status == 1) = true := by decide +kernel

theorem test_hyp_MonitorAndHookRegisters :
    reaches State.reset 0 0x60040 ∧ State.reset.rb 0x60040 0 = true ∧ (withRegs [(0x60040, 0)]).rb 0x60040 0 = false ∧
    reaches State.reset 66 0x60044 ∧ reaches up 66 (lnA 63 0x3C) ∧ reaches State.reset 66 (shedA 0x3C) ∧ reaches State.reset 66 (beatA 0x3C) ∧
    runs (exec (.tstCfgWrite 65 0x71) (withRegs [(0x60040, 0)])) (fun t => t.resp.status == .ok) = true ∧
    runs (exec (.tstCfgWrite 68 0x71) (withRegs [(0x60040, 0)])) (fun t => t.reg 0x60040 == 0x71) = true ∧
    runs (exec (.tstCfgWrite 0 0x71) (withRegs [(0x60040, 0)])) (fun t => t.reg 0x60040 == 0x70 && t.reg 0x60020 == 0x80000040) = true ∧
    runs (exec (.shedPerturbWrite 66 0 1) { State.reset with tst := { pert := true } }) (fun t => t.tst.shedHook == [1, 0, 0, 0]) = true := by
  simp only [reaches]; decide +kernel

/-- Tracing on in mode `m`, POST 2. -/
def tracing (m : Nat) (n : Nat) : State :=
  { State.reset with regs := [(0x60060, w32 (1 + 2 * m + 2 * 16))], tst := { running := true, trace := List.replicate n ⟨1, 2, 3, 4⟩ } }

theorem test_hyp_TraceUnit :
    let p (k : Nat) : State := { tracing 2 0 with tst := { running := true, triggered := true, postLeft := some k } }
    reaches State.reset 66 0x6006C ∧ reaches State.reset 0 0x60068 ∧ readable State.reset 66 0x60084 ∧ (tracing 2 0).rb 0x60060 0 = true ∧
    (tracing 3 0).rf 0x60060 1 2 = 3 ∧ State.reset.rb 0x60064 0 = true ∧ State.reset.rb 0x60064 2 = true ∧ (tracing 2 0).rf 0x60060 4 12 = 2 ∧
    runs (exec (.tstTrStart 66) State.reset) (fun t => !t.tst.running) = true ∧
    runs (exec (.tstTrStart 66) (withRegs [(0x60060, 1)])) (fun t => t.tst.running) = true ∧
    runs (exec (.tstTrStop 66) (tracing 0 0)) (fun t => t.tst.stopped && t.reg 0x60010 == 2) = true ∧
    runs (exec (.tstTrTrig 66) (tracing 2 0)) (fun t => t.tst.postLeft == some 2) = true ∧
    runs (exec (.tstTrEmit 0 7 399999) (tracing 0 0)) (fun t => t.tst.trace == [⟨0, 399999, 7, 0⟩]) = true ∧
    runs (exec (.tstTrEmit 0 7 0) (tracing 1 4094)) (fun t => t.tst.trace.length == 4095) = true ∧
    runs (exec (.tstTrEmit 0 7 0) (tracing 0 4096)) (fun t => t.tst.trace.length == 4096 && t.tst.trace.getLast? == some ⟨0, 0, 7, 0⟩) = true ∧
    runs (exec (.tstTrEmit 0 7 0) (tracing 1 4096)) (fun t => t.tst.lost == 1 && t.reg 0x60088 == 1) = true ∧
    runs (exec (.tstTrEmit 66 7 0) (p 1)) (fun t => t.tst.postLeft == some 0 && t.tst.trace.length == 1) = true ∧
    runs (exec (.tstTrEmit 66 7 0) (p 0)) (fun t => t.tst.trace == []) = true ∧
    runs (exec .tracePostComplete (p 0)) (fun t => !t.tst.running && t.reg 0x60010 == 3) = true ∧
    runs (exec (.tstTrRd3Read 66) (tracing 0 1)) (fun t => t.resp.data == 4 && t.reg 0x60074 == 1) = true := by
  simp only [reaches, readable]; decide +kernel

/-- The link up, requests, messages and vector 5 let through. -/
def linked : State := { State.reset with pcie := { linkUp := true, gen := 5, width := 4, bme := true, msixEn := true, vmask := ~~~32 } }

theorem test_hyp_HostLinkCommands :
    let lv := { linked with pcie := { linked.pcie with level := 33, pba := 32 } }
    let dma (l : Word) : State := { linked with regs := [(dmaA 2 0xC, l)] }
    linked.canMsix 5 = true ∧ linked.canMsix 0 = false ∧ reaches linked 66 0x2040 ∧ dmaLenOk ((dma 0x100000).dmaLen 2) = true ∧
    dmaLenOk ((dma 2).dmaLen 2) = false ∧ (dma 8).rb (dmaA 2 0x14) 0 = false ∧ (withRegs [(dmaA 0 0x14, 1)]).rb (dmaA 0 0x14) 0 = true ∧
    runs (exec (.pcieLinkUp 5 4) { lv with pcie := { lv.pcie with linkUp := false } }) (fun t => t.pcie.linkUp && t.pcie.pba == 0) = true ∧
    runs (exec .pcieLinkDown lv) (fun t => t.pcie.pba == 33 && !t.pcie.linkUp) = true ∧
    runs (exec .pcieD3hotEntry linked) (fun t => t.pcie.d3) = true ∧
    runs (exec (.pcieRequestsResume true true false) { lv with pcie := { lv.pcie with d3 := true } }) (fun t => !t.pcie.d3 && t.out == [.msix 5]) = true ∧
    runs (exec (.msixVectorUnmask 0) { lv with pcie := { lv.pcie with pba := 1 } }) (fun t => t.out == [.msix 0] && t.pcie.vmask == ~~~33) = true ∧
    runs (exec (.gvecEoi 66 5) lv) (fun t => t.out == [.msix 5]) = true ∧ runs (exec (.gvecEoi 66 0) lv) (fun t => t.pcie.pba == 33) = true ∧
    runs (exec (.gvecEoi 66 63) lv) (fun t => t.out == []) = true ∧
    runs (exec (.dmaGo 2 true) (dma 0x100000)) (fun t => t.reg (dmaA 2 0x14) == 1 && t.pcie.dmaDir == 4) = true ∧
    runs (exec (.dmaGo 2 true) (dma 2)) (fun t => t.reg (dmaA 2 0x14) == 4 && t.reg 0x4040010 == 32) = true ∧
    runs (exec (.dmaAbort 0) (withRegs [(dmaA 0 0x14, 1)])) (fun t => t.reg (dmaA 0 0x14) == 0) = true ∧
    runs (exec .cdpUncorrectableFault State.reset) (fun t => t.pcie.intN && t.rb 8 0) = true := by simp only [reaches]; decide +kernel

/-- Channel 0 busy with a transfer of 8 bytes to bank 0 at offset 0x10; the host owns bank 0. -/
def dmaBusy : State := { linked with regs := [(bankA 0x100, 0x142), (dmaA 0 8, 0x1000010), (dmaA 0 0xC, 8), (dmaA 0 0x14, 1)] }
def strapped : State := { State.reset with pwr := { State.reset.pwr with straps := 2, smbPtr := 0x60044 } }

theorem test_hyp_DmaTransferAndSmbus :
    dmaBusy.rb (dmaA 0 0x14) 0 = true ∧ dmaBusy.canIssue = true ∧ State.reset.canIssue = false ∧ dmaBusy.dmaLen 0 = 8 ∧
    dmaBusy.rf (dmaA 0 8) 0 26 = 0x1000010 ∧ dmaBusy.mayWrite 0 66 = true ∧ dmaBusy.inWarmWindow = false ∧ bit strapped.pwr.straps 1 = true ∧
    runs (exec (.dmaDone 0 ⟨[1, 2, 3, 4, 5, 6, 7, 8], []⟩) dmaBusy) (fun t => t.bytes 0x10 8 == [1, 2, 3, 4, 5, 6, 7, 8] && t.reg (dmaA 0 0x14) == 2) = true ∧
    runs (exec (.dmaDone 0 ⟨[], []⟩) (withRegs [(dmaA 0 0x14, 1)])) (fun t => t.reg (dmaA 0 0x14) == 4) = true ∧
    runs (exec (.smbSetPointer 0x60047) State.reset) (fun t => t.pwr.smbPtr == 0x60044) = true ∧
    runs (exec .smbReadRegister { strapped with regs := [(0x60044, 1)] }) (fun t => t.out == [.smbus [1, 0, 0, 0]] && t.pwr.smbPtr == 0x60048) = true ∧
    runs (exec (.smbWriteRegister 1) strapped) (fun t => t.reg 0x60044 == 1 && t.pwr.smbPtr == 0x60048) = true ∧
    runs (exec (.smbWriteRegister 1) State.reset) (fun t => t.reg 0x5C == 1) = true ∧
    runs (exec .smbReadTemperatures State.reset) (fun t => match t.out with | [.smbus b] => b.length == 24 | _ => false) = true := by decide +kernel


/-! ### Banks, Skid, messages -/

/-- Bank 0 belongs to W5 and host software is its guest; word 2 of it is uncorrectable. -/
def owned : State := { withRegs [(bankA 0x100, 0x142105)] with bank := { unc := [2] } }

theorem test_hyp_ScratchBankAccesses :
    owned.bankKind 0 = 1 ∧ owned.mayWrite 0 5 = true ∧ owned.isOwner 0 5 = true ∧ owned.mayWrite 0 66 = true ∧ owned.isOwner 0 66 = false ∧
    owned.mayWrite 0 6 = false ∧ owned.bankKind 39 = 0 ∧ owned.gate 5 0x1000000 8 true = .go ∧ owned.gate 5 0x17FFFFF 1 true = .go ∧
    owned.gate 5 0x2000000 8 true = .go ∧ owned.gate 5 0x3000008 8 true = .go ∧ owned.gate 5 0x1000010 8 false = .go ∧
    ({ owned with regs := [(bankA 0x100, 0x400)] }).bankKind 0 = 4 ∧ ({ owned with regs := [(bankA 0x100, 0x300)] }).bankKind 0 = 3 ∧
    runs (exec (.bankWrite 66 4 4 0x11223344 false) owned) (fun t => t.bytes 4 4 == [0x44, 0x33, 0x22, 0x11]) = true ∧
    runs (exec (.bankWrite 66 4 4 1 true) owned) (fun t => t.bank.mem == [] && t.reg 0xD00058 == 1) = true ∧
    runs (exec (.bankWrite 5 4 4 1 true) owned) (fun t => t.bank.mem == [(4, 1)]) = true ∧
    runs (exec (.bankWrite 5 0x7FFFFF 1 1 false) owned) (fun t => t.bank.mem == [] && t.reg 0xD00050 == 1) = true ∧
    runs (exec (.bankAliasSet 5 0 8 ⟨5, false⟩) { owned with bank := { mem := [(0, 2)] } }) (fun t => t.byteAt 0 == 7) = true ∧
    runs (exec (.bankAliasSet 5 0x10 8 ⟨5, false⟩) owned) (fun t => t.byteAt 0x10 == 0 && t.reg 0xD00048 == 1) = true ∧
    runs (exec (.bankAliasClear 5 8 8 ⟨6, false⟩) { owned with bank := { mem := [(8, 7)] } }) (fun t => t.byteAt 8 == 1) = true ∧
    runs (exec (.bankAliasClear 6 8 8 ⟨6, false⟩) owned) (fun t => t.reg 0xD00050 == 1 && t.reg 0xD00054 == 0x3000008) = true ∧
    runs (exec (.bankRead 5 0x10 8) owned) (fun t => t.resp.status == .err && t.reg 0xD0004C == 0x10) = true := by decide +kernel

theorem test_hyp_BankOwnershipAndFuses :
    let k := { State.reset with bank := { fuseKey := some 0 } }
    State.reset.hostOrHolder 66 = true ∧ State.reset.hostOrHolder 64 = false ∧ reaches State.reset 66 (bankA 0x1FC) ∧ reaches State.reset 0 (bankA 0x100) ∧
    reaches State.reset 66 0xD00080 ∧ reaches k 66 0xD00084 ∧
    runs (exec (.bankOwnWrite 66 0 0x105) State.reset) (fun t => t.reg (bankA 0x100) == 0x200105 && t.bankOwn 0 == 0) = true ∧
    runs (exec (.bankOwnWrite 0 0 0x105) State.reset) (fun t => t.reg (bankA 0x100) == 0 && t.reg 0xD00020 != 0) = true ∧
    runs (exec (.bankHandoverDone 63) (withRegs [(bankA 0x1FC, 0x200005)])) (fun t => t.bankOwn 63 == 5) = true ∧
    runs (exec (.bankFuseKey 66 0x5EED) State.reset) (fun t => t.bank.fuseKey == some 0) = true ∧
    runs (exec (.bankFuseKey 66 0x5EEC) k) (fun t => t.bank.fuseKey == none && t.reg 0xD00088 == 4) = true ∧
    runs (exec (.bankFuseCmd 66 0x8041) (atBolt 64 k)) (fun t => t.bank.fuseBusy == some (1, 1)) = true ∧
    runs (exec (.bankFuseCmd 66 0x8041) (atBolt 65 k)) (fun t => t.bank.fuseBusy == none && t.reg 0xD00088 == 4) = true ∧
    runs (exec .fuseBurnDone { State.reset with bank := { fuseBusy := some (1, 1) } }) (fun t => t.bank.fused == [(1, 1)]) = true := by
  simp only [reaches]; decide +kernel

theorem test_hyp_MarchTests :
    let m (t : March) : State := { withRegs [(0xD00068, 0x10400)] with bank := { march := t, mem := [(0, 1), (0x20000, 2)] } }
    reaches State.reset 66 0xD00060 ∧ State.reset.bankBad 0 = false ∧ bit (0x1001 : Word) 12 = true ∧ (m {}).rb 0xD00068 16 = true ∧
    (m { busy := true, bank := 63, preserve := true, locked := true }).testBanks = [63] ∧ State.reset.sparesUsed 63 = 0 ∧
    runs (exec (.marchStart 66 0x30) State.reset) (fun t => t.bank.march.result == 4 && !t.bank.march.busy) = true ∧
    runs (exec (.marchStart 66 0x53F) State.reset) (fun t => t.bank.march.busy && t.bank.march.bank == 63) = true ∧
    runs (exec (.marchStart 66 0x227) State.reset) (fun t => t.bankKind 39 == 4) = true ∧
    runs (exec .marchRowLock (m { busy := true, preserve := true, row := 511 })) (fun t => t.bank.march.locked) = true ∧
    runs (exec (.marchRowDone [63]) (m { busy := true, bank := 63, preserve := true, locked := true })) (fun t =>
      t.bank.soft == [(63, 0)] && t.bank.march.row == 1) = true ∧
    runs (exec (.marchTestDone []) (m { busy := true, preserve := true, row := 512 })) (fun t => t.bank.march.result == 1) = true ∧
    runs (exec (.marchTestDone []) (m { busy := true })) (fun t => t.bank.mem == [(0x20000, 2)]) = true ∧
    runs (exec (.marchAbort 66) (m { busy := true, preserve := true })) (fun t => t.bank.march.result == 3) = true := by
  simp only [reaches]; decide +kernel

/-- W5 runs a role with epoch 1 and owns buffer `i`, of words `ws`. -/
def withBuf (i : Nat) (ws : List Word) : State :=
  { { State.reset with skid := { own := [(i, (.owned, 5))], fresh := i + 1 }, wvr := [(5, { st := .run, role := 1 }), (6, { st := .run, role := 2 })] }
      with bank := { mem := Memory.writeN [] (0x600000 + 256 * i) (ws.flatMap (fun w => leBytes 4 w.toNat)) } }

theorem test_hyp_SkidPool :
    let s := withBuf 0 [7]
    let full := { s with skid := { own := [(0, (.owned, 5))], freed := [3], fresh := 8192 } }
    readable s 5 0xD80048 ∧ reaches s 66 0xD8004C ∧ readable s 66 0xD80064 ∧ s.rf 0xD80044 0 15 = 2048 ∧ (s.ownedBy 5).length = 1 ∧
    s.skipBad s.skid.fresh = 1 ∧ s.withdrawn 8191 = false ∧ full.skipBad full.skid.fresh = 8192 ∧ s.gate 5 0x18000F8 8 true = .go ∧
    ({ s with regs := [(0xD80044, 1)] }).rf 0xD80044 0 15 = 1 ∧
    runs (exec (.skidAlloc 5) s) (fun t => t.resp.data == 0x80000001 && t.buf 1 == (.owned, 5)) = true ∧
    runs (exec (.skidAlloc 5) full) (fun t => t.resp.data == 0x80000003 && t.skid.freed == []) = true ∧
    runs (exec (.skidAlloc 5) { s with regs := [(0xD80044, 1)] }) (fun t => t.resp.data == 0 && t.reg 0xD80060 == 1) = true ∧
    runs (exec (.skidFree 5 0) s) (fun t => t.skid.freed == [0] && t.byteAt 0x600000 == 0 && t.buf 0 == (.free, 0)) = true ∧
    runs (exec (.skidFree 66 0) s) (fun t => t.reg 0xD80058 == 1 && t.reg 0xD8005C == 0x508000) = true ∧
    runs (exec (.skidFree 66 8191) s) (fun t => t.reg 0xD80054 == 1) = true ∧
    runs (exec (.skidBufferWrite 5 0 0xF8 8 0x1) s) (fun t => t.byteAt 0x6000F8 == 1) = true ∧
    runs (exec (.skidBufferWrite 66 0 0xF8 8 0x1) s) (fun t => t.byteAt 0x6000F8 == 0 && t.reg 0xD80058 == 1) = true := by
  simp only [reaches, readable]; decide +kernel

/-- W5's buffer 9, for page `d` of role `r`, of `n` bytes. -/
def message (d r n : Nat) : State := withBuf 9 [w32 (d + r * 256), 0, w32 (n * 256)]

theorem test_hyp_MessagesBetweenCores :
    let f (h : Nat) : State := { message (63 + h) 0 32 with fmn := { held.fmn with holder := h, gen := 1 } }
    let box : State := { withBuf 9 [] with skid := { own := [(9, (.posted, 6))] }, wvr := [(6, { inbox := [9] })] }
    (message 6 2 32).buf 9 = (.owned, 5) ∧ (message 6 2 32).accepts 6 = true ∧ (message 7 0 256).accepts 7 = false ∧
    (message 6 2 32).ident 6 = (2, 1) ∧ fld ((message 6 2 256).bufWord 9 2) 8 9 = 256 ∧ (message 7 0 256).msgKind 9 = 0 ∧
    passes (message 6 2 32) 5 (wvrA 6 0x50) 9 ∧ passes (message 63 2 32) 63 (wvrA 63 0x50) 9 ∧ reaches (f 1) 5 0x30080 ∧ (f 1).accepts 64 = true ∧
    reaches (f 2) 5 0x30084 ∧ (f 2).accepts 65 = true ∧ readable box 6 (wvrA 6 0x54) ∧ readable box 64 0x30088 ∧
    runs (exec (.wvrPost 5 6 9) (message 6 2 32)) (fun t => t.inbox 6 == [9] && t.bufWord 9 1 == 0x10105) = true ∧
    runs (exec (.wvrPost 5 7 9) (message 7 0 256)) (fun t => t.inbox 5 == [9] && fld (t.bufWord 9 2) 24 8 == 3) = true ∧
    runs (exec (.wvrPost 6 6 9) (message 6 2 32)) (fun t => t.inbox 6 == [] && t.reg 0xD80058 == 1) = true ∧
    runs (exec (.fmnPost 5 false 9) (f 1)) (fun t => t.inbox 64 == [9]) = true ∧ runs (exec (.fmnPost 5 true 9) (f 2)) (fun t => t.inbox 65 == [9]) = true ∧
    runs (exec (.wvrInboxPop 6 6) box) (fun t => t.resp.data == 0x80000009 && t.buf 9 == (.owned, 6)) = true ∧
    runs (exec (.wvrInboxPop 5 6) box) (fun t => t.resp.data == 0 && t.inbox 6 == [9]) = true ∧
    runs (exec (.fmnInboxPop 64) { box with fmn := { a := { inbox := [9] } } }) (fun t => t.resp.data == 0x80000009 && t.inbox 64 == []) = true := by
  simp only [reaches, readable, passes]; decide +kernel


/-! ### Weavers and tenants -/

/-- W5 as given, Foreman A leading. -/
def led (x : Weaver) : State := { held with wvr := [(5, x)] }

theorem test_hyp_RoleRequests :
    let s := { led { st := .run, role := 1 } with regs := [(wvrA 5 0x48, 0x10002)] }
    let d := { led { st := .drain, role := 1, next := some (2, 0) } with skid := { own := [(0, (.owned, 5))], fresh := 1 } }
    reaches s 66 (wvrA 5 0x48) ∧ s.headless = false ∧ s.nextReq = some 5 ∧ s.roleRefusal 5 2 0 true = none ∧ s.roleRefusal 5 2 0 false = some 6 ∧
    State.reset.headless = true ∧ passes d 5 (wvrA 5 0x4C) 8 ∧ passes d 66 (wvrA 5 0x4C) 8 ∧ max 1 (d.rf (wvrA 5 0x40) 8 8) = 4 ∧
    runs (exec (.wvrRoleReqWrite 66 5 0xFFFFF) s) (fun t => t.reg (wvrA 5 0x48) == 0x107FF) = true ∧
    runs (exec (.roleRequestServe 5 false) s) (fun t => t.reg (wvrA 5 0x48) == 0xC0002 && (t.weaver 5).st == .run) = true ∧
    runs (exec (.roleRequestServe 5 true) s) (fun t => (t.weaver 5).st == .drain && (t.weaver 5).next == some (2, 0)) = true ∧
    runs (exec (.roleRequestServe 5 true) { s with wvr := [(5, { st := .idle })] }) (fun t => (t.weaver 5).st == .loading) = true ∧
    runs (exec (.drainTimeout 5) (holding (atBolt 4 d))) (fun t => (t.weaver 5).st == .loading && (t.weaver 5).epoch == 2 && t.buf 0 == (.free, 0)) = true ∧
    runs (exec (.wvrCmdDrained 5 5) (holding d)) (fun t => (t.weaver 5).st == .loading) = true ∧
    runs (exec (.wvrCmdDrained 66 5) d) (fun t => (t.weaver 5).st == .drain && t.reg (wvrA 5 0x20) != 0) = true ∧
    runs (exec (.roleImageLoaded 5) (holding (led { st := .loading, next := some (2, 0), byReq := true }))) (fun t =>
      (t.weaver 5).st == .run && (t.weaver 5).role == 2 && fld (t.reg (wvrA 5 0x48)) 17 3 == 1) = true := by
  simp only [reaches, passes]; decide +kernel

theorem test_hyp_WeaverStates :
    let st (o : Host.Outcome State Fault Refusal) (x : WvrSt) : Bool := runs o (fun t => (t.weaver 5).st == x)
    let r := led { st := .run, role := 1 }
    let z := led { st := .sleep, role := 1, inbox := [3], sleepN := 0 }
    reaches r 66 (wvrA 5 0x4C) ∧ r.rf (wvrA 5 0x40) 16 8 = 16 ∧ r.rb (wvrA 5 0x40) 0 = true ∧ z.rb (wvrA 5 0x40) 24 = false ∧
    ({ z with regs := [(wvrA 5 0x40, 0x1000400)] }).rf (wvrA 5 0x40) 16 8 = 0 ∧
    st (exec (.wvrCmdHalt 66 5) r) .halt = true ∧ st (exec (.wvrCmdHalt 66 5) (led { st := .idle })) .idle = true ∧
    st (exec (.wvrCmdResume 66 5) (led { st := .halt })) .run = true ∧ st (exec (.wvrCmdResume 66 5) r) .run = true ∧
    st (exec (.wvrCmdRestart 66 5) r) .loading = true ∧ st (exec (.wvrCmdRestart 66 5) (led { st := .idle })) .idle = true ∧
    runs (exec (.weaverFault 5 .trap) r) (fun t => (t.weaver 5).st == .fault && t.reg (wvrA 5 0x6C) == 2) = true ∧
    st (exec (.weaverFault 5 .memory) (led { st := .off })) .off = true ∧
    runs (exec (.weaverWatchdog 5) (atBolt 16 r)) (fun t => (t.weaver 5).st == .fault && t.reg (wvrA 5 0x6C) == 0x1003) = true ∧
    st (exec (.weaverWatchdog 5) (atBolt 15 r)) .run = true ∧
    st (exec (.weaverAutoRestart 5) (led { st := .fault, role := 1 })) .run = true ∧
    st (exec (.weaverAutoRestart 5) { State.reset with wvr := [(5, { st := .fault, role := 1 })] }) .fault = true ∧
    st (exec (.weaverSleep 5) r) .sleep = true ∧ st (exec (.weaverWake 5 .timer) z) .run = true ∧ st (exec (.weaverWake 5 .post) z) .run = true ∧
    st (exec (.weaverWake 5 .post) (led { st := .sleep, inbox := [3], sleepN := 1 })) .sleep = true ∧
    st (exec (.weaverWake 5 .bolt) z) .sleep = true ∧
    st (exec (.weaverWake 5 .bolt) (atBolt 1 { z with regs := [(wvrA 5 0x40, 0x1000400)] })) .run = true := by
  simp only [reaches]; decide +kernel

/-- W60 in a policy role at its interval with MODE `m`, having measured `x` of object `i` over `n` bolts, its log at bank 0, which it owns; guard entry 0 covers every register. -/
def policy (role : Nat) (m : Word) (n i x : Nat) : State :=
  atBolt 15625 { held with
    lanes := [(0, { framer := .sync })], ports := [(0, { awake := true, linkUp := true })],
    wvr := [(60, { st := .run, role := role, polN := n, polSum := [(i, x)], polOk := [(i, n)] })], prot := { grp := [(8191, { ty := 1 })] },
    regs := [(beatA 0x140, 1), (wvrA 60 0x104, 0xFFFFFF), (wvrA 60 0x108, 0xFFFFFFFF), (wvrA 60 0x110, 0xFFFFFFFF), (wvrA 60 0x114, 1),
             (wvrA 60 0x200, m), (bankA 0x100, 0x13C)] }

/-- POLICY_INTERVAL of weaver 60 with what it measured. -/
def pol (s : State) : Host.Outcome State Fault Refusal := exec (.policyInterval 60 (s.polMeasured 60)) s

theorem test_hyp_HeadWeaverPolicies :
    let d := policy 0x10 0x102 2 0 3328
    let a := lnA 0 0x54
    d.polDue 60 = true ∧ d.polMeasured 60 = [(0, 1664)] ∧ (policy 0x11 1 1 8191 4).polMeasured 60 = [(8191, 4)] ∧
    (policy 0x12 1 1 0 3).polMeasured 60 = [(0, 3)] ∧ d.svcFull (wvrA 60 0x214) (wvrA 60 0x218) (wvrA 60 0x21C) = false ∧ d.mayWrite 0 60 = true ∧ (d.reg a).toNat = 4096 ∧
    d.rf (wvrA 60 0x200) 0 2 = 2 ∧ d.guardRefusal 60 a 0x3500 = none ∧ d.gate 60 a 4 true = .go ∧ (policy 0x11 1 1 8191 4).polDue 60 = true ∧
    (policy 0x12 1 1 0 3).polDue 60 = true ∧ (policy 0x12 1 1 0 3).candOn 8 = true ∧ (policy 0x12 1 1 0 3).rb (beatA 0x140) 14 = false ∧ (policy 0x12 1 1 0 3).onlyOther 0 = false ∧
    (policy 0x10 0 1 0 0).polDue 60 = false ∧
    runs (pol d) (fun t => t.reg a == 0x3500 && t.bytes 8 4 == beBytes 4 a) = true ∧
    runs (pol (policy 0x10 1 2 0 3328)) (fun t => t.reg a == 4096 && t.bytes 16 4 == beBytes 4 0x3500) = true ∧
    runs (pol (policy 0x11 1 1 8191 4)) (fun t => t.bytes 16 4 == beBytes 4 0x10040000) = true ∧
    runs (pol (policy 0x12 1 1 0 3)) (fun t => t.bytes 16 4 == beBytes 4 0x4001) = true := by decide +kernel

/-- The TENANT weaver W5 owns bank 0, with a request at its start, results at 0x1000, events at 0x2000. -/
def tenanted (r : List Byte) : State :=
  { held with wvr := [(5, { st := .run, role := 4 })], bank := { mem := Memory.writeN [] 0 r },
              regs := [(0xB00058, 1), (0xB00060, 0x1000), (0xB00070, 0x2000), (bankA 0x100, 0x105)] }
/-- A request: OP, flags, requester, new tenant, object, group. -/
def tq (op f ten new obj arg : Nat) : List Byte :=
  [0, 1, BitVec.ofNat 8 op, BitVec.ofNat 8 f] ++ beBytes 2 ten ++ beBytes 2 new ++ beBytes 6 obj ++ beBytes 2 arg ++ List.replicate 16 0

theorem test_hyp_TenantService :
    let st (o : Host.Outcome State Fault Refusal) (n : Byte) : Bool := runs o (fun t => t.byteAt 0x1010 == n && t.reg 0xB00010 == 1 && t.reg 0xB0005C == 1)
    let h : Handoff := { req := tq 5 0 0 7 127 0, k := 0, oldTen := 3, grants := [4], tag := 1, done := some (0x16, 9) }
    let g (x : Handoff) : State := { tenanted [] with ten := { ho := some x } }
    let pt := { tenanted (tq 4 0 0 0 0 8191) with prot := { grp := [(8191, { ty := 1 })] } }
    (tenanted (tq 1 0 0 0 127 0)).tenReq = some (5, tq 1 0 0 0 127 0) ∧ State.reset.tenReq = none ∧ (tenanted []).rsFull = false ∧
    (tenanted []).mayWrite 0 5 = true ∧ (tenanted []).tenSvc = some 5 ∧ (tenanted []).tevFull = false ∧
    (tenanted []).objSkein 0x1FFA0 = none ∧ (tenanted []).objSkein 0x1FF09 = some 81769 ∧
    (tenanted []).obj (tq 2 0 0 0 127 0) = .skein 0 ∧ (tenanted []).obj (tq 2 0 0 0 126 0) = .bad ∧
    (pt.grpDsts 8191).any (fun d => maySee 0 (pt.lsrTen d)) = true ∧ (pt.grpDsts 8191).any (fun d => maySee 9 (pt.lsrTen d)) = false ∧
    st (exec .tenList (tenanted (tq 1 0 0 0 127 0))) 0 = true ∧ st (exec .tenState (tenanted (tq 2 0 0 0 127 0))) 0 = true ∧
    st (exec .tenState (tenanted (tq 2 0 9 0 127 0))) 2 = true ∧ st (exec .tenState (tenanted (tq 2 0 0 0 126 0))) 3 = true ∧
    st (exec .tenCount (tenanted (tq 3 0 0 0 127 0))) 0 = true ∧ st (exec .tenCount (tenanted (tq 3 0 9 0 127 0))) 2 = true ∧
    st (exec .tenProt pt) 0 = true ∧ st (exec .tenProt { pt with bank := { mem := Memory.writeN [] 0 (tq 4 0 9 0 0 8191) } }) 2 = true ∧
    st (exec .tenProt (tenanted (tq 4 0 0 0 0 8192))) 3 = true ∧ st (exec .tenHandoff (tenanted (tq 5 0 9 7 127 0))) 2 = true ∧
    st (exec .tenHandoff { tenanted (tq 5 0 0 7 127 0) with fmn := {} }) 5 = true ∧
    (tenanted []).qRoom false = true ∧ (tenanted []).headless = false ∧ (tenanted []).holderId = some 64 ∧ bit ((tenanted []).skidAlloc 5).1 31 = true ∧
    (tenanted []).inbox 64 = [] ∧
    st (exec .tenList (tenanted (tq 6 0 0 0 127 0))) 4 = true ∧
    runs (exec .handoffRetagDone ((g { h with done := some (0, 9) }).setReg 0xB00040 0)) (fun t => t.bytes 0x1014 4 == [0, 0, 0, 9] && t.ten.ho == none) = true ∧
    runs (exec .handoffRetagDone (g h)) (fun t => t.byteAt 0x1010 == 6 && t.tenTab 0 == 3 && t.ten.ho == none) = true ∧
    runs (exec (.tenantEventWrite (.skeinDefect 0)) { tenanted [] with ten := { chg := [(.skeinDefect 0, 0)] } }) (fun t => t.reg 0xB00010 == 2) = true ∧
    runs (exec .tenAgentLost (atBolt 8 { tenanted [] with ten := { hbAt := some 0 } })) (fun t => t.ten.hbAt == none && t.reg 0xB00010 == 8) = true := by
  decide +kernel


/-! ### Blaze and Tally -/

theorem test_hyp_BlazeUnits :
    let on := { State.reset with wvr := [(0, { st := .idle }), (24, { st := .idle })] }
    let h (b : BlzUnit) : State := { State.reset with blz := [(71, b)] }
    let run := { on with blz := [(0, { run := 0xFFFFFFFF, busy := true })], regs := [(blzU 0 0x28, 0x5FFFFF), (blzU 0 0x2C, 1)] }
    passes State.reset 66 (blzU 71 0xC) 1 ∧ passes State.reset 66 (blzU 71 0xC) 0 ∧ passes State.reset 66 (blzU 0 0x20) 5 ∧
    passes State.reset 66 (blzU 71 0x24) 5 ∧ passes State.reset 66 (blzU 0 4) 1 ∧ passes State.reset 66 (blzU 0 4) 4 ∧
    passes State.reset 66 (blzU 31 0x14) 5 ∧ passes State.reset 66 (blzU 0 4) 3 ∧ on.unitOn 0 = true ∧
    (h { held := true, owner := 5 }).unitHeld 66 71 = true ∧ (h { held := true, owner := 5 }).unitHeld 5 71 = false ∧
    State.reset.unitOn 0 = false ∧ run.rf (blzU 0 0x28) 0 23 + run.runLen 0 = 0x600000 ∧
    runs (exec (.blzClaim 66 7) State.reset) (fun t => (t.unit 71).held && (t.unit 71).owner == 66) = true ∧
    runs (exec (.blzClaim 66 7) (h { held := true, owner := 5 })) (fun t => t.reg 0x80068 == 1) = true ∧
    runs (exec (.blzRelease 5 7) (h { held := true, owner := 5, run := 3 })) (fun t => !(t.unit 71).held && (t.unit 71).run == 0xFFFFFFFF) = true ∧
    runs (exec (.blzUdata8Write 66 71 0x61) State.reset) (fun t => (t.unit 71).run != 0xFFFFFFFF) = true ∧
    runs (exec (.blzUdata8Write 66 71 0x61) (h { busy := true })) (fun t => (t.unit 71).refused) = true ∧
    runs (exec (.blzUdata32Write 66 71 5) (h { held := true, owner := 5 })) (fun t => (t.unit 71).refused && t.reg 0x80068 == 1) = true ∧
    runs (exec (.blzUdata32Write 66 0 5) State.reset) (fun t => t.reg 0x80064 == 1) = true ∧
    runs (exec (.blzInit 66 0) on) (fun t => (t.unit 0).run == 0xFFFFFFFF) = true ∧
    runs (exec (.blzUrunWrite 66 31 true 5) on) (fun t => (t.unit 31).run == 0x5FFFFFFFF) = true ∧
    runs (exec (.blzRunBlock 66 0 true) on) (fun t => (t.unit 0).busy) = true ∧
    runs (exec (.blzRunDone 0) run) (fun t => !(t.unit 0).busy && t.reg (blzU 0 0x30) == 1) = true := by
  simp only [passes]; decide +kernel

/-- R204: CRC-32C, bits reflected, preset to ones and complemented at the end, of "123456789" is 0xE3069283 (the check value that
names the polynomial). -/
theorem test_blaze_check_value : crc32c [0x31, 0x32, 0x33, 0x34, 0x35, 0x36, 0x37, 0x38, 0x39] = 0xE3069283 := by decide +kernel

theorem test_hyp_TallyCounters :
    let k := ctrKey 0 511 6
    let f := { State.reset with tly := { foldDue := true, fold := [(5, 1), (k, 2)], clr := [k], live := [(5, { v := 2 ^ 48 - 1 }), (k, { v := 9 })] } }
    let s (v : Word) : State := withRegs [(0x50044, v)]
    let d := { State.reset with tly := { snapDue := some 7, live := [(5, { v := 3 })] } }
    smWf (fun _ => 0) f.tly.fold = true ∧ reaches State.reset 66 0x50048 ∧ reaches State.reset 66 0x50060 ∧ reaches State.reset 66 0x5008C ∧
    ctrOk (fld (0xC001FF : Word) 18 3) (fld (0xC001FF : Word) 0 18) (fld (0xC001FF : Word) 21 4) = true ∧ ctrOk 0 511 7 = false ∧ ctrOk 0 512 0 = false ∧
    runs (exec .tallyFold f) (fun t => smGet {} t.tly.live 5 == { v := 0, ovf := true } && smGet {} t.tly.live k == { v := 2 }) = true ∧
    runs (exec (.tlyRead 66) (s 0xC001FF)) (fun t => t.tly.rd == some 0xC001FF && t.reg 0x5004C == 1) = true ∧
    runs (exec (.tlyRead 66) (s 0xE001FF)) (fun t => t.tly.rd == none && t.reg 0x5004C == 2) = true ∧
    runs (exec (.tlyClear 66) (s 0xC001FF)) (fun t => t.tly.clr == [k]) = true ∧
    runs (exec (.tlyClear 66) (s 0x1E00000)) (fun t => t.tly.clr == [0, 1, 2, 3, 4, 5, 6]) = true ∧
    runs (exec .tlyReadDone { s 0 with tly := { rd := some 0, live := [(0, { v := 2 ^ 32 + 5, ovf := true })] } }) (fun t =>
      t.reg 0x50050 == 5 && t.reg 0x50054 == 0x80000001) = true ∧
    runs (exec (.tlySnapNow 66) State.reset) (fun t => t.tly.snapNow) = true ∧
    runs (exec (.tlySnapAt 66) (withRegs [(0x50064, 1)])) (fun t => t.tly.snapAt) = true ∧
    runs (exec (.tlySnapAt 66) State.reset) (fun t => t.tly.snapNow) = true ∧
    runs (exec .snapshot d) (fun t => t.tly.snap == [(5, { v := 3 })] && t.reg 0x50068 == 7 && t.reg 0x50010 == 2) = true ∧
    runs (exec (.tlyHclr 66) (withRegs [(0x501FC, 3)])) (fun t => t.reg 0x501FC == 0) = true := by
  simp only [reaches]; decide +kernel

theorem test_hyp_BoltRecordsAndPerf :
    let s (own : Word) : State := { withRegs [(bankA 0x100, own), (bankA 0x104, own), (bankA 0x108, own), (bankA 0x10C, own)] with tly := { recLeft := [7] } }
    let p := atBolt 1 { held with wvr := [(5, { st := .run, role := 3, inst := 7 })] }
    (s 0x147).recAt 7 0 / 0x20000 = 3 ∧ (s 0x147).mayWrite 3 71 = true ∧ (s 0x142).mayWrite 3 71 = false ∧ p.holder 3 7 = some 5 ∧ p.holder 3 0 = none ∧
    (smGet {} p.tly.perf 7).last ≠ some 0 ∧
    (s 0x147).winWaits 71 ((s 0x147).recAt 7 0) 8192 = false ∧ runs (exec (.boltRecordWrite 6) (s 0x142)) (fun t => t.tly.recLeft == [7]) = true := by
  decide +kernel


/-! ### The Beat, power and reset -/

theorem test_hyp_BeatInputs :
    let s := { withRegs [(0x20040, 6), (beatA 0x100, 1)] with beat := { cand := [(0, { active := true })] } }
    let q := { atBolt (256 * 153) s with beat := { cand := [(0, { active := true, freqOk := true, goodFrom := some 0 })] } }
    let l := { s with beat := { mode := .locked, sel := some 0, cand := [(0, { gapNow := true })] } }
    readable s 66 0x20068 ∧ reaches s 66 0x20068 ∧ reaches s 66 0x2006C ∧ s.rb 0x20040 1 = true ∧ State.reset.rb 0x20040 1 = false ∧
    s.candOn 0 = true ∧ s.candOn 23 = false ∧ s.candWindow 0 = 64 ∧ s.accPpb = 9200 ∧ s.rejPpb = 12000 ∧ q.candGood 0 = true ∧ s.candGood 23 = false ∧
    s.rf 0x2005C 0 12 = 153 ∧ l.inputLost 0 = true ∧
    runs (exec (.beatDcoLoRead 66) { s with beat := { dco := -1 } }) (fun t => t.resp.data == 0xFFFFFFFF && t.beat.hiLatch == 0xFF) = true ∧
    runs (exec (.beatDcoLoWrite 66 5) s) (fun t => t.beat.loHeld == 5) = true ∧
    runs (exec (.beatDcoHiWrite 66 0xFF) { s with beat := { loHeld := 0xFFFFFFFF } }) (fun t => t.beat.dcoPend == some (-1)) = true ∧
    runs (exec (.beatDcoHiWrite 66 0) State.reset) (fun t => t.reg 0x20020 == 0x8004206C) = true ∧
    runs (exec (.freqMonitorWindow 0 9200) (atBolt 64 s)) (fun t => (t.cand 0).freqOk) = true ∧
    runs (exec (.freqMonitorWindow 0 (-12001)) (atBolt 64 q)) (fun t => !(t.cand 0).freqOk) = true ∧
    runs (exec (.freqMonitorWindow 0 12000) (atBolt 64 q)) (fun t => (t.cand 0).freqOk) = true ∧
    runs (exec (.refActivityGap 0) s) (fun t => (t.cand 0).gapNow) = true ∧
    runs (exec (.refActiveRestored 0) (atBolt 64 { s with beat := {} })) (fun t => (t.cand 0).active) = true ∧
    runs (exec (.candidateQualified 0) q) (fun t => (t.cand 0).qual && t.reg 0x20010 == 4) = true ∧
    runs (exec (.candidateQualified 0) (atBolt 39167 q)) (fun t => !(t.cand 0).qual) = true ∧
    runs (exec (.lrQlChange 8) { s with beat := { cand := [(8, { qlNew := 2, qlRep := 3 })] } }) (fun t => (t.cand 8).ql == 2) = true ∧
    runs (exec (.frefPinChange false 31) s) (fun t => !t.beat.enN && t.beat.fsel == 31 && t.reg 0x20010 == 8) = true ∧
    runs (exec .selectedRefLost l) (fun t => t.beat.hold) = true := by simp only [reaches, readable]; decide +kernel

theorem test_hyp_BeatLoopAndAlign :
    let b (x : Beat) : State := { State.reset with beat := x }
    let al (cfg ofs : Word) : State := { withRegs [(0x20090, cfg), (0x20094, ofs)] with beat := { alDue := true } }
    reaches State.reset 66 0x20064 ∧ reaches State.reset 66 0x20098 ∧ fld (b {}).beat.loop 16 8 = 15 ∧ fld (b {}).beat.hocfg 16 16 = 0 ∧
    fld (b {}).beat.hocfg 0 8 = 15 ∧ (withRegs [(0x20084, 11718)]).ppsPick = some 75288 ∧ (withRegs [(0x20084, 1)]).ppsPick = none ∧
    runs (exec .loopStageAdvance (b { mode := .acquiring, stage := 1, stageCnt := 64 })) (fun t => t.beat.stage == 2) = true ∧
    runs (exec .beatLocked (b { mode := .acquiring, stage := 2, lockCnt := 256 })) (fun t => t.beat.mode == .locked) = true ∧
    runs (exec .beatLocked (b { mode := .acquiring, stage := 2, lockCnt := 255 })) (fun t => t.beat.mode == .acquiring) = true ∧
    runs (exec .beatLockLost (b { mode := .locked, badCnt := 16, alBusy := true })) (fun t => t.beat.stage == 1 && t.beat.alRes == .cancelled) = true ∧
    runs (exec .beatAcqTimeout (atBolt 234375 (b { mode := .acquiring, sel := some 0 }))) (fun t => (t.cand 0).acqFail) = true ∧
    runs (exec .holdoverMaxExpire (atBolt 15625 (b { mode := .holdover, hocfg := 0x10000 }))) (fun t => t.beat.mode == .lost) = true ∧
    runs (exec .hoValidSet (atBolt 234375 (b { mode := .locked }))) (fun t => t.beat.hoValid) = true ∧
    runs (exec .pullComplete (b { pulling := true })) (fun t => !t.beat.pulling) = true ∧
    runs (exec (.beatAlignGo 66) State.reset) (fun t => t.beat.alGo) = true ∧
    runs (exec (.beatAlignCancel 66) (b { alBusy := true })) (fun t => t.beat.alRes == .cancelled) = true ∧
    runs (exec (.alignStart 0) (al 0 0)) (fun t => t.beat.alRes == .noref) = true ∧
    runs (exec (.alignStart 0) (al 5 0)) (fun t => t.beat.alRes == .nophase) = true ∧
    runs (exec (.alignStart 0) (al 4 128001)) (fun t => t.beat.alRes == .range) = true ∧
    runs (exec (.alignStart 0) (al 4 (-128000))) (fun t => t.beat.alBusy && t.beat.alLeft == -128000000000) = true ∧
    runs (exec .alignComplete (b { alBusy := true })) (fun t => t.beat.alRes == .done && t.reg 0x2007C == 0) = true ∧
    runs (exec .ppsOutEdge (withRegs [(0x20084, 3906)])) (fun t => t.out == [.pps 25096 0]) = true := by simp only [reaches]; decide +kernel

theorem test_hyp_PowerRequests :
    let dom (v : BitVec 18) : State :=
      { up with pwr := { State.reset.pwr with domOn := v }, wvr := [(0, { st := .idle }), (8, { st := .idle }), (16, { st := .idle }), (24, { st := .idle })] }
    let hot (n : Nat) : State := { State.reset with pwr := { State.reset.pwr with hot := [(11, n)] } }
    let hbm := { dom 0x00F01 with prot := { hbmOn := 3, hbmReady := 1 }, regs := [(0xA80040, 1)] }
    reaches State.reset 66 0x10040 ∧ (dom 0x00F00).want 0 = false ∧ (dom 0x00F00).domUp 0 = true ∧ (dom 0x00F02).startDue 1 = true ∧
    (dom 0x08F00).startDue 15 = true ∧ (dom 0x00E01).want 8 = false ∧ (dom 0x00E01).clusterOn 0 = true ∧ (dom 0x20F00).startDue 17 = true ∧
    bit hbm.prot.hbmReady 1 = false ∧ hbm.rb 0xA80040 0 = true ∧ hbm.rb 0xA80040 1 = false ∧
    runs (exec (.pwrDomCtrlWrite 66 0xFFFFFFFF) State.reset) (fun t => t.reg 0x10040 == 0x3FFFF && t.pwr.domBy == 66) = true ∧
    runs (exec (.portTileSleep 0) (dom 0x00F00)) (fun t => !t.reach 0 && t.lanes == []) = true ∧
    runs (exec (.portTileWake 1) (dom 0x00F02)) (fun t => (t.port 1).waking) = true ∧
    runs (exec (.portTileUp 1) { dom 0x00F03 with ports := [(1, { waking := true })] }) (fun t => t.reach 1 && (t.lane 127).lostIn) = true ∧
    runs (exec (.clusterPowerOff 0) (dom 0x00E01)) (fun t => (t.weaver 7).st == .off) = true ∧
    runs (exec (.clusterPowerOff 0) { dom 0x00E01 with wvr := [(0, { st := .idle }), (7, { st := .run })] }) (fun t => (t.weaver 7).st == .run) = true ∧
    runs (exec (.clusterPowerOn 7) (dom 0x08F00)) (fun t => (t.weaver 63).powering) = true ∧
    runs (exec (.clusterIdle 7) { State.reset with wvr := [(56, { st := .off, powering := true })] }) (fun t => (t.weaver 56).st == .idle) = true ∧
    runs (exec (.hbmPowerOn 1) (dom 0x20F00)) (fun t => bit t.prot.hbmOn 1) = true ∧
    runs (exec (.hbmReady 1) hbm) (fun t => t.prot.hbmReady == 3) = true ∧
    runs (exec (.hbmPowerOff 0) hbm) (fun t => t.prot.hbmOn == 3 && bit (t.reg 0x10010) 2) = true ∧
    runs (exec (.hbmPowerOff 1) hbm) (fun t => t.prot.hbmOn == 1) = true ∧
    runs (exec .powerOff State.reset) (fun t => !t.pwr.cdpOn && (t.weaver 0).st == .off) = true ∧
    runs (exec .thermalTrip (hot 4)) (fun t => t.pwr.tripped) = true ∧ runs (exec .thermalTrip (hot 3)) (fun t => !t.pwr.tripped) = true := by
  simp only [reaches]; decide +kernel

/-- A reset of that kind asked by 66 over JTAG or PCIe, due now. -/
def resetting (kind : Nat) : State := { up with pwr := { State.reset.pwr with req := some (kind, 4, 66), due := true } }

theorem test_hyp_ResetRequests :
    let a := { State.reset with pwr := { State.reset.pwr with keys := [(66, 0)] } }
    let c := { a with pwr := { a.pwr with inProg := 3 } }
    let r := { a with pwr := { a.pwr with req := some (2, 4, 66) } }
    let off := { State.reset with pwr := { State.reset.pwr with inRange := false, inProg := 0 } }
    reaches a 66 0x84 ∧ reaches a 66 0x80 ∧ a.rstMaster 66 = true ∧ a.rstMaster 0 = false ∧ (atBolt 64 a).rstArmed 66 = true ∧
    (atBolt 65 a).rstArmed 66 = false ∧ rank 3 < rank 2 ∧ rank 2 < rank 1 ∧
    runs (exec (.glbRstKeyWrite 66 0x7E57) State.reset) (fun t => t.rstArmed 66) = true ∧
    runs (exec (.glbRstCmdWarm 66) { a with pwr := { a.pwr with inProg := 0 } }) (fun t => t.pwr.req == some (2, 4, 66) && !t.pwr.due) = true ∧
    runs (exec (.glbRstCmdWarm 66) c) (fun t => t.pwr.req == some (2, 4, 66) && t.pwr.due) = true ∧
    runs (exec (.glbRstCmdCp 66) r) (fun t => t.pwr.req == some (2, 4, 66)) = true ∧
    runs (exec (.glbRstCmdCold 66) r) (fun t => t.pwr.req == some (1, 4, 66)) = true ∧
    runs (exec (.glbRstCmdCold 66) (atBolt 65 a)) (fun t => t.pwr.req == none && t.reg 0x20 == 0x80042084) = true ∧
    runs (exec (.powerOn 0x300) off) (fun t => t.pwr.req == some (1, 1, 0)) = true ∧
    runs (exec (.resetNAssert 10000) { State.reset with pwr := { State.reset.pwr with inProg := 0 } }) (fun t => t.pwr.req == some (1, 2, 0)) = true ∧
    runs (exec (.resetNAssert 9999) State.reset) (fun t => t.pwr.req == none) = true := by simp only [reaches]; decide +kernel

theorem test_hyp_ResetsPerformed :
    let w := atBolt 2 { State.reset with pwr := { State.reset.pwr with asgDue := true, warmAt := some 0 },
                                         loom := { act := { eg := [(lsrOf 8 0, mkEg 0 1 7 0 false false 0)] } } }
    (resetting 1).resetDue 1 = some (4, 66) ∧ (resetting 2).resetDue 2 = some (4, 66) ∧ (resetting 3).resetDue 3 = some (4, 66) ∧
    State.reset.resetDue 1 = none ∧ w.asgNow = true ∧ w.loom.act.positions ≠ [] ∧
    runs (exec (.coldReset 0x300 ⟨[(0, 0)], [], false⟩) (resetting 1)) (fun t => t.headless && (t.fm false).st == .off && (t.weaver 63).st == .off) = true ∧
    runs (exec .cpReset (resetting 3)) (fun t => t.headless && t.pwr.inProg == 3 && t.reg 0x90 == 1) = true ∧
    runs (exec .warmFineAsgRestore w) (fun t => t.asg 0 != 0 && !t.pwr.asgDue) = true := by decide +kernel


/-! ### Coppice, mailbox, Bamry -/

/-- Foreman A holds the lease with a tick due. -/
def ticking (f : Fmn → Fmn) : State := { State.reset with fmn := f { held.fmn with tickAt := 1 } }

theorem test_hyp_LeaseTicks :
    let a (f : Foreman → Foreman) : State := ticking (fun x => { x with a := f x.a })
    let silent := ticking (fun x => { x with tick := 77 })
    let out := ticking (fun x => { x with remain := 1 })
    let free := ticking (fun x => { x with holder := 0, a := { st := .boot, claim := true }, b := { st := .standby, claim := true } })
    reaches State.reset 64 0x30050 ∧ reaches held 66 0x30054 ∧ reaches held 64 0x30058 ∧ (ticking id).tickDue = true ∧ held.tickDue = false ∧
    (ticking id).tickCount.wireSilent = false ∧ silent.tickCount.wireSilent = true ∧ silent.tickCount.shedSilent = true ∧
    (a (fun f => { f with renewAt := 0, wireAt := 0 })).fmnCfg 4 = true ∧ free.mayClaim false = true ∧ free.mayClaim true = true ∧ free.prefer = false ∧
    runs (exec (.fmnLeaseClaim 64 1) State.reset) (fun t => t.fmn.a.claim && !t.fmn.b.claim) = true ∧
    runs (exec (.fmnLeaseRenew 66 1) held) (fun t => t.reg 0x30020 == 0x80042054) = true ∧
    runs (exec .leaseTick (ticking id)) (fun t => t.fmn.remain == 499 && t.fmn.holder == 1 && !t.tickDue) = true ∧
    runs (exec .leaseTick (a (fun f => { f with renew := some 1 }))) (fun t => t.fmn.remain == 782) = true ∧
    runs (exec .leaseTick (a (fun f => { f with renew := some 2 }))) (fun t => t.fmn.remain == 499) = true ∧
    runs (exec .leaseExpire out) (fun t => t.fmn.holder == 0 && t.reg 0x30064 == 1 && t.fmn.a.st == .held && t.fmn.b.st == .boot) = true ∧
    runs (exec .wireTimeout silent) (fun t => t.fmn.holder == 0 && t.reg 0x30064 == 2) = true ∧
    runs (exec .wireTimeout (ticking (fun x => { x with tick := 77, a := { x.a with renewAt := 1 } }))) (fun t => t.fmn.wireLost && t.fmn.holder == 1) = true ∧
    runs (exec .leaseTick (ticking (fun x => { x with causes := [6] }))) (fun t => t.reg 0x30064 == 6) = true ∧
    runs (exec .leaseTick free) (fun t => t.fmn.holder == 1 && t.fmn.gen == 2) = true ∧
    runs (exec .leaseTick (a (fun f => { f with rel := some 0x10000 }))) (fun t => t.fmn.holder == 0 && t.reg 0x30064 == 4 && t.reg 0x30068 == 0) = true ∧
    runs (exec .leaseTick ((ticking (fun x => { x with a := { x.a with rel := some 0x10002 }, b := { st := .standby } })).setReg 0x300A4 0x10000)) (fun t =>
      t.fmn.holder == 2 && t.fmn.gen == 2 && t.fmn.b.st == .active) = true ∧
    runs (exec .leaseTick (a (fun f => { f with rel := some 0x10001 }))) (fun t => t.fmn.holder == 1 && t.reg 0x30020 == 0x80040058) = true ∧
    runs (exec (.islandFault false) held) (fun t => t.fmn.causes == [5]) = true ∧
    runs (exec (.islandFault false) { held with fmn := { a := { st := .held, powered := true } } }) (fun t => t.fmn.a.fault) = true := by simp only [reaches]; decide +kernel

theorem test_hyp_ForemanStates :
    let s (a : Foreman) (h : Nat) : State := { State.reset with fmn := { a := a, holder := h } }
    let tk (x : Foreman) : State := { State.reset with fmn := { a := x, tick := 1024, take := some (false, 0) } }
    let wtr := { State.reset with regs := [(0x300A0, 0x10000)], fmn := { holder := 2, a := { st := .standby }, b := { st := .active }, tick := 1171875 } }
    reaches State.reset 66 0x30060 ∧ reaches State.reset 64 (selfA false) ∧ reaches State.reset 66 (selfA true) ∧ (tk { st := .boot }).takeOver false = true ∧
    (s { st := .boot } 0).takeOver false = false ∧ ({ tk { st := .boot } with fmn := { a := { st := .boot }, tick := 1024 } }).bootOver false = true ∧
    wtr.prefer = false ∧ wtr.fmnCfg 2 = true ∧ wtr.ready false = true ∧ max 1 (wtr.rf 0x30040 8 8) * 15625 = 1171875 ∧ wtr.bQuiet false = true ∧
    runs (exec (.foremanBoot false ⟨false, false, 0⟩) (s { st := .boot } 0)) (fun t => t.fmn.a.stuck) = true ∧
    runs (exec (.foremanBoot false ⟨false, true, 7⟩) (s { st := .boot } 0)) (fun t => t.fmn.a.claim && t.rf 0x300A0 0 16 == 7) = true ∧
    runs (exec (.foremanBoot false ⟨true, true, 7⟩) (s { st := .boot } 2)) (fun t => t.fmn.a.st == .standby && t.reg 0x300A0 == 0x10007) = true ∧
    runs (exec (.fmnStartA 66) (s { st := .held } 0)) (fun t => t.fmn.a.st == .boot) = true ∧
    runs (exec (.fmnStopA 66) (s { st := .active } 1)) (fun t => t.fmn.a.st == .off && t.fmn.causes == [3] && t.fmn.holder == 1) = true ∧
    runs (exec (.fmnClrFail 66) (s { st := .fail, fails := 3 } 2)) (fun t => t.fmn.a.st == .off && t.fmn.a.fails == 0) = true ∧
    runs (exec (.fmnClrFail 66) { s { st := .fail } 0 with regs := [(0x30064, 9)] }) (fun t => t.fmn.a.st == .boot) = true ∧
    runs (exec (.fmnSelfWrite 64 false 0xFFFFFFFF) State.reset) (fun t => t.reg 0x300A0 == 0x1FFFF) = true ∧
    runs (exec (.fmnSelfWrite 66 true 1) State.reset) (fun t => t.reg 0x30020 == 0x800420A4) = true ∧
    runs (exec (.bootTimeout false) (tk { st := .boot, fails := 2 })) (fun t => t.fmn.a.st == .fail && t.fmn.b.st == .boot) = true ∧
    runs (exec (.bootTimeout false) { tk {} with fmn := { a := { st := .boot }, tick := 1024 } }) (fun t => t.fmn.a.fails == 1 && t.fmn.a.st == .boot) = true ∧
    runs (exec (.heldRelease false) { State.reset with fmn := { a := { st := .held, relAt := some 5 }, tick := 5, holder := 2 } }) (fun t => t.fmn.a.st == .boot) = true ∧
    runs (exec .formerHolderPowerOff { State.reset with fmn := { a := { st := .standby, offAt := some 5 }, tick := 5, holder := 2 } }) (fun t => t.fmn.a.st == .off) = true ∧
    runs (exec .foremanRevertWtr (holding wtr)) (fun t => t.fmn.ho == some { told := true, at_ := 1171875 } && t.mbx.stopTake && t.reg 0x300A0 == 0) = true := by simp only [reaches]; decide +kernel

/-- A mailbox command of 64 bytes: opcode, then its arguments from byte 8. -/
def mcmd (op : Byte) (args : List Byte) : List Byte := padTo 64 ([0, 0, 0, 0, op, 0, 0, 0] ++ args)
/-- Ring 3 is on and holds one command at HEAD 0; Foreman A leads; the host's memory can be written. -/
def ringed (b : List Byte) : State :=
  { held with mbx := { mem := Memory.writeN [] 0x30000 b }, regs := [(0x70040, 8), (mbxR 3 4, 1)], pcie := linked.pcie }
/-- The command is held. -/
def inHand (b : List Byte) : State := { ringed b with mbx := { taken := [{ ring := 3, slot := 0, bytes := b }] } }

theorem test_hyp_MailboxCommands :
    let c (b : List Byte) : MbxCmd := { ring := 3, slot := 0, bytes := b }
    let st (o : Host.Outcome State Fault Refusal) : Bool := runs o (fun t => t.mbx.taken == [] && t.reg (mbxR 3 0x1C) == 1 && bit (t.reg 0x70010) 3)
    let ck (t : Fmn → Fmn) : State := { held with fmn := t { held.fmn with tick := 15625 * 225 } }
    (ringed (mcmd 1 [])).takes = true ∧ (ringed (mcmd 1 [])).nextRing = some 3 ∧ State.reset.takes = false ∧ (c (mcmd 0x31 [])).op = 0x31 ∧
    opLevel 0x99 = none ∧ (inHand (mcmd 1 [])).current 3 = some (c (mcmd 1 [])) ∧ (inHand (mcmd 1 [])).canReply (c (mcmd 1 [])) = true ∧
    2 ^ State.reset.cqSize 3 = 64 ∧ reaches State.reset 66 (mbxR 3 4) ∧ (inHand (mcmd 1 [])).headless = false ∧ (inHand (mcmd 1 [])).canIssue = true ∧
    runs (exec (.mbxCqTailWrite 66 3 63) State.reset) (fun t => t.reg (mbxR 3 4) == 63) = true ∧
    runs (exec (.mbxCqTailWrite 66 3 64) State.reset) (fun t => t.reg (mbxR 3 4) == 0 && t.reg 0x70010 == 0x20) = true ∧
    runs (exec (.mbxCommandTake 3) (ringed (mcmd 1 []))) (fun t => t.mbx.taken == [c (mcmd 1 [])] && t.reg (mbxR 3 8) == 1) = true ∧
    st (exec (.mbxCommandTake 3) (ringed (mcmd 0x99 []))) = true ∧
    st (exec (.mbxCommandTake 3) { ringed (mcmd 2 []) with fmn := { held.fmn with shed := 2 } }) = true ∧
    st (exec (.ping 3) (inHand (mcmd 1 []))) = true ∧ st (exec (.status 3) (inHand (mcmd 2 []))) = true ∧
    st (exec (.ckptNow 3) { inHand (mcmd 0x20 []) with fmn := {} }) = false ∧ st (exec (.ckptFlash 3) (inHand (mcmd 0x21 []))) = true ∧
    st (exec (.fwWrite 3 [1] true) (inHand (mcmd 0x30 [1, 0, 0, 0, 0, 4, 0]))) = true ∧
    runs (exec (.fwWrite 3 [1] true) (inHand (mcmd 0x30 [1, 0, 0, 0, 0, 4, 0]))) (fun t => t.mbx.slot1 == [(0, 1)]) = true ∧
    st (exec (.fwWrite 3 [1] true) (inHand (mcmd 0x30 [2, 0, 0, 0, 0, 4, 0]))) = true ∧
    st (exec (.fwActivate 3 true) (inHand (mcmd 0x31 [1]))) = true ∧ st (exec (.fwActivate 3 false) (inHand (mcmd 0x31 [1]))) = true ∧
    st (exec (.mgmtSend 3) (inHand (mcmd 0x50 [8, 0]))) = true ∧
    runs (exec (.mgmtSend 3) { inHand (mcmd 0x50 [7, 1, 9]) with bmy := { nbr := [(7, { lane := some 0 })] }, mbx := { (inHand (mcmd 0x50 [7, 1, 9])).mbx with mgmtEn := 0x80 } })
      (fun t => decide (Output.mgmt 7 [9] ∈ t.out)) = true ∧
    runs (exec (.mgmtCfg 3) (inHand (mcmd 0x51 [0xFF]))) (fun t => t.mbx.mgmtEn == 0xFF) = true ∧
    runs (exec (.mgmtMessageRx 0 ⟨3, [scramble (cellPos 35) (mkCell true true [9])]⟩) { upLane { framer := .sync } with fmn := held.fmn, pcie := linked.pcie, mbx := { mgmtEn := 1 } }) (fun t => t.reg 0x7011C == 1) = true ∧
    (ck id).rf 0x3007C 0 16 = 0xF43 ∧ (ck id).rf 0x3007C 16 8 = 225 ∧ (ck id).ckptChanged = true ∧ (ck id).holderId = some 64 := by
  simp only [reaches]; decide +kernel

theorem test_hyp_MailboxEngineCommands :
    let b := mcmd 0x10 [1, 0, 0, 0]
    let ho (f : Foreman) : State := { inHand (mcmd 0x40 []) with regs := [(0x300A4, 0x10000), (0x70040, 8)], fmn := { held.fmn with b := f } }
    let rp := { inHand b with mbx := { taken := [{ ring := 3, slot := 0, bytes := b }], replaying := true } }
    let dn := { inHand b with mbx := { taken := [{ ring := 3, slot := 0, bytes := b, posted := true, done := some [7] }] } }
    (inHand b).qRoom false = true ∧ (inHand b).qRoom true = true ∧ (ho { st := .standby }).ready true = true ∧ (ho {}).fmn.ho = none ∧
    (ho { st := .standby }).bQuiet true = true ∧ dn.doneCmd false = some { ring := 3, slot := 0, bytes := b, posted := true, done := some [7] } ∧
    dn.doneCmd true = none ∧ dn.icMore true = false ∧ rp.headless = false ∧
    runs (exec (.mbxTreadle 3) (inHand b)) (fun t => t.trd.q.map (fun c => (c.win, c.op, c.ring, c.tag.toNat)) == [(1, 1, 1, 0xC00)]) = true ∧
    runs (exec (.mbxFine 3) (inHand (mcmd 0x11 [1, 0, 0, 0]))) (fun t => t.fine.eng.q.length == 1) = true ∧
    runs (exec (.handover 3) (ho {})) (fun t => t.mbx.taken == [] && t.reg (mbxR 3 0x1C) == 1) = true ∧
    runs (exec (.handover 3) (holding (ho { st := .standby }))) (fun t => t.fmn.ho == some { cmd := some (3, 0), told := true } && t.mbx.stopTake && t.reg 0x300A4 == 0) = true ∧
    runs (exec .mbxTreadleReply dn) (fun t => t.mbx.taken == [] && t.reg (mbxR 3 0x1C) == 1) = true ∧
    runs (exec .mailboxReplay rp) (fun t => t.trd.q.map (fun c => (c.win, c.op)) == [(1, 0x0D)] && t.mbx.fences.isSome) = true := by decide +kernel

/-- The agent runs on W5 with EN as device 7; port 0 is up, lane 0 of it in SYNC and facing lane 2 of port 1 of device 9. -/
def bamry : State :=
  { up with wvr := [(5, { st := .run, role := 2 })], fmn := held.fmn, lanes := [(0, { framer := .sync })],
            regs := [(0xB80040, 0x881027), (0xB80044, 7), (lnA 0 0x5C, 0x1242)],
            bmy := { nbr := [(0, { st := 1, vl := 2, lane := some 0, serial := 5 })] } }
/-- The cells of a message as they stand on the line of the Bamry channel of lane 0. -/
def run (m : List Byte) : CellRun := ⟨0, (cellsOf m).mapIdx (fun i c => scramble (cellPos i) c)⟩
/-- A message as received, sealed. -/
def rx (ty orig rno : Nat) (body : List Byte) : List Byte := sealMsg (mkMsg ty orig rno body)
/-- A HELLO of serial 5, port 1, versions 1 and 2. -/
def hello : List Byte := rx 1 0 0 ([0, 0, 0, 0, 0, 0, 0, 5] ++ [1, 1, 2, 0] ++ List.replicate 12 0)
/-- A neighbour on port 0. -/
def nb (n : Nbr) : State := { bamry with bmy := { nbr := [(0, n)] } }

/-- The command runs, and its messages are processed (R249). -/
def got (o : Host.Outcome State Fault Refusal) (f : State → Bool) : Bool := runs o (fun t => f t.bmyProcess)

theorem test_hyp_BamryLinks :
    let id (ty n : Nat) : List Byte := rx ty 0 0 ([0, 0, 0, 0, 0, 0, 0, 5] ++ beBytes 3 n ++ [0, 0, 0, 0, 0])
    let asg := { bamry with regs := [(0xB80040, 0x881023), (0xB80044, 7), (0xB80054, 100), (0xB80058, 1)] }
    let new := { bamry with regs := [(0xB80040, 0x881025)], pwr := { State.reset.pwr with serial := 5 } }
    bamry.bmyAgent = true ∧ bamry.bmyEn = true ∧ bamry.reach 0 = true ∧ msgOk hello = true ∧ mType hello = 1 ∧ msgOk (hello.set 20 1) = false ∧
    State.reset.bmyAgent = false ∧ bamry.devId = 7 ∧ mFrom hello = 0 ∧ new.devId = 0 ∧ new.serialNo = 5 ∧ new.rb 0xB80040 2 = true ∧
    asg.rb 0xB80040 1 = true ∧ asg.rf 0xB80058 0 18 = 1 ∧ bamry.helloLoss * bamry.helloInt = 128 ∧ reaches bamry 66 0xB80044 ∧
    got (exec (.helloRx 0 (run (hello.set 20 1))) bamry) (fun t => t.reg 0xB80070 == 1) = true ∧
    got (exec (.helloRx 0 (run (sealMsg (hello.set 6 7)))) bamry) (fun t => (t.nbr 0).st == 2 && t.rb 0xB80010 2) = true ∧
    got (exec (.helloRx 0 (run hello)) (nb { st := 1, serial := 4, vl := 2 })) (fun t => (t.nbr 0).st == 0 && (t.nbr 0).vl == 0) = true ∧
    got (exec (.helloRx 0 (run hello)) bamry) (fun t => (t.nbr 0).st == 1 && (t.nbr 0).vl == 2) = true ∧
    got (exec (.helloRx 0 (run hello)) (nb {})) (fun t => (t.nbr 0).st == 0 && (t.nbr 0).helloCnt == 1) = true ∧
    got (exec (.helloRx 0 (run hello)) (nb { helloCnt := 1, serial := 5 })) (fun t => (t.nbr 0).st == 1 && (t.nbr 0).vl == 2) = true ∧
    got (exec (.idReqRx 0 (run (id 2 0))) asg) (fun t => t.bmy.offers == [(100, 0)] && t.reg 0xB80054 == 101 && t.reg 0xB80058 == 0) = true ∧
    got (exec (.idOfferRx 0 (run (id 3 100))) new) (fun t => t.reg 0xB80044 == 0x40064) = true ∧
    got (exec (.idOfferRx 0 (run (id 3 100))) bamry) (fun t => t.reg 0xB80044 == 7) = true ∧
    got (exec (.idAckRx 0 (run (id 4 100))) { asg with bmy := { offers := [(100, 0), (101, 0)] } }) (fun t => t.bmy.offers == [(101, 0)]) = true ∧
    runs (exec .helloInterval (atBolt 16 bamry)) (fun t => t.bmy.txq.length == 8) = true ∧
    runs (exec (.helloLossTimeout 0) (atBolt 128 bamry)) (fun t => (t.nbr 0).st == 0) = true ∧
    runs (exec (.helloLossTimeout 0) (atBolt 127 bamry)) (fun t => (t.nbr 0).st == 1) = true ∧
    runs (exec .idOfferTimeout (atBolt 64 { asg with bmy := { offers := [(100, 0), (101, 1)] } })) (fun t =>
      t.bmy.offers == [(101, 1)] && t.reg 0xB80074 == 1) = true ∧
    runs (exec (.bmyDevidWrite 66 250001) bamry) (fun t => t.devId == 7 && t.reg 0xB80020 == 0x80042044) = true ∧
    runs (exec .bamryAgentLost (atBolt 8 { bamry with bmy := { hbAt := some 0 } })) (fun t => t.bmy.hbAt == none && t.rb 0xB80010 4) = true := by
  simp only [reaches]; decide +kernel

/-- A SETUP of device 9, reference 3, that arrives as skein 4 of port 0 and leaves here as skein 6 of port 0 lane 1. -/
def setup : List Byte :=
  rx 0x10 9 3 ([0, 2, 1, 0] ++ [0, 0, 0, 2] ++ [0, 0, 0, 0] ++ List.replicate 12 0 ++ mkHop 9 false 0 1 2 4 127 none ++ mkHop 7 false 0 0 1 6 127 none)
/-- The reservation it makes. -/
def rec3 (committed posting : Bool) : PathRec :=
  { orig := 9, rno := 3, att := 0, thr := false, conns := [(4, 0x106)], inPort := some 0, outPort := none, hidx := 1, age := 0, at_ := 0, msg := setup,
    committed := committed, posting := posting }
def withRec (r : PathRec) : State := { bamry with bmy := { bamry.bmy with recs := [r] } }

theorem test_hyp_BamryPaths :
    let conf := rx 0x11 9 3 (bytesAt setup 16 40)
    let ref := rx 0x12 9 3 [8, 1, 0, 0, 0, 0, 0, 0]
    let td := rx 0x13 9 3 [1, 0, 0, 0, 0, 0, 0, 0]
    let rq (op : Byte) : State := { bamry with
      bank := { mem := Memory.writeN [] 0 (0 :: 1 :: op :: 0 :: List.replicate 10 0 ++ [0, 2]) },
      regs := [(0xB80040, 0x881027), (0xB80044, 7), (0xB80088, 1), (0xB80090, 0x1000), (bankA 0x100, 0x105)] }
    let hd (h : HeadReq) : State := { bamry with bmy := { bamry.bmy with heads := [h] } }
    let h0 : HeadReq := { req := [], rno := 2, first := 0, sentAt := 0 }
    msgOk setup = true ∧ mType setup = 0x10 ∧ hDev (mHop setup 1) = 7 ∧ bamry.laneNaming 9 1 2 = some 0 ∧ msgOk conf = true ∧ msgOk ref = true ∧
    msgOk td = true ∧ bamry.tdCan 0 = true ∧ (rq 1).bmyRequest.isSome = true ∧ bamry.bmyRequest = none ∧ (rq 1).mayWrite 0 5 = true ∧
    (rq 1).svcFull 0xB80094 0xB80098 0xB8009C = false ∧ bamry.agentEntry false = none ∧ atLeast1 (bamry.rf 0xB80050 0 12) = 512 ∧
    got (exec (.setupRx 0 (run setup)) bamry) (fun t => t.bmy.recs.map (fun r => (r.orig, r.rno, r.conns)) == [(9, 3, [(4, 0x106)])]) = true ∧
    got (exec (.setupRx 0 (run setup)) (withRec (rec3 true false))) (fun t => t.bmy.recs.length == 1) = true ∧
    got (exec (.setupRx 0 (run setup)) { bamry with fmn := {} }) (fun t => t.bmy.recs == [] && t.reg 0xB8006C == 1) = true ∧
    got (exec (.confirmRx 0 (run conf)) (withRec (rec3 false false))) (fun t =>
      t.trd.q.map (fun c => (c.win, c.op, c.src, c.dst)) == [(2, 1, 4, 0x106)] && t.bmy.recs.all (·.posting)) = true ∧
    got (exec (.confirmRx 0 (run conf)) bamry) (fun t => t.bmy.txq.map (fun e => mType e.2.2) == [0x13, 0x12]) = true ∧
    got (exec (.refuseRx 0 (run ref)) (withRec (rec3 false false))) (fun t => t.bmy.recs == []) = true ∧
    got (exec (.teardownRx 0 (run td)) (withRec (rec3 true false))) (fun t => t.bmy.recs == [] && t.bmy.txq.any (fun e => mType e.2.2 == 0x14)) = true ∧
    got (exec (.tdAckRx 0 (run (rx 0x14 9 3 [1, 0, 0, 0, 0, 0, 0, 0]))) { bamry with bmy := { bamry.bmy with tds := [⟨0, td, 1, 0⟩] } }) (fun t => t.bmy.tds == []) = true ∧
    runs (exec .bmyReqSetup (rq 1)) (fun t => t.reg 0xB8008C == 1 && t.bmy.rno == 1) = true ∧
    runs (exec .bmyReqTeardown (rq 2)) (fun t => t.reg 0xB8008C == 1) = true ∧
    runs (exec .bmyReqBadOp (rq 3)) (fun t => t.reg 0xB80098 == 1 && t.rb 0xB80010 0) = true ∧
    runs (exec (.setupTmo 2) (atBolt 512 (hd { h0 with att := 15, sent := true }))) (fun t => t.bmy.heads == []) = true ∧
    runs (exec (.retryBackoff 2) (hd { h0 with waiting := some 0 })) (fun t => t.bmy.heads.all (fun h => h.att == 1)) = true ∧
    runs (exec (.rsvTmo 9 3) (atBolt 1024 (withRec (rec3 false false)))) (fun t => t.bmy.recs == []) = true ∧
    runs (exec (.teardownResend 0) (atBolt 8 { bamry with bmy := { bamry.bmy with tds := [⟨0, td, 1, 0⟩] } })) (fun t => t.bmy.tds == [⟨0, td, 2, 8⟩]) = true ∧
    runs (exec .bamryAudit (atBolt 64 (withRec (rec3 true false)))) (fun t => t.bmy.recs == [] && t.reg 0xB80078 == 1) = true ∧
    runs (exec .bamryAgentRestart { withRec (rec3 false false) with bmy := { recs := [rec3 false false], restart := true } }) (fun t => t.bmy.recs == []) = true := by
  decide +kernel


/-! ### Twiuri, picks, the bolt boundary -/

theorem test_hyp_TwiuriAnswers :
    let ro := { held with regs := [(0x60040, 0)] }
    let prints (o : Host.Outcome State Fault Refusal) (x : String) : Bool := runs o (fun t => match t.out with | [.uart b] => b.take x.length == ascii x | _ => false)
    let w := { held with tst := { wait := some (true, 0xF000, 0) } }
    held.holderId = some 64 ∧ State.reset.holderId = none ∧ held.fmn.shed = 0 ∧ held.rb 0x60040 0 = true ∧ ro.rb 0x60040 0 = false ∧
    splitWords (editLine (ascii "lane  3 0x1f")) = [ascii "lane", ascii "3", ascii "0x1f"] ∧ numOf (ascii "0x1f") = some 31 ∧ numOf (ascii "3") = some 3 ∧
    splitWords (editLine (ascii "heop" ++ [8, 8] ++ ascii "lp")) = [ascii "help"] ∧ splitWords (editLine (ascii "hepx" ++ [8, 8] ++ ascii "lp")) = [ascii "help"] ∧
    prints (exec .twId State.reset) "! HEADLESS" = true ∧ prints (exec .twId { held with fmn := { held.fmn with shed := 1 } }) "! BUSY" = true ∧
    prints (exec .twLock ro) "! RO" = true ∧ prints (exec (.twRd 0 0) held) "! ARG" = true ∧ prints (exec (.twLane 7 64) held) "! ARG" = true ∧
    prints (exec (.twSkein 0 0 160) held) "! ARG" = true ∧ prints (exec (.twWvr 64) held) "! ARG" = true ∧ prints (exec (.twProt 8192) held) "! ARG" = true ∧
    prints (exec (.twTcmd []) held) "! ARG" = true ∧ prints (exec (.twiuriLine (List.replicate 129 0x61)) held) "! LONG" = true ∧
    prints (exec (.twiuriLine (ascii "go")) held) "! CMD" = true ∧
    prints (exec .twCmdTimeout (atBolt 64 w)) "! TIMEOUT" = true ∧ runs (exec .twCmdTimeout (atBolt 63 w)) (fun t => t.out == []) = true := by decide +kernel

theorem test_hyp_TwiuriCommands :
    let words (o : Host.Outcome State Fault Refusal) (l : List Word) : Bool := runs o (fun t => decide (Output.uartWords l ∈ t.out))
    let tr := { held with tst := { trace := [⟨1, 2, 3, 4⟩] } }
    ctrOk 0 511 6 = true ∧ held.rf 0x60074 0 12 < tr.tst.trace.length ∧ held.tst.trace.length ≤ held.rf 0x60074 0 12 ∧
    (held.busRead 64 0x60044 4).resp.status = .ok ∧ (held.busRead 64 0x410040 4).resp.status ≠ .ok ∧
    words (exec (.twRd 0x60040 2) held) [1, 0] = true ∧ words (exec (.twTraceDump 1) tr) [1, 2, 3, 4] = true ∧
    runs (exec (.twWr 0x60044 1) held) (fun t => t.reg 0x60044 == 1) = true ∧
    runs (exec (.twSet 0x60044 1 3) held) (fun t => t.reg 0x60044 == 1) = true ∧
    runs (exec (.twTcmd [0x0D, 0, 0, 0, 0, 0, 0, 0]) held) (fun t => t.trd.q.map (fun c => (c.win, c.op, c.ring, c.tag.toNat)) == [(3, 0x0D, 1, 0xF000)] && t.tst.n == 1) = true ∧
    runs (exec .twResetWarm held) (fun t => t.pwr.req == some (2, 4, 64)) = true ∧
    runs (exec (.twBaud 7) held) (fun t => t.rf 0x60040 4 3 == 7) = true ∧ runs (exec .twLock held) (fun t => !t.rb 0x60040 0) = true := by decide +kernel

/-- Skein 0 feeds egress skein 1 in MODE `m`, of tenant `ten`, in an awake port with its link up and no defect; the ingress entry
carries the tag `tag`. -/
def woven (m ten tag : Nat) : State :=
  { up with lanes := [(0, { framer := .sync, sig := true, clk := true, cw := true, hdrOk := true, losSeen := false, lolSeen := false, oofSeen := false, rawOof := false })],
            loom := { act := { ing := [(0, mkIng 0 tag)], reed := [(0, mkReed 0)], eg := [(1, mkEg 0 m ten 0 false false 0)] } } }
/-- The same to Fine loom position 0. -/
def toFine : State :=
  { woven 1 0 0 with loom := { act := { ing := [(0, mkIng 0 0)], reed := [(8 * 12800, mkReed 0)], eg := [(lsrOf 8 0, mkEg 0 1 0 0 false false 0)] } } }

theorem test_hyp_PicksAndBoltBoundary :
    let s := woven 1 5 5
    pickOk okPick = true ∧ s.copies 0 = [(1, false, 0)] ∧ s.copies 2 = [] ∧ toFine.copies 0 = [(lsrOf 8 0, false, 0)] ∧ s.awake 0 = true ∧
    (s.lane 0).aisRounds ≤ 624 ∧ s.srcFlag 0 = false ∧ s.heldAis 0 = false ∧ s.srcAis 0 = false ∧ s.rb (lnA 0 0x40) 14 = false ∧
    s.lnTxpat 0 = 0 ∧ s.lnLoop 0 = 0 ∧ s.eccAis 1 = false ∧ egPvalid (s.egEff 1) = false ∧ egPasses (s.egEff 1) 5 = true ∧
    egPasses ((woven 1 5 4).egEff 1) 4 = false ∧
    runs (exec (.pickSwitch { okPick with round := 0, payload := scramble (64 * pickPos 0 0) (List.replicate 64 7) }) s) (fun t =>
      (t.tx 1).out.payload == List.replicate 64 7) = true ∧
    runs (exec (.pickSwitch okPick) (woven 2 5 5)) (fun t => (t.tx 1).out.kind == .lck) = true ∧
    runs (exec (.pickSwitch okPick) (woven 3 5 5)) (fun t => (t.tx 1).out.kind == .ais) = true ∧
    runs (exec (.pickSwitch okPick) (woven 1 5 4)) (fun t => (t.tx 1).out.kind == .oci && t.reg (elsA 0 0x48) == 0x10001) = true ∧
    runs (exec (.pickSwitch okPick) toFine) (fun t => ((smGet [] t.fine.buf 124).getLast?.map (·.round)) == some 624) = true ∧
    runs (exec (.pickSwitch okPick) State.reset) (fun t => decide (t = State.reset)) = true ∧ boltObsOk okObs = true := by decide +kernel

theorem test_hyp_SkidWritesByTheOwnerOnly : (withBuf 0 []).gate 5 0x1800000 8 true = .go ∧ (withBuf 0 []).gate 66 0x19FFFF8 8 true = .go ∧
    (withBuf 0 []).buf 0 = (.owned, 5) ∧ (withBuf 0 []).buf 8191 = (.free, 0) ∧ (withBuf 0 []).gate 66 0x1800000 4 false = .go := by decide +kernel

theorem test_hyp_SmbusRegisterAccess : State.reset.jtag.frozen = false ∧ bit strapped.pwr.straps 1 = true ∧ accOf 0xA0004C = some .rc ∧
    (protA 0x4C) = 0xA0004C ∧ State.reset.gate 66 0xA0004C 4 false = .go ∧ State.reset.gate 67 0xA0004C 4 false = .go := by decide +kernel

theorem test_hyp_BlazeDataFolding : State.reset.unitOn 0 = false ∧ State.reset.unitOn 71 = true ∧ State.reset.unitHeld 66 71 = false ∧
    (∀ o ∈ [0, 0x10, 0x14, 0x20, 0x24, 0x28, 0x2C], State.reset.gate 66 (blzU 71 o) 4 true = .go) ∧
    runs (exec (.blzUdata32Write 66 71 0x31323334) State.reset) (fun t => (t.unit 71).run == BitVec.ofNat 64 (0xFFFFFFFF ^^^ crc32c [0x31, 0x32, 0x33, 0x34])) = true := by
  decide +kernel

/-! ### Further witnesses: runs of cells, the monitor, the boundary, and picks of sleeping or looped lanes -/

theorem test_cells_hello : cellsRx none (rxCells 0 (run hello)) = (none, [hello], 0) := by decide +kernel
set_option maxRecDepth 20000 in
theorem test_cells_setup : cellsRx none (rxCells 0 (run setup)) = (none, [setup], 0) := by decide +kernel

theorem test_hyp_cells_bamry : takesCells bamry 0 = true ∧ takesCells up 0 = false ∧ (bamry.lane 0).bmyPart = none ∧
    bringsMsg none 0 32 (run hello) hello ∧ bringsMsg none 0 32 (run setup) setup :=
  ⟨by decide +kernel, by decide +kernel, by decide +kernel, ⟨by decide +kernel, test_cells_hello⟩, ⟨by decide +kernel, test_cells_setup⟩⟩
theorem test_hyp_cells_mgmt :
    takesCells { upLane { framer := .sync } with fmn := held.fmn } 0 = true ∧ bringsMsg none 32 64 ⟨3, [scramble (cellPos 35) (mkCell true true [9])]⟩ [9] ∧
    linked.hostWaits = false ∧ ({ linked with pcie := { linked.pcie with hostQ := [(0, [1])] } } : State).hostWaits = true :=
  ⟨by decide +kernel, ⟨by decide +kernel, by decide +kernel⟩, by decide +kernel, by decide +kernel⟩

theorem test_hyp_BamryLinks_dup : (nb { st := 2, helloCnt := 1 }).devId ≠ mFrom hello ∧
    got (exec (.helloRx 0 (run hello)) (nb { st := 2, helloCnt := 1 })) (fun t => (t.nbr 0).st == 1 && t.rb 0xB80010 1) = true := by decide +kernel

theorem test_hyp_BamryPaths_done :
    let r : PathRec := { rec3 false true with tags := [0x805] }
    let s : State := ({ withRec r with bank := { mem := Memory.writeN [] 0 [5, 8, 0] } } : State).setReg 0x8100A8 1
    (s.agentEntry false).map (fun e => (e.1, e.2.1)) = some (0x805, 0) ∧ s.bmyAgent = true ∧
    runs (exec .agentCompletion s) (fun t => t.bmy.recs.all (·.committed) && t.bmy.txq.map (fun e => mType e.2.2) == [0x11]) = true := by decide +kernel

theorem test_hyp_BeatLoopAndAlign_step :
    let s := { withRegs [(0x20090, 6), (0x20094, 3)] with beat := { alDue := true } }
    s.rb 0x20090 2 = true ∧ s.rb 0x20090 1 = true ∧ s.rb 0x20090 0 = false ∧
    runs (exec (.alignStart 0) s) (fun t => t.beat.alStep == 1 && t.beat.alLeft == 449793) = true := by decide +kernel

theorem test_hyp_TwiuriCommands_line :
    let prints (o : Host.Outcome State Fault Refusal) (b : List Byte) : Bool := runs o (fun t => decide (t.out = [.uart b]))
    held.tst.mon = none ∧ held.headless = false ∧ editLine [8, 0x20] = [0x20] ∧ splitWords (editLine [8, 0x20]) = [] ∧
    splitWords (editLine (ascii "help")) = [ascii "help"] ∧ prints (exec (.twiuriLine [0x20]) held) prompt = true ∧
    runs (exec (.twiuriLine (ascii "id")) held) (fun t => runs (exec .twId held) (fun u => decide (u = t))) = true ∧
    runs (exec (.twiuriLine (ascii "help")) held) (fun t => runs (exec .twHelp held) (fun u => decide (u = t))) = true ∧
    prints (exec (.twiuriLine (ascii "id")) State.reset) (lineOf (ascii "! HEADLESS") ++ ascii "tw- ") = true := by decide +kernel

theorem test_hyp_ResetRequests_boundary :
    let r := { State.reset with pwr := { State.reset.pwr with keys := [(66, 0)], req := some (2, 4, 66) } }
    r.pwr.due = false ∧ r.asgNow = false ∧ r.pwr.cdpOn = true ∧
    runs (exec (.coldReset 0x300 ⟨[], [], true⟩) { resetting 1 with pwr := { (resetting 1).pwr with tripped := true } }) (fun t => t.pwr.req == some (1, 4, 66)) = true := by
  decide +kernel

theorem test_hyp_PicksAndBoltBoundary_more :
    let s := woven 1 5 5
    let m : HMaps := { ing := [(0, mkIng 0 5)], reed := [(12800, mkReed 0)], eg := [(lsrOf 1 0, mkEg 0 1 5 0 false false 0)] }
    let z : State := { s with ports := [(1, { awake := true, linkUp := true })], lanes := [], loom := { act := m } }
    z.copies 0 = [(lsrOf 1 0, false, 0)] ∧ z.awake 0 = false ∧ z.awake 1 = true ∧ s.beat.edge = false ∧
    ({ s with beat := { edge := true } } : State).closeBoundary.beat.edge = false ∧
    runs (exec (.pickSwitch okPick) z) (fun t => (t.tx (skNo (lsrOf 1 0))).out.kind == .ais) = true ∧
    runs (exec (.pickSwitch { okPick with lost := true }) s) (fun t => decide (t.sktx = s.sktx)) = true := by decide +kernel

/-! ### Witnesses: held targets, host memory, domains without power, start-up, and messages of one bolt -/

/-- The queue of target `n` held full throughout (R453). -/
def holdAt (n : Nat) (s : State) : State := { s with tst := { s.tst with pert := true, shedHook := [w32 (n + 0x100), 0, 0, 0] } }

theorem test_hyp_FrontEndChecks_hostmem : held.gate 64 0x4000000 8 true = .go ∧ held.shedWaits 64 .hostmem = false ∧
    State.reset.gate 5 0x4000000 8 true = .err .nopath ∧ (holding State.reset).shedWaits 66 (.bank 40) = true ∧
    targetOf 0x1500000 = some (.bank 40) ∧ (holding State.reset).gate 5 0x1500000 8 true = .wait := by decide +kernel
theorem test_hyp_RegisterSpaceCommands_burst : State.reset.gate 66 0x60040 8 true = .go ∧ burstOk 0x60044 2 = false ∧ burstOk 0x1500000 2 = true ∧
    (holding held).gate 64 0x1500000 8 true = .wait ∧
    runs (exec (.registerWrite 64 0x1500000 8 ⟨1, [2], [], []⟩) (holding held)) (fun t => t.tst.shedQ.length == 1 && t.bank.mem == []) = true ∧
    runs (exec (.registerWrite 64 0x60044 8 ⟨1, [2], [], []⟩) held) (fun t => t.resp.status == .dec) = true := by decide +kernel
theorem test_hyp_AccessesThatDoNotReach_waits :
    runs (exec (.bankWrite 64 0x500000 8 5 false) (holding held)) (fun t => t.tst.shedQ.map (fun e => (e.m, e.a, e.size)) == [(64, 0x1500000, 8)]) = true ∧
    rowAccess (.bankWrite 64 0x500000 8 5 false) = some (64, 0x1500000, 8, true) := by decide +kernel
theorem test_hyp_ScratchBankAccesses_test :
    let s := withRegs [(0x48, 1), (bankA 0x100, 0x442)]
    s.bankKind 0 = 4 ∧ runs (exec (.bankRead 66 0 8) s) (fun t => t.resp.poisoned && t.resp.status == .err && t.resp.data == 0) = true ∧
    runs (exec (.bankRead 66 0x38 16) State.reset) (fun t => t.resp.status == .dec) = true ∧
    runs (exec (.bankWrite 71 0 8 5 true) (withRegs [(bankA 0x100, 0x147142)])) (fun t => t.reg 0xD00058 == 1 && t.bank.mem == []) = true := by decide +kernel
theorem test_hyp_BankOwnershipAndFuses_bad :
    let s := withRegs [(bankA 0x74, 1)]
    s.bankBad 0 = true ∧ fld (s.ownShown 0) 8 3 = 5 ∧ s.mayWrite 0 66 = false ∧ State.reset.bankBad 0 = false := by decide +kernel
theorem test_hyp_JtagCommands_power :
    let z : State := { State.reset with pwr := { State.reset.pwr with inRange := false } }
    runs (exec .jtagExtest z) (fun t => decide (t = z)) = true ∧ runs (exec (.smbSetPointer 4) z) (fun t => decide (t = z)) = true ∧
    runs (exec (.moduleBoltBoundary okObs) z) (fun t => decide (t = z)) = true := by decide +kernel
theorem test_hyp_HostLinkCommands_off :
    let z : State := { State.reset with pwr := { State.reset.pwr with cdpOn := false } }
    runs (exec (.pcieLinkUp 1 1) z) (fun t => decide (t = z)) = true ∧ runs (exec (.msixVectorUnmask 0) z) (fun t => decide (t = z)) = true ∧
    runs (exec (.moduleBoltBoundary { okObs with vin := 1234 }) z) (fun t => t.pwr.vin == 1234 && t.bolt == 0) = true := by decide +kernel
theorem test_hyp_DmaTransferAndSmbus_held : (holdAt 10 dmaBusy).dmaHeld 0 = true ∧ dmaBusy.dmaHeld 0 = false ∧
    runs (exec (.dmaDone 0 ⟨[1, 2, 3, 4, 5, 6, 7, 8], []⟩) (holdAt 10 dmaBusy)) (fun t => t.rb (dmaA 0 0x14) 0 && t.bank.mem == []) = true := by decide +kernel
theorem test_hyp_WeaverStates_busy :
    let s : State := { led { st := .run, role := 1 } with blz := [(5, { busy := true })] }
    s.portIdle 5 = false ∧ (led {}).portIdle 5 = true ∧ runs (exec (.weaverSleep 5) s) (fun t => (t.weaver 5).st == .run) = true := by decide +kernel
theorem test_hyp_PowerRequests_busy :
    let s : State := { State.reset with wvr := [(0, { st := .idle })], blz := [(3, { busy := true })], pwr := { State.reset.pwr with domOn := 0xE01 } }
    s.portIdle 3 = false ∧ runs (exec (.clusterPowerOff 0) s) (fun t => (t.weaver 0).st == .idle) = true := by decide +kernel
theorem test_hyp_ResetsPerformed_start :
    let f : State := { resetting 3 with fmn := { a := { st := .fail, fails := 3 } } }
    let h : State := { resetting 3 with pwr := { (resetting 3).pwr with straps := 0x100 } }
    runs (exec .cpReset (resetting 3)) (fun t => (t.fm false).st == .boot && (t.fm true).st == .off) = true ∧
    runs (exec .cpReset f) (fun t => (t.fm false).st == .fail && (t.fm true).st == .boot) = true ∧
    runs (exec .cpReset h) (fun t => (t.fm false).st == .off && (t.fm true).st == .off) = true := by decide +kernel
theorem test_hyp_LeaseTicks_reset :
    let s : State := { ticking (fun x => { x with causes := [5] }) with pwr := { (resetting 3).pwr with domOn := 0 } }
    s.cpBegins = true ∧ s.tickDue = true ∧ (ticking id).cpBegins = false ∧
    runs (exec .leaseTick s) (fun t => t.fmn.holder == 0 && fld (t.reg 0x30064) 0 3 == 6) = true ∧
    runs (exec (.islandFault true) State.reset) (fun t => decide (t = State.reset)) = true := by decide +kernel
theorem test_hyp_ForemanStates_start :
    let tk : State := { State.reset with fmn := { a := { st := .boot, fails := 2 }, b := { st := .standby, revoked := true }, tick := 1024, take := some (false, 0) } }
    State.reset.fmn.startUp = true ∧ State.reset.prefer = false ∧
    runs (exec (.foremanBoot false ⟨false, true, 7⟩) State.reset) (fun t => (t.fm false).claim && !t.fmn.startUp) = true ∧
    runs (exec (.fmnStartA 66) { State.reset with fmn := { a := { st := .standby } } }) (fun t => t.fmn.startSeen && t.fmn.a.st == .standby) = true ∧
    tk.takeOver false = true ∧ tk.fmnCfg 5 = true ∧
    runs (exec (.bootTimeout false) tk) (fun t => (t.fm true).st == .boot && !(t.fm true).revoked) = true := by decide +kernel
theorem test_hyp_MailboxCommands_waits :
    let s := inHand (mcmd 0x20 [])
    (holding s).winWaits 64 (ckptAt 0) 1 = true ∧ s.winWaits 64 (ckptAt 0) 1 = false ∧ s.hostWaits = false ∧
    runs (exec (.ckptNow 3) (holding s)) (fun t => decide (.ckpt ∈ t.tst.waitQ) && t.mbx.taken == []) = true ∧
    runs (exec (.ckptFlash 3) { inHand (mcmd 0x21 []) with fmn := { held.fmn with shed := 1 } }) (fun t => t.mbx.taken.length == 1) = true := by decide +kernel
theorem test_hyp_BamryLinks_order :
    let new := { bamry with regs := [(0xB80040, 0x881025)], pwr := { State.reset.pwr with serial := 5 } }
    let id (n : Nat) : List Byte := rx 3 0 0 ([0, 0, 0, 0, 0, 0, 0, 5] ++ beBytes 3 n ++ [0, 0, 0, 0, 0])
    new.devId = 0 ∧ got (exec (.idOfferRx 0 (run (id 250001))) new) (fun t => t.reg 0xB80044 == 0 && bit (t.reg 0xB80020) 31 && fld (t.reg 0xB80020) 0 12 == 0x44) = true ∧
    (({ new with bmy := { new.bmy with rxq := [(1, id 8), (0, id 9)] } } : State).bmyProcess.reg 0xB80044 == 0x40009) = true := by decide +kernel

end Sys2Proof.Tests
end

/-! SUPPORT. What the operations of a receive lane read back, and what they leave alone (R25, R43, R44, R46, R58). -/
namespace Sys2Proof.Machine

section
variable (s : State)

/-! ### Register addresses of a lane's page -/

/-- Two offsets of one lane's page are two addresses. -/
theorem lnA_ne {l o o' : Nat} (h : o ≠ o') : lnA l o ≠ lnA l o' := by
  unfold lnA
  omega

/-- An offset from the page's first address. -/
theorem lnA_zero_add (l o : Nat) : lnA l 0 + o = lnA l o := by
  unfold lnA
  omega

/-! ### Tally counts and tenant notes -/

@[simp] theorem State.lane_count (cls idx ctr n j : Nat) : (s.count cls idx ctr n).lane j = s.lane j := rfl
@[simp] theorem State.reg_count (cls idx ctr n a : Nat) : (s.count cls idx ctr n).reg a = s.reg a := rfl

theorem State.noteTen_only (e : TenEvent) (once : Bool) : only [.ten] s (s.noteTen e once) :=
  State.noteTen_inv e once (only_closed _ _) (only_refl _ _)

@[simp] theorem State.noteTen_lanes (e : TenEvent) (once : Bool) : (s.noteTen e once).lanes = s.lanes :=
  s.noteTen_only e once .lanes (by decide)
@[simp] theorem State.noteTen_regs (e : TenEvent) (once : Bool) : (s.noteTen e once).regs = s.regs :=
  s.noteTen_only e once .regs (by decide)
@[simp] theorem State.lane_noteTen (e : TenEvent) (once : Bool) (j : Nat) : (s.noteTen e once).lane j = s.lane j := by
  simp [State.lane]
@[simp] theorem State.reg_noteTen (e : TenEvent) (once : Bool) (a : Nat) : (s.noteTen e once).reg a = s.reg a := by
  simp [State.reg]

@[simp] theorem State.lane_modSkeins (p : Nat → Bool) (f : SkRx → SkRx) (j : Nat) : (s.modSkeins p f).lane j = s.lane j := rfl
@[simp] theorem State.reg_modSkeins (p : Nat → Bool) (f : SkRx → SkRx) (a : Nat) : (s.modSkeins p f).reg a = s.reg a := rfl

/-! ### The framer's transitions -/

@[simp] theorem State.lane_oofIrq (l j : Nat) : (s.oofIrq l).lane j = s.lane j := by
  unfold State.oofIrq
  dsimp only
  split <;> simp

/-- OOF beginning or ending shows in the lane's IRQ_RAW only. -/
theorem State.reg_oofIrq_other {l a : Nat} (h : a ≠ lnA l 0x10) : (s.oofIrq l).reg a = s.reg a := by
  unfold State.oofIrq
  dsimp only
  split
  · simp
  · rw [State.irq_reg_other _ (by rwa [lnA_zero_add]), State.reg_noteTen]

/-- A lane whose framer went to HUNT (R44). -/
def Lane.hunted (n : Lane) (faws : Bool) : Lane :=
  { n with framer := .hunt, good := 0, err := 0, rawOof := true, oofSeen := true, inAll := false, fawSync := n.fawSync && !faws,
           ttiCur := [], ttiPrev := [], evt := if n.rawOof then n.evt else n.evt + 1, bmyPart := none, mgmtPart := none }

/-- A lane whose framer went to SYNC (R44). -/
def Lane.synced (n : Lane) : Lane :=
  { n with framer := .sync, good := 0, err := 0, rawOof := false, outAll := false, fawSync := true }

theorem State.lane_toHunt_same (l : Nat) (faws openMsg : Bool) : (s.toHunt l faws openMsg).lane l = (s.lane l).hunted faws := by
  unfold State.toHunt
  dsimp only
  split <;> split <;> simp [Lane.hunted, *]

theorem State.lane_toHunt_other {l j : Nat} (faws openMsg : Bool) (h : j ≠ l) : (s.toHunt l faws openMsg).lane j = s.lane j := by
  unfold State.toHunt
  dsimp only
  split <;> split <;> simp [State.lane_modLane_other _ _ h]

theorem State.reg_toHunt_other {l a : Nat} (faws openMsg : Bool) (h : a ≠ lnA l 0x10) : (s.toHunt l faws openMsg).reg a = s.reg a := by
  unfold State.toHunt
  dsimp only
  split <;> split <;> simp [State.reg_oofIrq_other _ h]

theorem State.lane_toSync_same (l : Nat) (bolt : Word) : (s.toSync l bolt).lane l = (s.lane l).synced := by
  unfold State.toSync
  dsimp only
  split
  · rw [State.lane_oofIrq, State.lane_setReg, State.lane_modLane_same]
    rfl
  · rw [State.lane_setReg, State.lane_modLane_same]
    rfl

theorem State.lane_toSync_other {l j : Nat} (bolt : Word) (h : j ≠ l) : (s.toSync l bolt).lane j = s.lane j := by
  unfold State.toSync
  dsimp only
  split
  · rw [State.lane_oofIrq, State.lane_setReg, State.lane_modLane_other _ _ h]
  · rw [State.lane_setReg, State.lane_modLane_other _ _ h]

/-- SYNC latches BOLT (R44). -/
theorem State.reg_toSync_bolt (l : Nat) (bolt : Word) : (s.toSync l bolt).reg (lnA l 0x58) = bolt := by
  have hne : lnA l 0x58 ≠ lnA l 0x10 := lnA_ne (by decide)
  unfold State.toSync
  dsimp only
  split <;> simp [State.reg_oofIrq_other _ hne]

/-! ### Where the framer's transitions are due (R44) -/

theorem State.syncDue_iff (l : Nat) : s.syncDue l = true ↔ (s.lane l).framer = .presync ∧ s.clrCnt l 2 ≤ (s.lane l).good := by
  simp [State.syncDue]

theorem State.lossDue_iff (l : Nat) : s.lossDue l = true ↔ (s.lane l).framer = .sync ∧ s.setCnt l 2 ≤ (s.lane l).err := by
  simp [State.lossDue]

theorem State.framerDue_none {l : Nat} (bolt : Word) (hl : s.lossDue l = false) (hs : s.syncDue l = false) :
    s.framerDue l bolt = s := by
  simp [State.framerDue, hl, hs]

/-! ### What acts on an awake lane, and on its line -/

variable {s} {l : Nat}

theorem State.onLane_awake (f : State → State) (h : s.awake (l / 64) = true) : s.onLane l f = f s := if_pos h

theorem State.onLine_open (f : State → State) (h : s.awake (l / 64) = true) (hl : s.ownStream l = false) : s.onLine l f = f s := by
  simp [State.onLine, h, hl]

/-- In terminal loopback the line brings nothing (R58). -/
theorem State.onLine_loop (f : State → State) (hl : s.ownStream l = true) : s.onLine l f = s := by
  simp [State.onLine, hl]

@[simp] theorem State.ownStream_modLane (k j : Nat) (f : Lane → Lane) : (s.modLane k f).ownStream j = s.ownStream j := rfl
@[simp] theorem State.awake_modLane (k p : Nat) (f : Lane → Lane) : (s.modLane k f).awake p = s.awake p := rfl

/-- Where the change has no further effect, the lane's signal alone changes. -/
theorem State.lineState_id (f : Lane → Lane) (h : s.awake (l / 64) = true) : s.lineState l f id = s.modLane l f := by
  rw [State.lineState, State.onLane_awake _ h]
  exact ite_self _

theorem State.lineState_loop (f : Lane → Lane) (more : State → State) (h : s.awake (l / 64) = true) (hl : s.ownStream l = true) :
    s.lineState l f more = s.modLane l f := by
  rw [State.lineState, State.onLane_awake _ h, State.onLine_loop _ (by simpa using hl)]

/-- A loss on the line outside terminal loopback: the lane records it and its framer goes to HUNT; nothing else but its IRQ_RAW changes. -/
theorem State.lineState_lost (f g : Lane → Lane) (o : Bool) (h : s.awake (l / 64) = true) (hl : s.ownStream l = false) :
    let t := s.lineState l f (fun s => (s.modLane l g).toHunt l false o)
    t.lane l = (g (f (s.lane l))).hunted false ∧ (∀ j, j ≠ l → t.lane j = s.lane j) ∧ ∀ a, a ≠ lnA l 0x10 → t.reg a = s.reg a := by
  rw [State.lineState, State.onLane_awake _ h, State.onLine_open _ (by simpa using h) (by simpa using hl)]
  refine ⟨?_, fun j hj => ?_, fun a ha => ?_⟩
  · simp [State.lane_toHunt_same]
  · rw [State.lane_toHunt_other _ _ _ hj, State.lane_modLane_other _ _ hj, State.lane_modLane_other _ _ hj]
  · simp [State.reg_toHunt_other _ _ _ ha]

end

/-! ### The commands of the line and of the framer -/

section
variable {s : State} {l : Fin 512} {w : BitVec 64} {b : Word} {o : Bool}

/-- An exact FAW in HUNT is taken where the lane has codeword lock and expects framing (R44, R462). -/
theorem exec_fawHuntMatch_faw (ha : s.awake (l.val / 64) = true) (hl : s.ownStream l.val = false) (hf : (s.lane l.val).framer = .hunt)
    (hc : (s.lane l.val).cw = true) (hb : s.blind l.val = false) :
    exec (.fawHuntMatch l faw b) s = .next (s.fawMatch l.val b) := by
  refine congrArg Host.Outcome.next ((State.onLine_open _ ha hl).trans ?_)
  exact if_pos ⟨hf, rfl, hc, by simp [hb]⟩

/-- Any other word in HUNT is nothing. -/
theorem exec_fawHuntMatch_other (hw : w ≠ faw) : exec (.fawHuntMatch l w b) s = .next s := by
  refine congrArg Host.Outcome.next ?_
  unfold State.onLine
  split
  · exact if_neg fun h => hw h.2.1
  · rfl

theorem exec_fawHuntMatch_loop (hl : s.ownStream l.val = true) : exec (.fawHuntMatch l w b) s = .next s :=
  congrArg Host.Outcome.next (State.onLine_loop _ hl)

theorem exec_fawExpected_loop (hl : s.ownStream l.val = true) : exec (.fawExpected l w) s = .next s :=
  congrArg Host.Outcome.next (State.onLine_loop _ hl)

/-- With no transition of the framer due, an expected FAW is counted as good or errored. -/
theorem exec_fawExpected_counted (ha : s.awake (l.val / 64) = true) (hl : s.ownStream l.val = false) (hd : s.lossDue l.val = false)
    (hs : s.syncDue l.val = false) :
    exec (.fawExpected l w) s = .next (s.fawSeen l.val (fawGood w && !s.blind l.val)) := by
  refine congrArg Host.Outcome.next ((State.onLine_open _ ha hl).trans ?_)
  rw [State.framerDue_none _ _ hd hs]

theorem exec_framerSync_due (ha : s.awake (l.val / 64) = true) (hd : s.syncDue l.val = true) :
    exec (.framerSync l b) s = .next (s.toSync l.val b) :=
  congrArg Host.Outcome.next ((State.onLane_awake _ ha).trans (if_pos hd))

theorem exec_framerOutOfSync_due (ha : s.awake (l.val / 64) = true) (hd : s.lossDue l.val = true) :
    exec (.framerOutOfSync l o) s = .next (s.toHunt l.val true o) :=
  congrArg Host.Outcome.next ((State.onLane_awake _ ha).trans (if_pos hd))

end

/-- Settles O7, command by command: what the line brings back, what it loses, the FAWs, then the framer's own transitions. -/
theorem laneSignalsAndFramer : Obligations.LaneSignalsAndFramer := by
  intro s l w b o ha k
  have lost := fun (f g : Lane → Lane) (hl : s.ownStream k = false) => State.lineState_lost f g o ha hl
  have loop := fun (f : Lane → Lane) (more : State → State) (hl : s.ownStream k = true) => State.lineState_loop f more ha hl
  refine ⟨congrArg _ (State.lineState_id _ ha), congrArg _ (State.lineState_id _ ha), congrArg _ (State.lineState_id _ ha),
    fun hl => ?sigLost, fun hl => ?clkLost, fun hl => ?cwLost, fun hl => ?loopback, fun hl hf hc hb hg => ?hunt,
    fun hl hf hc hb hg => ?huntOne, fun _ hw => exec_fawHuntMatch_other hw, fun hl hf hd => ?inSync, fun hl hf hd => ?inPresync,
    fun hf hg => ?toSync, fun hf he => ?toHunt⟩
  case sigLost | clkLost | cwLost =>
    refine ⟨_, rfl, ?_⟩
    rw [(lost _ _ hl).1]
    exact ⟨rfl, rfl, rfl, rfl, (lost _ _ hl).2⟩
  case loopback =>
    exact ⟨congrArg _ (loop _ _ hl), congrArg _ (loop _ _ hl), congrArg _ (loop _ _ hl), exec_fawHuntMatch_loop hl,
      exec_fawExpected_loop hl⟩
  case hunt => rw [exec_fawHuntMatch_faw ha hl hf hc hb, State.fawMatch, if_neg hg]
  case huntOne =>
    refine ⟨s.toSync k b, ?_, ?_⟩
    · rw [exec_fawHuntMatch_faw ha hl hf hc hb, State.fawMatch, if_pos hg]
    · rw [State.lane_toSync_same]
      exact ⟨rfl, rfl, s.reg_toSync_bolt k b⟩
  case inSync =>
    have hs : s.syncDue k = false := by simp [State.syncDue, hf]
    rw [exec_fawExpected_counted ha hl hd hs, State.fawSeen, hf]
  case inPresync =>
    have hs : s.lossDue k = false := by simp [State.lossDue, hf]
    rw [exec_fawExpected_counted ha hl hs hd, State.fawSeen, hf]
  case toSync =>
    refine ⟨s.toSync k b, exec_framerSync_due ha ((s.syncDue_iff k).mpr ⟨hf, hg⟩), ?_⟩
    rw [State.lane_toSync_same]
    exact ⟨rfl, rfl, s.reg_toSync_bolt k b, fun j => s.lane_toSync_other b⟩
  case toHunt =>
    refine ⟨s.toHunt k true o, exec_framerOutOfSync_due ha ((s.lossDue_iff k).mpr ⟨hf, he⟩), ?_⟩
    rw [State.lane_toHunt_same]
    exact ⟨rfl, rfl, fun j => s.lane_toHunt_other true o, fun a => s.reg_toHunt_other true o⟩

end Sys2Proof.Machine

/-! SUPPORT. The alignment buffer, the writable registers of a lane and the die-to-die link: what their operations read back and leave
alone (R20, R54, R56, R58, R60, R61, R63, R198, R374). -/
namespace Sys2Proof.Machine

/-! ### The delay of the alignment buffer (R53, R54) -/

theorem centreD_lt (arr dly : Nat) : centreD arr dly < 625 := Nat.mod_lt _ (by decide)

/-- The whole rounds before their reduction modulo 625: the least number of them that puts the fill at 432 or more. -/
def centreRounds (arr dly : Nat) : Nat := (432 * 100384 + 100000 * arr + dly * 100384 + 160 * 100384 - 1) / (160 * 100384)

theorem centreD_eq (arr dly : Nat) : centreD arr dly = centreRounds arr dly % 625 := rfl

theorem centreRounds_bounds (arr dly : Nat) :
    432 * 100384 + 100000 * arr + dly * 100384 ≤ 160 * centreRounds arr dly * 100384 ∧
    160 * centreRounds arr dly * 100384 < 592 * 100384 + 100000 * arr + dly * 100384 := by
  unfold centreRounds
  omega

/-- The delay of R54 puts the fill within one round of 512: what the reduction modulo 625 takes off is a whole bolt of payload. -/
theorem fillAt_centreD {arr dly : Nat} (ha : arr < 100384) (hd : dly < 2048) :
    432 ≤ fillAt arr (centreD arr dly) dly ∧ fillAt arr (centreD arr dly) dly ≤ 591 := by
  obtain ⟨hlo, hhi⟩ := centreRounds_bounds arr dly
  rw [centreD_eq]
  generalize centreRounds arr dly = r at hlo hhi
  obtain ⟨q, hq, hr⟩ : ∃ q, q < 2 ∧ r = r % 625 + 625 * q := ⟨r / 625, by omega, by omega⟩
  generalize r % 625 = d at hr
  obtain ⟨v, hv⟩ : ∃ v, v = (160 * d * 100384 + 2 * 100000 * 100384 - 100000 * arr - dly * 100384) / 100384 := ⟨_, rfl⟩
  have hv1 : 432 + (2 - q) * 100000 ≤ v := by omega
  have hv2 : v ≤ 591 + (2 - q) * 100000 := by omega
  have hmod : 432 ≤ v % 100000 ∧ v % 100000 ≤ 591 := by omega
  unfold fillAt
  dsimp only
  rw [← hv, if_neg (by omega)]
  omega

section
variable (s : State)

/-! ### Recentring (R54, R56) -/

theorem State.reg_incReg_same (a k : Nat) : (s.incReg a k).reg a = s.reg a + w32 k := s.reg_setReg_same a _

theorem State.reg_incReg_other {a b : Nat} (k : Nat) (h : b ≠ a) : (s.incReg a k).reg b = s.reg b := s.reg_setReg_other _ h

@[simp] theorem State.lane_incReg (a k j : Nat) : (s.incReg a k).lane j = s.lane j := rfl

/-- A lane that has recentred. -/
def Lane.recentred (n : Lane) : Lane :=
  let d := centreD n.arr n.dly
  { n with fill := fillAt n.arr d n.dly, off := d, jump := jumpOf n.off d, aisRounds := (jumpOf n.off d).toNat, recIn := true,
           recDue := false, lostIn := false, evt := n.evt + 1 }

theorem State.lane_recentre_same (l : Nat) : (s.recentre l).lane l = (s.lane l).recentred := by
  rw [State.recentre, State.lane_incReg, State.lane_modLane_same]
  rfl

theorem State.lane_recentre_other {l j : Nat} (h : j ≠ l) : (s.recentre l).lane j = s.lane j := by
  rw [State.recentre, State.lane_incReg, State.lane_modLane_other _ _ h]

theorem State.reg_recentre_same (l : Nat) : (s.recentre l).reg (lnA l 0x6C) = s.reg (lnA l 0x6C) + 1 := State.reg_incReg_same _ _ _

theorem State.reg_recentre_other {l a : Nat} (h : a ≠ lnA l 0x6C) : (s.recentre l).reg a = s.reg a := State.reg_incReg_other _ _ h

/-! ### LN_MODE and LN_INTG (R61, R63) -/

theorem State.reg_putMasked_same (a : Nat) (v : Word) : (s.putMasked a v).reg a = v &&& w32 (writeMask a) := s.reg_setReg_same a _

theorem State.reg_putMasked_other {a b : Nat} (v : Word) (h : b ≠ a) : (s.putMasked a v).reg b = s.reg b := s.reg_setReg_other _ h

@[simp] theorem State.lane_putMasked (a : Nat) (v : Word) (j : Nat) : (s.putMasked a v).lane j = s.lane j := rfl

/-- What the end of terminal loopback leaves alone: the other lanes, a framer in HUNT, every register but the lane's IRQ_RAW. -/
theorem State.lineBack_frame (l : Nat) :
    (∀ j, j ≠ l → (s.lineBack l).lane j = s.lane j) ∧ (∀ a, a ≠ lnA l 0x10 → (s.lineBack l).reg a = s.reg a) ∧
    ((s.lane l).framer = .hunt → ((s.lineBack l).lane l).framer = .hunt) := by
  unfold State.lineBack
  dsimp only
  split
  · exact ⟨fun _ _ => rfl, fun _ _ => rfl, id⟩
  split
  · exact ⟨fun j hj => s.lane_modLane_other _ hj, fun _ _ => rfl, fun h => by rwa [State.lane_modLane_same]⟩
  · refine ⟨fun j hj => ?_, fun a ha => ?_, fun h => absurd h ‹_›⟩
    · rw [State.lane_toHunt_other _ _ _ hj, State.lane_modLane_other _ _ hj]
    · rw [State.reg_toHunt_other _ _ _ ha, State.reg_modLane]

theorem State.onLane_lineBack_frame (l : Nat) :
    let t := s.onLane l (·.lineBack l)
    (∀ j, j ≠ l → t.lane j = s.lane j) ∧ (∀ a, a ≠ lnA l 0x10 → t.reg a = s.reg a) ∧
    ((s.lane l).framer = .hunt → (t.lane l).framer = .hunt) := by
  unfold State.onLane
  split
  · exact s.lineBack_frame l
  · exact ⟨fun _ _ => rfl, fun _ _ => rfl, id⟩

/-- A write of LN_MODE stores its writable bits, perhaps leaves the transmitter's parity and pattern unknown, and lets the line act again where
terminal loopback ends. -/
theorem State.modeWrite_cases (l : Nat) (v : Word) :
    ∃ u, (u = s.putMasked (lnA l 0x40) v ∨ u = (s.putMasked (lnA l 0x40) v).modLane l (fun n => { n with bipTx := none, txPat := none })) ∧
      s.modeWrite l v = u.onLane l (·.lineBack l) := by
  refine ⟨_, ?_, rfl⟩
  split
  · exact .inl rfl
  · exact .inr rfl

theorem State.modeWrite_frame (l : Nat) (v : Word) :
    (s.modeWrite l v).reg (lnA l 0x40) = v &&& w32 (writeMask (lnA l 0x40)) ∧
    (∀ a, a ≠ lnA l 0x40 → a ≠ lnA l 0x10 → (s.modeWrite l v).reg a = s.reg a) ∧
    (∀ j, j ≠ l → (s.modeWrite l v).lane j = s.lane j) ∧
    ((s.lane l).framer = .hunt → ((s.modeWrite l v).lane l).framer = .hunt) := by
  obtain ⟨u, hu, hw⟩ := s.modeWrite_cases l v
  obtain ⟨hregs, hlanes, hframer⟩ : (∀ a, u.reg a = (s.putMasked (lnA l 0x40) v).reg a) ∧ (∀ j, j ≠ l → u.lane j = s.lane j) ∧
      (u.lane l).framer = (s.lane l).framer := by
    rcases hu with rfl | rfl
    · exact ⟨fun _ => rfl, fun j _ => s.lane_putMasked _ _ j, congrArg _ (s.lane_putMasked _ _ l)⟩
    · refine ⟨fun a => State.reg_modLane _ l _ a, fun j hj => ?_, ?_⟩
      · rw [State.lane_modLane_other _ _ hj, State.lane_putMasked]
      · rw [State.lane_modLane_same, State.lane_putMasked]
  obtain ⟨hother, hreg, hhunt⟩ := u.onLane_lineBack_frame l
  rw [hw]
  refine ⟨?_, fun a h40 h10 => ?_, fun j hj => (hother j hj).trans (hlanes j hj), fun h => hhunt (hframer.trans h)⟩
  · rw [hreg _ (lnA_ne (by decide)), hregs, State.reg_putMasked_same]
  · rw [hreg a h10, hregs, State.reg_putMasked_other _ _ h40]

/-- The word in force: the first one kept for the defect, or else the register. -/
theorem State.intgWord_eq (l d : Nat) : s.intgWord l d =
    (((s.lane l).intgOld.find? (fun e => decide (e.1 = d))).map (·.2)).getD (s.reg (lnA l (0x80 + 4 * d))) := by
  unfold State.intgWord
  cases (s.lane l).intgOld.find? (fun e => decide (e.1 = d)) <;> rfl

theorem State.lane_intgWrite_other {l j : Nat} (d : Nat) (v : Word) (h : j ≠ l) : (s.intgWrite l d v).lane j = s.lane j :=
  (State.lane_putMasked _ _ _ _).trans (s.lane_modLane_other _ h)

theorem State.reg_intgWrite_same (l d : Nat) (v : Word) :
    (s.intgWrite l d v).reg (lnA l (0x80 + 4 * d)) = v &&& w32 (writeMask (lnA l (0x80 + 4 * d))) := State.reg_putMasked_same _ _ _

theorem State.reg_intgWrite_other {l d a : Nat} (v : Word) (h : a ≠ lnA l (0x80 + 4 * d)) : (s.intgWrite l d v).reg a = s.reg a :=
  State.reg_putMasked_other _ _ h

theorem State.intgOld_intgWrite (l d : Nat) (v : Word) : ((s.intgWrite l d v).lane l).intgOld =
    if (s.lane l).intgOld.any (fun e => decide (e.1 = d)) then (s.lane l).intgOld else (s.lane l).intgOld ++ [(d, s.intgWord l d)] := by
  rw [State.intgWrite, State.lane_putMasked, State.lane_modLane_same]

/-- A write of LN_INTG leaves the word of before in force: one kept already stays the first one, and otherwise the word is kept (R63). -/
theorem State.intgWord_intgWrite (l d : Nat) (v : Word) : (s.intgWrite l d v).intgWord l d = s.intgWord l d := by
  rw [State.intgWord_eq, State.intgOld_intgWrite]
  split
  case isTrue h =>
    obtain ⟨e, he⟩ : ∃ e, (s.lane l).intgOld.find? (fun e => decide (e.1 = d)) = some e :=
      Option.isSome_iff_exists.mp (by rwa [List.find?_isSome, ← List.any_eq_true])
    rw [State.intgWord_eq, he, Option.map_some, Option.getD_some, Option.getD_some]
  case isFalse h =>
    have hnone : (s.lane l).intgOld.find? (fun e => decide (e.1 = d)) = none :=
      List.find?_eq_none.mpr fun e he hd => h (List.any_eq_true.mpr ⟨e, he, hd⟩)
    simp [List.find?_append, hnone]

end

/-! ### Reads that clear (R6) -/

theorem exec_lnPatErrCntRead_readable {s : State} {m : Mid} {l : Fin 512} (h : readable s m (lnA l.val 0x74)) :
    exec (.lnPatErrCntRead m l) s = .next ((s.setReg (lnA l.val 0x74) 0).answer ((s.reg (lnA l.val 0x74)).setWidth 64)) :=
  congrArg Host.Outcome.next (s.access_go h)

/-! ### The die-to-die link (R20, R198, R374) -/

section
variable (s : State)

theorem State.noteDom_only : only [.regs, .pcie, .pwr, .out] s s.noteDom := State.noteDom_inv (only_closed _ _) (only_refl _ _)

/-- A port whose link was lost at the present bolt. -/
def PortSt.cut (q : PortSt) (bolt : Word) : PortSt := { q with linkUp := false, downDecl := false, lostAt := bolt, lostIn := true }

/-- Losing a link takes the port's link down; what the accesses outstanding to its tile are told changes no port and no lane. -/
theorem State.linkLost_only (p : Nat) (o : List (Mid × BitVec 26 × Bool)) :
    only [.regs, .pcie, .pwr, .jtag, .tst, .out, .resp] (s.modPort p (·.cut s.bolt)) (s.linkLost p o) := by
  have hc := only_closed [.regs, .pcie, .pwr, .jtag, .tst, .out, .resp] (s.modPort p (·.cut s.bolt))
  have told := seqAll_inv (fun (e : Mid × BitVec 26 × Bool) s => s.decAns e.1 e.2.1.toNat e.2.2 .link)
    (o.filter (fun e => decide (targetOf e.2.1.toNat = some (.regp p)))) (only_refl _ _)
    (fun e _ h => State.decAns_inv e.1 e.2.1.toNat e.2.2 .link (sub_inv (by decide) hc) h)
  have waits := State.endWaits_inv p .link (sub_inv (by decide) hc) told
  have dbg := State.dbgLink_inv p (sub_inv (by decide) hc) waits
  exact State.noteDom_inv (sub_inv (by decide) hc)
    (State.when_inv _ _ dbg (fun _ h => State.irq_inv _ _ (sub_inv (by decide) hc) h))

theorem State.trailEval_only (k : Nat) (r : SkRx) (why origin seq trail : Nat) :
    only [.regs, .integ, .tly] s (s.trailEval k r why origin seq trail) :=
  State.trailEval_inv k r why origin seq trail (only_closed _ _) (only_refl _ _)

@[simp] theorem State.trailEval_skrx (k : Nat) (r : SkRx) (why origin seq trail : Nat) :
    (s.trailEval k r why origin seq trail).skrx = s.skrx := s.trailEval_only k r why origin seq trail .skrx (by decide)

@[simp] theorem State.rx_trailEval (k : Nat) (r : SkRx) (why origin seq trail j : Nat) :
    (s.trailEval k r why origin seq trail).rx j = s.rx j := by simp [State.rx]

theorem State.rx_trailGiveUp_other {k j : Nat} (h : j ≠ k) : (s.trailGiveUp k).rx j = s.rx j := by
  unfold State.trailGiveUp
  split
  · rfl
  · dsimp only
    rw [State.rx_modRx_other _ _ h, State.rx_trailEval]

theorem State.rx_voidTrail_other {k j : Nat} (h : j ≠ k) : (s.voidTrail k).rx j = s.rx j := by
  rw [State.voidTrail, State.rx_modRx_other _ _ h, s.rx_trailGiveUp_other h]

theorem State.rx_voidTrail_same (k : Nat) : (s.voidTrail k).rx k = ((s.trailGiveUp k).rx k).void := by
  rw [State.voidTrail, State.rx_modRx_same]

/-- The trail check holds nothing of a skein: no C, no picks folded, no comparison that waits (R198). -/
def SkRx.Cleared (r : SkRx) : Prop := r.held = none ∧ r.cnt = 0 ∧ r.wait = none

theorem SkRx.cleared_void (r : SkRx) : r.void.Cleared := ⟨rfl, rfl, rfl⟩

theorem smGet_of_not_listed {α : Type} (d : α) {m : SMap α} {a : Nat} (h : ∀ e ∈ m, e.1 ≠ a) : smGet d m a = d := by
  induction m with
  | nil => rfl
  | cons e t ih =>
    obtain ⟨k, x⟩ := e
    rw [List.forall_mem_cons] at h
    rw [smGet, if_neg h.1, ih h.2]

/-- The skeins listed in `m` that are of port `p` are voided. -/
def State.voidListed (s : State) (p : Nat) (m : SMap SkRx) : State :=
  seqAll (fun (e : Nat × SkRx) s => s.when (decide (portOf e.1 = p)) (·.voidTrail e.1)) m s

theorem State.voidTrails_eq (p : Nat) : s.voidTrails p = s.voidListed p s.skrx := rfl

theorem State.voidListed_cons (p : Nat) (e : Nat × SkRx) (m : SMap SkRx) :
    s.voidListed p (e :: m) = (if portOf e.1 = p then s.voidTrail e.1 else s).voidListed p m := by
  by_cases h : portOf e.1 = p <;> simp [State.voidListed, seqAll, h]

theorem State.rx_voidListed_other {p j : Nat} (m : SMap SkRx) (h : portOf j ≠ p) : (s.voidListed p m).rx j = s.rx j := by
  induction m generalizing s with
  | nil => rfl
  | cons e m ih =>
    rw [State.voidListed_cons, ih]
    split
    case isTrue he => exact s.rx_voidTrail_other fun hj => h (hj ▸ he)
    case isFalse => rfl

theorem State.cleared_voidListed {p j : Nat} (m : SMap SkRx) (hp : portOf j = p) (h : (s.rx j).Cleared ∨ ∃ e ∈ m, e.1 = j) :
    ((s.voidListed p m).rx j).Cleared := by
  induction m generalizing s with
  | nil => simpa [State.voidListed, seqAll] using h
  | cons e m ih =>
    rw [State.voidListed_cons]
    apply ih
    by_cases hj : e.1 = j
    · rw [if_pos (hj ▸ hp), hj, State.rx_voidTrail_same]
      exact .inl (SkRx.cleared_void _)
    · have hrx : (if portOf e.1 = p then s.voidTrail e.1 else s).rx j = s.rx j := by
        split
        · exact s.rx_voidTrail_other (Ne.symm hj)
        · rfl
      rw [hrx]
      simpa [hj] using h

/-- Every skein of the port is cleared: one that is not listed holds nothing. -/
theorem State.cleared_voidTrails {p j : Nat} (hp : portOf j = p) : ((s.voidTrails p).rx j).Cleared := by
  refine s.cleared_voidListed s.skrx hp ?_
  by_cases h : ∃ e ∈ s.skrx, e.1 = j
  · exact .inr h
  · refine .inl ?_
    have hrx : s.rx j = {} := smGet_of_not_listed _ fun e he hj => h ⟨e, he, hj⟩
    rw [hrx]
    exact ⟨rfl, rfl, rfl⟩

/-- A link regained changes its port and voids what the trail check held of its skeins; what follows changes no port, lane or skein. -/
theorem State.regained_only (p : Nat) (f : PortSt → PortSt) :
    only [.regs, .integ, .skrx, .tly, .pcie, .pwr, .out] (s.modPort p f) ((s.modPort p f).voidTrails p).noteDom := by
  have hc := only_closed [.regs, .integ, .skrx, .tly, .pcie, .pwr, .out] (s.modPort p f)
  exact State.noteDom_inv (sub_inv (by decide) hc) (State.voidTrails_inv p (sub_inv (by decide) hc) (only_refl _ _))

@[simp] theorem State.noteDom_skrx : s.noteDom.skrx = s.skrx := s.noteDom_only .skrx (by decide)

@[simp] theorem State.rx_noteDom (j : Nat) : s.noteDom.rx j = s.rx j := by simp [State.rx]

end

/-! ### The commands of the alignment buffer, the lane's registers and the link -/

@[simp] theorem State.intgWord_answer (s : State) (d : BitVec 64) (st : Status) (l i : Nat) :
    (s.answer d st).intgWord l i = s.intgWord l i := rfl

section
variable {s : State} {m : Mid} {l : Fin 512} {p : Fin 8}

theorem exec_recentre_due {f : Nat} {x : Fin 625} (ha : s.awake (l.val / 64) = true) (hd : (s.lane l.val).recDue = true)
    (hx : x.val = centreD (s.lane l.val).arr (s.lane l.val).dly) (hf : f = fillAt (s.lane l.val).arr x.val (s.lane l.val).dly) :
    exec (.recentre l f x) s = .next (s.recentre l.val) := by
  refine congrArg Host.Outcome.next ((State.onLane_awake _ ha).trans ?_)
  exact if_pos (by simp [hd, hx, hf])

/-- A recentre that is not due, or is told with other values than those of R54, is none. -/
theorem exec_recentre_other {f : Nat} {x : Fin 625} (h : (s.lane l.val).recDue = false ∨
      x.val ≠ centreD (s.lane l.val).arr (s.lane l.val).dly ∨ f ≠ fillAt (s.lane l.val).arr x.val (s.lane l.val).dly) :
    exec (.recentre l f x) s = .next s := by
  refine congrArg Host.Outcome.next ?_
  unfold State.onLane
  split
  · refine if_neg fun hc => ?_
    simp only [Bool.and_eq_true, decide_eq_true_eq] at hc
    obtain ⟨hd, hx, hf⟩ := hc
    rcases h with h | h | h
    · exact absurd hd (by simp [h])
    · exact h hx
    · exact h hf
  · rfl

theorem exec_recentreCommand_reaches (h : reaches s m (lnA l.val 0x50)) :
    exec (.recentreCommand m l) s = .next ((s.modLane l.val (fun n => { n with recCmd := true })).answer 0) :=
  congrArg Host.Outcome.next (s.write4_reaches h)

theorem exec_lnModeWrite_reaches {v : Word} (h : reaches s m (lnA l.val 0x40)) :
    exec (.lnModeWrite m l v) s = .next ((s.modeWrite l.val v).answer 0) :=
  congrArg Host.Outcome.next (s.write4_reaches h)

theorem exec_lnIntgWrite_reaches {d : Fin 15} {v : Word} (h : reaches s m (lnA l.val (0x80 + 4 * d.val))) :
    exec (.lnIntgWrite m l d v) s = .next ((s.intgWrite l.val d.val v).answer 0) :=
  congrArg Host.Outcome.next (s.write4_reaches h)

theorem exec_d2dLinkLost_reach {o : List (Mid × BitVec 26 × Bool)} (h : s.reach p.val = true) :
    exec (.d2dLinkLost p o) s = .next (s.linkLost p.val o) :=
  congrArg Host.Outcome.next (if_pos h)

theorem exec_linkDownDeclared_down (ha : s.awake p.val = true) (hl : (s.port p.val).linkUp = false) :
    exec (.linkDownDeclared p) s = .next (s.modPort p.val (fun q => { q with downDecl := true })) :=
  congrArg Host.Outcome.next (if_pos ⟨ha, by simp [hl]⟩)

theorem exec_d2dLinkRegained_down (ha : s.awake p.val = true) (hl : (s.port p.val).linkUp = false) (hw : (s.port p.val).waking = false) :
    exec (.d2dLinkRegained p) s =
      .next ((s.modPort p.val (fun q => { q with linkUp := true, downDecl := false })).voidTrails p.val).noteDom :=
  congrArg Host.Outcome.next (if_pos ⟨ha, by simp [hl], by simp [hw]⟩)

end

/-- Two states that agree on the ports of `s` with one changed. -/
theorem State.port_of_ports_modPort {s t : State} {p : Nat} {f : PortSt → PortSt} (h : t.ports = (s.modPort p f).ports) :
    t.port p = f (s.port p) ∧ ∀ j, j ≠ p → t.port j = s.port j := by
  have hp : ∀ j, t.port j = (s.modPort p f).port j := fun j => by rw [State.port, State.port, h]
  exact ⟨(hp p).trans (s.port_modPort_same p f), fun j hj => (hp j).trans (s.port_modPort_other f hj)⟩

/-- Settles O10, command by command. -/
theorem alignmentAndLaneRegisters : Obligations.AlignmentAndLaneRegisters := by
  intro s m l
  refine ⟨fun ha hd f x hx hf => ?recentred, fun f x h => exec_recentre_other h, exec_recentreCommand_reaches, fun v h => ?mode,
    fun d v h => ?intg, exec_lnPatErrCntRead_readable, fun p o h => ?lost,
    fun p ha hl => ⟨exec_linkDownDeclared_down ha hl, fun hw => ?regained⟩⟩
  case recentred =>
    refine ⟨s.recentre l.val, exec_recentre_due ha hd hx (by rw [hx]; exact hf), ?_⟩
    rw [State.lane_recentre_same]
    exact ⟨rfl, rfl, fun harr hdly => ⟨centreD_lt _ _, fillAt_centreD harr hdly⟩, rfl, rfl, rfl, s.reg_recentre_same l.val,
      fun a => s.reg_recentre_other, fun j => s.lane_recentre_other⟩
  case mode =>
    obtain ⟨hword, hregs, hlanes, hhunt⟩ := s.modeWrite_frame l.val v
    exact ⟨_, exec_lnModeWrite_reaches h, (State.reg_answer _ _ _ _).trans hword, State.answer_resp _ _ _,
      fun a h40 h10 => (State.reg_answer _ _ _ a).trans (hregs a h40 h10), fun j hj => (State.lane_answer _ _ _ j).trans (hlanes j hj),
      fun hh => (congrArg Lane.framer (State.lane_answer _ _ _ _)).trans (hhunt hh)⟩
  case intg =>
    exact ⟨_, exec_lnIntgWrite_reaches h, (State.reg_answer _ _ _ _).trans (s.reg_intgWrite_same _ _ _),
      (State.intgWord_answer _ _ _ _ _).trans (s.intgWord_intgWrite _ _ _), State.answer_resp _ _ _,
      fun a ha => (State.reg_answer _ _ _ a).trans (s.reg_intgWrite_other v ha),
      fun j hj => (State.lane_answer _ _ _ j).trans (s.lane_intgWrite_other _ v hj)⟩
  case lost =>
    obtain ⟨hport, hports⟩ := State.port_of_ports_modPort (s.linkLost_only p.val o .ports (by decide))
    exact ⟨_, exec_d2dLinkLost_reach h, hport, hports, s.linkLost_only p.val o .lanes (by decide)⟩
  case regained =>
    have hsame := s.regained_only p.val (fun q => { q with linkUp := true, downDecl := false })
    obtain ⟨hport, hports⟩ := State.port_of_ports_modPort (hsame .ports (by decide))
    refine ⟨_, exec_d2dLinkRegained_down ha hl hw, hport, hports, hsame .lanes (by decide), fun k hk => ?_, fun k hk => ?_⟩
    · rw [State.rx_noteDom, State.voidTrails_eq, State.rx_voidListed_other _ _ hk, State.rx_modPort]
    · rw [State.rx_noteDom]
      exact State.cleared_voidTrails _ hk

end Sys2Proof.Machine

/-! SUPPORT. What the registers read at reset, where a page or table comes many times (R60, R209, R283), and the Skid buffers. -/
namespace Sys2Proof.Machine

/-! ### Where the pages that come many times lie (R403) -/

theorem locate_lnA {l o : Nat} (hl : l < 512) (ho : o < 0x1000) : locate (lnA l o) = some (.ln, l, o) := by
  have hp : (lnA l o - 0x400000) / 0x80000 = l / 64 := by unfold lnA; omega
  have hx : (lnA l o - 0x400000) % 0x80000 = 0x10000 + l % 64 * 0x1000 + o := by unfold lnA; omega
  have ha : 0x400000 ≤ lnA l o ∧ lnA l o < 0x800000 := by unfold lnA; omega
  have hm : lnA l o % 0x1000 = o := by unfold lnA; omega
  unfold locate
  dsimp only
  rw [if_neg (by omega), if_neg (by omega), if_pos ha.2, hp, hx, hm, if_neg (by omega), if_pos (by omega)]
  simp only [Option.some.injEq, Prod.mk.injEq, true_and, and_true]
  omega

theorem locate_blzU {u o : Nat} (hu : u < 72) (ho : o < 0x100) : locate (blzU u o) = some (.blzUnit, u, o) := by
  have ha : 0x81000 ≤ blzU u o ∧ blzU u o < 0x85800 := by unfold blzU; omega
  have hi : (blzU u o - 0x81000) / 0x100 = u := by unfold blzU; omega
  have hm : blzU u o % 0x100 = o := by unfold blzU; omega
  unfold locate
  dsimp only
  rw [if_neg (by omega), if_pos (by omega), if_neg (by omega), if_pos (by omega), hi, hm]

theorem locate_wvrA {w o : Nat} (hw : w < 64) (ho : o < 0x1000) : locate (wvrA w o) = some (.wvr, w, o) := by
  have hp : wvrA w o / 0x1000 = 0xC00 + w := by unfold wvrA; omega
  have hm : wvrA w o % 0x1000 = o := by unfold wvrA; omega
  have ha : 0xC00000 ≤ wvrA w o ∧ wvrA w o < 0xC40000 := by unfold wvrA; omega
  unfold locate
  dsimp only
  rw [if_neg (by omega), if_neg (by omega), if_neg (by omega), if_pos (by omega), hp, hm]
  repeat rw [if_neg (by omega)]
  rw [if_pos (by omega), Nat.add_sub_cancel_left]

/-- A register whose reset value does not differ from one copy of its page to the next has the value of its row. -/
theorem resetOf_of_regRow {a i o : Nat} {b : Blk} {r : RegRow} (ha : a < 0x8000000) (hl : locate a = some (b, i, o))
    (hr : regRow b i o = some r) (hg : b ≠ .gvec) (hb : b ≠ .bank) : resetOf a = BitVec.ofNat 32 r.reset := by
  unfold resetOf
  rw [if_neg (by omega), hl]
  dsimp only
  rw [hr]
  dsimp only
  split
  · exact absurd rfl hg
  · exact absurd rfl hb
  · rfl

/-! ### State.reset -/

theorem State.reg_reset_lnA {l o : Nat} {r : RegRow} (hl : l < 512) (ho : o < 0x1000) (hr : regRow .ln l o = some r) :
    State.reset.reg (lnA l o) = BitVec.ofNat 32 r.reset :=
  resetOf_of_regRow (by unfold lnA; omega) (locate_lnA hl ho) hr (by decide) (by decide)

theorem State.reg_reset_blzU {u o : Nat} {r : RegRow} (hu : u < 72) (ho : o < 0x100) (hr : regRow .blzUnit u o = some r) :
    State.reset.reg (blzU u o) = BitVec.ofNat 32 r.reset :=
  resetOf_of_regRow (by unfold blzU; omega) (locate_blzU hu ho) hr (by decide) (by decide)

theorem State.reg_reset_wvrA {w o : Nat} {r : RegRow} (hw : w < 64) (ho : o < 0x1000) (hr : regRow .wvr w o = some r) :
    State.reset.reg (wvrA w o) = BitVec.ofNat 32 r.reset :=
  resetOf_of_regRow (by unfold wvrA; omega) (locate_wvrA hw ho) hr (by decide) (by decide)

/-- No bank is marked BAD, so every Skid buffer is FREE. -/
theorem State.buf_reset (i : Nat) : State.reset.buf i = (.free, 0) := by
  have hw : State.reset.withdrawn i = false := by
    have hmask : ∀ a : Nat, a = bankA 0x74 ∨ a = bankA 0x78 → State.reset.reg a = 0 := by
      rintro a (rfl | rfl) <;> rfl
    unfold State.withdrawn State.bankBad State.rb
    rw [hmask _ (by split <;> simp)]
    exact Nat.zero_testBit _
  unfold State.buf
  rw [hw]
  rfl

/-- Settles O2: the pages that come many times by their rows, every other register named by evaluating the register map. -/
theorem stateAtReset : Obligations.StateAtReset := by
  unfold Obligations.StateAtReset
  refine ⟨rfl, rfl, rfl, rfl, rfl, fun _ => rfl,
    fun i hi => ⟨State.reg_reset_lnA (o := 0x40) hi (by decide) rfl, State.reg_reset_lnA (o := 0x54) hi (by decide) rfl⟩,
    rfl, rfl, rfl, rfl, rfl, rfl, fun u hu => ⟨State.reg_reset_blzU (o := 0) hu (by decide) rfl, rfl⟩,
    rfl, rfl, rfl, rfl, rfl, rfl, rfl, rfl, rfl, rfl,
    rfl, fun w hw => ⟨State.reg_reset_wvrA (o := 0x40) hw (by decide) rfl, rfl, rfl⟩,
    rfl, rfl, rfl, rfl, rfl, rfl, rfl, rfl, rfl, rfl,
    State.buf_reset, rfl, rfl, rfl, rfl, rfl, rfl, rfl, rfl, rfl, rfl, rfl, rfl, rfl, rfl⟩

end Sys2Proof.Machine

/-! SUPPORT. What the operations of a command engine leave: the engine but for PHASE and the latched CFG, and the Loom (R83-R95). -/
namespace Sys2Proof.Machine

/-! ### The engine after each operation -/

/-- The engine without the PHASE of its rings and the latched CFG: posting a completion changes no more of it than PHASE, and a command that
reaches the queue head no more than CFG. -/
def Engine.core (e : Engine) : Engine := { e with phH := true, phI := true, phA := true, cfg := none }

/-- What does not show PHASE or CFG is read off the core. -/
theorem Engine.field_of_core {α : Type} {t e : Engine} (f : Engine → α) (hf : ∀ e : Engine, f e.core = f e) (h : t.core = e) :
    f t = f e :=
  (hf t).symm.trans (congrArg f h)

/-- The engine whose queue has lost its head. -/
def Engine.popped (e : Engine) : Engine := { e with q := e.q.drop 1 }

/-- The engine whose completed fences are taken out (R85). -/
def Engine.fenced (e : Engine) : Engine := { e with fences := e.fences.filter (fun f => !decide (f.1 ≤ e.batchNo)) }

/-- The engine whose batch ended without a commit (R84, R91, R92). -/
def Engine.dropped (e : Engine) : Engine :=
  { e with st := if e.st = .waitProt then .waitProt else .idle, batch := [], count := 0, moves := 0, once := [], acks := [],
           need := [], armSent := false, tries := 0, batchNo := e.batchNo + 1, wrote := [] }

/-- The engine whose batch was closed in bolt `b` (R83). -/
def Engine.closed (e : Engine) (b : Word) (forced : Bool) (need : List Nat) : Engine :=
  { e with st := .armed, batch := if forced then forceLast e.batch else e.batch, armBolt := b, tries := 0,
           acks := [], armSent := false, need := need, waitAt := none }

/-- The engine with one more command counted in bolt `b` (R92). -/
def Engine.counted (e : Engine) (b : Word) : Engine := { e with count := e.count + 1, lastAdd := b }

/-- The engine whose batch took the command `c` (R92). -/
def Engine.joined (e : Engine) (c : QCmd) (d : Done) (moved : Nat) (once : List Nat) : Engine :=
  { e with st := .build, owner := if e.isOpen then e.owner else c.win, batch := e.batch ++ [{ d with split := e.splitNext }],
           moves := e.moves + moved, once := e.once ++ once, waitAt := none, splitNext := false }

/-- The engine whose head no longer waits. -/
def Engine.unwaited (e : Engine) : Engine :=
  { e with st := if e.st = .waitProt then e.base else e.st, waitAt := none, splitNext := false }

/-- The engine whose committed batch's completions are posted (R95). -/
def Engine.posted (e : Engine) : Engine := if e.post = [] then e else { e with post := [], batchNo := e.batchNo + 1 }

/-- The engine whose batch was committed in bolt `b` (R83). -/
def Engine.committed (e : Engine) (b : Word) : Engine :=
  { e with st := .sync, post := e.batch.map (fun d => { d with cbolt := b }), batch := [], count := 0, moves := 0,
           copied := false, once := [], wrote := [] }

theorem Engine.isOpen_dropped (e : Engine) : e.dropped.isOpen = false := by
  by_cases h : e.st = .waitProt <;> simp [Engine.dropped, Engine.isOpen, h]

@[simp] theorem length_forceLast (l : List Done) : (forceLast l).length = l.length := by
  induction l with
  | nil => rfl
  | cons d t ih =>
    cases t with
    | nil => rfl
    | cons => simpa [forceLast] using ih

@[simp] theorem Engine.length_batch_closed (e : Engine) (b : Word) (forced : Bool) (need : List Nat) :
    (e.closed b forced need).batch.length = e.batch.length := by
  cases forced <;> simp [Engine.closed]

section
variable (s : State) (fe : Bool)

/-! ### Registers, events and completions -/

theorem State.eng_treadle : s.eng false = s.trd := rfl
@[simp] theorem State.eng_modEng (f : Engine → Engine) : (s.modEng fe f).eng fe = f (s.eng fe) := by cases fe <;> rfl
@[simp] theorem State.eng_setReg (a : Nat) (v : Word) : (s.setReg a v).eng fe = s.eng fe := by cases fe <;> rfl
@[simp] theorem State.eng_irq (p b : Nat) : (s.irq p b).eng fe = s.eng fe := by cases fe <;> simp [State.eng]
@[simp] theorem State.eng_modTst (f : Test → Test) : (s.modTst f).eng fe = s.eng fe := by cases fe <;> rfl
@[simp] theorem State.loom_modEng (f : Engine → Engine) : (s.modEng fe f).loom = s.loom := by cases fe <;> rfl
@[simp] theorem State.reg_modEng (f : Engine → Engine) (a : Nat) : (s.modEng fe f).reg a = s.reg a := by cases fe <;> rfl

/-- A pass round a ring that ends inverts its PHASE alone. -/
@[simp] theorem Engine.core_flip (e : Engine) (r : Nat) : (e.flip r).core = e.core := by
  unfold Engine.flip
  split <;> rfl

/-- What changes neither engine's part of the state leaves the engine. -/
theorem State.eng_of_only {P : List Part} {s t : State} (fe : Bool) (h : only P s t) (ht : Part.trd ∉ P) (hf : Part.fine ∉ P) :
    t.eng fe = s.eng fe := by
  have htrd : t.trd = s.trd := h .trd ht
  have hfine : t.fine = s.fine := h .fine hf
  simp [State.eng, htrd, hfine]

@[simp] theorem State.eng_hostWrite (a : Nat) (bs : List Byte) : (s.hostWrite a bs).eng fe = s.eng fe :=
  State.eng_of_only fe (State.hostWrite_inv a bs (only_closed [.regs, .pcie, .out] s) (only_refl _ _)) (by decide) (by decide)

@[simp] theorem State.eng_agentWrite (m : Mid) (a : Nat) (bs : List Byte) (x : Bool) : (s.agentWrite m a bs x).eng fe = s.eng fe :=
  State.eng_of_only fe (State.agentWrite_inv m a bs x (only_closed [.regs, .bank, .bankMem, .pcie, .out] s) (only_refl _ _))
    (by decide) (by decide)

/-- Posting a completion changes no more of the engine than PHASE (R94, R95). -/
@[simp] theorem State.core_postDone (d : Done) : ((s.postDone fe d).eng fe).core = (s.eng fe).core := by
  unfold State.postDone
  dsimp only
  repeat' split
  all_goals simp

/-- Posting a completion leaves the Loom. -/
@[simp] theorem State.loom_postDone (d : Done) : (s.postDone fe d).loom = s.loom :=
  State.postDone_inv fe d (only_closed [.regs, .trd, .fine, .bank, .bankMem, .pcie, .tst, .out] s) (only_refl _ _) .loom (by decide)

/-- Posting a list of completions, whatever they are made from. -/
theorem State.seqAll_postDone {α : Type} (f : α → Done) (l : List α) :
    (seqAll (fun x s => s.postDone fe (f x)) l s).loom = s.loom ∧
      ((seqAll (fun x s => s.postDone fe (f x)) l s).eng fe).core = (s.eng fe).core := by
  induction l generalizing s with
  | nil => exact ⟨rfl, rfl⟩
  | cons x l ih =>
    obtain ⟨hloom, hcore⟩ := ih (s.postDone fe (f x))
    exact ⟨hloom.trans (s.loom_postDone fe _), hcore.trans (s.core_postDone fe _)⟩

/-! ### The queue head, fences, and the end of a batch -/

@[simp] theorem State.core_latchCfg : ((s.latchCfg fe).eng fe).core = (s.eng fe).core := by
  rw [State.latchCfg, State.eng_modEng]
  rfl

@[simp] theorem State.core_popQ : ((s.popQ fe).eng fe).core = (s.eng fe).core.popped := by
  unfold State.popQ State.when
  dsimp only
  split
  · rw [State.core_latchCfg, State.eng_modEng]
    rfl
  · rw [State.eng_modEng]
    rfl

@[simp] theorem State.loom_popQ : (s.popQ fe).loom = s.loom :=
  State.popQ_inv fe (only_closed [.trd, .fine] s) (only_refl _ _) .loom (by decide)

@[simp] theorem State.reg_popQ (a : Nat) : (s.popQ fe).reg a = s.reg a := by
  have h : (s.popQ fe).regs = s.regs := State.popQ_inv fe (only_closed [.trd, .fine] s) (only_refl _ _) .regs (by decide)
  rw [State.reg, State.reg, h]

@[simp] theorem State.core_postFences : ((s.postFences fe).eng fe).core = (s.eng fe).core.fenced := by
  refine (State.seqAll_postDone _ fe (fun f : Nat × Done => f.2) _).2.trans ?_
  rw [State.eng_modEng]
  rfl

@[simp] theorem State.loom_postFences : (s.postFences fe).loom = s.loom := by
  refine (State.seqAll_postDone _ fe (fun f : Nat × Done => f.2) _).1.trans ?_
  rw [State.loom_modEng]

@[simp] theorem State.core_dropBatch (status : Byte) : ((s.dropBatch fe status).eng fe).core = (s.eng fe).core.dropped := by
  refine (State.seqAll_postDone _ fe _ _).2.trans ?_
  rw [State.eng_modEng]
  cases fe <;> rfl

/-- The Treadle's batch that ends without a commit returns the standby page to the active one (R84). -/
@[simp] theorem State.loom_dropBatch_treadle (status : Byte) :
    (s.dropBatch false status).loom = { s.loom with stb := s.loom.act } := by
  refine (State.seqAll_postDone _ false _ _).1.trans ?_
  rw [State.loom_modEng]
  rfl

theorem State.abortOpen_open (h : (s.eng fe).isOpen = true) : s.abortOpen fe = s.dropBatch fe 0x1C := if_pos h

@[simp] theorem State.core_postBatch : ((s.postBatch fe).eng fe).core = (s.eng fe).core.posted := by
  by_cases h : (s.eng fe).post = []
  · have hkept : s.postBatch fe = s := if_pos h
    rw [hkept]
    exact (if_pos h).symm
  · have hsent : ((s.postBatch fe).eng fe).core = { (s.eng fe).core with post := [], batchNo := (s.eng fe).batchNo + 1 } := by
      rw [State.postBatch, if_neg h, (State.seqAll_postDone _ fe _ _).2, State.eng_modEng]
      rfl
    exact hsent.trans (if_neg h).symm

@[simp] theorem State.loom_postBatch : (s.postBatch fe).loom = s.loom :=
  State.postBatch_inv fe (only_closed [.regs, .trd, .fine, .bank, .bankMem, .pcie, .tst, .out] s) (only_refl _ _) .loom (by decide)

theorem State.core_flushQ : ((s.flushQ fe).eng fe).core = { (s.eng fe).core.unwaited with q := [] } := by
  refine (State.seqAll_postDone _ fe _ _).2.trans ?_
  rw [State.eng_modEng]
  rfl

theorem State.loom_flushQ : (s.flushQ fe).loom = s.loom := by
  refine (State.seqAll_postDone _ fe _ _).1.trans ?_
  rw [State.loom_modEng]

/-! ### A batch closes; a command joins it -/

@[simp] theorem State.eng_closeBatch (forced : Bool) (need : List Nat) :
    (s.closeBatch fe forced need).eng fe = (s.eng fe).closed s.bolt forced need := by
  rw [State.closeBatch, State.eng_setReg, State.eng_modEng]
  rfl

@[simp] theorem State.loom_closeBatch (forced : Bool) (need : List Nat) : (s.closeBatch fe forced need).loom = s.loom := by
  rw [State.closeBatch, State.setReg_loom, State.loom_modEng]

/-- The target: COMMIT_LEAD bolts ahead (R83, R130). -/
theorem State.reg_closeBatch_target (forced : Bool) (need : List Nat) :
    (s.closeBatch fe forced need).reg (engA fe 0x48) = s.bolt + w32 (s.lead fe) := State.reg_setReg_same _ _ _

/-- The command counted: CMT or the 2,048th command closes the batch (R92, R93). -/
theorem State.counted_cases (c : QCmd) (need : List Nat) :
    let u := s.modEng fe (·.counted s.bolt)
    s.counted fe c need = u ∨ ∃ forced, s.counted fe c need = u.closeBatch fe forced need := by
  unfold State.counted
  dsimp only
  split
  · exact .inr ⟨false, rfl⟩
  split
  · exact .inr ⟨true, rfl⟩
  · exact .inl rfl

@[simp] theorem State.bolt_modEng (f : Engine → Engine) : (s.modEng fe f).bolt = s.bolt := s.reg_modEng fe f _

theorem State.modEng_modEng (f g : Engine → Engine) : (s.modEng fe f).modEng fe g = s.modEng fe (fun e => g (f e)) := by cases fe <;> rfl

/-- A command enters the batch, and perhaps closes it. -/
theorem State.addBatch_cases (c : QCmd) (d : Done) (moved : Nat) (once need : List Nat) :
    let u := s.modEng fe (fun e => (e.joined c d moved once).counted s.bolt)
    s.addBatch fe c d moved once need = u ∨ ∃ forced, s.addBatch fe c d moved once need = u.closeBatch fe forced need := by
  have hjoined : s.addBatch fe c d moved once need = (s.modEng fe (·.joined c d moved once)).counted fe c need := by
    rw [State.addBatch]
    congr 2
    funext e
    cases h : e.isOpen <;> simp [Engine.joined, h]
  rw [hjoined, ← State.modEng_modEng s fe (·.joined c d moved once) (·.counted s.bolt)]
  simpa using (s.modEng fe (·.joined c d moved once)).counted_cases fe c need

/-- The command at the head joins the batch, perhaps closing it, and leaves the queue. -/
theorem State.core_joinBatch (c : QCmd) (d : Done) (moved : Nat) (once need : List Nat) :
    let e := (((s.eng fe).core.joined c d moved once).counted s.bolt).popped
    let t := ((s.joinBatch fe c d moved once need).eng fe).core
    t = e ∨ ∃ forced, t = e.closed s.bolt forced need := by
  dsimp only
  rw [State.joinBatch, State.core_popQ]
  rcases s.addBatch_cases fe c d moved once need with h | ⟨forced, h⟩
  · rw [h, State.eng_modEng]
    exact .inl rfl
  · rw [h, State.eng_closeBatch, State.eng_modEng, State.bolt_modEng]
    exact .inr ⟨forced, rfl⟩

/-- What joining the batch leaves in the engine (R92, R93). -/
theorem State.joinBatch_eng (c : QCmd) (d : Done) (moved : Nat) (once need : List Nat) :
    let e := s.eng fe
    let t := (s.joinBatch fe c d moved once need).eng fe
    t.q = e.q.drop 1 ∧ (t.st = .build ∨ t.st = .armed) ∧ t.batch.length = e.batch.length + 1 ∧ t.count = e.count + 1 ∧
      t.moves = e.moves + moved ∧ t.once = e.once ++ once := by
  have hlen : ((s.eng fe).batch ++ [{ d with split := (s.eng fe).splitNext }]).length = (s.eng fe).batch.length + 1 := by simp
  rcases s.core_joinBatch fe c d moved once need with h | ⟨forced, h⟩
  · have key := fun {α : Type} (f : Engine → α) hf => Engine.field_of_core f hf h
    exact ⟨key Engine.q fun _ => rfl, .inl (key Engine.st fun _ => rfl), (key (·.batch.length) fun _ => rfl).trans hlen,
      key Engine.count fun _ => rfl, key Engine.moves fun _ => rfl, key Engine.once fun _ => rfl⟩
  · have key := fun {α : Type} (f : Engine → α) hf => Engine.field_of_core f hf h
    exact ⟨key Engine.q fun _ => rfl, .inr (key Engine.st fun _ => rfl),
      (key (·.batch.length) fun _ => rfl).trans ((Engine.length_batch_closed _ _ _ _).trans hlen),
      key Engine.count fun _ => rfl, key Engine.moves fun _ => rfl, key Engine.once fun _ => rfl⟩

theorem State.joinBatch_only (c : QCmd) (d : Done) (moved : Nat) (once need : List Nat) :
    only [.regs, .trd, .fine] s (s.joinBatch fe c d moved once need) :=
  State.joinBatch_inv fe c d moved once need (only_closed _ _) (only_refl _ _)

end

/-! ### The Treadle's operations leave the Fine loom -/

section
variable (s : State)

theorem State.fine_popQ_treadle : (s.popQ false).fine = s.fine := by
  unfold State.popQ State.when
  dsimp only
  split <;> rfl

theorem State.fine_joinBatch_treadle (c : QCmd) (d : Done) (moved : Nat) (once need : List Nat) :
    (s.joinBatch false c d moved once need).fine = s.fine := by
  rw [State.joinBatch, State.fine_popQ_treadle]
  rcases s.addBatch_cases false c d moved once need with h | ⟨forced, h⟩ <;> rw [h] <;> rfl

end

/-! ### A map command at the head of the Treadle's queue (O11) -/

section
variable {s : State} {c : QCmd} {rest : List QCmd}

/-- A command of the open batch's own window closes nothing. -/
theorem State.foreignClose_own {fe : Bool} {need : List Nat} (h : (s.eng fe).isOpen = true → (s.eng fe).owner = c.win) :
    s.foreignClose fe c need = s :=
  if_neg fun hc => hc.2 (h hc.1)

variable {op : Nat} {run : State → HMaps → QCmd → RunRes HMaps} {h : HMaps} {x n : Nat} {once : List Nat}

/-- A command that runs with success joins the batch with its page on standby. -/
theorem State.trdCmd_ok (hq : s.trd.q = c :: rest) (hop : c.op = op) (hdry : c.dry = false) (hcom : s.trd.committing = false)
    (hown : s.trd.isOpen = true → s.trd.owner = c.win) (hwait : s.waitsFor s.workPages c = none)
    (hroom : s.trd.isOpen = true → s.trd.moves + n ≤ 4096) (hrun : run s s.workPages c = .ok h x n once) :
    let u := (s.modLoom (fun l => { l with stb := h })).modTrd (fun e => { e with wrote := e.wrote ++ cmdWrote s.workPages h c })
    s.trdCmd op run = u.joinBatch false c (mkDone c 0 (x + n * 2 ^ 14) 0) n once u.changedTiles := by
  have hfits : ¬ (s.trd.isOpen = true ∧ 4096 < s.trd.moves + n) := fun hc => absurd (hroom hc.1) (by omega)
  unfold State.trdCmd
  rw [hq]
  simp [hop, State.foreignClose_own (s := s) (fe := false) hown, hcom, hdry, hwait, hrun, hfits]

/-- What a map command that succeeds leaves (R83, R92, R93). -/
theorem State.trdCmd_ok_joins (hq : s.trd.q = c :: rest) (hdry : c.dry = false) (hcom : s.trd.committing = false)
    (hown : s.trd.isOpen = true → s.trd.owner = c.win) (hwait : s.waitsFor s.workPages c = none)
    (hroom : s.trd.isOpen = true → s.trd.moves + n ≤ 4096) (hop : c.op = op) (hrun : run s s.workPages c = .ok h x n once) :
    ∃ t, Host.Outcome.next (s.trdCmd op run) = (.next t : Out) ∧ t.loom = { s.loom with stb := h } ∧ t.trd.q = rest ∧
      (t.trd.st = .build ∨ t.trd.st = .armed) ∧ t.trd.batch.length = s.trd.batch.length + 1 ∧ t.trd.count = s.trd.count + 1 ∧
      t.trd.moves = s.trd.moves + n ∧ t.trd.once = s.trd.once ++ once ∧ t.fine = s.fine ∧ t.prot = s.prot := by
  refine ⟨_, congrArg _ (State.trdCmd_ok hq hop hdry hcom hown hwait hroom hrun), ?_⟩
  dsimp only
  generalize hu : (s.modLoom (fun l => { l with stb := h })).modTrd (fun e => { e with wrote := e.wrote ++ cmdWrote s.workPages h c }) = u
  obtain ⟨hqueue, hst, hbatch, hcount, hmoves, honce⟩ :=
    u.joinBatch_eng false c (mkDone c 0 (x + n * 2 ^ 14) 0) n once u.changedTiles
  have honly := u.joinBatch_only false c (mkDone c 0 (x + n * 2 ^ 14) 0) n once u.changedTiles
  have hfine := u.fine_joinBatch_treadle c (mkDone c 0 (x + n * 2 ^ 14) 0) n once u.changedTiles
  subst hu
  refine ⟨honly .loom (by decide), hqueue.trans ?_, hst, hbatch, hcount, hmoves, honce, hfine, honly .prot (by decide)⟩
  show s.trd.q.drop 1 = rest
  rw [hq]
  rfl

end

/-- Settles O11: the nine commands run the same way, each with its own checks. -/
theorem mapCommandsJoinTheBatch : Obligations.MapCommandsJoinTheBatch := by
  intro s c rest h x n once hq hdry hcom hown hwait hroom
  have joins := fun op run => State.trdCmd_ok_joins (op := op) (run := run) (x := x) (h := h) (once := once) hq hdry hcom hown hwait hroom
  exact ⟨joins 0x01 State.doConnect, joins 0x02 State.doDisconnect, joins 0x03 State.doConnectP, joins 0x04 State.doReconnect,
    joins 0x05 (fun s h c => s.doMode h c 2), joins 0x06 (fun s h c => s.doMode h c 3), joins 0x07 (fun s h c => s.doMode h c 1),
    joins 0x0A State.doDefrag, joins 0x0B State.doRetag⟩

/-! ### What the map commands do to a page (O12) -/

theorem HMaps.egE_setEg_same (h : HMaps) (d : Nat) (v : BitVec 64) : (h.setEg d v).egE d = v := smGet_smPut_same 0 h.eg d v

section
variable {s : State} {h h' : HMaps} {c : QCmd} {x n : Nat} {once : List Nat}

/-- A connection made leaves the destination with the entry of R72: the MODE asked for, its tenant, no protect leg. -/
theorem State.runConnect_ok {h0 : HMaps} {src dst mode : Nat} (hrun : s.runConnect h0 h src dst mode = .ok h' x n once) :
    ∃ slot xg xs, h'.egE dst = mkEg slot mode (s.lsrTen dst) 0 false xg xs := by
  unfold State.runConnect at hrun
  split at hrun
  · cases hrun
  split at hrun
  · cases hrun
  split at hrun
  · cases hrun
  split at hrun
  · cases hrun
  · cases hrun
    exact ⟨_, _, _, HMaps.egE_setEg_same _ _ _⟩

/-- A CONNECT whose endpoints stand: it fails on a connected destination, and else seeks a path (R91). -/
theorem State.doConnect_ep (hsrc : s.epFail c.src false = none) (hdst : s.epFail c.dst true = none) :
    s.doConnect h c = if egMode (h.egE c.dst) ≠ 0 then .fail 0x12 c.dst else s.runConnect h h c.src c.dst 1 := by
  simp only [State.doConnect, hsrc, hdst]

theorem State.doConnect_ok (hrun : s.doConnect h c = .ok h' x n once) :
    egMode (h.egE c.dst) = 0 ∧ s.runConnect h h c.src c.dst 1 = .ok h' x n once := by
  cases hsrc : s.epFail c.src false with
  | some e => simp [State.doConnect, hsrc] at hrun
  | none =>
    cases hdst : s.epFail c.dst true with
    | some e => simp [State.doConnect, hsrc, hdst] at hrun
    | none =>
      rw [State.doConnect_ep hsrc hdst] at hrun
      split at hrun
      · cases hrun
      · exact ⟨Decidable.of_not_not ‹_›, hrun⟩

variable {f : BitVec 64 → RunRes HMaps}

theorem State.onDst_connected (hdst : s.epFail c.dst true = none) (hmode : egMode (h.egE c.dst) ≠ 0) :
    s.onDst h c f = f (h.egE c.dst) := by
  simp [State.onDst, hdst, hmode]

theorem State.onDst_unconnected (hdst : s.epFail c.dst true = none) (hmode : egMode (h.egE c.dst) = 0) :
    s.onDst h c f = .fail 0x13 c.dst := by
  simp [State.onDst, hdst, hmode]

theorem State.onDst_epFail {e : Byte} (hdst : s.epFail c.dst true = some e) : s.onDst h c f = .fail e c.dst := by
  simp [State.onDst, hdst]

/-- An LSR that names nothing is BAD_ADDR (R96). -/
theorem State.epFail_invalid {y : Nat} {dst : Bool} (hno : lsrNo y = none) : s.epFail y dst = some 0x11 := by
  simp [State.epFail, hno]

/-- A port asleep or with its link down is PORT_DOWN (R96, R424). -/
theorem State.epFail_down {y k : Nat} {dst : Bool} (hno : lsrNo y = some k) (hport : lsrPort y < 8) (hreach : s.reach (lsrPort y) = false) :
    s.epFail y dst = some 0x1B := by
  have hne : lsrPort y ≠ 8 := by omega
  simp [State.epFail, hno, hne, hreach]

end

/-- Settles O12, status by status. -/
theorem mapCommandResults : Obligations.MapCommandResults := by
  intro s h c
  refine ⟨fun h' x n once hrun => ?_, fun m hdst hmode => ⟨State.onDst_connected hdst hmode, State.onDst_connected hdst hmode⟩,
    fun hsrc hdst hmode => (State.doConnect_ep hsrc hdst).trans (if_pos hmode),
    fun hdst hmode => ⟨State.onDst_unconnected hdst hmode, State.onDst_unconnected hdst hmode⟩,
    fun hno => State.onDst_epFail (State.epFail_invalid hno),
    fun k hno hport hreach => State.onDst_epFail (State.epFail_down hno hport hreach)⟩
  obtain ⟨hmode, hconn⟩ := State.doConnect_ok hrun
  exact ⟨hmode, State.runConnect_ok hconn⟩

end Sys2Proof.Machine

/-! SUPPORT. What the Treadle's queue commands leave: enqueuing, COMMIT, ABORT, FENCE, failures, and the posting of completions
(R83-R95, R105). -/
namespace Sys2Proof.Machine

/-! ### What an engine keeps of its core -/

/-- A batch that ended without a commit, its fences posted: no batch is open, and a head that waits for a group keeps its wait (R86, R95). -/
theorem Engine.dropped_fenced_facts {t e : Engine} (h : t.core = e.core.dropped.fenced) :
    t.st = e.dropped.st ∧ t.isOpen = false ∧ (e.st = .waitProt → t.st = .waitProt ∧ t.waitAt = e.waitAt) ∧
      t.batch = [] ∧ t.q = e.q := by
  have hst : t.st = e.dropped.st := (Engine.field_of_core Engine.st (fun _ => rfl) h :)
  have hopen : t.isOpen = e.dropped.isOpen := (Engine.field_of_core Engine.isOpen (fun _ => rfl) h :)
  exact ⟨hst, hopen.trans e.isOpen_dropped, fun hw => ⟨hst.trans (if_pos hw),
      (Engine.field_of_core Engine.waitAt (fun _ => rfl) h :)⟩,
    (Engine.field_of_core Engine.batch (fun _ => rfl) h :), (Engine.field_of_core Engine.q (fun _ => rfl) h :)⟩

theorem Engine.st_dropped_of_ne {e : Engine} (h : e.st ≠ .waitProt) : e.dropped.st = .idle := if_neg h

section
variable (s : State) (fe : Bool)

/-! ### Enqueuing (R89) -/

/-- Two offsets of one engine's page are two addresses. -/
theorem engA_ne {fe : Bool} {o o' : Nat} (h : o ≠ o') : engA fe o ≠ engA fe o' := by
  unfold engA
  omega

/-- The eight words of a window once its word 7 is written: the seven staged ones and it. -/
theorem State.window_words (win : Nat) (v : Word) :
    (span 0 8).map (fun i => (s.setReg (engA fe (0x11C + 0x20 * win)) v).reg (engA fe (0x100 + 0x20 * win + 4 * i))) =
      (span 0 7).map (fun i => s.reg (engA fe (0x100 + 0x20 * win + 4 * i))) ++ [v] := by
  have hspan : span 0 8 = span 0 7 ++ [7] := rfl
  have hlast : 0x100 + 0x20 * win + 4 * 7 = 0x11C + 0x20 * win := by omega
  rw [hspan, List.map_append, List.map_singleton, hlast, State.reg_setReg_same]
  congr 1
  refine List.map_congr_left fun i hi => s.reg_setReg_other v (engA_ne ?_)
  have hlt : i < 7 := by simpa [span] using hi
  omega

theorem State.windowWrite_last (win : Nat) (v : Word) :
    s.windowWrite fe win 7 v = (s.setReg (engA fe (0x11C + 0x20 * win)) v).enqueue fe win := by
  have hlast : 0x100 + 0x20 * win + 4 * 7 = 0x11C + 0x20 * win := by omega
  rw [State.windowWrite, hlast]
  exact if_pos rfl

/-- With the queue full the words are dropped, counted and raised (R89, R125). -/
theorem State.enqueue_full {win : Nat} (h : engCap fe ≤ (s.eng fe).q.length) :
    s.enqueue fe win = (s.incReg (engA fe 0x54)).irq (engA fe 0) 8 := if_pos h

/-- With room the words enter the queue; the first command in it finds CFG as it stands (R89, R106). -/
theorem State.enqueue_room {win : Nat} (h : (s.eng fe).q.length < engCap fe) :
    (s.enqueue fe win).regs = s.regs ∧
    ((s.enqueue fe win).eng fe).cfg = (if (s.eng fe).q = [] then some (s.reg (engA fe 0x40)) else (s.eng fe).cfg) ∧
    (s.enqueue fe win).eng fe = { s.eng fe with
      cfg := ((s.enqueue fe win).eng fe).cfg
      q := (s.eng fe).q ++ [⟨win, (span 0 8).map (fun i => s.reg (engA fe (0x100 + 0x20 * win + 4 * i)))⟩] } := by
  have hroom : ¬ engCap fe ≤ (s.eng fe).q.length := by omega
  unfold State.enqueue State.when
  by_cases hq : (s.eng fe).q = []
  · have he : (s.eng fe).q.isEmpty = true := by rw [hq]; rfl
    rw [if_neg hroom, if_pos he, if_pos hq]
    cases fe <;> exact ⟨rfl, rfl, rfl⟩
  · have he : ¬ (s.eng fe).q.isEmpty = true := by simpa using hq
    rw [if_neg hroom, if_neg he, if_neg hq]
    cases fe <;> exact ⟨rfl, rfl, rfl⟩

/-! ### The engine once its head has left the queue -/

@[simp] theorem State.q_popQ : ((s.popQ fe).eng fe).q = (s.eng fe).q.drop 1 :=
  (Engine.field_of_core Engine.q (fun _ => rfl) (s.core_popQ fe) :)
@[simp] theorem State.st_popQ : ((s.popQ fe).eng fe).st = (s.eng fe).st :=
  (Engine.field_of_core Engine.st (fun _ => rfl) (s.core_popQ fe) :)
@[simp] theorem State.batch_popQ : ((s.popQ fe).eng fe).batch = (s.eng fe).batch :=
  (Engine.field_of_core Engine.batch (fun _ => rfl) (s.core_popQ fe) :)
@[simp] theorem State.fences_popQ : ((s.popQ fe).eng fe).fences = (s.eng fe).fences :=
  (Engine.field_of_core Engine.fences (fun _ => rfl) (s.core_popQ fe) :)
@[simp] theorem State.waitAt_popQ : ((s.popQ fe).eng fe).waitAt = (s.eng fe).waitAt :=
  (Engine.field_of_core Engine.waitAt (fun _ => rfl) (s.core_popQ fe) :)
@[simp] theorem State.isOpen_popQ : ((s.popQ fe).eng fe).isOpen = (s.eng fe).isOpen :=
  (Engine.field_of_core Engine.isOpen (fun _ => rfl) (s.core_popQ fe) :)

/-! ### A failed command (R93) -/

/-- Counting a command moves neither the queue nor a head that does not wait. -/
theorem State.counted_eng (c : QCmd) (need : List Nat) :
    ((s.counted fe c need).eng fe).q = (s.eng fe).q ∧
      ((s.eng fe).waitAt = none → ((s.counted fe c need).eng fe).waitAt = none) := by
  rcases s.counted_cases fe c need with h | ⟨forced, h⟩
  · rw [h, State.eng_modEng]
    exact ⟨rfl, id⟩
  · rw [h, State.eng_closeBatch, State.eng_modEng]
    exact ⟨rfl, fun _ => rfl⟩

/-- A command that fails leaves the queue, and the head no longer waits. -/
theorem State.failCmd_eng (c : QCmd) (status : Byte) (w2 detail : Nat) (need : List Nat) :
    ((s.failCmd fe c status w2 detail need).eng fe).q = (s.eng fe).q.drop 1 ∧
      ((s.failCmd fe c status w2 detail need).eng fe).waitAt = none := by
  unfold State.failCmd
  extract_lets s1 d s2
  have hcore : (s2.eng fe).core = (s.eng fe).core.unwaited := by
    rw [State.core_postDone, State.eng_modEng]
    rfl
  have hq : (s2.eng fe).q = (s.eng fe).q := (Engine.field_of_core Engine.q (fun _ => rfl) hcore :)
  have hwait : (s2.eng fe).waitAt = none := (Engine.field_of_core Engine.waitAt (fun _ => rfl) hcore :)
  rw [State.q_popQ, State.waitAt_popQ]
  split
  · obtain ⟨hcq, hcw⟩ := s2.counted_eng fe c need
    exact ⟨congrArg (List.drop 1) (hcq.trans hq), hcw hwait⟩
  · exact ⟨congrArg (List.drop 1) hq, hwait⟩

theorem State.loom_failCmd (c : QCmd) (status : Byte) (w2 detail : Nat) (need : List Nat) :
    (s.failCmd fe c status w2 detail need).loom = s.loom :=
  State.failCmd_inv fe c status w2 detail need (only_closed [.regs, .trd, .fine, .bank, .bankMem, .pcie, .tst, .out] s) (only_refl _ _)
    .loom (by decide)

/-! ### COMMIT, ABORT and FENCE (R91) -/

theorem State.lead_modEng {f : Engine → Engine} (hf : ∀ e, (f e).cfg = e.cfg) : (s.modEng fe f).lead fe = s.lead fe := by
  simp [State.lead, State.engCfg, hf]

/-- COMMIT of an open batch joins and closes it. -/
theorem State.takeCommit_open {c : QCmd} {need : List Nat} (hdry : c.dry = false) (hopen : (s.eng fe).isOpen = true) :
    ∃ forced, s.takeCommit fe c need =
      ((s.modEng fe (fun e => (e.joined c (mkDone c 0 0 0) 0 []).counted s.bolt)).closeBatch fe forced need).popQ fe := by
  unfold State.takeCommit
  rw [if_neg (by simp [hdry]), if_pos hopen]
  rcases s.addBatch_cases fe c (mkDone c 0 0 0) 0 [] need with h | ⟨forced, h⟩
  · refine ⟨false, ?_⟩
    dsimp only
    rw [h, if_pos (by rw [State.eng_modEng]; rfl)]
  · refine ⟨forced, ?_⟩
    dsimp only
    rw [h, if_neg (by rw [State.eng_closeBatch]; simp [Engine.closed, Engine.isOpen])]

/-- COMMIT arms the open batch COMMIT_LEAD bolts ahead (R83, R91). -/
theorem State.takeCommit_open_facts {c : QCmd} {need : List Nat} (hdry : c.dry = false) (hopen : (s.eng fe).isOpen = true) :
    let t := s.takeCommit fe c need
    (t.eng fe).st = .armed ∧ (t.eng fe).q = (s.eng fe).q.drop 1 ∧ (t.eng fe).batch.length = (s.eng fe).batch.length + 1 ∧
      t.reg (engA fe 0x48) = s.bolt + w32 (s.lead fe) ∧ t.loom = s.loom := by
  obtain ⟨forced, h⟩ := s.takeCommit_open fe (need := need) hdry hopen
  dsimp only
  rw [h, State.st_popQ, State.q_popQ, State.batch_popQ, State.reg_popQ, State.loom_popQ, State.reg_closeBatch_target,
    State.loom_closeBatch, State.eng_closeBatch, State.eng_modEng, State.bolt_modEng, State.loom_modEng, State.lead_modEng]
  · exact ⟨rfl, rfl, (Engine.length_batch_closed _ _ _ _).trans List.length_append, rfl, rfl⟩
  · exact fun _ => rfl

theorem State.takeCommit_none {c : QCmd} {need : List Nat} (hdry : c.dry = false) (hopen : (s.eng fe).isOpen = false) :
    s.takeCommit fe c need = (s.popQ fe).postDone fe (mkDone c 0 0 0) := by
  unfold State.takeCommit
  rw [if_neg (by simp [hdry]), if_neg (by simp [hopen])]

/-- ABORT of an open batch: the engine's batch is dropped once the command has left the queue. -/
theorem State.takeAbort_open {c : QCmd} (hdry : c.dry = false) (hopen : (s.eng fe).isOpen = true) :
    s.takeAbort fe c = (((s.popQ fe).dropBatch fe 0x1C).postFences fe).postDone fe (mkDone c 0 0 0) := by
  have hpop : ((s.popQ fe).eng fe).isOpen = true := (s.isOpen_popQ fe).trans hopen
  unfold State.takeAbort
  rw [if_neg (by simp [hdry]), State.abortOpen_open _ _ hpop]

/-- CMT of a command that joins no batch closes the open batch or does nothing (R90). -/
theorem State.cmtClose_cases (c : QCmd) (need : List Nat) :
    s.cmtClose fe c need = s.closeBatch fe false need ∨ s.cmtClose fe c need = s := by
  unfold State.cmtClose
  split
  · exact .inl rfl
  · exact .inr rfl

theorem State.cmtClose_without {c : QCmd} {need : List Nat} (h : c.cmt = false) : s.cmtClose fe c need = s :=
  if_neg (by simp [h])

/-- CMT moves neither the queue nor the fences. -/
theorem State.cmtClose_eng (c : QCmd) (need : List Nat) :
    ((s.cmtClose fe c need).eng fe).q = (s.eng fe).q ∧ ((s.cmtClose fe c need).eng fe).fences = (s.eng fe).fences ∧
      (s.cmtClose fe c need).loom = s.loom := by
  rcases s.cmtClose_cases fe c need with h | h <;> rw [h]
  · rw [State.eng_closeBatch]
    exact ⟨rfl, rfl, State.loom_closeBatch _ _ _ _⟩
  · exact ⟨rfl, rfl, rfl⟩

/-- The engine in which one more fence waits. -/
def Engine.withFence (e : Engine) (c : QCmd) : Engine := { e with fences := e.fences ++ [(e.fenceNo, mkDone c 0 0 0)] }

theorem State.takeFence_eq {c : QCmd} {need : List Nat} (hdry : c.dry = false) :
    s.takeFence fe c need = (((s.modEng fe (·.withFence c)).postFences fe).cmtClose fe c need).popQ fe := by
  unfold State.takeFence
  rw [if_neg (by simp [hdry])]
  cases fe <;> rfl

/-- FENCE leaves the queue and waits, or is posted with the other fences whose earlier batches have completed (R85). -/
theorem State.takeFence_facts {c : QCmd} {need : List Nat} (hdry : c.dry = false) :
    let t := s.takeFence fe c need
    (t.eng fe).q = (s.eng fe).q.drop 1 ∧ t.loom = s.loom ∧ (t.eng fe).fences = ((s.eng fe).withFence c).fenced.fences := by
  have hcore := (s.modEng fe (·.withFence c)).core_postFences fe
  have hloom := (s.modEng fe (·.withFence c)).loom_postFences fe
  rw [State.eng_modEng] at hcore
  rw [State.loom_modEng] at hloom
  dsimp only
  rw [State.takeFence_eq _ _ hdry]
  generalize (s.modEng fe (·.withFence c)).postFences fe = u at hcore hloom ⊢
  obtain ⟨hq, hfences, hkept⟩ := u.cmtClose_eng fe c need
  rw [State.q_popQ, State.fences_popQ, State.loom_popQ, hq, hfences, hkept]
  exact ⟨congrArg (List.drop 1) (Engine.field_of_core Engine.q (fun _ => rfl) hcore :), hloom,
    (Engine.field_of_core Engine.fences (fun _ => rfl) hcore :)⟩

end

/-! ### The commands of the Treadle -/

section
variable {s : State} {c : QCmd} {rest : List QCmd}

/-- A command that changes no page is taken in every state (R85). -/
theorem State.trdFree_own {ok : Nat → Bool} {take : State → QCmd → State} (hq : s.trd.q = c :: rest) (hok : ok c.op = true)
    (hown : s.trd.isOpen = true → s.trd.owner = c.win) : s.trdFree ok take = take s c := by
  unfold State.trdFree
  rw [hq]
  exact (if_pos hok).trans (congrArg (take · c) (State.foreignClose_own (s := s) (fe := false) hown))

/-- The batch ends without a commit and the fences that waited for it are posted: what the Treadle and the Loom then hold (R84, R95). -/
theorem State.endBatch_treadle (s : State) (status : Byte) :
    let t := (s.dropBatch false status).postFences false
    t.loom = { s.loom with stb := s.loom.act } ∧ t.trd.st = s.trd.dropped.st ∧ t.trd.isOpen = false ∧
      (s.trd.st = .waitProt → t.trd.st = .waitProt ∧ t.trd.waitAt = s.trd.waitAt) ∧ t.trd.batch = [] ∧ t.trd.q = s.trd.q := by
  have hcore := (s.dropBatch false status).core_postFences false
  rw [State.core_dropBatch] at hcore
  refine ⟨?_, Engine.dropped_fenced_facts (t := ((s.dropBatch false status).postFences false).trd) hcore⟩
  rw [State.loom_postFences, State.loom_dropBatch_treadle]

/-- A batch that was being built leaves the Treadle idle once it has ended. -/
theorem Engine.st_dropped_build {e : Engine} (h : e.st = .build) : e.dropped.st = .idle := Engine.st_dropped_of_ne (by simp [h])

/-! ### Writes of the Treadle's registers (R89, R105) -/

section
variable {m : Mid} {w : Fin 4} {v : Word}

theorem exec_trdEnqueue_reaches (h : reaches s m (trdA (0x11C + 0x20 * w.val))) :
    exec (.trdEnqueue m w v) s = .next (((s.setReg (engA false (0x11C + 0x20 * w.val)) v).enqueue false w.val).answer 0) := by
  refine congrArg Host.Outcome.next ((s.write4_reaches h).trans ?_)
  rw [State.windowWrite_last]

/-- With 1,024 commands waiting the words are dropped, counted and raised (R89). -/
theorem exec_trdEnqueue_full (h : reaches s m (trdA (0x11C + 0x20 * w.val))) (hfull : 1024 ≤ s.trd.q.length) :
    exec (.trdEnqueue m w v) s =
      .next ((((s.setReg (engA false (0x11C + 0x20 * w.val)) v).incReg (engA false 0x54)).irq (engA false 0) 8).answer 0) := by
  rw [exec_trdEnqueue_reaches h, State.enqueue_full (s.setReg (engA false (0x11C + 0x20 * w.val)) v) false hfull]

theorem exec_trdAbortOpen_reaches (h : reaches s m (trdA 0x58)) (hopen : s.trd.isOpen = true) :
    exec (.trdAbortOpen m) s = .next (((s.dropBatch false 0x1C).postFences false).answer 0) := by
  refine congrArg Host.Outcome.next ((s.write4_reaches h).trans ?_)
  rw [← State.abortOpen_open s false hopen]
  rfl

theorem exec_trdFlushQ_reaches (h : reaches s m (trdA 0x58)) : exec (.trdFlushQ m) s = .next ((s.flushQ false).answer 0) :=
  congrArg Host.Outcome.next (s.write4_reaches h)

end

/-! ### The batch limit, and the commands at the queue head -/

theorem exec_trdBatchTimeout_due (hopen : s.trd.isOpen = true) (hdue : s.batchTmo false ≤ since s.bolt s.trd.lastAdd) :
    exec .trdBatchTimeout s = .next (((s.dropBatch false 0x1C).postFences false).irq (trdA 0) 0x40) :=
  congrArg Host.Outcome.next (if_pos ⟨hopen, hdue⟩)

theorem exec_commit_own (hq : s.trd.q = c :: rest) (hop : c.op = 0x08) (hown : s.trd.isOpen = true → s.trd.owner = c.win) :
    exec .commit s = .next (s.takeCommit false c s.changedTiles) :=
  congrArg Host.Outcome.next (State.trdFree_own hq (by simp [hop]) hown)

theorem exec_abort_own (hq : s.trd.q = c :: rest) (hop : c.op = 0x09) (hown : s.trd.isOpen = true → s.trd.owner = c.win) :
    exec .abort s = .next (s.takeAbort false c) :=
  congrArg Host.Outcome.next (State.trdFree_own hq (by simp [hop]) hown)

theorem exec_fence_own (hq : s.trd.q = c :: rest) (hop : c.op = 0x0D) (hown : s.trd.isOpen = true → s.trd.owner = c.win) :
    exec .fence s = .next (s.takeFence false c s.changedTiles) :=
  congrArg Host.Outcome.next (State.trdFree_own hq (by simp [hop]) hown)

/-- QUERY completes at once with the active entry (R91, R94). -/
theorem exec_query_own (hq : s.trd.q = c :: rest) (hop : c.op = 0x0C) (hdry : c.dry = false) (hcmt : c.cmt = false)
    (hep : s.epFail c.dst true = none) (hown : s.trd.isOpen = true → s.trd.owner = c.win) :
    exec .query s = .next ((s.postDone false
      (mkDone c 0 (egSlot (s.loom.act.egE c.dst)) ((s.loom.act.egE c.dst).setWidth 32).toNat)).popQ false) := by
  refine congrArg Host.Outcome.next ((State.trdFree_own hq (by simp [hop]) hown).trans ?_)
  simp [State.doQuery, hep, hdry, State.cmtClose_without _ _ hcmt]

/-- An opcode of no command that changes connections waits for no group (R86). -/
theorem State.waitsFor_none {h : HMaps} (hop : ¬ (1 ≤ c.op ∧ c.op ≤ 0x0D)) : s.waitsFor h c = none := by
  have hgroups : s.cmdGroups h c = [] := by
    unfold State.cmdGroups
    dsimp only
    split <;> first | rfl | omega
  rw [State.waitsFor, hgroups]
  rfl

/-- An opcode outside the table fails the head (R91). -/
theorem exec_trdBadOpcode_own (hq : s.trd.q = c :: rest) (hop : ¬ (1 ≤ c.op ∧ c.op ≤ 0x0D)) (hcom : s.trd.committing = false)
    (hown : s.trd.isOpen = true → s.trd.owner = c.win) :
    exec .trdBadOpcode s = .next (s.failCmd false c 0x10 0 0 s.changedTiles) := by
  have hexec : exec .trdBadOpcode s = .next (s.trdCmd c.op (fun _ _ _ => .fail 0x10 0)) := by
    show execTrdBadOpcode s = _
    simp only [execTrdBadOpcode, hq, if_neg hop]
  have hrun : s.trdCmd c.op (fun _ _ _ => .fail 0x10 0) = s.failCmd false c 0x10 0 0 s.changedTiles := by
    unfold State.trdCmd
    rw [hq]
    simp [State.foreignClose_own (s := s) (fe := false) hown, hcom, State.waitsFor_none hop]
  rw [hexec, hrun]

/-- After PWAIT bolts on a busy group the head fails with PROT_BUSY (R86). -/
theorem exec_pwaitExpire_due {b : Word} (hq : s.trd.q = c :: rest) (hst : s.trd.st = .waitProt) (hat : s.trd.waitAt = some b)
    (hdue : atLeast1 (fld (s.engCfg false) 16 8) ≤ since s.bolt b) (hwait : s.waitsFor s.workPages c ≠ none) :
    ∃ d, exec .pwaitExpire s = .next (s.failCmd false c 0x17 0 d s.changedTiles) := by
  obtain ⟨d, hd⟩ := Option.ne_none_iff_exists'.mp hwait
  refine ⟨d, ?_⟩
  show execPwaitExpire s = _
  simp only [execPwaitExpire, hq, hat, hd, if_pos (And.intro hst hdue)]

/-- The head that failed has left the Treadle's queue, and the Loom is as it was. -/
theorem State.failCmd_treadle (hq : s.trd.q = c :: rest) (status : Byte) (w2 detail : Nat) (need : List Nat) :
    let t := s.failCmd false c status w2 detail need
    t.trd.q = rest ∧ t.trd.waitAt = none ∧ t.loom = s.loom := by
  obtain ⟨hleft, hwait⟩ := s.failCmd_eng false c status w2 detail need
  exact ⟨hleft.trans (congrArg (List.drop 1) hq), hwait, s.loom_failCmd false c status w2 detail need⟩

/-- ABORT has left the Treadle's queue and ended the open batch (R91, R95). -/
theorem State.takeAbort_treadle (hq : s.trd.q = c :: rest) (hdry : c.dry = false) (hopen : s.trd.isOpen = true) :
    let t := s.takeAbort false c
    (s.trd.st = .build → t.trd.st = .idle) ∧ t.trd.isOpen = false ∧ t.trd.q = rest ∧ t.trd.batch = [] ∧
      t.loom = { s.loom with stb := s.loom.act } := by
  obtain ⟨hloom, hst, hshut, -, hbatch, hqueue⟩ := (s.popQ false).endBatch_treadle 0x1C
  dsimp only
  rw [State.takeAbort_open s false hdry hopen, State.loom_postDone]
  generalize ((s.popQ false).dropBatch false 0x1C).postFences false = u at hloom hst hshut hbatch hqueue ⊢
  have hcore := u.core_postDone false (mkDone c 0 0 0)
  refine ⟨fun hb => ?_, ?_, ?_, ?_, ?_⟩
  · exact (Engine.field_of_core Engine.st (fun _ => rfl) hcore :).trans (hst.trans (Engine.st_dropped_build ((s.st_popQ false).trans hb)))
  · exact (Engine.field_of_core Engine.isOpen (fun _ => rfl) hcore :).trans hshut
  · exact (Engine.field_of_core Engine.q (fun _ => rfl) hcore :).trans (hqueue.trans ((s.q_popQ false).trans (congrArg (List.drop 1) hq)))
  · exact (Engine.field_of_core Engine.batch (fun _ => rfl) hcore :).trans hbatch
  · rw [hloom, State.loom_popQ]

end

/-- Settles O13, command by command. -/
theorem treadleQueueCommands : Obligations.TreadleQueueCommands := by
  intro s m w v
  refine ⟨fun hr hroom => ?room, fun hr hfull => ?full, fun hr hopen => ?abortOpen, fun hr => ?flush, ?fenceDone, fun hpost => ?post,
    fun hopen hdue => ?timeout, fun c rest hq hown => ⟨fun hop hdry hopen => ?commit, fun hop hdry hopen => ?commitNone,
      fun hop hdry hopen => ?abort, fun hop hdry hcmt hep => exec_query_own hq hop hdry hcmt hep hown, fun hop hdry => ?fence,
      fun hop hcom => ?bad, fun b hst hat hdue hwait => ?expire⟩⟩
  case room =>
    obtain ⟨hregs, hcfg, heng⟩ := (s.setReg (engA false (0x11C + 0x20 * w.val)) v).enqueue_room false (win := w.val) hroom
    refine ⟨_, exec_trdEnqueue_reaches hr, ?_, ?_, fun a ha => ?_⟩
    · refine Eq.trans heng ?_
      rw [State.window_words]
      rfl
    · refine Eq.trans hcfg ?_
      rw [State.reg_setReg_other _ _ (engA_ne (by omega))]
      rfl
    · rw [State.reg_answer, State.reg, hregs]
      exact s.reg_setReg_other v ha
  case full =>
    have hraw : trdA 0x10 ≠ engA false (0x11C + 0x20 * w.val) := engA_ne (fe := false) (by omega)
    refine ⟨_, exec_trdEnqueue_full hr hfull, ?_, ?_, ?_⟩
    · rw [State.answer_trd, State.irq_trd]
      rfl
    · rw [State.reg_answer, State.irq_reg_other _ (by decide)]
      refine (State.reg_incReg_same _ _ _).trans ?_
      rw [State.reg_setReg_other _ _ (engA_ne (by omega))]
      rfl
    · rw [State.reg_answer, State.irq_reg, if_pos (by decide), State.reg_incReg_other _ _ (by decide),
        State.reg_setReg_other _ _ hraw]
      rfl
  case abortOpen =>
    obtain ⟨hloom, hst, hshut, hwait, hbatch, hqueue⟩ := s.endBatch_treadle 0x1C
    exact ⟨_, exec_trdAbortOpen_reaches hr hopen, hloom, fun hb => hst.trans (Engine.st_dropped_build hb), hshut, hwait, hbatch, hqueue⟩
  case flush =>
    have hcore := s.core_flushQ false
    exact ⟨_, exec_trdFlushQ_reaches hr, (Engine.field_of_core Engine.q (fun _ => rfl) hcore :),
      (Engine.field_of_core Engine.batch (fun _ => rfl) hcore :), s.loom_flushQ false⟩
  case fenceDone =>
    have hcore := s.core_postFences false
    exact ⟨_, rfl, s.loom_postFences false, (Engine.field_of_core Engine.q (fun _ => rfl) hcore :),
      (Engine.field_of_core Engine.fences (fun _ => rfl) hcore :)⟩
  case post =>
    have hcore := s.core_postBatch false
    have hposted : (s.eng false).core.posted = { (s.eng false).core with post := [], batchNo := (s.eng false).batchNo + 1 } := if_neg hpost
    rw [hposted] at hcore
    exact ⟨_, rfl, s.loom_postBatch false, (Engine.field_of_core Engine.q (fun _ => rfl) hcore :),
      (Engine.field_of_core Engine.post (fun _ => rfl) hcore :), (Engine.field_of_core Engine.batchNo (fun _ => rfl) hcore :)⟩
  case timeout =>
    obtain ⟨hloom, hst, hshut, hwait, hbatch, hqueue⟩ := s.endBatch_treadle 0x1C
    refine ⟨_, exec_trdBatchTimeout_due hopen hdue, ?_⟩
    rw [State.irq_loom, State.irq_trd]
    exact ⟨hloom, fun hb => hst.trans (Engine.st_dropped_build hb), hshut, hwait, hbatch, hqueue⟩
  case commit =>
    obtain ⟨hst, hqueue, hbatch, htarget, hloom⟩ := s.takeCommit_open_facts false (need := s.changedTiles) hdry hopen
    exact ⟨_, exec_commit_own hq hop hown, hst, hqueue.trans (congrArg (List.drop 1) hq), hbatch, htarget, hloom⟩
  case commitNone =>
    rw [exec_commit_own hq hop hown, State.takeCommit_none s false hdry hopen]
  case abort =>
    obtain ⟨hst, hshut, hqueue, hbatch, hloom⟩ := State.takeAbort_treadle hq hdry hopen
    exact ⟨_, exec_abort_own hq hop hown, hst, hshut, hqueue, hbatch, hloom⟩
  case fence =>
    obtain ⟨hqueue, hloom, hfences⟩ := s.takeFence_facts false (need := s.changedTiles) hdry
    exact ⟨_, exec_fence_own hq hop hown, hqueue.trans (congrArg (List.drop 1) hq), hloom, hfences⟩
  case bad =>
    obtain ⟨hqueue, -, hloom⟩ := State.failCmd_treadle hq 0x10 0 0 s.changedTiles
    exact ⟨_, exec_trdBadOpcode_own hq hop hcom hown, hqueue, hloom⟩
  case expire =>
    obtain ⟨d, hexec⟩ := exec_pwaitExpire_due hq hst hat hdue hwait
    exact ⟨_, hexec, State.failCmd_treadle hq 0x17 0 d s.changedTiles⟩

end Sys2Proof.Machine

/-! SUPPORT. The armed commit of the Heddle, its map reads and its marked entries (R81-R88, R104). -/
namespace Sys2Proof.Machine

section
variable (s : State)

/-! ### The commit (R81, R83) -/

/-- The commit's engine side leaves the engine in SYNC, its batch's completions to be posted (R83, R95). -/
theorem State.core_engCommit (fe : Bool) : ((s.engCommit fe).eng fe).core = (s.eng fe).core.posted.committed s.bolt := by
  unfold State.engCommit
  dsimp only
  rw [State.eng_of_only fe (State.trace_inv _ _ _ _ _ (only_closed [.regs, .pcie, .tst, .out, .free] _) (only_refl _ _))
      (by decide) (by decide),
    State.eng_irq, State.eng_setReg, State.eng_modEng, ← State.core_postBatch]
  rfl

theorem State.loom_engCommit (fe : Bool) : (s.engCommit fe).loom = s.loom :=
  State.engCommit_inv fe (only_closed [.regs, .trd, .fine, .bank, .bankMem, .pcie, .tst, .out, .free] s) (only_refl _ _) .loom (by decide)

/-- Posting the last batch's completions moves no command of the queue. -/
theorem Engine.q_posted (e : Engine) : e.posted.q = e.q := by
  unfold Engine.posted
  split <;> rfl

/-- Neither the legs' held picks nor the ONCE grants are of the Loom or the Treadle. -/
theorem State.clearOnce_cutStore_frame (u : State) (l : List Nat) :
    ((State.cutStore s u).clearOnce l).loom = u.loom ∧ ((State.cutStore s u).clearOnce l).trd = u.trd := by
  have h : only [.regs] (State.cutStore s u) ((State.cutStore s u).clearOnce l) := State.clearOnce_inv l (only_closed _ _) (only_refl _ _)
  exact ⟨h .loom (by decide), h .trd (by decide)⟩

/-- The commit: the pages change places, and the Treadle is in SYNC with no batch (R81, R83). -/
theorem State.heddleCommit_facts :
    let t := s.heddleCommit
    t.loom.act = s.loom.stb ∧ t.loom.stb = s.loom.act ∧ t.loom.phys = !s.loom.phys ∧ t.trd.st = .sync ∧ t.trd.batch = [] ∧
      t.trd.q = s.trd.q := by
  obtain ⟨hloom, htrd⟩ := s.clearOnce_cutStore_frame s.swapPages s.trd.once
  dsimp only
  unfold State.heddleCommit
  generalize (State.cutStore s s.swapPages).clearOnce s.trd.once = u at hloom htrd ⊢
  have hcore := u.core_engCommit false
  rw [State.eng_treadle, State.eng_treadle, htrd] at hcore
  rw [State.loom_engCommit, hloom]
  generalize (u.engCommit false).trd = e at hcore ⊢
  exact ⟨rfl, rfl, rfl, (Engine.field_of_core Engine.st (fun _ => rfl) hcore :),
    (Engine.field_of_core Engine.batch (fun _ => rfl) hcore :),
    (Engine.field_of_core Engine.q (fun _ => rfl) hcore :).trans (Engine.q_posted _)⟩

/-! ### Arming (R83, R84) -/

/-- An arm message leaves by no land of the boundary register. -/
theorem State.emit_armMsg (t : Nat) : s.emit (.armMsg t) = s.send [.armMsg t] := by
  have hcov : s.covered (.armMsg t) = false := rfl
  exact if_neg (by rw [hcov, Bool.and_false]; decide)

theorem State.seqAll_armMsg (l : List Nat) : seqAll (fun t s => s.emit (.armMsg t)) l s = s.send (l.map .armMsg) := by
  induction l generalizing s with
  | nil => exact congrArg (fun o => { s with out := o }) (List.append_nil s.out).symm
  | cons t l ih =>
    rw [seqAll, ih, State.emit_armMsg]
    exact congrArg (fun o => { s with out := o }) (List.append_assoc s.out _ _)

end

section
variable {s : State}

theorem exec_trdArm_due (hst : s.trd.st = .armed) (hsent : s.trd.armSent = false) (hdue : 1 ≤ since s.bolt s.trd.armBolt) :
    exec .trdArm s = .next ((s.send (s.trd.need.map .armMsg)).modTrd (fun e => { e with armSent := true })) := by
  refine congrArg Host.Outcome.next ((if_pos ⟨hst, by simp [hsent], hdue⟩).trans ?_)
  rw [State.seqAll_armMsg]

theorem exec_tileArmAck_due {k : Fin 9} (hst : s.trd.st = .armed) (hsent : s.trd.armSent = true) (hneed : k.val ∈ s.trd.need)
    (hack : k.val ∉ s.trd.acks) : exec (.tileArmAck k) s = .next (s.modTrd (fun e => { e with acks := e.acks ++ [k.val] })) :=
  congrArg Host.Outcome.next (if_pos ⟨hst, hsent, hneed, hack⟩)

/-- A deadline without every acknowledgement: the target moves on by a bolt, or the third failure aborts the batch (R84). -/
theorem exec_armDeadline_due (hst : s.trd.st = .armed) (hb : s.bolt + 1 = s.reg (trdA 0x48)) (hack : s.trd.allAcked = false) :
    exec .armDeadline s = .next (if 2 ≤ s.trd.tries then ((s.dropBatch false 0x1F).postFences false).irq (trdA 0) 0x20
      else (s.modTrd (fun e => { e with tries := e.tries + 1, armSent := false })).setReg (trdA 0x48) (s.reg (trdA 0x48) + 1)) :=
  congrArg Host.Outcome.next (if_pos ⟨hst, hb, by simp [hack]⟩)

theorem exec_heddleCommit_due (h : s.commitDue = true) : exec .heddleCommit s = .next s.heddleCommit := congrArg Host.Outcome.next (if_pos h)

theorem exec_heddleCommit_other (h : s.commitDue = false) : exec .heddleCommit s = .next s :=
  congrArg Host.Outcome.next (if_neg (by simp [h]))

/-! ### Map reads (R104) -/

theorem exec_hdlReadDone_busy (h : s.rb 0x801048 0 = true) : exec .hdlReadDone s = .next s.hdlReadDone :=
  congrArg Host.Outcome.next (if_pos h)

theorem State.hdlReadDone_entry {a b : Word} {u : Bool} (h : (s.setReg 0x801054 s.bolt).hdlEntry = some (a, b, u)) :
    s.hdlReadDone = (((s.setReg 0x801054 s.bolt).setReg 0x801048 (if u then 4 else 0)).setReg 0x80104C a).setReg 0x801050 b := by
  simp only [State.hdlReadDone, h]

/-- A read whose index names no entry gives BADIDX. -/
theorem State.hdlReadDone_badIdx (h : (s.setReg 0x801054 s.bolt).hdlEntry = none) :
    s.hdlReadDone = (((s.setReg 0x801054 s.bolt).setReg 0x801048 2).setReg 0x80104C 0).setReg 0x801050 0 := by
  simp only [State.hdlReadDone, h]

/-- The four registers that a map read writes. -/
theorem State.reg_mapRead (x a b c : Word) :
    let t := (((s.setReg 0x801054 x).setReg 0x801048 c).setReg 0x80104C a).setReg 0x801050 b
    t.reg 0x80104C = a ∧ t.reg 0x801050 = b ∧ t.reg 0x801048 = c ∧ t.reg 0x801054 = x := by
  simp [State.reg_setReg]

/-! ### Uncorrectable entries and their reload (R88) -/

/-- The marks without those of an entry of the active page. -/
def unmarked (l : List EccMark) (map key : Nat) : List EccMark :=
  l.filter (fun m => !decide (m.map = map ∧ m.key = key ∧ m.standby = false))

/-- The mark of an entry found uncorrectable. -/
def uncMark (map key : Nat) (standby : Bool) : EccMark := { map := map, key := key, standby := standby, unc := true, active := true }

/-- An uncorrectable mark on an entry of a page stands among these. -/
def uncAmong (l : List EccMark) (map key : Nat) (standby : Bool) : Bool :=
  l.any (fun e => decide (e.map = map ∧ e.key = key) && e.unc && (e.standby == standby))

theorem State.heddleUnc_eq (map key : Nat) (standby : Bool) : s.heddleUnc map key standby = uncAmong s.loom.ecc map key standby := rfl

theorem uncAmong_unmarked (l : List EccMark) (map key : Nat) : uncAmong (unmarked l map key) map key false = false := by
  refine List.any_eq_false.mpr fun m hm => ?_
  obtain ⟨-, hkept⟩ := List.mem_filter.mp hm
  simp only [Bool.not_eq_true', decide_eq_false_iff_not] at hkept
  simp only [Bool.and_eq_true, decide_eq_true_eq, beq_iff_eq]
  exact fun ⟨⟨hentry, _⟩, hpage⟩ => hkept ⟨hentry.1, hentry.2, hpage⟩

theorem uncAmong_of_mem {l : List EccMark} {map key : Nat} {standby : Bool} (h : uncMark map key standby ∈ l) :
    uncAmong l map key standby = true :=
  List.any_eq_true.mpr ⟨_, h, by simp [uncMark]⟩

variable {e : HeddleRef} {k : Nat}

theorem exec_heddleEccUncorrectable_key (h : heddleKey e = some k) :
    exec (.heddleEccUncorrectable e) s = .next
      (((s.modLoom (fun l => { l with ecc := unmarked l.ecc e.map.val k ++ [uncMark e.map.val k false] })).incReg
        0x80105C).irq 0x800000 2) := by
  show execHeddleEccUncorrectable e s = _
  simp only [execHeddleEccUncorrectable, h]
  rfl

theorem exec_heddleEntryReload_key {copyUnc : Bool} (h : heddleKey e = some k) :
    exec (.heddleEntryReload e copyUnc) s = .next (s.modLoom (fun l => { l with ecc := reload l.ecc e.map.val k copyUnc })) := by
  show execHeddleEntryReload e copyUnc s = _
  simp only [execHeddleEntryReload, h]

/-- A mark that is due ends, or is set on both pages where the copy is bad too. -/
theorem reload_due {l : List EccMark} {map key : Nat} {copyUnc : Bool}
    (h : l.any (fun m => decide (m.map = map ∧ m.key = key) && m.due) = true) :
    reload l map key copyUnc =
      if copyUnc then unmarked l map key ++ [uncMark map key false, uncMark map key true] else unmarked l map key :=
  if_neg (by simp only [h]; decide)

theorem reload_other {l : List EccMark} {map key : Nat} {copyUnc : Bool}
    (h : l.any (fun m => decide (m.map = map ∧ m.key = key) && m.due) = false) : reload l map key copyUnc = l :=
  if_pos (by simp only [h]; decide)

end

/-- Settles O14: arming, the deadline, the commit and its copy, map reads, marked entries. -/
theorem heddleCommitAndReads : Obligations.HeddleCommitAndReads := by
  intro s m
  refine ⟨fun hst hsent hdue => ⟨_, exec_trdArm_due hst hsent hdue, rfl, rfl⟩, fun k => exec_tileArmAck_due,
    fun hst hb hack => ⟨fun htry => ?again, fun htry => ?abort⟩, fun hdue => ⟨_, exec_heddleCommit_due hdue, s.heddleCommit_facts⟩,
    exec_heddleCommit_other, fun hst => congrArg Host.Outcome.next (if_pos hst), fun hr => congrArg Host.Outcome.next (s.write4_reaches hr),
    fun hbusy => ⟨fun a b u hentry => ?entry, fun hnone => ?badIdx⟩, fun e k hk => ?unc, fun e k hk => ⟨fun hdue => ?reload,
      fun hdue => ?reloadBad, fun hdue copyUnc => ?reloadNone⟩⟩
  case again => rw [exec_armDeadline_due hst hb hack, if_neg (by omega)]
  case abort =>
    obtain ⟨hloom, hidle, -, -, hbatch, -⟩ := s.endBatch_treadle 0x1F
    refine ⟨_, (exec_armDeadline_due hst hb hack).trans (congrArg _ (if_pos htry)), ?_⟩
    rw [State.irq_trd, State.irq_loom]
    exact ⟨hidle.trans (Engine.st_dropped_of_ne (by simp [hst])), hbatch, hloom⟩
  case entry =>
    refine ⟨_, exec_hdlReadDone_busy hbusy, ?_⟩
    rw [State.hdlReadDone_entry hentry]
    exact State.reg_mapRead _ _ _ _
  case badIdx =>
    refine ⟨_, exec_hdlReadDone_busy hbusy, ?_⟩
    rw [State.hdlReadDone_badIdx hnone]
    exact State.reg_mapRead _ _ _ _
  case unc =>
    refine ⟨_, exec_heddleEccUncorrectable_key hk, ?_, ?_, ?_, ?_, ?_, fun a hcnt hraw => ?_⟩
    · rw [State.heddleUnc_eq, State.irq_loom]
      exact uncAmong_of_mem (List.mem_append_right _ (List.mem_singleton_self _))
    · rw [State.irq_loom]
      rfl
    · rw [State.irq_loom]
      rfl
    · rw [State.irq_reg_other _ (by decide), State.reg_incReg_same]
      rfl
    · rw [State.irq_reg, if_pos (by decide), State.reg_incReg_other _ _ (by decide)]
      rfl
    · rw [State.irq_reg_other _ hraw, State.reg_incReg_other _ _ hcnt]
      rfl
  case reload =>
    refine ⟨_, exec_heddleEntryReload_key hk, ?_, rfl⟩
    rw [State.heddleUnc_eq, State.modLoom_loom, reload_due hdue]
    exact uncAmong_unmarked _ _ _
  case reloadBad =>
    refine ⟨_, exec_heddleEntryReload_key hk, ?_, ?_, rfl⟩ <;>
      rw [State.heddleUnc_eq, State.modLoom_loom, reload_due hdue, if_pos rfl] <;>
      exact uncAmong_of_mem (by simp)
  case reloadNone =>
    rw [exec_heddleEntryReload_key hk, State.modLoom, reload_other hdue]

end Sys2Proof.Machine

/-! SUPPORT. A pick in the bolts W to W + 10 of a warm reset, in which every trunk position carries AIS (R435), so that the MODE of its egress
entry does not decide (R461). -/
namespace Sys2Proof.Machine

/-- Port 0 up in the first bolt after a warm reset, its skein 0 switched to its egress skein 1, whose entry is locked (MODE 2). -/
def warmLocked : State :=
  { State.reset with
    ports := [(0, { awake := true, linkUp := true })]
    lanes := [(0, { framer := .sync, sig := true, clk := true, cw := true, hdrOk := true, losSeen := false,
                     lolSeen := false, oofSeen := false, rawOof := false })]
    loom := { act := { ing := [(0, mkIng 0 0)], reed := [(0, mkReed 0)], eg := [(1, mkEg 0 2 0 0 false false 0)] } }
    pwr := { State.reset.pwr with warmAt := some 0 } }

/-- The pick of skein 0 in round 0. -/
def skeinPick : PickIn := { src := 0, round := 0, payload := List.replicate 64 0, fecUnc := false, onset := false, clk := 0, sbe := 0 }

/-- The locked position carries AIS there. -/
theorem warmLocked_carries_ais : ((warmLocked.switchPick skeinPick).tx 1).out.kind = .ais := by decide +kernel

theorem exec_pickSwitch_warmLocked : exec (.pickSwitch skeinPick) warmLocked = .next (warmLocked.switchPick skeinPick) := rfl

/-- Refutes O57: in the first eleven bolts of a warm reset a locked position carries AIS, not LCK. -/
theorem not_picksAndBoltBoundary : ¬ Obligations.PicksAndBoltBoundary := by
  intro h
  obtain ⟨-, -, -, -, hone⟩ := h.1 warmLocked skeinPick
  obtain ⟨htrunk, -⟩ := hone (by decide) rfl (by decide) rfl (by decide) 1 0 (by decide +kernel)
  obtain ⟨-, hup⟩ := htrunk (by decide) rfl (by decide +kernel) (by decide +kernel) (by decide +kernel)
  obtain ⟨hlocked, -⟩ := hup (by decide +kernel)
  obtain ⟨t, ht, hkind, -⟩ := hlocked (by decide +kernel)
  rw [exec_pickSwitch_warmLocked] at ht
  cases ht
  exact absurd (warmLocked_carries_ais.symm.trans hkind) (by decide)
end Sys2Proof.Machine

/-! SUPPORT. The thread commands of the Fine loom: the shared engine operations leave the maps, the picks and the marks as they were, but for
the standby maps where a batch ends without a commit (R122-R130). -/
namespace Sys2Proof.Machine

/-! ### The Fine loom beside its engine -/

/-- The Fine loom without its thread command engine. -/
def Fine.woven (f : Fine) : Fine := { f with eng := {} }

/-- What does not show the engine is read off the rest. -/
theorem Fine.field_of_woven {α : Type} {t f : Fine} (g : Fine → α) (hg : ∀ f : Fine, g f.woven = g f) (h : t.woven = f) : g t = g f :=
  (hg t).symm.trans (congrArg g h)

theorem Fine.maps_of_woven {t f : Fine} (h : t.woven = f.woven) : t.stb = f.stb ∧ t.act = f.act :=
  ⟨(Fine.field_of_woven Fine.stb (fun _ => rfl) h :), (Fine.field_of_woven Fine.act (fun _ => rfl) h :)⟩

section
variable (s : State) (fe : Bool)

@[simp] theorem State.woven_modEng (f : Engine → Engine) : (s.modEng fe f).fine.woven = s.fine.woven := by cases fe <;> rfl

@[simp] theorem State.fine_hostWrite (a : Nat) (bs : List Byte) : (s.hostWrite a bs).fine = s.fine :=
  State.hostWrite_inv a bs (only_closed [.regs, .pcie, .out] s) (only_refl _ _) .fine (by decide)

@[simp] theorem State.fine_agentWrite (m : Mid) (a : Nat) (bs : List Byte) (x : Bool) : (s.agentWrite m a bs x).fine = s.fine :=
  State.agentWrite_inv m a bs x (only_closed [.regs, .bank, .bankMem, .pcie, .out] s) (only_refl _ _) .fine (by decide)

/-- Posting a completion leaves the maps (R94, R95). -/
@[simp] theorem State.woven_postDone (d : Done) : (s.postDone fe d).fine.woven = s.fine.woven := by
  unfold State.postDone
  dsimp only
  repeat' split
  all_goals simp

theorem State.woven_seqAll_postDone {α : Type} (f : α → Done) (l : List α) :
    (seqAll (fun x s => s.postDone fe (f x)) l s).fine.woven = s.fine.woven := by
  induction l generalizing s with
  | nil => rfl
  | cons x l ih => exact (ih _).trans (s.woven_postDone fe _)

@[simp] theorem State.woven_popQ : (s.popQ fe).fine.woven = s.fine.woven := by
  unfold State.popQ State.when State.latchCfg
  dsimp only
  split <;> simp

@[simp] theorem State.woven_postFences : (s.postFences fe).fine.woven = s.fine.woven :=
  (State.woven_seqAll_postDone _ fe (fun f : Nat × Done => f.2) _).trans (s.woven_modEng fe _)

@[simp] theorem State.woven_postBatch : (s.postBatch fe).fine.woven = s.fine.woven := by
  by_cases h : (s.eng fe).post = []
  · exact congrArg (·.fine.woven) (if_pos h : s.postBatch fe = s)
  · rw [State.postBatch, if_neg h, State.woven_seqAll_postDone, State.woven_modEng]

@[simp] theorem State.woven_flushQ : (s.flushQ fe).fine.woven = s.fine.woven :=
  (State.woven_seqAll_postDone _ fe _ _).trans (s.woven_modEng fe _)

@[simp] theorem State.woven_closeBatch (forced : Bool) (need : List Nat) :
    (s.closeBatch fe forced need).fine.woven = s.fine.woven := s.woven_modEng fe _

/-- A batch of the Fine loom that ends without a commit returns the standby maps to the active ones (R84, R127). -/
@[simp] theorem State.woven_dropBatch (status : Byte) :
    (s.dropBatch true status).fine.woven = { s.fine.woven with stb := s.fine.act } :=
  State.woven_seqAll_postDone _ true _ _

@[simp] theorem State.woven_counted (c : QCmd) (need : List Nat) : (s.counted fe c need).fine.woven = s.fine.woven := by
  rcases s.counted_cases fe c need with h | ⟨forced, h⟩ <;> rw [h] <;> simp

@[simp] theorem State.woven_addBatch (c : QCmd) (d : Done) (moved : Nat) (once need : List Nat) :
    (s.addBatch fe c d moved once need).fine.woven = s.fine.woven := by
  rcases s.addBatch_cases fe c d moved once need with h | ⟨forced, h⟩ <;> rw [h] <;> simp

theorem State.woven_joinBatch (c : QCmd) (d : Done) (moved : Nat) (once need : List Nat) :
    (s.joinBatch fe c d moved once need).fine.woven = s.fine.woven := by
  rw [State.joinBatch, State.woven_popQ, State.woven_addBatch]

theorem State.woven_failCmd (c : QCmd) (status : Byte) (w2 detail : Nat) (need : List Nat) :
    (s.failCmd fe c status w2 detail need).fine.woven = s.fine.woven := by
  rw [State.failCmd, State.woven_popQ]
  split <;> simp

@[simp] theorem State.woven_cmtClose (c : QCmd) (need : List Nat) : (s.cmtClose fe c need).fine.woven = s.fine.woven := by
  rcases s.cmtClose_cases fe c need with h | h <;> rw [h]
  exact s.woven_closeBatch fe false need

theorem State.woven_takeFence {c : QCmd} {need : List Nat} (hdry : c.dry = false) :
    (s.takeFence fe c need).fine.woven = s.fine.woven := by
  rw [State.takeFence_eq s fe hdry]
  simp

theorem State.woven_takeCommit_open {c : QCmd} {need : List Nat} (hdry : c.dry = false) (hopen : (s.eng fe).isOpen = true) :
    (s.takeCommit fe c need).fine.woven = s.fine.woven := by
  obtain ⟨forced, h⟩ := s.takeCommit_open fe (need := need) hdry hopen
  rw [h]
  simp

/-- The commit's engine side leaves the maps that have changed places (R129). -/
theorem State.woven_engCommit : (s.engCommit fe).fine.woven = s.fine.woven := by
  unfold State.engCommit
  dsimp only
  rw [State.trace_inv _ _ _ _ _ (only_closed [.regs, .pcie, .tst, .out, .free] _) (only_refl _ _) .fine (by decide)]
  simp

/-! ### The Fine loom's operations leave the Treadle -/

theorem State.trd_popQ_fine : (s.popQ true).trd = s.trd := by
  unfold State.popQ State.when
  dsimp only
  split <;> rfl

theorem State.trd_joinBatch_fine (c : QCmd) (d : Done) (moved : Nat) (once need : List Nat) :
    (s.joinBatch true c d moved once need).trd = s.trd := by
  rw [State.joinBatch, State.trd_popQ_fine]
  rcases s.addBatch_cases true c d moved once need with h | ⟨forced, h⟩ <;> rw [h] <;> rfl

end

/-! ### Commands at the head of the Fine loom's queue -/

section
variable {s : State} {c : QCmd} {rest : List QCmd} {op : Nat} {w2 : QCmd → Nat} {run : State → FMaps → QCmd → RunRes FMaps}

/-- A thread command that runs with success joins the batch with its maps on standby (R127). -/
theorem State.fineCmd_ok {f : FMaps} {x n : Nat} {once : List Nat} (hq : s.fine.eng.q = c :: rest) (hop : c.op = op) (hdry : c.dry = false)
    (hcom : s.fine.eng.committing = false) (hown : s.fine.eng.isOpen = true → s.fine.eng.owner = c.win)
    (hrun : run s s.fineWork c = .ok f x n once) :
    let u := (s.modFine (fun x => { x with stb := f })).modFe (fun e => { e with wrote := e.wrote ++ threadWrote s.fineWork f c })
    s.fineCmd op w2 run = u.joinBatch true c (mkDone c 0 (w2 c) 0) 0 once [] := by
  unfold State.fineCmd
  rw [hq]
  simp [hop, State.foreignClose_own (s := s) (fe := true) hown, hcom, hdry, hrun]

/-- A thread command that fails completes at once (R93). -/
theorem State.fineCmd_fail {status : Byte} {detail : Nat} (hq : s.fine.eng.q = c :: rest) (hop : c.op = op)
    (hcom : s.fine.eng.committing = false) (hown : s.fine.eng.isOpen = true → s.fine.eng.owner = c.win)
    (hrun : run s s.fineWork c = .fail status detail) : s.fineCmd op w2 run = s.failCmd true c status (w2 c) detail [] := by
  unfold State.fineCmd
  rw [hq]
  simp [hop, State.foreignClose_own (s := s) (fe := true) hown, hcom, hrun]

/-- A command that changes no map is taken in every state (R85). -/
theorem State.fineFree_own {take : State → QCmd → State} (hq : s.fine.eng.q = c :: rest) (hop : c.op = op)
    (hown : s.fine.eng.isOpen = true → s.fine.eng.owner = c.win) : s.fineFree op take = take s c := by
  unfold State.fineFree
  rw [hq]
  exact (if_pos hop).trans (congrArg (take · c) (State.foreignClose_own (s := s) (fe := true) hown))

/-- What a thread command that succeeds leaves (R83, R92, R93, R127). -/
theorem State.fineCmd_ok_joins {f : FMaps} {x n : Nat} {once : List Nat} (hq : s.fine.eng.q = c :: rest) (hdry : c.dry = false)
    (hown : s.fine.eng.isOpen = true → s.fine.eng.owner = c.win) (hcom : s.fine.eng.committing = false) (hop : c.op = op)
    (hrun : run s s.fineWork c = .ok f x n once) :
    ∃ t, Host.Outcome.next (s.fineCmd op w2 run) = (.next t : Out) ∧ t.fine.stb = f ∧ t.fine.act = s.fine.act ∧
      t.fine.eng.q = rest ∧ (t.fine.eng.st = .build ∨ t.fine.eng.st = .armed) ∧
      t.fine.eng.batch.length = s.fine.eng.batch.length + 1 ∧ t.fine.eng.once = s.fine.eng.once ++ once ∧ t.loom = s.loom ∧
      t.trd = s.trd := by
  refine ⟨_, congrArg _ (State.fineCmd_ok hq hop hdry hcom hown hrun), ?_⟩
  generalize hu : (s.modFine (fun x => { x with stb := f })).modFe (fun e =>
    { e with wrote := e.wrote ++ threadWrote s.fineWork f c }) = u
  obtain ⟨hqueue, hst, hbatch, -, -, honce⟩ := u.joinBatch_eng true c (mkDone c 0 (w2 c) 0) 0 once []
  obtain ⟨hstb, hact⟩ := Fine.maps_of_woven (u.woven_joinBatch true c (mkDone c 0 (w2 c) 0) 0 once [])
  have hloom := u.joinBatch_only true c (mkDone c 0 (w2 c) 0) 0 once [] .loom (by decide)
  have htrd := u.trd_joinBatch_fine c (mkDone c 0 (w2 c) 0) 0 once []
  subst hu
  exact ⟨hstb, hact, hqueue.trans (congrArg (List.drop 1) hq), hst, hbatch, honce, hloom, htrd⟩

/-- TQUERY completes at once with the active entry (R126, R128). -/
theorem exec_tquery_own (hq : s.fine.eng.q = c :: rest) (hop : c.op = 0x0C) (hdry : c.dry = false) (hcmt : c.cmt = false)
    (hend : s.tFail c.dstT true = none) (hown : s.fine.eng.isOpen = true → s.fine.eng.owner = c.win) :
    exec .tquery s = .next ((s.postDone true
      (mkDone c 0 c.dstT ((s.fine.act.outE c.dstT).setWidth 32).toNat)).popQ true) := by
  refine congrArg Host.Outcome.next ((State.fineFree_own hq hop hown).trans ?_)
  simp [State.doTquery, hend, hdry, State.cmtClose_without _ _ hcmt]

/-! ### What the thread commands do to the maps (R122, R123) -/

variable {f f' : FMaps} {x n : Nat} {once : List Nat}

theorem FMaps.outE_setOut_same (f : FMaps) (t : Nat) (v : BitVec 64) : (f.setOut t v).outE t = v := smGet_smPut_same 0 f.out t v

/-- An admitted thread leaves the output with its source, the MODE asked for and the output's tenant. -/
theorem State.runT_ok {a d mode : Nat} (hrun : s.runT f a d mode = .ok f' x n once) :
    ∃ xg xs, f'.outE d = mkOut a mode xg (s.threadTen true d) xs := by
  unfold State.runT at hrun
  split at hrun
  · cases hrun
  split at hrun
  · cases hrun
  · cases hrun
    exact ⟨_, _, FMaps.outE_setOut_same _ _ _⟩

/-- A TCONNECT that succeeds found both ends assigned and the output unconnected. -/
theorem State.doTconnect_ok (hrun : s.doTconnect f c = .ok f' x n once) :
    outMode (f.outE c.dstT) = 0 ∧ s.runT f c.srcT c.dstT 1 = .ok f' x n once := by
  unfold State.doTconnect at hrun
  split at hrun
  · cases hrun
  split at hrun
  · cases hrun
  split at hrun
  · cases hrun
  · exact ⟨Decidable.of_not_not ‹_›, hrun⟩

theorem State.doTdisconnect_unconnected (hend : s.tFail c.dstT true = none) (hmode : outMode (f.outE c.dstT) = 0) :
    s.doTdisconnect f c = .fail 0x13 c.dstT := by
  simp [State.doTdisconnect, State.onOut, hend, hmode]

end

/-- Settles O15: the eight commands run the same way, each with its own checks. -/
theorem threadMapCommands : Obligations.ThreadMapCommands := by
  intro s c rest hq hdry hown
  refine ⟨fun f x n once hcom => ?_, fun hop hcmt hend => exec_tquery_own hq hop hdry hcmt hend hown,
    fun f' x n once hrun => ?_, State.doTdisconnect_unconnected⟩
  · have joins := fun op w2 run => State.fineCmd_ok_joins (op := op) (w2 := w2) (run := run) (f := f) (x := x) (n := n) (once := once)
      hq hdry hown hcom
    exact ⟨joins 0x01 QCmd.dstT State.doTconnect, joins 0x02 QCmd.dstT State.doTdisconnect, joins 0x04 QCmd.dstT State.doTreconnect,
      joins 0x05 QCmd.dstT (fun s f c => s.doTmode f c 2), joins 0x06 QCmd.dstT (fun s f c => s.doTmode f c 3),
      joins 0x07 QCmd.dstT (fun s f c => s.doTmode f c 1), joins 0x0B QCmd.srcT State.doTretagIn,
      joins 0x0E QCmd.dstT State.doTretagOut⟩
  · obtain ⟨hmode, hconn⟩ := State.doTconnect_ok hrun
    exact ⟨hmode, State.runT_ok hconn⟩

end Sys2Proof.Machine

/-! SUPPORT. What the Fine loom's queue commands leave: enqueuing, COMMIT, ABORT, FENCE, bad opcodes, the commit, and the posting of completions
(R125-R130, R140). -/
namespace Sys2Proof.Machine

section
variable {s : State} {c : QCmd} {rest : List QCmd}

/-! ### A batch that ends without a commit (R84, R127) -/

theorem Fine.maps_of_returned {t f : Fine} (h : t.woven = { f.woven with stb := f.act }) : t.stb = f.act ∧ t.act = f.act :=
  ⟨(Fine.field_of_woven Fine.stb (fun _ => rfl) h :), (Fine.field_of_woven Fine.act (fun _ => rfl) h :)⟩

/-- The fences that waited for the batch are posted: what the Fine loom then holds (R85, R95). -/
theorem State.endBatch_fine (s : State) (status : Byte) :
    let t := (s.dropBatch true status).postFences true
    t.fine.stb = s.fine.act ∧ t.fine.act = s.fine.act ∧ (s.fine.eng.st = .build → t.fine.eng.st = .idle) ∧
      t.fine.eng.isOpen = false ∧ t.fine.eng.batch = [] ∧ t.fine.eng.q = s.fine.eng.q := by
  have hcore := (s.dropBatch true status).core_postFences true
  have hwoven := (s.dropBatch true status).woven_postFences true
  rw [State.core_dropBatch] at hcore
  rw [State.woven_dropBatch] at hwoven
  obtain ⟨hstb, hact⟩ := Fine.maps_of_returned hwoven
  obtain ⟨hst, hshut, -, hbatch, hqueue⟩ := Engine.dropped_fenced_facts (t := ((s.dropBatch true status).postFences true).fine.eng) hcore
  exact ⟨hstb, hact, fun hb => hst.trans (Engine.st_dropped_build hb), hshut, hbatch, hqueue⟩

/-- ABORT has left the Fine loom's queue and ended the open batch (R91, R95, R126). -/
theorem State.takeAbort_fine (hq : s.fine.eng.q = c :: rest) (hdry : c.dry = false) (hopen : s.fine.eng.isOpen = true) :
    let t := s.takeAbort true c
    (s.fine.eng.st = .build → t.fine.eng.st = .idle) ∧ t.fine.eng.isOpen = false ∧ t.fine.eng.q = rest ∧ t.fine.eng.batch = [] ∧
      t.fine.stb = s.fine.act ∧ t.fine.act = s.fine.act := by
  obtain ⟨hstb, hact, hst, hshut, hbatch, hqueue⟩ := (s.popQ true).endBatch_fine 0x1C
  obtain ⟨-, hpopped⟩ := Fine.maps_of_woven (s.woven_popQ true)
  dsimp only
  rw [State.takeAbort_open s true hdry hopen]
  generalize ((s.popQ true).dropBatch true 0x1C).postFences true = u at hstb hact hst hshut hbatch hqueue ⊢
  have hcore := u.core_postDone true (mkDone c 0 0 0)
  obtain ⟨hsameStb, hsameAct⟩ := Fine.maps_of_woven (u.woven_postDone true (mkDone c 0 0 0))
  refine ⟨fun hb => ?_, ?_, ?_, ?_, hsameStb.trans (hstb.trans hpopped), hsameAct.trans (hact.trans hpopped)⟩
  · exact (Engine.field_of_core Engine.st (fun _ => rfl) hcore :).trans (hst ((s.st_popQ true).trans hb))
  · exact (Engine.field_of_core Engine.isOpen (fun _ => rfl) hcore :).trans hshut
  · exact (Engine.field_of_core Engine.q (fun _ => rfl) hcore :).trans (hqueue.trans ((s.q_popQ true).trans (congrArg (List.drop 1) hq)))
  · exact (Engine.field_of_core Engine.batch (fun _ => rfl) hcore :).trans hbatch

/-! ### Writes of the Fine loom's registers (R125, R140) -/

section
variable {m : Mid} {w : Fin 4} {v : Word}

theorem exec_fineEnqueue_reaches (h : reaches s m (fineA (0x11C + 0x20 * w.val))) :
    exec (.fineEnqueue m w v) s = .next (((s.setReg (engA true (0x11C + 0x20 * w.val)) v).enqueue true w.val).answer 0) := by
  refine congrArg Host.Outcome.next ((s.write4_reaches h).trans ?_)
  rw [State.windowWrite_last]

/-- With 512 commands waiting the words are dropped, counted and raised (R125). -/
theorem exec_fineEnqueue_full (h : reaches s m (fineA (0x11C + 0x20 * w.val))) (hfull : 512 ≤ s.fine.eng.q.length) :
    exec (.fineEnqueue m w v) s =
      .next ((((s.setReg (engA true (0x11C + 0x20 * w.val)) v).incReg (engA true 0x54)).irq (engA true 0) 8).answer 0) := by
  rw [exec_fineEnqueue_reaches h, State.enqueue_full (s.setReg (engA true (0x11C + 0x20 * w.val)) v) true hfull]

theorem exec_fineAbortOpen_reaches (h : reaches s m (fineA 0x58)) (hopen : s.fine.eng.isOpen = true) :
    exec (.fineAbortOpen m) s = .next (((s.dropBatch true 0x1C).postFences true).answer 0) := by
  refine congrArg Host.Outcome.next ((s.write4_reaches h).trans ?_)
  rw [← State.abortOpen_open s true hopen]
  rfl

theorem exec_fineFlushQ_reaches (h : reaches s m (fineA 0x58)) : exec (.fineFlushQ m) s = .next ((s.flushQ true).answer 0) :=
  congrArg Host.Outcome.next (s.write4_reaches h)

/-- Enqueuing moves no map. -/
theorem State.woven_enqueue (fe : Bool) (win : Nat) : (s.enqueue fe win).fine.woven = s.fine.woven := by
  unfold State.enqueue State.when State.latchCfg
  dsimp only
  repeat' split
  all_goals simp [State.incReg]

end

/-! ### The batch limit, and the commands at the queue head -/

theorem exec_fineBatchTimeout_due (hopen : s.fine.eng.isOpen = true) (hdue : s.batchTmo true ≤ since s.bolt s.fine.eng.lastAdd) :
    exec .fineBatchTimeout s = .next (((s.dropBatch true 0x1C).postFences true).irq (fineA 0) 0x80) :=
  congrArg Host.Outcome.next (if_pos ⟨hopen, hdue⟩)

theorem exec_fineCommit_own (hq : s.fine.eng.q = c :: rest) (hop : c.op = 0x08)
    (hown : s.fine.eng.isOpen = true → s.fine.eng.owner = c.win) : exec .fineCommit s = .next (s.takeCommit true c []) :=
  congrArg Host.Outcome.next (State.fineFree_own hq hop hown)

theorem exec_fineAbort_own (hq : s.fine.eng.q = c :: rest) (hop : c.op = 0x09)
    (hown : s.fine.eng.isOpen = true → s.fine.eng.owner = c.win) : exec .fineAbort s = .next (s.takeAbort true c) :=
  congrArg Host.Outcome.next (State.fineFree_own hq hop hown)

theorem exec_fineFence_own (hq : s.fine.eng.q = c :: rest) (hop : c.op = 0x0D)
    (hown : s.fine.eng.isOpen = true → s.fine.eng.owner = c.win) : exec .fineFence s = .next (s.takeFence true c []) :=
  congrArg Host.Outcome.next (State.fineFree_own hq hop hown)

/-- An opcode outside the table of R126 fails the head. -/
theorem exec_fineBadOpcode_own (hq : s.fine.eng.q = c :: rest) (hop : c.op ∉ [1, 2, 4, 5, 6, 7, 8, 9, 0xB, 0xC, 0xD, 0xE])
    (hcom : s.fine.eng.committing = false) (hown : s.fine.eng.isOpen = true → s.fine.eng.owner = c.win) :
    exec .fineBadOpcode s = .next (s.failCmd true c 0x10 c.dstT 0 []) := by
  have hexec : exec .fineBadOpcode s = .next (s.fineCmd c.op QCmd.dstT (fun _ _ _ => .fail 0x10 0)) := by
    show execFineBadOpcode s = _
    simp only [execFineBadOpcode, hq, if_neg hop]
  rw [hexec, State.fineCmd_fail hq rfl hcom hown rfl]

/-! ### The commit and the completions (R129, R130) -/

theorem exec_fineLoomCommit_due (h : s.fineDue = true) : exec .fineLoomCommit s = .next s.fineCommit := congrArg Host.Outcome.next (if_pos h)

theorem exec_fineLoomCommit_other (h : s.fineDue = false) : exec .fineLoomCommit s = .next s :=
  congrArg Host.Outcome.next (if_neg (by simp [h]))

/-- ONCE grants are no part of the Fine loom. -/
theorem State.fine_clearOnce (s : State) (l : List Nat) : (s.clearOnce l).fine = s.fine :=
  State.clearOnce_inv l (only_closed [.regs] s) (only_refl _ _) .fine (by decide)

/-- The Fine loom whose maps have changed places: the old ones stay as the previous ones, and what the batch wrote is marked no more. -/
def Fine.swapped (f : Fine) : Fine :=
  { f with act := f.stb, stb := f.act, prev := f.act, phys := !f.phys, ecc := unmark f.ecc f.eng.wrote }

theorem State.fineCommit_eq (s : State) :
    s.fineCommit = ((s.clearOnce s.fine.eng.once).modFine Fine.swapped).engCommit true := by
  unfold State.fineCommit
  simp only [State.modFine, Fine.swapped, State.fine_clearOnce]

/-- A commit swaps the maps, and leaves the engine in SYNC with no batch. -/
theorem State.fineCommit_facts (s : State) :
    let t := s.fineCommit
    t.fine.act = s.fine.stb ∧ t.fine.stb = s.fine.act ∧ t.fine.prev = s.fine.act ∧ t.fine.phys = !s.fine.phys ∧
      t.fine.eng.st = .sync ∧ t.fine.eng.batch = [] := by
  dsimp only
  rw [State.fineCommit_eq]
  generalize hu : (s.clearOnce s.fine.eng.once).modFine Fine.swapped = u
  have hfine : u.fine = s.fine.swapped := by
    rw [← hu, State.modFine, State.fine_clearOnce]
  have hcore := u.core_engCommit true
  have hwoven := u.woven_engCommit true
  rw [hfine] at hwoven
  exact ⟨(Fine.field_of_woven Fine.act (fun _ => rfl) hwoven :), (Fine.field_of_woven Fine.stb (fun _ => rfl) hwoven :),
    (Fine.field_of_woven Fine.prev (fun _ => rfl) hwoven :), (Fine.field_of_woven Fine.phys (fun _ => rfl) hwoven :),
    (Engine.field_of_core Engine.st (fun _ => rfl) hcore :), (Engine.field_of_core Engine.batch (fun _ => rfl) hcore :)⟩

/-- Once a batch's completions are posted none is left to post. -/
theorem Engine.post_posted (e : Engine) : e.posted.post = [] := by
  unfold Engine.posted
  split
  · assumption
  · rfl

theorem State.finePost_facts (h : s.fine.eng.st = .sync) :
    let t := s.finePost
    t.fine.stb = s.fine.act ∧ t.fine.act = s.fine.act ∧ t.fine.eng.st = .idle ∧ t.fine.eng.copied = true ∧ t.fine.eng.post = [] := by
  have hcore := (s.modFine (fun f => { f with stb := f.act })).core_postBatch true
  obtain ⟨hstb, hact⟩ := Fine.maps_of_woven ((s.modFine (fun f => { f with stb := f.act })).woven_postBatch true)
  dsimp only
  rw [State.finePost, if_pos h]
  exact ⟨hstb, hact, rfl, rfl, (Engine.field_of_core Engine.post (fun _ => rfl) hcore :).trans (Engine.post_posted _)⟩

end

/-- Settles O16, command by command. -/
theorem fineQueueCommands : Obligations.FineQueueCommands := by
  intro s m w v
  refine ⟨fun hr hroom => ?room, fun hr hfull => ?full, fun hr hopen => ?abortOpen, fun hr => ?flush, ?fenceDone,
    fun hsync => ⟨_, rfl, State.finePost_facts hsync⟩, fun hopen hdue => ?timeout,
    fun hdue => ⟨_, exec_fineLoomCommit_due hdue, s.fineCommit_facts⟩, exec_fineLoomCommit_other,
    fun c rest hq hown hdry => ⟨fun hop hopen => ?commit, fun hop hopen => ?abort, fun hop => ?fence, fun hop hcom => ?bad⟩⟩
  case room =>
    obtain ⟨-, -, heng⟩ := (s.setReg (engA true (0x11C + 0x20 * w.val)) v).enqueue_room true (win := w.val) hroom
    obtain ⟨-, hact⟩ := Fine.maps_of_woven
      (State.woven_enqueue (s := s.setReg (engA true (0x11C + 0x20 * w.val)) v) true w.val)
    refine ⟨_, exec_fineEnqueue_reaches hr, ?_, hact⟩
    refine (congrArg Engine.q heng).trans ?_
    rw [State.window_words]
    rfl
  case full =>
    refine ⟨_, exec_fineEnqueue_full hr hfull, ?_, ?_⟩
    · rw [State.answer_fine, State.irq_fine]
      rfl
    · rw [State.reg_answer, State.irq_reg_other _ (by decide)]
      refine (State.reg_incReg_same _ _ _).trans ?_
      rw [State.reg_setReg_other _ _ (engA_ne (by omega))]
      rfl
  case abortOpen =>
    obtain ⟨hstb, hact, hst, hshut, hbatch, hqueue⟩ := s.endBatch_fine 0x1C
    exact ⟨_, exec_fineAbortOpen_reaches hr hopen, hstb, hact, hst, hshut, hbatch, hqueue⟩
  case flush =>
    have hcore := s.core_flushQ true
    obtain ⟨hstb, -⟩ := Fine.maps_of_woven (s.woven_flushQ true)
    exact ⟨_, exec_fineFlushQ_reaches hr, (Engine.field_of_core Engine.q (fun _ => rfl) hcore :),
      (Engine.field_of_core Engine.batch (fun _ => rfl) hcore :), hstb⟩
  case fenceDone =>
    have hcore := s.core_postFences true
    obtain ⟨-, hact⟩ := Fine.maps_of_woven (s.woven_postFences true)
    exact ⟨_, rfl, (Engine.field_of_core Engine.q (fun _ => rfl) hcore :), hact,
      (Engine.field_of_core Engine.fences (fun _ => rfl) hcore :)⟩
  case timeout =>
    obtain ⟨hstb, -, hst, hshut, hbatch, hqueue⟩ := s.endBatch_fine 0x1C
    refine ⟨_, exec_fineBatchTimeout_due hopen hdue, ?_⟩
    rw [State.irq_fine]
    exact ⟨hstb, hst, hshut, hbatch, hqueue⟩
  case commit =>
    obtain ⟨hst, hqueue, -, htarget, -⟩ := s.takeCommit_open_facts true (need := []) hdry hopen
    obtain ⟨hstb, hact⟩ := Fine.maps_of_woven (s.woven_takeCommit_open true (need := []) hdry hopen)
    exact ⟨_, exec_fineCommit_own hq hop hown, hst, hqueue.trans (congrArg (List.drop 1) hq), htarget, hact, hstb⟩
  case abort => exact ⟨_, exec_fineAbort_own hq hop hown, State.takeAbort_fine hq hdry hopen⟩
  case fence =>
    obtain ⟨hqueue, -, hfences⟩ := s.takeFence_facts true (need := []) hdry
    obtain ⟨-, hact⟩ := Fine.maps_of_woven (s.woven_takeFence true (need := []) hdry)
    exact ⟨_, exec_fineFence_own hq hop hown, hqueue.trans (congrArg (List.drop 1) hq), hact, hfences⟩
  case bad =>
    obtain ⟨hqueue, -⟩ := s.failCmd_eng true c 0x10 c.dstT 0 []
    obtain ⟨hstb, hact⟩ := Fine.maps_of_woven (s.woven_failCmd true c 0x10 c.dstT 0 [])
    exact ⟨_, exec_fineBadOpcode_own hq hop hcom hown, hqueue.trans (congrArg (List.drop 1) hq), hstb, hact⟩

end Sys2Proof.Machine

/-! SUPPORT. A sampled pick that the Fine loom copies to two outputs: the copies are marked (R393, R394), so that the rewoven pick is not the
pick as the thread's source holds it. -/
namespace Sys2Proof.Machine

/-- The first pick of input thread 0, sampled at lane 0 of port 0; no copy of it was made before the Fine loom. -/
def sampledPick : Pick :=
  { payload := List.replicate 64 0, kind := .data, samp := some { sid := 1, s0 := 0, bolt := 0, src := 0, rho := 0, sthr := 0 } }

/-- Input and output position 0 assigned, output threads 0 and 1 both connected to input thread 0, whose pick of round 0 waits in the
buffer. -/
def twoOutputs : State :=
  { State.reset with
    regs := [(0x902000, 3)]
    fine := { act := { out := [(0, mkOut 0 1 false 0 0), (1, mkOut 0 1 false 0 0)] }, buf := [(0, [⟨sampledPick, 0⟩])] } }

/-- Copies of the pick were made, as its sample tells. -/
def Pick.copied (p : Pick) : Option Bool := p.samp.map Sample.mc

theorem twoOutputs_threadPick : (twoOutputs.closeBoundary.threadPick 0 250).1 = sampledPick := by decide +kernel

/-- The output's rewoven pick is marked as one of several copies. -/
theorem twoOutputs_rewoven_copied : (smGet {} (twoOutputs.closeBoundary.threadRead 0 250 0).fine.outp 0).copied = some true := by
  decide +kernel

theorem exec_threadPickRead_twoOutputs :
    exec (.threadPickRead 0 250 0) twoOutputs = .next (twoOutputs.closeBoundary.threadRead 0 250 0) := rfl

/-- Refutes O17: a sampled pick that two output threads name leaves the interchange with its sample marked as copied, which the source's pick
is not. -/
theorem not_fineLoomData : ¬ Obligations.FineLoomData := by
  intro h
  obtain ⟨-, -, -, -, hread, -⟩ := h twoOutputs 0
  obtain ⟨t, ht, hpick, -⟩ := hread 0 250 0 (by decide) (by decide) (by decide)
  rw [exec_threadPickRead_twoOutputs] at ht
  cases ht
  have hcopied := congrArg Pick.copied (hpick.trans twoOutputs_threadPick)
  exact absurd (twoOutputs_rewoven_copied.symm.trans hcopied) (by decide)

end Sys2Proof.Machine

/-! SUPPORT. Fields and bits of words: what a field reads after it, or one below it, was written; bits of AND, OR and of a set bit. -/
namespace Sys2Proof.Machine

/-! ### Fields and bits of a word -/

section
variable {n : Nat} (w : BitVec n)

theorem fld_eq (lo len : Nat) : fld w lo len = w.toNat / 2 ^ lo % 2 ^ len := by rw [fld, Nat.shiftRight_eq_div_pow]

theorem bit_eq_fld (i : Nat) : bit w i = decide (fld w i 1 = 1) := by
  rw [bit, fld_eq, Nat.testBit_eq_decide_div_mod_eq, Nat.pow_one]

theorem testBit_fld (lo len j : Nat) : (fld w lo len).testBit j = (decide (j < len) && bit w (lo + j)) := by
  rw [fld, Nat.testBit_mod_two_pow, Nat.testBit_shiftRight, bit]

theorem bit_or (v : BitVec n) (i : Nat) : bit (w ||| v) i = (bit w i || bit v i) := by simp [bit]

theorem bit_and (v : BitVec n) (i : Nat) : bit (w &&& v) i = (bit w i && bit v i) := by simp [bit]

/-- A word written in one field is what stands above it, the field, and what stands below it. -/
theorem toNat_setFld {lo len : Nat} (h : lo + len ≤ n) (v : Nat) :
    (setFld w lo len v).toNat = (w.toNat / 2 ^ (lo + len) * 2 ^ len + v % 2 ^ len) * 2 ^ lo + w.toNat % 2 ^ lo := by
  have hhigh : w.toNat / 2 ^ (lo + len) * 2 ^ len + fld w lo len = w.toNat / 2 ^ lo := by
    rw [fld_eq, Nat.pow_add, ← Nat.div_div_eq_div_mul]
    exact Nat.div_add_mod' _ _
  have hwhole : (w.toNat / 2 ^ (lo + len) * 2 ^ len + fld w lo len) * 2 ^ lo + w.toNat % 2 ^ lo = w.toNat := by
    rw [hhigh]
    exact Nat.div_add_mod' _ _
  have hlt : (w.toNat / 2 ^ (lo + len) * 2 ^ len + v % 2 ^ len) * 2 ^ lo + w.toNat % 2 ^ lo < 2 ^ n := by
    have hv : v % 2 ^ len < 2 ^ len := Nat.mod_lt _ (Nat.two_pow_pos _)
    have hlow : w.toNat % 2 ^ lo < 2 ^ lo := Nat.mod_lt _ (Nat.two_pow_pos _)
    have htop : w.toNat / 2 ^ (lo + len) + 1 ≤ 2 ^ (n - (lo + len)) :=
      Nat.div_lt_of_lt_mul (by rw [← Nat.pow_add, Nat.add_sub_cancel' h]; exact w.isLt)
    calc _ < (w.toNat / 2 ^ (lo + len) * 2 ^ len + v % 2 ^ len + 1) * 2 ^ lo := by rw [Nat.succ_mul]; omega
      _ ≤ (w.toNat / 2 ^ (lo + len) + 1) * 2 ^ len * 2 ^ lo := Nat.mul_le_mul_right _ (by rw [Nat.succ_mul]; omega)
      _ ≤ 2 ^ (n - (lo + len)) * 2 ^ len * 2 ^ lo := Nat.mul_le_mul_right _ (Nat.mul_le_mul_right _ htop)
      _ = 2 ^ n := by rw [← Nat.pow_add, ← Nat.pow_add]; congr 1; omega
  have hval : w.toNat - fld w lo len * 2 ^ lo + v % 2 ^ len * 2 ^ lo =
      (w.toNat / 2 ^ (lo + len) * 2 ^ len + v % 2 ^ len) * 2 ^ lo + w.toNat % 2 ^ lo := by
    rw [Nat.add_mul] at hwhole ⊢
    omega
  rw [setFld, BitVec.toNat_ofNat, hval, Nat.mod_eq_of_lt hlt]

theorem fld_setFld_same {lo len : Nat} (h : lo + len ≤ n) (v : Nat) : fld (setFld w lo len v) lo len = v % 2 ^ len := by
  rw [fld_eq, toNat_setFld w h, Nat.mul_comm _ (2 ^ lo), Nat.mul_add_div (Nat.two_pow_pos _), Nat.div_eq_of_lt (Nat.mod_lt _ (Nat.two_pow_pos _)),
    Nat.add_zero, Nat.mul_add_mod', Nat.mod_mod]

/-- A field above the one written keeps its value. -/
theorem fld_setFld_above {lo len lo' : Nat} (len' : Nat) (h : lo + len ≤ n) (hab : lo + len ≤ lo') (v : Nat) :
    fld (setFld w lo len v) lo' len' = fld w lo' len' := by
  have hdiv : (setFld w lo len v).toNat / 2 ^ (lo + len) = w.toNat / 2 ^ (lo + len) := by
    rw [toNat_setFld w h, Nat.pow_add, ← Nat.div_div_eq_div_mul, Nat.mul_comm _ (2 ^ lo), Nat.mul_add_div (Nat.two_pow_pos _),
      Nat.div_eq_of_lt (Nat.mod_lt (w.toNat) (Nat.two_pow_pos _)), Nat.add_zero, Nat.mul_comm _ (2 ^ len), Nat.mul_add_div (Nat.two_pow_pos _),
      Nat.div_eq_of_lt (Nat.mod_lt v (Nat.two_pow_pos _)), Nat.add_zero]
  obtain ⟨k, rfl⟩ := Nat.exists_eq_add_of_le hab
  rw [fld_eq, fld_eq, Nat.pow_add _ (lo + len) k, ← Nat.div_div_eq_div_mul, ← Nat.div_div_eq_div_mul, hdiv]

theorem bit_setBit_true {i : Nat} (h : i < n) : bit (setBit w i true) i = true := by
  rw [bit_eq_fld, setBit, fld_setFld_same w h]
  rfl

end
end Sys2Proof.Machine

/-! SUPPORT. Events and PROT_EVQ: what an event, a trace record and a group's entry in the queue leave of the protection state and the registers
(R184, R185, R405, R456). -/
namespace Sys2Proof.Machine

theorem atLeast1_eq_max (n : Nat) : atLeast1 n = max 1 n := by
  unfold atLeast1
  split <;> omega

/-! ### Addresses of the protection pages (R186, R190) -/

theorem recA_ne_protA (g : Nat) : recA g 0 ≠ protA 0x20 := by
  unfold recA protA
  omega

/-- The writable bits of PROT_APS_FAR (R190). -/
theorem writeMask_apsFar {g : Nat} (hg : g < 8192) : writeMask (apsA g 8) = 0xF1FFF := by
  have ha : 0xA50000 ≤ apsA g 8 ∧ apsA g 8 < 0xA70000 := by unfold apsA; omega
  have hi : (apsA g 8 - 0xA50000) / 16 = g := by unfold apsA; omega
  have hm : apsA g 8 % 16 = 8 := by unfold apsA; omega
  have hl : locate (apsA g 8) = some (.protAps, g, 8) := by
    unfold locate
    dsimp only
    rw [hi, hm]
    repeat rw [if_neg (by omega)]
    rw [if_pos (by omega)]
    repeat rw [if_neg (by omega)]
    rw [if_pos (by omega)]
  rw [writeMask, hl]
  rfl

/-! ### Tenant notes, trace records and Tally counts -/

section
variable (s : State)

@[simp] theorem State.prot_noteTen (e : TenEvent) (once : Bool) : (s.noteTen e once).prot = s.prot :=
  s.noteTen_only e once .prot (by decide)

@[simp] theorem State.prot_trace (c kind src : Nat) (d0 d1 : Word) : (s.trace c kind src d0 d1).prot = s.prot :=
  State.trace_inv c kind src d0 d1 (only_closed [.regs, .pcie, .tst, .out, .free] s) (only_refl _ _) .prot (by decide)

@[simp] theorem State.reg_pushTrace (r : TraceRec) (a : Nat) : (s.pushTrace r).reg a = s.reg a := rfl

@[simp] theorem State.reg_pushLost (a : Nat) : s.pushLost.reg a = s.reg a := by
  have h : s.pushLost.regs = s.regs := State.pushLost_inv (only_closed [.tst, .free] s) (only_refl _ _) .regs (by decide)
  rw [State.reg, State.reg, h]

@[simp] theorem State.reg_triggerTrace (a : Nat) : s.triggerTrace.reg a = s.reg a := by
  unfold State.triggerTrace
  split <;> rfl

/-- A record shows in the registers of the test page alone. -/
theorem State.reg_record_other (kind src clk : Nat) (d0 d1 : Word) {a : Nat} (hirq : a ≠ tstA 0x10) (hlost : a ≠ tstA 0x88) :
    (s.record kind src clk d0 d1).reg a = s.reg a := by
  have hraw : a ≠ tstA 0 + 0x10 := hirq
  unfold State.record
  dsimp only
  repeat' split
  all_goals simp [State.irq_reg_other _ hraw, State.reg_incReg_other _ _ hlost]

theorem State.reg_trace_other (c kind src : Nat) (d0 d1 : Word) {a : Nat} (hirq : a ≠ tstA 0x10) (hlost : a ≠ tstA 0x88) :
    (s.trace c kind src d0 d1).reg a = s.reg a := by
  unfold State.trace
  split
  · exact s.reg_record_other _ _ _ _ _ hirq hlost
  · rfl

@[simp] theorem State.prot_count (cls idx ctr n : Nat) : (s.count cls idx ctr n).prot = s.prot := rfl
@[simp] theorem State.grp_count (cls idx ctr n j : Nat) : (s.count cls idx ctr n).grp j = s.grp j := rfl

/-! ### Events -/

/-- An event's bit stands in its page's IRQ_RAW. -/
theorem State.bit_irq_raised {p b i : Nat} (h : bit (w32 b) i = true) : bit ((s.irq p b).reg (p + 0x10)) i = true := by
  rw [State.irq_reg, if_pos rfl, bit_or, h, Bool.or_true]

/-- An event takes no bit away. -/
theorem State.bit_irq_kept {a i : Nat} (p b : Nat) (h : bit (s.reg a) i = true) : bit ((s.irq p b).reg a) i = true := by
  rw [State.irq_reg]
  split
  · rw [bit_or, h, Bool.true_or]
  · exact h

/-! ### PROT_EVQ (R184) -/

/-- Of the protection state, entering PROT_EVQ changes the queue alone. -/
theorem State.prot_evqPush (g : Nat) :
    (s.evqPush g).prot = { s.prot with evq := if g ∈ s.prot.evq then s.prot.evq else s.prot.evq ++ [g] } := by
  unfold State.evqPush
  dsimp only
  rw [State.prot_noteTen]
  split
  · rw [State.prot_noteTen]
  · rw [State.prot_trace, State.irq_prot, State.modProt, State.prot_noteTen]

@[simp] theorem State.grp_evqPush (g j : Nat) : (s.evqPush g).grp j = s.grp j := by simp [State.grp, State.prot_evqPush]

/-- No register above PROT_IRQ_RAW changes. -/
theorem State.reg_evqPush_above (g : Nat) {a : Nat} (h : protA 0x10 < a) : (s.evqPush g).reg a = s.reg a := by
  have hirq : a ≠ tstA 0x10 := by unfold protA at h; unfold tstA; omega
  have hlost : a ≠ tstA 0x88 := by unfold protA at h; unfold tstA; omega
  unfold State.evqPush
  dsimp only
  split
  · rw [State.reg_noteTen]
  · rw [State.reg_trace_other _ _ _ _ _ _ hirq hlost, State.irq_reg_other _ (show a ≠ protA 0 + 0x10 from (Nat.ne_of_lt h).symm),
      State.reg_modProt, State.reg_noteTen]

/-- The events of PROT_IRQ_RAW stay. -/
theorem State.bit_evqPush (g : Nat) {i : Nat} (h : bit (s.reg (protA 0x10)) i = true) :
    bit ((s.evqPush g).reg (protA 0x10)) i = true := by
  unfold State.evqPush
  dsimp only
  split
  · rwa [State.reg_noteTen]
  · rw [State.reg_trace_other _ _ _ _ _ _ (by decide) (by decide)]
    exact State.bit_irq_kept _ _ _ (by rwa [State.reg_modProt, State.reg_noteTen])

/-- A change made to a group, and the group in PROT_EVQ where it shows there. -/
theorem State.noted_cases (g : Nat) (f : State → State) : s.noted g f = f s ∨ s.noted g f = (f s).evqPush g := by
  unfold State.noted
  dsimp only
  split
  · exact .inl rfl
  · exact .inr rfl

variable (g : Nat) (f : State → State)

@[simp] theorem State.grp_noted (j : Nat) : (s.noted g f).grp j = (f s).grp j := by
  rcases s.noted_cases g f with h | h <;> simp [h]

@[simp] theorem State.chgq_noted : (s.noted g f).prot.chgq = (f s).prot.chgq := by
  rcases s.noted_cases g f with h | h <;> simp [h, State.prot_evqPush]

theorem State.reg_noted_above {a : Nat} (h : protA 0x10 < a) : (s.noted g f).reg a = (f s).reg a := by
  rcases s.noted_cases g f with hn | hn
  · rw [hn]
  · rw [hn, State.reg_evqPush_above _ _ h]

theorem State.bit_noted {i : Nat} (h : bit ((f s).reg (protA 0x10)) i = true) : bit ((s.noted g f).reg (protA 0x10)) i = true := by
  rcases s.noted_cases g f with hn | hn <;> rw [hn]
  · exact h
  · exact State.bit_evqPush _ _ h

end

end Sys2Proof.Machine

/-! SUPPORT. Writes of a group's registers, its commands, the two queues and SELV_CFG (R150, R154, R184, R192). -/
namespace Sys2Proof.Machine

/-! ### Writes of a group's registers (R150, R154) -/

section
variable (s : State) {g : Nat} (m : Mid) (v : Word)

/-- A word whose GCFG fields N, APS_SLOT and TYPE are set to those given (R144). -/
def lockCfg (v : Word) (slot ty : Nat) : Word := setFld (setFld v 6 10 slot) 0 3 ty

theorem lockCfg_slot (slot ty : Nat) : fld (lockCfg v slot ty) 6 10 = slot % 2 ^ 10 := by
  rw [lockCfg, fld_setFld_above _ 10 (by decide) (by decide), fld_setFld_same _ (by decide)]

theorem lockCfg_type (slot ty : Nat) : fld (lockCfg v slot ty) 0 3 = ty % 2 ^ 3 := fld_setFld_same _ (by decide) _

/-- A written PROT_GCFG waits for the boundary (R150). -/
def Grp.cfgWritten (q : Grp) (v : Word) : Grp := { q with cfgPend := true, off := q.off || decide (tyOf v = 0) }

theorem State.gcfgWrite_disabled (h : tyOf (s.reg (recA g 0)) = 0) :
    s.gcfgWrite m g v = (s.setReg (recA g 0) (v &&& w32 (writeMask (recA g 0)))).modGrp g
      (fun q => q.cfgWritten (v &&& w32 (writeMask (recA g 0)))) := by
  unfold State.gcfgWrite
  dsimp only
  rw [if_pos h]
  rfl

/-- A write of PROT_GCFG of an enabled group logs at most, and stores the word with the locked fields as they were. -/
theorem State.gcfgWrite_enabled (h : tyOf (s.reg (recA g 0)) ≠ 0) :
    ∃ u, (u = s ∨ u = s.errlog (protA 0) (recA g 0) m) ∧ s.gcfgWrite m g v =
      (u.setReg (recA g 0) (lockCfg (v &&& w32 (writeMask (recA g 0))) (fld (s.reg (recA g 0)) 6 10)
        (if tyOf (v &&& w32 (writeMask (recA g 0))) = 0 then fld (v &&& w32 (writeMask (recA g 0))) 0 3
          else fld (s.reg (recA g 0)) 0 3))).modGrp g (fun q => q.cfgWritten (v &&& w32 (writeMask (recA g 0)))) := by
  unfold State.gcfgWrite
  dsimp only
  rw [if_neg h]
  refine ⟨_, ?_, rfl⟩
  unfold State.when
  split
  · exact .inr rfl
  · exact .inl rfl

theorem State.reg_errlog_other {a : Nat} (page off : Nat) (h : a ≠ page + 0x20) : (s.errlog page off m).reg a = s.reg a :=
  s.reg_setReg_other _ h

theorem State.gcfgWrite_enabled_facts (h : tyOf (s.reg (recA g 0)) ≠ 0) :
    fld ((s.gcfgWrite m g v).reg (recA g 0)) 6 10 = fld (s.reg (recA g 0)) 6 10 ∧
    (tyOf (v &&& w32 (writeMask (recA g 0))) ≠ 0 →
      fld ((s.gcfgWrite m g v).reg (recA g 0)) 0 3 = fld (s.reg (recA g 0)) 0 3) ∧
    (s.gcfgWrite m g v).grp g = (s.grp g).cfgWritten (v &&& w32 (writeMask (recA g 0))) ∧
    (∀ j, j ≠ g → (s.gcfgWrite m g v).grp j = s.grp j) ∧
    ∀ a, a ≠ recA g 0 → a ≠ protA 0x20 → (s.gcfgWrite m g v).reg a = s.reg a := by
  obtain ⟨u, hu, hw⟩ := s.gcfgWrite_enabled m v h
  obtain ⟨hgrp, hreg⟩ : u.prot = s.prot ∧ ∀ a, a ≠ protA 0x20 → u.reg a = s.reg a := by
    rcases hu with rfl | rfl
    · exact ⟨rfl, fun _ _ => rfl⟩
    · exact ⟨rfl, fun a ha => s.reg_errlog_other m _ _ ha⟩
  rw [hw]
  refine ⟨?slot, fun ht => ?type, ?own, fun j hj => ?other, fun a ha hlog => ?regs⟩
  case slot =>
    rw [State.reg_modGrp, State.reg_setReg_same, lockCfg_slot, fld_eq, Nat.mod_mod]
  case type =>
    rw [State.reg_modGrp, State.reg_setReg_same, lockCfg_type, if_neg ht, fld_eq, Nat.mod_mod]
  case own => rw [State.grp_modGrp_same, State.grp_setReg, State.grp, hgrp, State.grp]
  case other => rw [State.grp_modGrp_other _ _ hj, State.grp_setReg, State.grp, hgrp, State.grp]
  case regs => rw [State.reg_modGrp, State.reg_setReg_other _ _ ha, hreg a hlog]

/-- A group command waits with its code and member (R154). -/
theorem State.gcmd_reaches {code mem : Nat} (h : reaches s m (recA g 0x14)) (hc : code < 8) (hm : mem < 16) :
    s.gcmd m g code mem = (s.modGrp g (fun q => { q with cmds := q.cmds ++ [(code, mem)] })).answer 0 := by
  have hcode : fld (w32 (code + mem * 16)) 0 3 = code := by
    rw [fld_eq, w32, BitVec.toNat_ofNat]
    omega
  have hmem : fld (w32 (code + mem * 16)) 4 4 = mem := by
    rw [fld_eq, w32, BitVec.toNat_ofNat]
    omega
  rw [State.gcmd, State.write4_reaches _ h, State.gcmdWrite, hcode, hmem]

/-! ### SELV_CFG (R192) -/

theorem State.selvWrite_owned (h : ∃ k ∈ s.errorless, s.rb 0xA80040 (s.region k / 2560) = true ∧ bit v (s.region k / 2560) = false) :
    s.selvWrite m v = s.errlog 0xA80000 0x40 m := by
  obtain ⟨k, hk, hon, hoff⟩ := h
  refine if_pos (List.any_eq_true.mpr ⟨k, hk, ?_⟩)
  rw [stackOf, hon, hoff]
  rfl

theorem State.selvWrite_free (h : ∀ k ∈ s.errorless, s.rb 0xA80040 (s.region k / 2560) = true → bit v (s.region k / 2560) = true) :
    s.selvWrite m v = s.setReg 0xA80040 (v &&& 3) := by
  refine (if_neg fun hany => ?_).trans rfl
  obtain ⟨k, hk, hclears⟩ := List.any_eq_true.mp hany
  rw [stackOf, Bool.and_eq_true, Bool.not_eq_true'] at hclears
  exact absurd (h k hk hclears.1) (by simp [hclears.2])

end

/-! ### The commands -/

section
variable {s : State} {m : Mid} {v : Word}

theorem exec_protGcfgWrite_reaches {g : Fin 8192} (h : reaches s m (recA g.val 0)) :
    exec (.protGcfgWrite m g v) s = .next ((s.gcfgWrite m g.val v).answer 0) :=
  congrArg Host.Outcome.next (s.write4_reaches h)

theorem exec_selvCfgWrite_reaches (h : reaches s m 0xA80040) : exec (.selvCfgWrite m v) s = .next ((s.selvWrite m v).answer 0) :=
  congrArg Host.Outcome.next (s.write4_reaches h)

theorem exec_protEvqRead_readable (h : readable s m (protA 0x4C)) :
    exec (.protEvqRead m) s = .next (s.popEvq.2.answer (s.popEvq.1.setWidth 64)) :=
  congrArg Host.Outcome.next (s.access_go h)

theorem exec_protApsChgqRead_readable (h : readable s m (protA 0x50)) :
    exec (.protApsChgqRead m) s = .next (s.popChgq.2.answer (s.popChgq.1.setWidth 64)) :=
  congrArg Host.Outcome.next (s.access_go h)

/-- A change that leaves the protection state as it is leaves the state. -/
theorem State.modProt_of_eq {f : Prot → Prot} (h : f s.prot = s.prot) : s.modProt f = s := by rw [State.modProt, h]

theorem State.popEvq_cons {x : Nat} {l : List Nat} (h : s.prot.evq = x :: l) :
    s.popEvq = (w32 (x + 2 ^ 31), s.modProt (fun p => { p with evq := l })) := by
  simp [State.popEvq, State.modProt, popWord, h]

theorem State.popEvq_nil (h : s.prot.evq = []) : s.popEvq = (0, s) := by
  have hdrop : s.prot.evq.drop 1 = s.prot.evq := by rw [h]; rfl
  have hsame : s.modProt (fun p => { p with evq := p.evq.drop 1 }) = s := State.modProt_of_eq (by rw [hdrop])
  rw [State.popEvq, hsame, h]
  rfl

theorem State.popChgq_cons {x : Nat} {l : List Nat} (h : s.prot.chgq = x :: l) :
    s.popChgq = (w32 (x + 2 ^ 31), s.modProt (fun p => { p with chgq := l })) := by
  simp [State.popChgq, State.modProt, popWord, h]

theorem State.popChgq_nil (h : s.prot.chgq = []) : s.popChgq = (0, s) := by
  have hdrop : s.prot.chgq.drop 1 = s.prot.chgq := by rw [h]; rfl
  have hsame : s.modProt (fun p => { p with chgq := p.chgq.drop 1 }) = s := State.modProt_of_eq (by rw [hdrop])
  rw [State.popChgq, hsame, h]
  rfl

end

/-- Settles O18, register by register. -/
theorem groupRegisterCommands : Obligations.GroupRegisterCommands := by
  intro s m g mem v
  refine ⟨fun hr ht => ?disabled, fun hr ht => ?enabled, fun hr => ?commands, fun hr => congrArg _ (s.write4_reaches hr),
    fun hr => ⟨fun x l hq => ?evq, fun hq => ?evqEmpty⟩, fun hr => ⟨fun x l hq => ?chgq, fun hq => ?chgqEmpty⟩,
    fun hr => ⟨fun h => ?owned, fun h => ?free⟩⟩
  case disabled => rw [exec_protGcfgWrite_reaches hr, s.gcfgWrite_disabled m v ht]; rfl
  case enabled => exact ⟨_, exec_protGcfgWrite_reaches hr, s.gcfgWrite_enabled_facts m v ht⟩
  case commands =>
    have sent (code i : Nat) (hc : code < 8) (hi : i < 16) := congrArg (Host.Outcome.next : State → Out) (s.gcmd_reaches m hr hc hi)
    exact ⟨sent 1 0 (by decide) (by decide), sent 2 0 (by decide) (by decide), sent 3 mem.toNat (by decide) mem.isLt,
      sent 4 mem.toNat (by decide) mem.isLt, sent 5 0 (by decide) (by decide), sent 6 0 (by decide) (by decide),
      sent 7 0 (by decide) (by decide)⟩
  case evq => rw [exec_protEvqRead_readable hr, State.popEvq_cons hq]
  case evqEmpty => rw [exec_protEvqRead_readable hr, State.popEvq_nil hq]; rfl
  case chgq => rw [exec_protApsChgqRead_readable hr, State.popChgq_cons hq]
  case chgqEmpty => rw [exec_protApsChgqRead_readable hr, State.popChgq_nil hq]; rfl
  case owned => rw [exec_selvCfgWrite_reaches hr, s.selvWrite_owned m v h]
  case free => rw [exec_selvCfgWrite_reaches hr, s.selvWrite_free m v h]

end Sys2Proof.Machine

/-! SUPPORT. The APS channel: an accepted message, the FOP causes and the loss of the agent (R165, R166, R167, R190). -/
namespace Sys2Proof.Machine

/-! ### The received message in PROT_APS_FAR (R165, R190) -/

theorem beAt_one_lt (b : List Byte) (i : Nat) : beAt b i 1 < 256 := by
  unfold beAt bytesAt
  cases b.drop i with
  | nil => exact Nat.zero_lt_succ _
  | cons x _ =>
    show 0 * 256 + x.toNat < 256
    have := x.isLt
    omega

/-- The word of PROT_APS_FAR for a received slot: REQ, REQSIG, BRSIG and VALID, the FOP causes `c` 16 and 17 and `d` 19 kept. -/
def farWord (b : List Byte) (c d : Nat) : Word :=
  w32 (beAt b 0 1 / 16 + beAt b 1 1 % 16 * 2 ^ 4 + beAt b 2 1 % 16 * 2 ^ 8 + 2 ^ 12 + c * 2 ^ 16 + d * 2 ^ 19)

theorem farWord_facts (b : List Byte) {c : Nat} (d : Nat) (hc : c < 4) :
    fld (farWord b c d) 0 4 = beAt b 0 1 / 16 ∧ fld (farWord b c d) 4 4 = beAt b 1 1 % 16 ∧
    fld (farWord b c d) 8 4 = beAt b 2 1 % 16 ∧ bit (farWord b c d) 12 = true ∧ bit (farWord b c d) 18 = false := by
  have hreq := beAt_one_lt b 0
  simp only [farWord, bit_eq_fld, fld_eq, w32, BitVec.toNat_ofNat, decide_eq_true_eq, decide_eq_false_iff_not]
  omega

section
variable (s : State) {g i : Nat}

/-! ### FOP causes (R166, R185) -/

theorem protA_lt_apsA (g o : Nat) : protA 0x10 < apsA g o := by
  unfold protA apsA
  omega

theorem bit_writeMask_cause (hg : g < 8192) (h16 : 16 ≤ i) (h20 : i < 20) : bit (w32 (writeMask (apsA g 8))) i = true := by
  rw [writeMask_apsFar hg]
  obtain rfl | rfl | rfl | rfl : i = 16 ∨ i = 17 ∨ i = 18 ∨ i = 19 := by omega
  all_goals rfl

/-- A cause set in a word where it was clear shows among the causes that rise. -/
theorem causes_rise {w o : Word} (h16 : 16 ≤ i) (h20 : i < 20) (hnew : bit w i = true) (hold : bit o i = false) :
    fld w 16 4 &&& (15 - fld o 16 4) ≠ 0 := by
  have hcomp : ∀ x < 2 ^ 4, ∀ j < 4, (15 - x).testBit j = !x.testBit j := by decide
  have hj : decide (i - 16 < 4) = true := decide_eq_true (by omega)
  have hrise : (fld w 16 4 &&& (15 - fld o 16 4)).testBit (i - 16) = true := by
    rw [Nat.testBit_and, hcomp (fld o 16 4) (Nat.mod_lt _ (by decide)) (i - 16) (by omega), testBit_fld, testBit_fld, Nat.add_sub_cancel' h16, hnew,
      hold, hj]
    rfl
  intro hzero
  rw [hzero, Nat.zero_testBit] at hrise
  exact absurd hrise (by decide)

theorem State.setFop_set (h : bit (s.far g) i = true) : s.setFop g i = s := if_pos h

/-- A cause that was clear is set in PROT_APS_FAR and reported; no group's requests change. -/
theorem State.setFop_clear (hg : g < 8192) (h16 : 16 ≤ i) (h20 : i < 20) (h : bit (s.far g) i = false) :
    (s.setFop g i).reg (apsA g 8) = setBit (s.far g) i true &&& w32 (writeMask (apsA g 8)) ∧
    bit ((s.setFop g i).reg (protA 0x10)) 4 = true ∧ ∀ j, (s.setFop g i).grp j = s.grp j := by
  have hset : bit (setBit (s.far g) i true &&& w32 (writeMask (apsA g 8))) i = true := by
    rw [bit_and, bit_setBit_true _ (by omega), bit_writeMask_cause hg h16 h20]
    rfl
  have hrise := causes_rise h16 h20 hset h
  have hne : apsA g 8 ≠ protA 0 + 0x10 := (Nat.ne_of_lt (protA_lt_apsA g 8)).symm
  rw [State.setFop, if_neg (by simp [h]), State.farWrite]
  simp only [decide_eq_true hrise, State.when_true]
  refine ⟨?_, State.bit_noted _ _ _ (State.bit_irq_raised _ (by decide)), fun j => ?_⟩
  · rw [State.reg_noted_above _ _ _ (protA_lt_apsA g 8), State.irq_reg_other _ hne, State.reg_setReg_same]
  · rw [State.grp_noted, State.grp_irq, State.grp_setReg]

/-! ### An accepted message (R165) -/

/-- The agent has taken the group off PROT_APS_CHGQ. -/
def State.chgqDrop (g : Nat) : State := s.modProt (fun p => { p with chgq := p.chgq.filter (· ≠ g) })

theorem State.apsAccept_unserved (h : s.apsSvc = false) : s.apsAccept g = s := by
  simp [State.apsAccept, State.when, h]

/-- The agent hears the group: it has a channel, the agent is alive, and its lane's slots are not discarded and carry bytes. -/
def State.apsHeard (g : Nat) : Prop :=
  (s.grp g).isAps = true ∧ s.prot.lost = false ∧ slotZero (s.apsRx g) = false ∧ s.apsBlocked g = false

/-- Beside the queue an accepted group that is not heard changes nothing. -/
theorem State.apsAccept_unheard (hsvc : s.apsSvc = true)
    (h : (s.grp g).isAps = false ∨ s.prot.lost = true ∨ slotZero (s.apsRx g) = true ∨ s.apsBlocked g = true) :
    s.apsAccept g = s.chgqDrop g := by
  unfold State.apsAccept
  dsimp only
  rw [hsvc, State.when_true]
  refine if_pos ?_
  show ¬ s.apsSvc = true ∨ ¬ (s.grp g).isAps = true ∨ s.prot.lost = true ∨ slotZero (s.apsRx g) = true ∨ s.apsBlocked g = true
  exact .inr (h.imp_left (by simp [·]))

@[simp] theorem State.reg_chgqDrop (a : Nat) : (s.chgqDrop g).reg a = s.reg a := rfl
@[simp] theorem State.far_chgqDrop (j : Nat) : (s.chgqDrop g).far j = s.far j := s.reg_chgqDrop _
@[simp] theorem State.grp_chgqDrop (j : Nat) : (s.chgqDrop g).grp j = s.grp j := rfl
@[simp] theorem State.apsRx_chgqDrop (j : Nat) : (s.chgqDrop g).apsRx j = s.apsRx j := by simp [State.apsRx]
@[simp] theorem State.gidOk_chgqDrop (j : Nat) : (s.chgqDrop g).gidOk j = s.gidOk j := by simp [State.gidOk]

/-- What a valid slot does to PROT_APS_FAR: it is taken in where its GID is the group's, and else a cause (R165, R166). -/
def State.farTake (b : List Byte) (g : Nat) : State :=
  if s.gidOk g then s.setReg (apsA g 8) (farWord b (fld (s.far g) 16 2) (fld (s.far g) 19 1)) else s.setFop g 18

theorem State.farTake_own (b : List Byte) (h : s.gidOk g = true) :
    s.farTake b g = s.setReg (apsA g 8) (farWord b (fld (s.far g) 16 2) (fld (s.far g) 19 1)) := if_pos h

theorem State.farTake_other (b : List Byte) (h : s.gidOk g = false) : s.farTake b g = s.setFop g 18 := if_neg (by simp [h])

/-- A heard group's slot is counted where ACRC or REQ is bad, and acts on PROT_APS_FAR otherwise. -/
theorem State.apsAccept_heard (hsvc : s.apsSvc = true) (h : s.apsHeard g) :
    s.apsAccept g = if ¬ slotOk (s.apsRx g) then (s.chgqDrop g).count 4 g 2
      else (s.chgqDrop g).noted g (·.farTake (s.apsRx g) g) := by
  obtain ⟨haps, hlost, hzero, hblocked⟩ := h
  unfold State.apsAccept
  dsimp only
  rw [hsvc, State.when_true]
  change (if _ then s.chgqDrop g else if ¬ slotOk ((s.chgqDrop g).apsRx g) then _
    else (s.chgqDrop g).noted g (·.farTake ((s.chgqDrop g).apsRx g) g)) = _
  rw [State.apsRx_chgqDrop]
  refine if_neg ?_
  show ¬ (¬ s.apsSvc = true ∨ ¬ (s.grp g).isAps = true ∨ s.prot.lost = true ∨ slotZero (s.apsRx g) = true ∨ s.apsBlocked g = true)
  simp [hsvc, haps, hlost, hzero, hblocked]

theorem State.apsAccept_bad (hsvc : s.apsSvc = true) (h : s.apsHeard g) (hok : slotOk (s.apsRx g) = false) :
    s.apsAccept g = (s.chgqDrop g).count 4 g 2 := by
  rw [s.apsAccept_heard hsvc h, if_pos (by simp [hok])]

/-- A message with the group's GID (R165). -/
theorem State.apsAccept_own (hsvc : s.apsSvc = true) (h : s.apsHeard g) (hok : slotOk (s.apsRx g) = true) (hgid : s.gidOk g = true) :
    (s.apsAccept g).reg (apsA g 8) = farWord (s.apsRx g) (fld (s.far g) 16 2) (fld (s.far g) 19 1) ∧
    (∀ j, (s.apsAccept g).grp j = s.grp j) ∧ (s.apsAccept g).prot.chgq = (s.chgqDrop g).prot.chgq := by
  have htake := (s.chgqDrop g).farTake_own (s.apsRx g) (by rwa [State.gidOk_chgqDrop])
  rw [s.apsAccept_heard hsvc h, if_neg (by simp [hok])]
  refine ⟨?_, fun j => ?_, ?_⟩
  · rw [State.reg_noted_above _ _ _ (protA_lt_apsA g 8), htake, State.reg_setReg_same, State.far_chgqDrop]
  · rw [State.grp_noted, htake, State.grp_setReg, State.grp_chgqDrop]
  · rw [State.chgq_noted, htake, State.setReg_prot]

/-- A message with another GID sets that cause (R166). -/
theorem State.apsAccept_other (hsvc : s.apsSvc = true) (h : s.apsHeard g) (hok : slotOk (s.apsRx g) = true) (hgid : s.gidOk g = false)
    (hg : g < 8192) (hclear : bit (s.far g) 18 = false) :
    (s.apsAccept g).reg (apsA g 8) = setBit (s.far g) 18 true &&& w32 (writeMask (apsA g 8)) ∧
    bit ((s.apsAccept g).reg (protA 0x10)) 4 = true ∧ ∀ j, (s.apsAccept g).grp j = s.grp j := by
  have htake := (s.chgqDrop g).farTake_other (s.apsRx g) (by rwa [State.gidOk_chgqDrop])
  obtain ⟨hreg, hfop, hgrp⟩ := (s.chgqDrop g).setFop_clear hg (i := 18) (by decide) (by decide) (by rwa [State.far_chgqDrop])
  rw [← htake] at hreg hfop hgrp
  rw [s.apsAccept_heard hsvc h, if_neg (by simp [hok])]
  refine ⟨?_, State.bit_noted _ _ _ hfop, fun j => ?_⟩
  · rw [State.reg_noted_above _ _ _ (protA_lt_apsA g 8), hreg, State.far_chgqDrop]
  · rw [State.grp_noted, hgrp, State.grp_chgqDrop]

/-! ### The agent is lost (R167) -/

theorem State.mem_evqPush (g k : Nat) : k ∈ (s.evqPush g).prot.evq ↔ k ∈ s.prot.evq ∨ k = g := by
  rw [State.prot_evqPush]
  dsimp only
  split
  case isTrue hin => exact ⟨.inl, fun h => h.elim id fun hk => hk ▸ hin⟩
  case isFalse => rw [List.mem_append, List.mem_singleton]

/-- A group with an APS channel enters PROT_EVQ. -/
def queueAps (g : Nat) (s : State) : State := if (s.grp g).isAps then s.evqPush g else s

theorem queueAps_frame (g : Nat) (u : State) :
    (queueAps g u).prot.grp = u.prot.grp ∧ (queueAps g u).prot.lost = u.prot.lost ∧
    (∀ i, bit (u.reg (protA 0x10)) i = true → bit ((queueAps g u).reg (protA 0x10)) i = true) ∧
    ∀ k, k ∈ u.prot.evq ∨ (k = g ∧ (u.grp g).isAps = true) → k ∈ (queueAps g u).prot.evq := by
  unfold queueAps
  split
  case isTrue haps =>
    exact ⟨by rw [State.prot_evqPush], by rw [State.prot_evqPush], fun i => State.bit_evqPush _ _,
      fun k hk => (u.mem_evqPush g k).mpr (hk.imp_right And.left)⟩
  case isFalse haps => exact ⟨rfl, rfl, fun i => id, fun k hk => hk.elim id fun h => absurd h.2 haps⟩

theorem seqAll_queueAps_frame (l : List Nat) (u : State) :
    (seqAll queueAps l u).prot.grp = u.prot.grp ∧ (seqAll queueAps l u).prot.lost = u.prot.lost ∧
    (∀ i, bit (u.reg (protA 0x10)) i = true → bit ((seqAll queueAps l u).reg (protA 0x10)) i = true) ∧
    ∀ k, k ∈ u.prot.evq ∨ (k ∈ l ∧ (u.grp k).isAps = true) → k ∈ (seqAll queueAps l u).prot.evq := by
  induction l generalizing u with
  | nil => exact ⟨rfl, rfl, fun _ => id, fun k hk => hk.elim id fun h => absurd h.1 List.not_mem_nil⟩
  | cons g l ih =>
    obtain ⟨hgrp1, hlost1, hbit1, hevq1⟩ := queueAps_frame g u
    obtain ⟨hgrp, hlost, hbit, hevq⟩ := ih (queueAps g u)
    refine ⟨hgrp.trans hgrp1, hlost.trans hlost1, fun i h => hbit i (hbit1 i h), fun k hk => hevq k ?_⟩
    have hsame : (queueAps g u).grp k = u.grp k := by rw [State.grp, hgrp1, State.grp]
    rcases hk with hk | ⟨hk, haps⟩
    · exact .inl (hevq1 k (.inl hk))
    · rcases List.mem_cons.mp hk with rfl | hk
      · exact .inl (hevq1 k (.inr ⟨rfl, haps⟩))
      · exact .inr ⟨hk, hsame ▸ haps⟩

/-- The state in which the agent is lost and the event raised, before the groups are queued. -/
def State.lostRaised : State := (s.modProt (fun p => { p with lost := true })).irq (protA 0) 8

theorem exec_apsAgentLost_due (hlost : s.prot.lost = false) (hdue : max 1 (s.rf (protA 0x40) 0 8) ≤ since s.bolt s.prot.hbAt) :
    exec .apsAgentLost s = .next (seqAll queueAps s.lostRaised.enabled s.lostRaised) :=
  congrArg Host.Outcome.next (if_pos ⟨by simp [hlost], Nat.le_trans (Nat.le_of_eq (atLeast1_eq_max _)) hdue⟩)

end

/-! ### The causes' commands (R166) -/

section
variable {s : State} {g : Fin 8192}

theorem exec_fopPmSet_due (hsvc : s.apsSvc = true) (haps : (s.grp g.val).isAps = true) (h : 3 ≤ (s.grp g.val).pmCnt) :
    exec (.fopPmSet g) s = .next (s.setFop g.val 16) := congrArg Host.Outcome.next (if_pos ⟨hsvc, haps, h⟩)

theorem exec_fopNrSet_due (hsvc : s.apsSvc = true) (haps : (s.grp g.val).isAps = true) (h : 196 ≤ (s.grp g.val).nrCnt) :
    exec (.fopNrSet g) s = .next (s.setFop g.val 17) := congrArg Host.Outcome.next (if_pos ⟨hsvc, haps, h⟩)

theorem exec_fopToSet_due (hsvc : s.apsSvc = true) (haps : (s.grp g.val).isAps = true) (h : 8 ≤ (s.grp g.val).toCnt) :
    exec (.fopToSet g) s = .next (s.setFop g.val 19) := congrArg Host.Outcome.next (if_pos ⟨hsvc, haps, h⟩)

theorem exec_fopPmSet_early (h : s.apsSvc = false ∨ (s.grp g.val).pmCnt < 3) : exec (.fopPmSet g) s = .next s :=
  congrArg Host.Outcome.next (if_neg fun ⟨hsvc, _, hcnt⟩ => h.elim (by simp [hsvc]) (Nat.not_lt.mpr hcnt))

theorem exec_fopNrSet_early (h : s.apsSvc = false ∨ (s.grp g.val).nrCnt < 196) : exec (.fopNrSet g) s = .next s :=
  congrArg Host.Outcome.next (if_neg fun ⟨hsvc, _, hcnt⟩ => h.elim (by simp [hsvc]) (Nat.not_lt.mpr hcnt))

theorem exec_fopToSet_early (h : s.apsSvc = false ∨ (s.grp g.val).toCnt < 8) : exec (.fopToSet g) s = .next s :=
  congrArg Host.Outcome.next (if_neg fun ⟨hsvc, _, hcnt⟩ => h.elim (by simp [hsvc]) (Nat.not_lt.mpr hcnt))

end

/-- Settles O19: the accepted message, then the causes, then the loss of the agent. -/
theorem apsChannel : Obligations.ApsChannel := by
  intro s g
  refine ⟨fun hsvc => ⟨fun haps hlost hzero hblocked => ?heard, fun h => congrArg _ (s.apsAccept_unheard hsvc h)⟩, fun hsvc => ?unserved,
    fun hsvc haps => ?causes, fun h => exec_fopPmSet_early (.inr h), fun h => exec_fopNrSet_early (.inr h),
    fun h => exec_fopToSet_early (.inr h), fun hlost hdue => ?lost, fun hlost => ?lostAlready⟩
  case heard =>
    have hheard : s.apsHeard g.val := ⟨haps, hlost, hzero, hblocked⟩
    refine ⟨fun hok => congrArg _ (s.apsAccept_bad hsvc hheard hok), fun hok hgid => ⟨s.apsAccept g.val, rfl, ?_⟩,
      fun hok hgid hclear => ⟨s.apsAccept g.val, rfl, s.apsAccept_other hsvc hheard hok hgid g.isLt hclear⟩⟩
    obtain ⟨hreg, hgrp, hchgq⟩ := s.apsAccept_own hsvc hheard hok hgid
    obtain ⟨hreq, hreqsig, hbrsig, hvalid, hgidBit⟩ :=
      farWord_facts (s.apsRx g.val) (fld (s.far g.val) 19 1) (c := fld (s.far g.val) 16 2) (Nat.mod_lt _ (by decide))
    rw [hreg]
    exact ⟨hreq, hreqsig, hbrsig, hvalid, hgidBit, hgrp, hchgq⟩
  case unserved =>
    exact ⟨congrArg _ (s.apsAccept_unserved hsvc), exec_fopPmSet_early (.inl hsvc), exec_fopNrSet_early (.inl hsvc),
      exec_fopToSet_early (.inl hsvc)⟩
  case causes =>
    have cause (i : Nat) (h16 : 16 ≤ i) (h20 : i < 20) {o : Out} (ho : o = .next (s.setFop g.val i)) :
        (bit (s.far g.val) i = true → o = .next s) ∧ (bit (s.far g.val) i = false → ∃ t, o = .next t ∧
          t.reg (apsA g.val 8) = setBit (s.far g.val) i true &&& w32 (writeMask (apsA g.val 8)) ∧
          bit (t.reg (protA 0x10)) 4 = true ∧ ∀ j, t.grp j = s.grp j) :=
      ⟨fun h => ho.trans (congrArg _ (s.setFop_set h)), fun h => ⟨_, ho, s.setFop_clear g.isLt h16 h20 h⟩⟩
    exact ⟨fun h => cause 16 (by decide) (by decide) (exec_fopPmSet_due hsvc haps h),
      fun h => cause 17 (by decide) (by decide) (exec_fopNrSet_due hsvc haps h),
      fun h => cause 19 (by decide) (by decide) (exec_fopToSet_due hsvc haps h)⟩
  case lost =>
    have hprot : s.lostRaised.prot = { s.prot with lost := true } := State.irq_prot _ _ _
    have henabled : s.lostRaised.enabled = s.enabled := by rw [State.enabled, hprot, State.enabled]
    have hgrpAt : ∀ k, s.lostRaised.grp k = s.grp k := fun k => by rw [State.grp, hprot, State.grp]
    obtain ⟨hgrp, hlostNow, hbit, hevq⟩ := seqAll_queueAps_frame s.lostRaised.enabled s.lostRaised
    refine ⟨_, exec_apsAgentLost_due s hlost hdue, ?_, ?_, hbit 3 (State.bit_irq_raised _ (by decide)), fun k hk => hevq k ?_⟩
    · rw [hlostNow, hprot]
    · rw [hgrp, hprot]
    · rwa [henabled, hgrpAt, hprot]
  case lostAlready => exact congrArg _ (if_neg (by simp [hlost]))

end Sys2Proof.Machine

/-! SUPPORT. The requests of a group and its timers: the top request among candidates, the evaluation of a 1+1 group or errorless pair, hold-off
and WTR (R152, R153, R155, R158, R159). -/
namespace Sys2Proof.Machine

/-! ### The top of a list of requests (R153) -/

section
variable {α : Type} (f : α → Nat) (l : List α)

theorem foldl_max_le_iff (a b : Nat) : l.foldl (fun x c => max x (f c)) a ≤ b ↔ a ≤ b ∧ ∀ c ∈ l, f c ≤ b := by
  induction l generalizing a with
  | nil => simp
  | cons c l ih => rw [List.foldl_cons, ih, Nat.max_le, List.forall_mem_cons, and_assoc]

theorem le_foldl_min_iff (a b : Nat) : b ≤ l.foldl (fun x c => min x (f c)) a ↔ b ≤ a ∧ ∀ c ∈ l, b ≤ f c := by
  induction l generalizing a with
  | nil => simp
  | cons c l ih => rw [List.foldl_cons, ih, Nat.le_min, List.forall_mem_cons, and_assoc]

end

/-- A request above every other of the list, and the only one of its code, is the top one, whichever is in force. -/
theorem topOf_eq (force : Nat × Nat) {l : List (Nat × Nat)} {c : Nat × Nat} (hc : c ∈ l) (hsig : c.2 ≤ 15)
    (htop : ∀ d ∈ l, d = c ∨ d.1 < c.1) : topOf force l = c := by
  have hbest : l.foldl (fun a c => max a c.1) 0 = c.1 := by
    refine Nat.le_antisymm ((foldl_max_le_iff _ _ _ _).mpr ⟨Nat.zero_le _, fun d hd => ?_⟩) (((foldl_max_le_iff _ _ _ _).mp (Nat.le_refl _)).2 c hc)
    exact (htop d hd).elim (fun h => h ▸ (Nat.le_refl _)) Nat.le_of_lt
  have htied : ∀ d, d ∈ l.filter (fun d => decide (d.1 = c.1)) ↔ d = c := fun d => by
    rw [List.mem_filter, decide_eq_true_eq]
    refine ⟨fun ⟨hd, heq⟩ => (htop d hd).resolve_right (by omega), ?_⟩
    rintro rfl
    exact ⟨hc, rfl⟩
  have hmin : (l.filter (fun d => decide (d.1 = c.1))).foldl (fun a c => min a c.2) 15 = c.2 := by
    refine Nat.le_antisymm (((le_foldl_min_iff _ _ _ _).mp (Nat.le_refl _)).2 c ((htied c).mpr rfl)) ((le_foldl_min_iff _ _ _ _).mpr ⟨hsig, ?_⟩)
    exact fun d hd => (htied d).mp hd ▸ (Nat.le_refl _)
  unfold topOf
  dsimp only
  rw [hbest, if_neg (List.ne_nil_of_mem hc), hmin]
  split
  case isTrue h => exact (htied force).mp h
  case isFalse => rfl

/-! ### Candidates (R155) -/

section
variable {q : Grp}

theorem standReq_le {st : Nat} (h2 : st ≠ 2) (h3 : st ≠ 3) : standReq st ≤ 7 := by
  unfold standReq
  split <;> simp_all

theorem standReq_le_force {st : Nat} (h2 : st ≠ 2) : standReq st ≤ 0xD := by
  by_cases h3 : st = 3
  · exact Nat.le_of_eq (congrArg standReq h3)
  · exact Nat.le_trans (standReq_le h2 h3) (by decide)

theorem Grp.signals_single (ht : q.ty = 1 ∨ q.ty = 4) : q.signals = [1] := by
  rw [Grp.signals, if_neg (by omega), if_neg (by omega)]

/-- The signal that the standing command requests (R154). -/
def Grp.standSig (q : Grp) : Nat :=
  match q.stand with
  | 2 => 0
  | 5 => 0
  | 6 => q.reqsig
  | _ => q.standMem

theorem Grp.cands_eq (q : Grp) : q.cands =
    (if q.stand = 0 then [] else [(standReq q.stand, q.standSig)]) ++ (if (q.leg 0).sfNow then [(0xE, 0)] else [])
      ++ (q.signals.filter (fun i => (q.leg i).sfNow)).map (fun i => (0xB, i))
      ++ (q.signals.filter (fun i => (q.leg i).sdIn)).map (fun i => (0x9, i))
      ++ (if (q.leg 0).sdIn then [(0x9, 0)] else []) := rfl

theorem mem_map_filter_one {α : Type} (p : Nat → Bool) (f : Nat → α) (c : α) : c ∈ ([1].filter p).map f ↔ p 1 = true ∧ c = f 1 := by
  cases h : p 1 <;> simp [h]

/-- The candidates of a group with one working leg: the standing command, SF and SD of the two legs. -/
theorem Grp.mem_cands (ht : q.ty = 1 ∨ q.ty = 4) {c : Nat × Nat} : c ∈ q.cands ↔
    (q.stand ≠ 0 ∧ c = (standReq q.stand, q.standSig)) ∨ ((q.leg 0).sfNow = true ∧ c = (0xE, 0)) ∨
    ((q.leg 1).sfNow = true ∧ c = (0xB, 1)) ∨ ((q.leg 1).sdIn = true ∧ c = (9, 1)) ∨ ((q.leg 0).sdIn = true ∧ c = (9, 0)) := by
  rw [Grp.cands_eq, Grp.signals_single ht]
  simp only [List.mem_append, List.mem_ite_nil_left, List.mem_ite_nil_right, mem_map_filter_one, List.mem_singleton, or_assoc, ne_eq]

/-- A request that none of the candidates exceeds, and no other of them equals. -/
theorem Grp.cands_below (ht : q.ty = 1 ∨ q.ty = 4) {c : Nat × Nat}
    (hstand : q.stand ≠ 0 → (standReq q.stand, q.standSig) = c ∨ standReq q.stand < c.1)
    (hsfP : (q.leg 0).sfNow = true → (0xE, 0) = c ∨ 0xE < c.1) (hsfW : (q.leg 1).sfNow = true → (0xB, 1) = c ∨ 0xB < c.1)
    (hsdW : (q.leg 1).sdIn = true → (9, 1) = c ∨ 9 < c.1) (hsdP : (q.leg 0).sdIn = true → (9, 0) = c ∨ 9 < c.1) :
    ∀ d ∈ q.cands, d = c ∨ d.1 < c.1 := by
  intro d hd
  rcases (Grp.mem_cands ht).mp hd with ⟨h, rfl⟩ | ⟨h, rfl⟩ | ⟨h, rfl⟩ | ⟨h, rfl⟩ | ⟨h, rfl⟩
  · exact hstand h
  · exact hsfP h
  · exact hsfW h
  · exact hsdW h
  · exact hsdP h

theorem Grp.cands_nil (ht : q.ty = 1 ∨ q.ty = 4) (hst : q.stand = 0) (hsfP : (q.leg 0).sfNow = false) (hsfW : (q.leg 1).sfNow = false)
    (hsdP : (q.leg 0).sdIn = false) (hsdW : (q.leg 1).sdIn = false) : q.cands = [] := by
  rw [Grp.cands_eq, Grp.signals_single ht]
  simp [hst, hsfP, hsfW, hsdP, hsdW]

/-- SF cleared in a revertive group starts WTR (R158). -/
theorem Grp.nextWtr_start (bolt : Word) (hrev : q.revertive = true) (hreq : q.lreq = 0xB) (hsig : q.lsig = 1) (hwtr : q.wtr = none) :
    q.nextWtr bolt 0 = some (1, bolt) := by
  simp [Grp.nextWtr, hrev, hreq, hsig, hwtr]

theorem Grp.standSig_lockout (h : q.stand = 2) : q.standSig = 0 := by simp only [Grp.standSig, h]
theorem Grp.standSig_force (h : q.stand = 3) : q.standSig = q.standMem := by simp only [Grp.standSig, h]

end

/-! ### The evaluation (R155) -/

section
variable (s : State) (g : Nat)

/-- A candidate above WTR and DNR, above every other and the only one of its code, is this end's request. -/
theorem State.verdict_loc {c : Nat × Nat} (hc : c ∈ (s.grp g).cands) (hsig : c.2 ≤ 15) (h5 : 5 < c.1)
    (htop : ∀ d ∈ (s.grp g).cands, d = c ∨ d.1 < c.1) : (s.verdict g).loc = c := by
  refine topOf_eq _ (List.mem_append_left _ (List.mem_append_left _ hc)) hsig fun d hd => ?_
  rcases List.mem_append.mp hd with hd | hd
  · rcases List.mem_append.mp hd with hd | hd
    · exact htop d hd
    · split at hd
      · rw [List.mem_singleton.mp hd]
        exact .inr h5
      · exact absurd hd List.not_mem_nil
  · split at hd
    · rw [List.mem_singleton.mp hd]
      exact .inr (by omega)
    · exact absurd hd List.not_mem_nil

/-- With no candidate, a WTR that this evaluation starts or keeps is this end's request in a revertive group (R158). -/
theorem State.verdict_wtr {i : Nat} {b : Word} (hc : (s.grp g).cands = []) (hi : i ≤ 15) (hrev : (s.grp g).revertive = true)
    (hw : (s.grp g).nextWtr s.bolt 0 = some (i, b)) : (s.verdict g).loc = (5, i) ∧ (s.verdict g).wtr = some (i, b) := by
  unfold State.verdict
  dsimp only
  rw [hc, List.foldl_nil, hw, hrev]
  exact ⟨topOf_eq _ (List.mem_singleton_self _) hi fun d hd => .inl (List.mem_singleton.mp hd), rfl⟩

theorem State.farReq_none {s : State} {g : Nat} (ht : (s.grp g).ty = 1 ∨ (s.grp g).ty = 4) : s.farReq g = none := if_neg (by omega)

/-- In a 1+1 group or errorless pair this end's request is the top one. -/
theorem State.verdict_top (ht : (s.grp g).ty = 1 ∨ (s.grp g).ty = 4) : (s.verdict g).top = (s.verdict g).loc := by
  unfold State.verdict
  dsimp only
  rw [State.farReq_none ht]
  rfl

/-- The group once its requests and its selection are decided (R155). -/
def Grp.decided (q : Grp) (v : Verdict) (sel : Nat) : Grp :=
  { q with
    wtr := if 5 < v.top.1 then none else v.wtr, wtrOver := false, req := v.top.1, lreq := v.loc.1, lsig := v.loc.2, reqsig := v.top.2,
    brsig := if q.ty = 2 ∨ q.ty = 3 then v.top.2 else sel, selsig := sel }

@[simp] theorem State.grp_incReg (a k j : Nat) : (s.incReg a k).grp j = s.grp j := rfl

/-- In a 1+1 group or errorless pair the evaluation selects the protect leg where this end's request asks for signal 1. -/
theorem State.evalReq_grp (ht : (s.grp g).ty = 1 ∨ (s.grp g).ty = 4) :
    (s.evalReq g).grp g = (s.grp g).decided (s.verdict g) (if (s.verdict g).loc.2 = 1 then 1 else 0) := by
  have hdecided (sel : Nat) : (s.modGrp g (·.decided (s.verdict g) sel)).grp g = (s.grp g).decided (s.verdict g) sel :=
    s.grp_modGrp_same g _
  unfold State.evalReq
  extract_lets q v reqsig sel s1 s2
  change q.ty = 1 ∨ q.ty = 4 at ht
  rw [if_neg (show ¬ q.ty = 0 by omega)]
  have hsel : sel = if v.loc.2 = 1 then 1 else 0 := by
    rcases ht with ht | ht <;> simp only [sel, ht]
  have hs2 : s2.grp g = (s.grp g).decided v sel := by
    unfold s2
    split
    · exact hdecided sel
    · rw [State.grp_count, State.grp_incReg]
      exact hdecided sel
  rw [← hsel]
  split
  · rw [State.grp_setReg, hs2]
  · exact hs2

end

/-! ### Hold-off and WTR (R152, R159) -/

section
variable {s : State} {g : Fin 8192} {b : Word}

/-- The hold-off that began at `b` will have run out at the next boundary (R152). -/
theorem exec_holdoffExpire_sf {leg : Fin 16} (hty : (s.grp g.val).ty ≠ 0) (hat : ((s.grp g.val).leg leg.val).sfAt = some b)
    (hdue : fld (s.grp g.val).cfg 16 12 ≤ since (s.bolt + 1) b) : exec (.holdoffExpire g leg false) s =
      .next (s.modGrp g.val (fun q => { q with legs := smPut {} q.legs leg.val { q.leg leg.val with sfIn := true } })) := by
  refine congrArg Host.Outcome.next ((if_pos ?_).trans rfl)
  simpa [hat, hty] using hdue

theorem exec_holdoffExpire_sd {leg : Fin 16} (hty : (s.grp g.val).ty ≠ 0) (hat : ((s.grp g.val).leg leg.val).sdAt = some b)
    (hdue : fld (s.grp g.val).cfg 16 12 ≤ since (s.bolt + 1) b) : exec (.holdoffExpire g leg true) s =
      .next (s.modGrp g.val (fun q => { q with legs := smPut {} q.legs leg.val { q.leg leg.val with sdIn := true } })) := by
  refine congrArg Host.Outcome.next ((if_pos ?_).trans rfl)
  simpa [hat, hty] using hdue

theorem exec_holdoffExpire_early {leg : Fin 16} {sd : Bool}
    (hat : (if sd then ((s.grp g.val).leg leg.val).sdAt else ((s.grp g.val).leg leg.val).sfAt) = some b)
    (hdue : since (s.bolt + 1) b < fld (s.grp g.val).cfg 16 12) : exec (.holdoffExpire g leg sd) s = .next s := by
  refine congrArg Host.Outcome.next (if_neg ?_)
  cases sd
  case false =>
    have hsf : ((s.grp g.val).leg leg.val).sfAt = some b := hat
    simpa [hsf] using fun (_ : (s.grp g.val).ty ≠ 0) => hdue
  case true =>
    have hsd : ((s.grp g.val).leg leg.val).sdAt = some b := hat
    simpa [hsd] using fun (_ : (s.grp g.val).ty ≠ 0) => hdue

theorem exec_wtrExpire_some {i : Nat} (hw : (s.grp g.val).wtr = some (i, b)) : exec (.wtrExpire g) s =
    .next (if (s.grp g.val).wtrBolts ≤ since (s.bolt + 1) b then s.modGrp g.val (fun q => { q with wtrOver := true }) else s) := by
  show execWtrExpire g s = _
  unfold execWtrExpire
  simp only [hw]

theorem exec_wtrExpire_none (hw : (s.grp g.val).wtr = none) : exec (.wtrExpire g) s = .next s := by
  show execWtrExpire g s = _
  unfold execWtrExpire
  simp only [hw]

theorem Grp.wtrEnds_iff {q : Grp} {i : Nat} (bolt : Word) (hw : q.wtr = some (i, b)) :
    q.wtrEnds bolt = true ↔ q.wtrOver = true ∨ q.wtrBolts ≤ since bolt b := by
  simp [Grp.wtrEnds, hw]

end

/-- Settles O20: the evaluation, then the hold-offs, then WTR. -/
theorem groupRequestsAndTimers : Obligations.GroupRequestsAndTimers := by
  intro s g q
  refine ⟨fun ht => ?evaluation, fun leg b hty => ⟨fun hat => ?holdoffSf, fun hat => ?holdoffSd⟩, fun i b hw => ?wtr, exec_wtrExpire_none⟩
  case evaluation =>
    intro r
    have hr : r = q.decided (s.verdict g.val) (if (s.verdict g.val).loc.2 = 1 then 1 else 0) := s.evalReq_grp g.val ht
    have htop : (s.verdict g.val).top = (s.verdict g.val).loc := s.verdict_top g.val ht
    have decided {c : Nat × Nat} (hloc : (s.verdict g.val).loc = c) : r.req = c.1 ∧ r.selsig = if c.2 = 1 then 1 else 0 := by
      rw [hr, ← hloc, ← htop]
      exact ⟨rfl, rfl⟩
    have member {c : Nat × Nat} := (Grp.mem_cands (q := q) (c := c) ht).mpr
    have lower {n : Nat} (hn : 7 < n) (h2 : q.stand ≠ 2) (h3 : q.stand ≠ 3) : standReq q.stand < n := Nat.lt_of_le_of_lt (standReq_le h2 h3) hn
    refine ⟨fun hst => ?lockout, fun hst hp => ?sfProtect, fun hst hmem hp => ?force, fun h2 h3 hp hw => ?sfWorking,
      fun h2 h3 hp hw hpd hwd => ?sdWorking, fun hst hp hw hpd hwd hrev hreq hsig hwtr => ?restore⟩
    case lockout =>
      have hc : (0xF, 0) = (standReq q.stand, q.standSig) := by rw [Grp.standSig_lockout hst, hst]; rfl
      exact decided (s.verdict_loc g.val (member (.inl ⟨by omega, hc⟩)) (by decide) (by decide)
        (Grp.cands_below ht (fun _ => .inl hc.symm) (fun _ => .inr (by decide)) (fun _ => .inr (by decide)) (fun _ => .inr (by decide))
          (fun _ => .inr (by decide))))
    case sfProtect =>
      exact decided (s.verdict_loc g.val (member (.inr (.inl ⟨hp, rfl⟩))) (by decide) (by decide)
        (Grp.cands_below ht (fun _ => .inr (Nat.lt_succ_of_le (standReq_le_force hst))) (fun _ => .inl rfl) (fun _ => .inr (by decide))
          (fun _ => .inr (by decide)) (fun _ => .inr (by decide))))
    case force =>
      have hc : (0xD, 1) = (standReq q.stand, q.standSig) := by rw [Grp.standSig_force hst, hmem, hst]; rfl
      exact decided (s.verdict_loc g.val (member (.inl ⟨by omega, hc⟩)) (by decide) (by decide)
        (Grp.cands_below ht (fun _ => .inl hc.symm) (fun h => absurd h (by simp [hp])) (fun _ => .inr (by decide))
          (fun _ => .inr (by decide)) (fun _ => .inr (by decide))))
    case sfWorking =>
      exact decided (s.verdict_loc g.val (member (.inr (.inr (.inl ⟨hw, rfl⟩)))) (by decide) (by decide)
        (Grp.cands_below ht (fun _ => .inr (lower (by decide) h2 h3)) (fun h => absurd h (by simp [hp])) (fun _ => .inl rfl)
          (fun _ => .inr (by decide)) (fun _ => .inr (by decide))))
    case sdWorking =>
      exact decided (s.verdict_loc g.val (member (.inr (.inr (.inr (.inl ⟨hwd, rfl⟩))))) (by decide) (by decide)
        (Grp.cands_below ht (fun _ => .inr (lower (by decide) h2 h3)) (fun h => absurd h (by simp [hp])) (fun h => absurd h (by simp [hw]))
          (fun _ => .inl rfl) (fun h => absurd h (by simp [hpd]))))
    case restore =>
      obtain ⟨hloc, hrun⟩ := s.verdict_wtr g.val (Grp.cands_nil ht hst hp hw hpd hwd) (by decide) hrev
        (Grp.nextWtr_start s.bolt hrev hreq hsig hwtr)
      refine ⟨(decided hloc).1, (decided hloc).2, ?_⟩
      rw [hr, Grp.decided, htop, hloc]
      exact hrun
  case holdoffSf => exact ⟨exec_holdoffExpire_sf hty hat, exec_holdoffExpire_early hat⟩
  case holdoffSd => exact ⟨exec_holdoffExpire_sd hty hat, exec_holdoffExpire_early hat⟩
  case wtr =>
    refine ⟨fun h => ?_, fun h => ?_, Grp.wtrEnds_iff s.bolt hw⟩
    · exact (exec_wtrExpire_some hw).trans (congrArg _ (if_pos h))
    · exact (exec_wtrExpire_some hw).trans (congrArg _ (if_neg (Nat.not_le.mpr h)))

end Sys2Proof.Machine

/-! SUPPORT. Errorless pairs and the Selvage store: acquisition, its timeout, the filled store, re-timing, an uncorrectable pick (R171, R172,
R176, R179, R185). -/
namespace Sys2Proof.Machine

/-! ### The pair's alignment (R172, R176) -/

section
variable (s : State) (g : Nat)

/-- A pair in SINGLE on the timeline of the selected leg, with no leg stored. -/
def Grp.toSingle (q : Grp) : Grp :=
  { q with
    align := .single, fill := false, stored := false, sfaW := false, sfaP := false, retime := false, retimed := none,
    tout := q.base (decide (q.selsig = 1)) + 2 }

theorem State.grp_toSingle_same : (s.toSingle g).grp g = (s.grp g).toSingle := by
  rw [State.toSingle, State.grp_irq, State.grp_modGrp_same]
  rfl

theorem State.grp_toSingle_other {j : Nat} (h : j ≠ g) : (s.toSingle g).grp j = s.grp j := by
  rw [State.toSingle, State.grp_irq, State.grp_modGrp_other _ _ h]

/-- Entering SINGLE raises UNPROT (R185). -/
theorem State.bit_toSingle : bit ((s.toSingle g).reg (protA 0x10)) 5 = true := State.bit_irq_raised _ (by decide)

theorem State.grp_putSfa_same : (s.putSfa g).grp g = { s.grp g with sfaW := s.sfaOf g false, sfaP := s.sfaOf g true } :=
  State.grp_modGrp_same _ _ _

theorem State.grp_putSfa_other {j : Nat} (h : j ≠ g) : (s.putSfa g).grp j = s.grp j := State.grp_modGrp_other _ _ h

/-- A re-timed pair (R176): the later leg + 2, the earlier leg the store leg. -/
def Grp.retimedTo (q : Grp) (gap : Nat) : Grp :=
  let lead := decide (q.diff < 0) || (decide (q.diff = 0) && q.lead)
  { q with tout := q.later + 2, lead := lead, stored := true, retimed := some (lead != q.lead || !q.stored), retime := false, gapTo := gap }

theorem Grp.tooFar_iff (q : Grp) : q.tooFar = true ↔ 24414 < q.diff ∨ q.diff < -24414 := by
  rw [Grp.tooFar, Bool.not_eq_true', decide_eq_false_iff_not, maxDelta]
  omega

/-- Two acquired legs within the limit re-time; no other group changes. -/
theorem State.retimeNow_near (hw : (s.grp g).mw.acq = true) (hp : (s.grp g).mp.acq = true) (hdiff : (s.grp g).tooFar = false)
    (hready : s.stackReady g = true) :
    (s.retimeNow g).grp g = (s.grp g).retimedTo (s.gapAfter (s.grp g) ((s.grp g).later + 2)) ∧
    ∀ j, j ≠ g → (s.retimeNow g).grp j = s.grp j := by
  unfold State.retimeNow
  dsimp only
  rw [if_neg (by simp [hw, hp]), if_neg (by simp [hdiff, hready])]
  refine ⟨?_, fun j hj => State.grp_modGrp_other _ _ hj⟩
  rw [State.grp_modGrp_same]
  rfl

theorem State.retimeNow_far (hw : (s.grp g).mw.acq = true) (hp : (s.grp g).mp.acq = true) (hdiff : (s.grp g).tooFar = true) :
    s.retimeNow g = s.toSingle g := by
  unfold State.retimeNow
  dsimp only
  rw [if_neg (by simp [hw, hp]), if_pos (.inl hdiff)]

theorem Grp.retimedTo_facts (q : Grp) (gap : Nat) :
    (q.diff < 0 → (q.retimedTo gap).lead = true ∧ (q.retimedTo gap).tout = q.mw.base + 2) ∧
    (0 < q.diff → (q.retimedTo gap).lead = false ∧ (q.retimedTo gap).tout = q.mp.base + 2) ∧
    (q.diff = 0 → (q.retimedTo gap).tout = q.mw.base + 2) := by
  have hworking (h : ¬ 0 < q.diff) : (q.retimedTo gap).tout = q.mw.base + 2 := congrArg (· + 2) (if_neg h)
  refine ⟨fun h => ⟨?_, hworking (by omega)⟩, fun h => ⟨?_, congrArg (· + 2) (if_pos h)⟩, fun h => hworking (by omega)⟩
  · show (decide (q.diff < 0) || _) = true
    rw [decide_eq_true h, Bool.true_or]
  · show (decide (q.diff < 0) || (decide (q.diff = 0) && q.lead)) = false
    rw [decide_eq_false (by omega), decide_eq_false (by omega)]
    rfl

/-! ### The Selvage store (R179) -/

/-- An uncorrectable pick of the store leg is invalid. -/
def State.spoil (ob : Word) (rho : Nat) (e : StorePick) : StorePick :=
  if e.g = g ∧ e.protect = (s.grp g).lead ∧ e.ob = ob ∧ e.rho = rho then { e with pick := { e.pick with valid := false } } else e

theorem State.spoil_hit {ob : Word} {rho : Nat} {e : StorePick} (h : e.g = g ∧ e.ob = ob ∧ e.rho = rho ∧ e.protect = (s.grp g).lead) :
    (s.spoil g ob rho e).pick.valid = false := by
  rw [State.spoil, if_pos ⟨h.1, h.2.2.2, h.2.1, h.2.2.1⟩]

theorem State.spoil_miss {ob : Word} {rho : Nat} {e : StorePick} (h : ¬ (e.g = g ∧ e.ob = ob ∧ e.rho = rho ∧ e.protect = (s.grp g).lead)) :
    s.spoil g ob rho e = e := if_neg fun ⟨hg, hlead, hob, hrho⟩ => h ⟨hg, hob, hrho, hlead⟩

/-- The place of a pick does not change. -/
theorem State.spoil_place (ob : Word) (rho : Nat) (e : StorePick) :
    (s.spoil g ob rho e).g = e.g ∧ (s.spoil g ob rho e).ob = e.ob ∧ (s.spoil g ob rho e).rho = e.rho ∧
      (s.spoil g ob rho e).protect = e.protect := by
  unfold State.spoil
  split <;> exact ⟨rfl, rfl, rfl, rfl⟩

/-- The store with the pick spoiled, counted and raised. -/
def State.eccSpoiled (ob : Word) (rho : Nat) : State :=
  ((s.modProt (fun p => { p with store := p.store.map (s.spoil g ob rho) })).incReg 0xA8004C).irq 0xA80000 1

theorem State.store_eccSpoiled (ob : Word) (rho : Nat) : (s.eccSpoiled g ob rho).prot.store = s.prot.store.map (s.spoil g ob rho) := by
  rw [State.eccSpoiled, State.irq_prot]
  rfl

theorem State.reg_eccSpoiled (ob : Word) (rho : Nat) : (s.eccSpoiled g ob rho).reg 0xA8004C = s.reg 0xA8004C + 1 ∧
    (s.eccSpoiled g ob rho).reg 0xA80010 = s.reg 0xA80010 ||| 1 ∧
    ∀ a, a ≠ 0xA8004C → a ≠ 0xA80010 → (s.eccSpoiled g ob rho).reg a = s.reg a := by
  refine ⟨?_, ?_, fun a hcnt hraw => ?_⟩
  · rw [State.eccSpoiled, State.irq_reg_other _ (by decide), State.reg_incReg_same]
    rfl
  · rw [State.eccSpoiled, State.irq_reg, if_pos rfl, State.reg_incReg_other _ _ (by decide)]
    rfl
  · rw [State.eccSpoiled, State.irq_reg_other _ (by omega), State.reg_incReg_other _ _ hcnt, State.reg_modProt]

end

/-! ### The commands -/

section
variable {s : State} {g : Fin 8192}

theorem exec_legAcquired_due {protect : Bool} (ht : (s.grp g.val).ty = 4) (htwo : ((s.grp g.val).meas protect).two = true)
    (hacq : ((s.grp g.val).meas protect).acq = false) (hsf : ((s.grp g.val).leg (if protect then 0 else 1)).sfAt = none) :
    exec (.legAcquired g protect) s = .next (s.modGrp g.val (fun q =>
      let q := { q with acqAt := some (q.acqAt.getD s.bolt) }
      if protect then { q with mp := { q.mp with acq := true } } else { q with mw := { q.mw with acq := true } })) :=
  congrArg Host.Outcome.next (if_pos ⟨ht, htwo, by simp [hacq], by simp [hsf]⟩)

theorem exec_acqTimeout_due {b : Word} (ht : (s.grp g.val).ty = 4) (hal : (s.grp g.val).align = .acq)
    (hat : (s.grp g.val).acqAt = some b) (hone : (s.grp g.val).mw.acq ≠ (s.grp g.val).mp.acq)
    (hdue : max 1 (s.rf (protA 0x40) 16 8) ≤ since s.bolt b) :
    exec (.acqTimeout g) s = .next (s.noted g.val (·.toSingle g.val)) := by
  refine congrArg Host.Outcome.next ?_
  unfold State.acqTimeout
  simp only [hat]
  exact if_pos ⟨ht, hal, bne_iff_ne.mpr hone, Nat.le_trans (Nat.le_of_eq (atLeast1_eq_max _)) hdue⟩

theorem exec_storeFillComplete_due (ht : (s.grp g.val).ty = 4) (hal : (s.grp g.val).align = .single) (hfill : (s.grp g.val).fill = true)
    (hdue : (s.grp g.val).delay (s.grp g.val).lead ≤ 625 * (since s.bolt (s.grp g.val).fillAt : Nat)) :
    exec (.storeFillComplete g) s = .next (s.noted g.val (fun s =>
      (s.modGrp g.val (fun q => { q with align := .aligned, fill := false })).putSfa g.val)) :=
  congrArg Host.Outcome.next (if_pos ⟨ht, hal, hfill, hdue⟩)

theorem exec_autoRetime_due (ht : (s.grp g.val).ty = 4) (hal : (s.grp g.val).align = .unprot) (hauto : bit (s.grp g.val).cfg 28 = true)
    (hno : (s.grp g.val).retimed = none) (hdue : 16 * max 1 (s.rf (protA 0x40) 24 8) ≤ since s.bolt (s.grp g.val).unprotAt) :
    exec (.autoRetime g) s = .next (s.noted g.val (·.retimeNow g.val)) :=
  congrArg Host.Outcome.next (if_pos ⟨ht, hal, hauto, hno, Nat.le_trans (Nat.le_of_eq (congrArg (16 * ·) (atLeast1_eq_max _))) hdue⟩)

theorem exec_selvEccUncorrectable_rho {ob : Word} {rho : Nat} (h : rho < 625) :
    exec (.selvEccUncorrectable g ob rho) s = .next (s.eccSpoiled g.val ob rho) := if_neg (not_not_intro h)

end

/-- Settles O21, command by command. -/
theorem errorlessPairs : Obligations.ErrorlessPairs := by
  intro s g q
  refine ⟨fun ht htwo hacq hsf => ?acquiredP, fun ht htwo hacq hsf => ?acquiredW, fun b ht hal hat hone hdue => ?timeout,
    fun ht hal hfill hdue => ?filled, fun ht hal hauto hno hdue hw hp => ?retime, fun h => rfl, fun ob rho hrho => ?ecc⟩
  case acquiredP =>
    refine ⟨_, exec_legAcquired_due (protect := true) ht htwo hacq hsf, ?_⟩
    rw [State.grp_modGrp_same]
    exact ⟨rfl, rfl, rfl, fun j hj => State.grp_modGrp_other _ _ hj⟩
  case acquiredW =>
    refine ⟨_, exec_legAcquired_due (protect := false) ht htwo hacq hsf, ?_⟩
    rw [State.grp_modGrp_same]
    exact ⟨rfl, rfl, rfl, fun j hj => State.grp_modGrp_other _ _ hj⟩
  case timeout =>
    refine ⟨_, exec_acqTimeout_due ht hal hat hone hdue, ?_⟩
    rw [State.grp_noted, State.grp_toSingle_same]
    exact ⟨rfl, rfl, rfl, State.bit_noted _ _ _ (s.bit_toSingle g.val),
      fun j hj => (State.grp_noted _ _ _ j).trans (s.grp_toSingle_other g.val hj)⟩
  case filled =>
    refine ⟨_, exec_storeFillComplete_due ht hal hfill hdue, ?_⟩
    rw [State.grp_noted, State.grp_putSfa_same, State.grp_modGrp_same]
    refine ⟨rfl, rfl, rfl, rfl, fun j hj => ?_⟩
    rw [State.grp_noted, State.grp_putSfa_other _ _ hj, State.grp_modGrp_other _ _ hj]
  case retime =>
    have hexec := exec_autoRetime_due ht hal hauto hno hdue
    have far (hfar : 24414 < q.diff ∨ q.diff < -24414) : ∃ t, exec (.autoRetime g) s = .next t ∧ (t.grp g.val).align = .single ∧
        ∀ j, j ≠ g.val → t.grp j = s.grp j := by
      have hsingle := s.retimeNow_far g.val hw hp (q.tooFar_iff.mpr hfar)
      refine ⟨_, hexec, ?_, fun j hj => ?_⟩
      · rw [State.grp_noted, hsingle, State.grp_toSingle_same]
        rfl
      · rw [State.grp_noted, hsingle, State.grp_toSingle_other _ _ hj]
    refine ⟨fun hle hge hready => ?_, fun h => far (.inl h), fun h => far (.inr h)⟩
    have hnear : q.tooFar = false := Bool.eq_false_iff.mpr fun h => by have := q.tooFar_iff.mp h; omega
    obtain ⟨hown, hother⟩ := s.retimeNow_near g.val hw hp hnear hready
    obtain ⟨hlater, hearlier, hequal⟩ := q.retimedTo_facts (s.gapAfter q (q.later + 2))
    refine ⟨_, hexec, ?_⟩
    rw [State.grp_noted, hown]
    exact ⟨hal, hlater, hearlier, hequal, fun j hj => (State.grp_noted _ _ _ j).trans (hother j hj)⟩
  case ecc =>
    obtain ⟨hcount, hraw, hregs⟩ := s.reg_eccSpoiled g.val ob rho
    refine ⟨_, exec_selvEccUncorrectable_rho hrho, hcount, hraw, fun e he hmiss => ?miss, fun e he hg hob hr hlead => ?hit, hregs⟩
    case miss =>
      rw [State.store_eccSpoiled]
      exact List.mem_map.mpr ⟨e, he, s.spoil_miss g.val hmiss⟩
    case hit =>
      rw [State.store_eccSpoiled] at he
      obtain ⟨d, -, rfl⟩ := List.mem_map.mp he
      obtain ⟨pg, pob, prho, plead⟩ := s.spoil_place g.val ob rho d
      exact s.spoil_hit g.val ⟨pg ▸ hg, pob ▸ hob, prho ▸ hr, plead ▸ hlead⟩

end Sys2Proof.Machine

/-! SUPPORT. Writes of a Blaze unit's registers: data writes fold, and during a run those that R204 lists set REFUSED alone. -/
namespace Sys2Proof.Machine

/-- Offsets of the data, configuration, address, length and BLZ_URUN registers, whose writes R204 refuses during a run. -/
def runLocked : List Nat := [0, 0x10, 0x14, 0x20, 0x24, 0x28, 0x2C]

theorem blzU_runLocked {u o : Nat} (hu : u < 72) (ho : o ∈ runLocked) : o < 0x100 ∧ blzU u o < 0x85800 ∧ blzU u o % 4 = 0 := by
  obtain ⟨hlt, hmod⟩ : o < 0x100 ∧ o % 4 = 0 := by revert o; decide
  unfold blzU
  omega

/-- Every register that R204 refuses can be written, and no access code of its row stops a write. -/
theorem regRow_runLocked {o : Nat} (u : Nat) (ho : o ∈ runLocked) : ∃ r, regRow .blzUnit u o = some r ∧ r.acc ≠ .ro ∧ r.acc ≠ .rc := by
  simp only [runLocked, List.mem_cons, List.not_mem_nil, or_false] at ho
  rcases ho with rfl | rfl | rfl | rfl | rfl | rfl | rfl <;> exact ⟨_, rfl, by decide, by decide⟩

theorem beBytes_four (v : Word) :
    beBytes 4 v.toNat = [(v >>> 24).setWidth 8, (v >>> 16).setWidth 8, (v >>> 8).setWidth 8, v.setWidth 8] := by
  simp only [beBytes, List.cons.injEq, and_true]
  refine ⟨?_, ?_, ?_, ?_⟩ <;> exact BitVec.eq_of_toNat_eq (by simp)

section
variable {s : State} {m : Mid} {u o : Nat} {v : Word}

/-! ### Folding (R204) -/

theorem State.unit_foldBytes_same (u : Nat) (bs : List Byte) :
    (s.foldBytes u bs).unit u = { s.unit u with run := bs.foldl (runStep (s.uPoly u)) (s.unit u).run } := s.unit_modUnit_same u _

theorem State.unitWrite_data32 (hon : s.unitOn u = true) (hheld : s.unitHeld m u = false) (hbusy : (s.unit u).busy = false) :
    s.unitWrite m u 0x20 v = s.foldBytes u (beBytes 4 v.toNat) := by
  simp [State.unitWrite, hon, hheld, hbusy]

theorem State.unitWrite_data8 (hon : s.unitOn u = true) (hheld : s.unitHeld m u = false) (hbusy : (s.unit u).busy = false) :
    s.unitWrite m u 0x24 v = s.foldBytes u [v.setWidth 8] := by
  simp [State.unitWrite, hon, hheld, hbusy]

/-- Folding leaves the front end, the unit's power, owner and BUSY as they were, so that the next write of the same master is taken likewise. -/
theorem State.foldBytes_taken (bs : List Byte) (hheld : s.unitHeld m u = false) (hbusy : (s.unit u).busy = false) :
    let t := (s.foldBytes u bs).answer 0
    t.gate m (blzU u o) 4 true = s.gate m (blzU u o) 4 true ∧ t.unitOn u = s.unitOn u ∧ t.unitHeld m u = false ∧ (t.unit u).busy = false ∧
      t.uPoly u = s.uPoly u := by
  refine ⟨rfl, rfl, ?_, ?_, rfl⟩
  · rw [State.unitHeld, State.unit_answer, State.unit_foldBytes_same]
    exact hheld
  · rw [State.unit_answer, State.unit_foldBytes_same]
    exact hbusy

/-! ### Writes during a run (R204) -/

theorem State.unitWrite_busy (hon : s.unitOn u = true) (hheld : s.unitHeld m u = false) (hbusy : (s.unit u).busy = true)
    (ho : o ∈ runLocked) : s.unitWrite m u o v = s.unitRefuse u false := by
  obtain ⟨hown, hlisted, hcmd, hlt⟩ : o ≠ 0xC ∧ o ∈ [0, 4, 0x10, 0x14, 0x20, 0x24, 0x28, 0x2C, 0x34, 0x38, 0x3C] ∧ o ≠ 4 ∧ o < 0x34 := by
    revert o
    decide
  unfold State.unitWrite
  rw [if_neg (not_not_intro hon), if_neg hown, if_neg (not_not_intro hlisted), if_neg (by simp [hheld]), if_neg hcmd, if_pos ⟨hbusy, hlt⟩]

/-- A write refused during a run changes nothing but REFUSED. -/
theorem State.unitRefuse_frame (u : Nat) :
    let t := (s.unitRefuse u false).answer 0
    t.unit u = { s.unit u with refused := true } ∧ (∀ j, j ≠ u → t.unit j = s.unit j) ∧ t.regs = s.regs ∧ t.bank = s.bank := by
  have hmod : s.unitRefuse u false = s.modUnit u (fun b => { b with refused := true }) := rfl
  dsimp only
  simp only [State.unit_answer, hmod]
  exact ⟨s.unit_modUnit_same u _, fun _ hj => s.unit_modUnit_other _ hj, rfl, rfl⟩

/-! ### The commands -/

theorem State.unitAccess_reaches (h : reaches s m (blzU u o)) : s.unitAccess m u o v = (s.unitWrite m u o v).answer 0 :=
  s.write4_reaches h

theorem exec_blzUdata32Write_free {u : Fin 72} (h : reaches s m (blzU u.val 0x20)) (hon : s.unitOn u.val = true)
    (hheld : s.unitHeld m u.val = false) (hbusy : (s.unit u.val).busy = false) :
    exec (.blzUdata32Write m u v) s = .next ((s.foldBytes u.val (beBytes 4 v.toNat)).answer 0) := by
  rw [← State.unitWrite_data32 hon hheld hbusy]
  exact congrArg Host.Outcome.next (State.unitAccess_reaches h)

theorem exec_blzUdata8Write_free {u : Fin 72} (h : reaches s m (blzU u.val 0x24)) (hon : s.unitOn u.val = true)
    (hheld : s.unitHeld m u.val = false) (hbusy : (s.unit u.val).busy = false) :
    exec (.blzUdata8Write m u v) s = .next ((s.foldBytes u.val [v.setWidth 8]).answer 0) := by
  rw [← State.unitWrite_data8 hon hheld hbusy]
  exact congrArg Host.Outcome.next (State.unitAccess_reaches h)

/-- A 4-byte write of a register below the windows is a register access. -/
theorem State.busStore_word {a : Nat} (ha : a < 0x1000000) (hmod : a % 4 = 0) (v : Word) :
    s.busStore m a 4 ⟨v.setWidth 64, [], [], []⟩ = s.regAccess m a v := by
  have hwin : windowOf a = none := by
    unfold windowOf
    repeat rw [if_neg (by omega)]
  have hv : (v.setWidth 64).setWidth 32 = v := by simp
  unfold State.busStore State.busWrite
  rw [if_neg (by simp [hmod]), if_pos rfl, if_neg (by omega), if_neg (by omega), hwin, if_neg (by simp), if_pos rfl, hv]

theorem State.regWrite_runLocked (hu : u < 72) (ho : o ∈ runLocked) (s : State) :
    s.regWrite m (blzU u o) v = s.unitWrite m u o v := by
  obtain ⟨hlt, -, -⟩ := blzU_runLocked hu ho
  obtain ⟨r, hrow, hro, hrc⟩ := regRow_runLocked u ho
  unfold State.regWrite
  rw [locate_blzU hu hlt]
  dsimp only
  rw [hrow]
  dsimp only
  rw [if_neg (by simp [hro, hrc]), if_neg (by simp [isPage]), if_neg (by simp [isPage])]

theorem exec_registerWrite_runLocked {u : Fin 72} (ho : o ∈ runLocked) :
    exec (.registerWrite m (BitVec.ofNat 27 (blzU u.val o)) 4 ⟨v.setWidth 64, [], [], []⟩) s = .next (s.unitAccess m u.val o v) := by
  obtain ⟨-, hlt, hmod⟩ := blzU_runLocked u.isLt ho
  have haddr : (BitVec.ofNat 27 (blzU u.val o)).toNat = blzU u.val o := Nat.mod_eq_of_lt (by omega)
  refine congrArg Host.Outcome.next ?_
  rw [haddr, State.busStore_word (by omega) hmod, State.regAccess, State.unitAccess]
  exact congrArg _ (funext (State.regWrite_runLocked u.isLt ho))

end

/-- Settles O60: the data writes of a unit at rest, then the writes refused during a run, each of which is an access to one of the offsets. -/
theorem blazeDataFolding : Obligations.BlazeDataFolding := by
  intro s m u v w hon hheld hm hgate k p
  refine ⟨fun hbusy => ⟨?word, ?byte, ?twice⟩, fun hbusy => ?refused⟩
  case word =>
    refine ⟨_, exec_blzUdata32Write_free ⟨hm, hgate _ (by decide)⟩ hon hheld hbusy, ?_⟩
    rw [State.unit_answer, State.unit_foldBytes_same, beBytes_four]
  case byte =>
    refine ⟨_, exec_blzUdata8Write_free ⟨hm, hgate _ (by decide)⟩ hon hheld hbusy, ?_⟩
    rw [State.unit_answer, State.unit_foldBytes_same]
    rfl
  case twice =>
    have hgo := hgate 0x20 (by decide)
    obtain ⟨hgate', hon', hheld', hbusy', hpoly⟩ := State.foldBytes_taken (o := 0x20) (beBytes 4 v.toNat) hheld hbusy
    refine ⟨_, _, exec_blzUdata32Write_free ⟨hm, hgo⟩ hon hheld hbusy,
      exec_blzUdata32Write_free ⟨hm, hgate'.trans hgo⟩ (hon'.trans hon) hheld' hbusy', ?_⟩
    rw [State.unit_answer, State.unit_foldBytes_same, hpoly, State.unit_answer, State.unit_foldBytes_same, List.foldl_append]
  case refused =>
    have next (o : Nat) (ho : o ∈ runLocked) : (.next (s.unitAccess m k o v) : Out) = .next ((s.unitRefuse k false).answer 0) := by
      rw [State.unitAccess_reaches ⟨hm, hgate o ho⟩, State.unitWrite_busy hon hheld hbusy ho]
    intro r hr
    refine ⟨(s.unitRefuse k false).answer 0, ?_, s.unitRefuse_frame k⟩
    rcases List.mem_append.mp hr with hcommand | hregister
    · simp only [List.mem_cons, List.not_mem_nil, or_false] at hcommand
      rcases hcommand with rfl | rfl | rfl | rfl
      · exact next 0x20 (by decide)
      · exact next 0x24 (by decide)
      · exact next 0x10 (by decide)
      · exact next 0x14 (by decide)
    · obtain ⟨o, ho, rfl⟩ := List.mem_map.mp hregister
      exact (exec_registerWrite_runLocked ho).trans (next o ho)

end Sys2Proof.Machine

/-! SUPPORT. A block run whose bank a PERTURB hook of the Shed holds: its reads wait until the hold ends (R371, R455). -/
namespace Sys2Proof.Machine

/-- Shared unit 64 runs over byte 0 of bank 0, and the Shed holds that bank's target 10 in 1 cycle of every 1. -/
def heldRun : State :=
  { State.reset with
    blz := [(64, { busy := true })]
    tst := { State.reset.tst with pert := true, shedHook := [0x10010A, 0, 0, 0] } }

theorem heldRun_runHeld : heldRun.runHeld 64 = true := by decide +kernel

theorem heldRun_address : heldRun.rf (blzU 64 0x28) 0 23 = 0 := by decide +kernel

theorem heldRun_length : heldRun.runLen 64 = 1 := by decide +kernel

/-- The byte stands in a good word of a bank that is not in TEST. -/
theorem heldRun_good : 0 ∉ heldRun.bank.unc ∧ heldRun.bankKind 0 ≠ 4 := by decide +kernel

/-- A run whose bank is held does not end. -/
theorem exec_blzRunDone_held {s : State} {u : Fin 72} (h : s.runHeld u.val = true) : exec (.blzRunDone u) s = .next s :=
  congrArg Host.Outcome.next (if_neg fun hdue => hdue.2 h)

/-- Refutes O41: a run over good words does not end while the bank that it reads is held. -/
theorem not_blazeUnits : ¬ Obligations.BlazeUnits := by
  intro h
  obtain ⟨-, hunits⟩ := h heldRun 66 0
  obtain ⟨-, -, -, hdone, -⟩ := hunits ⟨64, by decide⟩
  dsimp only at hdone
  rw [heldRun_address, heldRun_length] at hdone
  have good (x : Nat) (_ : 0 ≤ x) (hx : x < 0 + 1) : x / 8 ∉ heldRun.bank.unc ∧ heldRun.bankKind (x / 0x20000) ≠ 4 := by
    obtain rfl : x = 0 := by omega
    exact heldRun_good
  obtain ⟨t, ht, hunit, -⟩ := hdone (by decide +kernel) (by decide +kernel) (by decide) good
  rw [exec_blzRunDone_held (u := ⟨64, by decide⟩) heldRun_runHeld] at ht
  cases ht
  exact absurd (congrArg BlzUnit.busy hunit) (by decide +kernel)

end Sys2Proof.Machine

/-! SUPPORT. The Beat's inputs: the DCO registers, the monitors of the candidates, their activity, qualification and QL, the FREF pins, the loss
of the selected input (R213, R215, R216, R217, R219, R221, R224, R228). -/
namespace Sys2Proof.Machine

section
variable {s : State} {m : Mid}

/-! ### The DCO registers (R213) -/

theorem State.dcoWrite_lo (v : Word) (hman : s.rb 0x20040 1 = true) (hfree : s.beat.mode = .freeRun) :
    s.dcoWrite m false v = s.modBeat (fun b => { b with loHeld := v }) := if_pos ⟨hman, hfree⟩

theorem State.dcoWrite_hi (v : Word) (hman : s.rb 0x20040 1 = true) (hfree : s.beat.mode = .freeRun) :
    s.dcoWrite m true v = s.modBeat (fun b => { b with dcoPend := some (signed 40 (b.loHeld.toNat + fld v 0 8 * 2 ^ 32)) }) :=
  if_pos ⟨hman, hfree⟩

theorem State.dcoWrite_refused (hi : Bool) (v : Word) (h : s.rb 0x20040 1 = false ∨ s.beat.mode ≠ .freeRun) :
    s.dcoWrite m hi v = s.errlog 0x20000 (if hi then 0x6C else 0x68) m := by
  refine if_neg fun ⟨hman, hfree⟩ => ?_
  rcases h with hoff | hmode
  · exact absurd (hman.symm.trans hoff) (by decide)
  · exact hmode hfree

theorem exec_beatDcoLoRead_readable (h : readable s m 0x20068) : exec (.beatDcoLoRead m) s = .next
    ((s.modBeat (fun b => { b with hiLatch := BitVec.ofNat 8 (unsigned 40 s.dcoNow >>> 32) })).answer ((w32 (unsigned 40 s.dcoNow)).setWidth 64)) :=
  congrArg Host.Outcome.next (s.access_go h)

theorem exec_beatDcoLoWrite_reaches {v : Word} (h : reaches s m 0x20068) :
    exec (.beatDcoLoWrite m v) s = .next ((s.dcoWrite m false v).answer 0) := congrArg Host.Outcome.next (s.write4_reaches h)

theorem exec_beatDcoHiWrite_reaches {v : Word} (h : reaches s m 0x2006C) :
    exec (.beatDcoHiWrite m v) s = .next ((s.dcoWrite m true v).answer 0) := congrArg Host.Outcome.next (s.write4_reaches h)

/-! ### The monitors (R215, R216) -/

/-- REJ in force lies above ACC in force, whatever the register holds. -/
theorem State.accPpb_lt_rejPpb (s : State) : s.accPpb < s.rejPpb := by
  unfold State.rejPpb
  dsimp only
  split <;> omega

/-- A candidate whose monitor finds the offset `off` (R216). -/
def Cand.judged (k : Cand) (acc rej off : Nat) : Cand :=
  { k with freqOk := if off ≤ acc then true else if rej < off then false else k.freqOk }

section
variable {k : Cand} {acc rej off : Nat}

theorem Cand.judged_within (h : off ≤ acc) : k.judged acc rej off = { k with freqOk := true } := by rw [Cand.judged, if_pos h]

theorem Cand.judged_beyond (hacc : acc < rej) (h : rej < off) : k.judged acc rej off = { k with freqOk := false } := by
  rw [Cand.judged, if_neg (by omega), if_pos h]

theorem Cand.judged_between (hacc : acc < off) (hrej : off ≤ rej) : k.judged acc rej off = k := by
  rw [Cand.judged, if_neg (by omega), if_neg (by omega)]

end

theorem State.fofs_unperturbed (c : Nat) (h : s.tst.pert = false) : s.fofs c = 0 := if_neg fun hp => absurd (h.symm.trans hp.1) (by decide)

theorem State.monitor_unperturbed (c : Nat) (ppb : Int) (h : s.tst.pert = false) : s.monitor c ppb =
    (s.setReg (beatA (0x300 + 4 * c)) (w32 (unsigned 32 ppb))).modCand c (·.judged s.accPpb s.rejPpb ppb.natAbs) := by
  unfold State.monitor
  dsimp only
  rw [State.fofs_unperturbed c h, Int.add_zero]
  rfl

theorem exec_freqMonitorWindow_due {c : Fin 24} {ppb : Int} (hon : s.candOn c.val = true)
    (hwin : s.candWindow c.val ≤ since s.bolt (s.cand c.val).monAt) : exec (.freqMonitorWindow c ppb) s = .next (s.monitor c.val ppb) :=
  congrArg Host.Outcome.next (if_pos (by simp [hon, hwin]))

theorem exec_freqMonitorWindow_disabled {c : Fin 24} {ppb : Int} (hon : s.candOn c.val = false) :
    exec (.freqMonitorWindow c ppb) s = .next s := congrArg Host.Outcome.next (if_neg (by simp [hon]))

/-! ### Activity (R217) -/

theorem exec_refActivityGap_enabled {c : Fin 8} (hon : s.candOn c.val = true) (hfrozen : s.jtag.frozen = false) :
    exec (.refActivityGap c) s = .next (s.modCand c.val (fun k => { k with gapNow := true })) :=
  congrArg Host.Outcome.next (if_pos (by simp [hon, hfrozen]))

theorem exec_refActiveRestored_due {c : Fin 8} (hon : s.candOn c.val = true) (hactive : (s.cand c.val).active = false)
    (hgap : (s.cand c.val).gapNow = false) (hwin : s.candWindow c.val ≤ since s.bolt (s.cand c.val).gapAt) :
    exec (.refActiveRestored c) s = .next (s.modCand c.val (fun k => { k with active := true })) :=
  congrArg Host.Outcome.next (if_pos (by simp [hon, hactive, hgap, hwin]))

theorem exec_refActiveRestored_early {c : Fin 8} (h : since s.bolt (s.cand c.val).gapAt < s.candWindow c.val) :
    exec (.refActiveRestored c) s = .next s := congrArg Host.Outcome.next (if_neg (by simp [h]))

/-! ### Qualification and QL (R219, R221) -/

theorem exec_candidateQualified_due {c : Fin 24} {b : Word} (hgood : s.candGood c.val = true) (hqual : (s.cand c.val).qual = false)
    (hfrom : (s.cand c.val).goodFrom = some b) (hlong : 256 * s.rf 0x2005C 0 12 ≤ since s.bolt b) : exec (.candidateQualified c) s =
      .next ((s.modCand c.val (fun k => { k with qual := true, acqFail := false })).irq (beatA 0) 4) :=
  congrArg Host.Outcome.next (if_pos ⟨hgood, by simp [hqual], by rw [hfrom]; exact decide_eq_true hlong⟩)

theorem exec_candidateQualified_early {c : Fin 24} {b : Word} (hfrom : (s.cand c.val).goodFrom = some b)
    (hshort : since s.bolt b < 256 * s.rf 0x2005C 0 12) : exec (.candidateQualified c) s = .next s := by
  refine congrArg Host.Outcome.next (if_neg fun ⟨_, _, hlong⟩ => ?_)
  rw [hfrom] at hlong
  exact absurd (of_decide_eq_true hlong) (Nat.not_le.mpr hshort)

theorem exec_candidateQualified_bad {c : Fin 24} (h : s.candGood c.val = false) : exec (.candidateQualified c) s = .next s :=
  congrArg Host.Outcome.next (if_neg (by simp [h]))

/-- Two changes that agree on what a candidate is make the same state. -/
theorem State.modCand_congr {c : Nat} {f g : Cand → Cand} (h : f (s.cand c) = g (s.cand c)) : s.modCand c f = s.modCand c g := by
  have hmap : smMod {} s.beat.cand c f = smMod {} s.beat.cand c g := congrArg (smPut ({} : Cand) s.beat.cand c) h
  rw [State.modCand, State.modCand, hmap]

theorem exec_lrQlChange_due {c : Fin 24} (hlr : 8 ≤ c.val) (hnew : (s.cand c.val).qlNew ≠ (s.cand c.val).ql) (hrep : 3 ≤ (s.cand c.val).qlRep) :
    exec (.lrQlChange c) s = .next (s.modCand c.val (fun k => { k with ql := (s.cand c.val).qlNew })) := by
  refine congrArg Host.Outcome.next ((if_pos ⟨hlr, hnew, hrep⟩).trans (State.modCand_congr ?_))
  rfl

theorem exec_lrQlChange_early {c : Fin 24} (hrep : (s.cand c.val).qlRep < 3) : exec (.lrQlChange c) s = .next s :=
  congrArg Host.Outcome.next (if_neg fun ⟨_, _, h⟩ => absurd h (Nat.not_le.mpr hrep))

/-! ### The FREF pins (R224) -/

theorem exec_frefPinChange_new {e : Bool} {f : BitVec 5} (hfrozen : s.jtag.frozen = false) (h : e ≠ s.beat.enN ∨ f ≠ s.beat.fsel) :
    exec (.frefPinChange e f) s = .next ((s.modBeat (fun b => { b with enN := e, fsel := f })).irq (beatA 0) 8) := by
  refine congrArg Host.Outcome.next (if_neg ?_)
  rintro (hf | ⟨he, hs⟩)
  · exact absurd (hfrozen.symm.trans hf) (by decide)
  · exact h.elim (· he) (· hs)

theorem exec_frefPinChange_same : exec (.frefPinChange s.beat.enN s.beat.fsel) s = .next s :=
  congrArg Host.Outcome.next (if_pos (.inr ⟨rfl, rfl⟩))

/-! ### The loss of the selected input (R228) -/

theorem State.refLost_some {c : Nat} (hsel : s.beat.sel = some c) (hmode : s.beat.mode = .acquiring ∨ s.beat.mode = .locked) :
    s.refLost = if s.inputLost c then s.modBeat (fun b => { b with hold := true }) else s := by
  simp only [State.refLost, hsel, hmode, true_and]

theorem State.refLost_none (hsel : s.beat.sel = none) : s.refLost = s := by simp only [State.refLost, hsel]

end

/-- Settles O44, command by command. -/
theorem beatInputs : Obligations.BeatInputs := by
  intro s m v
  refine ⟨exec_beatDcoLoRead_readable, fun hr => ⟨fun hman hfree => ?loWrite, fun h => ?loRefused⟩,
    fun hr => ⟨fun hman hfree => ?hiWrite, fun h => ?hiRefused⟩, fun c ppb hon hwin hpert => ?monitor,
    fun c hon ppb => exec_freqMonitorWindow_disabled hon,
    fun c hon => ⟨exec_refActivityGap_enabled hon, exec_refActiveRestored_due hon, exec_refActiveRestored_early⟩,
    fun c b hgood hqual hfrom => ⟨fun hlong => ?qualified, exec_candidateQualified_early hfrom⟩,
    fun c => exec_candidateQualified_bad, fun c hlr hnew => ⟨exec_lrQlChange_due hlr hnew, exec_lrQlChange_early⟩,
    fun e f hfrozen hnew => ?pins, exec_frefPinChange_same,
    fun c hsel hmode => ⟨fun hlost => ?lost, fun hlost => ?present⟩, fun hsel => congrArg Host.Outcome.next (State.refLost_none hsel)⟩
  case loWrite => rw [exec_beatDcoLoWrite_reaches hr, State.dcoWrite_lo v hman hfree]
  case loRefused => rw [exec_beatDcoLoWrite_reaches hr, State.dcoWrite_refused false v h]; rfl
  case hiWrite => rw [exec_beatDcoHiWrite_reaches hr, State.dcoWrite_hi v hman hfree]
  case hiRefused => rw [exec_beatDcoHiWrite_reaches hr, State.dcoWrite_refused true v h]; rfl
  case monitor =>
    refine ⟨_, (exec_freqMonitorWindow_due hon hwin).trans (congrArg _ (State.monitor_unperturbed c.val ppb hpert)), State.reg_setReg_same _ _ _, ?_⟩
    simp only [State.cand_modCand_same, State.cand_setReg]
    exact ⟨Cand.judged_within, Cand.judged_beyond s.accPpb_lt_rejPpb, Cand.judged_between, fun j hj => State.cand_modCand_other _ _ hj,
      fun a ha => State.reg_setReg_other _ _ ha⟩
  case qualified =>
    refine ⟨_, exec_candidateQualified_due hgood hqual hfrom hlong, ?_, fun j hj => ?_, State.irq_reg _ _ _ _, fun a ha => State.irq_reg_other _ ha⟩
    · rw [State.cand_irq, State.cand_modCand_same]
    · rw [State.cand_irq, State.cand_modCand_other _ _ hj]
  case pins =>
    exact ⟨_, exec_frefPinChange_new hfrozen hnew, State.irq_beat _ _ _, State.irq_reg _ _ _ _, fun a ha => State.irq_reg_other _ ha⟩
  case lost => exact congrArg Host.Outcome.next ((State.refLost_some hsel hmode).trans (if_pos hlost))
  case present => exact congrArg Host.Outcome.next ((State.refLost_some hsel hmode).trans (if_neg (by simp [hlost])))

end Sys2Proof.Machine

/-! SUPPORT. The Beat's loop: changes of STATE and SEL, acquisition, lock, holdover and the pull (R225, R226, R227, R230). -/
namespace Sys2Proof.Machine

section
variable {s : State} {m : Mid}

/-! ### The end of an align (R235, R237) -/

/-- The Beat once an align has ended with `r`. -/
def Beat.alignEnded (b : Beat) (r : AlignRes) : Beat := { b with alBusy := false, alLeft := 0, alStep := 0, alRes := r }

@[simp] theorem State.beat_endAlign (r : AlignRes) : (s.endAlign r).beat = s.beat.alignEnded r := State.irq_beat _ _ _

theorem State.bit_endAlign_raised (r : AlignRes) : bit ((s.endAlign r).reg 0x20010) 5 = true := State.bit_irq_raised _ (by decide)

theorem State.bit_endAlign_kept (r : AlignRes) {a i : Nat} (h : bit (s.reg a) i = true) : bit ((s.endAlign r).reg a) i = true :=
  State.bit_irq_kept _ _ _ h

theorem State.reg_endAlign_other (r : AlignRes) {a : Nat} (h : a ≠ 0x20010) : (s.endAlign r).reg a = s.reg a := State.irq_reg_other _ h

/-- An align has ended with `r` in `t`, where the Beat was `b`: it is raised, and nothing has moved. -/
def State.AlignOver (t : State) (b : Beat) (r : AlignRes) : Prop :=
  t.beat.alBusy = false ∧ t.beat.alRes = r ∧ t.beat.alLeft = 0 ∧ t.beat.mode = b.mode ∧ t.beat.sel = b.sel ∧ t.beat.theta = b.theta ∧
    bit (t.reg 0x20010) 5 = true

theorem State.alignOver_endAlign {b : Beat} (r : AlignRes) (hmode : s.beat.mode = b.mode) (hsel : s.beat.sel = b.sel)
    (htheta : s.beat.theta = b.theta) : (s.endAlign r).AlignOver b r := by
  unfold State.AlignOver
  rw [State.beat_endAlign]
  exact ⟨rfl, rfl, rfl, hmode, hsel, htheta, State.bit_endAlign_raised r⟩

/-! ### Changes of STATE and SEL (R226, R246) -/

@[simp] theorem State.beat_trace (c kind src : Nat) (d0 d1 : Word) : (s.trace c kind src d0 d1).beat = s.beat :=
  State.trace_inv c kind src d0 d1 (only_closed [.regs, .pcie, .tst, .out, .free] s) (only_refl _ _) .beat (by decide)

/-- The causes of BEAT_IRQ_RAW that a change of the Beat from `a` to `b` raises. -/
def Beat.causes (a b : Beat) : Nat := (if a.mode = b.mode then 0 else 1) + (if a.sel = b.sel then 0 else 2)

/-- The state after a change of the Beat from `a`, with its causes raised and traced. -/
def State.beatTold (t : State) (a : Beat) : State :=
  if a.causes t.beat = 0 then t else (t.irq (beatA 0) (a.causes t.beat)).trace 8 9 82 t.beatStat (t.reg (beatA 0xA0))

@[simp] theorem State.beat_beatTold (a : Beat) : (s.beatTold a).beat = s.beat := by
  unfold State.beatTold
  split
  · rfl
  · rw [State.beat_trace, State.irq_beat]

theorem State.bit_beatTold_state {a : Beat} (h : a.mode ≠ s.beat.mode) : bit ((s.beatTold a).reg 0x20010) 0 = true := by
  have hbit : bit (w32 (a.causes s.beat)) 0 = true := by
    rw [Beat.causes, if_neg h]
    split <;> decide
  have hraised : a.causes s.beat ≠ 0 := fun h0 => absurd (h0 ▸ hbit) (by decide)
  rw [State.beatTold, if_neg hraised, State.reg_trace_other _ _ _ _ _ _ (by decide) (by decide)]
  exact State.bit_irq_raised _ hbit

/-- A change of the Beat from `a` to `b` cancels the align in progress: a marker align, on a switch or an exit from LOCKED (R237). -/
def Beat.Cancels (a b : Beat) : Prop :=
  b.alBusy = true ∧ ¬ b.alSrc = true ∧ (a.sel ≠ b.sel ∨ (a.mode = .locked ∧ b.mode ≠ .locked))

variable {f : State → State}

theorem State.beatNoted_cancels (h : s.beat.Cancels (f s).beat) : s.beatNoted f = ((f s).beatTold s.beat).endAlign .cancelled := if_pos h

theorem State.beatNoted_keeps (h : ¬ s.beat.Cancels (f s).beat) : s.beatNoted f = (f s).beatTold s.beat := if_neg h

/-- What the end of an align leaves is as the change itself made it. -/
theorem State.field_beatNoted {α : Type} (g : Beat → α) (hg : ∀ b r, g (Beat.alignEnded b r) = g b) : g (s.beatNoted f).beat = g (f s).beat := by
  by_cases h : s.beat.Cancels (f s).beat
  · rw [State.beatNoted_cancels h, State.beat_endAlign, State.beat_beatTold, hg]
  · rw [State.beatNoted_keeps h, State.beat_beatTold]

/-- A change of STATE is raised. -/
theorem State.bit_beatNoted_state (hmode : s.beat.mode ≠ (f s).beat.mode) : bit ((s.beatNoted f).reg 0x20010) 0 = true := by
  have htold := State.bit_beatTold_state hmode
  by_cases h : s.beat.Cancels (f s).beat
  · rw [State.beatNoted_cancels h]
    exact State.bit_endAlign_kept _ htold
  · rwa [State.beatNoted_keeps h]

/-! ### Acquisition, lock and its loss (R225, R226) -/

theorem exec_loopStageAdvance_due (hmode : s.beat.mode = .acquiring) (hstage : s.beat.stage < 2) (hcnt : 64 ≤ s.beat.stageCnt) :
    exec .loopStageAdvance s = .next (s.modBeat (fun b => { b with stage := b.stage + 1, stageCnt := 0, lockCnt := 0 })) :=
  congrArg Host.Outcome.next (if_pos ⟨hmode, hstage, hcnt⟩)

theorem exec_loopStageAdvance_early (hcnt : s.beat.stageCnt < 64) : exec .loopStageAdvance s = .next s :=
  congrArg Host.Outcome.next (if_neg fun ⟨_, _, h⟩ => absurd h (Nat.not_le.mpr hcnt))

/-- The Beat goes to LOCKED. -/
def State.lock (s : State) : State := s.modBeat (fun b => { b with mode := .locked, lockedAt := s.bolt, hist := [], badCnt := 0 })

theorem exec_beatLocked_due (hmode : s.beat.mode = .acquiring) (hstage : s.beat.stage = 2) (hcnt : 256 ≤ s.beat.lockCnt) :
    exec .beatLocked s = .next (s.beatNoted State.lock) := congrArg Host.Outcome.next (if_pos ⟨hmode, hstage, hcnt⟩)

theorem exec_beatLocked_early (hcnt : s.beat.lockCnt < 256) : exec .beatLocked s = .next s :=
  congrArg Host.Outcome.next (if_neg fun ⟨_, _, h⟩ => absurd h (Nat.not_le.mpr hcnt))

theorem State.beat_beatNoted_lock (hmode : s.beat.mode = .acquiring) : (s.beatNoted State.lock).beat = s.lock.beat := by
  have hkeeps : ¬ s.beat.Cancels s.lock.beat := by
    rintro ⟨-, -, hsel | ⟨hlocked, -⟩⟩
    · exact hsel rfl
    · exact absurd (hmode.symm.trans hlocked) (by decide)
  rw [State.beatNoted_keeps hkeeps, State.beat_beatTold]

/-- The Beat goes from LOCKED back to stage 1 of acquisition. -/
def State.unlock (s : State) : State :=
  s.modBeat (fun b => { b with mode := .acquiring, stage := 1, acqAt := s.bolt, stageCnt := 0, lockCnt := 0, badCnt := 0 })

theorem exec_beatLockLost_due (hmode : s.beat.mode = .locked) (hcnt : 16 ≤ s.beat.badCnt) :
    exec .beatLockLost s = .next (s.beatNoted State.unlock) := congrArg Host.Outcome.next (if_pos ⟨hmode, hcnt⟩)

theorem exec_beatLockLost_early (hcnt : s.beat.badCnt < 16) : exec .beatLockLost s = .next s :=
  congrArg Host.Outcome.next (if_neg fun ⟨_, h⟩ => absurd h (Nat.not_le.mpr hcnt))

theorem State.beat_beatNoted_unlock (hmode : s.beat.mode = .locked) (hbusy : s.beat.alBusy = true) (hsrc : s.beat.alSrc = false) :
    (s.beatNoted State.unlock).beat = s.unlock.beat.alignEnded .cancelled := by
  have hsrc' : ¬ s.beat.alSrc = true := by simp [hsrc]
  have hmode' : s.unlock.beat.mode ≠ .locked := nofun
  have hcancels : s.beat.Cancels s.unlock.beat := ⟨hbusy, hsrc', .inr ⟨hmode, hmode'⟩⟩
  rw [State.beatNoted_cancels hcancels, State.beat_endAlign, State.beat_beatTold]

/-! ### ACQ_TMO (R226): selection leaves the candidates as they are -/

theorem State.cand_modBeat {h : Beat → Beat} (hc : (h s.beat).cand = s.beat.cand) (j : Nat) : (s.modBeat h).cand j = s.cand j := by
  rw [State.cand, State.cand, State.modBeat, hc]

@[simp] theorem State.cand_incReg (a k j : Nat) : (s.incReg a k).cand j = s.cand j := rfl

@[simp] theorem State.beat_candPhase (c : Nat) : (s.candPhase c).2.beat = s.beat :=
  State.candPhase_inv c (only_closed [.free] s) (only_refl _ _) .beat (by decide)

@[simp] theorem State.cand_candPhase (c j : Nat) : (s.candPhase c).2.cand j = s.cand j := by rw [State.cand, State.cand, State.beat_candPhase]

@[simp] theorem State.cand_setTheta (c j : Nat) : (s.setTheta c).cand j = s.cand j := by
  unfold State.setTheta
  dsimp only
  rw [State.cand_modBeat rfl, State.cand_candPhase]

@[simp] theorem State.cand_switchTo (c j : Nat) : (s.switchTo c).cand j = s.cand j := by
  unfold State.switchTo
  dsimp only
  split
  · rw [State.cand_modBeat rfl, State.cand_candPhase]
  · split
    · rw [State.cand_setReg, State.cand_modBeat rfl, State.cand_candPhase]
    · rw [State.cand_irq, State.cand_setReg, State.cand_modBeat rfl, State.cand_candPhase]

@[simp] theorem State.cand_acquireOn (c : Nat) (keep : Bool) (j : Nat) : (s.acquireOn c keep).cand j = s.cand j := by
  unfold State.acquireOn
  dsimp only
  rw [State.cand_modBeat rfl]
  cases keep
  · exact State.cand_setTheta c j
  · exact State.cand_switchTo c j

@[simp] theorem State.cand_beatMove (r : SelRes) (j : Nat) : (s.beatMove r).cand j = s.cand j := by
  cases r with
  | free =>
    unfold State.beatMove
    dsimp only
    split
    · rfl
    · exact State.cand_modBeat rfl j
  | none =>
    unfold State.beatMove
    dsimp only
    repeat' split
    all_goals simp [State.cand_modBeat, Beat.leave]
  | cand c =>
    unfold State.beatMove
    dsimp only
    repeat' split
    all_goals simp

theorem State.cand_beatNoted (j : Nat) : (s.beatNoted f).cand j = (f s).cand j :=
  State.field_beatNoted (fun b => smGet ({} : Cand) b.cand j) fun _ _ => rfl

theorem State.cand_selectAndMove (j : Nat) : s.selectAndMove.cand j = s.cand j := by
  unfold State.selectAndMove
  dsimp only
  rw [State.cand_beatNoted, State.cand_beatMove, State.cand_modBeat rfl]

/-- The selected candidate has failed to lock. -/
def State.failAcq (s : State) (c : Nat) : State :=
  (s.modCand c (fun k => { k with acqFail := true, qual := false, goodFrom := none })).when (s.cand c).qual (·.irq (beatA 0) 4)

theorem State.cand_failAcq (c j : Nat) :
    (s.failAcq c).cand j = (s.modCand c (fun k => { k with acqFail := true, qual := false, goodFrom := none })).cand j := by
  unfold State.failAcq State.when
  split
  · exact State.cand_irq _ _ _ _
  · rfl

theorem State.acqTimeoutBeat_acquiring {c : Nat} (hsel : s.beat.sel = some c) (hmode : s.beat.mode = .acquiring) :
    s.acqTimeoutBeat = if 15625 * max 1 (fld s.beat.loop 16 8) ≤ since s.bolt s.beat.acqAt then (s.failAcq c).selectAndMove else s := by
  simp only [State.acqTimeoutBeat, hsel, hmode, true_and, atLeast1_eq_max, State.failAcq]

/-! ### Holdover (R226, R227) -/

/-- The Beat goes to LOST. -/
def State.lose (s : State) : State := s.modBeat (fun b => { b with mode := .lost })

theorem exec_holdoverMaxExpire_due (hmode : s.beat.mode = .holdover) (hmax : fld s.beat.hocfg 16 16 ≠ 0)
    (hlong : 15625 * fld s.beat.hocfg 16 16 ≤ since s.bolt s.beat.hoAt) :
    exec .holdoverMaxExpire s = .next ((s.beatNoted State.lose).irq (beatA 0) 0x40) := congrArg Host.Outcome.next (if_pos ⟨hmode, hmax, hlong⟩)

theorem exec_holdoverMaxExpire_never (hmax : fld s.beat.hocfg 16 16 = 0) : exec .holdoverMaxExpire s = .next s :=
  congrArg Host.Outcome.next (if_neg fun ⟨_, h, _⟩ => h hmax)

theorem State.lockedLong_iff :
    s.lockedLong = true ↔ s.beat.mode = .locked ∧ max 65 (15625 * fld s.beat.hocfg 0 8) ≤ since s.bolt s.beat.lockedAt := by
  rw [State.lockedLong, Bool.and_eq_true, beq_iff_eq, decide_eq_true_eq]

theorem exec_hoValidSet_due (hlong : s.lockedLong = true) (hvalid : s.beat.hoValid = false) :
    exec .hoValidSet s = .next (s.modBeat (fun b => { b with hoValid := true, hov := b.average })) :=
  congrArg Host.Outcome.next (if_pos ⟨hlong, by simp [hvalid]⟩)

theorem exec_hoValidSet_unlocked (hmode : s.beat.mode ≠ .locked) : exec .hoValidSet s = .next s :=
  congrArg Host.Outcome.next (if_neg fun ⟨h, _⟩ => hmode (State.lockedLong_iff.mp h).1)

theorem exec_beatClrHo_reaches (h : reaches s m 0x20064) :
    exec (.beatClrHo m) s = .next ((s.modBeat (fun b => { b with hoValid := false })).answer 0) :=
  congrArg Host.Outcome.next (s.write4_reaches h)

/-! ### The pull (R230) -/

theorem exec_pullComplete_made (hpulling : s.beat.pulling = true) (hpull : s.beat.pull = 0) :
    exec .pullComplete s = .next (s.modBeat (fun b => { b with pulling := false })) := congrArg Host.Outcome.next (if_pos ⟨hpulling, hpull⟩)

theorem exec_pullComplete_left (hpull : s.beat.pull ≠ 0) : exec .pullComplete s = .next s :=
  congrArg Host.Outcome.next (if_neg fun h => hpull h.2)

end

end Sys2Proof.Machine

/-! SUPPORT. The commands of an align, its start and its end, and the edges of PPS_OUT (R233, R235, R236, R237). -/
namespace Sys2Proof.Machine

section
variable {s : State} {m : Mid}

/-! ### BEAT_ALIGN_CMD (R235, R237) -/

theorem exec_beatAlignGo_reaches (h : reaches s m 0x20098) : exec (.beatAlignGo m) s = .next ((s.alignCmd 1).answer 0) :=
  congrArg Host.Outcome.next (s.write4_reaches h)

theorem exec_beatAlignCancel_reaches (h : reaches s m 0x20098) : exec (.beatAlignCancel m) s = .next ((s.alignCmd 2).answer 0) :=
  congrArg Host.Outcome.next (s.write4_reaches h)

/-- A command without CANCEL is GO alone. -/
theorem State.alignCmd_go : s.alignCmd 1 = if s.beat.alBusy = false ∧ s.beat.alDue = false then s.modBeat (fun b => { b with alGo := true }) else s := by
  have hgo : bit (1 : Word) 0 = true := by decide
  have hcancel : bit (1 : Word) 1 = false := by decide
  simp only [State.alignCmd, hgo, hcancel, Bool.false_eq_true, false_and, if_false, true_and, Bool.not_eq_true]

/-- A command without GO is CANCEL alone. -/
theorem State.alignCmd_cancel : s.alignCmd 2 = if s.beat.alBusy = true ∧ s.beat.alSrc = false then s.endAlign .cancelled else s := by
  have hgo : bit (2 : Word) 0 = false := by decide
  have hcancel : bit (2 : Word) 1 = true := by decide
  simp only [State.alignCmd, hgo, hcancel, Bool.false_eq_true, false_and, if_false, true_and, Bool.not_eq_true]

theorem State.alignCmd_go_taken (hbusy : s.beat.alBusy = false) (hdue : s.beat.alDue = false) :
    s.alignCmd 1 = s.modBeat (fun b => { b with alGo := true }) := State.alignCmd_go.trans (if_pos ⟨hbusy, hdue⟩)

theorem State.alignCmd_go_ignored (h : s.beat.alBusy = true ∨ s.beat.alDue = true) : s.alignCmd 1 = s :=
  State.alignCmd_go.trans (if_neg (by rcases h with h | h <;> simp [h]))

theorem State.alignCmd_cancel_taken (hbusy : s.beat.alBusy = true) (hsrc : s.beat.alSrc = false) : s.alignCmd 2 = s.endAlign .cancelled :=
  State.alignCmd_cancel.trans (if_pos ⟨hbusy, hsrc⟩)

theorem State.alignCmd_cancel_ignored (h : s.beat.alBusy = false ∨ s.beat.alSrc = true) : s.alignCmd 2 = s :=
  State.alignCmd_cancel.trans (if_neg (by rcases h with h | h <;> simp [h]))

/-! ### The start of an align (R235, R236) -/

theorem exec_alignStart_due {x : Int} (h : s.beat.alDue = true) : exec (.alignStart x) s = .next (s.alignStart x) :=
  congrArg Host.Outcome.next (if_pos h)

theorem exec_alignStart_not_due {x : Int} (h : s.beat.alDue = false) : exec (.alignStart x) s = .next s :=
  congrArg Host.Outcome.next (if_neg (by simp [h]))

/-- The align due is taken, with the SOURCE that BEAT_ALIGN_CFG gives. -/
def State.takeAlign (s : State) : State := s.modBeat (fun b => { b with alDue := false, alSrc := s.rb 0x20090 2, alMark := none })

/-- Taking an align that then ends at once moves nothing. -/
theorem State.alignOver_takeAlign (r : AlignRes) : (s.takeAlign.endAlign r).AlignOver s.beat r := State.alignOver_endAlign r rfl rfl rfl

/-- BEAT_ALIGN_OFS, in ns. -/
def State.alignOfs (s : State) : Int := signed 32 (s.reg 0x20094).toNat

theorem State.alignStart_noref (x : Int) (hsrc : s.rb 0x20090 2 = false) (hmode : s.beat.mode ≠ .locked) :
    s.alignStart x = s.takeAlign.endAlign .noref := if_pos ⟨fun h => absurd (hsrc.symm.trans h) (by decide), hmode⟩

/-- An align from its offset, or one with the Beat LOCKED, has the reference it needs. -/
theorem State.alignRef_given (h : s.rb 0x20090 2 = true ∨ s.beat.mode = .locked) : ¬ (¬ s.rb 0x20090 2 = true ∧ s.beat.mode ≠ .locked) :=
  fun ⟨hsrc, hmode⟩ => h.elim hsrc hmode

theorem State.alignStart_nophase (x : Int) (href : s.rb 0x20090 2 = true ∨ s.beat.mode = .locked) (htgt : s.rb 0x20090 0 = true)
    (hpps : (s.beat.sel.map s.isPps).getD false = false) : s.alignStart x = s.takeAlign.endAlign .nophase := by
  refine (if_neg (State.alignRef_given href)).trans ((if_pos htgt).trans (if_pos ?_))
  simp [hpps]

theorem State.alignStart_offset (x : Int) (hsrc : s.rb 0x20090 2 = true) (htgt : s.rb 0x20090 0 = false) :
    s.alignStart x = if 128000 < s.alignOfs.natAbs then s.takeAlign.endAlign .range else s.takeAlign.boltAlign (1000 * s.alignOfs) := by
  refine (if_neg (State.alignRef_given (.inl hsrc))).trans ((if_neg ?_).trans (if_pos hsrc))
  exact fun h => absurd (htgt.symm.trans h) (by decide)

/-- The whole picks nearest to `ps`. -/
def alignPicks (ps : Int) : Int := (2 * ps * 100384 + 256000000) / (2 * 256000000)

theorem alignPicks_of_ns (ns : Int) : alignPicks (1000 * ns) = (2 * ns * 1000 * 100384 + 256000000) / (2 * 256000000) := by
  rw [alignPicks, Int.mul_comm 1000 ns, ← Int.mul_assoc 2 ns 1000]

theorem State.boltAlign_slew (ps : Int) (h : s.rb 0x20090 1 = false) : s.boltAlign ps =
    s.modBeat (fun b => { b with alBusy := true, alRes := .none, alTgt := false, alLeft := 1000 * ps, alStep := 0 }) := by
  have hstep : s.rb (beatA 0x90) 1 = false := h
  simp [State.boltAlign, hstep]

theorem State.boltAlign_step (ps : Int) (h : s.rb 0x20090 1 = true) : s.boltAlign ps =
    s.modBeat (fun b => { b with alBusy := true, alRes := .none, alTgt := false, alLeft := 1000 * ps - picksFs (alignPicks ps),
                                 alStep := alignPicks ps }) := by
  have hstep : s.rb (beatA 0x90) 1 = true := h
  simp [State.boltAlign, hstep, alignPicks]

/-- While a bolt is lengthened or shortened, every lane is to recentre. -/
theorem State.recentreDue_of_step (h : s.beat.alStep ≠ 0) (l : Nat) : s.recentreDue l = true := by simp [State.recentreDue, h]

/-! ### The end of an align (R235) -/

/-- The move of a BOLT align is made: what BEAT_BO_ACC held is undone, and the PPS cycle restarts after the marker, if there was one. -/
def State.moveMade (s : State) : State := (s.setReg 0x2007C 0).modBeat (fun b => { b with ppsRst := b.alMark, alMark := none })

theorem State.reg_moveMade : s.moveMade.reg 0x2007C = 0 := s.reg_setReg_same 0x2007C 0

theorem exec_alignComplete_pps (hbusy : s.beat.alBusy = true) (hleft : s.beat.alLeft = 0) (hstep : s.beat.alStep = 0) (htgt : s.beat.alTgt = true) :
    exec .alignComplete s = .next (s.endAlign .done) := by
  refine congrArg Host.Outcome.next ((if_pos ⟨hbusy, hleft, hstep⟩).trans ?_)
  simp [htgt]

theorem exec_alignComplete_bolt (hbusy : s.beat.alBusy = true) (hleft : s.beat.alLeft = 0) (hstep : s.beat.alStep = 0) (htgt : s.beat.alTgt = false) :
    exec .alignComplete s = .next (s.moveMade.endAlign .done) := by
  refine congrArg Host.Outcome.next ((if_pos ⟨hbusy, hleft, hstep⟩).trans ?_)
  simp [htgt, State.moveMade, beatA]

theorem exec_alignComplete_moving (h : s.beat.alLeft ≠ 0 ∨ s.beat.alStep ≠ 0) : exec .alignComplete s = .next s :=
  congrArg Host.Outcome.next (if_neg fun ⟨_, hleft, hstep⟩ => h.elim (· hleft) (· hstep))

/-! ### PPS_OUT (R233) -/

theorem exec_ppsOutEdge_due {k : Nat} (hk : s.ppsPick = some k) (hdone : s.beat.ppsDone = false) (hfrozen : s.jtag.frozen = false) :
    exec .ppsOutEdge s = .next
      { s with out := s.out ++ [.pps k ((s.rf 0x20088 0 30 : Nat) + signed 32 (s.reg 0x200A8).toNat)], beat := { s.beat with ppsDone := true } } := by
  refine congrArg Host.Outcome.next ?_
  simp [State.ppsEdge, hk, hdone, State.emit, hfrozen, State.modBeat, beatA]

theorem exec_ppsOutEdge_none (h : s.ppsPick = none ∨ s.beat.ppsDone = true) : exec .ppsOutEdge s = .next s := by
  refine congrArg Host.Outcome.next ?_
  unfold State.ppsEdge
  split
  next k hk => rw [if_pos (h.resolve_left (by simp [hk]))]
  next => rfl

/-- The four bolts of the PPS cycle with an edge. -/
theorem State.ppsPick_edges (s : State) :
    (s.rf 0x20084 0 14 = 0 → s.ppsPick = some 0) ∧ (s.rf 0x20084 0 14 = 3906 → s.ppsPick = some 25096) ∧
    (s.rf 0x20084 0 14 = 7812 → s.ppsPick = some 50192) ∧ (s.rf 0x20084 0 14 = 11718 → s.ppsPick = some 75288) := by
  refine ⟨fun h => ?_, fun h => ?_, fun h => ?_, fun h => ?_⟩
  all_goals simp [State.ppsPick, beatA, h]

end

/-- Settles O45, command by command. -/
theorem beatLoopAndAlign : Obligations.BeatLoopAndAlign := by
  intro s m b ends
  refine ⟨fun hmode hstage => ⟨exec_loopStageAdvance_due hmode hstage, exec_loopStageAdvance_early⟩,
    fun hmode hstage => ⟨fun hcnt => ?locked, exec_beatLocked_early⟩, fun hmode => ⟨fun hcnt => ?lockLost, exec_beatLockLost_early⟩,
    fun c hsel hmode => ⟨fun hlong => ?acqTimeout, fun hshort => ?acqEarly⟩, fun hmode hmax hlong => ?holdoverMax,
    exec_holdoverMaxExpire_never, fun hmode hlong => exec_hoValidSet_due (State.lockedLong_iff.mpr ⟨hmode, hlong⟩), exec_hoValidSet_unlocked,
    exec_pullComplete_made, exec_pullComplete_left, exec_beatClrHo_reaches,
    fun hr => ⟨fun hbusy hdue => ?goTaken, fun h => ?goIgnored, fun hbusy hsrc => ?cancelTaken, fun h => ?cancelIgnored⟩,
    fun hdue x => exec_alignStart_not_due hdue, fun hdue x => ?start,
    fun hbusy hleft hstep => ⟨?ended, fun htgt => ?boltEnded⟩, exec_alignComplete_moving, fun k => exec_ppsOutEdge_due, exec_ppsOutEdge_none,
    s.ppsPick_edges⟩
  case locked =>
    have hnew : s.beat.mode ≠ s.lock.beat.mode := hmode ▸ nofun
    exact ⟨_, exec_beatLocked_due hmode hstage hcnt, State.beat_beatNoted_lock hmode, State.bit_beatNoted_state hnew⟩
  case lockLost =>
    have hnew : s.beat.mode ≠ s.unlock.beat.mode := hmode ▸ nofun
    have field {α : Type} (g : Beat → α) (hg : ∀ b r, g (Beat.alignEnded b r) = g b) : g (s.beatNoted State.unlock).beat = g s.unlock.beat :=
      State.field_beatNoted g hg
    refine ⟨_, exec_beatLockLost_due hmode hcnt, field Beat.mode fun _ _ => rfl, field Beat.stage fun _ _ => rfl, field Beat.sel fun _ _ => rfl,
      field Beat.acqAt fun _ _ => rfl, field Beat.hoValid fun _ _ => rfl, field Beat.dco fun _ _ => rfl, State.bit_beatNoted_state hnew,
      fun hbusy hsrc => ?_⟩
    rw [State.beat_beatNoted_unlock hmode hbusy hsrc]
    exact ⟨rfl, rfl⟩
  case acqTimeout =>
    refine ⟨_, congrArg Host.Outcome.next ((State.acqTimeoutBeat_acquiring hsel hmode).trans (if_pos hlong)), ?_, fun j hj => ?_⟩
    · rw [State.cand_selectAndMove, State.cand_failAcq, State.cand_modCand_same]
    · rw [State.cand_selectAndMove, State.cand_failAcq, State.cand_modCand_other _ _ hj]
  case acqEarly =>
    exact congrArg Host.Outcome.next ((State.acqTimeoutBeat_acquiring hsel hmode).trans (if_neg (Nat.not_le.mpr hshort)))
  case holdoverMax =>
    refine ⟨_, exec_holdoverMaxExpire_due hmode hmax hlong, ?_, ?_, ?_, State.bit_irq_raised _ (by decide)⟩
    all_goals rw [State.irq_beat]
    · exact State.field_beatNoted Beat.mode fun _ _ => rfl
    · exact State.field_beatNoted Beat.sel fun _ _ => rfl
    · exact State.field_beatNoted Beat.dco fun _ _ => rfl
  case goTaken => rw [exec_beatAlignGo_reaches hr, State.alignCmd_go_taken hbusy hdue]
  case goIgnored => rw [exec_beatAlignGo_reaches hr, State.alignCmd_go_ignored h]
  case cancelTaken =>
    refine ⟨_, exec_beatAlignCancel_reaches hr, ?_⟩
    rw [State.alignCmd_cancel_taken hbusy hsrc]
    exact State.alignOver_endAlign .cancelled rfl rfl rfl
  case cancelIgnored => rw [exec_beatAlignCancel_reaches hr, State.alignCmd_cancel_ignored h]
  case start =>
    intro ofs
    have hfs : 1000 * (1000 * s.alignOfs) = 1000000 * s.alignOfs := by omega
    have started {t : State} (h : s.alignStart x = t) : exec (.alignStart x) s = .next t := (exec_alignStart_due hdue).trans (congrArg _ h)
    refine ⟨fun hsrc hmode => ?noref, fun href htgt hpps => ?nophase, fun hsrc htgt => ?offset⟩
    case noref => exact ⟨_, started (State.alignStart_noref x hsrc hmode), State.alignOver_takeAlign _⟩
    case nophase => exact ⟨_, started (State.alignStart_nophase x href htgt hpps), State.alignOver_takeAlign _⟩
    case offset =>
      have hstart := State.alignStart_offset x hsrc htgt
      refine ⟨fun hfar => ?range, fun hnear hstep => ?slew, fun hnear hstep => ?step⟩
      case range => exact ⟨_, started (hstart.trans (if_pos hfar)), State.alignOver_takeAlign _⟩
      case slew =>
        refine ⟨_, started (hstart.trans ((if_neg (Nat.not_lt.mpr hnear)).trans (State.boltAlign_slew _ hstep))), ?_⟩
        exact ⟨rfl, rfl, hsrc, rfl, rfl, hfs, rfl, rfl, rfl, rfl⟩
      case step =>
        refine ⟨_, started (hstart.trans ((if_neg (Nat.not_lt.mpr hnear)).trans (State.boltAlign_step _ hstep))), ?_⟩
        exact ⟨rfl, alignPicks_of_ns _, congrArg (· - _) hfs, State.recentreDue_of_step, rfl⟩
  case ended =>
    cases htgt : s.beat.alTgt
    · exact ⟨_, exec_alignComplete_bolt hbusy hleft hstep htgt, State.alignOver_endAlign .done rfl rfl rfl⟩
    · exact ⟨_, exec_alignComplete_pps hbusy hleft hstep htgt, State.alignOver_endAlign .done rfl rfl rfl⟩
  case boltEnded =>
    refine ⟨_, exec_alignComplete_bolt hbusy hleft hstep htgt, ?_, ?_⟩
    · exact (State.reg_endAlign_other _ (by decide)).trans State.reg_moveMade
    · rw [State.beat_endAlign]
      rfl

end Sys2Proof.Machine

/-! SUPPORT. A Bamry lane in facility loopback out of SYNC: its cells reach no channel, but go back on the line (R40, R41, R58). -/
namespace Sys2Proof.Machine

section
variable {s : State} {l : Nat}

/-- What a looped lane is to send back is kept in its state. -/
theorem State.loopPut_ne (pos : Nat) (o : Output) (h : s.loops l = true) (hq : (s.lane l).loopQ = []) : s.loopPut l pos o ≠ s := by
  intro hsame
  have hput : ((s.loopPut l pos o).lane l).loopQ = [(boltBytes * (s.lane l).loopN + pos, o)] := by
    simp [State.loopPut, State.when, h, hq, smInsert]
  rw [hsame, hq] at hput
  cases hput

/-- Cells that come out of SYNC are offered to the loop of their lane, and to no channel. -/
theorem State.cellsIn_unsynced (j0 : Nat) (c : CellRun) (f : State → List (List Byte) → State) (ha : s.awake (l / 64) = true)
    (hl : s.ownStream l = false) (hs : (s.lane l).framer ≠ .sync) :
    s.cellsIn l j0 c f = seqAll (fun (e : Nat × List Byte) s => s.loopPut l (cellPos (j0 + e.1)) (.cell l (j0 + e.1) e.2))
      (c.cells.mapIdx (fun i b => (c.first + i, b))) s := by
  rw [State.cellsIn, State.onLine_open _ ha hl, if_neg hs]

end

theorem exec_helloRx_unsynced {s : State} {l : Fin 512} {cell : List Byte} (hc : cellRunOk 32 ⟨0, [cell]⟩ = true)
    (ha : s.awake (l.val / 64) = true) (hl : s.ownStream l.val = false) (hs : (s.lane l.val).framer ≠ .sync) :
    exec (.helloRx l ⟨0, [cell]⟩) s = .next (s.loopPut l.val (cellPos 0) (.cell l.val 0 cell)) := by
  have hrun : s.bmyCells l.val ⟨0, [cell]⟩ = s.loopPut l.val (cellPos 0) (.cell l.val 0 cell) := State.cellsIn_unsynced 0 _ _ ha hl hs
  exact congrArg Host.Outcome.next ((if_pos hc).trans hrun)

/-- Port 0 is awake; its lane 0 is in facility loopback (LN_MODE.LOOP = 1), and its framer hunts. -/
def loopedHunt : State :=
  { State.reset with ports := [(0, { awake := true })], regs := [(lnA 0 0x40, 0x2001)] }

/-- Refutes O53: a looped lane out of SYNC is to send the received cells back as they come (R58), so they do not leave the state as it
is; the clause on lanes out of SYNC does not except looped ones. -/
theorem not_bamryLinks : ¬ Obligations.BamryLinks := by
  intro h
  have hrun : cellRunOk 32 ⟨0, [idleCell]⟩ = true := by decide +kernel
  have hunts : (loopedHunt.lane 0).framer ≠ .sync := by decide +kernel
  obtain ⟨-, -, -, -, hunsynced, -⟩ := h loopedHunt 0 0 ⟨0, [idleCell]⟩ []
  have hstays := hunsynced hrun (.inr (.inr hunts)) _ List.mem_cons_self
  rw [exec_helloRx_unsynced hrun (by decide +kernel) (by decide +kernel) hunts] at hstays
  injection hstays with hsame
  exact State.loopPut_ne (l := 0) _ _ (by decide +kernel) (by decide +kernel) hsame

end Sys2Proof.Machine

/-! SUPPORT. A Bamry result that stays held while its ring has room and its own bank is free: the agent's test of the bank counts records of 128
bytes, but result records have 160 (R271, R371). -/
namespace Sys2Proof.Machine

section
variable {s : State} {w : Nat}

/-- The agent's test before it writes a result. -/
def State.resultStuck (s : State) (w : Nat) : Bool := s.svcStuck w (bmyA 0x90) (bmyA 0x94) (bmyA 0x98) (bmyA 0x9C) 128

theorem State.bmyDrain_stuck (n : Nat) (hw : s.holder 2 0 = some w) (hstuck : s.resultStuck w = true) : State.bmyDrain n s = s := by
  cases n with
  | zero => rfl
  | succ n =>
    rw [State.bmyDrain, hw]
    cases s.bmy.held with
    | nil => rfl
    | cons r t => exact if_pos hstuck

theorem State.bmyResult_stuck (r : List Byte) (hheld : s.bmy.held.length < 256) (hw : s.holder 2 0 = some w)
    (hstuck : s.resultStuck w = true) : s.bmyResult r = s.modBmy (fun b => { b with held := b.held ++ [r] }) := by
  rw [State.bmyResult, if_neg (by omega)]
  exact State.bmyDrain_stuck 257 hw hstuck

/-- The record at the head of the request ring leaves it. -/
def State.requestTaken (s : State) : State := s.ringTake ((s.holder 2 0).getD 0) (bmyA 0x80) (bmyA 0x84) (bmyA 0x8C) 160

theorem State.takeRequest_enabled {q : List Byte} {op : Nat → Bool} (f : State → List Byte → State) (hq : s.bmyRequest = some q)
    (ha : s.bmyAgent = true) (hop : op (beAt q 2 1) = true) (hen : s.bmyEn = true) : s.takeRequest op f = f s.requestTaken q := by
  rw [State.takeRequest, hq]
  exact (if_pos ⟨ha, hop⟩).trans (if_pos hen)

/-- A refusal that cannot be written is held, and no register changes. -/
theorem exec_bmyReqBadOp_stuck {q : List Byte} (hq : s.bmyRequest = some q) (ha : s.bmyAgent = true)
    (hop : ¬ (beAt q 2 1 = 1 ∨ beAt q 2 1 = 2)) (hen : s.bmyEn = true) (hheld : s.requestTaken.bmy.held.length < 256)
    (hw : s.requestTaken.holder 2 0 = some w) (hstuck : s.requestTaken.resultStuck w = true) :
    ∃ t, exec .bmyReqBadOp s = .next t ∧ t.regs = s.requestTaken.regs := by
  refine ⟨_, congrArg Host.Outcome.next (State.takeRequest_enabled _ hq ha (by simp [hop]) hen), ?_⟩
  rw [State.bmyResult_stuck _ hheld hw hstuck, State.modBmy_regs]

end

/-- The agent runs on W5, and a request of OP 0 waits in bank 2. The next result record is number 62 from 0x1E000: 160-byte records put it into
bank 1, which W5 owns and nothing holds, and 128-byte ones into bank 0, whose target 10 is held full (R453). -/
def heldResult : State :=
  { State.reset with
    wvr := [(5, { st := .run, role := 2 })]
    regs := [(bmyA 0x40, 1), (bmyA 0x80, 0x40000), (bmyA 0x88, 1), (bmyA 0x90, 0x1E000), (bmyA 0x98, 62), (bankA 0x104, 0x105)]
    tst := { State.reset.tst with pert := true, shedHook := [0x10A, 0, 0, 0] } }

theorem heldResult_request : heldResult.bmyRequest = some (List.replicate 160 0) := by decide +kernel

/-- The refusal of the request stays held, and BMY_RS_TAIL stands at 62. -/
theorem heldResult_tail : ∃ t, exec .bmyReqBadOp heldResult = .next t ∧ t.reg 0xB80098 = 62 := by
  obtain ⟨t, ht, hregs⟩ := exec_bmyReqBadOp_stuck (w := 5) heldResult_request (by decide +kernel) (by decide +kernel) (by decide +kernel)
    (by decide +kernel) (by decide +kernel) (by decide +kernel)
  refine ⟨t, ht, ?_⟩
  have htaken : heldResult.requestTaken.reg 0xB80098 = 62 := by decide +kernel
  rw [← htaken, State.reg, State.reg, hregs]

/-- Refutes O54: a request of a bad OP is taken, but its RESULT 2 is not written while the bank at 128-byte steps is held, though the ring has
room and the bank of the record itself is free. -/
theorem not_bamryPaths : ¬ Obligations.BamryPaths := by
  intro h
  obtain ⟨-, -, -, -, -, -, hrequest, -⟩ := h heldResult 0 0 ⟨0, []⟩ []
  obtain ⟨-, -, hbad, -⟩ := hrequest _ 5 heldResult_request (by decide +kernel)
  obtain ⟨t, ht, -, -, htail, -⟩ := hbad (by decide +kernel) (by decide +kernel) (by decide +kernel)
  obtain ⟨u, hu, hstays⟩ := heldResult_tail
  obtain rfl : t = u := Host.Outcome.next.inj (ht.symm.trans hu)
  exact absurd (hstays.symm.trans htail) (by decide +kernel)

end Sys2Proof.Machine

/-! SUPPORT. The guard before the writes of the head weavers: what it refuses and why, what an accepted write counts, and where a write passes it
by (R295, R296). -/
namespace Sys2Proof.Machine

section
variable {s : State} {m : Mid} {a : Nat} {v : Word} {f : State → State}

/-! ### Writes of registers, guarded or not -/

theorem windowOf_register (h : a < 0x1000000) : windowOf a = none := by
  unfold windowOf
  rw [if_neg (by omega), if_neg (by omega), if_neg (by omega), if_neg (by omega)]

/-- A word written below the windows is a register write. -/
theorem State.busWrite_register (h : a < 0x1000000) (v : BitVec 64) : s.busWrite m a 4 v = s.regAccess m a (v.setWidth 32) := by
  unfold State.busWrite
  rw [if_neg (by omega), if_neg (by omega), windowOf_register h]
  rfl

theorem exec_guardedWrite_register (w : Fin 64) {a : BitVec 26} (h : a.toNat < 0x1000000) (v : Word) :
    exec (.guardedWrite w a v) s =
      .next (s.write4 (BitVec.ofNat 8 w.val) a.toNat v (fun t => t.regWrite (BitVec.ofNat 8 w.val) a.toNat v)) := by
  refine (congrArg Host.Outcome.next (State.busWrite_register h _)).trans ?_
  rw [BitVec.setWidth_setWidth_of_le _ (by decide), BitVec.setWidth_eq]
  rfl

/-- A single write of any master but the host (R365). -/
theorem exec_registerWrite_single (hm : m ≠ 66) (a : BitVec 27) (size : Nat) (v : BitVec 64) :
    exec (.registerWrite m a size ⟨v, [], [], []⟩) s = .next (s.busWrite m a.toNat size v) := by
  refine congrArg Host.Outcome.next ?_
  unfold State.busStore
  rw [if_neg (fun h => hm h.1), if_pos rfl]
  rfl

/-- A write that the guard lets by unseen has its effect and is answered (R296). -/
theorem State.write4_passes (h : passes s m a v) : s.write4 m a v f = (f s).answer 0 := by
  obtain ⟨hguard, hgate⟩ := h
  have hw : s.gate m a 4 true ≠ .wait := by rw [hgate]; decide
  unfold State.write4 State.guardWrite
  exact (if_neg hw).trans ((if_pos hguard).trans (s.access_go hgate))

/-- A write of a head weaver is counted in its window and in WVR_POL_ACT_CNT (R296, R305). -/
def State.guardCounted (s : State) (w : Nat) : State :=
  (s.modWeaver w (fun x => { x with win := w32 (s.bolt.toNat / 256), acts := s.guardActs w + 1 })).incReg (wvrA w 0x204)

/-- The front end looks at the bolt number, and at the parts that hold power, the lease, the ports and what waits. -/
theorem State.gate_congr {t : State} (hbolt : t.bolt = s.bolt) (hpwr : t.pwr = s.pwr) (hfmn : t.fmn = s.fmn) (hports : t.ports = s.ports)
    (htst : t.tst = s.tst) (size : Nat) (wr : Bool) : t.gate m a size wr = s.gate m a size wr := by
  have hwarm : t.inWarmWindow = s.inWarmWindow := by rw [State.inWarmWindow, State.inWarmWindow, hpwr, hbolt]
  have hholder : t.holderId = s.holderId := by rw [State.holderId, State.holderId, hfmn]
  have hfence : t.fenced m a = s.fenced m a := by rw [State.fenced, State.fenced, hholder]
  have hreach (p : Nat) : t.reach p = s.reach p := by rw [State.reach, State.reach, State.port, State.port, hports]
  have hwait (x : Target) : t.shedWaits m x = s.shedWaits m x := by simp only [State.shedWaits, State.tgtHeld, htst]
  simp only [State.gate, hpwr, hwarm, hfence, hreach, hwait]

theorem State.gate_guardCounted (w size : Nat) (wr : Bool) : (s.guardCounted w).gate m a size wr = s.gate m a size wr := by
  have hbolt : 0x20080 ≠ wvrA w 0x204 := by unfold wvrA; omega
  refine State.gate_congr ?_ ?_ ?_ ?_ ?_ size wr
  · rw [State.bolt, State.guardCounted, State.reg_incReg_other _ _ hbolt, State.reg_modWeaver, State.bolt]
  all_goals simp [State.guardCounted, State.incReg]

section
variable {w : Nat} (hm : m.toNat = w) (hhead : 60 ≤ w ∧ w < 64) (hguard : unguarded w a v = false)
include hm hhead hguard

/-- A refused write does nothing but count and record its refusal (R296). -/
theorem State.write4_refused {r : Nat} (hr : s.guardRefusal w a v = some r) (hgate : s.gate m a 4 true ≠ .wait) :
    s.write4 m a v f = ((s.incReg (wvrA w 0x208)).setReg (wvrA w 0x20C) (w32 (a % 2 ^ 24 + r * 2 ^ 24))).answer 0 := by
  subst hm
  unfold State.write4 State.guardWrite
  rw [if_neg hgate]
  dsimp only
  rw [if_neg (by simp [hguard]; omega), hr]

/-- An accepted write is counted, and has its effect (R296). -/
theorem State.write4_accepted (hr : s.guardRefusal w a v = none) (hgate : s.gate m a 4 true = .go) :
    s.write4 m a v f = (f (s.guardCounted w)).answer 0 := by
  subst hm
  have hwait : s.gate m a 4 true ≠ .wait := by rw [hgate]; decide
  unfold State.write4 State.guardWrite
  rw [if_neg hwait]
  dsimp only
  rw [if_neg (by simp [hguard]; omega), hr]
  exact State.access_go _ ((State.gate_guardCounted _ 4 true).trans hgate)

end

/-! ### The reasons of the guard, in its order 5, 1, 2, 3, 6, 4 -/

section
variable {w i : Nat}

theorem State.guardRefusal_headless (h : s.headless = true) : s.guardRefusal w a v = some 5 := by
  unfold State.guardRefusal
  rw [if_pos h]

theorem State.guardRefusal_uncovered (h : s.headless = false) (hbar : guardBarred a = true ∨ s.guardEntry w a = none) :
    s.guardRefusal w a v = some 1 := by
  unfold State.guardRefusal
  rw [if_neg (by simp [h])]
  by_cases hb : guardBarred a = true
  · rw [if_pos hb]
  · rw [if_neg hb, hbar.resolve_left hb]

/-- Where entry `i` covers the address, its bounds, its mask, MODE and MAXACT decide, in this order. -/
theorem State.guardRefusal_covered (h : s.headless = false) (hbar : guardBarred a = false) (hi : s.guardEntry w a = some i) :
    let e := fun o => s.reg (wvrA w (0x100 + 0x20 * i + o))
    s.guardRefusal w a v =
      if ¬ (e 0xC ≤ v &&& e 8 ∧ v &&& e 8 ≤ e 0x10) then some 2
      else if (v ^^^ s.curWord a) &&& ~~~(e 8) ≠ 0 then some 3
      else if s.rf (wvrA w 0x200) 0 2 ≠ 2 then some 6
      else if s.rf (wvrA w 0x200) 8 8 ≤ s.guardActs w then some 4
      else none := by
  unfold State.guardRefusal
  rw [if_neg (by simp [h]), if_neg (by simp [hbar]), hi]

end
end

/-- Settles O26: the guard's reasons in their order, and a write that passes, by the lemmas above. -/
theorem headWeaverGuard : Obligations.HeadWeaverGuard := by
  intro s w a v
  have hm : (BitVec.ofNat 8 w.val).toNat = w.val := by simp; omega
  refine ⟨fun hw => ?_, fun ha hfree hgate => ?_, fun hw ha hguard => ⟨fun r hr hgate => ?_, State.guardRefusal_headless,
    State.guardRefusal_uncovered, fun i hled hbar hi => ?_, fun hr hgate => ?_⟩⟩
  · have hhost : BitVec.ofNat 8 w.val ≠ 66 := fun h => by
      have h66 : (BitVec.ofNat 8 w.val).toNat = 66 := by rw [h]; rfl
      omega
    rw [exec_registerWrite_single hhost, BitVec.toNat_setWidth, Nat.mod_eq_of_lt (by omega)]
    rfl
  · rw [exec_guardedWrite_register w ha, State.write4_passes ⟨.inr (.inr (by rw [hm]; exact hfree)), hgate⟩]
  · rw [exec_guardedWrite_register w ha, State.write4_refused hm ⟨hw, w.isLt⟩ hguard hr hgate]
  · have hcov := State.guardRefusal_covered (v := v) hled hbar hi
    dsimp only at hcov ⊢
    rw [hcov]
    refine ⟨fun hout => ?_, fun hlo hhi => ⟨fun hmask => ?_, fun hmask => ⟨fun hmode => ?_, fun hmode hact => ?_, fun hmode hact => ?_⟩⟩⟩
    · exact if_pos fun hin => hout.elim (BitVec.not_lt.mpr hin.1) (BitVec.not_lt.mpr hin.2)
    all_goals rw [if_neg (not_not_intro ⟨hlo, hhi⟩)]
    · rw [if_pos hmask]
    · rw [if_neg (not_not_intro hmask), if_pos hmode]
    · rw [if_neg (not_not_intro hmask), if_neg (not_not_intro hmode), if_pos hact]
    · rw [if_neg (not_not_intro hmask), if_neg (not_not_intro hmode), if_neg (by omega)]
  · rw [exec_guardedWrite_register w ha, State.write4_accepted hm ⟨hw, w.isLt⟩ hguard hr hgate]
    exact ⟨_, rfl, rfl⟩

end Sys2Proof.Machine

/-! SUPPORT. What a weaver's change of state, the banks that pass with a role, a halt and a checkpoint leave: the other weavers, the registers outside
the test, bank and Skid pages, and the Skid buffers (R278, R281, R283, R290, R323, R337, R357). -/
namespace Sys2Proof.Machine

/-! ### Fields below the one written -/

/-- A field below the one written keeps its value. -/
theorem fld_setFld_below {n : Nat} (w : BitVec n) {lo len lo' len' : Nat} (h : lo + len ≤ n) (hbelow : lo' + len' ≤ lo) (v : Nat) :
    fld (setFld w lo len v) lo' len' = fld w lo' len' := by
  have hdvd : 2 ^ lo' * 2 ^ len' ∣ 2 ^ lo := by
    rw [← Nat.pow_add]
    exact Nat.pow_dvd_pow 2 hbelow
  rw [fld_eq, fld_eq, toNat_setFld w h, ← Nat.mod_mul_right_div_self, ← Nat.mod_mul_right_div_self, Nat.add_mod,
    Nat.mod_eq_zero_of_dvd (Nat.dvd_mul_left_of_dvd hdvd _), Nat.zero_add, Nat.mod_mod, Nat.mod_mod_of_dvd _ hdvd]

/-! ### Registers that role changes leave alone -/

/-- A register that no trace record writes (TST_IRQ_RAW, TST_TR_LOST), and no refused or passed bank, freed buffer or checkpoint. -/
def roleFree (a : Nat) : Prop := a ≠ tstA 0x10 ∧ a ≠ tstA 0x88 ∧ (a < bankA 0 ∨ (bankA 0x60 ≤ a ∧ a < bankA 0x100))

theorem roleFree_roleReq (w : Fin 64) : roleFree (wvrA w.val 0x48) := by
  unfold roleFree wvrA tstA bankA
  omega

/-- BANK_BAD of the pool banks. -/
theorem roleFree_poolBad : roleFree (bankA 0x78) := by
  unfold roleFree
  decide

section
variable (s : State) {a : Nat} (ha : roleFree a)
include ha

theorem State.reg_errlog_bank (off : Nat) (m : Mid) : (s.errlog (bankA 0) off m).reg a = s.reg a := by
  refine s.reg_setReg_other _ ?_
  unfold roleFree bankA at *
  omega

theorem State.reg_setReg_bankOwn (b : Nat) (v : Word) : (s.setReg (bankA (0x100 + 4 * b)) v).reg a = s.reg a := by
  refine s.reg_setReg_other _ ?_
  unfold roleFree bankA at *
  omega

theorem State.reg_ownWrite (m : Mid) (b : Nat) (v : Word) : (s.ownWrite m b v).reg a = s.reg a := by
  unfold State.ownWrite
  dsimp only
  split
  · exact s.reg_errlog_bank ha _ m
  · exact State.reg_setReg_bankOwn _ ha b _

theorem State.reg_passBank (b kind owner : Nat) : (s.passBank b kind owner).reg a = s.reg a := by
  unfold State.passBank
  split
  · exact (State.reg_setReg_bankOwn _ ha b _).trans (State.reg_ownWrite _ ha _ b _)
  · rfl

theorem State.reg_takeBanks (w : Nat) : (s.takeBanks w).reg a = s.reg a := by
  unfold State.takeBanks
  dsimp only
  split
  · rfl
  · exact seqAll_inv (R := fun t => t.reg a = s.reg a) _ _ rfl fun b t ht => (t.reg_passBank ha b 2 0).trans ht

theorem State.reg_handBanks (w : Nat) (y : Nat × Nat) : (s.handBanks w y).reg a = s.reg a := by
  unfold State.handBanks
  refine seqAll_inv (R := fun t => t.reg a = s.reg a) _ _ rfl fun e t ht => ?_
  exact State.when_inv (R := fun t => t.reg a = s.reg a) _ _ ht fun t ht => (t.reg_passBank ha e.2.2 1 w).trans ht

theorem State.reg_traceIn (c kind src : Nat) (d0 d1 : Word) : (s.traceIn c kind src d0 d1).reg a = s.reg a := by
  unfold State.traceIn
  split
  · exact State.reg_record_other _ _ _ _ _ _ ha.1 ha.2.1
  · rfl

theorem State.reg_setWvr (w : Nat) (st : WvrSt) (cause : Nat) : (s.setWvr w st cause).reg a = s.reg a := by
  unfold State.setWvr
  dsimp only
  split
  · rfl
  · rw [State.reg_traceIn _ ha, State.when]
    split <;> rfl

theorem State.reg_startRole (w : Nat) {y : Nat × Nat} (hy : y.1 ≠ 0) (byReq : Bool) : (s.startRole w y byReq).reg a = s.reg a := by
  unfold State.startRole
  dsimp only
  rw [if_neg hy, State.reg_handBanks _ ha, State.reg_setWvr _ ha, State.reg_modWeaver, State.reg_takeBanks _ ha]

theorem State.reg_bankDeny (m : Mid) (off : Nat) : (s.bankDeny m off).reg a = s.reg a := by
  obtain ⟨-, -, hbank⟩ := ha
  unfold bankA at hbank
  unfold State.bankDeny
  rw [State.irq_reg_other _ (by unfold bankA; omega), State.reg_setReg_other _ _ (by unfold bankA; omega),
    State.reg_incReg_other _ _ (by unfold bankA; omega)]

theorem State.reg_agentWord (m : Mid) (off : Nat) (bs : List Byte) (exempt : Bool) : (s.agentWord m off bs exempt).reg a = s.reg a := by
  unfold State.agentWord
  dsimp only
  split
  · obtain ⟨-, -, hbank⟩ := ha
    unfold bankA at hbank
    exact s.reg_incReg_other _ (by unfold bankA; omega)
  · split
    · exact s.reg_bankDeny ha m off
    · split
      · rfl
      · exact s.reg_bankDeny ha m off

theorem State.reg_agentWrite (m : Mid) (off : Nat) (bs : List Byte) (exempt : Bool) : (s.agentWrite m off bs exempt).reg a = s.reg a :=
  seqAll_inv (R := fun t => t.reg a = s.reg a) _ _ rfl fun _ t ht => (t.reg_agentWord ha _ _ _ _).trans ht

theorem State.reg_roleCkpt : s.roleCkpt.reg a = s.reg a := by
  unfold State.roleCkpt State.ckptWrite
  split
  · rfl
  · split
    · rfl
    · refine inv_ite (R := fun t => t.reg a = s.reg a) rfl ?_
      exact (State.reg_modFmn _ _ a).trans ((State.reg_agentWrite _ ha _ _ _ _).trans rfl)

end

/-! ### Weavers -/

/-- A weaver in another state; whether its clock ran in the whole bolt is noted. -/
def Weaver.toSt (x : Weaver) (st : WvrSt) : Weaver := { x with st := st, mixed := x.mixed || (wvrBusy x.st != wvrBusy st) }

section
variable (s : State)

@[simp] theorem State.wvr_when_count (c : Bool) (cls idx ctr : Nat) : (s.when c (·.count cls idx ctr)).wvr = s.wvr := by
  unfold State.when
  split <;> rfl

@[simp] theorem State.wvr_traceIn (c kind src : Nat) (d0 d1 : Word) : (s.traceIn c kind src d0 d1).wvr = s.wvr :=
  State.traceIn_inv c kind src d0 d1 (only_closed [.regs, .pcie, .tst, .out, .free] s) (only_refl _ _) .wvr (by decide)

@[simp] theorem State.wvr_takeBanks (w : Nat) : (s.takeBanks w).wvr = s.wvr :=
  State.takeBanks_inv w (only_closed [.regs, .fmn, .bank] s) (only_refl _ _) .wvr (by decide)

@[simp] theorem State.wvr_handBanks (w : Nat) (y : Nat × Nat) : (s.handBanks w y).wvr = s.wvr :=
  State.handBanks_inv w y (only_closed [.regs, .fmn, .bank] s) (only_refl _ _) .wvr (by decide)

@[simp] theorem State.wvr_roleCkpt : s.roleCkpt.wvr = s.wvr :=
  State.roleCkpt_inv (only_closed [.regs, .fmn, .bank, .bankMem, .pcie, .tst, .out, .free] s) (only_refl _ _) .wvr (by decide)

theorem State.wvr_setWvr (w : Nat) (st : WvrSt) (cause : Nat) : (s.setWvr w st cause).wvr = (s.modWeaver w (·.toSt st)).wvr := by
  have hmod : s.modWeaver w (fun x => { x with st := st, mixed := x.mixed || (wvrBusy (s.weaver w).st != wvrBusy st) }) =
      s.modWeaver w (·.toSt st) := rfl
  unfold State.setWvr
  dsimp only
  rw [hmod]
  split
  · rfl
  · rw [State.wvr_traceIn, State.wvr_when_count]

@[simp] theorem State.weaver_setWvr_same (w : Nat) (st : WvrSt) (cause : Nat) : (s.setWvr w st cause).weaver w = (s.weaver w).toSt st := by
  rw [State.weaver, State.wvr_setWvr, ← State.weaver, State.weaver_modWeaver_same]

theorem State.weaver_setWvr_other {w v : Nat} (st : WvrSt) (cause : Nat) (h : v ≠ w) : (s.setWvr w st cause).weaver v = s.weaver v := by
  rw [State.weaver, State.wvr_setWvr, ← State.weaver, State.weaver_modWeaver_other _ _ h]

/-- A weaver that begins to load role `y`. -/
def Weaver.loadingRole (y : Nat × Nat) (byReq : Bool) (x : Weaver) : Weaver :=
  { x with role := 0, inst := 0, next := some y, byReq := byReq, halted := false }.toSt .loading

theorem State.weaver_startRole_same (w : Nat) {y : Nat × Nat} (hy : y.1 ≠ 0) (byReq : Bool) :
    (s.startRole w y byReq).weaver w = (s.weaver w).loadingRole y byReq := by
  unfold State.startRole
  dsimp only
  rw [if_neg hy, State.weaver, State.wvr_handBanks, ← State.weaver, State.weaver_setWvr_same, State.weaver_modWeaver_same, State.weaver,
    State.wvr_takeBanks]
  rfl

theorem State.weaver_startRole_other {w v : Nat} {y : Nat × Nat} (hy : y.1 ≠ 0) (byReq : Bool) (h : v ≠ w) :
    (s.startRole w y byReq).weaver v = s.weaver v := by
  unfold State.startRole
  dsimp only
  rw [if_neg hy, State.weaver, State.wvr_handBanks, ← State.weaver, State.weaver_setWvr_other _ _ _ h, State.weaver_modWeaver_other _ _ h,
    State.weaver, State.wvr_takeBanks, State.weaver]

theorem State.weaver_roleCkpt (v : Nat) : s.roleCkpt.weaver v = s.weaver v := by
  rw [State.weaver, State.wvr_roleCkpt, State.weaver]

end

/-! ### Skid buffers -/

section
variable (s : State)

/-- A buffer stands as its entry says, unless its pool bank is BAD. -/
theorem State.buf_eq (i : Nat) :
    s.buf i = if bit (s.reg (bankA 0x78)) ((48 + i / 512) % 32) = true then (.withdrawn, 0) else smGet (.free, 0) s.skid.own i := by
  rw [State.buf, State.withdrawn, State.bankBad, if_neg (show ¬ 48 + i / 512 < 32 by omega), State.rb]

theorem State.buf_congr {t : State} (hbad : t.reg (bankA 0x78) = s.reg (bankA 0x78)) (hskid : t.skid = s.skid) (i : Nat) :
    t.buf i = s.buf i := by
  rw [State.buf_eq, State.buf_eq, hbad, hskid]

@[simp] theorem State.buf_modWeaver (w : Nat) (f : Weaver → Weaver) (i : Nat) : (s.modWeaver w f).buf i = s.buf i :=
  State.buf_congr s (s.reg_modWeaver w f _) (s.modWeaver_skid w f) i

@[simp] theorem State.ownedBy_modWeaver (w : Nat) (f : Weaver → Weaver) (m : Nat) : (s.modWeaver w f).ownedBy m = s.ownedBy m := by
  rw [State.ownedBy, State.modWeaver_skid, State.ownedBy]

theorem mem_of_smGet {α : Type} {d v : α} {m : SMap α} {a : Nat} (h : smGet d m a = v) (hv : v ≠ d) : (a, v) ∈ m := by
  induction m with
  | nil => exact absurd h.symm hv
  | cons e t ih =>
    obtain ⟨k, x⟩ := e
    rw [smGet] at h
    split at h
    · next hk => simp [hk, h]
    · exact .tail _ (ih h)

theorem State.mem_ownedBy {i m : Nat} (h : smGet (.free, 0) s.skid.own i = (.owned, m)) : i ∈ s.ownedBy m := by
  have hmem := mem_of_smGet h (by simp)
  simp only [State.ownedBy, List.mem_map, List.mem_filter, decide_eq_true_eq]
  exact ⟨_, ⟨hmem, rfl⟩, rfl⟩

/-- Buffers freed one after the other. -/
theorem State.own_freeBufs (l : List Nat) (i : Nat) :
    smGet (.free, 0) (seqAll (fun i s => s.freeBuf i) l s).skid.own i = if i ∈ l then (.free, 0) else smGet (.free, 0) s.skid.own i := by
  induction l generalizing s with
  | nil => rfl
  | cons j t ih =>
    have hfree : (s.freeBuf j).skid.own = smPut (.free, 0) s.skid.own j (.free, 0) := rfl
    rw [seqAll, ih, hfree, smGet_smPut]
    by_cases hij : i = j <;> simp [hij]

theorem State.own_reclaim (m i : Nat) :
    smGet (.free, 0) (s.reclaim m).skid.own i = if i ∈ s.ownedBy m then (.free, 0) else smGet (.free, 0) s.skid.own i :=
  State.own_freeBufs s (s.ownedBy m) i

theorem State.reg_reclaim {a : Nat} (ha : roleFree a) (m : Nat) : (s.reclaim m).reg a = s.reg a := by
  have hcount : a ≠ skidA 0x68 := by
    unfold roleFree bankA at ha
    unfold skidA
    omega
  unfold State.reclaim
  rw [State.reg_incReg_other _ _ hcount]
  exact seqAll_inv (R := fun t => t.reg a = s.reg a) _ _ rfl fun _ _ ht => ht

@[simp] theorem State.wvr_reclaim (m : Nat) : (s.reclaim m).wvr = s.wvr :=
  State.reclaim_inv m (only_closed [.regs, .skid] s) (only_refl _ _) .wvr (by decide)

/-- Buffers that the master did not own stay as they were. -/
theorem State.buf_reclaim_other {m i : Nat} (h : i ∉ s.ownedBy m) : (s.reclaim m).buf i = s.buf i := by
  rw [State.buf_eq, State.buf_eq, State.reg_reclaim _ roleFree_poolBad, State.own_reclaim, if_neg h]

/-- The master owns no buffer any more. -/
theorem State.buf_reclaim_ne (m i : Nat) : (s.reclaim m).buf i ≠ (.owned, m) := by
  rw [State.buf_eq, State.own_reclaim]
  split
  · simp
  · split
    · simp
    · next hfree => exact fun h => hfree (s.mem_ownedBy h)

end

end Sys2Proof.Machine

/-! SUPPORT. Role requests and role changes: a request written, refused or served, the end of a drain with and without a Foreman, the loaded image
(R278, R283, R284, R285). -/
namespace Sys2Proof.Machine

/-! ### The request register (R284) -/

section
variable (s : State) (w : Nat)

theorem State.reg_roleResult (r : Nat) :
    (s.roleResult w r).reg (wvrA w 0x48) = setFld (setFld (s.reg (wvrA w 0x48)) 16 1 0) 17 3 r := by
  rw [State.roleResult, State.setRf, State.reg_setReg_same, State.setRf, State.reg_setReg_same]

theorem State.reg_roleResult_other {a : Nat} (r : Nat) (h : a ≠ wvrA w 0x48) : (s.roleResult w r).reg a = s.reg a := by
  rw [State.roleResult, State.setRf, State.reg_setReg_other _ _ h, State.setRf, State.reg_setReg_other _ _ h]

@[simp] theorem State.wvr_roleResult (r : Nat) : (s.roleResult w r).wvr = s.wvr := by
  rw [State.roleResult, State.setRf, State.setReg_wvr, State.setRf, State.setReg_wvr]

/-- A request that is taken is not PENDING any more. -/
theorem bit_pending_cleared (v : Word) : bit (setFld v 16 1 0) 16 = false := by
  rw [bit_eq_fld, fld_setFld_same v (by decide)]
  rfl

theorem bit_pending_result (v : Word) (r : Nat) : bit (setFld (setFld v 16 1 0) 17 3 r) 16 = false := by
  rw [bit_eq_fld, fld_setFld_below _ (by decide) (by decide), ← bit_eq_fld, bit_pending_cleared]

theorem fld_result (v : Word) (r : Nat) : fld (setFld (setFld v 16 1 0) 17 3 r) 17 3 = r % 8 := fld_setFld_same _ (by decide) r

/-- ROLE and INST of a request stay as they were. -/
theorem fld_request_result (v : Word) (r : Nat) : fld (setFld (setFld v 16 1 0) 17 3 r) 0 11 = fld v 0 11 := by
  rw [fld_setFld_below _ (by decide) (by decide), fld_setFld_below _ (by decide) (by decide)]

end

/-! ### The Foreman serves a request (R284, R285) -/

section
variable {s : State} {w : Fin 64} {ok : Bool}

theorem exec_roleRequestServe_headless (h : s.headless = true) : exec (.roleRequestServe w ok) s = .next s := by
  refine congrArg Host.Outcome.next ?_
  rw [h]
  rfl

theorem exec_roleRequestServe_due (hled : s.headless = false) (hnext : s.nextReq = some w.val) :
    exec (.roleRequestServe w ok) s = .next (s.serveReq w.val ok) := by
  refine congrArg Host.Outcome.next ?_
  rw [hled, hnext, decide_eq_true rfl]
  rfl

/-- The request is taken: PENDING clears. -/
def State.requestServed (s : State) (w : Nat) : State := s.setRf (wvrA w 0x48) 16 1 0

theorem State.bit_requestServed (s : State) (w : Nat) : bit ((s.requestServed w).reg (wvrA w 0x48)) 16 = false := by
  rw [State.requestServed, State.setRf, State.reg_setReg_same, bit_pending_cleared]

@[simp] theorem State.weaver_requestServed (s : State) (w v : Nat) : (s.requestServed w).weaver v = s.weaver v := State.weaver_setReg s _ _ v

/-- A weaver that drains for role `y` since `bolt`. -/
def Weaver.drainingFor (y : Nat × Nat) (bolt : Word) (x : Weaver) : Weaver := { x with next := some y, byReq := true, drainAt := bolt }

section
variable (hok : s.roleRefusal w.val (s.rf (wvrA w.val 0x48) 0 8) (s.rf (wvrA w.val 0x48) 8 3) ok = none)
include hok

theorem State.serveReq_idle (hst : (s.weaver w.val).st = .idle) :
    s.serveReq w.val ok = (s.requestServed w.val).startRole w.val (s.rf (wvrA w.val 0x48) 0 8, s.rf (wvrA w.val 0x48) 8 3) true := by
  unfold State.serveReq
  simp only [hok, hst]
  rfl

theorem State.serveReq_drains (hst : (s.weaver w.val).st = .run ∨ (s.weaver w.val).st = .sleep ∨ (s.weaver w.val).st = .halt) :
    s.serveReq w.val ok =
      ((s.requestServed w.val).modWeaver w.val (Weaver.drainingFor (s.rf (wvrA w.val 0x48) 0 8, s.rf (wvrA w.val 0x48) 8 3) s.bolt)).setWvr
        w.val .drain (if (s.weaver w.val).st = .sleep then 3 else 0) := by
  unfold State.serveReq
  simp only [hok]
  rcases hst with hst | hst | hst
  all_goals
    simp only [hst]
    rfl

/-- An IDLE weaver begins to load the role. -/
theorem State.serveReq_idle_leaves (hst : (s.weaver w.val).st = .idle) (hrole : s.rf (wvrA w.val 0x48) 0 8 ≠ 0) :
    let t := s.serveReq w.val ok
    bit (t.reg (wvrA w.val 0x48)) 16 = false ∧
      t.weaver w.val = (s.weaver w.val).loadingRole (s.rf (wvrA w.val 0x48) 0 8, s.rf (wvrA w.val 0x48) 8 3) true ∧
      ∀ v, v ≠ w.val → t.weaver v = s.weaver v := by
  dsimp only
  rw [State.serveReq_idle hok hst, State.reg_startRole _ (roleFree_roleReq w) _ hrole, State.weaver_startRole_same _ _ hrole,
    State.weaver_requestServed]
  refine ⟨State.bit_requestServed s w.val, rfl, fun v hv => ?_⟩
  rw [State.weaver_startRole_other _ hrole _ hv, State.weaver_requestServed]

/-- One that runs, sleeps or is halted begins to drain for it. -/
theorem State.serveReq_drains_leaves (hst : (s.weaver w.val).st = .run ∨ (s.weaver w.val).st = .sleep ∨ (s.weaver w.val).st = .halt) :
    let t := s.serveReq w.val ok
    bit (t.reg (wvrA w.val 0x48)) 16 = false ∧
      t.weaver w.val = ((s.weaver w.val).drainingFor (s.rf (wvrA w.val 0x48) 0 8, s.rf (wvrA w.val 0x48) 8 3) s.bolt).toSt .drain ∧
      ∀ v, v ≠ w.val → t.weaver v = s.weaver v := by
  dsimp only
  rw [State.serveReq_drains hok hst, State.reg_setWvr _ (roleFree_roleReq w), State.reg_modWeaver, State.weaver_setWvr_same,
    State.weaver_modWeaver_same, State.weaver_requestServed]
  refine ⟨State.bit_requestServed s w.val, rfl, fun v hv => ?_⟩
  rw [State.weaver_setWvr_other _ _ _ hv, State.weaver_modWeaver_other _ _ hv, State.weaver_requestServed]

end

theorem State.serveReq_refused {w r : Nat} (hr : s.roleRefusal w (s.rf (wvrA w 0x48) 0 8) (s.rf (wvrA w 0x48) 8 3) ok = some r) :
    s.serveReq w ok = s.roleResult w r := by
  unfold State.serveReq
  simp only [hr]

end

/-! ### The end of DRAIN (R285) -/

/-- A weaver that halted with no message waiting: a new epoch (R283). -/
def Weaver.stopped (x : Weaver) : Weaver := { x with epoch := nextEpoch x.epoch, inbox := [] }

/-- What a halt of weaver `w` leaves: it stands as `x`, the others as they were; it owns no buffer, and the buffers of others stay. -/
def leavesHalted (s : State) (w : Nat) (x : Weaver) (t : State) : Prop :=
  t.weaver w = x ∧ (∀ v, v ≠ w → t.weaver v = s.weaver v) ∧ (∀ i, t.buf i ≠ (.owned, w)) ∧ ∀ i, i ∉ s.ownedBy w → t.buf i = s.buf i

/-- An answer changes nothing of it. -/
theorem leavesHalted.answer {s t : State} {w : Nat} {x : Weaver} (h : leavesHalted s w x t) : leavesHalted s w x (t.answer 0) := by
  have hbuf (i : Nat) : (t.answer 0).buf i = t.buf i := State.buf_congr t (t.reg_answer 0 .ok _) (t.answer_skid 0 .ok) i
  obtain ⟨hw, hothers, hnone, hbufs⟩ := h
  exact ⟨(t.weaver_answer 0 .ok w).trans hw, fun v hv => (t.weaver_answer 0 .ok v).trans (hothers v hv), fun i => hbuf i ▸ hnone i,
    fun i hi => (hbuf i).trans (hbufs i hi)⟩

section
variable {s : State} {w : Fin 64}

/-- With an empty inbox a halt refuses no message: the epoch advances and the buffers return to the pool. -/
theorem State.haltWvr_noMessages (hinbox : (s.weaver w.val).inbox = []) (reason : Nat) :
    s.haltWvr w.val reason =
      ((s.modWeaver w.val (fun x => { x with epoch := nextEpoch x.epoch })).modWeaver w.val (fun x => { x with inbox := [] })).reclaim w.val := by
  unfold State.haltWvr State.flush State.inbox State.setInbox
  rw [if_pos w.isLt, if_pos w.isLt, State.weaver_modWeaver_same, hinbox]
  rfl

theorem State.haltWvr_leaves (hinbox : (s.weaver w.val).inbox = []) (reason : Nat) :
    leavesHalted s w.val (s.weaver w.val).stopped (s.haltWvr w.val reason) := by
  rw [State.haltWvr_noMessages hinbox]
  refine ⟨?_, fun v hv => ?_, State.buf_reclaim_ne _ _, fun i hi => ?_⟩
  · rw [State.weaver, State.wvr_reclaim, ← State.weaver, State.weaver_modWeaver_same, State.weaver_modWeaver_same]
    rfl
  · rw [State.weaver, State.wvr_reclaim, ← State.weaver, State.weaver_modWeaver_other _ _ hv, State.weaver_modWeaver_other _ _ hv]
  · rw [State.buf_reclaim_other _ (by simpa using hi), State.buf_modWeaver, State.buf_modWeaver]

theorem State.startRole_skid (s : State) (w : Nat) (y : Nat × Nat) (byReq : Bool) : (s.startRole w y byReq).skid = s.skid :=
  State.startRole_inv w y byReq (only_closed [.regs, .wvr, .fmn, .bank, .tly, .pcie, .tst, .out, .free] s) (only_refl _ _) .skid (by decide)

theorem State.roleCkpt_skid (s : State) : s.roleCkpt.skid = s.skid :=
  State.roleCkpt_inv (only_closed [.regs, .fmn, .bank, .bankMem, .pcie, .tst, .out, .free] s) (only_refl _ _) .skid (by decide)

section
variable (hhalted : (s.weaver w.val).halted = false)
include hhalted

/-- Without a Foreman the weaver halts and stands so (R22). -/
theorem State.endDrain_headless (h : s.headless = true) :
    s.endDrain w.val = (s.haltWvr w.val 1).modWeaver w.val (fun x => { x with halted := true }) := by
  unfold State.endDrain
  dsimp only
  rw [hhalted, if_neg Bool.false_ne_true, if_pos h]

variable (hinbox : (s.weaver w.val).inbox = [])
include hinbox

/-- With one it halts, and begins to load the role it drained for. -/
theorem State.endDrain_led (h : s.headless = false) {y : Nat × Nat} (hy : (s.weaver w.val).next = some y) :
    s.endDrain w.val = ((s.haltWvr w.val 1).startRole w.val y (s.weaver w.val).byReq).roleCkpt := by
  obtain ⟨hw, -, -, -⟩ := State.haltWvr_leaves hinbox 1
  unfold State.endDrain
  dsimp only
  rw [hhalted, if_neg Bool.false_ne_true, if_neg (by simp [h]), hw]
  unfold Weaver.stopped
  rw [hy]
  rfl

theorem State.endDrain_leaves (h : s.headless = false) {y : Nat × Nat} (hnext : (s.weaver w.val).next = some y) (hy : y.1 ≠ 0) :
    leavesHalted s w.val ((s.weaver w.val).stopped.loadingRole y (s.weaver w.val).byReq) (s.endDrain w.val) := by
  obtain ⟨hw, hothers, hnone, hbufs⟩ := State.haltWvr_leaves hinbox 1
  rw [State.endDrain_led hhalted hinbox h hnext]
  have hbuf (i : Nat) : ((s.haltWvr w.val 1).startRole w.val y (s.weaver w.val).byReq).roleCkpt.buf i = (s.haltWvr w.val 1).buf i := by
    refine State.buf_congr _ ?_ ?_ i
    · rw [State.reg_roleCkpt _ roleFree_poolBad, State.reg_startRole _ roleFree_poolBad _ hy]
    · rw [State.roleCkpt_skid, State.startRole_skid]
  refine ⟨?_, fun v hv => ?_, fun i => ?_, fun i hi => ?_⟩
  · rw [State.weaver_roleCkpt, State.weaver_startRole_same _ _ hy, hw]
  · rw [State.weaver_roleCkpt, State.weaver_startRole_other _ hy _ hv, hothers v hv]
  · rw [hbuf]
    exact hnone i
  · rw [hbuf, hbufs i hi]

end

/-! ### The commands that end a drain -/

theorem exec_drainTimeout_over (hst : (s.weaver w.val).st = .drain)
    (h : max 1 (s.rf (wvrA w.val 0x40) 8 8) ≤ since s.bolt (s.weaver w.val).drainAt) : exec (.drainTimeout w) s = .next (s.endDrain w.val) := by
  refine congrArg Host.Outcome.next ?_
  rw [← atLeast1_eq_max] at h
  rw [State.drainOver, decide_eq_true ⟨hst, h⟩]
  rfl

variable {m : Mid}

/-- WVR_CMD with DRAINED alone: the weaver's own ends its drain, any other master's is logged (R285, R305). -/
theorem State.wvrCmd_drained :
    s.wvrCmd m w.val 8 = if m.toNat = w.val then s.when (decide ((s.weaver w.val).st = .drain)) (·.endDrain w.val)
      else s.errlog (wvrA w.val 0) 0x4C m := rfl

theorem exec_wvrCmdDrained_own (hm : m.toNat = w.val) (hst : (s.weaver w.val).st = .drain) (h : passes s m (wvrA w.val 0x4C) 8) :
    exec (.wvrCmdDrained m w) s = .next ((s.endDrain w.val).answer 0) := by
  refine congrArg Host.Outcome.next ((State.write4_passes h).trans (congrArg (State.answer · 0) ?_))
  rw [State.wvrCmd_drained, if_pos hm, decide_eq_true hst]
  rfl

theorem exec_wvrCmdDrained_other (hm : m.toNat ≠ w.val) (h : passes s m (wvrA w.val 0x4C) 8) :
    exec (.wvrCmdDrained m w) s = .next ((s.errlog (wvrA w.val 0) 0x4C m).answer 0) := by
  refine congrArg Host.Outcome.next ((State.write4_passes h).trans (congrArg (State.answer · 0) ?_))
  rw [State.wvrCmd_drained, if_neg hm]

end

/-! ### The role image is loaded (R285 step 7) -/

/-- A weaver whose local memories hold an image (R277). -/
def Weaver.withImage (free : Nat) (x : Weaver) : Weaver := { x with imem := some free, dmem := some (free + 65536), memBad := false }

/-- A weaver that takes role `y` at `bolt`: its heartbeat and its policy's measures begin anew. -/
def Weaver.takesRole (y : Nat × Nat) (bolt : Word) (x : Weaver) : Weaver :=
  { x with role := y.1, inst := y.2, next := none, byReq := false, hbAt := bolt, polMem := [], polN := 0, polSum := [], polOk := [], polSeen := [] }

/-- The weaver runs its new role; its request is still to be reported. -/
def State.imageRuns (s : State) (w : Nat) (y : Nat × Nat) : State := ((s.loadImage w).modWeaver w (Weaver.takesRole y s.bolt)).setWvr w .run

section
variable {s : State} {w : Fin 64}

theorem exec_roleImageLoaded_due (hled : s.headless = false) (hst : (s.weaver w.val).st = .loading) :
    exec (.roleImageLoaded w) s = .next (s.imageLoaded w.val) := by
  refine congrArg Host.Outcome.next ?_
  rw [hled, decide_eq_true hst]
  rfl

@[simp] theorem State.wvr_noteBoot (s : State) : s.noteBoot.wvr = s.wvr :=
  State.noteBoot_inv (only_closed [.pwr] s) (only_refl _ _) .wvr (by decide)

@[simp] theorem State.reg_noteBoot (s : State) (a : Nat) : s.noteBoot.reg a = s.reg a := by
  unfold State.noteBoot
  split <;> rfl

theorem State.weaver_loadImage_same (s : State) (w : Nat) : (s.loadImage w).weaver w = (s.weaver w).withImage s.free :=
  State.weaver_modWeaver_same s w (Weaver.withImage s.free)

theorem State.weaver_loadImage_other (s : State) {w v : Nat} (h : v ≠ w) : (s.loadImage w).weaver v = s.weaver v :=
  State.weaver_modWeaver_other s (Weaver.withImage s.free) h

theorem State.weaver_imageRuns_same (s : State) (w : Nat) (y : Nat × Nat) :
    (s.imageRuns w y).weaver w = (((s.weaver w).withImage s.free).takesRole y s.bolt).toSt .run := by
  rw [State.imageRuns, State.weaver_setWvr_same, State.weaver_modWeaver_same, State.weaver_loadImage_same]

theorem State.weaver_imageRuns_other (s : State) {w v : Nat} (y : Nat × Nat) (h : v ≠ w) : (s.imageRuns w y).weaver v = s.weaver v := by
  rw [State.imageRuns, State.weaver_setWvr_other _ _ _ h, State.weaver_modWeaver_other _ _ h, State.weaver_loadImage_other _ h]

variable {y : Nat × Nat} (hnext : (s.weaver w.val).next = some y)
include hnext

theorem State.imageLoaded_eq :
    s.imageLoaded w.val =
      ((s.imageRuns w.val y).when ((s.weaver w.val).byReq && !s.pendingReq w.val) (·.roleResult w.val 1)).roleCkpt.noteBoot := by
  unfold State.imageLoaded
  dsimp only
  rw [State.weaver_loadImage_same]
  unfold Weaver.withImage
  rw [hnext]
  rfl

theorem State.weaver_imageLoaded (v : Nat) : (s.imageLoaded w.val).weaver v = (s.imageRuns w.val y).weaver v := by
  rw [State.imageLoaded_eq hnext, State.weaver, State.wvr_noteBoot, ← State.weaver, State.weaver_roleCkpt, State.weaver, State.when]
  split
  · rw [State.wvr_roleResult, ← State.weaver]
  · rfl

/-- A request that led to the role is reported with RESULT 1. -/
theorem State.reg_imageLoaded_reported (hby : (s.weaver w.val).byReq = true) (hpend : s.pendingReq w.val = false) :
    (s.imageLoaded w.val).reg (wvrA w.val 0x48) = setFld (setFld ((s.imageRuns w.val y).reg (wvrA w.val 0x48)) 16 1 0) 17 3 1 := by
  rw [State.imageLoaded_eq hnext, State.reg_noteBoot, State.reg_roleCkpt _ (roleFree_roleReq w), hby, hpend]
  exact State.reg_roleResult _ _ 1

end

/-- Settles O37, by what each step of a role change leaves. -/
theorem roleRequests : Obligations.RoleRequests := by
  intro s m w x req role inst others
  refine ⟨fun v hreach => congrArg Host.Outcome.next (State.write4_reaches s hreach),
    fun hled hnext ok => ⟨fun r hr => ?_, fun hok hst hrole => ?_, fun hok hst => ?_⟩,
    fun h ok => exec_roleRequestServe_headless h, fun y hled hhalted hst hnext hy hinbox => ?_, fun h hhalted hst hinbox htmo => ?_,
    exec_wvrCmdDrained_other, fun y hled hst hnext => ?_⟩
  · refine ⟨_, exec_roleRequestServe_due hled hnext, ?_⟩
    rw [State.serveReq_refused hr, State.reg_roleResult]
    exact ⟨bit_pending_result _ r, fld_result _ r, fld_request_result _ r, s.wvr_roleResult _ r, fun a ha => State.reg_roleResult_other s _ r ha⟩
  · obtain ⟨hpend, hw, hothers⟩ := State.serveReq_idle_leaves hok hst hrole
    refine ⟨_, exec_roleRequestServe_due hled hnext, ?_⟩
    rw [hw]
    exact ⟨hpend, rfl, rfl, rfl, rfl, hothers⟩
  · obtain ⟨hpend, hw, hothers⟩ := State.serveReq_drains_leaves hok hst
    refine ⟨_, exec_roleRequestServe_due hled hnext, ?_⟩
    rw [hw]
    exact ⟨hpend, rfl, rfl, rfl, rfl, rfl, hothers⟩
  · have hleaves := State.endDrain_leaves hhalted hinbox hled hnext hy
    refine ⟨fun htmo => ⟨_, exec_drainTimeout_over hst htmo, ?_⟩, fun hm hpass => ⟨_, exec_wvrCmdDrained_own hm hst hpass, ?_⟩⟩
    · obtain ⟨hw, hothers, hnone, hbufs⟩ := hleaves
      rw [hw]
      exact ⟨rfl, rfl, rfl, rfl, hnone, hbufs, hothers⟩
    · obtain ⟨hw, hothers, hnone, hbufs⟩ := hleaves.answer
      rw [hw]
      exact ⟨rfl, rfl, rfl, rfl, hnone, hbufs, hothers⟩
  · obtain ⟨hw, hothers, hnone, -⟩ := State.haltWvr_leaves (s := s) hinbox 1
    refine ⟨_, exec_drainTimeout_over hst htmo, ?_⟩
    rw [State.endDrain_headless hhalted h, State.weaver_modWeaver_same, hw]
    refine ⟨hst, rfl, rfl, fun i => ?_, fun v hv => (State.weaver_modWeaver_other _ _ hv).trans (hothers v hv)⟩
    rw [State.buf_modWeaver]
    exact hnone i
  · have hw := (State.weaver_imageLoaded hnext w.val).trans (State.weaver_imageRuns_same s w.val y)
    refine ⟨_, exec_roleImageLoaded_due hled hst, ?_⟩
    rw [hw]
    refine ⟨rfl, rfl, rfl, rfl, rfl, rfl, fun v hv => ?_, fun hby hpend => ?_⟩
    · rw [State.weaver_imageLoaded hnext, State.weaver_imageRuns_other _ _ hv]
    · rw [State.reg_imageLoaded_reported hnext hby hpend]
      exact ⟨fld_result _ 1, bit_pending_result _ 1⟩

end Sys2Proof.Machine

/-! SUPPORT. A policy whose log has room, but lies in a bank that the Shed's hook holds: it decides nothing and logs nothing (R294, R371, R453). -/
namespace Sys2Proof.Machine

theorem seqAll_fixed {α : Type} {f : α → State → State} {s : State} (l : List α) (h : ∀ x, f x s = s) : seqAll f l s = s := by
  induction l with
  | nil => rfl
  | cons x t ih => rw [seqAll, h x, ih]

section
variable {s : State}

/-- The policy's test before each object: its log is full, or the log's bank is held. -/
def State.logStuck (s : State) (w : Nat) : Bool := s.svcStuck w (wvrA w 0x210) (wvrA w 0x214) (wvrA w 0x218) (wvrA w 0x21C) 32

theorem State.polOne_stuck {w : Nat} (e : Nat × Nat) (h : s.logStuck w = true) : State.polOne w e s = s := if_pos h

/-- An interval that ends while the log cannot be written is noted, and nothing else happens. -/
theorem exec_policyInterval_stuck {w : Fin 64} {meas : List (Nat × Nat)} (hdue : s.polDue w.val = true)
    (hmeas : meas.isPerm (s.polMeasured w.val) = true) (hstuck : s.logStuck w.val = true) :
    exec (.policyInterval w meas) s = .next (s.modWeaver w.val (fun x => { x with polAt := s.bolt })) := by
  refine congrArg Host.Outcome.next ?_
  rw [hmeas, State.when_true, State.polTake, hdue, State.when_true]
  exact seqAll_fixed meas fun e => State.polOne_stuck e hstuck

end

/-- W60 runs POL_HOLD in MODE 1 at the end of its interval, with 4 short episodes of group 0. Its log, empty, stands at the start of bank 0, which
it owns and whose target 10 is held full (R453). -/
def heldLog : State :=
  { State.reset with
    fmn := { holder := 1, gen := 1, a := { st := .active, powered := true } }
    prot := { grp := [(0, { ty := 1 })] }
    wvr := [(60, { st := .run, role := 0x11, polN := 1, polSum := [(0, 4)] })]
    regs := [(0x20080, 15625), (wvrA 60 0x200, 1), (bankA 0x100, 0x13C)]
    tst := { State.reset.tst with pert := true, shedHook := [0x10A, 0, 0, 0] } }

theorem heldLog_measured : heldLog.polMeasured 60 = [(0, 4)] := by decide +kernel

/-- The log's tail stands where it stood. -/
theorem heldLog_tail {t : State} (h : exec (.policyInterval 60 (heldLog.polMeasured 60)) heldLog = .next t) : t.reg (wvrA 60 0x218) = 0 := by
  rw [exec_policyInterval_stuck (by decide +kernel) (by decide +kernel) (by decide +kernel)] at h
  obtain rfl := Host.Outcome.next.inj h
  decide +kernel

/-- Refutes O39: the log of the head weaver is not full, but its bank is held, so the 4 short episodes lead to no decision and no record. -/
theorem not_headWeaverPolicies : ¬ Obligations.HeadWeaverPolicies := by
  intro h
  obtain ⟨-, -, -, hroom⟩ := h heldLog 60 []
  obtain ⟨-, hhold, -⟩ := hroom (by decide +kernel) (by decide +kernel) (by decide +kernel) (by decide +kernel) (by decide +kernel)
    (by decide +kernel)
  obtain ⟨t, ht, ⟨-, htail⟩, -⟩ := hhold 0 4 (by decide +kernel) heldLog_measured (by decide) (by decide +kernel)
  exact absurd ((congrArg BitVec.toNat (heldLog_tail ht)).symm.trans htail) (by decide +kernel)

end Sys2Proof.Machine

/-! SUPPORT. A request served by a sleeping TENANT weaver: it is woken for it, and the record of its wake is lost in a full trace buffer, which
TST_TR_LOST counts (R303, R375, R456, R458). -/
namespace Sys2Proof.Machine

/-- W5 sleeps in role TENANT; in bank 0, which it owns, a request PROT of group 8,192 stands at 0, and the result ring at 0x1000. The trace unit runs
in the stop mode, records weaver states, and is full. -/
def sleepingTenant : State :=
  { State.reset with
    wvr := [(5, { st := .sleep, role := 4 })]
    regs := [(tstA 0x60, 3), (tstA 0x64, 8), (tenA 0x58, 1), (tenA 0x60, 0x1000), (bankA 0x100, 0x105)]
    bank := { mem := [(2, 4), (14, 0x20)] }
    tst := { running := true, trace := List.replicate traceCap ⟨0, 0, 0, 0⟩ } }

theorem sleepingTenant_request :
    sleepingTenant.tenReq = some (5, [0, 0, 4] ++ List.replicate 11 0 ++ [0x20] ++ List.replicate 17 0) := by decide +kernel

/-- The answer wakes the weaver, and the record of that is lost. -/
theorem sleepingTenant_lost {t : State} (h : exec .tenProt sleepingTenant = .next t) : t.reg (tstA 0x88) = 1 := by
  obtain rfl := Host.Outcome.next.inj h
  decide +kernel

/-- Refutes O40: the PROT of a group that does not exist is answered with BAD_OBJ, but TST_TR_LOST is none of the three registers that the statement
lets an answer change. -/
theorem not_tenantService : ¬ Obligations.TenantService := by
  intro h
  obtain ⟨-, hserved, -⟩ := h sleepingTenant 5
  obtain ⟨-, -, -, -, -, hbad, -⟩ := hserved _ sleepingTenant_request
    ⟨by decide +kernel, rfl, rfl, by decide +kernel, by decide +kernel, by decide +kernel, by decide +kernel, by decide +kernel⟩
  obtain ⟨t, ht, -, -, -, -, -, hframe⟩ := hbad (by decide +kernel) (by decide +kernel)
  have hlost := hframe (tstA 0x88) (by decide)
  rw [sleepingTenant_lost ht] at hlost
  exact absurd hlost (by decide +kernel)

end Sys2Proof.Machine

/-! SUPPORT. Every step: what every command keeps, and with an empty queue nothing changes. -/
namespace Sys2Proof.Machine

/-- A property closed under every part of the state, the queue included, is kept by every step. -/
theorem step_keeps {R : State → Prop} (hR : ∀ p, Closed R p) {s t : State} (hs : R s) (ht : step s = .next t) : R t := by
  unfold step at ht
  split at ht
  · next => exact Host.Outcome.next.inj ht ▸ hs
  · next c rest _ => exact outInv_iff.mp (exec_inv c (fun p _ => hR p) (hR .pending s rest hs)) t ht

/-- Settles O3: canonical contents are closed under every part. -/
theorem canonicalKeptByEveryStep : Obligations.CanonicalKeptByEveryStep :=
  fun _ _ hs ht => step_keeps canonical_closed hs ht

end Sys2Proof.Machine

/-! SUPPORT. A destructive march test of a bank that is BAD: it ends with KIND 0 stored, but a BAD bank has KIND 5 (R335, R352). -/
namespace Sys2Proof.Machine

/-- A destructive test runs on bank 0, which is marked BAD. -/
def badUnderTest : State :=
  { State.reset with regs := [(bankA 0x74, 1), (bankA 0x100, 0x400)], bank := { march := { busy := true } } }

/-- The test ends, and the bank still has KIND 5. -/
theorem badUnderTest_kind {t : State} (h : exec (.marchTestDone []) badUnderTest = .next t) : t.bankKind 0 = 5 := by
  obtain rfl := Host.Outcome.next.inj h
  decide +kernel

/-- Refutes O34: what it says of the end of a destructive test has no premise that the bank is good, and a BAD bank does not get KIND 0. -/
theorem not_marchTests : ¬ Obligations.MarchTests := by
  intro h
  obtain ⟨-, -, -, -, hend, -⟩ := h badUnderTest 66 0
  obtain ⟨t, ht, -, hkind, -⟩ := hend (by decide +kernel) (by decide +kernel) (by decide +kernel) (by decide +kernel) (by decide +kernel)
  exact absurd ((badUnderTest_kind ht).symm.trans hkind) (by decide)

end Sys2Proof.Machine

/-! SUPPORT. The Skid pool: what a write and a read of a buffer's bytes do, what a refused operation counts and records, what freeing and allocating
a buffer leave (R353, R354, R355, R358, R361). -/
namespace Sys2Proof.Machine

/-! ### Bytes written and read back -/

@[simp] theorem length_leBytes (n v : Nat) : (leBytes n v).length = n := by
  induction n generalizing v with
  | zero => rfl
  | succ n ih => rw [leBytes, List.length_cons, ih]

theorem Memory.readN_writeN (m : List Host.Cell) (a : Nat) (bs : List Byte) : Memory.readN (Memory.writeN m a bs) a bs.length = bs := by
  refine List.ext_getElem (by simp [Memory.readN, span]) fun i _ hi => ?_
  simpa [Memory.readN, span, Nat.add_comm i a] using Memory.read_writeN m a i bs hi

section
variable (s : State)

theorem State.bytes_storeBytes (off : Nat) (bs : List Byte) : (s.storeBytes off bs).bytes off bs.length = bs :=
  Memory.readN_writeN s.bank.mem off bs

theorem State.byteAt_storeBytes_other {off x : Nat} (bs : List Byte) (h : x < off ∨ off + bs.length ≤ x) :
    (s.storeBytes off bs).byteAt x = s.byteAt x :=
  Memory.read_writeN_other s.bank.mem bs h

theorem State.byteAt_putBytes_replicate {off n x : Nat} (b : Byte) (hlo : off ≤ x) (hhi : x < off + n) :
    (s.putBytes off (List.replicate n b)).byteAt x = b := by
  obtain ⟨k, rfl⟩ := Nat.exists_eq_add_of_le hlo
  have hk : k < (List.replicate n b).length := by
    rw [List.length_replicate]
    omega
  exact (Memory.read_writeN s.bank.mem off k _ hk).trans (List.getElem_replicate hk)

theorem State.byteAt_putBytes_other {off x : Nat} (bs : List Byte) (h : x < off ∨ off + bs.length ≤ x) :
    (s.putBytes off bs).byteAt x = s.byteAt x :=
  Memory.read_writeN_other s.bank.mem bs h

end

/-! ### Accesses of the buffer window (R334, R354, R365) -/

section
variable {s : State} {m : Mid} {n : Nat}

/-- An access that the front end lets through is of 1, 2, 4 or 8 bytes, naturally aligned (R365). -/
theorem State.gate_go_size {a : Nat} {wr : Bool} (h : s.gate m a n wr = .go) : (n = 1 ∨ n = 2 ∨ n = 4 ∨ n = 8) ∧ a % n = 0 := by
  unfold State.gate at h
  split at h
  · cases h
  split at h
  · cases h
  split at h
  · cases h
  split at h
  · cases h
  split at h
  · cases h
  split at h
  · cases h
  next hsize => exact (not_or.mp hsize).imp Classical.not_not.mp Classical.not_not.mp

/-- A naturally aligned write of one group is a single access of any master (R365, R401). -/
theorem State.busStore_single {a : Nat} (h : (n = 1 ∨ n = 2 ∨ n = 4 ∨ n = 8) ∧ a % n = 0) (v : BitVec 64) :
    s.busStore m a n ⟨v, [], [], []⟩ = s.busWrite m a n v := by
  unfold State.busStore
  rw [if_neg fun hdivided => hdivided.2 ⟨rfl, rfl, h⟩, if_pos rfl]
  rfl

variable (i : Fin 8192) (o : Fin 256)

theorem windowOf_buffer : windowOf (0x1800000 + 256 * i.val + o.val) = some (.buffer, 0x600000 + 256 * i.val + o.val) := by
  unfold windowOf
  rw [if_neg (by omega), if_pos (by omega), show 0x1800000 + 256 * i.val + o.val - 0x1800000 + 0x600000 = 0x600000 + 256 * i.val + o.val by omega]

theorem targetOf_buffer : targetOf (0x1800000 + 256 * i.val + o.val) = some .skid := by
  unfold targetOf
  rw [if_neg (by omega), if_neg (by omega), if_neg (by omega), if_neg (by omega), if_neg (by omega), windowOf_buffer]

theorem State.winWrite_buffer (bs : List Byte) (clash : Bool) :
    s.winWrite m (0x1800000 + 256 * i.val + o.val) bs clash = s.skidWrite m i.val o.val bs := by
  unfold State.winWrite
  rw [windowOf_buffer]
  dsimp only
  rw [show (0x600000 + 256 * i.val + o.val - 0x600000) / 256 = i.val by omega,
    show (0x600000 + 256 * i.val + o.val - 0x600000) % 256 = o.val by omega]

section
variable {i o} {v : BitVec 64} (h : s.gate m (0x1800000 + 256 * i.val + o.val) n true = .go)
include h

theorem exec_skidBufferWrite_go : exec (.skidBufferWrite m i o n v) s = .next (s.skidWrite m i.val o.val (leBytes n v.toNat)) :=
  congrArg Host.Outcome.next (s.access_go h)

theorem exec_registerWrite_buffer :
    exec (.registerWrite m (BitVec.ofNat 27 (0x1800000 + 256 * i.val + o.val)) n ⟨v, [], [], []⟩) s =
      .next (s.skidWrite m i.val o.val (leBytes n v.toNat)) := by
  have haddr : (BitVec.ofNat 27 (0x1800000 + 256 * i.val + o.val)).toNat = 0x1800000 + 256 * i.val + o.val := Nat.mod_eq_of_lt (by omega)
  refine congrArg Host.Outcome.next ?_
  rw [haddr, State.busStore_single (State.gate_go_size h)]
  unfold State.busWrite
  rw [if_neg (by omega), if_neg (by omega), if_pos (by rw [windowOf_buffer]; rfl), s.access_go h, State.winWrite_buffer]

end

/-- A read that the front end lets through gives the buffer's bytes. -/
theorem State.busRead_buffer (h : s.gate m (0x1800000 + 256 * i.val + o.val) n false = .go) :
    s.busRead m (0x1800000 + 256 * i.val + o.val) n =
      (s.readWord (0x600000 + 256 * i.val + o.val)).1.answerRead m (0x1800000 + 256 * i.val + o.val)
        (BitVec.ofNat 64 (leVal (s.bytes (0x600000 + 256 * i.val + o.val) n))) (s.readWord (0x600000 + 256 * i.val + o.val)).2 := by
  unfold State.busRead State.busRead1
  rw [if_neg (by omega), if_neg (by rw [targetOf_buffer]; simp [Target.isReg]), s.access_go h, State.readHere,
    if_pos (by rw [windowOf_buffer]; rfl), State.winRead, windowOf_buffer]
  dsimp only
  unfold State.bankRead
  rw [if_neg (by simp)]
  dsimp only
  rw [if_neg (by omega)]

end

/-! ### What a read of a buffer leaves (R343, R354, R402) -/

section
variable (s : State) {a : Nat} (off : Nat)

theorem State.reg_readWord (ha : skidA 0 ≤ a) : (s.readWord off).1.reg a = s.reg a := by
  unfold skidA at ha
  unfold State.readWord
  split
  · rfl
  split
  · rw [State.eccUnc, State.irq_reg_other _ (by unfold bankA; omega), State.reg_setReg_other _ _ (by unfold bankA; omega),
      State.reg_incReg_other _ _ (by unfold bankA; omega)]
  split
  · exact s.reg_incReg_other _ (by unfold bankA; omega)
  · rfl

@[simp] theorem State.skid_readWord : (s.readWord off).1.skid = s.skid :=
  State.readWord_inv off (only_closed [.regs, .bank, .pcie, .out] s) (only_refl _ _) .skid (by decide)

/-- A word outside the banks that has no uncorrectable error is read with status OK. -/
theorem State.readWord_ok (hoff : 0x600000 ≤ off) (hgood : off / 8 ∉ s.bank.unc) : (s.readWord off).2 = .ok := by
  unfold State.readWord
  rw [if_neg (by omega), if_neg hgood]
  split <;> rfl

variable (m : Mid) (b : Nat) (d : BitVec 64) (st : Status)

theorem State.reg_answerRead (ha : skidA 0 ≤ a) : (s.answerRead m b d st).reg a = s.reg a := by
  unfold skidA at ha
  unfold State.answerRead
  split
  · exact (State.irq_reg_other _ (by omega)).trans ((State.reg_setReg_other _ _ (by omega)).trans (s.reg_incReg_other _ (by omega)))
  · rfl

@[simp] theorem State.skid_answerRead : (s.answerRead m b d st).skid = s.skid :=
  State.answerRead_inv m b d st (only_closed [.regs, .pcie, .out, .resp] s) (only_refl _ _) .skid (by decide)

theorem State.data_answerRead : (s.answerRead m b d st).resp.data = d := by
  unfold State.answerRead
  split <;> rfl

theorem State.status_answerRead_ok : (s.answerRead m b d .ok).resp.status = .ok := rfl

end

/-! ### A refused pool operation (R361) -/

/-- A refused operation is counted, as a double free or as a non-owner's, and recorded in SKID_LAST. -/
def State.misuseNoted (s : State) (m : Mid) (i kind : Nat) : State :=
  (s.incReg (skidA (if kind = 0 then 0x54 else 0x58))).setReg (skidA 0x5C) (w32 (i + m.toNat * 2 ^ 14 + kind * 2 ^ 22))

section
variable (s : State) (m : Mid) (i kind : Nat)

/-- Each but a write raises the MISUSE cause besides. -/
theorem State.skidMisuse_eq :
    s.skidMisuse m i kind = if kind = 3 then s.misuseNoted m i kind else (s.misuseNoted m i kind).irq (skidA 0) 1 := rfl

@[simp] theorem State.skid_skidMisuse : (s.skidMisuse m i kind).skid = s.skid :=
  State.skidMisuse_inv m i kind (only_closed [.regs, .pcie, .out] s) (only_refl _ _) .skid (by decide)

@[simp] theorem State.bank_skidMisuse : (s.skidMisuse m i kind).bank = s.bank := by
  have hnoted : (s.misuseNoted m i kind).bank = s.bank := by rw [State.misuseNoted, State.setReg_bank, State.incReg, State.setReg_bank]
  rw [State.skidMisuse_eq]
  split
  · exact hnoted
  · rw [State.irq_bank, hnoted]

theorem State.reg_skidMisuse_noted {a : Nat} (ha : a ≠ skidA 0x10) : (s.skidMisuse m i kind).reg a = (s.misuseNoted m i kind).reg a := by
  rw [State.skidMisuse_eq]
  split
  · rfl
  · exact State.irq_reg_other _ ha

theorem State.reg_skidMisuse_last : (s.skidMisuse m i kind).reg 0xD8005C = w32 (i + m.toNat * 2 ^ 14 + kind * 2 ^ 22) := by
  rw [State.reg_skidMisuse_noted _ _ _ _ (by decide)]
  exact State.reg_setReg_same _ _ _

theorem State.reg_skidMisuse_doubleFree : (s.skidMisuse m i 0).reg 0xD80054 = s.reg 0xD80054 + 1 := by
  rw [State.reg_skidMisuse_noted _ _ _ _ (by decide), State.misuseNoted, State.reg_setReg_other _ _ (by decide)]
  exact State.reg_incReg_same _ _ _

theorem State.reg_skidMisuse_nonOwner (hkind : kind ≠ 0) : (s.skidMisuse m i kind).reg 0xD80058 = s.reg 0xD80058 + 1 := by
  rw [State.reg_skidMisuse_noted _ _ _ _ (by decide), State.misuseNoted, State.reg_setReg_other _ _ (by decide), if_neg hkind]
  exact State.reg_incReg_same _ _ _

theorem State.reg_skidMisuse_raised (hkind : kind ≠ 3) : (s.skidMisuse m i kind).reg 0xD80010 = s.reg 0xD80010 ||| 1 := by
  have hcnt : skidA 0x10 ≠ skidA (if kind = 0 then 0x54 else 0x58) := by split <;> decide
  have hnoted : (s.misuseNoted m i kind).reg (skidA 0x10) = s.reg (skidA 0x10) := by
    rw [State.misuseNoted, State.reg_setReg_other _ _ (by decide), State.reg_incReg_other _ _ hcnt]
  rw [State.skidMisuse_eq, if_neg hkind]
  exact (State.irq_reg _ _ _ _).trans ((if_pos rfl).trans (congrArg (· ||| 1) hnoted))

/-- Beside the two, a refused write changes no register. -/
theorem State.reg_skidMisuse_write {a : Nat} (hcnt : a ≠ 0xD80058) (hlast : a ≠ 0xD8005C) : (s.skidMisuse m i 3).reg a = s.reg a := by
  rw [State.skidMisuse_eq, if_pos rfl, State.misuseNoted]
  exact (State.reg_setReg_other _ _ hlast).trans (State.reg_incReg_other _ _ hcnt)

end

/-! ### Writes within a buffer (R354) -/

section
variable {s : State} {m : Mid} {i o n : Nat} {v : BitVec 64}

/-- What the owner's write leaves: its bytes stand there, and nothing else changed. -/
theorem State.skidWrite_owner (h : s.buf i = (.owned, m.toNat)) :
    let t := s.skidWrite m i o (leBytes n v.toNat)
    t.bytes (0x600000 + 256 * i + o) n = leBytes n v.toNat ∧
      (∀ y, y < 0x600000 + 256 * i + o ∨ 0x600000 + 256 * i + o + n ≤ y → t.byteAt y = s.byteAt y) ∧ t.regs = s.regs ∧ t.skid = s.skid := by
  have hwrite : s.skidWrite m i o (leBytes n v.toNat) = (s.storeBytes (0x600000 + 256 * i + o) (leBytes n v.toNat)).answer 0 := if_pos h
  dsimp only
  rw [hwrite]
  refine ⟨?_, fun y hy => ?_, rfl, rfl⟩
  · have hread := s.bytes_storeBytes (0x600000 + 256 * i + o) (leBytes n v.toNat)
    rwa [length_leBytes] at hread
  · exact s.byteAt_storeBytes_other _ (by rwa [length_leBytes])

/-- What any other write leaves: it is counted and recorded. -/
theorem State.skidWrite_other (h : s.buf i ≠ (.owned, m.toNat)) (bs : List Byte) :
    let t := s.skidWrite m i o bs
    t.bank = s.bank ∧ t.skid = s.skid ∧ t.reg 0xD80058 = s.reg 0xD80058 + 1 ∧ t.reg 0xD8005C = w32 (i + m.toNat * 2 ^ 14 + 3 * 2 ^ 22) ∧
      ∀ a, a ≠ 0xD80058 → a ≠ 0xD8005C → t.reg a = s.reg a := by
  have hwrite : s.skidWrite m i o bs = (s.skidMisuse m i 3).answer 0 := if_neg h
  simp only [hwrite, State.answer_bank, State.answer_skid, State.reg_answer]
  exact ⟨s.bank_skidMisuse m i 3, s.skid_skidMisuse m i 3, s.reg_skidMisuse_nonOwner m i 3 (by decide), s.reg_skidMisuse_last m i 3,
    fun a => s.reg_skidMisuse_write m i⟩

end

/-- Settles O58: both commands that write a buffer are one buffer write; then what a read leaves. -/
theorem skidWritesByTheOwnerOnly : Obligations.SkidWritesByTheOwnerOnly := by
  intro s m i o n v a x
  refine ⟨fun hgate => ?writes, fun hgate => ?read⟩
  case writes =>
    have hone : ∀ r ∈ [exec (.skidBufferWrite m i o n v) s, exec (.registerWrite m (BitVec.ofNat 27 a) n ⟨v, [], [], []⟩) s],
        r = .next (s.skidWrite m i.val o.val (leBytes n v.toNat)) := by
      simp only [List.forall_mem_cons, List.not_mem_nil, false_implies, implies_true, and_true]
      exact ⟨exec_skidBufferWrite_go hgate, exec_registerWrite_buffer hgate⟩
    exact ⟨fun hown r hr => ⟨_, hone r hr, State.skidWrite_owner hown⟩, fun hown r hr => ⟨_, hone r hr, State.skidWrite_other hown _⟩⟩
  case read =>
    rw [State.busRead_buffer i o hgate]
    refine ⟨by simp, ?_, ?_, State.data_answerRead _ _ _ _ _, fun hgood => ?_⟩
    · rw [State.reg_answerRead _ _ _ _ _ (by decide), State.reg_readWord _ _ (by decide)]
    · rw [State.reg_answerRead _ _ _ _ _ (by decide), State.reg_readWord _ _ (by decide)]
    · rw [s.readWord_ok x (by omega) hgood]
      exact State.status_answerRead_ok _ _ _ _

end Sys2Proof.Machine

/-! SUPPORT. The Skid pool's list of free buffers: what freeing and allocating a buffer leave, and the low mark (R353, R355, R358, R361). -/
namespace Sys2Proof.Machine

/-! ### Buffers whose state changes (R353) -/

section
variable (s : State) {i : Nat} (st : BufSt) (o : Nat)

theorem State.buf_setBuf_same (h : s.withdrawn i = false) : (s.setBuf i st o).buf i = (st, o) := by
  have hsame : (s.setBuf i st o).withdrawn i = false := h
  rw [State.buf, hsame, if_neg Bool.false_ne_true]
  exact smGet_smPut_same _ _ _ _

theorem State.buf_setBuf_other {j : Nat} (h : j ≠ i) : (s.setBuf i st o).buf j = s.buf j :=
  congrArg (fun x => if s.withdrawn j then (BufSt.withdrawn, 0) else x) (smGet_smPut_other (BufSt.free, 0) s.skid.own (st, o) h)

theorem State.buf_answer (d : BitVec 64) (r : Status) (j : Nat) : (s.answer d r).buf j = s.buf j := rfl

theorem State.byteAt_answer (d : BitVec 64) (r : Status) (x : Nat) : (s.answer d r).byteAt x = s.byteAt x := rfl

theorem State.withdrawn_of_buf {x : BufSt × Nat} (h : s.buf i = x) (hx : x.1 ≠ .withdrawn) : s.withdrawn i = false := by
  rw [State.buf] at h
  split at h
  · exact absurd (h ▸ rfl) hx
  · next hgood => exact eq_false_of_ne_true hgood

theorem State.buf_freeBuf_same (h : s.withdrawn i = false) : (s.freeBuf i).buf i = (.free, 0) := s.buf_setBuf_same .free 0 h

theorem State.buf_freeBuf_other {j : Nat} (h : j ≠ i) : (s.freeBuf i).buf j = s.buf j := s.buf_setBuf_other .free 0 h

end

/-! ### SKID_FREE (R355, R361) -/

/-- Buffer `i` with its bytes zeroed where SKID_CFG.CLEAR asks for it. -/
def State.cleared (s : State) (i : Nat) : State :=
  if s.rb (skidA 0x40) 0 then s.putBytes (bufAt i) (List.replicate 256 0) else s

theorem bufAt_succ (i : Nat) : bufAt (i + 1) = bufAt i + 256 := by rw [bufAt, bufAt, Nat.mul_succ, Nat.add_assoc]

section
variable (s : State) (i : Nat)

theorem State.skid_putBytes (a : Nat) (bs : List Byte) : (s.putBytes a bs).skid = s.skid := rfl

theorem State.regs_putBytes (a : Nat) (bs : List Byte) : (s.putBytes a bs).regs = s.regs := rfl

theorem State.buf_putBytes (a : Nat) (bs : List Byte) (j : Nat) : (s.putBytes a bs).buf j = s.buf j := rfl

theorem State.skid_cleared : (s.cleared i).skid = s.skid := by
  unfold State.cleared
  split
  · exact s.skid_putBytes _ _
  · rfl

theorem State.regs_cleared : (s.cleared i).regs = s.regs := by
  unfold State.cleared
  split
  · exact s.regs_putBytes _ _
  · rfl

theorem State.buf_cleared (j : Nat) : (s.cleared i).buf j = s.buf j := by
  unfold State.cleared
  split
  · exact s.buf_putBytes _ _ j
  · rfl

theorem State.byteAt_cleared {x : Nat} (hlo : bufAt i ≤ x) (hhi : x < bufAt (i + 1)) :
    (s.cleared i).byteAt x = if s.rb (skidA 0x40) 0 then 0 else s.byteAt x := by
  rw [bufAt_succ] at hhi
  unfold State.cleared
  by_cases hclear : s.rb (skidA 0x40) 0 = true
  · rw [if_pos hclear, if_pos hclear, s.byteAt_putBytes_replicate 0 hlo hhi]
  · rw [if_neg hclear, if_neg hclear]

theorem State.byteAt_cleared_other {x : Nat} (h : x < bufAt i ∨ bufAt (i + 1) ≤ x) : (s.cleared i).byteAt x = s.byteAt x := by
  rw [bufAt_succ] at h
  unfold State.cleared
  split
  · exact s.byteAt_putBytes_other _ (by rwa [List.length_replicate])
  · rfl

theorem State.byteAt_freeBuf (x : Nat) : (s.freeBuf i).byteAt x = s.byteAt x := rfl

theorem State.regs_freeBuf : (s.freeBuf i).regs = s.regs := rfl

theorem State.freed_freeBuf : (s.freeBuf i).skid.freed = s.skid.freed ++ [i] := rfl

/-- What a free by the owner leaves: the buffer at the tail of the free list, its bytes zeroed where that is asked for. -/
theorem State.freed_leaves {m : Nat} (h : s.buf i = (.owned, m)) :
    let t := ((s.cleared i).freeBuf i).answer 0
    t.buf i = (.free, 0) ∧ t.skid.freed = s.skid.freed ++ [i] ∧ (∀ j, j ≠ i → t.buf j = s.buf j) ∧ t.regs = s.regs ∧
      (∀ x, bufAt i ≤ x → x < bufAt (i + 1) → t.byteAt x = if s.rb (skidA 0x40) 0 then 0 else s.byteAt x) ∧
      (∀ x, x < bufAt i ∨ bufAt (i + 1) ≤ x → t.byteAt x = s.byteAt x) := by
  have hgood : (s.cleared i).withdrawn i = false := State.withdrawn_of_buf _ ((s.buf_cleared i i).trans h) (by simp)
  simp only [State.buf_answer, State.answer_skid, State.answer_regs, State.byteAt_answer, State.freed_freeBuf, State.regs_freeBuf,
    State.byteAt_freeBuf, State.skid_cleared, State.regs_cleared, true_and]
  exact ⟨State.buf_freeBuf_same _ hgood, fun j hj => (State.buf_freeBuf_other _ hj).trans (s.buf_cleared i j),
    fun x => s.byteAt_cleared i, fun x => s.byteAt_cleared_other i⟩

end

section
variable {s : State} {m : Mid} {v : Word}

theorem exec_skidFree_reaches (h : reaches s m 0xD8004C) : exec (.skidFree m v) s = .next ((s.skidFreeWrite m v).answer 0) :=
  congrArg Host.Outcome.next (State.write4_reaches s h)

variable (hi : fld v 0 14 < 8192)
include hi

theorem State.skidFreeWrite_owner (h : s.buf (fld v 0 14) = (.owned, m.toNat)) :
    s.skidFreeWrite m v = (s.cleared (fld v 0 14)).freeBuf (fld v 0 14) := by
  unfold State.skidFreeWrite
  dsimp only
  rw [if_neg (by omega), h]
  exact if_pos rfl

theorem State.skidFreeWrite_nonOwner {o : Nat} (h : s.buf (fld v 0 14) = (.owned, o)) (ho : o ≠ m.toNat) :
    s.skidFreeWrite m v = s.skidMisuse m (fld v 0 14) 1 := by
  unfold State.skidFreeWrite
  dsimp only
  rw [if_neg (by omega), h]
  exact if_neg ho

theorem State.skidFreeWrite_free (h : s.buf (fld v 0 14) = (.free, 0)) : s.skidFreeWrite m v = s.skidMisuse m (fld v 0 14) 0 := by
  unfold State.skidFreeWrite
  dsimp only
  rw [if_neg (by omega), h]

end

/-! ### SKID_ALLOC (R353, R358) -/

section
variable (s : State) (was : Nat)

@[simp] theorem State.skid_skidNote : (s.skidNote was).skid = s.skid :=
  State.skidNote_inv was (only_closed [.regs, .pcie, .out] s) (only_refl _ _) .skid (by decide)

@[simp] theorem State.bank_skidNote : (s.skidNote was).bank = s.bank := by
  have hregs := State.skidNote_inv was (only_closed [.regs, .pcie, .out] s) (only_refl _ s)
  have hbytes : (s.skidNote was).bank.mem = s.bank.mem := hregs .bankMem (by decide)
  have hrest : (s.skidNote was).bank = { s.bank with mem := (s.skidNote was).bank.mem } := hregs .bank (by decide)
  rw [hrest, hbytes]

/-- The low mark and the LOW cause are all that it writes. -/
theorem State.reg_skidNote {a : Nat} (hmark : a ≠ skidA 0x64) (hraw : a ≠ skidA 0x10) : (s.skidNote was).reg a = s.reg a := by
  have hlow (c : Prop) [Decidable c] (v : Word) : (if c then s.setReg (skidA 0x64) v else s).reg a = s.reg a := by
    split
    · exact s.reg_setReg_other v hmark
    · rfl
  unfold State.skidNote
  dsimp only
  split
  · exact (State.irq_reg_other _ hraw).trans (hlow _ _)
  · exact hlow _ _

@[simp] theorem State.buf_skidNote (i : Nat) : (s.skidNote was).buf i = s.buf i :=
  State.buf_congr s (s.reg_skidNote was (by decide) (by decide)) (s.skid_skidNote was) i

end

section
variable {s s1 : State} {m : Mid} {i : Nat}

theorem exec_skidAlloc_readable (h : readable s m 0xD80048) :
    exec (.skidAlloc m) s = .next ((s.skidAlloc m.toNat).2.answer ((s.skidAlloc m.toNat).1.setWidth 64)) :=
  congrArg Host.Outcome.next (s.access_go h)

/-- Never-allocated buffers come first, in index order. -/
theorem State.takeHead_fresh (h : s.skipBad s.skid.fresh = i) (hi : i < 8192) :
    s.takeHead = some (i, s.modSkid (fun q => { q with fresh := i + 1 })) := by
  unfold State.takeHead
  rw [h]
  exact if_pos hi

/-- Then freed ones, in the order in which they were freed. -/
theorem State.takeHead_freed {l : List Nat} (h : s.skipBad s.skid.fresh = 8192) (hl : s.skid.freed = i :: l) :
    s.takeHead = some (i, s.modSkid (fun q => { q with freed := l, fresh := 8192 })) := by
  unfold State.takeHead
  rw [h, hl]
  rfl

section
variable (hlim : s.rf 0xD80044 0 15 = 0 ∨ (s.ownedBy m.toNat).length < s.rf 0xD80044 0 15)
include hlim

theorem State.skidAlloc_taken (h : s.takeHead = some (i, s1)) :
    s.skidAlloc m.toNat = (w32 (0x80000000 + i), (s1.setBuf i .owned m.toNat).skidNote s.skidFree) := by
  have hfree : ¬(s.rf (skidA 0x44) 0 15 ≠ 0 ∧ s.rf (skidA 0x44) 0 15 ≤ (s.ownedBy m.toNat).length) := by
    show ¬(s.rf 0xD80044 0 15 ≠ 0 ∧ s.rf 0xD80044 0 15 ≤ (s.ownedBy m.toNat).length)
    omega
  unfold State.skidAlloc
  rw [if_neg hfree, h]

/-- A buffer taken off the list that leaves the entries of all as they were is OWNED by the reader; no other buffer changes, and no byte. -/
theorem exec_skidAlloc_taken (hread : readable s m 0xD80048) (hgood : s.withdrawn i = false) {f : Skid → Skid}
    (hown : (f s.skid).own = s.skid.own) (h : s.takeHead = some (i, s.modSkid f)) :
    ∃ t, exec (.skidAlloc m) s = .next t ∧ t.resp = { data := (w32 (0x80000000 + i)).setWidth 64, status := .ok } ∧
      t.buf i = (.owned, m.toNat) ∧ t.skid.fresh = (f s.skid).fresh ∧ t.skid.freed = (f s.skid).freed ∧
      (∀ j, j ≠ i → t.buf j = s.buf j) ∧ t.bank = s.bank := by
  have hbuf (j : Nat) : (s.modSkid f).buf j = s.buf j := by
    rw [State.buf_eq, State.buf_eq, State.modSkid_skid, hown, State.reg_modSkid]
  refine ⟨_, exec_skidAlloc_readable hread, ?_⟩
  rw [State.skidAlloc_taken hlim h]
  refine ⟨rfl, ?_, ?_, ?_, fun j hj => ?_, ?_⟩
  · rw [State.buf_answer, State.buf_skidNote]
    exact State.buf_setBuf_same _ _ _ hgood
  · rw [State.answer_skid, State.skid_skidNote]
    rfl
  · rw [State.answer_skid, State.skid_skidNote]
    rfl
  · rw [State.buf_answer, State.buf_skidNote, State.buf_setBuf_other _ _ _ hj, hbuf]
  · rw [State.answer_bank, State.bank_skidNote]
    rfl

end

theorem State.skidAlloc_limited (hlim : s.rf 0xD80044 0 15 ≠ 0) (hlen : s.rf 0xD80044 0 15 ≤ (s.ownedBy m.toNat).length) :
    s.skidAlloc m.toNat = (0, s.setReg 0xD80060 (s.reg 0xD80060 + 1)) := by
  unfold State.skidAlloc
  dsimp only
  rw [if_pos ⟨hlim, hlen⟩]
  rfl

end

/-- Settles O35: allocation, the three cases of a free, the two of a buffer write, the low mark. -/
theorem skidPool : Obligations.SkidPool := by
  intro s m
  refine ⟨fun hread => ⟨fun hlim => ⟨fun i hfresh hi hgood => ?fresh, fun i l hfull hl hgood => ?freed⟩, fun hlim hlen => ?limited⟩,
    fun v hreach => ?free, fun i o n v hgate => ?write, fun hread => congrArg Host.Outcome.next (s.access_go hread)⟩
  case fresh => exact exec_skidAlloc_taken hlim hread hgood rfl (State.takeHead_fresh hfresh hi)
  case freed =>
    obtain ⟨t, ht, hresp, hbuf, -, hfreed, hothers, -⟩ := exec_skidAlloc_taken hlim hread hgood rfl (State.takeHead_freed hfull hl)
    exact ⟨t, ht, hresp, hbuf, hfreed, hothers⟩
  case limited => rw [exec_skidAlloc_readable hread, State.skidAlloc_limited hlim hlen]; rfl
  case free =>
    intro i
    refine ⟨fun hown hi => ⟨_, exec_skidFree_reaches hreach, ?_⟩, fun o hi hown ho => ⟨_, exec_skidFree_reaches hreach, ?_⟩,
      fun hi hfree => ⟨_, exec_skidFree_reaches hreach, ?_⟩⟩
    · rw [State.skidFreeWrite_owner hi hown]
      exact State.freed_leaves s i hown
    · have hlast := s.reg_skidMisuse_last m i 1
      rw [Nat.one_mul] at hlast
      simp only [State.skidFreeWrite_nonOwner hi hown ho, State.answer_skid, State.answer_bank, State.reg_answer]
      exact ⟨s.skid_skidMisuse m i 1, s.bank_skidMisuse m i 1, s.reg_skidMisuse_nonOwner m i 1 (by decide), hlast,
        s.reg_skidMisuse_raised m i 1 (by decide)⟩
    · have hlast := s.reg_skidMisuse_last m i 0
      rw [Nat.zero_mul, Nat.add_zero] at hlast
      simp only [State.skidFreeWrite_free hi hfree, State.answer_skid, State.answer_bank, State.reg_answer]
      exact ⟨s.skid_skidMisuse m i 0, s.bank_skidMisuse m i 0, s.reg_skidMisuse_doubleFree m i, hlast,
        s.reg_skidMisuse_raised m i 0 (by decide)⟩
  case write =>
    exact ⟨fun hown => ⟨_, exec_skidBufferWrite_go hgate, State.skidWrite_owner hown⟩,
      fun hown => ⟨_, exec_skidBufferWrite_go hgate, State.skidWrite_other hown _⟩⟩

end Sys2Proof.Machine

/-! SUPPORT. The Shed's front end: which target an address names, whom the fence stops, and what each check answers (R313, R363-R366, R374). -/
namespace Sys2Proof.Machine

/-! ### Targets of addresses (R363) -/

section
variable {a : Nat}

theorem targetOf_register (h : a < 0x80000) : targetOf a = some .regc := by
  unfold targetOf
  rw [if_neg (by omega), if_pos h]

theorem targetOf_gap (hlo : 0x85800 ≤ a) (hhi : a < 0x400000) : targetOf a = none := by
  unfold targetOf
  rw [if_neg (by omega), if_neg (by omega), if_neg (by omega), if_neg (by omega), if_neg (by omega), windowOf_register (by omega)]

theorem targetOf_tile {p : Nat} (h : p < 8) : targetOf (0x400000 + 0x80000 * p) = some (.regp p) := by
  have hp : (0x400000 + 0x80000 * p - 0x400000) / 0x80000 = p := by omega
  unfold targetOf
  rw [if_neg (by omega), if_neg (by omega), if_neg (by omega), if_pos (by omega), hp]

theorem targetOf_direct {o : Nat} (h : o < 0x800000) :
    targetOf (0x1000000 + o) = if o < 0x600000 then some (.bank (o / 0x20000)) else some .skid := by
  have hwin : windowOf (0x1000000 + o) = some (.direct, o) := by
    unfold windowOf
    rw [if_pos (by omega), Nat.add_sub_cancel_left]
  unfold targetOf
  rw [if_neg (by omega), if_neg (by omega), if_neg (by omega), if_neg (by omega), if_neg (by omega), hwin]

theorem targetOf_hostmem (h : 0x4000000 ≤ a) : targetOf a = some .hostmem := by
  unfold targetOf
  exact if_pos h

theorem targetOf_ne_hostmem (h : a < 0x4000000) : targetOf a ≠ some .hostmem := by
  unfold targetOf
  rw [if_neg (by omega)]
  repeat' split
  all_goals simp

end

/-! ### Paths (R364) -/

theorem connected_weaver {m : Nat} {t : Target} (hm : m < 64) (ht : t ≠ .hostmem) : connected m t = true := by
  cases t with
  | hostmem => exact absurd rfl ht
  | regc | regp | blz | bank | skid => simp only [connected, decide_eq_true_eq]; omega

theorem connected_weaver_hostmem {m : Nat} (hm : m < 64) : connected m .hostmem = false := by
  simp only [connected, decide_eq_false_iff_not]
  omega

section
variable {s : State} {m : Mid} {a n : Nat} {w : Bool}

/-! ### The fence (R313) -/

theorem State.fenced_of_notForeman (hm : m.toNat < 64 ∨ 66 ≤ m.toNat) : s.fenced m a = false := by
  have hA : (m == 64) = false := beq_eq_false_iff_ne.mpr fun h => by subst h; revert hm; decide
  have hB : (m == 65) = false := beq_eq_false_iff_ne.mpr fun h => by subst h; revert hm; decide
  rw [State.fenced, hA, hB]
  rfl

theorem State.fenced_holder (h : s.fmn.holder = 1) : s.fenced 64 a = false := by simp [State.fenced, State.holderId, h]

theorem State.fenced_foremanA (h : s.fmn.holder ≠ 1) (hclaim : a ≠ fmnA 0x50) (hself : a ≠ fmnA 0xA0) : s.fenced 64 a = true := by
  have hid : s.holderId ≠ some 64 := by
    unfold State.holderId
    rw [if_neg h]
    split <;> simp
  simp [State.fenced, hid, hclaim, hself]

theorem State.fenced_foremanB (h : s.fmn.holder ≠ 2) (hclaim : a ≠ fmnA 0x50) (hself : a ≠ fmnA 0xA4) : s.fenced 65 a = true := by
  have hid : s.holderId ≠ some 65 := by
    unfold State.holderId
    rw [if_neg h]
    split <;> simp
  simp [State.fenced, hid, hclaim, hself]

theorem State.gate_off (h : s.pwr.cdpOn = false) : s.gate m a n w = .quiet := by
  unfold State.gate
  exact if_pos (by simp [h])

theorem State.gate_fenced (hon : s.pwr.cdpOn = true) (h : s.fenced m a = true) : s.gate m a n true = .drop := by
  unfold State.gate
  rw [if_neg (not_not_intro hon), if_pos (by simp [h])]

/-- Only the fence drops an access. -/
theorem State.gate_ne_drop (h : s.fenced m a = false) : s.gate m a n w ≠ .drop := by
  unfold State.gate
  simp only [h, Bool.and_false, Bool.false_eq_true, if_false]
  repeat' split
  all_goals simp

/-! ### An access that is decoded -/

/-- The CDP domain is on, the fence lets the access by, and its master is not the host, whose accesses a warm reset may silence (R434). -/
def State.decodes (s : State) (m : Mid) (a : Nat) : Prop := s.pwr.cdpOn = true ∧ s.fenced m a = false ∧ m ≠ 66

/-- The checks of an access to `t` behind those of its path and its size: the tile, the page, the hold (R374, R403, R455). -/
def State.gateIn (s : State) (m : Mid) (a : Nat) (t : Target) : Gate :=
  let pass := if s.shedWaits m t then Gate.wait else .go
  let page := if (locate (a - a % 4)).isNone then .err .unmapped else pass
  match t with
  | .regp p => if ¬ s.reach p then .err .asleep else page
  | .regc => page
  | _ => pass

theorem State.decodes_other (hon : s.pwr.cdpOn = true) (hm : m.toNat < 64 ∨ 66 < m.toNat) : s.decodes m a :=
  ⟨hon, State.fenced_of_notForeman (by omega), fun h => by subst h; revert hm; decide⟩

theorem State.decodes_holder (hon : s.pwr.cdpOn = true) (h : s.fmn.holder = 1) : s.decodes 64 a :=
  ⟨hon, State.fenced_holder h, by decide⟩

section
variable (h : s.decodes m a)
include h

theorem State.gate_unmapped (hm : m ≠ 67) (ht : targetOf a = none) : s.gate m a n w = .err .unmapped := by
  obtain ⟨hon, hfence, hhost⟩ := h
  unfold State.gate
  rw [if_neg (not_not_intro hon), if_neg (by simp [hfence]), if_neg (fun hwarm => hhost hwarm.1), ht]
  exact congrArg Gate.err (if_neg hm)

variable {t : Target} (ht : targetOf a = some t)
include ht

/-- Path, size and width are checked in this order, then what lies at the target (R364, R365). -/
theorem State.gate_decoded : s.gate m a n w =
    if ¬ connected m.toNat t then .err .nopath
    else if ¬ (n = 1 ∨ n = 2 ∨ n = 4 ∨ n = 8) ∨ a % n ≠ 0 then .err .size
    else if t.isReg ∧ w ∧ n < 4 then .err .size
    else s.gateIn m a t := by
  obtain ⟨hon, hfence, hhost⟩ := h
  unfold State.gate
  rw [if_neg (not_not_intro hon), if_neg (by simp [hfence]), if_neg (fun hwarm => hhost hwarm.1), ht]
  cases t <;> rfl

theorem State.gate_nopath (hpath : connected m.toNat t = false) : s.gate m a n w = .err .nopath := by
  rw [State.gate_decoded h ht, if_pos (by simp [hpath])]

variable (hpath : connected m.toNat t = true)
include hpath

/-- A size that is none, and a register write of less than a word (R365). -/
theorem State.gate_size (hsize : ¬(n = 1 ∨ n = 2 ∨ n = 4 ∨ n = 8) ∨ t.isReg = true ∧ w = true ∧ n < 4) : s.gate m a n w = .err .size := by
  rw [State.gate_decoded h ht, if_neg (not_not_intro hpath)]
  by_cases hbad : ¬(n = 1 ∨ n = 2 ∨ n = 4 ∨ n = 8) ∨ a % n ≠ 0
  · exact if_pos hbad
  · rw [if_neg hbad, if_pos (hsize.resolve_left fun hnone => hbad (.inl hnone))]

/-- An aligned access of at least a word passes the checks of size and width. -/
theorem State.gate_sized (hn : n = 4 ∨ n = 8) (hal : a % n = 0) : s.gate m a n w = s.gateIn m a t := by
  rw [State.gate_decoded h ht, if_neg (not_not_intro hpath), if_neg (by omega), if_neg (by omega)]

end

/-- Memory has no tile and no page to miss. -/
theorem State.gateIn_memory {t : Target} (h : t.isReg = false) : s.gateIn m a t = if s.shedWaits m t then .wait else .go := by
  cases t with
  | regc | regp | blz => cases h
  | bank | skid | hostmem => rfl

theorem State.gateIn_asleep {p : Nat} (h : s.reach p = false) : s.gateIn m a (.regp p) = .err .asleep := if_pos (by simp [h])

/-- What a weaver gets in the direct window (R363, R364, R455). -/
theorem State.gate_weaver_direct (hon : s.pwr.cdpOn = true) (hm : m.toNat < 64) {o : Nat} {t : Target} (ho : o < 0x800000) (hal : o % 8 = 0)
    (ht : targetOf (0x1000000 + o) = some t) : s.gate m (0x1000000 + o) 8 w = if s.shedWaits m t then .wait else .go := by
  have hmem : t.isReg = false := by
    rw [targetOf_direct ho] at ht
    split at ht <;> cases ht <;> rfl
  have hhost : t ≠ .hostmem := fun h => targetOf_ne_hostmem (by omega) (h ▸ ht)
  rw [State.gate_sized (State.decodes_other hon (.inl hm)) ht (connected_weaver hm hhost) (.inr rfl) (by omega), State.gateIn_memory hmem]

end

/-- Settles O24, check by check. -/
theorem frontEndChecks : Obligations.FrontEndChecks := by
  intro s m a n w
  refine ⟨State.gate_off, fun hon => ⟨?fenceA, ?fenceB, ?holder, fun hm => State.gate_ne_drop (State.fenced_of_notForeman hm), ?unmapped, ?smbus,
    ?size, ?narrow, ?hostmem, ?foreman, ?asleep, ?direct⟩⟩
  case fenceA =>
    rintro rfl hfree rfl hclaim hself
    exact State.gate_fenced hon (State.fenced_foremanA hfree hclaim hself)
  case fenceB =>
    rintro rfl hfree rfl hclaim hself
    exact State.gate_fenced hon (State.fenced_foremanB hfree hclaim hself)
  case holder =>
    rintro rfl hled
    exact State.gate_ne_drop (State.fenced_holder hled)
  case unmapped =>
    intro hm hlo hhi
    have hsmb : m ≠ 67 := fun h => by subst h; revert hm; decide
    exact State.gate_unmapped (State.decodes_other hon (by omega)) hsmb (targetOf_gap hlo hhi)
  case smbus =>
    rintro rfl
    exact ⟨State.gate_nopath (t := .blz) (State.decodes_other hon (by decide)) (by decide) (by decide),
      State.gate_nopath (t := .bank 0) (State.decodes_other hon (by decide)) (by decide) (by decide)⟩
  case size =>
    intro hm ha hn hsome
    obtain ⟨t, ht⟩ := Option.isSome_iff_exists.mp hsome
    have hhost : t ≠ .hostmem := fun h => targetOf_ne_hostmem ha (h ▸ ht)
    exact State.gate_size (State.decodes_other hon (.inl hm)) ht (connected_weaver hm hhost) (.inl (by simpa using hn))
  case narrow =>
    intro hm ha hn _
    exact State.gate_size (State.decodes_other hon (.inl hm)) (targetOf_register ha) (connected_weaver hm (by simp)) (.inr ⟨rfl, rfl, hn⟩)
  case hostmem =>
    intro hm ha
    exact State.gate_nopath (State.decodes_other hon (.inl hm)) (targetOf_hostmem ha) (connected_weaver_hostmem hm)
  case foreman =>
    rintro rfl hled ha hal hwait
    rw [State.gate_sized (State.decodes_holder hon hled) (targetOf_hostmem ha) (by decide) (.inr rfl) hal, State.gateIn_memory rfl, hwait]
    rfl
  case asleep =>
    intro p hp hm hreach
    rw [State.gate_sized (State.decodes_other hon (.inl hm)) (targetOf_tile hp) (connected_weaver hm (by simp)) (.inl rfl) (by omega)]
    exact State.gateIn_asleep hreach
  case direct =>
    intro o t hm ho hal ht
    rw [State.gate_weaver_direct hon hm ho hal ht]
    exact ⟨fun hgo => by rw [hgo]; rfl, fun hwait => by rw [hwait]; rfl⟩

end Sys2Proof.Machine

/-! SUPPORT. IRQ_RAW_CLEAR on a reserved bit of IRQ_RAW that stands set: the bits that `same` names are not cleared, causes of the page or not (R404,
R405). -/
namespace Sys2Proof.Machine

/-- Bit 31 of TST_IRQ_RAW, whose page has the causes 0 to 2 (R459), is set. -/
def strayCause : State := { State.reset with regs := [(0x60010, 0x80000000)] }

/-- IRQ_RAW_CLEAR with the bit both written 1 and set in that cycle leaves it. -/
theorem strayCause_stays {t : State} (h : exec (.irqRawClear 66 0x60000 0x80000000 0x80000000) strayCause = .next t) :
    t.reg 0x60010 = 0x80000000 := by
  obtain rfl := Host.Outcome.next.inj h
  decide +kernel

/-- Refutes O25: it has no premise that IRQ_RAW holds causes of its page alone, and says that of the bits written 1 only causes stay; a reserved
bit that stands set stays too where `same` names it. -/
theorem not_registerSpaceCommands : ¬ Obligations.RegisterSpaceCommands := by
  intro h
  obtain ⟨-, -, -, -, -, hpage⟩ := h strayCause 66
  obtain ⟨hclear, -⟩ := hpage 0x60000 .tst 0 0x80000000 0x80000000 (by decide) (by decide)
  obtain ⟨t, ht, hraw, -⟩ := hclear ⟨by decide, by decide +kernel⟩
  exact absurd ((strayCause_stays ht).symm.trans hraw) (by decide +kernel)

end Sys2Proof.Machine

/-! SUPPORT. Every command answers a next state, and one that names nothing the spec has changes nothing; a step is a command run with the
queue's rest. -/
namespace Sys2Proof.Machine

/-- An entry that is none of a Heddle map has no key in it (R65, R69). -/
theorem heddleKey_none {e : HeddleRef} (h : heddleOk e = false) : heddleKey e = none := by
  unfold heddleOk at h
  unfold heddleKey lsrOf
  split at h
  · next hmap => rw [if_pos hmap, if_neg (by simpa using h)]
  · next hmap => rw [if_neg hmap]; simpa using h

/-- A command that names nothing the spec has changes nothing (R10, R31, R40, R65, R117, R399, R448). -/
theorem exec_illFormed (c : Instr) (s : State) (h : c.wellFormed = false) : exec c s = .next s := by
  cases c
  case moduleBoltBoundary o =>
    have h : boltObsOk o = false := h
    exact congrArg Host.Outcome.next (if_pos (by simp [h]))
  case laneHeaderRx l hdr bip =>
    have h : laneHdrOk hdr = false := h
    exact congrArg Host.Outcome.next (if_pos (by simp [h]))
  case skeinHeaderRx k hdr =>
    have h : skeinHdrOk hdr = false := h
    exact congrArg Host.Outcome.next (if_pos (by simp [h]))
  case pickSwitch p =>
    have h : pickOk p = false := h
    exact congrArg Host.Outcome.next (if_neg (by simp [h]))
  case mgmtMessageRx l r => exact if_pos (by simp [show cellRunOk 64 r = false from h])
  case threadPickRead t r _ =>
    have h : (trefOk t && decide (r < 625)) = false := h
    refine congrArg Host.Outcome.next (if_neg fun hc => ?_)
    simp only [Bool.and_eq_true, decide_eq_true_eq, Bool.and_eq_false_iff, decide_eq_false_iff_not] at hc h
    exact h.elim (fun hf => absurd hc.1 (by simp [hf])) (fun hr => hr hc.2.1)
  case coldReset _ t =>
    have h : testOk t = false := h
    exact congrArg Host.Outcome.next (if_pos (by simp [h]))
  case heddleEccUncorrectable e =>
    show execHeddleEccUncorrectable e s = _
    unfold execHeddleEccUncorrectable
    rw [heddleKey_none h]
  case heddleEntryReload e copyUnc =>
    show execHeddleEntryReload e copyUnc s = _
    unfold execHeddleEntryReload
    rw [heddleKey_none h]
  case fineEccUncorrectable e => exact if_pos (by simp [show trefOk e.tref = false from h])
  case fineEntryReload e _ => exact if_pos (by simp [show trefOk e.tref = false from h])
  case selvEccUncorrectable g ob rho => exact if_pos (of_decide_eq_false h)
  case pcieLinkUp g w =>
    have h : linkOk g w = false := h
    exact congrArg Host.Outcome.next (if_neg (by simp [h]))
  case jtagBypass code =>
    have h : bypassOk code = false := h
    exact congrArg Host.Outcome.next (if_neg (by simp [h]))
  case helloRx l r | idReqRx l r | idOfferRx l r | idAckRx l r | setupRx l r | confirmRx l r | refuseRx l r | teardownRx l r | tdAckRx l r =>
    have h : cellRunOk 32 r = false := h
    exact congrArg Host.Outcome.next (if_neg (by simp [h]))
  all_goals exact absurd h (by simp [Instr.wellFormed])

/-- Every command answers a next state: all but those of the maps' entries by their form, and those in each of their branches. -/
theorem exec_answers (c : Instr) (s : State) : ∃ t, exec c s = .next t := by
  cases c
  case heddleEccUncorrectable e =>
    show ∃ t, execHeddleEccUncorrectable e s = .next t
    unfold execHeddleEccUncorrectable
    split <;> exact ⟨_, rfl⟩
  case heddleEntryReload e copyUnc =>
    show ∃ t, execHeddleEntryReload e copyUnc s = .next t
    unfold execHeddleEntryReload
    split <;> exact ⟨_, rfl⟩
  case fineEccUncorrectable e =>
    show ∃ t, execFineEccUncorrectable e s = .next t
    unfold execFineEccUncorrectable
    split <;> exact ⟨_, rfl⟩
  case fineEntryReload e copyUnc =>
    show ∃ t, execFineEntryReload e copyUnc s = .next t
    unfold execFineEntryReload
    split <;> exact ⟨_, rfl⟩
  case mgmtMessageRx l r =>
    show ∃ t, execMgmtMessageRx l r s = .next t
    unfold execMgmtMessageRx
    split <;> exact ⟨_, rfl⟩
  case selvEccUncorrectable g ob rho =>
    show ∃ t, execSelvEccUncorrectable g ob rho s = .next t
    unfold execSelvEccUncorrectable
    split <;> exact ⟨_, rfl⟩
  all_goals exact ⟨_, rfl⟩

/-- Settles O5: no row faults or is refused, and each checks the form of its operands first. -/
theorem everyCommandAnswersNext : Obligations.EveryCommandAnswersNext :=
  fun c s => ⟨exec_answers c s, exec_illFormed c s⟩

/-- No command changes the queue. -/
theorem pending_notMem_touches (c : Instr) : Part.pending ∉ touches c := by
  cases c <;> exact of_decide_eq_true rfl

/-- Settles O6: each command keeps what is closed under the parts it may change, and agreeing outside them is such a property. -/
theorem commandsLeaveOtherPartsAlone : Obligations.CommandsLeaveOtherPartsAlone := by
  intro c s t ht
  have honly : only (touches c) s t := outInv_iff.mp (exec_inv c (only_closed (touches c) s) (only_refl _ s)) t ht
  exact ⟨honly, honly .pending (pending_notMem_touches c)⟩

/-- Settles O1: a step takes the front command off the queue, and idles on an empty one. -/
theorem stepRunsFrontCommand : Obligations.StepRunsFrontCommand :=
  ⟨fun _ _ _ => rfl, fun s hs => by unfold step; rw [hs]⟩

/-- Settles O4: a step is a command run with the queue's rest, and no command changes the queue. -/
theorem everyStepAnswersNext : Obligations.EveryStepAnswersNext := by
  intro s
  unfold step queueOk
  cases hq : s.pending with
  | nil => exact ⟨s, rfl, by rw [hq]; rfl, fun _ => by rw [hq]; rfl⟩
  | cons c rest =>
    obtain ⟨t, ht⟩ := exec_answers c { s with pending := rest }
    have hrest : t.pending = rest := (commandsLeaveOtherPartsAlone c _ t ht).2
    refine ⟨t, ht, hrest, fun hok => ?_⟩
    rw [hrest]
    exact (Bool.and_eq_true_iff.mp hok).2

end Sys2Proof.Machine

/-! SUPPORT. A lane of a sleeping port tile (R424): its line brings nothing, and its framer does not run. -/
namespace Sys2Proof.Machine

variable {s : State} {l : Nat}

theorem State.onLane_asleep (f : State → State) (h : s.awake (l / 64) = false) : s.onLane l f = s := if_neg (by simp [h])

theorem State.onLine_asleep (f : State → State) (h : s.awake (l / 64) = false) : s.onLine l f = s := by simp [State.onLine, h]

theorem State.lineState_asleep (f : Lane → Lane) (more : State → State) (h : s.awake (l / 64) = false) : s.lineState l f more = s :=
  s.onLane_asleep _ h

/-- Settles O8: a lane of a sleeping tile takes nothing from its line, and its framer does not run. -/
theorem sleepingLanesDoNothing : Obligations.SleepingLanesDoNothing := by
  intro s l w b o h
  have line : ∀ f more, Host.Outcome.next (s.lineState l.val f more) = (.next s : Out) := fun f more => by rw [State.lineState_asleep f more h]
  have cells : ∀ f, Host.Outcome.next (s.onLine l.val f) = (.next s : Out) := fun f => by rw [State.onLine_asleep f h]
  have framer : ∀ f, Host.Outcome.next (s.onLane l.val f) = (.next s : Out) := fun f => by rw [State.onLane_asleep f h]
  exact ⟨line _ _, line _ _, line _ _, line _ _, line _ _, line _ _, cells _, cells _, framer _, framer _⟩

end Sys2Proof.Machine

/-! SUPPORT. The commands that are one 4-byte write of one register: where the register lies, and what a write of it does (R6, R365, R403). -/
namespace Sys2Proof.Machine

/-! ### What a write of a register does -/

/-- A write of `v` by `m` at `a`, the address of a register, has the effect `f`. -/
structure WriteEffect (m : Mid) (a : Nat) (v : Word) (f : State → State) : Prop where
  register : a < 0x1000000
  aligned : a % 4 = 0
  effect : ∀ t : State, t.regWrite m a v = f t

section
variable {s : State} {m : Mid} {v : Word}

/-- REGISTER_WRITE of a register passes the guard and the front end as a write of four bytes, and has the register's effect (R365). -/
theorem WriteEffect.exec_registerWrite {a : Nat} {f : State → State} (h : WriteEffect m a v f) :
    exec (.registerWrite m (BitVec.ofNat 27 a) 4 ⟨v.setWidth 64, [], [], []⟩) s = .next (s.write4 m a v f) := by
  have hlt := h.register
  have haddr : (BitVec.ofNat 27 a).toNat = a := Nat.mod_eq_of_lt (by omega)
  have hword : (v.setWidth 64).setWidth 32 = v := by simp
  have hsingle : s.busStore m a 4 ⟨v.setWidth 64, [], [], []⟩ = s.busWrite m a 4 (v.setWidth 64) := by
    unfold State.busStore
    rw [if_neg (by simp [h.aligned]), if_pos rfl]
    rfl
  show Host.Outcome.next (s.busStore m (BitVec.ofNat 27 a).toNat 4 ⟨v.setWidth 64, [], [], []⟩) = _
  rw [haddr, hsingle, State.busWrite_register hlt, hword, State.regAccess, funext h.effect]

/-! ### Tables and registers that come many times -/

theorem locate_recA {g o : Nat} (hg : g < 8192) (ho : o < 32) : locate (recA g o) = some (.protRec, g, o) := by
  have hi : (recA g o - 0xA10000) / 32 = g := by unfold recA; omega
  have hm : recA g o % 32 = o := by unfold recA; omega
  have ha : 0xA10000 ≤ recA g o ∧ recA g o < 0xA50000 := by unfold recA; omega
  unfold locate
  dsimp only
  rw [if_neg (by omega), if_neg (by omega), if_neg (by omega), if_pos (by omega), hi, hm]
  repeat rw [if_neg (by omega)]
  rw [if_pos ha]

theorem locate_fineAsg {f : Nat} (hf : f < 1280) : locate (0x902000 + 4 * f) = some (.fineAsg, f, 0) := by
  have hi : (0x902000 + 4 * f - 0x902000) / 4 = f := by omega
  have hm : (0x902000 + 4 * f) % 4 = 0 := by omega
  unfold locate
  dsimp only
  rw [if_neg (by omega), if_neg (by omega), if_neg (by omega), if_pos (by omega), hi, hm]
  repeat rw [if_neg (by omega)]
  rw [if_pos (by omega)]

theorem locate_bankA {o : Nat} (ho : o < 0x1000) : locate (bankA o) = some (.bank, 0, o) := by
  have hp : bankA o / 0x1000 = 0xD00 := by unfold bankA; omega
  have hm : bankA o % 0x1000 = o := by unfold bankA; omega
  have ha : bankA o = 0xD00000 + o := rfl
  unfold locate
  dsimp only
  rw [if_neg (by omega), if_neg (by omega), if_neg (by omega), if_pos (by omega), hp, hm]
  repeat rw [if_neg (by omega)]
  rw [if_pos rfl]

/-- An offset of a page or table entry names a register that a write reaches, beyond the page's header. -/
def Writable (b : Blk) (i o : Nat) : Prop :=
  (isPage b = true → 0x40 ≤ o) ∧ ∃ r, regRow b i o = some r ∧ r.acc ≠ .ro ∧ r.acc ≠ .rc

/-- What a write does to a register of the pages and tables that hold many alike, by its offset; none for other pages. -/
def State.entryWrite (t : State) (m : Mid) (b : Blk) (i o : Nat) (v : Word) : Option State :=
  match b with
  | .ln => some (t.lnWrite i o v)
  | .wvr => some (t.wvrWrite m i o v)
  | .bank => some (t.bankRegWrite m o v)
  | .fineAsg => some (t.asgWrite i v)
  | .protRec => if o = 0 then some (t.gcfgWrite m i v) else if o = 0x14 then some (t.gcmdWrite i v) else none
  | _ => none

theorem State.regWrite_entry {a i o : Nat} {b : Blk} {t u : State} (hl : locate a = some (b, i, o)) (hw : Writable b i o)
    (h : t.entryWrite m b i o v = some u) : t.regWrite m a v = u := by
  obtain ⟨hpage, r, hr, hro, hrc⟩ := hw
  unfold State.regWrite
  rw [hl]
  dsimp only
  rw [hr]
  dsimp only
  rw [if_neg (not_or.mpr ⟨hro, hrc⟩), if_neg (fun hp => absurd (hpage hp.1) (by omega)), if_neg (fun hp => absurd (hpage hp.1) (by omega))]
  cases b
  case ln | wvr | bank | fineAsg => exact Option.some.inj h
  case protRec =>
    unfold State.entryWrite at h
    dsimp only at h ⊢
    split at h
    · next h0 => rw [if_pos h0]; exact Option.some.inj h
    · next h0 =>
      rw [if_neg h0]
      split at h
      · next h1 => rw [if_pos h1]; exact Option.some.inj h
      · cases h
  all_goals cases h

/-- A lane's perturbation hooks are stored as they are (R452). -/
theorem State.regWrite_lnHook {a l : Nat} {t : State} (i : Fin 4) (hl : locate a = some (.ln, l, 0x30 + 4 * i.val)) :
    t.regWrite m a v = t.putMasked a v := by
  have hrow : ∃ r, regRow .ln l (0x30 + 4 * i.val) = some r ∧ r.acc = .rw :=
    match i with
    | 0 | 1 | 2 | 3 => ⟨_, rfl, rfl⟩
  obtain ⟨r, hr, hrw⟩ := hrow
  unfold State.regWrite
  rw [hl]
  dsimp only
  rw [hr]
  dsimp only
  rw [if_neg (by simp [hrw]), if_neg (by omega), if_pos ⟨rfl, by omega⟩, if_neg (by simp)]

/-! ### The rows whose register is one of many -/

theorem WriteEffect.ofEntry {a i o : Nat} {b : Blk} {f : State → State} (hl : locate a = some (b, i, o)) (hw : Writable b i o)
    (ha : a < 0x1000000) (hal : a % 4 = 0) (h : ∀ t : State, t.entryWrite m b i o v = some (f t)) : WriteEffect m a v f :=
  ⟨ha, hal, fun t => State.regWrite_entry hl hw (h t)⟩

theorem writeEffect_lnA {l o : Nat} {f : State → State} (hl : l < 512) (ho : o < 0x1000) (hal : o % 4 = 0) (hw : Writable .ln l o)
    (hf : ∀ t : State, t.lnWrite l o v = f t) : WriteEffect m (lnA l o) v f :=
  .ofEntry (locate_lnA hl ho) hw (by unfold lnA; omega) (by unfold lnA; omega) fun t => congrArg some (hf t)

theorem writeEffect_wvrA {w o : Nat} {f : State → State} (hw : w < 64) (ho : o < 0x1000) (hal : o % 4 = 0) (hrow : Writable .wvr w o)
    (hf : ∀ t : State, t.wvrWrite m w o v = f t) : WriteEffect m (wvrA w o) v f :=
  .ofEntry (locate_wvrA hw ho) hrow (by unfold wvrA; omega) (by unfold wvrA; omega) fun t => congrArg some (hf t)

/-- The fifteen integrators of a lane (R63). -/
theorem writeEffect_lnIntg (l : Fin 512) (d : Fin 15) : WriteEffect m (lnA l.val (0x80 + 4 * d.val)) v (fun t => t.intgWrite l.val d.val v) := by
  have hrow : ∃ r, regRow .ln l.val (0x80 + 4 * d.val) = some r ∧ r.acc ≠ .ro ∧ r.acc ≠ .rc :=
    match d with
    | 0 | 1 | 2 | 3 | 4 | 5 | 6 | 7 | 8 | 9 | 10 | 11 | 12 | 13 | 14 => ⟨_, rfl, by decide⟩
  refine writeEffect_lnA l.isLt (by omega) (by omega) ⟨fun _ => by omega, hrow⟩ fun t => ?_
  unfold State.lnWrite
  rw [if_neg (by omega), if_pos (by omega), Nat.add_sub_cancel_left, Nat.mul_div_cancel_left _ (by decide)]

/-- The tail of each completion ring (R414). -/
theorem writeEffect_cqTail {r : Nat} (hr : r < 4) : WriteEffect m (mbxR r 4) v (fun t => t.cqTail r v) := by
  have hcases : r = 0 ∨ r = 1 ∨ r = 2 ∨ r = 3 := by omega
  rcases hcases with rfl | rfl | rfl | rfl
  all_goals exact ⟨by decide, by decide, fun _ => rfl⟩

/-- A lane's perturbation hooks (R452). -/
theorem writeEffect_lnHook (l : Fin 512) (i : Fin 4) :
    WriteEffect m (lnA l.val (0x30 + 4 * i.val)) v (fun t => t.putMasked (lnA l.val (0x30 + 4 * i.val)) v) :=
  ⟨by unfold lnA; omega, by unfold lnA; omega, fun _ => State.regWrite_lnHook i (locate_lnA l.isLt (by omega))⟩

/-- The owners of the 64 banks (R337). -/
theorem writeEffect_bankOwn (b : Fin 64) : WriteEffect m (bankA (0x100 + 4 * b.val)) v (fun t => t.ownWrite m b.val v) := by
  have hrow : findRow rowsBank (0x100 + 4 * b.val) = some ⟨0x100, 64, 4, .rw, 0x0, 0x1FF7FF⟩ := by
    revert b
    decide
  have hheader : headerRow .bank (0x100 + 4 * b.val) = none := by
    unfold headerRow
    repeat rw [if_neg (by omega)]
  have hw : Writable .bank 0 (0x100 + 4 * b.val) := by
    refine ⟨fun _ => by omega, ⟨0x100, 64, 4, .rw, 0x0, 0x1FF7FF⟩, ?_, by decide, by decide⟩
    unfold regRow
    rw [if_pos (show isPage .bank = true from rfl), hheader]
    dsimp only [rowsOf]
    rw [hrow]
  refine .ofEntry (locate_bankA (by omega)) hw (by unfold bankA; omega) (by unfold bankA; omega) fun t => congrArg some ?_
  unfold State.bankRegWrite
  split
  · next h => omega
  · next h => omega
  · next h => omega
  · rw [if_pos (by omega), Nat.add_sub_cancel_left, Nat.mul_div_cancel_left _ (by decide)]

/-- The commands of the 8,192 protection groups (R154). -/
theorem writeEffect_gcmd (g : Fin 8192) : WriteEffect m (recA g.val 0x14) v (fun t => t.gcmdWrite g.val v) :=
  .ofEntry (locate_recA g.isLt (by decide)) ⟨(nomatch ·), _, rfl, by decide, by decide⟩ (by unfold recA; omega) (by unfold recA; omega)
    fun _ => rfl

/-- The configurations of the 8,192 protection groups (R150). -/
theorem writeEffect_gcfg (g : Fin 8192) : WriteEffect m (recA g.val 0) v (fun t => t.gcfgWrite m g.val v) :=
  .ofEntry (locate_recA g.isLt (by decide)) ⟨(nomatch ·), _, rfl, by decide, by decide⟩ (by unfold recA; omega) (by unfold recA; omega)
    fun _ => rfl

/-- The assignments of the 1,280 Fine loom positions (R142). -/
theorem writeEffect_fineAsg (f : Fin 1280) : WriteEffect m (0x902000 + 4 * f.val) v (fun t => t.asgWrite f.val v) :=
  .ofEntry (locate_fineAsg f.isLt) ⟨(nomatch ·), _, rfl, by decide, by decide⟩ (by omega) (by omega) fun _ => rfl

/-- START, STOP and CLR_FAIL of the Foremen (R311). -/
theorem writeEffect_fmnCtrl : WriteEffect m (fmnA 0x60) v (fun t => t.fmnCtrl v) := ⟨by decide, by decide, fun _ => rfl⟩

/-! ### Every row that is a write of a register -/

/-- Of a command that is one write of one register: that write has the effect with which the command makes it. -/
theorem exec_rowWrite {c : Instr} {a : Nat} (h : rowWrite c = some (m, a, v)) :
    ∃ f : State → State, WriteEffect m a v f ∧ ∀ s : State, exec c s = .next (s.write4 m a v f) := by
  cases c
  all_goals cases h
  all_goals refine ⟨_, ?_, fun _ => rfl⟩
  case recentreCommand l =>
    exact writeEffect_lnA l.isLt (by decide) (by decide) ⟨fun _ => by decide, _, rfl, by decide, by decide⟩ fun _ => rfl
  case lnModeWrite l =>
    refine writeEffect_lnA l.isLt (by decide) (by decide) ⟨fun _ => by decide, _, rfl, by decide, by decide⟩ fun t => ?_
    simp [State.lnWrite]
  case lnIntgWrite l d => exact writeEffect_lnIntg l d
  case lnPerturbWrite l i => exact writeEffect_lnHook l i
  case fineAsgWrite f => exact writeEffect_fineAsg f
  case bankOwnWrite b => exact writeEffect_bankOwn b
  case protGcfgWrite g => exact writeEffect_gcfg g
  case protClear g | protLockout g | protManualW g | protExercise g | protRetime g =>
    exact writeEffect_gcmd g
  case protForce g i | protManualP g i => exact writeEffect_gcmd g
  case wvrCmdDrained w | wvrCmdHalt w | wvrCmdResume w | wvrCmdRestart w =>
    exact writeEffect_wvrA w.isLt (by decide) (by decide) ⟨fun _ => by decide, _, rfl, by decide, by decide⟩ fun _ => rfl
  case wvrRoleReqWrite w | wvrPost w =>
    exact writeEffect_wvrA w.isLt (by decide) (by decide) ⟨fun _ => by decide, _, rfl, by decide, by decide⟩ fun _ => rfl
  case trdEnqueue win | fineEnqueue win =>
    match win with
    | 0 | 1 | 2 | 3 => exact ⟨by decide, by decide, fun _ => rfl⟩
  case mbxCqTailWrite r => exact writeEffect_cqTail r.isLt
  case shedPerturbWrite i | beatPerturbWrite i =>
    match i with
    | 0 | 1 | 2 | 3 => exact ⟨by decide, by decide, fun _ => rfl⟩
  case fmnPost b | fmnSelfWrite b =>
    cases b <;> exact ⟨by decide, by decide, fun _ => rfl⟩
  case fmnStartA | fmnStartB | fmnStopA | fmnStopB | fmnClrFail => exact writeEffect_fmnCtrl
  all_goals exact ⟨by decide, by decide, fun _ => rfl⟩

/-- Settles O22: each of these commands makes the write that `rowWrite` lists, and a write of that register has its effect. -/
theorem registerRowsAreRegisterWrites : Obligations.RegisterRowsAreRegisterWrites := by
  intro c m a v s h
  obtain ⟨f, hf, hc⟩ := exec_rowWrite h
  exact (hc s).trans hf.exec_registerWrite.symm

end

end Sys2Proof.Machine

/-! SUPPORT. The trace unit: its commands, a record that arrives, the end of the post-trigger count, and a read of TST_TR_RD3 (R456-R459). -/
namespace Sys2Proof.Machine

section
variable {s : State} {m : Mid} {v : Word} {clk : Nat}

/-! ### The commands of TST_TR_CMD (R458, R459) -/

/-- No LOST record is due where none was dropped. -/
theorem State.pushLost_none (h : s.tst.lost = 0) : s.pushLost = s := if_pos h

theorem State.startTrace_enabled (hen : s.rb 0x60060 0 = true) (hlost : s.tst.lost = 0) : s.startTrace =
    s.modTst (fun t => { t with trace := [], running := true, triggered := false, stopped := false, postLeft := none }) := by
  have hen : s.rb (tstA 0x60) 0 = true := hen
  unfold State.startTrace
  rw [hen, State.when_true]
  exact State.pushLost_none hlost

theorem State.startTrace_disabled (hen : s.rb 0x60060 0 = false) : s.startTrace =
    s.modTst (fun t => { t with trace := [], running := false, triggered := false, stopped := false, postLeft := none }) := by
  have hen : s.rb (tstA 0x60) 0 = false := hen
  unfold State.startTrace
  rw [hen, State.when_false]

theorem State.stopTrace_running (h : s.tst.running = true) :
    s.stopTrace = (s.modTst (fun t => { t with running := false, stopped := true })).irq 0x60000 2 := if_pos h

theorem State.stopTrace_stopped (h : s.tst.running = false) : s.stopTrace = s := if_neg (by simp [h])

theorem State.triggerTrace_taken (hmode : s.rf 0x60060 1 2 = 2) (hrun : s.tst.running = true) (htrig : s.tst.triggered = false) :
    s.triggerTrace = s.modTst (fun t => { t with triggered := true, postLeft := some (s.rf 0x60060 4 12) }) :=
  if_pos ⟨hmode, hrun, by simp [htrig]⟩

theorem State.triggerTrace_ignored (h : s.rf 0x60060 1 2 ≠ 2 ∨ s.tst.running = false ∨ s.tst.triggered = true) : s.triggerTrace = s := by
  refine if_neg fun ⟨hmode, hrun, htrig⟩ => ?_
  rcases h with h | h | h
  · exact h hmode
  · exact absurd (h.symm.trans hrun) (by decide)
  · exact htrig h

/-! ### A record that arrives (R456, R458) -/

/-- The SW record of an emit: the bolt, the clock count and the writer, and the value. -/
def State.swRecord (s : State) (m : Mid) (v : Word) (clk : Nat) : TraceRec :=
  TraceRec.mk s.bolt (w32 (clk % 400000 + m.toNat % 128 * 2 ^ 20)) v 0

theorem State.traceRec_sw : s.traceRec 0 m.toNat clk v 0 = s.swRecord m v clk := by
  rw [State.traceRec, State.swRecord, Nat.zero_mul, Nat.add_zero]

theorem State.pushTrace_room {r : TraceRec} (h : s.tst.trace.length < 4096) :
    s.pushTrace r = s.modTst (fun t => { t with trace := t.trace ++ [r] }) := by
  have hfull : ¬ traceCap ≤ s.tst.trace.length := Nat.not_le.mpr h
  simp only [State.pushTrace, State.modTst, if_neg hfull]

theorem State.pushTrace_full {r : TraceRec} (h : 4096 ≤ s.tst.trace.length) :
    s.pushTrace r = s.modTst (fun t => { t with trace := t.trace.drop 1 ++ [r] }) := by
  have hfull : traceCap ≤ s.tst.trace.length := h
  simp only [State.pushTrace, State.modTst, if_pos hfull]

/-- A unit that does not record takes nothing. -/
theorem State.emitTrace_stopped (h : s.tst.running = false) : s.emitTrace m v clk = s := by
  unfold State.emitTrace
  split
  · exact if_pos (by simp [h])
  · rfl

/-- The unit records, the writer's class is traced, and no LOST record is due. -/
structure Recording (s : State) (m : Mid) : Prop where
  running : s.tst.running = true
  enabled : s.rb 0x60060 0 = true
  none_lost : s.tst.lost = 0
  traced : s.rb 0x60064 (emitClass m) = true

/-- An emit brings its record to the unit. -/
theorem Recording.emitTrace (h : Recording s m) : s.emitTrace m v clk = s.record 0 m.toNat clk v 0 := if_pos h.traced

/-- A buffer that wraps takes every record (mode 0; mode 3 is reserved). -/
theorem Recording.wrapping (h : Recording s m) (hmode : s.rf 0x60060 1 2 = 0 ∨ s.rf 0x60060 1 2 = 3) :
    s.emitTrace m v clk = s.pushTrace (s.swRecord m v clk) := by
  have hon : ¬ ¬ (s.tst.running = true ∧ s.rb (tstA 0x60) 0 = true) := fun hn => hn ⟨h.running, h.enabled⟩
  have hmode : s.rf (tstA 0x60) 1 2 = 0 ∨ s.rf (tstA 0x60) 1 2 = 3 := hmode
  rw [h.emitTrace, State.record, if_neg hon, State.pushLost_none h.none_lost, State.traceRec_sw]
  rcases hmode with hmode | hmode <;> rw [hmode] <;> rfl

/-- A buffer that stops when full takes a record that leaves room. -/
theorem Recording.filling (h : Recording s m) (hmode : s.rf 0x60060 1 2 = 1) (hroom : s.tst.trace.length + 1 < 4096) :
    s.emitTrace m v clk = s.modTst (fun t => { t with trace := t.trace ++ [s.swRecord m v clk] }) := by
  have hon : ¬ ¬ (s.tst.running = true ∧ s.rb (tstA 0x60) 0 = true) := fun hn => hn ⟨h.running, h.enabled⟩
  have hmode : s.rf (tstA 0x60) 1 2 = 1 := hmode
  have hfull : ¬ traceCap ≤ s.tst.trace.length := by unfold traceCap; omega
  have hstill : ¬ traceCap ≤ (s.modTst (fun t => { t with trace := t.trace ++ [s.swRecord m v clk] })).tst.trace.length := by
    show ¬ 4096 ≤ (s.tst.trace ++ [s.swRecord m v clk]).length
    rw [List.length_append, List.length_singleton]
    omega
  rw [h.emitTrace, State.record, if_neg hon, State.pushLost_none h.none_lost, State.traceRec_sw, hmode]
  simp only [if_neg hfull]
  rw [State.pushTrace_room (by omega), if_neg hstill]

/-- A full buffer of the stop mode drops the record, and counts it. -/
theorem Recording.dropping (h : Recording s m) (hmode : s.rf 0x60060 1 2 = 1) (hfull : 4096 ≤ s.tst.trace.length) :
    s.emitTrace m v clk = ((s.incReg 0x60088).modTst (fun t => { t with lost := t.lost + 1 })).irq 0x60000 4 := by
  have hon : ¬ ¬ (s.tst.running = true ∧ s.rb (tstA 0x60) 0 = true) := fun hn => hn ⟨h.running, h.enabled⟩
  have hmode : s.rf (tstA 0x60) 1 2 = 1 := hmode
  have hfull : traceCap ≤ s.tst.trace.length := hfull
  rw [h.emitTrace, State.record, if_neg hon, hmode]
  simp only [if_pos hfull]
  rfl

/-- A record after the trigger uses up one of the POST count. -/
theorem Recording.counting (h : Recording s m) (hmode : s.rf 0x60060 1 2 = 2) {n : Nat} (hleft : s.tst.postLeft = some (n + 1)) :
    s.emitTrace m v clk = (s.pushTrace (s.swRecord m v clk)).modTst (fun t => { t with postLeft := some n }) := by
  have hon : ¬ ¬ (s.tst.running = true ∧ s.rb (tstA 0x60) 0 = true) := fun hn => hn ⟨h.running, h.enabled⟩
  have hmode : s.rf (tstA 0x60) 1 2 = 2 := hmode
  rw [h.emitTrace, State.record, if_neg hon, State.pushLost_none h.none_lost, State.traceRec_sw, hmode]
  dsimp only
  rw [hleft]
  rfl

/-- Once the POST count is used up, no record is taken. -/
theorem Recording.counted (h : Recording s m) (hmode : s.rf 0x60060 1 2 = 2) (hleft : s.tst.postLeft = some 0) :
    s.emitTrace m v clk = s := by
  have hon : ¬ ¬ (s.tst.running = true ∧ s.rb (tstA 0x60) 0 = true) := fun hn => hn ⟨h.running, h.enabled⟩
  have hmode : s.rf (tstA 0x60) 1 2 = 2 := hmode
  rw [h.emitTrace, State.record, if_neg hon, hmode]
  dsimp only
  rw [hleft]
  rfl

/-! ### The end of the POST count, and TST_TR_RD3 (R458, R459) -/

theorem State.tracePost_due (hrun : s.tst.running = true) (hleft : s.tst.postLeft = some 0) : s.tracePost =
    (s.modTst (fun t => { t with running := false, stopped := true, postLeft := none })).irq 0x60000 3 := if_pos ⟨hrun, hleft⟩

theorem State.tracePost_early (h : s.tst.postLeft ≠ some 0) : s.tracePost = s := if_neg fun hc => h hc.2

theorem State.readRd3_word : s.readRd3.1 = s.traceWord 3 := rfl

/-- A read of TST_TR_RD3 advances RIDX, and changes nothing else. -/
theorem State.readRd3_ridx : fld (s.readRd3.2.reg 0x60074) 0 12 = (s.rf 0x60074 0 12 + 1) % 4096 := by
  show fld ((s.setReg 0x60074 _).reg 0x60074) 0 12 = _
  rw [State.reg_setReg_same, fld_setFld_same _ (by decide)]
  rfl

theorem State.readRd3_reg_other {a : Nat} (ha : a ≠ 0x60074) : s.readRd3.2.reg a = s.reg a := s.reg_setReg_other _ ha

theorem State.traceWord_listed {x : TraceRec} (h : s.tst.trace[s.rf 0x60074 0 12]? = some x) : s.traceWord 3 = x.d1 := by
  have h : s.tst.trace[s.rf (tstA 0x74) 0 12]? = some x := h
  unfold State.traceWord
  rw [h]
  rfl

theorem State.traceWord_beyond (h : s.tst.trace[s.rf 0x60074 0 12]? = none) : s.traceWord 3 = 0 := by
  have h : s.tst.trace[s.rf (tstA 0x74) 0 12]? = none := h
  unfold State.traceWord
  rw [h]

/-! ### The commands -/

theorem exec_tstTrStart (h : reaches s m 0x6006C) : exec (.tstTrStart m) s = .next (s.startTrace.answer 0) :=
  congrArg Host.Outcome.next (s.write4_reaches h)

theorem exec_tstTrStop (h : reaches s m 0x6006C) : exec (.tstTrStop m) s = .next (s.stopTrace.answer 0) :=
  congrArg Host.Outcome.next (s.write4_reaches h)

theorem exec_tstTrTrig (h : reaches s m 0x6006C) : exec (.tstTrTrig m) s = .next (s.triggerTrace.answer 0) :=
  congrArg Host.Outcome.next (s.write4_reaches h)

theorem exec_tstTrEmit (h : reaches s m 0x60068) : exec (.tstTrEmit m v clk) s = .next ((s.emitTrace m v clk).answer 0) :=
  congrArg Host.Outcome.next (s.write4_reaches h)

/-- START, STOP and TRIG. -/
theorem traceUnit_commands (h : reaches s m 0x6006C) :
    (s.rb 0x60060 0 = true → s.tst.lost = 0 → exec (.tstTrStart m) s = .next ((s.modTst (fun t =>
      { t with trace := [], running := true, triggered := false, stopped := false, postLeft := none })).answer 0)) ∧
    (s.rb 0x60060 0 = false → exec (.tstTrStart m) s = .next ((s.modTst (fun t =>
      { t with trace := [], running := false, triggered := false, stopped := false, postLeft := none })).answer 0)) ∧
    (s.tst.running = true → ∃ t, exec (.tstTrStop m) s = .next t ∧ t.tst = { s.tst with running := false, stopped := true } ∧
      t.reg 0x60010 = s.reg 0x60010 ||| 2 ∧ ∀ a, a ≠ 0x60010 → t.reg a = s.reg a) ∧
    (s.tst.running = false → exec (.tstTrStop m) s = .next (s.answer 0)) ∧
    (s.rf 0x60060 1 2 = 2 → s.tst.running = true → s.tst.triggered = false → exec (.tstTrTrig m) s = .next ((s.modTst (fun t =>
      { t with triggered := true, postLeft := some (s.rf 0x60060 4 12) })).answer 0)) ∧
    (s.rf 0x60060 1 2 ≠ 2 ∨ s.tst.running = false ∨ s.tst.triggered = true → exec (.tstTrTrig m) s = .next (s.answer 0)) := by
  rw [exec_tstTrStart h, exec_tstTrStop h, exec_tstTrTrig h]
  refine ⟨fun hen hlost => ?_, fun hen => ?_, fun hrun => ?_, fun hrun => ?_, fun hmode hrun htrig => ?_, fun hno => ?_⟩
  · rw [State.startTrace_enabled hen hlost]
  · rw [State.startTrace_disabled hen]
  · rw [State.stopTrace_running hrun]
    exact ⟨_, rfl, by simp [State.modTst], by simp [State.irq_reg, w32], fun a ha => by simp [State.irq_reg_other _ ha]⟩
  · rw [State.stopTrace_stopped hrun]
  · rw [State.triggerTrace_taken hmode hrun htrig]
  · rw [State.triggerTrace_ignored hno]

/-- Settles O29: a command is one operation of the unit, and a record that arrives is taken by the mode that stands. -/
theorem traceUnit : Obligations.TraceUnit := by
  intro s m v clk mode r
  refine ⟨traceUnit_commands, fun hreach hrun hen hlost hclass => ?_, fun hrun hreach => ?_, fun hrun hleft => ?_, fun hleft => ?_,
    fun hread => ?_⟩
  · have hrec : Recording s m := ⟨hrun, hen, hlost, hclass⟩
    rw [exec_tstTrEmit hreach]
    refine ⟨fun hmode hroom => ?_, fun hmode hfull => ?_, fun hmode hroom => ?_, fun hmode hfull => ?_, fun n hmode hleft hroom => ?_,
      fun hmode hleft => ?_⟩
    · rw [hrec.wrapping hmode, State.pushTrace_room hroom]
      rfl
    · rw [hrec.wrapping hmode, State.pushTrace_full hfull]
      rfl
    · rw [hrec.filling hmode hroom]
      rfl
    · rw [hrec.dropping hmode hfull]
      refine ⟨_, rfl, by simp [State.modTst, State.incReg, hlost], ?_⟩
      simp [State.irq_reg, State.incReg, w32]
    · rw [hrec.counting hmode hleft, State.pushTrace_room hroom]
      rfl
    · rw [hrec.counted hmode hleft]
  · rw [exec_tstTrEmit hreach, State.emitTrace_stopped hrun]
  · refine ⟨_, congrArg Host.Outcome.next (State.tracePost_due hrun hleft), by simp [State.modTst], by simp [State.irq_reg, w32], fun a ha => ?_⟩
    rw [State.irq_reg_other _ ha, State.reg_modTst]
  · exact congrArg Host.Outcome.next (State.tracePost_early hleft)
  · refine ⟨_, congrArg Host.Outcome.next (s.access_go hread), fun x hx => ?_, fun hx => ?_, ?_, rfl, fun a ha => ?_⟩
    · rw [State.answer_resp, State.readRd3_word, State.traceWord_listed hx]
    · rw [State.answer_resp, State.readRd3_word, State.traceWord_beyond hx]
      rfl
    · rw [State.rf, State.reg_answer]
      exact State.readRd3_ridx
    · rw [State.reg_answer, State.readRd3_reg_other ha]

end
end Sys2Proof.Machine

/-! SUPPORT. The registers of the monitor and of the perturbation hooks (R445, R451-R454). -/
namespace Sys2Proof.Machine

section
variable {s : State} {m : Mid} {v : Word}

/-! ### The bits that a write of these registers reaches -/

/-- The hooks of every page store the bits that R452 to R454 give them. -/
theorem writeMask_of_hook {a i : Nat} {b : Blk} {k : Fin 4} (hl : locate a = some (b, i, 0x30 + 4 * k.val)) (hb : isPage b = true) :
    writeMask a = perturbMask b k.val := by
  have hrow : regRow b i (0x30 + 4 * k.val) = some ⟨0x30 + 4 * k.val, 1, 0, .rw, 0, perturbMask b k.val⟩ := by
    unfold regRow
    rw [if_pos hb]
    match k with
    | 0 | 1 | 2 | 3 => rfl
  have hpage : b ≠ .fineTen := fun h => by simp [h, isPage] at hb
  unfold writeMask
  rw [hl]
  dsimp only
  rw [hrow]
  dsimp only
  rw [if_neg (fun h => hpage h.1), if_neg (fun h => hpage h.1)]

theorem writeMask_lnHook (l : Fin 512) (i : Fin 4) : writeMask (lnA l.val (0x30 + 4 * i.val)) = perturbMask .ln i.val :=
  writeMask_of_hook (locate_lnA l.isLt (by omega)) rfl

theorem writeMask_shedHook (i : Fin 4) : writeMask (shedA (0x30 + 4 * i.val)) = perturbMask .shed i.val :=
  writeMask_of_hook (i := 0) (by revert i; decide) rfl

theorem writeMask_beatHook (i : Fin 4) : writeMask (beatA (0x30 + 4 * i.val)) = perturbMask .beat i.val :=
  writeMask_of_hook (i := 0) (by revert i; decide) rfl

/-! ### TST_CFG (R445) -/

theorem setBit_zero_false (w : Word) : setBit w 0 false = w >>> 1 <<< 1 := by
  refine BitVec.eq_of_toNat_eq ?_
  rw [setBit, toNat_setFld w (by decide), BitVec.toNat_shiftLeft, BitVec.toNat_ushiftRight, Nat.shiftLeft_eq, Nat.shiftRight_eq_div_pow]
  simp only [Bool.toNat_false]
  omega

/-- TST_CFG stored without TW_WREN (R445, R459). -/
theorem setBit_tstCfg (v : Word) : setBit (v &&& 0x71) 0 false = v &&& 0x70 := by
  have hbits : ∀ i < 32, (decide (1 ≤ i) && (0x71 : Word).getLsbD i) = (0x70 : Word).getLsbD i := by decide
  rw [setBit_zero_false]
  refine BitVec.eq_of_getLsbD_eq fun i hi => ?_
  simp only [BitVec.getLsbD_shiftLeft, BitVec.getLsbD_ushiftRight, BitVec.getLsbD_and, ← hbits i hi, decide_eq_true hi, Bool.true_and]
  cases i with
  | zero => simp
  | succ i => simp [Nat.add_comm]

theorem bit_tstCfg_wren (v : Word) : bit (v &&& 0x71) 0 = bit v 0 := by rw [bit_and]; exact Bool.and_true _

/-- A master that may not set TW_WREN has its attempt logged, and its other bits stored. -/
theorem State.tstCfg_barred (hv : bit v 0 = true) (hs : s.rb 0x60040 0 = false) (hm : m.toNat < 66 ∨ 68 < m.toNat) :
    s.tstCfg m v = (s.setReg 0x60020 (w32 (0x80000000 + m.toNat * 0x1000 + 0x40))).setReg 0x60040 (v &&& 0x70) := by
  have hs : s.rb (tstA 0x40) 0 = false := hs
  have hmask : v &&& w32 (writeMask (tstA 0x40)) = v &&& 0x71 := rfl
  unfold State.tstCfg
  simp only [hmask, bit_tstCfg_wren, setBit_tstCfg]
  rw [if_pos ⟨hv, by simp [hs], by omega⟩]
  rfl

theorem State.tstCfg_stored (h : bit v 0 = false ∨ s.rb 0x60040 0 = true ∨ (66 ≤ m.toNat ∧ m.toNat ≤ 68)) :
    s.tstCfg m v = s.setReg 0x60040 (v &&& 0x71) := by
  have h : bit v 0 = false ∨ s.rb (tstA 0x40) 0 = true ∨ (66 ≤ m.toNat ∧ m.toNat ≤ 68) := h
  have hmask : v &&& w32 (writeMask (tstA 0x40)) = v &&& 0x71 := rfl
  unfold State.tstCfg
  simp only [hmask, bit_tstCfg_wren]
  rw [if_neg]
  · rfl
  · rintro ⟨hv, hs, hm⟩
    rcases h with h | h | h
    · exact absurd (h.symm.trans hv) (by decide)
    · exact hs h
    · exact hm h

/-! ### The hooks of the Shed (R451, R453) -/

theorem State.reg_shedHookWrite (i a : Nat) : (s.shedHookWrite i v).reg a = (s.putMasked (shedA (0x30 + 4 * i)) v).reg a := by
  unfold State.shedHookWrite State.when
  dsimp only
  split <;> rfl

/-- Where EN is not in force, a hook waits for the boundary that takes it. -/
theorem State.tst_shedHookWrite_off {i : Nat} (h : s.tst.pert = false) : (s.shedHookWrite i v).tst = s.tst := by
  unfold State.shedHookWrite State.when
  dsimp only
  rw [if_neg]
  · rfl
  · exact fun hp => absurd (h.symm.trans hp) (by decide)

/-- Where EN is in force, a hook of the Shed acts at once. -/
theorem State.tst_shedHookWrite_on {i : Nat} (h : s.tst.pert = true) : (s.shedHookWrite i v).tst =
    { s.tst with shedHook := s.tst.shedHook.set i ((s.putMasked (shedA (0x30 + 4 * i)) v).reg (shedA (0x30 + 4 * i))) } := by
  unfold State.shedHookWrite State.when
  exact congrArg State.tst (if_pos h)

/-- Settles O28: each write stores the bits that its register has, and what it does besides is the bit kept or the hook in force. -/
theorem monitorAndHookRegisters : Obligations.MonitorAndHookRegisters := by
  intro s m v
  refine ⟨fun hr => ?_, fun hr => ?_, fun l i hr => ?_, fun i hr => ?_, fun i hr => ?_⟩
  · have hexec : exec (.tstCfgWrite m v) s = .next ((s.tstCfg m v).answer 0) := congrArg Host.Outcome.next (s.write4_reaches hr)
    rw [hexec]
    exact ⟨fun hv hs hm => by rw [State.tstCfg_barred hv hs hm], fun h => by rw [State.tstCfg_stored h]⟩
  · exact congrArg Host.Outcome.next (s.write4_reaches hr)
  · refine (congrArg Host.Outcome.next (s.write4_reaches hr)).trans ?_
    rw [State.putMasked, writeMask_lnHook]
  · have hreg : (s.putMasked (shedA (0x30 + 4 * i.val)) v).reg (shedA (0x30 + 4 * i.val)) = v &&& w32 (perturbMask .shed i.val) := by
      rw [State.reg_putMasked_same, writeMask_shedHook]
    refine ⟨_, congrArg Host.Outcome.next (s.write4_reaches hr), ?_, fun hoff => ?_, fun hon hi => ?_, fun a ha => ?_⟩
    · rw [State.reg_answer, State.reg_shedHookWrite, hreg]
    · rw [State.answer_tst, State.tst_shedHookWrite_off hoff]
    · rw [State.answer_tst, State.tst_shedHookWrite_on hon, hreg]
      exact List.getElem?_set_self hi
    · rw [State.reg_answer, State.reg_shedHookWrite, State.reg_putMasked_other _ _ ha]
  · refine (congrArg Host.Outcome.next (s.write4_reaches hr)).trans ?_
    rw [State.putMasked, writeMask_beatHook]

end
end Sys2Proof.Machine

/-! SUPPORT. The JTAG port: an instruction takes effect, a scan of DBG_ACC, and the debug access as master 68 (R448-R450, R455). -/
namespace Sys2Proof.Machine

section
variable {s : State}

/-! ### Instructions (R448, R449) -/

theorem State.tap_powered (f : State → State) (h : s.pwr.inRange = true) : s.tap f = f s := if_pos h

theorem State.tap_unpowered (f : State → State) (h : s.pwr.inRange = false) : s.tap f = s := if_neg (by simp [h])

/-- What leaves by none of the lands of the boundary register goes out whatever it holds. -/
theorem State.emit_open {o : Output} (h : s.covered o = false) : s.emit o = { s with out := s.out ++ [o] } := if_neg (by simp [h])

/-- An instruction changes the instruction and the hold of the lands, and no register. -/
theorem State.jtagIr_only (ir : JtagIr) (freeze : Bool) : (s.jtagIr ir freeze).jtag = { s.jtag with ir := ir, frozen := freeze } ∧
    (s.jtagIr ir freeze).regs = s.regs ∧ (s.jtagIr ir freeze).resp = s.resp := by
  unfold State.jtagIr
  dsimp only
  split
  · exact ⟨State.emit_jtag _ _, State.emit_regs _ _, State.emit_resp _ _⟩
  · exact ⟨rfl, rfl, rfl⟩

/-- Where the lands are not held, they stay as they are. -/
theorem State.jtagIr_free (ir : JtagIr) (h : s.jtag.frozen = false) : s.jtagIr ir false = { s with jtag := { s.jtag with ir := ir } } := by
  have hjtag : { s.jtag with ir := ir, frozen := false } = { s.jtag with ir := ir } := by rw [← h]
  unfold State.jtagIr
  dsimp only
  rw [if_neg (by simp [h]), State.modJtag, hjtag]

/-- Where the lands are held, INT_N shows its level again once they are let go. -/
theorem State.jtagIr_release (ir : JtagIr) (h : s.jtag.frozen = true) :
    s.jtagIr ir false = (s.modJtag (fun j => { j with ir := ir, frozen := false })).emit (.intN s.pcie.intN) := if_pos (by simp [h])

theorem bypassOk_of_notMem {code : Byte} (h : code ∉ [0x00, 0x01, 0x02, 0x04, 0x05, 0x10]) : bypassOk code = true := decide_eq_true h

/-! ### DBG_ACC (R450) -/

/-- A scan of DBG_ACC shifts the captured value out, and issues a read or write where none runs. -/
theorem exec_jtagDbgAcc (v : BitVec 64) (hp : s.pwr.inRange = true) (hf : s.jtag.frozen = false) : exec (.jtagDbgAcc v) s =
    .next (({ s with jtag := { s.jtag with ir := .dbgAcc }, out := s.out ++ [.jtag s.dbgCapture] } : State).when
      (decide (fld v 62 2 = 1 ∨ fld v 62 2 = 2) && s.jtag.busy.isNone) (·.modJtag (fun j => { j with busy := some v }))) := by
  refine (congrArg Host.Outcome.next (State.tap_powered _ hp)).trans ?_
  dsimp only
  rw [State.jtagIr_free _ hf, State.emit_open rfl]

theorem State.dbgCapture_idle (h : s.jtag.busy = none) :
    s.dbgCapture = BitVec.ofNat 64 (s.jtag.status * 2 ^ 60 + s.jtag.data.toNat) := by
  unfold State.dbgCapture
  rw [h]
  rfl

theorem State.dbgCapture_busy {w : BitVec 64} (h : s.jtag.busy = some w) :
    s.dbgCapture = BitVec.ofNat 64 (3 * 2 ^ 60 + s.jtag.data.toNat) := by
  unfold State.dbgCapture
  rw [h]
  rfl

/-! ### The debug access (R450, R455) -/

/-- An access that is refused reads zero (R366). -/
theorem State.refuse_data {m : Mid} {a n : Nat} {w c : Bool} {v : BitVec 64} {g : Gate} (hgo : g ≠ .go) (hwait : g ≠ .wait) :
    (s.refuse m a n w v c g).resp.data = 0 := by
  cases g with
  | go => exact absurd rfl hgo
  | wait => exact absurd rfl hwait
  | drop | quiet | err => rfl

theorem State.access_refused {m : Mid} {a n : Nat} {w c : Bool} {f : State → State} {v : BitVec 64} (h : s.gate m a n w ≠ .go) :
    s.access m a n w f v c = s.refuse m a n w v c (s.gate m a n w) := by
  unfold State.access
  split
  · next hgo => exact absurd hgo h
  · rfl

/-- A word read by any master but the host. -/
theorem State.busRead_word {m : Mid} {a : Nat} (hm : m ≠ 66) : s.busRead m a 4 = s.busRead1 m a 4 := by
  unfold State.busRead
  rw [if_neg (fun h => hm h.1), if_neg (by simp)]

theorem State.busRead_jtag (m : Mid) (a n : Nat) : (s.busRead m a n).jtag = s.jtag :=
  State.busRead_inv m a n (only_closed _ s) (only_refl _ s) .jtag (by decide)

theorem State.busWrite_jtag (m : Mid) (a n : Nat) (v : BitVec 64) (c : Bool) : (s.busWrite m a n v c).jtag = s.jtag :=
  State.busWrite_inv m a n v c (only_closed _ s) (only_refl _ s) .jtag (by decide)

theorem State.dbgRun_read {v : BitVec 64} (h : fld v 62 2 = 1) : s.dbgRun v = (s.busRead 68 (fld v 34 24 * 4) 4).modJtag (fun j =>
    { j with busy := none, status := statusCode (s.busRead 68 (fld v 34 24 * 4) 4).resp.status,
             data := (s.busRead 68 (fld v 34 24 * 4) 4).resp.data.setWidth 32 }) := by
  unfold State.dbgRun
  simp only [h, decide_true, if_true]

theorem State.dbgRun_write {v : BitVec 64} (h : fld v 62 2 = 2) : s.dbgRun v =
    (s.busWrite 68 (fld v 34 24 * 4) 4 ((v.setWidth 32).setWidth 64)).modJtag (fun j =>
      { j with busy := none, status := statusCode (s.busWrite 68 (fld v 34 24 * 4) 4 ((v.setWidth 32).setWidth 64)).resp.status,
               data := v.setWidth 32 }) := by
  unfold State.dbgRun
  simp only [h, show ¬ (2 = 1) by decide, decide_false, Bool.false_eq_true, if_false]

theorem exec_dbgAccDone_busy {v : BitVec 64} (h : s.jtag.busy = some v) :
    exec .dbgAccDone s = .next (if s.dbgHeld v then s else s.dbgRun v) := by
  show Host.Outcome.next _ = _
  rw [h]

/-- A read that the front end refuses completes with zero. -/
theorem State.dbgRun_refused {v : BitVec 64} (hrd : fld v 62 2 = 1) (hgo : s.gate 68 (fld v 34 24 * 4) 4 false ≠ .go)
    (hwait : s.gate 68 (fld v 34 24 * 4) 4 false ≠ .wait) :
    (s.dbgRun v).jtag = { s.jtag with busy := none, data := 0,
                                      status := statusCode (s.busRead 68 (fld v 34 24 * 4) 4).resp.status } := by
  have hdata : (s.busRead 68 (fld v 34 24 * 4) 4).resp.data = 0 := by
    rw [State.busRead_word (by decide), State.busRead1, State.access_refused hgo]
    exact State.refuse_data hgo hwait
  rw [State.dbgRun_read hrd, State.modJtag, hdata, State.busRead_jtag]
  rfl

/-- A write that reaches a register is the register write of master 68, and is answered OK. -/
theorem State.dbgRun_register {v : BitVec 64} (hwr : fld v 62 2 = 2) (ha : fld v 34 24 * 4 < 0x1000000)
    (hgo : s.gate 68 (fld v 34 24 * 4) 4 true = .go) :
    exec (.registerWrite 68 (BitVec.ofNat 27 (fld v 34 24 * 4)) 4 ⟨(v.setWidth 32).setWidth 64, [], [], []⟩) s =
        .next { s.dbgRun v with jtag := s.jtag } ∧
      (s.dbgRun v).jtag = { s.jtag with busy := none, status := 0, data := v.setWidth 32 } := by
  have haddr : (BitVec.ofNat 27 (fld v 34 24 * 4)).toNat = fld v 34 24 * 4 := Nat.mod_eq_of_lt (by omega)
  have hword : ((v.setWidth 32).setWidth 64).setWidth 32 = v.setWidth 32 := by simp
  have hstatus : (s.busWrite 68 (fld v 34 24 * 4) 4 ((v.setWidth 32).setWidth 64)).resp.status = .ok := by
    rw [State.busWrite_register ha, State.regAccess, State.write4_reaches _ ⟨.inr (by decide), hgo⟩, State.answer_resp]
  have hjtag := s.busWrite_jtag 68 (fld v 34 24 * 4) 4 ((v.setWidth 32).setWidth 64) false
  rw [exec_registerWrite_single (by decide), haddr, State.dbgRun_write hwr, State.modJtag, hstatus, hjtag]
  refine ⟨?_, rfl⟩
  rw [← hjtag]

/-! ### The port's commands -/

/-- Settles O27: an instruction only selects and holds, and the debug access is the bus access of master 68. -/
theorem jtagCommands : Obligations.JtagCommands := by
  refine ⟨fun s hoff o ho => ?_, fun s hp => ?_⟩
  · have htap : ∀ f, Host.Outcome.next (s.tap f) = (.next s : Out) := fun f => by rw [State.tap_unpowered f hoff]
    refine ⟨?_, fun c b v => ⟨congrArg Host.Outcome.next (if_neg (by simp [hoff])), htap _, htap _⟩⟩
    simp only [List.mem_cons, List.not_mem_nil, or_false] at ho
    rcases ho with rfl | rfl | rfl | rfl | rfl <;> exact htap _
  · have htap : ∀ f, Host.Outcome.next (s.tap f) = (.next (f s) : Out) := fun f => by rw [State.tap_powered f hp]
    refine ⟨⟨_, htap _, State.jtagIr_only _ _⟩, ⟨_, htap _, State.jtagIr_only _ _⟩, ⟨_, htap _, State.jtagIr_only _ _⟩,
      ⟨_, htap _, State.jtagIr_only _ _⟩, fun code hcode => ⟨_, congrArg Host.Outcome.next (if_pos ?_), State.jtagIr_only _ _⟩,
      fun hf => ?_, fun hf => ?_, fun cells => ?_, fun v hf => ⟨fun hidle hfield => ?_, fun hidle hfield => ?_, fun w hbusy => ?_⟩,
      fun v hbusy => ⟨fun hheld => ?_, fun hrd hgo hwait => ?_, fun hwr ha hgo => ?_⟩, fun hidle => ?_⟩
    · rw [hp, bypassOk_of_notMem hcode]
      rfl
    · exact (htap _).trans (congrArg Host.Outcome.next (State.jtagIr_release _ hf))
    · refine (htap _).trans ?_
      rw [State.jtagIr_free _ hf, State.emit_open rfl]
    · obtain ⟨hjtag, hregs, -⟩ := State.jtagIr_only (s := s) .sample false
      exact ⟨_, htap _, congrArg (fun j : Jtag => { j with boundary := cells }) hjtag, hregs⟩
    · rw [exec_jtagDbgAcc v hp hf, State.dbgCapture_idle hidle, hidle, decide_eq_true hfield]
      rfl
    · rw [exec_jtagDbgAcc v hp hf, State.dbgCapture_idle hidle, decide_eq_false (by omega)]
      rfl
    · rw [exec_jtagDbgAcc v hp hf, State.dbgCapture_busy hbusy, hbusy, Option.isNone_some, Bool.and_false]
      rfl
    · rw [exec_dbgAccDone_busy hbusy, if_pos hheld]
    · have hfree : s.dbgHeld v = false := by
        unfold State.dbgHeld
        rw [hrd]
        exact beq_false_of_ne hwait
      have hjtag := State.dbgRun_refused hrd hgo hwait
      refine ⟨_, (exec_dbgAccDone_busy hbusy).trans (congrArg Host.Outcome.next (if_neg (by simp [hfree]))), ?_⟩
      rw [hjtag]
      exact ⟨rfl, rfl, rfl, rfl⟩
    · have hfree : s.dbgHeld v = false := by
        unfold State.dbgHeld
        rw [hwr, decide_eq_true rfl, hgo]
        rfl
      obtain ⟨hexec, hjtag⟩ := State.dbgRun_register hwr ha hgo
      refine ⟨_, (exec_dbgAccDone_busy hbusy).trans (congrArg Host.Outcome.next (if_neg (by simp [hfree]))), ?_⟩
      rw [hjtag]
      exact ⟨rfl, rfl, rfl, rfl, hexec⟩
    · show Host.Outcome.next _ = _
      rw [hidle]

end
end Sys2Proof.Machine

/-! SUPPORT. A boundary without input power: the CDP domain is on in the state, but a boundary ends no bolt without the input (R420). -/
namespace Sys2Proof.Machine

/-- The state after reset, its input out of range and its CDP domain still on. -/
def unpowered : State := { State.reset with pwr := { inRange := false } }

/-- A boundary at which twelve sensors read zero, and nothing else is measured. -/
def quietBolt : BoltObs :=
  { lanes := [], beat := ⟨0, 0, 0, 0, []⟩, vin := 0, iin := 0, pin := 0, temps := List.replicate 12 0, upsets := [] }

/-- Without input power a boundary changes nothing, the bolt number included. -/
theorem exec_moduleBoltBoundary_unpowered (o : BoltObs) {s : State} (h : s.pwr.inRange = false) :
    exec (.moduleBoltBoundary o) s = .next s :=
  congrArg Host.Outcome.next (if_pos (.inr (by simp [h])))

/-- Refutes O47: of a boundary it has no premise that the input is in range, and says that the bolt number advances; with the CDP domain on and
the input out of range it stays. -/
theorem not_resetRequests : ¬ Obligations.ResetRequests := by
  intro h
  obtain ⟨-, -, -, -, hbolt, -⟩ := h unpowered 0 0
  obtain ⟨t, ht, hnext, -⟩ := hbolt quietBolt (by decide) rfl (fun e he => nomatch he)
  obtain rfl := Host.Outcome.next.inj (ht.symm.trans (exec_moduleBoltBoundary_unpowered quietBolt rfl))
  exact absurd hnext (by decide +kernel)

end Sys2Proof.Machine

/-! SUPPORT. Tally's counters: the fold, a read and a clear, snapshots, and the clear of the histograms (R380-R396). -/
namespace Sys2Proof.Machine

/-! ### The fold (R380, R383, R385) -/

/-- Nothing is listed below the first key of a well-formed map. -/
theorem smGet_of_smWfFrom {α : Type} [DecidableEq α] (d : Nat → α) {l : SMap α} {lo k : Nat} (h : smWfFrom d lo l = true) (hk : k < lo) (x : α) :
    smGet x l k = x := by
  induction l generalizing lo with
  | nil => rfl
  | cons e t ih =>
    obtain ⟨j, v⟩ := e
    simp only [smWfFrom, Bool.and_eq_true, decide_eq_true_eq] at h
    rw [smGet, if_neg (by omega), ih h.2 (by omega)]

/-- Each counter gets its increment of the bolt, where it has one. -/
def foldCounters (inc : SMap Nat) (live : SMap Ctr) : SMap Ctr := inc.foldl (fun m e => smMod {} m e.1 (fun c => c.add e.2)) live

/-- The counters cleared hold the bolt's increment alone. -/
def clearCounters (inc : SMap Nat) (clr : List Nat) (live : SMap Ctr) : SMap Ctr :=
  clr.foldl (fun m k => smPut {} m k { v := smGet 0 inc k % 2 ^ 48, ovf := false }) live

theorem smGet_foldCounters {inc : SMap Nat} {lo : Nat} (h : smWfFrom (fun _ => 0) lo inc = true) (live : SMap Ctr) (k : Nat) :
    smGet {} (foldCounters inc live) k =
      if smGet 0 inc k = 0 then smGet {} live k else (smGet {} live k).add (smGet 0 inc k) := by
  induction inc generalizing lo live with
  | nil => rfl
  | cons e rest ih =>
    obtain ⟨j, v⟩ := e
    simp only [smWfFrom, Bool.and_eq_true, decide_eq_true_eq] at h
    obtain ⟨⟨_, hv⟩, hrest⟩ := h
    show smGet {} (foldCounters rest (smMod {} live j (fun c => c.add v))) k = _
    rw [ih hrest, smGet]
    by_cases hk : j = k
    · subst hk
      rw [smGet_of_smWfFrom _ hrest (Nat.lt_succ_self j), if_pos rfl, if_pos rfl, if_neg hv, smGet_smMod_same]
    · rw [if_neg hk, smGet_smMod_other _ _ _ (Ne.symm hk)]

theorem smGet_clearCounters_other {inc : SMap Nat} {clr : List Nat} {k : Nat} (h : k ∉ clr) (live : SMap Ctr) :
    smGet {} (clearCounters inc clr live) k = smGet {} live k := by
  induction clr generalizing live with
  | nil => rfl
  | cons j rest ih =>
    rw [List.mem_cons, not_or] at h
    exact (ih h.2 _).trans (smGet_smPut_other _ _ _ h.1)

theorem smGet_clearCounters_same {inc : SMap Nat} {clr : List Nat} {k : Nat} (h : k ∈ clr) (live : SMap Ctr) :
    smGet {} (clearCounters inc clr live) k = { v := smGet 0 inc k % 2 ^ 48, ovf := false } := by
  induction clr generalizing live with
  | nil => cases h
  | cons j rest ih =>
    by_cases hk : k ∈ rest
    · exact ih hk _
    · have hj : k = j := (List.mem_cons.mp h).resolve_right hk
      subst hj
      exact (smGet_clearCounters_other hk _).trans (smGet_smPut_same _ _ _ _)

section
variable {s : State} {m : Mid}

/-- What a fold leaves in the counter store. -/
theorem State.tallyFold_tly : s.tallyFold.tly =
    { s.tly with live := clearCounters s.tly.fold s.tly.clr (foldCounters s.tly.fold s.tly.live), fold := [], foldDue := false, clr := [] } := by
  simp only [State.tallyFold, State.when, foldCounters, clearCounters]
  split <;> split <;> simp [State.setRf]

theorem State.tallyFold_bolt : s.tallyFold.reg 0x50058 = s.bolt := by
  simp only [State.tallyFold, State.when]
  split <;> split <;> simp [State.setRf, State.reg_setReg, State.irq_reg, tlyA]

/-! ### Reads and clears (R384, R385) -/

/-- CTR 15 names no counter of any class. -/
theorem ctrOk_fifteen (cls idx : Nat) : ctrOk cls idx 15 = false := by
  unfold ctrOk
  split <;> simp

theorem State.ccmd_read (h : ctrOk (s.rf 0x50044 18 3) (s.rf 0x50044 0 18) (s.rf 0x50044 21 4) = true) :
    s.ccmd 1 = (s.setReg 0x5004C 1).modTly (fun t => { t with rd := some (s.reg 0x50044) }) := if_pos h

theorem State.ccmd_read_bad (h : ctrOk (s.rf 0x50044 18 3) (s.rf 0x50044 0 18) (s.rf 0x50044 21 4) = false) :
    s.ccmd 1 = s.setRf 0x5004C 1 1 1 := if_neg (Bool.eq_false_iff.mp h)

/-- A clear queued for the counters `keys`. -/
def State.queueClear (s : State) (keys : List Nat) : State := (s.setReg 0x5004C 1).modTly (fun t => { t with clr := t.clr ++ keys })

theorem State.queueClear_status (keys : List Nat) : (s.queueClear keys).reg 0x5004C = 1 := by
  rw [State.queueClear, State.reg_modTly, State.reg_setReg_same]

theorem State.ccmd_clear (h : ctrOk (s.rf 0x50044 18 3) (s.rf 0x50044 0 18) (s.rf 0x50044 21 4) = true) :
    s.ccmd 2 = s.queueClear [ctrKey (s.rf 0x50044 18 3) (s.rf 0x50044 0 18) (s.rf 0x50044 21 4)] := by
  have hone : s.rf 0x50044 21 4 ≠ 15 := fun hn => by rw [hn, ctrOk_fifteen] at h; cases h
  exact (if_neg fun hc => hone hc.1).trans (if_pos h)

theorem State.ccmd_clear_bad (h : ctrOk (s.rf 0x50044 18 3) (s.rf 0x50044 0 18) (s.rf 0x50044 21 4) = false) (hone : s.rf 0x50044 21 4 ≠ 15) :
    s.ccmd 2 = s.setRf 0x5004C 1 1 1 :=
  (if_neg fun hc => hone hc.1).trans (if_neg (Bool.eq_false_iff.mp h))

theorem State.ccmd_clear_all (hall : s.rf 0x50044 21 4 = 15) (h : ctrOk (s.rf 0x50044 18 3) (s.rf 0x50044 0 18) 0 = true) :
    s.ccmd 2 = s.queueClear ((List.range (ctrCount (s.rf 0x50044 18 3))).map (ctrKey (s.rf 0x50044 18 3) (s.rf 0x50044 0 18))) :=
  if_pos ⟨hall, h⟩

/-- Every counter of the object is among those queued. -/
theorem State.mem_queueClear_range {cls idx n c : Nat} (h : c < n) : ctrKey cls idx c ∈ (s.queueClear ((List.range n).map (ctrKey cls idx))).tly.clr :=
  List.mem_append_right _ (List.mem_map.mpr ⟨c, List.mem_range.mpr h, rfl⟩)

theorem State.tlyReadLeft_some {c : Word} (h : s.tly.rd = some c) : s.tlyReadLeft = s.tlyReadDone c := by rw [State.tlyReadLeft, h]

theorem State.tlyReadLeft_none (h : s.tly.rd = none) : s.tlyReadLeft = s := by rw [State.tlyReadLeft, h]

/-- A completed read shown: the two data words, and the status. -/
def State.showRead (s : State) (lo hi : Word) (busy : Nat) : State := ((s.setReg 0x50050 lo).setReg 0x50054 hi).setRf 0x5004C 0 1 busy

/-- The counter that a read selects, of the snapshot or live. -/
def State.readCtr (s : State) (c : Word) : Ctr :=
  smGet {} (if bit c 25 then s.tly.snap else s.tly.live) (ctrKey (fld c 18 3) (fld c 0 18) (fld c 21 4))

theorem State.tlyReadDone_eq (c : Word) : s.tlyReadDone c =
    (s.showRead (w32 (s.readCtr c).v) (w32 ((s.readCtr c).v / 2 ^ 32 + (s.readCtr c).ovf.toNat * 2 ^ 31)) (!s.tly.clr.isEmpty).toNat).modTly
      (fun t => { t with rd := none }) := rfl

theorem State.showRead_low (lo hi : Word) (busy : Nat) : (s.showRead lo hi busy).reg 0x50050 = lo := by
  simp [State.showRead, State.setRf, State.reg_setReg]

theorem State.showRead_high (lo hi : Word) (busy : Nat) : (s.showRead lo hi busy).reg 0x50054 = hi := by
  simp [State.showRead, State.setRf, State.reg_setReg]

theorem State.showRead_reg_other (lo hi : Word) (busy : Nat) {a : Nat} (h : a ∉ [0x50050, 0x50054, 0x5004C]) :
    (s.showRead lo hi busy).reg a = s.reg a := by
  simp only [List.mem_cons, List.not_mem_nil, or_false, not_or] at h
  obtain ⟨hlo, hhi, hst⟩ := h
  simp [State.showRead, State.setRf, State.reg_setReg, hlo, hhi, hst]

/-- The status is idle once nothing is left to clear. -/
theorem State.showRead_idle (lo hi : Word) : (s.showRead lo hi 0).rb 0x5004C 0 = false := by
  rw [State.rb, State.showRead, State.setRf, State.reg_setReg_same, bit_eq_fld, fld_setFld_same _ (by decide)]
  rfl

theorem State.showRead_tly (lo hi : Word) (busy : Nat) : (s.showRead lo hi busy).tly = s.tly := rfl

/-! ### Snapshots (R388) -/

theorem State.snapCmd_now : s.snapCmd 1 = s.modTly (fun t => { t with snapNow := true, snapAt := false }) := rfl

theorem State.snapCmd_at : s.snapCmd 2 = s.modTly (fun t =>
    { t with snapNow := !decide (s.reg 0x50064 - s.bolt ≠ 0 ∧ (s.reg 0x50064 - s.bolt).toNat < 2 ^ 31),
             snapAt := decide (s.reg 0x50064 - s.bolt ≠ 0 ∧ (s.reg 0x50064 - s.bolt).toNat < 2 ^ 31) }) := rfl

theorem State.snapCmd_ahead (hpos : 0 < (s.reg 0x50064 - s.bolt).toNat) (hlt : (s.reg 0x50064 - s.bolt).toNat < 2 ^ 31) :
    s.snapCmd 2 = s.modTly (fun t => { t with snapNow := false, snapAt := true }) := by
  have hne : s.reg 0x50064 - s.bolt ≠ 0 := fun h => by rw [h] at hpos; exact absurd hpos (by decide)
  rw [State.snapCmd_at, decide_eq_true ⟨hne, hlt⟩]
  rfl

theorem State.snapCmd_present (h : s.reg 0x50064 = s.bolt) : s.snapCmd 2 = s.modTly (fun t => { t with snapNow := true, snapAt := false }) := by
  have hz : s.reg 0x50064 - s.bolt = 0 := by rw [h, BitVec.sub_self]; rfl
  rw [State.snapCmd_at, decide_eq_false fun hc => hc.1 hz]
  rfl

theorem State.snapshot_tly (b : Word) : (s.snapshot b).tly = { s.tly with snap := s.tly.live, snapDue := none } := by
  simp [State.snapshot]

theorem State.snapshot_bolt (b : Word) : (s.snapshot b).reg 0x50068 = b := by
  simp [State.snapshot, State.irq_reg, tlyA]

theorem State.snapshot_cause (b : Word) : (s.snapshot b).reg 0x50010 = s.reg 0x50010 ||| 2 := by
  simp [State.snapshot, State.irq_reg, State.reg_setReg, tlyA, w32]

theorem State.snapshot_reg_other (b : Word) {a : Nat} (hb : a ≠ 0x50068) (hc : a ≠ 0x50010) : (s.snapshot b).reg a = s.reg a := by
  simp [State.snapshot, State.irq_reg, State.reg_setReg, tlyA, hb, hc]

theorem exec_tlyRead (h : reaches s m 0x50048) : exec (.tlyRead m) s = .next ((s.ccmd 1).answer 0) := congrArg Host.Outcome.next (s.write4_reaches h)
theorem exec_tlyClear (h : reaches s m 0x50048) : exec (.tlyClear m) s = .next ((s.ccmd 2).answer 0) := congrArg Host.Outcome.next (s.write4_reaches h)
theorem exec_tlySnapNow (h : reaches s m 0x50060) : exec (.tlySnapNow m) s = .next ((s.snapCmd 1).answer 0) :=
  congrArg Host.Outcome.next (s.write4_reaches h)
theorem exec_tlySnapAt (h : reaches s m 0x50060) : exec (.tlySnapAt m) s = .next ((s.snapCmd 2).answer 0) :=
  congrArg Host.Outcome.next (s.write4_reaches h)

theorem execSnapshot_due {b : Word} (h : s.tly.snapDue = some b) (hf : s.tly.foldDue = false) : execSnapshot s = .next (s.snapshot b) := by
  simp only [execSnapshot, h, hf]
  rfl

theorem execSnapshot_idle (h : s.tly.snapDue = none ∨ s.tly.foldDue = true) : execSnapshot s = .next s := by
  unfold execSnapshot
  split
  next b hb =>
    have hf : s.tly.foldDue = true := h.resolve_left (by simp [hb])
    rw [if_pos hf]
  next => rfl

/-! ### The clear of the histograms (R396) -/

theorem State.reg_clearAll (l : List Nat) (a : Nat) :
    (seqAll (fun i s => s.setReg (tlyA (0x100 + 4 * i)) 0) l s).reg a = if a ∈ l.map (fun i => 0x50100 + 4 * i) then 0 else s.reg a := by
  induction l generalizing s with
  | nil => rfl
  | cons i rest ih =>
    have hi : tlyA (0x100 + 4 * i) = 0x50100 + 4 * i := by unfold tlyA; omega
    rw [seqAll, ih, State.reg_setReg, hi]
    simp only [List.map_cons, List.mem_cons]
    by_cases hr : a ∈ rest.map (fun i => 0x50100 + 4 * i) <;> by_cases ha : a = 0x50100 + 4 * i <;> simp [hr, ha]

theorem State.hclr_bin {i : Nat} (h : i < 64) : s.hclr.reg (0x50100 + 4 * i) = 0 := by
  rw [State.hclr, State.reg_clearAll, if_pos (List.mem_map.mpr ⟨i, List.mem_range.mpr h, rfl⟩)]

theorem State.hclr_reg_other {a : Nat} (h : a < 0x50100 ∨ 0x50200 ≤ a) : s.hclr.reg a = s.reg a := by
  rw [State.hclr, State.reg_clearAll, if_neg]
  rintro hm
  obtain ⟨i, hi, rfl⟩ := List.mem_map.mp hm
  have := List.mem_range.mp hi
  omega

theorem exec_tlyHclr (h : reaches s m 0x5008C) : exec (.tlyHclr m) s = .next (s.hclr.answer 0) := congrArg Host.Outcome.next (s.write4_reaches h)

theorem State.hclr_tly : s.hclr.tly = s.tly := State.hclr_inv (only_closed _ s) (only_refl _ s) .tly (by decide)

/-! ### The obligation, by its groups of commands -/

theorem tallyCounters_fold (hdue : s.tly.foldDue = true) (hwf : smWf (fun _ => 0) s.tly.fold = true) : ∃ t, exec .tallyFold s = .next t ∧
    t.reg 0x50058 = s.bolt ∧ t.tly.foldDue = false ∧ t.tly.fold = [] ∧ t.tly.clr = [] ∧
    (∀ k, k ∉ s.tly.clr → smGet 0 s.tly.fold k = 0 → smGet {} t.tly.live k = smGet {} s.tly.live k) ∧
    (∀ k, k ∉ s.tly.clr → smGet 0 s.tly.fold k ≠ 0 →
      (smGet {} t.tly.live k).v = ((smGet {} s.tly.live k).v + smGet 0 s.tly.fold k) % 2 ^ 48 ∧
      (smGet {} t.tly.live k).ovf = ((smGet {} s.tly.live k).ovf || decide (2 ^ 48 ≤ (smGet {} s.tly.live k).v + smGet 0 s.tly.fold k))) ∧
    (∀ k, k ∈ s.tly.clr → smGet {} t.tly.live k = { v := smGet 0 s.tly.fold k % 2 ^ 48, ovf := false }) ∧
    t.tly.snap = s.tly.snap ∧ t.tly.inc = s.tly.inc := by
  refine ⟨s.tallyFold, congrArg Host.Outcome.next (by rw [hdue, State.when_true]), State.tallyFold_bolt, ?_⟩
  rw [State.tallyFold_tly]
  refine ⟨rfl, rfl, rfl, fun k hk hz => ?_, fun k hk hz => ?_, fun k hk => smGet_clearCounters_same hk _, rfl, rfl⟩
  · exact (smGet_clearCounters_other hk _).trans ((smGet_foldCounters hwf _ k).trans (if_pos hz))
  · dsimp only
    rw [smGet_clearCounters_other hk, smGet_foldCounters hwf, if_neg hz, Ctr.add]
    exact ⟨rfl, rfl⟩

theorem tallyCounters_ccmd (hr : reaches s m 0x50048) :
    let sel := s.reg 0x50044
    let ok := ctrOk (fld sel 18 3) (fld sel 0 18) (fld sel 21 4)
    let key := ctrKey (fld sel 18 3) (fld sel 0 18) (fld sel 21 4)
    (ok = true → exec (.tlyRead m) s = .next (((s.setReg 0x5004C 1).modTly (fun t => { t with rd := some sel })).answer 0)) ∧
    (ok = false → exec (.tlyRead m) s = .next ((s.setRf 0x5004C 1 1 1).answer 0)) ∧
    (ok = true → exec (.tlyClear m) s = .next (((s.setReg 0x5004C 1).modTly (fun t => { t with clr := t.clr ++ [key] })).answer 0)) ∧
    (ok = false → fld sel 21 4 ≠ 15 → exec (.tlyClear m) s = .next ((s.setRf 0x5004C 1 1 1).answer 0)) ∧
    (fld sel 21 4 = 15 → ctrOk (fld sel 18 3) (fld sel 0 18) 0 = true → ∃ t, exec (.tlyClear m) s = .next t ∧ t.reg 0x5004C = 1 ∧
      t.tly.live = s.tly.live ∧ ∀ c, c < ctrCount (fld sel 18 3) → ctrKey (fld sel 18 3) (fld sel 0 18) c ∈ t.tly.clr) := by
  intro sel ok key
  rw [exec_tlyRead hr, exec_tlyClear hr]
  refine ⟨fun h => ?_, fun h => ?_, fun h => ?_, fun h hn => ?_, fun hn h => ?_⟩
  · rw [State.ccmd_read h]
  · rw [State.ccmd_read_bad h]
  · rw [State.ccmd_clear h]
    rfl
  · rw [State.ccmd_clear_bad h hn]
  · rw [State.ccmd_clear_all hn h]
    refine ⟨_, rfl, ?_, rfl, fun c hc => ?_⟩
    · rw [State.reg_answer, State.queueClear_status]
    · rw [State.answer_tly]
      exact State.mem_queueClear_range hc

theorem tallyCounters_readDone {c : Word} (hc : s.tly.rd = some c) : ∃ t, exec .tlyReadDone s = .next t ∧
    t.reg 0x50050 = w32 (s.readCtr c).v ∧ t.reg 0x50054 = w32 ((s.readCtr c).v / 2 ^ 32 + (s.readCtr c).ovf.toNat * 2 ^ 31) ∧
    t.tly = { s.tly with rd := none } ∧ (s.tly.clr = [] → t.rb 0x5004C 0 = false) ∧
    ∀ a, a ∉ [0x50050, 0x50054, 0x5004C] → t.reg a = s.reg a := by
  refine ⟨s.tlyReadDone c, congrArg Host.Outcome.next (State.tlyReadLeft_some hc), ?_⟩
  rw [State.tlyReadDone_eq]
  refine ⟨?_, ?_, ?_, fun hclr => ?_, fun a ha => ?_⟩
  · rw [State.reg_modTly, State.showRead_low]
  · rw [State.reg_modTly, State.showRead_high]
  · rw [State.modTly_tly, State.showRead_tly]
  · rw [State.rb, State.reg_modTly, hclr]
    exact State.showRead_idle _ _
  · rw [State.reg_modTly, State.showRead_reg_other _ _ _ ha]

theorem tallyCounters_snap (hr : reaches s m 0x50060) :
    exec (.tlySnapNow m) s = .next ((s.modTly (fun t => { t with snapNow := true, snapAt := false })).answer 0) ∧
    (0 < (s.reg 0x50064 - s.bolt).toNat → (s.reg 0x50064 - s.bolt).toNat < 2 ^ 31 →
      exec (.tlySnapAt m) s = .next ((s.modTly (fun t => { t with snapNow := false, snapAt := true })).answer 0)) ∧
    (s.reg 0x50064 = s.bolt →
      exec (.tlySnapAt m) s = .next ((s.modTly (fun t => { t with snapNow := true, snapAt := false })).answer 0)) := by
  rw [exec_tlySnapNow hr, exec_tlySnapAt hr]
  refine ⟨?_, fun hpos hlt => ?_, fun h => ?_⟩
  · rw [State.snapCmd_now]
  · rw [State.snapCmd_ahead hpos hlt]
  · rw [State.snapCmd_present h]

theorem tallyCounters_hclr (hr : reaches s m 0x5008C) : ∃ t, exec (.tlyHclr m) s = .next t ∧ (∀ i, i < 64 → t.reg (0x50100 + 4 * i) = 0) ∧
    t.tly = s.tly ∧ ∀ a, a < 0x50100 ∨ 0x50200 ≤ a → t.reg a = s.reg a := by
  refine ⟨_, exec_tlyHclr hr, fun i hi => ?_, ?_, fun a ha => ?_⟩
  · rw [State.reg_answer, State.hclr_bin hi]
  · rw [State.answer_tly, State.hclr_tly]
  · rw [State.reg_answer, State.hclr_reg_other ha]

end

/-- Settles O42: each command is one of Tally's operations, whose rules stand above. -/
theorem tallyCounters : Obligations.TallyCounters := by
  unfold Obligations.TallyCounters
  intro s m
  refine ⟨tallyCounters_fold, fun h => congrArg Host.Outcome.next (by rw [h, State.when_false]), tallyCounters_ccmd,
    fun c => tallyCounters_readDone, fun h => congrArg Host.Outcome.next (State.tlyReadLeft_none h), tallyCounters_snap,
    fun b hb hf => ?_, execSnapshot_idle, tallyCounters_hclr⟩
  exact ⟨s.snapshot b, execSnapshot_due hb hf, State.snapshot_tly b, State.snapshot_bolt b, State.snapshot_cause b,
    fun a => State.snapshot_reg_other b⟩

end Sys2Proof.Machine

/-! SUPPORT. A DMA channel's transfer: one without host requests, one of 8 bytes to a bank word, and its end (R416). -/
namespace Sys2Proof.Machine

section
variable {s : State}

/-! ### The end of a channel -/

theorem dmaA_ne_irq (c o : Nat) : dmaA c o ≠ 0x4040010 := by unfold dmaA; omega

theorem dmaA_status_ne_count (c : Nat) : dmaA c 0x14 ≠ dmaA c 0x18 := by unfold dmaA; omega

theorem State.dmaEnd_status (c n : Nat) (err : Bool) : (s.dmaEnd c n err).reg (dmaA c 0x14) = if err then 4 else 2 := by
  rw [State.dmaEnd, State.irq_reg, if_neg (dmaA_ne_irq c _), State.reg_setReg_other _ _ (dmaA_status_ne_count c), State.reg_setReg_same]

theorem State.dmaEnd_count (c n : Nat) (err : Bool) : (s.dmaEnd c n err).reg (dmaA c 0x18) = w32 n := by
  rw [State.dmaEnd, State.irq_reg, if_neg (dmaA_ne_irq c _), State.reg_setReg_same]

theorem State.dmaEnd_cause (c n : Nat) (err : Bool) :
    (s.dmaEnd c n err).reg 0x4040010 = s.reg 0x4040010 ||| w32 (2 ^ (c + (if err then 3 else 0))) := by
  rw [State.dmaEnd, State.irq_reg, if_pos rfl, State.reg_setReg_other _ _ (dmaA_ne_irq c _).symm, State.reg_setReg_other _ _ (dmaA_ne_irq c _).symm]

theorem State.dmaEnd_bank (c n : Nat) (err : Bool) : (s.dmaEnd c n err).bank = s.bank := by
  rw [State.dmaEnd, State.irq_bank, State.setReg_bank, State.setReg_bank]

theorem State.byteAt_congr {t : State} (h : t.bank = s.bank) (a : Nat) : t.byteAt a = s.byteAt a := by rw [State.byteAt, State.byteAt, h]

theorem State.bytes_congr {t : State} (h : t.bank = s.bank) (a n : Nat) : t.bytes a n = s.bytes a n := by rw [State.bytes, State.bytes, h]

/-! ### The transfer -/

theorem exec_dmaDone_due {c : Fin 3} {data : DmaData} (hbusy : s.rb (dmaA c.val 0x14) 0 = true) (hheld : s.dmaHeld c.val = false) :
    exec (.dmaDone c data) s = .next (s.dmaRun c.val data) := by
  refine congrArg Host.Outcome.next ?_
  rw [hbusy, hheld]
  exact State.when_true _ _

theorem exec_dmaDone_idle {c : Fin 3} {data : DmaData} (h : s.rb (dmaA c.val 0x14) 0 = false ∨ s.dmaHeld c.val = true) :
    exec (.dmaDone c data) s = .next s := by
  refine congrArg Host.Outcome.next (if_neg ?_)
  rcases h with h | h <;> simp [h]

variable {c : Nat} {data : DmaData}

/-- Without host requests a transfer to the device does not begin. -/
theorem State.dmaRun_in_refused (hdir : bit s.pcie.dmaDir c = false) (hreq : s.canIssue = false) : s.dmaRun c data = s.dmaEnd c 0 true := by
  rw [State.dmaRun, if_neg (by simp [hdir]), if_pos (by simp [hreq])]

/-- Without host requests a transfer from the device ends with ERR. -/
theorem State.dmaRun_out_refused (hdir : bit s.pcie.dmaDir c = true) (hreq : s.canIssue = false) :
    ∃ t : State, s.dmaRun c data = t.dmaEnd c 0 true := by
  rw [State.dmaRun, if_pos hdir, if_pos (by simp [hreq])]
  exact ⟨_, rfl⟩

/-- A transfer with nothing left to write is over. -/
theorem State.dmaIn_nil (clash : List Nat) (n a : Nat) : State.dmaIn clash n a [] s = (s, []) := by
  cases n with
  | zero => rfl
  | succ n => exact if_pos rfl

/-- 8 aligned bytes go to their word in one write. -/
theorem State.dmaIn_word {n a : Nat} {bs : List Byte} {w : Window × Nat} (hlen : bs.length = 8) (hal : a % 8 = 0) (hw : windowOf a = some w)
    (hgo : s.gate 66 a 8 true = .go) : State.dmaIn [] (n + 1) a bs s = (s.winWrite 66 a bs false, []) := by
  have hne : bs ≠ [] := fun h => by rw [h] at hlen; cases hlen
  have hstep : (if a % 8 = 0 ∧ 8 ≤ bs.length then 8 else 4) = 8 := if_pos ⟨hal, (Nat.le_of_eq hlen.symm)⟩
  rw [State.dmaIn, if_neg hne]
  simp only [hstep]
  rw [hw, if_neg (by simp), hgo]
  dsimp only
  rw [List.drop_of_length_le (Nat.le_of_eq hlen), List.take_of_length_le (Nat.le_of_eq hlen), State.dmaIn_nil]
  rfl

theorem windowOf_direct {o : Nat} (h : o < 0x600000) : windowOf (0x1000000 + o) = some (.direct, o) := by
  unfold windowOf
  rw [if_pos (by omega), Nat.add_sub_cancel_left]

/-- What the host's access to a bank word gets from the front end (R366, R455). -/
theorem State.gate_host_bank {o n : Nat} (hon : s.pwr.cdpOn = true) (hwarm : s.inWarmWindow = false) (ho : o < 0x600000) (hn : n = 4 ∨ n = 8)
    (hal : (0x1000000 + o) % 8 = 0) :
    s.gate 66 (0x1000000 + o) n true = if s.shedWaits 66 (.bank (o / 0x20000)) then .wait else .go := by
  have ht : targetOf (0x1000000 + o) = some (.bank (o / 0x20000)) := by rw [targetOf_direct (by omega), if_pos ho]
  have hfence : s.fenced 66 (0x1000000 + o) = false := State.fenced_of_notForeman (.inr (by decide))
  unfold State.gate
  rw [if_neg (not_not_intro hon), hfence, Bool.and_false, if_neg Bool.false_ne_true, if_neg (by simp [hwarm]), ht]
  dsimp only
  have hsize : n = 1 ∨ n = 2 ∨ n = 4 ∨ n = 8 := .inr (.inr hn)
  have haligned : (0x1000000 + o) % n = 0 := by rcases hn with rfl | rfl <;> omega
  rw [if_neg (by simp [connected]), if_neg (by simp [hsize, haligned]), if_neg (by simp [Target.isReg])]

/-- A channel that no held target stops finds its first word open. -/
theorem State.gate_of_dmaHeld (h : s.dmaHeld c = false) (hdir : bit s.pcie.dmaDir c = false) (hlen : s.dmaLen c = 8) :
    s.gate 66 (s.rf (dmaA c 8) 0 26) 4 true ≠ .wait := by
  intro hwait
  simp only [State.dmaHeld, Bool.or_eq_false_iff, List.any_eq_false] at h
  refine h.1 0 (List.mem_range.mpr (by decide)) ?_
  rw [hlen, hdir, Nat.mul_zero, Nat.add_zero, Nat.min_eq_left (by omega)]
  exact beq_iff_eq.mpr hwait

theorem State.bankWrite_stores {m : Mid} {o : Nat} {bs : List Byte} (ho : o < 0x600000) (hmay : s.mayWrite (o / 0x20000) m = true) :
    s.bankWrite m o bs false = (s.storeBytes o bs).answer 0 := by
  unfold State.bankWrite
  rw [if_neg (by omega), if_neg (by simp [hmay]), if_neg (by simp)]

/-- 8 bytes for a bank word that the host may write are stored there, and the channel is done. -/
theorem State.dmaRun_word (hheld : s.dmaHeld c = false) (hdir : bit s.pcie.dmaDir c = false) (hreq : s.canIssue = true) (hlen : s.dmaLen c = 8)
    (hdata : data.bytes.length = 8) (hal : s.rf (dmaA c 8) 0 26 % 8 = 0) (hon : s.pwr.cdpOn = true) (hwarm : s.inWarmWindow = false) {o : Nat}
    (ha : s.rf (dmaA c 8) 0 26 = 0x1000000 + o) (ho : o < 0x600000) (hmay : s.mayWrite (o / 0x20000) 66 = true) (hclash : data.clash = []) :
    s.dmaRun c data = ((s.storeBytes o data.bytes).answer 0).dmaEnd c 8 false := by
  have hopen := State.gate_of_dmaHeld hheld hdir hlen
  rw [ha] at hal
  rw [ha, State.gate_host_bank hon hwarm ho (.inl rfl) hal] at hopen
  have hgo : s.gate 66 (0x1000000 + o) 8 true = .go := by
    rw [State.gate_host_bank hon hwarm ho (.inr rfl) hal, if_neg fun hc => hopen (if_pos hc)]
  have hpad : padTo 8 data.bytes = data.bytes := by rw [padTo, List.take_append_of_le_length (Nat.le_of_eq hdata.symm), List.take_of_length_le (Nat.le_of_eq hdata)]
  have hin : State.dmaIn [] 262144 (0x1000000 + o) data.bytes s = ((s.storeBytes o data.bytes).answer 0, []) := by
    rw [State.dmaIn_word (n := 262143) hdata hal (windowOf_direct ho) hgo, State.winWrite, windowOf_direct ho]
    dsimp only
    rw [State.bankWrite_stores ho hmay]
  rw [State.dmaRun, if_neg (by simp [hdir]), if_neg (by simp [hreq])]
  dsimp only
  rw [hlen, ha, hpad, hclash, hin]
  rfl

end
end Sys2Proof.Machine

/-! SUPPORT. The SMBus target's commands (R417, R418, R449). -/
namespace Sys2Proof.Machine

section
variable {s : State}

theorem State.smb_open (f : State → State) (hf : s.jtag.frozen = false) (hp : s.pwr.inRange = true) : s.smb f = f s :=
  if_pos (by simp [hf, hp])

theorem State.smb_closed (f : State → State) (h : s.jtag.frozen = true ∨ s.pwr.inRange = false) : s.smb f = s :=
  if_neg (by rcases h with h | h <;> simp [h])

/-- What the SMBus target answers goes out where its lands follow the core. -/
theorem State.smbOut_open (bs : List Byte) (hf : s.jtag.frozen = false) : s.smbOut bs = { s with out := s.out ++ [.smbus bs] } :=
  if_neg (by simp [hf])

/-- A read with the CDP domain off answers zero. -/
theorem exec_smbReadRegister_off (hf : s.jtag.frozen = false) (hp : s.pwr.inRange = true) (hoff : s.pwr.cdpOn = false) :
    exec .smbReadRegister s = .next ((({ s with out := s.out ++ [.smbus [0, 0, 0, 0]] } : State).answer 0).modPwr
      (fun p => { p with smbPtr := p.smbPtr + 4 })) := by
  have hquiet : s.gate 67 s.pwr.smbPtr.toNat 4 false = .quiet := if_pos (by simp [hoff])
  refine congrArg Host.Outcome.next ((State.smb_open _ hf hp).trans ?_)
  dsimp only
  rw [hoff, hquiet, if_neg Bool.false_ne_true, decide_eq_true (by decide), State.when_true, State.smbOut_open _ (by simpa using hf),
    State.answer_resp, show leBytes 4 (0 : BitVec 64).toNat = [0, 0, 0, 0] by decide]
  rfl

theorem exec_smbReadRegister_on (hf : s.jtag.frozen = false) (hp : s.pwr.inRange = true) (hon : s.pwr.cdpOn = true)
    (hwait : s.gate 67 s.pwr.smbPtr.toNat 4 false ≠ .wait) : exec .smbReadRegister s =
      .next ((s.busRead 67 s.pwr.smbPtr.toNat 4).smbOut (leBytes 4 (s.busRead 67 s.pwr.smbPtr.toNat 4).resp.data.toNat)).smbNext := by
  refine congrArg Host.Outcome.next ((State.smb_open _ hf hp).trans ?_)
  dsimp only
  rw [hon, if_pos rfl, decide_eq_true hwait, State.when_true]

theorem exec_smbWriteRegister_denied (v : Word) (hf : s.jtag.frozen = false) (hp : s.pwr.inRange = true) (hstrap : bit s.pwr.straps 1 = false) :
    exec (.smbWriteRegister v) s = .next ((s.setReg 0x5C (s.reg 0x5C + 1)).modPwr (fun p => { p with smbPtr := p.smbPtr + 4 })) := by
  refine congrArg Host.Outcome.next ((State.smb_open _ hf hp).trans ?_)
  rw [if_neg (by simp [hstrap])]
  rfl

/-- With its strap the SMBus target's write is the register write of master 67. -/
theorem exec_smbWriteRegister_allowed (v : Word) (hf : s.jtag.frozen = false) (hp : s.pwr.inRange = true) (hstrap : bit s.pwr.straps 1 = true) :
    exec (.registerWrite 67 (s.pwr.smbPtr.setWidth 27) 4 ⟨v.setWidth 64, [], [], []⟩) s =
        .next (s.busWrite 67 s.pwr.smbPtr.toNat 4 (v.setWidth 64)) ∧
      exec (.smbWriteRegister v) s = .next ((s.busWrite 67 s.pwr.smbPtr.toNat 4 (v.setWidth 64)).modPwr (fun p => { p with smbPtr := p.smbPtr + 4 })) := by
  have hptr : (s.pwr.smbPtr.setWidth 27).toNat = s.pwr.smbPtr.toNat := BitVec.toNat_setWidth_of_le (by decide)
  constructor
  · refine congrArg Host.Outcome.next ?_
    rw [hptr, State.busStore, if_neg (fun h => absurd h.1 (by decide)), if_pos rfl]
    rfl
  · refine congrArg Host.Outcome.next ((State.smb_open _ hf hp).trans ?_)
    rw [if_pos hstrap]
    rfl

/-- The temperatures as SMB_READ_TEMPERATURES answers them: the low half of each register, little-endian. -/
def State.temperatures (s : State) : List Byte := (List.range 12).flatMap (fun i => leBytes 2 (s.rf (pwrA (0x60 + 4 * i)) 0 16))

/-- Pairs laid out one after the other: pair `i` stands at `2 * i`. -/
theorem getElem?_flatMap_pair {α : Type} (f g : Nat → α) {i n : Nat} (h : i < n) :
    ((List.range n).flatMap (fun j => [f j, g j]))[2 * i]? = some (f i) ∧
      ((List.range n).flatMap (fun j => [f j, g j]))[2 * i + 1]? = some (g i) := by
  have hlen (n : Nat) : ((List.range n).flatMap (fun j => [f j, g j])).length = 2 * n := by
    induction n with
    | zero => rfl
    | succ n ih => rw [List.range_succ, List.flatMap_append, List.length_append, ih]; rfl
  induction n with
  | zero => omega
  | succ n ih =>
    rw [List.range_succ, List.flatMap_append]
    rcases Nat.lt_succ_iff_lt_or_eq.mp h with hlt | rfl
    · have hlow : 2 * i < ((List.range n).flatMap (fun j => [f j, g j])).length := by rw [hlen]; omega
      have hhigh : 2 * i + 1 < ((List.range n).flatMap (fun j => [f j, g j])).length := by rw [hlen]; omega
      rw [List.getElem?_append_left hlow, List.getElem?_append_left hhigh]
      exact ih hlt
    · have hlow : ((List.range i).flatMap (fun j => [f j, g j])).length ≤ 2 * i := Nat.le_of_eq (hlen i)
      have hhigh : ((List.range i).flatMap (fun j => [f j, g j])).length ≤ 2 * i + 1 := Nat.le_succ_of_le hlow
      rw [List.getElem?_append_right hlow, List.getElem?_append_right hhigh, hlen, Nat.sub_self, Nat.add_sub_cancel_left]
      exact ⟨rfl, rfl⟩

theorem leBytes_two (v : Nat) : leBytes 2 v = [BitVec.ofNat 8 v, BitVec.ofNat 8 (v / 256)] := rfl

/-- The two bytes of each temperature. -/
theorem State.temperatures_get {i : Nat} (h : i < 12) :
    s.temperatures[2 * i]? = some (BitVec.ofNat 8 (s.rf (0x10060 + 4 * i) 0 8)) ∧
      s.temperatures[2 * i + 1]? = some (BitVec.ofNat 8 (s.rf (0x10060 + 4 * i) 8 8)) := by
  have hlow (a : Nat) : BitVec.ofNat 8 (s.rf a 0 16) = BitVec.ofNat 8 (s.rf a 0 8) := by
    refine BitVec.eq_of_toNat_eq ?_
    simp only [State.rf, fld_eq, BitVec.toNat_ofNat]
    omega
  have hhigh (a : Nat) : BitVec.ofNat 8 (s.rf a 0 16 / 256) = BitVec.ofNat 8 (s.rf a 8 8) := by
    refine BitVec.eq_of_toNat_eq ?_
    simp only [State.rf, fld_eq, BitVec.toNat_ofNat]
    omega
  have hpair (j : Nat) : leBytes 2 (s.rf (pwrA (0x60 + 4 * j)) 0 16) =
      [BitVec.ofNat 8 (s.rf (0x10060 + 4 * j) 0 8), BitVec.ofNat 8 (s.rf (0x10060 + 4 * j) 8 8)] := by
    have hj : pwrA (0x60 + 4 * j) = 0x10060 + 4 * j := by unfold pwrA; omega
    rw [leBytes_two, hlow, hhigh, hj]
  unfold State.temperatures
  rw [funext hpair]
  exact getElem?_flatMap_pair _ _ h

theorem State.temperatures_length : s.temperatures.length = 24 := by
  rw [State.temperatures, List.length_flatMap]
  simp only [length_leBytes]
  rfl

end

/-- Settles O31: a transfer is one of three cases of a busy channel, and each SMBus command is one operation behind the target's power and lands. -/
theorem dmaTransferAndSmbus : Obligations.DmaTransferAndSmbus := by
  intro s
  refine ⟨fun c data hbusy hheld => ?_, fun c data h => exec_dmaDone_idle h, fun h v => ?_, fun hf hp => ?_⟩
  · rw [exec_dmaDone_due hbusy hheld]
    refine ⟨fun hdir hreq => ?_, fun hdir hreq hlen hdata hal hon hwarm o ha ho hmay hclash => ?_, fun hdir hreq => ?_⟩
    · rw [State.dmaRun_in_refused hdir hreq]
      exact ⟨_, rfl, State.dmaEnd_status _ _ _, State.dmaEnd_count _ _ _, State.dmaEnd_cause _ _ _, State.dmaEnd_bank _ _ _⟩
    · rw [State.dmaRun_word hheld hdir hreq hlen hdata hal hon hwarm ha ho hmay hclash]
      have hbank (t : State) : (t.dmaEnd c.val 8 false).bank = t.bank := State.dmaEnd_bank _ _ _
      refine ⟨_, rfl, State.dmaEnd_status _ _ _, State.dmaEnd_count _ _ _, ?_, ?_, fun a ha => ?_⟩
      · exact State.dmaEnd_cause _ _ _
      · rw [State.bytes_congr (hbank _)]
        exact hdata ▸ s.bytes_storeBytes o data.bytes
      · rw [State.byteAt_congr (hbank _), State.byteAt_answer]
        exact s.byteAt_storeBytes_other _ (by rwa [hdata])
    · obtain ⟨t, ht⟩ := State.dmaRun_out_refused (data := data) hdir hreq
      rw [ht]
      exact ⟨_, rfl, State.dmaEnd_status _ _ _⟩
  · have hclosed (f : State → State) : Host.Outcome.next (s.smb f) = (.next s : Out) := congrArg Host.Outcome.next (State.smb_closed f h)
    exact ⟨hclosed _, hclosed _, hclosed _, hclosed _, hclosed _, hclosed _⟩
  · have hopen (f : State → State) : Host.Outcome.next (s.smb f) = (.next (f s) : Out) := congrArg Host.Outcome.next (State.smb_open f hf hp)
    refine ⟨fun v => ⟨_, hopen _, rfl⟩, exec_smbReadRegister_off hf hp, fun hon hwait => ?_, fun v => exec_smbWriteRegister_denied v hf hp,
      fun v hstrap => ⟨_, exec_smbWriteRegister_allowed v hf hp hstrap⟩, ⟨_, hopen _, State.smbOut_open _ hf⟩, ⟨_, hopen _, State.smbOut_open _ hf⟩,
      ⟨_, s.temperatures, hopen _, State.smbOut_open _ hf, State.temperatures_length, fun i => State.temperatures_get⟩⟩
    refine ⟨_, exec_smbReadRegister_on hf hp hon hwait, ?_⟩
    have hjtag : (s.busRead 67 s.pwr.smbPtr.toNat 4).jtag.frozen = false := by rw [State.busRead_jtag, hf]
    rw [State.smbOut_open _ hjtag]
    exact ⟨rfl, rfl⟩

end Sys2Proof.Machine

/-! SUPPORT. Power: what is kept of a map, a change at each key of a list, and the frames of the trace unit and of DOM_CHG (R424, R440, R456). -/
namespace Sys2Proof.Machine

theorem smGet_smKeep {α : Type} (d : α) (p : Nat → Bool) (m : SMap α) (a : Nat) : smGet d (smKeep p m) a = if p a then smGet d m a else d := by
  induction m with
  | nil => simp [smKeep, smGet]
  | cons e t ih =>
    obtain ⟨k, v⟩ := e
    unfold smKeep at ih ⊢
    rw [List.filter_cons]
    by_cases hk : k = a
    · subst hk
      by_cases hp : p k = true
      · rw [if_pos hp, if_pos hp, smGet, smGet, if_pos rfl, if_pos rfl]
      · rw [if_neg hp, if_neg hp, ih, if_neg hp]
    · split <;> simp only [smGet, if_neg hk, ih]

/-- Each key of the list is changed once, and no other. -/
theorem seqAll_keyed {β : Type} {get : State → Nat → β} {f : Nat → State → State} {g : β → β} (hsame : ∀ s k, get (f k s) k = g (get s k))
    (hother : ∀ s k j, j ≠ k → get (f k s) j = get s j) {l : List Nat} (hl : l.Nodup) (s : State) (j : Nat) :
    get (seqAll f l s) j = if j ∈ l then g (get s j) else get s j := by
  induction l generalizing s with
  | nil => rfl
  | cons k rest ih =>
    obtain ⟨hk, hrest⟩ := List.nodup_cons.mp hl
    rw [seqAll, ih hrest]
    by_cases hj : j = k
    · subst hj
      rw [if_neg hk, hsame, if_pos (List.mem_cons_self ..)]
    · rw [hother _ _ _ hj]
      simp [hj]

theorem nodup_span (lo n : Nat) : (span lo n).Nodup :=
  List.Pairwise.map _ (fun _ _ hne h => hne (Nat.add_right_cancel h)) List.nodup_range

theorem mem_span {lo n x : Nat} : x ∈ span lo n ↔ lo ≤ x ∧ x < lo + n := by
  simp only [span, List.mem_map, List.mem_range]
  exact ⟨fun ⟨i, hi, h⟩ => by omega, fun h => ⟨x - lo, by omega, by omega⟩⟩

section
variable {s : State}

/-- Registers of which some start again from their reset values. -/
theorem State.reg_kept (p : Nat → Bool) (a : Nat) : ({ s with regs := smKeep p s.regs } : State).reg a = if p a then s.reg a else resetOf a :=
  smGet_smKeep _ p s.regs a

theorem State.reg_noteDom_other {a : Nat} (h : a ≠ 0x10010) : s.noteDom.reg a = s.reg a := by
  have hirq : a ≠ pwrA 0 + 0x10 := h
  unfold State.noteDom
  split
  · rfl
  · rw [State.irq_reg, if_neg hirq, State.reg_modPwr]

theorem State.shedQ_pushLost : s.pushLost.tst.shedQ = s.tst.shedQ := by
  unfold State.pushLost
  split <;> rfl

theorem State.shedQ_triggerTrace : s.triggerTrace.tst.shedQ = s.tst.shedQ := by
  unfold State.triggerTrace
  split <;> rfl

theorem State.shedQ_pushTrace (r : TraceRec) : (s.pushTrace r).tst.shedQ = s.tst.shedQ := rfl

/-- The trace unit has no part in what waits at the Shed. -/
theorem State.shedQ_record (kind src clk : Nat) (d0 d1 : Word) : (s.record kind src clk d0 d1).tst.shedQ = s.tst.shedQ := by
  unfold State.record
  dsimp only
  repeat' split
  all_goals simp [State.shedQ_triggerTrace, State.shedQ_pushTrace, State.shedQ_pushLost, State.incReg]

theorem State.shedQ_trace (c kind src : Nat) (d0 d1 : Word) : (s.trace c kind src d0 d1).tst.shedQ = s.tst.shedQ := by
  unfold State.trace
  split
  · exact State.shedQ_record _ _ _ _ _
  · rfl

end
end Sys2Proof.Machine

/-! SUPPORT. The requests for domains, and the port tiles (R423, R424). -/
namespace Sys2Proof.Machine

section
variable {s : State} {p : Nat}

/-! ### Requests -/

/-- A refused change leaves its bit 1, logged and raised. -/
theorem State.domRefuse_facts {i : Nat} (hi : i < 18) : bit ((s.domRefuse i).reg 0x10040) i = true ∧
    (s.domRefuse i).reg 0x10020 = w32 (0x80000000 + s.pwr.domBy.toNat * 0x1000 + 0x40) ∧ (s.domRefuse i).reg 0x10010 = s.reg 0x10010 ||| 4 ∧
    (s.domRefuse i).wvr = s.wvr ∧ (s.domRefuse i).prot = s.prot ∧ bit (s.domRefuse i).pwr.domOn i = true ∧
    ∀ a, a ∉ [0x10010, 0x10020, 0x10040] → (s.domRefuse i).reg a = s.reg a := by
  have hbit : bit (setFld (s.reg 0x10040) i 1 1) i = true := by
    rw [bit_eq_fld, fld_setFld_same _ (by omega)]
    rfl
  refine ⟨?_, ?_, ?_, State.domRefuse_inv i (only_closed [.regs, .pcie, .pwr, .out] s) (only_refl _ s) .wvr (by decide),
    State.domRefuse_inv i (only_closed [.regs, .pcie, .pwr, .out] s) (only_refl _ s) .prot (by decide), ?_, fun a ha => ?_⟩
  · simpa [State.domRefuse, State.irq_reg, State.errlog, State.setRf, State.reg_setReg, pwrA] using hbit
  · simp [State.domRefuse, State.irq_reg, State.errlog, State.setRf, pwrA]
  · simp [State.domRefuse, State.irq_reg, State.errlog, State.setRf, State.reg_setReg, pwrA, w32]
  · simpa [State.domRefuse, State.errlog, State.setRf] using bit_setBit_true s.pwr.domOn hi
  · simp only [List.mem_cons, List.not_mem_nil, or_false, not_or] at ha
    obtain ⟨hirq, hlog, hctrl⟩ := ha
    simp [State.domRefuse, State.irq_reg, State.errlog, State.setRf, State.reg_setReg, pwrA, hirq, hlog, hctrl]

/-- What a boundary has just started, it does not start again. -/
theorem State.startDue_of_domAt {t : State} (h : t.pwr.domAt = some t.bolt) (i : Nat) : t.startDue i = false := by
  have hnext : t.nextStart = none := if_pos h
  rw [State.startDue, hnext]
  exact Bool.and_false _

/-! ### A tile goes to sleep -/

/-- The port of a tile put to sleep at a bolt. -/
def PortSt.asleep (q : PortSt) (bolt : Word) : PortSt :=
  { q with awake := false, waking := false, linkUp := false, downDecl := false, lostAt := bolt, lostIn := true }

/-- A tile's sleep clears it and its port; what follows changes none of that. -/
theorem State.sleepTile_only : only [.regs, .pcie, .tst, .out, .free, .resp, .pwr] ((s.clearTile p).modPort p (·.asleep s.bolt)) (s.sleepTile p) := by
  have hc := only_closed [.regs, .pcie, .tst, .out, .free, .resp, .pwr] ((s.clearTile p).modPort p (·.asleep s.bolt))
  unfold State.sleepTile
  refine State.when_inv _ _ ?_ fun t ht => State.trace_inv _ _ _ _ _ (sub_inv (by decide) hc) ht
  exact State.endWaits_inv p .asleep (sub_inv (by decide) hc) (State.noteDom_inv (sub_inv (by decide) hc)
    (State.started_inv p (sub_inv (by decide) hc) (only_refl _ _)))

theorem State.port_sleepTile_same : (s.sleepTile p).port p = (s.port p).asleep s.bolt :=
  (State.port_of_ports_modPort (State.sleepTile_only .ports (by decide))).1

theorem State.port_sleepTile_other {q : Nat} (h : q ≠ p) : (s.sleepTile p).port q = s.port q :=
  (State.port_of_ports_modPort (State.sleepTile_only .ports (by decide))).2 q h

theorem State.lane_sleepTile (l : Nat) : (s.sleepTile p).lane l = if l / 64 = p then {} else s.lane l := by
  have hlanes : (s.sleepTile p).lanes = smKeep (fun l => !decide (l / 64 = p)) s.lanes := State.sleepTile_only .lanes (by decide)
  rw [State.lane, hlanes, smGet_smKeep]
  by_cases h : l / 64 = p <;> simp [h, State.lane]

theorem State.loom_sleepTile : (s.sleepTile p).loom = s.loom := State.sleepTile_only .loom (by decide)

/-- Answers to what waited leave the rest of the queue as it is. -/
theorem State.shedQ_answered (k : DecKind) (l : List ShedReq) :
    (seqAll (fun e s => (s.decAns e.m e.a e.wr k).send [.lateAnswer e.m e.a [0] .dec]) l s).tst = s.tst :=
  seqAll_inv (R := fun t => t.tst = s.tst) _ l rfl fun e t ht =>
    (State.decAns_inv e.m e.a e.wr k (only_closed [.regs, .pcie, .out, .resp] t) (only_refl _ t) .tst (by decide)).trans ht

theorem State.shedQ_sleepTile : (s.sleepTile p).tst.shedQ = s.tst.shedQ.filter (fun e => !decide (targetOf e.a = some (.regp p))) := by
  have hwait (t : State) (k : DecKind) : (t.endWaits p k).tst.shedQ = t.tst.shedQ.filter (fun e => !decide (targetOf e.a = some (.regp p))) :=
    congrArg Test.shedQ (State.shedQ_answered k _)
  have hdom (t : State) : t.noteDom.tst = t.tst := t.noteDom_only .tst (by decide)
  unfold State.sleepTile State.when
  dsimp only
  split
  · rw [State.shedQ_trace, hwait, hdom]
    rfl
  · rw [hwait, hdom]
    rfl

/-- A sleep that ends no wait leaves the registers, but for the causes and counts of its own events. -/
theorem State.reg_sleepTile (h : s.tst.shedQ = []) {a : Nat} (ha : a ∉ [0x10010, 0x60010, 0x60088]) : (s.sleepTile p).reg a = s.reg a := by
  simp only [List.mem_cons, List.not_mem_nil, or_false, not_or] at ha
  obtain ⟨hdom, hirq, hlost⟩ := ha
  have hend (t : State) (k : DecKind) (ht : t.tst.shedQ = []) : (t.endWaits p k).reg a = t.reg a := by
    unfold State.endWaits
    dsimp only
    rw [ht]
    rfl
  have hq (t : State) : t.noteDom.tst = t.tst := t.noteDom_only .tst (by decide)
  unfold State.sleepTile State.when
  dsimp only
  split
  · rw [State.reg_trace_other _ _ _ _ _ _ hirq hlost, hend _ _ (by rw [hq]; exact h), State.reg_noteDom_other hdom]
    rfl
  · rw [hend _ _ (by rw [hq]; exact h), State.reg_noteDom_other hdom]
    rfl

/-! ### A tile powers up -/

theorem State.reg_wakeTile (a : Nat) : (s.wakeTile p).reg a = if inPort p a && isStatus a then resetOf a else s.reg a := by
  refine (State.reg_kept (fun a => !(inPort p a && isStatus a)) a).trans ?_
  by_cases h : (inPort p a && isStatus a) = true <;> simp [h]

theorem State.bolt_wakeTile : (s.wakeTile p).bolt = s.bolt := by
  have hout : inPort p 0x20080 = false := decide_eq_false (by omega)
  rw [State.bolt, State.reg_wakeTile, hout]
  rfl

theorem State.wakeTile_domAt : (s.wakeTile p).pwr.domAt = some s.bolt := by
  have hout : inPort p 0x20080 = false := decide_eq_false (by omega)
  have hbolt : ({ s with regs := smKeep (fun a => !(inPort p a && isStatus a)) s.regs } : State).bolt = s.bolt := by
    rw [State.bolt, State.reg_kept, hout]
    rfl
  exact congrArg some hbolt

/-! ### A tile is up -/

/-- A lane of a tile that starts: no signal, LOS, LOL and LOF declared. -/
def State.startLane (l : Nat) (s : State) : State := (s.modLane l (fun _ => { lostIn := true })).deadLane l

theorem State.lane_deadLane (l j : Nat) : (s.deadLane l).lane j = s.lane j := by simp [State.deadLane, seqAll]

theorem State.lane_startLane_same (l : Nat) : (State.startLane l s).lane l = { lostIn := true } := by
  rw [State.startLane, State.lane_deadLane, State.lane_modLane_same]

theorem State.lane_startLane_other {l j : Nat} (h : j ≠ l) : (State.startLane l s).lane j = s.lane j := by
  rw [State.startLane, State.lane_deadLane, State.lane_modLane_other _ _ h]

/-- What is declared of a lane: its LOS, LOL and LOF. -/
def State.lineDefects (s : State) (l : Nat) : Integ × Integ × Integ := (s.integ1 (laneKey l 0), s.integ1 (laneKey l 1), s.integ1 (laneKey l 3))

/-- A defect declared and in effect. -/
def Integ.dead : Integ := { eff := true, decl := true }

theorem State.integ1_noteTen (e : TenEvent) (once : Bool) (k : Nat) : (s.noteTen e once).integ1 k = s.integ1 k := by
  have h : (s.noteTen e once).integ = s.integ := s.noteTen_only e once .integ (by decide)
  rw [State.integ1, State.integ1, h]

theorem State.lineDefects_startLane_same (l : Nat) : (State.startLane l s).lineDefects l = (.dead, .dead, .dead) := by
  simp [State.lineDefects, State.startLane, State.deadLane, seqAll, State.integ1, State.modInteg, smMod, smGet_smPut, laneKey, Integ.dead]

theorem State.integ1_startLane_other {l k : Nat} (h : k / 16 ≠ l) : (State.startLane l s).integ1 k = s.integ1 k := by
  have h0 : k ≠ laneKey l 0 := by unfold laneKey; omega
  have h1 : k ≠ laneKey l 1 := by unfold laneKey; omega
  have h3 : k ≠ laneKey l 3 := by unfold laneKey; omega
  unfold State.startLane State.deadLane
  simp only [seqAll]
  rw [State.integ1_modInteg_other _ _ h3, State.integ1_modInteg_other _ _ h1, State.integ1_modInteg_other _ _ h0, State.integ1_noteTen]
  rfl

theorem State.lineDefects_startLane_other {l j : Nat} (h : j ≠ l) : (State.startLane l s).lineDefects j = s.lineDefects j := by
  unfold State.lineDefects
  rw [State.integ1_startLane_other (by unfold laneKey; omega), State.integ1_startLane_other (by unfold laneKey; omega),
    State.integ1_startLane_other (by unfold laneKey; omega)]

/-- The tile with its lanes started. -/
def State.lanesStarted (s : State) (p : Nat) : State :=
  seqAll State.startLane (span (64 * p) 64)
    ((s.modPort p (fun q => { q with awake := true, waking := false, linkUp := true, downDecl := false })).started p)

theorem State.tileUp_eq : s.tileUp p = ((s.lanesStarted p).trace 5 6 (96 + p) 1 0).noteDom := rfl

theorem State.tileUp_only : only [.regs, .pcie, .tst, .out, .free, .pwr] (s.lanesStarted p) (s.tileUp p) := by
  have hc := only_closed [.regs, .pcie, .tst, .out, .free, .pwr] (s.lanesStarted p)
  exact State.noteDom_inv (sub_inv (by decide) hc) (State.trace_inv _ _ _ _ _ (sub_inv (by decide) hc) (only_refl _ _))

theorem State.lanesStarted_only : only [.lanes, .integ, .ten, .pwr]
    (s.modPort p (fun q => { q with awake := true, waking := false, linkUp := true, downDecl := false })) (s.lanesStarted p) := by
  have hc := only_closed [.lanes, .integ, .ten, .pwr]
    (s.modPort p (fun q => { q with awake := true, waking := false, linkUp := true, downDecl := false }))
  refine seqAll_inv _ _ (State.started_inv p (sub_inv (by decide) hc) (only_refl _ _)) fun l t ht => ?_
  exact State.deadLane_inv l (sub_inv (by decide) hc) (State.modLane_inv l _ (sub_inv (by decide) hc) ht)

theorem State.port_tileUp : (s.tileUp p).port p = { s.port p with awake := true, waking := false, linkUp := true, downDecl := false } ∧
    ∀ q, q ≠ p → (s.tileUp p).port q = s.port q :=
  State.port_of_ports_modPort ((State.tileUp_only .ports (by decide)).trans (State.lanesStarted_only .ports (by decide)))

theorem State.loom_tileUp : (s.tileUp p).loom = s.loom := (State.tileUp_only .loom (by decide)).trans (State.lanesStarted_only .loom (by decide))

theorem mem_tile {l : Nat} : l ∈ span (64 * p) 64 ↔ l / 64 = p := by rw [mem_span]; omega

theorem State.lane_tileUp (l : Nat) : (s.tileUp p).lane l = if l / 64 = p then { lostIn := true } else s.lane l := by
  have hlanes : (s.tileUp p).lane l = (s.lanesStarted p).lane l := by rw [State.lane, State.lane, State.tileUp_only .lanes (by decide)]
  rw [hlanes, State.lanesStarted, seqAll_keyed (get := State.lane) (g := fun _ => { lostIn := true }) (fun t k => State.lane_startLane_same k)
    (fun t k j h => State.lane_startLane_other h) (nodup_span _ _)]
  simp only [mem_tile]
  rfl

theorem State.lineDefects_tileUp {l : Nat} (h : l / 64 = p) : (s.tileUp p).lineDefects l = (.dead, .dead, .dead) := by
  have hinteg : (s.tileUp p).lineDefects l = (s.lanesStarted p).lineDefects l := by
    have hmap : (s.tileUp p).integ = (s.lanesStarted p).integ := State.tileUp_only .integ (by decide)
    simp only [State.lineDefects, State.integ1, hmap]
  rw [hinteg, State.lanesStarted, seqAll_keyed (get := State.lineDefects) (g := fun _ => (.dead, .dead, .dead))
    (fun t k => State.lineDefects_startLane_same k) (fun t k j h => State.lineDefects_startLane_other h) (nodup_span _ _), if_pos (mem_tile.mpr h)]

theorem State.reg_tileUp {a : Nat} (ha : a ∉ [0x10010, 0x60010, 0x60088]) : (s.tileUp p).reg a = s.reg a := by
  simp only [List.mem_cons, List.not_mem_nil, or_false, not_or] at ha
  obtain ⟨hdom, hirq, hlost⟩ := ha
  have hregs : (s.lanesStarted p).regs = s.regs := State.lanesStarted_only .regs (by decide)
  rw [State.tileUp_eq, State.reg_noteDom_other hdom, State.reg_trace_other _ _ _ _ _ _ hirq hlost, State.reg, hregs]
  rfl

end
end Sys2Proof.Machine

/-! SUPPORT. The weaver clusters, the stacks, loss of the input and the thermal trip (R304, R420, R423, R425, R429). -/
namespace Sys2Proof.Machine

section
variable {s : State} {c : Nat}

theorem mem_clusterOf {w : Nat} : w ∈ clusterOf c ↔ w / 8 = c := by
  rw [clusterOf, mem_span]
  omega

theorem nodup_clusterOf : (clusterOf c).Nodup := nodup_span _ _

theorem State.weaver_started (i w : Nat) : (s.started i).weaver w = s.weaver w := rfl

theorem State.weaver_startAt (i w : Nat) : (s.startAt i).weaver w = s.weaver w := rfl

theorem State.fmn_started (i : Nat) : (s.started i).fmn = s.fmn := rfl

/-! ### A cluster loses its power -/

/-- A weaver without power. -/
def Weaver.unpowered (x : Weaver) : Weaver := { x.toSt .off with powering := false, imem := none, dmem := none, memBad := false }

/-- One weaver of a cluster that loses its power. -/
def State.weaverOff (w : Nat) (s : State) : State :=
  ((s.setWvr w .off).modWeaver w (fun x => { x with powering := false, imem := none, dmem := none, memBad := false })).resetUnit w

theorem State.weaver_resetUnit (u w : Nat) : (s.resetUnit u).weaver w = s.weaver w := rfl

theorem State.weaver_weaverOff_same (w : Nat) : (State.weaverOff w s).weaver w = (s.weaver w).unpowered := by
  rw [State.weaverOff, State.weaver_resetUnit, State.weaver_modWeaver_same, State.weaver_setWvr_same]
  rfl

theorem State.weaver_weaverOff_other {w v : Nat} (h : v ≠ w) : (State.weaverOff w s).weaver v = s.weaver v := by
  rw [State.weaverOff, State.weaver_resetUnit, State.weaver_modWeaver_other _ _ h, State.weaver_setWvr_other _ _ _ h]

theorem State.weaver_noteDom (w : Nat) : s.noteDom.weaver w = s.weaver w := by
  have h : s.noteDom.wvr = s.wvr := s.noteDom_only .wvr (by decide)
  rw [State.weaver, State.weaver, h]

/-- A cluster none of whose weavers works. -/
def State.clusterResting (s : State) (c : Nat) : Bool :=
  (clusterOf c).all (fun w => decide ((s.weaver w).st = .idle ∨ (s.weaver w).st = .off))

theorem State.clusterResting_of (h : ∀ w, w / 8 = c → (s.weaver w).st = .idle ∨ (s.weaver w).st = .off) : s.clusterResting c = true :=
  List.all_eq_true.mpr fun w hw => decide_eq_true (h w (mem_clusterOf.mp hw))

theorem State.clusterOff_working {w : Nat} (hw : w / 8 = c) (hidle : (s.weaver w).st ≠ .idle) (hoff : (s.weaver w).st ≠ .off) :
    s.clusterOff c = s.domRefuse (8 + c) := by
  refine if_neg fun hall => ?_
  have := of_decide_eq_true (List.all_eq_true.mp hall w (mem_clusterOf.mpr hw))
  exact this.elim hidle hoff

/-- Something outstanding of a weaver of the cluster holds its power-off back. -/
theorem State.clusterOff_waits {w : Nat} (hrest : s.clusterResting c = true) (hw : w / 8 = c) (hbusy : s.portIdle w = false) :
    s.clusterOff c = s := by
  refine (if_pos hrest).trans (if_neg fun hall => ?_)
  have := List.all_eq_true.mp hall w (mem_clusterOf.mpr hw)
  simp [hbusy] at this

theorem State.clusterOff_idle (hrest : s.clusterResting c = true) (hidle : ∀ w, w / 8 = c → s.portIdle w = true) :
    s.clusterOff c = ((seqAll State.weaverOff (clusterOf c) s).started (8 + c)).noteDom :=
  (if_pos hrest).trans (if_pos (List.all_eq_true.mpr fun w hw => hidle w (mem_clusterOf.mp hw)))

theorem State.weaver_clusterOff (hrest : s.clusterResting c = true) (hidle : ∀ w, w / 8 = c → s.portIdle w = true) (w : Nat) :
    (s.clusterOff c).weaver w = if w / 8 = c then (s.weaver w).unpowered else s.weaver w := by
  rw [State.clusterOff_idle hrest hidle, State.weaver_noteDom, State.weaver_started, seqAll_keyed (get := State.weaver) (g := Weaver.unpowered)
    (fun t k => State.weaver_weaverOff_same k) (fun t k j h => State.weaver_weaverOff_other h) nodup_clusterOf]
  simp only [mem_clusterOf]

theorem exec_clusterPowerOff_due {c : Fin 8} (hon : s.pwr.cdpOn = true) (hwant : s.want (8 + c.val) = false) (hup : s.clusterOn c.val = true) :
    exec (.clusterPowerOff c) s = .next (s.clusterOff c.val) := congrArg Host.Outcome.next (if_pos (by simp [hon, hwant, hup]))

/-! ### A cluster powers on -/

theorem State.weaver_clusterPower (w : Nat) :
    (s.clusterPower c).weaver w = if w / 8 = c then { s.weaver w with powering := true } else s.weaver w := by
  rw [State.clusterPower, State.weaver_noteDom, State.weaver_startAt, seqAll_keyed (get := State.weaver) (g := fun x => { x with powering := true })
    (fun t k => t.weaver_modWeaver_same k _) (fun t k j h => t.weaver_modWeaver_other _ h) nodup_clusterOf]
  simp only [mem_clusterOf]

/-- A weaver whose power has come up. -/
def Weaver.powered (x : Weaver) : Weaver := if x.powering then { x with powering := false }.toSt .idle else x

/-- One weaver of a cluster whose power has come up. -/
def State.weaverUp (w : Nat) (s : State) : State :=
  if (s.weaver w).powering then (s.modWeaver w (fun x => { x with powering := false })).setWvr w .idle else s

theorem State.weaver_weaverUp_same (w : Nat) : (State.weaverUp w s).weaver w = (s.weaver w).powered := by
  unfold State.weaverUp Weaver.powered
  split
  · rw [State.weaver_setWvr_same, State.weaver_modWeaver_same]
  · rfl

theorem State.weaver_weaverUp_other {w v : Nat} (h : v ≠ w) : (State.weaverUp w s).weaver v = s.weaver v := by
  unfold State.weaverUp
  split
  · rw [State.weaver_setWvr_other _ _ _ h, State.weaver_modWeaver_other _ _ h]
  · rfl

theorem State.fmn_weaverUp (w : Nat) : (State.weaverUp w s).fmn = s.fmn := by
  unfold State.weaverUp
  split
  · exact State.setWvr_inv w .idle 0 (only_closed [.regs, .wvr, .tly, .pcie, .tst, .out, .free] (s.modWeaver w _)) (only_refl _ _) .fmn (by decide)
  · rfl

theorem State.rolesGoOn_none (h : s.fmn.rolesLeft = []) : s.rolesGoOn = s := if_neg (by simp [h])

theorem State.clusterIdle_seq : s.clusterIdle c = ((seqAll State.weaverUp (clusterOf c) s).started (8 + c)).rolesGoOn := rfl

/-- No role waits for the cluster's power. -/
theorem State.clusterIdle_eq (h : s.fmn.rolesLeft = []) : s.clusterIdle c = (seqAll State.weaverUp (clusterOf c) s).started (8 + c) := by
  have hfmn : (seqAll State.weaverUp (clusterOf c) s).fmn = s.fmn :=
    seqAll_inv (R := fun t => t.fmn = s.fmn) _ _ rfl fun w t ht => (State.fmn_weaverUp w).trans ht
  have hroles : ((seqAll State.weaverUp (clusterOf c) s).started (8 + c)).fmn.rolesLeft = [] := by rw [State.fmn_started, hfmn, h]
  rw [State.clusterIdle_seq, State.rolesGoOn_none hroles]

theorem State.weaver_clusterIdle (h : s.fmn.rolesLeft = []) (w : Nat) :
    (s.clusterIdle c).weaver w = if w / 8 = c then (s.weaver w).powered else s.weaver w := by
  rw [State.clusterIdle_eq h, State.weaver_started, seqAll_keyed (get := State.weaver) (g := Weaver.powered)
    (fun t k => State.weaver_weaverUp_same k) (fun t k j h => State.weaver_weaverUp_other h) nodup_clusterOf]
  simp only [mem_clusterOf]

/-! ### Stacks -/

variable {h : Nat}

theorem State.prot_hbmPower : (s.hbmPower h).prot = { s.prot with hbmOn := setBit s.prot.hbmOn h true } :=
  State.noteDom_only _ .prot (by decide)

theorem State.reg_hbmPower {a : Nat} (ha : a ≠ 0x10010) : (s.hbmPower h).reg a = s.reg a := State.reg_noteDom_other ha

theorem State.hbmOff_enabled (hen : s.rb 0xA80040 h = true) : s.hbmOff h = s.domRefuse (16 + h) := if_pos hen

/-- A stack switched off. -/
def State.stackOff (s : State) (h : Nat) : State :=
  (s.modProt (fun p => { p with hbmOn := setBit p.hbmOn h false, hbmReady := setBit p.hbmReady h false })).started (16 + h)

theorem State.hbmOff_disabled (hen : s.rb 0xA80040 h = false) : s.hbmOff h = (s.stackOff h).noteDom := if_neg (by simp [hen])

theorem State.prot_hbmOff (hen : s.rb 0xA80040 h = false) :
    (s.hbmOff h).prot = { s.prot with hbmOn := setBit s.prot.hbmOn h false, hbmReady := setBit s.prot.hbmReady h false } := by
  rw [State.hbmOff_disabled hen]
  exact State.noteDom_only _ .prot (by decide)

theorem State.reg_hbmOff (hen : s.rb 0xA80040 h = false) {a : Nat} (ha : a ≠ 0x10010) : (s.hbmOff h).reg a = s.reg a := by
  rw [State.hbmOff_disabled hen, State.reg_noteDom_other ha]
  rfl

theorem bit_setBit_false {n : Nat} (w : BitVec n) {i : Nat} (hi : i < n) : bit (setBit w i false) i = false := by
  rw [bit_eq_fld, setBit, fld_setFld_same w (by omega)]
  rfl

/-! ### Nothing has power -/

/-- Without ports and weavers listed no tile is reached and no weaver runs. -/
theorem State.dark_of_empty (hports : s.ports = []) (hwvr : s.wvr = []) : (∀ p, s.reach p = false) ∧ ∀ w, w < 64 → (s.weaver w).st = .off := by
  refine ⟨fun p => ?_, fun w _ => ?_⟩
  · rw [State.reach, State.port, hports]
    rfl
  · rw [State.weaver, hwvr]
    rfl

theorem State.tripDue_hot (hon : s.pwr.cdpOn = true) (hhot : ∃ e ∈ s.pwr.hot, 4 ≤ e.2) : s.tripDue = s.trip := by
  obtain ⟨e, he, hn⟩ := hhot
  have hany : s.pwr.hot.any (fun e => decide (4 ≤ e.2)) = true := List.any_eq_true.mpr ⟨e, he, decide_eq_true hn⟩
  exact if_pos (by rw [hon, hany]; rfl)

theorem State.tripDue_cool (h : s.pwr.cdpOn = false ∨ ∀ e ∈ s.pwr.hot, e.2 < 4) : s.tripDue = s := by
  refine if_neg fun hc => ?_
  obtain ⟨hon, hany⟩ := (Bool.and_eq_true _ _).mp hc
  obtain ⟨e, he, hn⟩ := List.any_eq_true.mp hany
  rcases h with h | h
  · exact absurd (h.symm.trans hon) (by decide)
  · exact absurd (of_decide_eq_true hn) (Nat.not_le.mpr (h e he))

theorem State.reg_trip (a : Nat) : s.trip.reg a = if aonReg a then s.reg a else resetOf a := smGet_smKeep _ aonReg s.regs a

/-! ### The obligation, by its groups of commands -/

theorem powerRequests_sleep {p : Fin 8} (hon : s.pwr.cdpOn = true) (hwant : s.want p.val = false) (hup : s.domUp p.val = true) :
    ∃ t, exec (.portTileSleep p) s = .next t ∧ t.reach p.val = false ∧
      t.domUp p.val = false ∧ (∀ q, q ≠ p.val → t.port q = s.port q) ∧ (∀ l, l / 64 = p.val → t.lane l = {}) ∧
      (∀ l, l / 64 ≠ p.val → t.lane l = s.lane l) ∧ t.loom = s.loom ∧
      (∀ e ∈ t.tst.shedQ, targetOf e.a ≠ some (.regp p.val)) ∧
      (s.tst.shedQ = [] → ∀ a, a ∉ [0x10010, 0x60010, 0x60088] → t.reg a = s.reg a) := by
  refine ⟨s.sleepTile p.val, congrArg Host.Outcome.next (if_pos (by simp [hon, hwant, hup])), ?_, ?_, fun q => State.port_sleepTile_other,
    fun l hl => ?_, fun l hl => ?_, State.loom_sleepTile, fun e he => ?_, fun hq a => State.reg_sleepTile hq⟩
  · rw [State.reach, State.port_sleepTile_same]
    rfl
  · rw [State.domUp, if_pos p.isLt, State.port_sleepTile_same]
    rfl
  · rw [State.lane_sleepTile, if_pos hl]
  · rw [State.lane_sleepTile, if_neg hl]
  · rw [State.shedQ_sleepTile] at he
    simpa using (List.mem_filter.mp he).2

theorem powerRequests_up {p : Fin 8} (hw : (s.port p.val).waking = true) :
    ∃ t, exec (.portTileUp p) s = .next t ∧ t.reach p.val = true ∧ (t.port p.val).waking = false ∧
      (∀ q, q ≠ p.val → t.port q = s.port q) ∧ (∀ l, l / 64 = p.val → t.lane l = { lostIn := true } ∧
        ∀ d, d ∈ [0, 1, 3] → (t.integ1 (laneKey l d)).decl = true ∧ (t.integ1 (laneKey l d)).eff = true) ∧
      (∀ l, l / 64 ≠ p.val → t.lane l = s.lane l) ∧ t.loom = s.loom ∧ ∀ a, a ∉ [0x10010, 0x60010, 0x60088] → t.reg a = s.reg a := by
  obtain ⟨hself, hothers⟩ := State.port_tileUp (s := s) (p := p.val)
  refine ⟨s.tileUp p.val, congrArg Host.Outcome.next (if_pos hw), ?_, ?_, hothers, fun l hl => ⟨?_, fun d hd => ?_⟩, fun l hl => ?_,
    State.loom_tileUp, fun a => State.reg_tileUp⟩
  · rw [State.reach, hself]
    rfl
  · rw [hself]
  · rw [State.lane_tileUp, if_pos hl]
  · obtain ⟨hlos, hlolf⟩ := Prod.mk.inj (State.lineDefects_tileUp (s := s) hl)
    obtain ⟨hlol, hlof⟩ := Prod.mk.inj hlolf
    simp only [List.mem_cons, List.not_mem_nil, or_false] at hd
    rcases hd with rfl | rfl | rfl
    · exact hlos ▸ ⟨rfl, rfl⟩
    · exact hlol ▸ ⟨rfl, rfl⟩
    · exact hlof ▸ ⟨rfl, rfl⟩
  · rw [State.lane_tileUp, if_neg hl]

theorem powerRequests_tile (p : Fin 8) :
    (s.startDue p.val = true → ∃ t, exec (.portTileWake p) s = .next t ∧ (t.port p.val).waking = true ∧ t.startDue p.val = false ∧
      (∀ q, q ≠ p.val → t.port q = s.port q) ∧ t.loom = s.loom ∧
      ∀ a, t.reg a = if inPort p.val a && isStatus a then resetOf a else s.reg a) := by
  intro hdue
  obtain ⟨hself, hothers⟩ := State.port_of_ports_modPort (s := s) (t := s.wakeTile p.val) (p := p.val)
    (f := fun q => { q with waking := true }) rfl
  refine ⟨s.wakeTile p.val, congrArg Host.Outcome.next (if_pos hdue), ?_, ?_, hothers, rfl, State.reg_wakeTile⟩
  · rw [hself]
  · exact State.startDue_of_domAt (by rw [State.wakeTile_domAt, State.bolt_wakeTile]) _

theorem powerRequests_cluster (c : Fin 8) :
    (s.startDue (8 + c.val) = true → ∃ t, exec (.clusterPowerOn c) s = .next t ∧ t.clusterOn c.val = true ∧
      (∀ w, w / 8 = c.val → t.weaver w = { s.weaver w with powering := true }) ∧ (∀ w, ¬ w / 8 = c.val → t.weaver w = s.weaver w)) ∧
    ((s.weaver (8 * c.val)).powering = true → s.fmn.rolesLeft = [] → ∃ t, exec (.clusterIdle c) s = .next t ∧
      (∀ w, w / 8 = c.val → (s.weaver w).powering = true → (t.weaver w).st = .idle ∧ (t.weaver w).powering = false) ∧
      ∀ w, ¬ w / 8 = c.val → t.weaver w = s.weaver w) := by
  refine ⟨fun hdue => ⟨s.clusterPower c.val, congrArg Host.Outcome.next (if_pos hdue), ?_, fun w hw => ?_, fun w hw => ?_⟩,
    fun hup hroles => ⟨s.clusterIdle c.val, congrArg Host.Outcome.next (if_pos hup), fun w hw hpow => ?_, fun w hw => ?_⟩⟩
  · rw [State.clusterOn, State.weaver_clusterPower, if_pos (by omega)]
    exact Bool.or_true _
  · rw [State.weaver_clusterPower, if_pos hw]
  · rw [State.weaver_clusterPower, if_neg hw]
  · rw [State.weaver_clusterIdle hroles, if_pos hw, Weaver.powered, if_pos hpow]
    exact ⟨rfl, rfl⟩
  · rw [State.weaver_clusterIdle hroles, if_neg hw]

end

/-- Settles O46: each command behind its condition is one of the operations whose rules stand above. -/
theorem powerRequests : Obligations.PowerRequests := by
  intro s m v noted refused
  have hrefused (i : Nat) (hi : i < 18) : refused (.next (s.domRefuse i)) i := ⟨_, rfl, State.domRefuse_facts hi⟩
  refine ⟨fun hr => ?_, fun p => ⟨fun hon hw hu => powerRequests_sleep hon hw hu, fun hno => ?_, powerRequests_tile p, fun hno => ?_,
    powerRequests_up, fun hno => ?_⟩, fun c => ?_, fun h => ⟨fun hdue => ?_, fun hno => ?_, fun hon hready => ?_, fun hon hwant hup => ⟨fun hen => ?_,
    fun hen => ?_⟩⟩, fun hp => ?_, fun hon hhot => ?_, fun hno => ?_⟩
  · refine ⟨_, congrArg Host.Outcome.next (s.write4_reaches hr), ?_, rfl, rfl, fun a ha => ?_⟩
    · rw [State.reg_answer]
      exact s.reg_setReg_same _ _
    · rw [State.reg_answer]
      exact s.reg_setReg_other _ ha
  · refine congrArg Host.Outcome.next (if_neg ?_)
    rcases hno with h | h | h <;> simp [h]
  · exact congrArg Host.Outcome.next (if_neg (by simp [hno]))
  · exact congrArg Host.Outcome.next (if_neg (by simp [hno]))
  · obtain ⟨hpower, hidle⟩ := powerRequests_cluster (s := s) c
    refine ⟨fun hon hwant hup => ⟨fun hrest hbusy => ?_, fun hall => ?_, fun w hw hidle hoff => ?_⟩, fun hwant => ?_, hpower, fun hno => ?_, hidle,
      fun hno => ?_⟩
    · obtain ⟨w, hw, hport⟩ := hbusy
      rw [exec_clusterPowerOff_due hon hwant hup, State.clusterOff_waits (State.clusterResting_of hrest) hw hport]
    · have hrest := State.clusterResting_of fun w hw => (hall w hw).1
      refine ⟨_, exec_clusterPowerOff_due hon hwant hup, fun w hw => ?_, fun w hw => ?_⟩
      · rw [State.weaver_clusterOff hrest fun w hw => (hall w hw).2, if_pos hw]
        exact ⟨rfl, rfl⟩
      · rw [State.weaver_clusterOff hrest fun w hw => (hall w hw).2, if_neg hw]
    · rw [exec_clusterPowerOff_due hon hwant hup, State.clusterOff_working hw hidle hoff]
      exact hrefused _ (by omega)
    · exact congrArg Host.Outcome.next (if_neg (by simp [hwant]))
    · exact congrArg Host.Outcome.next (if_neg (by simp [hno]))
    · exact congrArg Host.Outcome.next (if_neg (by simp [hno]))
  · refine ⟨s.hbmPower h.val, congrArg Host.Outcome.next (if_pos hdue), ?_, ?_, fun a ha => State.reg_hbmPower fun hz => ha (hz ▸ by decide)⟩
    · rw [State.prot_hbmPower]
      exact bit_setBit_true _ h.isLt
    · rw [State.prot_hbmPower]
  · exact congrArg Host.Outcome.next (if_neg (by simp [hno]))
  · exact ⟨_, congrArg Host.Outcome.next (if_pos (by simp [hon, hready])), bit_setBit_true _ h.isLt, rfl, rfl⟩
  · have hexec : exec (.hbmPowerOff h) s = .next (s.hbmOff h.val) := congrArg Host.Outcome.next (if_pos (by simp [hon, hwant, hup]))
    rw [hexec, State.hbmOff_enabled hen]
    exact hrefused _ (by omega)
  · refine ⟨s.hbmOff h.val, congrArg Host.Outcome.next (if_pos (by simp [hon, hwant, hup])), ?_, ?_,
      fun a ha => State.reg_hbmOff hen fun hz => ha (hz ▸ by decide)⟩
    · rw [State.prot_hbmOff hen]
      exact bit_setBit_false _ h.isLt
    · rw [State.prot_hbmOff hen]
      exact bit_setBit_false _ h.isLt
  · exact ⟨s.offState, congrArg Host.Outcome.next (if_pos hp), rfl, rfl, rfl, rfl, rfl, rfl, rfl, rfl, State.dark_of_empty rfl rfl⟩
  · exact ⟨s.trip, congrArg Host.Outcome.next (State.tripDue_hot hon hhot), rfl, rfl, rfl, rfl, rfl, rfl, State.reg_trip,
      State.dark_of_empty rfl rfl⟩
  · exact congrArg Host.Outcome.next (State.tripDue_cool hno)

end Sys2Proof.Machine

/-! SUPPORT. A lease held by neither Foreman: the state is not headless, and yet no Foreman serves its monitor (R314, R443). -/
namespace Sys2Proof.Machine

/-- The state after reset, but that the lease stands as held by a third Foreman. -/
def strayHolder : State := { State.reset with fmn := { holder := 3 } }

/-- The monitor answers an empty line as it does headless. -/
theorem exec_twiuriLine_strayHolder :
    exec (.twiuriLine []) strayHolder = .next (strayHolder.say (lineOf (ascii "! HEADLESS") ++ ascii "tw- ")) := rfl

theorem headless_text_ne_prompt : lineOf (ascii "! HEADLESS") ++ ascii "tw- " ≠ prompt := by decide

/-- Refutes O55: a state whose lease is held by neither A nor B is not headless, and the statement has an empty line answered with the prompt there;
the monitor answers HEADLESS. -/
theorem not_twiuriAnswers : ¬ Obligations.TwiuriAnswers := by
  intro h
  obtain ⟨-, -, -, hline, -⟩ := h strayHolder 0 0 0 0 0 0 0 0 0 0 false []
  obtain ⟨-, -, -, -, hserved, -⟩ := hline []
  have hprompt := (hserved rfl rfl (by decide) rfl (by decide)).1 rfl
  have hsame := Host.Outcome.next.inj (exec_twiuriLine_strayHolder.symm.trans hprompt)
  have hout : strayHolder.out ++ [.uart (lineOf (ascii "! HEADLESS") ++ ascii "tw- ")] = strayHolder.out ++ [.uart prompt] :=
    congrArg State.out hsame
  obtain ⟨hbytes, -⟩ := List.cons.inj (List.append_cancel_left hout)
  exact headless_text_ne_prompt (Output.uart.inj hbytes)

end Sys2Proof.Machine

/-! SUPPORT. The Twiuri monitor's commands, as the lease holder (R443, R445, R446). -/
namespace Sys2Proof.Machine

/-- A command acts as `u`, or waits as a whole where one of its accesses meets a held target. -/
def State.Acts (s : State) (o : Out) (u : State) : Prop :=
  (u.tst.shedQ = s.tst.shedQ → o = .next u) ∧
    (u.tst.shedQ ≠ s.tst.shedQ → ∃ i, o = .next (s.modTst (fun x => { x with mon := some i })))

/-- Foreman `h` serves the monitor, and no command waits. -/
structure Serves (s : State) (h : Nat) : Prop where
  unheld : s.jtag.frozen = false
  holder : s.holderId = some h
  unshed : s.fmn.shed = 0
  free : s.tst.mon = none

section
variable {s u : State} {h : Nat}

/-! ### How a command is served -/

theorem holderId_cases (hh : s.holderId = some h) : BitVec.ofNat 8 h = 64 ∨ BitVec.ofNat 8 h = 65 := by
  unfold State.holderId at hh
  split at hh
  · exact .inl (Option.some.inj hh ▸ rfl)
  · split at hh
    · exact .inr (Option.some.inj hh ▸ rfl)
    · cases hh

/-- A command that may be served runs with the holder's ID. -/
theorem Serves.tw (hs : Serves s h) {w ok : Bool} (hw : w = true → s.rb 0x60040 0 = true) (hok : ok = true) (f : Mid → State → State) :
    s.tw w ok f = f (BitVec.ofNat 8 h) s := by
  have hwren : ¬ (w && !s.rb (tstA 0x40) 0) = true := fun hc => by
    obtain ⟨hc, hno⟩ := (Bool.and_eq_true _ _).mp hc
    have hyes : s.rb (tstA 0x40) 0 = true := hw hc
    rw [hyes] at hno
    cases hno
  unfold State.tw
  rw [if_neg (by simp [hs.unheld]), hs.holder]
  dsimp only
  rw [if_neg (by simp [hs.unshed]), if_neg hwren, if_neg (by simp [hok])]

theorem Serves.tw_read (hs : Serves s h) {ok : Bool} (hok : ok = true) (f : Mid → State → State) : s.tw false ok f = f (BitVec.ofNat 8 h) s :=
  hs.tw (w := false) (fun hc => absurd hc Bool.false_ne_true) hok f

theorem Serves.tw_write (hs : Serves s h) (hw : s.rb 0x60040 0 = true) {ok : Bool} (hok : ok = true) (f : Mid → State → State) :
    s.tw true ok f = f (BitVec.ofNat 8 h) s := hs.tw (fun _ => hw) hok f

/-- A command whose effect is `u` acts as `u`. -/
theorem Serves.acts (hs : Serves s h) {i : MonCmd} (hu : s.twDo i = u) : s.Acts (.next (s.mon i)) u := by
  have hmon : ¬ s.tst.mon.isSome = true := by simp [hs.free]
  subst hu
  unfold State.mon State.monRun
  rw [if_neg hmon]
  exact ⟨fun hq => congrArg Host.Outcome.next (if_pos hq), fun hq => ⟨i, congrArg Host.Outcome.next (if_neg hq)⟩⟩

theorem shedQ_say (bs : List Byte) : (s.say bs).tst.shedQ = s.tst.shedQ := congrArg Test.shedQ (State.emit_tst _ _)

/-! ### Reads and what they print -/

theorem length_twReads (m : Mid) (l : List Nat) : (twReads m l s).2.1.length = l.length := by
  induction l generalizing s with
  | nil => rfl
  | cons a t ih => exact congrArg (· + 1) ih

/-- Up to four words go out as one line. -/
theorem fours_short {n : Nat} {l : List Word} (hne : l ≠ []) (hle : l.length ≤ 4) : fours (n + 1) l = [l] := by
  obtain ⟨x, xs, rfl⟩ := List.exists_cons_of_ne_nil hne
  have hrest : fours n [] = [] := by cases n <;> rfl
  rw [fours, List.drop_eq_nil_of_le hle, List.take_of_length_le hle, hrest]
  exact fun hc => nomatch hc

theorem Serves.rd (hs : Serves s h) (addr : BitVec 26) {n : Nat} (hlo : 1 ≤ n) (hhi : n ≤ 4) :
    s.twRd addr.toNat n = s.twPrint (BitVec.ofNat 8 h) ((List.range n).map (fun i => addr.toNat + 4 * i)) := by
  have hok : (bar0Ok addr.toNat && decide (1 ≤ n ∧ n ≤ 64)) = true := by simp [bar0Ok, addr.isLt]; omega
  have hlen := length_twReads (s := s) (BitVec.ofNat 8 h) ((List.range n).map (fun i => addr.toNat + 4 * i))
  rw [List.length_map, List.length_range] at hlen
  have hne : (twReads (BitVec.ofNat 8 h) ((List.range n).map (fun i => addr.toNat + 4 * i)) s).2.1 ≠ [] := fun hc => by
    rw [hc] at hlen
    exact absurd hlen (by simp; omega)
  refine (hs.tw_read hok _).trans ?_
  dsimp only
  rw [fours_short hne (by omega)]
  rfl

/-- A dump from beyond the last record prints none. -/
theorem Serves.dump_beyond (hs : Serves s h) {n : Nat} (hlo : 1 ≤ n) (hhi : n ≤ 4096) (hend : s.tst.trace.length ≤ s.rf 0x60074 0 12) :
    s.twDump n = s.sayEnd "OK" := by
  have hnone : ¬ s.rf (tstA 0x74) 0 12 < s.tst.trace.length := Nat.not_lt.mpr hend
  refine (hs.tw_read (decide_eq_true ⟨hlo, hhi⟩) _).trans ?_
  refine congrArg (State.sayEnd · "OK") (seqAll_fixed _ fun _ => ?_)
  exact if_neg hnone

/-- A dump of one record prints its words. -/
theorem Serves.dump_one (hs : Serves s h) (hin : s.rf 0x60074 0 12 < s.tst.trace.length) :
    s.twDump 1 = ((twReads (BitVec.ofNat 8 h) [0x60078, 0x6007C, 0x60080, 0x60084] s).1.emit
      (.uartWords (twReads (BitVec.ofNat 8 h) [0x60078, 0x6007C, 0x60080, 0x60084] s).2.1)).sayEnd "OK" := by
  have hsome : s.rf (tstA 0x74) 0 12 < s.tst.trace.length := hin
  refine (hs.tw_read (by decide) _).trans (congrArg (State.sayEnd · "OK") ?_)
  exact if_pos hsome

theorem w32_toNat (v : Word) : w32 v.toNat = v := by simp [w32]

theorem Serves.wr (hs : Serves s h) (hw : s.rb 0x60040 0 = true) (addr : BitVec 26) (v : Word) :
    s.twWr addr.toNat v.toNat = (s.busWrite (BitVec.ofNat 8 h) addr.toNat 4 (v.setWidth 64)).sayEnd "OK" := by
  rw [← BitVec.ofNat_toNat]
  exact hs.tw_write hw (by simp [bar0Ok, addr.isLt, v.isLt]) _

/-- A set that read its word writes it with the bits of the mask replaced. -/
theorem Serves.set (hs : Serves s h) (hw : s.rb 0x60040 0 = true) (addr : BitVec 26) (mask v : Word) :
    s.twSet addr.toNat mask.toNat v.toNat =
      if (s.busRead (BitVec.ofNat 8 h) addr.toNat 4).resp.status = .ok then
        ((s.busRead (BitVec.ofNat 8 h) addr.toNat 4).busWrite (BitVec.ofNat 8 h) addr.toNat 4
          ((((s.busRead (BitVec.ofNat 8 h) addr.toNat 4).resp.data.setWidth 32 &&& ~~~mask) ||| (v &&& mask)).setWidth 64)).sayEnd "OK"
      else s.twPrint (BitVec.ofNat 8 h) [addr.toNat] := by
  refine (hs.tw_write hw (by simp [bar0Ok, addr.isLt, mask.isLt, v.isLt]) _).trans ?_
  have hread : twReads (BitVec.ofNat 8 h) [addr.toNat] s = (s.busRead (BitVec.ofNat 8 h) addr.toNat 4,
      [(s.busRead (BitVec.ofNat 8 h) addr.toNat 4).resp.data.setWidth 32],
      if (s.busRead (BitVec.ofNat 8 h) addr.toNat 4).resp.status = .ok then .ok else (s.busRead (BitVec.ofNat 8 h) addr.toNat 4).resp.status) := rfl
  unfold State.twPrint
  dsimp only
  rw [hread, w32_toNat, w32_toNat]
  by_cases hok : (s.busRead (BitVec.ofNat 8 h) addr.toNat 4).resp.status = .ok
  · rw [if_pos hok, if_pos hok, if_pos rfl]
    rfl
  · rw [if_neg hok, if_neg hok]
    dsimp only
    rw [if_neg hok]

/-! ### id reads four registers that a read leaves as they are -/

/-- A register of the control pages that shows its word, whatever the state. -/
structure Plain (a : Nat) : Prop where
  control : targetOf a = some .regc
  window : windowOf a = none
  aligned : a % 4 = 0
  listed : (locate a).isSome = true
  effectless : ∀ (t : State) (m : Mid), (t.readReg m a).2 = t

theorem State.readReg_plain {a i o : Nat} {b : Blk} (hloc : locate a = some (b, i, o)) (heff : ∀ (t : State) (m : Mid), t.readEffect m a b i o = none)
    (m : Mid) : (s.readReg m a).2 = s := by
  unfold State.readReg
  rw [hloc]
  dsimp only
  rw [heff]

theorem plain_glb {o : Nat} (ho : o ∈ [0, 0x40, 0x44]) : Plain o := by
  simp only [List.mem_cons, List.not_mem_nil, or_false] at ho
  rcases ho with rfl | rfl | rfl
  · exact ⟨by decide, by decide, by decide, by decide, fun t m => State.readReg_plain (b := .glb) (i := 0) (o := 0) (by decide) (fun _ _ => rfl) m⟩
  · exact ⟨by decide, by decide, by decide, by decide, fun t m => State.readReg_plain (b := .glb) (i := 0) (o := 0x40) (by decide) (fun _ _ => rfl) m⟩
  · exact ⟨by decide, by decide, by decide, by decide, fun t m => State.readReg_plain (b := .glb) (i := 0) (o := 0x44) (by decide) (fun _ _ => rfl) m⟩

theorem plain_self (b : Bool) : Plain (selfA b) := by
  cases b
  · exact ⟨by decide, by decide, by decide, by decide, fun t m => State.readReg_plain (b := .fmn) (i := 0) (o := 0xA0) (by decide) (fun _ _ => rfl) m⟩
  · exact ⟨by decide, by decide, by decide, by decide, fun t m => State.readReg_plain (b := .fmn) (i := 0) (o := 0xA4) (by decide) (fun _ _ => rfl) m⟩

/-- The holder's read of such a register is served, waits, or finds the domain off. -/
theorem Plain.gate {a : Nat} (ha : Plain a) {m : Mid} (hm : m = 64 ∨ m = 65) :
    s.gate m a 4 false = .quiet ∨ s.gate m a 4 false = .wait ∨ s.gate m a 4 false = .go := by
  obtain ⟨hctl, -, hal, hlisted, -⟩ := ha
  have hhost : ¬ (m = 66 ∧ s.inWarmWindow = true ∧ ¬ warmOpen a = true) := fun hc => by rcases hm with rfl | rfl <;> cases hc.1
  have hpath : connected m.toNat .regc = true := by rcases hm with rfl | rfl <;> rfl
  unfold State.gate
  by_cases hon : s.pwr.cdpOn = true
  · rw [if_neg (not_not_intro hon), Bool.false_and, if_neg Bool.false_ne_true, if_neg hhost, hctl]
    dsimp only
    have hloc : ¬ (locate (a - a % 4)).isNone = true := by rw [hal, Nat.sub_zero, ← Option.not_isSome, hlisted]; decide
    rw [if_neg (not_not_intro hpath), if_neg (by omega), if_neg (by simp), if_neg hloc]
    split
    · exact .inr (.inl rfl)
    · exact .inr (.inr rfl)
  · exact .inl (if_pos hon)

/-- What a read of such a register by the holder leaves as it is. -/
theorem Plain.busRead {a : Nat} (ha : Plain a) {m : Mid} (hm : m = 64 ∨ m = 65) :
    (s.busRead m a 4).out = s.out ∧ (s.busRead m a 4).fmn = s.fmn := by
  have hhost : m ≠ 66 := by rcases hm with rfl | rfl <;> decide
  rw [State.busRead_word hhost, State.busRead1, State.access]
  rcases ha.gate (s := s) hm with hg | hg | hg <;> rw [hg]
  · exact ⟨rfl, rfl⟩
  · exact ⟨rfl, rfl⟩
  · dsimp only
    rw [State.readHere, if_neg (by rw [ha.window]; exact Bool.false_ne_true)]
    dsimp only
    rw [ha.aligned, Nat.sub_zero, ha.effectless]
    exact ⟨rfl, rfl⟩

theorem twReads_plain {m : Mid} (hm : m = 64 ∨ m = 65) {l : List Nat} (hl : ∀ a ∈ l, Plain a) :
    (twReads m l s).1.out = s.out ∧ (twReads m l s).1.fmn = s.fmn := by
  induction l generalizing s with
  | nil => exact ⟨rfl, rfl⟩
  | cons a t ih =>
    obtain ⟨ha, ht⟩ := List.forall_mem_cons.mp hl
    obtain ⟨hout, hfmn⟩ := ha.busRead (s := s) hm
    obtain ⟨hout', hfmn'⟩ := ih (s := s.busRead m a 4) ht
    exact ⟨hout'.trans hout, hfmn'.trans hfmn⟩

theorem twReads_jtag (m : Mid) (l : List Nat) : (twReads m l s).1.jtag = s.jtag := by
  induction l generalizing s with
  | nil => rfl
  | cons a t ih => exact ih.trans (State.busRead_jtag m a 4)

/-- Where the boundary register lets the lands go, what leaves by them goes out. -/
theorem State.emit_unfrozen (o : Output) (hf : s.jtag.frozen = false) : s.emit o = { s with out := s.out ++ [o] } := if_neg (by simp [hf])

theorem State.print_out (ws : List Word) (line : String) (hf : s.jtag.frozen = false) :
    ((s.emit (.uartWords ws)).sayEnd line).out = s.out ++ [.uartWords ws, .uart (lineOf (ascii line) ++ prompt)] := by
  have hfree : ({ s with out := s.out ++ [.uartWords ws] } : State).jtag.frozen = false := hf
  rw [State.emit_unfrozen _ hf, State.sayEnd, State.say, State.emit_unfrozen _ hfree, List.append_assoc]
  rfl

theorem State.print_fmn (ws : List Word) (line : String) : ((s.emit (.uartWords ws)).sayEnd line).fmn = s.fmn := by
  rw [State.sayEnd, State.say, State.emit_fmn, State.emit_fmn]

/-- Bits [15:0] alone are fewer than 2^16. -/
theorem and_low_lt (w : Word) : (w &&& 0xFFFF).toNat < 65536 := by
  rw [BitVec.toNat_and]
  exact Nat.lt_of_le_of_lt Nat.and_le_right (by decide)

/-- The registers that id reads. -/
def State.idRegs (s : State) : List Nat := [0, 0x44, 0x40, s.holderSelf]

theorem State.plain_idRegs : ∀ a ∈ s.idRegs, Plain a := by
  simp only [State.idRegs, List.forall_mem_cons, List.not_mem_nil, false_implies, implies_true, and_true]
  exact ⟨plain_glb (by decide), plain_glb (by decide), plain_glb (by decide), plain_self _⟩

/-- id ends with the holder and its generation. -/
theorem Serves.ident (hs : Serves s h) : ∃ t l, s.Acts (exec .twId s) t ∧ t.out = s.out ++ l ∧ t.fmn = s.fmn ∧
    ∃ a b c d, .uartWords [a, b, c, d, w32 s.fmn.holder, s.fmn.gen] ∈ l ∧ d.toNat < 65536 := by
  have hm := holderId_cases hs.holder
  obtain ⟨hout, hfmn⟩ := twReads_plain (s := s) hm State.plain_idRegs
  have hfree : (twReads (BitVec.ofNat 8 h) s.idRegs s).1.jtag.frozen = false := by rw [twReads_jtag, hs.unheld]
  obtain ⟨a, b, c, d, hwords⟩ : ∃ a b c d, (twReads (BitVec.ofNat 8 h) s.idRegs s).2.1 = [a, b, c, d] := ⟨_, _, _, _, rfl⟩
  have hdo : s.twId = ((twReads (BitVec.ofNat 8 h) s.idRegs s).1.emit (.uartWords
      [a, b, c, d &&& 0xFFFF, w32 (twReads (BitVec.ofNat 8 h) s.idRegs s).1.fmn.holder, (twReads (BitVec.ofNat 8 h) s.idRegs s).1.fmn.gen])).sayEnd
        (endLine (twReads (BitVec.ofNat 8 h) s.idRegs s).2.2) := by
    rw [hfmn, State.twId, hs.tw_read rfl]
    show ((twReads (BitVec.ofNat 8 h) s.idRegs s).1.emit (.uartWords ((twReads (BitVec.ofNat 8 h) s.idRegs s).2.1.set 3
      (((twReads (BitVec.ofNat 8 h) s.idRegs s).2.1.getD 3 0) &&& 0xFFFF) ++ [w32 s.fmn.holder, s.fmn.gen]))).sayEnd _ = _
    rw [hwords]
    rfl
  rw [hfmn] at hdo
  refine ⟨_, _, hs.acts (i := .ident) hdo, (State.print_out _ _ hfree).trans (congrArg (· ++ _) hout), ?_, a, b, c, d &&& 0xFFFF,
    List.mem_cons_self .., and_low_lt d⟩
  rw [State.print_fmn, hfmn]

/-! ### The commands that print registers -/

theorem Serves.help (hs : Serves s h) : s.twHelp = (s.say (lineOf helpText)).sayEnd "OK" := hs.tw_read rfl _

theorem Serves.lane (hs : Serves s h) {p n : Nat} (hp : p < 8) (hn : n < 64) :
    s.twLane p n = s.twPrint (BitVec.ofNat 8 h) ([0x44, 0x4C, 0x60, 0x68, 0x6C].map (lnA (64 * p + n))) :=
  hs.tw_read (decide_eq_true ⟨hp, hn⟩) _

/-- What skein prints: the words of the skein, then its bit of each defect register. -/
def State.skeinPrint (s : State) (m : Mid) (l k : Nat) : State :=
  let r := twReads m ([0xC4, 0xC8, 0xCC, 0xD0].map (lnA l) ++ (List.range 5).map (fun d => lnA l (0x100 + 0x20 * d + k / 32 * 4)))
    (s.busWrite m (lnA l 0xC0) 4 ((w32 k).setWidth 64))
  (r.1.emit (.uartWords (r.2.1.take 4 ++ (r.2.1.drop 4).map (fun w => w32 (bit w (k % 32)).toNat)))).sayEnd (endLine r.2.2)

theorem Serves.skein (hs : Serves s h) {p n k : Nat} (hp : p < 8) (hn : n < 64) (hk : k < 160) :
    s.twSkein p n k = s.skeinPrint (BitVec.ofNat 8 h) (64 * p + n) k :=
  hs.tw_read (by simp [laneArg, hp, hn, hk]) _

theorem Serves.prot (hs : Serves s h) {g : Nat} (hg : g < 8192) : s.twProt g =
    s.twPrint (BitVec.ofNat 8 h) ((List.range 8).map (fun i => recA g (4 * i)) ++ (List.range 4).map (fun i => apsA g (4 * i))) :=
  hs.tw_read (decide_eq_true hg) _

theorem Serves.beat (hs : Serves s h) : s.twBeat =
    s.twPrint (BitVec.ofNat 8 h) ([0x44, 0x78, 0x80].map beatA ++ (s.beat.sel.toList.map (fun c => beatA (0x200 + 4 * c)))) :=
  hs.tw_read rfl _

theorem Serves.fmn (hs : Serves s h) : s.twFmn = s.twPrint (BitVec.ofNat 8 h) ([0x44, 0x48, 0x74, 0x64].map fmnA) := hs.tw_read rfl _

theorem Serves.wvr (hs : Serves s h) {w : Nat} (hw : w < 64) : s.twWvr w = s.twPrint (BitVec.ofNat 8 h) ([0x44, 0x58, 0x6C].map (wvrA w)) :=
  hs.tw_read (decide_eq_true hw) _

theorem Serves.hdl (hs : Serves s h) {map page port index : Nat} (hok : map < 3 ∧ page < 2 ∧ port < 9 ∧ index < 2 ^ 14) :
    s.twHdl map page port index =
      (((s.busWrite (BitVec.ofNat 8 h) 0x801040 4 ((w32 (map + page * 4 + port * 16 + index * 256)).setWidth 64)).busWrite (BitVec.ofNat 8 h)
        0x801044 4 1).hdlReadDone).twPrint (BitVec.ofNat 8 h) [0x80104C, 0x801050, 0x801054] :=
  hs.tw_read (decide_eq_true hok) _

/-- TLY_CSEL as tally writes it. -/
def tallySel (c i t : Nat) (sh : Bool) : Word := w32 (i + c * 2 ^ 18 + t * 2 ^ 21 + sh.toNat * 2 ^ 25)

theorem Serves.tally (hs : Serves s h) {c i t : Nat} (sh : Bool) (hctr : ctrOk c i t = true) (hin : i < 2 ^ 18 ∧ c < 8 ∧ t < 15) :
    s.twTally c i t sh = (((s.busWrite (BitVec.ofNat 8 h) (tlyA 0x44) 4 ((tallySel c i t sh).setWidth 64)).busWrite (BitVec.ofNat 8 h)
      (tlyA 0x48) 4 1).tlyReadDone (tallySel c i t sh)).twPrint (BitVec.ofNat 8 h) [tlyA 0x50, tlyA 0x54, tlyA 0x58] :=
  hs.tw_read (by rw [hctr, decide_eq_true hin]; rfl) _

/-! ### The commands that write registers -/

/-- The TAG of the monitor's next command. -/
def State.monTag (s : State) : Nat := 0xF000 + s.tst.n % 4096

/-- The eight words of a command in window D. -/
def State.windowPut (s : State) (m : Mid) (fe : Bool) (ws : List Word) : State :=
  s.twWrites m ((setFld (setFld (ws.headD 0) 10 2 1) 16 16 s.monTag :: ws.drop 1).mapIdx (fun i w => (engA fe (0x160 + 4 * i), w)))

theorem Serves.cmd (hs : Serves s h) (hw : s.rb 0x60040 0 = true) (fe : Bool) {ws : List Word} (hlen : ws.length = 8) :
    s.twCmd fe ws = (s.windowPut (BitVec.ofNat 8 h) fe ws).modTst (fun t =>
      { t with n := (t.n + 1) % 4096, wait := some (!fe, BitVec.ofNat 16 s.monTag, s.bolt) }) :=
  hs.tw_write hw (decide_eq_true hlen) _

theorem Serves.trace (hs : Serves s h) (hw : s.rb 0x60040 0 = true) (v : Word) :
    s.twTrace v = (s.busWrite (BitVec.ofNat 8 h) 0x6006C 4 (v.setWidth 64)).sayEnd "OK" := hs.tw_write hw rfl _

/-- reset writes the key, then the command. -/
theorem Serves.reset (hs : Serves s h) (hw : s.rb 0x60040 0 = true) (kind : Nat) :
    s.twReset kind = (s.busWrite (BitVec.ofNat 8 h) 0x80 4 0x7E57).busWrite (BitVec.ofNat 8 h) 0x84 4 ((w32 kind).setWidth 64) :=
  hs.tw_write hw rfl _

theorem Serves.baud (hs : Serves s h) (hw : s.rb 0x60040 0 = true) {code : Nat} (hcode : code < 8) :
    s.twBaud code = (s.sayEnd "OK").busWrite (BitVec.ofNat 8 h) 0x60040 4 ((setFld (s.reg 0x60040) 4 3 code).setWidth 64) :=
  hs.tw_write hw (decide_eq_true hcode) _

theorem Serves.lock (hs : Serves s h) (hw : s.rb 0x60040 0 = true) :
    s.twLock = (s.busWrite (BitVec.ofNat 8 h) 0x60040 4 ((setBit (s.reg 0x60040) 0 false).setWidth 64)).sayEnd "OK" :=
  hs.tw_write hw rfl _

end

/-- Settles O56: each command is served, and what it does is its definition read out. -/
theorem twiuriCommands : Obligations.TwiuriCommands := by
  intro s h hfrozen hholder hshed hmon acts m prints wren
  have hs : Serves s h := ⟨hfrozen, hholder, hshed, hmon⟩
  refine ⟨holderId_cases hholder, fun u a l => ⟨rfl, rfl⟩, ?help, hs.ident, fun addr n hlo hhi => hs.acts (i := .rd _ _) (hs.rd addr hlo hhi),
    fun p n hp hn => ⟨hs.acts (i := .lane _ _) (hs.lane hp hn), fun k hk => hs.acts (i := .skein _ _ _) (hs.skein hp hn hk)⟩,
    fun g hg => hs.acts (i := .prot _) (hs.prot hg), hs.acts (i := .beat) hs.beat, hs.acts (i := .fmn) hs.fmn,
    fun w hw => hs.acts (i := .wvr _) (hs.wvr hw),
    fun map page port index hmap hpage hport hindex => hs.acts (i := .hdl _ _ _ _) (hs.hdl ⟨hmap, hpage, hport, hindex⟩),
    fun c i t sh hctr hi hc ht => hs.acts (i := .tally _ _ _ _) (hs.tally sh hctr ⟨hi, hc, ht⟩),
    fun n hlo hhi hend => hs.acts (i := .dump _) (hs.dump_beyond hlo hhi hend), fun hin => hs.acts (i := .dump _) (hs.dump_one hin),
    fun hw => ⟨fun addr v => hs.acts (i := .wr _ _) (hs.wr hw addr v), fun addr mask v => ⟨fun hok => ?setOk, fun hbad => ?setBad⟩,
    fun ws hlen => ⟨hs.acts (i := .cmd _ _) (hs.cmd hw false hlen), hs.acts (i := .cmd _ _) (hs.cmd hw true hlen)⟩,
    hs.acts (i := .trace _) (hs.trace hw 1), hs.acts (i := .trace _) (hs.trace hw 2), hs.acts (i := .trace _) (hs.trace hw 4),
    hs.acts (i := .reset _) (hs.reset hw 1), hs.acts (i := .reset _) (hs.reset hw 2), hs.acts (i := .reset _) (hs.reset hw 3),
    fun code hcode => hs.acts (i := .baud _) (hs.baud hw hcode), hs.acts (i := .lock) (hs.lock hw)⟩⟩
  case help =>
    have hq : ((s.say (lineOf helpText)).sayEnd "OK").tst.shedQ = s.tst.shedQ := by rw [State.sayEnd, shedQ_say, shedQ_say]
    exact (hs.acts (i := .help) hs.help).1 hq
  case setOk => exact hs.acts (i := .put _ _ _) ((hs.set hw addr mask v).trans (if_pos hok))
  case setBad => exact hs.acts (i := .put _ _ _) ((hs.set hw addr mask v).trans (if_neg hbad))

end Sys2Proof.Machine

/-! SUPPORT. A host read that crosses a block of 8 bytes: its size and address are no access of the front end's, but the host link divides it into
two that are (R365, R401). -/
namespace Sys2Proof.Machine

/-- The front end knows no read of two bytes from an odd address. -/
theorem gate_hostRead_odd : State.reset.gate 66 0x1000007 2 false = .err .size := by decide +kernel

/-- Divided into byte 7 of one block and byte 0 of the next, the read is answered. -/
theorem exec_bankRead_divided {t : State} (h : exec (.bankRead 66 7 2) State.reset = .next t) : t.resp.status = .ok := by
  obtain rfl := Host.Outcome.next.inj h
  decide +kernel

/-- Refutes O23: a read of the host from the direct window is divided block by block before the front end sees it, so the two bytes from offset 7
are read with status OK, where the statement has the decode error of one access of that size and address. -/
theorem not_accessesThatDoNotReach : ¬ Obligations.AccessesThatDoNotReach := by
  intro h
  obtain ⟨-, -, herr, -⟩ := h (.bankRead 66 7 2) 66 0x1000007 2 false State.reset rfl (.inl (by decide)) rfl
  obtain ⟨t, ht, hresp, -⟩ := herr .size gate_hostRead_odd
  exact absurd ((congrArg Resp.status hresp).symm.trans (exec_bankRead_divided ht)) (by decide)

end Sys2Proof.Machine

/-! SUPPORT. The first step of a handover: the checkpoint is written and the standby told of it, which clears its READY; the lease's release is
asked for in a later step, once the standby is READY again (R320). -/
namespace Sys2Proof.Machine

section
variable {s : State}

/-- A change of the module's part of the Foremen's state. -/
theorem State.fm_modFmn_keeping {t : State} {g : Fmn → Fmn} (hfmn : t.fmn = s.fmn) (ha : (g s.fmn).a = s.fmn.a) (hb : (g s.fmn).b = s.fmn.b)
    (c : Bool) : (t.modFmn g).fm c = s.fm c := by
  cases c
  · exact (congrArg (fun f => (g f).a) hfmn).trans ha
  · exact (congrArg (fun f => (g f).b) hfmn).trans hb

/-- A checkpoint changes no Foreman: it waits, or its bytes are written and its copy is noted. -/
theorem State.fm_ckptWrite (c : Bool) : s.ckptWrite.fm c = s.fm c := by
  unfold State.ckptWrite
  split
  · rfl
  · next h _ =>
    have hbytes (a : Nat) (bs : List Byte) : (s.freeVal.2.agentWrite (BitVec.ofNat 8 h) a bs false).fmn = s.fmn :=
      State.agentWrite_inv _ _ _ _ (only_closed [.regs, .bank, .bankMem, .pcie, .out] s.freeVal.2) (only_refl _ _) .fmn (by decide)
    dsimp only
    split
    all_goals
      split
      · rfl
      · exact State.fm_modFmn_keeping (hbytes _ _) rfl rfl c

/-- A quiet engine has no open batch of window B to close. -/
theorem State.bQuiet_batch {fe : Bool} (h : s.bQuiet fe = true) : ¬ ((s.eng fe).isOpen = true ∧ (s.eng fe).owner = 1) := by
  rintro ⟨hopen, howner⟩
  simp [State.bQuiet, hopen, howner] at h

/-- A handover that begins. -/
def State.handoverBegun (s : State) (cmd : Option (Nat × Nat)) : State :=
  (s.modFmn (fun f => { f with ho := some { cmd := cmd, at_ := f.tick } })).modMbx (fun x => { x with stopTake := true })

/-- COMMIT closes an open batch of window B. -/
def State.closeB (s : State) (fe : Bool) : State :=
  if (s.eng fe).isOpen ∧ (s.eng fe).owner = 1 then (s.postOwn fe 0x08 0 0).2 else s

theorem State.closeB_quiet {fe : Bool} (h : s.bQuiet fe = true) : s.closeB fe = s := if_neg (State.bQuiet_batch h)

theorem State.handoverStart_eq (cmd : Option (Nat × Nat)) : s.handoverStart cmd = ((s.handoverBegun cmd).closeB false).closeB true := rfl

theorem State.handoverStart_quiet (cmd : Option (Nat × Nat)) (htrd : s.bQuiet false = true) (hfine : s.bQuiet true = true) :
    s.handoverStart cmd = s.handoverBegun cmd := by
  have ht : (s.handoverBegun cmd).bQuiet false = true := htrd
  have hf : (s.handoverBegun cmd).bQuiet true = true := hfine
  rw [State.handoverStart_eq, State.closeB_quiet ht, State.closeB_quiet hf]

/-- The first step of a handover to a READY standby asks neither Foreman for a release. -/
theorem State.rel_handover_first (cmd : Option (Nat × Nat)) {b : Bool} (hb : decide (s.fmn.holder = 2) = b) (hno : s.fmn.ho = none)
    (hst : (s.fm !b).st = .standby) (hready : s.ready (!b) = true) (htrd : s.bQuiet false = true) (hfine : s.bQuiet true = true) (c : Bool) :
    ((s.handover cmd).fm c).rel = (s.fm c).rel := by
  have hst' : ((s.handoverBegun cmd).fm !b).st = .standby := hst
  have hquiet : (s.handoverBegun cmd).bQuiet false = true ∧ (s.handoverBegun cmd).bQuiet true = true := ⟨htrd, hfine⟩
  have hb' : decide ((s.handoverBegun cmd).fmn.holder = 2) = b := hb
  unfold State.handover
  rw [hno]
  dsimp only
  rw [hb, if_pos ⟨hst, hready⟩, State.handoverStart_quiet cmd htrd hfine]
  show (((s.handoverBegun cmd).handoverGo _).fm c).rel = _
  unfold State.handoverGo
  dsimp only
  rw [hb', if_neg (by simp [hst']), if_neg (by decide), if_pos (by decide), if_neg (not_not_intro hquiet)]
  exact congrArg Foreman.rel (State.fm_ckptWrite (s := s.handoverBegun cmd) c)

end

/-- Foreman B holds the lease, and Foreman A, which PREFER names, has stood by, READY, for 75 x 15,625 ticks. -/
def preferredReady : State :=
  { State.reset with
    regs := [(0x300A0, 0x10000)]
    fmn := { holder := 2, a := { st := .standby, powered := true }, b := { st := .active, powered := true }, tick := 1171875 } }

/-- The return to the preferred Foreman begins. -/
theorem exec_foremanRevertWtr_begins : exec .foremanRevertWtr preferredReady = .next (preferredReady.handover none) := by
  refine congrArg Host.Outcome.next (if_pos ?_)
  decide +kernel

/-- Refutes O50: the return to the preferred Foreman begins with the checkpoint and the message to the standby, and the holder's release, which the
statement has in the same step, is still to come. -/
theorem not_foremanStates : ¬ Obligations.ForemanStates := by
  intro h
  obtain ⟨-, -, -, -, -, -, -, -, -, hrevert⟩ := h preferredReady 66 false
  obtain ⟨hdue, -⟩ := hrevert rfl
  obtain ⟨t, ht, hrel, -⟩ := hdue (by decide +kernel) rfl (by decide +kernel) rfl (by decide +kernel) (by decide +kernel) (by decide +kernel)
    (by decide +kernel)
  obtain rfl := Host.Outcome.next.inj (exec_foremanRevertWtr_begins.symm.trans ht)
  have hnone := State.rel_handover_first (s := preferredReady) none (b := true) (by decide) rfl rfl (by decide +kernel) (by decide +kernel)
    (by decide +kernel) true
  exact Option.some_ne_none _ (hrel.symm.trans hnone)

/-- Foreman A holds the lease, B stands by, READY, and HANDOVER is the command in progress of ring 3. -/
def handsOver : State :=
  { State.reset with
    regs := [(0x300A4, 0x10000)]
    fmn := { holder := 1, a := { st := .active, powered := true }, b := { st := .standby, powered := true } }
    mbx := { taken := [{ ring := 3, slot := 0, bytes := [0, 0, 0, 0, 0x40] }] } }

theorem handsOver_current : handsOver.current 3 = some { ring := 3, slot := 0, bytes := [0, 0, 0, 0, 0x40] } := by decide +kernel

/-- HANDOVER begins its handover. -/
theorem exec_handover_begins : exec (.handover 3) handsOver = .next (handsOver.handover (some (3, 0))) := by
  refine congrArg Host.Outcome.next ?_
  unfold State.serve
  rw [show handsOver.current (3 : Fin 4).val = _ from handsOver_current]
  exact if_pos (by decide +kernel)

/-- Refutes O52: HANDOVER with a READY standby and both engines quiet begins with the checkpoint and the message to the standby, and the holder's
release, which the statement has in the same step, is still to come. -/
theorem not_mailboxEngineCommands : ¬ Obligations.MailboxEngineCommands := by
  intro h
  obtain ⟨-, hserved, -⟩ := h handsOver 3
  obtain ⟨-, hhandover⟩ := hserved _ handsOver_current (by decide +kernel) rfl rfl
  obtain ⟨-, hfirst⟩ := hhandover (by decide)
  obtain ⟨-, hready⟩ := hfirst rfl rfl
  obtain ⟨t, ht, hrel, -⟩ := hready rfl (by decide +kernel) (by decide +kernel) (by decide +kernel)
  obtain rfl := Host.Outcome.next.inj (exec_handover_begins.symm.trans ht)
  have hnone := State.rel_handover_first (s := handsOver) (some (3, 0)) (b := false) (by decide) rfl rfl (by decide +kernel) (by decide +kernel)
    (by decide +kernel) false
  exact Option.some_ne_none _ (hrel.symm.trans hnone)

end Sys2Proof.Machine

/-! SUPPORT. A lane in facility loopback out of SYNC: its management cells reach no channel, but go back on the line (R40, R41, R58). -/
namespace Sys2Proof.Machine

theorem exec_mgmtMessageRx_unsynced {s : State} {l : Fin 512} {cell : List Byte} (hc : cellRunOk 64 ⟨0, [cell]⟩ = true)
    (ha : s.awake (l.val / 64) = true) (hl : s.ownStream l.val = false) (hs : (s.lane l.val).framer ≠ .sync) :
    exec (.mgmtMessageRx l ⟨0, [cell]⟩) s = .next (s.loopPut l.val (cellPos 32) (.cell l.val 32 cell)) := by
  have hrun : s.mgmtCells l.val ⟨0, [cell]⟩ = s.loopPut l.val (cellPos 32) (.cell l.val 32 cell) := State.cellsIn_unsynced 32 _ _ ha hl hs
  have hexec : exec (.mgmtMessageRx l ⟨0, [cell]⟩) s = .next (s.mgmtCells l.val ⟨0, [cell]⟩) := if_neg (not_not_intro hc)
  exact hexec.trans (congrArg Host.Outcome.next hrun)

/-- Refutes O51: a looped lane out of SYNC is to send the received cells of the management channel back as they come (R58), so they do not leave the
state as it is; the clause on lanes out of SYNC does not except looped ones. -/
theorem not_mailboxCommands : ¬ Obligations.MailboxCommands := by
  intro h
  have hrun : cellRunOk 64 ⟨0, [idleCell]⟩ = true := by decide +kernel
  have hunts : (loopedHunt.lane 0).framer ≠ .sync := by decide +kernel
  obtain ⟨-, -, -, -, -, hcells, -⟩ := h loopedHunt 66 0 0
  obtain ⟨-, hunsynced, -⟩ := hcells 0 ⟨0, [idleCell]⟩ []
  have hstays := hunsynced hrun (.inr (.inr hunts))
  rw [exec_mgmtMessageRx_unsynced hrun (by decide +kernel) (by decide +kernel) hunts] at hstays
  injection hstays with hsame
  exact State.loopPut_ne (l := 0) _ _ (by decide +kernel) (by decide +kernel) hsame

end Sys2Proof.Machine

/-! SUPPORT. What the lease service's own state and registers survive: messages turned away, buffers returned, batches dropped, trace records, roles
assigned (R290, R314, R357, R84, R456, R282). -/
namespace Sys2Proof.Machine

/-! ### The lease's state and registers -/

/-- A Foreman without its inbox. -/
def Foreman.served (f : Foreman) : Foreman := { f with inbox := [] }

/-- The Foremen's state without what serving messages and assigning roles changes: the inboxes, the shed level, the roles. -/
def Fmn.lease (f : Fmn) : Fmn := { f with a := f.a.served, b := f.b.served, shed := 0, rolesLeft := [], roleBanks := [] }

/-- A Foreman without its inbox, what is pending of it, and the tick of its last renewal. -/
def Foreman.standing (f : Foreman) : Foreman := { f.served with renewAt := 0, claim := false, renew := none, rel := none }

/-- The lease's state without REMAIN and what is pending. -/
def Fmn.standing (f : Fmn) : Fmn := { f.lease with remain := 0, a := f.a.standing, b := f.b.standing }

/-- The bolt number, and the registers of the Foremen's page from FMN_IRQ_RAW on. -/
def leaseReg (a : Nat) : Prop := a = 0x20080 ∨ (0x30010 ≤ a ∧ a < 0x30100)

/-- Power in range, the CDP domain on, a thermal trip. -/
def Pwr.supply (p : Pwr) : Bool × Bool × Bool := (p.inRange, p.cdpOn, p.tripped)

/-- What a view shows, two states with the same view have in common. -/
theorem eq_of_view {σ α : Type} {view : σ → σ} {x y : σ} (h : view x = view y) (g : σ → α) (hg : ∀ f, g (view f) = g f) : g x = g y := by
  rw [← hg x, h, hg y]

/-- What `view` shows of the Foremen's state is kept, and so are their registers, but for causes raised. -/
structure Keeps (view : Fmn → Fmn) (s t : State) : Prop where
  fmn : view t.fmn = view s.fmn
  reg : ∀ a, leaseReg a → a ≠ 0x30010 → t.reg a = s.reg a
  raw : ∀ i, bit (s.reg 0x30010) i = true → bit (t.reg 0x30010) i = true
  supply : t.pwr.supply = s.pwr.supply

section
variable {view : Fmn → Fmn} {s t u : State}

theorem Keeps.refl (s : State) : Keeps view s s := ⟨rfl, fun _ _ _ => rfl, fun _ h => h, rfl⟩

theorem Keeps.trans (h : Keeps view s t) (k : Keeps view t u) : Keeps view s u :=
  ⟨k.fmn.trans h.fmn, fun a ha hr => (k.reg a ha hr).trans (h.reg a ha hr), fun i hi => k.raw i (h.raw i hi), k.supply.trans h.supply⟩

theorem Keeps.after (k : Keeps view t u) (h : Keeps view s t) : Keeps view s u := h.trans k

theorem Keeps.ite {c : Prop} [Decidable c] (h : Keeps view s t) (k : Keeps view s u) : Keeps view s (if c then t else u) := inv_ite h k

theorem Keeps.of_reg (hfmn : view t.fmn = view s.fmn) (hpwr : t.pwr.supply = s.pwr.supply) (hreg : ∀ a, leaseReg a → t.reg a = s.reg a) :
    Keeps view s t :=
  ⟨hfmn, fun a ha _ => hreg a ha, fun i hi => by rw [hreg _ (.inr (by decide))]; exact hi, hpwr⟩

theorem Keeps.of_only {P : List Part} (h : only P s t) (hfmn : Part.fmn ∉ P) (hpwr : Part.pwr ∉ P)
    (hreg : ∀ a, leaseReg a → t.reg a = s.reg a) : Keeps view s t :=
  .of_reg (congrArg view (h .fmn hfmn)) (congrArg Pwr.supply (h .pwr hpwr)) hreg

/-- A part of the state that is neither the Foremen's, nor power, nor registers. -/
theorem Keeps.of_parts {P : List Part} (h : only P s t) (hfmn : Part.fmn ∉ P) (hpwr : Part.pwr ∉ P) (hregs : Part.regs ∉ P) : Keeps view s t :=
  .of_only h hfmn hpwr fun a _ => congrArg (smGet (resetOf a) · a) (h .regs hregs)

/-- The parts that hold what `Keeps` speaks of are the same. -/
theorem Keeps.of_eq (hfmn : view t.fmn = view s.fmn) (hpwr : t.pwr.supply = s.pwr.supply) (hregs : t.regs = s.regs) : Keeps view s t :=
  .of_reg hfmn hpwr fun a _ => congrArg (smGet (resetOf a) · a) hregs

theorem Keeps.setReg {a : Nat} (v : Word) (ha : ¬ leaseReg a) : Keeps view s (s.setReg a v) :=
  .of_reg rfl rfl fun _ hb => s.reg_setReg_other v fun he => ha (he ▸ hb)

theorem Keeps.incReg {a : Nat} (k : Nat) (ha : ¬ leaseReg a) : Keeps view s (s.incReg a k) := .setReg _ ha

/-- An event raises causes of its own page. -/
theorem Keeps.irq {p : Nat} (b : Nat) (hp : p = fmnA 0 ∨ ¬ leaseReg (p + 0x10)) : Keeps view s (s.irq p b) where
  fmn := by rw [State.irq_fmn]
  reg a ha hr := by
    rcases hp with rfl | hp
    · exact s.irq_reg_other hr
    · exact s.irq_reg_other fun he => hp (he ▸ ha)
  raw _ hi := s.bit_irq_kept p b hi
  supply := by rw [State.irq_pwr]

theorem Keeps.seqAll {α : Type} {f : α → State → State} (l : List α) (hf : ∀ x s, Keeps view s (f x s)) : Keeps view s (seqAll f l s) :=
  seqAll_inv f l (.refl s) fun x t ht => ht.trans (hf x t)

theorem Keeps.when {c : Bool} {f : State → State} (hf : Keeps view s (f s)) : Keeps view s (s.when c f) := by
  unfold State.when
  split
  · exact hf
  · exact .refl s

/-- What keeps the lease keeps what stands of it. -/
theorem Keeps.to_standing (h : Keeps Fmn.lease s t) : Keeps Fmn.standing s t :=
  ⟨(congrArg Fmn.standing h.fmn : t.fmn.lease.standing = s.fmn.lease.standing), h.reg, h.raw, h.supply⟩

end

/-- The lease's state is kept. -/
abbrev LeaseKept : State → State → Prop := Keeps Fmn.lease

/-! ### Reading what is kept -/

section
variable {s t : State}

theorem LeaseKept.fm (h : LeaseKept s t) (c : Bool) : (t.fm c).served = (s.fm c).served := by
  cases c
  · exact congrArg Fmn.a h.fmn
  · exact congrArg Fmn.b h.fmn

/-- What stands of the lease, and of a Foreman. -/
theorem Keeps.fm_standing (h : Keeps Fmn.standing s t) (c : Bool) : (t.fm c).standing = (s.fm c).standing := by
  cases c
  · exact congrArg Fmn.a h.fmn
  · exact congrArg Fmn.b h.fmn

theorem LeaseKept.holder (h : LeaseKept s t) : t.fmn.holder = s.fmn.holder := eq_of_view h.fmn Fmn.holder fun _ => rfl
theorem LeaseKept.gen (h : LeaseKept s t) : t.fmn.gen = s.fmn.gen := eq_of_view h.fmn Fmn.gen fun _ => rfl
theorem LeaseKept.remain (h : LeaseKept s t) : t.fmn.remain = s.fmn.remain := eq_of_view h.fmn Fmn.remain fun _ => rfl
theorem LeaseKept.st (h : LeaseKept s t) (c : Bool) : (t.fm c).st = (s.fm c).st := eq_of_view (h.fm c) Foreman.st fun _ => rfl
theorem LeaseKept.revoked (h : LeaseKept s t) (c : Bool) : (t.fm c).revoked = (s.fm c).revoked := eq_of_view (h.fm c) Foreman.revoked fun _ => rfl
theorem LeaseKept.claim (h : LeaseKept s t) (c : Bool) : (t.fm c).claim = (s.fm c).claim := eq_of_view (h.fm c) Foreman.claim fun _ => rfl
theorem LeaseKept.fault (h : LeaseKept s t) (c : Bool) : (t.fm c).fault = (s.fm c).fault := eq_of_view (h.fm c) Foreman.fault fun _ => rfl
theorem LeaseKept.rel (h : LeaseKept s t) (c : Bool) : (t.fm c).rel = (s.fm c).rel := eq_of_view (h.fm c) Foreman.rel fun _ => rfl
theorem LeaseKept.renew (h : LeaseKept s t) (c : Bool) : (t.fm c).renew = (s.fm c).renew := eq_of_view (h.fm c) Foreman.renew fun _ => rfl
theorem LeaseKept.stdbyAt (h : LeaseKept s t) (c : Bool) : (t.fm c).stdbyAt = (s.fm c).stdbyAt := eq_of_view (h.fm c) Foreman.stdbyAt fun _ => rfl
theorem LeaseKept.holds (h : LeaseKept s t) (c : Bool) : t.holds c = s.holds c := by rw [State.holds, State.holds, h.holder]

theorem Keeps.holder_standing (h : Keeps Fmn.standing s t) : t.fmn.holder = s.fmn.holder := eq_of_view h.fmn Fmn.holder fun _ => rfl
theorem Keeps.gen_standing (h : Keeps Fmn.standing s t) : t.fmn.gen = s.fmn.gen := eq_of_view h.fmn Fmn.gen fun _ => rfl
theorem Keeps.st_standing (h : Keeps Fmn.standing s t) (c : Bool) : (t.fm c).st = (s.fm c).st :=
  eq_of_view (h.fm_standing c) Foreman.st fun _ => rfl
theorem Keeps.revoked_standing (h : Keeps Fmn.standing s t) (c : Bool) : (t.fm c).revoked = (s.fm c).revoked :=
  eq_of_view (h.fm_standing c) Foreman.revoked fun _ => rfl
theorem Keeps.stdbyAt_standing (h : Keeps Fmn.standing s t) (c : Bool) : (t.fm c).stdbyAt = (s.fm c).stdbyAt :=
  eq_of_view (h.fm_standing c) Foreman.stdbyAt fun _ => rfl

theorem Keeps.tripped {view : Fmn → Fmn} (h : Keeps view s t) : t.pwr.tripped = s.pwr.tripped := congrArg (fun p => p.2.2) h.supply

theorem Keeps.fmnCfg {view : Fmn → Fmn} (h : Keeps view s t) (i : Nat) : t.fmnCfg i = s.fmnCfg i :=
  congrArg (bit · i) (h.reg _ (.inr (by decide)) (by decide))

theorem Keeps.ready {view : Fmn → Fmn} (h : Keeps view s t) (c : Bool) : t.ready c = s.ready c :=
  congrArg (bit · 16) (h.reg _ (.inr (by cases c <;> decide)) (by cases c <;> decide))

theorem Keeps.leaseLen {view : Fmn → Fmn} (h : Keeps view s t) : t.leaseLen = s.leaseLen :=
  congrArg (fun v => max 16 (fld v 0 12)) (h.reg (fmnA 0x5C) (.inr (by decide)) (by decide))

theorem Keeps.bolt {view : Fmn → Fmn} (h : Keeps view s t) : t.bolt = s.bolt := h.reg _ (.inl rfl) (by decide)

end

/-! ### Addresses that are no register of the lease -/

theorem not_leaseReg_engA (fe : Bool) (o : Nat) : ¬ leaseReg (engA fe o) := by
  unfold leaseReg engA
  cases fe <;> simp <;> omega

theorem not_leaseReg_wvrA (w o : Nat) : ¬ leaseReg (wvrA w o) := by
  unfold leaseReg wvrA
  omega

theorem roleFree_leaseReg {a : Nat} (ha : leaseReg a) : roleFree a := by
  unfold leaseReg at ha
  unfold roleFree tstA bankA
  omega

theorem leaseReg_ne_tst {a : Nat} (ha : leaseReg a) : a ≠ tstA 0x10 ∧ a ≠ tstA 0x88 := ⟨(roleFree_leaseReg ha).1, (roleFree_leaseReg ha).2.1⟩

section
variable {s : State} {view : Fmn → Fmn}

/-! ### Trace records, domains -/

theorem Keeps.trace (c kind src : Nat) (d0 d1 : Word) : Keeps view s (s.trace c kind src d0 d1) :=
  .of_only (State.trace_inv c kind src d0 d1 (only_closed [.regs, .pcie, .tst, .out, .free] s) (only_refl _ _)) (by decide) (by decide)
    fun _ ha => s.reg_trace_other c kind src d0 d1 (leaseReg_ne_tst ha).1 (leaseReg_ne_tst ha).2

theorem Keeps.domSeen (v : Word) : Keeps view s (s.modPwr (fun p => { p with domSeen := v })) := .of_eq rfl rfl rfl

theorem Keeps.noteDom : Keeps view s s.noteDom :=
  .ite (.refl s) (.after (.irq 8 (.inr (by unfold leaseReg; decide))) (.domSeen _))

/-! ### Inboxes and buffers -/

theorem LeaseKept.noteShed : LeaseKept s s.noteShed := by
  have hlevel (n : Nat) : LeaseKept s (s.modFmn (fun f => { f with shed := n })) := .of_eq rfl rfl rfl
  exact Keeps.ite ((hlevel _).trans (.irq _ (.inl rfl))) (hlevel _)

theorem LeaseKept.setInbox (d : Nat) (l : List Nat) : LeaseKept s (s.setInbox d l) :=
  Keeps.ite (.of_eq rfl rfl rfl) (Keeps.ite (Keeps.after LeaseKept.noteShed (.of_eq rfl rfl rfl))
    (Keeps.after LeaseKept.noteShed (.of_eq rfl rfl rfl)))

theorem Keeps.count (cls idx ctr n : Nat) : Keeps view s (s.count cls idx ctr n) := .of_eq rfl rfl rfl

theorem LeaseKept.enterInbox (d i : Nat) : LeaseKept s (s.enterInbox d i) := by
  have hset : LeaseKept s ((s.setBuf i .posted d).setInbox d (s.inbox d ++ [i])) := Keeps.after (LeaseKept.setInbox d _) (.of_eq rfl rfl rfl)
  exact Keeps.ite (Keeps.after (.when (.count 7 d 2 1)) (hset.trans (.count 7 d 0 1))) hset

theorem LeaseKept.nakDrop (page i : Nat) : LeaseKept s (s.nakDrop page i) :=
  Keeps.after (.when (.incReg 1 (not_leaseReg_wvrA page 0x68))) (.of_eq rfl rfl rfl)

theorem Keeps.setBufWord (i j : Nat) (v : Word) : Keeps view s (s.setBufWord i j v) := .of_eq rfl rfl rfl

theorem LeaseKept.nak (page i reason : Nat) : LeaseKept s (s.nak page i reason) := by
  have hcount : LeaseKept s (if page < 64 then
      (s.incReg (wvrA page 0x60)).when (decide (reason = 1 ∨ reason = 2)) (·.incReg (wvrA page 0x64)) else s) :=
    .ite (.after (.when (.incReg 1 (not_leaseReg_wvrA page _))) (.incReg 1 (not_leaseReg_wvrA page _))) (.refl s)
  unfold State.nak
  dsimp only
  split
  · refine .after (LeaseKept.enterInbox _ i) ?_
    exact .after (.setBufWord i 5 _) (.after (.setBufWord i 2 _) (.after (.setBufWord i 1 _) (.after (.setBufWord i 0 _) hcount)))
  · refine .after (LeaseKept.nakDrop page i) ?_
    exact .after (.setBufWord i 5 _) (.after (.setBufWord i 2 _) (.after (.setBufWord i 1 _) (.after (.setBufWord i 0 _) hcount)))

theorem LeaseKept.turnAway (d i reason : Nat) : LeaseKept s (s.turnAway d i reason) :=
  Keeps.ite (LeaseKept.nakDrop d i) (LeaseKept.nak d i reason)

theorem LeaseKept.flush (d reason : Nat) : LeaseKept s (s.flush d reason) :=
  (LeaseKept.setInbox d []).trans (.seqAll _ fun i _ => LeaseKept.turnAway d i reason)

theorem LeaseKept.reclaim (m : Nat) : LeaseKept s (s.reclaim m) :=
  .of_only (State.reclaim_inv m (only_closed [.regs, .skid] s) (only_refl _ _)) (by decide) (by decide)
    fun _ ha => State.reg_reclaim s (roleFree_leaseReg ha) m

/-! ### Completions -/

theorem Keeps.modEng (fe : Bool) (f : Engine → Engine) : Keeps view s (s.modEng fe f) := by
  cases fe <;> exact .of_eq rfl rfl rfl

theorem Keeps.agentWrite (m : Mid) (a : Nat) (bs : List Byte) (x : Bool) : Keeps view s (s.agentWrite m a bs x) :=
  .of_only (State.agentWrite_inv m a bs x (only_closed [.regs, .bank, .bankMem, .pcie, .out] s) (only_refl _ _)) (by decide) (by decide)
    fun _ ha => State.reg_agentWrite s (roleFree_leaseReg ha) m a bs x

theorem Keeps.hostWrite (a : Nat) (bs : List Byte) : Keeps view s (s.hostWrite a bs) := by
  refine Keeps.ite (Keeps.ite (.of_eq rfl rfl rfl) (.of_parts (s.emit_only _) (by decide) (by decide) (by decide))) ?_
  exact .after (.irq 2 (.inr (by unfold leaseReg; decide))) (.incReg 1 (by unfold leaseReg; decide))

theorem not_leaseReg_ringRegs (fe : Bool) (r : Nat) : ¬ leaseReg (ringRegs fe r).2.2.1 ∧ ¬ leaseReg (ringRegs fe r).2.2.2.2 := by
  unfold ringRegs
  split
  · exact ⟨not_leaseReg_engA fe _, not_leaseReg_engA fe _⟩
  · exact ⟨not_leaseReg_engA fe _, not_leaseReg_engA fe _⟩
  · cases fe <;> exact ⟨not_leaseReg_engA _ _, not_leaseReg_engA _ _⟩

theorem Keeps.engIrq (fe : Bool) (b : Nat) : Keeps view s (s.irq (engA fe 0) b) := .irq b (.inr (not_leaseReg_engA fe 0x10))

theorem Keeps.postDone (fe : Bool) (d : Done) : Keeps view s (s.postDone fe d) := by
  obtain ⟨htail, hlost⟩ := not_leaseReg_ringRegs fe d.ring
  unfold State.postDone
  dsimp only
  refine .ite (.refl s) (.ite (.of_eq rfl rfl rfl) (.ite (.after (.engIrq fe _) (.setReg _ hlost)) ?_))
  exact .after (.engIrq fe _) (.ite (.after (.modEng fe _) (.after (.setReg _ htail) (.ite (.hostWrite _ _) (.agentWrite _ _ _ _))))
    (.after (.setReg _ htail) (.ite (.hostWrite _ _) (.agentWrite _ _ _ _))))

theorem Keeps.postFences (fe : Bool) : Keeps view s (s.postFences fe) :=
  .after (.seqAll _ fun _ _ => .postDone fe _) (.modEng fe _)

theorem Keeps.dropBatch (fe : Bool) (status : Byte) : Keeps view s (s.dropBatch fe status) := by
  unfold State.dropBatch
  refine .after (.seqAll _ fun _ _ => .postDone fe _) (.after (.modEng fe _) ?_)
  cases fe <;> exact .of_eq rfl rfl rfl

theorem Keeps.abortB (fe : Bool) : Keeps view s (s.when ((s.eng fe).isOpen && decide ((s.eng fe).owner = 1))
    (fun s => (s.dropBatch fe 0x1C).postFences fe)) := .when (.after (.postFences fe) (.dropBatch fe _))

/-! ### Roles (R282) -/

theorem Keeps.passBank (b kind owner : Nat) : Keeps view s (s.passBank b kind owner) :=
  .of_only (State.passBank_inv b kind owner (only_closed [.regs, .bank] s) (only_refl _ _)) (by decide) (by decide)
    fun _ ha => s.reg_passBank (roleFree_leaseReg ha) b kind owner

theorem Keeps.setWvr (w : Nat) (st : WvrSt) (cause : Nat) : Keeps view s (s.setWvr w st cause) :=
  .of_only (State.setWvr_inv w st cause (only_closed [.regs, .wvr, .tly, .pcie, .tst, .out, .free] s) (only_refl _ _)) (by decide) (by decide)
    fun _ ha => s.reg_setWvr (roleFree_leaseReg ha) w st cause

theorem LeaseKept.roleBanks (l : Fmn → List (Nat × Nat × Nat)) : LeaseKept s (s.modFmn (fun f => { f with roleBanks := l f })) :=
  .of_eq rfl rfl rfl

theorem LeaseKept.takeBanks (w : Nat) : LeaseKept s (s.takeBanks w) :=
  Keeps.ite (.refl s) (.seqAll _ fun b _ => .after (LeaseKept.roleBanks _) (.passBank b 2 0))

theorem LeaseKept.handBanks (w : Nat) (y : Nat × Nat) : LeaseKept s (s.handBanks w y) := by
  unfold State.handBanks
  exact .after (LeaseKept.roleBanks _) (.seqAll _ fun e _ => .when (f := (·.passBank e.2.2 1 w)) (.passBank e.2.2 1 w))

theorem Keeps.modWeaver (w : Nat) (f : Weaver → Weaver) : Keeps view s (s.modWeaver w f) := .of_eq rfl rfl rfl

/-- A role that no request asked for is reported to none. -/
theorem LeaseKept.startRole (w : Nat) (y : Nat × Nat) : LeaseKept s (s.startRole w y false) := by
  have hset (f : Weaver → Weaver) (st : WvrSt) : LeaseKept s (((s.takeBanks w).modWeaver w f).setWvr w st) :=
    .after (.setWvr w st 0) (.after (.modWeaver w f) (LeaseKept.takeBanks w))
  exact Keeps.ite (hset _ _) (.after (LeaseKept.handBanks w y) (hset _ _))

theorem LeaseKept.assignRoles (l : List (Nat × Nat × Nat)) : LeaseKept s (s.assignRoles l) := by
  have hall : LeaseKept s (Sys2Proof.Machine.seqAll (fun e s => if (s.weaver e.1).st = .idle then s.startRole e.1 e.2 false else s) l s) :=
    .seqAll l fun e u => .ite (LeaseKept.startRole e.1 e.2) (.refl u)
  exact hall.trans (.of_eq rfl rfl rfl)

theorem LeaseKept.noteBoot : LeaseKept s s.noteBoot := Keeps.ite (.of_eq rfl rfl rfl) (.refl s)

theorem LeaseKept.takeUp : LeaseKept s s.takeUp := by
  have hroles (u : State) (l : List (Nat × Nat × Nat)) : LeaseKept u ((u.assignRoles l).modPwr (fun p => { p with rolesDone := true })).noteBoot :=
    .after LeaseKept.noteBoot ((LeaseKept.assignRoles l).trans (.of_eq rfl rfl rfl))
  unfold State.takeUp
  split
  all_goals
    refine Keeps.ite (.of_eq rfl rfl rfl) (.after (hroles _ _) (.of_eq rfl rfl rfl))

theorem LeaseKept.banner (b : Bool) : LeaseKept s (s.banner b) :=
  .of_parts (State.banner_inv b (only_closed [.tst, .out] s) (only_refl _ _)) (by decide) (by decide) (by decide)

end

end Sys2Proof.Machine

/-! SUPPORT. The rules of the Foremen and of the lease: a Foreman changed, booted, a holder revoked, a lease granted, renewed and released (R310-R312,
R317, R319, R320). -/
namespace Sys2Proof.Machine

/-! ### One Foreman changed -/

section
variable {s : State} {view : Fmn → Fmn}

@[simp] theorem State.fm_modFm_same (b : Bool) (f : Foreman → Foreman) : (s.modFm b f).fm b = f (s.fm b) := by cases b <;> rfl

@[simp] theorem State.fm_modFm_not (b : Bool) (f : Foreman → Foreman) : (s.modFm b f).fm (!b) = s.fm (!b) := by cases b <;> rfl
@[simp] theorem State.fm_modFm_of_not (b : Bool) (f : Foreman → Foreman) : (s.modFm (!b) f).fm b = s.fm b := by cases b <;> rfl
@[simp] theorem State.holder_modFm (b : Bool) (f : Foreman → Foreman) : (s.modFm b f).fmn.holder = s.fmn.holder := by cases b <;> rfl
@[simp] theorem State.gen_modFm (b : Bool) (f : Foreman → Foreman) : (s.modFm b f).fmn.gen = s.fmn.gen := by cases b <;> rfl
@[simp] theorem State.remain_modFm (b : Bool) (f : Foreman → Foreman) : (s.modFm b f).fmn.remain = s.fmn.remain := by cases b <;> rfl
@[simp] theorem State.fm_irq (p n : Nat) (c : Bool) : (s.irq p n).fm c = s.fm c := by simp [State.fm]
@[simp] theorem State.fm_incReg (a k : Nat) (c : Bool) : (s.incReg a k).fm c = s.fm c := rfl

/-- A change of one Foreman that the view does not show. -/
theorem Keeps.modFm {b : Bool} {f : Foreman → Foreman}
    (h : ∀ n : Fmn, view (if b then { n with b := f n.b } else { n with a := f n.a }) = view n) : Keeps view s (s.modFm b f) :=
  .of_eq (h _) rfl rfl

theorem Keeps.setReg_congr {t : State} (h : Keeps view s t) (a : Nat) (v : Word) : Keeps view (s.setReg a v) (t.setReg a v) where
  fmn := h.fmn
  reg x hx hr := by
    rw [State.reg_setReg, State.reg_setReg, h.reg x hx hr]
  raw i hi := by
    rw [State.reg_setReg] at hi ⊢
    split
    · next ha => rwa [if_pos ha] at hi
    · next ha => exact h.raw i (by rwa [if_neg ha] at hi)
  supply := h.supply

theorem Keeps.incReg_congr {t : State} (h : Keeps view s t) {a : Nat} (k : Nat) (ha : leaseReg a) (hr : a ≠ 0x30010) :
    Keeps view (s.incReg a k) (t.incReg a k) := by
  unfold State.incReg
  rw [h.reg a ha hr]
  exact h.setReg_congr a _

theorem Keeps.irq_congr {t : State} (h : Keeps view s t) (n : Nat) : Keeps view (s.irq (fmnA 0) n) (t.irq (fmnA 0) n) where
  fmn := by rw [State.irq_fmn, State.irq_fmn, h.fmn]
  reg x hx hr := by
    have hp : x ≠ fmnA 0 + 0x10 := hr
    rw [t.irq_reg_other hp, s.irq_reg_other hp, h.reg x hx hr]
  raw i hi := by
    have hraw (u : State) : bit ((u.irq (fmnA 0) n).reg 0x30010) i = (bit (u.reg 0x30010) i || bit (w32 n) i) := by
      rw [u.irq_reg, if_pos (by decide), bit_or]
    rw [hraw, Bool.or_eq_true] at hi ⊢
    exact hi.imp_left (h.raw i)
  supply := by rw [State.irq_pwr, State.irq_pwr, h.supply]

theorem Keeps.modTst (f : Test → Test) : Keeps view s (s.modTst f) := .of_eq rfl rfl rfl
theorem Keeps.modMbx (f : Mbx → Mbx) : Keeps view s (s.modMbx f) := .of_eq rfl rfl rfl
theorem Keeps.traceLease : Keeps view s s.traceLease := .trace _ _ _ _ _

/-- A Foreman that changes state changes so, and may be recorded (R456). -/
theorem Keeps.setFm (b : Bool) (st : FmSt) : Keeps view (s.modFm b (fun f => { f with st := st })) (s.setFm b st) :=
  .ite (.refl _) (.trace _ _ _ _ _)

theorem Keeps.abandon (b : Bool) : Keeps view s (s.abandon b) := .of_eq rfl rfl rfl

/-! ### Boot and takeover -/

/-- A Foreman that leaves reset at a tick. -/
def Foreman.booted (f : Foreman) (t : Word) : Foreman :=
  { f with st := .boot, powered := true, revoked := false, bootAt := t, stuck := false, failed := false, relAt := none, offAt := none,
           claim := false, fault := false }

theorem LeaseKept.bootFm (b : Bool) (h : s.pwr.tripped = false) : LeaseKept (s.modFm b (·.booted s.fmn.tick)) (s.bootFm b) := by
  unfold State.bootFm
  rw [if_neg (by simp [h])]
  refine Keeps.after .noteDom (.after (.setFm b .boot) ?_)
  cases b <;> exact .of_eq rfl rfl rfl

/-- A takeover of a Foreman has begun. -/
def State.taking (s : State) (b : Bool) : State := s.modFmn (fun f => { f with take := some (b, f.tick) })

/-- A takeover leaves its Foreman as it stands, or boots it (R319). -/
theorem State.takeStart_cases (s : State) (b : Bool) : LeaseKept (s.taking b) (s.takeStart b) ∨
    LeaseKept ((s.taking b).modFm b (·.booted s.fmn.tick)) (s.takeStart b) := by
  have hboot : LeaseKept (s.taking b) ((s.taking b).bootFm b) ∨ LeaseKept ((s.taking b).modFm b (·.booted s.fmn.tick)) ((s.taking b).bootFm b) := by
    cases htrip : s.pwr.tripped
    · exact .inr (LeaseKept.bootFm (s := s.taking b) b htrip)
    · rw [show (s.taking b).bootFm b = s.taking b from if_pos htrip]
      exact .inl (.refl _)
  unfold State.takeStart
  dsimp only
  split
  · exact hboot
  · exact hboot
  · exact .inl (.refl _)
  · split
    · exact hboot
    · exact .inl (.refl _)

theorem State.takeStart_off {b : Bool} (htrip : s.pwr.tripped = false) (h : (s.fm b).st = .off) :
    LeaseKept ((s.taking b).modFm b (·.booted s.fmn.tick)) (s.takeStart b) := by
  have heq : s.takeStart b = (s.taking b).bootFm b := by
    unfold State.takeStart
    rw [h]
    rfl
  rw [heq]
  exact LeaseKept.bootFm (s := s.taking b) b htrip

/-! ### The lease ends -/

/-- The lease is without a holder. -/
def State.unheld (s : State) : State := s.modFmn (fun f => { f with holder := 0, remain := 0, wireLost := false, ho := none })

/-- A holder whose lease was revoked. -/
def Foreman.deposed (f : Foreman) (st : FmSt) : Foreman := { f with st := st, revoked := true, relAt := none, claim := false, fault := false }

/-- The holder `b` has lost the lease for cause `c`, which is recorded, counted and raised (R312). -/
def State.deposed (s : State) (c : Nat) (b : Bool) : State :=
  ((((s.setCause c b).unheld).modFm b (·.deposed (if s.fmnCfg 4 then .held else .standby))).incReg (fmnA 0x68)).irq (fmnA 0) 1

/-- A revocation: the holder loses the lease; its services end; with AUTO the other Foreman takes over (R312, R319). -/
theorem State.revoke_active {b : Bool} (c : Nat) (hh : s.fmn.holder = fmCode b) (hst : (s.fm b).st = .active) :
    ∃ u, LeaseKept (s.deposed c b) u ∧ s.revoke c = u.when (s.fmnCfg 0) (·.takeStart !b) := by
  have hb : decide (s.fmn.holder = 2) = b := by rw [hh]; cases b <;> rfl
  have hne : s.fmn.holder ≠ 0 := by rw [hh]; cases b <;> decide
  unfold State.revoke
  dsimp only
  rw [if_neg hne, hb, if_pos hst]
  refine ⟨_, ?_, rfl⟩
  refine .after (.abortB true) (.after (.abortB false) (.after (LeaseKept.reclaim _) (.after (LeaseKept.flush _ 3) ?_)))
  refine .after (.modTst _) (.after .traceLease ?_)
  refine Keeps.irq_congr (Keeps.incReg_congr (.after (.setFm b _) ?_) 1 (.inr (by decide)) (by decide)) 1
  cases s.fmnCfg 4 <;> cases b <;> exact .of_eq rfl rfl rfl

end

end Sys2Proof.Machine

/-! SUPPORT. A lease tick in its stages: the count, the revocation, then what is pending of each Foreman (R310). -/
namespace Sys2Proof.Machine

section
variable {s t : State} {view : Fmn → Fmn} {b : Bool}

theorem fmCode_ne_zero (b : Bool) : fmCode b ≠ 0 := by cases b <;> decide
theorem fmCode_not_ne (b : Bool) : fmCode (!b) ≠ fmCode b := by cases b <;> decide

theorem State.holds_of_code (h : s.fmn.holder = fmCode b) : s.holds b = true := decide_eq_true h

theorem State.holds_not_of_code (h : s.fmn.holder = fmCode b) : s.holds (!b) = false :=
  decide_eq_false fun he => fmCode_not_ne b (he.symm.trans h)

theorem State.holds_of_headless (h : s.fmn.holder = 0) (c : Bool) : s.holds c = false :=
  decide_eq_false fun he => fmCode_ne_zero c (he.symm.trans h)

theorem State.mayClaim_of_held (h : s.fmn.holder ≠ 0) (c : Bool) : s.mayClaim c = false := by simp [State.mayClaim, h]

/-! ### The lease is granted (R311) -/

/-- Foreman `b` holds the lease with the next generation; a HELD other one has its release set (R311, R332). -/
def State.granted (s : State) (b transfer : Bool) : State :=
  let t := s.fmn.tick
  let s1 := s.modFmn (fun f => { f with holder := fmCode b, gen := nextGen f.gen, remain := s.leaseLen, take := none, wireLost := false,
                                        ho := none, byTransfer := transfer })
  let s2 := s1.modFm b (fun f => { f with wireAt := t, renewAt := t, relAt := none, offAt := none, claim := false })
  let s3 := if (s.fm !b).st = .held && s.fmnCfg 5 then s2.modFm (!b) (fun f => { f with relAt := some (t + 16) }) else s2
  (s3.modFm b (fun f => { f with st := .active })).irq (fmnA 0) 2

theorem Keeps.inProg (n : Nat) : Keeps view s (s.modPwr (fun p => { p with inProg := n })) := .of_eq rfl rfl rfl

theorem LeaseKept.grant (transfer : Bool) : LeaseKept (s.granted b transfer) (s.grant b transfer) :=
  .after (.inProg _) (.after LeaseKept.takeUp (.after (LeaseKept.banner b) (.after .traceLease (.irq_congr (.setFm b .active) 2))))

/-! ### The end of a tick: renewals, and nothing pending is left (R310) -/

/-- Nothing is pending of a Foreman. -/
def Foreman.cleared (f : Foreman) : Foreman := { f with claim := false, renew := none, rel := none }

/-- Renewals are taken, and what was pending is over. -/
def State.tickEnd (s : State) : State :=
  ((((s.takeRenew false).takeRenew true).modFm false Foreman.cleared).modFm true Foreman.cleared).noteShed

theorem Keeps.cleared (c : Bool) : Keeps Fmn.standing s (s.modFm c Foreman.cleared) := .modFm fun _ => by cases c <;> rfl

/-- A renewal that the holder asked for with its own generation. -/
def State.renews (s : State) (b : Bool) (v : Word) : Prop := s.holds b = true ∧ fld v 0 16 = fld s.fmn.gen 0 16

theorem State.takeRenew_none (h : (s.fm b).renew = none) : s.takeRenew b = s := by
  unfold State.takeRenew
  rw [h]

theorem State.takeRenew_ignored {v : Word} (h : (s.fm b).renew = some v) (hv : ¬ s.renews b v) : s.takeRenew b = s := by
  unfold State.takeRenew
  rw [h]
  exact if_neg hv

theorem State.takeRenew_unheld (h : s.holds b = false) : s.takeRenew b = s := by
  cases hv : (s.fm b).renew with
  | none => exact State.takeRenew_none hv
  | some v => exact State.takeRenew_ignored hv fun hr => by simp [State.renews, h] at hr

/-- REMAIN starts again, and the renewal's tick is noted. -/
def State.renewed (s : State) (b : Bool) : State :=
  (s.modFmn (fun f => { f with remain := s.leaseLen })).modFm b (fun f => { f with renewAt := s.fmn.tick })

theorem State.takeRenew_taken {v : Word} (h : (s.fm b).renew = some v) (hv : s.renews b v) : LeaseKept (s.renewed b) (s.takeRenew b) := by
  have heq : s.takeRenew b = (s.renewed b).when (decide (s.leaseLen < 3 * since s.fmn.tick (s.fm b).renewAt)) (·.irq (fmnA 0) 0x10) := by
    unfold State.takeRenew
    rw [h]
    exact if_pos hv
  rw [heq]
  exact .when (f := (·.irq (fmnA 0) 0x10)) (.irq 0x10 (.inl rfl))

theorem Keeps.renewed : Keeps Fmn.standing s (s.renewed b) := by
  cases b <;> exact .of_eq rfl rfl rfl

theorem Keeps.takeRenew : Keeps Fmn.standing s (s.takeRenew b) := by
  cases h : (s.fm b).renew with
  | none => rw [State.takeRenew_none h]; exact .refl s
  | some v =>
    by_cases hv : s.renews b v
    · exact Keeps.renewed.trans (State.takeRenew_taken h hv).to_standing
    · rw [State.takeRenew_ignored h hv]; exact .refl s

theorem Keeps.tickEnd : Keeps Fmn.standing s s.tickEnd :=
  .after LeaseKept.noteShed.to_standing (.after (.cleared true) (.after (.cleared false) (.after .takeRenew .takeRenew)))

/-- Of the two Foremen only the holder's renewal counts. -/
theorem State.takeRenew_both (h : s.fmn.holder = fmCode b) : (s.takeRenew false).takeRenew true = s.takeRenew b := by
  have hother : s.holds (!b) = false := State.holds_not_of_code h
  have hkept : (s.takeRenew b).holds (!b) = false :=
    State.holds_not_of_code (Keeps.takeRenew.holder_standing.trans h)
  cases b
  · exact State.takeRenew_unheld hkept
  · exact congrArg (State.takeRenew · true) (State.takeRenew_unheld hother)

theorem State.remain_tickEnd_eq : s.tickEnd.fmn.remain = ((s.takeRenew false).takeRenew true).fmn.remain := by
  unfold State.tickEnd
  rw [LeaseKept.noteShed.remain, State.remain_modFm, State.remain_modFm]

theorem State.remain_tickEnd_headless (h : s.fmn.holder = 0) : s.tickEnd.fmn.remain = s.fmn.remain := by
  have hheld := State.holds_of_headless h
  rw [State.remain_tickEnd_eq, State.takeRenew_unheld (hheld false), State.takeRenew_unheld (hheld true)]

/-- REMAIN after the tick: a whole lease where the holder renewed it with its own generation. -/
theorem State.remain_tickEnd (h : s.fmn.holder = fmCode b) : s.tickEnd.fmn.remain = (match (s.fm b).renew with
    | some r => if fld r 0 16 = fld s.fmn.gen 0 16 then s.leaseLen else s.fmn.remain
    | none => s.fmn.remain) := by
  rw [State.remain_tickEnd_eq, State.takeRenew_both h]
  cases hr : (s.fm b).renew with
  | none => rw [State.takeRenew_none hr]
  | some r =>
    dsimp only
    split
    · next hgen =>
      rw [(State.takeRenew_taken hr ⟨State.holds_of_code h, hgen⟩).remain, State.renewed, State.remain_modFm]
      rfl
    · next hgen => rw [State.takeRenew_ignored hr fun hv => hgen hv.2]

/-! ### What is pending of each Foreman -/

/-- A tick after its count and revocation, with a reset that begins (`cp`) or without. -/
def State.tickRest (s : State) (cp : Bool) : State :=
  let s1 := (((s.holdFaulty false).holdFaulty true).takeRelease false).takeRelease true
  (if cp then s1 else (s1.takeClaim s1.prefer).takeClaim !s1.prefer).tickEnd

theorem State.leaseTick_eq : s.leaseTick = s.tickCount.tickRevoke.tickRest s.cpBegins := rfl

theorem State.holdFaulty_kept (h : (s.fm b).fault = false ∨ s.holds b = true) : s.holdFaulty b = s := by
  refine if_neg fun hc => ?_
  rcases h with h | h
  · simp [h] at hc
  · exact hc.2 h

theorem State.takeRelease_kept (h : (s.fm b).rel = none ∨ s.holds b = false) : s.takeRelease b = s := by
  unfold State.takeRelease
  split
  · next v hv =>
    rcases h with h | h
    · rw [h] at hv; cases hv
    · exact if_neg fun hc => by simp [h] at hc
  · rfl

theorem LeaseKept.takeClaim (h : (s.fm b).claim = false ∨ s.mayClaim b = false) : LeaseKept s (s.takeClaim b) := by
  unfold State.takeClaim
  split
  · next hclaim =>
    rw [if_neg (by simpa [hclaim] using h)]
    exact .irq 4 (.inl rfl)
  · exact .refl s

theorem State.takeClaim_granted (hclaim : (s.fm b).claim = true) (hmay : s.mayClaim b = true) : s.takeClaim b = s.grant b false := by
  unfold State.takeClaim
  rw [if_pos hclaim, if_pos hmay]

/-- No claim of a Foreman can be granted. -/
def State.unclaimed (s : State) (c : Bool) : Prop := (s.fm c).claim = false ∨ s.mayClaim c = false

theorem LeaseKept.mayClaim (h : LeaseKept s t) (c : Bool) : t.mayClaim c = s.mayClaim c := by
  rw [State.mayClaim, State.mayClaim, h.holder, h.revoked, h.st]

theorem LeaseKept.unclaimed (h : LeaseKept s t) {c : Bool} (hc : s.unclaimed c) : t.unclaimed c := by
  rwa [State.unclaimed, h.claim, h.mayClaim]

theorem LeaseKept.takeClaims (h : ∀ c, s.unclaimed c) : LeaseKept s ((s.takeClaim s.prefer).takeClaim !s.prefer) := by
  have hfirst : LeaseKept s (s.takeClaim s.prefer) := LeaseKept.takeClaim (h s.prefer)
  exact hfirst.trans (LeaseKept.takeClaim (hfirst.unclaimed (h _)))

/-- No fault of a Foreman without the lease stands, and no release of its holder. -/
structure State.Untroubled (s : State) : Prop where
  fault : ∀ c, (s.fm c).fault = false ∨ s.holds c = true
  rel : ∀ c, (s.fm c).rel = none ∨ s.holds c = false

theorem State.Untroubled.tickRest (h : s.Untroubled) (cp : Bool) :
    s.tickRest cp = (if cp then s else (s.takeClaim s.prefer).takeClaim !s.prefer).tickEnd := by
  unfold State.tickRest
  rw [State.holdFaulty_kept (h.fault false), State.holdFaulty_kept (h.fault true), State.takeRelease_kept (h.rel false),
    State.takeRelease_kept (h.rel true)]

/-- With nothing pending that counts, only renewals are left. -/
theorem State.Untroubled.tickRest_unclaimed (h : s.Untroubled) {cp : Bool} (hclaim : cp = true ∨ ∀ c, s.unclaimed c) :
    ∃ u, LeaseKept s u ∧ s.tickRest cp = u.tickEnd := by
  rw [h.tickRest]
  refine ⟨_, ?_, rfl⟩
  cases cp with
  | true => exact .refl s
  | false => exact LeaseKept.takeClaims (hclaim.resolve_left (by decide))

end

end Sys2Proof.Machine

/-! SUPPORT. What a lease tick does: it revokes, notes a silent wire, grants, takes a release, or lets the lease go on (R310-R312, R315). -/
namespace Sys2Proof.Machine

section
variable {s t u : State} {view : Fmn → Fmn} {b : Bool} {c : Nat}

/-! ### The other Foreman takes over (R319) -/

/-- The lease's state without the takeover and without the Foreman other than `b`. -/
def Fmn.beside (b : Bool) (f : Fmn) : Fmn :=
  if b then { f.lease with take := none, a := {} } else { f.lease with take := none, b := {} }

theorem LeaseKept.to_beside (h : LeaseKept s t) : Keeps (Fmn.beside b) s t :=
  ⟨by cases b <;> exact (congrArg (Fmn.beside _) h.fmn : Fmn.beside _ t.fmn.lease = Fmn.beside _ s.fmn.lease), h.reg, h.raw, h.supply⟩

theorem Keeps.takeStart : Keeps (Fmn.beside b) s (s.takeStart !b) := by
  have htake : Keeps (Fmn.beside b) s (s.taking !b) := by cases b <;> exact .of_eq rfl rfl rfl
  rcases s.takeStart_cases (!b) with h | h
  · exact htake.trans h.to_beside
  · refine htake.trans (.after h.to_beside (.modFm fun n => ?_))
    cases b <;> rfl

theorem Keeps.fm_beside (h : Keeps (Fmn.beside b) s t) : (t.fm b).served = (s.fm b).served := by
  cases b
  · exact (congrArg Fmn.a h.fmn : (Fmn.beside false t.fmn).a = (Fmn.beside false s.fmn).a)
  · exact (congrArg Fmn.b h.fmn : (Fmn.beside true t.fmn).b = (Fmn.beside true s.fmn).b)

theorem Keeps.lease_beside (h : Keeps (Fmn.beside b) s t) :
    t.fmn.holder = s.fmn.holder ∧ t.fmn.remain = s.fmn.remain ∧ t.fmn.gen = s.fmn.gen := by
  cases b
  all_goals
    exact ⟨eq_of_view h.fmn Fmn.holder fun _ => rfl, eq_of_view h.fmn Fmn.remain fun _ => rfl, eq_of_view h.fmn Fmn.gen fun _ => rfl⟩

theorem State.fm_taking (c d : Bool) : (s.taking c).fm d = s.fm d := rfl

/-- The Foreman of a takeover stands as it stood, or is booted. -/
theorem State.takeStart_self (s : State) (c : Bool) : ((s.takeStart c).fm c).served = (s.fm c).served ∨
    ((s.takeStart c).fm c).served = ((s.fm c).booted s.fmn.tick).served := by
  rcases s.takeStart_cases c with h | h
  · exact .inl (h.fm c)
  · have hc := h.fm c
    rw [State.fm_modFm_same, State.fm_taking] at hc
    exact .inr hc

theorem State.takeStart_claim {c : Bool} (h : (s.fm c).claim = false) : ((s.takeStart c).fm c).claim = false := by
  rcases s.takeStart_self c with hc | hc
  · exact (eq_of_view hc Foreman.claim fun _ => rfl).trans h
  · exact eq_of_view hc Foreman.claim fun _ => rfl

theorem State.takeStart_fault {c : Bool} (h : (s.fm c).fault = false) : ((s.takeStart c).fm c).fault = false := by
  rcases s.takeStart_self c with hc | hc
  · exact (eq_of_view hc Foreman.fault fun _ => rfl).trans h
  · exact eq_of_view hc Foreman.fault fun _ => rfl

theorem State.takeStart_boots {c : Bool} (htrip : s.pwr.tripped = false) (h : (s.fm c).st = .off) : ((s.takeStart c).fm c).st = .boot := by
  have hc := (State.takeStart_off htrip h).fm c
  rw [State.fm_modFm_same, State.fm_taking] at hc
  exact eq_of_view hc Foreman.st fun _ => rfl

/-! ### A holder revoked (R312) -/

/-- Foreman `b` has been revoked from the lease for cause `c`, and the other one booted where AUTO says so. -/
structure Revoked (s : State) (b : Bool) (c : Nat) (t : State) : Prop where
  holder : t.fmn.holder = 0
  remain : t.fmn.remain = 0
  gen : t.fmn.gen = s.fmn.gen
  revoked : (t.fm b).revoked = true
  st : (t.fm b).st = if s.fmnCfg 4 then .held else .standby
  cause : t.reg 0x30064 = w32 (c + b.toNat * 2 ^ 3 + fld s.bolt 0 28 * 2 ^ 4)
  count : t.reg 0x30068 = s.reg 0x30068 + 1
  raised : t.rb 0x30010 0 = true
  boots : s.pwr.tripped = false → s.fmnCfg 0 = true → (s.fm !b).st = .off → (t.fm !b).st = .boot
  stays : s.fmnCfg 0 = false → (t.fm !b).st = (s.fm !b).st

theorem Revoked.keeps (h : Revoked s b c t) (k : Keeps Fmn.standing t u) (hremain : u.fmn.remain = t.fmn.remain) : Revoked s b c u where
  holder := k.holder_standing.trans h.holder
  remain := hremain.trans h.remain
  gen := k.gen_standing.trans h.gen
  revoked := (k.revoked_standing b).trans h.revoked
  st := (k.st_standing b).trans h.st
  cause := (k.reg _ (.inr (by decide)) (by decide)).trans h.cause
  count := (k.reg _ (.inr (by decide)) (by decide)).trans h.count
  raised := k.raw 0 h.raised
  boots htrip hauto hoff := (k.st_standing _).trans (h.boots htrip hauto hoff)
  stays hauto := (k.st_standing _).trans (h.stays hauto)

section
variable (hh : s.fmn.holder = fmCode b) (hst : (s.fm b).st = .active)

theorem State.fm_deposed : (s.deposed c b).fm b = (s.fm b).deposed (if s.fmnCfg 4 then .held else .standby) := by
  unfold State.deposed
  rw [State.fm_irq, State.fm_incReg, State.fm_modFm_same]
  rfl

theorem State.fm_deposed_not : (s.deposed c b).fm (!b) = s.fm !b := by
  unfold State.deposed
  rw [State.fm_irq, State.fm_incReg, State.fm_modFm_not]
  rfl

theorem State.lease_deposed :
    (s.deposed c b).fmn.holder = 0 ∧ (s.deposed c b).fmn.remain = 0 ∧ (s.deposed c b).fmn.gen = s.fmn.gen := by
  unfold State.deposed State.incReg
  rw [State.irq_fmn]
  cases b <;> exact ⟨rfl, rfl, rfl⟩

theorem State.cause_deposed : (s.deposed c b).reg 0x30064 = w32 (c + b.toNat * 2 ^ 3 + fld s.bolt 0 28 * 2 ^ 4) := by
  unfold State.deposed
  rw [State.irq_reg_other _ (by decide), State.reg_incReg_other _ _ (by decide)]
  exact s.reg_setReg_same _ _

theorem State.count_deposed : (s.deposed c b).reg 0x30068 = s.reg 0x30068 + 1 := by
  unfold State.deposed
  rw [State.irq_reg_other _ (by decide)]
  refine (State.reg_incReg_same _ _ _).trans (congrArg (· + w32 1) ?_)
  exact s.reg_setReg_other _ (by decide)

theorem State.raised_deposed : (s.deposed c b).rb 0x30010 0 = true := State.bit_irq_raised _ (by decide)

include hh hst

/-- The other Foreman as the revocation finds it, and the state that it leaves for a takeover. -/
theorem State.revoke_parts : Keeps (Fmn.beside b) (s.deposed c b) (s.revoke c) ∧
    ∃ u : State, s.revoke c = u.when (s.fmnCfg 0) (·.takeStart !b) ∧ u.pwr.tripped = s.pwr.tripped ∧ (u.fm !b).served = (s.fm !b).served := by
  obtain ⟨u, hu, hrevoke⟩ := s.revoke_active c hh hst
  have htrip : (s.deposed c b).pwr = s.pwr := by
    unfold State.deposed
    rw [State.irq_pwr]
    rfl
  refine ⟨?_, u, hrevoke, hu.tripped.trans (congrArg Pwr.tripped htrip), (hu.fm _).trans (congrArg Foreman.served State.fm_deposed_not)⟩
  rw [hrevoke]
  exact hu.to_beside.trans (.when (f := (·.takeStart !b)) .takeStart)

theorem State.revoke_revoked : Revoked s b c (s.revoke c) := by
  obtain ⟨hbeside, u, hrevoke, htrip, hother⟩ := State.revoke_parts (c := c) hh hst
  obtain ⟨hholder, hremain, hgen⟩ := hbeside.lease_beside
  obtain ⟨hholder', hremain', hgen'⟩ := s.lease_deposed (c := c) (b := b)
  have hfm : ((s.revoke c).fm b).served = ((s.fm b).deposed (if s.fmnCfg 4 then .held else .standby)).served := by
    rw [hbeside.fm_beside, State.fm_deposed]
  have hst' : (u.fm !b).st = (s.fm !b).st := eq_of_view hother Foreman.st fun _ => rfl
  refine ⟨hholder.trans hholder', hremain.trans hremain', hgen.trans hgen', ?_, ?_, ?_, ?_, ?_, fun ht hauto hoff => ?_, fun hauto => ?_⟩
  · exact eq_of_view hfm Foreman.revoked fun _ => rfl
  · exact eq_of_view hfm Foreman.st fun _ => rfl
  · exact (hbeside.reg _ (.inr (by decide)) (by decide)).trans State.cause_deposed
  · exact (hbeside.reg _ (.inr (by decide)) (by decide)).trans State.count_deposed
  · exact hbeside.raw 0 State.raised_deposed
  · rw [hrevoke, hauto]
    exact State.takeStart_boots (htrip.trans ht) (hst'.trans hoff)
  · rw [hrevoke, hauto]
    exact hst'

/-- After a revocation nothing is pending of either Foreman that the tick could still take. -/
theorem State.revoke_untroubled (hfault : (s.fm !b).fault = false) (hclaim : (s.fm !b).claim = false) :
    (s.revoke c).Untroubled ∧ ∀ d, (s.revoke c).unclaimed d := by
  obtain ⟨hbeside, u, hrevoke, -, hother⟩ := State.revoke_parts (c := c) hh hst
  have hheadless := State.holds_of_headless (State.revoke_revoked (c := c) hh hst).holder
  have hfm : ((s.revoke c).fm b).served = ((s.fm b).deposed (if s.fmnCfg 4 then .held else .standby)).served := by
    rw [hbeside.fm_beside, State.fm_deposed]
  have hfault' : (u.fm !b).fault = false := (eq_of_view hother Foreman.fault fun _ => rfl).trans hfault
  have hclaim' : (u.fm !b).claim = false := (eq_of_view hother Foreman.claim fun _ => rfl).trans hclaim
  have hnot : ((s.revoke c).fm !b).fault = false ∧ ((s.revoke c).fm !b).claim = false := by
    rw [hrevoke, State.when]
    split
    · exact ⟨State.takeStart_fault hfault', State.takeStart_claim hclaim'⟩
    · exact ⟨hfault', hclaim'⟩
  have hself : ((s.revoke c).fm b).fault = false ∧ ((s.revoke c).fm b).claim = false :=
    ⟨eq_of_view hfm Foreman.fault fun _ => rfl, eq_of_view hfm Foreman.claim fun _ => rfl⟩
  have hboth (d : Bool) : ((s.revoke c).fm d).fault = false ∧ ((s.revoke c).fm d).claim = false := by
    rcases Bool.eq_or_eq_not d b with rfl | rfl
    · exact hself
    · exact hnot
  exact ⟨⟨fun d => .inl (hboth d).1, fun d => .inr (hheadless d)⟩, fun d => .inl (hboth d).2⟩

/-- The rest of the tick takes nothing of a revocation back. -/
theorem State.tick_revoked (hfault : (s.fm !b).fault = false) (hclaim : (s.fm !b).claim = false) (cp : Bool) :
    Revoked s b c ((s.revoke c).tickRest cp) := by
  have hrevoked := State.revoke_revoked (c := c) hh hst
  obtain ⟨hquiet, hunclaimed⟩ := State.revoke_untroubled (c := c) hh hst hfault hclaim
  obtain ⟨u, hu, hrest⟩ := hquiet.tickRest_unclaimed (cp := cp) (.inr hunclaimed)
  rw [hrest]
  refine hrevoked.keeps (hu.to_standing.trans .tickEnd) ?_
  rw [State.remain_tickEnd_headless (hu.holder.trans hrevoked.holder), hu.remain]

end

end

end Sys2Proof.Machine

/-! SUPPORT. The causes that a lease tick finds, and the revocation for the highest of them (R310, R312). -/
namespace Sys2Proof.Machine

section
variable {s : State} {b : Bool} {c : Nat}

/-! ### The tick's count -/

/-- A tick has been counted, and no cause stands any more. -/
def State.ticked (s : State) : State := s.tickCount.modFmn (fun f => { f with causes := [] })

/-- The cause that the wire or the end of the lease gives at this tick. -/
def State.expiry (s : State) : List Nat :=
  if s.tickCount.wireSilent = true ∧ (s.fmn.remain - 1 = 0 ∨ s.tickCount.shedSilent = true) then [2] else if s.fmn.remain - 1 = 0 then [1] else []

theorem State.tickCauses_headless (h : s.fmn.holder = 0) : s.tickCount.tickCauses = [] := if_pos h

theorem State.tickCauses_held (h : s.fmn.holder ≠ 0) :
    s.tickCount.tickCauses = s.fmn.causes ++ (if s.cpBegins then [6] else []) ++ s.expiry := if_neg h

/-- With no reset of the control plane and no standing cause. -/
theorem State.tickCauses_expiry (h : s.fmn.holder ≠ 0) (hc : s.fmn.causes = []) (hcp : s.cpBegins = false) :
    s.tickCount.tickCauses = s.expiry := by
  rw [State.tickCauses_held h, hc, hcp]
  rfl

theorem State.expiry_le {x : Nat} (h : x ∈ s.expiry) : x ≤ 2 := by
  unfold State.expiry at h
  split at h
  · exact (List.mem_singleton.mp h).le
  · split at h
    · exact (List.mem_singleton.mp h).le.trans (by decide)
    · cases h

theorem State.expiry_end (hremain : s.fmn.remain ≤ 1) (hwire : s.tickCount.wireSilent = false) : s.expiry = [1] := by
  have hzero : s.fmn.remain - 1 = 0 := by omega
  simp [State.expiry, hwire, hzero]

theorem State.expiry_silent (hwire : s.tickCount.wireSilent = true) (h : s.fmn.remain ≤ 1 ∨ s.tickCount.shedSilent = true) : s.expiry = [2] :=
  if_pos ⟨hwire, h.imp_left fun hr => by omega⟩

theorem State.expiry_none (hremain : 1 < s.fmn.remain) (h : s.tickCount.wireSilent = false ∨ s.tickCount.shedSilent = false) :
    s.expiry = [] := by
  have hzero : ¬ s.fmn.remain - 1 = 0 := by omega
  have hsilent : ¬ (s.tickCount.wireSilent = true ∧ (s.fmn.remain - 1 = 0 ∨ s.tickCount.shedSilent = true)) := by
    rintro ⟨hwire, hr | hshed⟩
    · exact hzero hr
    · simp [hwire, hshed] at h
  rw [State.expiry, if_neg hsilent, if_neg hzero]

/-! ### The first steps of a tick (R310 steps 1 and 2) -/

/-- The highest cause of a list. -/
theorem foldl_max_of_mem {l : List Nat} (hmem : c ∈ l) (hle : ∀ x ∈ l, x ≤ c) : l.foldl max 0 = c := by
  rw [List.foldl_eq_foldr]
  exact le_antisymm (List.max_le_of_forall_le l c hle) (List.le_max_of_le hmem le_rfl)

theorem State.tickRevoke_cause (hmem : c ∈ s.tickCount.tickCauses) (hle : ∀ x ∈ s.tickCount.tickCauses, x ≤ c) :
    s.tickCount.tickRevoke = s.ticked.revoke c := by
  unfold State.tickRevoke
  dsimp only
  rw [if_pos (List.ne_nil_of_mem hmem), foldl_max_of_mem hmem hle]
  rfl

theorem State.tickRevoke_quiet (hnone : s.tickCount.tickCauses = []) (h : s.fmn.holder = 0 ∨ s.tickCount.wireSilent = false) :
    s.tickCount.tickRevoke = s.ticked := by
  have hwire : ¬ (s.tickCount.fmn.holder ≠ 0 ∧ s.tickCount.wireSilent = true ∧ ¬ s.tickCount.fmn.wireLost = true) := by
    rintro ⟨hholder, hsilent, -⟩
    rcases h with h | h
    · exact hholder h
    · simp [h] at hsilent
  unfold State.tickRevoke
  dsimp only
  rw [if_neg (not_not.mpr hnone), if_neg hwire]
  rfl

/-- The wire of the holder is lost, which is raised (R315). -/
def State.wireGone (s : State) : State := (s.modFmn (fun f => { f with wireLost := true })).irq (fmnA 0) 8

theorem State.tickRevoke_wire (hnone : s.tickCount.tickCauses = []) (hheld : s.fmn.holder ≠ 0) (hsilent : s.tickCount.wireSilent = true)
    (hlost : s.fmn.wireLost = false) : s.tickCount.tickRevoke = s.ticked.wireGone := by
  have hwire : s.tickCount.fmn.holder ≠ 0 ∧ s.tickCount.wireSilent = true ∧ ¬ s.tickCount.fmn.wireLost = true :=
    ⟨hheld, hsilent, by rw [Bool.not_eq_true]; exact hlost⟩
  unfold State.tickRevoke
  dsimp only
  rw [if_neg (not_not.mpr hnone), if_pos hwire]
  rfl

/-! ### The tick at which the holder is revoked -/

theorem Revoked.of_ticked {t : State} (h : Revoked s.ticked b c t) : Revoked s b c t :=
  ⟨h.holder, h.remain, h.gen, h.revoked, h.st, h.cause, h.count, h.raised, h.boots, h.stays⟩

theorem State.leaseTick_revoked (hh : s.fmn.holder = fmCode b) (hst : (s.fm b).st = .active) (hfault : (s.fm !b).fault = false)
    (hclaim : (s.fm !b).claim = false) (hmem : c ∈ s.tickCount.tickCauses) (hle : ∀ x ∈ s.tickCount.tickCauses, x ≤ c) :
    Revoked s b c s.leaseTick := by
  rw [State.leaseTick_eq, State.tickRevoke_cause hmem hle]
  exact (State.tick_revoked (s := s.ticked) (c := c) hh hst hfault hclaim s.cpBegins).of_ticked

/-- A tick that is due. -/
theorem exec_leaseTick (h : s.tickDue = true) : exec .leaseTick s = .next s.leaseTick := by
  change Host.Outcome.next (s.when s.tickDue (·.leaseTick)) = _
  rw [h]
  rfl

theorem exec_leaseExpire (h : s.tickDue = true) (hheld : s.fmn.holder ≠ 0) (hremain : s.fmn.remain ≤ 1) :
    exec .leaseExpire s = .next s.leaseTick := by
  change Host.Outcome.next (s.when (s.tickDue && decide (s.fmn.holder ≠ 0 ∧ s.fmn.remain ≤ 1)) (·.leaseTick)) = _
  rw [h, decide_eq_true ⟨hheld, hremain⟩]
  rfl

theorem exec_leaseExpire_not (h : s.tickDue = false ∨ s.fmn.holder = 0 ∨ 1 < s.fmn.remain) : exec .leaseExpire s = .next s := by
  have hnot : (s.tickDue && decide (s.fmn.holder ≠ 0 ∧ s.fmn.remain ≤ 1)) = false := by
    rcases h with h | h | h
    · rw [h]; rfl
    · simp [h]
    · simp [Nat.not_le.mpr h]
  change Host.Outcome.next (s.when (s.tickDue && decide (s.fmn.holder ≠ 0 ∧ s.fmn.remain ≤ 1)) (·.leaseTick)) = _
  rw [hnot]
  rfl

theorem exec_wireTimeout (h : s.tickDue = true) (hheld : s.fmn.holder ≠ 0) (hsilent : s.tickCount.wireSilent = true) :
    exec .wireTimeout s = .next s.leaseTick := by
  change Host.Outcome.next (s.when (s.tickDue && decide (s.fmn.holder ≠ 0) && s.tickCount.wireSilent) (·.leaseTick)) = _
  rw [h, decide_eq_true hheld, hsilent]
  rfl

theorem exec_wireTimeout_not (h : s.tickDue = false ∨ s.fmn.holder = 0 ∨ s.tickCount.wireSilent = false) : exec .wireTimeout s = .next s := by
  have hnot : (s.tickDue && decide (s.fmn.holder ≠ 0) && s.tickCount.wireSilent) = false := by
    rcases h with h | h | h
    · rw [h]; rfl
    · simp [h]
    · simp [h]
  change Host.Outcome.next (s.when (s.tickDue && decide (s.fmn.holder ≠ 0) && s.tickCount.wireSilent) (·.leaseTick)) = _
  rw [hnot]
  rfl

theorem exec_leaseTick_not (h : s.tickDue = false) : exec .leaseTick s = .next s := by
  change Host.Outcome.next (s.when s.tickDue (·.leaseTick)) = _
  rw [h]
  rfl

end

end Sys2Proof.Machine

/-! SUPPORT. The tick at which the lease goes on, is granted, or is released (R310, R311, R315). -/
namespace Sys2Proof.Machine

section
variable {s t u : State} {view : Fmn → Fmn} {b : Bool}

/-! ### The lease goes on -/

theorem Keeps.tick_standing (h : Keeps Fmn.standing s t) : t.fmn.tick = s.fmn.tick := eq_of_view h.fmn Fmn.tick fun _ => rfl
theorem Keeps.tickAt_standing (h : Keeps Fmn.standing s t) : t.fmn.tickAt = s.fmn.tickAt := eq_of_view h.fmn Fmn.tickAt fun _ => rfl
theorem Keeps.wireLost_standing (h : Keeps Fmn.standing s t) : t.fmn.wireLost = s.fmn.wireLost := eq_of_view h.fmn Fmn.wireLost fun _ => rfl

/-- Of a holder that is not revoked and releases nothing, only the renewal counts. -/
theorem State.tickRest_held {cp : Bool} (hh : s.fmn.holder = fmCode b) (hfault : (s.fm !b).fault = false) (hrel : (s.fm b).rel = none) :
    ∃ u, LeaseKept s u ∧ s.tickRest cp = u.tickEnd := by
  have hheld : s.fmn.holder ≠ 0 := hh ▸ fmCode_ne_zero b
  have hself := State.holds_of_code hh
  have hother := State.holds_not_of_code hh
  refine State.Untroubled.tickRest_unclaimed ⟨fun c => ?_, fun c => ?_⟩ (.inr fun c => .inr (State.mayClaim_of_held hheld c))
  · rcases Bool.eq_or_eq_not c b with rfl | rfl
    · exact .inr hself
    · exact .inl hfault
  · rcases Bool.eq_or_eq_not c b with rfl | rfl
    · exact .inl hrel
    · exact .inr hother

/-- Once ticked, a state with the CDP domain on is due at the next bolt; with it off, at once. -/
theorem State.tickDue_counted (h : s.tickDue = true) (k : Keeps Fmn.standing s.ticked t) : t.tickDue = !s.pwr.cdpOn := by
  have hrange : t.pwr.inRange = s.pwr.inRange := congrArg (fun p => p.1) k.supply
  have hcdp : t.pwr.cdpOn = s.pwr.cdpOn := congrArg (fun p => p.2.1) k.supply
  have hat : t.fmn.tickAt = t.bolt := k.tickAt_standing.trans k.bolt.symm
  have hin : s.pwr.inRange = true := (Bool.and_eq_true_iff.mp h).1
  simp [State.tickDue, hrange, hcdp, hat, hin]

/-! ### The lease is granted -/

theorem State.granted_lease (transfer : Bool) : (s.granted b transfer).fmn.holder = fmCode b ∧
    (s.granted b transfer).fmn.gen = nextGen s.fmn.gen ∧ (s.granted b transfer).fmn.remain = s.leaseLen := by
  unfold State.granted
  dsimp only
  split
  · simp [State.modFmn]
  · simp [State.modFmn]

theorem State.st_granted (transfer : Bool) : ((s.granted b transfer).fm b).st = .active := by
  unfold State.granted
  rw [State.fm_irq, State.fm_modFm_same]

/-- The other Foreman is not touched by a grant, but for the time of its release. -/
theorem State.granted_other (transfer : Bool) : ((s.granted b transfer).fm !b).st = (s.fm !b).st ∧
    ((s.granted b transfer).fm !b).rel = (s.fm !b).rel := by
  unfold State.granted
  dsimp only
  split
  · simp only [State.fm_irq, State.fm_modFm_not, State.fm_modFm_same]
    exact ⟨rfl, rfl⟩
  · simp only [State.fm_irq, State.fm_modFm_not]
    exact ⟨rfl, rfl⟩

theorem State.reg_granted (transfer : Bool) {a : Nat} (ha : a ≠ 0x30010) : (s.granted b transfer).reg a = s.reg a := by
  unfold State.granted
  dsimp only
  have hraw : a ≠ fmnA 0 + 0x10 := ha
  rw [State.irq_reg_other _ hraw]
  split <;> rfl

theorem State.raised_granted (transfer : Bool) : (s.granted b transfer).rb 0x30010 1 = true := State.bit_irq_raised _ (by decide)

/-- After a grant no claim counts any more. -/
theorem LeaseKept.claim_after_grant (h : LeaseKept (s.granted b false) t) (c : Bool) : LeaseKept (s.granted b false) (t.takeClaim c) := by
  have hheld : t.fmn.holder ≠ 0 := by
    rw [h.holder, (State.granted_lease false).1]
    exact fmCode_ne_zero b
  exact h.trans (LeaseKept.takeClaim (.inr (State.mayClaim_of_held hheld c)))

/-- Of two claims PREFER's comes first; one that cannot be granted leaves the lease to the other. -/
theorem State.takeClaims_granted (hclaim : (s.fm b).claim = true) (hmay : s.mayClaim b = true)
    (hfirst : b = s.prefer ∨ s.unclaimed !b) :
    ∃ u, LeaseKept s u ∧ LeaseKept (u.granted b false) ((s.takeClaim s.prefer).takeClaim !s.prefer) := by
  by_cases hp : b = s.prefer
  · refine ⟨s, .refl s, ?_⟩
    rw [← hp, State.takeClaim_granted hclaim hmay]
    exact (LeaseKept.grant false).claim_after_grant _
  · have hprefer : s.prefer = !b := (Bool.eq_not_of_ne (Ne.symm hp))
    have hkept : LeaseKept s (s.takeClaim !b) := LeaseKept.takeClaim (hfirst.resolve_left hp)
    refine ⟨_, hkept, ?_⟩
    rw [hprefer, Bool.not_not, State.takeClaim_granted ((hkept.claim b).trans hclaim) ((hkept.mayClaim b).trans hmay)]
    exact LeaseKept.grant false

/-- REMAIN of a lease just granted is a whole one, renewed or not. -/
theorem State.remain_tickEnd_whole (hh : s.fmn.holder = fmCode b) (hremain : s.fmn.remain = s.leaseLen) :
    s.tickEnd.fmn.remain = s.leaseLen := by
  rw [State.remain_tickEnd hh]
  split
  · split
    · rfl
    · exact hremain
  · exact hremain

theorem State.tickRest_granted (hh : s.fmn.holder = 0) (hfault : ∀ c, (s.fm c).fault = false) (hclaim : (s.fm b).claim = true)
    (hmay : s.mayClaim b = true) (hfirst : b = s.prefer ∨ s.unclaimed !b) :
    (s.tickRest false).fmn.holder = fmCode b ∧ (s.tickRest false).fmn.gen = nextGen s.fmn.gen ∧
      (s.tickRest false).fmn.remain = s.leaseLen ∧ ((s.tickRest false).fm b).st = .active ∧ (s.tickRest false).rb 0x30010 1 = true := by
  have hquiet : s.Untroubled := ⟨fun c => .inl (hfault c), fun c => .inr (State.holds_of_headless hh c)⟩
  obtain ⟨u, hu, hv⟩ := State.takeClaims_granted hclaim hmay hfirst
  rw [hquiet.tickRest false, if_neg Bool.false_ne_true]
  generalize (s.takeClaim s.prefer).takeClaim (!s.prefer) = w at hv ⊢
  obtain ⟨hholder, hgen, hremain⟩ := u.granted_lease (b := b) false
  have hlen : w.leaseLen = s.leaseLen := hv.leaseLen.trans ((congrArg (fun x => max 16 (fld x 0 12)) (State.reg_granted false (by decide))).trans hu.leaseLen)
  have hend : Keeps Fmn.standing w w.tickEnd := Keeps.tickEnd
  have hcode : w.fmn.holder = fmCode b := hv.holder.trans hholder
  refine ⟨hend.holder_standing.trans hcode, ?_, ?_, ?_, ?_⟩
  · rw [hend.gen_standing, hv.gen, hgen, hu.gen]
  · rw [State.remain_tickEnd_whole hcode (by rw [hv.remain, hremain, hlen, hu.leaseLen]), hlen]
  · rw [hend.st_standing, hv.st, State.st_granted]
  · exact hend.raw 1 (hv.raw 1 (State.raised_granted false))

/-! ### The lease is released -/

/-- A former holder that stands by. -/
def Foreman.relieved (f : Foreman) (now : Word) : Foreman := { f with stdbyAt := now, st := .standby }

theorem LeaseKept.standBy : LeaseKept (s.modFm b (·.relieved s.fmn.tick)) (s.standBy b) := by
  refine .after (.setFm b .standby) ?_
  cases b <;> exact .of_eq rfl rfl rfl

/-- A change of one Foreman that does not look into the inbox. -/
theorem LeaseKept.modFm_congr (h : LeaseKept s t) {f : Foreman → Foreman} (hf : ∀ x, (f x).served = (f x.served).served) :
    LeaseKept (s.modFm b f) (t.modFm b f) := by
  have hserved : (f (t.fm b)).served = (f (s.fm b)).served := by rw [hf, h.fm b, ← hf]
  refine ⟨?_, h.reg, h.raw, h.supply⟩
  cases b
  · exact congrArg₂ (fun n x => { n with a := x }) h.fmn hserved
  · exact congrArg₂ (fun n x => { n with b := x }) h.fmn hserved

/-- What the release of holder `b` leaves: no holder, the cause, the former holder standing by. -/
def State.released (s : State) (b : Bool) : State := ((s.setCause 4 b).unheld).modFm b (·.relieved s.fmn.tick)

/-- What a release of holder `b` to the other one leaves, before the other one is granted the lease. -/
def State.passing (s : State) (b : Bool) : State :=
  (s.setCause 4 b).modFm b (fun f => { f.relieved s.fmn.tick with offAt := if s.fmnCfg 3 then some (s.fmn.tick + 16) else none })

section
variable {r : Word} (hh : s.fmn.holder = fmCode b) (hgen : fld r 16 16 = fld s.fmn.gen 0 16)
include hh hgen

theorem State.leaseRel_up (hto : fld r 0 2 = 0) : LeaseKept (s.released b) (s.leaseRel b r) := by
  unfold State.leaseRel
  dsimp only
  rw [if_pos ⟨State.holds_of_code hh, hgen⟩, if_pos hto]
  refine .after .traceLease (.after LeaseKept.standBy ?_)
  cases b <;> exact .of_eq rfl rfl rfl

theorem State.leaseRel_over (hto : fld r 0 2 = fmCode !b) (hready : s.ready (!b) = true) :
    ∃ u, LeaseKept (s.passing b) u ∧ LeaseKept (u.granted (!b) true) (s.leaseRel b r) := by
  unfold State.leaseRel
  dsimp only
  rw [if_pos ⟨State.holds_of_code hh, hgen⟩, if_neg (by rw [hto]; exact fmCode_ne_zero _), if_pos hto, if_pos hready]
  refine ⟨_, ?_, LeaseKept.grant true⟩
  refine .after (LeaseKept.standBy.modFm_congr fun _ => rfl) ?_
  cases b <;> exact .of_eq rfl rfl rfl

/-- A release to itself, or to code 3, is logged (R311). -/
theorem State.leaseRel_refused (hto : fld r 0 2 = fmCode b ∨ fld r 0 2 = 3) :
    s.leaseRel b r = s.errlog (fmnA 0) 0x58 (if b then 65 else 64) := by
  have hnone : fld r 0 2 ≠ 0 := by rcases hto with h | h <;> rw [h] <;> cases b <;> decide
  have hother : fld r 0 2 ≠ fmCode !b := by rcases hto with h | h <;> rw [h] <;> cases b <;> decide
  unfold State.leaseRel
  dsimp only
  rw [if_pos ⟨State.holds_of_code hh, hgen⟩, if_neg hnone, if_neg hother]

end

end

end Sys2Proof.Machine

/-! SUPPORT. The tick that takes a release, and the tick at which a reset of the control plane begins without a holder (R311, R312). -/
namespace Sys2Proof.Machine

section
variable {s t u w : State} {view : Fmn → Fmn} {b : Bool} {r : Word} {cp : Bool}

/-! ### A tick that takes the holder's release -/

theorem State.takeRelease_some (h : (s.fm b).rel = some r) : s.takeRelease b = s.leaseRel b r := by
  unfold State.takeRelease
  rw [h]

/-- The other Foreman has released nothing. -/
theorem State.takeRelease_both (h : (s.fm !b).rel = none) (hkept : ((s.takeRelease b).fm !b).rel = none) :
    (s.takeRelease false).takeRelease true = s.takeRelease b := by
  cases b
  · exact State.takeRelease_kept (.inl hkept)
  · exact congrArg (State.takeRelease · true) (State.takeRelease_kept (.inl h))

/-- What a release leaves, with no claim that counts, the tick keeps. -/
theorem State.tickRest_released (hh : s.fmn.holder = fmCode b) (hfault : (s.fm !b).fault = false) (hrel : (s.fm !b).rel = none)
    (hr : (s.fm b).rel = some r) (hkept : ((s.leaseRel b r).fm !b).rel = none) (hclaim : ∀ c, (s.leaseRel b r).unclaimed c) :
    Keeps Fmn.standing (s.leaseRel b r) (s.tickRest cp) := by
  have hfaults (c : Bool) : s.holdFaulty c = s := by
    refine State.holdFaulty_kept ?_
    rcases Bool.eq_or_eq_not c b with rfl | rfl
    · exact .inr (State.holds_of_code hh)
    · exact .inl hfault
  unfold State.tickRest
  dsimp only
  rw [hfaults, hfaults, State.takeRelease_both hrel (by rwa [State.takeRelease_some hr]), State.takeRelease_some hr]
  refine .after .tickEnd ?_
  cases cp
  · exact (LeaseKept.takeClaims hclaim).to_standing
  · exact .refl _

theorem State.fm_released : (s.released b).fm b = (s.fm b).relieved s.fmn.tick := by
  unfold State.released
  rw [State.fm_modFm_same]
  rfl

theorem State.fm_released_not : (s.released b).fm (!b) = s.fm !b := by
  unfold State.released
  rw [State.fm_modFm_not]
  rfl

theorem State.fm_passing_not : (s.passing b).fm (!b) = s.fm !b := by
  unfold State.passing
  rw [State.fm_modFm_not]
  rfl

theorem State.rel_granted (transfer : Bool) : ((s.granted b transfer).fm b).rel = (s.fm b).rel := by
  unfold State.granted
  dsimp only
  rw [State.fm_irq, State.fm_modFm_same]
  split
  · rw [State.fm_modFm_of_not, State.fm_modFm_same]
    rfl
  · rw [State.fm_modFm_same]
    rfl

section
variable (hh : s.fmn.holder = fmCode b) (hgen : fld r 16 16 = fld s.fmn.gen 0 16) (hfault : (s.fm !b).fault = false)
  (hrel : (s.fm !b).rel = none) (hr : (s.fm b).rel = some r)
include hh hgen hfault hrel hr

/-- A release to none leaves the lease without a holder where no claim stands. -/
theorem State.tickRest_up (hto : fld r 0 2 = 0) (hclaim : ∀ c, (s.fm c).claim = false) :
    Keeps Fmn.standing (s.released b) (s.tickRest cp) := by
  have hup := State.leaseRel_up hh hgen hto
  refine hup.to_standing.trans (State.tickRest_released hh hfault hrel hr ?_ fun c => .inl ?_)
  · rw [hup.rel, State.fm_released_not, hrel]
  · rw [hup.claim]
    rcases Bool.eq_or_eq_not c b with rfl | rfl
    · exact (congrArg Foreman.claim State.fm_released).trans (hclaim _)
    · exact (congrArg Foreman.claim State.fm_released_not).trans (hclaim _)

/-- A release to the other Foreman passes the lease on. -/
theorem State.tickRest_over (hto : fld r 0 2 = fmCode !b) (hready : s.ready (!b) = true) :
    ∃ u, LeaseKept (s.passing b) u ∧ Keeps Fmn.standing (u.granted (!b) true) (s.tickRest cp) := by
  obtain ⟨u, hu, hover⟩ := State.leaseRel_over hh hgen hto hready
  obtain ⟨hholder, -, -⟩ := u.granted_lease (b := !b) true
  refine ⟨u, hu, hover.to_standing.trans (State.tickRest_released hh hfault hrel hr ?_ fun c => .inr (State.mayClaim_of_held ?_ c))⟩
  · rw [hover.rel, State.rel_granted, hu.rel, State.fm_passing_not, hrel]
  · rw [hover.holder, hholder]
    exact fmCode_ne_zero _

/-- A release to itself leaves the lease, and is logged. -/
theorem State.tickRest_refused (hto : fld r 0 2 = fmCode b ∨ fld r 0 2 = 3) :
    Keeps Fmn.standing (s.errlog (fmnA 0) 0x58 (if b then 65 else 64)) (s.tickRest cp) := by
  have hlogged := State.leaseRel_refused hh hgen hto
  have hheld : s.fmn.holder ≠ 0 := hh ▸ fmCode_ne_zero b
  rw [← hlogged]
  refine State.tickRest_released hh hfault hrel hr ?_ fun c => .inr (State.mayClaim_of_held ?_ c)
  · rw [hlogged]
    exact hrel
  · rw [hlogged]
    exact hheld

end

/-! ### No holder, and a reset that begins -/

/-- The holder alone. -/
def Fmn.held (f : Fmn) : Fmn := { holder := f.holder }

theorem Keeps.held_standing (h : Keeps Fmn.standing s t) : Keeps Fmn.held s t :=
  ⟨(congrArg Fmn.held h.fmn : t.fmn.standing.held = s.fmn.standing.held), h.reg, h.raw, h.supply⟩

theorem Keeps.holder_held (h : Keeps Fmn.held s t) : t.fmn.holder = s.fmn.holder := eq_of_view h.fmn Fmn.holder fun _ => rfl

theorem Keeps.modFm_held (c : Bool) (f : Foreman → Foreman) : Keeps Fmn.held s (s.modFm c f) := .modFm fun _ => by cases c <;> rfl

theorem Keeps.setFm_held (c : Bool) (st : FmSt) : Keeps Fmn.held s (s.setFm c st) := .after (.setFm c st) (.modFm_held c _)

theorem Keeps.offFm_held (c : Bool) : Keeps Fmn.held s (s.offFm c) :=
  .after .noteDom (.after (.setFm_held c .off) (.after (.modFm_held c _) (.abandon c)))

theorem Keeps.failFm_held (c : Bool) (st : FmSt) : Keeps Fmn.held s (s.failFm c st) := by
  refine Keeps.ite (.after (.after (.setFm_held c .fail) (.offFm_held c)) (.modFm_held c _)) (.ite ?_ ?_)
  · exact .after (.offFm_held c) (.modFm_held c _)
  · exact .after (.setFm_held c st) (.modFm_held c _)

theorem Keeps.takeStart_held (c : Bool) : Keeps Fmn.held s (s.takeStart c) := by
  have htaking : Keeps Fmn.held s (s.taking c) := .of_eq rfl rfl rfl
  rcases s.takeStart_cases c with h | h
  · exact htaking.trans h.to_standing.held_standing
  · exact htaking.trans (.after h.to_standing.held_standing (.modFm_held c _))

theorem Keeps.takeOther_held (c : Bool) : Keeps Fmn.held s (s.takeOther c) := .ite (.takeStart_held _) (.of_eq rfl rfl rfl)

theorem Keeps.holdFaulty_held (c : Bool) : Keeps Fmn.held s (s.holdFaulty c) := by
  have hfaulted (f : Foreman → Foreman) : Keeps Fmn.held s (((s.modFm c f).abandon c).irq (fmnA 0) 0x100) :=
    .after (.irq 0x100 (.inl rfl)) (.after (.abandon c) (.modFm_held c f))
  refine Keeps.ite (.ite ?_ ?_) (.refl s)
  · exact .after (.takeOther_held c) (.after (.failFm_held c .held) (hfaulted _))
  · exact .after (.setFm_held c .held) (hfaulted _)

/-- Without a holder a tick at which a reset begins grants nothing. -/
theorem State.tickRest_headless (h : s.fmn.holder = 0) : (s.tickRest true).fmn.holder = 0 := by
  have hfaulty : Keeps Fmn.held s ((s.holdFaulty false).holdFaulty true) := .after (.holdFaulty_held true) (.holdFaulty_held false)
  have hzero : ((s.holdFaulty false).holdFaulty true).fmn.holder = 0 := hfaulty.holder_held.trans h
  have hheld := State.holds_of_headless hzero
  unfold State.tickRest
  dsimp only
  rw [State.takeRelease_kept (.inr (hheld false)), State.takeRelease_kept (.inr (hheld true)), if_pos rfl]
  exact Keeps.tickEnd.holder_standing.trans hzero

end

end Sys2Proof.Machine

/-! SUPPORT. What the commands of the lease service do, case by case (R310-R312, R315, R486). -/
namespace Sys2Proof.Machine

section
variable {s : State} {m : Mid} {b : Bool} {c : Nat} {r v : Word}

/-! ### Lease writes -/

theorem State.leaseWrite_a (off : Nat) (f : Foreman → Foreman) (h : m = 64) : s.leaseWrite m off f = s.modFm false f := if_pos h

theorem State.leaseWrite_b (off : Nat) (f : Foreman → Foreman) (h : m = 65) : s.leaseWrite m off f = s.modFm true f := by
  subst h
  rfl

/-- A lease write of no Foreman is logged. -/
theorem State.leaseWrite_logged {off : Nat} (f : Foreman → Foreman) (hoff : off < 0x1000) (ha : m ≠ 64) (hb : m ≠ 65) :
    s.leaseWrite m off f = s.setReg 0x30020 (w32 (0x80000000 + m.toNat * 0x1000 + off)) := by
  unfold State.leaseWrite State.errlog
  rw [if_neg ha, if_neg hb, Nat.mod_eq_of_lt hoff]
  rfl

/-- What a lease write comes to that reaches its register. -/
theorem leaseWrite_outcome {o : Host.Outcome State Fault Refusal} {off : Nat} {f : Foreman → Foreman} (hoff : off < 0x1000)
    (ho : o = .next ((s.leaseWrite m off f).answer 0)) :
    (m = 64 → o = .next ((s.modFm false f).answer 0)) ∧ (m = 65 → o = .next ((s.modFm true f).answer 0)) ∧
      (m ≠ 64 → m ≠ 65 → o = .next ((s.setReg 0x30020 (w32 (0x80000000 + m.toNat * 0x1000 + off))).answer 0)) := by
  subst ho
  refine ⟨fun h => ?_, fun h => ?_, fun ha hb => ?_⟩
  · rw [State.leaseWrite_a off f h]
  · rw [State.leaseWrite_b off f h]
  · rw [State.leaseWrite_logged f hoff ha hb]

theorem exec_fmnLeaseClaim_reaches (h : reaches s m 0x30050) :
    exec (.fmnLeaseClaim m v) s = .next ((s.leaseWrite m 0x50 (fun f => { f with claim := bit v 0 })).answer 0) :=
  congrArg Host.Outcome.next (s.write4_reaches h)

theorem exec_fmnLeaseRenew_reaches (h : reaches s m 0x30054) :
    exec (.fmnLeaseRenew m v) s = .next ((s.leaseWrite m 0x54 (fun f => { f with renew := some v })).answer 0) :=
  congrArg Host.Outcome.next (s.write4_reaches h)

theorem exec_fmnLeaseRel_reaches (h : reaches s m 0x30058) :
    exec (.fmnLeaseRel m v) s = .next ((s.leaseWrite m 0x58 (fun f => { f with rel := some v })).answer 0) :=
  congrArg Host.Outcome.next (s.write4_reaches h)

/-! ### A holder that is neither faulty nor revoked by a standing cause -/

/-- Foreman `b` holds the lease with no cause against it, and the other one has no fault. -/
structure State.HoldsOn (s : State) (b : Bool) : Prop where
  holder : s.fmn.holder = fmCode b
  st : (s.fm b).st = .active
  fault : (s.fm !b).fault = false
  causes : s.fmn.causes = []
  cp : s.cpBegins = false

section
variable (h : s.HoldsOn b)
include h

theorem State.HoldsOn.held : s.fmn.holder ≠ 0 := h.holder ▸ fmCode_ne_zero b

theorem State.HoldsOn.tickCauses : s.tickCount.tickCauses = s.expiry := State.tickCauses_expiry h.held h.causes h.cp

/-- A tick with REMAIN left and the wire heard revokes nothing. -/
theorem State.HoldsOn.leaseTick_rest (hremain : 1 < s.fmn.remain) (hwire : s.tickCount.wireSilent = false) :
    s.leaseTick = s.ticked.tickRest false := by
  rw [State.leaseTick_eq, State.tickRevoke_quiet (h.tickCauses.trans (State.expiry_none hremain (.inl hwire))) (.inr hwire), h.cp]

theorem State.HoldsOn.leaseTick_goes_on (hremain : 1 < s.fmn.remain) (hwire : s.tickCount.wireSilent = false) (hrel : (s.fm b).rel = none) :
    ∃ u, LeaseKept s.ticked u ∧ s.leaseTick = u.tickEnd := by
  rw [h.leaseTick_rest hremain hwire]
  exact State.tickRest_held (s := s.ticked) h.holder h.fault hrel

/-- REMAIN after a tick at which the lease goes on. -/
theorem State.HoldsOn.remain_leaseTick (hremain : 1 < s.fmn.remain) (hwire : s.tickCount.wireSilent = false) (hrel : (s.fm b).rel = none) :
    s.leaseTick.fmn.remain = (match (s.fm b).renew with
      | some r => if fld r 0 16 = fld s.fmn.gen 0 16 then s.leaseLen else s.fmn.remain - 1
      | none => s.fmn.remain - 1) := by
  obtain ⟨u, hu, htick⟩ := h.leaseTick_goes_on hremain hwire hrel
  rw [htick, State.remain_tickEnd (hu.holder.trans h.holder), hu.renew, hu.gen, hu.leaseLen, hu.remain]
  rfl

theorem State.HoldsOn.leaseTick_expired (hclaim : (s.fm !b).claim = false) (hc : s.expiry = [c]) : Revoked s b c s.leaseTick := by
  refine State.leaseTick_revoked h.holder h.st h.fault hclaim ?_ ?_
  · rw [h.tickCauses, hc]
    exact List.mem_singleton_self c
  · rw [h.tickCauses, hc]
    exact fun x hx => (List.mem_singleton.mp hx).le

/-- With the wire silent and renewals still heard, only the wire is lost. -/
theorem State.HoldsOn.leaseTick_wireGone (hremain : 1 < s.fmn.remain) (hwire : s.tickCount.wireSilent = true)
    (hshed : s.tickCount.shedSilent = false) (hlost : s.fmn.wireLost = false) (hrel : (s.fm b).rel = none) :
    Keeps Fmn.standing s.ticked.wireGone s.leaseTick := by
  have hnone : s.tickCount.tickCauses = [] := h.tickCauses.trans (State.expiry_none hremain (.inr hshed))
  have hfm (d : Bool) : s.ticked.wireGone.fm d = s.fm d := State.fm_irq _ _ _
  obtain ⟨u, hu, hrest⟩ := State.tickRest_held (s := s.ticked.wireGone) (b := b) (cp := false)
    (by rw [State.wireGone, State.irq_fmn]; exact h.holder) (by rw [hfm, h.fault]) (by rw [hfm, hrel])
  rw [State.leaseTick_eq, State.tickRevoke_wire hnone h.held hwire hlost, h.cp, hrest]
  exact hu.to_standing.trans .tickEnd

end

/-- A standing cause above 2 is the highest. -/
theorem State.leaseTick_standing (hh : s.fmn.holder = fmCode b) (hst : (s.fm b).st = .active) (hfault : (s.fm !b).fault = false)
    (hclaim : (s.fm !b).claim = false) (hc : 2 ≤ c) (hcauses : s.fmn.causes = [c]) (hcp : s.cpBegins = false) : Revoked s b c s.leaseTick := by
  have hall : s.tickCount.tickCauses = c :: s.expiry := by
    rw [State.tickCauses_held (hh ▸ fmCode_ne_zero b), hcauses, hcp]
    rfl
  refine State.leaseTick_revoked hh hst hfault hclaim ?_ ?_
  · rw [hall]
    exact List.mem_cons_self
  · rw [hall]
    exact List.forall_mem_cons.mpr ⟨le_rfl, fun x hx => (State.expiry_le hx).trans hc⟩

/-- The beginning of a reset of the control plane is cause 6, the highest of all. -/
theorem State.leaseTick_reset (hh : s.fmn.holder = fmCode b) (hst : (s.fm b).st = .active) (hfault : (s.fm !b).fault = false)
    (hclaim : (s.fm !b).claim = false) (hcp : s.cpBegins = true) (hcauses : ∀ c ∈ s.fmn.causes, c ≤ 6) : Revoked s b 6 s.leaseTick := by
  have hall : s.tickCount.tickCauses = s.fmn.causes ++ [6] ++ s.expiry := by
    rw [State.tickCauses_held (hh ▸ fmCode_ne_zero b), hcp]
    rfl
  refine State.leaseTick_revoked hh hst hfault hclaim ?_ fun x hx => ?_
  · rw [hall]
    simp
  · rw [hall, List.mem_append, List.mem_append] at hx
    rcases hx with (hx | hx) | hx
    · exact hcauses x hx
    · exact (List.mem_singleton.mp hx).le
    · exact (State.expiry_le hx).trans (by decide)

/-! ### No holder -/

theorem State.leaseTick_headless (h : s.fmn.holder = 0) : s.leaseTick = s.ticked.tickRest s.cpBegins := by
  rw [State.leaseTick_eq, State.tickRevoke_quiet (State.tickCauses_headless h) (.inl h)]

theorem State.holder_leaseTick_reset (h : s.fmn.holder = 0) (hcp : s.cpBegins = true) : s.leaseTick.fmn.holder = 0 := by
  rw [State.leaseTick_headless h, hcp]
  exact State.tickRest_headless (s := s.ticked) h

/-! ### Edges and island faults -/

theorem exec_heartbeatWireEdge : ∃ t, exec (.heartbeatWireEdge b) s = .next t ∧ (t.fm b).wireAt = s.fmn.tick ∧
    t.fmn.wireLost = (s.fmn.wireLost && !s.holds b) ∧ t.fm (!b) = s.fm (!b) ∧ t.fmn.holder = s.fmn.holder ∧ t.regs = s.regs := by
  refine ⟨_, rfl, ?_⟩
  cases hb : s.holds b
  · cases b <;> exact ⟨rfl, (Bool.and_true _).symm, rfl, rfl, rfl⟩
  · cases b <;> exact ⟨rfl, (Bool.and_false _).symm, rfl, rfl, rfl⟩

theorem exec_islandFault_held (h : s.holds b = true) : exec (.islandFault b) s = .next (s.modFmn (fun f => { f with causes := f.causes ++ [5] })) :=
  congrArg Host.Outcome.next (if_pos h)

theorem exec_islandFault_unheld (h : s.holds b = false) : exec (.islandFault b) s =
    .next (s.when (s.fm b).powered (·.modFm b (fun f => { f with fault := true, claim := false }))) :=
  congrArg Host.Outcome.next (if_neg (by simp [h]))

end

/-! ### The obligation -/

section
variable {s : State} {b : Bool} {c : Nat} {r : Word}

/-- A tick that revokes the holder, as the command's outcome. -/
theorem Revoked.outcome {o : Host.Outcome State Fault Refusal} (h : Revoked s b c s.leaseTick) (ho : o = .next s.leaseTick) :
    ∃ t, o = .next t ∧ t.fmn.holder = 0 ∧ t.fmn.remain = 0 ∧ t.fmn.gen = s.fmn.gen ∧ (t.fm b).revoked = true ∧
      (t.fm b).st = (if s.fmnCfg 4 then .held else .standby) ∧ t.reg 0x30064 = w32 (c + b.toNat * 2 ^ 3 + fld s.bolt 0 28 * 2 ^ 4) ∧
      t.reg 0x30068 = s.reg 0x30068 + 1 ∧ t.rb 0x30010 0 = true ∧
      (s.pwr.tripped = false → s.fmnCfg 0 = true → (s.fm !b).st = .off → (t.fm !b).st = .boot) ∧
      (s.fmnCfg 0 = false → (t.fm !b).st = (s.fm !b).st) :=
  ⟨_, ho, h.holder, h.remain, h.gen, h.revoked, h.st, h.cause, h.count, h.raised, h.boots, h.stays⟩

theorem exec_leaseTick_goes_on (hdue : s.tickDue = true) (h : s.HoldsOn b) (hremain : 1 < s.fmn.remain)
    (hwire : s.tickCount.wireSilent = false) (hrel : (s.fm b).rel = none) :
    ∃ t, exec .leaseTick s = .next t ∧ t.fmn.holder = s.fmn.holder ∧ t.fmn.gen = s.fmn.gen ∧ (∀ c, (t.fm c).st = (s.fm c).st) ∧
      t.fmn.tick = s.fmn.tick + 1 ∧ t.tickDue = !s.pwr.cdpOn ∧ t.fmn.remain = (match (s.fm b).renew with
        | some r => if fld r 0 16 = fld s.fmn.gen 0 16 then s.leaseLen else s.fmn.remain - 1
        | none => s.fmn.remain - 1) := by
  obtain ⟨u, hu, htick⟩ := h.leaseTick_goes_on hremain hwire hrel
  have hkept : Keeps Fmn.standing s.ticked s.leaseTick := htick ▸ hu.to_standing.trans .tickEnd
  exact ⟨_, exec_leaseTick hdue, hkept.holder_standing, hkept.gen_standing, hkept.st_standing, hkept.tick_standing,
    State.tickDue_counted hdue hkept, h.remain_leaseTick hremain hwire hrel⟩

theorem exec_wireTimeout_wireGone (hdue : s.tickDue = true) (h : s.HoldsOn b) (hremain : 1 < s.fmn.remain)
    (hwire : s.tickCount.wireSilent = true) (hshed : s.tickCount.shedSilent = false) (hlost : s.fmn.wireLost = false)
    (hrel : (s.fm b).rel = none) :
    ∃ t, exec .wireTimeout s = .next t ∧ t.fmn.wireLost = true ∧ t.fmn.holder = s.fmn.holder ∧ t.rb 0x30010 3 = true := by
  have hkept := h.leaseTick_wireGone hremain hwire hshed hlost hrel
  refine ⟨_, exec_wireTimeout hdue h.held hwire, ?_, ?_, hkept.raw 3 (State.bit_irq_raised _ (by decide))⟩
  · rw [hkept.wireLost_standing, State.wireGone, State.irq_fmn]
    rfl
  · rw [hkept.holder_standing, State.wireGone, State.irq_fmn]
    rfl

theorem exec_leaseTick_grants (hdue : s.tickDue = true) (hh : s.fmn.holder = 0) (hcp : s.cpBegins = false)
    (hfault : ∀ c, (s.fm c).fault = false) (hclaim : (s.fm b).claim = true) (hmay : s.mayClaim b = true)
    (hfirst : b = s.prefer ∨ (s.fm !b).claim = false ∨ s.mayClaim (!b) = false) :
    ∃ t, exec .leaseTick s = .next t ∧ t.fmn.holder = fmCode b ∧ t.fmn.gen = nextGen s.fmn.gen ∧ t.fmn.remain = s.leaseLen ∧
      (t.fm b).st = .active ∧ t.rb 0x30010 1 = true := by
  refine ⟨_, exec_leaseTick hdue, ?_⟩
  rw [State.leaseTick_headless hh, hcp]
  exact State.tickRest_granted (s := s.ticked) hh hfault hclaim hmay hfirst

section
variable (hdue : s.tickDue = true) (h : s.HoldsOn b) (hclaim : ∀ c, (s.fm c).claim = false) (hrel : (s.fm !b).rel = none)
  (hremain : 1 < s.fmn.remain) (hwire : s.tickCount.wireSilent = false) (hr : (s.fm b).rel = some r)
  (hgen : fld r 16 16 = fld s.fmn.gen 0 16)
include hdue h hrel hremain hwire hr hgen

include hclaim in
theorem exec_leaseTick_up (hto : fld r 0 2 = 0) :
    ∃ t, exec .leaseTick s = .next t ∧ t.fmn.holder = 0 ∧ (t.fm b).st = .standby ∧ (t.fm b).stdbyAt = s.fmn.tick + 1 ∧
      t.reg 0x30064 = w32 (4 + b.toNat * 2 ^ 3 + fld s.bolt 0 28 * 2 ^ 4) ∧ t.reg 0x30068 = s.reg 0x30068 := by
  have hkept : Keeps Fmn.standing (s.ticked.released b) s.leaseTick := by
    rw [h.leaseTick_rest hremain hwire]
    exact State.tickRest_up (s := s.ticked) h.holder hgen h.fault hrel hr hto hclaim
  have hfm := State.fm_released (s := s.ticked) (b := b)
  refine ⟨_, exec_leaseTick hdue, ?_, ?_, ?_, ?_, ?_⟩
  · rw [hkept.holder_standing]
    exact State.holder_modFm _ _
  · rw [hkept.st_standing, hfm]
    rfl
  · rw [hkept.stdbyAt_standing, hfm]
    rfl
  · exact (hkept.reg _ (.inr (by decide)) (by decide)).trans (s.ticked.reg_setReg_same _ _)
  · exact (hkept.reg _ (.inr (by decide)) (by decide)).trans (s.ticked.reg_setReg_other _ (by decide))

theorem exec_leaseTick_over (hto : fld r 0 2 = fmCode !b) (hready : s.ready (!b) = true) :
    ∃ t, exec .leaseTick s = .next t ∧ t.fmn.holder = fmCode !b ∧ t.fmn.gen = nextGen s.fmn.gen ∧ (t.fm !b).st = .active ∧
      (t.fm b).st = .standby ∧ t.reg 0x30064 = w32 (4 + b.toNat * 2 ^ 3 + fld s.bolt 0 28 * 2 ^ 4) := by
  obtain ⟨u, hu, hkept⟩ := State.tickRest_over (s := s.ticked) (cp := false) h.holder hgen h.fault hrel hr hto hready
  rw [← h.leaseTick_rest hremain hwire] at hkept
  obtain ⟨hholder, hnext, -⟩ := u.granted_lease (b := !b) true
  have hother := (u.granted_other (b := !b) true).1
  rw [Bool.not_not] at hother
  refine ⟨_, exec_leaseTick hdue, hkept.holder_standing.trans hholder, ?_, ?_, ?_, ?_⟩
  · rw [hkept.gen_standing, hnext, hu.gen, State.passing, State.gen_modFm]
    rfl
  · rw [hkept.st_standing, State.st_granted]
  · rw [hkept.st_standing, hother, hu.st, State.passing, State.fm_modFm_same]
    rfl
  · rw [hkept.reg _ (.inr (by decide)) (by decide), State.reg_granted true (by decide), hu.reg _ (.inr (by decide)) (by decide)]
    exact s.ticked.reg_setReg_same _ _

theorem exec_leaseTick_refused (hto : fld r 0 2 = fmCode b ∨ fld r 0 2 = 3) :
    ∃ t, exec .leaseTick s = .next t ∧ t.fmn.holder = s.fmn.holder ∧ t.fmn.gen = s.fmn.gen ∧
      t.reg 0x30020 = w32 (0x80000000 + (if b then 65 else 64) * 0x1000 + 0x58) := by
  have hkept : Keeps Fmn.standing (s.ticked.errlog (fmnA 0) 0x58 (if b then 65 else 64)) s.leaseTick := by
    rw [h.leaseTick_rest hremain hwire]
    exact State.tickRest_refused (s := s.ticked) h.holder hgen h.fault hrel hr hto
  refine ⟨_, exec_leaseTick hdue, hkept.holder_standing, hkept.gen_standing, ?_⟩
  refine (hkept.reg _ (.inr (by decide)) (by decide)).trans ((s.ticked.reg_setReg_same _ _).trans ?_)
  cases b <;> rfl

end

end

/-- Settles O49, clause by clause: a tick is its count, its revocation and what is pending (`State.leaseTick_eq`), and each stage is one rule on what
the lease keeps. -/
theorem leaseTicks : Obligations.LeaseTicks := by
  intro s m v b kept
  refine ⟨fun hreach => ?_, fun hreach => ?_, fun hreach => ?_, fun hdue => ?_, fun hdue => ?_, exec_heartbeatWireEdge, exec_islandFault_held,
    fun hunheld => ?_⟩
  · exact leaseWrite_outcome (by decide) (exec_fmnLeaseClaim_reaches hreach)
  · exact leaseWrite_outcome (by decide) (exec_fmnLeaseRenew_reaches hreach)
  · exact leaseWrite_outcome (by decide) (exec_fmnLeaseRel_reaches hreach)
  · exact ⟨exec_leaseTick_not hdue, exec_leaseExpire_not (.inl hdue), exec_wireTimeout_not (.inl hdue)⟩
  · intro silent cause revoked holdsOn idle
    have hon : holdsOn → s.HoldsOn b := by
      rintro ⟨hholder, hst, hfault, hcauses, hcp⟩
      exact ⟨hholder, hst, hfault, hcauses, hcp⟩
    have htick := exec_leaseTick hdue
    refine ⟨?_, ?_, ?_, ?_, ?_, ?_, ?_, ?_, ?_, ?_, ?_⟩
    · exact fun h => exec_leaseTick_goes_on hdue (hon h)
    · rintro h ⟨-, hclaim, -⟩ hremain hwire
      have hrevoked := (hon h).leaseTick_expired hclaim (State.expiry_end hremain hwire)
      exact ⟨hrevoked.outcome htick, hrevoked.outcome (exec_leaseExpire hdue (hon h).held hremain)⟩
    · rintro h ⟨-, hclaim, -⟩ hwire hend
      have hrevoked := (hon h).leaseTick_expired hclaim (State.expiry_silent hwire hend)
      exact ⟨hrevoked.outcome (exec_wireTimeout hdue (hon h).held hwire), hrevoked.outcome htick⟩
    · rintro c hc hh hst hfault ⟨-, hclaim, -⟩ hcauses hcp
      have hhigh : 2 ≤ c := by simp at hc; omega
      exact (State.leaseTick_standing hh hst hfault hclaim hhigh hcauses hcp).outcome htick
    · rintro hh hst hfault ⟨-, hclaim, -⟩ hcp hcauses
      exact (State.leaseTick_reset hh hst hfault hclaim hcp hcauses).outcome htick
    · exact fun hh hcp => ⟨_, htick, State.holder_leaseTick_reset hh hcp⟩
    · exact fun h _ hrel hremain hwire hshed hlost => exec_wireTimeout_wireGone hdue (hon h) hremain hwire hshed hlost hrel
    · exact fun h => exec_wireTimeout_not (.inr h)
    · exact fun h => exec_leaseExpire_not (.inr h)
    · exact exec_leaseTick_grants hdue
    · rintro r h ⟨hself, hother, hrel⟩ hremain hwire hr hgen
      have hclaim (c : Bool) : (s.fm c).claim = false := by
        rcases Bool.eq_or_eq_not c b with rfl | rfl
        · exact hself
        · exact hother
      exact ⟨exec_leaseTick_up hdue (hon h) hclaim hrel hremain hwire hr hgen, exec_leaseTick_over hdue (hon h) hrel hremain hwire hr hgen,
        exec_leaseTick_refused hdue (hon h) hrel hremain hwire hr hgen⟩
  · constructor
    · intro hpowered
      rw [exec_islandFault_unheld hunheld, hpowered]
      rfl
    · intro hpowered
      rw [exec_islandFault_unheld hunheld, hpowered]
      rfl

end Sys2Proof.Machine
